-- ==== Sys2Proof/Word.lean ====
section
/-! DEFINITION. The word types of the Uliuth: bytes, 32-bit vector words and instruction words, and 64-bit scalar words
(R15, R140, R161). -/

namespace Sys2Proof

/-- A byte of memory. -/
abbrev Byte := BitVec 8

/-- A vector register of one thread, an instruction word, a clause header (R15, R140). -/
abbrev W32 := BitVec 32

/-- A scalar register, a mask of threads, a special register, an address (R18, R161). -/
abbrev W64 := BitVec 64

/-- A set of registers or handles by number: bit `i` is register `i`. -/
abbrev RegSet := BitVec 128

/-- An error that arises in a 32-byte sector (R308): one that the code corrects, one it cannot correct, in the Whorl or in memory, and one it
cannot correct in a core's near cache. -/
inductive SectorError where
  | corrected | uncorrectable
  | near (core : Nat)
  deriving DecidableEq, Repr

end Sys2Proof
end

