-- ==== Sys2Proof/Config.lean ====
section
/-! DEFINITION. What the spec leaves open, as constants with no body: nothing in Lean can evaluate one or prove a value of
it, so a claim holds whatever the part does. A free value that is fresh each time is applied to the counter `State.free`
(R4: "undefined values"). -/

namespace Sys2Proof.Config

/-- An undefined 32-bit register value (R4, R148 "Matrix registers"). (DEDUCED, log 11, safe.) -/
opaque freeWord : Nat → W32

/-- An undefined choice between two outcomes the spec allows. (DESIGN CHOICE, log 57, safe.) -/
opaque freeBit : Nat → Bool

/-- Which of `n` things allowed to come next comes next (R36, R95, R119, R232): the index is taken modulo `n`.
(DESIGN CHOICE, log 6, 7, safe.) -/
opaque freePick : Nat → Nat

/-- The status a host's or peer's answer carries (R120, R335). (DESIGN CHOICE, log 53, safe.) -/
opaque freeStatus : Nat → BitVec 2

/-- The part's 2^x, an approximation within the bound of Table 4.9 (R76, R78). (DESIGN CHOICE, log 20, safe.) -/
opaque exp2 : W32 → W32

/-- The part's log2 x (R76, R78). (DESIGN CHOICE, log 20, safe.) -/
opaque log2 : W32 → W32

/-- The part's sine (R76, R78). (DESIGN CHOICE, log 20, safe.) -/
opaque sin : W32 → W32

/-- The part's cosine (R76, R78). (DESIGN CHOICE, log 20, safe.) -/
opaque cos : W32 → W32

/-- The part's hyperbolic tangent (R76, R78). (DESIGN CHOICE, log 20, safe.) -/
opaque tanh : W32 → W32

/-- How many nanoseconds of device reference time pass in a step (R12): timing is outside the model.
(DESIGN CHOICE, log 4, unsafe.) -/
opaque nanoseconds : Nat → BitVec 16

/-- How many cycles the fetch of a sector is estimated to take (R97): the spec gives none. (DESIGN CHOICE, log 181, safe.) -/
opaque fillCycles : Nat → Nat

/-- How many lines a front's merge queue holds an entry for (R137, R303): the spec gives no number. (DESIGN CHOICE, log 185, safe.) -/
opaque mergeEntries : Nat

/-- Whether the host routes an address back to this device's own memory window (R120, R328): the address map is the host's.
(DESIGN CHOICE, log 165, safe.) -/
opaque hostRoutesBack : Nat → Bool

/-- This device's own node number among Skein peers (R120, R335). (DESIGN CHOICE, log 54, safe.) -/
opaque node : BitVec 16

/-- The serial number a shipped part carries (R332). (DESIGN CHOICE, log 147, safe.) -/
opaque serial : BitVec 128

/-- Digests and key hashes that SPDM blocks hold (R339), by block and word: of images and keys the spec does not give.
(DESIGN CHOICE, log 147, safe.) -/
opaque digest : Nat → Nat → W64

/-- The digest a firmware image carries of its body, by word (R338, R339). (DESIGN CHOICE, log 147, safe.) -/
opaque imageDigest : List Byte → Nat → W64

/-- The part's signature over a measurement response with its ECDSA key, and with its LMS key (R339).
(DESIGN CHOICE, log 147, safe.) -/
opaque ecdsaSign : List W64 → W64
/-- DESIGN CHOICE, log 147, safe. -/
opaque lmsSign : List W64 → W64

/-- Whether a firmware image verifies under the part's fused key hashes, its digest among that (R338): its format is not given.
(DESIGN CHOICE, log 147, safe.) -/
opaque firmwareVerifies : List Byte → Bool

/-- The rollback index in a firmware image's header (R338). (DESIGN CHOICE, log 147, safe.) -/
opaque firmwareIndex : List Byte → W32

/-- The device address of the context table (R261, R263), which firmware gives. (DESIGN CHOICE, log 115, safe.) -/
opaque contextTable : W64

/-- The dirty map the Distaff gives a sequence it admits (Table 17.8, R277): the spec names none.
(DESIGN CHOICE, log 100, safe.) -/
opaque dirtyMap : Nat → W64

/-- The capacity of the device on a second-tier port, as enumeration finds it (R334). (DESIGN CHOICE, log 120, unsafe.) -/
opaque tierCapacity : Nat → Nat

/-- The frame the memory manager takes for a page or table it moves or makes (R290, R325): its choice among free ones.
(DESIGN CHOICE, log 116, unsafe.) -/
opaque spareFrame : Nat → Nat

end Sys2Proof.Config
end

