-- ==== Sys2Proof/Syntax.lean ====
section
/-! DEFINITION. The instruction set of the Uliuth as one inductive: a constructor for every row of the table of
operations and events (spec/opcode_table.json): 249 one-word instructions, 29 two-word long forms and 99 device steps
that have no encoding. Register fields are 7 bits wide (R145), `ea`, `eb`, `ed` ... are e-bits (R148, true = trap on
empty), `byp` is the bypass bit (R91). Field order follows the table, high bits first. The device steps stand first, the
words after them in the table's order. -/

namespace Sys2Proof

/-- One row of the table of operations and events each. -/
inductive Instr where
  /-- SLOT_ARBITRATION (R36). When an issue slot falls free, the quarter chooses among ready waves. -/
  | slotArbitration (quarter : Nat)
  /-- STARVATION_PROMOTION (R36). A ready wave that has not issued for 2,048 cycles is promoted at the next slot decision. -/
  | starvationPromotion (wave : Nat)
  /-- LOAD_DATA_RETURN (R148). Data of a long-latency producer returns and marks its destination full. -/
  | loadDataReturn (wave : Nat) (id : Nat)
  /-- ACCESS_RETIRE (R123). An access retires in program order, binding a load value and advancing or releasing the checkpoint. -/
  | accessRetire (wave : Nat)
  /-- STORE_BUFFER_LEAVE (R125). The oldest store, atomic or reduction leaves the store buffer toward its home. -/
  | storeBufferLeave (wave : Nat)
  /-- INVALIDATION_ARRIVAL (R126). An invalidation reaches a core, which acknowledges it and rolls back affected speculative waves. -/
  | invalidationArrival (core : Nat) (line : Nat)
  /-- EVICTION_NOTICE (R303). A core's eviction notice reaches the home, updating the directory or counting as an acknowledgement. -/
  | evictionNotice (core : Nat) (line : Nat)
  /-- NOTICE_COMPLETION (R303). The home's notice completion reaches the core and frees its notice buffer. -/
  | noticeCompletion (core : Nat) (line : Nat)
  /-- ACKNOWLEDGEMENT (R304). An invalidation acknowledgement reaches the home. -/
  | acknowledgement (core : Nat) (line : Nat)
  /-- FRONT_REQUEST_ACCEPT (R95). A Whorl front accepts arrived requests in priority order and serves them. `front` is the Whorl, with
  the errors that have arisen since its last: each a 32-byte sector, and of what kind (R308). -/
  | frontRequestAccept (front : Nat × List (Nat × SectorError))
  /-- RETRY_TIMER_EXPIRY (R98). A refused request's retry timer expires and it is resent, urgent after eight refusals. -/
  | retryTimerExpiry (wave : Nat) (id : Nat) (line : Nat)
  /-- HOLD_TIMEOUT (R132). 2,000 front cycles after a grant the hold ends and deferred invalidations are delivered. -/
  | holdTimeout (whorl : Nat)
  /-- TILE_LANDING (R88). A tile in motion lands at slot 0 and a landing shift runs outward. -/
  | tileLanding (whorl : Nat)
  /-- FILL_COMPLETE (R87). A sector fill from memory completes and its waiters are served. `fetched` is the 64-byte sector, with those
  of its 32-byte sectors whose error the code could not correct. -/
  | fillComplete (whorl : Nat) (fetched : Nat × List Nat)
  /-- SCRATCH_MOTION_START (R101). A held scratch-pin motion starts when a motion buffer entry falls free. -/
  | scratchMotionStart (whorl : Nat)
  /-- PORT_CAP_LOOP (R99). Every 4,096 front cycles the per-core port caps are adjusted. -/
  | portCapLoop (whorl : Nat)
  /-- TRANSCENDENTAL_START (R191). The transcendental unit starts a word when the previous word has left it. -/
  | transcendentalStart (quarter : Nat)
  /-- TRANSCENDENTAL_RESULT (R191). A transcendental result fills vd and raises its flags. -/
  | transcendentalResult (quarter : Nat)
  /-- SLEEP_DEADLINE (R170). nanotime reaches a sleeping wave's deadline and it becomes ready. -/
  | sleepDeadline (wave : Nat)
  /-- BARRIER_WAIT_COMPLETE (R173). Waits on an ended phase complete 4 or 12 cycles later. -/
  | barrierWaitComplete (wave : Nat)
  /-- STREAM_PREFETCH (R102). The stream engine fetches a step ahead of reads. -/
  | streamPrefetch (wave : Nat) (port : Nat)
  /-- QUEUE_FETCH (R105). The affine engine fetches a load-queue entry. -/
  | queueFetch (wave : Nat) (queue : Nat)
  /-- STORE_QUEUE_DRAIN (R105). A store-queue entry drains as a store. -/
  | storeQueueDrain (wave : Nat) (queue : Nat)
  /-- SPINDLE_COMMAND_START (R212). The Spindle starts the command at its queue head once its guard resolves. -/
  | spindleCommandStart (core : Nat)
  /-- MATRIX_OPERATION_START (R218). The matrix unit starts the oldest ready queue head, gang members matching. `unit` is its quarter, with
  how many rows it runs now at most. -/
  | matrixOperationStart (unit : Nat × Nat)
  /-- MATRIX_OPERATION_COMPLETE (R226). A matrix operation completes and cnt.mx falls in every member. -/
  | matrixOperationComplete (quarter : Nat)
  /-- WHORL_PARTIAL (R232). A Whorl computes its partial attention triple over its homed positions. -/
  | whorlPartial (wave : Nat) (id : Nat) (whorl : Nat)
  /-- PARTIAL_MERGE (R232). The return network merges two partial triples; the last merge completes the operation. -/
  | partialMerge (wave : Nat) (id : Nat)
  /-- CARDER_ROUND (R238). The Carder runs a round once the sequence's round-busy bit is clear. -/
  | carderRound (floor : Nat)
  /-- CARDER_RECORD_READ (R239). At its turn a CRDR reads the round record into registers. -/
  | carderRecordRead (floor : Nat)
  /-- DISTAFF_READ (R243). A guarded STEPQ or SEQRD starts its device-memory read. -/
  | distaffRead (wave : Nat)
  /-- HOST_SNOOP (R254). The host snoops a space-3 line; the home answers after applying accepted merges. `payload` is what the host
  writes there, with whether it is marked as poisoned. -/
  | hostSnoop (line : Nat) (payload : List (BitVec 8) × Bool)
  /-- CXL_MEM_READ (R329). A host CXL.mem read of the HDM window, served at the home Whorl. -/
  | cxlMemRead (addr : Nat) (n : Nat)
  /-- CXL_MEM_WRITE (R329). A host CXL.mem write of the HDM window, served at the home Whorl. `payload` is its data, with whether
  they are marked as poisoned. -/
  | cxlMemWrite (addr : Nat) (payload : List (BitVec 8) × Bool)
  /-- HOST_COMPLETION (R119). A space-4 load, AtomicOp or FENCEH completion returns from the host. -/
  | hostCompletion (wave : Nat) (status : BitVec 2)
  /-- PEER_ACKNOWLEDGEMENT (R119). A peer's home acknowledges a space-5 access over Skein. -/
  | peerAcknowledgement (wave : Nat) (status : BitVec 2)
  /-- PEER_REQUEST (R335). An incoming space-5 request from a peer is translated and served. `payload` is its data, with whether they
  are marked as poisoned. -/
  | peerRequest (tag : BitVec 8) (va : BitVec 64) (kind : BitVec 2) (fn : Nat) (n : Nat) (payload : List (BitVec 8) × Bool) (cmp : List (BitVec 8))
  /-- PRI_RESPONSE (R328). The host answers a PRI page request and the record is resolved. -/
  | priResponse (tag : BitVec 8) (index : Nat) (ok : Bool)
  /-- PRI_TIMEOUT (R333). A PRI request unanswered for 1 s posts an event of kind 2. -/
  | priTimeout (tag : BitVec 8) (index : Nat)
  /-- PAGE_WALK (R282). A walker reads the page tables for a translation miss: of the shared TLB of Whorl `cache`, or of the Carder of
  floor `cache - 16`, for an access to a page. -/
  | pageWalk (cache : Nat) (tag : BitVec 8) (va : BitVec 64) (access : BitVec 2)
  /-- TLBINV_COMPLETE (R286). A TLBINV completes once performed at every agent. -/
  | tlbinvComplete (wave : Nat)
  /-- FRES_RETRY (R289). A fres write with deny 0 makes every attached request walk again. -/
  | fresRetry (tag : BitVec 8) (index : Nat)
  /-- FRES_DENY (R289). A fres write with deny 1 terminates the attached requests' launches. -/
  | fresDeny (tag : BitVec 8) (index : Nat)
  /-- PAGE_MOVE (R290). The memory manager moves a page between frames or tiers. -/
  | pageMove (tag : BitVec 8) (va : BitVec 64) (tier : Bool) (frame : Nat)
  /-- EVENT_RING_DENY_TIMEOUT (R287). With the event ring disabled, an unexplained resolvable record is denied after 1 s. -/
  | eventRingDenyTimeout (tag : BitVec 8) (index : Nat)
  /-- LQTAIL (R265). A write of a launch queue tail doorbell. -/
  | lqtail (tag : BitVec 8) (level : Nat) (value : BitVec 32)
  /-- LAUNCH_FETCH (R267). The command processor fetches and checks a launch record and its kernel header. -/
  | launchFetch (tag : BitVec 8) (level : Nat)
  /-- TEAM_PLACEMENT (R272). The scheduler places eligible teams by first fit. -/
  | teamPlacement
  /-- LEVEL_RAISE (R269). Every 2 ms eligible but unplaced, a launch's level rises by one. -/
  | levelRaise (launch : Nat)
  /-- RESERVE (R272). After 8 ms eligible with no team placed, a launch reserves. -/
  | reserve (launch : Nat)
  /-- GRDARM (R273). A grdarm doorbell write arms a guard slot. -/
  | grdarm (tag : BitVec 8) (slot : BitVec 8)
  /-- GRDSET_DOORBELL (R273). A grdset doorbell write resolves a guard slot. -/
  | grdsetDoorbell (tag : BitVec 8) (slot : BitVec 8) (value : Bool)
  /-- ADMTAIL (R276). A write of the admission ring tail doorbell. -/
  | admtail (tag : BitVec 8) (value : BitVec 32)
  /-- CPLHEAD (R279). The host writes the completion ring head after reading. -/
  | cplhead (tag : BitVec 8) (value : BitVec 32)
  /-- CANCEL (R278). A cancel doorbell write requests a sequence's retirement. -/
  | cancel (tag : BitVec 8) (seq : BitVec 32)
  /-- DISTAFF_STEP (R278). The Distaff writes slab lengths and a step entry and submits the step's chain. -/
  | distaffStep (tag : BitVec 8)
  /-- STEP_COMMIT (R278). After a step commits, the Distaff applies it, runs the stop test and resolves the next guard. -/
  | stepCommit (tag : BitVec 8)
  /-- SEQUENCE_RETIREMENT (R279). A sequence retires and posts a completion entry. -/
  | sequenceRetirement (slot : Nat)
  /-- POISON_REPORT (R322). A front's report of an uncorrectable error in a dirty sector reaches the command processor, with the
  owner tag its tile carried, if any (R310). -/
  | poisonReport (addr : Nat) (tag : Option (BitVec 8))
  /-- TERMINATING_CAUSE (R314). The command processor decides replay or termination for a terminating cause. -/
  | terminatingCause (launch : Nat)
  /-- FRAME_RETIRE (R325). The memory manager retires a damaged frame, for a reason and with the owner that a report named. -/
  | frameRetire (tier : Bool) (frame : Nat) (reason : BitVec 8 × Option (BitVec 8))
  /-- PREEMPTION_REQUEST (R293). A pre-emption request stops a team's issue and halts its cores. -/
  | preemptionRequest (team : Nat)
  /-- TEAM_SAVE (R294). The Spindle saves the halted team into a team block. -/
  | teamSave (team : Nat)
  /-- SAVE_SEAL (R294). The team block is sealed when every saved counter reaches zero. -/
  | saveSeal (team : Nat)
  /-- TEAM_RESTORE (R298). A sealed team is placed and restored from its block. -/
  | teamRestore (team : Nat) (core : Nat)
  /-- PAIR_COMPARISON (R318). Two paired copies compare signatures at a comparison point. -/
  | pairComparison (waveA : Nat) (waveB : Nat)
  /-- ISLAND_CONTROL_LOOP (R336). Every 10 μs an island's loop picks its frequency. -/
  | islandControlLoop (cls : BitVec 4) (index : Nat) (droopMHz : Nat) (shareMHz : Nat)
  /-- MODULE_POWER_LOOP (R13). The module power loop holds the limit averaged over each 1 ms. -/
  | modulePowerLoop (avgWatts : Nat)
  /-- FAST_CLAMP (R336). A draw above 3,400 W over 10 μs halves every matrix island frequency. -/
  | fastClamp (watts : Nat)
  /-- THERMAL_LIMIT (R336). Above 100 °C islands step down and an event of kind 4 is posted. -/
  | thermalLimit (cls : BitVec 4) (index : Nat)
  /-- THERMAL_TRIP (R336). At 110 °C every context terminates, islands stop and error 7 is set. -/
  | thermalTrip
  /-- RETENTION_WINDOW_LOOP (R306). Every 100 μs a turn group's loop sets ω from its temperature. -/
  | retentionWindowLoop (whorl : Nat) (group : Nat) (temp : Nat)
  /-- ROW_GROUP_REFRESH (R305). A row group whose stamp is older than ω - 4 μs is refreshed. -/
  | rowGroupRefresh (whorl : Nat) (group : Nat) (found : List (Nat × Bool))
  /-- PERST_DEASSERTION (R331). PERST# deassertion starts staged start-up at S0 with firmware verification. -/
  | perstDeassertion
  /-- STAGE_ADVANCE (R331). Start-up work of a stage completes and the next stage is entered. -/
  | stageAdvance (error : BitVec 8)
  /-- FUNCTION_LEVEL_RESET (R337). Function Level Reset performs a warm reset without retention. -/
  | functionLevelReset
  /-- STAGE_DROPPED_CLEAR (R330). Writing 1 to stage.dropped clears it. -/
  | stageDroppedClear
  /-- IDENTIFY (R332). Mailbox command returning part number, stage and serial number. -/
  | identify
  /-- FWLOAD (R338). Mailbox command that loads and verifies a firmware image. -/
  | fwload
  /-- ROLLFWD (R338). Mailbox command raising the fused rollback counter. -/
  | rollfwd
  /-- EVRING (R332). Mailbox command setting evbase and evctl. -/
  | evring
  /-- CTXWRITE (R261). Mailbox command writing a context descriptor. -/
  | ctxwrite
  /-- PARTSET (R262). Mailbox command setting partitions and weights. -/
  | partset
  /-- WSTAT (R307). Mailbox command returning a Whorl status record. -/
  | wstat
  /-- RETLIST (R291). Mailbox command copying the retired-frame list. -/
  | retlist
  /-- ISLCAP (R332). Mailbox command setting an island class frequency cap and the power limit. -/
  | islcap
  /-- SKROUTE (R335). Mailbox command setting a peer node's port mask. -/
  | skroute
  /-- RESET (R337). Mailbox command requesting a warm reset, optionally with retention. -/
  | reset
  /-- SKEIN_PORT_DOWN (R335). A Skein port goes down; traffic moves and an event of kind 5 is posted. -/
  | skeinPortDown (port : Nat)
  /-- SKEIN_PORT_UP (R335). A Skein port finishes retraining and carries traffic again. -/
  | skeinPortUp (port : Nat)
  /-- SKEIN_PEER_TIMEOUT (R335). A peer with no port up for 10 ms ends its outstanding space-5 accesses with 0x07. -/
  | skeinPeerTimeout (node : BitVec 16)
  /-- CXL_PORT_DOWN (R334). A second-tier port goes down; accesses return poison and an event of kind 6 is posted. -/
  | cxlPortDown (port : Nat)
  /-- CXL_PORT_UP (R334). A second-tier port retrains and its range is served again. -/
  | cxlPortUp (port : Nat)
  /-- SPDM_REQUEST (R339). An SPDM request over DOE is answered with dual-signed measurements. -/
  | spdmRequest (block : Nat)
  /-- REGISTER_WRITE (R3). A write to a register that has no row of its own, following its access codes. -/
  | registerWrite (offset : Nat) (value : BitVec 64)
  /-- ILLEGAL_INSTRUCTION (R152). A word in instruction position whose encoding the opcode map does not define issues and traps 0x01 before any effect. -/
  | illegalInstruction (word : BitVec 32)
  /-- CXL_CACHE_OWNERSHIP_GRANT (R119). The host grants the home Whorl CXL.cache ownership of a space-3 line, after which the waiting write is performed. -/
  | cxlCacheOwnershipGrant (line : Nat)
  /-- BACK_INVALIDATE_RESPONSE (R329). The host answers the home's CXL back-invalidate snoop, letting the home perform a device write to a line the host may cache. -/
  | backInvalidateResponse (line : Nat)
  /-- ATS_TRANSLATION_COMPLETION (R328). The host's ATS translation completion for a space-3 address returns, filling the translation caches or, if refused, posting a resolvable fault record. -/
  | atsTranslationCompletion (pasid : BitVec 20) (va : BitVec 64) (granted : Bool) (frame : Nat)
  /-- SADD (R162). Scalar add: sd = sa + sb, modulo 2^64. -/
  | sadd (d : BitVec 7) (a : BitVec 7) (b : BitVec 7) (ea : Bool) (eb : Bool)
  /-- SSUB (R162). Scalar subtract: sd = sa - sb. -/
  | ssub (d : BitVec 7) (a : BitVec 7) (b : BitVec 7) (ea : Bool) (eb : Bool)
  /-- SMUL (R162). Scalar multiply, low 64 bits of the product. -/
  | smul (d : BitVec 7) (a : BitVec 7) (b : BitVec 7) (ea : Bool) (eb : Bool)
  /-- SMULH (R162). Scalar multiply, high 64 bits of the signed product. -/
  | smulh (d : BitVec 7) (a : BitVec 7) (b : BitVec 7) (ea : Bool) (eb : Bool)
  /-- SMULHU (R162). Scalar multiply, high 64 bits of the unsigned product. -/
  | smulhu (d : BitVec 7) (a : BitVec 7) (b : BitVec 7) (ea : Bool) (eb : Bool)
  /-- SAND (R162). Scalar bitwise AND. -/
  | sand (d : BitVec 7) (a : BitVec 7) (b : BitVec 7) (ea : Bool) (eb : Bool)
  /-- SOR (R162). Scalar bitwise OR. -/
  | sor (d : BitVec 7) (a : BitVec 7) (b : BitVec 7) (ea : Bool) (eb : Bool)
  /-- SXOR (R162). Scalar bitwise exclusive-OR. -/
  | sxor (d : BitVec 7) (a : BitVec 7) (b : BitVec 7) (ea : Bool) (eb : Bool)
  /-- SSHL (R162). Scalar shift left by sb[5:0]. -/
  | sshl (d : BitVec 7) (a : BitVec 7) (b : BitVec 7) (ea : Bool) (eb : Bool)
  /-- SSHR (R162). Scalar logical shift right by sb[5:0]. -/
  | sshr (d : BitVec 7) (a : BitVec 7) (b : BitVec 7) (ea : Bool) (eb : Bool)
  /-- SSRA (R162). Scalar arithmetic shift right by sb[5:0]. -/
  | ssra (d : BitVec 7) (a : BitVec 7) (b : BitVec 7) (ea : Bool) (eb : Bool)
  /-- SMIN (R162). Scalar signed minimum. -/
  | smin (d : BitVec 7) (a : BitVec 7) (b : BitVec 7) (ea : Bool) (eb : Bool)
  /-- SMAX (R162). Scalar signed maximum. -/
  | smax (d : BitVec 7) (a : BitVec 7) (b : BitVec 7) (ea : Bool) (eb : Bool)
  /-- SMINU (R162). Scalar unsigned minimum. -/
  | sminu (d : BitVec 7) (a : BitVec 7) (b : BitVec 7) (ea : Bool) (eb : Bool)
  /-- SMAXU (R162). Scalar unsigned maximum. -/
  | smaxu (d : BitVec 7) (a : BitVec 7) (b : BitVec 7) (ea : Bool) (eb : Bool)
  /-- SANDN (R162). Scalar sa AND NOT sb. -/
  | sandn (d : BitVec 7) (a : BitVec 7) (b : BitVec 7) (ea : Bool) (eb : Bool)
  /-- SCEQ (R162). Scalar compare equal, writing 1 or 0. -/
  | sceq (d : BitVec 7) (a : BitVec 7) (b : BitVec 7) (ea : Bool) (eb : Bool)
  /-- SCNE (R162). Scalar compare not equal. -/
  | scne (d : BitVec 7) (a : BitVec 7) (b : BitVec 7) (ea : Bool) (eb : Bool)
  /-- SCLT (R162). Scalar compare signed less than. -/
  | sclt (d : BitVec 7) (a : BitVec 7) (b : BitVec 7) (ea : Bool) (eb : Bool)
  /-- SCLE (R162). Scalar compare signed less or equal. -/
  | scle (d : BitVec 7) (a : BitVec 7) (b : BitVec 7) (ea : Bool) (eb : Bool)
  /-- SCLTU (R162). Scalar compare unsigned less than. -/
  | scltu (d : BitVec 7) (a : BitVec 7) (b : BitVec 7) (ea : Bool) (eb : Bool)
  /-- SCLEU (R162). Scalar compare unsigned less or equal. -/
  | scleu (d : BitVec 7) (a : BitVec 7) (b : BitVec 7) (ea : Bool) (eb : Bool)
  /-- SSEL (R162). Scalar select: sd = old sd != 0 ? sa : sb. -/
  | ssel (d : BitVec 7) (a : BitVec 7) (b : BitVec 7) (ea : Bool) (eb : Bool)
  /-- SCBIT (R162). Scalar extract bit sb[5:0] of sa. -/
  | scbit (d : BitVec 7) (a : BitVec 7) (b : BitVec 7) (ea : Bool) (eb : Bool)
  /-- SADDI (R163). Scalar add sign-extended immediate. -/
  | saddi (d : BitVec 7) (a : BitVec 7) (imm : BitVec 8) (ea : Bool)
  /-- SANDI (R163). Scalar AND with sign-extended immediate. -/
  | sandi (d : BitVec 7) (a : BitVec 7) (imm : BitVec 8) (ea : Bool)
  /-- SORI (R163). Scalar OR with sign-extended immediate. -/
  | sori (d : BitVec 7) (a : BitVec 7) (imm : BitVec 8) (ea : Bool)
  /-- SXORI (R163). Scalar exclusive-OR with sign-extended immediate. -/
  | sxori (d : BitVec 7) (a : BitVec 7) (imm : BitVec 8) (ea : Bool)
  /-- SSHLI (R163). Scalar shift left by immediate 0-63. -/
  | sshli (d : BitVec 7) (a : BitVec 7) (imm : BitVec 8) (ea : Bool)
  /-- SSHRI (R163). Scalar logical shift right by immediate. -/
  | sshri (d : BitVec 7) (a : BitVec 7) (imm : BitVec 8) (ea : Bool)
  /-- SSRAI (R163). Scalar arithmetic shift right by immediate. -/
  | ssrai (d : BitVec 7) (a : BitVec 7) (imm : BitVec 8) (ea : Bool)
  /-- SCLTI (R163). Scalar signed compare less than immediate. -/
  | sclti (d : BitVec 7) (a : BitVec 7) (imm : BitVec 8) (ea : Bool)
  /-- SMOVI (R163). Load a sign-extended 19-bit immediate into sd. -/
  | smovi (d : BitVec 7) (imm : BitVec 19)
  /-- SINSH (R163). Insert a 16-bit immediate into halfword k of sd. -/
  | sinsh (d : BitVec 7) (k : BitVec 2) (imm : BitVec 16)
  /-- SGETX (R164). Copy exec into sd. -/
  | sgetx (d : BitVec 7)
  /-- SSETX (R164). Set exec from sa, rejoining if it changes. -/
  | ssetx (a : BitVec 7) (ea : Bool)
  /-- SANDX (R164). Save exec to sd and AND exec with sa. -/
  | sandx (d : BitVec 7) (a : BitVec 7) (ea : Bool)
  /-- SANDNX (R164). Save exec to sd and AND exec with NOT sa. -/
  | sandnx (d : BitVec 7) (a : BitVec 7) (ea : Bool)
  /-- SORX (R164). Save exec to sd and OR sa into exec. -/
  | sorx (d : BitVec 7) (a : BitVec 7) (ea : Bool)
  /-- SPOPC (R164). Count the set bits of sa. -/
  | spopc (d : BitVec 7) (a : BitVec 7) (ea : Bool)
  /-- SFFS (R164). Index of the lowest set bit of sa, 64 if none. -/
  | sffs (d : BitVec 7) (a : BitVec 7) (ea : Bool)
  /-- SFULLX (R164). Write the full mask 2^W - 1 to sd. -/
  | sfullx (d : BitVec 7)
  /-- SCLZ (R165). Count leading zero bits of sa. -/
  | sclz (d : BitVec 7) (a : BitVec 7) (ea : Bool)
  /-- SCTZ (R165). Count trailing zero bits of sa. -/
  | sctz (d : BitVec 7) (a : BitVec 7) (ea : Bool)
  /-- SBREV (R165). Reverse the bits of sa. -/
  | sbrev (d : BitVec 7) (a : BitVec 7) (ea : Bool)
  /-- SBSWAP (R165). Reverse the bytes of sa. -/
  | sbswap (d : BitVec 7) (a : BitVec 7) (ea : Bool)
  /-- SEXTB (R165). Sign-extend sa[7:0]. -/
  | sextb (d : BitVec 7) (a : BitVec 7) (ea : Bool)
  /-- SEXTH (R165). Sign-extend sa[15:0]. -/
  | sexth (d : BitVec 7) (a : BitVec 7) (ea : Bool)
  /-- SEXTW (R165). Sign-extend sa[31:0]. -/
  | sextw (d : BitVec 7) (a : BitVec 7) (ea : Bool)
  /-- SZEXTW (R165). Zero-extend sa[31:0]. -/
  | szextw (d : BitVec 7) (a : BitVec 7) (ea : Bool)
  /-- BR (R166). Unconditional branch relative to the clause header. -/
  | br (off : BitVec 22)
  /-- BRXZ (R166). Branch when exec is zero. -/
  | brxz (off : BitVec 22)
  /-- BRXNZ (R166). Branch when exec is nonzero. -/
  | brxnz (off : BitVec 22)
  /-- BRXALL (R166). Branch when exec is full over the wave width. -/
  | brxall (off : BitVec 22)
  /-- CALL (R166). Branch always and write the return address to s127. -/
  | call (off : BitVec 22)
  /-- BRZ (R166). Branch when the scalar is zero. -/
  | brz (a : BitVec 7) (ea : Bool) (off : BitVec 14)
  /-- BRNZ (R166). Branch when the scalar is nonzero. -/
  | brnz (a : BitVec 7) (ea : Bool) (off : BitVec 14)
  /-- BRNEG (R166). Branch when the scalar is negative. -/
  | brneg (a : BitVec 7) (ea : Bool) (off : BitVec 14)
  /-- BRPOS (R166). Branch when the scalar is positive. -/
  | brpos (a : BitVec 7) (ea : Bool) (off : BitVec 14)
  /-- JMPR (R167). Jump to the clause header at the address in sa. -/
  | jmpr (a : BitVec 7) (ea : Bool)
  /-- CALLR (R167). Call the address in sa, writing the return address to s127. -/
  | callr (a : BitVec 7) (ea : Bool)
  /-- RET (R167). Jump to the address in s127. -/
  | ret
  /-- SMFR (R159). Read a special register into a scalar. -/
  | smfr (s : BitVec 7) (spr : BitVec 12)
  /-- SMTR (R159). Write a scalar to a special register, revocably or irrevocably as Table 8.1 states. -/
  | smtr (s : BitVec 7) (spr : BitVec 12) (ea : Bool)
  /-- NOP (R168). No operation. -/
  | nop
  /-- YIELD (R168). End the run after the current clause. -/
  | yield
  /-- HALT (R39). Wait for all path counters to be zero, then retire the wave, releasing team resources with the last wave. -/
  | halt
  /-- TRAP (R169). Raise software trap 0x11 with an 8-bit detail. -/
  | trap (imm : BitVec 8)
  /-- TRET (R158). Return from the user trap handler, restoring exec and resuming at trpc. -/
  | tret
  /-- SPECBAR (R168). Wait, holding the slot, until the wave is non-speculative. -/
  | specbar
  /-- SLEEP (R170). Set a nanotime deadline and end the run. -/
  | sleep (a : BitVec 7) (ea : Bool)
  /-- BKPT (R169). Raise breakpoint trap 0x10. -/
  | bkpt
  /-- WAITC (R171). Wait until a path counter is at or below a threshold. -/
  | waitc (path : BitVec 3) (r : BitVec 7) (ea : Bool)
  /-- WAITR (R171). Wait until a vector register is full. -/
  | waitr (r : BitVec 7)
  /-- WAITS (R171). Wait until a scalar register is full. -/
  | waits (r : BitVec 7)
  /-- BARA (R175). Arrive at a named barrier with a count and receive a token. -/
  | bara (s : BitVec 7) (id : BitVec 5) (cnt : BitVec 7) (core : Bool) (ea : Bool)
  /-- BARW (R175). Wait for the barrier phase named by a token. -/
  | barw (id : BitVec 5) (tok : BitVec 7) (core : Bool) (ea : Bool)
  /-- BARAW (R175). Arrive at a named barrier and wait for that phase. -/
  | baraw (s : BitVec 7) (id : BitVec 5) (cnt : BitVec 7) (core : Bool) (ea : Bool)
  /-- BARI (R175). Arrive at a named barrier with no token. -/
  | bari (id : BitVec 5) (cnt : BitVec 7) (core : Bool) (ea : Bool)
  /-- PBLK (R149). Predicate-block prefix covering the next 1-8 words with then/else sets. -/
  | pblk (s : BitVec 7) (n : BitVec 3) (pattern : BitVec 8) (ea : Bool)
  /-- SLDB (R179). Scalar load byte, zero-extended. -/
  | sldb (d : BitVec 7) (o : BitVec 7) (h : BitVec 6) (byp : Bool) (ea : Bool)
  /-- SLDH (R179). Scalar load halfword, zero-extended. -/
  | sldh (d : BitVec 7) (o : BitVec 7) (h : BitVec 6) (byp : Bool) (ea : Bool)
  /-- SLDW (R179). Scalar load word, zero-extended. -/
  | sldw (d : BitVec 7) (o : BitVec 7) (h : BitVec 6) (byp : Bool) (ea : Bool)
  /-- SLDD (R179). Scalar load doubleword. -/
  | sldd (d : BitVec 7) (o : BitVec 7) (h : BitVec 6) (byp : Bool) (ea : Bool)
  /-- SLDBS (R179). Scalar load byte, sign-extended. -/
  | sldbs (d : BitVec 7) (o : BitVec 7) (h : BitVec 6) (byp : Bool) (ea : Bool)
  /-- SLDHS (R179). Scalar load halfword, sign-extended. -/
  | sldhs (d : BitVec 7) (o : BitVec 7) (h : BitVec 6) (byp : Bool) (ea : Bool)
  /-- SLDWS (R179). Scalar load word, sign-extended. -/
  | sldws (d : BitVec 7) (o : BitVec 7) (h : BitVec 6) (byp : Bool) (ea : Bool)
  /-- SSTB (R179). Scalar store byte. -/
  | sstb (d : BitVec 7) (o : BitVec 7) (h : BitVec 6) (byp : Bool) (ed : Bool) (ea : Bool)
  /-- SSTH (R179). Scalar store halfword. -/
  | ssth (d : BitVec 7) (o : BitVec 7) (h : BitVec 6) (byp : Bool) (ed : Bool) (ea : Bool)
  /-- SSTW (R179). Scalar store word. -/
  | sstw (d : BitVec 7) (o : BitVec 7) (h : BitVec 6) (byp : Bool) (ed : Bool) (ea : Bool)
  /-- SSTD (R179). Scalar store doubleword. -/
  | sstd (d : BitVec 7) (o : BitVec 7) (h : BitVec 6) (byp : Bool) (ed : Bool) (ea : Bool)
  /-- VADD (R184). Vector integer add. -/
  | vadd (d : BitVec 7) (a : BitVec 7) (b : BitVec 7) (ea : Bool) (eb : Bool)
  /-- VSUB (R184). Vector integer subtract. -/
  | vsub (d : BitVec 7) (a : BitVec 7) (b : BitVec 7) (ea : Bool) (eb : Bool)
  /-- VMULLO (R184). Vector multiply, low 32 bits. -/
  | vmullo (d : BitVec 7) (a : BitVec 7) (b : BitVec 7) (ea : Bool) (eb : Bool)
  /-- VMULHI (R184). Vector multiply, high 32 bits signed. -/
  | vmulhi (d : BitVec 7) (a : BitVec 7) (b : BitVec 7) (ea : Bool) (eb : Bool)
  /-- VMULHU (R184). Vector multiply, high 32 bits unsigned. -/
  | vmulhu (d : BitVec 7) (a : BitVec 7) (b : BitVec 7) (ea : Bool) (eb : Bool)
  /-- VMIN (R184). Vector signed minimum. -/
  | vmin (d : BitVec 7) (a : BitVec 7) (b : BitVec 7) (ea : Bool) (eb : Bool)
  /-- VMAX (R184). Vector signed maximum. -/
  | vmax (d : BitVec 7) (a : BitVec 7) (b : BitVec 7) (ea : Bool) (eb : Bool)
  /-- VMINU (R184). Vector unsigned minimum. -/
  | vminu (d : BitVec 7) (a : BitVec 7) (b : BitVec 7) (ea : Bool) (eb : Bool)
  /-- VAND (R184). Vector bitwise AND. -/
  | vand (d : BitVec 7) (a : BitVec 7) (b : BitVec 7) (ea : Bool) (eb : Bool)
  /-- VOR (R184). Vector bitwise OR. -/
  | vor (d : BitVec 7) (a : BitVec 7) (b : BitVec 7) (ea : Bool) (eb : Bool)
  /-- VXOR (R184). Vector bitwise exclusive-OR. -/
  | vxor (d : BitVec 7) (a : BitVec 7) (b : BitVec 7) (ea : Bool) (eb : Bool)
  /-- VANDN (R184). Vector a AND NOT b. -/
  | vandn (d : BitVec 7) (a : BitVec 7) (b : BitVec 7) (ea : Bool) (eb : Bool)
  /-- VSHL (R184). Vector shift left by b[4:0]. -/
  | vshl (d : BitVec 7) (a : BitVec 7) (b : BitVec 7) (ea : Bool) (eb : Bool)
  /-- VSHR (R184). Vector logical shift right. -/
  | vshr (d : BitVec 7) (a : BitVec 7) (b : BitVec 7) (ea : Bool) (eb : Bool)
  /-- VSRA (R184). Vector arithmetic shift right. -/
  | vsra (d : BitVec 7) (a : BitVec 7) (b : BitVec 7) (ea : Bool) (eb : Bool)
  /-- VMAXU (R184). Vector unsigned maximum. -/
  | vmaxu (d : BitVec 7) (a : BitVec 7) (b : BitVec 7) (ea : Bool) (eb : Bool)
  /-- VADDS (R184). Vector add scalar. -/
  | vadds (d : BitVec 7) (a : BitVec 7) (b : BitVec 7) (ea : Bool) (eb : Bool)
  /-- VSUBS (R184). Vector subtract scalar. -/
  | vsubs (d : BitVec 7) (a : BitVec 7) (b : BitVec 7) (ea : Bool) (eb : Bool)
  /-- VMULS (R184). Vector multiply by scalar, low 32 bits. -/
  | vmuls (d : BitVec 7) (a : BitVec 7) (b : BitVec 7) (ea : Bool) (eb : Bool)
  /-- VANDS (R184). Vector AND scalar. -/
  | vands (d : BitVec 7) (a : BitVec 7) (b : BitVec 7) (ea : Bool) (eb : Bool)
  /-- VORS (R184). Vector OR scalar. -/
  | vors (d : BitVec 7) (a : BitVec 7) (b : BitVec 7) (ea : Bool) (eb : Bool)
  /-- VXORS (R184). Vector exclusive-OR scalar. -/
  | vxors (d : BitVec 7) (a : BitVec 7) (b : BitVec 7) (ea : Bool) (eb : Bool)
  /-- VSHLS (R184). Vector shift left by scalar. -/
  | vshls (d : BitVec 7) (a : BitVec 7) (b : BitVec 7) (ea : Bool) (eb : Bool)
  /-- VSHRS (R184). Vector logical shift right by scalar. -/
  | vshrs (d : BitVec 7) (a : BitVec 7) (b : BitVec 7) (ea : Bool) (eb : Bool)
  /-- VADDI (R184). Vector add immediate. -/
  | vaddi (d : BitVec 7) (a : BitVec 7) (imm : BitVec 8) (ea : Bool)
  /-- VANDI (R184). Vector AND immediate. -/
  | vandi (d : BitVec 7) (a : BitVec 7) (imm : BitVec 8) (ea : Bool)
  /-- VORI (R184). Vector OR immediate. -/
  | vori (d : BitVec 7) (a : BitVec 7) (imm : BitVec 8) (ea : Bool)
  /-- VXORI (R184). Vector exclusive-OR immediate. -/
  | vxori (d : BitVec 7) (a : BitVec 7) (imm : BitVec 8) (ea : Bool)
  /-- VSHLI (R184). Vector shift left by immediate. -/
  | vshli (d : BitVec 7) (a : BitVec 7) (imm : BitVec 8) (ea : Bool)
  /-- VSHRI (R184). Vector logical shift right by immediate. -/
  | vshri (d : BitVec 7) (a : BitVec 7) (imm : BitVec 8) (ea : Bool)
  /-- VSRAI (R184). Vector arithmetic shift right by immediate. -/
  | vsrai (d : BitVec 7) (a : BitVec 7) (imm : BitVec 8) (ea : Bool)
  /-- VMULI (R184). Vector multiply by immediate, low 32 bits. -/
  | vmuli (d : BitVec 7) (a : BitVec 7) (imm : BitVec 8) (ea : Bool)
  /-- VCEQ (R185). Vector compare equal into a scalar mask. -/
  | vceq (d : BitVec 7) (a : BitVec 7) (b : BitVec 7) (ea : Bool) (eb : Bool)
  /-- VCNE (R185). Vector compare not equal into a scalar mask. -/
  | vcne (d : BitVec 7) (a : BitVec 7) (b : BitVec 7) (ea : Bool) (eb : Bool)
  /-- VCLT (R185). Vector compare signed less than. -/
  | vclt (d : BitVec 7) (a : BitVec 7) (b : BitVec 7) (ea : Bool) (eb : Bool)
  /-- VCLE (R185). Vector compare signed less or equal. -/
  | vcle (d : BitVec 7) (a : BitVec 7) (b : BitVec 7) (ea : Bool) (eb : Bool)
  /-- VCGT (R185). Vector compare signed greater than. -/
  | vcgt (d : BitVec 7) (a : BitVec 7) (b : BitVec 7) (ea : Bool) (eb : Bool)
  /-- VCGE (R185). Vector compare signed greater or equal. -/
  | vcge (d : BitVec 7) (a : BitVec 7) (b : BitVec 7) (ea : Bool) (eb : Bool)
  /-- VCLTU (R185). Vector compare unsigned less than. -/
  | vcltu (d : BitVec 7) (a : BitVec 7) (b : BitVec 7) (ea : Bool) (eb : Bool)
  /-- VCLEU (R185). Vector compare unsigned less or equal. -/
  | vcleu (d : BitVec 7) (a : BitVec 7) (b : BitVec 7) (ea : Bool) (eb : Bool)
  /-- VMOV (R186). Vector register move. -/
  | vmov (d : BitVec 7) (a : BitVec 7) (ea : Bool)
  /-- VMOVS (R186). Broadcast a scalar into a vector register. -/
  | vmovs (d : BitVec 7) (b : BitVec 7) (eb : Bool)
  /-- VTID (R186). Write each thread's index. -/
  | vtid (d : BitVec 7)
  /-- VCLZ (R186). Vector count leading zeros. -/
  | vclz (d : BitVec 7) (a : BitVec 7) (ea : Bool)
  /-- VPOPC (R186). Vector population count. -/
  | vpopc (d : BitVec 7) (a : BitVec 7) (ea : Bool)
  /-- VBREV (R186). Vector bit reverse. -/
  | vbrev (d : BitVec 7) (a : BitVec 7) (ea : Bool)
  /-- VWRX (R187). Write a vector register named by a scalar index. -/
  | vwrx (a : BitVec 7) (b : BitVec 7) (ea : Bool) (eb : Bool)
  /-- VRDX (R187). Read a vector register named by a scalar index. -/
  | vrdx (d : BitVec 7) (b : BitVec 7) (ea : Bool) (eb : Bool)
  /-- VFADD (R188). F32 add. -/
  | vfadd (d : BitVec 7) (a : BitVec 7) (b : BitVec 7) (ea : Bool) (eb : Bool)
  /-- VFSUB (R188). F32 subtract. -/
  | vfsub (d : BitVec 7) (a : BitVec 7) (b : BitVec 7) (ea : Bool) (eb : Bool)
  /-- VFMUL (R188). F32 multiply. -/
  | vfmul (d : BitVec 7) (a : BitVec 7) (b : BitVec 7) (ea : Bool) (eb : Bool)
  /-- VFMIN (R188). F32 minimum. -/
  | vfmin (d : BitVec 7) (a : BitVec 7) (b : BitVec 7) (ea : Bool) (eb : Bool)
  /-- VFMAX (R188). F32 maximum. -/
  | vfmax (d : BitVec 7) (a : BitVec 7) (b : BitVec 7) (ea : Bool) (eb : Bool)
  /-- VFMAC (R188). F32 fused a*b + d. -/
  | vfmac (d : BitVec 7) (a : BitVec 7) (b : BitVec 7) (ea : Bool) (eb : Bool)
  /-- VFMSC (R188). F32 fused a*b - d. -/
  | vfmsc (d : BitVec 7) (a : BitVec 7) (b : BitVec 7) (ea : Bool) (eb : Bool)
  /-- VFNMAC (R188). F32 fused -(a*b) + d. -/
  | vfnmac (d : BitVec 7) (a : BitVec 7) (b : BitVec 7) (ea : Bool) (eb : Bool)
  /-- VFADDS (R188). F32 add scalar. -/
  | vfadds (d : BitVec 7) (a : BitVec 7) (b : BitVec 7) (ea : Bool) (eb : Bool)
  /-- VFSUBS (R188). F32 subtract scalar. -/
  | vfsubs (d : BitVec 7) (a : BitVec 7) (b : BitVec 7) (ea : Bool) (eb : Bool)
  /-- VFMULS (R188). F32 multiply by scalar. -/
  | vfmuls (d : BitVec 7) (a : BitVec 7) (b : BitVec 7) (ea : Bool) (eb : Bool)
  /-- VFMACS (R188). F32 fused a*scalar + d. -/
  | vfmacs (d : BitVec 7) (a : BitVec 7) (b : BitVec 7) (ea : Bool) (eb : Bool)
  /-- VFMINS (R188). F32 minimum with scalar. -/
  | vfmins (d : BitVec 7) (a : BitVec 7) (b : BitVec 7) (ea : Bool) (eb : Bool)
  /-- VFMAXS (R188). F32 maximum with scalar. -/
  | vfmaxs (d : BitVec 7) (a : BitVec 7) (b : BitVec 7) (ea : Bool) (eb : Bool)
  /-- VFCEQ (R189). F32 compare equal into a scalar mask. -/
  | vfceq (d : BitVec 7) (a : BitVec 7) (b : BitVec 7) (ea : Bool) (eb : Bool)
  /-- VFCNE (R189). F32 compare not equal or unordered. -/
  | vfcne (d : BitVec 7) (a : BitVec 7) (b : BitVec 7) (ea : Bool) (eb : Bool)
  /-- VFCLT (R189). F32 compare less than, quiet. -/
  | vfclt (d : BitVec 7) (a : BitVec 7) (b : BitVec 7) (ea : Bool) (eb : Bool)
  /-- VFCLE (R189). F32 compare less or equal, quiet. -/
  | vfcle (d : BitVec 7) (a : BitVec 7) (b : BitVec 7) (ea : Bool) (eb : Bool)
  /-- VFCUN (R189). F32 compare unordered. -/
  | vfcun (d : BitVec 7) (a : BitVec 7) (b : BitVec 7) (ea : Bool) (eb : Bool)
  /-- VFSLT (R189). F32 signalling compare less than. -/
  | vfslt (d : BitVec 7) (a : BitVec 7) (b : BitVec 7) (ea : Bool) (eb : Bool)
  /-- VFSLE (R189). F32 signalling compare less or equal. -/
  | vfsle (d : BitVec 7) (a : BitVec 7) (b : BitVec 7) (ea : Bool) (eb : Bool)
  /-- VHADD (R190). Packed F16 add. -/
  | vhadd (d : BitVec 7) (a : BitVec 7) (b : BitVec 7) (ea : Bool) (eb : Bool)
  /-- VHMUL (R190). Packed F16 multiply. -/
  | vhmul (d : BitVec 7) (a : BitVec 7) (b : BitVec 7) (ea : Bool) (eb : Bool)
  /-- VHMAC (R190). Packed F16 fused multiply-add. -/
  | vhmac (d : BitVec 7) (a : BitVec 7) (b : BitVec 7) (ea : Bool) (eb : Bool)
  /-- VBADD (R190). Packed BF16 add. -/
  | vbadd (d : BitVec 7) (a : BitVec 7) (b : BitVec 7) (ea : Bool) (eb : Bool)
  /-- VBMUL (R190). Packed BF16 multiply. -/
  | vbmul (d : BitVec 7) (a : BitVec 7) (b : BitVec 7) (ea : Bool) (eb : Bool)
  /-- VBMAC (R190). Packed BF16 fused multiply-add. -/
  | vbmac (d : BitVec 7) (a : BitVec 7) (b : BitVec 7) (ea : Bool) (eb : Bool)
  /-- VHDOT (R190). F16 pair dot product accumulated into F32. -/
  | vhdot (d : BitVec 7) (a : BitVec 7) (b : BitVec 7) (ea : Bool) (eb : Bool)
  /-- VBDOT (R190). BF16 pair dot product accumulated into F32. -/
  | vbdot (d : BitVec 7) (a : BitVec 7) (b : BitVec 7) (ea : Bool) (eb : Bool)
  /-- VRCP (R191). Transcendental reciprocal, a long-latency producer. -/
  | vrcp (d : BitVec 7) (a : BitVec 7) (ea : Bool)
  /-- VRSQ (R191). Transcendental reciprocal square root. -/
  | vrsq (d : BitVec 7) (a : BitVec 7) (ea : Bool)
  /-- VSQRT (R191). Transcendental square root. -/
  | vsqrt (d : BitVec 7) (a : BitVec 7) (ea : Bool)
  /-- VEXP2 (R191). Transcendental base-2 exponential. -/
  | vexp2 (d : BitVec 7) (a : BitVec 7) (ea : Bool)
  /-- VLOG2 (R191). Transcendental base-2 logarithm. -/
  | vlog2 (d : BitVec 7) (a : BitVec 7) (ea : Bool)
  /-- VSIN (R191). Transcendental sine. -/
  | vsin (d : BitVec 7) (a : BitVec 7) (ea : Bool)
  /-- VCOS (R191). Transcendental cosine. -/
  | vcos (d : BitVec 7) (a : BitVec 7) (ea : Bool)
  /-- VTANH (R191). Transcendental hyperbolic tangent. -/
  | vtanh (d : BitVec 7) (a : BitVec 7) (ea : Bool)
  /-- VCF16 (R192). Convert F32 to F16 into a selected half. -/
  | vcf16 (d : BitVec 7) (a : BitVec 7) (rnd : BitVec 2) (sel : BitVec 2) (ea : Bool)
  /-- VCF32H (R192). Convert a selected F16 half to F32. -/
  | vcf32h (d : BitVec 7) (a : BitVec 7) (sel : BitVec 2) (ea : Bool)
  /-- VCBF (R192). Convert F32 to BF16 into a selected half. -/
  | vcbf (d : BitVec 7) (a : BitVec 7) (rnd : BitVec 2) (sel : BitVec 2) (ea : Bool)
  /-- VCF32B (R192). Convert a selected BF16 half to F32. -/
  | vcf32b (d : BitVec 7) (a : BitVec 7) (sel : BitVec 2) (ea : Bool)
  /-- VCI32 (R192). Convert F32 to I32 with saturation. -/
  | vci32 (d : BitVec 7) (a : BitVec 7) (rnd : BitVec 2) (ea : Bool)
  /-- VCF32I (R192). Convert I32 to F32. -/
  | vcf32i (d : BitVec 7) (a : BitVec 7) (rnd : BitVec 2) (ea : Bool)
  /-- VCN32 (R192). Convert F32 to N32 with saturation. -/
  | vcn32 (d : BitVec 7) (a : BitVec 7) (rnd : BitVec 2) (ea : Bool)
  /-- VCF32N (R192). Convert N32 to F32. -/
  | vcf32n (d : BitVec 7) (a : BitVec 7) (rnd : BitVec 2) (ea : Bool)
  /-- VCNAR (R192). Convert F32 to the slot's 8-bit format into a selected byte. -/
  | vcnar (d : BitVec 7) (a : BitVec 7) (slot : BitVec 3) (rnd : BitVec 2) (sel : BitVec 2) (ea : Bool)
  /-- VCWID (R192). Widen a selected byte in the slot's element to F32. -/
  | vcwid (d : BitVec 7) (a : BitVec 7) (slot : BitVec 3) (sel : BitVec 2) (ea : Bool)
  /-- VCT6 (R192). Convert F32 to a T6 byte-form code into a selected byte. -/
  | vct6 (d : BitVec 7) (a : BitVec 7) (slot : BitVec 3) (rnd : BitVec 2) (sel : BitVec 2) (ea : Bool)
  /-- VCF32T6 (R192). Widen a T6 code in a selected byte to F32. -/
  | vcf32t6 (d : BitVec 7) (a : BitVec 7) (sel : BitVec 2) (ea : Bool)
  /-- VPK6 (R193). Pack four byte-form T6 codes into a group of a register triple. -/
  | vpk6 (d : BitVec 7) (a : BitVec 7) (sel : BitVec 2) (ea : Bool)
  /-- VUNPK6 (R193). Unpack a group of a register triple into four byte-form codes. -/
  | vunpk6 (d : BitVec 7) (a : BitVec 7) (sel : BitVec 2) (ea : Bool)
  /-- VSHUF (R194). Cross-lane shuffle by per-thread index. -/
  | vshuf (d : BitVec 7) (a : BitVec 7) (b : BitVec 7) (ea : Bool) (eb : Bool)
  /-- VSHFX (R194). Cross-lane exchange with thread t XOR immediate. -/
  | vshfx (d : BitVec 7) (a : BitVec 7) (imm : BitVec 7) (ea : Bool)
  /-- VROTS (R194). Cross-lane rotate by vb of thread 0. -/
  | vrots (d : BitVec 7) (a : BitVec 7) (b : BitVec 7) (ea : Bool) (eb : Bool)
  /-- VBCST (R194). Broadcast the lowest acting thread's value. -/
  | vbcst (d : BitVec 7) (a : BitVec 7) (ea : Bool)
  /-- VREDA (R194). Integer sum across acting threads into a scalar. -/
  | vreda (d : BitVec 7) (a : BitVec 7) (ea : Bool)
  /-- VREDF (R194). F32 tree sum across acting threads into a scalar. -/
  | vredf (d : BitVec 7) (a : BitVec 7) (ea : Bool)
  /-- VSCAN (R194). Inclusive prefix sum over acting threads. -/
  | vscan (d : BitVec 7) (a : BitVec 7) (ea : Bool)
  /-- VCMPK (R194). Compact acting threads' values to the front. -/
  | vcmpk (d : BitVec 7) (a : BitVec 7) (ea : Bool)
  /-- VLDB (R198). Vector load byte, zero-extended. -/
  | vldb (d : BitVec 7) (o : BitVec 7) (h : BitVec 6) (byp : Bool) (ea : Bool)
  /-- VLDH (R198). Vector load halfword, zero-extended. -/
  | vldh (d : BitVec 7) (o : BitVec 7) (h : BitVec 6) (byp : Bool) (ea : Bool)
  /-- VLDW (R198). Vector load word. -/
  | vldw (d : BitVec 7) (o : BitVec 7) (h : BitVec 6) (byp : Bool) (ea : Bool)
  /-- VLDD (R198). Vector load doubleword into a register pair. -/
  | vldd (d : BitVec 7) (o : BitVec 7) (h : BitVec 6) (byp : Bool) (ea : Bool)
  /-- VLDQ (R198). Vector load quadword into four registers. -/
  | vldq (d : BitVec 7) (o : BitVec 7) (h : BitVec 6) (byp : Bool) (ea : Bool)
  /-- VLDBS (R198). Vector load byte, sign-extended. -/
  | vldbs (d : BitVec 7) (o : BitVec 7) (h : BitVec 6) (byp : Bool) (ea : Bool)
  /-- VLDHS (R198). Vector load halfword, sign-extended. -/
  | vldhs (d : BitVec 7) (o : BitVec 7) (h : BitVec 6) (byp : Bool) (ea : Bool)
  /-- VLDL (R199). Load one aligned 128-byte line as a single event. -/
  | vldl (d : BitVec 7) (o : BitVec 7) (h : BitVec 6) (byp : Bool) (ea : Bool)
  /-- VSTB (R198). Vector store byte. -/
  | vstb (d : BitVec 7) (o : BitVec 7) (h : BitVec 6) (byp : Bool) (ed : Bool) (ea : Bool)
  /-- VSTH (R198). Vector store halfword. -/
  | vsth (d : BitVec 7) (o : BitVec 7) (h : BitVec 6) (byp : Bool) (ed : Bool) (ea : Bool)
  /-- VSTW (R198). Vector store word. -/
  | vstw (d : BitVec 7) (o : BitVec 7) (h : BitVec 6) (byp : Bool) (ed : Bool) (ea : Bool)
  /-- VSTD (R198). Vector store doubleword from a register pair. -/
  | vstd (d : BitVec 7) (o : BitVec 7) (h : BitVec 6) (byp : Bool) (ed : Bool) (ea : Bool)
  /-- VSTQ (R198). Vector store quadword from four registers. -/
  | vstq (d : BitVec 7) (o : BitVec 7) (h : BitVec 6) (byp : Bool) (ed : Bool) (ea : Bool)
  /-- VSTL (R199). Store one aligned 128-byte line as a single event. -/
  | vstl (d : BitVec 7) (o : BitVec 7) (h : BitVec 6) (byp : Bool) (ed : Bool) (ea : Bool)
  /-- STBIND (R202). Bind a stream port to an access pattern. -/
  | stbind (d : BitVec 7) (h : BitVec 6) (byp : Bool) (ed : Bool)
  /-- STPOS (R202). Set a stream port's step. -/
  | stpos (d : BitVec 7) (ed : Bool)
  /-- STSET (R202). Set a stream port's base offset. -/
  | stset (d : BitVec 7) (ed : Bool)
  /-- QBIND (R203). Bind a queue to an affine loop nest. -/
  | qbind (d : BitVec 7) (h : BitVec 6) (byp : Bool) (ed : Bool)
  /-- QDRAIN (R203). Drain and unbind a queue. -/
  | qdrain (d : BitVec 7) (ed : Bool)
  /-- STEND (R202). Unbind a stream port. -/
  | stend (d : BitVec 7) (ed : Bool)
  /-- WDIST (R204). Query a tile's slot, turn and estimated latency. -/
  | wdist (d : BitVec 7) (o : BitVec 7) (h : BitVec 6) (ea : Bool)
  /-- WPIN (R204). Pin a tile within a turn class. -/
  | wpin (d : BitVec 7) (o : BitVec 7) (h : BitVec 6) (ed : Bool) (ea : Bool)
  /-- WUNPIN (R204). Remove a tile's pin. -/
  | wunpin (d : BitVec 7) (o : BitVec 7) (h : BitVec 6) (ea : Bool)
  /-- WPULL (R204). Start a tile's motion to slot 0 without serving data. -/
  | wpull (d : BitVec 7) (o : BitVec 7) (h : BitVec 6) (ea : Bool)
  /-- WHOME (R204). Compute a tile's home Whorl and hop count. -/
  | whome (d : BitVec 7) (o : BitVec 7) (h : BitVec 6) (ea : Bool)
  /-- AADD (R206). Returning atomic add. -/
  | aadd (d : BitVec 7) (o : BitVec 7) (h : BitVec 6) (byp : Bool) (ea : Bool) (opnd : BitVec 7) (width : BitVec 2) (scalar : Bool) (eo : Bool)
  /-- AMIN (R206). Returning atomic signed minimum. -/
  | amin (d : BitVec 7) (o : BitVec 7) (h : BitVec 6) (byp : Bool) (ea : Bool) (opnd : BitVec 7) (width : BitVec 2) (scalar : Bool) (eo : Bool)
  /-- AMAX (R206). Returning atomic signed maximum. -/
  | amax (d : BitVec 7) (o : BitVec 7) (h : BitVec 6) (byp : Bool) (ea : Bool) (opnd : BitVec 7) (width : BitVec 2) (scalar : Bool) (eo : Bool)
  /-- AMINU (R206). Returning atomic unsigned minimum. -/
  | aminu (d : BitVec 7) (o : BitVec 7) (h : BitVec 6) (byp : Bool) (ea : Bool) (opnd : BitVec 7) (width : BitVec 2) (scalar : Bool) (eo : Bool)
  /-- AMAXU (R206). Returning atomic unsigned maximum. -/
  | amaxu (d : BitVec 7) (o : BitVec 7) (h : BitVec 6) (byp : Bool) (ea : Bool) (opnd : BitVec 7) (width : BitVec 2) (scalar : Bool) (eo : Bool)
  /-- AAND (R206). Returning atomic AND. -/
  | aand (d : BitVec 7) (o : BitVec 7) (h : BitVec 6) (byp : Bool) (ea : Bool) (opnd : BitVec 7) (width : BitVec 2) (scalar : Bool) (eo : Bool)
  /-- AOR (R206). Returning atomic OR. -/
  | aor (d : BitVec 7) (o : BitVec 7) (h : BitVec 6) (byp : Bool) (ea : Bool) (opnd : BitVec 7) (width : BitVec 2) (scalar : Bool) (eo : Bool)
  /-- AXOR (R206). Returning atomic exclusive-OR. -/
  | axor (d : BitVec 7) (o : BitVec 7) (h : BitVec 6) (byp : Bool) (ea : Bool) (opnd : BitVec 7) (width : BitVec 2) (scalar : Bool) (eo : Bool)
  /-- AXCHG (R206). Returning atomic exchange. -/
  | axchg (d : BitVec 7) (o : BitVec 7) (h : BitVec 6) (byp : Bool) (ea : Bool) (opnd : BitVec 7) (width : BitVec 2) (scalar : Bool) (eo : Bool)
  /-- ACAS (R206). Returning atomic compare-and-swap. -/
  | acas (d : BitVec 7) (o : BitVec 7) (h : BitVec 6) (byp : Bool) (ea : Bool) (opnd : BitVec 7) (cmp : BitVec 7) (width : BitVec 2) (scalar : Bool) (eo : Bool) (ec : Bool)
  /-- AFADD (R206). Returning atomic F32 add. -/
  | afadd (d : BitVec 7) (o : BitVec 7) (h : BitVec 6) (byp : Bool) (ea : Bool) (opnd : BitVec 7) (width : BitVec 2) (scalar : Bool) (eo : Bool)
  /-- RADD (R208). Reduction add at memory. -/
  | radd (d : BitVec 7) (o : BitVec 7) (h : BitVec 6) (byp : Bool) (ed : Bool) (ea : Bool)
  /-- RFADD (R208). Reduction F32 add at memory. -/
  | rfadd (d : BitVec 7) (o : BitVec 7) (h : BitVec 6) (byp : Bool) (ed : Bool) (ea : Bool)
  /-- RBFADD (R208). Reduction BF16 add at memory. -/
  | rbfadd (d : BitVec 7) (o : BitVec 7) (h : BitVec 6) (byp : Bool) (ed : Bool) (ea : Bool)
  /-- RMIN (R208). Reduction signed minimum at memory. -/
  | rmin (d : BitVec 7) (o : BitVec 7) (h : BitVec 6) (byp : Bool) (ed : Bool) (ea : Bool)
  /-- RMAX (R208). Reduction signed maximum at memory. -/
  | rmax (d : BitVec 7) (o : BitVec 7) (h : BitVec 6) (byp : Bool) (ed : Bool) (ea : Bool)
  /-- RAND (R208). Reduction AND at memory. -/
  | rand (d : BitVec 7) (o : BitVec 7) (h : BitVec 6) (byp : Bool) (ed : Bool) (ea : Bool)
  /-- ROR (R208). Reduction OR at memory. -/
  | ror (d : BitVec 7) (o : BitVec 7) (h : BitVec 6) (byp : Bool) (ed : Bool) (ea : Bool)
  /-- RXOR (R208). Reduction exclusive-OR at memory. -/
  | rxor (d : BitVec 7) (o : BitVec 7) (h : BitVec 6) (byp : Bool) (ed : Bool) (ea : Bool)
  /-- TBEGIN (R209). Open a transaction and take its checkpoint. -/
  | tbegin (d : BitVec 7) (a : BitVec 7) (ea : Bool)
  /-- TEND (R209). Commit the open transaction. -/
  | tend
  /-- TABORT (R209). Abort the open transaction with code 4. -/
  | tabort (a : BitVec 7) (ea : Bool)
  /-- TTEST (R209). Read the mask of threads with an open transaction. -/
  | ttest (d : BitVec 7)
  /-- CPY (R211). Spindle byte copy. -/
  | cpy (sd : BitVec 7) (ss : BitVec 7) (sn : BitVec 7) (ed : Bool) (es : Bool) (en : Bool) (gh : BitVec 6) (gchk : Bool)
  /-- CPY2D (R211). Spindle two-dimensional copy. -/
  | cpy2d (sd : BitVec 7) (ss : BitVec 7) (sn : BitVec 7) (ed : Bool) (es : Bool) (en : Bool) (gh : BitVec 6) (gchk : Bool)
  /-- CPYG (R211). Spindle indexed gather. -/
  | cpyg (sd : BitVec 7) (ss : BitVec 7) (sn : BitVec 7) (ed : Bool) (es : Bool) (en : Bool) (gh : BitVec 6) (gchk : Bool) (iw : Bool) (esz : BitVec 2)
  /-- CPYS (R211). Spindle indexed scatter. -/
  | cpys (sd : BitVec 7) (ss : BitVec 7) (sn : BitVec 7) (ed : Bool) (es : Bool) (en : Bool) (gh : BitVec 6) (gchk : Bool) (iw : Bool) (esz : BitVec 2)
  /-- SLBMV (R214). Spindle slab doubling move. -/
  | slbmv (sd : BitVec 7) (ss : BitVec 7) (ed : Bool) (es : Bool)
  /-- CPYZ (R211). Spindle zero fill. -/
  | cpyz (sd : BitVec 7) (sn : BitVec 7) (ed : Bool) (en : Bool) (gh : BitVec 6) (gchk : Bool)
  /-- FENCE (R215). Wait until non-speculative with cnt.st and cnt.hx zero. -/
  | fence
  /-- FENCEI (R215). Discard the core's fetched code copies after stores complete. -/
  | fencei
  /-- FENCEH (R216). Wait until earlier space-4 stores have reached the host. -/
  | fenceh
  /-- SLBXL (R217). Translate a slab-window offset into an operand pointer and generation. -/
  | slbxl (sd : BitVec 7) (so : BitVec 7) (h : BitVec 6) (ea : Bool) (rh : BitVec 6)
  /-- SLBRD (R217). Read one 64-bit word of a slab descriptor. -/
  | slbrd (sd : BitVec 7) (h : BitVec 6) (sel : BitVec 3)
  /-- MMA (R224). Matrix multiply-accumulate into the accumulator. -/
  | mma (vacc : BitVec 7) (sA : BitVec 7) (sB : BitVec 7) (keep : Bool) (ea : Bool) (eb : Bool) (aslot : BitVec 3) (bslot : BitVec 3) (asb : BitVec 7) (bsb : BitVec 7) (sel : BitVec 2) (soft : Bool) (half : Bool) (obase : BitVec 7)
  /-- MMAZ (R224). Matrix multiply starting from zero. -/
  | mmaz (vacc : BitVec 7) (sA : BitVec 7) (sB : BitVec 7) (keep : Bool) (ea : Bool) (eb : Bool) (aslot : BitVec 3) (bslot : BitVec 3) (asb : BitVec 7) (bsb : BitVec 7) (sel : BitVec 2) (soft : Bool) (half : Bool) (obase : BitVec 7)
  /-- MMAC (R224). Chained product of the chain buffer with V rows, accumulating. -/
  | mmac (vacc : BitVec 7) (sB : BitVec 7) (keep : Bool) (eb : Bool) (bslot : BitVec 3) (half : Bool)
  /-- MMACZ (R224). Chained product of the chain buffer with V rows from zero. -/
  | mmacz (vacc : BitVec 7) (sB : BitVec 7) (keep : Bool) (eb : Bool) (bslot : BitVec 3) (half : Bool)
  /-- MSTZ (R230). Reset the wave's row state at the matrix queue head. -/
  | mstz
  /-- MSTRD (R230). Read row state into three registers. -/
  | mstrd (d : BitVec 7)
  /-- MSTWR (R230). Write row state from three registers. -/
  | mstwr (a : BitVec 7) (ea : Bool)
  /-- MNORM (R230). Divide each O element of a row by its running sum. -/
  | mnorm (d : BitVec 7)
  /-- WATT (R232). Whorl attention over slab positions. -/
  | watt (vq : BitVec 7) (vo : BitVec 7) (sp : BitVec 7) (ea : Bool) (eb : Bool) (nq : BitVec 3)
  /-- WATTD (R234). Whorl attention excluding dirty positions. -/
  | wattd (vq : BitVec 7) (vo : BitVec 7) (sp : BitVec 7) (ea : Bool) (eb : Bool) (nq : BitVec 3) (sx : BitVec 7) (sq : BitVec 7) (eq : Bool)
  /-- CRDS (R237). Submit a Carder round for a masked sequence. -/
  | crds (d : BitVec 7) (a : BitVec 7) (b : BitVec 7) (ea : Bool) (eb : Bool) (ed : Bool)
  /-- CRDR (R239). Read a round result record into registers. -/
  | crdr (d : BitVec 7) (a : BitVec 7) (b : BitVec 7) (ea : Bool) (eb : Bool)
  /-- DMRD (R240). Read one dirty-map group bit for 64 positions. -/
  | dmrd (d : BitVec 7) (a : BitVec 7) (b : BitVec 7) (ea : Bool) (eb : Bool) (g : BitVec 5)
  /-- DMCLR (R240). Clear one dirty-map group bit for masked positions. -/
  | dmclr (d : BitVec 7) (a : BitVec 7) (b : BitVec 7) (ea : Bool) (eb : Bool) (ed : Bool) (g : BitVec 5)
  /-- STEPQ (R243). Read the step entry header or an entry into four scalars. -/
  | stepq (d : BitVec 7) (a : BitVec 7) (ea : Bool)
  /-- TOKC (R244). Commit a token to a sequence. -/
  | tokc (a : BitVec 7) (b : BitVec 7) (ea : Bool) (eb : Bool)
  /-- SEQRD (R245). Read one word of a sequence table entry. -/
  | seqrd (d : BitVec 7) (a : BitVec 7) (b : BitVec 7) (ea : Bool) (eb : Bool)
  /-- TLBINV (R180). Invalidate translation entries in every translation cache. -/
  | tlbinv (s : BitVec 7) (tag : BitVec 8) (kind : BitVec 2) (ea : Bool)
  /-- GRDSET (R180). Resolve a guard slot of a named context. -/
  | grdset (s : BitVec 7) (slot : BitVec 8) (ea : Bool)
  /-- SNAPCT (R180). Discard, restore or count a launch's snapshots. -/
  | snapct (s : BitVec 7) (kind : BitVec 2) (ea : Bool)
  /-- DBGRD (R180). Read another wave's special or scalar register. -/
  | dbgrd (s : BitVec 7) (sel : BitVec 12) (ea : Bool)
  deriving DecidableEq, Repr

end Sys2Proof
end

