-- ==== Sys2Proof/Machine/State.lean ====
section
/-! DEFINITION. The state of the Uliuth as plain data: everything the spec gives the machine, from a wave's registers to
the management registers, with `State.reset`. Sparse tables are association lists in one canonical form (keys strictly
rising, no entry equal to what an unlisted key reads as); the operations on them are in Machine/Store.lean. -/

namespace Sys2Proof.Machine

/-- A sparse table: keys strictly rising, no entry equal to the table's default. -/
abbrev SMap (α : Type) := List (Nat × α)

/-- The one memory, over the unified locations of Machine/Store.lean: device HBM and CXL tier by physical address, host
memory by PASID and address, peer memory by node, tag and address, team scratch by team, column and offset. -/
abbrev Memory := List Host.Cell

/-! ### The architectural state a checkpoint holds (R124) -/

/-- The prefix residue (R149): the two thread sets of a predicate-block prefix and what of it is not yet consumed. -/
structure Residue where
  thenSet : W64
  elseSet : W64
  pattern : BitVec 8
  left    : Nat
  deriving DecidableEq, Repr

/-- A wave's place in its code (R141, Table 18.8): `pc` is the byte address of the next word, or of the next clause
header when `inClause` is false. `index` counts words of the clause; `first` is the number (`Wave.seq`) its first word had.
(DEDUCED, log 19, safe.) -/
structure CodePos where
  pc       : W64
  inClause : Bool
  header   : W32
  index    : Nat
  residue  : Residue
  first    : Nat
  deriving DecidableEq, Repr

/-- A stream port (Table 5.6): the pattern and the next step. What the engine has fetched ahead is in `Wave.aside` (R102). -/
structure StreamPort where
  bound   : Bool
  dir     : Bool
  size    : BitVec 2
  handle  : BitVec 8
  byp     : Bool
  base    : BitVec 40
  tstride : W32
  sstride : W64
  count   : W32
  step    : W32
  deriving DecidableEq, Repr

/-- A queue of the affine engine (R105, R203): the QBIND group as read, the iteration next to be issued (fetched or
pushed) and the iteration next to leave (popped or drained). A pushed store entry is an access of the wave; an entry fetched
ahead is in `Wave.aside`. -/
structure QueuePort where
  bound   : Bool
  handle  : BitVec 8
  byp     : Bool
  group   : List W64
  issued  : Nat
  gone    : Nat
  deriving DecidableEq, Repr

/-- What a checkpoint restores (R124): place in the code, exec, the five flag masks, the registers with their
full/empty bits (a set bit of `emptyV`, `emptyS` marks an empty register) and the ports (R106). Vector register `r` of
thread `t` is at key `64 r + t` of `v`. -/
structure Arch where
  pos     : CodePos
  exec    : W64
  flNv    : W64
  flDz    : W64
  flOf    : W64
  flUf    : W64
  flNx    : W64
  v       : SMap W32
  s       : SMap W64
  emptyV  : RegSet
  emptyS  : RegSet
  streams : SMap StreamPort
  queues  : SMap QueuePort
  deriving DecidableEq, Repr

/-! ### Accesses, commands and producers of a wave -/

/-- What an access does with the bytes at its location (R112). -/
inductive AccessOp where
  | loadS   (r n : Nat) (signed : Bool)                  -- scalar load (R179), SLBRD (R217)
  | loadV   (r n : Nat) (signed : Bool)                  -- vector load (R198)
  | loadL   (r : Nat)                                    -- VLDL (R199)
  | store                                                -- stores, scalar and vector (R179, R198)
  | portStore (r : Nat)                                  -- the step or entry a write of port register `r` produces (R102)
  | atomic  (fn r width : Nat) (scalar : Bool)           -- returning atomic (R206)
  | reduce  (fn : Nat)                                   -- reduction (R208); DMCLR clears with `RAND` (R240)
  | dmrd    (r : Nat) (g : Nat)                          -- DMRD (R240)
  | whorl (r cls : Nat)                                  -- WPIN, or WPULL (class 0), that a front has refused (R96, R204)
  | port                                                 -- the read of a stream step or the pop of a queue entry (R112)
  | fetch (port step : Nat)                              -- the engine's fetch of a stream step or queue entry (R102, R105)
  deriving DecidableEq, Repr

/-- One thread's part of an access (thread 64 is the wave's own scalar part): its address, the location of each byte, the
data or operand, the compare value, the bytes forwarded from the store buffer by location (R125), and the bytes as the home
returned or, for an atomic, replaced them, by location. (DEDUCED, log 25, unsafe.) -/
structure Elem where
  thread : Nat
  va     : W64
  locs   : List Nat
  data   : List Byte
  cmp    : List Byte
  fwd    : List (Nat × Byte)
  got    : List (Nat × Byte)
  deriving DecidableEq, Repr

/-- Where a line request stands (R95 to R98, R254, R303): not yet sent, sent to its front, refused and waiting for its timer,
joined to a fill, accepted and queued behind a line in use, waiting for CXL.cache ownership or a back-invalidate response, waiting for
acknowledgements, or done. -/
inductive ReqPhase where
  | held | sent | refused | filling | queued | owning | acks | done
  deriving DecidableEq, Repr

/-- One line request (R117): a 128-byte line, its home Whorl, how it travels, its arrival stamp and refusals (R98); whether it
is served as a bypass access (R91, R96), whether the core has lost the line since it was served, or has dropped it while the request
was at the home (R251, R303), the status of a pin-policy access (R93), which the spec has recorded and gives no reader, whether the
line's data have arrived at the core, and the cycle they are due (R86, R319). -/
structure Req where
  line     : Nat
  home     : Nat
  phase    : ReqPhase
  arrived  : Nat
  refusals : Nat
  hint     : BitVec 6
  reason   : BitVec 2
  byp      : Bool
  lost     : Bool
  pin      : BitVec 2
  here     : Bool
  due      : Nat
  deriving DecidableEq, Repr

/-- What an access whose translation is on its way asks (R285): the bytes of each place, whether it moves a whole line, the offset of each
thread, and the state at the boundary directly before its word. (DEDUCED, log 183, safe.) -/
structure Pending where
  n      : Nat
  line   : Bool
  offs   : List (Nat × Nat)
  before : Arch
  deriving DecidableEq, Repr

/-- An access of a wave that has issued and not retired (R123), with the state at the boundary directly after it and the
undo-log entries used between it and the next access (R124). `returned`: a load's value is in its register; a store's data
are known. `queue`: the store queue a drained entry belongs to. `pending`: its bytes have no location yet (R285). -/
structure Access where
  seq      : Nat
  path     : Nat
  space    : BitVec 4
  policy   : BitVec 2
  pinclass : BitVec 6
  byp      : Bool
  handle   : Nat
  op       : AccessOp
  elems    : List Elem
  reqs     : List Req
  queue    : Option Nat
  log      : Nat
  returned : Bool
  left     : Bool
  poisoned : Option W64
  pending  : Option Pending
  word     : W64
  inst     : W64
  snap     : Arch
  deriving DecidableEq, Repr

/-- A register a producer fills: thread `t` of vector register `r`, or scalar register `r`. -/
inductive RegWrite where
  | vec    (r t : Nat) (x : W32)
  | scalar (r : Nat) (x : W64)
  deriving DecidableEq, Repr

/-- A long-latency producer other than a memory access whose result is computed and not yet returned (R148): Whorl words
(R204), SLBXL (R217), STEPQ and SEQRD (R242), CRDR (R239), WATT (R231). -/
structure Producer where
  seq    : Nat
  path   : Nat
  writes : List RegWrite
  vregs  : List Nat
  sregs  : List Nat
  deriving DecidableEq, Repr

/-- A transcendental word at the quarter's unit (R191): function, destination, operands of the acting threads. -/
structure TransOp where
  wave    : Nat
  seq     : Nat
  fn      : Nat
  d       : Nat
  mode    : BitVec 2
  operand : List (Nat × W32)
  word    : W64
  inst    : W64
  started : Bool
  deriving DecidableEq, Repr

/-- The sample of a slab descriptor an operation takes once (R111). -/
structure SlabSample where
  desc    : W64
  base    : W64
  oldbase : W64
  newbase : W64
  cap     : Nat
  fmt     : BitVec 2
  layers  : Nat
  heads   : Nat
  length  : Nat
  moving  : Bool
  gen     : W32
  deriving DecidableEq, Repr

/-- What a matrix queue entry does: a multiply (from zero, from the chain buffer), or a row-state word (R221, R230). -/
inductive MatrixKind where
  | mma (zero chain : Bool)
  | mstz | mstrd | mstwr | mnorm
  deriving DecidableEq, Repr

/-- An entry of a wave's matrix queue (R218): its fields (Table 11.2, Table 11.4), the operand pointers, gang and MSTWR sources
read at issue, the registers it leaves undefined until a wait on mx (R148, R224), its operand registers among them, its issue cycle,
whether it has been run, and what it read at its start: the samples of its slabs (R111), its scale bytes, of A by row and of B (R223), and
the rows of B, which it holds while it goes on (R226). -/
structure MatrixOp where
  seq     : Nat
  kind    : MatrixKind
  vacc    : Nat
  aPtr    : W64
  bPtr    : W64
  keep    : Bool
  aslot   : Nat
  bslot   : Nat
  asb     : Nat
  bsb     : Nat
  sel     : Nat
  soft    : Bool
  half    : Nat
  obase   : Nat
  srcs    : List (Nat × W32)
  undef   : List Nat
  scales  : List Nat
  gang    : W64
  issued  : Nat
  started : Bool
  addr    : W64
  inst    : W64
  samples : List (Nat × SlabSample)
  bytes   : Option (List (List Nat) × List (List Nat))
  brows   : Option (List (List Byte))
  deriving DecidableEq, Repr

/-- The B operand a matrix unit keeps (R225): its team and wids, pointer value, slot, form (0 for 64 B rows, 1 + half for V
rows), and the bytes of its rows as read. -/
structure HeldB where
  team : Nat
  wids : List Nat
  bPtr : W64
  slot : Nat
  form : Nat
  rows : List (List Byte)
  deriving DecidableEq, Repr

/-- The row state and chain buffer of one row of a wave's part of a gang (R228). -/
structure RowState where
  m    : Int
  l    : W32
  off0 : Int
  off1 : Int
  codes0 : List (BitVec 6)
  codes1 : List (BitVec 6)
  deriving DecidableEq, Repr

/-- A triple of Whorl attention (R232): running exponent, sum and the 128 outputs of one query. -/
structure Triple where
  m : Int
  l : W32
  o : List W32
  deriving DecidableEq, Repr

/-- A partial a Whorl has formed (R232, R233): the positions it took and those of them that were excluded, and the triples of its queries,
none where nothing is left to attend to. -/
structure AttnPart where
  taken    : List Nat
  excluded : Nat
  triples  : List (List Triple)
  deriving DecidableEq, Repr

/-- A Whorl attention operation (R231 to R234): whether it is WATTD, its operands as read at issue, the sample, the partial
triples waiting for a merge, the Whorls whose partial is among them or merged, the homes of the positions translated so far, and partials
formed while the home of some position is not known yet. -/
structure AttnOp where
  seq      : Nat
  dirty    : Bool
  nq       : Nat
  vo       : Nat
  ptr      : W64
  range    : W64
  queries  : List (List W32)
  seqId    : Option W32
  sx       : Nat
  sample   : Option SlabSample
  excluded : Nat
  partials : List (List Triple)
  whorls   : List Nat
  homes    : List (Nat × Nat)
  formed   : List (Nat × AttnPart)
  addr     : W64
  inst     : W64
  deriving DecidableEq, Repr

/-- An outstanding operation on a path counter (R42, R121): counters fall in issue order, so a completed operation stays
until every earlier one of its path is complete. -/
structure Flight where
  path : Nat
  seq  : Nat
  done : Bool
  deriving DecidableEq, Repr

/-- A trap found after issue, or pending until the wave is non-speculative (R130, R155, R157), with the agent, access, address, and level
and kind of page table entry that its record will show (Table 18.4): zero where it is no access, or no entry failed.
(DEDUCED, log 43, safe.) -/
structure PendTrap where
  cause  : BitVec 8
  detail : BitVec 8
  post   : Bool
  mask   : W64
  inst   : W64
  pc     : W64
  agent  : BitVec 4
  access : BitVec 2
  va     : W64
  level  : Nat
  large  : Bool
  deriving DecidableEq, Repr

/-- An open transaction of a wave (R134, R209): the threads with a part, sole, its destination register, the checkpoint
of TBEGIN, the buffered writes, whether a page fault inside it is to abort it once resolved (R210), and the mode the wave was in
before it (R136). -/
structure Txn where
  threads : W64
  sole    : Bool
  sd      : Nat
  snap    : Arch
  seq     : Nat
  reads   : List (Nat × List Nat)
  accs    : List Access
  log     : Nat
  faulted : Bool
  mode    : BitVec 2
  deriving DecidableEq, Repr

/-- A wave's station: no wave in the slot, running, sleeping until its deadline (R170), stopped by the termination of its
launch (R156), or saved with its team (R294). A retired wave leaves its slot vacant (R39). -/
inductive Station where
  | vacant | live | asleep | stopped | saved
  deriving DecidableEq, Repr

/-- Why a live wave does not issue (R35, R36). -/
inductive Hold where
  | none
  | operand (v s : RegSet)           -- an empty source register or port of these (R148)
  | filling (v s : RegSet)           -- an empty register of these that the word writes (R148): the slot is kept (R35)
  | counters (paths : BitVec 8) (most : Nat)   -- W field, WAITC, HALT: each of these paths at most this (R171)
  | nonspec                          -- an irrevocable word, S bit, SPECBAR, a pending trap (R129, R130)
  | engine                           -- a full queue, a counter at its limit, a D bit, a transcendental that may trap (R144, R172, R212, R218, R231, R258)
  | barrier (inst : Nat) (phase : BitVec 32)   -- BARW, BARAW (R175)
  | open4   (inst : Nat)             -- an arrive while four phases are open (R175)
  | fault   (index : Nat)            -- an unresolved page fault (R130)
  | guard                            -- run-ahead: an irrevocable operation of R274
  | fence                            -- FENCE, FENCEI, FENCEH (R215)
  | pair                             -- a comparison point of a paired launch (R318)
  | drain                            -- a store queue that QBIND or QDRAIN empties (R203)
  deriving DecidableEq, Repr

/-- What a wave's launch fixes for it (R31, R81, R263, R266): the copied handle table, the format slots, the code object,
and the supervisor registers. (DEDUCED, log 71, safe.) -/
structure Env where
  handles  : List (BitVec 256)
  slots    : List W32
  stepptr  : W64
  code     : W64
  entry    : W32
  trap     : W32
  length   : W32
  tag      : BitVec 8
  part     : BitVec 3
  ctxdesc  : W64
  lrec     : W64
  level    : BitVec 4
  sup      : Bool
  launchid : W32
  deriving DecidableEq, Repr

/-- A wave (Table 2.1, Table 2.7, Table 18.8). `seq` numbers its issued words; `ran` counts the words of the run and `rest`
marks a run ended by cases 1 and 2 of R35 (R36); `lastIssue` is the core's clock at the last word;
`pendSeq` numbers the word whose trap `pend` is; `pair` is the other copy of a paired launch and whether this one is copy A, `pairLog` its unperformed writes, `signature`
its CRC-64, `pairOk` whether a comparison lets it lead (1) or follow (2) at the word it stands at (R317, R318);
`failing` holds, for each record that a page fault stalls the wave on, its index and the threads attached to it (R84);
`halted` marks a wave that a pre-emption has found blocked and stopped (R293);
`aside` holds what its port engines have fetched or are fetching ahead, which is no event of the wave (R102, R105, R112);
`kept` holds the words of its clause as fetched, once what the core has fetched is discarded (R215);
`acc` holds what matrix operations have left in accumulators the wave has not yet waited for (R148, R224); `inst` holds the words being issued, as fetched (R158, trinst).
(DESIGN CHOICE, log 2, safe.) -/
structure Wave where
  a         : Arch
  env       : Env
  station   : Station
  hold      : Hold
  core      : Nat
  quarter   : Nat
  slot      : Nat
  launch    : Nat
  team      : Nat
  teamid    : W32
  wid       : Nat
  width     : Nat
  vregs     : Nat
  sregs     : Nat
  ports     : BitVec 2
  scratch   : Nat
  barriers  : Nat
  waves     : Nat
  twin      : Bool
  seq       : Nat
  ran       : Nat
  lastIssue : W64
  promoted  : Bool
  rest      : Bool
  inst      : W64
  halted    : Bool
  fte       : BitVec 5
  rmode     : BitVec 2
  gang      : W64
  mprog     : W64
  trcause   : W64
  trpc      : W64
  trmask    : W64
  trinst    : W64
  trexec    : W64
  trpos     : CodePos
  trwritten : Bool
  pend      : Option PendTrap
  pendSeq   : Nat
  flight    : List Flight
  accesses  : List Access
  aside     : List Access
  kept      : SMap W32
  sampled   : List (Nat × SlabSample)
  producers : List Producer
  total     : W32
  consec    : Nat
  force     : Bool
  mode      : BitVec 2
  holds     : List Nat
  txn       : Option Txn
  txUser    : BitVec 8
  txCode    : BitVec 3
  txAborts  : BitVec 16
  deadline  : W64
  failing   : List (Nat × W64)
  arrives   : SMap Nat
  matrix    : List MatrixOp
  matDone   : List MatrixOp
  acc       : SMap W32
  rows      : SMap RowState
  attn      : List AttnOp
  pair      : Option (Nat × Bool)
  pairLog   : List Access
  signature : W64
  pairOk    : BitVec 2
  deriving DecidableEq, Repr

/-! ### Teams, launches, contexts -/

/-- A Spindle command (R211, R212): who issued it, its fields (`gchk` the window handle of a generation check), the values
read at issue, its words, for a slab move under way the positions copied, the slabs sampled, whether its read in spaces 4 and 5 is on its way
(R119, R328, R335), its index array as read, the bytes of its source that came back, with the poisoned ones, and whether its write is on its way
to a peer. -/
structure SpindleCmd where
  wave    : Nat
  seq     : Nat
  fn      : Nat
  gchk    : Option Nat
  iw      : Bool
  esz     : BitVec 2
  dst     : W64
  src     : W64
  params  : List W64
  env     : Env
  addr    : W64
  inst    : W64
  started : Bool
  progress : Nat
  samples : List (Nat × SlabSample)
  asked   : Bool
  index   : Option (List Nat)
  got     : Option (List (Byte × Bool))
  sent    : Bool
  deriving DecidableEq, Repr

/-- A named-barrier instance (R175): phases ended, and arrivals and latched counts of phases E to E + 3. -/
structure Barrier where
  ended   : Nat
  arrived : List Nat
  latched : List Nat
  deriving DecidableEq, Repr

/-- A team (R21, R292): its launch, core (column 0's for a twin team), waves not yet retired, barrier instances (key
2 * id + level, plus 64 for column 1), whether a pre-emption stops it, whether it is saved, with its Spindle commands, the unit
and units of its block (R294, R295) and whether that is sealed, when it was placed (R36), the other copy of a paired launch (R317), when
it was halted (Table 18.6), and the pages of its scratch backing area (R101, R287). A saved team's waves stand under keys of their own. -/
structure Team where
  launch   : Nat
  teamid   : W32
  core     : Nat
  twin     : Bool
  left     : Nat
  barriers : SMap Barrier
  halting  : Bool
  saved    : Bool
  commands : List SpindleCmd
  block    : Nat × Nat
  sealed   : Bool
  age      : Nat
  partner  : Option Nat
  stopped  : Option W64
  backing  : List Nat
  deriving DecidableEq, Repr

/-- The states of a launch (Table 17.7). -/
inductive LState where
  | waiting | eligible | running | finished | ended
  deriving DecidableEq, Repr

/-- A page copied before its first write (R274, R312): the 64 KiB block of locations, the block of the snapshot pool
that holds the copy, the stamp of the copying, and the location the copy was made at. -/
structure Snapshot where
  page  : Nat
  slot  : Nat
  age   : Nat
  loc   : Nat
  deriving DecidableEq, Repr

/-- A dependence of a launch record (Table 17.4, words 9 to 12). -/
structure Dep where
  kind  : BitVec 2
  sense : Bool
  slot  : BitVec 8
  id    : W32
  met   : Bool
  deriving DecidableEq, Repr

/-- Why a launch stops (R288, R314): cause, the agent and access of Table 18.4, the faulting address, the issuing word,
the issuing wave's key, and the level and kind of the page table entry that fails. -/
structure Stop where
  cause  : BitVec 8
  agent  : BitVec 4
  access : BitVec 2
  va     : W64
  word   : W64
  wave   : Nat
  level  : Nat
  large  : Bool
  deriving DecidableEq, Repr

/-- A launch in flight (R266 to R274, R312): the record's words as copied, and what the command processor keeps. -/
structure Launch where
  record    : List W64
  env       : Env
  hdr       : W32
  state     : LState
  status    : Nat
  cause     : BitVec 8
  team1     : W32
  level     : Nat
  stamp     : Nat
  placed    : Nat
  waited    : Nat
  since     : W64
  reserves  : Bool
  deps      : List Dep
  next      : Nat
  retired   : Nat
  replays   : Nat
  snaps     : List Snapshot
  shielded  : Bool
  irrepl    : Bool
  stopCause : Option Stop
  deriving DecidableEq, Repr

/-- A guard slot (R273): idle, pending, true or false, and its generation. -/
structure Guard where
  state : BitVec 2
  gen   : W32
  deriving DecidableEq, Repr

/-- A fault record (Table 18.4) and how it stands (R289): unresolved or not, when it was posted in nanotime, whether it
stands for a host translation refused (R328) and the host has been told that its answer is late (R333), whether it was denied,
and the launches of the requests attached to it; and the reads of the command processor attached to it, by launch record, that have
yet to see how it was resolved (R267). -/
structure FaultRec where
  words    : List W64
  va       : W64
  access   : BitVec 2
  opened   : Bool
  posted   : W64
  host     : Bool
  told     : Bool
  denied   : Bool
  launches : List Nat
  readers  : List W64
  deriving DecidableEq, Repr

/-- A store of the command processor in a context's memory that is not yet made (R341): words at an address, a fault record with its
place in the ring, whose tail moves with it, the mark of a lost record in the tail word, or a sequence's completion entry, with which the tail
of its ring moves (R279). -/
inductive CpStore where
  | words (va : W64) (ws : List W64)
  | record (index : Nat) (ws : List W64)
  | mark
  | entry (ws : List W64)
  deriving DecidableEq, Repr

/-- The Distaff's stepping of a context (R278): the number of the step under way or next, whether it runs, whether its chain has
committed, its batch; the positions that rounds have committed during it, by slot; whether the step after it runs ahead, and its
batch; the sequences admitted that join later; whether an admission point is due; the chain being submitted (step, next index,
guarded); cancels asked for; completion entries that wait for room in their ring (R279); pages of the next step's writes whose record was
denied, so that what lies there is dropped (R341). -/
structure Distaff where
  step    : Nat
  running : Bool
  done    : Bool
  batch   : List Nat
  rounds  : List (Nat × Nat)
  ahead   : Bool
  next    : List Nat
  joined  : List Nat
  admitDue : Bool
  chain   : Option (Nat × Nat × Bool)
  cancels : List W32
  pending : List (List W64)
  denied  : List Nat
  deriving DecidableEq, Repr

/-- A region of a context's slab pool in use (R277): its first 64 KiB unit, log2 of its units, the slab descriptor, and
whether it is released for reuse once no operation holds an earlier sample (R110, R279). -/
structure Region where
  unit     : Nat
  log      : Nat
  desc     : W64
  released : Bool
  deriving DecidableEq, Repr

/-- A context (Table 17.1), as read at activation, its entry of the context table, its doorbells and rings (Table 17.3), the stores in
its memory that wait (R341), and whether it is being deactivated (R292). -/
structure Context where
  entry    : Nat
  words    : List W64
  active   : Bool
  lqtail   : SMap W32
  lqhead   : SMap W32
  admtail  : W32
  admhead  : W32
  cplhead  : W32
  cpltail  : W32
  guards   : SMap Guard
  faults   : List FaultRec
  lost     : Bool
  distaff  : Distaff
  regions  : List Region
  stores   : List CpStore
  closing  : Bool
  deriving DecidableEq, Repr

/-! ### Whorls, cores, engines -/

/-- A directory entry (Table 19.2): up to four cores, or, coarse, the groups of eight cores. Its busy, host and locked fields
are the Whorl's `busy`, `owned` and `locked`. -/
structure DirEntry where
  coarse  : Bool
  sharers : List Nat
  deriving DecidableEq, Repr

/-- A tile in a slot or in motion (R85 to R93, R310): dirty and present 64-byte sectors, pin class and owner of the pin, owner tag,
the directory entries of its 32 lines. (PRESUMED, log 65, safe.) -/
structure Tile where
  tile    : Nat
  dirty   : BitVec 64
  present : BitVec 64
  pin     : Option (Nat × BitVec 8)
  scratch : Bool
  granted : Nat
  owner   : Option (BitVec 8)
  dir     : SMap DirEntry
  deriving DecidableEq, Repr

/-- A motion buffer entry (R88, R89). -/
structure Motion where
  tile  : Tile
  ready : Nat
  core  : Nat
  order : Nat
  deriving DecidableEq, Repr

/-- A fill entry (R87): its 64-byte sector, the accesses waiting on it, and the cycle its data are expected. -/
structure Fill where
  sector  : Nat
  waiters : Nat
  due     : Nat
  deriving DecidableEq, Repr

/-- A hop of a landing shift (R88): the tile, the slot it leaves, and the cycle the hop begins. (DEDUCED, log 27, unsafe.) -/
structure Carry where
  tile  : Nat
  slot  : Nat
  start : Nat
  deriving DecidableEq, Repr

/-- A tile that a landing shift pushes out of the last usable slot (R90): it stays resident in that slot until the shift reaches it. -/
structure Leaving where
  tile  : Tile
  slot  : Nat
  start : Nat
  deriving DecidableEq, Repr

/-- A quarantine entry (Table 19.4). -/
structure Quarantine where
  slot   : Nat
  reason : BitVec 2
  out    : Bool
  deriving DecidableEq, Repr

/-- A Whorl (R85 to R99, R132, R302 to R311). `waitPin` lists the scratch tiles whose motion is held, each with the core it counts as
(R101); `landed` is the cycle of the last landing, `carries` the hops of shifts (R88) and `leaving` the tiles they push out (R90);
`evicting` holds evicted tiles whose near-cache copies are not all gone (R303); `busy` lists the lines whose write or eviction awaits
acknowledgements, with the cores that owe one; `locked` those a committing wave holds (R135); `owned` the space-3 lines held under
CXL.cache ownership and `owning` those a commit or an engine has asked for (R119); `snooped` those taken back by a snoop with
no request applied since (R254); `corrected` the times of corrected errors by slot (R311). -/
structure Whorl where
  slots   : SMap Tile
  motion  : List Motion
  fills   : List Fill
  waitPin : List (Nat × Tile)
  landed  : Nat
  carries : List Carry
  leaving : List Leaving
  evicting : List Tile
  busy    : SMap (List Nat)
  locked  : SMap Nat
  owned   : List Nat
  owning  : List Nat
  snooped : List Nat
  caps    : SMap Nat
  asked   : SMap Nat
  refused : SMap Nat
  hold    : Option (Nat × Nat)
  defer   : List (Nat × Nat)
  quar    : List Quarantine
  full    : Bool
  ue      : W32
  ce      : W32
  corrected : SMap (List W64)
  omega   : SMap Nat
  temp    : SMap Nat
  cooler  : SMap Nat
  stamps  : SMap Nat
  deriving DecidableEq, Repr

/-- A core (R23, R284, R301, R319): near-cache lines (most recent first), notice buffer; messages on their way in (a line, and
whether it is a notice completion rather than an invalidation) and out (a line, whether it is an eviction notice rather
than an acknowledgement, and the cycle it was sent in); fetched code words by address, the cycles of its island up to a nanotime (R12), its Spindle's queue, its transcendental units, and the B operand each matrix unit keeps. -/
structure Core where
  near    : List Nat
  notices : List Nat
  inbox   : List (Nat × Bool)
  out     : List (Nat × Bool × Nat)
  fetched : SMap W32
  clock   : W64
  since   : W64
  spindle : List SpindleCmd
  trans   : SMap (List TransOp)
  held    : SMap (Option HeldB)
  deriving DecidableEq, Repr

/-- A word in a Carder's queue (R236 to R239): a round of CRDS or a record read of CRDR. A round that has started holds the words of its
sequence's entry as it sampled them, and the samples of its slab. -/
structure CarderOp where
  wave   : Nat
  seq    : Nat
  round  : Bool
  seqId  : W32
  ptr    : W64
  param0 : W64
  param1 : W64
  d      : Nat
  env    : Env
  addr   : W64
  entry  : List W64
  samples : List (Nat × SlabSample)
  deriving DecidableEq, Repr

/-- A Distaff request of STEPQ or SEQRD waiting for its guard (R128, R242), with the state at the boundary after its word (R155). -/
structure DistaffReq where
  wave  : Nat
  seq   : Nat
  stepq : Bool
  d     : Nat
  arg   : W64
  seqId : W32
  addr  : W64
  inst  : W64
  snap  : Arch
  deriving DecidableEq, Repr

/-- A TLBINV that has removed its entries and waits for the accesses translated by them, by wave and word (R286). -/
structure Invalidation where
  wave  : Nat
  seq   : Nat
  waits : List (Nat × Nat)
  deriving DecidableEq, Repr

/-- Which cache of Table 18.2 holds a translation. -/
inductive Cache where
  | core (c : Nat) | shared (whorl : Nat) | matrix (q : Nat) | spindle (c : Nat) | carder (f : Nat)
  deriving DecidableEq, Repr

/-- A cached translation (R284): tag, virtual page (by its 64 KiB number, or its 256 MiB number when large), leaf. -/
structure TlbEntry where
  cache : Cache
  tag   : BitVec 8
  large : Bool
  vpage : Nat
  leaf  : W64
  deriving DecidableEq, Repr

/-- How far a walk is (R285): waiting in its shared TLB for room, in its floor's walk queue, with a walker that reads the entry of a
level in a table next, answered with a leaf, or failed for the accesses it lists. -/
inductive WalkStage where
  | waiting
  | queued
  | reading (level table : Nat)
  | answered (leaf : W64) (large : Bool)
  | failed (accesses : List (BitVec 2))
  deriving DecidableEq, Repr

/-- A walk (R284, R285): the cache whose miss it serves, the context and 64 KiB page, the accesses of the requests attached, and whether a
TLBINV has started it again (R286). A walk that is answered or failed is no longer outstanding: it holds what its requests take.
(DEDUCED, log 170, safe.) -/
structure PageWalk where
  cache     : Cache
  tag       : BitVec 8
  page      : Nat
  accesses  : List (BitVec 2)
  stage     : WalkStage
  restarted : Bool
  deriving DecidableEq, Repr

/-- An entry of a floor's walk cache (R284): an L0 or L1 entry that points to a table, by context and the part of the address that chose
it. -/
structure WalkEntry where
  floor : Nat
  tag   : BitVec 8
  level : Nat
  index : Nat
  entry : W64
  deriving DecidableEq, Repr

/-- A page that the memory manager is moving (R290): its leaf has V = 0 and the old frame stands here. -/
structure PageMove where
  tag   : BitVec 8
  va    : W64
  leaf  : W64
  entry : Nat
  tier  : Bool
  frame : Nat
  deriving DecidableEq, Repr

/-- A record of the retired-frame list (R291). -/
structure Retired where
  time   : W64
  reason : BitVec 8
  tier   : Bool
  frame  : Nat
  deriving DecidableEq, Repr

/-- A write of the device on its way to the host or a peer, in the order it left (R119). -/
structure Egress where
  wave : Nat
  seq  : Nat
  loc  : Nat
  data : List Byte
  deriving DecidableEq, Repr

/-- The management domain (R329 to R339): the register space of BAR 0 and what it keeps. `mbcmd` is the command under way,
`freqs` each island's frequency in half megahertz, `power` the module's last average in watts, `measured` the SPDM blocks as they
stood at the last reset or PARTSET, `spdm` the answers given, `imgDigest` the running image's digest once an image was loaded. -/
structure Mgmt where
  stage     : BitVec 4
  error     : BitVec 8
  accept    : BitVec 16
  dropped   : Bool
  retained  : Bool
  wasS3     : Bool
  tripped   : Bool
  args      : List W64
  results   : List W64
  mbstat    : BitVec 2
  mbcmd     : BitVec 8
  mbcode    : BitVec 8
  evbase    : W64
  events    : BitVec 16
  evhead    : BitVec 16
  evtail    : BitVec 16
  evlost    : Bool
  parts     : SMap (Nat × Nat)
  weights   : SMap Nat
  caps      : SMap Nat
  freqs     : SMap Nat
  powerCap  : Nat
  power     : Nat
  rollback  : W32
  imgIndex  : W32
  imgDigest : List W64
  bootCount : BitVec 16
  routes    : SMap (BitVec 16)
  skeinUp   : BitVec 16
  cxlUp     : BitVec 4
  lmsUsed   : Nat
  atomics   : Bool
  measured  : List (List W64)
  spdm      : List (Option (List W64))
  deriving DecidableEq, Repr

/-- The state of the device. `agenda` holds what comes next from outside or by order, `parked` requests of the host and of peers that
met a line in use and wait at its home (R303); `damage` the 32-byte sectors that hold an uncorrectable error which no check has met yet
(R308, R326), `decided` the damaged sectors for which a report has been decided, each with its context (R322). (DESIGN CHOICE, log 2, 9, safe; DESIGN CHOICE, log 98, unsafe; DEDUCED, log 136, 152, safe.) -/
structure State where
  w        : Wave
  waves    : SMap Wave
  focus    : Nat
  holders  : SMap Nat
  agenda   : List Instr
  parked   : List Instr
  free     : Nat
  nanotime : W64
  cycle    : Nat
  stamp    : Nat
  mem      : Memory
  poison   : List Nat
  damage   : List Nat
  decided  : List (Nat × BitVec 8)
  hostCopy : List Nat
  lanemaps : SMap (BitVec 16)
  teams    : SMap Team
  launches : SMap Launch
  contexts : SMap Context
  whorls   : SMap Whorl
  cores    : SMap Core
  tlb      : List TlbEntry
  walks    : List PageWalk
  walkCache : List WalkEntry
  moves    : List PageMove
  tlbinvs  : List Invalidation
  ats      : SMap Nat
  carders  : SMap (List CarderOp)
  distaff  : List DistaffReq
  egress   : List Egress
  seqTable : W64
  retired  : List Retired
  mgmt     : Mgmt
  reads    : List (Nat × List Byte)
  deriving DecidableEq, Repr

/-! ### How a step can stop -/

/-- Why the machine stops with a fault: there is no reason. Every error of the spec is a trap, a record or a status, after
which the device goes on. -/
inductive Fault where
  deriving DecidableEq, Repr

/-- Why the machine has no meaning for a step. -/
inductive Refusal where
  /-- Raised only by `exec` for an instruction not yet modelled, named by its mnemonic. Safe. -/
  | notModelled (mnemonic : String)
  deriving DecidableEq, Repr

/-! ### Reset -/

/-- No prefix residue. -/
def Residue.none : Residue := ⟨0, 0, 0, 0⟩

/-- The place a wave slot holds before any wave: no code. -/
def CodePos.none : CodePos := ⟨0, false, 0, 0, Residue.none, 0⟩

/-- The architectural state of Table 2.7 before exec is set: registers zero, every full/empty bit full, flags zero, ports
unbound. -/
def Arch.zero : Arch :=
  ⟨CodePos.none, 0, 0, 0, 0, 0, 0, [], [], 0, 0, [], []⟩

/-- The launch data of a vacant slot. -/
def Env.none : Env := ⟨[], [], 0, 0, 0, 0, 0, 0, 0, 0, 0, 0, false, 0⟩

/-- A vacant wave slot: the state of Table 2.7 with no wave placed.
(DESIGN CHOICE, log 2, safe; DESIGN CHOICE, log 72, unsafe.) -/
def Wave.vacant : Wave :=
  { a := Arch.zero, env := Env.none, station := .vacant, hold := .none, core := 0, quarter := 0, slot := 0, launch := 0,
    team := 0, teamid := 0, wid := 0, width := 16, vregs := 8, sregs := 16, ports := 0, scratch := 0, barriers := 0,
    waves := 1, twin := false, seq := 0, ran := 0, lastIssue := 0, promoted := false, rest := false, inst := 0, halted := false, fte := 0, rmode := 0, gang := 0, mprog := 0,
    trcause := 0, trpc := 0, trmask := 0, trinst := 0, trexec := 0, trpos := CodePos.none, trwritten := false,
    pend := none, pendSeq := 0, flight := [], accesses := [], aside := [], kept := [], sampled := [], producers := [], total := 0, consec := 0, force := false, mode := 0,
    holds := [], txn := none, txUser := 0, txCode := 0, txAborts := 0, deadline := 0, failing := [], arrives := [], matrix := [],
    matDone := [], acc := [], rows := [], attn := [],
    pair := none, pairLog := [], signature := 0, pairOk := 0 }

/-- The management domain after reset (Table 22.1, Table 22.2): stage 0, accept 0x0001, power limit 3,200 W.
(DESIGN CHOICE, log 148, 149, unsafe.) -/
def Mgmt.reset : Mgmt :=
  { stage := 0, error := 0, accept := 1, dropped := false, retained := false, wasS3 := false, tripped := false,
    args := [0, 0, 0, 0], results := [0, 0, 0, 0], mbstat := 0, mbcmd := 0, mbcode := 0, evbase := 0, events := 0,
    evhead := 0, evtail := 0, evlost := false, parts := [], weights := [], caps := [], freqs := [], powerCap := 3200, power := 0,
    rollback := 0, imgIndex := 0, imgDigest := [], bootCount := 0, routes := [], skeinUp := 0, cxlUp := 0, lmsUsed := 0, atomics := false,
    measured := [], spdm := [] }

/-- The device right after reset. (DESIGN CHOICE, log 1, 3, 72, unsafe; DESIGN CHOICE, log 2, 5, safe; DEDUCED, log 8, safe.) -/
def State.reset : State :=
  { w := Wave.vacant, waves := [], focus := 0, holders := [], agenda := [], parked := [], free := 0, nanotime := 0, cycle := 0, stamp := 0, mem := [],
    poison := [], damage := [], decided := [], hostCopy := [], lanemaps := [], teams := [], launches := [], contexts := [], whorls := [],
    cores := [], tlb := [], walks := [], walkCache := [], moves := [], tlbinvs := [], ats := [], carders := [], distaff := [], egress := [], seqTable := 0, retired := [], mgmt := Mgmt.reset,
    reads := [] }

end Sys2Proof.Machine
end

