-- ==== Sys2Proof/Machine/Store.lean ====
section
/-! DEFINITION. Sparse tables and the one memory. A table lists only what differs from its default, keys strictly rising. An
unlisted byte of memory reads as 0: for scratch the spec says so (R101), for every other memory it is the model's choice. -/

namespace Sys2Proof.Machine

variable {α : Type}

/-- The entry at a key, the default if there is none. -/
def look (d : α) : SMap α → Nat → α
  | [], _ => d
  | (k, x) :: m, i => if k = i then x else look d m i

/-- The entry at a key, if there is one. -/
def find : SMap α → Nat → Option α
  | [], _ => none
  | (k, x) :: m, i => if k = i then some x else find m i

/-- The table with the entry at a key changed, if there is one. -/
def change (f : α → α) : SMap α → Nat → SMap α
  | [], _ => []
  | (k, x) :: m, i => if k = i then (k, f x) :: change f m i else (k, x) :: change f m i

/-- The table with a key's entry placed in order. -/
def ins : SMap α → Nat → α → SMap α
  | [], i, x => [(i, x)]
  | (k, y) :: m, i, x =>
    if i < k then (i, x) :: (k, y) :: m else if i = k then (i, x) :: m else (k, y) :: ins m i x

/-- The table without a key. -/
def erase : SMap α → Nat → SMap α
  | [], _ => []
  | (k, y) :: m, i => if k = i then erase m i else (k, y) :: erase m i

/-- The table with a key's value set; setting the default removes the entry. -/
def put [DecidableEq α] (d : α) (m : SMap α) (i : Nat) (x : α) : SMap α := if x = d then erase m i else ins m i x

/-- Keys strictly rising and above `lo`, and no entry equal to the default. -/
def wfFrom [DecidableEq α] (d : α) : Nat → SMap α → Bool
  | _, [] => true
  | lo, (k, x) :: m => decide (lo ≤ k) && decide (x ≠ d) && wfFrom d (k + 1) m

/-- The canonical form of a table. -/
def wfMap [DecidableEq α] (d : α) (m : SMap α) : Bool := wfFrom d 0 m

/-- The canonical form of memory: addresses strictly rising, no listed byte that reads as an unlisted one does.
(DESIGN CHOICE, log 1, unsafe.) -/
def Memory.wf (m : Memory) : Bool := wfMap (0 : Byte) m

/-- A byte of memory. (DESIGN CHOICE, log 1, unsafe.) -/
def readByte (m : Memory) (loc : Nat) : Byte := look 0 m loc

/-- Memory with a byte set. -/
def writeByte (m : Memory) (loc : Nat) (b : Byte) : Memory := put 0 m loc b

/-- `n` bytes from a location on, the lowest first. -/
def readBytes (m : Memory) (loc : Nat) : Nat → List Byte
  | 0 => []
  | n + 1 => readByte m loc :: readBytes m (loc + 1) n

/-- Bytes written from a location on. -/
def writeBytes (m : Memory) (loc : Nat) : List Byte → Memory
  | [] => m
  | b :: bs => writeBytes (writeByte m loc b) (loc + 1) bs

/-- The little-endian number of some bytes (R15, R140). -/
def natOfBytes : List Byte → Nat
  | [] => 0
  | b :: bs => b.toNat + 256 * natOfBytes bs

/-- `n` little-endian bytes of a number. -/
def bytesOfNat : Nat → Nat → List Byte
  | _, 0 => []
  | x, n + 1 => BitVec.ofNat 8 x :: bytesOfNat (x / 256) n

/-- A 64-bit little-endian word of memory. -/
def readD (m : Memory) (loc : Nat) : W64 := BitVec.ofNat 64 (natOfBytes (readBytes m loc 8))

/-- A 32-bit little-endian word of memory. -/
def readW (m : Memory) (loc : Nat) : W32 := BitVec.ofNat 32 (natOfBytes (readBytes m loc 4))

/-- Memory with a 64-bit word written. -/
def writeD (m : Memory) (loc : Nat) (x : W64) : Memory := writeBytes m loc (bytesOfNat x.toNat 8)

/-- Memory with a 32-bit word written. -/
def writeW (m : Memory) (loc : Nat) (x : W32) : Memory := writeBytes m loc (bytesOfNat x.toNat 4)

/-! ### The unified locations

A location is a number below 2^64 within a region, regions apart by 2^64: device HBM and the CXL tier by physical address
(R282), host memory by its physical address, or by PASID and address where the host has given no translation (R82, R328), a peer's memory by node, context tag and address, a team's scratch by column
and offset (R100). -/

/-- The first location of a region. (DESIGN CHOICE, log 12, unsafe.) -/
def region (r : Nat) : Nat := r * 2 ^ 64

/-- DESIGN CHOICE, log 12, unsafe. -/
def hbmLoc (a : Nat) : Nat := a % 2 ^ 64
/-- DESIGN CHOICE, log 12, unsafe. -/
def tierLoc (a : Nat) : Nat := region 1 + a % 2 ^ 64
/-- DESIGN CHOICE, log 12, unsafe. -/
def hostPhysLoc (a : Nat) : Nat := region 2 + a % 2 ^ 64
/-- DESIGN CHOICE, log 12, unsafe. -/
def hostLoc (pasid va : Nat) : Nat := region (3 + pasid % 2 ^ 20) + va % 2 ^ 64
/-- DESIGN CHOICE, log 12, unsafe. -/
def peerLoc (node tag va : Nat) : Nat := region (2 ^ 21 + (node % 2 ^ 16) * 256 + tag % 256) + va % 2 ^ 64
/-- DESIGN CHOICE, log 12, unsafe; DESIGN CHOICE, log 13, safe. -/
def scratchLoc (team column offset : Nat) : Nat := region (2 ^ 46 + 2 * team + column % 2) + offset % 2 ^ 64

/-- The region of a location, and its address within it. (DESIGN CHOICE, log 12, unsafe.) -/
def regionOf (loc : Nat) : Nat := loc / 2 ^ 64
/-- DESIGN CHOICE, log 12, unsafe. -/
def addrOf (loc : Nat) : Nat := loc % 2 ^ 64

/-- The 128-byte line, the 64-byte sector, the 32-byte error-correction sector and the 4 KiB tile that hold a location
(R85, R90, R117, R308). -/
def lineOf (loc : Nat) : Nat := loc / 128
def sectorOf (loc : Nat) : Nat := loc / 64
def eccSector (loc : Nat) : Nat := loc / 32
def tileOf (loc : Nat) : Nat := loc / 4096

/-- Update every entry of a table that a test selects. -/
def mapEntries (f : Nat → α → α) (m : SMap α) : SMap α := m.map (fun e => (e.1, f e.1 e.2))

end Sys2Proof.Machine
end

