-- ==== Sys2Proof/Machine/Waves.lean ====
section
/-! DEFINITION. Waves and their registers: which wave is in focus, reading and writing its registers and full/empty bits, the
acting set, and moving past an issued word (R15 to R18, R30, R35, R141, R148, R149). -/

namespace Sys2Proof.Machine

/-- What a step or a meaning answers. -/
abbrev Result := Host.Outcome State Fault Refusal

/-! ### Threads and masks -/

/-- Bits [W−1:0] set. -/
def fullMask (width : Nat) : W64 := BitVec.ofNat 64 (2 ^ width - 1)

/-- The threads of a mask below `width`, ascending. -/
def threadsOf (mask : W64) (width : Nat) : List Nat := (List.range width).filter (fun t => mask.getLsbD t)

/-- The mask of a list of threads. (DEDUCED, log 25, unsafe.) -/
def maskOf (ts : List Nat) : W64 := ts.foldl (fun m t => m ||| (1#64 <<< t)) 0

/-- The number of set bits. -/
def popcount (n : Nat) (x : BitVec n) : Nat := ((List.range n).filter (fun i => x.getLsbD i)).length

/-! ### The registers of an architectural state -/

/-- Thread `t` of vector register `r`. -/
def Arch.getV (a : Arch) (r t : Nat) : W32 := look 0 a.v (64 * r + t)

def Arch.setV (a : Arch) (r t : Nat) (x : W32) : Arch := { a with v := put 0 a.v (64 * r + t) x }

/-- Scalar register `r`. -/
def Arch.getS (a : Arch) (r : Nat) : W64 := look 0 a.s r

def Arch.setS (a : Arch) (r : Nat) (x : W64) : Arch := { a with s := put 0 a.s r x }

/-- A set of registers with one put in or taken out. -/
def RegSet.with (m : RegSet) (r : Nat) : RegSet := m ||| (1#128 <<< r)
def RegSet.without (m : RegSet) (r : Nat) : RegSet := m &&& ~~~(1#128 <<< r)

/-- Mark registers empty or full (R148). -/
def Arch.emptyVs (a : Arch) (rs : List Nat) : Arch := { a with emptyV := rs.foldl RegSet.with a.emptyV }
def Arch.fillVs (a : Arch) (rs : List Nat) : Arch := { a with emptyV := rs.foldl RegSet.without a.emptyV }
def Arch.emptySs (a : Arch) (rs : List Nat) : Arch := { a with emptyS := rs.foldl RegSet.with a.emptyS }
def Arch.fillSs (a : Arch) (rs : List Nat) : Arch := { a with emptyS := rs.foldl RegSet.without a.emptyS }

/-- One write of a producer. -/
def Arch.write (a : Arch) : RegWrite → Arch
  | .vec r t x => a.setV r t x
  | .scalar r x => a.setS r x

/-- Scalar register `r` of every thread list: a vector register written from a function of the thread. -/
def Arch.setVs (a : Arch) (r : Nat) (f : Nat → W32) : List Nat → Arch
  | [] => a
  | t :: ts => Arch.setVs (a.setV r t (f t)) r f ts

/-- Words of the clause (R141). -/
def headerN (h : W32) : Nat := (h.extractLsb' 28 4).toNat
def headerClass (h : W32) : Nat := (h.extractLsb' 25 3).toNat
def headerB (h : W32) : Bool := h.getLsbD 24
def headerS (h : W32) : Bool := h.getLsbD 23
def headerW (h : W32) : BitVec 8 := h.extractLsb' 15 8
def headerD (h : W32) (i : Nat) : Bool := i < 15 && h.getLsbD i

/-- The prefix residue after one covered word is consumed (R149). (DEDUCED, log 19, safe.) -/
def Residue.consume (r : Residue) : Residue :=
  if r.left ≤ 1 then Residue.none else { r with pattern := r.pattern >>> 1, left := r.left - 1 }

/-- The address of the clause's header (R144, R166). -/
def CodePos.clause (p : CodePos) : W64 := p.pc - 4 - 4 * BitVec.ofNat 64 p.index

/-- The address of the word after the clause (R166). -/
def CodePos.next (p : CodePos) : W64 := p.clause + 4 + 4 * BitVec.ofNat 64 (headerN p.header)

/-- A place at a clause header. -/
def CodePos.atHeader (pc : W64) : CodePos := ⟨pc, false, 0, 0, Residue.none, 0⟩

/-- The place after `n` words: the next word of the clause, or the next clause's header. (DEDUCED, log 19, safe.) -/
def CodePos.advance (p : CodePos) (n : Nat) : CodePos :=
  if headerN p.header ≤ p.index + n then CodePos.atHeader (p.pc + 4 * BitVec.ofNat 64 n)
  else { p with pc := p.pc + 4 * BitVec.ofNat 64 n, index := p.index + n, residue := p.residue.consume }

/-! ### Waves -/

/-- The quarter a wave runs in, as numbered across the device (R7). -/
def Wave.quarterId (w : Wave) : Nat := 4 * w.core + w.quarter

/-- The key of a wave slot. -/
def waveKey (core quarter slot : Nat) : Nat := core * 48 + quarter * 12 + slot

/-- Accesses of a wave and the requests it has under way beside them. -/
def Wave.under (w : Wave) : List Access := w.accesses ++ w.aside

/-- The wave's own key. -/
def Wave.key (w : Wave) : Nat := waveKey w.core w.quarter w.slot

/-- Speculative: an access it has issued is unretired (R123). -/
def Wave.speculative (w : Wave) : Bool := !w.accesses.isEmpty

/-- In its trap handler (Table 7.12). -/
def Wave.inHandler (w : Wave) : Bool := w.trcause.getLsbD 16

/-- The set a covered word, or a word of no prefix, acts on (R149, R181). -/
def Wave.acting (w : Wave) : W64 :=
  if w.a.pos.residue.left = 0 then w.a.exec
  else if w.a.pos.residue.pattern.getLsbD 0 then w.a.pos.residue.elseSet else w.a.pos.residue.thenSet

/-- The acting threads, ascending. -/
def Wave.actingThreads (w : Wave) : List Nat := threadsOf w.acting w.width

/-- A path counter (R42): operations issued on the path and not complete, completed ones counting until every earlier one
is complete. -/
def pathCount (flight : List Flight) (path : Nat) : Nat :=
  ((flight.filter (·.path == path)).dropWhile (·.done)).length

def Wave.count (w : Wave) (path : Nat) : Nat := pathCount w.flight path

/-- Flights with completed ones at the front of each path gone. -/
def tidyFlight (flight : List Flight) : List Flight :=
  (List.range 8).foldl (fun fs p => let n := ((fs.filter (·.path == p)).takeWhile (·.done)).length
    (fs.foldl (fun (acc : List Flight × Nat) f =>
      if f.path == p && 0 < acc.2 then (acc.1, acc.2 - 1) else (acc.1 ++ [f], acc.2)) ([], n)).1) flight

/-- Complete the flight of a word on a path. -/
def Wave.land (w : Wave) (path seq : Nat) : Wave :=
  { w with flight := tidyFlight (w.flight.map (fun f => if f.path == path && f.seq == seq then { f with done := true } else f)) }

/-! ### The wave in focus -/

/-- A wave by its key. -/
def State.wave (s : State) (k : Nat) : Wave := if k = s.focus then s.w else look Wave.vacant s.waves k

/-- The state with a wave replaced. -/
def State.setWave (s : State) (k : Nat) (w : Wave) : State :=
  if k = s.focus then { s with w := w } else { s with waves := put Wave.vacant s.waves k w }

/-- The state with another wave in focus. -/
def State.focusOn (s : State) (k : Nat) : State :=
  if k = s.focus then s
  else { s with w := look Wave.vacant s.waves k, waves := erase (put Wave.vacant s.waves s.focus s.w) k, focus := k }

/-- A core with nothing in it; a core by its number; a core changed. (DESIGN CHOICE, log 3, 72, unsafe.) -/
def Core.vacant : Core :=
  { near := [], notices := [], inbox := [], out := [], fetched := [], clock := 0, since := 0, spindle := [], trans := [], held := [] }
def State.core (s : State) (c : Nat) : Core := look Core.vacant s.cores c
def State.onCore (c : Nat) (f : Core → Core) (s : State) : State := { s with cores := put Core.vacant s.cores c (f (s.core c)) }

/-- The key of an island (Table 22.6), and its frequency in half megahertz: 1.3 GHz until its loop has set it, none after a trip.
(DESIGN CHOICE, log 146, unsafe.) -/
def islandKey (cls index : Nat) : Nat := 1024 * cls + index
/-- DESIGN CHOICE, log 146, unsafe. -/
def State.freq (s : State) (cls index : Nat) : Nat := if s.mgmt.tripped then 0 else look 2600 s.mgmt.freqs (islandKey cls index)

/-- The clock of a core (R12): it follows its island's frequency over device reference time; a frequency of 2,000 half megahertz is a
cycle for each nanosecond. (DEDUCED, log 172, safe.) -/
def State.clockOf (s : State) (c : Nat) : W64 :=
  (s.core c).clock + BitVec.ofNat 64 ((s.nanotime - (s.core c).since).toNat * s.freq 0 c / 2000)

/-- A core's clock counted up to now: what follows counts at another frequency (R336). (DEDUCED, log 172, safe.) -/
def State.countClock (c : Nat) (s : State) : State :=
  s.onCore c (fun x => { x with clock := s.clockOf c, since := s.nanotime })

/-- Device reference time goes on until a core's clock has reached a count, unless its island stands still. (DEDUCED, log 172, safe.) -/
def State.reachClock (c : Nat) (due : W64) (s : State) : State :=
  let short := due.toNat - (s.clockOf c).toNat
  if short = 0 ∨ s.freq 0 c = 0 then s
  else { s with nanotime := s.nanotime + BitVec.ofNat 64 ((2000 * (short + 1) + s.freq 0 c - 1) / s.freq 0 c) }

/-- A Whorl with nothing in it; a Whorl by its number; a Whorl changed. (DESIGN CHOICE, log 72, unsafe.) -/
def Whorl.vacant : Whorl :=
  { slots := [], motion := [], fills := [], waitPin := [], landed := 0, carries := [], leaving := [], evicting := [], busy := [], locked := [],
    owned := [], owning := [], snooped := [], caps := [], asked := [], refused := [], hold := none, defer := [],
    quar := [], full := false, ue := 0, ce := 0, corrected := [], omega := [], temp := [], cooler := [], stamps := [] }
def State.whorl (s : State) (h : Nat) : Whorl := look Whorl.vacant s.whorls h
def State.onWhorl (h : Nat) (f : Whorl → Whorl) (s : State) : State :=
  { s with whorls := put Whorl.vacant s.whorls h (f (s.whorl h)) }

/-- Every wave with its key. -/
def State.allWaves (s : State) : List (Nat × Wave) := (s.focus, s.w) :: s.waves

/-- Apply a change to every wave. -/
def State.mapWaves (s : State) (f : Nat → Wave → Wave) : State :=
  { s with w := f s.focus s.w, waves := mapEntries f s.waves }

/-- Change the wave in focus. -/
def State.onWave (s : State) (f : Wave → Wave) : State := { s with w := f s.w }

/-- Change the architectural state of the wave in focus. -/
def State.onArch (s : State) (f : Arch → Arch) : State := { s with w := { s.w with a := f s.w.a } }

/-- Registers of the wave in focus. -/
def State.vreg (s : State) (r t : Nat) : W32 := s.w.a.getV r t
def State.sreg (s : State) (r : Nat) : W64 := s.w.a.getS r
def State.setV (s : State) (r t : Nat) (x : W32) : State := s.onArch (fun a => a.setV r t x)
def State.setS (s : State) (r : Nat) (x : W64) : State := s.onArch (fun a => a.setS r x)
def State.setVs (s : State) (r : Nat) (f : Nat → W32) (ts : List Nat) : State := s.onArch (fun a => a.setVs r f ts)

/-- Write exec: bits [63:W] are ignored (R18). -/
def State.setExec (s : State) (x : W64) : State := s.onArch (fun a => { a with exec := x &&& fullMask s.w.width })

/-- The wave in focus waits at its word. (DEDUCED, log 18, safe.) -/
def State.holdFor (s : State) (h : Hold) : State := s.onWave (fun w => { w with hold := h })

/-- A fresh index for a free value. -/
def State.tick (s : State) : State := { s with free := s.free + 1 }

/-- Where `holders` keeps a quarter's scalar slot; its vector slot is at the quarter's own number (R33). A slot holds the
number of its wave's slot plus one. -/
def scalarSlot (quarter : Nat) : Nat := 4096 + quarter

/-- A wave holds a slot of its quarter. -/
def Wave.holdsSlot (w : Wave) (holders : SMap Nat) (key : Nat) : Bool := look 0 holders key == w.slot + 1

/-- The slots a wave holds fall free. -/
def freeSlots (w : Wave) (holders : SMap Nat) : SMap Nat :=
  let drop := fun (m : SMap Nat) key => if w.holdsSlot m key then put 0 m key 0 else m
  drop (drop holders w.quarterId) (scalarSlot w.quarterId)

/-- The wave's run ends and its slot falls free (R35). -/
def State.endRun (s : State) : State :=
  { s with w := { s.w with ran := 0 }, holders := freeSlots s.w s.holders }

/-- The wave waits and gives up the slot (R35 cases 3, 6 and 8). (DEDUCED, log 18, safe.) -/
def State.blockFor (s : State) (h : Hold) : State := (s.holdFor h).endRun

/-- The word count that marks a run YIELD ends after its clause (R35 case 4): beyond what any run counts. -/
def yieldMark : Nat := 1000

/-- The end of a clause: the run ends by B, by its word count, or by YIELD; `rest` marks the first two (R35, R36). A run that ends by YIELD
and by one of the others counts as ended by YIELD: the spec does not say which. (DESIGN CHOICE, log 176, unsafe.) -/
def State.boundary (s : State) (b : Bool) : State :=
  if b || 24 ≤ s.w.ran then (s.onWave (fun w => { w with rest := decide (w.ran < yieldMark) })).endRun else s

/-- Record the boundary after the word being issued in the accesses it made (R123, R124). -/
def Wave.seal (w : Wave) (logged : Nat) : Wave :=
  { w with
    accesses := w.accesses.map (fun x => if x.seq == w.seq then { x with snap := w.a } else x)
    txn := w.txn.map (fun t => { t with log := t.log + logged })
    seq := w.seq + 1 }

/-- The last element of a list changed. -/
def changeLast (f : Access → Access) : List Access → List Access
  | [] => []
  | [x] => [f x]
  | x :: xs => x :: changeLast f xs

/-- Undo-log entries go to the youngest access before this word (R124). -/
def Wave.logWrites (w : Wave) (n : Nat) : Wave :=
  { w with accesses := changeLast (fun x => { x with log := x.log + n }) (w.accesses.filter (fun x => x.seq < w.seq)) ++
      w.accesses.filter (fun x => w.seq ≤ x.seq) }

/-- A late result put into the registers and into every recorded boundary at or after word `n` (R124). -/
def Wave.patch (w : Wave) (n : Nat) (f : Arch → Arch) : Wave :=
  { w with
    a := f w.a
    accesses := w.accesses.map (fun x => if n ≤ x.seq then
      { x with snap := f x.snap, pending := if n < x.seq then x.pending.map (fun p => { p with before := f p.before }) else x.pending } else x)
    txn := w.txn.map (fun t => { t with
      snap := if n ≤ t.seq then f t.snap else t.snap
      accs := t.accs.map (fun x => if n ≤ x.seq then { x with snap := f x.snap } else x) }) }

/-- Registers that hold undefined values until the wave waits on mx (R148, R224). (DEDUCED, log 88, safe.) -/
def Wave.undefRegs (w : Wave) : List Nat := (w.matrix ++ w.matDone).flatMap (·.undef)

/-- Undo-log entries in use (R124). -/
def Wave.logUsed (w : Wave) : Nat := (w.accesses.map (·.log)).foldl (· + ·) 0

/-- The wave in focus has issued a word of `n` code words that writes `logged` registers: it moves past it, the boundary is
recorded, and at the end of the clause the run may end. -/
def advance (n logged : Nat) (s : State) : State :=
  let b := headerB s.w.a.pos.header
  let pos := s.w.a.pos.advance n
  let w := { s.w with a := { s.w.a with pos := pos }, ran := s.w.ran + n, hold := .none, sampled := [], lastIssue := s.clockOf s.w.core, promoted := false, pairOk := 0 }
  let s := { s with w := (w.logWrites logged).seal logged }
  if pos.inClause then s else s.boundary b

/-- The wave in focus has issued the last word of its clause and goes on at a clause header elsewhere (R166). -/
def jump (target : W64) (logged : Nat) (s : State) : State :=
  let b := headerB s.w.a.pos.header
  let w := { s.w with a := { s.w.a with pos := CodePos.atHeader target }, ran := s.w.ran + 1, hold := .none, sampled := [],
                      lastIssue := s.clockOf s.w.core, promoted := false, pairOk := 0 }
  State.boundary { s with w := (w.logWrites logged).seal logged } b

end Sys2Proof.Machine
end

