-- ==== Sys2Proof/Machine/Speculation.lean ====
section
/-! DEFINITION. Undoing run-ahead: rollback to the checkpoint (R123 to R133) and the abort of a transaction (R134, R209,
R210). The checkpoint stands directly after the oldest unretired access, whose `snap` is the state there. -/

namespace Sys2Proof.Machine

/-- A request of a Whorl word that its front has refused (R96, R204). -/
def AccessOp.isWhorl : AccessOp → Bool
  | .whorl _ _ => true
  | _ => false

/-- Everything a wave issued from word `n` on is discarded: accesses, counters, producers and guarded commands (R127, R128), and
what its port engines fetched ahead, but for fetches in spaces 4 and 5, which are never made again (R129).
(DEDUCED, log 33, 43, safe.) -/
def discardFrom (k n : Nat) (s : State) : State :=
  let w := s.wave k
  let kept := w.aside.filter (fun x => x.path == 6 || (x.op.isWhorl && decide (x.seq < n)))
  let w := { w with
    accesses := w.accesses.filter (fun x => x.seq < n)
    aside := kept
    flight := tidyFlight (w.flight.filter (fun f => f.seq < n || kept.any (fun x => x.seq == f.seq)))
    producers := w.producers.filter (fun p => p.seq < n)
    matrix := w.matrix.filter (fun m => m.seq < n)
    attn := w.attn.filter (fun m => m.seq < n)
    pend := if w.pendSeq < n then w.pend else none }
  let w := { w with acc := w.acc.filter (fun e => w.undefRegs.contains (e.1 / 64)) }
  let s := s.setWave k w
  { s with
    cores := mapEntries (fun _ c => { c with
      spindle := c.spindle.filter (fun x => !(x.wave == k && n ≤ x.seq))
      trans := mapEntries (fun _ q => q.filter (fun x => !(x.wave == k && n ≤ x.seq))) c.trans }) s.cores
    carders := mapEntries (fun _ q => q.filter (fun x => !(x.wave == k && n ≤ x.seq))) s.carders
    distaff := s.distaff.filter (fun x => !(x.wave == k && n ≤ x.seq)) }

/-- What a wave issued after word `n` is discarded. -/
def discardAfter (k n : Nat) (s : State) : State := discardFrom k (n + 1) s

/-- The Whorl holds of a wave end and the invalidations they deferred go to their cores (R132). -/
def releaseHolds (k : Nat) (s : State) : State :=
  let mine := fun (h : Whorl) => match h.hold with
    | some (j, _) => j == k
    | none => false
  let deferred : List (Nat × Nat) := (s.whorls.filter (fun e => mine e.2)).flatMap (fun e => e.2.defer)
  let s := { s with
    whorls := mapEntries (fun _ h => if mine h then { h with hold := none, defer := [] } else h) s.whorls
    cores := deferred.foldl (fun cs (d : Nat × Nat) => change (fun (c : Core) => { c with inbox := c.inbox ++ [(d.2, false)] }) cs d.1) s.cores }
  s.setWave k { s.wave k with holds := [] }

/-- The mode after a rollback count (Table 6.1). -/
def modeAfterRollback (force : Bool) (mode : BitVec 2) (consec : Nat) : BitVec 2 :=
  if 8 ≤ consec then 2#2 else if 3 ≤ consec || force then (if mode = 2#2 then 2#2 else 1#2) else mode

/-- The mode after a release without rollback. -/
def modeAfterRelease (force : Bool) : BitVec 2 := if force then 1#2 else 0#2

/-- A wave's checkpoint is released: no unretired access remains (R123, R131, R132). What a rollback before it left to be done again has
retired too: the release itself is one without a rollback (R320). (DEDUCED, log 44, safe.) -/
def releaseCheckpoint (k : Nat) (s : State) : State :=
  let s := releaseHolds k s
  let w := s.wave k
  s.setWave k { w with consec := 0, mode := modeAfterRelease w.force }

/-- The lines a wave has locked for a commit are unlocked (R135). Ownership asked for is asked again by whoever still needs it.
(DESIGN CHOICE, log 159, safe.) -/
def unlockLines (k : Nat) (s : State) : State :=
  { s with whorls := mapEntries (fun _ h => { h with locked := h.locked.filter (fun e => e.2 != k), owning := [] }) s.whorls }

/-- Abort the open transaction of a wave (R209): the state directly after TBEGIN, with the threads of exec there marked in
its destination, no transaction open, no line locked, the mode as before it, and txstat's code and count. (DEDUCED, log 51, unsafe.) -/
def abortTxn (k : Nat) (code : BitVec 3) (s : State) : State :=
  match (s.wave k).txn with
  | none => s
  | some t =>
    let s := unlockLines k (releaseHolds k (discardAfter k t.seq s))
    let w := s.wave k
    s.setWave k { w with
      a := t.snap.setS t.sd t.snap.exec
      accesses := [], sampled := []
      txn := none, txCode := code, txAborts := if w.txAborts = 0xffff#16 then w.txAborts else w.txAborts + 1
      mode := t.mode
      pairOk := 0
      hold := .none }

/-- Roll a wave back to its checkpoint (R127). `counted` is false for the rollbacks R130 exempts. (DEDUCED, log 42, safe.) -/
def rollback (k : Nat) (counted : Bool) (s : State) : State :=
  let w := s.wave k
  if w.txn.isSome then
    let s := abortTxn k 2#3 s
    if counted then
      let w := s.wave k
      let consec := min 255 (w.consec + 1)
      s.setWave k { w with total := w.total + 1, consec := consec,
                           mode := modeAfterRollback w.force w.mode consec }
    else s
  else
    match w.accesses with
    | [] => s
    | oldest :: _ =>
      let s := releaseHolds k (discardAfter k oldest.seq s)
      let w := s.wave k
      let consec := if counted then min 255 (w.consec + 1) else w.consec
      s.setWave k { w with
        a := oldest.snap
        hold := .none
        sampled := []
        total := if counted then w.total + 1 else w.total
        consec := consec
        mode := if counted then modeAfterRollback w.force w.mode consec else w.mode }

/-- The oldest access of a wave retires (R123): the checkpoint moves past the next one, or is released; that of TBEGIN stays
until TEND (R134). -/
def retireOldest (k : Nat) (s : State) : State :=
  let w := s.wave k
  match w.accesses with
  | [] => s
  | _ :: rest =>
    let s := s.setWave k { w with accesses := rest }
    if rest.isEmpty && w.txn.isNone then releaseCheckpoint k s else s

end Sys2Proof.Machine
end

