-- ==== Sys2Proof/Machine/Ops.lean ====
section
/-! DEFINITION. Taking an exception, as one operation, and the return from one (R130, R153 to R158, R210); stopping a launch
on a terminating cause (R156, R314). -/

namespace Sys2Proof.Machine

/-- The causes of Table 7.10. -/
def Cause.illegal : BitVec 8 := 0x01
/-- No cause: a translation whose walk is on its way (R285). -/
def Cause.waiting : BitVec 8 := 0x00
def Cause.clause : BitVec 8 := 0x02
def Cause.register : BitVec 8 := 0x03
def Cause.empty : BitVec 8 := 0x04
def Cause.handle : BitVec 8 := 0x05
def Cause.bounds : BitVec 8 := 0x06
def Cause.permission : BitVec 8 := 0x07
def Cause.misaligned : BitVec 8 := 0x08
def Cause.notPresent : BitVec 8 := 0x09
def Cause.protection : BitVec 8 := 0x0a
def Cause.poison : BitVec 8 := 0x0b
def Cause.fp : BitVec 8 := 0x0c
def Cause.barrier : BitVec 8 := 0x0d
def Cause.scratch : BitVec 8 := 0x0e
def Cause.gang : BitVec 8 := 0x0f
def Cause.breakpoint : BitVec 8 := 0x10
def Cause.software : BitVec 8 := 0x11
def Cause.privileged : BitVec 8 := 0x12
def Cause.stale : BitVec 8 := 0x13
def Cause.txn : BitVec 8 := 0x14
def Cause.unbound : BitVec 8 := 0x15
def Cause.sequence : BitVec 8 := 0x16

/-- Causes that go to the user handler when one is declared (Table 7.11). -/
def handlerCause (c : BitVec 8) : Bool :=
  c == Cause.empty || c == Cause.fp || c == Cause.breakpoint || c == Cause.software

/-- The handler's address (Table 7.16): 0 when none is declared. -/
def Wave.trvec (w : Wave) : W64 := if w.env.trap = 0 then 0 else w.env.code + w.env.trap.setWidth 64

/-- trcause (Table 7.12). -/
def trcauseWord (post inh : Bool) (detail cause : BitVec 8) : W64 :=
  (0#46 ++ BitVec.ofBool post ++ BitVec.ofBool inh ++ detail ++ cause).setWidth 64

/-- A trap on the word in focus, found before it has any effect. -/
def trapHere (s : State) (cause detail : BitVec 8) (mask : W64) : PendTrap :=
  ⟨cause, detail, false, mask, s.w.inst, s.w.a.pos.pc, 0, 0, 0, 0, false⟩

/-- Stop a launch on a terminating cause (R314): the first cause is kept, and the command processor decides.
(DESIGN CHOICE, log 9, safe.) -/
def stopLaunch (launch : Nat) (why : Stop) (s : State) : State :=
  match find s.launches launch with
  | none => s
  | some l =>
    if l.stopCause.isSome then s
    else { s with launches := change (fun l => { l with stopCause := some why }) s.launches launch,
                  agenda := s.agenda ++ [Instr.terminatingCause launch] }

/-- A step that cannot be taken yet waits, and is offered again (R303). (DEDUCED, log 137, safe.) -/
def park (i : Instr) (s : State) : State := { s with parked := s.parked ++ [i] }

/-- Record a trap in the wave in focus (Tables 7.12 to 7.15). (DEDUCED, log 75, unsafe.) -/
def recordTrap (t : PendTrap) (inh : Bool) (s : State) : State :=
  s.onWave (fun w => { w with
    trcause := trcauseWord t.post inh t.detail t.cause
    trpc := t.pc, trmask := t.mask, trinst := t.inst, trexec := w.a.exec
    trpos := { w.a.pos with pc := t.pc }, trwritten := false, pend := none, pairOk := 0 })

/-- Entry to the user handler (R158): trap state saved, exec full, the handler's address next, decoded as a header.
(DEDUCED, log 58, safe.) -/
def enterHandler (t : PendTrap) (s : State) : State :=
  let s := recordTrap t true s
  (s.onWave (fun w => { w with
    a := { w.a with exec := fullMask w.width, pos := CodePos.atHeader w.trvec }
    hold := .none, sampled := [] })).endRun

/-- A trap that terminates the launch (R156): the wave stops at the word with its trap state recorded.
(DEDUCED, log 58, safe; DEDUCED, log 75, unsafe.) -/
def terminate (t : PendTrap) (s : State) : State :=
  let s := recordTrap t s.w.inHandler s
  let s := (s.onWave (fun w => { w with station := .stopped, hold := .none })).endRun
  stopLaunch s.w.launch ⟨t.cause, t.agent, t.access, t.va, t.pc, s.focus, t.level, t.large⟩ s

/-- A wave stopped by a terminating trap, whichever is in focus. -/
def stopWave (k : Nat) (t : PendTrap) (s : State) : State := (terminate t (s.focusOn k)).focusOn s.focus

/-- A word that has issued ends its launch (R155): what the wave issued after it is rolled back, and the trap state is that of the boundary
directly after it. -/
def stopAfter (k seq : Nat) (snap : Arch) (t : PendTrap) (s : State) : State :=
  let s := discardAfter k seq s
  stopWave k t (s.setWave k { s.wave k with a := snap, accesses := [] })

/-- TAKING A TRAP on the wave in focus (R156): to the user handler if the cause goes there, one is declared and the wave is
not in it; otherwise the launch terminates. (DEDUCED, log 75, unsafe.) -/
def deliverTrap (t : PendTrap) (s : State) : State :=
  if handlerCause t.cause && s.w.env.trap != 0 && !s.w.inHandler then enterHandler t s else terminate t s

/-- A trap found at issue: inside a transaction it aborts with code 6 (R210); on a speculative wave it is pending until the wave
is not, unless a rollback discards it with its word (R130); otherwise it is taken, by `k`.
(DEDUCED, log 43, 58, safe; DEDUCED, log 62, unsafe.) -/
def trapBy (t : PendTrap) (k : State → State) (s : State) : State :=
  if s.w.txn.isSome then abortTxn s.focus 6#3 s
  else if s.w.speculative then s.onWave (fun w => { w with pend := some t, pendSeq := w.seq, hold := .nonspec })
  else k s

/-- A trap of the word in issue, taken as its cause is routed. -/
def takeTrap (t : PendTrap) (s : State) : State := trapBy t (deliverTrap t) s

/-- The meaning of a word that traps. -/
def raise (cause detail : BitVec 8) (mask : W64) (s : State) : Result :=
  .next (takeTrap (trapHere s cause detail mask) s)

/-- The meaning of a word whose access traps: its record shows the access and the address (R288). -/
def raiseAccess (cause : BitVec 8) (mask : W64) (access : BitVec 2) (va : W64) (s : State) : Result :=
  .next (takeTrap { trapHere s cause 0 mask with access := access, va := va } s)

/-- RETURN from the user handler (R158): exec restored, in_handler clear, and the saved place resumed, unless trpc has been
written, when its address is decoded as a clause header. -/
def returnFromHandler (s : State) : State :=
  (s.onWave (fun w => { w with
    trcause := w.trcause &&& ~~~(0x10000#64)
    hold := .none
    seq := w.seq + 1
    pairOk := 0
    a := { w.a with exec := w.trexec &&& fullMask w.width
                    pos := if w.trwritten then CodePos.atHeader w.trpc else w.trpos } }))

end Sys2Proof.Machine
end

