-- ==== Sys2Proof/Machine/Coherence.lean ====
section
/-! DEFINITION. Where a line lives and who holds it (R85, R302, R303): tiles of a Whorl, directory entries, the loss of a line by a
core, and a write performed at its homes in one step, as engines, the command processor and the host make it (R119, R309, R310). -/

namespace Sys2Proof.Machine

/-- A tile that a shift has yet to push out of the last usable slot (R90). -/
def Whorl.leavingOf (h : Whorl) (tile : Nat) : Option Leaving := h.leaving.find? (fun l => l.tile.tile == tile)

/-- The slot that holds a tile. -/
def Whorl.slotOf (h : Whorl) (tile : Nat) : Option Nat :=
  match h.slots.find? (fun e => e.2.tile == tile) with
  | some e => some e.1
  | none => (h.leavingOf tile).map (·.slot)

/-- The motion buffer entry that holds a tile. -/
def Whorl.moving (h : Whorl) (tile : Nat) : Option Motion := h.motion.find? (fun m => m.tile.tile == tile)

/-- A resident tile: in a slot, in motion, or a scratch tile whose motion waits (R101). -/
def Whorl.tileOf (h : Whorl) (tile : Nat) : Option Tile :=
  match h.moving tile with
  | some m => some m.tile
  | none =>
    match h.slots.find? (fun e => e.2.tile == tile) with
    | some e => some e.2
    | none => ((h.leavingOf tile).map (·.tile)).or ((h.waitPin.find? (fun t => t.2.tile == tile)).map (·.2))

/-- Every tile that a Whorl holds changed, wherever it is. -/
def Whorl.mapTiles (g : Tile → Tile) (h : Whorl) : Whorl :=
  { h with slots := mapEntries (fun _ t => g t) h.slots, motion := h.motion.map (fun m => { m with tile := g m.tile }),
           waitPin := h.waitPin.map (fun t => (t.1, g t.2)), leaving := h.leaving.map (fun l => { l with tile := g l.tile }) }

/-- Change a tile wherever it is held. -/
def Whorl.onTile (tile : Nat) (f : Tile → Tile) (h : Whorl) : Whorl := h.mapTiles (fun t => if t.tile == tile then f t else t)

/-- The tiles in slots and in motion. -/
def Whorl.tiles (h : Whorl) : List Tile := h.slots.map (·.2) ++ h.motion.map (·.tile) ++ h.leaving.map (·.tile)

/-- The home Whorl of a line (R85): the exclusive-or of the ten 4-bit groups of the tile number; scratch lies in the Whorl
of its team's group. -/
def foldNibbles : Nat → Nat → Nat
  | 0, _ => 0
  | k + 1, a => (a % 16) ^^^ foldNibbles k (a / 16)

def homeWhorl (s : State) (line : Nat) : Nat :=
  let loc := line * 128
  if 2 ^ 46 ≤ regionOf loc then
    match find s.teams ((regionOf loc - 2 ^ 46) / 2) with
    | some t => t.core / 24
    | none => 0
  else foldNibbles 10 (addrOf loc / 4096)

/-- Accesses that write memory (R123). -/
def AccessOp.writes : AccessOp → Bool
  | .loadS _ _ _ => false
  | .loadV _ _ _ => false
  | .loadL _ => false
  | .store => true
  | .portStore _ => true
  | .atomic _ _ _ _ => true
  | .reduce _ => true
  | .dmrd _ _ => false
  | .whorl _ _ => false
  | .port => false
  | .fetch _ _ => false

/-- Lines a transaction's threads have read, each once (R134). -/
def Txn.readLines (t : Txn) : List Nat := (t.reads.flatMap (fun r => r.2.map lineOf)).eraseDups

/-- Lines a transaction writes, each once (R134). -/
def Txn.writeLines (t : Txn) : List Nat := ((t.accs.flatMap (·.elems)).flatMap (fun e => e.locs.map lineOf)).eraseDups

/-- Whether an access touches a line. -/
def Access.touches (x : Access) (line : Nat) : Bool := x.elems.any (fun e => e.locs.any (fun l => lineOf l == line))

/-- An access has read a line: its request for it has been served. -/
def Access.hasRead (x : Access) (line : Nat) : Bool := !x.op.writes && x.reqs.any (fun r => r.line == line && r.phase == .done)

/-- A load has taken bytes of a line from a buffered write that has left the buffer since (R125): the line may change under it, as
under a load served at the home. (DEDUCED, log 40, safe.) -/
def Wave.readsBuffered (w : Wave) (line : Nat) : Bool :=
  w.accesses.any (fun x => x.elems.any (fun e => e.fwd.any (fun f => lineOf f.1 == line &&
    !w.accesses.any (fun y => !y.left && y.op.writes && decide (y.seq < x.seq) &&
      y.elems.any (fun g => g.thread == e.thread && g.locs.contains f.1)))))

/-- A wave has read a line: by an unretired load, for a step of a port, or in its open transaction. -/
def Wave.reads (w : Wave) (line : Nat) : Bool :=
  w.under.any (fun x => x.hasRead line) || w.txn.any (fun t => t.readLines.contains line)

/-- A line's directory entry. -/
def dirEntry (h : Whorl) (line : Nat) : DirEntry :=
  match h.tileOf (line / 32) with
  | some t => look ⟨false, []⟩ t.dir (line % 32)
  | none => ⟨false, []⟩

def setDir (line : Nat) (d : DirEntry) (h : Whorl) : Whorl :=
  h.onTile (line / 32) (fun t => { t with dir := put ⟨false, []⟩ t.dir (line % 32) d })

/-- The groups of eight cores of some cores. -/
def coreGroups (cores : List Nat) : List Nat := (cores.map (· / 8)).eraseDups

/-- A new sharer: a pointer while four serve, else the groups. (DEDUCED, log 132, safe.) -/
def DirEntry.add (d : DirEntry) (core : Nat) : DirEntry :=
  if d.coarse then (if d.sharers.contains (core / 8) then d else { d with sharers := d.sharers ++ [core / 8] })
  else if d.sharers.contains core then d
  else if d.sharers.length < 4 then { d with sharers := d.sharers ++ [core] }
  else ⟨true, coreGroups (d.sharers ++ [core])⟩

/-- The cores an invalidation goes to. -/
def DirEntry.cores (d : DirEntry) : List Nat :=
  if d.coarse then d.sharers.flatMap (fun g => (List.range 8).map (8 * g + ·)) else d.sharers

/-- Every core that must lose a line before a write: those listed, and those with a speculative load of it (R126). A wave's own write
does not change what the wave took from it, so the loads that it forwarded to are no sharers of it (R125).
(DEDUCED, log 132, safe; DEDUCED, log 40, safe.) -/
def sharersOf (s : State) (writer : Option Nat) (home line : Nat) : List Nat :=
  ((dirEntry (s.whorl home) line).cores ++ (s.allWaves.filter (fun e =>
    e.2.reads line || (some e.1 != writer && e.2.readsBuffered line))).map (fun e => e.2.core)).eraseDups

/-- Whether losing a line rolls a wave back: a load issued since its checkpoint, or a transactional read (R126, R135).
(DEDUCED, log 42, safe.) -/
def Wave.loses (w : Wave) (line : Nat) : Bool :=
  w.accesses.tail.any (fun x => !x.op.writes && x.touches line) || w.txn.any (fun t => t.readLines.contains line)

/-- Fetches of a wave's port engines dropped: they are no longer counted. (DEDUCED, log 33, safe.) -/
def Wave.dropFetches (p : Access → Bool) (w : Wave) : Wave :=
  (w.aside.filter p).foldl (fun (w : Wave) x => w.land x.path x.seq) { w with aside := w.aside.filter (fun x => !p x) }

/-- A request that stands at its home: arrived, joined to a fill, queued behind a line in use, or waiting for ownership. -/
def ReqPhase.atHome (p : ReqPhase) : Bool := p == .sent || p == .filling || p == .queued || p == .owning

/-- Requests for a line marked: the core has lost the line they were served, or, where the core drops it itself, the line that they are to
be served, whose notice is on its way behind them (R300, R303). -/
def Access.lose (line : Nat) (drops : Bool) (x : Access) : Access :=
  { x with reqs := x.reqs.map (fun r =>
      if r.line == line && (r.phase == .done || (drops && (r.phase.atHome || r.phase == .acks))) then { r with lost := true } else r) }

/-- What a wave of a core forgets as the core loses a line: steps fetched from it are fetched again (R102, R105), and no line served
of it is allocated any more (R251). -/
def Wave.forget (line : Nat) (drops : Bool) (w : Wave) : Wave :=
  let w := w.dropFetches (fun x => x.path != 6 && x.hasRead line)
  { w with accesses := w.accesses.map (Access.lose line drops), aside := w.aside.map (Access.lose line drops) }

/-- A core loses a line: every wave of it that had read the line ahead rolls back. (DEDUCED, log 41, 42, safe.) -/
def loseLine (core line : Nat) (drops : Bool) (s : State) : State :=
  let s := s.mapWaves (fun _ w => if w.core == core then w.forget line drops else w)
  s.allWaves.foldl (fun (s : State) e =>
    if (s.wave e.1).core == core && (s.wave e.1).loses line then rollback e.1 true s else s) s

/-- A line leaves every near cache at once, with the rollbacks that brings: for writes modelled in one step.
(DEDUCED, log 48, safe.) -/
def invalidateNow (line : Nat) (s : State) : State :=
  let home := homeWhorl s line
  let cores := sharersOf s none home line
  let s := cores.foldl (fun (s : State) c =>
    loseLine c line false (s.onCore c (fun x => { x with near := x.near.filter (· != line) }))) s
  s.onWhorl home (setDir line ⟨false, []⟩)

/-! ### Lines in use (R119, R132, R135, R303, R329) -/

/-- A write, an eviction or a commit is in progress on a line: every other request to it waits (R303). -/
def Whorl.inUse (h : Whorl) (line : Nat) : Bool :=
  h.busy.any (fun b => b.1 == line) || h.locked.any (fun b => b.1 == line) || h.evicting.any (fun t => t.tile == line / 32)

/-- A line whose invalidation the holder of its Whorl defers (R132). -/
def deferred (s : State) (line : Nat) : Bool :=
  match (s.whorl (homeWhorl s line)).hold with
  | some (k, _) => (s.wave k).reads line || (s.wave k).readsBuffered line
  | none => false

/-- A line that the home must first get from the host: one of space 3 that it does not own, or one of which the host has a copy. -/
def unowned (s : State) (line : Nat) : Bool :=
  (regionOf (line * 128) == 2 && !(s.whorl (homeWhorl s line)).owned.contains line) || s.hostCopy.contains line

/-- A line that a write in one step must wait for. -/
def lineHeld (s : State) (line : Nat) : Bool := (s.whorl (homeWhorl s line)).inUse line || deferred s line || unowned s line

/-- Nothing keeps a write of some bytes from being performed at its homes in one step (R119, R132, R135, R303). -/
def homeFree (s : State) (locs : List Nat) : Bool := !((locs.map lineOf).eraseDups).any (lineHeld s)

/-- Ownership of lines asked for at their homes (R119, R329). -/
def askOwning (lines : List Nat) (s : State) : State :=
  lines.foldl (fun (s : State) l =>
    if unowned s l then
      s.onWhorl (homeWhorl s l) (fun h => { h with owning := if h.owning.contains l then h.owning else h.owning ++ [l] })
    else s) s

/-! ### Who goes first (R36, R132) -/

/-- What follows the time in the order of waves: the launch that became eligible earlier, context tag, launchid, identifier. -/
def rankTail (s : State) (w : Wave) : List Nat :=
  let stamp := match find s.launches w.launch with | some l => l.stamp | none => 0
  [stamp, w.env.tag.toNat, w.env.launchid.toNat, w.teamid.toNat, w.wid]

/-- The order of steps 2 and 3 of R36: launch priority, the placement of the wave's team, then `rankTail`; least first. -/
def waveRank (s : State) (w : Wave) : List Nat :=
  (15 - w.env.level.toNat) :: (match find s.teams w.team with | some t => t.age | none => 0) :: rankTail s w

/-- Hold rank (R132): launch priority, the launch's placement time, then `rankTail`; least first. -/
def holdRank (s : State) (w : Wave) : List Nat :=
  (15 - w.env.level.toNat) :: (match find s.launches w.launch with | some l => l.placed | none => 0) :: rankTail s w

/-- A wave asks a Whorl for its hold (R132, R136): held, with a load on its way there, or with a line of a sole transaction. -/
def wantsHold (s : State) (home : Nat) (w : Wave) : Bool :=
  w.mode == 2#2 &&
    (w.accesses.any (fun x => !x.op.writes && x.reqs.any (fun r => r.home == home && r.phase != .done)) ||
      w.txn.any (fun t => t.sole && (t.readLines ++ t.writeLines).any (fun l => homeWhorl s l == home)))

/-- A Whorl without a holder grants its hold to the requester of lowest rank (R132). (DEDUCED, log 45, safe.) -/
def grantHold (home : Nat) (s : State) : State :=
  if (s.whorl home).hold.isSome then s
  else
    match ((s.allWaves.filter (fun e => wantsHold s home e.2)).foldl (fun (best : Option (Nat × Wave)) e =>
      match best with
      | none => some e
      | some b => if holdRank s e.2 < holdRank s b.2 then some e else some b) none) with
    | none => s
    | some (k, _) =>
      let s := s.onWhorl home (fun h => { h with hold := some (k, s.cycle) })
      s.setWave k { s.wave k with holds := (s.wave k).holds ++ [home] }

/-! ### Poison (R308, R309) -/

/-- Poison, or undetected errors, of the sectors of a write: all 32 bytes written clear them, a partial write leaves them (R309). -/
def clearPoison (poison : List Nat) (locs : List Nat) : List Nat :=
  poison.filter (fun sec => !((List.range 32).all (fun i => locs.contains (32 * sec + i))))

/-- Poison set on the sectors of some locations: data that came marked (R308). -/
def setPoison (poison : List Nat) (locs : List Nat) : List Nat :=
  poison ++ ((locs.map eccSector).eraseDups).filter (fun sec => !poison.contains sec)

/-- The first second-tier address past the ports up to and including one, up to 8 TiB in all (R334). (DESIGN CHOICE, log 120, unsafe.) -/
def tierEnd : Nat → Nat
  | 0 => min (2 ^ 43) (Config.tierCapacity 0)
  | p + 1 => min (2 ^ 43) (tierEnd p + Config.tierCapacity (p + 1))

/-- A location of the second tier whose port is down, or that no port holds (R334). (DESIGN CHOICE, log 120, unsafe.) -/
def tierDown (s : State) (loc : Nat) : Bool :=
  regionOf loc == 1 && !(([0, 1, 2, 3].find? (fun p => decide (addrOf loc < tierEnd p))).any (fun p => s.mgmt.cxlUp.getLsbD p))

/-- A 32-byte sector with an error that its check will find and no other copy replaces (R308): all but a clean one in a Whorl. -/
def latent (s : State) (sector : Nat) : Bool :=
  s.damage.contains sector && !((s.whorl (homeWhorl s (sector / 4))).tileOf (sector / 128)).any (fun t =>
    t.present.getLsbD (sector % 128 / 2) && !t.dirty.getLsbD (sector % 128 / 2))

/-- Any poisoned sector among some locations, as they read: an uncorrectable error is met as they are (R308), and everything behind a
second-tier port that is down reads poisoned. (DEDUCED, log 155, unsafe.) -/
def anyPoison (s : State) (locs : List Nat) : Bool :=
  s.poison.any (fun sec => locs.any (fun l => eccSector l == sec)) || locs.any (tierDown s) || locs.any (fun l => latent s (eccSector l))

/-- The device virtual address of byte `i` of an element: its bytes follow one another, or are the thread's words of one line. -/
def Elem.vaOf (e : Elem) (i : Nat) : W64 :=
  let l := e.locs.getD i 0
  let l0 := e.locs.getD 0 0
  if lineOf l = lineOf l0 then e.va + BitVec.ofNat 64 l - BitVec.ofNat 64 l0 else e.va + BitVec.ofNat 64 i

/-- The first poisoned sector that some elements touch, by the address at which they reach its first byte (R315); a byte for which
`skip` holds is not read. -/
def poisonVa (s : State) (skip : Elem → Nat → Bool) (elems : List Elem) : Option W64 :=
  elems.findSome? (fun e => ((List.range e.locs.length).find? (fun i =>
    !skip e (e.locs.getD i 0) && anyPoison s [e.locs.getD i 0])).map (fun i => e.vaOf i &&& ~~~(31#64)))

/-- A write leaves its sectors dirty with the writer's owner tag (R310); a line without a tile goes to memory. -/
def markDirty (line : Nat) (locs : List Nat) (owner : Option (BitVec 8)) (h : Whorl) : Whorl :=
  h.onTile (line / 32) (fun t => { t with
    dirty := t.dirty ||| ((locs.map (fun l => l / 64 % 64)).eraseDups).foldl (fun (m : BitVec 64) i => m ||| (1#64 <<< i)) 0
    owner := owner })

/-- Bytes written at locations one by one. -/
def writeLocs (m : Memory) : List (Nat × Byte) → Memory
  | [] => m
  | (l, b) :: rest => writeLocs (writeByte m l b) rest

/-- A WRITE PERFORMED AT ITS HOMES in one step (R119): every copy of the lines goes, memory takes the bytes, the sectors are
dirty with the owner's tag; a write behind a second-tier port that is down is dropped; a host copy is taken back, and a line of space 3 owned.
(DEDUCED, log 48, safe; PRESUMED, log 65, safe.) -/
def homeWrite (owner : Option (BitVec 8)) (cells : List (Nat × Byte)) (s : State) : State :=
  let cells := cells.filter (fun c => !tierDown s c.1)
  let locs := cells.map (·.1)
  let lines := (locs.map lineOf).eraseDups
  let s := lines.foldl (fun s l => invalidateNow l s) s
  let s := { s with mem := writeLocs s.mem cells, poison := clearPoison s.poison locs, damage := clearPoison s.damage locs,
                    hostCopy := s.hostCopy.filter (fun l => !lines.contains l) }
  lines.foldl (fun (s : State) l =>
    let home := homeWhorl s l
    s.onWhorl home (fun h =>
      let h := { markDirty l (locs.filter (fun a => lineOf a == l)) owner h with
        owning := h.owning.erase l, snooped := h.snooped.erase l }
      if regionOf (l * 128) = 2 then { h with owned := if h.owned.contains l then h.owned else h.owned ++ [l] } else h)) s

/-- Some bytes with their locations, from one location on. -/
def cellsAt (loc : Nat) (bs : List Byte) : List (Nat × Byte) := bs.zipIdx.map (fun b => (loc + b.2, b.1))

/-- 64-bit words written from one location on. (DEDUCED, log 48, safe.) -/
def homeWords (owner : Option (BitVec 8)) (loc : Nat) (ws : List W64) (s : State) : State :=
  homeWrite owner (cellsAt loc (ws.flatMap (fun x => bytesOfNat x.toNat 8))) s

end Sys2Proof.Machine
end

