-- ==== Sys2Proof/Machine/Translate.lean ====
section
/-! DEFINITION. Translation (R280 to R286, R328): the three-level walk with its accessed and dirty bits, the walkers
and their queues, the translation and walk caches, and a context's words (Table 17.1). -/

namespace Sys2Proof.Machine

/-- The kinds of access a translation is for (Table 18.4). -/
def Access.read : BitVec 2 := 0
def Access.write : BitVec 2 := 1
def Access.atom : BitVec 2 := 2
def Access.fetch : BitVec 2 := 3

/-- A word of a context descriptor (Table 17.1). -/
def Context.word (c : Context) (i : Nat) : W64 := c.words.getD i 0

/-- DESIGN CHOICE, log 142, unsafe. -/
def Context.none : Context :=
  { entry := 0, words := [], active := false, lqtail := [], lqhead := [], admtail := 0, admhead := 0, cplhead := 0, cpltail := 0,
    guards := [], faults := [], lost := false,
    distaff := { step := 0, running := false, done := false, batch := [], rounds := [], ahead := false, next := [], joined := [], admitDue := false,
                 chain := .none, cancels := [], pending := [], denied := [] },
    regions := [], stores := [], closing := false }

/-- The context of a tag; one of zeros when none is active under it. -/
def State.context (s : State) (tag : BitVec 8) : Context := look Context.none s.contexts tag.toNat

/-- DESIGN CHOICE, log 118, unsafe. -/
def Context.part (c : Context) : Nat := ((c.word 0).extractLsb' 56 3).toNat
def Context.ptroot (c : Context) : W64 := c.word 5

/-- Bytes of HBM (R10). -/
def hbmBytes : Nat := 768 * 2 ^ 30

/-- The physical region of a partition in a tier: an eighth of it for each compute die the partition holds, all of it where it is not
set. (DESIGN CHOICE, log 118, 195, unsafe.) -/
def partRegion (s : State) (part : Nat) (tier : Bool) : Nat × Nat :=
  let size := if tier then tierEnd 3 else hbmBytes
  match find s.mgmt.parts part with
  | some (die, n) => (die * (size / 8), n * (size / 8))
  | none => (0, size)

/-- The location a page table entry points to: bits [47:15] in the tier bit 4 names. -/
def entryLoc (e : W64) : Nat :=
  let a := (e &&& 0x0000ffffffff8000#64).toNat
  if e.getLsbD 4 then tierLoc a else hbmLoc a

/-- An entry whose reserved or low bits are wrong (R282). -/
def entryBad (level : Nat) (e : W64) : Bool :=
  e.extractLsb' 48 16 != 0 || e.extractLsb' 7 8 != 0 || (e.getLsbD 1 && level != 1) ||
    (level == 1 && e.getLsbD 1 && e.extractLsb' 15 13 != 0) || (level == 2 && e.getLsbD 15)

/-- What a walk finds: the leaf, where it lies and whether it is a large page; or the cause, level and kind of entry. -/
inductive Walk where
  | ok (leaf : W64) (entry : Nat) (large : Bool)
  | fail (cause : BitVec 8) (level : Nat) (large : Bool)
  deriving DecidableEq, Repr

/-- Whether an entry's 32-byte sector reads poisoned (R282, R308, R322, R334). -/
def badSector (s : State) (loc : Nat) : Bool := anyPoison s [loc]

/-! ### The sequence table (Table 17.8) -/

/-- The location of a word of an entry. (DESIGN CHOICE, log 98, unsafe.) -/
def seqLoc (s : State) (slot i : Nat) : Nat := hbmLoc (s.seqTable.toNat + 128 * slot + 8 * i)

/-- A word of an entry. -/
def seqWord (s : State) (slot i : Nat) : W64 := readD s.mem (seqLoc s slot i)

/-- A word of an entry written by the Distaff, a Carder or TOKC, for the context that owns the entry (R310).
(DEDUCED, log 157, safe.) -/
def setSeqWord (slot i : Nat) (x : W64) (s : State) : State :=
  homeWords (some ((if i = 0 then x else seqWord s slot 0).extractLsb' 52 8)) (seqLoc s slot i) [x] s

/-- The slot a sequence id names. (DESIGN CHOICE, log 98, unsafe.) -/
def seqSlot (id : W32) : Nat := (id.extractLsb' 0 12).toNat

/-- A page of HBM that holds part of the sequence table (R275): 512 KiB from where firmware put it. -/
def holdsSequences (s : State) (loc : Nat) : Bool :=
  decide (s.seqTable.toNat / 2 ^ 16 ≤ loc / 2 ^ 16 ∧ loc / 2 ^ 16 ≤ (s.seqTable.toNat + 4096 * 128 - 1) / 2 ^ 16)

/-- The location of an address under a leaf (R282). -/
def leafLoc (leaf : W64) (large : Bool) (va : W64) : Nat :=
  entryLoc leaf + (if large then va.toNat % 2 ^ 28 else va.toNat % 2 ^ 16)

/-- The page number a cached entry is matched on (R284). -/
def pageOf (large : Bool) (va : W64) : Nat := if large then va.toNat / 2 ^ 28 else va.toNat / 2 ^ 16

/-- An access that writes (R283). -/
def accessWrites (access : BitVec 2) : Bool := access == Access.write || access == Access.atom

/-- A leaf or large page checked against the region and the access (R275, R282). -/
def leafCheck (s : State) (part : Nat) (va : W64) (access : BitVec 2) (leaf : W64) (entry level : Nat) (large : Bool) : Walk :=
  let frame := (leaf &&& 0x0000ffffffff8000#64).toNat
  let (lo, len) := partRegion s part (leaf.getLsbD 4)
  if frame < lo || lo + len < frame + (if large then 2 ^ 28 else 2 ^ 16) then .fail Cause.protection level large
  else if accessWrites access && (!leaf.getLsbD 2 || holdsSequences s (leafLoc leaf large va)) then .fail Cause.protection level large
  else if access == Access.fetch && !leaf.getLsbD 3 then .fail Cause.protection level large
  else if badSector s entry then .fail Cause.poison level large
  else .ok leaf entry large

/-- What reading an entry of a walk comes to: the next table, a leaf or large page, or the end of the walk. -/
inductive EntryRead where
  | table (entry : W64)
  | leaf (w : Walk)
  deriving DecidableEq, Repr

/-- The entry of a level in a table, for an address: bits [51:40], [39:28], [27:16] choose it (R280). -/
def entryAt (level table : Nat) (va : W64) : Nat := table + 8 * (va.toNat / 2 ^ (40 - 12 * level) % 4096)

/-- An entry read and checked, the first cause of R282 that applies. -/
def readEntry (s : State) (part level table : Nat) (va : W64) (access : BitVec 2) : EntryRead :=
  let at' := entryAt level table va
  let e := readD s.mem at'
  if !e.getLsbD 0 then .leaf (.fail Cause.notPresent level (level == 1))
  else if entryBad level e then .leaf (.fail Cause.protection level (level == 1))
  else if level == 2 || (level == 1 && e.getLsbD 1) then .leaf (leafCheck s part va access e at' level (level == 1))
  else if badSector s at' then .leaf (.fail Cause.poison level (level == 1))
  else .table e

/-- A walk from a level on. -/
def walkFrom (s : State) (part : Nat) (va : W64) (access : BitVec 2) : Nat → Nat → Nat → Walk
  | 0, level, _ => .fail Cause.protection level false
  | fuel + 1, level, table =>
    match readEntry s part level table va access with
    | .leaf w => w
    | .table e => walkFrom s part va access fuel (level + 1) (entryLoc e)

/-- The walk of R280 and R282. -/
def walk (s : State) (c : Context) (va : W64) (access : BitVec 2) : Walk :=
  if va.extractLsb' 52 12 != 0 then .fail Cause.protection 0 false
  else walkFrom s c.part va access 3 0 (hbmLoc c.ptroot.toNat)

/-! ### Translation caches (R284) -/

/-- How many entries a cache holds, and in how many sets (Table 18.2). The number of a page chooses its set; a cache of no stated ways is one
set. (DESIGN CHOICE, log 117, unsafe.) -/
def cacheSize : Cache → Nat
  | .core _ => 512
  | .shared _ => 8192
  | .matrix _ => 32
  | .spindle _ => 64
  | .carder _ => 64
def cacheSets : Cache → Nat
  | .core _ => 64
  | .shared _ => 512
  | _ => 1

/-- The cache a miss asks, where it asks one (Table 18.2), and the floor whose walkers serve a miss (R9). -/
def Cache.asks : Cache → Cache
  | .core c => .shared (c / 24)
  | .matrix q => .shared (q / 96)
  | .spindle c => .shared (c / 24)
  | .shared w => .shared w
  | .carder f => .carder f
def Cache.floor : Cache → Nat
  | .core c => c / 96
  | .matrix q => q / 384
  | .spindle c => c / 96
  | .shared w => w / 4
  | .carder f => f

/-- A cached leaf for an address, if one is held. -/
def tlbFind (s : State) (cache : Cache) (tag : BitVec 8) (va : W64) : Option TlbEntry :=
  s.tlb.find? (fun e => e.cache == cache && e.tag == tag && e.vpage == pageOf e.large va)

/-- A cache with an entry put in, the oldest of its set leaving when that is full. (DESIGN CHOICE, log 117, unsafe.) -/
def tlbFill (s : State) (e : TlbEntry) : State :=
  let sets := cacheSets e.cache
  let inSet := fun (x : TlbEntry) => x.cache == e.cache && x.vpage % sets == e.vpage % sets
  let others := s.tlb.filter (fun x => !(x.cache == e.cache && x.tag == e.tag && x.large == e.large && x.vpage == e.vpage))
  let held := (others.filter inSet).take (cacheSize e.cache / sets - 1)
  { s with tlb := e :: held ++ others.filter (fun x => !inSet x) }

/-- A cached leaf serves an access at an address: a write needs W and D as recorded at the fill (R283), and no page of the sequence table
(R275); a fetch X. -/
def leafServes (s : State) (leaf : W64) (large : Bool) (va : W64) (access : BitVec 2) : Bool :=
  !(accessWrites access && (!(leaf.getLsbD 2 && leaf.getLsbD 6) || holdsSequences s (leafLoc leaf large va))) &&
    !(access == Access.fetch && !leaf.getLsbD 3)

/-- The result of a translation: a location; the cause, level and kind of the entry that fails; or an answer that is outstanding, of a
walk (R285) or of the host (R328). -/
inductive Translation where
  | ok (loc : Nat)
  | fail (cause : BitVec 8) (level : Nat) (large : Bool)
  | waiting
  deriving DecidableEq, Repr

/-! ### Walks (R283, R285) -/

/-- A walk that is on its way: in its shared TLB, in a queue or with a walker. -/
def PageWalk.outstanding (k : PageWalk) : Bool :=
  match k.stage with
  | .answered _ _ => false
  | .failed _ => false
  | _ => true
def PageWalk.reads (k : PageWalk) : Bool := match k.stage with | .reading _ _ => true | _ => false
def PageWalk.inQueue (k : PageWalk) : Bool := k.stage == .queued

/-- Walks moved from the caches that ask to the walk queues, in arrival order: a queue holds 256, and a shared TLB has 64 walks
outstanding at a floor. -/
def enqueueWalks : List PageWalk → List PageWalk → List PageWalk
  | before, [] => before
  | before, k :: ks =>
    let queue := ((before ++ ks).filter (fun x => x.inQueue && x.cache.floor == k.cache.floor)).length
    let own := ((before ++ ks).filter (fun x => (x.inQueue || x.reads) && x.cache == k.cache)).length
    let k' := if k.stage = .waiting ∧ queue < 256 ∧ own < 64 then { k with stage := .queued } else k
    enqueueWalks (before ++ [k']) ks

/-- The request of a miss: attached to a walk of its page (merging), or the start of one. A walk that has ended and no longer serves starts
again. -/
def askWalk (cache : Cache) (tag : BitVec 8) (page : Nat) (access : BitVec 2) (s : State) : State :=
  let mine := fun (k : PageWalk) => k.cache == cache && k.tag == tag && k.page == page
  let others := s.walks.filter (fun k => !(mine k && !k.outstanding))
  if others.any mine then
    { s with walks := others.map (fun k =>
        if mine k && !k.accesses.contains access then { k with accesses := k.accesses ++ [access] } else k) }
  else { s with walks := enqueueWalks [] (others ++ [⟨cache, tag, page, [access], .waiting, false⟩]) }

/-- What a walk of the page that has ended gives an access. A failure is looked at again as the access is (R284). (DEDUCED, log 170,
safe.) -/
def walkAnswer (s : State) (cache : Cache) (tag : BitVec 8) (va : W64) (access : BitVec 2) : Option Translation :=
  (s.walks.filter (fun k => k.cache == cache && k.tag == tag && k.page == va.toNat / 2 ^ 16)).findSome? (fun k =>
    match k.stage with
    | .answered leaf large => if leafServes s leaf large va access then some (.ok (leafLoc leaf large va)) else none
    | .failed accesses =>
      if accesses.contains access then
        (match walk s (s.context tag) va access with
         | .fail cause level large => some (.fail cause level large)
         | .ok _ _ _ => none)
      else none
    | _ => none)

/-- Translate a device virtual address (R282 to R285): the cache's entry serves, else that of the shared TLB it asks, which fills it; else
a walk, which the access waits for. -/
def translate (s : State) (cache : Cache) (tag : BitVec 8) (va : W64) (access : BitVec 2) : State × Translation :=
  if va.extractLsb' 52 12 != 0 then (s, .fail Cause.protection 0 false)
  else
    match (tlbFind s cache tag va).filter (fun e => leafServes s e.leaf e.large va access) with
    | some e => (s, .ok (leafLoc e.leaf e.large va))
    | none =>
      let asked := cache.asks
      match (tlbFind s asked tag va).filter (fun e => leafServes s e.leaf e.large va access) with
      | some e => (tlbFill s { e with cache := cache }, .ok (leafLoc e.leaf e.large va))
      | none =>
        match walkAnswer s asked tag va access with
        | some t => (s, t)
        | none => (askWalk asked tag (va.toNat / 2 ^ 16) access s, .waiting)

/-- Bits set in an entry by an atomic OR at its merge queue (R283), where they are not set already; `none` while its line is in use.
(DEDUCED, log 171, safe.) -/
def orEntry (tag : BitVec 8) (entry : Nat) (bits : W64) (s : State) : Option State :=
  let e := readD s.mem entry
  if e ||| bits = e then some s
  else if !homeFree s ((List.range 8).map (entry + ·)) then none
  else some (homeWords (some tag) entry [e ||| bits] s)

/-- The accessed bit, and the dirty bit where something writes. -/
def usedBits (writes : Bool) : W64 := if writes then 0x60#64 else 0x20#64

/-- A walk that has read its last entry: the accesses the leaf permits are answered once A, and for a write D, is set, the cache that asked
is filled, and those it does not permit fail. -/
def endWalk (k : PageWalk) (part level table : Nat) (s : State) : State :=
  let va : W64 := BitVec.ofNat 64 (k.page * 2 ^ 16)
  let result := fun a => match readEntry s part level table va a with | .leaf w => w | .table _ => .fail Cause.protection level false
  let good := k.accesses.filterMap (fun a => match result a with | .ok leaf entry large => some (a, leaf, entry, large) | _ => none)
  let bad := k.accesses.filter (fun a => match result a with | .ok _ _ _ => false | _ => true)
  let rest := s.walks.filter (fun x => x != k)
  match good with
  | [] => { s with walks := enqueueWalks [] (rest ++ [{ k with stage := .failed bad }]) }
  | (_, leaf, entry, large) :: _ =>
    let bits := usedBits (good.any (fun g => accessWrites g.1))
    match orEntry k.tag entry bits s with
    | none => s
    | some s =>
      let s := tlbFill s ⟨k.cache, k.tag, large, pageOf large va, leaf ||| bits⟩
      let failed := if bad.isEmpty then [] else [{ k with stage := .failed bad }]
      { s with walks := enqueueWalks [] (rest ++ failed ++ [{ k with stage := .answered (leaf ||| bits) large }]) }

/-- An entry put into a floor's walk cache, the oldest leaving when it holds 1,024 (Table 18.2). (DESIGN CHOICE, log 117, unsafe.) -/
def cacheEntry (x : WalkEntry) (s : State) : State :=
  let others := s.walkCache.filter (fun e => !(e.floor == x.floor && e.tag == x.tag && e.level == x.level && e.index == x.index))
  let held := (others.filter (fun e => e.floor == x.floor)).take 1023
  { s with walkCache := x :: held ++ others.filter (fun e => e.floor != x.floor) }

/-- The table a walk may begin at: below the deepest entry of the address that the floor's walk cache holds, or the root. -/
def walkStart (s : State) (floor : Nat) (tag : BitVec 8) (page : Nat) : WalkStage :=
  let held := fun level index => s.walkCache.find? (fun e => e.floor == floor && e.tag == tag && e.level == level && e.index == index)
  match held 1 (page / 2 ^ 12) with
  | some e => .reading 2 (entryLoc e.entry)
  | none =>
    match held 0 (page / 2 ^ 24) with
    | some e => .reading 1 (entryLoc e.entry)
    | none => .reading 0 (hbmLoc (s.context tag).ptroot.toNat)

/-- A walk goes on by one step: from the queue to a walker, of which a floor has 64, or past one more entry. -/
def stepWalk (k : PageWalk) (s : State) : State :=
  let floor := k.cache.floor
  let become := fun (stage : WalkStage) (s : State) =>
    { s with walks := enqueueWalks [] (s.walks.map (fun x => if x = k then { k with stage := stage } else x)) }
  match k.stage with
  | .queued =>
    if 64 ≤ (s.walks.filter (fun x => x.reads && x.cache.floor == floor)).length then s
    else become (walkStart s floor k.tag k.page) s
  | .reading level table =>
    let va : W64 := BitVec.ofNat 64 (k.page * 2 ^ 16)
    (match readEntry s (s.context k.tag).part level table va Access.read with
     | .table e =>
       become (.reading (level + 1) (entryLoc e)) (cacheEntry ⟨floor, k.tag, level, k.page / 2 ^ (24 - 12 * level), e⟩ s)
     | .leaf _ => endWalk k (s.context k.tag).part level table s)
  | _ => s

/-- The number of a cache that walks: the Whorl of a shared TLB; 16 and its floor for a Carder. -/
def Cache.number : Cache → Nat
  | .core c => c / 24
  | .matrix q => q / 96
  | .spindle c => c / 24
  | .shared w => w
  | .carder f => 16 + f

/-- The walks a floor can go on with: those with a walker, and the head of its queue. -/
def liveWalks (s : State) (floor : Nat) : List PageWalk :=
  let here := s.walks.filter (fun k => k.cache.floor == floor)
  here.filter (fun k => k.reads) ++ (here.filter (fun k => k.inQueue)).take 1

/-- The walk of a numbered cache that can go on for an access to a page. -/
def walkFor (s : State) (cache : Nat) (tag : BitVec 8) (va : W64) (access : BitVec 2) : Option PageWalk :=
  (liveWalks s (if cache < 16 then cache / 4 else cache - 16)).find? (fun k =>
    k.cache.number == cache && k.tag == tag && k.page == va.toNat / 2 ^ 16 && k.accesses.contains access)

/-! ### Invalidation (R286) -/

/-- An entry a TLBINV removes. -/
def invalidates (kind : BitVec 2) (tag : BitVec 8) (va : W64) (e : TlbEntry) : Bool :=
  if kind = 0#2 then
    e.tag == tag && (e.vpage == pageOf e.large va || (decide (2 ^ 80 ≤ e.vpage) && e.vpage % 2 ^ 52 / 16 == va.toNat / 2 ^ 16))
  else if kind = 1#2 then e.tag == tag
  else true

/-- An entry of a walk cache it removes: of the context, or on the path of the address. -/
def WalkEntry.removed (kind : BitVec 2) (tag : BitVec 8) (va : W64) (e : WalkEntry) : Bool :=
  kind == 2#2 || (e.tag == tag && (kind == 1#2 || e.index == va.toNat / 2 ^ (40 - 12 * e.level)))

/-- A walk it concerns. -/
def PageWalk.matched (kind : BitVec 2) (tag : BitVec 8) (va : W64) (k : PageWalk) : Bool :=
  kind == 2#2 || (k.tag == tag && (kind == 1#2 || k.page == va.toNat / 2 ^ 16 || k.page / 2 ^ 12 == va.toNat / 2 ^ 28))

/-- What `ats` holds for a page whose translation the host has refused: beyond any frame. -/
def refusedFrame : Nat := 2 ^ 52

/-- What `ats` adds to a frame whose answer the device has used or dropped: the host's translation stands, and is asked for again where no
cache holds it (R284, R286, R328). -/
def forgottenFrame : Nat := 2 ^ 53

/-- Translations removed (R286): entries of the caches, of the walk caches and answers of the host's; a walk with a walker is discarded and
queued again with its requests, and what ended walks hold for requests goes. (DEDUCED, log 173, safe.) -/
def dropTranslations (kind : BitVec 2) (tag : BitVec 8) (va : W64) (s : State) : State :=
  let restart := fun (k : PageWalk) => if k.matched kind tag va && k.reads then { k with stage := .queued, restarted := true } else k
  let forget := fun (key frame : Nat) =>
    if frame < refusedFrame && (kind != 0#2 || key % 2 ^ 52 / 16 == va.toNat / 2 ^ 16) then frame + forgottenFrame else frame
  { s with tlb := s.tlb.filter (fun e => !invalidates kind tag va e)
           walkCache := s.walkCache.filter (fun e => !e.removed kind tag va)
           walks := enqueueWalks [] ((s.walks.filter (fun k => k.outstanding || !k.matched kind tag va)).map restart)
           ats := mapEntries forget s.ats }

/-- Where a device virtual address lies now, if it has a translation, changing nothing (R94, R341). -/
def probe (s : State) (tag : BitVec 8) (va : W64) (access : BitVec 2) : Option Nat :=
  match walk s (s.context tag) va access with
  | .ok leaf _ large => some (leafLoc leaf large va)
  | .fail _ _ _ => none

/-- The key of a host page's ATS answer (R328). -/
def atsKey (pasid : Nat) (va : W64) : Nat := pasid % 2 ^ 20 * 2 ^ 52 + va.toNat / 4096

/-- The number a cache knows a host page by, apart from every page of the device's tables. -/
def hostPage (pasid : Nat) (va : W64) : Nat := 2 ^ 80 + atsKey pasid va

/-- A host page held by a cache (R328). -/
def hostFind (s : State) (cache : Cache) (tag : BitVec 8) (pasid : Nat) (va : W64) : Option TlbEntry :=
  s.tlb.find? (fun e => e.cache == cache && e.tag == tag && e.vpage == hostPage pasid va)

/-- Translate a host virtual address of space 3 (R328): through the caches of Table 18.2, whose entries carry the context's tag, or through an
answer of the host's that has come in and fills them; else an answer is awaited. (DEDUCED, log 173, safe.) -/
def translateHost (s : State) (cache : Cache) (tag : BitVec 8) (pasid : Nat) (va : W64) : State × Translation :=
  let loc := fun (frame : Nat) => Translation.ok (hostPhysLoc (frame * 4096 + va.toNat % 4096))
  let fill := fun (c : Cache) (frame : Nat) (s : State) => tlbFill s ⟨c, tag, false, hostPage pasid va, BitVec.ofNat 64 frame⟩
  match hostFind s cache tag pasid va with
  | some e => (s, loc e.leaf.toNat)
  | none =>
    match hostFind s cache.asks tag pasid va with
    | some e => (fill cache e.leaf.toNat s, loc e.leaf.toNat)
    | none =>
      match find s.ats (atsKey pasid va) with
      | some frame =>
        if frame = refusedFrame then (s, .fail Cause.notPresent 0 false)
        else if forgottenFrame ≤ frame then (s, .waiting)
        else (fill cache frame (fill cache.asks frame s), loc frame)
      | none => (s, .waiting)

/-- Answers of the host's that an access has used: the caches alone hold them from then on. -/
def takeAnswers (pasid : Nat) (vas : List W64) (s : State) : State :=
  { s with ats := mapEntries (fun key frame =>
      if frame < refusedFrame && vas.any (fun va => atsKey pasid va == key) then frame + forgottenFrame else frame) s.ats }

/-- The place of a host address of space 4 (R328): untranslated; the frame is the host's, if the model knows it. -/
def hostPlace (s : State) (pasid : Nat) (va : W64) : Nat :=
  match find s.ats (atsKey pasid va) with
  | some frame =>
    if frame = refusedFrame then hostLoc pasid va.toNat else hostPhysLoc (frame % forgottenFrame * 4096 + va.toNat % 4096)
  | none => hostLoc pasid va.toNat

/-! ### Fault records (R288, R289) -/

/-- The access class of a record: read, write, fetch. -/
def accessClass (access : BitVec 2) : Nat := if access = 3#2 then 2 else if access = 0#2 then 0 else 1

/-- Word 0 of a fault record (Table 18.4). -/
def faultWord0 (cause : BitVec 8) (agent : BitVec 4) (access : BitVec 2) (large resolvable : Bool) (tag : BitVec 8)
    (launchid : W32) : W64 :=
  cause ++ agent ++ access ++ BitVec.ofBool large ++ BitVec.ofBool resolvable ++ tag ++ 0#8 ++ launchid

/-- Word 3 of a fault record: the issuing wave and how many requests are attached. -/
def faultWord3 (w : Wave) (waiters : Nat) : W64 :=
  w.teamid ++ BitVec.ofNat 9 w.core ++ BitVec.ofNat 2 w.quarter ++ BitVec.ofNat 4 w.slot ++ BitVec.ofNat 17 (min waiters 131071)

/-- The unresolved record a fault joins (R289), by its ring index. (DEDUCED, log 123, unsafe.) -/
def openRecord (c : Context) (page cls : Nat) : Option Nat :=
  let rec go : List FaultRec → Nat → Option Nat
    | [], _ => none
    | f :: fs, i =>
      if f.opened && f.va.toNat / 2 ^ 16 == page && accessClass f.access == cls then some i else go fs (i + 1)
  go c.faults 0

/-- Records the fault ring of a context holds, its head and its tail (R288); none where its page has no translation. -/
def faultRing (s : State) (tag : BitVec 8) : Option (Nat × Nat × Nat) :=
  let q := (s.context tag).word 3
  match probe s tag q Access.read with
  | some l => some ((readD s.mem l).toNat % 2 ^ 16 + 1, (readW s.mem (l + 8)).toNat, (readW s.mem (l + 16)).toNat)
  | none => none

/-- The ring is full (R288). (DEDUCED, log 122, safe.) -/
def faultRingFull (s : State) (tag : BitVec 8) : Bool :=
  match faultRing s tag with
  | some (n, head, tail) => decide (n ≤ (tail + 2 ^ 32 - head) % 2 ^ 32)
  | none => false

/-- A record of a context changed by its ring index. -/
def changeFault (tag : BitVec 8) (index : Nat) (f : FaultRec → FaultRec) (s : State) : State :=
  { s with contexts := change (fun c => { c with faults := c.faults.modify index f }) s.contexts tag.toNat }

/-- An event in the host's ring (R333): dropped, and marked lost, when the ring is full; none while evbase is zero.
(DESIGN CHOICE, log 145, unsafe.) -/
def postEvent (kind : BitVec 8) (tag : BitVec 8) (payload : List W64) (s : State) : State :=
  let m := s.mgmt
  if m.evbase = 0 then s
  else
    let n := m.events.toNat + 1
    let next := (m.evtail.toNat + 1) % n
    if next = m.evhead.toNat % n then { s with mgmt := { m with evlost := true } }
    else
      let w0 : W64 := 0#48 ++ tag ++ kind
      let ws := (w0 :: (List.range 7).map (fun i => payload.getD i 0))
      let s := homeWords none (hostPhysLoc (m.evbase.toNat + 64 * m.evtail.toNat)) ws s
      { s with mgmt := { s.mgmt with evtail := BitVec.ofNat 16 next } }

/-- A host page of an address's 64 KiB page whose translation the host has refused. -/
def hostRefused (s : State) (va : W64) : Bool := s.ats.any (fun e => e.2 == refusedFrame && e.1 % 2 ^ 52 / 16 == va.toNat / 2 ^ 16)

/-- The move of a page that is under way (R290). -/
def moveOf (s : State) (tag : BitVec 8) (va : W64) : Option PageMove :=
  s.moves.find? (fun m => m.tag == tag && m.va.toNat / 2 ^ 16 == va.toNat / 2 ^ 16)

/-- A record that a move of its page explains, or a refusal of the host's (R287). -/
def explained (s : State) (tag : BitVec 8) (va : W64) : Bool := hostRefused s va || (moveOf s tag va).isSome

/-- A record joins those of a context (R288): its ring index is its place in the context's list. A full ring holds it back (`none`). The
memory manager passes a resolvable record that nothing explains to the host as an event of kind 7 (R287, R333). -/
def appendRecord (tag : BitVec 8) (words : List W64) (va : W64) (access : BitVec 2) (resolvable : Bool) (launches : List Nat)
    (readers : List W64) (s : State) : State × Option Nat :=
  if faultRingFull s tag then (s, none)
  else
    let c := s.context tag
    let c' := { c with faults := c.faults ++ [⟨words, va, access, resolvable, s.nanotime, hostRefused s va, false, false, launches, readers⟩] }
    let s := { s with contexts := ins s.contexts tag.toNat c' }
    (if resolvable && !explained s tag va then postEvent 7 tag words s else s, some c.faults.length)

/-! ### Stores of the command processor (R341) -/

/-- What making a store comes to: it is made, it waits for lines that are in use or that their homes do not own (R303), its page is not
present, or its translation fails otherwise. -/
inductive Stored where
  | done (s : State)
  | busy (lines : List Nat)
  | missing (va : W64) (level : Nat) (large : Bool)
  | dropped

/-- Words stored at an address. -/
def storeNow (tag : BitVec 8) (va : W64) (ws : List W64) (s : State) : Stored :=
  match walk s (s.context tag) va Access.write with
  | .ok leaf entry large =>
    let loc := leafLoc leaf large va
    let locs := (List.range (8 * ws.length)).map (loc + ·)
    (match orEntry tag entry (usedBits true) s with
     | some s => if homeFree s locs then .done (homeWords (some tag) loc ws s) else .busy ((locs.map lineOf).eraseDups)
     | none => .busy [lineOf entry])
  | .fail cause level large => if cause = Cause.notPresent then .missing va level large else .dropped

/-- The tail word of a fault queue: bit 63 counts records lost or dropped (R288, R341). -/
def tailWord (c : Context) (tail : Nat) : W64 :=
  (if c.lost then 0x8000000000000000#64 else 0) ||| BitVec.ofNat 64 (tail % 2 ^ 32)

/-- The tail of a context's ring of completion entries moves past one (R279). -/
def passEntry (tag : BitVec 8) (s : State) : State :=
  { s with contexts := change (fun c => { c with cpltail := c.cpltail + 1 }) s.contexts tag.toNat }

/-- A store made: a record goes to its place in the ring, whose header is read first, and the tail moves past it. -/
def makeStore (tag : BitVec 8) (x : CpStore) (s : State) : Stored :=
  match x with
  | .words va ws => storeNow tag va ws s
  | .record index ws =>
    let q := (s.context tag).word 3
    match walk s (s.context tag) q Access.read, faultRing s tag with
    | .ok _ _ _, some (n, _, _) =>
      (match storeNow tag (q + BitVec.ofNat 64 (0x40 + 32 * (index % n))) ws s with
       | .done s =>
         (match storeNow tag (q + 0x10) [tailWord (s.context tag) (index + 1)] s with
          | .done s => .done s
          | .busy lines => .busy lines
          | _ => .done s)
       | r => r)
    | .fail cause level large, _ => if cause = Cause.notPresent then .missing q level large else .dropped
    | _, none => .dropped
  | .mark =>
    match faultRing s tag with
    | some (_, _, tail) => storeNow tag ((s.context tag).word 3 + 0x10) [tailWord (s.context tag) tail] s
    | none => .dropped
  | .entry ws =>
    let c := s.context tag
    match storeNow tag (c.word 12 + BitVec.ofNat 64 (32 * (c.cpltail.toNat % (((c.word 13).extractLsb' 16 16).toNat + 1)))) ws s with
    | .done s => .done (passEntry tag s)
    | r => r

def CpStore.isRecord : CpStore → Bool
  | .record _ _ => true
  | _ => false
def CpStore.isEntry : CpStore → Bool
  | .entry _ => true
  | _ => false

/-- A dropped store: a record sets bit 63 of the tail word, by a store that follows; the ring's tail moves past a completion entry all the
same. (DEDUCED, log 122, safe.) -/
def loseStore (tag : BitVec 8) (x : CpStore) (s : State) : State × List CpStore :=
  if x.isEntry then (passEntry tag s, [])
  else if !x.isRecord then (s, [])
  else ({ s with contexts := change (fun c => { c with lost := true }) s.contexts tag.toNat }, [.mark])

/-- The record of a page that a store misses (agent 7), unless one is open: the store of that record, if it is posted. -/
def missRecord (tag : BitVec 8) (va : W64) (level : Nat) (large : Bool) (s : State) : State × List CpStore :=
  match openRecord (s.context tag) (va.toNat / 2 ^ 16) 1 with
  | some _ => (s, [])
  | none =>
    let words : List W64 := [faultWord0 Cause.notPresent 7 Access.write large true tag 0, 0#10 ++ BitVec.ofNat 2 level ++ va.setWidth 52, 0, 0]
    match appendRecord tag words va Access.write true [] [] s with
    | (s, some i) => (s, [.record i words])
    | (s, none) => (s, [])

/-- Stores of a context made in order. One whose page is not present waits for the page's record; a record waits behind an earlier one; a
line in use holds up all of them (R303). For a context that is not active nothing is stored (R323). (DEDUCED, log 122, safe.) -/
def makeStores (tag : BitVec 8) : Nat → List CpStore → List CpStore → State → State × List CpStore
  | 0, kept, xs, s => (s, kept ++ xs)
  | _, kept, [], s => (s, kept)
  | fuel + 1, kept, x :: xs, s =>
    if x.isRecord && kept.any (·.isRecord) then makeStores tag fuel (kept ++ [x]) xs s
    else
      match makeStore tag x s with
      | .done s => makeStores tag fuel kept xs s
      | .busy lines => (askOwning lines s, kept ++ x :: xs)
      | .dropped =>
        let (s, more) := loseStore tag x s
        makeStores tag fuel kept (xs ++ more) s
      | .missing va level large =>
        let (s, more) := missRecord tag va level large s
        makeStores tag fuel (kept ++ [x]) (xs ++ more) s

def setStores (tag : BitVec 8) (xs : List CpStore) (s : State) : State :=
  { s with contexts := change (fun c => { c with stores := xs }) s.contexts tag.toNat }

/-- Every store of a context that waits is tried, and some more after them. -/
def flushStores (tag : BitVec 8) (more : List CpStore) (s : State) : State :=
  if !(s.context tag).active then setStores tag [] s
  else
    let xs := (s.context tag).stores ++ more
    let (s, kept) := makeStores tag (4 * xs.length + 4) [] xs s
    setStores tag kept s

/-- Words that the command processor stores through a context's translation (R341). -/
def storeFor (tag : BitVec 8) (va : W64) (words : List W64) (s : State) : State := flushStores tag [.words va words] s

/-- The stores that wait are tried again. -/
def retryStores (s : State) : State :=
  s.contexts.foldl (fun s e => if e.2.stores.isEmpty then s else flushStores (BitVec.ofNat 8 e.1) [] s) s

/-- The stores that wait for a page are dropped, those of a step to come with them: its record is denied (R341). -/
def dropStores (tag : BitVec 8) (page : Nat) (s : State) : State :=
  let onPage := fun (x : CpStore) =>
    match makeStore tag x s with
    | .missing va _ _ => va.toNat / 2 ^ 16 == page
    | _ => false
  let s := { s with contexts := change (fun c => { c with distaff := { c.distaff with denied := c.distaff.denied ++ [page] } }) s.contexts tag.toNat }
  let xs := (s.context tag).stores
  let lost := (xs.filter onPage).foldl (fun (r : State × List CpStore) x =>
    let (s, more) := loseStore tag x r.1
    (s, r.2 ++ more)) (setStores tag (xs.filter (fun x => !onPage x)) s, [])
  flushStores tag lost.2 lost.1

/-- The memory manager moves the head of a fault queue past the records it has done with (R287, R288): as it resolves one, and when the ring
is full. (DEDUCED, log 112, unsafe.) -/
def consumeRecords (tag : BitVec 8) (s : State) : State :=
  let c := s.context tag
  match faultRing s tag with
  | none => s
  | some (_, head, _) =>
    let past := ((c.faults.drop head).takeWhile (fun f => !f.opened)).length
    if past = 0 then s else storeFor tag (c.word 3 + 8) [BitVec.ofNat 64 ((head + past) % 2 ^ 32)] s

/-- Post a record (R288). A full ring holds a resolvable record back (`none`) and counts a terminating one as lost. -/
def postRecord (tag : BitVec 8) (words : List W64) (va : W64) (access : BitVec 2) (resolvable : Bool) (launches : List Nat)
    (readers : List W64) (s : State) : State × Option Nat :=
  match appendRecord tag words va access resolvable launches readers (if faultRingFull s tag then consumeRecords tag s else s) with
  | (s, none) =>
    if resolvable then (s, none)
    else
      let (s, more) := loseStore tag (.record 0 []) s
      (flushStores tag more s, none)
  | (s, some i) => (flushStores tag [.record i words] s, some i)

/-- The requests of a list of failing translations that lie on a page (R288). -/
def onPage (va : W64) (fs : List (Nat × W64 × BitVec 8 × Nat × Bool)) : Nat :=
  (fs.filter (fun f => f.2.1.toNat / 2 ^ 16 == va.toNat / 2 ^ 16)).length

/-- The agent a record names: a walk that a TLBINV has started again reports as a walker (Table 18.4). -/
def recordAgent (agent : BitVec 4) (tag : BitVec 8) (va : W64) (s : State) : BitVec 4 :=
  if s.walks.any (fun k => k.restarted && !k.outstanding && k.tag == tag && k.page == va.toNat / 2 ^ 16) then 8 else agent

/-- A translation fault of a wave's word or of an engine's command: join the open record of the page and class, or post one (R289) with the
number of its requests. (DEDUCED, log 123, unsafe.) -/
def faultRecord (agent : BitVec 4) (tag : BitVec 8) (w : Wave) (word va : W64) (access : BitVec 2) (cause : BitVec 8)
    (level : Nat) (large : Bool) (waiters : Nat) (s : State) : State × Option Nat :=
  match openRecord (s.context tag) (va.toNat / 2 ^ 16) (accessClass access) with
  | some i =>
    let attach := fun (f : FaultRec) => { f with launches := if f.launches.contains w.launch then f.launches else f.launches ++ [w.launch] }
    ({ s with contexts := change (fun c => { c with faults := c.faults.modify i attach }) s.contexts tag.toNat }, some i)
  | none =>
    let w0 := faultWord0 cause (recordAgent agent tag va s) access large true tag w.env.launchid
    let w1 : W64 := 0#10 ++ BitVec.ofNat 2 level ++ va.setWidth 52
    postRecord tag [w0, w1, word &&& 0x000fffffffffffff#64, faultWord3 w waiters] va access true [w.launch] [] s

end Sys2Proof.Machine
end

