-- ==== Sys2Proof/Machine/Handles.lean ====
section
/-! DEFINITION. Handles, spaces, slab windows and the checks of R84, in their order (R81 to R84, R100, R107 to R111, R207). -/

namespace Sys2Proof.Machine

/-- A handle table entry (Table 5.1). -/
structure Handle where
  base     : W64
  limit    : Nat
  space    : Nat
  rd       : Bool
  wr       : Bool
  atom     : Bool
  red      : Bool
  policy   : BitVec 2
  pinclass : BitVec 6
  selector : W64
  reserved : Bool
  deriving DecidableEq, Repr

def Handle.ofEntry (e : BitVec 256) : Handle :=
  { base := e.extractLsb' 0 64, limit := (e.extractLsb' 64 48).toNat, space := (e.extractLsb' 112 4).toNat,
    rd := e.getLsbD 116, wr := e.getLsbD 117, atom := e.getLsbD 118, red := e.getLsbD 119,
    policy := e.extractLsb' 120 2, pinclass := e.extractLsb' 122 6, selector := e.extractLsb' 128 64,
    reserved := e.extractLsb' 192 64 != 0 }

/-- The pin classes a pin-policy handle may carry (Table 5.1). -/
def pinClassOk (c : BitVec 6) : Bool := c != 0 && c.toNat ≤ 45

/-- The unused selector bits of a handle's space are zero (Table 5.2). -/
def Handle.selectorOk (h : Handle) : Bool :=
  match h.space with
  | 0 => h.selector == 0
  | 1 => h.selector == 0
  | 2 => h.selector == 0
  | 3 => h.selector.extractLsb' 20 44 == 0
  | 4 => h.selector.extractLsb' 20 44 == 0
  | 5 => h.selector.extractLsb' 24 40 == 0
  | 6 => h.selector.extractLsb' 16 48 == 0
  | _ => false

/-- A valid handle (R83). In spaces 4 and 5 policy and pinclass are ignored (R82). (DEDUCED, log 23, 24, unsafe.) -/
def Handle.valid (h : Handle) : Bool :=
  (h.rd || h.wr || h.atom || h.red) && h.space ≤ 6 && h.selectorOk && !h.reserved &&
  (h.space == 4 || h.space == 5 || (h.policy != 3#2 && (h.policy != 2#2 || pinClassOk h.pinclass))) &&
  (!(h.space == 0 || h.space == 3 || h.space == 4 || h.space == 5) || h.base.toNat + h.limit < 2 ^ 52)

/-- The valid handle of an index, in the launch's copied table (R81, R83). -/
def Env.handle (e : Env) (i : Nat) : Option Handle :=
  match e.handles[i]? with
  | some x => if (Handle.ofEntry x).valid then some (Handle.ofEntry x) else .none
  | .none => .none

/-- The operand pointer of Table 5.3. -/
def ptrHandle (p : W64) : Nat := (p.extractLsb' 56 8).toNat
def ptrStride (p : W64) : Nat := (p.extractLsb' 40 16).toNat
def ptrOffset (p : W64) : Nat := (p.extractLsb' 0 40).toNat

/-- What an access does, for the permission check: the fn and width of an atomic decide in space 4 (R207, R208). -/
inductive Kind where
  | load | store
  | atomic (fn width : Nat)
  | reduce
  | place                       -- the Whorl words test no permission (R204)
  deriving DecidableEq, Repr

/-- Atomics a root complex performs (R207): AADD and AXCHG at 32 and 64 bits, ACAS at every width. -/
def hostAtomic (fn width : Nat) : Bool := (fn == 0 && width < 2) || (fn == 8 && width < 2) || fn == 9

/-- The permission check of R84 with the space tests of R207 and R208. -/
def Handle.permits (h : Handle) : Kind → Bool
  | .load => h.rd
  | .store => h.wr
  | .atomic fn width => h.atom && (h.space != 4 || hostAtomic fn width)
  | .reduce => h.red && h.space != 4
  | .place => true

/-- The access class a translation is for. -/
def Kind.access : Kind → BitVec 2
  | .load => Access.read
  | .place => Access.read
  | .store => Access.write
  | .atomic _ _ => Access.atom
  | .reduce => Access.atom

/-! ### Slab descriptors (R107, R108, R110) -/

/-- A slab descriptor's 64 bytes as a number. (DEDUCED, log 23, unsafe.) -/
def slabBits (s : State) (locs : List Nat) : BitVec 512 := BitVec.ofNat 512 (natOfBytes (locs.map (readByte s.mem)))

/-- A reserved descriptor (R107). -/
def slabReserved (d : BitVec 512) : Bool :=
  let cap := (d.extractLsb' 64 6).toNat
  2 ≤ (d.extractLsb' 70 2).toNat || cap < 6 || 23 < cap || 2 ^ cap < (d.extractLsb' 96 32).toNat ||
    d.extractLsb' 88 8 != 0 || d.extractLsb' 321 191 != 0

/-- The sample an operation takes once (R111). -/
def slabSample (desc : W64) (d : BitVec 512) : SlabSample :=
  { desc := desc, base := d.extractLsb' 0 64, oldbase := d.extractLsb' 128 64, newbase := d.extractLsb' 192 64,
    cap := (d.extractLsb' 64 6).toNat, fmt := d.extractLsb' 70 2, layers := (d.extractLsb' 72 8).toNat,
    heads := (d.extractLsb' 80 8).toNat, length := (d.extractLsb' 96 32).toNat, moving := d.getLsbD 320,
    gen := d.extractLsb' 288 32 }

/-- The slab's bound, always read live (R111). -/
def slabBound (d : BitVec 512) : Nat := (d.extractLsb' 256 32).toNat

/-- Lines per entry (R108). -/
def SlabSample.lines (x : SlabSample) : Nat := if x.fmt = 0#2 then 1 else 2

/-- The address of line `j` of an entry (R108, R110): while a move is in progress a position below bound, or in the new
half, lies at newbase, and any other at oldbase with the old capacity. -/
def SlabSample.address (x : SlabSample) (bound layer head kv position j : Nat) : W64 :=
  let index := fun cap => (((layer * (x.heads + 1) + head) * 2 + kv) * 2 ^ cap + position) * x.lines + j
  let at' := fun (b : W64) cap => b + BitVec.ofNat 64 (128 * index cap)
  if x.moving then
    if position < bound || 2 ^ (x.cap - 1) ≤ position then at' x.newbase x.cap else at' x.oldbase (x.cap - 1)
  else at' x.base x.cap

/-! ### The checks -/

/-- One acting thread's place in an access: thread (64 for a scalar form), address and the location of each byte. -/
structure Place where
  thread : Nat
  va     : W64
  locs   : List Nat
  deriving DecidableEq, Repr

/-- What the checks of R84 find. -/
inductive Checked where
  | ok (h : Handle) (places : List Place)
  | trap (cause : BitVec 8) (mask : W64)
  | fault (faults : List (Nat × W64 × BitVec 8 × Nat × Bool))      -- thread, address, cause, level, large
  | waitHost
  deriving DecidableEq, Repr

/-- Declared scratch of a wave's kernel, in bytes (Table 2.5). -/
def Wave.scratchBytes (w : Wave) : Nat := w.scratch * 4096

/-- The column of a wave's core in its team (R7). -/
def Wave.column (w : Wave) : Nat := if w.twin then w.core % 2 else 0

/-- Translate the bytes of one place: the first byte's page, and the last byte's where it differs. A walk on its way is `Cause.waiting`. -/
def translateBytes (s : State) (cache : Cache) (tag : BitVec 8) (va : W64) (n : Nat) (access : BitVec 2) :
    State × (List Nat ⊕ (W64 × BitVec 8 × Nat × Bool)) :=
  match translate s cache tag va access with
  | (s, .ok loc) =>
    let last := va + BitVec.ofNat 64 (n - 1)
    if last.toNat / 2 ^ 16 = va.toNat / 2 ^ 16 then (s, .inl ((List.range n).map (loc + ·)))
    else
      match translate s cache tag last access with
      | (s, .ok locL) =>
        (s, .inl ((List.range n).map (fun i =>
          if (va.toNat + i) / 2 ^ 16 = va.toNat / 2 ^ 16 then loc + i else locL + 1 + i - n)))
      | (s, .fail c l g) => (s, .inr (last, c, l, g))
      | (s, .waiting) => (s, .inr (last, Cause.waiting, 0, false))
  | (s, .fail c l g) => (s, .inr (va, c, l, g))
  | (s, .waiting) => (s, .inr (va, Cause.waiting, 0, false))

/-- The offset of a place in a slab window (R109): position, kv, line, byte and head. Bits [63:40] of a scalar form's offset take no
part. (DESIGN CHOICE, log 167, unsafe.) -/
def slabPosition (o : Nat) : Nat := o / 512 % 2 ^ 23
def slabKv (o : Nat) : Nat := o / 256 % 2
def slabLine (o : Nat) : Nat := o / 128 % 2
def slabHead (o : Nat) : Nat := o / 2 ^ 32 % 256

/-- Whether a slab-window offset is in range (the second check of R109). (DEDUCED, log 37, unsafe.) -/
def slabInRange (h : Handle) (x : SlabSample) (o : Nat) : Bool :=
  let layer := (h.selector.extractLsb' 0 8).toNat
  let head := (h.selector.extractLsb' 8 8).toNat + slabHead o
  layer ≤ x.layers && head ≤ x.heads && slabPosition o < 2 ^ x.cap && slabLine o < x.lines

/-- The address of a slab-window offset (R108, R109). -/
def slabVa (h : Handle) (x : SlabSample) (bound o : Nat) : W64 :=
  x.address bound (h.selector.extractLsb' 0 8).toNat ((h.selector.extractLsb' 8 8).toNat + slabHead o) (slabKv o)
    (slabPosition o) (slabLine o) + BitVec.ofNat 64 (o % 128)

/-- A scratch offset of a space that is out of range (R100). (DEDUCED, log 26, unsafe.) -/
def scratchBad (w : Wave) (space o n : Nat) : Bool :=
  if space = 1 then decide (w.scratchBytes < o + n) || decide (2 ^ 18 ≤ o)
  else decide (w.scratchBytes < o % 2 ^ 18 + n) || decide (2 ^ 19 ≤ o)

/-- The location of a scratch offset (R100). (DESIGN CHOICE, log 13, safe.) -/
def scratchPlace (w : Wave) (space o : Nat) : Nat :=
  if space = 1 then scratchLoc w.team w.column o else scratchLoc w.team (o / 2 ^ 18) (o % 2 ^ 18)

/-- Translation of every place of an access (check 5 of R84): all locations, or every failing thread. -/
def placeAll (cache : Cache) (tag : BitVec 8) (access : BitVec 2) (n : Nat) (f : Nat → W64) :
    List (Nat × Nat) → State → State × List Place × List (Nat × W64 × BitVec 8 × Nat × Bool)
  | [], s => (s, [], [])
  | (t, o) :: rest, s =>
    match translateBytes s cache tag (f o) n access with
    | (s, .inl locs) =>
      let (s, ps, fs) := placeAll cache tag access n f rest s
      (s, ⟨t, f o, locs⟩ :: ps, fs)
    | (s, .inr (va, c, l, g)) =>
      let (s, ps, fs) := placeAll cache tag access n f rest s
      (s, ps, (t, va, c, l, g) :: fs)

/-- The mask of the threads of some offsets that fail a test; a scalar form belongs to no thread (R154, Table 7.14).
(DEDUCED, log 25, unsafe.) -/
def failing (offs : List (Nat × Nat)) (bad : Nat → Bool) : List Nat := (offs.filter (fun x => bad x.2)).map (·.1)

/-- The address a failed check is recorded with (R288): that of the first failing thread, where its space has addresses. -/
def failingVa (w : Wave) (handle : Nat) (offs : List (Nat × Nat)) (mask : W64) : W64 :=
  match w.env.handle handle, offs.find? (fun x => x.1 = 64 ∨ mask.getLsbD x.1) with
  | some h, some x => if h.space = 0 ∨ h.space = 3 ∨ h.space = 4 ∨ h.space = 5 then h.base + BitVec.ofNat 64 x.2 else 0
  | _, _ => 0

/-- The places of `n` bytes in host pages at each (thread, offset), those that the host refuses, and whether an answer is awaited (R328). -/
def hostPlaces (cache : Cache) (tag : BitVec 8) (pasid n : Nat) (va : Nat → W64) :
    List (Nat × Nat) → State → State × List Place × List (Nat × W64 × BitVec 8 × Nat × Bool) × Bool
  | [], s => (s, [], [], false)
  | x :: xs, s =>
    let first := va x.2
    let last := first + BitVec.ofNat 64 (n - 1)
    let (s, a) := translateHost s cache tag pasid first
    let (s, b) := translateHost s cache tag pasid last
    let (s, ps, fs, waits) := hostPlaces cache tag pasid n va xs s
    match a, b with
    | .ok a, .ok b =>
      (s, ⟨x.1, first, (List.range n).map (fun i => if first.toNat % 4096 + i < 4096 then a + i else b + i - (n - 1))⟩ :: ps, fs, waits)
    | .fail c l g, _ => (s, ps, (x.1, first, c, l, g) :: fs, waits)
    | _, .fail c l g => (s, ps, (x.1, last, c, l, g) :: fs, waits)
    | _, _ => (s, ps, fs, true)

/-- The space-specific half of the checks, once the handle is valid, the access permitted and every offset aligned.
(DEDUCED, log 37, unsafe; DESIGN CHOICE, log 54, safe.) -/
def checkPlaces (w : Wave) (cache : Cache) (h : Handle) (kind : Kind) (n : Nat) (offs : List (Nat × Nat))
    (slab : Option (SlabSample × Nat)) (s : State) : State × Checked :=
  let finish := fun (r : State × List Place × List (Nat × W64 × BitVec 8 × Nat × Bool)) =>
    if r.2.2.isEmpty then (r.1, Checked.ok h r.2.1) else (r.1, Checked.fault r.2.2)
  if h.space = 1 ∨ h.space = 2 then
    let bad := failing offs (fun o => scratchBad w h.space o n)
    if !bad.isEmpty then (s, .trap Cause.scratch (maskOf bad))
    else (s, .ok h (offs.map (fun x =>
      ⟨x.1, BitVec.ofNat 64 x.2, (List.range n).map (fun i => scratchPlace w h.space x.2 + i)⟩)))
  else if h.space = 6 then
    match slab with
    | none => (s, .trap Cause.handle 0)
    | some (x, bound) =>
      let bad := failing offs (fun o => !slabInRange h x o)
      if !bad.isEmpty then (s, .trap Cause.bounds (maskOf bad))
      else finish (placeAll cache w.env.tag kind.access n (slabVa h x bound) offs s)
  else
    let bad := failing offs (fun o => decide (h.limit < o + n - 1))
    let va := fun (o : Nat) => h.base + BitVec.ofNat 64 o
    if !bad.isEmpty then (s, .trap Cause.bounds (maskOf bad))
    else if h.space = 0 then finish (placeAll cache w.env.tag kind.access n va offs s)
    else if h.space = 3 then
      let pasid := (h.selector.extractLsb' 0 20).toNat
      match hostPlaces cache w.env.tag pasid n va offs s with
      | (s, ps, fs, waits) =>
        if waits then (s, .waitHost)
        else if !fs.isEmpty then (s, .fault fs)
        else (takeAnswers pasid (offs.flatMap (fun x => [va x.2, va x.2 + BitVec.ofNat 64 (n - 1)])) s, .ok h ps)
    else if h.space = 4 then
      let pasid := (h.selector.extractLsb' 0 20).toNat
      (s, .ok h (offs.map (fun x =>
        ⟨x.1, va x.2, (List.range n).map (fun i => hostPlace s pasid (va x.2 + BitVec.ofNat 64 i))⟩)))
    else
      let node := h.selector.extractLsb' 0 16
      let tag := h.selector.extractLsb' 16 8
      if node = Config.node then finish (placeAll cache tag kind.access n va offs s)
      else (s, .ok h (offs.map (fun x =>
        ⟨x.1, va x.2, (List.range n).map (fun i => peerLoc node.toNat tag.toNat ((va x.2).toNat + i))⟩)))

/-- THE CHECKS OF R84, in their order, over every acting thread: `n` bytes at each (thread, offset) through handle `h`,
offsets a multiple of `align`; no thread, no check. An operation that holds a sample of the slab uses it (R111).
(DEDUCED, log 37, unsafe.) -/
def checkAccess (w : Wave) (cache : Cache) (h : Nat) (kind : Kind) (n align : Nat) (offs : List (Nat × Nat)) (s : State) :
    State × Checked :=
  let all := maskOf (offs.map (·.1))
  match w.env.handle h with
  | none => (s, .trap Cause.handle all)
  | some hd =>
    if hd.space = 2 ∧ w.twin = false then (s, .trap Cause.handle all)
    else
      let slab : State × (Option (SlabSample × Nat) ⊕ Checked) :=
        if hd.space = 6 then
          match translateBytes s cache w.env.tag hd.base 64 Access.read with
          | (s, .inl locs) =>
            let d := slabBits s locs
            match poisonVa s (fun _ _ => false) [⟨64, hd.base, locs, [], [], [], []⟩] with
            | some va => (s, .inr (.fault (offs.map (fun x => (x.1, va, Cause.poison, 0, false)))))
            | none =>
            match w.sampled.find? (fun x => x.1 == h) with
            | some x => (s, .inl (some (x.2, slabBound d)))
            | none =>
              if slabReserved d then (s, .inr (.trap Cause.handle all))
              else (s, .inl (some (slabSample hd.base d, slabBound d)))
          | (s, .inr (va, c, l, g)) => (s, .inr (.fault (offs.map (fun x => (x.1, va, c, l, g)))))
        else (s, .inl none)
      match slab with
      | (s, .inr (.trap c m)) => (s, .trap c m)
      | (s, sl) =>
        if !hd.permits kind || (w.txn.isSome && kind != .place && !hd.atom) then (s, .trap Cause.permission all)
        else
          let bad := failing offs (fun o => o % align != 0 || (hd.space == 6 && decide (128 < o % 128 + n)))
          if !bad.isEmpty then (s, .trap Cause.misaligned (maskOf bad))
          else
            match sl with
            | .inr r => (s, r)
            | .inl x => checkPlaces w cache hd kind n offs x s

/-- The sample that an access through a window handle takes, kept by the wave while the access waits for a page (R111).
(DEDUCED, log 168, safe.) -/
def keepSample (cache : Cache) (handle : Nat) (s : State) : State :=
  match s.w.env.handle handle with
  | none => s
  | some hd =>
    if hd.space ≠ 6 ∨ s.w.sampled.any (fun x => x.1 == handle) then s
    else
      match translateBytes s cache s.w.env.tag hd.base 64 Access.read with
      | (s, .inl locs) =>
        let x := slabSample hd.base (slabBits s locs)
        { s with w := { s.w with sampled := s.w.sampled ++ [(handle, x)] } }
      | (s, .inr _) => s

end Sys2Proof.Machine
end

