-- ==== Sys2Proof/Machine/Numbers.lean ====
section
/-! DEFINITION. The IEEE formats and their arithmetic (R55 to R58): a number is decoded to a sign, a natural significand and
a power of two, computed on exactly, and rounded once. Flags are a 5-bit set in the order of fte (Table 4.3): nv, dz, of,
uf, nx from bit 0. -/

namespace Sys2Proof.Machine

/-- The flags one operation raises, in the order of fte. -/
abbrev Flags := BitVec 5

def Flags.nv : Flags := 1#5
def Flags.dz : Flags := 2#5
def Flags.of : Flags := 4#5
def Flags.uf : Flags := 8#5
def Flags.nx : Flags := 16#5

/-- The rounding modes of R56, from the two bits of rmode and of a rounding field. -/
inductive Rounding where
  | rne | rtz | rdn | rup
  deriving DecidableEq, Repr

def Rounding.ofBits (b : BitVec 2) : Rounding :=
  if b = 0#2 then .rne else if b = 1#2 then .rtz else if b = 2#2 then .rdn else .rup

/-- A number: a NaN (signalling or quiet), an infinity, or ±m × 2^e with both zeros apart. -/
inductive Num where
  | nan (signalling : Bool)
  | inf (neg : Bool)
  | fin (neg : Bool) (m : Nat) (e : Int)
  deriving DecidableEq, Repr

/-- A binary format: precision `p` (with the hidden bit) and largest exponent; the exponent field has `eb` bits. -/
structure Fmt where
  p    : Nat
  eb   : Nat
  emax : Nat
  deriving DecidableEq, Repr

def f32 : Fmt := ⟨24, 8, 127⟩
def f16 : Fmt := ⟨11, 5, 15⟩
def bf16 : Fmt := ⟨8, 8, 127⟩

/-- The exponent of the lowest bit of a subnormal. -/
def Fmt.qmin (f : Fmt) : Int := 2 - (f.emax : Int) - f.p

/-- The bits of +infinity, as a number. -/
def Fmt.infBits (f : Fmt) : Nat := (2 ^ f.eb - 1) * 2 ^ (f.p - 1)

/-- The canonical quiet NaN (R57). -/
def Fmt.nanBits (f : Fmt) : Nat := f.infBits + 2 ^ (f.p - 2)

/-- The bits with their sign. -/
def Fmt.signed (f : Fmt) (neg : Bool) (magnitude : Nat) : Nat :=
  if neg then 2 ^ (f.p - 1 + f.eb) + magnitude else magnitude

/-- The number a format's bits stand for (R56). -/
def Fmt.decode (f : Fmt) (x : Nat) : Num :=
  let frac := x % 2 ^ (f.p - 1)
  let ex := x / 2 ^ (f.p - 1) % 2 ^ f.eb
  let neg := x / 2 ^ (f.p - 1 + f.eb) % 2 == 1
  if ex = 2 ^ f.eb - 1 then
    if frac = 0 then .inf neg else .nan (frac < 2 ^ (f.p - 2))
  else if ex = 0 then .fin neg frac f.qmin
  else .fin neg (frac + 2 ^ (f.p - 1)) (f.qmin + (ex - 1))

/-- How many bits a positive number has; 0 for 0. -/
def bitLength (n : Nat) : Nat := if n = 0 then 0 else n.log2 + 1

/-- `m × 2^(e - q)` to a whole number in a rounding mode, and whether it was exact. -/
def roundTo (mode : Rounding) (neg : Bool) (m : Nat) (e q : Int) : Nat × Bool :=
  if q ≤ e then (m * 2 ^ (e - q).toNat, true)
  else
    let k := (q - e).toNat
    let whole := m / 2 ^ k
    let rest := m % 2 ^ k
    let up : Bool := match mode with
      | .rne => 2 ^ k < 2 * rest || (2 ^ k == 2 * rest && whole % 2 == 1)
      | .rtz => false
      | .rdn => neg && rest != 0
      | .rup => !neg && rest != 0
    (if up then whole + 1 else whole, rest == 0)

/-- Whether an overflow in this mode gives the infinity, and not the largest finite value (R56). -/
def Rounding.overflowsUp (mode : Rounding) (neg : Bool) : Bool :=
  match mode with
  | .rne => true
  | .rtz => false
  | .rdn => neg
  | .rup => !neg

/-- ±m × 2^e rounded once to the format, with the flags of R58: tininess is detected after rounding. -/
def Fmt.round (f : Fmt) (mode : Rounding) (neg : Bool) (m : Nat) (e : Int) : Nat × Flags :=
  if m = 0 then (f.signed neg 0, 0)
  else
    let top : Int := e + bitLength m - 1
    let qn : Int := top - (f.p - 1)
    let q : Int := max qn f.qmin
    let (w, exact) := roundTo mode neg m e q
    let magnitude := if w < 2 ^ (f.p - 1) then w else (q - f.qmin + 1).toNat * 2 ^ (f.p - 1) + (w - 2 ^ (f.p - 1))
    let emin : Int := 1 - f.emax
    let tiny := top < emin && !(top == emin - 1 && (roundTo mode neg m e qn).1 == 2 ^ f.p)
    if f.infBits ≤ magnitude then
      (f.signed neg (if mode.overflowsUp neg then f.infBits else f.infBits - 1), Flags.of ||| Flags.nx)
    else
      (f.signed neg magnitude, if exact then 0 else if tiny then Flags.uf ||| Flags.nx else Flags.nx)

/-- Whether a number is a NaN. -/
def Num.isNan : Num → Bool
  | .nan _ => true
  | _ => false

/-- Whether a number is a signalling NaN. -/
def Num.isSignalling : Num → Bool
  | .nan s => s
  | _ => false

/-- The sign of a number; a NaN has none. -/
def Num.neg : Num → Bool
  | .nan _ => false
  | .inf n => n
  | .fin n _ _ => n

/-- The number with its sign turned. -/
def Num.negate : Num → Num
  | .nan s => .nan s
  | .inf n => .inf (!n)
  | .fin n m e => .fin (!n) m e

/-- The exact product; a NaN that signals stands for the invalid ∞ × 0. -/
def Num.mul : Num → Num → Num
  | .nan s, .nan t => .nan (s || t)
  | .nan s, _ => .nan s
  | _, .nan s => .nan s
  | .inf a, .inf b => .inf (a != b)
  | .inf a, .fin b m _ => if m = 0 then .nan true else .inf (a != b)
  | .fin a m _, .inf b => if m = 0 then .nan true else .inf (a != b)
  | .fin a m e, .fin b n g => .fin (a != b) (m * n) (e + g)

/-- The significand of a finite number as a signed whole number of units 2^q, for q at or below its exponent. -/
def scaled (neg : Bool) (m : Nat) (e q : Int) : Int :=
  let k : Int := m * 2 ^ (e - q).toNat
  if neg then -k else k

/-- The sign of an exact sum that is zero: that of its terms if they are zeros of one sign, else − only in RDN.
(DEDUCED, log 22, unsafe.) -/
def zeroSign (mode : Rounding) (terms : List Num) : Bool :=
  if terms.all (fun t => match t with | .fin n 0 _ => n | _ => false) then true
  else if terms.all (fun t => match t with | .fin n 0 _ => !n | _ => false) then false
  else mode == .rdn

/-- The exact sum of finite terms, as a signed whole number of units 2^q. -/
def sumFinite : List Num → Int → Int
  | [], _ => 0
  | .fin n m e :: ts, q => scaled n m e q + sumFinite ts q
  | _ :: ts, q => sumFinite ts q

/-- The least exponent among the terms. -/
def leastExp : List Num → Int → Int
  | [], q => q
  | .fin _ _ e :: ts, q => leastExp ts (min q e)
  | _ :: ts, q => leastExp ts q

/-- The exact sum of the terms, rounded once: NaN if a term is one or infinities of both signs meet (R56, R57, R190). A quiet NaN beside
infinities of both signs raises nothing. (DEDUCED, log 22, unsafe.) -/
def Fmt.sum (f : Fmt) (mode : Rounding) (terms : List Num) : Nat × Flags :=
  if terms.any Num.isNan then
    (f.nanBits, if terms.any Num.isSignalling then Flags.nv else 0)
  else if terms.any (· == .inf false) then
    if terms.any (· == .inf true) then (f.nanBits, Flags.nv) else (f.signed false f.infBits, 0)
  else if terms.any (· == .inf true) then (f.signed true f.infBits, 0)
  else
    let q := leastExp terms f.qmin
    let t := sumFinite terms q
    if t = 0 then (f.signed (zeroSign mode terms) 0, 0)
    else f.round mode (t < 0) t.natAbs q

/-- a + b. -/
def Fmt.add (f : Fmt) (mode : Rounding) (a b : Nat) : Nat × Flags := f.sum mode [f.decode a, f.decode b]

/-- a − b. -/
def Fmt.sub (f : Fmt) (mode : Rounding) (a b : Nat) : Nat × Flags := f.sum mode [f.decode a, (f.decode b).negate]

/-- a × b. -/
def Fmt.mul (f : Fmt) (mode : Rounding) (a b : Nat) : Nat × Flags :=
  match (f.decode a).mul (f.decode b) with
  | .nan s => (f.nanBits, if s then Flags.nv else 0)
  | .inf n => (f.signed n f.infBits, 0)
  | .fin n m e => f.round mode n m e

/-- ±(a × b) ± c, rounded once; ∞ × 0 is invalid whatever c is (R188). -/
def Fmt.fma (f : Fmt) (mode : Rounding) (negProduct negAddend : Bool) (a b c : Nat) : Nat × Flags :=
  let p := (f.decode a).mul (f.decode b)
  let c := f.decode c
  f.sum mode [if negProduct then p.negate else p, if negAddend then c.negate else c]

/-- Less than, on numbers that are not NaN; the two zeros are equal. -/
def Num.lt : Num → Num → Bool
  | .nan _, _ => false
  | _, .nan _ => false
  | .inf a, .inf b => a && !b
  | .inf a, .fin _ _ _ => a
  | .fin _ _ _, .inf b => !b
  | .fin a m e, .fin b n g => let q := min e g; scaled a m e q < scaled b n g q

/-- Equal, on numbers that are not NaN; the two zeros are equal. -/
def Num.eqv (a b : Num) : Bool := !a.isNan && !b.isNan && !a.lt b && !b.lt a

/-- The F32 relations of R189, by fn. -/
def compareF32 (fn : Nat) (a b : W32) : Bool × Flags :=
  let x := f32.decode a.toNat
  let y := f32.decode b.toNat
  let unordered := x.isNan || y.isNan
  let signals := x.isSignalling || y.isSignalling
  let holds := match fn with
    | 0 => x.eqv y
    | 1 => !x.eqv y
    | 2 => x.lt y
    | 3 => x.lt y || x.eqv y
    | 4 => unordered
    | 5 => x.lt y
    | _ => x.lt y || x.eqv y
  (holds, if (if fn < 5 then signals else unordered) then Flags.nv else 0)

/-- F32 minimum (`least`) or maximum under R188: −0 below +0, a lone NaN gives the other operand. -/
def minMaxF32 (least : Bool) (a b : W32) : W32 × Flags :=
  let x := f32.decode a.toNat
  let y := f32.decode b.toNat
  let fl := if x.isSignalling || y.isSignalling then Flags.nv else 0
  if x.isNan && y.isNan then (BitVec.ofNat 32 f32.nanBits, fl)
  else if x.isNan then (b, fl)
  else if y.isNan then (a, fl)
  else
    let aLess := x.lt y || (x.eqv y && x.neg)
    (if aLess == least then a else b, fl)

/-- A 32-bit result with its flags. -/
def word32 (r : Nat × Flags) : W32 × Flags := (BitVec.ofNat 32 r.1, r.2)

def addF32 (mode : Rounding) (a b : W32) : W32 × Flags := word32 (f32.add mode a.toNat b.toNat)
def subF32 (mode : Rounding) (a b : W32) : W32 × Flags := word32 (f32.sub mode a.toNat b.toNat)
def mulF32 (mode : Rounding) (a b : W32) : W32 × Flags := word32 (f32.mul mode a.toNat b.toNat)
def fmaF32 (mode : Rounding) (np nd : Bool) (a b d : W32) : W32 × Flags :=
  word32 (f32.fma mode np nd a.toNat b.toNat d.toNat)

/-- The two halves of a packed register, element 0 first (R190). -/
def half (x : W32) (i : Nat) : Nat := (x >>> (16 * i)).toNat % 2 ^ 16

/-- An elementwise operation on packed halves (R190): a flag raised by either half is raised. -/
def packed (op : Nat → Nat → Nat → Nat × Flags) (a b d : W32) : W32 × Flags :=
  let r0 := op (half a 0) (half b 0) (half d 0)
  let r1 := op (half a 1) (half b 1) (half d 1)
  (BitVec.ofNat 32 (r0.1 + 2 ^ 16 * r1.1), r0.2 ||| r1.2)

/-- The two-term dot product of R190 onto an F32 value. -/
def dotPair (f : Fmt) (mode : Rounding) (a b d : W32) : W32 × Flags :=
  word32 (f32.sum mode [(f.decode (half a 0)).mul (f.decode (half b 0)), (f.decode (half a 1)).mul (f.decode (half b 1)),
    f32.decode d.toNat])

/-- A finite number rounded to a whole number in a mode, and whether exactly. -/
def toWhole (mode : Rounding) (neg : Bool) (m : Nat) (e : Int) : Int × Bool :=
  let (w, exact) := roundTo mode neg m e 0
  (if neg then -(w : Int) else w, exact)

/-- F32 to a whole number between `lo` and `hi` (R66, R192): saturation and NaN raise nv. -/
def f32ToInt (mode : Rounding) (lo hi : Int) (x : W32) : Int × Flags :=
  match f32.decode x.toNat with
  | .nan _ => (0, Flags.nv)
  | .inf neg => (if neg then lo else hi, Flags.nv)
  | .fin neg m e =>
    let (w, exact) := toWhole mode neg m e
    if w < lo then (lo, Flags.nv) else if hi < w then (hi, Flags.nv) else (w, if exact then 0 else Flags.nx)

/-- A whole number to F32 (R192). -/
def intToF32 (mode : Rounding) (w : Int) : W32 × Flags := word32 (f32.round mode (w < 0) w.natAbs 0)

/-- F32 to F16 or BF16 (R67). -/
def f32ToHalf (f : Fmt) (mode : Rounding) (x : W32) : Nat × Flags :=
  match f32.decode x.toNat with
  | .nan s => (f.nanBits, if s then Flags.nv else 0)
  | .inf neg => (f.signed neg f.infBits, 0)
  | .fin neg m e => f.round mode neg m e

/-- A number whose value F32 holds exactly, as F32 (R67: no flag; every NaN gives the canonical one). -/
def widen : Num → W32
  | .nan _ => BitVec.ofNat 32 f32.nanBits
  | .inf neg => BitVec.ofNat 32 (f32.signed neg f32.infBits)
  | .fin neg m e => BitVec.ofNat 32 (f32.round .rne neg m e).1

end Sys2Proof.Machine
end

