-- ==== Sys2Proof/Machine/Performed.lean ====
section
/-! DEFINITION. What a write does to the bytes at its home (R137, R200, R206, R208, Table 10.7). -/

namespace Sys2Proof.Machine

/-- The new value of a returning atomic (Table 10.7), over `n` bytes: the old value, the operand, the compare value. -/
def atomicValue (fn n m x cmp : Nat) : Nat :=
  let w := 8 * n
  let sm := BitVec.ofNat w m
  let sx := BitVec.ofNat w x
  match fn with
  | 0 => (sm + sx).toNat
  | 1 => if sx.slt sm then x else m
  | 2 => if sm.slt sx then x else m
  | 3 => min m x
  | 4 => max m x
  | 5 => (sm &&& sx).toNat
  | 6 => (sm ||| sx).toNat
  | 7 => (sm ^^^ sx).toNat
  | 8 => x
  | 9 => if m = cmp then x else m
  | _ => (f32.add .rne m x).1

/-- The new value of a reduction (R208). -/
def reduceValue (fn m x : Nat) : Nat :=
  match fn with
  | 0 => atomicValue 0 4 m x 0
  | 1 => (f32.add .rne m x).1
  | 2 => (bf16.add .rne m x).1
  | 3 => atomicValue 1 4 m x 0
  | 4 => atomicValue 2 4 m x 0
  | 5 => atomicValue 5 4 m x 0
  | 6 => atomicValue 6 4 m x 0
  | _ => atomicValue 7 4 m x 0

/-- The bytes at some locations. -/
def readLocs (m : Memory) (locs : List Nat) : List Byte := locs.map (readByte m)

/-- One thread's part of an access performed on memory: memory after it, and the old bytes. A failing ACAS writes nothing
(R206). -/
def performElem (op : AccessOp) (m : Memory) (e : Elem) : Memory × List Byte :=
  let old := readLocs m e.locs
  let n := e.locs.length
  match op with
  | .store => (writeLocs m (e.locs.zip e.data), old)
  | .portStore _ => (writeLocs m (e.locs.zip e.data), old)
  | .atomic fn _ _ _ =>
    let v := atomicValue fn n (natOfBytes old) (natOfBytes e.data) (natOfBytes e.cmp)
    (writeLocs m (e.locs.zip (bytesOfNat v n)), old)
  | .reduce fn => (writeLocs m (e.locs.zip (bytesOfNat (reduceValue fn (natOfBytes old) (natOfBytes e.data)) n)), old)
  | _ => (m, old)

/-- An access performed: its threads in ascending order (R137, R200, R206), the old bytes kept with each.
(DEDUCED, log 46, safe.) -/
def performElems (op : AccessOp) : Memory → List Elem → Memory × List Elem
  | m, [] => (m, [])
  | m, e :: es =>
    let (m, old) := performElem op m e
    let (m, es) := performElems op m es
    (m, { e with got := e.locs.zip old } :: es)

end Sys2Proof.Machine
end

