-- ==== Sys2Proof/Machine/Operands.lean ====
section
/-! DEFINITION. Issuing a word: its operands and their conditions in the order of R154, the waits of R148, R129, R124 and
R172, the stream and queue ports its operands name (R102, R105, R182), and moving past it. Every instruction's meaning is
`issue` or `run` of its `Use` with its own effect. -/

namespace Sys2Proof.Machine

/-- What a word asks of the wave before its own conditions: its length in code words, whether a prefix may cover it (R149),
whether it is irrevocable (R129) or an asynchronous command (R128), supervisor only (R180), illegal in this state (R148,
R192, R198), its source fields with their e-bits, the registers it reads without one, its destinations, the path it counts
on, whether it is a long-latency producer, how many
registers it writes besides its destination fields, whether it is a comparison point besides being irrevocable, whether
both copies of a pair execute it for themselves, its effect being on the wave alone (R318), whether it needs a port mode the wave is not in (R201), and registers only tested against the declaration.
(DEDUCED, log 17, unsafe; DEDUCED, log 150, safe.) -/
structure Use where
  words       : Nat := 1
  covered     : Bool := false
  irrevocable : Bool := false
  async       : Bool := false
  supervisor  : Bool := false
  illegal     : Bool := false
  srcV        : List (Nat × Bool) := []
  srcS        : List (Nat × Bool) := []
  oldV        : List Nat := []
  oldS        : List Nat := []
  dstV        : List Nat := []
  dstS        : List Nat := []
  path        : Option Nat := none
  late        : Bool := false
  extra       : Nat := 0
  compare     : Bool := false
  both        : Bool := false
  unbound     : Bool := false
  groupS      : List Nat := []
  groupV      : List Nat := []
  deriving DecidableEq, Repr

/-- A vector register number that is a port's in this wave's port mode (R29). -/
def Wave.isPort (w : Wave) (r : Nat) : Bool := w.ports != 0 && decide (124 ≤ r) && decide (r ≤ 127)

/-- A vector register number beyond the declaration (R32). (DEDUCED, log 17, unsafe.) -/
def Wave.badV (w : Wave) (r : Nat) : Bool := (decide (w.vregs ≤ r) && !w.isPort r) || decide (128 ≤ r)

/-- A scalar register number beyond the declaration: s0 to s(S−2) and s127 are owned (R30, R32). -/
def Wave.badS (w : Wave) (r : Nat) : Bool := (decide (w.sregs ≤ r + 1) && r != 127) || decide (128 ≤ r)

/-- An unbound stream port, an unbound queue (Table 2.7). -/
def StreamPort.unbound : StreamPort :=
  ⟨false, false, 0, 0, false, 0, 0, 0, 0, 0⟩
def QueuePort.unbound : QueuePort := ⟨false, 0, false, [], 0, 0⟩

def Arch.stream (a : Arch) (i : Nat) : StreamPort := look StreamPort.unbound a.streams i
def Arch.queue (a : Arch) (q : Nat) : QueuePort := look QueuePort.unbound a.queues q
def Arch.setStream (a : Arch) (i : Nat) (p : StreamPort) : Arch := { a with streams := put StreamPort.unbound a.streams i p }
def Arch.setQueue (a : Arch) (q : Nat) (p : QueuePort) : Arch := { a with queues := put QueuePort.unbound a.queues q p }

/-- Bytes of a port element (Table 5.6, Table 10.3). -/
def elemBytes (size : BitVec 2) : Nat := if size = 0#2 then 4 else if size = 1#2 then 2 else 1

/-- The offset of a stream step's element of a thread (R102). -/
def StreamPort.offset (p : StreamPort) (step t : Nat) : Nat :=
  (p.base.setWidth 64 + BitVec.ofNat 64 step * p.sstride + BitVec.ofNat 64 t * p.tstride.signExtend 64).toNat

/-- The fields of a QBIND group (Table 10.3). -/
def QueuePort.word (p : QueuePort) (i : Nat) : W64 := p.group.getD i 0
def QueuePort.loops (p : QueuePort) : Nat := ((p.word 0).extractLsb' 44 2).toNat + 1
def QueuePort.size (p : QueuePort) : BitVec 2 := (p.word 0).extractLsb' 42 2
def QueuePort.trip (p : QueuePort) (j : Nat) : Nat := ((p.word (2 + j)).extractLsb' 0 32).toNat
def QueuePort.stride (p : QueuePort) (j : Nat) : W64 := ((p.word (2 + j)).extractLsb' 32 32).signExtend 64
def QueuePort.total (p : QueuePort) : Nat := ((List.range p.loops).map p.trip).foldl (· * ·) 1

/-- The index of loop `j` at an iteration, loop 0 innermost. -/
def QueuePort.index (p : QueuePort) (it j : Nat) : Nat :=
  it / ((List.range j).map p.trip).foldl (· * ·) 1 % p.trip j

/-- The offset of an entry's element of a thread (R105). -/
def QueuePort.offset (p : QueuePort) (it t : Nat) : Nat :=
  (((p.word 0).extractLsb' 0 40).setWidth 64 + BitVec.ofNat 64 t * ((p.word 1).extractLsb' 0 32).signExtend 64 +
    ((List.range p.loops).map (fun j => BitVec.ofNat 64 (p.index it j) * p.stride j)).foldl (· + ·) 0).toNat

/-- Entries of a store queue that have not left (R105). -/
def Wave.storeOcc (w : Wave) (q : Nat) : Nat := (w.accesses.filter (fun a => a.queue == some q && !a.left)).length

/-! ### The conditions -/

/-- A port used against its direction in queue mode (R105): illegal. -/
def Wave.queueIllegal (w : Wave) (u : Use) : Bool :=
  w.ports == 2#2 && (u.dstV.any (fun r => r == 124 || r == 125) ||
    (u.srcV.map (·.1) ++ u.oldV).any (fun r => r == 126 || r == 127))

/-- A port register unbound, or a stream port against its direction (R103, R105). (DEDUCED, log 17, unsafe.) -/
def Wave.portUnbound (w : Wave) (u : Use) : Bool :=
  let bad := fun (source : Bool) (r : Nat) => w.isPort r &&
    (if w.ports == 1#2 then !(w.a.stream (r - 124)).bound || (w.a.stream (r - 124)).dir == source
     else !(w.a.queue (r - 124)).bound)
  (u.srcV.map (·.1) ++ u.oldV).any (bad true) || u.dstV.any (bad false)

/-- An exhausted stream or queue (R103, R105). -/
def Wave.exhausted (w : Wave) (source : Bool) (r : Nat) : Bool :=
  if w.ports == 1#2 then (w.a.stream (r - 124)).count ≤ (w.a.stream (r - 124)).step
  else
    let q := w.a.queue (r - 124)
    if source then q.total ≤ q.gone else q.total ≤ q.issued

/-- The step or iteration of a port that a source field reads next. -/
def Wave.nextStep (w : Wave) (r : Nat) : Nat :=
  if w.ports == 1#2 then (w.a.stream (r - 124)).step.toNat else (w.a.queue (r - 124)).gone

/-- What the engine has fetched, or is fetching, of a step of a port (R102, R105). -/
def Wave.fetchOf (w : Wave) (r step : Nat) : Option Access := w.aside.find? (fun x => x.op == .fetch r step)

/-- The step or entry a port delivers next, once it has arrived. -/
def Wave.arrived (w : Wave) (r : Nat) : Option Access := (w.fetchOf r (w.nextStep r)).filter (·.returned)

/-- Empty, for a source field: an empty register, or a port whose step or entry has not arrived (R148). -/
def Wave.emptySource (w : Wave) (r : Nat) : Bool :=
  if w.isPort r then !w.exhausted true r && (w.arrived r).isNone else w.a.emptyV.getLsbD r

def Wave.emptyScalar (w : Wave) (r : Nat) : Bool := w.a.emptyS.getLsbD r

/-- A port that the wave writes: a stream of the write direction, a store queue (R102, R105). -/
def Wave.writePort (w : Wave) (r : Nat) : Bool :=
  w.isPort r && (if w.ports == 1#2 then (w.a.stream (r - 124)).dir else decide (126 ≤ r))

/-- A register that a word waits for as a destination, or reads without an e-bit, is empty (R148): a write port is, while an earlier word's
result for its step is on its way. -/
def Wave.unfilled (w : Wave) (r : Nat) : Bool := w.a.emptyV.getLsbD r || (!w.writePort r && w.emptySource r)

/-- A write of the wave has issued whose translation is on its way: a later read does not know yet whether it is of those bytes (R125, R285).
(DEDUCED, log 183, safe.) -/
def Wave.writePending (w : Wave) : Bool := w.accesses.any (fun x => x.op.writes && x.pending.isSome)

/-- The conditions of R154 up to 0x04, in their order. Where a vector source and a scalar source are both empty under an e-bit, trmask is the
vector source's: R148 gives two masks and no order. (DEDUCED, log 61, safe; DESIGN CHOICE, log 179, unsafe.) -/
def earlyTrap (u : Use) (w : Wave) : Option (BitVec 8 × W64) :=
  if (w.a.pos.residue.left != 0 && !u.covered) || u.illegal || w.queueIllegal u then some (Cause.illegal, 0)
  else if u.supervisor && !w.env.sup then some (Cause.privileged, 0)
  else if (u.srcV.map (·.1) ++ u.oldV ++ u.dstV ++ u.groupV).any w.badV || (u.srcS.map (·.1) ++ u.oldS ++ u.dstS ++ u.groupS).any w.badS then
    some (Cause.register, 0)
  else if u.unbound || w.portUnbound u then some (Cause.unbound, 0)
  else if u.srcV.any (fun x => x.2 && w.emptySource x.1) then some (Cause.empty, w.acting)
  else if u.srcS.any (fun x => x.2 && w.emptyScalar x.1) then some (Cause.empty, 0)
  else none

/-- Registers the word writes, for the undo log (R124). -/
def Use.logged (u : Use) : Nat := u.dstV.length + u.dstS.length + u.extra

/-- A full undo log (R124): every entry used, or too few left for what the word writes. (DEDUCED, log 61, safe.) -/
def Wave.logFull (w : Wave) (u : Use) : Bool := decide (64 ≤ w.logUsed ∨ 64 < w.logUsed + u.logged)

/-- The waits before issue: empty sources, empty destinations and the registers read without an e-bit, the irrevocable words' wait
(R129), cautious mode (Table 6.1), a counter at its limit (R172), a full undo log (R124), a full store queue (R105).
(DEDUCED, log 61, safe.) -/
def earlyWait (u : Use) (w : Wave) : Option Hold :=
  let v := u.oldV ++ u.dstV
  let x := u.oldS ++ u.dstS
  if (u.srcV.map (·.1)).any w.emptySource || (u.srcS.map (·.1)).any w.emptyScalar then
    some (.operand ((u.srcV.map (·.1)).foldl RegSet.with 0) ((u.srcS.map (·.1)).foldl RegSet.with 0))
  else if u.oldV.any w.emptySource || u.dstV.any (w.a.emptyV.getLsbD ·) || x.any w.emptyScalar then
    some (.filling (v.foldl RegSet.with 0) (x.foldl RegSet.with 0))
  else if u.irrevocable && w.speculative then some .nonspec
  else if w.mode != 0 && w.accesses.any (fun a => a.op.writes) then some .engine
  else if u.path.any (fun p => 65535 ≤ w.count p) then some .engine
  else if w.speculative && w.txn.isNone && w.logFull u then some .engine
  else if w.ports == 2#2 && u.dstV.any (fun r => w.isPort r && decide (16 ≤ w.storeOcc (r - 124))) then some .engine
  else none

/-- An asynchronous or irrevocable word aborts an open transaction with code 5; a full undo log with code 3 (Table 6.4).
(DEDUCED, log 62, unsafe.) -/
def earlyAbort (u : Use) (w : Wave) : Option (BitVec 3) :=
  match w.txn with
  | none => none
  | some t => if u.irrevocable || u.async then some 5#3 else if 64 ≤ t.log ∨ 64 < t.log + u.logged then some 3#3 else none

/-! ### Port steps -/

/-- A port's pending step or entry as the word meets it: register, handle, bypass, element bytes, and its threads' offsets. -/
structure PortStep where
  reg    : Nat
  source : Bool
  handle : Nat
  byp    : Bool
  bytes  : Nat
  offs   : List (Nat × Nat)
  deriving DecidableEq, Repr

/-- The step of a port register (R102, R105): a stream step serves the acting threads, a queue entry every thread.
(DEDUCED, log 34, unsafe.) -/
def Wave.portStep (w : Wave) (source : Bool) (r : Nat) : PortStep :=
  if w.ports == 1#2 then
    let p := w.a.stream (r - 124)
    ⟨r, source, p.handle.toNat, p.byp, elemBytes p.size, w.actingThreads.map (fun t => (t, p.offset p.step.toNat t))⟩
  else
    let q := w.a.queue (r - 124)
    let it := if source then q.gone else q.issued
    ⟨r, source, q.handle.toNat, q.byp, elemBytes q.size, (List.range w.width).map (fun t => (t, q.offset it t))⟩

/-- The ports a word uses, each once: sources first. A word that names one read port in two source fields takes one step, which
both fields read. (DESIGN CHOICE, log 160, unsafe.) -/
def Wave.portSteps (w : Wave) (u : Use) : List PortStep :=
  if w.ports == 0#2 then []
  else (((u.srcV.map (·.1) ++ u.oldV).eraseDups.filter w.isPort).map (w.portStep true)) ++
    ((u.dstV.eraseDups.filter w.isPort).map (w.portStep false))

/-- A port's step taken: the port moves on one step or entry. -/
def Arch.stepPort (a : Arch) (mode : BitVec 2) (p : PortStep) : Arch :=
  let i := p.reg - 124
  if mode = 1#2 then
    let x := a.stream i
    a.setStream i { x with step := x.step + 1 }
  else
    let q := a.queue i
    a.setQueue i (if p.source then { q with gone := q.gone + 1 } else { q with issued := q.issued + 1 })

/-- What a write access leaves in a byte: of several threads' data, the highest thread's (R200); none where the access is an
atomic or a reduction, which change it at the home (R137). (DEDUCED, log 38, 39, unsafe.) -/
def Access.byteLeft (x : Access) (loc : Nat) : Option Byte :=
  match x.op with
  | .store => ((x.elems.flatMap (fun e => e.locs.zip e.data)).reverse.find? (fun y => y.1 == loc)).map (·.2)
  | .portStore _ => ((x.elems.flatMap (fun e => e.locs.zip e.data)).reverse.find? (fun y => y.1 == loc)).map (·.2)
  | _ => none

/-- The byte of a location that a thread's youngest buffered write before word `seq` leaves there (R125): a write that has left the buffer
is at its home. (DEDUCED, log 38, 39, unsafe; DEDUCED, log 40, safe.) -/
def forwarded (w : Wave) (seq thread loc : Nat) : Option Byte :=
  let stores := w.accesses.filter (fun x => !x.left && decide (x.seq < seq))
  let mine := stores.filter (fun x => x.op.writes && x.elems.any (fun e => e.thread == thread && e.locs.contains loc))
  mine.getLast?.bind (fun x => x.byteLeft loc)

/-- Memory as a copy of a paired launch sees it: its logged writes are not performed yet (R317). -/
def pairMem (s : State) : Memory := s.w.pairLog.foldl (fun m (x : Access) => (performElems x.op m x.elems).1) s.mem

/-- A location that a copy of a paired launch has written and not performed. -/
def Wave.pairWrote (w : Wave) (loc : Nat) : Bool := w.pairLog.any (fun x => x.elems.any (fun e => e.locs.contains loc))

/-- A byte that word `seq` of the wave in focus takes from its own thread's buffered writes (R125), or a copy of a paired launch from its
log (R317); inside a transaction, from the write set applied to them. -/
def ownByte (s : State) (seq thread loc : Nat) : Option Byte :=
  let accs := (match s.w.txn with | some t => t.accs | none => []).filter (fun (x : Access) =>
    decide (x.seq < seq) && x.elems.any (fun e => e.thread == thread && e.locs.contains loc))
  if !accs.isEmpty then
    some (readByte (accs.foldl (fun m (x : Access) => (performElems x.op m (x.elems.filter (fun e => e.thread == thread))).1) (pairMem s)) loc)
  else (forwarded s.w seq thread loc).or (if s.w.pairWrote loc then some (readByte (pairMem s) loc) else none)

/-- A line request for each aligned 128-byte line the locations touch, ascending (R95, R117). -/
def requests (phase : ReqPhase) (arrived : Nat) (homeOf : Nat → Nat) (locs : List Nat) : List Req :=
  ((locs.map lineOf).eraseDups.mergeSort (· ≤ ·)).map (fun l => ⟨l, homeOf l, phase, arrived, 0, 0, 0, false, false, 0, false, 0⟩)

/-- An access of the wave in focus, made by the word being issued. (DEDUCED, log 30, safe.) -/
def makeAccess (s : State) (path : Nat) (h : Handle) (handle : Nat) (byp : Bool) (op : AccessOp) (elems : List Elem) : Access :=
  { seq := s.w.seq, path := path, space := BitVec.ofNat 4 h.space, policy := h.policy, pinclass := h.pinclass,
    byp := byp || h.policy == 1#2, handle := handle, op := op, elems := elems,
    reqs := requests (if op.writes then .held else .sent) s.cycle (homeWhorl s) (elems.flatMap (·.locs)),
    queue := none, log := 0, returned := (match op with | .store => true | .reduce _ => true | _ => false), left := false, poisoned := none, pending := none,
    word := s.w.a.pos.pc, inst := s.w.inst, snap := s.w.a }

/-- A 65th read line or a 33rd write line (Table 6.4). (DEDUCED, log 62, unsafe.) -/
def Wave.overCapacity (w : Wave) : Bool :=
  w.txn.any (fun t => decide (64 < t.readLines.length) || decide (32 < t.writeLines.length))

/-- Put an access in the wave in focus, or, a write inside a transaction, in the write set; a read there joins the read set
(R134). -/
def addAccess (x : Access) (s : State) : State :=
  match s.w.txn with
  | none => s.onWave (fun w => { w with accesses := w.accesses ++ [x] })
  | some t =>
    if x.op.writes then s.onWave (fun w => { w with txn := some { t with accs := t.accs ++ [x] } })
    else
      let reads := x.elems.map (fun e => (e.thread, e.locs))
      s.onWave (fun w => { w with accesses := w.accesses ++ [x], txn := some { t with reads := t.reads ++ reads } })

/-- Spaces 4 and 5, whose accesses are irrevocable (R82, R129). -/
def Handle.remote (h : Handle) : Bool := h.space == 4 || h.space == 5

/-- Memory once every write in the egress queue has reached the host (R119). (DEDUCED, log 52, safe.) -/
def drained (s : State) : Memory := s.egress.foldl (fun m e => writeBytes m e.loc e.data) s.mem

/-- A line is in use at its home, or its invalidation is deferred there: a host's or peer's access waits (R132, R303). -/
def lineWaits (s : State) (line : Nat) : Bool := (s.whorl (homeWhorl s line)).inUse line || deferred s line

/-- The lines of a posted write. -/
def Egress.lines (e : Egress) : List Nat := ((List.range e.data.length).map (fun i => lineOf (e.loc + i))).eraseDups

/-- The egress queue reaches the host as far as no line of it waits: its writes are in host memory, and the host's coherence takes back
every copy of their lines (R120). (DEDUCED, log 52, safe.) -/
def drainEgress (s : State) : State :=
  let out := s.egress.takeWhile (fun e => !e.lines.any (lineWaits s))
  let s := { s with mem := out.foldl (fun m e => writeBytes m e.loc e.data) s.mem, egress := s.egress.drop out.length }
  ((out.flatMap (·.lines)).eraseDups).foldl (fun (s : State) l =>
    (invalidateNow l s).onWhorl (homeWhorl s l) (fun h => { h with owned := h.owned.erase l })) s

/-- An element of zero-extended bytes. -/
def wordOfElem (bs : List Byte) : W32 := BitVec.ofNat 32 (natOfBytes bs)

/-- A byte of a step as the engine fetched it. -/
def Access.fetched (x : Access) (loc : Nat) : Option Byte := ((x.elems.flatMap (·.got)).find? (fun g => g.1 == loc)).map (·.2)

/-- The bytes a port gives a thread: those of the thread's own buffered writes, the others as fetched. (DEDUCED, log 32, safe.) -/
def portBytes (s : State) (x : Access) (p : Place) : List Byte :=
  p.locs.map (fun l => ((ownByte s s.w.seq p.thread l).or (x.fetched l)).getD 0)

/-- Whether a fetched step has every byte its read takes from it. A thread that had no translation when the step was fetched is
missing from it; the step is then fetched again. (DEDUCED, log 32, safe.) -/
def portCovers (s : State) (r : Nat) (places : List Place) : Bool :=
  match s.w.arrived r with
  | none => false
  | some x => places.all (fun p => p.locs.all (fun l => (ownByte s s.w.seq p.thread l).isSome || (x.fetched l).isSome))

/-- The first poisoned sector a port's read delivers, by its address: poison its sector has, or that came with the fetch. -/
def poisonedRead (s : State) (x : Access) (places : List Place) : Option W64 :=
  (poisonVa s (fun e l => (ownByte s s.w.seq e.thread l).isSome)
    (places.map (fun q => ⟨q.thread, q.va, q.locs, [], [], [], []⟩))).or
    (x.poisoned.filter (fun va => places.any (fun q => q.va &&& ~~~(31#64) == va)))

/-- Take a port's step: a source's values go to the port register of the acting threads and its read is an access of the
wave (R112); a destination's step becomes a store whose data the word will give. A step of no thread is taken without an
access (R182, R197). (DEDUCED, log 32, 36, safe; DEDUCED, log 34, 35, 158, unsafe.) -/
def takePort (p : PortStep) (h : Handle) (places : List Place) (s : State) : State :=
  let here := s.w.arrived p.reg
  let past := fun (s : State) => s.onWave (fun w => { w with
    a := w.a.stepPort w.ports p
    aside := if p.source then w.aside.filter (fun x => x.op != .fetch p.reg (w.nextStep p.reg)) else w.aside })
  if places.isEmpty then past s else
  let acting := s.w.acting
  let elems := fun (got : Place → List (Nat × Byte)) => places.map (fun q => (⟨q.thread, q.va, q.locs, [], [], [], got q⟩ : Elem))
  if p.source then
    match here with
    | none => past s
    | some x =>
      let acc := { makeAccess s x.path h p.handle p.byp .port (elems (fun q => q.locs.zip (portBytes s x q))) with
        returned := true, poisoned := poisonedRead s x places, reqs := x.reqs }
      addAccess acc ((past s).onArch (fun a => places.foldl (fun (a : Arch) q =>
        if acting.getLsbD q.thread then a.setV p.reg q.thread (wordOfElem (portBytes s x q)) else a) a))
  else
    let path := if h.remote then 6 else 1
    let acc := { makeAccess s path h p.handle p.byp (.portStore p.reg) (elems (fun _ => [])) with
      returned := false, queue := if s.w.ports = 2#2 then some (p.reg - 124) else none }
    let flight := if s.w.ports = 2#2 then s.w.flight else s.w.flight ++ [⟨path, s.w.seq, false⟩]
    addAccess acc (s.onWave (fun w => { w with a := w.a.stepPort w.ports p, flight := flight }))

/-- What the conditions before a word's own decide. -/
inductive Verdict where
  | go (s : State)
  | trap (cause : BitVec 8) (mask : W64)
  | portTrap (cause : BitVec 8) (mask : W64) (access : BitVec 2) (va : W64)
  | wait (h : Hold)
  | abort (code : BitVec 3)
  | fault (s : State) (access : BitVec 2) (faults : List (Nat × W64 × BitVec 8 × Nat × Bool))
  deriving DecidableEq, Repr

/-- Post or join a record for every failing translation (R84, R289), each with the requests of its page: the record of each thread.
(DEDUCED, log 59, safe.) -/
def postFaults (agent : BitVec 4) (w : Wave) (word : W64) (access : BitVec 2) :
    List (Nat × W64 × BitVec 8 × Nat × Bool) → State → State × List (Nat × Option Nat)
  | [], s => (s, [])
  | (t, va, cause, level, large) :: rest, s =>
    let (s, i) := faultRecord agent w.env.tag w word va access cause level large (1 + onPage va rest) s
    let (s, is) := postFaults agent w word access rest s
    (s, (t, i) :: is)

/-- Copy B may follow (R318): copy A is past the word, and its destinations have been filled. (DEDUCED, log 63, safe.) -/
def leaderDone (u : Use) (s : State) : Bool :=
  match s.w.pair with
  | none => true
  | some (k, _) =>
    let a := s.wave k
    a.pairOk == 0#2 && !u.dstV.any (a.a.emptyV.getLsbD ·) && !u.dstS.any (a.a.emptyS.getLsbD ·)

/-- Copy B's step of a port in space 4 or 5, which copy A alone performs: its value is the one copy A's step left (R318).
(DEDUCED, log 150, safe.) -/
def followPort (p : PortStep) (s : State) : State :=
  match s.w.pair with
  | none => s
  | some (k, _) =>
    let other := (s.wave k).a
    s.onArch (fun a => (if p.source then a.setVs p.reg (other.getV p.reg) (List.range s.w.width) else a).stepPort s.w.ports p)

/-- The checks and steps of a word's ports, one after another (R103). (DEDUCED, log 36, safe; DEDUCED, log 60, unsafe.) -/
def takePorts : List PortStep → State → Verdict
  | [], s => .go s
  | p :: ps, s =>
    if s.w.exhausted p.source p.reg then .trap Cause.bounds 0
    else
      match checkAccess s.w (.core s.w.core) p.handle (if p.source then .load else .store) p.bytes p.bytes p.offs s with
      | (s, .ok h places) =>
        if h.remote && s.w.txn.isSome then .abort 5#3
        else if h.remote && s.w.speculative then .wait .nonspec
        else if h.remote && s.w.pair.isSome && s.w.pairOk == 0#2 then .wait .pair
        else if h.remote && s.w.pairOk == 2#2 then (if leaderDone {} s then takePorts ps (followPort p s) else .wait .engine)
        else if p.source && !places.isEmpty && !portCovers s p.reg places then .wait (.operand (RegSet.with 0 p.reg) 0)
        else if p.source && s.w.writePending then .wait .engine
        else if !p.source && s.w.ports == 1#2 && 65535 ≤ s.w.count (if h.remote then 6 else 1) then .wait .engine
        else takePorts ps (takePort p h places s)
      | (_, .trap cause mask) =>
        .portTrap cause mask (if p.source then Access.read else Access.write) (failingVa s.w p.handle p.offs mask)
      | (s, .fault fs) =>
        .fault (keepSample (.core s.w.core) p.handle s) (if p.source then Access.read else Access.write) fs
      | (_, .waitHost) => .wait .engine

/-- Everything that stands before a word's own conditions. (DEDUCED, log 60, 62, unsafe; DEDUCED, log 61, safe.) -/
def gate (u : Use) (s : State) : Verdict :=
  match earlyTrap u s.w with
  | some (cause, mask) => .trap cause mask
  | none =>
    match earlyWait { u with irrevocable := u.irrevocable && s.w.txn.isNone } s.w with
    | some h => .wait h
    | none =>
      match earlyAbort u s.w with
      | some code => .abort code
      | none =>
        match takePorts (s.w.portSteps u) s with
        | .go s => if s.w.overCapacity then .abort 3#3 else .go s
        | .fault s' access fs => .fault { s' with w := { s.w with sampled := s'.w.sampled } } access fs
        | v => v

/-- The threads attached to each record (R84). -/
def attached (records : List (Nat × Option Nat)) : List (Nat × W64) :=
  ((records.filterMap (·.2)).eraseDups).map (fun i => (i, maskOf ((records.filter (fun r => r.2 == some i)).map (·.1))))

/-- The wave in focus stalls on unresolved page faults (R130), each thread's with its record, or until the fault ring has room (R288): it
waits for the first record. A speculative wave rolls back first, uncounted; an open transaction aborts once the fault is resolved (R210).
(DEDUCED, log 59, 122, safe.) -/
def stallOnFault (records : List (Nat × Option Nat)) (s : State) : State :=
  let index := (records.head?).bind (·.2)
  let s := if s.w.txn.isNone then rollback s.focus false s
    else s.onWave (fun w => { w with txn := w.txn.map (fun t => { t with faulted := index.isSome }) })
  let s := s.onWave (fun w => { w with failing := attached records })
  match index with
  | some i => s.blockFor (.fault i)
  | none => s.blockFor .engine

/-- The translations of a word fail: while a walk is on its way the word waits for it (R285); a poisoned table sector is consumed by it
(R282, R309); else records are posted and the wave stalls. (DEDUCED, log 59, safe.) -/
def stallOrTrap (agent : BitVec 4) (access : BitVec 2) (fs : List (Nat × W64 × BitVec 8 × Nat × Bool)) (s : State) : State :=
  let unresolved := fs.filter (fun f => f.2.2.1 != Cause.poison)
  if fs.any (fun f => f.2.2.1 == Cause.waiting) then s.holdFor .engine
  else if unresolved.isEmpty then
    let f := fs.headD (64, 0, 0, 0, false)
    takeTrap { trapHere s Cause.poison 0 (maskOf (fs.map (·.1))) with
      agent := agent, access := access, va := f.2.1, level := f.2.2.2.1, large := f.2.2.2.2 } s
  else
    let (s, records) := postFaults agent s.w s.w.a.pos.pc access unresolved s
    stallOnFault records s

/-- A port store given its data: the values left in the port register. -/
def Access.fillPort (a : Arch) (seq : Nat) (x : Access) : Access :=
  match x.op with
  | .portStore r =>
    if x.seq == seq && !x.returned then
      { x with returned := true, elems := x.elems.map (fun e =>
        { e with data := bytesOfNat (a.getV r e.thread).toNat e.locs.length }) }
    else x
  | _ => x

/-- Give the data of a word's port stores: the values it left in the port registers. -/
def Wave.fillPortStores (w : Wave) (seq : Nat) : Wave :=
  { w with
    accesses := w.accesses.map (Access.fillPort w.a seq)
    txn := w.txn.map (fun t => { t with accs := t.accs.map (Access.fillPort w.a seq) }) }

/-- Registers set to undefined values (R4). (DEDUCED, log 11, safe.) -/
def scramble (rs : List Nat) (s : State) : State :=
  rs.foldl (fun s r => { s.setVs r (fun t => Config.freeWord (s.free + t)) (List.range 64) with
    free := s.free + 64 }) s

/-- Scale registers that an operation of the wave has yet to be waited for. -/
def Wave.pendingScales (w : Wave) : List Nat := (w.matrix ++ w.matDone).flatMap (·.scales)

/-- Operand registers of a matrix operation that are written before the wave waits: what the unit reads of them, and what they hold after
the wait, is undefined too (R148). An accumulator or O register written in that time keeps the unit's own value: what the wave wrote is
lost with the wait (R224). (DEDUCED, log 11, safe; DESIGN CHOICE, log 184, unsafe.) -/
def Wave.spoil (rs : List Nat) (free : Nat) (w : Wave) : Wave :=
  { w with acc := (rs.filter w.pendingScales.contains).foldl (fun m r => (List.range 64).foldl (fun m t =>
      if (find m (64 * r + t)).isSome then ins m (64 * r + t) (Config.freeWord (free + 64 * r + t)) else m) m) w.acc }

/-- Registers a pending matrix operation leaves undefined hold undefined values whatever returns to them (R148).
(DEDUCED, log 11, safe.) -/
def Wave.blur (w : Wave) (rs : List Nat) (free : Nat) (a : Arch) : Arch :=
  (rs.filter (fun r => w.undefRegs.contains r)).foldl (fun (a : Arch) r =>
    a.setVs r (fun t => Config.freeWord (free + 1 + 64 * r + t)) (List.range w.width)) a

/-- Free values that a late result may take: one for itself, and one for each thread of each register it writes, as the wave sees it and
as a matrix unit does. -/
def lateSpan : Nat := 16385

/-- A LATE RESULT of word `seq` that fills some vector registers: put into the registers and every boundary recorded since the word
(R124), where a pending matrix operation does not leave them undefined (R148). -/
def Wave.late (seq : Nat) (rs : List Nat) (free : Nat) (f : Arch → Arch) (w : Wave) : Wave :=
  (w.patch seq (fun a => w.blur rs free (f a))).spoil rs (free + 8193)

/-- Destinations that a matrix operation leaves undefined until the wave waits hold undefined values (R148).
(DEDUCED, log 11, safe.) -/
def blurWrites (u : Use) (s : State) : State :=
  if s.w.matrix.isEmpty && s.w.matDone.isEmpty then s
  else
    let s := scramble (u.dstV.filter (fun r => s.w.undefRegs.contains r)) s
    { s.onWave (Wave.spoil u.dstV s.free) with free := s.free + lateSpan }

/-- The word is done issuing: its port stores take their data, and the wave moves past it. -/
def finish (u : Use) (s : State) : State :=
  advance u.words u.logged (blurWrites u (if s.w.ports == 0#2 || u.late then s else s.onWave (fun w => w.fillPortStores w.seq)))

/-- A wait on mx that includes the completed operations: their registers take their values, but for those a queued operation
leaves undefined still (R113, R224). (DEDUCED, log 88, safe.) -/
def settleMatrix (s : State) : State :=
  match s.w.matDone with
  | [] => s
  | m :: _ =>
    let still := s.w.matrix.flatMap (·.undef)
    let ready := s.w.acc.filter (fun e => !still.contains (e.1 / 64))
    s.onWave (fun w => { w.patch m.seq (fun a => ready.foldl (fun (a : Arch) e => { a with v := put 0 a.v e.1 e.2 }) a) with
      matDone := [], acc := w.acc.filter (fun e => still.contains (e.1 / 64)) })

/-- Bytes in a pair log (R317). (DEDUCED, log 151, unsafe.) -/
def Wave.pairBytes (w : Wave) : Nat := ((w.pairLog.flatMap (·.elems)).map (fun e => e.locs.length)).foldl (· + ·) 0

/-- A wave of a paired launch that must meet its other copy before this word issues (R318); it keeps its slot meanwhile (R35). A returning
atomic inside a transaction is executed at its commit (R210), which is the comparison point then.
(DEDUCED, log 63, safe; DEDUCED, log 151, unsafe.) -/
def Wave.atComparison (w : Wave) (u : Use) : Bool :=
  w.pair.isSome && w.pairOk == 0#2 && (u.irrevocable || (u.compare && w.txn.isNone) || decide (65536 ≤ w.pairBytes))

/-- Copy A waits at its next word until copy B has taken the result of the last. (DEDUCED, log 63, safe.) -/
def awaitsFollower (s : State) : Bool :=
  s.w.pairOk == 0#2 && (match s.w.pair with | some (k, true) => (s.wave k).pairOk == 2#2 | _ => false)

/-- Copy B at a returning atomic or irrevocable word takes the registers copy A's execution left (R318).
(DEDUCED, log 63, safe.) -/
def followPair (u : Use) (s : State) : State :=
  match s.w.pair with
  | none => s
  | some (k, _) =>
    let other := (s.wave k).a
    s.onArch (fun a =>
      let a := u.dstV.foldl (fun (a : Arch) r => a.setVs r (other.getV r) (List.range s.w.width)) a
      u.dstS.foldl (fun (a : Arch) r => a.setS r (other.getS r)) a)

/-- ISSUE: the conditions before the word's own, then `k`. (DEDUCED, log 61, 63, 150, safe.) -/
def issue (u : Use) (k : State → Result) (s : State) : Result :=
  match gate u s with
  | .go s' =>
    if s.w.atComparison u then .next (s.holdFor .pair)
    else if awaitsFollower s then .next (s.holdFor .engine)
    else if s.w.pairOk == 2#2 && !u.both && (u.irrevocable || (u.compare && s.w.txn.isNone)) then
      if leaderDone u s then .next (finish { u with late := false } (followPair u s')) else .next (s.holdFor .engine)
    else k s'
  | .trap cause mask => raise cause 0 mask s
  | .portTrap cause mask access va =>
    .next (takeTrap { trapHere s cause 0 mask with agent := 6, access := access, va := va } s)
  | .wait h => .next (s.holdFor h)
  | .abort code => .next (abortTxn s.focus code s)
  | .fault s' access fs => .next (stallOrTrap 6 access fs s')

/-- A word whose only conditions are those of `gate`: its effect, then past it. -/
def run (u : Use) (effect : State → State) (s : State) : Result := issue u (fun s => .next (finish u (effect s))) s

/-- An operation that completes as it issues: its counter stays raised behind earlier ones of its path alone (R42, R121). -/
def countDone (path : Nat) (s : State) : State :=
  s.onWave (fun w => { w with flight := tidyFlight (w.flight ++ [⟨path, w.seq, true⟩]) })

/-- Raise a path counter for the word being issued (R42). -/
def raiseCount (path : Nat) (s : State) : State :=
  s.onWave (fun w => { w with flight := w.flight ++ [⟨path, w.seq, false⟩] })

end Sys2Proof.Machine
end

