-- ==== Sys2Proof/Machine/Guard.lean ====
section
/-! DEFINITION. A launch that runs ahead of its guard, and which operations of its waves wait for it (R266, R274, R312). -/

namespace Sys2Proof.Machine

/-- A word of a launch record (Table 17.4). -/
def Launch.word (l : Launch) (i : Nat) : W64 := l.record.getD i 0

/-- A handle in the launch's snapset; an access through no handle is in none. -/
def Launch.inSnapset (l : Launch) (handle : Nat) : Bool := decide (handle < 256) && (l.word (13 + handle / 64)).getLsbD (handle % 64)

/-- The launch runs ahead of a guard that is not yet resolved (R274). -/
def Launch.runAhead (l : Launch) : Bool := l.deps.any (fun d => d.kind == 3#2 && !d.met)

/-- The launch is protected (R312). -/
def Launch.isProtected (l : Launch) : Bool := l.shielded && (l.word 1).extractLsb' 54 2 != 0

/-- The launch of a wave. -/
def State.launchOf (s : State) (w : Wave) : Option Launch := find s.launches w.launch

/-- Whether an operation of a wave waits for its launch's guard (R274 rule 2). (DEDUCED, log 114, safe.) -/
def guardHolds (s : State) (w : Wave) : Bool := (s.launchOf w).any (·.runAhead)

/-- Whether a memory word waits for the guard: spaces 4 and 5, or a write through a writable handle outside snapset.
(DEDUCED, log 114, safe.) -/
def guardHoldsAccess (s : State) (w : Wave) (h : Handle) (handle : Nat) (writes : Bool) : Bool :=
  match s.launchOf w with
  | none => false
  | some l => l.runAhead && (h.remote || (writes && h.wr && !l.inSnapset handle))

end Sys2Proof.Machine
end

