-- ==== Sys2Proof/Machine/Barrier.lean ====
section
/-! DEFINITION. Named barriers (R122, R173 to R177). A barrier word has the effect of its arrive as it issues; a wave that
waits stands at its word until BARRIER_WAIT_COMPLETE. -/

namespace Sys2Proof.Machine

/-- An instance nothing has arrived at. -/
def Barrier.fresh : Barrier := ⟨0, [0, 0, 0, 0], [0, 0, 0, 0]⟩

/-- The team whose barriers a wave uses: copy B of a paired launch uses copy A's (R318). -/
def barrierTeam (s : State) (w : Wave) : Nat :=
  match w.pair with
  | some (k, false) => (s.wave k).team
  | _ => w.team

/-- The level an instance is used at: `.CORE` acts as `.TEAM` in a core team (R176). (DEDUCED, log 79, unsafe.) -/
def levelOf (w : Wave) (core : Bool) : Bool := core && w.twin

/-- The key of an instance: id and level, and for level `.CORE` of a twin team the column. -/
def instanceOf (w : Wave) (id : BitVec 5) (core : Bool) : Nat :=
  2 * id.toNat + (if levelOf w core then 1 + 64 * (w.core % 2) else 0)

/-- A team's state of an instance. -/
def barrierAt (s : State) (team inst : Nat) : Barrier :=
  match find s.teams team with
  | some t => look Barrier.fresh t.barriers inst
  | none => Barrier.fresh

def setBarrier (team inst : Nat) (b : Barrier) (s : State) : State :=
  { s with teams := change (fun t => { t with barriers := put Barrier.fresh t.barriers inst b }) s.teams team }

/-- How many waves of its team take part in an instance with a wave (R22, R176). -/
def Wave.sharing (w : Wave) (inst : Nat) : Nat :=
  if inst % 2 = 0 then w.waves else (w.waves + 1 - inst / 64) / 2

/-- The waves of a team that take part in an instance and have not halted (R176). -/
def participants (s : State) (team inst : Nat) : List (Nat × Wave) :=
  s.allWaves.filter (fun e => e.2.team == team && e.2.station != .vacant &&
    (inst % 2 == 0 || e.2.core % 2 == inst / 64))

/-- A wave's own arrives at an instance. -/
def Wave.arrivesAt (w : Wave) (inst : Nat) : Nat := look 0 w.arrives inst

/-- Whether a phase has not ended. -/
def Barrier.unended (b : Barrier) (phase : BitVec 32) : Bool := !(phase - BitVec.ofNat 32 b.ended).msb

/-- A wave waits at an instance on a phase that has not ended, or for one of four open phases to end (R175, R177). -/
def Wave.waitsAt (w : Wave) (inst : Nat) (b : Barrier) : Bool :=
  match w.hold with
  | .barrier i p => i == inst && b.unended p
  | .open4 i => i == inst
  | _ => false

/-- The two checks of R177. -/
def barrierStuck (s : State) (team inst : Nat) : Bool :=
  let b := barrierAt s team inst
  let live := participants s team inst
  (List.range 4).any (fun i => decide (b.arrived.getD i 0 +
    (live.filter (fun e => e.2.arrivesAt inst ≤ b.ended + i)).length < b.latched.getD i 0)) ||
  (!live.isEmpty && live.all (fun e => e.2.waitsAt inst b))

/-- MISUSE (R175) found by a word of a wave: the launch terminates with 0x0d, and every participant records it at the word it
stands at. -/
def misuseBy (launch wave : Nat) (pc : W64) (team inst : Nat) (s : State) : State :=
  let s := (participants s team inst).foldl (fun (s : State) e =>
    let back := s.focus
    let s := s.focusOn e.1
    ((recordTrap ⟨Cause.barrier, 0, false, 0, s.w.inst, s.w.a.pos.pc, 0, 0, 0, 0, false⟩ s.w.inHandler s).onWave (fun w =>
      { w with station := .stopped })).focusOn back) s
  stopLaunch launch ⟨Cause.barrier, 0, 0, 0, pc, wave, 0, false⟩ s

/-- Misuse that a word of the wave in focus found, once the wave is non-speculative. -/
def endMisuse (team inst : Nat) (s : State) : State := misuseBy s.w.launch s.focus s.w.a.pos.pc team inst s.endRun

/-- Misuse found by the wave in focus: a trap of its word like any other, pending while the wave is speculative (R130), an abort inside
a transaction (R210). (DEDUCED, log 43, safe.) -/
def misuse (team inst : Nat) (s : State) : State := trapBy (trapHere s Cause.barrier 0 0) (endMisuse team inst) s

/-- The barrier that a barrier word names, by its bits (R175). -/
def barrierId (inst : W64) : BitVec 5 := inst.extractLsb' 14 5

/-- A pending 0x0d of the wave in focus is delivered: of an instance beyond the declaration to the wave alone, any other to every participant.
(DEDUCED, log 43, safe.) -/
def deliverMisuse (t : PendTrap) (s : State) : State :=
  if s.w.barriers ≤ (barrierId t.inst).toNat then deliverTrap t s
  else endMisuse (barrierTeam s s.w) (instanceOf s.w (barrierId t.inst) (t.inst.getLsbD 6)) s

/-- The other level of an id has an open phase with arrivals (R176). -/
def otherLevel (s : State) (w : Wave) (team : Nat) (id : BitVec 5) (core : Bool) : Bool :=
  let busy := fun inst => (barrierAt s team inst).arrived.any (· != 0)
  w.twin && (if core then busy (2 * id.toNat) else busy (2 * id.toNat + 1) || busy (2 * id.toNat + 65))

/-- Phases end in order while the oldest is full (R175). -/
def endPhases : Nat → Barrier → Barrier
  | 0, b => b
  | n + 1, b =>
    if b.arrived.getD 0 0 ≠ 0 ∧ b.arrived.getD 0 0 = b.latched.getD 0 0 then
      endPhases n ⟨b.ended + 1, b.arrived.drop 1 ++ [0], b.latched.drop 1 ++ [0]⟩
    else b

/-- Waves that waited for an open phase try again. -/
def releaseOpen (team inst : Nat) (s : State) : State :=
  s.mapWaves (fun _ w => if w.team == team && w.hold == .open4 inst then { w with hold := .none } else w)

/-- What an arrive finds. -/
inductive Arrived where
  | misuse
  | full
  | ok (s : State) (phase : Nat)
  deriving DecidableEq, Repr

/-- ARRIVE of the wave in focus with count c (R175). -/
def arrive (id : BitVec 5) (core : Bool) (c : W64) (s : State) : Arrived :=
  let team := barrierTeam s s.w
  let inst := instanceOf s.w id core
  let b := barrierAt s team inst
  let a := s.w.arrivesAt inst
  let d := (BitVec.ofNat 32 a - BitVec.ofNat 32 b.ended)
  if otherLevel s s.w team id (levelOf s.w core) then .misuse
  else if c = 0 ∨ s.w.sharing inst < c.toNat then .misuse
  else if d.msb then .misuse
  else if 4 ≤ a - b.ended then .full
  else
    let i := a - b.ended
    if b.arrived.getD i 0 ≠ 0 ∧ b.latched.getD i 0 ≠ c.toNat then .misuse
    else
      let b := { b with arrived := b.arrived.set i (b.arrived.getD i 0 + 1), latched := b.latched.set i c.toNat }
      let b' := endPhases 4 b
      let s := setBarrier team inst b' s
      let s := s.onWave (fun w => { w with arrives := put 0 w.arrives inst (a + 1) })
      .ok (if b'.ended = b.ended then s else releaseOpen team inst s) a

/-- The token of an arrive (Table 8.5). (DEDUCED, log 79, unsafe.) -/
def tokenOf (level : Bool) (id : BitVec 5) (phase : Nat) : W64 := 0#26 ++ BitVec.ofBool level ++ id ++ BitVec.ofNat 32 phase

/-- An arrive, then `k` with its token. -/
def arriveWord (u : Use) (id : BitVec 5) (cnt : BitVec 7) (core : Bool) (k : State → Nat → Result) (s : State) : Result :=
  issue { u with irrevocable := true } (fun s =>
    let team := barrierTeam s s.w
    let inst := instanceOf s.w id core
    if s.w.barriers ≤ id.toNat then raise Cause.barrier 0 0 s
    else
      match arrive id core (s.sreg cnt.toNat) s with
      | .misuse => .next (misuse team inst s)
      | .full =>
        let s' := s.blockFor (.open4 inst)
        .next (if barrierStuck s' team inst then misuse team inst s' else s')
      | .ok s' phase => if barrierStuck s' team inst then .next (misuse team inst s') else k s' phase) s

/-- BARA (R175). (DEDUCED, log 79, unsafe.) -/
def execBara (r : BitVec 7) (id : BitVec 5) (cnt : BitVec 7) (core : Bool) (ea : Bool) (s : State) : Result :=
  let u : Use := { srcS := [(cnt.toNat, ea)], dstS := [r.toNat] }
  arriveWord u id cnt core (fun s phase =>
    .next (finish u (s.setS r.toNat (tokenOf (levelOf s.w core) id phase)))) s

/-- BARI (R175). -/
def execBari (id : BitVec 5) (cnt : BitVec 7) (core : Bool) (ea : Bool) (s : State) : Result :=
  let u : Use := { srcS := [(cnt.toNat, ea)] }
  arriveWord u id cnt core (fun s _ => .next (finish u s)) s

/-- The wave in focus begins to wait on a phase of an instance, with what its word has written by then (R175, R177): nothing
where the wait is misuse (R153). -/
def beginWait (team inst : Nat) (phase : BitVec 32) (written : State → State) (s : State) : State :=
  let s' := s.blockFor (.barrier inst phase)
  if barrierStuck s' team inst then misuse team inst s' else written s'

/-- BARAW (R175): the token is in its register from the arrive on. -/
def execBaraw (r : BitVec 7) (id : BitVec 5) (cnt : BitVec 7) (core : Bool) (ea : Bool) (s : State) : Result :=
  let u : Use := { srcS := [(cnt.toNat, ea)], dstS := [r.toNat] }
  arriveWord u id cnt core (fun s phase =>
    let team := barrierTeam s s.w
    let inst := instanceOf s.w id core
    let token := fun (s : State) => s.setS r.toNat (tokenOf (levelOf s.w core) id phase)
    if (barrierAt s team inst).unended (BitVec.ofNat 32 phase) then .next (beginWait team inst (BitVec.ofNat 32 phase) token s)
    else .next (finish u (token s))) s

/-- BARW (R175). (DEDUCED, log 79, unsafe.) -/
def execBarw (id : BitVec 5) (tok : BitVec 7) (core : Bool) (ea : Bool) (s : State) : Result :=
  let u : Use := { srcS := [(tok.toNat, ea)] }
  issue u (fun s =>
    let team := barrierTeam s s.w
    let inst := instanceOf s.w id core
    let t := s.sreg tok.toNat
    let b := barrierAt s team inst
    let phase := t.extractLsb' 0 32
    let d := phase - BitVec.ofNat 32 b.ended
    if s.w.barriers ≤ id.toNat then raise Cause.barrier 0 0 s
    else if t.extractLsb' 32 5 ≠ id ∨ t.getLsbD 37 ≠ levelOf s.w core ∨ t.extractLsb' 38 26 ≠ 0 then .next (misuse team inst s)
    else if otherLevel s s.w team id (levelOf s.w core) then .next (misuse team inst s)
    else if d.msb then .next (finish u s)
    else if 4 ≤ d.toNat then .next (misuse team inst s)
    else .next (beginWait team inst phase (fun s => s) s)) s

/-- BARRIER_WAIT_COMPLETE (R173): a waiting wave whose phase has ended goes on past its word. Nothing is left to log: BARW writes no register,
and BARAW is irrevocable, so nothing can undo its token (R124, R129). -/
def execBarrierWaitComplete (wave : Nat) (s : State) : Result :=
  let w := s.wave wave
  match w.hold with
  | .barrier inst phase =>
    if (barrierAt s (barrierTeam s w) inst).unended phase ∨ w.halted ∨ w.station = .saved then .next s
    else
      let back := s.focus
      .next ((advance 1 0 (s.focusOn wave)).focusOn back)
  | _ => .next s

end Sys2Proof.Machine
end

