-- ==== Sys2Proof/Machine/Memory.lean ====
section
/-! DEFINITION. Loads, stores, returning atomics and reductions, scalar and vector, as they issue (R117, R125, R179, R197 to
R200, R205 to R208). What happens to an access afterwards is in Machine/Lsu.lean. -/

namespace Sys2Proof.Machine

/-! ### Issuing -/

/-- What a memory word asks of memory: handle, bypass, kind of access, bytes and alignment of each place, what is done there,
the offset of each thread (64 for a scalar form), its data and compare value, whether it moves a whole line (R199), and the
registers it fills. -/
structure MemWord where
  handle : Nat
  byp    : Bool
  kind   : Kind
  n      : Nat
  align  : Nat
  op     : AccessOp
  offs   : List (Nat × Nat)
  data   : Nat → List Byte := fun _ => []
  cmp    : Nat → List Byte := fun _ => []
  line   : Bool := false
  dstV   : List Nat := []
  dstS   : List Nat := []

/-- The offset register of a vector form, of a line form (the lowest acting thread's) and of a scalar form. -/
def vectorOffs (s : State) (o : BitVec 7) : List (Nat × Nat) := s.w.actingThreads.map (fun t => (t, (s.vreg o.toNat t).toNat))
/-- DEDUCED, log 154, unsafe. -/
def lineOffs (s : State) (o : BitVec 7) : List (Nat × Nat) := (vectorOffs s o).take 1
/-- DEDUCED, log 25, unsafe. -/
def scalarOffs (s : State) (o : BitVec 7) : List (Nat × Nat) := [(64, (s.sreg o.toNat).toNat)]

/-- Words j of a line that belong to thread t, as byte indices (R199): j mod W = t. (DEDUCED, log 80, unsafe.) -/
def lineBytes (width t : Nat) : List Nat :=
  ((List.range 32).filter (fun j => j % width == t)).flatMap (fun j => [4 * j, 4 * j + 1, 4 * j + 2, 4 * j + 3])

/-- The parts of an access. (DEDUCED, log 80, unsafe.) -/
def MemWord.elems (m : MemWord) (s : State) (places : List Place) : List Elem :=
  if m.line then
    places.flatMap (fun p => s.w.actingThreads.filterMap (fun t =>
      let bs := lineBytes s.w.width t
      if bs.isEmpty then none
      else some ⟨t, p.va + BitVec.ofNat 64 (bs.headD 0), bs.map (fun i => p.locs.getD i 0), m.data t, [], [], []⟩))
  else places.map (fun p => ⟨p.thread, p.va, p.locs, m.data p.thread, m.cmp p.thread, [], []⟩)

/-- Whether the core's near cache serves a line of this access (R86, R91). (DEDUCED, log 64, safe.) -/
def nearServes (s : State) (h : Handle) (byp : Bool) (line : Nat) : Bool :=
  !byp && h.policy != 1#2 && !h.remote && (s.core s.w.core).near.contains line

/-- A load's parts as it issues: bytes of its own thread's buffered stores, and bytes of lines in the near cache.
(DEDUCED, log 38, unsafe; DEDUCED, log 64, safe.) -/
def loadElem (s : State) (seq : Nat) (h : Handle) (byp : Bool) (e : Elem) : Elem :=
  let fwd := e.locs.filterMap (fun l => (ownByte s seq e.thread l).map (fun b => (l, b)))
  let rest := e.locs.filter (fun l => !fwd.any (fun x => x.1 == l))
  { e with fwd := fwd, got := (rest.filter (fun l => nearServes s h byp (lineOf l))).map (fun l => (l, readByte s.mem l)) }

/-- The line requests of a load: none for forwarded bytes, done for a line the near cache holds. (DEDUCED, log 40, 64, safe.) -/
def loadReqs (s : State) (h : Handle) (byp : Bool) (elems : List Elem) : List Req :=
  (requests .sent s.cycle (homeWhorl s) (elems.flatMap (fun e => e.locs.filter (fun l => !e.fwd.any (fun x => x.1 == l))))).map (fun r =>
    if nearServes s h byp r.line then { r with phase := .done, here := true } else r)

/-- A load with what it finds at its core: forwarded bytes, bytes of lines in the near cache with the poison of their sectors, and requests
for the other lines (R86, R125, R309). -/
def Access.asLoad (s : State) (h : Handle) (x : Access) : Access :=
  let elems := x.elems.map (loadElem s x.seq h x.byp)
  { x with elems := elems, reqs := loadReqs s h x.byp elems, poisoned := poisonVa s (fun e l => !e.got.any (fun g => g.1 == l)) elems }

/-- The path a memory word counts on (R197). -/
def memPath (h : Handle) (op : AccessOp) : Nat :=
  if h.remote then 6
  else
    match op with
    | .store => 1
    | .portStore _ => 1
    | .reduce _ => 1
    | _ => 0

/-- Requests a core's load-store unit holds refused (R301). -/
def refusedOf (s : State) (core : Nat) : Nat :=
  (s.allWaves.map (fun e => if e.2.core == core then
    ((e.2.under.flatMap (·.reqs)).filter (fun r => r.phase == .refused)).length else 0)).foldl (· + ·) 0

/-- The access a memory word makes, its checks passed. -/
def MemWord.access (m : MemWord) (s : State) (h : Handle) (places : List Place) : Access :=
  let elems := m.elems s places
  let x := makeAccess s (memPath h m.op) h m.handle m.byp m.op elems
  if m.op.writes then x else x.asLoad s h

/-- Lines of an access that the core's near cache has served: they are its most recent (R319), and a sole transaction asks for the hold of
their Whorls (R136). -/
def nearTouched (x : Access) (s : State) : State :=
  let lines := (x.reqs.filter (·.here)).map (·.line)
  let s := lines.foldl (fun (s : State) l => s.onCore s.w.core (fun c => { c with near := l :: c.near.filter (· != l) })) s
  if s.w.txn.any (·.sole) then lines.foldl (fun s l => grantHold (homeWhorl s l) s) s else s

/-! ### A translation on its way (R285) -/

/-- A word may issue while its translation is on its way: outside a transaction and a paired launch, through a handle of space 0 or 3, its
guard letting it, and without the step of a port in space 4 or 5. The others wait at issue. (DEDUCED, log 183, safe.) -/
def mayPend (u : Use) (s : State) (m : MemWord) (h : Handle) : Bool :=
  (h.space == 0 || h.space == 3) && s.w.txn.isNone && s.w.pair.isNone && !guardHoldsAccess s s.w h m.handle m.op.writes &&
    (s.w.portSteps u).all (fun p => !((s.w.env.handle p.handle).any (·.remote)))

/-- The access of a memory word whose translation is on its way: parts without locations. -/
def MemWord.pending (m : MemWord) (s : State) (h : Handle) (before : Arch) : Access :=
  let places := m.offs.map (fun x => (⟨x.1, h.base + BitVec.ofNat 64 x.2, []⟩ : Place))
  let elems := (m.elems s places).map (fun e => { e with locs := [] })
  { makeAccess s (memPath h m.op) h m.handle m.byp m.op elems with pending := some ⟨m.n, m.line, m.offs, before⟩ }

/-- Port stores of the word being issued stand after its own access. -/
def Wave.portsLast (w : Wave) : Wave :=
  let mine := fun (x : Access) => x.seq == w.seq && (match x.op with | .portStore _ => true | _ => false)
  { w with accesses := w.accesses.filter (fun x => !mine x) ++ w.accesses.filter mine }

/-- An access issued: its counter raised, its destinations empty, and the wave past its word. -/
def issueAccess (u : Use) (m : MemWord) (x : Access) (s : State) : State :=
  let s := nearTouched x ((addAccess x (raiseCount x.path s)).onWave Wave.portsLast)
  finish u (s.onArch (fun a => (a.emptyVs m.dstV).emptySs m.dstS))

/-- A memory word whose translation is on its way: it issues, or waits where it may not. `s0` is the state it found.
(DEDUCED, log 183, safe.) -/
def pendAccess (u : Use) (m : MemWord) (s0 s : State) : Result :=
  match s.w.env.handle m.handle with
  | none => .next (s0.holdFor .engine)
  | some h =>
    if !mayPend u s m h || 65535 ≤ s.w.count (memPath h m.op) || (m.elems s (m.offs.map (fun x => ⟨x.1, 0, []⟩))).isEmpty then
      .next { s with w := { s0.w with hold := .engine } }
    else .next (issueAccess u m (m.pending s h s0.w.a) s)

/-- A memory word after its conditions: `s0` is the state it found, `s` the state with its ports' steps taken. With no acting
thread, or with none that a line's words belong to (R199), it makes no access (R197).
(DEDUCED, log 80, unsafe; DEDUCED, log 150, safe.) -/
def memAccess (u : Use) (m : MemWord) (s0 s : State) : Result :=
  if m.offs.isEmpty then .next (finish { u with late := false } s)
  else if 64 ≤ refusedOf s s.w.core || (!m.op.writes && s.w.writePending) then .next (s0.holdFor .engine)
  else
    match checkAccess s.w (.core s.w.core) m.handle m.kind m.n m.align m.offs s with
    | (_, .trap cause mask) => raiseAccess cause mask m.kind.access (failingVa s.w m.handle m.offs mask) s0
    | (s', .fault fs) =>
      if fs.any (fun f => f.2.2.1 == Cause.waiting) && ((s.w.env.handle m.handle).any (mayPend u s m)) then pendAccess u m s0 s'
      else .next (stallOrTrap 0 m.kind.access fs (keepSample (.core s0.w.core) m.handle { s' with w := s0.w }))
    | (s', .waitHost) => pendAccess u m s0 s'
    | (s, .ok h places) =>
      if h.remote && s.w.txn.isSome then .next (abortTxn s.focus 5#3 s0)
      else if guardHoldsAccess s0 s0.w h m.handle m.op.writes then .next (s0.holdFor .guard)
      else if h.remote && s0.w.speculative then .next (s0.holdFor .nonspec)
      else if h.remote && s0.w.pair.isSome && s0.w.pairOk == 0#2 then .next (s0.holdFor .pair)
      else if h.remote && s0.w.pairOk == 2#2 then
        if leaderDone u s0 then .next (finish { u with late := false } (followPair u s)) else .next (s0.holdFor .engine)
      else if (m.elems s places).isEmpty then .next (finish { u with late := false } s)
      else if 65535 ≤ s.w.count (memPath h m.op) then .next (s0.holdFor .engine)
      else
        let x := m.access s h places
        if (addAccess x s).w.overCapacity then .next (abortTxn s.focus 3#3 s0) else .next (issueAccess u m x s)

/-- The access of a word of the wave in focus put back before the word: what it has issued from there on is undone. -/
def unissue (x : Access) (p : Pending) (s : State) : State :=
  let s := discardFrom s.focus x.seq s
  s.onWave (fun w => { w with a := p.before, inst := x.inst, hold := .none, sampled := [] })

/-- The parts of an access, in the places that its translation gives: a line's by thread, the others one for each thread. -/
def Access.located (p : Pending) (width : Nat) (places : List Place) (x : Access) : List Elem :=
  let of := fun t => ((places.find? (fun q => p.line || q.thread == t)).map (·.locs)).getD []
  x.elems.map (fun e => { e with locs := if p.line then (lineBytes width e.thread).map (fun i => (of e.thread).getD i 0) else of e.thread })

/-- The translation of an access that has issued is there: a write goes on to the store buffer; a load takes the bytes of earlier buffered
writes and of the near cache, and asks for its lines (R125, R285). -/
def Access.place (p : Pending) (h : Handle) (places : List Place) (s : State) (x : Access) : Access :=
  let x := { x with elems := x.located p s.w.width places, pending := none }
  if x.op.writes then { x with reqs := requests .held s.cycle (homeWhorl s) (x.elems.flatMap (·.locs)) } else x.asLoad s h

/-- The kind of access that an access in flight makes. -/
def AccessOp.kind : AccessOp → Kind
  | .store => .store
  | .portStore _ => .store
  | .atomic fn _ width _ => .atomic fn width
  | .reduce _ => .reduce
  | _ => .load

/-- The translation of an access that has issued fails (R130, R285, R309): the wave goes back to the word where no older access is
unretired, and to its checkpoint where one is, uncounted, and stalls on the page's record. A poisoned table sector is consumed by the
word once it is the oldest. (DEDUCED, log 183, safe.) -/
def pendingFails (x : Access) (p : Pending) (fs : List (Nat × W64 × BitVec 8 × Nat × Bool)) (s : State) : State :=
  if (s.w.accesses.head?).any (fun y => y.seq == x.seq) then stallOrTrap 0 x.op.kind.access fs (unissue x p s)
  else
    let unresolved := fs.filter (fun f => f.2.2.1 != Cause.poison)
    if unresolved.isEmpty then s
    else
      let (s, records) := postFaults 0 s.w x.word x.op.kind.access unresolved s
      stallOnFault records s

/-- An access whose translation is on its way looked at again (R285). -/
def resolvePending (k : Nat) (x : Access) (s : State) : State :=
  match x.pending, (s.wave k).env.handle x.handle with
  | some p, some h =>
    let back := s.focus
    let s := s.focusOn k
    let s := match checkPlaces s.w (.core s.w.core) h x.op.kind p.n p.offs none s with
      | (s, .ok _ places) =>
        let y := x.place p h places s
        nearTouched y (s.onWave (fun w => { w with accesses := w.accesses.map (fun z => if z == x then y else z) }))
      | (s, .fault fs) => if fs.any (fun f => f.2.2.1 == Cause.waiting) then s else pendingFails x p fs s
      | (s, _) => s
    s.focusOn back
  | _, _ => s

/-- Every access whose translation is on its way looked at again, the oldest of each wave first. -/
def retryPending (s : State) : State :=
  s.allWaves.foldl (fun (s : State) e =>
    (e.2.accesses.filter (·.pending.isSome)).foldl (fun (s : State) x =>
      if (s.wave e.1).station == .live && (s.wave e.1).accesses.contains x then resolvePending e.1 x s else s) s) s

/-- A memory word: the conditions of `u`, then its access. -/
def memWord (u : Use) (m : State → MemWord) (s0 : State) : Result := issue u (fun s => memAccess u (m s) s0 s) s0

/-! ### Scalar loads and stores (R179) -/

def scalarLoad (n : Nat) (signed : Bool) (d o : BitVec 7) (h : BitVec 6) (byp ea : Bool) (s : State) : Result :=
  memWord { srcS := [(o.toNat, ea)], dstS := [d.toNat], late := true } (fun s =>
    { handle := h.toNat, byp := byp, kind := .load, n := n, align := n, op := .loadS d.toNat n signed,
      offs := scalarOffs s o, dstS := [d.toNat] }) s

def scalarStore (n : Nat) (d o : BitVec 7) (h : BitVec 6) (byp ed ea : Bool) (s : State) : Result :=
  memWord { srcS := [(o.toNat, ea), (d.toNat, ed)] } (fun s =>
    { handle := h.toNat, byp := byp, kind := .store, n := n, align := n, op := .store, offs := scalarOffs s o,
      data := fun _ => bytesOfNat (s.sreg d.toNat).toNat n }) s

/-- SLDB (R179). -/
def execSldb (d : BitVec 7) (o : BitVec 7) (h : BitVec 6) (byp : Bool) (ea : Bool) (s : State) : Result :=
  scalarLoad 1 false d o h byp ea s

/-- SLDH (R179). -/
def execSldh (d : BitVec 7) (o : BitVec 7) (h : BitVec 6) (byp : Bool) (ea : Bool) (s : State) : Result :=
  scalarLoad 2 false d o h byp ea s

/-- SLDW (R179). -/
def execSldw (d : BitVec 7) (o : BitVec 7) (h : BitVec 6) (byp : Bool) (ea : Bool) (s : State) : Result :=
  scalarLoad 4 false d o h byp ea s

/-- SLDD (R179). -/
def execSldd (d : BitVec 7) (o : BitVec 7) (h : BitVec 6) (byp : Bool) (ea : Bool) (s : State) : Result :=
  scalarLoad 8 false d o h byp ea s

/-- SLDBS (R179). -/
def execSldbs (d : BitVec 7) (o : BitVec 7) (h : BitVec 6) (byp : Bool) (ea : Bool) (s : State) : Result :=
  scalarLoad 1 true d o h byp ea s

/-- SLDHS (R179). -/
def execSldhs (d : BitVec 7) (o : BitVec 7) (h : BitVec 6) (byp : Bool) (ea : Bool) (s : State) : Result :=
  scalarLoad 2 true d o h byp ea s

/-- SLDWS (R179). -/
def execSldws (d : BitVec 7) (o : BitVec 7) (h : BitVec 6) (byp : Bool) (ea : Bool) (s : State) : Result :=
  scalarLoad 4 true d o h byp ea s

/-- SSTB (R179). -/
def execSstb (d : BitVec 7) (o : BitVec 7) (h : BitVec 6) (byp : Bool) (ed : Bool) (ea : Bool) (s : State) : Result :=
  scalarStore 1 d o h byp ed ea s

/-- SSTH (R179). -/
def execSsth (d : BitVec 7) (o : BitVec 7) (h : BitVec 6) (byp : Bool) (ed : Bool) (ea : Bool) (s : State) : Result :=
  scalarStore 2 d o h byp ed ea s

/-- SSTW (R179). -/
def execSstw (d : BitVec 7) (o : BitVec 7) (h : BitVec 6) (byp : Bool) (ed : Bool) (ea : Bool) (s : State) : Result :=
  scalarStore 4 d o h byp ed ea s

/-- SSTD (R179). -/
def execSstd (d : BitVec 7) (o : BitVec 7) (h : BitVec 6) (byp : Bool) (ed : Bool) (ea : Bool) (s : State) : Result :=
  scalarStore 8 d o h byp ed ea s

/-! ### Vector loads and stores (R198 to R200) -/

/-- The registers of a data operand of `k` registers. -/
def regsFrom (d : BitVec 7) (k : Nat) : List Nat := (List.range k).map (d.toNat + ·)

/-- A register condition of Table 10.1 broken, or a multi-register operand that reaches a port (R198): illegal. -/
def badGroup (s : State) (d : BitVec 7) (k : Nat) : Bool :=
  k != 1 && (d.toNat % k != 0 || (regsFrom d k).any s.w.isPort)

/-- The bytes of a thread's data registers, `n` in all. -/
def vectorData (s : State) (d : BitVec 7) (k n t : Nat) : List Byte :=
  ((regsFrom d k).flatMap (fun r => bytesOfNat (s.vreg r t).toNat 4)).take n

/-- Registers `n` bytes of each thread occupy. -/
def groupSize (n : Nat) : Nat := (n + 3) / 4

def vectorLoad (n : Nat) (signed : Bool) (d o : BitVec 7) (h : BitVec 6) (byp ea : Bool) (s : State) : Result :=
  let k := groupSize n
  memWord { covered := true, srcV := [(o.toNat, ea)], dstV := regsFrom d k, illegal := badGroup s d k, late := true }
    (fun s =>
      { handle := h.toNat, byp := byp, kind := .load, n := n, align := min n 16, op := .loadV d.toNat n signed,
        offs := vectorOffs s o, dstV := regsFrom d k }) s

def vectorStore (n : Nat) (d o : BitVec 7) (h : BitVec 6) (byp ed ea : Bool) (s : State) : Result :=
  let k := groupSize n
  memWord { covered := true, srcV := (o.toNat, ea) :: (regsFrom d k).map (fun r => (r, ed)), illegal := badGroup s d k }
    (fun s =>
      { handle := h.toNat, byp := byp, kind := .store, n := n, align := min n 16, op := .store, offs := vectorOffs s o,
        data := vectorData s d k n }) s

/-- VLDB (R198). -/
def execVldb (d : BitVec 7) (o : BitVec 7) (h : BitVec 6) (byp : Bool) (ea : Bool) (s : State) : Result :=
  vectorLoad 1 false d o h byp ea s

/-- VLDH (R198). -/
def execVldh (d : BitVec 7) (o : BitVec 7) (h : BitVec 6) (byp : Bool) (ea : Bool) (s : State) : Result :=
  vectorLoad 2 false d o h byp ea s

/-- VLDW (R198). -/
def execVldw (d : BitVec 7) (o : BitVec 7) (h : BitVec 6) (byp : Bool) (ea : Bool) (s : State) : Result :=
  vectorLoad 4 false d o h byp ea s

/-- VLDD (R198). -/
def execVldd (d : BitVec 7) (o : BitVec 7) (h : BitVec 6) (byp : Bool) (ea : Bool) (s : State) : Result :=
  vectorLoad 8 false d o h byp ea s

/-- VLDQ (R198). -/
def execVldq (d : BitVec 7) (o : BitVec 7) (h : BitVec 6) (byp : Bool) (ea : Bool) (s : State) : Result :=
  vectorLoad 16 false d o h byp ea s

/-- VLDBS (R198). -/
def execVldbs (d : BitVec 7) (o : BitVec 7) (h : BitVec 6) (byp : Bool) (ea : Bool) (s : State) : Result :=
  vectorLoad 1 true d o h byp ea s

/-- VLDHS (R198). -/
def execVldhs (d : BitVec 7) (o : BitVec 7) (h : BitVec 6) (byp : Bool) (ea : Bool) (s : State) : Result :=
  vectorLoad 2 true d o h byp ea s

/-- Registers a line fills or is taken from (R199): two for W = 16, else one. -/
def lineRegs (s : State) : Nat := if s.w.width = 16 then 2 else 1

/-- VLDL (R199): one line, its offset from the lowest acting thread. -/
def execVldl (d : BitVec 7) (o : BitVec 7) (h : BitVec 6) (byp : Bool) (ea : Bool) (s : State) : Result :=
  let k := lineRegs s
  memWord { covered := true, srcV := [(o.toNat, ea)], dstV := regsFrom d k, illegal := badGroup s d k, late := true }
    (fun s =>
      { handle := h.toNat, byp := byp, kind := .load, n := 128, align := 128, op := .loadL d.toNat, offs := lineOffs s o,
        line := true, dstV := regsFrom d k }) s

/-- VSTB (R198, R200). -/
def execVstb (d : BitVec 7) (o : BitVec 7) (h : BitVec 6) (byp : Bool) (ed : Bool) (ea : Bool) (s : State) : Result :=
  vectorStore 1 d o h byp ed ea s

/-- VSTH (R198, R200). -/
def execVsth (d : BitVec 7) (o : BitVec 7) (h : BitVec 6) (byp : Bool) (ed : Bool) (ea : Bool) (s : State) : Result :=
  vectorStore 2 d o h byp ed ea s

/-- VSTW (R198, R200). -/
def execVstw (d : BitVec 7) (o : BitVec 7) (h : BitVec 6) (byp : Bool) (ed : Bool) (ea : Bool) (s : State) : Result :=
  vectorStore 4 d o h byp ed ea s

/-- VSTD (R198, R200). -/
def execVstd (d : BitVec 7) (o : BitVec 7) (h : BitVec 6) (byp : Bool) (ed : Bool) (ea : Bool) (s : State) : Result :=
  vectorStore 8 d o h byp ed ea s

/-- VSTQ (R198, R200). -/
def execVstq (d : BitVec 7) (o : BitVec 7) (h : BitVec 6) (byp : Bool) (ed : Bool) (ea : Bool) (s : State) : Result :=
  vectorStore 16 d o h byp ed ea s

/-- VSTL (R199): the acting threads' words of one line. -/
def execVstl (d : BitVec 7) (o : BitVec 7) (h : BitVec 6) (byp : Bool) (ed : Bool) (ea : Bool) (s : State) : Result :=
  let k := lineRegs s
  memWord { covered := true, srcV := (o.toNat, ea) :: (regsFrom d k).map (fun r => (r, ed)), illegal := badGroup s d k }
    (fun s =>
      { handle := h.toNat, byp := byp, kind := .store, n := 128, align := 128, op := .store, offs := lineOffs s o,
        data := fun t => (regsFrom d k).flatMap (fun r => bytesOfNat (s.vreg r t).toNat 4), line := true }) s

/-! ### Returning atomics (R205 to R207) -/

/-- Widths a fn accepts (Table 10.7). -/
def widthOk (fn : Nat) (width : BitVec 2) : Bool :=
  if fn = 10 then width == 0#2 else if fn = 8 ∨ fn = 9 then width != 3#2 else width == 0#2 || width == 1#2

/-- Registers a value occupies (R205). -/
def atomicRegs (width : BitVec 2) (scalar : Bool) : Nat :=
  if scalar then (if width = 2#2 then 2 else 1) else 2 ^ width.toNat

/-- A register that breaks its row of R205. -/
def badAtomicReg (s : State) (width : BitVec 2) (scalar : Bool) (r : BitVec 7) : Bool :=
  let k := atomicRegs width scalar
  k != 1 && (r.toNat % k != 0 || (!scalar && (regsFrom r k).any s.w.isPort))

/-- The bytes of a scalar value. -/
def scalarData (s : State) (r : BitVec 7) (k n : Nat) : List Byte :=
  ((regsFrom r k).flatMap (fun x => bytesOfNat (s.sreg x).toNat 8)).take n

/-- A returning atomic: its Use, then its access. -/
def atomicWord (fn : Nat) (d o : BitVec 7) (h : BitVec 6) (byp ea : Bool) (opnd : BitVec 7) (cmp : Option (BitVec 7 × Bool))
    (width : BitVec 2) (scalar eo : Bool) (s : State) : Result :=
  let k := atomicRegs width scalar
  let n := 4 * 2 ^ width.toNat
  let ops := (regsFrom opnd k).map (fun r => (r, eo)) ++
    (match cmp with | some (c, ec) => (regsFrom c k).map (fun r => (r, ec)) | none => [])
  let bad := !widthOk fn width || badAtomicReg s width scalar d || badAtomicReg s width scalar opnd ||
    (match cmp with | some (c, _) => badAtomicReg s width scalar c | none => false)
  let cmpReg := match cmp with | some (c, _) => c | none => opnd
  let u : Use :=
    if scalar then { words := 2, srcS := (o.toNat, ea) :: ops, dstS := regsFrom d k, illegal := bad, late := true, compare := true }
    else { words := 2, srcV := (o.toNat, ea) :: ops, dstV := regsFrom d k, illegal := bad, late := true, compare := true }
  memWord u (fun s =>
    { handle := h.toNat, byp := byp, kind := .atomic fn width.toNat, n := n, align := n,
      op := .atomic fn d.toNat width.toNat scalar,
      offs := if scalar then scalarOffs s o else vectorOffs s o
      data := fun t => if scalar then scalarData s opnd k n else vectorData s opnd k n t
      cmp := fun t => if scalar then scalarData s cmpReg k n else vectorData s cmpReg k n t
      dstV := if scalar then [] else regsFrom d k, dstS := if scalar then regsFrom d k else [] }) s

/-- AADD (R205, R206, R207). -/
def execAadd (d : BitVec 7) (o : BitVec 7) (h : BitVec 6) (byp : Bool) (ea : Bool) (opnd : BitVec 7) (width : BitVec 2) (scalar : Bool) (eo : Bool) (s : State) : Result :=
  atomicWord 0 d o h byp ea opnd none width scalar eo s

/-- AMIN (R205, R206, R207). -/
def execAmin (d : BitVec 7) (o : BitVec 7) (h : BitVec 6) (byp : Bool) (ea : Bool) (opnd : BitVec 7) (width : BitVec 2) (scalar : Bool) (eo : Bool) (s : State) : Result :=
  atomicWord 1 d o h byp ea opnd none width scalar eo s

/-- AMAX (R205, R206, R207). -/
def execAmax (d : BitVec 7) (o : BitVec 7) (h : BitVec 6) (byp : Bool) (ea : Bool) (opnd : BitVec 7) (width : BitVec 2) (scalar : Bool) (eo : Bool) (s : State) : Result :=
  atomicWord 2 d o h byp ea opnd none width scalar eo s

/-- AMINU (R205, R206, R207). -/
def execAminu (d : BitVec 7) (o : BitVec 7) (h : BitVec 6) (byp : Bool) (ea : Bool) (opnd : BitVec 7) (width : BitVec 2) (scalar : Bool) (eo : Bool) (s : State) : Result :=
  atomicWord 3 d o h byp ea opnd none width scalar eo s

/-- AMAXU (R205, R206, R207). -/
def execAmaxu (d : BitVec 7) (o : BitVec 7) (h : BitVec 6) (byp : Bool) (ea : Bool) (opnd : BitVec 7) (width : BitVec 2) (scalar : Bool) (eo : Bool) (s : State) : Result :=
  atomicWord 4 d o h byp ea opnd none width scalar eo s

/-- AAND (R205, R206, R207). -/
def execAand (d : BitVec 7) (o : BitVec 7) (h : BitVec 6) (byp : Bool) (ea : Bool) (opnd : BitVec 7) (width : BitVec 2) (scalar : Bool) (eo : Bool) (s : State) : Result :=
  atomicWord 5 d o h byp ea opnd none width scalar eo s

/-- AOR (R205, R206, R207). -/
def execAor (d : BitVec 7) (o : BitVec 7) (h : BitVec 6) (byp : Bool) (ea : Bool) (opnd : BitVec 7) (width : BitVec 2) (scalar : Bool) (eo : Bool) (s : State) : Result :=
  atomicWord 6 d o h byp ea opnd none width scalar eo s

/-- AXOR (R205, R206, R207). -/
def execAxor (d : BitVec 7) (o : BitVec 7) (h : BitVec 6) (byp : Bool) (ea : Bool) (opnd : BitVec 7) (width : BitVec 2) (scalar : Bool) (eo : Bool) (s : State) : Result :=
  atomicWord 7 d o h byp ea opnd none width scalar eo s

/-- AXCHG (R205, R206, R207). -/
def execAxchg (d : BitVec 7) (o : BitVec 7) (h : BitVec 6) (byp : Bool) (ea : Bool) (opnd : BitVec 7) (width : BitVec 2) (scalar : Bool) (eo : Bool) (s : State) : Result :=
  atomicWord 8 d o h byp ea opnd none width scalar eo s

/-- ACAS (R205, R206, R207). -/
def execAcas (d : BitVec 7) (o : BitVec 7) (h : BitVec 6) (byp : Bool) (ea : Bool) (opnd : BitVec 7) (cmp : BitVec 7) (width : BitVec 2) (scalar : Bool) (eo : Bool) (ec : Bool) (s : State) : Result :=
  atomicWord 9 d o h byp ea opnd (some (cmp, ec)) width scalar eo s

/-- AFADD (R205, R206, R207). -/
def execAfadd (d : BitVec 7) (o : BitVec 7) (h : BitVec 6) (byp : Bool) (ea : Bool) (opnd : BitVec 7) (width : BitVec 2) (scalar : Bool) (eo : Bool) (s : State) : Result :=
  atomicWord 10 d o h byp ea opnd none width scalar eo s

/-! ### Reductions (R208) -/

def reduceWord (fn n : Nat) (d o : BitVec 7) (h : BitVec 6) (byp ed ea : Bool) (s : State) : Result :=
  memWord { covered := true, srcV := [(o.toNat, ea), (d.toNat, ed)] } (fun s =>
    { handle := h.toNat, byp := byp, kind := .reduce, n := n, align := n, op := .reduce fn, offs := vectorOffs s o,
      data := vectorData s d 1 n }) s

/-- RADD (R208). -/
def execRadd (d : BitVec 7) (o : BitVec 7) (h : BitVec 6) (byp : Bool) (ed : Bool) (ea : Bool) (s : State) : Result := reduceWord 0 4 d o h byp ed ea s

/-- RFADD (R208). -/
def execRfadd (d : BitVec 7) (o : BitVec 7) (h : BitVec 6) (byp : Bool) (ed : Bool) (ea : Bool) (s : State) : Result := reduceWord 1 4 d o h byp ed ea s

/-- RBFADD (R208). -/
def execRbfadd (d : BitVec 7) (o : BitVec 7) (h : BitVec 6) (byp : Bool) (ed : Bool) (ea : Bool) (s : State) : Result := reduceWord 2 2 d o h byp ed ea s

/-- RMIN (R208). -/
def execRmin (d : BitVec 7) (o : BitVec 7) (h : BitVec 6) (byp : Bool) (ed : Bool) (ea : Bool) (s : State) : Result := reduceWord 3 4 d o h byp ed ea s

/-- RMAX (R208). -/
def execRmax (d : BitVec 7) (o : BitVec 7) (h : BitVec 6) (byp : Bool) (ed : Bool) (ea : Bool) (s : State) : Result := reduceWord 4 4 d o h byp ed ea s

/-- RAND (R208). -/
def execRand (d : BitVec 7) (o : BitVec 7) (h : BitVec 6) (byp : Bool) (ed : Bool) (ea : Bool) (s : State) : Result := reduceWord 5 4 d o h byp ed ea s

/-- ROR (R208). -/
def execRor (d : BitVec 7) (o : BitVec 7) (h : BitVec 6) (byp : Bool) (ed : Bool) (ea : Bool) (s : State) : Result := reduceWord 6 4 d o h byp ed ea s

/-- RXOR (R208). -/
def execRxor (d : BitVec 7) (o : BitVec 7) (h : BitVec 6) (byp : Bool) (ed : Bool) (ea : Bool) (s : State) : Result := reduceWord 7 4 d o h byp ed ea s

end Sys2Proof.Machine
end

