-- ==== Sys2Proof/Machine/Whorl.lean ====
section
/-! DEFINITION. Whorls: slots and turns, tiles in motion, landing shifts, pins, and distance (R7, R8, R85 to R94, R101, R250,
R305, R311). The slots hold the chain as it stands once every shift has run (R250); `carries` says which hops are still to come,
and so where a tile is seen until then. -/

namespace Sys2Proof.Machine

/-! ### Slots and distance -/

/-- The turn of a slot (R86): turn k, for k ≥ 1, begins at slot (2k − 1)². -/
def turnOf (slot : Nat) : Nat := ((List.range 46).filter (fun k => 0 < k && decide ((2 * k - 1) * (2 * k - 1) ≤ slot))).length

/-- Coordinates of a mesh router (R8). -/
def routerXY (i : Nat) : Nat × Nat :=
  let f := i / 24
  let j := i % 24
  (6 * (f % 2) + j % 6, 4 * (f / 2) + j / 6)

/-- The distance between two numbers. -/
def apart (a b : Nat) : Nat := (a - b) + (b - a)

/-- The hop count from a core to a Whorl's front (R8). -/
def hops (core whorl : Nat) : Nat :=
  let (x, y) := routerXY (core / 4)
  ([1, 2, 3, 4].map (fun k => let (u, v) := routerXY (6 * whorl + k); apart x u + apart y v)).foldl min 100

/-- A tile newly allocated: nothing present, unpinned, no sharers. -/
def Tile.fresh (tile : Nat) : Tile :=
  { tile := tile, dirty := 0, present := 0, pin := none, scratch := false, granted := 0, owner := none, dir := [] }

/-- A slot every shift passes over (R311). -/
def Whorl.barred (h : Whorl) (slot : Nat) : Bool := h.quar.any (fun q => q.slot == slot && q.out)

/-- The last usable slot (R90). -/
def Whorl.lastSlot (h : Whorl) : Nat := ((List.range 8192).reverse.find? (fun p => !h.barred p)).getD 0

/-- A tile taken out of a slot: a quarantined slot then leaves service (R311). (DEDUCED, log 133, unsafe.) -/
def Whorl.takeOut (h : Whorl) (slot : Nat) : Whorl :=
  { h with slots := erase h.slots slot, quar := h.quar.map (fun q => if q.slot == slot then { q with out := true } else q) }

/-- Every tile that a test selects removed from a Whorl, wherever it is (R39, R325). -/
def Whorl.dropTiles (p : Tile → Bool) (h : Whorl) : Whorl :=
  let h := ((h.slots.filter (fun e => p e.2)).map (·.1)).foldl Whorl.takeOut h
  { h with motion := h.motion.filter (fun m => !p m.tile), waitPin := h.waitPin.filter (fun t => !p t.2)
           leaving := h.leaving.filter (fun l => !p l.tile), evicting := h.evicting.filter (fun t => !p t) }

/-! ### Motion -/

/-- A motion buffer entry is free (R89). -/
def Whorl.room (h : Whorl) : Bool := h.motion.length < 4

/-- The slot at which a tile is seen in a cycle (R89, R94): the one a shift has yet to take it from, else the one it is bound
for, which is the outer one while it is carried. (DEDUCED, log 27, unsafe.) -/
def Whorl.seenAt (h : Whorl) (tile cycle : Nat) : Option Nat :=
  (h.slotOf tile).map (fun p => ((h.carries.find? (fun c => c.tile == tile && decide (cycle < c.start))).map (·.slot)).getD p)

/-- Put a tile into a motion buffer entry, ready after 3k cycles (R88); a motion of it that was held has begun (R101).
(DEDUCED, log 29, unsafe.) -/
def Whorl.startMotion (t : Tile) (turn core cycle order : Nat) (h : Whorl) : Whorl :=
  { h with motion := h.motion ++ [⟨t, cycle + 3 * turn, core, order⟩], carries := h.carries.filter (fun c => c.tile != t.tile)
           waitPin := h.waitPin.filter (fun x => x.2.tile != t.tile) }

/-- The hops of a list without the last of a tile. -/
def dropHop (tile : Nat) (cs : List Carry) : List Carry :=
  match cs.reverse.find? (fun c => c.tile == tile) with
  | some c => cs.reverse.erase c |>.reverse
  | none => cs

/-- Tiles from `slot` on that a shift has not reached keep the slots they are seen at: each takes the hole before it. The Whorl, and the
hole that is left. (DEDUCED, log 27, unsafe.) -/
def pullIn : Nat → Nat → Nat → Whorl → Whorl × Nat
  | 0, _, hole, h => (h, hole)
  | fuel + 1, slot, hole, h =>
    if 8191 < slot then (h, hole)
    else if h.barred slot then pullIn fuel (slot + 1) hole h
    else
      match find h.slots slot with
      | none => (h, hole)
      | some t =>
        if t.pin.isSome then pullIn fuel (slot + 1) hole h
        else pullIn fuel (slot + 1) slot { h with slots := ins (erase h.slots slot) hole t, carries := dropHop t.tile h.carries }

/-- A shift that has not reached slot `hole`, which a touch has emptied, ends there and evicts nothing (R250).
(DEDUCED, log 27, unsafe.) -/
def Whorl.endShift (hole : Nat) (h : Whorl) : Whorl :=
  match h.leaving with
  | [] => h
  | l :: rest =>
    let (h, hole) := pullIn 8192 (hole + 1) hole { h with leaving := rest }
    { h with slots := ins h.slots hole l.tile }

/-- A touch of a tile at a slot of turn 1 or beyond (R88): its copy moves to a motion buffer entry. One that a shift was to evict stays in
the Whorl so (R90); one whose motion is held begins it (R101). -/
def Whorl.touch (tile core cycle order : Nat) (h : Whorl) : Whorl :=
  match h.tileOf tile with
  | none => h
  | some t =>
    match h.leavingOf tile, h.slotOf tile with
    | some l, _ => ({ h with leaving := h.leaving.erase l }).startMotion t (turnOf l.slot) core cycle order
    | none, some p =>
      if p = 0 then h
      else
        let ahead := h.carries.any (fun c => c.tile == tile && decide (cycle < c.start))
        let seen := (h.seenAt tile cycle).getD p
        let h := h.takeOut p
        (if ahead && !h.barred p then h.endShift p else h).startMotion t (turnOf seen) core cycle order
    | none, none => if (h.moving tile).isNone then h.startMotion t 0 core cycle order else h

/-- Whether a touch of a tile would start a motion. -/
def Whorl.wouldMove (h : Whorl) (tile : Nat) : Bool :=
  (h.moving tile).isNone && (match h.slotOf tile with | some p => p != 0 | none => true)

/-- A hop noted: a tile leaves a slot in a cycle. -/
def Whorl.hop (h : Whorl) (tile slot start : Nat) : Whorl := { h with carries := h.carries ++ [⟨tile, slot, start⟩] }

/-- The landing shift (R88, R90, R93): the carried tile, which leaves slot `from'` in cycle `start`, takes the next slot that is
neither pinned nor barred, pushing out what stands there two cycles later, until a slot was empty. A quarantined slot is passed
over from now on, its tile going on outward before the carried one (R311). What is carried past the last slot is to be evicted when the
shift reaches it (R90).
(DEDUCED, log 27, 67, 133, unsafe.) -/
def shift : Nat → Nat → Nat → Nat → Tile → Whorl → Whorl × List Leaving
  | 0, _, from', start, carry, h => (h, [⟨carry, from', start⟩])
  | fuel + 1, slot, from', start, carry, h =>
    if 8191 < slot then (h, [⟨carry, from', start⟩])
    else if h.barred slot then shift fuel (slot + 1) from' start carry h
    else
      match find h.slots slot with
      | none => (({ h with slots := ins h.slots slot carry }).hop carry.tile from' start, [])
      | some t =>
        if t.pin.isSome then shift fuel (slot + 1) from' start carry h
        else if h.quar.any (fun q => q.slot == slot) then
          let (h, out) := shift fuel (slot + 1) slot start t (h.takeOut slot)
          let (h, out') := shift fuel (slot + 1) from' start carry h
          (h, out ++ out')
        else
          shift fuel (slot + 1) slot (start + 2) t (({ h with slots := ins h.slots slot carry }).hop carry.tile from' start)

/-- The entry that lands next (R88): least ready cycle, then core, then order of acceptance. (DEDUCED, log 28, safe.) -/
def firstMotion : List Motion → Option Motion
  | [] => none
  | m :: ms =>
    match firstMotion ms with
    | none => some m
    | some n =>
      if n.ready < m.ready || (n.ready == m.ready && (n.core < m.core || (n.core == m.core && n.order < m.order))) then some n
      else some m

/-- Land a tile at slot 0 in a cycle, and shift outward. (DEDUCED, log 27, 67, unsafe.) -/
def Whorl.land (m : Motion) (cycle : Nat) (h : Whorl) : Whorl :=
  let h := { h with motion := h.motion.filter (fun x => x.tile.tile != m.tile.tile), landed := cycle,
                    carries := h.carries.filter (fun c => decide (cycle < c.start)) }
  match find h.slots 0 with
  | none => { h with slots := ins h.slots 0 m.tile }
  | some t =>
    let (h, out) := shift 16500 1 0 cycle t { h with slots := ins h.slots 0 m.tile }
    { h with leaving := h.leaving ++ out }

/-! ### Pins (R92, R93, R101) -/

/-- A tile whose granted pin awaits its motion (R101). -/
def Whorl.awaitsMotion (h : Whorl) (tile : Nat) : Bool := h.waitPin.any (fun t => t.2.tile == tile)

/-- Pinned tiles with the slot each is counted at: 0 for one in motion or awaiting its motion. -/
def Whorl.pinned (h : Whorl) : List (Nat × Tile) :=
  (h.slots.filter (fun e => e.2.pin.isSome && !h.awaitsMotion e.2.tile)) ++
    ((h.motion.map (·.tile) ++ h.waitPin.map (·.2)).filter (·.pin.isSome)).map (fun t => (0, t))

/-- The turn limit. -/
def turnLimit (c : Nat) : Nat := (2 * c + 1) * (2 * c + 1) / 2

/-- The turn limit holds with a tile pinned with class c. -/
def Whorl.turnFits (h : Whorl) (tile c : Nat) : Bool :=
  decide ((h.pinned.filter (fun e => e.2.tile != tile && decide (turnOf e.1 ≤ c))).length + 1 ≤ turnLimit c)

/-- The status of a pin request with class c for a tile: 0 granted, 1 the quota, 2 the turn limit. -/
def Whorl.pinStatus (h : Whorl) (tile c : Nat) : Nat :=
  if 2048 < (h.pinned.filter (fun e => e.2.tile != tile)).length + 1 then 1 else if !h.turnFits tile c then 2 else 0

/-- Whether a pin of class c needs a motion: the tile is missing or outside turn c. -/
def Whorl.pinMoves (h : Whorl) (tile c : Nat) : Bool :=
  (h.moving tile).isNone && (match h.slotOf tile with | some p => c < turnOf p | none => true)

/-- A tile that is pinned while a shift is still to push it out stays (R93): the shift passes over its slot, and what was bound for that
slot is carried past it. (DEDUCED, log 27, unsafe.) -/
def Whorl.keep (tile : Nat) (h : Whorl) : Whorl :=
  match h.leavingOf tile with
  | none => h
  | some l =>
    let out := match find h.slots l.slot with
      | none => []
      | some t => [⟨t, ((h.carries.reverse.find? (fun c => c.tile == t.tile)).map (·.slot)).getD l.slot, l.start⟩]
    { h with slots := ins h.slots l.slot l.tile, leaving := h.leaving.erase l ++ out
             carries := out.foldl (fun cs x => dropHop x.tile.tile cs) h.carries }

/-- A granted pin. -/
def Whorl.setPin (tile c : Nat) (tag : BitVec 8) (stamp : Nat) (h : Whorl) : Whorl :=
  (h.keep tile).onTile tile (fun t => { t with pin := some (c, tag), granted := stamp })

/-- The pin most recently granted that is not scratch. -/
def Whorl.newestPin (h : Whorl) : Option Tile :=
  (h.pinned.map (·.2)).foldl (fun best t => if t.scratch then best else
    match best with
    | none => some t
    | some b => if b.granted < t.granted then some t else best) none

/-- Non-scratch pins removed, the most recent first, until a scratch pin keeps both limits (R93). -/
def Whorl.makeRoom (tile c : Nat) : Nat → Whorl → Whorl
  | 0, h => h
  | fuel + 1, h =>
    if h.pinStatus tile c = 0 then h
    else
      match h.newestPin with
      | none => h
      | some t => Whorl.makeRoom tile c fuel (h.onTile t.tile (fun t => { t with pin := none }))

/-- A scratch tile pinned at placement, or again at its first access after a restore (R101): class 11 while the turn-11 limit holds
without removing a pin, else class 31. A missing tile, and one outside turn c, moves, or its motion waits where no entry is free;
the motion counts as that of core `core`. At placement it is zero throughout, which no memory holds yet; evicted since a save, it has
nothing present.
(DEDUCED, log 56, 70, safe; DESIGN CHOICE, log 161, unsafe.) -/
def Whorl.pinScratch (tile : Nat) (tag : BitVec 8) (present : BitVec 64) (core cycle stamp : Nat) (h : Whorl) : Whorl :=
  let c := if h.turnFits tile 11 then 11 else 31
  let h := Whorl.makeRoom tile c 2048 h
  let mark := fun (t : Tile) => { t with pin := some (c, tag), scratch := true, granted := stamp }
  match h.tileOf tile with
  | none =>
    let t := mark { Tile.fresh tile with present := present, dirty := present, owner := if present = 0 then none else some tag }
    if h.room then h.startMotion t 0 core cycle stamp else { h with waitPin := h.waitPin ++ [(core, t)] }
  | some t =>
    let h' := (h.keep tile).onTile tile mark
    if !h.pinMoves tile c then h'
    else if h.room then h'.touch tile core cycle stamp
    else if h.awaitsMotion tile then h' else { h' with waitPin := h'.waitPin ++ [(core, mark t)] }

/-- The motion a front has held longest starts (R101): a touch where its tile stands in a slot. It counts as that of the core it was held
for. (DESIGN CHOICE, log 161, unsafe.) -/
def Whorl.startHeld (cycle order : Nat) (h : Whorl) : Whorl :=
  match h.waitPin with
  | [] => h
  | (core, t) :: rest =>
    if !h.room then h
    else if (h.slotOf t.tile).isSome then ({ h with waitPin := rest }).touch t.tile core cycle order
    else ({ h with waitPin := rest }).startMotion t 0 core cycle order

/-- Held motions start while there is room. -/
def Whorl.startAllHeld (cycle order : Nat) : Nat → Whorl → Whorl
  | 0, h => h
  | fuel + 1, h => if h.waitPin.isEmpty || !h.room then h else Whorl.startAllHeld cycle order fuel (h.startHeld cycle order)

/-! ### What a core is told -/

/-- Home and residence of a location for one core. -/
def estimate (core whorl turn : Nat) : Nat := min 255 (12 + 3 * turn + 4 * hops core whorl)

/-- The word of Table 5.5 for an addressed line: a tile whose motion is still held, and which stands in no slot, is neither resident
nor in motion (R94). (DEDUCED, log 27, unsafe.) -/
def wdistWord (s : State) (core line : Nat) : W64 :=
  let home := homeWhorl s line
  let h := s.whorl home
  let tile := line / 32
  let near := (s.core core).near.contains line
  let make := fun (near pinned moving : Bool) (est turn slot : Nat) =>
    (BitVec.ofBool near ++ BitVec.ofBool pinned ++ BitVec.ofBool moving ++ BitVec.ofNat 8 est ++ BitVec.ofNat 4 home ++
      BitVec.ofNat 7 turn ++ BitVec.ofNat 13 slot).setWidth 64
  match h.moving tile with
  | some m => make near m.tile.pin.isSome true (estimate core home 0) 0 0
  | none =>
    match h.seenAt tile s.cycle with
    | some p => make near ((h.tileOf tile).any (fun t => t.pin.isSome)) false (estimate core home (turnOf p)) (turnOf p) p
    | none => make false false false 255 0x7f 0x1fff

/-- The word of a tile that is nowhere (R94). -/
def wdistNowhere : W64 := (0#1 ++ 0#1 ++ 0#1 ++ 255#8 ++ 0#4 ++ 0x7f#7 ++ 0x1fff#13).setWidth 64

/-- The hint of R97: the next encodable wait at or above an estimate. (DEDUCED, log 29, unsafe.) -/
def encodeHint (wait : Nat) : BitVec 6 :=
  if wait ≤ 32 then BitVec.ofNat 6 (wait - 1)
  else if 1024 < wait then 0x3e#6
  else BitVec.ofNat 6 (0x1e + (wait + 31) / 32)

/-- Cycles until the earliest landing. (DEDUCED, log 29, unsafe.) -/
def landingWait (h : Whorl) (cycle : Nat) : Nat :=
  match firstMotion h.motion with
  | some m => max 1 (m.ready - cycle)
  | none => 1

/-! ### Fills and requests at a front (R87, R95, R300, R303) -/

/-- The fetch of a 64-byte sector begins (R87). (DEDUCED, log 29, unsafe; DEDUCED, log 66, safe; DESIGN CHOICE, log 181, safe.) -/
def Whorl.startFill (cycle sector : Nat) (h : Whorl) : Whorl :=
  if h.fills.any (fun f => f.sector == sector) then h
  else { h with fills := h.fills ++ [⟨sector, 0, cycle + Config.fillCycles cycle⟩] }

/-- A missing tile allocated in a motion buffer entry with the fetch of one of its sectors begun (R87). -/
def Whorl.allocate (sector core cycle order : Nat) (h : Whorl) : Whorl :=
  (h.startMotion (Tile.fresh (sector / 64)) 0 core cycle order).startFill cycle sector

/-- A location of a Whorl-held space. -/
def Access.homed (x : Access) : Bool := x.space != 4#4 && x.space != 5#4

/-- A request that has arrived at a front. -/
structure Want where
  wave    : Nat
  seq     : Nat
  core    : Nat
  line    : Nat
  arrived : Nat
  urgent  : Bool
  deriving DecidableEq, Repr

/-- An eviction notice of a core to a home sent before a request is still under way: one class of the mesh carries both, in order
(R300). (DEDUCED, log 163, safe.) -/
def behindNotice (s : State) (core home sent : Nat) : Bool :=
  (s.core core).out.any (fun m => m.2.1 && homeWhorl s m.1 == home && decide (m.2.2 < sent))

/-- Requests a core has sent, the oldest first: a core holds at most 64 refused requests, and sends no more than it could hold
(R301). (DEDUCED, log 164, safe.) -/
def outgoing (s : State) (core : Nat) : List (List Nat) :=
  ((s.allWaves.flatMap (fun e => if e.2.core == core then e.2.under.flatMap (fun x =>
      (x.reqs.filter (fun r => r.phase == .sent)).map (fun r => [r.arrived, x.seq, r.line, e.1])) else [])).mergeSort
    (fun a b => decide (a ≤ b))).take (64 - refusedOf s core)

/-- A snoop of a line waits at its home: requests that come after it wait for its answer (R254). -/
def snoopWaits (s : State) (line : Nat) : Bool :=
  s.parked.any (fun i => match i with | .hostSnoop l _ => l == line | _ => false)

/-- Requests that have arrived at a front. Those for a scratch tile whose motion is held are urgent (R101). -/
def wantsAt (s : State) (whorl : Nat) : List Want :=
  s.allWaves.flatMap (fun e => e.2.under.flatMap (fun x =>
    if !x.homed then []
    else (x.reqs.filter (fun r => r.phase == .sent && r.home == whorl && !snoopWaits s r.line &&
        !behindNotice s e.2.core whorl r.arrived && (outgoing s e.2.core).contains [r.arrived, x.seq, r.line, e.1])).map
      (fun r => ⟨e.1, x.seq, e.2.core, r.line, r.arrived, decide (8 ≤ r.refusals) || (s.whorl whorl).awaitsMotion (r.line / 32)⟩)))

/-- The order of R95: urgent first, oldest arrival, core, word, line. -/
def Want.before (a b : Want) : Bool :=
  let key := fun (w : Want) => [if w.urgent then 0 else 1, w.arrived, w.core, w.seq, w.line]
  decide (key a ≤ key b)

/-- A core has sent a front requests that it has not yet met: what the core sends after them arrives after them (R300).
(DEDUCED, log 163, safe.) -/
def sentBefore (s : State) (core whorl : Nat) : Bool := (wantsAt s whorl).any (fun w => w.core == core)

end Sys2Proof.Machine
end

