-- ==== Sys2Proof/Machine/Errors.lean ====
section
/-! DEFINITION. Errors in the sectors of Whorls and memory (R308 to R311, R322): corrected ones counted; uncorrectable ones, which lie in
`damage` until a read checks their sector, poisoned and reported or fetched again; and the quarantine of a slot. -/

namespace Sys2Proof.Machine

/-- A slot is quarantined (R311): it takes a free entry, and leaves service when its tile leaves it; with no entry, full is set
and an event of kind 3 posted. (DEDUCED, log 133, unsafe.) -/
def quarantineSlot (whorl slot : Nat) (reason : BitVec 2) (s : State) : State :=
  let h := s.whorl whorl
  if slot = 0 || h.quar.any (fun q => q.slot == slot) then s
  else if h.quar.length < 16 then
    s.onWhorl whorl (fun h => { h with quar := h.quar ++ [⟨slot, reason, (find h.slots slot).isNone⟩] })
  else if h.full then s
  else postEvent 3 0 [BitVec.ofNat 64 whorl] (s.onWhorl whorl (fun h => { h with full := true }))

/-- A corrected error of a slot (R308, R311): counted; the sixteenth within 24 hours of nanotime quarantines the slot.
(DEDUCED, log 134, unsafe.) -/
def correctedError (whorl slot : Nat) (s : State) : State :=
  let day : Nat := 86400000000000
  let recent := ((look [] (s.whorl whorl).corrected slot).filter (fun t => s.nanotime.toNat < t.toNat + day)) ++ [s.nanotime]
  let s := s.onWhorl whorl (fun h => { h with ce := h.ce + 1, corrected := put [] h.corrected slot recent })
  if 16 ≤ recent.length then quarantineSlot whorl slot 2 s else s

/-- A corrected error of a 32-byte sector that a Whorl holds. -/
def correctedAt (sector : Nat) (s : State) : State :=
  let whorl := homeWhorl s (sector / 4)
  match (s.whorl whorl).slotOf (sector / 128), (s.whorl whorl).tileOf (sector / 128) with
  | some p, _ => correctedError whorl p s
  | none, some _ => s.onWhorl whorl (fun h => { h with ce := h.ce + 1 })
  | none, none => s

/-- A sector of data that no copy can replace is poisoned; what was decided of an earlier error of it is past. -/
def poisonSector (sector : Nat) (s : State) : State :=
  { s with poison := setPoison s.poison [32 * sector], decided := s.decided.filter (fun d => d.1 != sector) }

/-- A CHECK MEETS AN UNCORRECTABLE ERROR of a 32-byte sector (R308, R310, R311, R322). In a Whorl the slot it stands in is quarantined and
ue counts it: a dirty sector is poisoned and reported with its tile's owner tag; a clean copy is discarded and fetched again. In memory
the data are poisoned. (DEDUCED, log 134, unsafe.) -/
def errorFound (sector : Nat) (s : State) : State :=
  let whorl := homeWhorl s (sector / 4)
  let tile := sector / 128
  let i := sector % 128 / 2
  let s := { s with damage := s.damage.filter (· != sector) }
  match ((s.whorl whorl).tileOf tile).filter (fun t => t.present.getLsbD i) with
  | none => poisonSector sector s
  | some t =>
    let s := (match (s.whorl whorl).slotOf tile with | some p => quarantineSlot whorl p 1 s | none => s).onWhorl whorl
      (fun h => { h with ue := h.ue + 1 })
    if t.dirty.getLsbD i then
      let s := poisonSector sector s
      { s with agenda := s.agenda ++ [Instr.poisonReport (32 * sector) t.owner] }
    else
      s.onWhorl whorl (fun h => (h.onTile tile (fun t => { t with present := t.present &&& ~~~(1#64 <<< i) })).startFill s.cycle (sector / 2))

/-- The sectors that a test selects are read, and so checked (R322). -/
def checkSectors (p : Nat → Bool) (s : State) : State := (s.damage.filter p).foldl (fun s q => errorFound q s) s

/-- The sectors of some locations are read. -/
def checkLocs (locs : List Nat) (s : State) : State := checkSectors (fun q => locs.any (fun l => eccSector l == q)) s

/-- The sectors that a Whorl holds of a tile are read out of its slot: by a touch, a shift, a write-back, a refresh. -/
def checkTile (tile : Nat) (s : State) : State :=
  checkSectors (fun q => q / 128 == tile && ((s.whorl (homeWhorl s (q / 4))).tileOf tile).any (fun t => t.present.getLsbD (q % 128 / 2))) s

/-- A touch (R88): the tile is read out of its slot, and so checked (R322). -/
def touchTile (whorl tile core : Nat) (s : State) : State :=
  let s := checkTile tile s
  s.onWhorl whorl (fun h => h.touch tile core s.cycle s.stamp)

/-- The motions a front has held start while there is room (R101). -/
def startHeldAt (whorl : Nat) (s : State) : State :=
  let tiles := ((s.whorl whorl).waitPin.map (·.2.tile)).take (4 - (s.whorl whorl).motion.length)
  let s := tiles.foldl (fun s t => checkTile t s) s
  { s.onWhorl whorl (Whorl.startAllHeld s.cycle s.stamp 4) with stamp := s.stamp + 1 }

/-- An uncorrectable error that a refresh meets in a 32-byte sector of a slot (R305): a slot without data there is quarantined.
(DEDUCED, log 134, unsafe.) -/
def uncorrectableError (whorl slot sector : Nat) (s : State) : State :=
  match (find (s.whorl whorl).slots slot).filter (fun t => t.present.getLsbD (sector / 2)) with
  | none => quarantineSlot whorl slot 1 s
  | some t => errorFound (128 * t.tile + sector) s

end Sys2Proof.Machine
end

