-- ==== Sys2Proof/Machine/Placement.lean ====
section
/-! DEFINITION. The Whorl words of major 0x23 (R204): they act at the front as they issue, and their answers come back as a
long-latency producer on path ld. A word goes to its front behind what its core has sent there before (R300); one that the front refuses
is retried as a request of the wave (R96, R98). -/

namespace Sys2Proof.Machine

/-- An answer on its way back: the destination is empty until LOAD_DATA_RETURN. (DEDUCED, log 55, safe.) -/
def answerLater (u : Use) (path : Nat) (writes : List RegWrite) (vregs sregs : List Nat) (s : State) : State :=
  let s := raiseCount path s
  let p : Producer := ⟨s.w.seq, path, writes, vregs, sregs⟩
  let s := s.onWave (fun w => { w with producers := w.producers ++ [p] })
  finish u (s.onArch (fun a => (a.emptyVs vregs).emptySs sregs))

/-- A scalar answer. (DEDUCED, log 55, safe.) -/
def answerScalar (u : Use) (d : BitVec 7) (x : W64) (s : State) : Result :=
  .next (answerLater { u with late := true } 0 [.scalar d.toNat x] [] [d.toNat] s)

/-- What a Whorl word finds at its address: spaces 4 and 5, a location, or no translation. -/
inductive Found where
  | remote
  | at' (h : Handle) (loc : Nat)
  | nowhere (faults : List (Nat × W64 × BitVec 8 × Nat × Bool))
  deriving DecidableEq, Repr

/-- The checks of a Whorl word (R204): handle validity and limit, then the space, then the address; `k` answers. The word waits while a walk
or an answer of the host is on its way, and while its core holds as many refused requests as it may (R301). (DEDUCED, log 55, safe.) -/
def placeWord (u : Use) (o : BitVec 7) (h : BitVec 6) (k : Found → State → Result) (s0 : State) : Result :=
  issue u (fun s =>
    match s.w.env.handle h.toNat with
    | none => raise Cause.handle 0 0 s
    | some hd =>
      if hd.remote then
        if hd.limit < (s.sreg o.toNat).toNat then raise Cause.bounds 0 0 s else k .remote s
      else if 64 ≤ refusedOf s s.w.core then .next (s0.holdFor .engine)
      else
        match checkAccess s.w (.core s.w.core) h.toNat .place 1 1 (scalarOffs s o) s with
        | (_, .trap cause mask) => raise cause 0 mask s
        | (s', .ok _ places) => k (.at' hd ((places.flatMap (·.locs)).headD 0)) s'
        | (s', .fault fs) =>
          if fs.any (fun f => f.2.2.1 == Cause.waiting) then .next ({ s' with w := s0.w }.holdFor .engine) else k (.nowhere fs) s'
        | (s', .waitHost) => .next ({ s' with w := s0.w }.holdFor .engine)) s0

/-- WDIST (R94, R204). -/
def execWdist (d : BitVec 7) (o : BitVec 7) (h : BitVec 6) (ea : Bool) (s : State) : Result :=
  let u : Use := { srcS := [(o.toNat, ea)], dstS := [d.toNat], path := some 0 }
  placeWord u o h (fun f s =>
    match f with
    | .at' _ loc =>
      if sentBefore s s.w.core (homeWhorl s (lineOf loc)) then .next (s.holdFor .engine)
      else answerScalar u d (wdistWord s s.w.core (lineOf loc)) s
    | _ => answerScalar u d wdistNowhere s) s

/-- A missing tile allocated in a motion buffer entry with one sector's fetch (R87), or a resident one touched (R88). -/
def moveTile (loc core : Nat) (s : State) : State :=
  let home := homeWhorl s (lineOf loc)
  if ((s.whorl home).tileOf (tileOf loc)).isNone then s.onWhorl home (fun h => h.allocate (sectorOf loc) core s.cycle s.stamp)
  else touchTile home (tileOf loc) core s

/-- What WPIN with a class, or WPULL (class 0), does at its front (R92 to R94), and its status; nothing where it would start a motion and no
entry is free (R96). A refused pin of a tile that is pinned leaves its pin as it is (R92).
(DEDUCED, log 55, safe; DEDUCED, log 162, unsafe.) -/
def placeAt (cls loc core : Nat) (tag : BitVec 8) (s : State) : Option (Nat × State) :=
  let home := homeWhorl s (lineOf loc)
  let h := s.whorl home
  let tile := tileOf loc
  let stamped := fun (s : State) => { s with stamp := s.stamp + 1 }
  if cls = 0 then
    if (h.tileOf tile).isSome && !h.wouldMove tile then some (1, s)
    else if !h.room then none
    else some (if (h.tileOf tile).isSome then 0 else 2, stamped (moveTile loc core s))
  else if h.pinStatus tile cls != 0 then some (h.pinStatus tile cls, s)
  else if h.pinMoves tile cls && !h.room then none
  else
    let s := if h.pinMoves tile cls then moveTile loc core s else s
    some (0, stamped (s.onWhorl home (fun h => h.setPin tile cls tag s.stamp)))

/-- A WPIN or WPULL refused for want of a motion buffer entry (R96, R97): it has issued, its destination is empty, and a request of the wave
holds it until its timer expires (R98). (DEDUCED, log 55, safe.) -/
def refuseWord (u : Use) (d : BitVec 7) (h : BitVec 6) (x : Handle) (cls loc : Nat) (va : W64) (s : State) : State :=
  let home := homeWhorl s (lineOf loc)
  let req : Req := ⟨lineOf loc, home, .refused, s.cycle, 1, encodeHint (landingWait (s.whorl home) s.cycle), 1, false, false, 0, false, 0⟩
  let s := s.onWhorl home (fun h => { h with asked := put 0 h.asked s.w.core (look 0 h.asked s.w.core + 1)
                                             refused := put 0 h.refused s.w.core (look 0 h.refused s.w.core + 1) })
  let a := { makeAccess s 0 x h.toNat false (.whorl d.toNat cls) [⟨64, va, [loc], [], [], [], []⟩] with reqs := [req] }
  let s := (raiseCount 0 s).onWave (fun w => { w with aside := w.aside ++ [a] })
  finish { u with late := true } (s.onArch (fun a => a.emptySs [d.toNat]))

/-- WPIN with a class, or WPULL (class 0), at a location: behind the motions that its front holds (R101). -/
def placeNow (u : Use) (d o : BitVec 7) (h : BitVec 6) (x : Handle) (cls loc : Nat) (s0 s : State) : Result :=
  let home := homeWhorl s (lineOf loc)
  if sentBefore s s.w.core home then .next (s0.holdFor .engine)
  else
    let s := if (s.whorl home).waitPin.isEmpty then s else startHeldAt home s
    match placeAt cls loc s.w.core s.w.env.tag s with
    | some (status, s) => answerScalar u d (BitVec.ofNat 64 status) s
    | none => .next (refuseWord u d h x cls loc (x.base + s.sreg o.toNat) s)

/-- WPIN (R93, R204): sd names the class and receives the status. (DEDUCED, log 55, safe; DEDUCED, log 162, unsafe.) -/
def execWpin (d : BitVec 7) (o : BitVec 7) (h : BitVec 6) (ed : Bool) (ea : Bool) (s : State) : Result :=
  let u : Use := { srcS := [(o.toNat, ea), (d.toNat, ed)], dstS := [d.toNat], path := some 0 }
  let c := (s.sreg d.toNat).toNat % 64
  placeWord u o h (fun f s' =>
    match f with
    | .remote => answerScalar u d 3 s'
    | f =>
      let hd := s'.w.env.handle h.toNat
      let cls := if c = 0 then (match hd with | some x => x.pinclass.toNat | none => 0) else c
      if (c = 0 ∧ !(hd.any (fun x => x.policy == 2#2))) ∨ 46 ≤ c then raise Cause.bounds 0 0 s'
      else
        match f with
        | .at' x loc =>
          if x.space = 1 ∨ x.space = 2 then
            (if sentBefore s' s'.w.core (homeWhorl s' (lineOf loc)) then .next (s.holdFor .engine) else answerScalar u d 0 s')
          else placeNow u d o h x cls loc s s'
        | .nowhere fs => .next (stallOrTrap 0 Access.read fs s')
        | .remote => .next s') s

/-- WUNPIN (R92, R204). -/
def execWunpin (d : BitVec 7) (o : BitVec 7) (h : BitVec 6) (ea : Bool) (s : State) : Result :=
  let u : Use := { srcS := [(o.toNat, ea)], dstS := [d.toNat], path := some 0 }
  placeWord u o h (fun f s =>
    match f with
    | .remote => answerScalar u d 3 s
    | .at' _ loc =>
      let home := homeWhorl s (lineOf loc)
      if sentBefore s s.w.core home then .next (s.holdFor .engine)
      else
      match (s.whorl home).tileOf (tileOf loc) with
      | some t =>
        if t.scratch then answerScalar u d 2 s
        else if t.pin.isSome then
          answerScalar u d 0 (s.onWhorl home (fun w => w.onTile (tileOf loc) (fun t => { t with pin := none })))
        else answerScalar u d 1 s
      | none => answerScalar u d 1 s
    | _ => answerScalar u d 1 s) s

/-- WPULL (R94, R204): the motion of a touch without data. (DEDUCED, log 55, safe.) -/
def execWpull (d : BitVec 7) (o : BitVec 7) (h : BitVec 6) (ea : Bool) (s : State) : Result :=
  let u : Use := { srcS := [(o.toNat, ea)], dstS := [d.toNat], path := some 0 }
  placeWord u o h (fun f s' =>
    match f with
    | .remote => answerScalar u d 3 s'
    | .at' x loc => placeNow u d o h x 0 loc s s'
    | .nowhere fs => .next (stallOrTrap 0 Access.read fs s')) s

/-- WHOME (R204, Table 10.5). -/
def execWhome (d : BitVec 7) (o : BitVec 7) (h : BitVec 6) (ea : Bool) (s : State) : Result :=
  let u : Use := { srcS := [(o.toNat, ea)], dstS := [d.toNat], path := some 0 }
  placeWord u o h (fun f s =>
    match f with
    | .remote => answerScalar u d 0x10000 s
    | .at' _ loc =>
      let home := homeWhorl s (lineOf loc)
      answerScalar u d (BitVec.ofNat 64 (hops s.w.core home * 256 + home)) s
    | _ => answerScalar u d 0x20000 s) s

end Sys2Proof.Machine
end

