-- ==== Sys2Proof/Machine/Snap.lean ====
section
/-! DEFINITION. Copies of memory the device keeps: run-ahead and replay snapshots of a launch (R274, R312, R313), made before the first
write of a page and put back; and the backing areas of scratch (R101, R287). -/

namespace Sys2Proof.Machine

/-- The launch becomes irreplaceable (R313). -/
def noteIrreplaceable (launch : Nat) (s : State) : State :=
  { s with launches := change (fun l => { l with irrepl := true }) s.launches launch }

/-- The cells of `n` locations from `lo` on. -/
def cellsOf (m : Memory) (lo n : Nat) : Memory := m.filter (fun c => decide (lo ≤ c.1 ∧ c.1 < lo + n))

/-- Memory with `n` locations from `lo` on replaced by cells of that range. -/
def setCells (m : Memory) (lo n : Nat) (cells : Memory) : Memory :=
  m.filter (fun c => decide (c.1 < lo)) ++ cells ++ m.filter (fun c => decide (lo + n ≤ c.1))

/-- `n` bytes copied from one place to another. -/
def copyCells (m : Memory) (src dst n : Nat) : Memory :=
  setCells m dst n ((cellsOf m src n).map (fun c => (c.1 - src + dst, c.2)))

/-- A 32-byte sector of `n` locations from `lo` on. -/
def within (lo n sector : Nat) : Bool := decide (lo / 32 ≤ sector ∧ sector < (lo + n) / 32)

/-- Poison bits copied with their sectors (R309). -/
def copyPoison (poison : List Nat) (src dst n : Nat) : List Nat :=
  poison.filter (fun x => !within dst n x) ++
    (poison.filter (within src n)).map (fun x => x - src / 32 + dst / 32)

/-- Locations of some bytes whose second-tier port is down, by 32-byte sector: they read as poisoned data (R334). -/
def downSectors (s : State) (lo n : Nat) : List Nat :=
  if regionOf lo != 1 then [] else ((List.range (n / 32)).map (fun i => lo + 32 * i)).filter (tierDown s)

/-- A range of whole lines copied to another (R274, R309, R310): every copy of the lines written goes, their sectors are dirty with the
context's tag, and poison goes with its sector. What is behind a second-tier port that is down is copied as poisoned data, and a copy to
there is dropped (R334). (DEDUCED, log 48, safe.) -/
def copyHome (owner : Option (BitVec 8)) (src dst n : Nat) (s : State) : State :=
  if tierDown s dst then s else
  let lines := (List.range (n / 128)).map (lineOf dst + ·)
  let s := checkSectors (within src n) (lines.foldl (fun s l => invalidateNow l s) s)
  let s := { s with mem := copyCells s.mem src dst n, damage := s.damage.filter (fun x => !within dst n x),
                    poison := setPoison (copyPoison s.poison src dst n) ((downSectors s src n).map (fun l => l - src + dst)),
                    hostCopy := s.hostCopy.filter (fun l => !lines.contains l) }
  lines.foldl (fun (s : State) l => s.onWhorl (homeWhorl s l) (markDirty l [128 * l, 128 * l + 64] owner)) s

/-- The location of a frame. -/
def frameLoc (tier : Bool) (frame : Nat) : Nat := if tier then tierLoc (65536 * frame) else hbmLoc (65536 * frame)

/-- Pool pages of a context in use by its launches' snapshots. -/
def poolUsed (s : State) (tag : BitVec 8) : List Nat :=
  s.launches.flatMap (fun e => if e.2.env.tag == tag then e.2.snaps.map (·.slot) else [])

/-- The location of a snapshot pool page. -/
def poolLoc (s : State) (tag : BitVec 8) (slot : Nat) : Option Nat :=
  probe s tag ((s.context tag).word 6 + BitVec.ofNat 64 (65536 * slot)) Access.write

/-- Copy a page to the context's pool before its first write (R274 rule 1, R312); `none` when the pool is full. A free pool page that cannot
be written counts as a full pool. (DESIGN CHOICE, log 191, unsafe.) -/
def snapshotPage (launch page : Nat) (s : State) : Option State :=
  match find s.launches launch with
  | none => some s
  | some l =>
    if l.snaps.any (fun x => x.page == page) then some s
    else
      let pages := ((s.context l.env.tag).word 7).extractLsb' 32 32
      let used := poolUsed s l.env.tag
      match (List.range (used.length + 1)).find? (fun i => !used.contains i && decide (i < pages.toNat)) with
      | none => none
      | some slot =>
        match poolLoc s l.env.tag slot with
        | none => none
        | some loc =>
          let s := copyHome (some l.env.tag) (65536 * page) loc 65536 s
          some { s with launches := change (fun l => { l with snaps := l.snaps ++ [⟨page, slot, s.stamp, loc⟩] }) s.launches launch, stamp := s.stamp + 1 }

/-- The copies a write needs first: it goes on, a protected launch losing its protection when the pool is full; a launch
that runs ahead waits (`none`). A launch that runs ahead has every page of its snapset copied but scratch (R274), a protected one
those of spaces 0 and 6 (R312). (DEDUCED, log 69, safe.) -/
def beforeWrite (launch handle space : Nat) (locs : List Nat) (s : State) : Option State :=
  match find s.launches launch with
  | none => some s
  | some l =>
    if !l.inSnapset handle || !((l.runAhead && (space == 0 || space == 3 || space == 6)) ||
        (l.isProtected && (space == 0 || space == 6))) then some s
    else
      ((locs.map (· / 65536)).eraseDups).foldl (fun r page =>
        match r with
        | none => none
        | some s =>
          match snapshotPage launch page s with
          | some s => some s
          | none =>
            if l.runAhead then none
            else some { s with launches := change (fun l => { l with shielded := false }) s.launches launch }) (some s)

/-- What makes a launch irreplaceable when an access is performed (R313). -/
def noteAccess (launch handle space : Nat) (writes : Bool) (s : State) : State :=
  match find s.launches launch with
  | none => s
  | some l =>
    if space == 3 || space == 4 || space == 5 || (writes && (space == 0 || space == 6) && decide (handle < 256) && !l.inSnapset handle) then
      noteIrreplaceable launch s
    else s

/-- Every snapshotted page of some launches put back, the latest copy first, and their snapshots released (R274 rule 4, R315). A pool page
that is no longer mapped is read in the frame it was copied to. (DEDUCED, log 190, unsafe.) -/
def restoreSnapshots (launches : List Nat) (s : State) : State :=
  let copies := (launches.flatMap (fun k =>
    match find s.launches k with
    | none => []
    | some l => l.snaps.map (fun x => (l.env.tag, x)))).mergeSort (fun a b => decide (b.2.age ≤ a.2.age))
  let s := copies.foldl (fun (s : State) c =>
    copyHome (some c.1) ((poolLoc s c.1 c.2.slot).getD c.2.loc) (65536 * c.2.page) 65536 s) s
  { s with launches := mapEntries (fun k l => if launches.contains k then { l with snaps := [] } else l) s.launches }

/-! ### Scratch backing areas (R101, R287) -/

/-- Pages of a context's scratch backing pool in use by its teams. -/
def backingUsed (s : State) (tag : BitVec 8) : List Nat :=
  s.teams.flatMap (fun e => if (find s.launches e.2.launch).any (fun l => l.env.tag == tag) then e.2.backing else [])

/-- Pages of the pool for a team: `n`, the lowest that are free, or none where the pool has fewer. (DESIGN CHOICE, log 13, safe.) -/
def allocBacking (s : State) (tag : BitVec 8) (n : Nat) : List Nat :=
  let used := backingUsed s tag
  let pages := ((s.context tag).word 7).extractLsb' 0 32
  let free := ((List.range (used.length + n)).filter (fun i => !used.contains i && decide (i < pages.toNat))).take n
  if free.length = n then free else []

/-- Where a scratch location is backed: a team's pages are those of its columns in order, a page for each 64 KiB of a column.
(DESIGN CHOICE, log 13, safe.) -/
def backingLoc (s : State) (loc : Nat) : Option Nat :=
  let r := regionOf loc - 2 ^ 46
  (find s.teams (r / 2)).bind (fun t =>
    let pages := t.backing.length / (if t.twin then 2 else 1)
    (t.backing[r % 2 * pages + addrOf loc / 65536]?).bind (fun p =>
      (find s.launches t.launch).bind (fun l =>
        (probe s l.env.tag ((s.context l.env.tag).word 8 + BitVec.ofNat 64 (65536 * p)) Access.write).map (· + addrOf loc % 65536))))

/-- A location of scratch. -/
def isScratch (loc : Nat) : Bool := decide (2 ^ 46 ≤ regionOf loc)

/-- A 64-byte sector copied with its poison, checked as it is read. -/
def copySector (src dst : Nat) (s : State) : State :=
  let s := checkSectors (within src 64) s
  { s with mem := copyCells s.mem src dst 64, poison := copyPoison s.poison src dst 64, damage := s.damage.filter (fun x => !within dst 64 x) }

/-- The dirty sectors of a scratch tile written back to its backing area (R101, R294). -/
def writeBack (t : Tile) (s : State) : State :=
  if !isScratch (4096 * t.tile) then s
  else ((List.range 64).filter (fun i => t.dirty.getLsbD i)).foldl (fun (s : State) i =>
    let src := 4096 * t.tile + 64 * i
    match backingLoc s src with
    | none => s
    | some dst => copySector src dst (invalidateNow (lineOf dst) s)) s

/-- A sector of scratch filled from its backing area (R101). -/
def refill (sector : Nat) (s : State) : State :=
  if !isScratch (64 * sector) then s
  else match backingLoc s (64 * sector) with
    | none => s
    | some src => copySector src (64 * sector) s

end Sys2Proof.Machine
end

