-- ==== Sys2Proof/Machine/Lsu.lean ====
section
/-! DEFINITION. What becomes of an access after it issues: the store buffer, the front that serves its line requests, the
directory, invalidations and acknowledgements, the data's return and retirement (R87, R95 to R99, R119 to R132, R137, R148,
R300 to R304, R309, R319). -/

namespace Sys2Proof.Machine

/-! ### Finding and changing accesses -/

/-- Change the accesses of a word of a wave, or what it has under way under a number. -/
def State.onAccess (k seq : Nat) (f : Access → Access) (s : State) : State :=
  let w := s.wave k
  let g := fun (x : Access) => if x.seq == seq then f x else x
  s.setWave k { w with accesses := w.accesses.map g, aside := w.aside.map g }

/-- Change the requests of an access for one line in one phase. -/
def Access.onReq (line : Nat) (phase : ReqPhase) (f : Req → Req) (x : Access) : Access :=
  { x with reqs := x.reqs.map (fun r => if r.line == line && r.phase == phase then f r else r) }

/-- The requests of an access for a line that stand at its home, put into another phase. -/
def Access.turnTo (line : Nat) (phase : ReqPhase) (x : Access) : Access :=
  { x with reqs := x.reqs.map (fun r => if r.line == line && r.phase.atHome then { r with phase := phase } else r) }

/-- Every request is done, and so is the translation. -/
def Access.answered (x : Access) : Bool := x.pending.isNone && x.reqs.all (fun r => r.phase == .done)

/-- Every line's data have arrived at the core. -/
def Access.arrived (x : Access) : Bool := x.answered && x.reqs.all (·.here)

/-- A request served, or a remote one answered: its data are on their way, or at the core. -/
def Req.served (due : Nat) (r : Req) : Req := { r with phase := .done, due := due }
def Req.done (r : Req) : Req := { r with phase := .done, here := true }

/-- When the data of a line served now reach a core (R86, R300). -/
def dueAt (s : State) (core home : Nat) : Nat := s.cycle + 4 * hops core home

/-- What a wave holds at locations that have been translated: accesses issued and not performed, fetches of its port engines, and writes that a
transaction or a pair log keeps (R286). -/
def Wave.holding (w : Wave) : List Access :=
  w.under.filter (fun x => !x.answered && x.pending.isNone) ++ (match w.txn with | some t => t.accs | none => []) ++ w.pairLog

/-- Returning atomics, and stores. -/
def AccessOp.isAtomic : AccessOp → Bool
  | .atomic _ _ _ _ => true
  | _ => false
def AccessOp.isStore : AccessOp → Bool
  | .store => true
  | .portStore _ => true
  | _ => false

/-! ### The directory (R302, R303) -/

/-- The wave that holds a Whorl and has read a line under the hold, on a core (R132). -/
def holderReads (s : State) (home core line : Nat) : Bool :=
  match (s.whorl home).hold with
  | some (k, _) => (s.wave k).core == core && (s.wave k).reads line
  | none => false

/-- Send invalidations of a line (R303), those that the holder of a hold defers apart (R132). -/
def sendInvalidations (home line : Nat) (cores : List Nat) (s : State) : State :=
  cores.foldl (fun (s : State) c =>
    if holderReads s home c line then s.onWhorl home (fun h => { h with defer := h.defer ++ [(c, line)] })
    else s.onCore c (fun x => { x with inbox := x.inbox ++ [(line, false)] })) s

/-! ### Performing a write -/

/-- The part of an element that lies in a line. -/
def Elem.within (line : Nat) (e : Elem) : Elem :=
  let ix := (List.range e.locs.length).filter (fun i => lineOf (e.locs.getD i 0) == line)
  { e with locs := ix.map (fun i => e.locs.getD i 0), data := ix.map (fun i => e.data.getD i 0),
           cmp := ix.map (fun i => e.cmp.getD i 0) }

/-- Whether a thread's part, its old bytes known, changes memory: a failing ACAS is a read event only (R206). -/
def Elem.writes (op : AccessOp) (e : Elem) : Bool :=
  match op with
  | .atomic 9 _ _ _ => natOfBytes (e.got.map (·.2)) == natOfBytes e.cmp
  | _ => true

/-- Locations that a performed access has written. -/
def wroteLocs (op : AccessOp) (done : List Elem) : List Nat := (done.filter (fun e => e.writes op)).flatMap (·.locs)

/-- What a write leaves in the state beside the waves (R119, R309, R310, R313): memory, which a second-tier port that is down does
not take, poison cleared by whole sectors stored, sectors dirty with the owner's tag, and the launch irreplaceable where that is so. -/
def applyWrite (w : Wave) (x : Access) (parts : List Elem) (s : State) : State × List Elem :=
  let (mem, done) := performElems x.op s.mem parts
  let locs := wroteLocs x.op done
  let s := if locs.any (tierDown s) then s
    else { s with mem := mem, poison := if x.op.isStore then clearPoison s.poison locs else s.poison,
                  damage := if x.op.isStore then clearPoison s.damage locs else s.damage }
  let s := ((locs.map lineOf).eraseDups).foldl (fun (s : State) l =>
    s.onWhorl (homeWhorl s l) (markDirty l (locs.filter (fun a => lineOf a == l)) (some w.env.tag))) s
  (if locs.isEmpty && x.space != 3#4 then s else noteAccess w.launch x.handle x.space.toNat (!locs.isEmpty) s, done)

/-- Bytes of a write whose sectors are read first, and so checked: all but those of sectors that it stores whole (R309). -/
def readFirst (x : Access) (locs : List Nat) : List Nat :=
  if x.op.isStore then locs.filter (fun l => !(List.range 32).all (fun i => locs.contains (32 * eccSector l + i))) else locs

/-- The sector whose poison an access consumes at its home: an atomic's or reduction's computation (R309). -/
def consumedAt (s : State) (x : Access) (parts : List Elem) : Option W64 :=
  if x.op.isStore then none else poisonVa s (fun _ _ => false) parts

/-- THE HOME PERFORMS A WRITE on one line (R119, R137, R303). A compare-and-swap that writes needs its page's copy first (R274); where
that has no room it waits at its home. (DEDUCED, log 46, 47, safe.) -/
def performLine (k seq line : Nat) (s : State) : State :=
  match (s.wave k).accesses.find? (fun x => x.seq == seq && x.op.writes && x.left && x.touches line) with
  | none => s
  | some x =>
    let home := homeWhorl s line
    let parts := (x.elems.map (Elem.within line)).filter (fun e => !e.locs.isEmpty)
    let s := checkLocs (readFirst x (parts.flatMap (·.locs))) s
    let free := fun (s : State) => s.onWhorl home (fun h => { h with busy := erase h.busy line, snooped := h.snooped.erase line })
    match beforeWrite (s.wave k).launch x.handle x.space.toNat (wroteLocs x.op (performElems x.op s.mem parts).2) s with
    | none => (free s).onAccess k seq (fun y => if y.op.writes then Access.onReq line .acks (fun r => { r with phase := .queued }) y else y)
    | some s =>
      let bad := consumedAt s x parts
      let (s, done) := applyWrite (s.wave k) x parts s
      let away := ((s.whorl home).tileOf (line / 32)).isNone
      let shares := x.op.isAtomic && !x.byp && !x.reqs.any (fun r => r.line == line && r.byp)
      let core := (s.wave k).core
      let s := free (s.onWhorl home (setDir line (if shares then ⟨false, [core]⟩ else ⟨false, []⟩)))
      let s := s.onAccess k seq (fun (y : Access) =>
        if !y.op.writes then y
        else
          { y with
            elems := y.elems.map (fun (e : Elem) =>
              match done.find? (fun d => d.thread == e.thread && d.va == e.va) with
              | some d => { e with got := e.got ++ d.got }
              | none => e)
            poisoned := bad.or y.poisoned
            reqs := y.reqs.map (fun (r : Req) =>
              if r.line == line then { r.served (dueAt s core home) with byp := r.byp || away, here := !x.op.isAtomic } else r) })
      -- a store or reduction is complete when all its lines are performed
      match (s.wave k).accesses.find? (fun y => y.seq == seq && y.op.writes) with
      | some y => if y.answered && !y.op.isAtomic then s.setWave k ((s.wave k).land y.path seq) else s
      | none => s

/-- The home begins a write: the line is busy until every sharer has acknowledged (R303). (DEDUCED, log 46, safe.) -/
def beginWrite (k seq line : Nat) (s : State) : State :=
  let home := homeWhorl s line
  let owed := sharersOf s (some k) home line
  if owed.isEmpty then performLine k seq line s
  else
    let s := s.onWhorl home (fun h => { h with busy := ins h.busy line owed })
    sendInvalidations home line owed (s.onAccess k seq (Access.turnTo line .acks))

/-- A write of an access that waits for the acknowledgements of a line. -/
def Access.awaitsAcks (x : Access) (line : Nat) : Bool := x.op.writes && x.reqs.any (fun r => r.line == line && r.phase == .acks)

/-- Evicted tiles of which no line awaits an acknowledgement any more leave, their dirty sectors written back (R90, R303). -/
def dropEvicted (whorl : Nat) (s : State) : State :=
  let stays := fun (t : Tile) => (s.whorl whorl).busy.any (fun b => b.1 / 32 == t.tile)
  let gone := (s.whorl whorl).evicting.filter (fun t => !stays t)
  (gone.foldl (fun s t => writeBack t s) s).onWhorl whorl (fun h => { h with evicting := h.evicting.filter stays })

/-- Every acknowledgement of a line is in: the write that waits is performed, or the commit or eviction that waits goes on.
(DEDUCED, log 46, 47, safe.) -/
def acksIn (line : Nat) (s : State) : State :=
  let home := homeWhorl s line
  let s := match s.allWaves.findSome? (fun e => (e.2.accesses.find? (fun x => x.awaitsAcks line)).map (fun x => (e.1, x.seq))) with
    | some (k, seq) => performLine k seq line s
    | none => s.onWhorl home (fun h => { h with busy := erase h.busy line })
  dropEvicted home s

/-- An acknowledgement of a line counted at its home (R304). (DEDUCED, log 46, 47, safe.) -/
def countAck (core line : Nat) (s : State) : State :=
  let home := homeWhorl s line
  match find (s.whorl home).busy line with
  | none => s
  | some owed =>
    let owed := owed.erase core
    let s := s.onWhorl home (fun h => { h with busy := ins h.busy line owed })
    if owed.isEmpty then acksIn line s else s

/-! ### Serving a request -/

/-- Bytes bound to a load as its line is served (R138): those of the line not forwarded and not yet bound.
(DEDUCED, log 41, safe.) -/
def bindLine (m : Memory) (line : Nat) (e : Elem) : Elem :=
  let want := e.locs.filter (fun l => lineOf l == line && !e.fwd.any (fun x => x.1 == l) && !e.got.any (fun x => x.1 == l))
  { e with got := e.got ++ want.map (fun l => (l, readByte m l)) }

/-- The bytes of an access in a line. -/
def Access.within (x : Access) (line : Nat) : List Nat := (x.elems.flatMap (·.locs)).filter (fun l => lineOf l == line)

/-- Serve one line request at its home, its sectors checked (R322) and their poison bound with the bytes (R309). A line in use keeps it waiting (R303), as does a line the home must first get from the host
before a write (R119, R329). (DEDUCED, log 41, 132, safe.) -/
def serveLine (k seq line : Nat) (s : State) : State :=
  match (s.wave k).under.find? (fun x => x.seq == seq && x.reqs.any (fun r => r.line == line && r.phase.atHome)) with
  | none => s
  | some x =>
    let home := homeWhorl s line
    if (s.whorl home).inUse line then s.onAccess k seq (Access.turnTo line .queued)
    else if x.op.writes then
      if unowned s line then s.onAccess k seq (Access.turnTo line .owning) else beginWrite k seq line s
    else
      let s := checkLocs (x.within line) s
      let away := ((s.whorl home).tileOf (line / 32)).isNone
      let bad := poisonVa s (fun e l => lineOf l != line || e.fwd.any (fun f => f.1 == l)) x.elems
      let due := dueAt s (s.wave k).core home
      let s := if x.byp || x.reqs.any (fun r => r.line == line && r.byp) then s
        else s.onWhorl home (fun h => setDir line ((dirEntry h line).add (s.wave k).core) h)
      s.onAccess k seq (fun y =>
        if y.op.writes then y
        else { y with elems := y.elems.map (bindLine s.mem line), poisoned := y.poisoned.or bad,
                      reqs := y.reqs.map (fun r => if r.line == line then { r.served due with byp := r.byp || away } else r) })

/-- The 64-byte sectors of a line that an access touches. -/
def Access.sectorsIn (x : Access) (line : Nat) : List Nat :=
  ((x.within line).map sectorOf).eraseDups

/-- Sectors that a Whorl has yet to fetch for a request (R87): those of a resident tile that it does not hold.
(DEDUCED, log 66, safe.) -/
def Whorl.lacks (h : Whorl) (sectors : List Nat) : List Nat :=
  sectors.filter (fun q => (h.tileOf (q / 64)).any (fun t => !t.present.getLsbD (q % 64)))

/-- A request refused with a reason and a hint (R97, R99). (DEDUCED, log 31, safe.) -/
def refuse (k seq line : Nat) (reason : BitVec 2) (hint : BitVec 6) (s : State) : State :=
  let home := homeWhorl s line
  let core := (s.wave k).core
  let s := s.onAccess k seq (Access.onReq line .sent (fun r =>
    { r with phase := .refused, refusals := r.refusals + 1, reason := reason, hint := hint }))
  s.onWhorl home (fun h => { h with refused := put 0 h.refused core (look 0 h.refused core + 1) })

/-- Cycles until some fills have their data. (DEDUCED, log 29, unsafe.) -/
def fillWait (h : Whorl) (cycle : Nat) (sectors : List Nat) : Nat :=
  ((h.fills.filter (fun f => sectors.contains f.sector)).map (fun f => f.due - cycle)).foldl max 1

/-- The pin that an access through a pin-policy handle asks for (R93), its status recorded with the request.
(DEDUCED, log 162, unsafe.) -/
def pinAccess (k seq line : Nat) (x : Access) (s : State) : State :=
  let home := homeWhorl s line
  let tile := line / 32
  let status := (s.whorl home).pinStatus tile x.pinclass.toNat
  let s := if status = 0 && !((s.whorl home).tileOf tile).any (·.scratch) then
      { s.onWhorl home (Whorl.setPin tile x.pinclass.toNat (s.wave k).env.tag s.stamp) with stamp := s.stamp + 1 }
    else s
  s.onAccess k seq (Access.onReq line .sent (fun r => { r with pin := BitVec.ofNat 2 status }))

/-- A line at whose home a request finds no place: one locked by a commit (R135), or one in use when its merge queue entry is neither held by
an earlier request nor free (R303). (DESIGN CHOICE, log 159, safe; DESIGN CHOICE, log 185, safe.) -/
def noEntry (s : State) (line : Nat) : Bool :=
  let h := s.whorl (homeWhorl s line)
  let held := ((s.allWaves.flatMap (fun e => e.2.under.flatMap (fun x =>
    (x.reqs.filter (fun r => r.phase == .queued && r.home == homeWhorl s line)).map (·.line)))).eraseDups)
  h.locked.any (fun b => b.1 == line) || (h.inUse line && !held.contains line && decide (Config.mergeEntries ≤ held.length))

/-- The answer of a Whorl word that a front has taken: it comes back as a long-latency producer's. -/
def answerWord (k seq r : Nat) (status : W64) (s : State) : State :=
  let w := s.wave k
  s.setWave k { w with aside := w.aside.filter (fun x => !(x.seq == seq && x.op.isWhorl))
                       producers := w.producers ++ [⟨seq, 0, [.scalar r status], [], [r]⟩] }

/-- A retried WPIN or WPULL at its front (R96, R204). An urgent one for which no entry is free is served as a bypass access: it changes no
tile's place, and its status is the part's. Whether it was taken. (DESIGN CHOICE, log 186, safe.) -/
def acceptWord (k : Nat) (x : Access) (line r cls : Nat) (urgent : Bool) (s : State) : State × Bool :=
  let w := s.wave k
  let loc := (x.elems.flatMap (·.locs)).headD 0
  match placeAt cls loc w.core w.env.tag s with
  | some (status, s) => (answerWord k x.seq r (BitVec.ofNat 64 status) s, true)
  | none =>
    if urgent then
      (answerWord k x.seq r (((Config.freeWord s.free).extractLsb' 0 2).setWidth 64) { s with free := s.free + 1 }, true)
    else (refuse k x.seq line 1 (encodeHint (landingWait (s.whorl (homeWhorl s line)) s.cycle)) s, false)

/-- A request whose port is free (R95): refused where it finds no entry at its line, or for want of a motion buffer entry or of a place in
a fill entry, unless it is urgent (R96); else accepted, with its motion (R88, R91), its fill (R87), its pin (R93), and service. Whether it was accepted.
(DEDUCED, log 30, 56, 70, safe.) -/
def acceptOne (k seq line : Nat) (urgent : Bool) (s : State) : State × Bool :=
  match (s.wave k).under.find? (fun x => x.seq == seq && x.reqs.any (fun r => r.line == line && r.phase == .sent)) with
  | none => (s, false)
  | some x =>
    let home := homeWhorl s line
    let tile := line / 32
    let core := (s.wave k).core
    match x.op with
    | .whorl r cls => acceptWord k x line r cls urgent s
    | _ =>
    if noEntry s line && !urgent then (refuse k seq line 0 0 s, false) else
    let s := if 2 ^ 46 ≤ regionOf (line * 128) && !((s.whorl home).tileOf tile).any (fun t => t.pin.isSome) then
        let s := checkTile tile s
        { s.onWhorl home (Whorl.pinScratch tile (s.wave k).env.tag 0 core s.cycle s.stamp) with stamp := s.stamp + 1 }
      else s
    let s := if ((s.whorl home).tileOf tile).isSome then checkLocs (readFirst x (x.within line)) s else s
    let h := s.whorl home
    let urgent := urgent || h.awaitsMotion tile
    let moves := !x.byp && h.wouldMove tile
    let inPlace := x.byp || (moves && !h.room)
    let missing := (h.tileOf tile).isNone
    let sectors := x.sectorsIn line
    let need := if !missing then h.lacks sectors else if inPlace then [] else sectors
    let full := need.filter (fun q => h.fills.any (fun f => f.sector == q && decide (8 ≤ f.waiters)))
    if moves && !h.room && !urgent then (refuse k seq line 1 (encodeHint (landingWait h s.cycle)) s, false)
    else if !full.isEmpty && !urgent then (refuse k seq line 2 (encodeHint (fillWait h s.cycle full)) s, false)
    else
      let s := s.onAccess k seq (Access.onReq line .sent (fun r => { r with byp := inPlace }))
      let s := if moves && !inPlace then
          { (if missing then s.onWhorl home (fun h => h.startMotion (Tile.fresh tile) 0 core s.cycle s.stamp)
             else touchTile home tile core s) with stamp := s.stamp + 1 }
        else s
      let s := if x.policy == 2#2 && !inPlace then pinAccess k seq line x s else s
      if need.isEmpty then (serveLine k seq line s, true)
      else
        let s := s.onWhorl home (fun h =>
          let h := need.foldl (fun h q => h.startFill s.cycle q) h
          { h with fills := h.fills.map (fun (f : Fill) => if need.contains f.sector then { f with waiters := f.waiters + 1 } else f) })
        (s.onAccess k seq (Access.onReq line .sent (fun r => { r with phase := .filling })), true)

/-! ### The front (R95) -/

/-- A core's port cap (R95, R99): 2 until its loop changes it. -/
def Whorl.cap (h : Whorl) (core : Nat) : Nat := look 2 h.caps core

/-- Requests taken one after another while a port is free: with `capped`, those of a core that has been accepted as often as its
cap allows are skipped. `taken` lists the core of each request accepted; the last list is of those skipped.
(DEDUCED, log 28, safe.) -/
def acceptAll (whorl : Nat) (capped : Bool) : List Want → List Nat → List Want → State → State × List Nat × List Want
  | [], taken, skipped, s => (s, taken, skipped)
  | w :: ws, taken, skipped, s =>
    if 16 ≤ taken.length || (capped && decide ((s.whorl whorl).cap w.core ≤ (taken.filter (· == w.core)).length)) then
      acceptAll whorl capped ws taken (skipped ++ [w]) s
    else
      match acceptOne w.wave w.seq w.line w.urgent s with
      | (s, true) => acceptAll whorl capped ws (taken ++ [w.core]) skipped s
      | (s, false) => acceptAll whorl capped ws taken skipped s

/-- A line drops out of a near cache: its waves roll back and a notice goes home (R126, R303). -/
def dropLine (core line : Nat) (s : State) : State :=
  loseLine core line true (s.onCore core (fun c =>
    { c with near := c.near.filter (· != line), notices := c.notices ++ [line], out := c.out ++ [(line, true, s.cycle)] }))

/-- An error that arises in a 32-byte sector (R308): one the code corrects is counted; in a near cache the copy is discarded, to be fetched
again, and ue counts it; in a Whorl or in memory it lies there until a read checks the sector. (DEDUCED, log 134, unsafe.) -/
def errorArises (e : Nat × SectorError) (s : State) : State :=
  let line := e.1 / 4
  match e.2 with
  | .corrected => correctedAt e.1 s
  | .uncorrectable => if s.damage.contains e.1 then s else { s with damage := s.damage ++ [e.1] }
  | .near core =>
    if (s.core core).near.contains line then
      (dropLine core line s).onWhorl (homeWhorl s line) (fun h => { h with ue := h.ue + 1 })
    else s

/-- An evicted tile (R90, R303): a shift has reached it. Its sectors to be written back are checked, its sharers lose every line as for a
write, and it leaves once every copy is gone. (PRESUMED, log 65, safe.) -/
def evictTile (whorl tile : Nat) (s : State) : State :=
  let clean := fun (t : Tile) (q : Nat) => q / 128 == tile && t.present.getLsbD (q % 128 / 2) && !t.dirty.getLsbD (q % 128 / 2)
  let s := match (s.whorl whorl).leavingOf tile with
    | some l => checkTile tile { s with damage := s.damage.filter (fun q => !clean l.tile q) }
    | none => s
  match (s.whorl whorl).leavingOf tile with
  | none => s
  | some l =>
    let shared := (l.tile.dir.map (fun e => (32 * tile + e.1, e.2.cores))).filter (fun e =>
      !e.2.isEmpty && !(s.whorl whorl).busy.any (fun b => b.1 == e.1))
    let s := shared.foldl (fun (s : State) e =>
      sendInvalidations whorl e.1 e.2 (s.onWhorl whorl (fun h => { h with busy := ins h.busy e.1 e.2 }))) s
    dropEvicted whorl (s.onWhorl whorl (fun h => { h with evicting := h.evicting ++ [l.tile], leaving := h.leaving.erase l }))

/-- Tiles that a shift pushes out and has reached (R90). -/
def dueOut (h : Whorl) (cycle : Nat) : List Leaving := h.leaving.filter (fun l => decide (l.start ≤ cycle))

/-- They are evicted. -/
def evictDue (whorl : Nat) (s : State) : State := (dueOut (s.whorl whorl) s.cycle).foldl (fun s l => evictTile whorl l.tile.tile s) s

/-- Requests of some lines that stand at their homes in a phase, in order of arrival. -/
def waitingIn (s : State) (phase : ReqPhase) (p : Nat → Bool) : List Want :=
  (s.allWaves.flatMap (fun e => e.2.under.flatMap (fun x =>
    (x.reqs.filter (fun r => r.phase == phase && p r.line)).map (fun r => ⟨e.1, x.seq, e.2.core, r.line, r.arrived, false⟩)))).mergeSort
    Want.before

/-- Requests of a Whorl that were queued behind a line which is free again. -/
def unblocked (s : State) (whorl : Nat) : List Want :=
  waitingIn s .queued (fun l => homeWhorl s l == whorl && !(s.whorl whorl).inUse l)

/-- FRONT_REQUEST_ACCEPT (R95 to R98, R101, R132, R303, R308): one cycle of a front. Requests queued behind a line that is free again are
served first, in order of arrival. Urgent requests come first, then motions held for scratch
tiles, then the others within their core's cap, then those skipped; the rest are refused for want of a port. The errors that have arisen
stand there before. (DEDUCED, log 28, 45, safe; DEDUCED, log 134, unsafe.) -/
def execFrontRequestAccept (front : Nat × List (Nat × SectorError)) (s : State) : Result :=
  let whorl := front.1
  let s := evictDue whorl ((front.2.filter (fun e => homeWhorl s (e.1 / 4) == whorl)).foldl (fun s e => errorArises e s) s)
  let s := (unblocked s whorl).foldl (fun s w => serveLine w.wave w.seq w.line s) s
  let wants := (wantsAt s whorl).mergeSort Want.before
  if wants.isEmpty then .next s
  else
    let s := grantHold whorl s
    let s := wants.foldl (fun (s : State) w =>
      s.onWhorl whorl (fun h => { h with asked := put 0 h.asked w.core (look 0 h.asked w.core + 1) })) s
    let (s, taken, late) := acceptAll whorl false (wants.filter (·.urgent)) [] [] s
    let s := startHeldAt whorl s
    let (s, taken, skipped) := acceptAll whorl true (wants.filter (fun w => !w.urgent)) taken [] s
    let (s, _, rest) := acceptAll whorl false skipped taken [] s
    .next ((late ++ rest).foldl (fun s w => refuse w.wave w.seq w.line 0 0 s) s)

/-- RETRY_TIMER_EXPIRY (R98): a refused request is resent. (DEDUCED, log 31, safe.) -/
def execRetryTimerExpiry (wave : Nat) (id : Nat) (line : Nat) (s : State) : Result :=
  .next (s.onAccess wave id (Access.onReq line .refused (fun r => { r with phase := .sent, arrived := s.cycle, lost := false })))

/-- A request that has joined a fill and has every sector it needs. -/
def filled (s : State) (whorl : Nat) (w : Want) : Bool :=
  (s.wave w.wave).under.all (fun x => x.seq != w.seq || ((s.whorl whorl).lacks (x.sectorsIn w.line)).isEmpty)

/-- FILL_COMPLETE (R87, R308): a 64-byte sector is present and the accesses that waited for it are served in order of arrival. `bad` lists
its 32-byte sectors whose error the code could not correct: they are poisoned, in the data and in memory, as are those whose error lay
there before.
(DEDUCED, log 66, safe.) -/
def execFillComplete (whorl : Nat) (fetched : Nat × List Nat) (s : State) : Result :=
  let sector := fetched.1
  let bad := fetched.2
  if !(s.whorl whorl).fills.any (fun f => f.sector == sector) then .next s
  else
    let s := (refill sector s).onWhorl whorl (fun h =>
      { h.onTile (sector / 64) (fun t => { t with present := t.present ||| (1#64 <<< (sector % 64)) }) with
        fills := h.fills.filter (fun f => f.sector != sector) })
    let s := ((bad ++ s.damage).filter (fun e => e / 2 == sector)).foldl (fun s e =>
      { poisonSector e s with damage := s.damage.filter (· != e) }) s
    .next (((waitingIn s .filling (· == sector / 2)).filter (filled s whorl)).foldl (fun s w => serveLine w.wave w.seq w.line s) s)

/-- PORT_CAP_LOOP (R99). -/
def execPortCapLoop (whorl : Nat) (s : State) : Result :=
  .next (s.onWhorl whorl (fun h =>
    let cores := (h.asked.map (·.1) ++ h.caps.map (·.1)).eraseDups
    let next := fun c =>
      let a := look 0 h.asked c
      let r := look 0 h.refused c
      if a < 8 * r then min 8 (h.cap c + 1) else if r = 0 then max 2 (h.cap c - 1) else h.cap c
    { h with caps := cores.foldl (fun m c => put 2 m c (next c)) h.caps, asked := [], refused := [] }))

/-- HOLD_TIMEOUT (R132): 2,000 cycles after its grant the hold ends and its deferred invalidations are delivered. -/
def execHoldTimeout (whorl : Nat) (s : State) : Result :=
  match (s.whorl whorl).hold with
  | none => .next s
  | some (k, granted) =>
    if s.cycle < granted + 2000 then .next s
    else
      let deferred := (s.whorl whorl).defer
      let s := s.onWhorl whorl (fun h => { h with hold := none, defer := [] })
      let s := deferred.foldl (fun (s : State) d => s.onCore d.1 (fun c => { c with inbox := c.inbox ++ [(d.2, false)] })) s
      .next (s.setWave k { s.wave k with holds := (s.wave k).holds.erase whorl })

/-- SCRATCH_MOTION_START (R101). (DEDUCED, log 56, safe.) -/
def execScratchMotionStart (whorl : Nat) (s : State) : Result :=
  let s := match (s.whorl whorl).waitPin with
    | (_, t) :: _ => if (s.whorl whorl).room then checkTile t.tile s else s
    | [] => s
  .next { s.onWhorl whorl (Whorl.startHeld s.cycle s.stamp) with stamp := s.stamp + 1 }

/-- The slots of a row group (R305). (DEDUCED, log 68, unsafe.) -/
def groupSlots (group : Nat) : List Nat := (List.range (if group = 239 then 15 else 32)).map (529 + 32 * group + ·)

/-- Row groups whose every slot a landing shift has rewritten are stamped (R305): a slot it leaves empty, or passes over, it does not
rewrite. (DEDUCED, log 68, unsafe.) -/
def stampGroups (before : Whorl) (now : W64) (h : Whorl) : Whorl :=
  let moved := fun (p : Nat) => (find h.slots p).any (fun t => (find before.slots p).map (·.tile) != some t.tile)
  { h with stamps := ((List.range 240).filter (fun g => (groupSlots g).all moved)).foldl (fun m g => put 0 m g now.toNat) h.stamps }

/-- A front may land its first tile (R88): it is ready, two cycles have passed since the last landing, and the cycle's requests
have been met first. -/
def landable (s : State) (whorl : Nat) : Option Motion :=
  match firstMotion (s.whorl whorl).motion with
  | none => none
  | some m =>
    if s.cycle < m.ready || ((s.whorl whorl).landed != 0 && decide (s.cycle < (s.whorl whorl).landed + 2)) || !(wantsAt s whorl).isEmpty then
      none
    else some m

/-- Tiles that a landing takes out of their slots, which it checks (R322). -/
def displaced (before after : Whorl) : List Nat :=
  (before.slots.filter (fun e => !(find after.slots e.1).any (fun t => t.tile == e.2.tile))).map (fun e => e.2.tile)

/-- TILE_LANDING (R88, R90, R305): tiles that a shift has pushed out past the last slot, and has reached, are evicted, and the first tile
of the motion buffer lands. (DEDUCED, log 27, unsafe; DEDUCED, log 28, safe.) -/
def execTileLanding (whorl : Nat) (s : State) : Result :=
  let s := evictDue whorl s
  match landable s whorl with
  | none => .next s
  | some m =>
    let s := if s.damage.isEmpty then s
      else (displaced (s.whorl whorl) ((s.whorl whorl).land m s.cycle)).foldl (fun s t => checkTile t s) s
    let before := s.whorl whorl
    .next (s.onWhorl whorl (fun _ => stampGroups before s.nanotime (before.land m s.cycle)))

/-! ### Near caches, invalidations and notices -/

/-- A line allocated in a near cache, the least recent of a full set leaving (R319). -/
def allocateNear (core line : Nat) (s : State) : State :=
  let set := (s.core core).near.filter (fun l => l % 128 == line % 128)
  if set.contains line then
    s.onCore core (fun c => { c with near := line :: c.near.filter (· != line) })
  else
    let s := if 16 ≤ set.length then (match set.getLast? with | some l => dropLine core l s | none => s) else s
    s.onCore core (fun c => { c with near := line :: c.near })

/-- A message from a home is the first on its way from there into a core (R300). (DEDUCED, log 163, safe.) -/
def firstIn (s : State) (core line : Nat) (notice : Bool) : Bool :=
  (s.core core).inbox.find? (fun m => homeWhorl s m.1 == homeWhorl s line) == some (line, notice)

/-- An acknowledgement, or a notice, that is the first of its class on its way from a core to a home (R300).
(DEDUCED, log 163, safe.) -/
def firstOut (s : State) (core line : Nat) (notice : Bool) : Option Nat :=
  match (s.core core).out.find? (fun m => m.2.1 == notice && homeWhorl s m.1 == homeWhorl s line) with
  | some m => if m.1 = line then some m.2.2 else none
  | none => none

/-- INVALIDATION_ARRIVAL (R126, R304): the copy goes, waves roll back, and an acknowledgement leaves unless the line is in
the notice buffer. (DEDUCED, log 41, safe.) -/
def execInvalidationArrival (core : Nat) (line : Nat) (s : State) : Result :=
  if !firstIn s core line false then .next s
  else
    let s := s.onCore core (fun c => { c with
      inbox := c.inbox.erase (line, false)
      near := c.near.filter (· != line)
      out := if c.notices.contains line then c.out else c.out ++ [(line, false, s.cycle)] })
    .next (loseLine core line false s)

/-- ACKNOWLEDGEMENT (R304). (DEDUCED, log 47, safe.) -/
def execAcknowledgement (core : Nat) (line : Nat) (s : State) : Result :=
  match firstOut s core line false with
  | none => .next s
  | some sent => .next (countAck core line (s.onCore core (fun c => { c with out := c.out.erase (line, false, sent) })))

/-- EVICTION_NOTICE (R300, R303, R304): behind the core's earlier requests to that home, it counts as an owed acknowledgement, or
removes the core's pointer; the home answers. (DEDUCED, log 47, 163, safe.) -/
def execEvictionNotice (core : Nat) (line : Nat) (s : State) : Result :=
  let home := homeWhorl s line
  match firstOut s core line true with
  | none => .next s
  | some sent =>
    if (wantsAt s home).any (fun w => w.core == core && decide (w.arrived ≤ sent)) then .next s
    else
      let s := s.onCore core (fun c => { c with out := c.out.erase (line, true, sent), inbox := c.inbox ++ [(line, true)] })
      if (find (s.whorl home).busy line).any (fun owed => owed.contains core) then .next (countAck core line s)
      else
        .next (s.onWhorl home (fun h =>
          let d := dirEntry h line
          if d.coarse then h else setDir line { d with sharers := d.sharers.erase core } h))

/-- NOTICE_COMPLETION (R303): the notice buffer lets the line go. -/
def execNoticeCompletion (core : Nat) (line : Nat) (s : State) : Result :=
  if !firstIn s core line true then .next s
  else .next (s.onCore core (fun c => { c with inbox := c.inbox.erase (line, true), notices := c.notices.erase line }))

/-! ### Leaving the store buffer -/

/-- CRC-64 in the ECMA-182 polynomial, one byte (R317). -/
def crcByte (crc : W64) (b : Byte) : W64 :=
  (List.range 8).foldl (fun (c : W64) _ => if c.getLsbD 63 then (c <<< 1) ^^^ 0x42f0e1eba9ea3693#64 else c <<< 1)
    (crc ^^^ (b.setWidth 64 <<< 56))

/-- The signature over the address, byte mask and data of a logged write (R317): of each element its 8-byte address, a 16-byte mask with a bit
for each byte written, and its bytes, least significant first. (DESIGN CHOICE, log 196, safe.) -/
def signWrite (sig : W64) (x : Access) : W64 :=
  x.elems.foldl (fun sig e =>
    (bytesOfNat e.va.toNat 8 ++ bytesOfNat (2 ^ e.locs.length - 1) 16 ++ e.data).foldl crcByte sig) sig

/-- The oldest access of a wave if it is a write that may leave: its data known, not yet left. -/
def Wave.leaving (w : Wave) : Option Access :=
  match w.accesses with
  | [] => none
  | x :: _ => if x.op.writes && !x.left && x.pending.isNone && (x.returned || x.op.isAtomic) then some x else none

/-- The oldest access of a wave changed. -/
def State.onOldest (k : Nat) (f : Access → Access) (s : State) : State :=
  let w := s.wave k
  s.setWave k { w with accesses := (match w.accesses with | [] => [] | y :: ys => f y :: ys) }

/-- Runs of locations that follow one another, each with its bytes: what one posted write carries. -/
def runsOf : List (Nat × Byte) → List (Nat × List Byte)
  | [] => []
  | (l, b) :: rest =>
    match runsOf rest with
    | (l', bs) :: more => if l + 1 = l' then (l, b :: bs) :: more else (l, [b]) :: (l', bs) :: more
    | [] => [(l, [b])]

/-- A space-4 access that the host routes to the device's own memory window completes as unsupported (R120, R328): which addresses
those are is the host's. (DESIGN CHOICE, log 165, safe.) -/
def routedBack (x : Access) : Bool := x.space == 4#4 && x.elems.any (fun e => Config.hostRoutesBack (e.locs.headD 0))

/-- An AtomicOp that the device may not send (R255). -/
def unsendable (s : State) (x : Access) : Bool := x.space == 4#4 && x.op.isAtomic && !s.mgmt.atomics

/-- The access class of Table 18.4 of what an access does. -/
def AccessOp.cls : AccessOp → BitVec 2
  | .store => Access.write
  | .portStore _ => Access.write
  | .atomic _ _ _ _ => Access.atom
  | .reduce _ => Access.atom
  | _ => Access.read

/-- A trap on the word of an access that has issued. -/
def Access.trap (x : Access) (cause : BitVec 8) (va : W64) : PendTrap :=
  ⟨cause, 0, false, maskOf (x.elems.map (·.thread)), x.inst, x.word, 0, x.op.cls, va, 0, false⟩

/-- An access refused by the host or by a peer, or that the device may not send: no effect, and its launch terminates with 0x07
(R155, R255, R328, R335). (DEDUCED, log 138, unsafe.) -/
def refuseRemote (k : Nat) (x : Access) (s : State) : State :=
  stopAfter k x.seq x.snap (x.trap Cause.permission ((x.elems.map (·.va)).headD 0)) s

/-- An access that has left and is performed by its home at once. -/
def Access.gone (x : Access) : Access := { x with left := true, reqs := x.reqs.map Req.done }

/-- A write leaves the store buffer of a wave (R119, R125, R317): to its home, into the egress queue, to a peer, or into the
pair log; `none` where it must wait for a snapshot (R274). A compare-and-swap takes its copy when it is performed.
(DEDUCED, log 52, 69, 150, safe.) -/
def leaveBuffer (k : Nat) (x : Access) (s : State) : Option State :=
  let w := s.wave k
  let send := fun (s : State) => s.onOldest k (fun y =>
    { y with left := true, reqs := y.reqs.map (fun r => { r with phase := .sent, arrived := s.cycle }) })
  if w.pair.isSome && !x.op.isAtomic && x.homed then
    let s := s.onOldest k Access.gone
    let w := s.wave k
    some (s.setWave k ({ w with pairLog := w.pairLog ++ [x.gone], signature := signWrite w.signature x }.land x.path x.seq))
  else if x.space == 4#4 then
    if x.op.isAtomic then some (s.onOldest k (fun y => { y with left := true }))
    else
      let posts : List Egress := x.elems.flatMap (fun (e : Elem) =>
        (runsOf (e.locs.zip e.data)).map (fun r => (⟨k, x.seq, r.1, r.2⟩ : Egress)))
      let s := { s with egress := s.egress ++ posts }
      let s := noteAccess w.launch x.handle x.space.toNat true (s.onOldest k Access.gone)
      some (s.setWave k ((s.wave k).land x.path x.seq))
  else if x.space == 5#4 then some (send s)
  else
    match (match x.op with
      | .atomic 9 _ _ _ => some s
      | _ => beforeWrite w.launch x.handle x.space.toNat (x.elems.flatMap (·.locs)) s) with
    | none => none
    | some s => some (send s)

/-- STORE_BUFFER_LEAVE (R125): the wave's oldest unretired access, a store, atomic or reduction, leaves. An AtomicOp the device may not
send, and a store that the host routes back, end the launch (R120, R255). (DEDUCED, log 69, safe.) -/
def execStoreBufferLeave (wave : Nat) (s : State) : Result :=
  match (s.wave wave).leaving with
  | none => .next s
  | some x =>
    if x.queue.isSome then .next s
    else if unsendable s x || routedBack x then .next (refuseRemote wave x s)
    else
      match leaveBuffer wave x s with
      | some s => .next s
      | none => .next s

/-- STORE_QUEUE_DRAIN (R105, R172): the oldest entry of a store queue leaves as a store counted on st (hx in spaces 4 and 5), while that
counter is below its limit. (DEDUCED, log 35, unsafe.) -/
def execStoreQueueDrain (wave : Nat) (queue : Nat) (s : State) : Result :=
  match (s.wave wave).leaving with
  | none => .next s
  | some x =>
    let w := s.wave wave
    if x.queue != some queue || 65535 ≤ w.count x.path then .next s
    else if routedBack x then .next (refuseRemote wave x s)
    else
      match leaveBuffer wave x (s.setWave wave { w with flight := w.flight ++ [⟨x.path, x.seq, false⟩] }) with
      | some s => .next s
      | none => .next s

/-! ### Data return and retirement -/

/-- Bytes of an element in order: forwarded, or as the home returned them. -/
def Elem.bytes (e : Elem) : List Byte :=
  e.locs.map (fun l =>
    match e.fwd.find? (fun x => x.1 == l) with
    | some x => x.2
    | none => ((e.got.find? (fun x => x.1 == l)).map (·.2)).getD 0)

/-- Bytes as a number, sign-extended to 64 bits where asked. -/
def extendBytes (bs : List Byte) (signed : Bool) : W64 :=
  let n := natOfBytes bs
  if signed then BitVec.ofInt 64 (if 2 ^ (8 * bs.length) ≤ 2 * n then (n : Int) - 2 ^ (8 * bs.length) else n) else BitVec.ofNat 64 n

/-- Four-byte groups of some bytes as words. -/
def wordsOf (bs : List Byte) : List W32 :=
  (List.range ((bs.length + 3) / 4)).map (fun i => BitVec.ofNat 32 (natOfBytes ((bs.drop (4 * i)).take 4)))

/-- Write consecutive registers of a thread. -/
def Arch.setGroup (a : Arch) (r t : Nat) : List W32 → Arch
  | [] => a
  | x :: xs => Arch.setGroup (a.setV r t x) (r + 1) t xs

/-- What a returning access writes, and the registers that fall full (R148, R198, R199, R206). A 32-bit scalar atomic zero-extends (R320).
(DEDUCED, log 81, unsafe.) -/
def Access.deliver (x : Access) (width : Nat) (a : Arch) : Arch :=
  match x.op with
  | .loadS r n signed => (x.elems.foldl (fun (a : Arch) e => a.setS r (extendBytes e.bytes signed)) a).fillSs (if n = 0 then [] else [r])
  | .loadV r n signed =>
    (x.elems.foldl (fun (a : Arch) e =>
      if n < 4 then a.setV r e.thread ((extendBytes e.bytes signed).setWidth 32) else a.setGroup r e.thread (wordsOf e.bytes)) a).fillVs
      ((List.range (groupSize n)).map (r + ·))
  | .loadL r =>
    (x.elems.foldl (fun (a : Arch) e => a.setGroup r e.thread (wordsOf e.bytes)) a).fillVs (if width = 16 then [r, r + 1] else [r])
  | .atomic _ r width scalar =>
    if scalar then
      (x.elems.foldl (fun (a : Arch) e =>
        if width < 2 then a.setS r (extendBytes e.bytes false)
        else (a.setS r (extendBytes (e.bytes.take 8) false)).setS (r + 1) (extendBytes (e.bytes.drop 8) false)) a).fillSs
        (if width = 2 then [r, r + 1] else [r])
    else
      (x.elems.foldl (fun (a : Arch) e => a.setGroup r e.thread (wordsOf e.bytes)) a).fillVs
        ((List.range (2 ^ width)).map (r + ·))
  | .dmrd r g =>
    (a.setS r (maskOf ((x.elems.filter (fun e => (natOfBytes e.bytes).testBit g)).map (·.thread)))).fillSs [r]
  | _ => a

/-- The vector registers a returning access fills. -/
def AccessOp.fills (width : Nat) : AccessOp → List Nat
  | .loadV r n _ => (List.range (groupSize n)).map (r + ·)
  | .loadL r => (List.range (if width = 16 then 2 else 1)).map (r + ·)
  | .atomic _ r w scalar => if scalar then [] else (List.range (2 ^ w)).map (r + ·)
  | _ => []

/-- The scalar registers a returning atomic fills. -/
def AccessOp.fillsS : AccessOp → List Nat
  | .atomic _ r width scalar => if scalar then (if width = 2 then [r, r + 1] else [r]) else []
  | _ => []

/-- The line whose data reach the core next: the first due of those that are on their way. -/
def Access.nextLine (x : Access) : Option Req :=
  ((x.reqs.filter (fun r => r.phase == .done && !r.here)).mergeSort (fun a b => decide ([a.due, a.line] ≤ [b.due, b.line]))).head?

/-- A line's data reach the core (R251, R319): the near cache takes the line, by normal or pin policy and where it has not been invalidated
since it was served. -/
def lineArrives (k : Nat) (x : Access) (r : Req) (s : State) : State :=
  let s := s.onAccess k x.seq (fun y => if y == x then { y with reqs := y.reqs.map (fun q => if q == r then { q with here := true } else q) } else y)
  if x.byp || !x.homed || r.byp || r.lost then s else allocateNear (s.wave k).core r.line s

/-- The access whose data come back under a number: it has not returned, and a line is on its way or all are there. Port stores have no
data to come. -/
def Wave.awaited (w : Wave) (id : Nat) : Option Access :=
  w.under.find? (fun x => x.seq == id && !x.returned && (x.nextLine.isSome || x.arrived) &&
    (match x.op with | .portStore _ => false | _ => true))

/-- An access whose lines have all arrived delivers (R148), and port stores of its word have their data. -/
def deliverAccess (k : Nat) (x : Access) (s : State) : State :=
  let w := (s.wave k).late x.seq (x.op.fills (s.wave k).width) s.free (x.deliver (s.wave k).width)
  let back := fun (y : Access) => if y.seq == x.seq && y.op == x.op then { y with returned := true } else y
  let w := { w with accesses := w.accesses.map back, aside := w.aside.map back }
  { s.setWave k ((w.fillPortStores x.seq).land x.path x.seq) with free := s.free + lateSpan }

/-- LOAD_DATA_RETURN (R148): data of a producer come back, or the data of the next line of an access or of an engine's fetch, which delivers
with the last of them (FENCEH's answer is the host's). (DEDUCED, log 41, safe; DEDUCED, log 155, unsafe.) -/
def execLoadDataReturn (wave : Nat) (id : Nat) (s : State) : Result :=
  let w := s.wave wave
  match w.producers.find? (fun p => p.seq == id && p.path != 6) with
  | some p =>
    let w := w.late id p.vregs s.free (fun a => ((p.writes.foldl Arch.write a).fillVs p.vregs).fillSs p.sregs)
    .next { s.setWave wave ({ w with producers := w.producers.filter (fun q => q.seq != id) }.land p.path id) with free := s.free + lateSpan }
  | none =>
    match w.awaited id with
    | none => .next s
    | some x =>
      let s := match x.nextLine with | some r => lineArrives wave x r s | none => s
      match ((s.wave wave).awaited id).filter (·.arrived) with
      | some x => .next (deliverAccess wave x s)
      | none => .next s

/-- The oldest access may retire (R123): a load returned, a write performed. -/
def Access.retirable (x : Access) : Bool := x.returned && (!x.op.writes || x.answered)

/-- ACCESS_RETIRE (R123): the oldest access retires; a poisoned sector it delivered traps 0x0b (R155, R309). A load is performed as it
retires, a write was before (R313). (DEDUCED, log 155, unsafe.) -/
def execAccessRetire (wave : Nat) (s : State) : Result :=
  match (s.wave wave).accesses with
  | [] => .next s
  | x :: _ =>
    if !x.retirable then .next s
    else
      let w := s.wave wave
      let s := if x.op.writes then s else noteAccess w.launch x.handle x.space.toNat false s
      match x.poisoned with
      | none => .next (retireOldest wave s)
      | some va =>
        if w.txn.isSome then .next (abortTxn wave 6#3 s)
        else .next (stopAfter wave x.seq x.snap (x.trap Cause.poison va) s)

end Sys2Proof.Machine
end

