-- ==== Sys2Proof/Machine/Txn.lean ====
section
/-! DEFINITION. The transaction words of major 0x26 (R118, R134 to R136, R209, R210). TEND locks the lines it writes at their homes, in
ascending address; once every lock is taken and every sharer has acknowledged, it performs the commit, which is one event, in one step. -/

namespace Sys2Proof.Machine

/-- TBEGIN (R134, R136, R209). Inside a transaction it traps 0x14 (R210). (DEDUCED, log 51, 62, unsafe.) -/
def execTbegin (d : BitVec 7) (a : BitVec 7) (ea : Bool) (s : State) : Result :=
  let u : Use := { srcS := [(a.toNat, ea)], dstS := [d.toNat] }
  issue u (fun s =>
    if s.w.speculative then .next (s.holdFor .nonspec)
    else if s.w.txn.isSome then .next (deliverTrap (trapHere s Cause.txn 0 0) s)
    else
      let sole := (s.sreg a.toNat).getLsbD 0
      let seq := s.w.seq
      let threads := s.w.a.exec
      let s := finish u (s.setS d.toNat 0)
      .next (s.onWave (fun w => { w with
        txn := some { threads := threads, sole := sole, sd := d.toNat, snap := w.a, seq := seq, reads := [], accs := [], log := 0, faulted := false, mode := s.w.mode }
        mode := if sole then 2#2 else w.mode }))) s

/-- Bytes a thread writes, and bytes it reads, in a transaction. -/
def Txn.writesOf (t : Txn) (thread : Nat) : List Nat :=
  t.accs.flatMap (fun x => x.elems.flatMap (fun e => if e.thread == thread then e.locs else []))
def Txn.readsOf (t : Txn) (thread : Nat) : List Nat := t.reads.flatMap (fun r => if r.1 == thread then r.2 else [])

/-- Two threads conflict (R135): one writes a byte the other reads or writes. (DEDUCED, log 49, safe.) -/
def Txn.conflict (t : Txn) (i j : Nat) : Bool :=
  (t.writesOf i).any (fun l => (t.writesOf j).contains l || (t.readsOf j).contains l) ||
    (t.writesOf j).any (fun l => (t.readsOf i).contains l)

/-- Threads of the transaction that lose a wave conflict: those that conflict with a lower one. (DEDUCED, log 49, safe.) -/
def Txn.losers (t : Txn) (width : Nat) : W64 :=
  let ts := threadsOf t.threads width
  maskOf (ts.filter (fun j => ts.any (fun i => i < j && t.conflict i j)))

/-- The accesses of a commit: the parts of threads that do not lose. -/
def Txn.winning (t : Txn) (losers : W64) : List Access :=
  t.accs.map (fun x => { x with elems := x.elems.filter (fun e => !(e.thread < 64 && losers.getLsbD e.thread)) })

/-- A committed access performed (R119, R135): its copies of pages first (R274, R312), then memory, its registers and its counter; with
it the poison its computation consumes (R309). `none` where a copy has no room. (DEDUCED, log 49, safe.) -/
def commitAccess (x : Access) (s : State) : Option (State × Option W64) :=
  match beforeWrite s.w.launch x.handle x.space.toNat (wroteLocs x.op (performElems x.op s.mem x.elems).2) s with
  | none => none
  | some s =>
    let s := checkLocs (readFirst x (x.elems.flatMap (·.locs))) s
    let bad := consumedAt s x x.elems
    let (s, elems) := applyWrite s.w x x.elems s
    let x := { x with elems := elems }
    let s := { s.onWave (fun w => (w.late x.seq (x.op.fills w.width) s.free (x.deliver w.width)).land x.path x.seq) with
      free := s.free + lateSpan }
    some (s, bad)

/-- Every access of a commit performed, in order: one event (R118). (DEDUCED, log 49, safe.) -/
def commitAll : List Access → State → Option (State × Option W64)
  | [], s => some (s, none)
  | x :: xs, s =>
    match commitAccess x s with
    | none => none
    | some (s, bad) => (commitAll xs s).map (fun r => (r.1, bad.or r.2))

/-! ### The locks of a commit (R135, R302) -/

/-- The waves of the committing wave's core, itself apart, lose a line that it locks; steps its engines fetched from the line are
fetched again. (DEDUCED, log 41, 42, safe.) -/
def othersLose (line : Nat) (s : State) : State :=
  let core := s.w.core
  let me := s.focus
  let s := s.onCore core (fun c => { c with near := c.near.filter (· != line) })
  let s := s.mapWaves (fun _ w => if w.core == core then w.forget line false else w)
  s.allWaves.foldl (fun (s : State) e =>
    if e.1 != me && (s.wave e.1).core == core && (s.wave e.1).loses line then rollback e.1 true s else s) s

/-- A home locks a line for the wave in focus and invalidates its sharers. (DESIGN CHOICE, log 159, safe.) -/
def lockLine (line : Nat) (s : State) : State :=
  let home := homeWhorl s line
  let others := (sharersOf s (some s.focus) home line).filter (· != s.w.core)
  let s := s.onWhorl home (fun h => { h with
    locked := ins h.locked line s.focus
    owning := h.owning.erase line
    busy := if others.isEmpty then h.busy else ins h.busy line others })
  othersLose line (sendInvalidations home line others s)

/-- Another wave of this core holds the Whorl's hold and has read the line under it (R132). -/
def heldHere (s : State) (line : Nat) : Bool :=
  match (s.whorl (homeWhorl s line)).hold with
  | some (k, _) => k != s.focus && (s.wave k).core == s.w.core && (s.wave k).reads line
  | none => false

/-- The lines of a commit locked one after another in ascending address, up to the first that is in use or that the home does not own yet
(R119, R135); whether all are. (DESIGN CHOICE, log 159, safe.) -/
def lockLines : List Nat → State → State × Bool
  | [], s => (s, true)
  | l :: ls, s =>
    let h := s.whorl (homeWhorl s l)
    if find h.locked l == some s.focus then lockLines ls s
    else if h.inUse l || unowned s l || heldHere s l then (askOwning [l] s, false)
    else lockLines ls (lockLine l s)

/-- Lines of a commit, ascending. -/
def commitLines (xs : List Access) : List Nat :=
  ((xs.flatMap (fun x => x.elems.flatMap (fun e => e.locs.map lineOf))).eraseDups).mergeSort (· ≤ ·)

/-- The locks of a commit are gone, its lines without a sharer. -/
def unlockCommit (lines : List Nat) (s : State) : State :=
  lines.foldl (fun (s : State) l => s.onWhorl (homeWhorl s l) (fun h =>
    setDir l ⟨false, []⟩ { h with locked := erase h.locked l, snooped := h.snooped.erase l })) s

/-- The registers after a commit that some threads lost: theirs as at TBEGIN, with the wave-level state of the checkpoint.
(DEDUCED, log 50, unsafe.) -/
def restoreLosers (t : Txn) (losers : W64) (w : Wave) : Arch :=
  let ts := threadsOf losers w.width
  let now := w.a
  let mix := fun (cur old : W64) => (cur &&& ~~~losers) ||| (old &&& losers)
  let v := (List.range w.vregs).foldl (fun (a : Arch) r => a.setVs r (t.snap.getV r) ts) now
  ({ t.snap with
      v := v.v, emptyV := now.emptyV, emptyS := now.emptyS, exec := losers
      flNv := mix now.flNv t.snap.flNv, flDz := mix now.flDz t.snap.flDz, flOf := mix now.flOf t.snap.flOf
      flUf := mix now.flUf t.snap.flUf, flNx := mix now.flNx t.snap.flNx }).setS t.sd losers

/-- What follows a commit: the counts cleared and the checkpoint released; with losers the wave resumes after TBEGIN.
(DEDUCED, log 50, unsafe.) -/
def committed (t : Txn) (losers : W64) (s : State) : State :=
  let s := s.onWave (fun w => { w with txn := none, txAborts := 0 })
  if losers = 0 then releaseCheckpoint s.focus (finish {} s)
  else
    releaseCheckpoint s.focus (s.onWave (fun w => { w with
      a := restoreLosers t losers w, txCode := 1, txAborts := 1, seq := w.seq + 1, pairOk := 0 }))

/-- Copy B at the end of a transaction whose returning atomics copy A alone performs (R210, R318): it waits for copy A, takes the registers
that its atomics filled, and aborts where copy A aborted. (DEDUCED, log 63, safe.) -/
def followCommit (t : Txn) (losers : W64) (xs : List Access) (s : State) : State :=
  match s.w.pair with
  | none => s
  | some (k, _) =>
    let other := s.wave k
    if other.pairOk != 0#2 then s.holdFor .engine
    else if other.a.pos.pc == t.snap.pos.pc && other.txCode != 1#3 then abortTxn s.focus other.txCode s
    else
      committed t losers (xs.foldl (fun (s : State) x =>
        let took := fun (a : Arch) =>
          let a := (x.op.fills s.w.width).foldl (fun (a : Arch) r => a.setVs r (other.a.getV r) (List.range s.w.width)) a
          (x.op.fillsS.foldl (fun (a : Arch) r => a.setS r (other.a.getS r)) a).fillVs (x.op.fills s.w.width) |>.fillSs x.op.fillsS
        { s.onWave (fun w => (w.late x.seq (x.op.fills w.width) s.free took).land x.path x.seq) with free := s.free + lateSpan }) s)

/-- TEND (R135, R209): conflicts inside the wave, then the locks at the homes, then the commit. A sole transaction asks for the holds
of the Whorls it writes to (R136); a paired launch logs its writes (R317), or, with a returning atomic among them, meets its other copy first
(R318); poison that an atomic or a reduction consumes is a trap inside the transaction (R210).
(DEDUCED, log 49, safe; DESIGN CHOICE, log 159, safe.) -/
def execTend (s : State) : Result :=
  issue {} (fun s =>
    match s.w.txn with
    | none => raise Cause.txn 0 0 s
    | some t =>
      let losers := t.losers s.w.width
      let xs := t.winning losers
      if s.w.speculative then .next (s.holdFor .nonspec)
      else if guardHolds s s.w && xs.any (fun x => match s.launchOf s.w with | some l => !l.inSnapset x.handle | none => false) then
        .next (s.holdFor .guard)
      else if s.w.pair.isSome && xs.any (·.op.isAtomic) && s.w.pairOk == 0#2 then .next (s.holdFor .pair)
      else if s.w.pairOk == 2#2 && xs.any (·.op.isAtomic) then .next (followCommit t losers xs s)
      else if s.w.pair.isSome && !xs.any (·.op.isAtomic) then
        .next (committed t losers (xs.foldl (fun (s : State) x => s.onWave (fun w =>
          { w with pairLog := w.pairLog ++ [x], signature := signWrite w.signature x }.land x.path x.seq)) s))
      else
        let lines := commitLines xs
        let s := if t.sole then lines.foldl (fun s l => grantHold (homeWhorl s l) s) s else s
        match lockLines lines s with
        | (s, false) => .next (s.holdFor .engine)
        | (s, true) =>
          if lines.any (fun l => (s.whorl (homeWhorl s l)).busy.any (fun b => b.1 == l)) then .next (s.holdFor .engine)
          else
            match commitAll xs s with
            | none => .next ((unlockLines s.focus s).holdFor .guard)
            | some (_, some _) => .next (abortTxn s.focus 6#3 s)
            | some (s', none) => .next (committed t losers (unlockCommit lines s'))) s

/-- TABORT (R209): code 4, with the user code; with none open it traps 0x14. -/
def execTabort (a : BitVec 7) (ea : Bool) (s : State) : Result :=
  issue { srcS := [(a.toNat, ea)] } (fun s =>
    if s.w.txn.isNone then raise Cause.txn 0 0 s
    else
      let user := (s.sreg a.toNat).setWidth 8
      .next ((abortTxn s.focus 4#3 s).onWave (fun w => { w with txUser := user }))) s

/-- TTEST (R209). -/
def execTtest (d : BitVec 7) (s : State) : Result :=
  run { dstS := [d.toNat] } (fun s => s.setS d.toNat (match s.w.txn with | some t => t.threads | none => 0)) s

end Sys2Proof.Machine
end

