-- ==== Sys2Proof/Machine/Engine.lean ====
section
/-! DEFINITION. How an engine reaches memory: the locations and the checks of a whole range through a handle, and a write performed
at its homes in one step (R84, R100, R109, R119, R128, R212, R309). -/

namespace Sys2Proof.Machine

/-- What an engine's range is found to be. -/
inductive Ranged where
  | ok (locs : List Nat)
  | trap (cause : BitVec 8)
  | fault (faults : List (Nat × W64 × BitVec 8 × Nat × Bool))
  | waiting
  deriving DecidableEq, Repr

/-- The locations of `len` bytes from an offset on, in pieces that stay within 128-byte lines of the offset. -/
def rangeLocs (w : Wave) (cache : Cache) (handle : Nat) (kind : Kind) : Nat → Nat → Nat → State → State × Ranged
  | 0, _, _, s => (s, .ok [])
  | fuel + 1, off, len, s =>
    if len = 0 then (s, .ok [])
    else
      let n := min len (128 - off % 128)
      match checkAccess { w with txn := none } cache handle kind n 1 [(64, off)] s with
      | (s, .trap cause _) => (s, .trap cause)
      | (s, .waitHost) => (s, .waiting)
      | (s, .fault fs) =>
        match rangeLocs w cache handle kind fuel (off + n) (len - n) s with
        | (s, .fault more) => (s, .fault (fs ++ more))
        | (s, _) => (s, .fault fs)
      | (s, .ok _ places) =>
        match rangeLocs w cache handle kind fuel (off + n) (len - n) s with
        | (s, .ok locs) => (s, .ok (places.flatMap (·.locs) ++ locs))
        | (s, r) => (s, r)

/-- The locations of a range. -/
def locsOf (w : Wave) (cache : Cache) (handle : Nat) (kind : Kind) (off len : Nat) (s : State) : State × Ranged :=
  rangeLocs w cache handle kind (len / 128 + 2) off len s

/-! ### The checks of R84 over whole ranges -/

/-- A range of bytes that an engine's operation names: handle, kind of access, offset and length. -/
structure Range where
  handle : Nat
  kind   : Kind
  off    : Nat
  len    : Nat

/-- What the checks of some ranges find: the state with what they translated, a cause with the access and the address its record will
show, the translations that fail, or an answer of the host that is awaited. -/
inductive RangeCheck where
  | ok (s : State)
  | trap (cause : BitVec 8) (access : BitVec 2) (va : W64)
  | fault (s : State) (access : BitVec 2) (faults : List (Nat × W64 × BitVec 8 × Nat × Bool))
  | waiting (s : State)

/-- The first cause of a list of checks. -/
def firstCause : List (Option (BitVec 8)) → Option (BitVec 8)
  | [] => none
  | none :: cs => firstCause cs
  | some c :: _ => some c

/-- A handle that its wave may name (checks of R83 and R100), and its permission for a kind of access. -/
def handleCause (w : Wave) (handle : Nat) : Option (BitVec 8) :=
  match w.env.handle handle with
  | none => some Cause.handle
  | some h => if h.space = 2 ∧ w.twin = false then some Cause.handle else none
def permitCause (w : Wave) (handle : Nat) (kind : Kind) : Option (BitVec 8) :=
  match w.env.handle handle with
  | none => none
  | some h => if h.permits kind then none else some Cause.permission

/-- The descriptors behind the window handles among some handles, and the translations of theirs that fail. -/
def windowsOf (w : Wave) (cache : Cache) : List Nat → State →
    State × List (Nat × BitVec 512) × List (Nat × W64 × BitVec 8 × Nat × Bool)
  | [], s => (s, [], [])
  | h :: hs, s =>
    match (w.env.handle h).filter (fun hd => hd.space == 6) with
    | none => windowsOf w cache hs s
    | some hd =>
      match translateBytes s cache w.env.tag hd.base 64 Access.read with
      | (s, .inl locs) =>
        let (s, ds, fs) := windowsOf w cache hs s
        (s, (h, slabBits s locs) :: ds,
          match poisonVa s (fun _ _ => false) [⟨64, hd.base, locs, [], [], [], []⟩] with
          | some va => (64, va, Cause.poison, 0, false) :: fs
          | none => fs)
      | (s, .inr (va, c, l, g)) =>
        let (s, ds, fs) := windowsOf w cache hs s
        (s, ds, (64, va, c, l, g) :: fs)

/-- A range within its handle's limit, its scratch or its slab window (check 4 of R84): the cause where it is not. -/
def rangeCause (w : Wave) (ds : List (Nat × BitVec 512)) (r : Range) : Option (BitVec 8) :=
  match w.env.handle r.handle with
  | none => none
  | some h =>
    if r.len = 0 then none
    else if h.space = 1 ∨ h.space = 2 then
      if scratchBad w h.space r.off r.len && !(h.space == 2 && w.scratchBytes == 2 ^ 18 && decide (r.off + r.len ≤ 2 ^ 19)) then
        some Cause.scratch
      else none
    else if h.space = 6 then
      match ds.find? (fun d => d.1 == r.handle) with
      | none => none
      | some d =>
        if (List.range (r.len / 128 + 2)).all (fun i =>
            !(decide (i * 128 < r.len + r.off % 128)) || slabInRange h (slabSample h.base d.2) (r.off / 128 * 128 + 128 * i)) then none
        else some Cause.bounds
    else if h.limit < r.off + r.len - 1 then some Cause.bounds
    else none

/-- The address a range begins at, where its space has addresses. -/
def Range.va (w : Wave) (r : Range) : W64 := failingVa w r.handle [(64, r.off)] 0

/-- Every page of some ranges translated (check 5 of R84). -/
def translateRanges (w : Wave) (cache : Cache) : List Range → State → RangeCheck
  | [], s => .ok s
  | r :: rs, s =>
    match locsOf w cache r.handle r.kind r.off r.len s with
    | (s, .ok _) => translateRanges w cache rs s
    | (_, .trap c) => .trap c r.kind.access (r.va w)
    | (s, .waiting) => .waiting s
    | (s, .fault fs) => .fault s r.kind.access fs

/-- THE CHECKS OF R84 over some ranges, each kind of check over all of them before the next: handles and the descriptors of windows
(with `first`, checks of the operation's own that belong there), permissions, alignment (`mid`), limits, and, with `translated`,
translation. (DEDUCED, log 82, 91, unsafe.) -/
def checkRanges (w : Wave) (cache : Cache) (permit : Nat → Kind → Option (BitVec 8)) (first mid : List (Option (BitVec 8)))
    (translated : Bool) (rs : List Range) (s : State) : RangeCheck :=
  let (s, ds, fs) := windowsOf w cache ((rs.map (·.handle)).eraseDups) s
  let reserved := fun (h : Nat) => if ds.any (fun d => d.1 == h && slabReserved d.2) then some Cause.handle else none
  match firstCause (first ++ rs.map (fun r => (handleCause w r.handle).or (reserved r.handle))) with
  | some c => .trap c 0 0
  | none =>
    match rs.find? (fun r => (permit r.handle r.kind).isSome) with
    | some r => .trap ((permit r.handle r.kind).getD 0) r.kind.access (r.va w)
    | none =>
      match firstCause mid with
      | some c => .trap c 0 0
      | none =>
        if !fs.isEmpty then .fault s Access.read fs
        else
          match rs.find? (fun r => (rangeCause w ds r).isSome) with
          | some r => .trap ((rangeCause w ds r).getD 0) r.kind.access (r.va w)
          | none => if translated then translateRanges w cache rs s else .ok s

/-- What the checks of a word's ranges come to: it goes on, traps, stalls on its pages, or waits for the host. -/
def withRanges (r : RangeCheck) (k : State → Result) (s : State) : Result :=
  match r with
  | .ok s => k s
  | .trap cause access va => raiseAccess cause 0 access va s
  | .fault s access fs => .next (stallOrTrap 0 access fs s)
  | .waiting s => .next (s.holdFor .engine)

/-- A guarded command of a wave may start (R128): no access issued before it is unretired. -/
def guardOpen (s : State) (wave seq : Nat) : Bool := (s.wave wave).accesses.all (fun x => seq < x.seq)

/-- A WRITE AN ENGINE MAKES, and whether it is made (R119). In space 4 it enters the egress queue; elsewhere it is performed at its homes,
once none of its lines is in use, the home owns them, and the snapshots it needs have room. (DEDUCED, log 48, safe.) -/
def engineWrite (launch handle space : Nat) (owner : Option (BitVec 8)) (cells : List (Nat × Byte)) (s : State) : State × Bool :=
  let locs := cells.map (·.1)
  if space = 4 then
    (noteAccess launch handle space true { s with egress := s.egress ++ (runsOf cells).map (fun r => (⟨0, 0, r.1, r.2⟩ : Egress)) }, true)
  else if !homeFree s locs then (askOwning ((locs.map lineOf).eraseDups) s, false)
  else
    match beforeWrite launch handle space locs s with
    | none => (s, false)
    | some s => (noteAccess launch handle space true (homeWrite owner cells s), true)

/-- Memory as an engine reads it through a handle: space 4 follows the writes on their way to the host (R119, R120). -/
def engineMem (s : State) (env : Env) (handle : Nat) : Memory :=
  if (env.handle handle).any (fun h => h.space == 4) then drained s else s.mem

/-- Bytes an engine reads through a handle. -/
def engineRead (s : State) (env : Env) (handle : Nat) (locs : List Nat) : List Byte := readLocs (engineMem s env handle) locs

/-- Words, 64 bits each, from bytes. -/
def doublesOf (bs : List Byte) : List W64 :=
  (List.range ((bs.length + 7) / 8)).map (fun i => BitVec.ofNat 64 (natOfBytes ((bs.drop (8 * i)).take 8)))

/-- An engine operation of a wave ends its launch with a cause (R212, R227, R233, R238); `level` and `large` are those of the page table entry
that fails, if one does (Table 18.4). -/
def engineStop (wave launch : Nat) (agent : BitVec 4) (access : BitVec 2) (cause : BitVec 8) (va addr : W64) (s : State)
    (level : Nat := 0) (large : Bool := false) : State :=
  stopLaunch launch ⟨cause, agent, access, va, addr, wave, level, large⟩ s

/-- Complete an operation of a wave on a path. -/
def State.landFor (k path seq : Nat) (s : State) : State := s.setWave k ((s.wave k).land path seq)

end Sys2Proof.Machine
end

