-- ==== Sys2Proof/Machine/Launches.lean ====
section
/-! DEFINITION. The life of a launch after its first team (R39, R268, R270, R271, R273, R274, R341): waves and teams leaving,
the completion record, dependences, guard slots, and the host's event ring (R333). -/

namespace Sys2Proof.Machine

/-! ### Terminating records -/

/-- A terminating record, passed on to the host as an event of kind 1 (R287, R288, R333). (DEDUCED, log 112, unsafe.) -/
def postTerminating (tag : BitVec 8) (words : List W64) (va : W64) (access : BitVec 2) (s : State) : State :=
  match postRecord tag words va access false [] [] s with
  | (s, none) => s
  | (s, some _) =>
    if (s.context tag).active then postEvent 1 tag words s else s

/-! ### Waves and teams leaving -/

/-- A round leaves its sequence: the entry is no longer busy (R238). -/
def endRound (op : CarderOp) (s : State) : State :=
  let slot := seqSlot op.seqId
  setSeqWord slot 0 (seqWord s slot 0 &&& ~~~(0x4000000000000000#64)) s

/-- The command-processor, engine and unit entries of a wave discarded; a round of it that had started leaves its sequence.
(DEDUCED, log 111, unsafe.) -/
def discardCommands (k : Nat) (s : State) : State :=
  let s := ((s.carders.flatMap (·.2)).filter (fun x => x.wave == k && !x.entry.isEmpty)).foldl (fun s op => endRound op s) s
  { s with
    cores := mapEntries (fun _ c => { c with
      spindle := c.spindle.filter (fun x => x.wave != k)
      trans := mapEntries (fun _ q => q.filter (fun x => x.wave != k)) c.trans }) s.cores
    carders := mapEntries (fun _ q => q.filter (fun x => x.wave != k)) s.carders
    distaff := s.distaff.filter (fun x => x.wave != k)
    tlbinvs := s.tlbinvs.filter (fun x => x.wave != k) }

/-- A wave's slot falls vacant, with its issue slot. -/
def vacate (k : Nat) (s : State) : State :=
  let w := s.wave k
  let s := unlockLines k (releaseHolds k s)
  let s := { s with holders := if w.station = Station.vacant ∨ w.station = Station.saved then s.holders else freeSlots w s.holders }
  s.setWave k Wave.vacant

/-- A wave stopped at once without saving (R274, R315, R323). (DEDUCED, log 111, unsafe.) -/
def dropWave (k : Nat) (s : State) : State := vacate k (discardCommands k s)

/-- The first location of a team's scratch in a column. -/
def scratchBase (team column : Nat) : Nat := scratchLoc team column 0

/-- A team's scratch pins and tiles leave the home Whorl, dirty sectors included, without write-back, and its backing area is
released: the next team starts from zero (R39, R101). (DESIGN CHOICE, log 13, safe.) -/
def releaseScratch (team : Nat) (s : State) : State :=
  let mine := fun (t : Tile) => regionOf (t.tile * 4096) / 2 == 2 ^ 45 + team
  let core := match find s.teams team with | some t => t.core | none => 0
  let s := s.onWhorl (core / 24) (fun h =>
    { h.dropTiles mine with fills := h.fills.filter (fun f => regionOf (f.sector * 64) / 2 != 2 ^ 45 + team) })
  { s with mem := setCells s.mem (scratchBase team 0) (2 ^ 65) []
           poison := s.poison.filter (fun x => regionOf (x * 32) / 2 != 2 ^ 45 + team)
           damage := s.damage.filter (fun x => regionOf (x * 32) / 2 != 2 ^ 45 + team) }

/-- The units of a context's save area allocated to the blocks of its teams (R295). -/
def usedUnits (s : State) (tag : BitVec 8) : List Nat :=
  s.teams.flatMap (fun e =>
    if e.2.block.2 ≠ 0 && (find s.launches e.2.launch).any (fun l => l.env.tag == tag) then
      (List.range e.2.block.2).map (e.2.block.1 + ·)
    else [])

/-- The allocation bitmap and count of a save area written through (R295). -/
def writeUnits (tag : BitVec 8) (touched : List Nat) (s : State) : State :=
  let area := (s.context tag).word 4
  let used := usedUnits s tag
  let s := storeFor tag (area + 8) [BitVec.ofNat 64 used.length] s
  ((touched.map (· / 64)).eraseDups).foldl (fun (s : State) g =>
    let bits : W64 := ((List.range 64).filter (fun i => used.contains (64 * g + i))).foldl (fun (m : W64) i => m ||| (1#64 <<< i)) 0
    storeFor tag (area + BitVec.ofNat 64 (0x1000 + 8 * g)) [bits] s) s

/-- A team's block freed (R295). -/
def freeBlock (team : Nat) (s : State) : State :=
  match find s.teams team with
  | none => s
  | some t =>
    if t.block.2 = 0 then s
    else
      let units := (List.range t.block.2).map (t.block.1 + ·)
      let s := { s with teams := change (fun t => { t with block := (0, 0), sealed := false }) s.teams team }
      match find s.launches t.launch with
      | some l => writeUnits l.env.tag units s
      | none => s

/-- A team leaves: its block, scratch and barriers return (R39). -/
def dropTeam (team : Nat) (s : State) : State :=
  let s := releaseScratch team (freeBlock team s)
  { s with teams := erase s.teams team }

/-- Every wave and team of a launch stopped at once, without saving. (DEDUCED, log 111, unsafe.) -/
def killLaunch (k : Nat) (s : State) : State :=
  let keys := (s.allWaves.filter (fun e => e.2.launch == k && e.2.station != .vacant)).map (·.1)
  let teams := (s.teams.filter (fun e => e.2.launch == k)).map (·.1)
  teams.foldl (fun s t => dropTeam t s) (keys.foldl (fun s w => dropWave w s) s)

/-! ### Ending a launch -/

/-- The launch's record posts no more: it leaves the launch table. -/
def forget (k : Nat) (s : State) : State := { s with launches := erase s.launches k }

/-- A dropped completion record (R341): a fault record of agent 7 with cause 0x07, whose va holds cpl. -/
def dropCompletion (k : Nat) (s : State) : State :=
  match find s.launches k with
  | none => s
  | some l =>
    let cpl := l.word 17
    let w0 := faultWord0 Cause.permission 7 0 false false l.env.tag l.env.launchid
    forget k (postTerminating l.env.tag [w0, cpl &&& 0x000fffffffffffff#64, 0, 0] cpl 0 s)

/-- The completion record of an ended launch (R268, R341): written when its address has a translation, waiting on a posted
record where the page is not present, dropped where the translation fails otherwise or the context is inactive. -/
def writeCompletion (k : Nat) (s : State) : State :=
  match find s.launches k with
  | none => s
  | some l =>
    let tag := l.env.tag
    let cpl := l.word 17
    if cpl = 0 || !(s.context tag).active then forget k s
    else
      match walk s (s.context tag) cpl Access.write with
      | .ok _ _ _ =>
        let s := { s with nanotime := s.nanotime + (Config.nanoseconds s.free).setWidth 64, free := s.free + 1 }
        let w0 : W64 := l.team1 ++ 0#14 ++ BitVec.ofNat 2 l.replays ++ l.cause ++ BitVec.ofNat 8 l.status
        forget k (storeFor tag cpl [w0, s.nanotime] s)
      | .fail cause level large =>
        if cause = Cause.notPresent then
          match openRecord (s.context tag) (cpl.toNat / 2 ^ 16) 1 with
          | some _ => s
          | none =>
            let w0 := faultWord0 cause 7 Access.write large true tag l.env.launchid
            let w1 : W64 := 0#10 ++ BitVec.ofNat 2 level ++ cpl.setWidth 52
            (postRecord tag [w0, w1, 0, 0] cpl Access.write true [] [] s).1
        else dropCompletion k s

/-- What waits in a context's memory tried again (R341): stores, and the completion records of ended launches. -/
def settleWrites (tag : BitVec 8) (s : State) : State :=
  let ended := (s.launches.filter (fun e => e.2.state == .ended && e.2.env.tag == tag)).map (·.1)
  ended.foldl (fun s k => writeCompletion k s) (flushStores tag [] s)

/-- No record holds a read of a launch record any longer. -/
def forgetReader (tag : BitVec 8) (lrec : W64) (s : State) : State :=
  { s with contexts := change (fun c => { c with
      faults := c.faults.map (fun f => { f with readers := f.readers.filter (· != lrec) }) }) s.contexts tag.toNat }

/-- Launches of a context that wait on a launch id (R271). -/
def waitingOn (s : State) (tag : BitVec 8) (id : W32) : List Nat :=
  (s.launches.filter (fun e => e.2.env.tag == tag && e.2.state != .ended &&
    e.2.deps.any (fun d => d.kind == 1#2 && d.id == id && !d.met))).map (·.1)

/-- A launch has every dependence it needs before its teams may be placed (R270): kind 3 lets it run at once. -/
def Launch.free (l : Launch) : Bool := l.deps.all (fun d => d.kind == 0#2 || d.kind == 3#2 || d.met)

/-- A waiting launch whose dependences are met becomes eligible (Table 17.7). -/
def makeEligible (k : Nat) (s : State) : State :=
  match find s.launches k with
  | none => s
  | some l =>
    if l.state == .waiting && l.free then
      { s with launches := change (fun l => { l with state := .eligible, stamp := s.cycle, waited := 0, since := s.nanotime, reserves := false }) s.launches k
               agenda := s.agenda ++ [Instr.teamPlacement] }
    else s

/-- Dependences of a launch that a test selects become met, and the launch eligible if that was the last. -/
def meetDeps (test : Dep → Bool) (k : Nat) (s : State) : State :=
  makeEligible k { s with launches := change (fun l => { l with deps := l.deps.map (fun d => if test d then { d with met := true } else d) }) s.launches k }

/-- Launches end, each with its status, and after them those waiting on them with status 5: what a guard decides comes before what a
predecessor does (R270, R271, R274). -/
def endAll : Nat → List (Nat × Nat × BitVec 8) → State → State
  | 0, _, s => s
  | _, [], s => s
  | fuel + 1, (k, status, cause) :: rest, s =>
    match find s.launches k with
    | none => endAll fuel rest s
    | some l =>
      if l.state == .ended then endAll fuel rest s
      else
        let tag := l.env.tag
        let waiting := waitingOn s tag l.env.launchid
        let s := forgetReader tag l.env.lrec (killLaunch k s)
        let s := { s with launches := change (fun l => { l with state := .ended, status := status, cause := cause, snaps := [] }) s.launches k }
        let s := writeCompletion k s
        if status = 1 then endAll fuel rest (waiting.foldl (fun s w => meetDeps (fun d => d.kind == 1#2 && d.id == l.env.launchid) w s) s)
        else endAll fuel (rest ++ waiting.map (fun w => (w, 5, 0))) s

/-- Launches end in one event, each with a status of Table 17.6. A launch has at most four dependences, so it is named at most four times
by those before it. -/
def endLaunches (ends : List (Nat × Nat × BitVec 8)) (s : State) : State :=
  let s := endAll (5 * s.launches.length + ends.length) ends s
  { s with agenda := s.agenda ++ [Instr.teamPlacement] }

/-- A launch ends with a status of Table 17.6. -/
def endLaunch (k status : Nat) (cause : BitVec 8) (s : State) : State := endLaunches [(k, status, cause)] s

/-! ### Finishing -/

/-- A launch of the Distaff's, and the last of its step's chain (R278). -/
def Launch.chained (l : Launch) : Bool := l.env.launchid.msb && l.level == 15
def lastOfChain (s : State) (l : Launch) : Bool :=
  let c := s.context l.env.tag
  (c.word 0).getLsbD 61 && l.chained && l.env.launchid.toNat % 8 == ((c.word 16).extractLsb' 0 3).toNat

/-- A finished launch meets early the dependences of launches under the same run-ahead guard (R271). -/
def meetEarly (l : Launch) (s : State) : State :=
  (waitingOn s l.env.tag l.env.launchid).foldl (fun (s : State) w =>
    match find s.launches w with
    | none => s
    | some d =>
      if l.deps.any (fun a => a.kind == 3#2 && d.deps.any (fun b => b.kind == 3#2 && b.slot == a.slot && b.id == a.id && b.sense == a.sense)) then
        meetDeps (fun x => x.kind == 1#2 && x.id == l.env.launchid) w s
      else s) s

/-- A launch commits (Table 17.7): status 1, and the Distaff's step with its last launch (R278). -/
def commitLaunch (k : Nat) (s : State) : State :=
  match find s.launches k with
  | none => s
  | some l =>
    let last := lastOfChain s l
    let s := endLaunch k 1 0 s
    if last then
      { s with agenda := s.agenda ++ [Instr.stepCommit l.env.tag]
               contexts := change (fun c => { c with distaff := { c.distaff with done := true } }) s.contexts l.env.tag.toNat }
    else s

/-- The last team of a launch has retired: finished, and committed unless its guard is unresolved (Table 17.7). -/
def finishLaunch (k : Nat) (s : State) : State :=
  match find s.launches k with
  | none => s
  | some l =>
    let s := { s with launches := change (fun l => { l with state := .finished }) s.launches k }
    let s := if lastOfChain s l then { s with agenda := s.agenda ++ [Instr.distaffStep l.env.tag] } else s
    if l.runAhead then meetEarly l s else commitLaunch k s

/-- How many teams a launch has. -/
def Launch.teamCount (l : Launch) : Nat := ((l.word 1).extractLsb' 0 32).toNat

/-- A team's last wave has retired: it leaves, and its launch may be finished (R39, R270, R317). -/
def retireTeam (team : Nat) (s : State) : State :=
  match find s.teams team with
  | none => s
  | some t =>
    let s := dropTeam team s
    let s := { s with agenda := s.agenda ++ [Instr.teamPlacement] }
    if t.partner.any (fun p => (find s.teams p).isSome) then s
    else
      let s := { s with launches := change (fun l => { l with retired := l.retired + 1 }) s.launches t.launch }
      match find s.launches t.launch with
      | some l => if l.retired = l.teamCount then finishLaunch t.launch s else s
      | none => s

/-! ### Guard slots -/

/-- A guard slot's word written through (R273). -/
def writeGuard (tag slot : BitVec 8) (g : Guard) (s : State) : State :=
  let s := { s with contexts := change (fun c => { c with guards := put ⟨0, 0⟩ c.guards slot.toNat g }) s.contexts tag.toNat }
  storeFor tag ((s.context tag).word 2 + BitVec.ofNat 64 (8 * slot.toNat)) [g.gen ++ 0#30 ++ g.state] s

def State.guard (s : State) (tag slot : BitVec 8) : Guard := look ⟨0, 0⟩ (s.context tag).guards slot.toNat

/-- A dependence on a guard of a generation that is still open. -/
def Dep.onGuard (slot : BitVec 8) (gen : W32) (d : Dep) : Bool := d.kind.getLsbD 1 && d.slot == slot && d.id == gen && !d.met

/-- A launch whose dependence on a guard resolves to its sense (R274): it may start, or commit with its snapshots released. -/
def sensedGuard (slot : BitVec 8) (gen : W32) (k : Nat) (s : State) : State :=
  match (find s.launches k).bind (fun l => l.deps.find? (Dep.onGuard slot gen)) with
  | none => s
  | some d =>
    let s := meetDeps (Dep.onGuard slot gen) k s
    match find s.launches k with
    | none => s
    | some l =>
      let s := if d.kind = 3#2 && !l.isProtected then
        { s with launches := change (fun l => { l with snaps := [] }) s.launches k } else s
      if l.state == .finished && !l.runAhead then commitLaunch k s else s

/-- A guard resolves for the launches of a context (R270, R274): those it goes against stop, their pages are put back and they end with
status 4 in one event, ahead of what becomes of their dependents; then the others go on. -/
def settleGuard (slot : BitVec 8) (gen : W32) (value : Bool) (ks : List Nat) (s : State) : State :=
  let against := ks.filter (fun k => (find s.launches k).any (fun l => l.deps.any (fun d => d.onGuard slot gen && d.sense != value)))
  let s := restoreSnapshots against (against.foldl (fun s k => killLaunch k s) s)
  let s := if against.isEmpty then s else endLaunches (against.map (fun k => (k, 4, 0))) s
  (ks.filter (fun k => !against.contains k)).foldl (fun s k => sensedGuard slot gen k s) s

/-- Launches of a context, oldest record first. -/
def launchesOf (s : State) (tag : BitVec 8) : List Nat := (s.launches.filter (fun e => e.2.env.tag == tag && e.2.state != .ended)).map (·.1)

/-- A resolution of a pending slot (R273): GRDSET, the doorbell, or the Distaff's stop test. -/
def resolveGuard (tag slot : BitVec 8) (value : Bool) (s : State) : State :=
  let g := s.guard tag slot
  if g.state != 1#2 then s
  else
    let s := writeGuard tag slot { g with state := if value then 2#2 else 3#2 } s
    settleGuard slot g.gen value (launchesOf s tag) s

/-- Arming (R273): pending with the next generation; dependences outstanding on the slot resolve false. -/
def armGuard (tag slot : BitVec 8) (s : State) : State :=
  let g := s.guard tag slot
  if g.state == 1#2 then s
  else
    writeGuard tag slot ⟨1, g.gen + 1⟩ (settleGuard slot g.gen false (launchesOf s tag) s)

end Sys2Proof.Machine
end

