-- ==== Sys2Proof/Machine/Spindle.lean ====
section
/-! DEFINITION. Spindle commands (R110, R211 to R214): their checks at issue, the core's vertical queue, and what a command
does once it starts. A copy runs in one step once every page it needs is translated; a slab move copies a position a step. -/

namespace Sys2Proof.Machine

/-- Element size in bytes (R211). -/
def elementSize (esz : BitVec 2) : Nat := if esz = 0#2 then 4 else if esz = 1#2 then 8 else if esz = 2#2 then 16 else 128

/-- A piece of a copy: source handle and offset (none writes zeros), destination handle and offset, bytes. -/
structure Piece where
  src : Option (Nat × Nat)
  dst : Nat × Nat
  len : Nat
  deriving DecidableEq, Repr

/-- The pieces of CPY, CPY2D and CPYZ (Table 10.9). -/
def linearPieces (fn : Nat) (dst src : W64) (params : List W64) : List Piece :=
  let n := (params.headD 0).toNat
  let d := ptrHandle dst
  let h := ptrHandle src
  if fn = 0 then [⟨some (h, ptrOffset src), (d, ptrOffset dst), n⟩]
  else if fn = 1 then
    (List.range (n / 2 ^ 32)).map (fun i =>
      ⟨some (h, ptrOffset src + i * ptrStride src), (d, ptrOffset dst + i * ptrStride dst), n % 2 ^ 32⟩)
  else [⟨none, (d, ptrOffset dst), n⟩]

/-- The pitch of an indexed table: the pointer's stride, or the element size where it is 0 (R211). -/
def pitchOf (table : W64) (e : Nat) : Nat := if ptrStride table = 0 then e else ptrStride table

/-- The pieces of CPYG and CPYS for some indices. -/
def indexedPieces (scatter : Bool) (e : Nat) (dst src : W64) (xs : List Nat) : List Piece :=
  (xs.zipIdx).map (fun xi =>
    let x := xi.1
    let i := xi.2
    if scatter then ⟨some (ptrHandle src, ptrOffset src + i * e), (ptrHandle dst, ptrOffset dst + x * pitchOf dst e), e⟩
    else ⟨some (ptrHandle src, ptrOffset src + x * pitchOf src e), (ptrHandle dst, ptrOffset dst + i * e), e⟩)

/-- A window handle for a generation check must be valid and of space 6. (DEDUCED, log 82, unsafe.) -/
def windowCause (w : Wave) (gh : Option Nat) : Option (BitVec 8) :=
  match gh with
  | none => none
  | some g => if (w.env.handle g).any (fun h => h.space == 6) then none else some Cause.handle

/-- A command put in the core's vertical queue (R212): 32 commands, a full one stalls. -/
def enqueue (u : Use) (c : SpindleCmd) (s : State) : Result :=
  if 32 ≤ (s.core s.w.core).spindle.length then .next (s.holdFor .engine)
  else
    let s := raiseCount 2 s
    .next (finish u (s.onCore s.w.core (fun x => { x with spindle := x.spindle ++ [c] })))

/-- Whether a command's handles make it wait for a guard (R274). (DEDUCED, log 114, safe.) -/
def guardHoldsCopy (s : State) (dst : Nat) (srcs : List Nat) : Bool :=
  let test := fun (handle : Nat) (writes : Bool) =>
    match s.w.env.handle handle with
    | some h => guardHoldsAccess s s.w h handle writes
    | none => false
  test dst true || srcs.any (fun h => test h false)

/-- CPY, CPY2D and CPYZ as they issue. A command with a count of 0 makes no access: it is complete at issue and raises no counter (R42, R211).
(DEDUCED, log 82, unsafe.) -/
def linearCopy (fn : Nat) (sd ss sn : BitVec 7) (ed es en : Bool) (gh : BitVec 6) (gchk : Bool) (s : State) : Result :=
  let zero := fn == 5
  let u : Use := { words := 2, async := true, path := some 2,
                   srcS := (sd.toNat, ed) :: ((if zero then [] else [(ss.toNat, es)]) ++ (sn.toNat, en) ::
                     (if gchk then [(sn.toNat + 1, en)] else [])) }
  issue u (fun s =>
    let dst := s.sreg sd.toNat
    let src := if zero then 0 else s.sreg ss.toNat
    let n := s.sreg sn.toNat
    let gen := if gchk then [s.sreg (sn.toNat + 1)] else []
    let window := if gchk then some gh.toNat else none
    let srcs := if zero then [] else [ptrHandle src]
    let ranges := srcs.map (fun h => ⟨h, .load, 0, 0⟩) ++ [⟨ptrHandle dst, .store, 0, 0⟩] ++
      (linearPieces fn dst src [n]).flatMap (fun p =>
        (match p.src with | some (h, o) => [⟨h, .load, o, p.len⟩] | none => []) ++ [⟨p.dst.1, .store, p.dst.2, p.len⟩])
    withRanges (checkRanges s.w (.core s.w.core) (permitCause s.w) [windowCause s.w window]
        [if fn = 1 ∧ (ptrStride dst % 16 ≠ 0 ∨ ptrStride src % 16 ≠ 0) then some Cause.misaligned else none,
         if (fn = 1 ∧ 65535 < n.toNat / 2 ^ 32) ∨ (fn ≠ 1 ∧ 2 ^ 32 - 1 < n.toNat) then some Cause.bounds else none] true ranges s)
      (fun s =>
        if guardHoldsCopy s (ptrHandle dst) srcs then .next (s.holdFor .guard)
        else if (linearPieces fn dst src [n]).all (fun p => p.len == 0) then .next (finish u s)
        else
          enqueue u { wave := s.focus, seq := s.w.seq, fn := fn, gchk := window, iw := false, esz := 0, dst := dst, src := src,
                      params := n :: gen, env := s.w.env, addr := s.w.a.pos.pc, inst := s.w.inst, started := false,
                      progress := 0, samples := [], asked := false, index := none, got := none, sent := false } s) s) s

/-- CPY (R211, R212). -/
def execCpy (sd : BitVec 7) (ss : BitVec 7) (sn : BitVec 7) (ed : Bool) (es : Bool) (en : Bool) (gh : BitVec 6) (gchk : Bool)
    (s : State) : Result := linearCopy 0 sd ss sn ed es en gh gchk s

/-- CPY2D (R211, R212). -/
def execCpy2d (sd : BitVec 7) (ss : BitVec 7) (sn : BitVec 7) (ed : Bool) (es : Bool) (en : Bool) (gh : BitVec 6) (gchk : Bool)
    (s : State) : Result := linearCopy 1 sd ss sn ed es en gh gchk s

/-- CPYZ (R211, R212). -/
def execCpyz (sd : BitVec 7) (sn : BitVec 7) (ed : Bool) (en : Bool) (gh : BitVec 6) (gchk : Bool) (s : State) : Result :=
  linearCopy 5 sd 0 sn ed false en gh gchk s

/-- CPYG and CPYS as they issue. (DEDUCED, log 82, 83, unsafe.) -/
def indexedCopy (scatter : Bool) (sd ss sn : BitVec 7) (ed es en : Bool) (gh : BitVec 6) (gchk iw : Bool) (esz : BitVec 2)
    (s : State) : Result :=
  let u : Use := { words := 2, async := true, path := some 2,
                   srcS := [(sd.toNat, ed), (ss.toNat, es), (sn.toNat, en), (sn.toNat + 1, en)] ++
                     (if gchk then [(sn.toNat + 2, en)] else []) }
  issue u (fun s =>
    let dst := s.sreg sd.toNat
    let src := s.sreg ss.toNat
    let ix := s.sreg sn.toNat
    let count := (s.sreg (sn.toNat + 1)).toNat % 2 ^ 32
    let gen := if gchk then [s.sreg (sn.toNat + 2)] else []
    let window := if gchk then some gh.toNat else none
    let e := elementSize esz
    let width := if iw then 8 else 4
    let al := min e 16
    let bad16 := fun (p : W64) => ptrStride p % 16 != 0
    let ixs := ptrHandle ix
    let (hs, hd) := (ptrHandle src, ptrHandle dst)
    let ranges : List Range := [⟨ixs, .load, 0, 0⟩, ⟨hs, .load, 0, 0⟩, ⟨hd, .store, 0, 0⟩, ⟨ixs, .load, ptrOffset ix, count * width⟩,
      if scatter then ⟨hs, .load, ptrOffset src, count * e⟩ else ⟨hd, .store, ptrOffset dst, count * e⟩]
    withRanges (checkRanges s.w (.core s.w.core) (permitCause s.w) [windowCause s.w window]
        [if bad16 dst || bad16 src || ptrOffset dst % al != 0 || ptrOffset src % al != 0 || ptrOffset ix % width != 0 then
          some Cause.misaligned else none] true ranges s)
      (fun s =>
        if guardHoldsCopy s (ptrHandle dst) [ptrHandle src, ptrHandle ix] then .next (s.holdFor .guard)
        else if count = 0 then .next (finish u s)
        else
          enqueue u { wave := s.focus, seq := s.w.seq, fn := if scatter then 3 else 2, gchk := window, iw := iw, esz := esz,
                      dst := dst, src := src, params := [ix, BitVec.ofNat 64 count] ++ gen, env := s.w.env, addr := s.w.a.pos.pc,
                      inst := s.w.inst, started := false, progress := 0, samples := [], asked := false, index := none, got := none,
                      sent := false } s) s) s

/-- CPYG (R211, R212). -/
def execCpyg (sd : BitVec 7) (ss : BitVec 7) (sn : BitVec 7) (ed : Bool) (es : Bool) (en : Bool) (gh : BitVec 6) (gchk : Bool)
    (iw : Bool) (esz : BitVec 2) (s : State) : Result := indexedCopy false sd ss sn ed es en gh gchk iw esz s

/-- CPYS (R211, R212). -/
def execCpys (sd : BitVec 7) (ss : BitVec 7) (sn : BitVec 7) (ed : Bool) (es : Bool) (en : Bool) (gh : BitVec 6) (gchk : Bool)
    (iw : Bool) (esz : BitVec 2) (s : State) : Result := indexedCopy true sd ss sn ed es en gh gchk iw esz s

/-- SLBMV (R214): the descriptor's handle, offset and the new base are checked at issue. -/
def execSlbmv (sd : BitVec 7) (ss : BitVec 7) (ed : Bool) (es : Bool) (s : State) : Result :=
  let u : Use := { words := 2, async := true, path := some 2, srcS := [(sd.toNat, ed), (ss.toNat, es)] }
  issue u (fun s =>
    let dst := s.sreg sd.toNat
    let src := s.sreg ss.toNat
    let h := ptrHandle src
    let space0 := if (s.w.env.handle h).any (fun x => x.space == 0) then none else some Cause.handle
    withRanges (checkRanges s.w (.core s.w.core) (permitCause s.w) [space0]
        [if ptrOffset src % 64 != 0 || dst.toNat % 65536 != 0 then some Cause.misaligned else none] true
        [⟨h, .load, ptrOffset src, 64⟩, ⟨h, .store, ptrOffset src, 64⟩] s)
      (fun s =>
        if guardHoldsCopy s h [h] then .next (s.holdFor .guard)
        else
          enqueue u { wave := s.focus, seq := s.w.seq, fn := 4, gchk := none, iw := false, esz := 0, dst := dst, src := src,
                      params := [], env := s.w.env, addr := s.w.a.pos.pc, inst := s.w.inst, started := false, progress := 0,
                      samples := [], asked := false, index := none, got := none, sent := false } s) s) s

/-! ### Running a command -/

/-- What the locations of a copy's pieces are found to be: sources (none for zeros) and destinations, byte by byte. -/
inductive Mapped where
  | ok (pairs : List (Option Nat × Nat))
  | trap (access : BitVec 2) (cause : BitVec 8)
  | fault (access : BitVec 2) (faults : List (Nat × W64 × BitVec 8 × Nat × Bool))
  | waiting
  deriving DecidableEq, Repr

/-- Map every piece of a copy. (DEDUCED, log 83, unsafe.) -/
def mapPieces (w : Wave) (cache : Cache) : List Piece → State → State × Mapped
  | [], s => (s, .ok [])
  | p :: ps, s =>
    let source : State × Ranged := match p.src with
      | some (h, o) => locsOf w cache h .load o p.len s
      | none => (s, .ok [])
    match source with
    | (s, .trap c) => (s, .trap Access.read c)
    | (s, .fault fs) => (s, .fault Access.read fs)
    | (s, .waiting) => (s, .waiting)
    | (s, .ok ls) =>
      match locsOf w cache p.dst.1 .store p.dst.2 p.len s with
      | (s, .trap c) => (s, .trap Access.write c)
      | (s, .fault fs) => (s, .fault Access.write fs)
      | (s, .waiting) => (s, .waiting)
      | (s, .ok ld) =>
        match mapPieces w cache ps s with
        | (s, .ok more) => (s, .ok ((if p.src.isSome then (ls.map some).zip ld else ld.map (fun l => (none, l))) ++ more))
        | (s, r) => (s, r)

/-- The head of a core's vertical queue leaves it, its counter falling. -/
def spindleDone (core : Nat) (c : SpindleCmd) (s : State) : State :=
  (s.onCore core (fun x => { x with spindle := x.spindle.tail })).landFor c.wave 2 c.seq

/-- The head command ends its launch with a cause, without further effect (R212). -/
def spindleStop (core : Nat) (c : SpindleCmd) (cause : BitVec 8) (access : BitVec 2) (va : W64) (s : State) : State :=
  engineStop c.wave (s.wave c.wave).launch 3 access cause va c.addr
    (s.onCore core (fun x => { x with spindle := x.spindle.tail }))

/-- The wave an engine works for, with the handles and the samples of its command. -/
def engineWave (s : State) (k : Nat) (env : Env) (samples : List (Nat × SlabSample)) : Wave :=
  { s.wave k with env := env, txn := none, sampled := samples }

/-- A page fault of a command: its records are posted and it waits (R212); it waits too for walks on their way (R285), and a poisoned
table sector ends its launch. -/
def engineFault (agent : BitVec 4) (w : Wave) (addr : W64) (access : BitVec 2) :
    List (Nat × W64 × BitVec 8 × Nat × Bool) → State → State
  | [], s => s
  | (_, va, cause, level, large) :: rest, s =>
    engineFault agent w addr access rest
      (if cause = Cause.waiting then s
       else if cause = Cause.poison then engineStop w.key w.launch agent access cause va addr s level large
       else (faultRecord agent w.env.tag w addr va access cause level large (1 + onPage va rest) s).1)

/-- What an operation's samples come to (R111). -/
inductive Sampling where
  | ok (xs : List (Nat × SlabSample))
  | reserved
  | fault (faults : List (Nat × W64 × BitVec 8 × Nat × Bool))
  deriving DecidableEq, Repr

/-- The slabs behind the window handles an operation names, each sampled once, at its start (R111). (DEDUCED, log 168, safe.) -/
def takeSamples (w : Wave) (cache : Cache) (handles : List Nat) (s : State) : State × Sampling :=
  let (s, ds, fs) := windowsOf w cache handles.eraseDups s
  if !fs.isEmpty then (s, .fault fs)
  else if ds.any (fun d => slabReserved d.2) then (s, .reserved)
  else (s, .ok (ds.map (fun d => (d.1, slabSample (match w.env.handle d.1 with | some h => h.base | none => 0) d.2))))

/-- The device does not reach its own window through the host (R120, R328). (DESIGN CHOICE, log 165, safe.) -/
def returnsHere (env : Env) (handle : Nat) (locs : List Nat) : Bool :=
  (env.handle handle).any (fun h => h.space == 4) && locs.any Config.hostRoutesBack

/-- A handle of host memory reached untranslated or of a peer: a read through it is answered from outside the device (R119, R328, R335). -/
def peerHandle (env : Env) (h : Nat) : Bool :=
  (env.handle h).any (fun x => x.space == 5 && x.selector.extractLsb' 0 16 != Config.node)
def remoteHandle (env : Env) (h : Nat) : Bool := peerHandle env h || (env.handle h).any (fun x => x.space == 4)

/-- The head of a core's vertical queue changed. -/
def onHead (core : Nat) (f : SpindleCmd → SpindleCmd) (s : State) : State :=
  s.onCore core (fun y => { y with spindle := (match y.spindle with | [] => [] | h :: t => f h :: t) })

/-- What the launch of a command's wave reads through a handle outside the device is noted as it is read (R313). -/
def noteSource (launch : Nat) (env : Env) (handle : Nat) (s : State) : State :=
  match env.handle handle with
  | some h => noteAccess launch handle h.space false s
  | none => s

/-- The bytes of a copy's sources, each with whether it is poisoned, by sector, that of sectors behind a second-tier port that is down with
them (R212, R334). -/
def sourceBytes (s : State) (c : SpindleCmd) (pairs : List (Option Nat × Nat)) : List (Byte × Bool) :=
  let m := engineMem s c.env (ptrHandle c.src)
  pairs.map (fun p => match p.1 with | some l => (readByte m l, anyPoison s [l]) | none => (0, false))

/-- A copy's destination written, poison going with its sectors (R212), and the command is done. -/
def landCopy (core : Nat) (c : SpindleCmd) (pairs : List (Option Nat × Nat)) (bs : List (Byte × Bool)) (s : State) : State :=
  let dst := ptrHandle c.dst
  let space := match c.env.handle dst with | some h => h.space | none => 0
  let bad := ((pairs.zip bs).filter (fun x => x.2.2)).map (fun x => x.1.2)
  match engineWrite (s.wave c.wave).launch dst space (some c.env.tag) ((pairs.map (·.2)).zip (bs.map (·.1))) s with
  | (s, false) => s
  | (s, true) => spindleDone core c { s with poison := setPoison s.poison bad }

/-- A copy carried out: sources read first, then every destination byte written. A source in space 4 or at a peer is read as its answer
comes, and a write to a peer performed as it is acknowledged (R119). (DEDUCED, log 84, unsafe.) -/
def runCopy (core : Nat) (c : SpindleCmd) (pieces : List Piece) (s : State) : State :=
  let w := engineWave s c.wave c.env c.samples
  match mapPieces w (.spindle core) pieces s with
  | (s, .waiting) => s
  | (s, .trap access cause) => spindleStop core c cause access 0 s
  | (s, .fault access fs) => engineFault 3 w c.addr access fs s
  | (s, .ok pairs) =>
    let dst := ptrHandle c.dst
    if returnsHere c.env (ptrHandle c.src) (pairs.filterMap (·.1)) then spindleStop core c Cause.permission Access.read 0 s
    else if returnsHere c.env dst (pairs.map (·.2)) then spindleStop core c Cause.permission Access.write 0 s
    else
      if c.sent then s
      else if c.got.isNone && c.fn != 5 && remoteHandle c.env (ptrHandle c.src) then onHead core (fun h => { h with asked := true }) s
      else
        let s := if c.got.isNone then checkLocs (pairs.filterMap (·.1)) s else s
        let bs := c.got.getD (sourceBytes s c pairs)
        let s := if c.got.isSome || c.fn == 5 then s else noteSource w.launch c.env (ptrHandle c.src) s
        if peerHandle c.env dst then onHead core (fun h => { h with got := some bs, sent := true }) s
        else landCopy core c pairs bs s

/-- The words of a slab descriptor as a move rewrites them (R110, Table 5.8). -/
def slabWords (d : BitVec 512) (base oldbase newbase : W64) (cap : Nat) (bound : Nat) (gen : W32) (moving : Bool) : List W64 :=
  [base, (d.extractLsb' 70 58 ++ BitVec.ofNat 6 cap), oldbase, newbase, gen ++ BitVec.ofNat 32 bound,
   (d.extractLsb' 321 63 ++ BitVec.ofBool moving), d.extractLsb' 384 64, d.extractLsb' 448 64]

/-- Some words as bytes from a list of locations. -/
def wordCells (locs : List Nat) (ws : List W64) : List (Nat × Byte) := locs.zip (ws.flatMap (fun x => bytesOfNat x.toNat 8))

/-- An access of a wave through a window on a slab. -/
def Access.onSlab (env : Env) (desc : W64) (x : Access) : Bool := x.space == 6#4 && (env.handle x.handle).any (fun h => h.base == desc)

/-- Samples of a slab that an operation holds. -/
def holdsSample (desc : W64) (xs : List (Nat × SlabSample)) : Bool := xs.any (fun x => x.2.desc == desc)

/-- A wave's accesses that it has issued and that are not performed: outstanding, in its open transaction, or in its pair log. -/
def Wave.pendingAccesses (w : Wave) : List Access := w.accesses ++ (match w.txn with | some t => t.accs | none => []) ++ w.pairLog

/-- An operation that may write through the slab and holds a sample of an earlier generation is not complete (R110 step 2): an issued
write, one that waits for a page with its sample, a command of another Spindle, a round. (DEDUCED, log 85, safe.) -/
def slabWriters (s : State) (me : SpindleCmd) (desc : W64) : Bool :=
  s.allWaves.any (fun e =>
    (e.2.accesses.any (fun x => x.op.writes && !x.answered && x.onSlab e.2.env desc)) ||
    ((match e.2.txn with | some t => t.accs | none => []) ++ e.2.pairLog).any (fun x => x.op.writes && x.onSlab e.2.env desc) ||
    holdsSample desc e.2.sampled) ||
  (s.cores.flatMap (fun e => e.2.spindle) ++ s.teams.flatMap (fun e => e.2.commands)).any (fun c =>
    c.fn != 4 && !(c.wave == me.wave && c.seq == me.seq) && holdsSample desc c.samples) ||
  s.carders.any (fun e => e.2.any (fun c => holdsSample desc c.samples))

/-- Translate the 128-byte lines of one position: old and new locations, or the fault. -/
def slabLines (core : Nat) (tag : BitVec 8) : List (W64 × W64) → State → State × (List (Nat × Nat) ⊕ (BitVec 2 × W64 × BitVec 8 × Nat × Bool))
  | [], s => (s, .inl [])
  | (a, b) :: rest, s =>
    match translate s (.spindle core) tag a Access.read with
    | (s, .fail c l g) => (s, .inr (Access.read, a, c, l, g))
    | (s, .waiting) => (s, .inr (Access.read, a, Cause.waiting, 0, false))
    | (s, .ok la) =>
      match translate s (.spindle core) tag b Access.write with
      | (s, .fail c l g) => (s, .inr (Access.write, b, c, l, g))
      | (s, .waiting) => (s, .inr (Access.write, b, Cause.waiting, 0, false))
      | (s, .ok lb) =>
        match slabLines core tag rest s with
        | (s, .inl more) => (s, .inl ((la, lb) :: more))
        | (s, .inr e) => (s, .inr e)

/-- A slab region returned for reuse once no earlier sample is held (R110, R214). -/
def releaseRegion (tag : BitVec 8) (desc base : W64) (s : State) : State :=
  let mark := fun (c : Context) (r : Region) =>
    let at0 := (c.word 9).toNat + 65536 * r.unit
    if at0 ≤ base.toNat ∧ base.toNat < at0 + 65536 * 2 ^ r.log then { r with desc := desc, released := true } else r
  { s with contexts := change (fun (c : Context) => { c with regions := c.regions.map (mark c) }) s.contexts tag.toNat }

/-- A slab move, one step of it (R110, R214): the descriptor is sampled at the start, and its bound is the Spindle's own from then on.
(DEDUCED, log 84, unsafe; DEDUCED, log 85, safe.) -/
def runMove (core : Nat) (c : SpindleCmd) (s : State) : State :=
  let w := engineWave s c.wave c.env []
  let ph := ptrHandle c.src
  match locsOf w (.spindle core) ph .load (ptrOffset c.src) 64 s with
  | (s, .waiting) => s
  | (s, .trap cause) => spindleStop core c cause 0 0 s
  | (s, .fault fs) => engineFault 3 w c.addr Access.read fs s
  | (s, .ok locs) =>
    let d := slabBits s locs
    let desc := (match c.env.handle ph with | some h => h.base | none => 0) + BitVec.ofNat 64 (ptrOffset c.src)
    let write := fun (ws : List W64) (s : State) => engineWrite w.launch ph 0 (some c.env.tag) (wordCells locs ws) s
    match c.samples with
    | [] =>
      let x := slabSample desc d
      if anyPoison s locs then spindleStop core c Cause.poison Access.read desc s
      else if slabReserved d then spindleStop core c Cause.handle 0 desc s
      else if x.moving then s
      else if 23 < x.cap + 1 then spindleStop core c Cause.bounds 0 desc s
      else
        let x' := { x with oldbase := x.base, newbase := c.dst, cap := x.cap + 1, gen := x.gen + 1, moving := true }
        match write (slabWords d x.base x.base c.dst (x.cap + 1) 0 (x.gen + 1) true) s with
        | (s, false) => s
        | (s, true) => onHead core (fun h => { h with started := true, samples := [(256, x')] }) s
    | (_, x) :: _ =>
      if slabWriters s c desc then s
      else if c.progress < 2 ^ (x.cap - 1) then
        let p := c.progress
        let lines := (List.range (x.layers + 1)).flatMap (fun layer => (List.range (x.heads + 1)).flatMap (fun head =>
          [0, 1].flatMap (fun kv => (List.range x.lines).map (fun j =>
            (x.address p layer head kv p j, x.address (p + 1) layer head kv p j)))))
        match slabLines core c.env.tag lines s with
        | (s, .inr (access, va, cause, level, large)) => engineFault 3 w c.addr access [(64, va, cause, level, large)] s
        | (s, .inl pairs) =>
          let cells := pairs.flatMap (fun ab => (List.range 128).map (fun i => (ab.2 + i, readByte s.mem (ab.1 + i))))
          let bad := pairs.flatMap (fun ab => ((List.range 4).filter (fun i => anyPoison s [ab.1 + 32 * i])).map (fun i => ab.2 + 32 * i))
          match engineWrite w.launch ph 0 (some c.env.tag) cells s with
          | (s, false) => s
          | (s, true) =>
            match write (slabWords d x.base x.oldbase x.newbase x.cap (p + 1) x.gen true) { s with poison := setPoison s.poison bad } with
            | (s, false) => s
            | (s, true) => onHead core (fun h => { h with progress := p + 1 }) s
      else
        match write (slabWords d x.newbase x.oldbase x.newbase x.cap (slabBound d) (x.gen + 1) false) s with
        | (s, false) => s
        | (s, true) => spindleDone core c (releaseRegion c.env.tag desc x.oldbase s)

/-- The gen a checked command's sample holds differs from its register (R213). -/
def genMismatch (c : SpindleCmd) : Bool :=
  match c.gchk with
  | none => false
  | some g =>
    match c.samples.find? (fun x => x.1 == g) with
    | none => true
    | some x => x.2.gen != ((c.params.getLast?).getD 0).setWidth 32

/-- A command that reads an index array. -/
def SpindleCmd.indexed (c : SpindleCmd) : Bool := c.fn == 2 || c.fn == 3
/-- The index pointer of such a command, and the bytes of its array. -/
def SpindleCmd.table (c : SpindleCmd) : W64 := c.params.headD 0
def SpindleCmd.tableBytes (c : SpindleCmd) : Nat := (c.params.getD 1 0).toNat * (if c.iw then 8 else 4)

/-- The index array of a command read (R211): its indices, or what stops it. A poisoned sector of it is consumed: its data are not copied.
(DEDUCED, log 84, unsafe; DEDUCED, log 169, unsafe.) -/
def readIndex (core : Nat) (c : SpindleCmd) (s : State) : State × Option (List Nat) :=
  let ix := c.table
  let width := if c.iw then 8 else 4
  let w := engineWave s c.wave c.env c.samples
  match locsOf w (.spindle core) (ptrHandle ix) .load (ptrOffset ix) c.tableBytes s with
  | (s, .waiting) => (s, none)
  | (s, .trap cause) => (spindleStop core c cause 0 0 s, none)
  | (s, .fault fs) => (engineFault 3 w c.addr Access.read fs s, none)
  | (s, .ok locs) =>
    let s := checkLocs locs s
    let bs := engineRead s c.env (ptrHandle ix) locs
    if anyPoison s locs then
      (spindleStop core c Cause.poison Access.read
        ((poisonVa s (fun _ _ => false) [⟨64, failingVa w (ptrHandle ix) [(64, ptrOffset ix)] 0, locs, [], [], [], []⟩]).getD 0) s, none)
    else
      let xs := (List.range (c.params.getD 1 0).toNat).map (fun i => natOfBytes ((bs.drop (width * i)).take width))
      (noteSource w.launch c.env (ptrHandle ix) (onHead core (fun h => { h with index := some xs }) s), some xs)

/-- The pieces of a command whose index array, if it has one, is read. -/
def SpindleCmd.pieces (c : SpindleCmd) : List Piece :=
  if c.indexed then indexedPieces (c.fn == 3) (elementSize c.esz) c.dst c.src (c.index.getD []) else linearPieces c.fn c.dst c.src c.params

/-- A command of a copy, its samples taken (R212, R213): its index array is read first. -/
def runCommand (core : Nat) (c : SpindleCmd) (s : State) : State :=
  if genMismatch c then spindleStop core c Cause.stale 0 0 s
  else if c.indexed && c.index.isNone then
    if remoteHandle c.env (ptrHandle c.table) then onHead core (fun h => { h with asked := true }) s
    else
      match readIndex core c s with
      | (s, none) => s
      | (s, some xs) => runCopy core { c with index := some xs } { c with index := some xs }.pieces s
  else runCopy core c c.pieces s

/-- The pointer through which a command waits for an answer from outside the device. -/
def SpindleCmd.awaits (c : SpindleCmd) : W64 := if c.sent then c.dst else if c.indexed && c.index.isNone then c.table else c.src

/-- The command of a wave that waits for the host or a peer, with its core. -/
def awaitingCommand (s : State) (k space : Nat) : Option (Nat × SpindleCmd) :=
  let core := (s.wave k).core
  match (s.core core).spindle with
  | [] => none
  | c :: _ =>
    if c.wave == k && (c.asked || c.sent) && (c.env.handle (ptrHandle c.awaits)).any (fun h => h.space == space) then some (core, c) else none

/-- A command refused by the host or a peer (R328, R335): its launch terminates with 0x07, the record naming the handle's address. -/
def refuseCommand (core : Nat) (c : SpindleCmd) (s : State) : State :=
  let va := match c.env.handle (ptrHandle c.awaits) with | some h => h.base | none => 0
  spindleStop core c Cause.permission (if c.sent then Access.write else Access.read) va s

/-- A command's answer from outside the device: its write is performed, or what it asked for is read, poisoned where it came so. -/
def answerCommand (core : Nat) (c : SpindleCmd) (poisoned : Bool) (s : State) : State :=
  let w := engineWave s c.wave c.env c.samples
  if !c.sent && c.indexed && c.index.isNone then
    if poisoned then spindleStop core c Cause.poison Access.read (failingVa w (ptrHandle c.table) [(64, ptrOffset c.table)] 0 &&& ~~~(31#64)) s
    else (readIndex core c (onHead core (fun h => { h with asked := false }) s)).1
  else
    match mapPieces w (.spindle core) c.pieces s with
    | (s, .ok pairs) =>
      if c.sent then landCopy core c pairs (c.got.getD []) s
      else
        let bs := (sourceBytes s c pairs).map (fun b => (b.1, b.2 || poisoned))
        noteSource w.launch c.env (ptrHandle c.src) (onHead core (fun h => { h with asked := false, got := some bs }) s)
    | (s, _) => onHead core (fun h => { h with asked := false }) s

/-- SPINDLE_COMMAND_START (R128, R212, R213): the head of a core's vertical queue starts, its slabs sampled, or a slab move goes on.
(DEDUCED, log 84, unsafe.) -/
def execSpindleCommandStart (core : Nat) (s : State) : Result :=
  match (s.core core).spindle with
  | [] => .next s
  | c :: _ =>
    if !guardOpen s c.wave c.seq then .next s
    else if c.fn = 4 then .next (runMove core c s)
    else if c.started then .next (runCommand core c s)
    else
      let w := engineWave s c.wave c.env []
      let tables := if c.fn = 2 ∨ c.fn = 3 then [ptrHandle (c.params.headD 0)] else []
      match takeSamples w (.spindle core) ((if c.fn = 5 then [] else [ptrHandle c.src]) ++ [ptrHandle c.dst] ++ tables ++ c.gchk.toList) s with
      | (s, .fault fs) => .next (engineFault 3 w c.addr Access.read fs s)
      | (s, .reserved) => .next (spindleStop core c Cause.handle 0 0 s)
      | (s, .ok xs) =>
        let c := { c with started := true, samples := xs }
        .next (runCommand core c (onHead core (fun _ => c) s))

end Sys2Proof.Machine
end

