-- ==== Sys2Proof/Machine/Narrow.lean ====
section
/-! DEFINITION. The narrow formats (R60 to R70): tapered T6 and T8, E4M3 and E5M2, I8 and N8, the E8 scale, format slot
descriptors, and the exact arithmetic of a matrix chunk (R72 to R75). -/

namespace Sys2Proof.Machine

/-- The length of the run of bits equal to `b` from bit `i` of `m` downward. -/
def runLength (m : Nat) (b : Nat) : Nat → Nat
  | 0 => if m % 2 = b then 1 else 0
  | i + 1 => if m / 2 ^ (i + 1) % 2 = b then runLength m b i + 1 else 0

/-- The value of a tapered code of `n` bits (R60); NaR is a quiet NaN. -/
def taperedDecode (n c : Nat) : Num :=
  let neg := c / 2 ^ (n - 1) % 2 == 1
  let m := c % 2 ^ (n - 1)
  if m = 0 then (if neg then .nan false else .fin false 0 0)
  else
    let b := m / 2 ^ (n - 2) % 2
    let k := runLength m b (n - 2)
    let r : Int := if b = 1 then k - 1 else -(k : Int)
    let rest := n - 2 - k
    let e := if 1 ≤ rest then m / 2 ^ (rest - 1) % 2 else 0
    let nf := rest - 1
    let f := m % 2 ^ nf
    .fin neg (2 ^ nf + f) (2 * r + e - nf)

/-- The greatest tapered magnitude code, at or below `c`, whose value is at most m × 2^e. -/
def taperedFloor (n m : Nat) (e : Int) : Nat → Nat
  | 0 => 0
  | c + 1 => if (Num.fin false m e).lt (taperedDecode n (c + 1)) then taperedFloor n m e c else c + 1

/-- A signed tapered code. -/
def taperedSigned (n : Nat) (neg : Bool) (c : Nat) : Nat := if neg then 2 ^ (n - 1) + c else c

/-- The distance between two finite numbers, as units of 2^q. -/
def distance (q : Int) : Num → Num → Nat
  | .fin a m e, .fin b n g => (scaled a m e q - scaled b n g q).natAbs
  | _, _ => 0

/-- A finite nonzero number to a tapered code of `n` bits (R64). -/
def taperedRound (n : Nat) (mode : Rounding) (nonFinite neg : Bool) (m : Nat) (e : Int) : Nat × Flags :=
  let top := 2 ^ (n - 1) - 1
  let a := Num.fin false m e
  if (taperedDecode n top).lt a then
    (if nonFinite then 2 ^ (n - 1) else taperedSigned n neg top, Flags.of ||| Flags.nx)
  else if a.lt (taperedDecode n 1) then (taperedSigned n neg 1, Flags.uf ||| Flags.nx)
  else
    let lo := taperedFloor n m e top
    if (taperedDecode n lo).eqv a then (taperedSigned n neg lo, 0)
    else
      let hi := lo + 1
      let q := min e (-16)
      let dl := distance q a (taperedDecode n lo)
      let dh := distance q (taperedDecode n hi) a
      let chosen := match mode with
        | .rne => if dl < dh then lo else if dh < dl then hi else if lo % 2 = 0 then lo else hi
        | .rtz => lo
        | .rup => if neg then lo else hi
        | .rdn => if neg then hi else lo
      (taperedSigned n neg chosen, Flags.nx)

/-- F32 to a tapered code (R64). -/
def toTapered (n : Nat) (mode : Rounding) (nonFinite : Bool) (x : W32) : Nat × Flags :=
  match f32.decode x.toNat with
  | .nan _ => (2 ^ (n - 1), Flags.nv)
  | .inf _ => (2 ^ (n - 1), Flags.nv)
  | .fin neg m e => if m = 0 then (0, 0) else taperedRound n mode nonFinite neg m e

/-- The OCP 8-bit formats (R65): E4M3 has no infinity and one NaN code. -/
def e4m3 : Fmt := ⟨4, 4, 8⟩
def e5m2 : Fmt := ⟨3, 5, 15⟩

/-- The exponent of E4M3's subnormal step, 2^−9, and of E5M2's, 2^−16. -/
def ocpQmin (isE4 : Bool) : Int := if isE4 then -9 else -16

/-- The value of an OCP code (R65). -/
def ocpDecode (isE4 : Bool) (c : Nat) : Num :=
  let neg := c / 128 % 2 == 1
  let m := c % 128
  if isE4 then
    if m = 127 then .nan false
    else if m / 8 = 0 then .fin neg (m % 8) (-9) else .fin neg (m % 8 + 8) (m / 8 - 10)
  else
    if 124 < m then .nan (m % 4 == 1)
    else if m = 124 then .inf neg
    else if m / 4 = 0 then .fin neg (m % 4) (-16) else .fin neg (m % 4 + 4) (m / 4 - 17)

/-- F32 to E4M3 or E5M2 (R65). -/
def toOcp (isE4 : Bool) (mode : Rounding) (nonFinite : Bool) (x : W32) : Nat × Flags :=
  let p : Nat := if isE4 then 4 else 3
  let largest := if isE4 then 126 else 123
  let sgn := fun (neg : Bool) (c : Nat) => if neg then 128 + c else c
  let tooLarge := fun (neg : Bool) =>
    if nonFinite then (if isE4 then 127 else sgn neg 124, Flags.of ||| Flags.nx)
    else (sgn neg largest, Flags.of ||| Flags.nx)
  match f32.decode x.toNat with
  | .nan _ => (if isE4 then 127 else 126, Flags.nv)
  | .inf neg => if nonFinite && !isE4 then (sgn neg 124, 0) else tooLarge neg
  | .fin neg m e =>
    if m = 0 then (sgn neg 0, 0)
    else
      let top : Int := e + bitLength m - 1
      let qn : Int := top - (p - 1)
      let q : Int := max qn (ocpQmin isE4)
      let (w, exact) := roundTo mode neg m e q
      let code := if w < 2 ^ (p - 1) then w else (q - ocpQmin isE4 + 1).toNat * 2 ^ (p - 1) + (w - 2 ^ (p - 1))
      let emin : Int := ocpQmin isE4 + (p - 1)
      let tiny := top < emin && !(top == emin - 1 && (roundTo mode neg m e qn).1 == 2 ^ p)
      if largest < code then tooLarge neg
      else (sgn neg code, if exact then 0 else if tiny then Flags.uf ||| Flags.nx else Flags.nx)

/-- A format slot descriptor's element (Table 4.7). -/
inductive Element where
  | t6 | t8 | e4m3 | e5m2 | i8 | n8 | bf16 | f16
  deriving DecidableEq, Repr

/-- The element a descriptor names, if assigned. -/
def Element.ofSlot (desc : W32) : Option Element :=
  match (desc.extractLsb' 0 4).toNat with
  | 0 => some .t6 | 1 => some .t8 | 2 => some .e4m3 | 3 => some .e5m2
  | 4 => some .i8 | 5 => some .n8 | 6 => some .bf16 | 7 => some .f16
  | _ => none

/-- Whether a slot's scaled bit is set, its ovf field, its dscale (Table 4.7). -/
def slotScaled (desc : W32) : Bool := desc.getLsbD 4
def slotOvf (desc : W32) : BitVec 2 := desc.extractLsb' 5 2
def slotDscale (desc : W32) : Nat := (desc.extractLsb' 8 8).toNat

/-- Elements that take no per-block scales (R71). -/
def Element.unscaled : Element → Bool
  | .i8 => true | .n8 => true | .bf16 => true | .f16 => true
  | .t6 => false | .t8 => false | .e4m3 => false | .e5m2 => false

/-- A reserved descriptor (R71). -/
def slotReserved (desc : W32) : Bool :=
  match Element.ofSlot desc with
  | none => true
  | some el => 2#2 ≤ slotOvf desc || desc.getLsbD 7 || desc.extractLsb' 16 16 != 0 || (slotScaled desc && el.unscaled)

/-- The bits of one element. -/
def Element.bits : Element → Nat
  | .t6 => 6
  | .t8 => 8 | .e4m3 => 8 | .e5m2 => 8 | .i8 => 8 | .n8 => 8
  | .bf16 => 16 | .f16 => 16

/-- Integer elements. -/
def Element.isInt : Element → Bool
  | .i8 => true | .n8 => true
  | .t6 => false | .t8 => false | .e4m3 => false | .e5m2 => false | .bf16 => false | .f16 => false

/-- The whole number an I8 or N8 byte stands for. -/
def intValue (el : Element) (c : Nat) : Int :=
  if el = .i8 && 128 ≤ c % 256 then (c % 256 : Nat) - (256 : Int) else (c % 256 : Nat)

/-- The value of an element's code. -/
def Element.decode (el : Element) (c : Nat) : Num :=
  match el with
  | .t6 => taperedDecode 6 (c % 64)
  | .t8 => taperedDecode 8 (c % 256)
  | .e4m3 => ocpDecode true c
  | .e5m2 => ocpDecode false c
  | .i8 => .fin (intValue .i8 c < 0) (intValue .i8 c).natAbs 0
  | .n8 => .fin false (c % 256) 0
  | .bf16 => Sys2Proof.Machine.bf16.decode (c % 65536)
  | .f16 => Sys2Proof.Machine.f16.decode (c % 65536)

/-- F32 to the 8-bit element of a slot (VCNAR; R64, R65, R66). -/
def toElement (el : Element) (mode : Rounding) (nonFinite : Bool) (x : W32) : Nat × Flags :=
  match el with
  | .t6 => toTapered 6 mode nonFinite x
  | .t8 => toTapered 8 mode nonFinite x
  | .e4m3 => toOcp true mode nonFinite x
  | .e5m2 => toOcp false mode nonFinite x
  | .i8 => let (w, fl) := f32ToInt mode (-128) 127 x; ((w % 256).toNat, fl)
  | .n8 => let (w, fl) := f32ToInt mode 0 255 x; (w.toNat, fl)
  | .bf16 => f32ToHalf Sys2Proof.Machine.bf16 mode x
  | .f16 => f32ToHalf Sys2Proof.Machine.f16 mode x

/-! ### The arithmetic of one chunk -/

/-- A product scaled by 2^k. -/
def Num.scaleBy (k : Int) : Num → Num
  | .nan s => .nan s
  | .inf n => .inf n
  | .fin n m e => .fin n m (e + k)

/-- ⌊log2⌋ of a nonzero finite product; the greatest over a list, if any is nonzero. -/
def greatestExp : List Num → Option Int
  | [] => none
  | .fin _ m e :: ts =>
    if m = 0 then greatestExp ts
    else
      let x : Int := e + m.log2
      match greatestExp ts with
      | none => some x
      | some y => some (max x y)
  | _ :: ts => greatestExp ts

/-- A finite product truncated toward zero to whole units of 2^u. -/
def truncUnits (u : Int) : Num → Int
  | .fin neg m e =>
    let w : Nat := if u ≤ e then m * 2 ^ (e - u).toNat else m / 2 ^ (u - e).toNat
    if neg then -(w : Int) else w
  | _ => 0

/-- R73 once no NaN takes part: the products, already exact and scaled, added to the accumulator. -/
def chunkSum (acc : W32) (products : List Num) : W32 :=
  let a := f32.decode acc.toNat
  let nanWord := BitVec.ofNat 32 f32.nanBits
  if products.any Num.isNan then nanWord
  else if (a :: products).any (· == .inf false) then
    if (a :: products).any (· == .inf true) then nanWord else BitVec.ofNat 32 (f32.signed false f32.infBits)
  else if (a :: products).any (· == .inf true) then BitVec.ofNat 32 (f32.signed true f32.infBits)
  else
    match greatestExp products with
    | none => acc
    | some top =>
      let u := top - 60
      let q := min u f32.qmin
      let s : Int := (products.map (truncUnits u)).foldl (· + ·) 0
      let t := s * 2 ^ (u - q).toNat + sumFinite [a] q
      if t = 0 then 0#32 else BitVec.ofNat 32 (f32.round .rne (t < 0) t.natAbs q).1

/-- One chunk step of an F32 accumulator (R73): element codes with their block's scale byte, both operands. -/
def dotChunk (ea eb : Element) (acc : W32) (a b : List (Nat × Nat)) : W32 :=
  let av := a.map (fun x => ea.decode x.1)
  let bv := b.map (fun x => eb.decode x.1)
  if (f32.decode acc.toNat).isNan || av.any Num.isNan || bv.any Num.isNan ||
      a.any (fun x => x.2 == 255) || b.any (fun x => x.2 == 255) then BitVec.ofNat 32 f32.nanBits
  else
    let k := List.zipWith (fun x y => ((x.2 : Int) - 127) + ((y.2 : Int) - 127)) a b
    chunkSum acc (List.zipWith (fun (s : Int) (p : Num) => p.scaleBy s) k (List.zipWith Num.mul av bv))

/-- One chunk step of an integer accumulator (R75). -/
def dotChunkInt (ea eb : Element) (acc : W32) (a b : List (Nat × Nat)) : W32 :=
  acc + BitVec.ofInt 32 ((List.zipWith (fun x y => intValue ea x.1 * intValue eb y.1) a b).foldl (· + ·) 0)

end Sys2Proof.Machine
end

