-- ==== Sys2Proof/Machine/Scalar.lean ====
section
/-! DEFINITION. The scalar words of majors 0x00 to 0x07 (R161 to R165): once per wave, on 64-bit values. -/

namespace Sys2Proof.Machine

/-- 1 when a relation holds, else 0 (R162). -/
def flag (b : Bool) : W64 := if b then 1 else 0

/-- Bits [127:64] of the signed and of the unsigned product (R162). -/
def mulHighS (a b : W64) : W64 := BitVec.ofInt 64 (a.toInt * b.toInt / 2 ^ 64)
def mulHighU (a b : W64) : W64 := BitVec.ofNat 64 (a.toNat * b.toNat / 2 ^ 64)

/-- Leading and trailing zero bits, `n` for zero (R165, R186). -/
def leadingZeros (n : Nat) (x : BitVec n) : Nat := ((List.range n).takeWhile (fun i => !x.getLsbD (n - 1 - i))).length
def trailingZeros (n : Nat) (x : BitVec n) : Nat := ((List.range n).takeWhile (fun i => !x.getLsbD i)).length

/-- Bit i moved to bit n − 1 − i. -/
def reverseBits (n : Nat) (x : BitVec n) : BitVec n := x.reverse

/-- Byte i moved to byte 7 − i. -/
def reverseBytes (x : W64) : W64 := BitVec.ofNat 64 (natOfBytes (bytesOfNat x.toNat 8).reverse)

/-- What a word of two scalar sources asks (format S3). -/
def useS3 (d a b : BitVec 7) (ea eb : Bool) : Use :=
  { srcS := [(a.toNat, ea), (b.toNat, eb)], dstS := [d.toNat] }

/-- What a word of one scalar source asks. -/
def useS1 (d a : BitVec 7) (ea : Bool) : Use := { srcS := [(a.toNat, ea)], dstS := [d.toNat] }

/-- sd = op sa sb (R162). -/
def scalar3 (op : W64 → W64 → W64) (d a b : BitVec 7) (ea eb : Bool) (s : State) : Result :=
  run (useS3 d a b ea eb) (fun s => s.setS d.toNat (op (s.sreg a.toNat) (s.sreg b.toNat))) s

/-- sd = op sa (R163, R164, R165). -/
def scalar1 (op : W64 → W64) (d a : BitVec 7) (ea : Bool) (s : State) : Result :=
  run (useS1 d a ea) (fun s => s.setS d.toNat (op (s.sreg a.toNat))) s

/-- sd = exec; exec = op exec sa (R164): the old exec and sa are read first. -/
def scalarExec (op : W64 → W64 → W64) (d a : BitVec 7) (ea : Bool) (s : State) : Result :=
  run (useS1 d a ea) (fun s => (s.setS d.toNat s.w.a.exec).setExec (op s.w.a.exec (s.sreg a.toNat))) s

/-- SADD (R162). -/
def execSadd (d : BitVec 7) (a : BitVec 7) (b : BitVec 7) (ea : Bool) (eb : Bool) (s : State) : Result :=
  scalar3 (fun a b => a + b) d a b ea eb s

/-- SSUB (R162). -/
def execSsub (d : BitVec 7) (a : BitVec 7) (b : BitVec 7) (ea : Bool) (eb : Bool) (s : State) : Result :=
  scalar3 (fun a b => a - b) d a b ea eb s

/-- SMUL (R162). -/
def execSmul (d : BitVec 7) (a : BitVec 7) (b : BitVec 7) (ea : Bool) (eb : Bool) (s : State) : Result :=
  scalar3 (fun a b => a * b) d a b ea eb s

/-- SMULH (R162). -/
def execSmulh (d : BitVec 7) (a : BitVec 7) (b : BitVec 7) (ea : Bool) (eb : Bool) (s : State) : Result :=
  scalar3 (fun a b => mulHighS a b) d a b ea eb s

/-- SMULHU (R162). -/
def execSmulhu (d : BitVec 7) (a : BitVec 7) (b : BitVec 7) (ea : Bool) (eb : Bool) (s : State) : Result :=
  scalar3 (fun a b => mulHighU a b) d a b ea eb s

/-- SAND (R162). -/
def execSand (d : BitVec 7) (a : BitVec 7) (b : BitVec 7) (ea : Bool) (eb : Bool) (s : State) : Result :=
  scalar3 (fun a b => a &&& b) d a b ea eb s

/-- SOR (R162). -/
def execSor (d : BitVec 7) (a : BitVec 7) (b : BitVec 7) (ea : Bool) (eb : Bool) (s : State) : Result :=
  scalar3 (fun a b => a ||| b) d a b ea eb s

/-- SXOR (R162). -/
def execSxor (d : BitVec 7) (a : BitVec 7) (b : BitVec 7) (ea : Bool) (eb : Bool) (s : State) : Result :=
  scalar3 (fun a b => a ^^^ b) d a b ea eb s

/-- SSHL (R162). -/
def execSshl (d : BitVec 7) (a : BitVec 7) (b : BitVec 7) (ea : Bool) (eb : Bool) (s : State) : Result :=
  scalar3 (fun a b => a <<< (b.toNat % 64)) d a b ea eb s

/-- SSHR (R162). -/
def execSshr (d : BitVec 7) (a : BitVec 7) (b : BitVec 7) (ea : Bool) (eb : Bool) (s : State) : Result :=
  scalar3 (fun a b => a >>> (b.toNat % 64)) d a b ea eb s

/-- SSRA (R162). -/
def execSsra (d : BitVec 7) (a : BitVec 7) (b : BitVec 7) (ea : Bool) (eb : Bool) (s : State) : Result :=
  scalar3 (fun a b => a.sshiftRight (b.toNat % 64)) d a b ea eb s

/-- SMIN (R162). -/
def execSmin (d : BitVec 7) (a : BitVec 7) (b : BitVec 7) (ea : Bool) (eb : Bool) (s : State) : Result :=
  scalar3 (fun a b => if a.slt b then a else b) d a b ea eb s

/-- SMAX (R162). -/
def execSmax (d : BitVec 7) (a : BitVec 7) (b : BitVec 7) (ea : Bool) (eb : Bool) (s : State) : Result :=
  scalar3 (fun a b => if a.slt b then b else a) d a b ea eb s

/-- SMINU (R162). -/
def execSminu (d : BitVec 7) (a : BitVec 7) (b : BitVec 7) (ea : Bool) (eb : Bool) (s : State) : Result :=
  scalar3 (fun a b => if a.ult b then a else b) d a b ea eb s

/-- SMAXU (R162). -/
def execSmaxu (d : BitVec 7) (a : BitVec 7) (b : BitVec 7) (ea : Bool) (eb : Bool) (s : State) : Result :=
  scalar3 (fun a b => if a.ult b then b else a) d a b ea eb s

/-- SANDN (R162). -/
def execSandn (d : BitVec 7) (a : BitVec 7) (b : BitVec 7) (ea : Bool) (eb : Bool) (s : State) : Result :=
  scalar3 (fun a b => a &&& ~~~b) d a b ea eb s

/-- SCEQ (R162). -/
def execSceq (d : BitVec 7) (a : BitVec 7) (b : BitVec 7) (ea : Bool) (eb : Bool) (s : State) : Result :=
  scalar3 (fun a b => flag (a == b)) d a b ea eb s

/-- SCNE (R162). -/
def execScne (d : BitVec 7) (a : BitVec 7) (b : BitVec 7) (ea : Bool) (eb : Bool) (s : State) : Result :=
  scalar3 (fun a b => flag (a != b)) d a b ea eb s

/-- SCLT (R162). -/
def execSclt (d : BitVec 7) (a : BitVec 7) (b : BitVec 7) (ea : Bool) (eb : Bool) (s : State) : Result :=
  scalar3 (fun a b => flag (a.slt b)) d a b ea eb s

/-- SCLE (R162). -/
def execScle (d : BitVec 7) (a : BitVec 7) (b : BitVec 7) (ea : Bool) (eb : Bool) (s : State) : Result :=
  scalar3 (fun a b => flag (a.sle b)) d a b ea eb s

/-- SCLTU (R162). -/
def execScltu (d : BitVec 7) (a : BitVec 7) (b : BitVec 7) (ea : Bool) (eb : Bool) (s : State) : Result :=
  scalar3 (fun a b => flag (a.ult b)) d a b ea eb s

/-- SCLEU (R162). -/
def execScleu (d : BitVec 7) (a : BitVec 7) (b : BitVec 7) (ea : Bool) (eb : Bool) (s : State) : Result :=
  scalar3 (fun a b => flag (a.ule b)) d a b ea eb s

/-- SCBIT (R162). -/
def execScbit (d : BitVec 7) (a : BitVec 7) (b : BitVec 7) (ea : Bool) (eb : Bool) (s : State) : Result :=
  scalar3 (fun a b => flag (a.getLsbD (b.toNat % 64))) d a b ea eb s

/-- SSEL (R162): sd's old value chooses; it is read without an e-bit (R161). -/
def execSsel (d a b : BitVec 7) (ea eb : Bool) (s : State) : Result :=
  run { useS3 d a b ea eb with oldS := [d.toNat] }
    (fun s => s.setS d.toNat (if s.sreg d.toNat != 0 then s.sreg a.toNat else s.sreg b.toNat)) s

/-- SADDI (R163, Table 7.5). -/
def execSaddi (d : BitVec 7) (a : BitVec 7) (imm : BitVec 8) (ea : Bool) (s : State) : Result :=
  scalar1 (fun a => a + imm.signExtend 64) d a ea s

/-- SANDI (R163, Table 7.5). -/
def execSandi (d : BitVec 7) (a : BitVec 7) (imm : BitVec 8) (ea : Bool) (s : State) : Result :=
  scalar1 (fun a => a &&& imm.signExtend 64) d a ea s

/-- SORI (R163, Table 7.5). -/
def execSori (d : BitVec 7) (a : BitVec 7) (imm : BitVec 8) (ea : Bool) (s : State) : Result :=
  scalar1 (fun a => a ||| imm.signExtend 64) d a ea s

/-- SXORI (R163, Table 7.5). -/
def execSxori (d : BitVec 7) (a : BitVec 7) (imm : BitVec 8) (ea : Bool) (s : State) : Result :=
  scalar1 (fun a => a ^^^ imm.signExtend 64) d a ea s

/-- SSHLI (R163, Table 7.5). -/
def execSshli (d : BitVec 7) (a : BitVec 7) (imm : BitVec 8) (ea : Bool) (s : State) : Result :=
  scalar1 (fun a => a <<< imm.toNat) d a ea s

/-- SSHRI (R163, Table 7.5). -/
def execSshri (d : BitVec 7) (a : BitVec 7) (imm : BitVec 8) (ea : Bool) (s : State) : Result :=
  scalar1 (fun a => a >>> imm.toNat) d a ea s

/-- SSRAI (R163, Table 7.5). -/
def execSsrai (d : BitVec 7) (a : BitVec 7) (imm : BitVec 8) (ea : Bool) (s : State) : Result :=
  scalar1 (fun a => a.sshiftRight imm.toNat) d a ea s

/-- SCLTI (R163, Table 7.5). -/
def execSclti (d : BitVec 7) (a : BitVec 7) (imm : BitVec 8) (ea : Bool) (s : State) : Result :=
  scalar1 (fun a => flag (a.slt (imm.signExtend 64))) d a ea s

/-- SMOVI (R163). -/
def execSmovi (d : BitVec 7) (imm : BitVec 19) (s : State) : Result :=
  run { dstS := [d.toNat] } (fun s => s.setS d.toNat (imm.signExtend 64)) s

/-- SINSH (R163): halfword k of sd replaced. -/
def execSinsh (d : BitVec 7) (k : BitVec 2) (imm : BitVec 16) (s : State) : Result :=
  run { oldS := [d.toNat], dstS := [d.toNat] } (fun s =>
    s.setS d.toNat ((s.sreg d.toNat &&& ~~~(0xffff#64 <<< (16 * k.toNat))) ||| (imm.setWidth 64 <<< (16 * k.toNat)))) s

/-- SGETX (R164). -/
def execSgetx (d : BitVec 7) (s : State) : Result :=
  run { dstS := [d.toNat] } (fun s => s.setS d.toNat s.w.a.exec) s

/-- SSETX (R164). -/
def execSsetx (a : BitVec 7) (ea : Bool) (s : State) : Result :=
  run { srcS := [(a.toNat, ea)] } (fun s => s.setExec (s.sreg a.toNat)) s

/-- SANDX (R164). -/
def execSandx (d a : BitVec 7) (ea : Bool) (s : State) : Result := scalarExec (fun x a => x &&& a) d a ea s

/-- SANDNX (R164). -/
def execSandnx (d a : BitVec 7) (ea : Bool) (s : State) : Result := scalarExec (fun x a => x &&& ~~~a) d a ea s

/-- SORX (R164). -/
def execSorx (d a : BitVec 7) (ea : Bool) (s : State) : Result := scalarExec (fun x a => x ||| a) d a ea s

/-- SFULLX (R164). -/
def execSfullx (d : BitVec 7) (s : State) : Result :=
  run { dstS := [d.toNat] } (fun s => s.setS d.toNat (fullMask s.w.width)) s

/-- SPOPC (R164). -/
def execSpopc (d : BitVec 7) (a : BitVec 7) (ea : Bool) (s : State) : Result :=
  scalar1 (fun a => BitVec.ofNat 64 (popcount 64 a)) d a ea s

/-- SFFS (R164). -/
def execSffs (d : BitVec 7) (a : BitVec 7) (ea : Bool) (s : State) : Result :=
  scalar1 (fun a => BitVec.ofNat 64 (trailingZeros 64 a)) d a ea s

/-- SCLZ (R165). -/
def execSclz (d : BitVec 7) (a : BitVec 7) (ea : Bool) (s : State) : Result :=
  scalar1 (fun a => BitVec.ofNat 64 (leadingZeros 64 a)) d a ea s

/-- SCTZ (R165). -/
def execSctz (d : BitVec 7) (a : BitVec 7) (ea : Bool) (s : State) : Result :=
  scalar1 (fun a => BitVec.ofNat 64 (trailingZeros 64 a)) d a ea s

/-- SBREV (R165). -/
def execSbrev (d : BitVec 7) (a : BitVec 7) (ea : Bool) (s : State) : Result :=
  scalar1 (fun a => reverseBits 64 a) d a ea s

/-- SBSWAP (R165). -/
def execSbswap (d : BitVec 7) (a : BitVec 7) (ea : Bool) (s : State) : Result :=
  scalar1 (fun a => reverseBytes a) d a ea s

/-- SEXTB (R165). -/
def execSextb (d : BitVec 7) (a : BitVec 7) (ea : Bool) (s : State) : Result :=
  scalar1 (fun a => (a.setWidth 8).signExtend 64) d a ea s

/-- SEXTH (R165). -/
def execSexth (d : BitVec 7) (a : BitVec 7) (ea : Bool) (s : State) : Result :=
  scalar1 (fun a => (a.setWidth 16).signExtend 64) d a ea s

/-- SEXTW (R165). -/
def execSextw (d : BitVec 7) (a : BitVec 7) (ea : Bool) (s : State) : Result :=
  scalar1 (fun a => (a.setWidth 32).signExtend 64) d a ea s

/-- SZEXTW (R165). -/
def execSzextw (d : BitVec 7) (a : BitVec 7) (ea : Bool) (s : State) : Result :=
  scalar1 (fun a => (a.setWidth 32).setWidth 64) d a ea s

end Sys2Proof.Machine
end

