-- ==== Sys2Proof/Machine/Flags.lean ====
section
/-! DEFINITION. Floating-point flags: recording them per thread (R58, R195) and the trap on an enabled one, taken after the
word completes (R157, R196). -/

namespace Sys2Proof.Machine

/-- The wave's rounding mode (Table 4.2). -/
def Wave.rounding (w : Wave) : Rounding := Rounding.ofBits w.rmode

/-- The threads that raised a flag. -/
def raisedBy (flag : Flags) (fs : List (Nat × Flags)) : W64 := maskOf ((fs.filter (fun x => x.2 &&& flag != 0)).map (·.1))

/-- The five flag masks with some threads' flags added (R195). -/
def Arch.addFlags (a : Arch) (fs : List (Nat × Flags)) : Arch :=
  { a with
    flNv := a.flNv ||| raisedBy Flags.nv fs
    flDz := a.flDz ||| raisedBy Flags.dz fs
    flOf := a.flOf ||| raisedBy Flags.of fs
    flUf := a.flUf ||| raisedBy Flags.uf fs
    flNx := a.flNx ||| raisedBy Flags.nx fs }

/-- All flags raised by some threads. -/
def allRaised (fs : List (Nat × Flags)) : Flags := fs.foldl (fun f x => f ||| x.2) 0

/-- The trap of R157 on the wave in focus, which stands past the word: at once if it is non-speculative, otherwise when it
becomes so; inside a transaction it aborts with code 6 (R210). `seq` numbers the word. -/
def postTrap (seq : Nat) (detail : Flags) (mask inst : W64) (s : State) : State :=
  let t : PendTrap := ⟨Cause.fp, detail.setWidth 8, true, mask, inst, s.w.a.pos.pc, 0, 0, 0, 0, false⟩
  if s.w.txn.isSome then abortTxn s.focus 6#3 s
  else if s.w.speculative then
    s.onWave (fun w => if w.pend.isSome then w else { w with pend := some t, pendSeq := seq, hold := .nonspec })
  else deliverTrap t s

/-- An FP word is done: its flags are recorded, the wave moves past it, and an enabled flag traps (R157). -/
def finishFlags (u : Use) (fs : List (Nat × Flags)) (s : State) : State :=
  let inst := s.w.inst
  let seq := s.w.seq
  let enabled := allRaised fs &&& s.w.fte
  let s := finish u (s.onArch (fun a => a.addFlags fs))
  if enabled = 0 then s else postTrap seq enabled (raisedBy s.w.fte fs) inst s

end Sys2Proof.Machine
end

