-- ==== Sys2Proof/Machine/Special.lean ====
section
/-! DEFINITION. The special registers (Table 8.1, R159, R160): their values for any wave, and their writes. -/

namespace Sys2Proof.Machine

/-- The lane map of a quarter (R5): all sixteen lanes good where none is recorded. (DESIGN CHOICE, log 5, safe.) -/
def laneMap (s : State) (quarter : Nat) : BitVec 16 := look 0xffff s.lanemaps quarter

/-- Good lanes (R6). -/
def goodLanes (s : State) (quarter : Nat) : Nat := popcount 16 (laneMap s quarter)

/-- ⌈A/G⌉ (R17). (DEDUCED, log 14, safe.) -/
def passCount (s : State) (w : Wave) : Nat :=
  let g := goodLanes s w.quarterId
  (popcount 64 w.a.exec + g - 1) / g

/-- specrb (Table 6.2). -/
def Wave.specrb (w : Wave) : W64 := 0#24 ++ BitVec.ofNat 8 w.consec ++ w.total

/-- specmode (Table 6.3). -/
def Wave.specmode (w : Wave) : W64 := 0#55 ++ BitVec.ofBool w.force ++ 0#5 ++ BitVec.ofBool (!w.holds.isEmpty) ++ w.mode

/-- txstat (Table 10.8). (DEDUCED, log 50, unsafe.) -/
def Wave.txstat (w : Wave) : W64 :=
  0#16 ++ w.txUser ++ BitVec.ofBool (w.txn.any (·.sole)) ++ BitVec.ofBool w.txn.isSome ++ 0#3 ++ w.txCode ++ w.txAborts ++ 0#16

/-- The four words of a stream port (Table 5.6). -/
def StreamPort.words (p : StreamPort) (i : Nat) : W64 :=
  match i with
  | 0 => BitVec.ofBool p.bound ++ BitVec.ofBool p.dir ++ p.size ++ 0#12 ++ p.handle ++ p.base
  | 1 => p.tstride ++ 0#32
  | 2 => p.sstride
  | _ => p.count ++ p.step

/-- A queue's 16 bits of qstate (Table 5.7). -/
def Wave.qfield (w : Wave) (q : Nat) : BitVec 16 :=
  let p := w.a.queue q
  let occ := if q < 2 then p.issued - p.gone else w.storeOcc q
  BitVec.ofBool p.bound ++ BitVec.ofBool (p.bound && decide (p.total ≤ p.issued)) ++ 0#1 ++ BitVec.ofNat 5 occ ++ 0#8

def Wave.qstate (w : Wave) : W64 := w.qfield 3 ++ w.qfield 2 ++ w.qfield 1 ++ w.qfield 0

/-- The value of a special register of a wave (Table 8.1, Table 17.2); `none` where the number is unassigned.
(DEDUCED, log 73, safe.) -/
def sprValue (s : State) (w : Wave) (n : Nat) : Option W64 :=
  if n = 0x000 then some w.a.exec
  else if n = 0x001 then some (BitVec.ofNat 64 w.wid)
  else if n = 0x002 then some (w.teamid.setWidth 64)
  else if n = 0x003 then some (BitVec.ofNat 64 w.width)
  else if n = 0x004 then some ((laneMap s w.quarterId).setWidth 64)
  else if n = 0x005 then some (BitVec.ofNat 64 (passCount s w))
  else if n = 0x006 then some w.gang
  else if n = 0x007 then some w.mprog
  else if n = 0x008 then some w.a.flNv
  else if n = 0x009 then some w.a.flDz
  else if n = 0x00a then some w.a.flOf
  else if n = 0x00b then some w.a.flUf
  else if n = 0x00c then some w.a.flNx
  else if n = 0x00d then some (w.fte.setWidth 64)
  else if n = 0x00e then some (w.rmode.setWidth 64)
  else if n = 0x010 then some w.trcause
  else if n = 0x011 then some (w.trpc &&& 0x000ffffffffffffc#64)
  else if n = 0x012 then some w.trmask
  else if n = 0x013 then some w.trinst
  else if n = 0x014 then some w.trexec
  else if n = 0x015 then some w.trvec
  else if 0x018 ≤ n ∧ n ≤ 0x01f then some (BitVec.ofNat 64 (w.count (n - 0x018)))
  else if n = 0x020 then some w.specrb
  else if n = 0x021 then some w.specmode
  else if n = 0x022 then some w.txstat
  else if n = 0x028 then some (BitVec.ofNat 64 w.core)
  else if n = 0x029 then some (BitVec.ofNat 64 w.quarter)
  else if n = 0x02a then some (w.env.launchid.setWidth 64)
  else if n = 0x030 then some (s.clockOf w.core)
  else if n = 0x031 then some s.nanotime
  else if n = 0x040 then some w.env.stepptr
  else if 0x080 ≤ n ∧ n ≤ 0x087 then some ((w.env.slots.getD (n - 0x080) 0).setWidth 64)
  else if 0x090 ≤ n ∧ n ≤ 0x09f then some ((w.a.stream ((n - 0x090) / 4)).words ((n - 0x090) % 4))
  else if n = 0x0a0 then some w.qstate
  else if n = 0x100 then some (w.env.tag.setWidth 64)
  else if n = 0x101 then some (w.env.part.setWidth 64)
  else if n = 0x102 then some w.env.ctxdesc
  else if n = 0x103 then some w.env.lrec
  else if n = 0x104 then some (w.env.level.setWidth 64)
  else none

/-- The supervisor range of Table 8.1. (DEDUCED, log 74, safe.) -/
def sprSupervisor (n : Nat) : Bool := 0x100 ≤ n && n ≤ 0x1ff

/-- What Table 8.1 says of a write: revocable, irrevocable, irrevocable and in a handler only, or refused with 0x07. -/
inductive SprWrite where
  | revocable | irrevocable | handlerOnly | readOnly
  deriving DecidableEq, Repr

/-- DEDUCED, log 74, safe. -/
def sprWrite (n : Nat) : SprWrite :=
  if n = 0x000 ∨ (0x008 ≤ n ∧ n ≤ 0x00c) then .revocable
  else if n = 0x006 ∨ n = 0x00d ∨ n = 0x00e ∨ n = 0x021 then .irrevocable
  else if n = 0x011 ∨ n = 0x014 then .handlerOnly
  else .readOnly

/-- The wids a gang value lists, in rank order (Table 11.1). -/
def gangWids (g : W64) : List Nat :=
  ((List.range 6).filter (fun j => g.getLsbD (8 * j + 7))).map (fun j => (g.extractLsb' (8 * j) 7).toNat)

/-- The quarter of a wave of a team, as numbered across its cores (R22). -/
def quarterOfWid (twin : Bool) (wid : Nat) : Nat := if twin then 4 * (wid % 2) + wid / 2 % 4 else wid % 4

/-- A gang value that R219 admits. -/
def gangOk (w : Wave) (g : W64) : Bool :=
  let n := (gangWids g).length
  g == 0 ||
    ((List.range 6).all (fun j => g.getLsbD (8 * j + 7) == decide (j < n)) && decide (2 ≤ n) &&
      (gangWids g).eraseDups.length == n && (gangWids g).contains w.wid &&
      (gangWids g).all (fun i => decide (i < w.waves) && quarterOfWid w.twin i == quarterOfWid w.twin w.wid))

/-- A write of a special register (Table 8.1), its conditions met. (DEDUCED, log 73, safe.) -/
def writeSpr (n : Nat) (x : W64) (s : State) : State :=
  let full := fullMask s.w.width
  if n = 0x000 then s.setExec x
  else if n = 0x006 then s.onWave (fun w => { w with gang := x &&& 0x0000ffffffffffff#64 })
  else if n = 0x008 then s.onArch (fun a => { a with flNv := x &&& full })
  else if n = 0x009 then s.onArch (fun a => { a with flDz := x &&& full })
  else if n = 0x00a then s.onArch (fun a => { a with flOf := x &&& full })
  else if n = 0x00b then s.onArch (fun a => { a with flUf := x &&& full })
  else if n = 0x00c then s.onArch (fun a => { a with flNx := x &&& full })
  else if n = 0x00d then s.onWave (fun w => { w with fte := x.setWidth 5 })
  else if n = 0x00e then s.onWave (fun w => { w with rmode := x.setWidth 2 })
  else if n = 0x011 then s.onWave (fun w => { w with trpc := x &&& 0x000ffffffffffffc#64, trwritten := true })
  else if n = 0x014 then s.onWave (fun w => { w with trexec := x })
  else if n = 0x021 then
    s.onWave (fun w => { w with force := x.getLsbD 8, mode := if x.getLsbD 8 && w.mode == 0#2 then 1#2 else w.mode })
  else s

/-- Time passes before a clock or nanotime is read (R12): by an amount the model leaves free, never backward; every core's clock follows
it. (DESIGN CHOICE, log 4, unsafe.) -/
def advanceNanotime (s : State) : State :=
  { s with nanotime := s.nanotime + (Config.nanoseconds s.free).setWidth 64, free := s.free + 1 }

/-- SMFR (R159). (DEDUCED, log 74, safe.) -/
def execSmfr (d : BitVec 7) (spr : BitVec 12) (s : State) : Result :=
  let n := spr.toNat
  let u : Use := { dstS := [d.toNat], illegal := (sprValue s s.w n).isNone && !(sprSupervisor n && !s.w.env.sup),
                   supervisor := sprSupervisor n }
  run u (fun s =>
    let s := if n = 0x030 ∨ n = 0x031 then advanceNanotime s else s
    s.setS d.toNat ((sprValue s s.w n).getD 0)) s

/-- SMTR (R159, R160, R219). (DEDUCED, log 74, safe.) -/
def execSmtr (a : BitVec 7) (spr : BitVec 12) (ea : Bool) (s : State) : Result :=
  let n := spr.toNat
  let kind := sprWrite n
  let readOnly := kind == .readOnly || (kind == .handlerOnly && !s.w.inHandler)
  let u : Use := { srcS := [(a.toNat, ea)], illegal := (sprValue s s.w n).isNone && !(sprSupervisor n && !s.w.env.sup),
                   supervisor := sprSupervisor n, irrevocable := kind != .revocable && !readOnly, both := true }
  issue u (fun s =>
    if readOnly then raise Cause.permission 0 0 s
    else if n = 0x006 && s.w.count 3 != 0 then .next (s.holdFor (.counters 8 0))
    else if n = 0x006 && !gangOk s.w (s.sreg a.toNat &&& 0x0000ffffffffffff#64) then raise Cause.gang 0 0 s
    else .next (finish u (writeSpr n (s.sreg a.toNat) s))) s

end Sys2Proof.Machine
end

