-- ==== Sys2Proof/Machine/Trans.lean ====
section
/-! DEFINITION. The transcendentals (R76 to R78). VRCP, VRSQ and VSQRT are correctly rounded. For the five approximating
ones the spec gives only a bound: the part's own value (an opaque constant of Config) is delivered when it lies within the
bound of Table 4.9, and the correctly rounded value otherwise. The functions are evaluated here as whole numbers of a small
unit, far below the bound. -/

namespace Sys2Proof.Machine

/-- The integer square root of `M` below 2^bits, bit by bit. -/
def isqrtGo (M : Nat) : Nat → Nat → Nat
  | 0, r => r
  | k + 1, r => let c := r + 2 ^ k; isqrtGo M k (if c * c ≤ M then c else r)

def isqrt (M : Nat) : Nat := isqrtGo M (bitLength M / 2 + 1) 0

/-- 1/x in a rounding mode (Table 4.9, Table 4.10). -/
def rcpF32 (mode : Rounding) (x : W32) : W32 × Flags :=
  word32 <| match f32.decode x.toNat with
  | .nan s => (f32.nanBits, if s then Flags.nv else 0)
  | .inf n => (f32.signed n 0, 0)
  | .fin n m e =>
    if m = 0 then (f32.signed n f32.infBits, Flags.dz)
    else
      let k := bitLength m + 40
      let q := 2 ^ k / m
      f32.round mode n (2 * q + if 2 ^ k % m = 0 then 0 else 1) (-e - k - 1)

/-- √x (Table 4.9, Table 4.10). -/
def sqrtF32 (mode : Rounding) (x : W32) : W32 × Flags :=
  word32 <| match f32.decode x.toNat with
  | .nan s => (f32.nanBits, if s then Flags.nv else 0)
  | .inf n => if n then (f32.nanBits, Flags.nv) else (f32.infBits, 0)
  | .fin n m e =>
    if m = 0 then (f32.signed n 0, 0)
    else if n then (f32.nanBits, Flags.nv)
    else
      let odd := e % 2 != 0
      let M := (if odd then 2 * m else m) * 2 ^ 80
      let E := (if odd then e - 1 else e) - 80
      let r := isqrt M
      f32.round mode false (2 * r + if r * r = M then 0 else 1) (E / 2 - 1)

/-- 1/√x (Table 4.9, Table 4.10). -/
def rsqF32 (mode : Rounding) (x : W32) : W32 × Flags :=
  word32 <| match f32.decode x.toNat with
  | .nan s => (f32.nanBits, if s then Flags.nv else 0)
  | .inf n => if n then (f32.nanBits, Flags.nv) else (0, 0)
  | .fin n m e =>
    if m = 0 then (f32.signed n f32.infBits, Flags.dz)
    else if n then (f32.nanBits, Flags.nv)
    else
      let odd := e % 2 != 0
      let M := if odd then 2 * m else m
      let E := if odd then e - 1 else e
      let K : Nat := 70
      let r := isqrt (2 ^ (2 * K) / M)
      f32.round mode false (2 * r + if r * r * M = 2 ^ (2 * K) then 0 else 1) (-(E / 2) - K - 1)

/-! ### High-precision evaluation -/

/-- ln 2 and log2 e in units of 2^−300, 2π in units of 2^−448. -/
def ln2Fix : Nat := 0xb17217f7d1cf79abc9e3b39803f2f6af40f343267298b62d8a0d175b8baafa2be7b876206de
def log2eFix : Nat := 0x171547652b82fe1777d0ffda0d23a7d11d6aef551bad2b4b1164a2cd9a342648fbc3887eeaa2
def twoPiFix : Nat :=
  0x6487ed5110b4611a62633145c06e0e68948127044533e63a0105df531d89cd9128a5043cc71a026ef7ca8cd9e69d218d98158536f92f8a1ba

/-- Terms of e^y for y in units of 2^−300: `fuel` terms from term `k` on. -/
def expSeries (y : Nat) : Nat → Nat → Nat → Nat
  | 0, _, _ => 0
  | fuel + 1, k, term => term + expSeries y fuel (k + 1) (term * y / (2 ^ 300 * (k + 1)))

/-- 2^f for f in units of 2^−300 below 1, in units of 2^−300. -/
def exp2Frac (f : Nat) : Nat := expSeries (f * ln2Fix / 2 ^ 300) 80 0 (2 ^ 300)

/-- 2^(X/2^300) in units of 2^−448, for an exponent between −440 and 2,000; smaller powers give 0. -/
def exp2Fix (X : Int) : Nat :=
  let n := X / 2 ^ 300
  let f := (X % 2 ^ 300).toNat
  if n < -440 then 0
  else
    let n' := (min n 2000) + 148
    if 0 ≤ n' then exp2Frac f * 2 ^ n'.toNat else exp2Frac f / 2 ^ (-n').toNat

/-- Bits of log2 y for y in [1, 2) in units of 2^−300: `fuel` bits, gathered onto `acc`. -/
def log2Bits : Nat → Nat → Nat → Nat
  | 0, _, acc => acc
  | fuel + 1, y, acc =>
    let z := y * y / 2 ^ 300
    if 2 ^ 301 ≤ z then log2Bits fuel (z / 2) (2 * acc + 1) else log2Bits fuel z (2 * acc)

/-- log2 (m × 2^e) in units of 2^−128, rounded down. -/
def log2Fix (m : Nat) (e : Int) : Int :=
  (e + m.log2) * 2 ^ 128 + log2Bits 128 (m * 2 ^ (300 - m.log2)) 0

/-- Terms of the sine or cosine series for an angle whose square is `y2`, both in units of 2^−448. -/
def trigSeries (y2 : Nat) : Nat → Nat → Int → Int
  | 0, _, _ => 0
  | fuel + 1, k, term => term + trigSeries y2 fuel (k + 2) (-(term * y2 / (2 ^ 448 * ((k + 1) * (k + 2)) : Nat)))

/-- The angle m × 2^e modulo 2π, in units of 2^−448. -/
def angleFix (m : Nat) (e : Int) : Nat := (m * 2 ^ (e + 448).toNat) % twoPiFix

/-- sin and cos of an angle in units of 2^−448. -/
def sinFix (y : Nat) : Int := trigSeries (y * y / 2 ^ 448) 90 1 y
def cosFix (y : Nat) : Int := trigSeries (y * y / 2 ^ 448) 90 0 (2 ^ 448 : Nat)

/-- tanh (m × 2^e) in units of 2^−300, for e at least −149. -/
def tanhFix (m : Nat) (e : Int) : Nat :=
  let t := m * 2 ^ (e + 301).toNat
  if 32 * 2 ^ 300 ≤ t / 2 then 2 ^ 300 - 1
  else
    let v := t * log2eFix / 2 ^ 300
    let E := exp2Frac (v % 2 ^ 300) * 2 ^ (v / 2 ^ 300)
    (E - 2 ^ 300) * 2 ^ 300 / (E + 2 ^ 300)

/-! ### The bound of Table 4.9 -/

/-- Whether a candidate lies within `ulps` ulp of M × 2^−s, with room for the error of M (2^20 units).
(DESIGN CHOICE, log 20, safe.) -/
def withinUlps (ulps : Nat) (candidate : W32) (M : Int) (s : Nat) : Bool :=
  match f32.decode candidate.toNat with
  | .fin neg m e =>
    let v := scaled neg m e (-(s : Int))
    let top : Int := (bitLength M.natAbs : Int) - 1 - s
    let ulp : Int := max (top - 23) (-149)
    (v - M).natAbs + 2 ^ 20 ≤ ulps * 2 ^ (ulp + s).toNat
  | _ => false

/-- Whether a candidate lies within 2^−21 of M × 2^−s. (DESIGN CHOICE, log 20, safe.) -/
def withinAbsolute (candidate : W32) (M : Int) (s : Nat) : Bool :=
  match f32.decode candidate.toNat with
  | .fin neg m e => (scaled neg m e (-(s : Int)) - M).natAbs + 2 ^ 20 ≤ 2 ^ (s - 21)
  | _ => false

/-- Whether a candidate lies in [−1, 1]. -/
def inUnit (candidate : W32) : Bool := (candidate &&& 0x7fffffff#32).toNat ≤ 0x3f800000

/-- M × 2^−s, not exactly representable, correctly rounded to nearest. -/
def nearest (M : Int) (s : Nat) : W32 :=
  BitVec.ofNat 32 (f32.round .rne (M < 0) (2 * M.natAbs + 1) (-(s : Int) - 1)).1

/-- The part's candidate if it is within the bound, the nearest value otherwise; and the flags of R77.
(DESIGN CHOICE, log 20, safe; DEDUCED, log 21, unsafe.) -/
def approximated (candidate : W32) (ok : Bool) (fallback : W32) : W32 × Flags :=
  let r := if ok then candidate else fallback
  let mag := (r &&& 0x7fffffff#32).toNat
  (r, Flags.nx ||| (if mag = f32.infBits then Flags.of else 0) ||| (if mag < 0x00800000 then Flags.uf else 0))

/-- A NaN result for a NaN input. -/
def nanResult (signalling : Bool) : W32 × Flags := (BitVec.ofNat 32 f32.nanBits, if signalling then Flags.nv else 0)

/-- Whether ±m × 2^e is a whole number, and which. -/
def wholeOf (neg : Bool) (m : Nat) (e : Int) : Option Int :=
  let (w, exact) := toWhole .rtz neg m e
  if exact then some w else none

/-- 2^x (Table 4.10). (DESIGN CHOICE, log 20, safe.) -/
def exp2F32 (x : W32) : W32 × Flags :=
  match f32.decode x.toNat with
  | .nan s => nanResult s
  | .inf neg => (if neg then 0#32 else BitVec.ofNat 32 f32.infBits, 0)
  | .fin neg m e =>
    let exact := match wholeOf neg m e with
      | some k => if -149 ≤ k && k ≤ 127 then some k else none
      | none => none
    match exact with
    | some k => (BitVec.ofNat 32 (f32.round .rne false 1 k).1, 0)
    | none =>
      let M := exp2Fix (scaled neg m e (-300))
      approximated (Config.exp2 x) (withinUlps 1 (Config.exp2 x) M 448) (nearest M 448)

/-- log2 x (Table 4.10). (DESIGN CHOICE, log 20, safe.) -/
def log2F32 (x : W32) : W32 × Flags :=
  match f32.decode x.toNat with
  | .nan s => nanResult s
  | .inf neg => if neg then (BitVec.ofNat 32 f32.nanBits, Flags.nv) else (BitVec.ofNat 32 f32.infBits, 0)
  | .fin neg m e =>
    if m = 0 then (BitVec.ofNat 32 (f32.signed true f32.infBits), Flags.dz)
    else if neg then (BitVec.ofNat 32 f32.nanBits, Flags.nv)
    else if m = 2 ^ m.log2 then ((intToF32 .rne (e + m.log2)).1, 0)
    else
      let M := log2Fix m e
      approximated (Config.log2 x) (withinUlps 1 (Config.log2 x) M 128) (nearest M 128)

/-- The bound on VSIN and VCOS (Table 4.9): 2 ulp up to 65,536, 2^−21 beyond, never outside [−1, 1].
(DESIGN CHOICE, log 20, safe.) -/
def trigOk (x candidate : W32) (M : Int) : Bool :=
  inUnit candidate && (if (x &&& 0x7fffffff#32).toNat ≤ 0x47800000 then withinUlps 2 candidate M 448
    else withinAbsolute candidate M 448)

/-- sin x (Table 4.10). (DESIGN CHOICE, log 20, safe.) -/
def sinF32 (x : W32) : W32 × Flags :=
  match f32.decode x.toNat with
  | .nan s => nanResult s
  | .inf _ => (BitVec.ofNat 32 f32.nanBits, Flags.nv)
  | .fin neg m e =>
    if m = 0 then (x, 0)
    else
      let M := (if neg then -1 else 1) * sinFix (angleFix m e)
      approximated (Config.sin x) (trigOk x (Config.sin x) M) (nearest M 448)

/-- cos x (Table 4.10). (DESIGN CHOICE, log 20, safe.) -/
def cosF32 (x : W32) : W32 × Flags :=
  match f32.decode x.toNat with
  | .nan s => nanResult s
  | .inf _ => (BitVec.ofNat 32 f32.nanBits, Flags.nv)
  | .fin _ m e =>
    if m = 0 then (0x3f800000#32, 0)
    else
      let M := cosFix (angleFix m e)
      approximated (Config.cos x) (trigOk x (Config.cos x) M) (nearest M 448)

/-- tanh x (Table 4.10). (DESIGN CHOICE, log 20, safe.) -/
def tanhF32 (x : W32) : W32 × Flags :=
  match f32.decode x.toNat with
  | .nan s => nanResult s
  | .inf neg => (if neg then 0xbf800000#32 else 0x3f800000#32, 0)
  | .fin neg m e =>
    if m = 0 then (x, 0)
    else
      let M := (if neg then -1 else 1) * (tanhFix m e : Int)
      approximated (Config.tanh x) (inUnit (Config.tanh x) && withinUlps 2 (Config.tanh x) M 300) (nearest M 300)

/-- Major 0x1d by fn (R191). -/
def transcendental (fn : Nat) (mode : Rounding) (x : W32) : W32 × Flags :=
  match fn with
  | 0 => rcpF32 mode x
  | 1 => rsqF32 mode x
  | 2 => sqrtF32 mode x
  | 3 => exp2F32 x
  | 4 => log2F32 x
  | 5 => sinF32 x
  | 6 => cosF32 x
  | _ => tanhF32 x

end Sys2Proof.Machine
end

