-- ==== Sys2Proof/Machine/Vector.lean ====
section
/-! DEFINITION. The vector words of majors 0x12 to 0x1f (R181 to R196): once per acting thread, on 32-bit values. -/

namespace Sys2Proof.Machine

/-- What a word of two vector sources asks (format V3), of a vector and a scalar (VS), of one vector (VI and others).
(DEDUCED, log 158, unsafe.) -/
def useV3 (d a b : BitVec 7) (ea eb : Bool) : Use :=
  { covered := true, srcV := [(a.toNat, ea), (b.toNat, eb)], dstV := [d.toNat] }
def useVS (d a b : BitVec 7) (ea eb : Bool) : Use :=
  { covered := true, srcV := [(a.toNat, ea)], srcS := [(b.toNat, eb)], dstV := [d.toNat] }
def useV1 (d a : BitVec 7) (ea : Bool) : Use := { covered := true, srcV := [(a.toNat, ea)], dstV := [d.toNat] }

/-- What a compare asks (format VC): its destination is a scalar. -/
def useVC (d a b : BitVec 7) (ea eb : Bool) : Use :=
  { covered := true, srcV := [(a.toNat, ea), (b.toNat, eb)], dstS := [d.toNat] }

/-- A scalar operand of a vector word: sb[31:0] (R181). -/
def State.sregW (s : State) (r : Nat) : W32 := (s.sreg r).setWidth 32

/-- vd[t] = f t in every acting thread (R181). -/
def vectorWord (u : Use) (d : BitVec 7) (f : State → Nat → W32) (s : State) : Result :=
  run u (fun s => s.setVs d.toNat (f s) s.w.actingThreads) s

/-- vd = op va vb, op va sb, op va imm (R184). -/
def vector3 (op : W32 → W32 → W32) (d a b : BitVec 7) (ea eb : Bool) (s : State) : Result :=
  vectorWord (useV3 d a b ea eb) d (fun s t => op (s.vreg a.toNat t) (s.vreg b.toNat t)) s
def vectorS (op : W32 → W32 → W32) (d a b : BitVec 7) (ea eb : Bool) (s : State) : Result :=
  vectorWord (useVS d a b ea eb) d (fun s t => op (s.vreg a.toNat t) (s.sregW b.toNat)) s
def vector1 (op : W32 → W32) (d a : BitVec 7) (ea : Bool) (s : State) : Result :=
  vectorWord (useV1 d a ea) d (fun s t => op (s.vreg a.toNat t)) s

/-- sd = the acting threads where a relation holds (R185). -/
def vectorC (rel : W32 → W32 → Bool) (d a b : BitVec 7) (ea eb : Bool) (s : State) : Result :=
  run (useVC d a b ea eb) (fun s =>
    s.setS d.toNat (maskOf (s.w.actingThreads.filter (fun t => rel (s.vreg a.toNat t) (s.vreg b.toNat t))))) s

/-- A word that raises flags: value and flags in every acting thread (R188, R195, R196). -/
def vectorFp (u : Use) (d : BitVec 7) (f : State → Nat → W32 × Flags) (s : State) : Result :=
  issue u (fun s =>
    let r := s.w.actingThreads.map (fun t => (t, f s t))
    .next (finishFlags u (r.map (fun x => (x.1, x.2.2)))
      (s.onArch (fun a => r.foldl (fun (a : Arch) x => a.setV d.toNat x.1 x.2.1) a)))) s

/-- vd = op va vb and op va sb in F32 under rmode (R188). -/
def fp3 (op : Rounding → W32 → W32 → W32 × Flags) (d a b : BitVec 7) (ea eb : Bool) (s : State) : Result :=
  vectorFp (useV3 d a b ea eb) d (fun s t => op s.w.rounding (s.vreg a.toNat t) (s.vreg b.toNat t)) s
def fpS (op : Rounding → W32 → W32 → W32 × Flags) (d a b : BitVec 7) (ea eb : Bool) (s : State) : Result :=
  vectorFp (useVS d a b ea eb) d (fun s t => op s.w.rounding (s.vreg a.toNat t) (s.sregW b.toNat)) s

/-- The words that read vd as a third source (R188, R190). -/
def fpAcc3 (op : Rounding → W32 → W32 → W32 → W32 × Flags) (d a b : BitVec 7) (ea eb : Bool) (s : State) : Result :=
  vectorFp { useV3 d a b ea eb with oldV := [d.toNat] } d
    (fun s t => op s.w.rounding (s.vreg a.toNat t) (s.vreg b.toNat t) (s.vreg d.toNat t)) s
def fpAccS (op : Rounding → W32 → W32 → W32 → W32 × Flags) (d a b : BitVec 7) (ea eb : Bool) (s : State) : Result :=
  vectorFp { useVS d a b ea eb with oldV := [d.toNat] } d
    (fun s t => op s.w.rounding (s.vreg a.toNat t) (s.sregW b.toNat) (s.vreg d.toNat t)) s

/-- F32 compares into a scalar mask (R189). -/
def fpCompare (fn : Nat) (d a b : BitVec 7) (ea eb : Bool) (s : State) : Result :=
  let u := useVC d a b ea eb
  issue u (fun s =>
    let r := s.w.actingThreads.map (fun t => (t, compareF32 fn (s.vreg a.toNat t) (s.vreg b.toNat t)))
    .next (finishFlags u (r.map (fun x => (x.1, x.2.2)))
      (s.setS d.toNat (maskOf ((r.filter (fun x => x.2.1)).map (·.1)))))) s

/-- High halves of the products (Table 9.3). -/
def mulHighS32 (a b : W32) : W32 := BitVec.ofInt 32 (a.toInt * b.toInt / 2 ^ 32)
def mulHighU32 (a b : W32) : W32 := BitVec.ofNat 32 (a.toNat * b.toNat / 2 ^ 32)

/-- VADD (R184). -/
def execVadd (d : BitVec 7) (a : BitVec 7) (b : BitVec 7) (ea : Bool) (eb : Bool) (s : State) : Result :=
  vector3 (fun a b => a + b) d a b ea eb s

/-- VSUB (R184). -/
def execVsub (d : BitVec 7) (a : BitVec 7) (b : BitVec 7) (ea : Bool) (eb : Bool) (s : State) : Result :=
  vector3 (fun a b => a - b) d a b ea eb s

/-- VMULLO (R184). -/
def execVmullo (d : BitVec 7) (a : BitVec 7) (b : BitVec 7) (ea : Bool) (eb : Bool) (s : State) : Result :=
  vector3 (fun a b => a * b) d a b ea eb s

/-- VMULHI (R184). -/
def execVmulhi (d : BitVec 7) (a : BitVec 7) (b : BitVec 7) (ea : Bool) (eb : Bool) (s : State) : Result :=
  vector3 (fun a b => mulHighS32 a b) d a b ea eb s

/-- VMULHU (R184). -/
def execVmulhu (d : BitVec 7) (a : BitVec 7) (b : BitVec 7) (ea : Bool) (eb : Bool) (s : State) : Result :=
  vector3 (fun a b => mulHighU32 a b) d a b ea eb s

/-- VMIN (R184). -/
def execVmin (d : BitVec 7) (a : BitVec 7) (b : BitVec 7) (ea : Bool) (eb : Bool) (s : State) : Result :=
  vector3 (fun a b => if a.slt b then a else b) d a b ea eb s

/-- VMAX (R184). -/
def execVmax (d : BitVec 7) (a : BitVec 7) (b : BitVec 7) (ea : Bool) (eb : Bool) (s : State) : Result :=
  vector3 (fun a b => if a.slt b then b else a) d a b ea eb s

/-- VMINU (R184). -/
def execVminu (d : BitVec 7) (a : BitVec 7) (b : BitVec 7) (ea : Bool) (eb : Bool) (s : State) : Result :=
  vector3 (fun a b => if a.ult b then a else b) d a b ea eb s

/-- VAND (R184). -/
def execVand (d : BitVec 7) (a : BitVec 7) (b : BitVec 7) (ea : Bool) (eb : Bool) (s : State) : Result :=
  vector3 (fun a b => a &&& b) d a b ea eb s

/-- VOR (R184). -/
def execVor (d : BitVec 7) (a : BitVec 7) (b : BitVec 7) (ea : Bool) (eb : Bool) (s : State) : Result :=
  vector3 (fun a b => a ||| b) d a b ea eb s

/-- VXOR (R184). -/
def execVxor (d : BitVec 7) (a : BitVec 7) (b : BitVec 7) (ea : Bool) (eb : Bool) (s : State) : Result :=
  vector3 (fun a b => a ^^^ b) d a b ea eb s

/-- VANDN (R184). -/
def execVandn (d : BitVec 7) (a : BitVec 7) (b : BitVec 7) (ea : Bool) (eb : Bool) (s : State) : Result :=
  vector3 (fun a b => a &&& ~~~b) d a b ea eb s

/-- VSHL (R184). -/
def execVshl (d : BitVec 7) (a : BitVec 7) (b : BitVec 7) (ea : Bool) (eb : Bool) (s : State) : Result :=
  vector3 (fun a b => a <<< (b.toNat % 32)) d a b ea eb s

/-- VSHR (R184). -/
def execVshr (d : BitVec 7) (a : BitVec 7) (b : BitVec 7) (ea : Bool) (eb : Bool) (s : State) : Result :=
  vector3 (fun a b => a >>> (b.toNat % 32)) d a b ea eb s

/-- VSRA (R184). -/
def execVsra (d : BitVec 7) (a : BitVec 7) (b : BitVec 7) (ea : Bool) (eb : Bool) (s : State) : Result :=
  vector3 (fun a b => a.sshiftRight (b.toNat % 32)) d a b ea eb s

/-- VMAXU (R184). -/
def execVmaxu (d : BitVec 7) (a : BitVec 7) (b : BitVec 7) (ea : Bool) (eb : Bool) (s : State) : Result :=
  vector3 (fun a b => if a.ult b then b else a) d a b ea eb s

/-- VADDS (R184). -/
def execVadds (d : BitVec 7) (a : BitVec 7) (b : BitVec 7) (ea : Bool) (eb : Bool) (s : State) : Result :=
  vectorS (fun a b => a + b) d a b ea eb s

/-- VSUBS (R184). -/
def execVsubs (d : BitVec 7) (a : BitVec 7) (b : BitVec 7) (ea : Bool) (eb : Bool) (s : State) : Result :=
  vectorS (fun a b => a - b) d a b ea eb s

/-- VMULS (R184). -/
def execVmuls (d : BitVec 7) (a : BitVec 7) (b : BitVec 7) (ea : Bool) (eb : Bool) (s : State) : Result :=
  vectorS (fun a b => a * b) d a b ea eb s

/-- VANDS (R184). -/
def execVands (d : BitVec 7) (a : BitVec 7) (b : BitVec 7) (ea : Bool) (eb : Bool) (s : State) : Result :=
  vectorS (fun a b => a &&& b) d a b ea eb s

/-- VORS (R184). -/
def execVors (d : BitVec 7) (a : BitVec 7) (b : BitVec 7) (ea : Bool) (eb : Bool) (s : State) : Result :=
  vectorS (fun a b => a ||| b) d a b ea eb s

/-- VXORS (R184). -/
def execVxors (d : BitVec 7) (a : BitVec 7) (b : BitVec 7) (ea : Bool) (eb : Bool) (s : State) : Result :=
  vectorS (fun a b => a ^^^ b) d a b ea eb s

/-- VSHLS (R184). -/
def execVshls (d : BitVec 7) (a : BitVec 7) (b : BitVec 7) (ea : Bool) (eb : Bool) (s : State) : Result :=
  vectorS (fun a b => a <<< (b.toNat % 32)) d a b ea eb s

/-- VSHRS (R184). -/
def execVshrs (d : BitVec 7) (a : BitVec 7) (b : BitVec 7) (ea : Bool) (eb : Bool) (s : State) : Result :=
  vectorS (fun a b => a >>> (b.toNat % 32)) d a b ea eb s

/-- VADDI (R184). -/
def execVaddi (d : BitVec 7) (a : BitVec 7) (imm : BitVec 8) (ea : Bool) (s : State) : Result :=
  vector1 (fun a => a + imm.signExtend 32) d a ea s

/-- VANDI (R184). -/
def execVandi (d : BitVec 7) (a : BitVec 7) (imm : BitVec 8) (ea : Bool) (s : State) : Result :=
  vector1 (fun a => a &&& imm.signExtend 32) d a ea s

/-- VORI (R184). -/
def execVori (d : BitVec 7) (a : BitVec 7) (imm : BitVec 8) (ea : Bool) (s : State) : Result :=
  vector1 (fun a => a ||| imm.signExtend 32) d a ea s

/-- VXORI (R184). -/
def execVxori (d : BitVec 7) (a : BitVec 7) (imm : BitVec 8) (ea : Bool) (s : State) : Result :=
  vector1 (fun a => a ^^^ imm.signExtend 32) d a ea s

/-- VMULI (R184). -/
def execVmuli (d : BitVec 7) (a : BitVec 7) (imm : BitVec 8) (ea : Bool) (s : State) : Result :=
  vector1 (fun a => a * imm.signExtend 32) d a ea s

/-- VSHLI (R184, Table 7.5). -/
def execVshli (d : BitVec 7) (a : BitVec 7) (imm : BitVec 8) (ea : Bool) (s : State) : Result :=
  vector1 (fun a => a <<< imm.toNat) d a ea s

/-- VSHRI (R184, Table 7.5). -/
def execVshri (d : BitVec 7) (a : BitVec 7) (imm : BitVec 8) (ea : Bool) (s : State) : Result :=
  vector1 (fun a => a >>> imm.toNat) d a ea s

/-- VSRAI (R184, Table 7.5). -/
def execVsrai (d : BitVec 7) (a : BitVec 7) (imm : BitVec 8) (ea : Bool) (s : State) : Result :=
  vector1 (fun a => a.sshiftRight imm.toNat) d a ea s

/-- VCEQ (R185). -/
def execVceq (d : BitVec 7) (a : BitVec 7) (b : BitVec 7) (ea : Bool) (eb : Bool) (s : State) : Result :=
  vectorC (fun a b => a == b) d a b ea eb s

/-- VCNE (R185). -/
def execVcne (d : BitVec 7) (a : BitVec 7) (b : BitVec 7) (ea : Bool) (eb : Bool) (s : State) : Result :=
  vectorC (fun a b => a != b) d a b ea eb s

/-- VCLT (R185). -/
def execVclt (d : BitVec 7) (a : BitVec 7) (b : BitVec 7) (ea : Bool) (eb : Bool) (s : State) : Result :=
  vectorC (fun a b => a.slt b) d a b ea eb s

/-- VCLE (R185). -/
def execVcle (d : BitVec 7) (a : BitVec 7) (b : BitVec 7) (ea : Bool) (eb : Bool) (s : State) : Result :=
  vectorC (fun a b => a.sle b) d a b ea eb s

/-- VCGT (R185). -/
def execVcgt (d : BitVec 7) (a : BitVec 7) (b : BitVec 7) (ea : Bool) (eb : Bool) (s : State) : Result :=
  vectorC (fun a b => b.slt a) d a b ea eb s

/-- VCGE (R185). -/
def execVcge (d : BitVec 7) (a : BitVec 7) (b : BitVec 7) (ea : Bool) (eb : Bool) (s : State) : Result :=
  vectorC (fun a b => b.sle a) d a b ea eb s

/-- VCLTU (R185). -/
def execVcltu (d : BitVec 7) (a : BitVec 7) (b : BitVec 7) (ea : Bool) (eb : Bool) (s : State) : Result :=
  vectorC (fun a b => a.ult b) d a b ea eb s

/-- VCLEU (R185). -/
def execVcleu (d : BitVec 7) (a : BitVec 7) (b : BitVec 7) (ea : Bool) (eb : Bool) (s : State) : Result :=
  vectorC (fun a b => a.ule b) d a b ea eb s

/-- VMOV (R186). -/
def execVmov (d a : BitVec 7) (ea : Bool) (s : State) : Result := vector1 (fun a => a) d a ea s

/-- VMOVS (R186): the scalar stands in [11:5]. -/
def execVmovs (d b : BitVec 7) (eb : Bool) (s : State) : Result :=
  vectorWord { covered := true, srcS := [(b.toNat, eb)], dstV := [d.toNat] } d (fun s _ => s.sregW b.toNat) s

/-- VTID (R186). -/
def execVtid (d : BitVec 7) (s : State) : Result :=
  vectorWord { covered := true, dstV := [d.toNat] } d (fun _ t => BitVec.ofNat 32 t) s

/-- VCLZ (R186). -/
def execVclz (d a : BitVec 7) (ea : Bool) (s : State) : Result :=
  vector1 (fun a => BitVec.ofNat 32 (leadingZeros 32 a)) d a ea s

/-- VPOPC (R186). -/
def execVpopc (d a : BitVec 7) (ea : Bool) (s : State) : Result :=
  vector1 (fun a => BitVec.ofNat 32 (popcount 32 a)) d a ea s

/-- VBREV (R186). -/
def execVbrev (d a : BitVec 7) (ea : Bool) (s : State) : Result := vector1 (fun a => reverseBits 32 a) d a ea s

/-- The vector register that VWRX or VRDX reaches: the whole 64-bit value of its index register, once that can be read (R187). -/
def indexed (s : State) (b : Nat) : Option Nat := if s.w.badS b || s.w.emptyScalar b then none else some (s.sreg b).toNat

/-- What VWRX asks: v[x] is a destination, never a port (R187). An index not read yet counts as one register of the undo log. -/
def useVwrx (s : State) (a b : Nat) (ea eb : Bool) : Use :=
  let x := indexed s b
  { covered := true, srcV := [(a, ea)], srcS := [(b, eb)], dstV := x.toList, extra := if x.isNone then 1 else 0, illegal := x.any s.w.isPort }

/-- VWRX (R187). -/
def execVwrx (a b : BitVec 7) (ea eb : Bool) (s : State) : Result :=
  run (useVwrx s a.toNat b.toNat ea eb)
    (fun s => s.setVs (s.sreg b.toNat).toNat (fun t => s.vreg a.toNat t) s.w.actingThreads) s

/-- What VRDX asks: v[x] is a source under ea, never a port (R187). -/
def useVrdx (s : State) (d b : Nat) (ea eb : Bool) : Use :=
  let x := indexed s b
  { covered := true, srcV := x.toList.map (·, ea), srcS := [(b, eb)], dstV := [d], illegal := x.any s.w.isPort }

/-- VRDX (R187): ea is the e-bit of the indexed register. -/
def execVrdx (d b : BitVec 7) (ea eb : Bool) (s : State) : Result :=
  run (useVrdx s d.toNat b.toNat ea eb)
    (fun s => s.setVs d.toNat (fun t => s.vreg (s.sreg b.toNat).toNat t) s.w.actingThreads) s

/-- VFADD (R188). -/
def execVfadd (d : BitVec 7) (a : BitVec 7) (b : BitVec 7) (ea : Bool) (eb : Bool) (s : State) : Result :=
  fp3 (addF32) d a b ea eb s

/-- VFSUB (R188). -/
def execVfsub (d : BitVec 7) (a : BitVec 7) (b : BitVec 7) (ea : Bool) (eb : Bool) (s : State) : Result :=
  fp3 (subF32) d a b ea eb s

/-- VFMUL (R188). -/
def execVfmul (d : BitVec 7) (a : BitVec 7) (b : BitVec 7) (ea : Bool) (eb : Bool) (s : State) : Result :=
  fp3 (mulF32) d a b ea eb s

/-- VFMIN (R188). -/
def execVfmin (d : BitVec 7) (a : BitVec 7) (b : BitVec 7) (ea : Bool) (eb : Bool) (s : State) : Result :=
  fp3 (fun _ => minMaxF32 true) d a b ea eb s

/-- VFMAX (R188). -/
def execVfmax (d : BitVec 7) (a : BitVec 7) (b : BitVec 7) (ea : Bool) (eb : Bool) (s : State) : Result :=
  fp3 (fun _ => minMaxF32 false) d a b ea eb s

/-- VFMAC (R188). -/
def execVfmac (d : BitVec 7) (a : BitVec 7) (b : BitVec 7) (ea : Bool) (eb : Bool) (s : State) : Result :=
  fpAcc3 (fun r => fmaF32 r false false) d a b ea eb s

/-- VFMSC (R188). -/
def execVfmsc (d : BitVec 7) (a : BitVec 7) (b : BitVec 7) (ea : Bool) (eb : Bool) (s : State) : Result :=
  fpAcc3 (fun r => fmaF32 r false true) d a b ea eb s

/-- VFNMAC (R188). -/
def execVfnmac (d : BitVec 7) (a : BitVec 7) (b : BitVec 7) (ea : Bool) (eb : Bool) (s : State) : Result :=
  fpAcc3 (fun r => fmaF32 r true false) d a b ea eb s

/-- VFADDS (R188). -/
def execVfadds (d : BitVec 7) (a : BitVec 7) (b : BitVec 7) (ea : Bool) (eb : Bool) (s : State) : Result :=
  fpS (addF32) d a b ea eb s

/-- VFSUBS (R188). -/
def execVfsubs (d : BitVec 7) (a : BitVec 7) (b : BitVec 7) (ea : Bool) (eb : Bool) (s : State) : Result :=
  fpS (subF32) d a b ea eb s

/-- VFMULS (R188). -/
def execVfmuls (d : BitVec 7) (a : BitVec 7) (b : BitVec 7) (ea : Bool) (eb : Bool) (s : State) : Result :=
  fpS (mulF32) d a b ea eb s

/-- VFMINS (R188). -/
def execVfmins (d : BitVec 7) (a : BitVec 7) (b : BitVec 7) (ea : Bool) (eb : Bool) (s : State) : Result :=
  fpS (fun _ => minMaxF32 true) d a b ea eb s

/-- VFMAXS (R188). -/
def execVfmaxs (d : BitVec 7) (a : BitVec 7) (b : BitVec 7) (ea : Bool) (eb : Bool) (s : State) : Result :=
  fpS (fun _ => minMaxF32 false) d a b ea eb s

/-- VFMACS (R188). -/
def execVfmacs (d : BitVec 7) (a : BitVec 7) (b : BitVec 7) (ea : Bool) (eb : Bool) (s : State) : Result :=
  fpAccS (fun r => fmaF32 r false false) d a b ea eb s

/-- VFCEQ (R189). -/
def execVfceq (d : BitVec 7) (a : BitVec 7) (b : BitVec 7) (ea : Bool) (eb : Bool) (s : State) : Result := fpCompare 0 d a b ea eb s

/-- VFCNE (R189). -/
def execVfcne (d : BitVec 7) (a : BitVec 7) (b : BitVec 7) (ea : Bool) (eb : Bool) (s : State) : Result := fpCompare 1 d a b ea eb s

/-- VFCLT (R189). -/
def execVfclt (d : BitVec 7) (a : BitVec 7) (b : BitVec 7) (ea : Bool) (eb : Bool) (s : State) : Result := fpCompare 2 d a b ea eb s

/-- VFCLE (R189). -/
def execVfcle (d : BitVec 7) (a : BitVec 7) (b : BitVec 7) (ea : Bool) (eb : Bool) (s : State) : Result := fpCompare 3 d a b ea eb s

/-- VFCUN (R189). -/
def execVfcun (d : BitVec 7) (a : BitVec 7) (b : BitVec 7) (ea : Bool) (eb : Bool) (s : State) : Result := fpCompare 4 d a b ea eb s

/-- VFSLT (R189). -/
def execVfslt (d : BitVec 7) (a : BitVec 7) (b : BitVec 7) (ea : Bool) (eb : Bool) (s : State) : Result := fpCompare 5 d a b ea eb s

/-- VFSLE (R189). -/
def execVfsle (d : BitVec 7) (a : BitVec 7) (b : BitVec 7) (ea : Bool) (eb : Bool) (s : State) : Result := fpCompare 6 d a b ea eb s

/-- VHADD (R190). -/
def execVhadd (d : BitVec 7) (a : BitVec 7) (b : BitVec 7) (ea : Bool) (eb : Bool) (s : State) : Result :=
  fp3 (fun r a b => packed (fun x y _ => f16.add r x y) a b 0) d a b ea eb s

/-- VHMUL (R190). -/
def execVhmul (d : BitVec 7) (a : BitVec 7) (b : BitVec 7) (ea : Bool) (eb : Bool) (s : State) : Result :=
  fp3 (fun r a b => packed (fun x y _ => f16.mul r x y) a b 0) d a b ea eb s

/-- VBADD (R190). -/
def execVbadd (d : BitVec 7) (a : BitVec 7) (b : BitVec 7) (ea : Bool) (eb : Bool) (s : State) : Result :=
  fp3 (fun r a b => packed (fun x y _ => bf16.add r x y) a b 0) d a b ea eb s

/-- VBMUL (R190). -/
def execVbmul (d : BitVec 7) (a : BitVec 7) (b : BitVec 7) (ea : Bool) (eb : Bool) (s : State) : Result :=
  fp3 (fun r a b => packed (fun x y _ => bf16.mul r x y) a b 0) d a b ea eb s

/-- VHMAC (R190). -/
def execVhmac (d : BitVec 7) (a : BitVec 7) (b : BitVec 7) (ea : Bool) (eb : Bool) (s : State) : Result :=
  fpAcc3 (fun r => packed (f16.fma r false false)) d a b ea eb s

/-- VBMAC (R190). -/
def execVbmac (d : BitVec 7) (a : BitVec 7) (b : BitVec 7) (ea : Bool) (eb : Bool) (s : State) : Result :=
  fpAcc3 (fun r => packed (bf16.fma r false false)) d a b ea eb s

/-- VHDOT (R190). -/
def execVhdot (d : BitVec 7) (a : BitVec 7) (b : BitVec 7) (ea : Bool) (eb : Bool) (s : State) : Result :=
  fpAcc3 (dotPair f16) d a b ea eb s

/-- VBDOT (R190). -/
def execVbdot (d : BitVec 7) (a : BitVec 7) (b : BitVec 7) (ea : Bool) (eb : Bool) (s : State) : Result :=
  fpAcc3 (dotPair bf16) d a b ea eb s

/-- A transcendental word enters its quarter's unit (R191): vd is empty until the result returns; no acting thread, no
effect. -/
def transWord (fn : Nat) (d a : BitVec 7) (ea : Bool) (s : State) : Result :=
  let u : Use := { useV1 d a ea with late := true }
  issue u (fun s =>
    if s.w.acting = 0 then .next (finish { u with late := false } s)
    else
      let op : TransOp :=
        { wave := s.focus, seq := s.w.seq, fn := fn, d := d.toNat, mode := s.w.rmode,
          operand := s.w.actingThreads.map (fun t => (t, s.vreg a.toNat t)), word := s.w.a.pos.pc, inst := s.w.inst,
          started := false }
      let s := s.onCore s.w.core (fun c => { c with trans := put [] c.trans s.w.quarter (look [] c.trans s.w.quarter ++ [op]) })
      .next (finish u (s.onArch (fun a => a.emptyVs [d.toNat])))) s

/-- VRCP (R76, R77, R191). -/
def execVrcp (d : BitVec 7) (a : BitVec 7) (ea : Bool) (s : State) : Result := transWord 0 d a ea s

/-- VRSQ (R76, R77, R191). -/
def execVrsq (d : BitVec 7) (a : BitVec 7) (ea : Bool) (s : State) : Result := transWord 1 d a ea s

/-- VSQRT (R76, R77, R191). -/
def execVsqrt (d : BitVec 7) (a : BitVec 7) (ea : Bool) (s : State) : Result := transWord 2 d a ea s

/-- VEXP2 (R76, R77, R191). -/
def execVexp2 (d : BitVec 7) (a : BitVec 7) (ea : Bool) (s : State) : Result := transWord 3 d a ea s

/-- VLOG2 (R76, R77, R191). -/
def execVlog2 (d : BitVec 7) (a : BitVec 7) (ea : Bool) (s : State) : Result := transWord 4 d a ea s

/-- VSIN (R76, R77, R191). -/
def execVsin (d : BitVec 7) (a : BitVec 7) (ea : Bool) (s : State) : Result := transWord 5 d a ea s

/-- VCOS (R76, R77, R191). -/
def execVcos (d : BitVec 7) (a : BitVec 7) (ea : Bool) (s : State) : Result := transWord 6 d a ea s

/-- VTANH (R76, R77, R191). -/
def execVtanh (d : BitVec 7) (a : BitVec 7) (ea : Bool) (s : State) : Result := transWord 7 d a ea s

/-! ### Conversions (R192, R193) -/

/-- A halfword or byte of a register replaced. -/
def setHalf (x : W32) (i v : Nat) : W32 :=
  (x &&& ~~~(0xffff#32 <<< (16 * i))) ||| (BitVec.ofNat 32 (v % 65536) <<< (16 * i))
def setByte (x : W32) (i v : Nat) : W32 := (x &&& ~~~(0xff#32 <<< (8 * i))) ||| (BitVec.ofNat 32 (v % 256) <<< (8 * i))
def getByte (x : W32) (i : Nat) : Nat := (x >>> (8 * i)).toNat % 256

/-- A conversion of one value under the word's own rounding field. -/
def convert (d a : BitVec 7) (ea : Bool) (f : W32 → W32 × Flags) (s : State) : Result :=
  vectorFp (useV1 d a ea) d (fun s t => f (s.vreg a.toNat t)) s

/-- A conversion that writes part of vd and reads the rest of it. -/
def convertInto (u : Use) (d a : BitVec 7) (f : W32 → W32 → W32 × Flags) (s : State) : Result :=
  vectorFp { u with oldV := [d.toNat] } d (fun s t => f (s.vreg a.toNat t) (s.vreg d.toNat t)) s

/-- The descriptor of a format slot of the wave's launch (R70). -/
def Wave.slotDesc (w : Wave) (slot : Nat) : W32 := w.env.slots.getD slot 0

/-- A slot that a word may not name: reserved, or of an element it does not accept (R71). -/
def slotIllegal (w : Wave) (slot : Nat) (accept : Element → Bool) : Bool :=
  slotReserved (w.slotDesc slot) ||
    match Element.ofSlot (w.slotDesc slot) with
    | some el => !accept el
    | none => true

/-- The 8-bit elements of VCNAR and VCWID (Table 9.6). -/
def Element.isByte (el : Element) : Bool := el.bits == 8

/-- VCF16 (R67, R192). -/
def execVcf16 (d a : BitVec 7) (rnd sel : BitVec 2) (ea : Bool) (s : State) : Result :=
  convertInto (useV1 d a ea) d a (fun x old =>
    let r := f32ToHalf f16 (Rounding.ofBits rnd) x; (setHalf old sel.toNat r.1, r.2)) s

/-- VCF32H (R67, R192). -/
def execVcf32h (d a : BitVec 7) (sel : BitVec 2) (ea : Bool) (s : State) : Result :=
  convert d a ea (fun x => (widen (f16.decode (half x sel.toNat)), 0)) s

/-- VCBF (R67, R192). -/
def execVcbf (d a : BitVec 7) (rnd sel : BitVec 2) (ea : Bool) (s : State) : Result :=
  convertInto (useV1 d a ea) d a (fun x old =>
    let r := f32ToHalf bf16 (Rounding.ofBits rnd) x; (setHalf old sel.toNat r.1, r.2)) s

/-- VCF32B (R67, R192). -/
def execVcf32b (d a : BitVec 7) (sel : BitVec 2) (ea : Bool) (s : State) : Result :=
  convert d a ea (fun x => (widen (bf16.decode (half x sel.toNat)), 0)) s

/-- VCI32 (R192). -/
def execVci32 (d a : BitVec 7) (rnd : BitVec 2) (ea : Bool) (s : State) : Result :=
  convert d a ea (fun x =>
    let r := f32ToInt (Rounding.ofBits rnd) (-(2 ^ 31)) (2 ^ 31 - 1) x; (BitVec.ofInt 32 r.1, r.2)) s

/-- VCF32I (R192). -/
def execVcf32i (d a : BitVec 7) (rnd : BitVec 2) (ea : Bool) (s : State) : Result :=
  convert d a ea (fun x => intToF32 (Rounding.ofBits rnd) x.toInt) s

/-- VCN32 (R192). -/
def execVcn32 (d a : BitVec 7) (rnd : BitVec 2) (ea : Bool) (s : State) : Result :=
  convert d a ea (fun x => let r := f32ToInt (Rounding.ofBits rnd) 0 (2 ^ 32 - 1) x; (BitVec.ofInt 32 r.1, r.2)) s

/-- VCF32N (R192). -/
def execVcf32n (d a : BitVec 7) (rnd : BitVec 2) (ea : Bool) (s : State) : Result :=
  convert d a ea (fun x => intToF32 (Rounding.ofBits rnd) x.toNat) s

/-- VCNAR (R64 to R66, R192). -/
def execVcnar (d a : BitVec 7) (slot : BitVec 3) (rnd sel : BitVec 2) (ea : Bool) (s : State) : Result :=
  let desc := s.w.slotDesc slot.toNat
  convertInto { useV1 d a ea with illegal := slotIllegal s.w slot.toNat Element.isByte } d a (fun x old =>
    let r := toElement ((Element.ofSlot desc).getD .t8) (Rounding.ofBits rnd) (slotOvf desc == 1#2) x
    (setByte old sel.toNat r.1, r.2)) s

/-- VCWID (R67, R192). -/
def execVcwid (d a : BitVec 7) (slot : BitVec 3) (sel : BitVec 2) (ea : Bool) (s : State) : Result :=
  let desc := s.w.slotDesc slot.toNat
  vectorFp { useV1 d a ea with illegal := slotIllegal s.w slot.toNat Element.isByte } d (fun s t =>
    (widen (((Element.ofSlot desc).getD .t8).decode (getByte (s.vreg a.toNat t) sel.toNat)), 0)) s

/-- VCT6 (R64, R192): the slot's descriptor is checked though only its ovf field is used. -/
def execVct6 (d a : BitVec 7) (slot : BitVec 3) (rnd sel : BitVec 2) (ea : Bool) (s : State) : Result :=
  let desc := s.w.slotDesc slot.toNat
  convertInto { useV1 d a ea with illegal := slotIllegal s.w slot.toNat (fun el => el == .t6) } d a (fun x old =>
    let r := toTapered 6 (Rounding.ofBits rnd) (slotOvf desc == 1#2) x
    (setByte old sel.toNat r.1, r.2)) s

/-- VCF32T6 (R67, R192). -/
def execVcf32t6 (d a : BitVec 7) (sel : BitVec 2) (ea : Bool) (s : State) : Result :=
  convert d a ea (fun x => (widen (Element.t6.decode (getByte x sel.toNat)), 0)) s

/-- A range of registers that reaches a port register in a port mode. -/
def Wave.rangeHitsPort (w : Wave) (r n : Nat) : Bool := (List.range n).any (fun i => w.isPort (r + i))

/-- A thread's triple of registers, 96 bits (R193). -/
def tripleBits (s : State) (n t : Nat) : Nat :=
  (s.vreg n t).toNat + 2 ^ 32 * (s.vreg (n + 1) t).toNat + 2 ^ 64 * (s.vreg (n + 2) t).toNat

/-- A thread's triple from register `n` on with group `sel` replaced by the four byte-form codes of register `a` (R63, R193). -/
def packed6 (s : State) (n a sel t : Nat) : BitVec 96 :=
  let x := s.vreg a t
  let dense := getByte x 0 % 64 + 2 ^ 6 * (getByte x 1 % 64) + 2 ^ 12 * (getByte x 2 % 64) + 2 ^ 18 * (getByte x 3 % 64)
  (BitVec.ofNat 96 (tripleBits s n t) &&& ~~~(0xffffff#96 <<< (24 * sel))) ||| (BitVec.ofNat 96 dense <<< (24 * sel))

/-- VPK6 (R193). -/
def execVpk6 (d a : BitVec 7) (sel : BitVec 2) (ea : Bool) (s : State) : Result :=
  let n := d.toNat
  let u : Use := { covered := true, srcV := [(a.toNat, ea)], oldV := [n, n + 1, n + 2], dstV := [n, n + 1, n + 2],
                   illegal := s.w.rangeHitsPort n 3 }
  run u (fun s =>
    let new := packed6 s n a.toNat sel.toNat
    let ts := s.w.actingThreads
    ((s.setVs n (fun t => (new t).extractLsb' 0 32) ts).setVs (n + 1) (fun t => (new t).extractLsb' 32 32) ts).setVs (n + 2)
      (fun t => (new t).extractLsb' 64 32) ts) s

/-- VUNPK6 (R193). -/
def execVunpk6 (d a : BitVec 7) (sel : BitVec 2) (ea : Bool) (s : State) : Result :=
  let n := a.toNat
  let u : Use := { covered := true, srcV := [(n, ea), (n + 1, ea), (n + 2, ea)], dstV := [d.toNat],
                   illegal := s.w.rangeHitsPort n 3 }
  vectorWord u d (fun s t =>
    let g := tripleBits s n t / 2 ^ (24 * sel.toNat) % 2 ^ 24
    BitVec.ofNat 32 (g % 64 + 2 ^ 8 * (g / 2 ^ 6 % 64) + 2 ^ 16 * (g / 2 ^ 12 % 64) + 2 ^ 24 * (g / 2 ^ 18 % 64))) s

/-! ### Cross-lane words (R194) -/

/-- VSHUF (R194). (DEDUCED, log 158, unsafe.) -/
def execVshuf (d a b : BitVec 7) (ea eb : Bool) (s : State) : Result :=
  vectorWord (useV3 d a b ea eb) d (fun s t => s.vreg a.toNat ((s.vreg b.toNat t).toNat % s.w.width)) s

/-- VSHFX (R194). -/
def execVshfx (d a : BitVec 7) (imm : BitVec 7) (ea : Bool) (s : State) : Result :=
  vectorWord (useV1 d a ea) d (fun s t => s.vreg a.toNat (t ^^^ (imm.toNat % s.w.width))) s

/-- VROTS (R194): thread 0 of vb is read whether it acts or not. -/
def execVrots (d a b : BitVec 7) (ea eb : Bool) (s : State) : Result :=
  vectorWord (useV3 d a b ea eb) d
    (fun s t => s.vreg a.toNat ((t + (s.vreg b.toNat 0).toNat % s.w.width) % s.w.width)) s

/-- VBCST (R194). -/
def execVbcst (d a : BitVec 7) (ea : Bool) (s : State) : Result :=
  vectorWord (useV1 d a ea) d (fun s _ => s.vreg a.toNat (s.w.actingThreads.headD 0)) s

/-- VREDA (R194): the sum of the acting threads' I32 values; 0 if none act. -/
def execVreda (d a : BitVec 7) (ea : Bool) (s : State) : Result :=
  run { covered := true, srcV := [(a.toNat, ea)], dstS := [d.toNat] } (fun s =>
    s.setS d.toNat ((s.w.actingThreads.map (fun t => (s.vreg a.toNat t).signExtend 64)).foldl (· + ·) 0)) s

/-- One level of the tree of R79: neighbours added, the lower index on the left. -/
def treeLevel (mode : Rounding) : List W32 → List W32 × Flags
  | x :: y :: rest =>
    let r := addF32 mode x y
    let q := treeLevel mode rest
    (r.1 :: q.1, r.2 ||| q.2)
  | rest => (rest, 0)

/-- The tree of R79, level by level. -/
def treeSum (mode : Rounding) : Nat → List W32 → W32 × Flags
  | 0, xs => (xs.headD 0, 0)
  | k + 1, xs =>
    let r := treeLevel mode xs
    let q := treeSum mode k r.1
    (q.1, r.2 ||| q.2)

/-- VREDF (R79, R194): inactive threads contribute −0.0; its flags belong to bit 0. -/
def execVredf (d a : BitVec 7) (ea : Bool) (s : State) : Result :=
  let u : Use := { covered := true, srcV := [(a.toNat, ea)], dstS := [d.toNat] }
  issue u (fun s =>
    let acting := s.w.acting
    let ys := (List.range s.w.width).map (fun t => if acting.getLsbD t then s.vreg a.toNat t else 0x80000000#32)
    let r := treeSum s.w.rounding (Nat.log2 s.w.width) ys
    .next (finishFlags u [(0, r.2)] (s.setS d.toNat (r.1.setWidth 64)))) s

/-- VSCAN (R194). -/
def execVscan (d a : BitVec 7) (ea : Bool) (s : State) : Result :=
  vectorWord (useV1 d a ea) d (fun s t =>
    ((s.w.actingThreads.filter (fun u => decide (u ≤ t))).map (fun u => s.vreg a.toNat u)).foldl (· + ·) 0) s

/-- VCMPK (R194): threads 0 to A − 1 are written whatever the acting set. -/
def execVcmpk (d a : BitVec 7) (ea : Bool) (s : State) : Result :=
  run (useV1 d a ea) (fun s =>
    s.setVs d.toNat (fun k => s.vreg a.toNat (s.w.actingThreads.getD k 0)) (List.range s.w.actingThreads.length)) s

end Sys2Proof.Machine
end

