-- ==== Sys2Proof/Machine/Matrix.lean ====
section
/-! DEFINITION. The matrix unit (R218 to R230): the words of majors 0x30 and 0x31 entering a wave's queue, gangs, the
exact chunk sums, the softmax step, row state, and an operation's start and completion. An operation reads its scales
once, runs its rows in one step or in several, and stops at the row whose operand has no translation. -/

namespace Sys2Proof.Machine

/-! ### Entering the queue -/

/-- The key of a register's thread, with its true value: what the matrix unit left there, else the register's own (R224).
(DEDUCED, log 88, safe.) -/
def Wave.trueV (w : Wave) (r t : Nat) : W32 := (find w.acc (64 * r + t)).getD (w.a.getV r t)

/-- The true value of a register the wave may not read yet, set. -/
def Wave.setTrue (w : Wave) (r t : Nat) (x : W32) : Wave := { w with acc := ins w.acc (64 * r + t) x }

/-- True values kept for registers about to be left undefined. (DEDUCED, log 88, safe.) -/
def Wave.saveTrue (w : Wave) (rs : List Nat) : Wave :=
  rs.foldl (fun (w : Wave) r => (List.range w.width).foldl (fun (w : Wave) t => w.setTrue r t (w.trueV r t)) w) w

/-- A word put in the wave's matrix queue (R218): a full queue stalls; the registers it will write hold undefined values
until the wave waits on mx (R148, R224). (DEDUCED, log 88, safe.) -/
def enterMatrix (u : Use) (op : MatrixOp) (s : State) : Result :=
  if 8 ≤ s.w.matrix.length then .next (s.holdFor .engine)
  else
    let s := raiseCount 3 s
    let s := s.onWave (fun w => { w.saveTrue op.undef with matrix := w.matrix ++ [op] })
    .next (finish u (scramble op.undef s))

/-- A queue entry with every field of Table 11.2 zero. -/
def MatrixOp.plain (s : State) (kind : MatrixKind) : MatrixOp :=
  { seq := s.w.seq, kind := kind, vacc := 0, aPtr := 0, bPtr := 0, keep := false, aslot := 0, bslot := 0, asb := 0, bsb := 0,
    sel := 0, soft := false, half := 0, obase := 0, srcs := [], undef := [], scales := [], gang := s.w.gang, issued := s.cycle,
    started := false, addr := s.w.a.pos.pc, inst := s.w.inst, samples := [], bytes := none, brows := none }

/-- Registers from `r` on. -/
def regRange (r n : Nat) : List Nat := (List.range n).map (r + ·)

/-- Scale blocks of a chunk (Table 4.8). -/
def Element.blocks : Element → Nat
  | .t6 => 4
  | .t8 => 3 | .e4m3 => 3 | .e5m2 => 3 | .i8 => 3 | .n8 => 3
  | .bf16 => 2 | .f16 => 2

/-- A slot's element; T6 where none is assigned, a case the check of R71 has already refused. -/
def Wave.slotElement (w : Wave) (slot : Nat) : Element := (Element.ofSlot (w.slotDesc slot)).getD .t6

/-- The slots of MMA and MMAZ are admitted (R71, R72, R222). -/
def slotsOk (w : Wave) (a b : Nat) (soft : Bool) : Bool :=
  !slotReserved (w.slotDesc a) && !slotReserved (w.slotDesc b) &&
  (w.slotElement a).bits == (w.slotElement b).bits && (w.slotElement a).isInt == (w.slotElement b).isInt &&
  !(soft && (w.slotElement a).isInt)

/-- Scale registers an operation names (R223). -/
def scaleRegs (w : Wave) (aslot bslot asb bsb : Nat) : List Nat :=
  (if slotScaled (w.slotDesc aslot) then regRange asb (w.slotElement aslot).blocks else []) ++
  (if slotScaled (w.slotDesc bslot) then regRange bsb (4 * (w.slotElement bslot).blocks) else [])

/-- A row in a slab window leaves its line (the first check of R109). (DEDUCED, log 91, unsafe.) -/
def crossesLine (s : State) (p : W64) (rows len : Nat) : Bool :=
  (s.w.env.handle (ptrHandle p)).any (fun h => h.space == 6) &&
    (List.range rows).any (fun i => decide (128 < (ptrOffset p + i * ptrStride p) % 128 + len))

/-- The permission of an operand's handle (R222): spaces 4 and 5 are none. -/
def operandPermit (w : Wave) (handle : Nat) (kind : Kind) : Option (BitVec 8) :=
  if (w.env.handle handle).any (fun x => x.remote) then some Cause.permission else permitCause w handle kind

/-- The checks of some operand pointers, each of some rows of some bytes (R222). (DEDUCED, log 91, unsafe.) -/
def operandCheck (s : State) (ps : List (W64 × Nat × Nat)) : RangeCheck :=
  checkRanges s.w (.matrix s.w.quarterId) (operandPermit s.w) []
    (ps.map (fun p => if ptrStride p.1 % 16 ≠ 0 ∨ ptrOffset p.1 % 16 ≠ 0 ∨ crossesLine s p.1 p.2.1 p.2.2 then some Cause.misaligned else none))
    false
    (ps.flatMap (fun p => (List.range p.2.1).map (fun i => ⟨ptrHandle p.1, .load, ptrOffset p.1 + i * ptrStride p.1, p.2.2⟩))) s

/-- MMA and MMAZ (R221 to R224). -/
def multiply (zero : Bool) (vacc sA sB : BitVec 7) (keep ea eb : Bool) (aslot bslot : BitVec 3) (asb bsb : BitVec 7)
    (sel : BitVec 2) (soft half : Bool) (obase : BitVec 7) (s : State) : Result :=
  let n := 1024 / s.w.width
  let acc := regRange vacc.toNat n
  let outs := if soft then regRange obase.toNat (2 * n) else []
  let scales := scaleRegs s.w aslot.toNat bslot.toNat asb.toNat bsb.toNat
  let u : Use := { words := 2, async := true, path := some 3, srcS := [(sA.toNat, ea), (sB.toNat, eb)],
                   oldV := acc ++ outs, groupV := scales,
                   illegal := !slotsOk s.w aslot.toNat bslot.toNat soft || (acc ++ outs ++ scales).any s.w.isPort ||
                     acc.any (fun r => outs.contains r) }
  issue u (fun s =>
    let a := s.sreg sA.toNat
    let b := s.sreg sB.toNat
    withRanges (operandCheck s [(a, 16, 96), (b, 64, 96)]) (fun s =>
      enterMatrix u { MatrixOp.plain s (.mma zero false) with
        vacc := vacc.toNat, aPtr := a, bPtr := b, keep := keep, aslot := aslot.toNat, bslot := bslot.toNat, asb := asb.toNat
        bsb := bsb.toNat, sel := sel.toNat, soft := soft, half := if half then 1 else 0, obase := obase.toNat
        undef := (acc ++ outs ++ scales).eraseDups, scales := scales.filter (fun r => !(acc ++ outs).contains r) } s) s) s

/-- MMA (R224). -/
def execMma (vacc : BitVec 7) (sA : BitVec 7) (sB : BitVec 7) (keep : Bool) (ea : Bool) (eb : Bool) (aslot : BitVec 3)
    (bslot : BitVec 3) (asb : BitVec 7) (bsb : BitVec 7) (sel : BitVec 2) (soft : Bool) (half : Bool) (obase : BitVec 7)
    (s : State) : Result := multiply false vacc sA sB keep ea eb aslot bslot asb bsb sel soft half obase s

/-- MMAZ (R224). -/
def execMmaz (vacc : BitVec 7) (sA : BitVec 7) (sB : BitVec 7) (keep : Bool) (ea : Bool) (eb : Bool) (aslot : BitVec 3)
    (bslot : BitVec 3) (asb : BitVec 7) (bsb : BitVec 7) (sel : BitVec 2) (soft : Bool) (half : Bool) (obase : BitVec 7)
    (s : State) : Result := multiply true vacc sA sB keep ea eb aslot bslot asb bsb sel soft half obase s

/-- MMAC and MMACZ (R221 to R224). -/
def chain (zero : Bool) (vacc sB : BitVec 7) (keep eb : Bool) (bslot : BitVec 3) (half : Bool) (s : State) : Result :=
  let acc := regRange vacc.toNat (1024 / s.w.width)
  let desc := s.w.slotDesc bslot.toNat
  let u : Use := { words := 2, async := true, path := some 3, srcS := [(sB.toNat, eb)], oldV := acc,
                   illegal := slotReserved desc || s.w.slotElement bslot.toNat != .t6 || !slotScaled desc || acc.any s.w.isPort }
  issue u (fun s =>
    let b := s.sreg sB.toNat
    withRanges (operandCheck s [(b, 128, 100)]) (fun s =>
      enterMatrix u { MatrixOp.plain s (.mma zero true) with
        vacc := vacc.toNat, bPtr := b, keep := keep, bslot := bslot.toNat, half := if half then 1 else 0, undef := acc } s) s) s

/-- MMAC (R224). -/
def execMmac (vacc : BitVec 7) (sB : BitVec 7) (keep : Bool) (eb : Bool) (bslot : BitVec 3) (half : Bool) (s : State) : Result :=
  chain false vacc sB keep eb bslot half s

/-- MMACZ (R224). -/
def execMmacz (vacc : BitVec 7) (sB : BitVec 7) (keep : Bool) (eb : Bool) (bslot : BitVec 3) (half : Bool) (s : State) : Result :=
  chain true vacc sB keep eb bslot half s

/-- MSTZ (R230). -/
def execMstz (s : State) : Result :=
  let u : Use := { async := true, path := some 3 }
  issue u (fun s => enterMatrix u (MatrixOp.plain s .mstz) s) s

/-- MSTRD (R230). -/
def execMstrd (d : BitVec 7) (s : State) : Result :=
  let rs := regRange d.toNat 3
  let u : Use := { async := true, path := some 3, oldV := rs, illegal := rs.any s.w.isPort }
  issue u (fun s => enterMatrix u { MatrixOp.plain s .mstrd with vacc := d.toNat, undef := rs } s) s

/-- MSTWR (R230): its sources are read at issue. -/
def execMstwr (a : BitVec 7) (ea : Bool) (s : State) : Result :=
  let rs := regRange a.toNat 3
  let u : Use := { async := true, path := some 3, srcV := rs.map (fun r => (r, ea)), illegal := rs.any s.w.isPort }
  issue u (fun s =>
    let srcs := (List.range 3).flatMap (fun i => (List.range 16).map (fun t => (64 * i + t, s.vreg (a.toNat + i) t)))
    enterMatrix u { MatrixOp.plain s .mstwr with srcs := srcs } s) s

/-- MNORM (R230). -/
def execMnorm (d : BitVec 7) (s : State) : Result :=
  let rs := regRange d.toNat (2048 / s.w.width)
  let u : Use := { async := true, path := some 3, oldV := rs, illegal := rs.any s.w.isPort }
  issue u (fun s => enterMatrix u { MatrixOp.plain s .mnorm with vacc := d.toNat, undef := rs } s) s

/-! ### Row state (R228 to R230) -/

/-- The row state of a wave that has run nothing (R228). -/
def RowState.fresh : RowState :=
  { m := -32768, l := 0, off0 := 0, off1 := 0, codes0 := List.replicate 64 0, codes1 := List.replicate 64 0 }

def Wave.row (w : Wave) (r : Nat) : RowState := look RowState.fresh w.rows r
def Wave.setRow (w : Wave) (r : Nat) (x : RowState) : Wave := { w with rows := put RowState.fresh w.rows r x }

/-- A whole number held between two bounds. -/
def clampInt (lo hi x : Int) : Int := max lo (min hi x)

/-- The T6 code nearest 2^(x − m), 0 among the candidates, a tie to the even code (R229). -/
def t6Weight (m : Int) (x : W32) : Nat :=
  match f32.decode x.toNat with
  | .fin neg k e =>
    let y := scaled neg k e (-149) - m * 2 ^ 149
    if 9 * 2 ^ 149 ≤ y then 31
    else if y < -10 * 2 ^ 149 then 0
    else
      let p := exp2Fix (y * 2 ^ 151)
      let value := fun (c : Nat) => match taperedDecode 6 c with | .fin _ n g => n * 2 ^ (g + 448).toNat | _ => 0
      let off := fun (c : Nat) => (p - value c) + (value c - p)
      (List.range 32).foldl (fun best c =>
        if off c < off best ∨ (off c = off best ∧ c % 2 = 0 ∧ best % 2 = 1) then c else best) 0
  | _ => 0

/-- e × 2^(−d) plus some exact terms, rounded once (R229). -/
def rescale (d : Int) (e : W32) (terms : List Num) : W32 :=
  BitVec.ofNat 32 (f32.sum .rne ((f32.decode e.toNat).scaleBy (-d) :: terms)).1

/-- The ceiling of a finite score, held to −32767..32767; −∞ gives −32767 (R229, R232). -/
def ceilScore (x : W32) : Int :=
  match f32.decode x.toNat with
  | .fin neg m e => clampInt (-32767) 32767 (toWhole .rup neg m e).1
  | _ => -32767

/-- A score that ends a softmax step or a partial: NaN or +∞ (R229). -/
def badScore (x : W32) : Bool :=
  match f32.decode x.toNat with
  | .nan _ => true
  | .inf neg => !neg
  | .fin _ _ _ => false

/-- The registers of O element (r, c) from a base (R229). -/
def outPlace (width base r c : Nat) : Nat × Nat :=
  let i := 64 * r + c % 64
  ((if c < 64 then base else base + 1024 / width) + i / width, i % width)

/-- THE SOFTMAX STEP of one row (R229): its scores, the chain half, the O accumulators from `obase`. -/
def softmaxStep (r : Nat) (scores : List W32) (half obase : Nat) (w : Wave) : Wave :=
  let x := w.row r
  let places := (List.range 128).map (outPlace w.width obase r)
  let nan : W32 := 0x7fc00000
  if scores.any badScore then
    let w := places.foldl (fun (w : Wave) p => w.setTrue p.1 p.2 nan) w
    let codes := List.replicate 64 0x20#6
    w.setRow r (if half = 0 then { x with l := nan, codes0 := codes, off0 := 0 } else { x with l := nan, codes1 := codes, off1 := 0 })
  else
    let m := max x.m ((scores.map ceilScore).foldl max (-32767))
    let d := m - x.m
    let codes := scores.map (t6Weight m)
    let l := rescale d x.l (codes.map (taperedDecode 6))
    let w := places.foldl (fun (w : Wave) p => w.setTrue p.1 p.2 (rescale d (w.trueV p.1 p.2) [])) w
    let cs := codes.map (BitVec.ofNat 6)
    w.setRow r (if half = 0 then { x with m := m, l := l, codes0 := cs, off0 := 0, off1 := max (x.off1 - d) (-32768) }
      else { x with m := m, l := l, codes1 := cs, off1 := 0, off0 := max (x.off0 - d) (-32768) })

/-- e / l, rounded once, no flag (R230). -/
def divF32 (e l : W32) : W32 :=
  let nan : W32 := 0x7fc00000
  match f32.decode e.toNat, f32.decode l.toNat with
  | .nan _, _ => nan
  | _, .nan _ => nan
  | .inf _, .inf _ => nan
  | .inf a, .fin b _ _ => BitVec.ofNat 32 (f32.signed (a != b) f32.infBits)
  | .fin a _ _, .inf b => BitVec.ofNat 32 (f32.signed (a != b) 0)
  | .fin a m e, .fin b n g =>
    if n = 0 then (if m = 0 then nan else BitVec.ofNat 32 (f32.signed (a != b) f32.infBits))
    else
      let k := 2 ^ 60 * m / n
      BitVec.ofNat 32 (f32.round .rne (a != b) (2 * k + (if 2 ^ 60 * m % n = 0 then 0 else 1)) (e - g - 61)).1

/-- Signed 16-bit halves of a word. -/
def signedHalf (x : W32) (i : Nat) : Int := (x.extractLsb' (16 * i) 16).toInt

/-- A row-state word at the head (Table 11.4). -/
def rowWord (op : MatrixOp) (w : Wave) : Wave :=
  match op.kind with
  | .mstz => { w with rows := [] }
  | .mstrd =>
    (List.range 16).foldl (fun (w : Wave) t =>
      let x := w.row t
      ((w.setTrue op.vacc t (BitVec.ofInt 32 x.m)).setTrue (op.vacc + 1) t x.l).setTrue (op.vacc + 2) t
        (BitVec.ofInt 16 x.off1 ++ BitVec.ofInt 16 x.off0)) w
  | .mstwr =>
    (List.range 16).foldl (fun (w : Wave) t =>
      let src := fun i => look 0 op.srcs (64 * i + t)
      w.setRow t { w.row t with
        m := clampInt (-32768) 32767 (src 0).toInt, l := src 1
        off0 := clampInt (-32768) 0 (signedHalf (src 2) 0), off1 := clampInt (-32768) 0 (signedHalf (src 2) 1) }) w
  | .mnorm =>
    (List.range 16).foldl (fun (w : Wave) r =>
      (List.range 128).foldl (fun (w : Wave) c =>
        let p := outPlace w.width op.vacc r c
        w.setTrue p.1 p.2 (divF32 (w.trueV p.1 p.2) (w.row r).l)) w) w
  | .mma _ _ => w

/-! ### One row of a product -/

/-- The element codes of a row's bytes (R63, Table 4.8). -/
def Element.codes (el : Element) (bs : List Byte) : List Nat :=
  let n := natOfBytes bs
  (List.range (8 * bs.length / el.bits)).map (fun i => n / 2 ^ (el.bits * i) % 2 ^ el.bits)

/-- Codes with the scale byte of their block. -/
def withScales (codes : List Nat) (scale : Nat → Nat) : List (Nat × Nat) := codes.zipIdx.map (fun c => (c.1, scale (c.2 / 32)))

/-- The scale byte of block `j`, from a slot and a register's byte (R71, R223). -/
def blockScale (w : Wave) (desc : W32) (reg thread sel : Nat) : Nat :=
  if slotScaled desc then getByte (w.trueV reg thread) sel else slotDscale desc

/-- The scale bytes an operation reads once, at its start (R223): by A row and by B column, each by block. -/
def readScales (w : Wave) (op : MatrixOp) : List (List Nat) × List (List Nat) :=
  let row := fun r => (List.range 4).map (fun j => blockScale w (w.slotDesc op.aslot) (op.asb + j) r op.sel)
  let column := fun n => (List.range 4).map (fun j => blockScale w (w.slotDesc op.bslot) (op.bsb + 4 * j + n / 16) (n % 16) op.sel)
  ((List.range 16).map row, (List.range 64).map column)

/-- The scales an operation has read, of a row of A or of a column of B. -/
def MatrixOp.scaleA (op : MatrixOp) (r j : Nat) : Nat := ((op.bytes.map (·.1)).getD []).getD r [] |>.getD j 0
def MatrixOp.scaleB (op : MatrixOp) (n j : Nat) : Nat := ((op.bytes.map (·.2)).getD []).getD n [] |>.getD j 0

/-- Columns of B for MMA: one per B row, its scales from member 0's registers. -/
def columnsOf (w0 : Wave) (op : MatrixOp) (rows : List (List Byte)) : List (List (Nat × Nat)) :=
  rows.zipIdx.map (fun b => withScales ((w0.slotElement op.bslot).codes b.1) (op.scaleB b.2))

/-- Columns of B for MMAC: column c is dim c of the half of every V row, with the V row's scale for its block. The bytes are
the half's 48 data bytes and its two scale bytes. -/
def chainColumns (rows : List (List Byte)) : List (List (Nat × Nat)) :=
  let decoded := rows.map (fun bs => (Element.t6.codes (bs.take 48), (bs.drop 48).map (fun b => b.toNat)))
  (List.range 64).map (fun c => decoded.map (fun k => (k.1.getD c 0, k.2.getD (c / 32) 0)))

/-- A row of A for MMAC (R228): the chain buffer, each half with its scale 127 + off, a half below −127 giving zeros. -/
def chainRow (x : RowState) : List (Nat × Nat) :=
  let part := fun (codes : List (BitVec 6)) (off : Int) =>
    codes.map (fun c => if off < -127 then (if c = 0x20#6 then 0x20 else 0, 127) else (c.toNat, (127 + off).toNat))
  part x.codes0 x.off0 ++ part x.codes1 x.off1

/-- A COMPLETED ROW (R224, R226, R229): the 64 accumulators of row `r` of a member, and its softmax step. -/
def finishRow (op : MatrixOp) (ea eb : Element) (r : Nat) (a : List (Nat × Nat)) (columns : List (List (Nat × Nat))) (w : Wave) : Wave :=
  let zero := (match op.kind with | .mma z _ => z | _ => false)
  let place := fun c => (op.vacc + (64 * r + c) / w.width, (64 * r + c) % w.width)
  let results := columns.zipIdx.map (fun b =>
    let p := place b.2
    let acc := if zero then 0 else w.trueV p.1 p.2
    if ea.isInt then dotChunkInt ea eb acc a b.1 else dotChunk ea eb acc a b.1)
  let w := results.zipIdx.foldl (fun (w : Wave) x => w.setTrue (place x.2).1 (place x.2).2 x.1) w
  if op.soft then softmaxStep r results op.half op.obase w else w

/-! ### The unit -/

/-- An entry of major 0x30, and one that belongs to a gang. -/
def MatrixOp.isMma (op : MatrixOp) : Bool := match op.kind with | .mma _ _ => true | _ => false
def MatrixOp.ganged (op : MatrixOp) : Bool := op.isMma && op.gang != 0

/-- The heads of two members match (R220). -/
def MatrixOp.same (a b : MatrixOp) : Bool :=
  a.kind == b.kind && a.keep == b.keep && a.aslot == b.aslot && a.bslot == b.bslot && a.asb == b.asb && a.bsb == b.bsb &&
  a.sel == b.sel && a.soft == b.soft && a.half == b.half && a.obase == b.obase && a.bPtr == b.bPtr && a.gang == b.gang

/-- The head of a wave's queue that may start (R218): its guard has resolved true. -/
def openHead (s : State) (k : Nat) : Option MatrixOp :=
  match (s.wave k).matrix with
  | [] => none
  | op :: _ => if !op.started && guardOpen s k op.seq then some op else none

/-- A product that has begun, stands at a row boundary and is not held by a fault (R227). -/
def underWay (w : Wave) (op : MatrixOp) : Bool :=
  op.isMma && op.bytes.isSome && (w.mprog != 0 || op.brows.isSome) && !w.mprog.getLsbD 15

/-- A team that is being stopped, or has stopped (R293). -/
def teamHalts (s : State) (team : Nat) : Bool := (find s.teams team).any (·.halting)
def teamStopped (s : State) (team : Nat) : Bool := (find s.teams team).any (·.stopped.isSome)

/-- Waves of a quarter with a head that may start, the oldest first; while a product is under way, the waves of that. One whose team has
stopped runs no more rows. -/
def startable (s : State) (quarter : Nat) : List (Nat × MatrixOp) :=
  let heads := s.allWaves.filterMap (fun e =>
    if e.2.quarterId == quarter && (e.2.station == .live || e.2.station == .asleep) then (openHead s e.1).map (fun op => (e.1, op)) else none)
  let running := heads.filter (fun h => underWay (s.wave h.1) h.2 && !teamStopped s (s.wave h.1).team)
  if running.isEmpty then
    (heads.filter (fun h => !teamHalts s (s.wave h.1).team)).mergeSort (fun a b => a.2.issued ≤ b.2.issued)
  else running

/-- The member of a team with a wid. -/
def memberOf (s : State) (team wid : Nat) : Option Nat :=
  (s.allWaves.find? (fun e => e.2.station != .vacant && e.2.team == team && e.2.wid == wid)).map (·.1)

/-- What a head finds of its gang (R220). -/
inductive Gathered where
  | run (members : List Nat)
  | waits
  | fails (members : List Nat)
  deriving DecidableEq, Repr

/-- The members of a head's operation: itself, or its gang in rank order. (DEDUCED, log 92, unsafe.) -/
def gather (s : State) (k : Nat) (op : MatrixOp) : Gathered :=
  if !op.ganged then .run [k]
  else
    let team := (s.wave k).team
    let keys := (gangWids op.gang).map (memberOf s team)
    let present := keys.filterMap (fun m => m)
    let heads := present.filterMap (fun m => (openHead s m).bind (fun h => if h.isMma then some (m, h) else none))
    if keys.any (·.isNone) then .fails ((heads.filter (fun h => h.2.gang == op.gang)).map (·.1))
    else if heads.length < keys.length then .waits
    else if heads.all (fun h => h.2.same op) then .run present
    else .fails present

/-- GANG MISMATCH (R220): the members record 0x0f at their operation's word, and the launch terminates.
(DEDUCED, log 92, unsafe.) -/
def gangFails (op : MatrixOp) (k : Nat) (members : List Nat) (s : State) : State :=
  let s := members.foldl (fun (s : State) m =>
    let back := s.focus
    let s := s.focusOn m
    let (pc, inst) := match s.w.matrix with | h :: _ => (h.addr, h.inst) | [] => (s.w.a.pos.pc, s.w.inst)
    let s := (recordTrap ⟨Cause.gang, 0, false, 0, inst, pc, 1, 0, 0, 0, false⟩ s.w.inHandler s).onWave (fun w => { w with station := .stopped })
    s.endRun.focusOn back) s
  stopLaunch (s.wave k).launch ⟨Cause.gang, 1, 0, 0, op.addr, k, 0, false⟩ s

/-- What reading an operand's bytes comes to. -/
inductive Fetched where
  | ok (rows : List (List Byte))
  | fault (faults : List (Nat × W64 × BitVec 8 × Nat × Bool))
  | stop (cause : BitVec 8) (va : W64)
  | waiting
  deriving DecidableEq, Repr

/-- The first poisoned byte of some locations, by its place. -/
def poisonIn (s : State) (locs : List Nat) : Option Nat := (List.range locs.length).find? (fun i => anyPoison s [locs.getD i 0])

/-- Rows of an operand read through its handle: pieces (offset, bytes) each. -/
def fetchRows (w : Wave) (cache : Cache) (handle : Nat) : List (List (Nat × Nat)) → State → State × Fetched
  | [], s => (s, .ok [])
  | pieces :: rest, s =>
    let one := pieces.foldl (fun (r : State × Fetched) p =>
      match r with
      | (s, .ok got) =>
        match locsOf w cache handle .load p.1 p.2 s with
        | (s, .waiting) => (s, .waiting)
        | (s, .trap c) => (s, .stop c 0)
        | (s, .fault fs) => (s, .fault fs)
        | (s, .ok locs) =>
          match poisonIn s locs with
          | some i => (s, .stop Cause.poison ((failingVa w handle [(64, p.1 + i)] 0) &&& ~~~(31#64)))
          | none => (s, .ok (got ++ [engineRead s w.env handle locs]))
      | r => r) (s, .ok [])
    match one with
    | (s, .ok got) =>
      match fetchRows w cache handle rest s with
      | (s, .ok more) => (s, .ok ((got.flatMap id) :: more))
      | r => r
    | r => r

/-- The rows of B an operation reads (R222). -/
def bPieces (op : MatrixOp) : List (List (Nat × Nat)) :=
  let at0 := ptrOffset op.bPtr
  let st := ptrStride op.bPtr
  match op.kind with
  | .mma _ true => (List.range 128).map (fun k => [(at0 + k * st + 48 * op.half, 48), (at0 + k * st + 96 + 2 * op.half, 2)])
  | _ => (List.range 64).map (fun n => [(at0 + n * st, 96)])

/-- The form of an operation's B (R225). -/
def MatrixOp.form (op : MatrixOp) : Nat := match op.kind with | .mma _ true => 1 + op.half | _ => 0

/-- The wids of an operation's gang, or of its one wave. -/
def MatrixOp.wids (op : MatrixOp) (w : Wave) : List Nat := if op.gang = 0 then [w.wid] else gangWids op.gang

/-- The B the unit keeps, if the operation may use it (R225). -/
def keptB (s : State) (w : Wave) (op : MatrixOp) : Option (List (List Byte)) :=
  match look none (s.core w.core).held w.quarter with
  | some h =>
    if op.keep && h.team == w.team && h.wids == op.wids w && h.bPtr == op.bPtr && h.slot == op.bslot && h.form == op.form then some h.rows
    else none
  | none => none

/-- The head of a wave's matrix queue changed. -/
def onMatrixHead (k : Nat) (f : MatrixOp → MatrixOp) (s : State) : State :=
  let w := s.wave k
  s.setWave k { w with matrix := (match w.matrix with | [] => [] | h :: t => f h :: t) }

/-- An operation stopped at a row boundary (R227, R293): the rows that are complete stand in every member's mprog. -/
def productStopped (members : List Nat) (done : Nat) (s : State) : State :=
  members.foldl (fun (s : State) m => s.setWave m { s.wave m with mprog := BitVec.ofNat 64 done }) s

/-- Operands of rows on their way: walks that are not done (R285). -/
def onlyWalks (fs : List (Nat × W64 × BitVec 8 × Nat × Bool)) : Bool := fs.all (fun f => f.2.2.1 == Cause.waiting)

/-- Rows of an operand with no translation: the operation stands at a row boundary with the rows that are complete in every member's mprog. A
walk on its way is waited for; a page fault holds the operation, which reads B again when it resumes, and its record names the member whose
rows faulted (R227). -/
def matrixFault (members : List Nat) (rows : Nat) (k : Nat) (op : MatrixOp) (fs : List (Nat × W64 × BitVec 8 × Nat × Bool)) (s : State) : State :=
  if onlyWalks fs then productStopped members rows s
  else
    let s := productStopped members (0x8000 + rows) s
    let s := members.foldl (fun (s : State) m => onMatrixHead m (fun h => { h with brows := none }) s) s
    engineFault 1 (engineWave s k (s.wave k).env []) op.addr Access.read fs s

/-- Rows from `R` on, one after another, with their member and its head; those done stay done where one has no operand.
(DEDUCED, log 89, unsafe.) -/
def runRows (members : List Nat) (columns : List (List (Nat × Nat))) : Nat → Nat → State → State × Bool
  | 0, _, s => (s, true)
  | fuel + 1, R, s =>
    let k := members.getD (R / 16) 0
    let r := R % 16
    let w := s.wave k
    match w.matrix with
    | [] => (s, false)
    | op :: _ =>
      let ea := w.slotElement op.aslot
      let eb := w.slotElement op.bslot
      match op.kind with
      | .mma _ true => runRows members columns fuel (R + 1) (s.setWave k (finishRow op .t6 eb r (chainRow (w.row r)) columns w))
      | _ =>
        match fetchRows (engineWave s k w.env op.samples) (.matrix w.quarterId) (ptrHandle op.aPtr) [[(ptrOffset op.aPtr + r * ptrStride op.aPtr, 96)]] s with
        | (s, .ok rows) =>
          let w := s.wave k
          let a := withScales (ea.codes (rows.headD [])) (op.scaleA r)
          runRows members columns fuel (R + 1) (s.setWave k (finishRow op ea eb r a columns w))
        | (s, .fault fs) => (matrixFault members R k op fs s, false)
        | (s, .stop cause va) => (engineStop k w.launch 1 Access.read cause va op.addr s, false)
        | (s, .waiting) => (productStopped members R s, false)

/-- What an operation of its members reads once, at its start: every member's scale registers (R223) and the descriptors of the slab
windows its operands lie in (R111). -/
def beginProduct : List Nat → State → State × Fetched
  | [], s => (s, .ok [])
  | k :: ks, s =>
    let w := s.wave k
    match w.matrix with
    | [] => (s, .waiting)
    | op :: _ =>
      if op.bytes.isSome then beginProduct ks s
      else
        let chained := (match op.kind with | .mma _ c => c | _ => false)
        match takeSamples (engineWave s k w.env []) (.matrix w.quarterId)
            (ptrHandle op.bPtr :: (if chained then [] else [ptrHandle op.aPtr])) s with
        | (s, .fault fs) => (s, .fault fs)
        | (s, .reserved) => (s, .stop Cause.handle 0)
        | (s, .ok xs) => beginProduct ks (onMatrixHead k (fun h => { h with samples := xs, bytes := some (readScales w op) }) s)

/-- Every row is complete (R227): the members' mprog, and their operation has been run. -/
def productDone (members : List Nat) (s : State) : State :=
  members.foldl (fun (s : State) m =>
    let s := onMatrixHead m (fun h => { h with started := true, brows := none }) s
    s.setWave m { s.wave m with mprog := BitVec.ofNat 64 (16 * members.length) }) s

/-- A product of its members started or resumed, for at most some number of rows (R225 to R227): B is fetched once, and again only by a
resumption after a fault or a save. -/
def startProduct (members : List Nat) (op : MatrixOp) (rows : Nat) (s : State) : State :=
  let k0 := members.headD 0
  let launch := (s.wave k0).launch
  let done := (s.wave k0).mprog.toNat % 128
  match beginProduct members s with
  | (s, .waiting) => s
  | (s, .stop cause va) => engineStop k0 launch 1 Access.read cause va op.addr s
  | (s, .fault fs) => matrixFault members done k0 op fs s
  | (s, .ok _) =>
    let w0 := s.wave k0
    let op := w0.matrix.headD op
    let fetched : State × Fetched := match op.brows.or (keptB s w0 op) with
      | some rows => (s, .ok rows)
      | none => fetchRows (engineWave s k0 w0.env op.samples) (.matrix w0.quarterId) (ptrHandle op.bPtr) (bPieces op) s
    match fetched with
    | (s, .waiting) => s
    | (s, .stop cause va) => engineStop k0 launch 1 Access.read cause va op.addr s
    | (s, .fault fs) => matrixFault members done k0 op fs s
    | (s, .ok bs) =>
      let held : HeldB := ⟨w0.team, op.wids w0, op.bPtr, op.bslot, op.form, bs⟩
      let s := onMatrixHead k0 (fun h => { h with brows := some bs }) s
      let s := s.onCore w0.core (fun c => { c with held := put none c.held w0.quarter (some held) })
      let columns := (match op.kind with | .mma _ true => chainColumns bs | _ => columnsOf w0 op bs)
      let left := 16 * members.length - done
      match runRows members columns (min rows left) done s with
      | (s, true) => if rows < left then productStopped members (done + rows) s else productDone members s
      | (s, false) => s

/-- A head that may start, started. (DEDUCED, log 89, unsafe.) -/
def startHead (k : Nat) (op : MatrixOp) (members : List Nat) (rows : Nat) (s : State) : State :=
  if op.isMma then startProduct members ((openHead s (members.headD k)).getD op) rows s
  else
    let w := rowWord op (s.wave k)
    s.setWave k { w with matrix := (match w.matrix with | [] => [] | h :: t => { h with started := true } :: t) }

/-- The first candidate that can start or that fails. -/
def pickHead (s : State) : List (Nat × MatrixOp) → Option (Nat × MatrixOp × Gathered)
  | [] => none
  | (k, op) :: rest =>
    match gather s k op with
    | .waits => pickHead s rest
    | g => some (k, op, g)

/-- An operation of the quarter has been run and not completed. -/
def unitBusy (s : State) (quarter : Nat) : Bool :=
  s.allWaves.any (fun e => e.2.quarterId == quarter && e.2.matrix.any (·.started))

/-- MATRIX_OPERATION_START (R218, R220, R226, R227, R293): the idle unit starts the oldest ready queue head, or goes on with the operation that
has begun; a product runs at most `rows` of its rows now. A team that is being stopped begins no operation.
(DEDUCED, log 89, unsafe; DEDUCED, log 90, safe.) -/
def execMatrixOperationStart (unit : Nat × Nat) (s : State) : Result :=
  let quarter := unit.1
  let rows := unit.2
  if unitBusy s quarter then .next s
  else
    match pickHead s (startable s quarter) with
    | none => .next s
    | some (_, _, .waits) => .next s
    | some (k, op, .fails members) => .next (gangFails op k members s)
    | some (k, op, .run members) => .next (startHead k op members rows s)

/-- MATRIX_OPERATION_COMPLETE (R218, R226): cnt.mx falls in every member at once, and mprog is zero again.
(DEDUCED, log 89, unsafe.) -/
def execMatrixOperationComplete (quarter : Nat) (s : State) : Result :=
  .next (s.mapWaves (fun _ w =>
    if w.quarterId != quarter then w
    else
      match w.matrix with
      | [] => w
      | op :: rest =>
        if !op.started then w
        else { w with matrix := rest, matDone := w.matDone ++ [op], mprog := if op.isMma then 0 else w.mprog }.land 3 op.seq))

end Sys2Proof.Machine
end

