-- ==== Sys2Proof/Machine/Sequences.lean ====
section
/-! DEFINITION. The Distaff's sequence table and the words of major 0x35 (R235, R242 to R245, R275): STEPQ, TOKC, SEQRD. The
Distaff reads the table by physical address, where firmware put it; SEQRD reads it through the issuing context. -/

namespace Sys2Proof.Machine

/-! ### The sequence table (Table 17.8) -/

/-- A wave of a context owns a sequence (R235). -/
def owns (s : State) (tag : BitVec 8) (id : W32) : Bool :=
  let x := seqWord s (seqSlot id) 0
  x.getLsbD 63 && x.extractLsb' 52 8 == tag && x.extractLsb' 32 20 == id.extractLsb' 12 20

/-- Fields of an entry. -/
def seqBusy (s : State) (slot : Nat) : Bool := (seqWord s slot 0).getLsbD 62
def seqMode (s : State) (slot : Nat) : BitVec 2 := (seqWord s slot 0).extractLsb' 60 2
def seqLength (s : State) (slot : Nat) : Nat := ((seqWord s slot 0).extractLsb' 0 32).toNat
def seqMasked (s : State) (slot : Nat) : W32 := (seqWord s slot 1).extractLsb' 32 32
def seqTokens (s : State) (slot : Nat) : W64 := seqWord s slot 2
def seqDirty (s : State) (slot : Nat) : W64 := seqWord s slot 3
def seqMask (s : State) (slot : Nat) : W32 := (seqWord s slot 5).setWidth 32
def seqStepc (s : State) (slot : Nat) : W32 := (seqWord s slot 10).extractLsb' 32 32
def seqCommit (s : State) (slot : Nat) : W32 := (seqWord s slot 10).setWidth 32

/-- The sequence id of a slot as it stands. -/
def seqIdOf (s : State) (slot : Nat) : W32 := (seqWord s slot 0).extractLsb' 32 20 ++ BitVec.ofNat 12 slot

/-! ### Issue -/

/-- A request to the Distaff: its counter rises and its destinations are empty. -/
def askDistaff (u : Use) (stepq : Bool) (d : Nat) (rs : List Nat) (arg : W64) (seqId : W32) (s : State) : State :=
  let s := raiseCount 7 s
  let r : DistaffReq := ⟨s.focus, s.w.seq, stepq, d, arg, seqId, s.w.a.pos.pc, s.w.inst, s.w.a⟩
  let s := finish u (s.onArch (fun a => a.emptySs rs))
  { s with distaff := s.distaff ++ [{ r with snap := s.w.a }] }

/-- STEPQ (R242, R243). (DEDUCED, log 105, unsafe.) -/
def execStepq (d : BitVec 7) (a : BitVec 7) (ea : Bool) (s : State) : Result :=
  let rs := regRange d.toNat 4
  let u : Use := { async := true, path := some 7, srcS := [(a.toNat, ea)], oldS := rs, illegal := d.toNat % 4 != 0 }
  issue u (fun s =>
    if s.w.env.stepptr = 0 then raise Cause.handle 0 0 s
    else .next (askDistaff u true d.toNat rs (s.sreg a.toNat) 0 s)) s

/-- SEQRD (R242, R245). -/
def execSeqrd (d : BitVec 7) (a : BitVec 7) (b : BitVec 7) (ea : Bool) (eb : Bool) (s : State) : Result :=
  let u : Use := { async := true, path := some 7, srcS := [(a.toNat, ea), (b.toNat, eb)], oldS := [d.toNat] }
  issue u (fun s =>
    let id := (s.sreg a.toNat).setWidth 32
    if !owns s s.w.env.tag id then raise Cause.sequence 0 0 s
    else .next (askDistaff u false d.toNat [d.toNat] (s.sreg b.toNat) id s)) s

/-- TOKC (R242, R244): the token goes to the array's commit position, which moves on by one with the step's count.
(DEDUCED, log 157, safe.) -/
def execTokc (a : BitVec 7) (b : BitVec 7) (ea : Bool) (eb : Bool) (s : State) : Result :=
  let u : Use := { irrevocable := true, path := some 7, srcS := [(a.toNat, ea), (b.toNat, eb)] }
  issue u (fun s =>
    let id := (s.sreg a.toNat).setWidth 32
    let token : W32 := (s.sreg b.toNat).setWidth 32
    let slot := seqSlot id
    if !owns s s.w.env.tag id || seqMode s slot == 2#2 then raise Cause.sequence 0 0 s
    else if 64 ≤ (seqStepc s slot).toNat then raise Cause.bounds 0 0 s
    else if guardHolds s s.w then .next (s.holdFor .guard)
    else
      let va := seqTokens s slot + 4 * (seqCommit s slot).setWidth 64
      match translateBytes s (.core s.w.core) s.w.env.tag va 4 Access.write with
      | (s', .inr (bad, c, l, g)) =>
        .next (stallOrTrap 5 Access.write [(64, bad, c, l, g)] s')
      | (s', .inl locs) =>
        if !homeFree s' (seqLoc s slot 10 :: locs) then .next (s'.holdFor .engine)
        else
          let counted := (seqStepc s slot + 1) ++ (seqCommit s slot + 1)
          let s := setSeqWord slot 10 counted (homeWrite (some s.w.env.tag) (locs.zip (bytesOfNat token.toNat 4)) s')
          .next (finish u (countDone 7 (noteIrreplaceable s.w.launch s)))) s

/-! ### The Distaff's read -/

/-- What a request reads: its words with all that it read for them, or the fault of a translation. -/
inductive Asked where
  | ok (words : List W64) (parts : List Elem)
  | fault (va : W64) (cause : BitVec 8) (level : Nat) (large : Bool)
  deriving DecidableEq, Repr

/-- Words read through a wave's context. -/
def askWords (w : Wave) (va : W64) (n : Nat) (s : State) : State × Asked :=
  match translateBytes s (.core w.core) w.env.tag va (8 * n) Access.read with
  | (s, .inl locs) => (s, .ok (doublesOf (readLocs s.mem locs)) [⟨64, va, locs, [], [], [], []⟩])
  | (s, .inr (bad, c, l, g)) => (s, .fault bad c l g)

/-- The device virtual address of a word of an entry: every context has the table mapped at its own address (R242, R275).
(DESIGN CHOICE, log 98, unsafe.) -/
def seqVa (s : State) (slot i : Nat) : W64 := s.seqTable + BitVec.ofNat 64 (128 * slot + 8 * i)

/-- The words a request reads (R243, R245). -/
def distaffWords (w : Wave) (r : DistaffReq) (s : State) : State × Asked :=
  if r.stepq then
    match askWords w w.env.stepptr 4 s with
    | (s, .ok header parts) =>
      let count := ((header.getD 1 0).extractLsb' 0 32).toNat
      if r.arg = BitVec.allOnes 64 then (s, .ok header parts)
      else if count ≤ r.arg.toNat then (s, .ok [BitVec.allOnes 64, 0, 0, 0] parts)
      else
        match askWords w (w.env.stepptr + 32 + 32 * r.arg) 4 s with
        | (s, .ok entry more) => (s, .ok entry (parts ++ more))
        | x => x
    | r => r
  else askWords w (seqVa s (seqSlot r.seqId) (r.arg.toNat % 16)) 1 s

/-- DISTAFF_READ (R128, R242, R243): the oldest request of a wave whose guard has resolved reads; its words are on their way to
their registers. (DEDUCED, log 105, unsafe.) -/
def execDistaffRead (wave : Nat) (s : State) : Result :=
  match s.distaff.find? (fun r => r.wave == wave) with
  | none => .next s
  | some r =>
    if !guardOpen s wave r.seq then .next s
    else
      let w := s.wave wave
      match distaffWords w r s with
      | (s, .fault va c l g) => .next (engineFault 5 w r.addr Access.read [(64, va, c, l, g)] s)
      | (s, .ok words parts) =>
        let s := checkLocs (parts.flatMap (·.locs)) { s with distaff := s.distaff.erase r }
        match poisonVa s (fun _ _ => false) parts with
        | some va =>
          .next (stopAfter wave r.seq r.snap ⟨Cause.poison, 0, false, 0, r.inst, r.addr, 5, Access.read, va, 0, false⟩ s)
        | none =>
          let p : Producer := ⟨r.seq, 7, words.zipIdx.map (fun x => .scalar (r.d + x.2) x.1), [], regRange r.d words.length⟩
          let w := s.wave wave
          .next (s.setWave wave { w with producers := w.producers ++ [p] })

end Sys2Proof.Machine
end

