-- ==== Sys2Proof/Machine/Carder.lean ====
section
/-! DEFINITION. The Carder and the dirty map (R236 to R240): CRDS and CRDR with their queue, a round, the record read,
and DMRD and DMCLR. A round begins by sampling its sequence's entry and its slab, waits for the pages it needs, and
writes its results in one step. -/

namespace Sys2Proof.Machine

/-- The Carder of a core's floor (R9). -/
def floorOf (core : Nat) : Nat := core / 96

/-- A floor's queue. (DEDUCED, log 96, unsafe.) -/
def carderQueue (s : State) (floor : Nat) : List CarderOp := look [] s.carders floor

/-- A word put in the Carder's queue of the wave's floor. -/
def askCarder (round : Bool) (seqId : W32) (ptr p0 p1 : W64) (d : Nat) (s : State) : State :=
  let op : CarderOp := { wave := s.focus, seq := s.w.seq, round := round, seqId := seqId, ptr := ptr, param0 := p0, param1 := p1,
                         d := d, env := s.w.env, addr := s.w.a.pos.pc, entry := [], samples := [] }
  let f := floorOf s.w.core
  { s with carders := put [] s.carders f (carderQueue s f ++ [op]) }

/-! ### CRDS and CRDR (R237, R239) -/

/-- Entries, minimum commit, radius, lowest group (Table 11.7). -/
def roundCount (p : W64) : Nat := (p.extractLsb' 0 32).toNat
def roundMin (p : W64) : Nat := (p.extractLsb' 32 16).toNat
def roundRadius (p : W64) : Nat := (p.extractLsb' 48 8).toNat
def roundGroup (p : W64) : Nat := (p.extractLsb' 56 5).toNat

/-- A share outside 0.0 to 1.0, or a NaN. -/
def shareBad (x : W32) : Bool :=
  match f32.decode x.toNat with
  | .fin neg m e => (neg && m != 0) || (Num.fin false 1 0).lt (.fin neg m e)
  | _ => true

/-- The checks of CRDS at issue (R237). (DEDUCED, log 104, unsafe.) -/
def roundCheck (s : State) (id : W32) (ptr p0 p1 : W64) : RangeCheck :=
  let n := roundCount p0
  let first := [
    if !owns s s.w.env.tag id || seqMode s (seqSlot id) != 2#2 then some Cause.sequence else none,
    if n = 0 ∨ 4096 < n ∨ 4096 < roundMin p0 ∨ shareBad (p1.setWidth 32) then some Cause.bounds else none]
  let permit := fun h (_ : Kind) =>
    if (s.w.env.handle h).any (fun x => x.remote) then some Cause.permission
    else (permitCause s.w h .load).or (permitCause s.w h .store)
  checkRanges s.w (.core s.w.core) permit first [if ptrOffset ptr % 16 ≠ 0 then some Cause.misaligned else none] false
    [⟨ptrHandle ptr, .load, ptrOffset ptr, 32 * n + 16⟩] s

/-- CRDS (R237). (DEDUCED, log 104, unsafe.) -/
def execCrds (d : BitVec 7) (a : BitVec 7) (b : BitVec 7) (ea : Bool) (eb : Bool) (ed : Bool) (s : State) : Result :=
  let u : Use := { words := 2, irrevocable := true, path := some 5,
                   srcS := [(d.toNat, ed), (a.toNat, ea), (b.toNat, eb), (b.toNat + 1, eb)] }
  issue u (fun s =>
    let id := (s.sreg d.toNat).setWidth 32
    let ptr := s.sreg a.toNat
    let p0 := s.sreg b.toNat
    let p1 := s.sreg (b.toNat + 1)
    withRanges (roundCheck s id ptr p0 p1) (fun s =>
      if guardHolds s s.w then .next (s.holdFor .guard)
      else .next (finish u (askCarder true id ptr p0 p1 0 (raiseCount 5 s)))) s) s

/-- CRDR (R239). -/
def execCrdr (d : BitVec 7) (a : BitVec 7) (b : BitVec 7) (ea : Bool) (eb : Bool) (s : State) : Result :=
  let rs := regRange d.toNat 3
  let u : Use := { words := 2, async := true, path := some 5, srcS := [(a.toNat, ea), (b.toNat, eb)], oldV := rs,
                   illegal := rs.any s.w.isPort }
  issue u (fun s =>
    let ptr := s.sreg a.toNat
    let p0 := s.sreg b.toNat
    let off := ptrOffset ptr + 16 * (p0.extractLsb' 0 32).toNat
    withRanges (checkRanges s.w (.core s.w.core) (permitCause s.w) [] [] false [⟨ptrHandle ptr, .load, off, 144⟩] s) (fun s =>
      let s := askCarder false 0 ptr p0 0 d.toNat (raiseCount 5 s)
      .next (finish u (s.onArch (fun a => a.emptyVs rs)))) s) s

/-! ### A round (R238) -/

/-- An entry of the round buffer. -/
structure Candidate where
  position   : Nat
  token      : W32
  confidence : W32
  deriving DecidableEq, Repr

/-- The entries of a buffer's bytes. -/
def candidatesOf (n : Nat) (bs : List Byte) : List Candidate :=
  let ws := wordsOf bs
  (List.range n).map (fun i => ⟨(ws.getD (4 * i) 0).toNat, ws.getD (4 * i + 1) 0, ws.getD (4 * i + 2) 0⟩)

/-- A ranks before b: confidence descending, −0 = +0, a NaN below all; ties by lower position. -/
def Candidate.before (a b : Candidate) : Bool :=
  let x := f32.decode a.confidence.toNat
  let y := f32.decode b.confidence.toNat
  if x.isNan || y.isNan then (if x.isNan && y.isNan then decide (a.position ≤ b.position) else y.isNan)
  else if x.eqv y then decide (a.position ≤ b.position)
  else y.lt x

/-- A confidence meets the threshold. -/
def meets (confidence threshold : W32) : Bool :=
  let x := f32.decode confidence.toNat
  let y := f32.decode threshold.toNat
  y.lt x || x.eqv y

/-- ⌈share × rem⌉, exactly. -/
def shareOf (share : W32) (rem : Nat) : Nat :=
  match f32.decode share.toNat with
  | .fin _ m e => (toWhole .rup false (m * rem) e).1.toNat
  | _ => 0

/-- How many entries a round commits. -/
def commitCount (n : Nat) (share threshold : W32) (rem minc : Nat) (cs : List Candidate) : Nat :=
  min n (max (shareOf share rem) (max (cs.filter (fun c => meets c.confidence threshold)).length minc))

/-- The bits a round sets in the dirty word of each position, for its committed positions in order. -/
def dirtyBits (length radius group : Nat) (ps : List Nat) : SMap W32 :=
  let high : W32 := BitVec.allOnes 32 <<< group
  let mark := fun (m : SMap W32) (q : Nat) (x : W32) => put 0 m q (look 0 m q ||| x)
  ps.foldl (fun m p =>
    let near := ((List.range radius).map (fun i => p + i + 1)) ++ ((List.range radius).filter (fun i => i < p)).map (fun i => p - i - 1)
    (near.filter (fun q => q < length)).foldl (fun m q => mark m q high) (mark m p (BitVec.allOnes 32))) []

/-- The record's words (Table 11.8). -/
def recordWords (left : W32) (cs : List Candidate) : List W32 :=
  [BitVec.ofNat 32 cs.length, left, 0, 0] ++ cs.flatMap (fun c => [BitVec.ofNat 32 c.position, c.token])

/-- Bytes of some 32-bit words. -/
def wordBytes (ws : List W32) : List Byte := ws.flatMap (fun x => bytesOfNat x.toNat 4)

/-- Locations of some device virtual addresses of four bytes each, or the first fault. -/
def placeWords (cache : Cache) (tag : BitVec 8) (access : BitVec 2) : List W64 → State →
    State × (List (List Nat) ⊕ (W64 × BitVec 8 × Nat × Bool))
  | [], s => (s, .inl [])
  | va :: rest, s =>
    match translateBytes s cache tag va 4 access with
    | (s, .inr e) => (s, .inr e)
    | (s, .inl locs) =>
      match placeWords cache tag access rest s with
      | (s, .inl more) => (s, .inl (locs :: more))
      | (s, .inr e) => (s, .inr e)

/-- The head of a Carder's queue leaves it. (DEDUCED, log 96, unsafe.) -/
def popCarder (floor : Nat) (s : State) : State := { s with carders := put [] s.carders floor (carderQueue s floor).tail }

/-- The head of a Carder's queue ends its launch with a cause; a round that had started leaves its sequence. -/
def carderStop (floor : Nat) (op : CarderOp) (cause : BitVec 8) (access : BitVec 2) (va : W64) (s : State) : State :=
  let s := if op.entry.isEmpty then s else endRound op s
  engineStop op.wave (s.wave op.wave).launch 4 access cause va op.addr (popCarder floor s)

/-- A page fault of the Carder: its records are posted and it waits. -/
def carderFault (op : CarderOp) (access : BitVec 2) (fs : List (Nat × W64 × BitVec 8 × Nat × Bool)) (s : State) : State :=
  engineFault 4 (engineWave s op.wave op.env op.samples) op.addr access fs s

/-- The handle's base and a buffer offset, for a record. -/
def CarderOp.va (op : CarderOp) : W64 :=
  (match op.env.handle (ptrHandle op.ptr) with | some h => h.base | none => 0) + BitVec.ofNat 64 (ptrOffset op.ptr)

/-- What a round sampled of its sequence: length, mask token, masked count, token array, dirty map (R238). -/
def CarderOp.length (op : CarderOp) : Nat := ((op.entry.getD 0 0).extractLsb' 0 32).toNat
def CarderOp.masked (op : CarderOp) : W32 := (op.entry.getD 1 0).extractLsb' 32 32
def CarderOp.tokens (op : CarderOp) : W64 := op.entry.getD 2 0
def CarderOp.dirty (op : CarderOp) : W64 := op.entry.getD 3 0
def CarderOp.mask (op : CarderOp) : W32 := (op.entry.getD 5 0).setWidth 32

/-- Positions that a round has committed, kept for the stop test of the step (R278). -/
def noteRound (op : CarderOp) (ps : List Nat) (s : State) : State :=
  let slot := seqSlot op.seqId
  let add := fun (d : Distaff) => { d with rounds := d.rounds ++ ps.map (fun p => (slot, p)) }
  { s with contexts := change (fun c => { c with distaff := add c.distaff }) s.contexts op.env.tag.toNat }

/-- The writes of a round, in the order of its pseudocode, when all have a place and no line of them is in use. -/
def commitRound (floor : Nat) (op : CarderOp) (chosen : List Candidate) (dirty : SMap W32) (dirtyLocs tokenLocs : List (List Nat))
    (recordLocs : List Nat) (s : State) : State :=
  let tag := some op.env.tag
  let slot := seqSlot op.seqId
  let left : W32 := op.masked - BitVec.ofNat 32 chosen.length
  let h := ptrHandle op.ptr
  let space := match op.env.handle h with | some x => x.space | none => 0
  let launch := (s.wave op.wave).launch
  let mine := dirtyLocs.flatMap id ++ tokenLocs.flatMap id ++ [seqLoc s slot 0, seqLoc s slot 1]
  if !homeFree s (mine ++ recordLocs) then
    askOwning ((recordLocs.map lineOf).eraseDups) s
  else
    match beforeWrite launch h space recordLocs s with
    | none => s
    | some s =>
      let ored := (dirty.zip dirtyLocs).flatMap (fun x =>
        x.2.zip (bytesOfNat (x.1.2 ||| BitVec.ofNat 32 (natOfBytes (readLocs s.mem x.2))).toNat 4))
      let s := homeWrite tag ored s
      let s := homeWrite tag ((chosen.zip tokenLocs).flatMap (fun x => x.2.zip (bytesOfNat x.1.token.toNat 4))) s
      let s := setSeqWord slot 1 (left ++ (seqWord s slot 1).setWidth 32) s
      let s := (engineWrite launch h space tag (recordLocs.zip (wordBytes (recordWords left chosen))) s).1
      let s := noteRound op (chosen.map (·.position)) (endRound op s)
      State.landFor op.wave 5 op.seq (popCarder floor (noteIrreplaceable launch s))

/-- A round with its buffer read. -/
def runRound (floor : Nat) (op : CarderOp) (buffer : List Nat) (s : State) : State :=
  let w := engineWave s op.wave op.env op.samples
  let cache := Cache.carder floor
  let tag := op.env.tag
  let n := roundCount op.param0
  let cs := candidatesOf n (engineRead s op.env (ptrHandle op.ptr) buffer)
  let positions := cs.map (·.position)
  if positions.any (fun p => op.length ≤ p) || positions.eraseDups.length != n then carderStop floor op Cause.bounds 0 0 s
  else
    let tokens := op.tokens
    match placeWords cache tag Access.read (positions.map (fun p => tokens + BitVec.ofNat 64 (4 * p))) s with
    | (s, .inr (va, c, l, g)) => carderFault op Access.read [(64, va, c, l, g)] s
    | (s, .inl places) =>
      match (positions.zip places).find? (fun p => anyPoison s p.2) with
      | some p => carderStop floor op Cause.poison 0 ((tokens + BitVec.ofNat 64 (4 * p.1)) &&& ~~~(31#64)) s
      | none =>
      if places.any (fun ls => BitVec.ofNat 32 (natOfBytes (readLocs s.mem ls)) != op.mask) then
        carderStop floor op Cause.bounds 0 0 s
      else
        let ranked := cs.mergeSort Candidate.before
        let c := commitCount n (op.param1.setWidth 32) (op.param1.extractLsb' 32 32) op.masked.toNat (roundMin op.param0) cs
        let chosen := ranked.take c
        let dirty := dirtyBits op.length (roundRadius op.param0) (roundGroup op.param0) (chosen.map (·.position))
        match placeWords cache tag Access.write (dirty.map (fun e => op.dirty + BitVec.ofNat 64 (4 * e.1))) s with
        | (s, .inr (va, c, l, g)) => carderFault op Access.write [(64, va, c, l, g)] s
        | (s, .inl dirtyLocs) =>
          match placeWords cache tag Access.write (chosen.map (fun x => tokens + BitVec.ofNat 64 (4 * x.position))) s with
          | (s, .inr (va, c, l, g)) => carderFault op Access.write [(64, va, c, l, g)] s
          | (s, .inl tokenLocs) =>
            match locsOf w cache (ptrHandle op.ptr) .store (ptrOffset op.ptr + 16 * n) (16 + 8 * chosen.length) s with
            | (s, .waiting) => s
            | (s, .trap cause) => carderStop floor op cause 0 op.va s
            | (s, .fault fs) => carderFault op Access.write fs s
            | (s, .ok recordLocs) =>
              match (dirty.zip dirtyLocs).find? (fun p => anyPoison s p.2) with
              | some p => carderStop floor op Cause.poison 0 ((op.dirty + BitVec.ofNat 64 (4 * p.1.1)) &&& ~~~(31#64)) s
              | none => commitRound floor op chosen dirty dirtyLocs tokenLocs recordLocs s

/-- The first poisoned sector of a buffer, by the address at which the operation reaches it. -/
def CarderOp.poisonAt (op : CarderOp) (s : State) (skip : Nat) (locs : List Nat) : W64 :=
  (op.va + BitVec.ofNat 64 (skip + locs.findIdx (fun l => anyPoison s [l]))) &&& ~~~(31#64)

/-- The round at the head of a queue starts: its sequence is busy from now on, its fields and the slab it goes through are
sampled (R111, R238). -/
def startRound (floor : Nat) (op : CarderOp) (s : State) : State :=
  let w := engineWave s op.wave op.env []
  let slot := seqSlot op.seqId
  match takeSamples w (.carder floor) [ptrHandle op.ptr] s with
  | (s, .fault fs) => carderFault op Access.read fs s
  | (s, .reserved) => carderStop floor op Cause.handle 0 0 s
  | (s, .ok xs) =>
    if !homeFree s [seqLoc s slot 0] then s
    else
      let op' := { op with samples := xs, entry := (List.range 6).map (seqWord s slot) }
      let s := setSeqWord slot 0 (seqWord s slot 0 ||| 0x4000000000000000#64) s
      { s with carders := put [] s.carders floor (op' :: (carderQueue s floor).tail) }

/-- CARDER_ROUND (R238): the round at the head of a floor's queue, once its sequence has no other round.
(DEDUCED, log 96, unsafe.) -/
def execCarderRound (floor : Nat) (s : State) : Result :=
  match carderQueue s floor with
  | [] => .next s
  | op :: _ =>
    if !op.round then .next s
    else if op.entry.isEmpty then .next (if seqBusy s (seqSlot op.seqId) then s else startRound floor op s)
    else
      let w := engineWave s op.wave op.env op.samples
      match locsOf w (.carder floor) (ptrHandle op.ptr) .load (ptrOffset op.ptr) (16 * roundCount op.param0) s with
      | (s, .waiting) => .next s
      | (s, .trap cause) => .next (carderStop floor op cause 0 op.va s)
      | (s, .fault fs) => .next (carderFault op Access.read fs s)
      | (s, .ok buffer) =>
        if anyPoison s buffer then .next (carderStop floor op Cause.poison 0 (op.poisonAt s 0 buffer) s)
        else .next (runRound floor op buffer s)

/-- The registers a record gives (R239). -/
def recordWrites (d : Nat) (ws : List W32) : List RegWrite :=
  let c := ws.getD 0 0
  let ranks := min c.toNat 16
  (List.range 16).flatMap (fun t =>
    [.vec d t (if t < ranks then ws.getD (4 + 2 * t) 0 else BitVec.allOnes 32),
     .vec (d + 1) t (if t < ranks then ws.getD (5 + 2 * t) 0 else BitVec.allOnes 32),
     .vec (d + 2) t (if t = 0 then c else if t = 1 then ws.getD 1 0 else 0)])

/-- CARDER_RECORD_READ (R239): the record read at the head of a floor's queue. (DEDUCED, log 96, unsafe.) -/
def execCarderRecordRead (floor : Nat) (s : State) : Result :=
  match carderQueue s floor with
  | [] => .next s
  | op :: _ =>
    let skip := 16 * (op.param0.extractLsb' 0 32).toNat
    if op.round || !guardOpen s op.wave op.seq then .next s
    else
      let w := engineWave s op.wave op.env op.samples
      match locsOf w (.carder floor) (ptrHandle op.ptr) .load (ptrOffset op.ptr + skip) 144 s with
      | (s, .waiting) => .next s
      | (s, .trap cause) => .next (carderStop floor op cause 0 op.va s)
      | (s, .fault fs) => .next (carderFault op Access.read fs s)
      | (s, .ok locs) =>
        if anyPoison s locs then .next (carderStop floor op Cause.poison 0 (op.poisonAt s skip locs) s)
        else
          let p : Producer := ⟨op.seq, 5, recordWrites op.d (wordsOf (engineRead s op.env (ptrHandle op.ptr) locs)), regRange op.d 3, []⟩
          let s := popCarder floor s
          let w := s.wave op.wave
          .next (s.setWave op.wave { w with producers := w.producers ++ [p] })

/-! ### The dirty map (R240) -/

/-- The handle of an access made through none: device memory, everything permitted; no launch's snapset holds its number. -/
def plainHandle : Handle :=
  { base := 0, limit := 2 ^ 52 - 1, space := 0, rd := true, wr := true, atom := true, red := true, policy := 0, pinclass := 0,
    selector := 0, reserved := false }
def noHandle : Nat := 256

/-- DMRD and DMCLR: ownership, the alignment of P, the length once, and an access of 4 bytes for each position chosen. -/
def dirtyWord (u : Use) (op : AccessOp) (a b : BitVec 7) (chosen : State → Nat → Bool) (data : List Byte)
    (nothing : State → State) (s : State) : Result :=
  issue u (fun s =>
    let id := (s.sreg a.toNat).setWidth 32
    let p := ((s.sreg b.toNat).extractLsb' 0 32).toNat
    let slot := seqSlot id
    if !owns s s.w.env.tag id then raise Cause.sequence 0 0 s
    else if p % 64 ≠ 0 then raise Cause.misaligned 0 0 s
    else
      let is := (List.range 64).filter (fun i => p + i < seqLength s slot && chosen s i)
      if is.isEmpty then .next (finish { u with late := false } (nothing s))
      else if 64 ≤ refusedOf s s.w.core || (!op.writes && s.w.writePending) then .next (s.holdFor .engine)
      else
        let access := if op.writes then Access.atom else Access.read
        let offs := is.map (fun i => (i, 4 * (p + i)))
        match placeAll (.core s.w.core) s.w.env.tag access 4 (fun o => seqDirty s slot + BitVec.ofNat 64 o) offs s with
        | (s', places, []) =>
          let path := if op.writes then 1 else 0
          let elems := places.map (fun q => (⟨q.thread, q.va, q.locs, data, [], [], []⟩ : Elem))
          let x := makeAccess s' path plainHandle noHandle false op elems
          let x := if op.writes then x else x.asLoad s' plainHandle
          let s1 := addAccess x (raiseCount path s')
          if s1.w.overCapacity then .next (abortTxn s.focus 3#3 s)
          else .next (finish u ((nearTouched x s1).onArch (fun a => a.emptySs u.dstS)))
        | (s', _, fs) =>
          .next (stallOrTrap 0 access fs s')) s

/-- DMRD (R240). (DEDUCED, log 97, unsafe.) -/
def execDmrd (d : BitVec 7) (a : BitVec 7) (b : BitVec 7) (ea : Bool) (eb : Bool) (g : BitVec 5) (s : State) : Result :=
  dirtyWord { words := 2, path := some 0, srcS := [(a.toNat, ea), (b.toNat, eb)], dstS := [d.toNat], late := true }
    (.dmrd d.toNat g.toNat) a b (fun _ _ => true) [] (fun s => s.setS d.toNat 0) s

/-- DMCLR (R240). (DEDUCED, log 97, unsafe.) -/
def execDmclr (d : BitVec 7) (a : BitVec 7) (b : BitVec 7) (ea : Bool) (eb : Bool) (ed : Bool) (g : BitVec 5) (s : State) : Result :=
  dirtyWord { words := 2, path := some 1, srcS := [(d.toNat, ed), (a.toNat, ea), (b.toNat, eb)] }
    (.reduce 5) a b (fun s i => (s.sreg d.toNat).getLsbD i) (bytesOfNat (~~~(1#32 <<< g.toNat)).toNat 4) id s

end Sys2Proof.Machine
end

