-- ==== Sys2Proof/Machine/Supervisor.lean ====
section
/-! DEFINITION. The supervisor words of major 0x3c (R180, R264, R286) and the completion of a TLBINV. Each is irrevocable, waits
for its launch's guard (R274), and makes its launch irreplaceable (R313). -/

namespace Sys2Proof.Machine

/-- A supervisor word: its conditions, its launch's guard, then its effect. -/
def supervise (u : Use) (effect : State → State) (s : State) : Result :=
  issue { u with supervisor := true, irrevocable := true, path := some 6 } (fun s =>
    if guardHolds s s.w then .next (s.holdFor .guard)
    else .next (finish u (noteIrreplaceable s.w.launch (effect s)))) s

/-! ### TLBINV (R180, R286) -/

/-- Accesses issued and not performed that an entry of a TLBINV may have translated: all of the page's region, for kind 0. -/
def translatedBy (kind : BitVec 2) (tag : BitVec 8) (va : W64) (s : State) : List (Nat × Nat) :=
  s.allWaves.flatMap (fun e => e.2.holding.filterMap (fun x =>
    if (x.space == 0#4 || x.space == 3#4 || x.space == 6#4) && (kind == 2#2 || e.2.env.tag == tag) &&
        (kind != 0#2 || x.elems.any (fun p => p.va.toNat / 2 ^ 28 == va.toNat / 2 ^ 28)) then some (e.1, x.seq)
    else none))

/-- TLBINV: matching entries leave every cache at once, and walks of them start again; the word completes at TLBINV_COMPLETE. -/
def execTlbinv (rs : BitVec 7) (tag : BitVec 8) (kind : BitVec 2) (ea : Bool) (s : State) : Result :=
  supervise { srcS := [(rs.toNat, ea)] } (fun s =>
    let va := s.sreg rs.toNat
    let i : Invalidation := ⟨s.focus, s.w.seq, translatedBy kind tag va s⟩
    raiseCount 6 { dropTranslations kind tag va s with tlbinvs := s.tlbinvs ++ [i] }) s

/-- An access of a wave is issued and not performed. -/
def outstanding (s : State) (x : Nat × Nat) : Bool := (s.wave x.1).holding.any (fun y => y.seq == x.2)

/-- TLBINV_COMPLETE (R286): a wave's oldest TLBINV, once every access it waits for is performed or cancelled. -/
def execTlbinvComplete (wave : Nat) (s : State) : Result :=
  match s.tlbinvs.find? (fun i => i.wave == wave) with
  | none => .next s
  | some i =>
    if i.waits.any (outstanding s) then .next s
    else .next (State.landFor wave 6 i.seq { s with tlbinvs := s.tlbinvs.erase i })

/-! ### GRDSET, SNAPCT, DBGRD -/

/-- GRDSET (R180, R273). -/
def execGrdset (rs : BitVec 7) (slot : BitVec 8) (ea : Bool) (s : State) : Result :=
  supervise { srcS := [(rs.toNat, ea)] } (fun s =>
    let x := s.sreg rs.toNat
    resolveGuard (x.extractLsb' 56 8) slot (x.getLsbD 0) (countDone 6 s)) s

/-- The launch in flight with an id in a context. (DEDUCED, log 78, unsafe.) -/
def launchNamed (s : State) (tag : BitVec 8) (id : W32) : Option Nat :=
  (s.launches.find? (fun e => e.2.env.tag == tag && e.2.env.launchid == id && e.2.state != .ended)).map (·.1)

/-- SNAPCT (R180, R264, R274): the launch's snapshots discarded, put back, or counted. (DEDUCED, log 78, unsafe.) -/
def execSnapct (rs : BitVec 7) (kind : BitVec 2) (ea : Bool) (s : State) : Result :=
  supervise { srcS := [(rs.toNat, ea)], dstS := if kind = 2#2 then [rs.toNat] else [] } (fun s =>
    let x := s.sreg rs.toNat
    let k := launchNamed s (x.extractLsb' 56 8) (x.setWidth 32)
    let s := countDone 6 s
    if kind = 0#2 then
      (match k with
       | some k => { s with launches := change (fun l => { l with snaps := [] }) s.launches k }
       | none => s)
    else if kind = 1#2 then (match k with | some k => restoreSnapshots [k] s | none => s)
    else
      s.setS rs.toNat (BitVec.ofNat 64 (match k.bind (find s.launches) with | some l => l.snaps.length | none => 0))) s

/-- What a DBGRD reads of a wave: a special register, a scalar register it owns, or, beyond those, a value the spec does not
state. (DEDUCED, log 77, unsafe.) -/
def debugValue (s : State) (w : Wave) (sel : Nat) : W64 :=
  if sel < 0x100 then (sprValue s w sel).getD 0
  else if w.badS (sel - 0x100) then Config.freeWord s.free ++ Config.freeWord (s.free + 1)
  else w.a.getS (sel - 0x100)

/-- DBGRD (R180). (DEDUCED, log 77, unsafe.) -/
def execDbgrd (rs : BitVec 7) (sel : BitVec 12) (ea : Bool) (s : State) : Result :=
  supervise { srcS := [(rs.toNat, ea)], dstS := [rs.toNat], illegal := decide (sel.toNat < 0x100) && (sprValue s s.w sel.toNat).isNone }
    (fun s =>
      let x := s.sreg rs.toNat
      let slot := (x.extractLsb' 11 4).toNat
      let s := countDone 6 s
      let w := s.wave (waveKey (x.extractLsb' 0 9).toNat (x.extractLsb' 9 2).toNat slot)
      if 12 ≤ slot ∨ w.station = .vacant then s.setS rs.toNat 0
      else
        let s := if sel.toNat = 0x030 ∨ sel.toNat = 0x031 then advanceNanotime s else s
        { s.setS rs.toNat (debugValue s w sel.toNat) with free := s.free + 2 }) s

end Sys2Proof.Machine
end

