-- ==== Sys2Proof/Machine/Faults.lean ====
section
/-! DEFINITION. The memory manager (R282, R287 to R291, R325, R328, R333): resolving fault records, moving pages, retiring
frames. -/

namespace Sys2Proof.Machine

/-! ### Resolving records (R289) -/

/-- An unresolved record of a context by its ring index. -/
def openFault (s : State) (tag : BitVec 8) (index : Nat) : Option FaultRec := (s.context tag).faults[index]?.filter (·.opened)

/-- A record is resolved: host refusals it stood for are forgotten, and the memory manager's head passes it. -/
def closeRecord (tag : BitVec 8) (index : Nat) (f : FaultRec) (denied : Bool) (s : State) : State :=
  let s := changeFault tag index (fun f => { f with opened := false, denied := denied }) s
  consumeRecords tag
    { s with ats := s.ats.filter (fun e => !(e.2 == refusedFrame && e.1 % 2 ^ 52 / 16 == f.va.toNat / 2 ^ 16)) }

/-- Ended launches whose completion record waits on a record's page (R341). -/
def completionsOn (s : State) (tag : BitVec 8) (f : FaultRec) : List Nat :=
  (s.launches.filter (fun e => e.2.state == .ended && e.2.env.tag == tag &&
    (e.2.word 17).toNat / 2 ^ 16 == f.va.toNat / 2 ^ 16)).map (·.1)

/-- RETRY: every attached request walks again, and stores that waited are made. -/
def resolveRetry (tag : BitVec 8) (index : Nat) (s : State) : State :=
  match openFault s tag index with
  | none => s
  | some f =>
    let s := closeRecord tag index f false s
    settleWrites tag (s.mapWaves (fun _ w => if w.env.tag == tag && w.hold == .fault index then { w with hold := .none } else w))

/-- What stops a launch whose request a record's denial ends. -/
def FaultRec.stop (f : FaultRec) : Stop :=
  let w0 := f.words.getD 0 0
  let w3 := f.words.getD 3 0
  ⟨w0.extractLsb' 56 8, w0.extractLsb' 52 4, f.access, f.va, f.words.getD 2 0,
    waveKey (w3.extractLsb' 23 9).toNat (w3.extractLsb' 21 2).toNat (w3.extractLsb' 17 4).toNat,
    ((f.words.getD 1 0).extractLsb' 52 2).toNat, w0.getLsbD 49⟩

/-- A wave whose word a denied record ends: trmask holds the threads that failed the check (R84, R156). -/
def Wave.denied (index : Nat) (w : Wave) : Wave :=
  match w.hold, w.failing.find? (fun e => e.1 == index) with
  | .fault _, some e => { w with trmask := e.2 }
  | _, _ => w

/-- An answer to the host or a peer: the address and the bytes, none where the data are poisoned or the access is refused.
(DEDUCED, log 136, safe.) -/
def answerOut (addr : Nat) (bytes : List Byte) (s : State) : State := { s with reads := s.reads ++ [(addr, bytes)] }

/-- A peer's request that waits for a record's page (R335). -/
def waitsFor (tag : BitVec 8) (f : FaultRec) : Instr → Option W64
  | .peerRequest t va kind _ n _ _ =>
    if t == tag && (kind == 0#2) == (accessClass f.access == 0) && accessClass f.access != 2 &&
        decide (va.toNat / 2 ^ 16 ≤ f.va.toNat / 2 ^ 16 ∧ f.va.toNat / 2 ^ 16 ≤ (va.toNat + n - 1) / 2 ^ 16) then some va
    else none
  | _ => none

/-- Peers' requests that wait for a record that is denied are refused (R335). -/
def refusePeers (tag : BitVec 8) (f : FaultRec) (s : State) : State :=
  (s.parked.filterMap (waitsFor tag f)).foldl (fun s va => answerOut va.toNat [] s)
    { s with parked := s.parked.filter (fun i => (waitsFor tag f i).isNone) }

/-- DENY: the launch of every attached request terminates with the record's cause; stores and completion records of the page are dropped.
(DEDUCED, log 121, unsafe.) -/
def resolveDeny (tag : BitVec 8) (index : Nat) (s : State) : State :=
  match openFault s tag index with
  | none => s
  | some f =>
    let s := refusePeers tag f (closeRecord tag index f true s)
    let s := s.mapWaves (fun _ w => if w.env.tag == tag then w.denied index else w)
    let s := f.launches.foldl (fun s k => stopLaunch k f.stop s) s
    if accessClass f.access != 1 then settleWrites tag s
    else settleWrites tag ((completionsOn s tag f).foldl (fun s k => dropCompletion k s) (dropStores tag (f.va.toNat / 2 ^ 16) s))

/-- FRES_RETRY (R289). -/
def execFresRetry (tag : BitVec 8) (index : Nat) (s : State) : Result := .next (resolveRetry tag index s)

/-- FRES_DENY (R289). (DEDUCED, log 121, unsafe.) -/
def execFresDeny (tag : BitVec 8) (index : Nat) (s : State) : Result := .next (resolveDeny tag index s)

/-- Device reference time has reached a second after a record's posting. -/
def secondAfter (f : FaultRec) (s : State) : State :=
  let due := f.posted + 1000000000
  if s.nanotime.toNat < due.toNat then { s with nanotime := due } else s

/-- EVENT_RING_DENY_TIMEOUT (R287): with no event ring, a record that nothing explains is denied 1 s after it is posted. -/
def execEventRingDenyTimeout (tag : BitVec 8) (index : Nat) (s : State) : Result :=
  match openFault s tag index with
  | none => .next s
  | some f =>
    if f.host || explained s tag f.va || s.mgmt.evbase != 0 then .next s
    else .next (resolveDeny tag index (secondAfter f s))

/-- PRI_RESPONSE (R328): the host answers the page request of a refused translation. -/
def execPriResponse (tag : BitVec 8) (index : Nat) (ok : Bool) (s : State) : Result :=
  match openFault s tag index with
  | none => .next s
  | some f => if !f.host then .next s else .next (if ok then resolveRetry tag index s else resolveDeny tag index s)

/-- PRI_TIMEOUT (R333): a page request unanswered for 1 s posts an event of kind 2. -/
def execPriTimeout (tag : BitVec 8) (index : Nat) (s : State) : Result :=
  match openFault s tag index with
  | none => .next s
  | some f =>
    if !f.host || f.told then .next s
    else .next (postEvent 2 tag f.words (changeFault tag index (fun f => { f with told := true }) (secondAfter f s)))

/-! ### Walks and moves -/

/-- PAGE_WALK (R282 to R285): the walk of a cache for an access goes on: a walker takes it from the queue, or reads one more entry of it; the
last fills the cache that asked, with A, and for a write D, set. A walk that fails fills nothing, and the access that asked for it posts its
record as it is tried again. -/
def execPageWalk (cache : Nat) (tag : BitVec 8) (va : BitVec 64) (access : BitVec 2) (s : State) : Result :=
  match walkFor s cache tag va access with
  | none => .next s
  | some k => .next (stepWalk k s)

/-- A frame is on the retired list (R291). -/
def isRetired (s : State) (tier : Bool) (frame : Nat) : Bool := s.retired.any (fun r => r.tier == tier && r.frame == frame)

/-- A frame the memory manager takes: one of its choosing that is not retired (R291). (DESIGN CHOICE, log 116, unsafe.) -/
def freshFrame (s : State) : Nat × State :=
  let frame := Config.spareFrame s.free
  let other := ((List.range 4097).find? (fun i => !isRetired s false i)).getD 4097
  (if isRetired s false frame then other else frame, s.tick)

/-- A leaf with another frame (R290 step 4): V and A set, W, X and D as they were. -/
def moveLeaf (leaf : W64) (tier : Bool) (frame : Nat) : W64 :=
  (leaf &&& ~~~(0x0000ffffffff8010#64)) ||| 0x21#64 ||| (if tier then 0x10#64 else 0) ||| BitVec.ofNat 64 (65536 * frame % 2 ^ 48)

/-- Every unresolved record of a page resolved with retry. -/
def retryPage (tag : BitVec 8) (va : W64) (s : State) : State :=
  (List.range (s.context tag).faults.length).foldl (fun (s : State) i =>
    match openFault s tag i with
    | some f => if f.va.toNat / 2 ^ 16 == va.toNat / 2 ^ 16 then resolveRetry tag i s else s
    | none => s) s

/-- The 64 KiB of one frame copied to another with its poison (R212, R309): the target's copies go and its sectors are dirty.
(DESIGN CHOICE, log 116, unsafe.) -/
def copyFrame (src dst : Nat) (owner : Option (BitVec 8)) (s : State) : State := copyHome owner src dst 65536 s

/-- A MOVE BEGINS (R290 steps 1 and 2): the leaf, as it stands, has V = 0, and the page's translations go. -/
def startMove (m : PageMove) (s : State) : State :=
  let s := dropTranslations 0 m.tag m.va (homeWords (some m.tag) m.entry [m.leaf &&& ~~~(1#64)] s)
  { s with moves := s.moves ++ [m] }

/-- Every resident tile of a frame removed without write-back (R325 step 4), with the copies of its lines. -/
def removeTiles (loc : Nat) (s : State) : State :=
  let s := (List.range 512).foldl (fun s i => invalidateNow (loc / 128 + i) s) s
  let tiles := (List.range 16).map (loc / 4096 + ·)
  { s with whorls := mapEntries (fun _ h =>
      { h.dropTiles (fun t => tiles.contains t.tile) with
               fills := h.fills.filter (fun f => !tiles.contains (f.sector / 64)) }) s.whorls }

/-- A MOVE ENDS (R290 steps 3 to 5): the bytes, the leaf, the snapshots of the page, and its records; the tiles of a retired frame that no
other move needs go. A target retired meanwhile is exchanged for another frame (R291). (DESIGN CHOICE, log 116, unsafe.) -/
def finishMove (m : PageMove) (s : State) : State :=
  let src := entryLoc m.leaf
  let (tier, frame, s) := if isRetired s m.tier m.frame then (let (f, s) := freshFrame s; (false, f, s)) else (m.tier, m.frame, s)
  let dst := frameLoc tier frame
  let s := homeWords (some m.tag) m.entry [moveLeaf m.leaf tier frame] (copyFrame src dst (some m.tag) s)
  let s := { s with
    moves := s.moves.filter (fun x => x != m)
    launches := mapEntries (fun _ l =>
      if l.env.tag == m.tag then
        { l with snaps := l.snaps.map (fun (x : Snapshot) => if x.page == src / 65536 then { x with page := dst / 65536 } else x) }
      else l) s.launches }
  let s := if isRetired s (m.leaf.getLsbD 4) (addrOf src / 65536) && !s.moves.any (fun x => entryLoc x.leaf == src) then removeTiles src s
    else s
  retryPage m.tag m.va s

/-- PAGE_MOVE (R290): a move begins with its leaf; it ends once no access translated to the old frame is outstanding, which is when its
TLBINV completes (R286). Between the two, accesses to the page fault 0x09 and wait. -/
def execPageMove (tag : BitVec 8) (va : BitVec 64) (tier : Bool) (frame : Nat) (s : State) : Result :=
  match moveOf s tag va with
  | some m => .next (if (translatedBy 0 tag va s).any (outstanding s) then s else finishMove m s)
  | none =>
    if isRetired s tier frame || !(s.context tag).active then .next s
    else
      match walk s (s.context tag) va Access.read with
      | .ok leaf entry large => .next (if large then s else startMove ⟨tag, va, leaf, entry, tier, frame⟩ s)
      | .fail _ _ _ => .next s

/-! ### Retiring a frame (R291, R325) -/

/-- The valid entries of a table, with their index and location. -/
def validEntries (m : Memory) (table : Nat) : List (Nat × Nat × W64) :=
  (List.range 4096).filterMap (fun i =>
    let e := readD m (table + 8 * i)
    if e.getLsbD 0 then some (i, table + 8 * i, e) else none)

/-- The pages of a context: address, location of the entry, the entry, and whether it is a large page. -/
def pagesOf (s : State) (c : Context) : List (W64 × Nat × W64 × Bool) :=
  (validEntries s.mem (hbmLoc c.ptroot.toNat)).flatMap (fun (i0, _, e0) =>
    (validEntries s.mem (entryLoc e0)).flatMap (fun (i1, at1, e1) =>
      let base := i0 * 2 ^ 40 + i1 * 2 ^ 28
      if e1.getLsbD 1 then [(BitVec.ofNat 64 base, at1, e1, true)]
      else (validEntries s.mem (entryLoc e1)).map (fun (i2, at2, e2) => (BitVec.ofNat 64 (base + i2 * 2 ^ 16), at2, e2, false))))

/-- A page that covers a frame. -/
def covers (leaf : W64) (large : Bool) (loc : Nat) : Bool :=
  let lo := entryLoc leaf
  decide (lo ≤ loc ∧ loc < lo + (if large then 2 ^ 28 else 2 ^ 16))

/-- A large page split into 64 KiB leaves in a table of the memory manager's choosing. (DESIGN CHOICE, log 116, unsafe.) -/
def splitLarge (tag : BitVec 8) (va leaf : W64) (entry : Nat) (s : State) : State :=
  let (frame, s) := freshFrame s
  let table := frameLoc false frame
  let base := leaf &&& 0x0000fffff0000000#64
  let leaves := (List.range 4096).map (fun i => (leaf &&& 0x7d#64) ||| (base + BitVec.ofNat 64 (65536 * i)))
  let s := homeWords (some tag) entry [BitVec.ofNat 64 (table % 2 ^ 48) ||| 1#64] (homeWords (some tag) table leaves s)
  dropTranslations 0 tag va s

/-- The pages of contexts that cover a frame, as 64 KiB leaves, large ones split first: each with its tag. -/
def pagesOn (loc : Nat) (s : State) : State × List (BitVec 8 × W64 × Nat × W64) :=
  let found := fun (s : State) => s.contexts.flatMap (fun e =>
    ((pagesOf s e.2).filter (fun p => covers p.2.2.1 p.2.2.2 loc)).map (fun p => (BitVec.ofNat 8 e.1, p)))
  let s := (found s).foldl (fun (s : State) x => if x.2.2.2.2 then splitLarge x.1 x.2.1 x.2.2.2.1 x.2.2.1 s else s) s
  (s, ((found s).filter (fun x => !x.2.2.2.2)).map (fun x => (x.1, x.2.1, x.2.2.1, x.2.2.2.1)))

/-- A frame that an access which is issued and not performed has been translated to, but for those of some launches. -/
def frameInUse (s : State) (loc : Nat) (launches : List Nat) : Bool :=
  s.allWaves.any (fun e => !launches.contains e.2.launch && e.2.station != .vacant &&
    e.2.holding.any (fun x => x.elems.any (fun p => p.locs.any (fun l => l / 65536 == loc / 65536))))

/-- RETIRING A FRAME (R325): recorded, its pages moved to other frames, those of the owner (and of inactive contexts) left
without one, its tiles removed. It is begun when no access to the frame is outstanding, so that each move is begun and ended at once. -/
def retireFrame (tier : Bool) (frame : Nat) (reason : BitVec 8) (owner : Option (BitVec 8)) (s : State) : State :=
  if isRetired s tier frame || 4096 ≤ s.retired.length then s
  else
    let time : W64 := s.mgmt.bootCount ++ s.nanotime.setWidth 48
    let s := { s with retired := s.retired ++ [⟨time, reason, tier, frame⟩] }
    let loc := frameLoc tier frame
    let (s, pages) := pagesOn loc s
    let s := pages.foldl (fun (s : State) (tag, va, entry, leaf) =>
      if (s.context tag).active && some tag != owner then
        let (frame, s) := freshFrame s
        let m : PageMove := ⟨tag, va, leaf, entry, false, frame⟩
        finishMove m (startMove m s)
      else dropTranslations 0 tag va (homeWords (some tag) entry [leaf &&& ~~~(1#64)] s)) s
    removeTiles loc s

/-- FRAME_RETIRE (R291, R325): after an uncorrectable error the pages of the owner that the report names are left without a frame; every
other page of an active context moves. It waits for accesses to the frame that are outstanding. -/
def execFrameRetire (tier : Bool) (frame : Nat) (reason : BitVec 8 × Option (BitVec 8)) (s : State) : Result :=
  if frameInUse s (frameLoc tier frame) [] then .next (park (.frameRetire tier frame reason) s)
  else .next (retireFrame tier frame reason.1 reason.2 s)

end Sys2Proof.Machine
end

