-- ==== Sys2Proof/Machine/Links.lean ====
section
/-! DEFINITION. The host link and the Skein and second-tier ports (R119, R120, R207, R216, R253 to R255, R328, R329, R331,
R334, R335): what the host and the peers do to the device, and what they answer. -/

namespace Sys2Proof.Machine

/-! ### Host memory: space 3 (R119, R254, R328) -/

/-- Requests of a line that wait for its ownership or for the host to give a copy up, in order of arrival, served. -/
def serveOwning (line : Nat) (s : State) : State :=
  (waitingIn s .owning (· == line)).foldl (fun s w => serveLine w.wave w.seq line s) s

/-- Something waits for the ownership of a line: a request, a commit or an engine. -/
def awaitsOwning (s : State) (line : Nat) : Bool :=
  !(waitingIn s .owning (· == line)).isEmpty || (s.whorl (homeWhorl s line)).owning.contains line

/-- A line of host memory. -/
def isHostLine (line : Nat) : Bool := decide (2 ≤ regionOf (line * 128) ∧ regionOf (line * 128) < 2 ^ 21)

/-- CXL_CACHE_OWNERSHIP_GRANT (R119): the home owns the line, and the writes that waited go on. -/
def execCxlCacheOwnershipGrant (line : Nat) (s : State) : Result :=
  if regionOf (line * 128) ≠ 2 then .next s
  else
    .next (serveOwning line (s.onWhorl (homeWhorl s line) (fun h =>
      { h with owned := if h.owned.contains line then h.owned else h.owned ++ [line] })))

/-- A snoop must wait (R254) for the writes and requests that the home has accepted: those that stand at the line, that wait for its fill, or
for its ownership. After another snoop, one of those that waited has then been applied. -/
def snoopBlocked (s : State) (line : Nat) : Bool :=
  lineWaits s line || !(waitingIn s .queued (· == line)).isEmpty || !(waitingIn s .filling (· == line)).isEmpty || awaitsOwning s line

/-- HOST_SNOOP (R126, R254, R308): the host takes a line back, and, where it writes, puts its bytes there, marked where they are poisoned.
(DEDUCED, log 137, safe.) -/
def execHostSnoop (line : Nat) (payload : List (BitVec 8) × Bool) (s : State) : Result :=
  let data := payload.1
  let home := homeWhorl s line
  if !isHostLine line then .next s
  else if snoopBlocked s line then .next (park (.hostSnoop line payload) s)
  else
    let s := s.onWhorl home (fun h => { h with
      owned := h.owned.erase line, snooped := if h.snooped.contains line then h.snooped else h.snooped ++ [line] })
    if data.isEmpty then .next s
    else
      let cells := cellsAt (128 * line) (data.take 128)
      let locs := cells.map (·.1)
      let s := invalidateNow line s
      .next { s with mem := writeLocs s.mem cells
                     poison := if payload.2 then setPoison s.poison locs else clearPoison s.poison locs
                     damage := clearPoison s.damage locs }

/-- ATS_TRANSLATION_COMPLETION (R328): the answer for a host page; a refusal is met by the access that asked, which posts its
record. -/
def execAtsTranslationCompletion (pasid : BitVec 20) (va : BitVec 64) (granted : Bool) (frame : Nat) (s : State) : Result :=
  .next { s with ats := ins s.ats (atsKey pasid.toNat va) (if granted then frame % 2 ^ 40 else refusedFrame) }

/-! ### The device's memory as the host sees it (R120, R329, R331) -/

/-- The host-managed device memory range: device physical addresses from 0. (DEDUCED, log 119, unsafe.) -/
def hdmBytes : Nat := hbmBytes

/-- Lines of a range of locations. -/
def linesFrom (loc n : Nat) : List Nat := ((List.range n).map (fun i => lineOf (loc + i))).eraseDups

/-- Class i of Table 22.3 is accepted (R330). -/
def State.accepts (s : State) (i : Nat) : Bool := s.mgmt.accept.getLsbD i

/-- CXL_MEM_READ (R120, R329, R331). (DEDUCED, log 119, unsafe; DEDUCED, log 136, safe.) -/
def execCxlMemRead (addr : Nat) (n : Nat) (s : State) : Result :=
  let lines := linesFrom (hbmLoc addr) n
  if hdmBytes < addr + n then .next s
  else if !s.accepts 5 then .next (answerOut addr [] s)
  else if lines.any (fun l => (s.whorl (homeWhorl s l)).inUse l) then .next (park (.cxlMemRead addr n) s)
  else
    let s := { s with hostCopy := s.hostCopy ++ lines.filter (fun l => !s.hostCopy.contains l) }
    .next (answerOut addr (if anyPoison s ((List.range n).map (hbmLoc addr + ·)) then [] else readBytes s.mem (hbmLoc addr) n) s)

/-- CXL_MEM_WRITE (R120, R308, R310, R329, R331): it has no writing context, and may come marked as poisoned.
(DEDUCED, log 119, unsafe; DEDUCED, log 136, safe.) -/
def execCxlMemWrite (addr : Nat) (payload : List (BitVec 8) × Bool) (s : State) : Result :=
  let data := payload.1
  if hdmBytes < addr + data.length then .next s
  else if !s.accepts 5 then .next { s with mgmt := { s.mgmt with dropped := true } }
  else if (linesFrom (hbmLoc addr) data.length).any (lineWaits s) then .next (park (.cxlMemWrite addr payload) s)
  else
    let cells := cellsAt (hbmLoc addr) data
    let s := homeWrite none cells s
    .next (if payload.2 then { s with poison := setPoison s.poison (cells.map (·.1)) } else s)

/-- BACK_INVALIDATE_RESPONSE (R329): the host has given its copy up, and the writes that waited go on. -/
def execBackInvalidateResponse (line : Nat) (s : State) : Result :=
  .next (serveOwning line { s with hostCopy := s.hostCopy.erase line })

/-! ### Completions of spaces 4 and 5 (R119) -/

/-- An access of spaces 4 and 5 is performed: a write applied, data bound; poisoned data are marked with it (R308). What reaches host memory
is taken back from the device's copies by the host's coherence (R120); the access makes its launch irreplaceable (R313).
(DEDUCED, log 138, unsafe.) -/
def completeRemote (k : Nat) (x : Access) (poisoned : Bool) (s : State) : State :=
  let lines := if x.op.writes ∧ x.space = 4 then ((x.elems.flatMap (·.locs)).map lineOf).eraseDups else []
  let s := lines.foldl (fun (s : State) l =>
    (invalidateNow l s).onWhorl (homeWhorl s l) (fun h => { h with owned := h.owned.erase l })) s
  let (mem, elems) :=
    if x.op.writes then performElems x.op s.mem x.elems
    else (s.mem, x.elems.map (fun (e : Elem) => { e with got := e.locs.zip (readLocs s.mem e.locs) }))
  let s := { s with mem := mem }
  let s := noteAccess (s.wave k).launch x.handle x.space.toNat x.op.writes s
  let s := s.onAccess k x.seq (fun y =>
    if y.op != x.op then y
    else { y with elems := elems, reqs := y.reqs.map Req.done,
                  poisoned := if poisoned then (x.elems.map (fun e => e.va &&& ~~~(31#64))).head? else y.poisoned })
  match x.op with
  | .store => s.setWave k ((s.wave k).land x.path x.seq)
  | .portStore _ => s.setWave k ((s.wave k).land x.path x.seq)
  | .reduce _ => s.setWave k ((s.wave k).land x.path x.seq)
  | _ => s

/-- The oldest access of a wave, or fetch of its port engines, in a space that awaits its completion. -/
def awaiting (s : State) (k : Nat) (space : BitVec 4) : Option Access :=
  (s.wave k).under.find? (fun x => x.space == space && !x.answered && (!x.op.writes || x.left))

/-- A space-5 access whose peer is this device is served at its own homes (R120): the access of a line's write waits while the line is in use
or not the home's. -/
def completeHere (k : Nat) (x : Access) (s : State) : State :=
  let locs := x.elems.flatMap (·.locs)
  if !x.op.writes then
    if locs.any (fun l => (s.whorl (homeWhorl s (lineOf l))).inUse (lineOf l)) then s
    else completeRemote k x false s
  else if !homeFree s locs then askOwning ((locs.map lineOf).eraseDups) s
  else
    let s := ((locs.map lineOf).eraseDups).foldl (fun s l => invalidateNow l s) s
    let bad := consumedAt s x x.elems
    let (s, done) := applyWrite (s.wave k) x x.elems s
    let s := s.onAccess k x.seq (fun y =>
      if y.op != x.op then y
      else { y with elems := done, poisoned := bad.or y.poisoned, reqs := y.reqs.map Req.done })
    if x.op.isAtomic then s else s.setWave k ((s.wave k).land x.path x.seq)

/-- FENCEH's zero-length read is answered: the wave goes on past its word (R216); one the host refuses ends the launch (R328). -/
def finishFenceh (k : Nat) (refused : Bool) (s : State) : State :=
  let w := s.wave k
  match w.producers.find? (fun p => p.path == 6 && p.seq == w.seq) with
  | none => s
  | some p =>
    let back := s.focus
    let s := s.setWave k { w with producers := w.producers.filter (fun q => q.seq != p.seq) }
    let s := (State.landFor k 6 p.seq s).focusOn k
    (if refused then terminate (trapHere s Cause.permission 0 0) s else advance 1 0 s).focusOn back

/-- HOST_COMPLETION (R119, R120, R207, R216, R328): what left in the egress queue before has reached the host; the oldest
space-4 load or AtomicOp of the wave completes (status 0), is refused (1), or returns poisoned data (2); with none, its Spindle command's
read, or else a FENCEH, does. (DEDUCED, log 52, safe; DESIGN CHOICE, log 53, safe.) -/
def execHostCompletion (wave : Nat) (status : BitVec 2) (s : State) : Result :=
  let s := drainEgress s
  if !s.egress.isEmpty then .next s
  else
    match awaiting s wave 4 with
    | some x =>
      if routedBack x || status == 1#2 then .next (refuseRemote wave x s)
      else if x.op.writes && (x.elems.flatMap (·.locs)).any (fun l => lineWaits s (lineOf l)) then .next s
      else .next (completeRemote wave x (status == 2#2) s)
    | none =>
      match awaitingCommand s wave 4 with
      | some (core, c) => .next (if status == 1#2 then refuseCommand core c s else answerCommand core c (status == 2#2) s)
      | none => .next (finishFenceh wave (status == 1#2) s)

/-- The ports of a peer node that are up (R335). -/
def portsTo (s : State) (node : Nat) : BitVec 16 := look 0 s.mgmt.routes node &&& s.mgmt.skeinUp

/-- The peer node of an access in space 5. (DESIGN CHOICE, log 54, safe.) -/
def Access.node (x : Access) : Nat := (regionOf ((x.elems.flatMap (·.locs)).headD 0) - 2 ^ 21) / 256

/-- The peer of a space-5 access is this device. -/
def Access.here (x : Access) : Bool := decide (regionOf ((x.elems.flatMap (·.locs)).headD 0) < 2 ^ 21)

/-- The peer node that a Spindle command waits for. -/
def SpindleCmd.node (c : SpindleCmd) : Nat :=
  match c.env.handle (ptrHandle c.awaits) with | some h => (h.selector.extractLsb' 0 16).toNat | none => 0

/-- PEER_ACKNOWLEDGEMENT (R119, R335): the oldest space-5 access of the wave is performed at the peer's home (status 0), refused
there (1), or answered with poisoned data (2). A node without a route refuses; one with no port up answers nothing; this device's own
homes answer an access to its own node (R120). With no access, a Spindle command of the wave is answered so.
(DESIGN CHOICE, log 53, 54, safe.) -/
def execPeerAcknowledgement (wave : Nat) (status : BitVec 2) (s : State) : Result :=
  match awaiting s wave 5 with
  | none =>
    (match awaitingCommand s wave 5 with
     | none => .next s
     | some (core, c) =>
       if (find s.mgmt.routes c.node).isNone || status == 1#2 then .next (refuseCommand core c s)
       else if portsTo s c.node = 0 then .next s
       else .next (answerCommand core c (status == 2#2) s))
  | some x =>
    if x.here then .next (completeHere wave x s)
    else if (find s.mgmt.routes x.node).isNone || status == 1#2 then .next (refuseRemote wave x s)
    else if portsTo s x.node = 0 then .next s
    else .next (completeRemote wave x (status == 2#2) s)

/-- The outstanding accesses of a wave to a peer node are ended: the oldest ends its launch, as does a Spindle command's (R335). -/
def endAccesses (node k : Nat) (s : State) : State :=
  match (s.wave k).under.find? (fun x => x.space == 5#4 && !x.answered && (!x.op.writes || x.left) && x.node == node && !x.here) with
  | some x => refuseRemote k x s
  | none =>
    match awaitingCommand s k 5 with
    | some (core, c) => if c.node = node then refuseCommand core c s else s
    | none => s

/-- SKEIN_PEER_TIMEOUT (R335): a peer with no port up for 10 ms ends its outstanding accesses. -/
def execSkeinPeerTimeout (node : BitVec 16) (s : State) : Result :=
  if portsTo s node.toNat ≠ 0 || (find s.mgmt.routes node.toNat).isNone then .next s
  else
    .next (s.allWaves.foldl (fun (s : State) e => endAccesses node.toNat e.1 s) s)

/-- PEER_REQUEST (R308, R335): an access of a peer's wave, translated here through the named context and performed at its homes, its data
perhaps marked as poisoned. The spec names no cache for a peer's translations: they use Whorl 0's shared TLB and the walkers of its floor. A
page that is not present posts a record, and the request is presented again, or refused where the record is denied; any other failure
refuses it.
(DEDUCED, log 138, unsafe; DESIGN CHOICE, log 182, unsafe.) -/
def execPeerRequest (tag : BitVec 8) (va : BitVec 64) (kind : BitVec 2) (fn : Nat) (n : Nat)
    (payload : List (BitVec 8) × Bool) (cmp : List (BitVec 8)) (s : State) : Result :=
  let data := payload.1
  let wait := park (.peerRequest tag va kind fn n payload cmp)
  if !(s.context tag).active then .next (answerOut va.toNat [] s)
  else
    let access := if kind = 0#2 then Access.read else if kind = 1#2 then Access.write else Access.atom
    match translateBytes s (.shared 0) tag va n access with
    | (s, .inr (bad, cause, level, large)) =>
      if cause = Cause.waiting then .next (wait s)
      else if cause = Cause.notPresent then
        match openRecord (s.context tag) (bad.toNat / 2 ^ 16) (accessClass access) with
        | some _ => .next (wait s)
        | none =>
          let w1 : W64 := 0#10 ++ BitVec.ofNat 2 level ++ bad.setWidth 52
          let w0 := faultWord0 cause (recordAgent 0 tag bad s) access large true tag 0
          .next (wait (postRecord tag [w0, w1, 0, 0] bad access true [] [] s).1)
      else .next (answerOut va.toNat [] s)
    | (s, .inl locs) =>
      let old := readLocs s.mem locs
      let bad := anyPoison s locs
      let write := fun (x : Nat) => homeWrite (some tag) (locs.zip (bytesOfNat x locs.length)) s
      if kind = 0#2 then
        if locs.any (fun l => (s.whorl (homeWhorl s (lineOf l))).inUse (lineOf l)) then .next (wait s)
        else .next (answerOut va.toNat (if bad then [] else old) s)
      else if !homeFree s locs then .next (wait (askOwning ((locs.map lineOf).eraseDups) s))
      else if kind = 1#2 then
        let s := homeWrite (some tag) (locs.zip data) s
        .next (if payload.2 then { s with poison := setPoison s.poison locs } else s)
      else if kind = 2#2 then
        .next (answerOut va.toNat (if bad then [] else old)
          (write (atomicValue fn locs.length (natOfBytes old) (natOfBytes data) (natOfBytes cmp))))
      else .next (write (reduceValue fn (natOfBytes old) (natOfBytes data)))

/-! ### Ports (R334, R335) -/

/-- SKEIN_PORT_DOWN (R335): an event of kind 5, whose first payload word is the port's number. (DESIGN CHOICE, log 197, unsafe.) -/
def execSkeinPortDown (port : Nat) (s : State) : Result :=
  if !s.mgmt.skeinUp.getLsbD port then .next s
  else
    .next (postEvent 5 0 [BitVec.ofNat 64 port] { s with mgmt := { s.mgmt with skeinUp := s.mgmt.skeinUp &&& ~~~(1#16 <<< port) } })

/-- SKEIN_PORT_UP (R335). -/
def execSkeinPortUp (port : Nat) (s : State) : Result :=
  if 16 ≤ port then .next s else .next { s with mgmt := { s.mgmt with skeinUp := s.mgmt.skeinUp ||| (1#16 <<< port) } }

/-- CXL_PORT_DOWN (R334): an event of kind 6, whose first payload word is the port's number (DESIGN CHOICE, log 197, unsafe); accesses to its range are poisoned and writes dropped while it is down. -/
def execCxlPortDown (port : Nat) (s : State) : Result :=
  if !s.mgmt.cxlUp.getLsbD port then .next s
  else .next (postEvent 6 0 [BitVec.ofNat 64 port] { s with mgmt := { s.mgmt with cxlUp := s.mgmt.cxlUp &&& ~~~(1#4 <<< port) } })

/-- CXL_PORT_UP (R334). -/
def execCxlPortUp (port : Nat) (s : State) : Result :=
  if 4 ≤ port then .next s else .next { s with mgmt := { s.mgmt with cxlUp := s.mgmt.cxlUp ||| (1#4 <<< port) } }

end Sys2Proof.Machine
end

