-- ==== Sys2Proof/Machine/Attention.lean ====
section
/-! DEFINITION. Whorl attention (R111, R231 to R234): WATT and WATTD as they issue, a Whorl's partial over the positions it
homes, and the merges of the return network. -/

namespace Sys2Proof.Machine

/-! ### Issue -/

/-- The output registers of some queries (R231). -/
def attnOutputs (vo nq : Nat) : List Nat :=
  (List.range nq).flatMap (fun j => regRange (vo + 8 * j) 8) ++ [vo + 64]

/-- Attention operations of a wave that are not complete. -/
def Wave.attending (w : Wave) : Nat := w.attn.length + (w.producers.filter (fun p => p.path == 4)).length

/-- The elements of a query (R231): element 2i + 1 of a pair is the upper half. -/
def queryOf (s : State) (vq : Nat) : List W32 :=
  (List.range 4).flatMap (fun i => (List.range 16).map (fun t => s.vreg (vq + i) t))

/-- WATT and WATTD as they issue. -/
def attend (dirty : Bool) (vq vo sp : BitVec 7) (ea eb : Bool) (nq : BitVec 3) (sx sq : BitVec 7) (eq : Bool) (s : State) : Result :=
  let n := nq.toNat + 1
  let queries := regRange vq.toNat (4 * n)
  let outs := attnOutputs vo.toNat n
  let u : Use := { words := 2, async := true, path := some 4,
                   srcV := queries.map (fun r => (r, ea)),
                   srcS := [(sp.toNat, eb), (sp.toNat + 1, eb)] ++ (if dirty then [(sq.toNat, eq)] else []),
                   oldV := outs, oldS := if dirty then [sx.toNat] else [],
                   illegal := (queries ++ outs).any s.w.isPort }
  issue u (fun s =>
    let p := s.sreg sp.toNat
    let id := (s.sreg sq.toNat).setWidth 32
    if dirty && !owns s s.w.env.tag id then raise Cause.sequence 0 0 s
    else
      match s.w.env.handle (ptrHandle p) with
      | none => raise Cause.handle 0 0 s
      | some h =>
        if h.space ≠ 6 then raise Cause.handle 0 0 s
        else if !h.rd then raise Cause.permission 0 0 s
        else if 4 ≤ s.w.attending then .next (s.holdFor .engine)
        else
          let op : AttnOp :=
            { seq := s.w.seq, dirty := dirty, nq := n, vo := vo.toNat, ptr := p, range := s.sreg (sp.toNat + 1),
              queries := (List.range n).map (fun j => queryOf s (vq.toNat + 4 * j)),
              seqId := if dirty then some id else none, sx := sx.toNat, sample := none, excluded := 0, partials := [],
              whorls := [], homes := [], formed := [], addr := s.w.a.pos.pc, inst := s.w.inst }
          let s := raiseCount 4 s
          let s := s.onWave (fun w => { w with attn := w.attn ++ [op] })
          .next (finish u (s.onArch (fun a => (a.emptyVs outs).emptySs (if dirty then [sx.toNat] else []))))) s

/-- WATT (R231, R232). -/
def execWatt (vq : BitVec 7) (vo : BitVec 7) (sp : BitVec 7) (ea : Bool) (eb : Bool) (nq : BitVec 3) (s : State) : Result :=
  attend false vq vo sp ea eb nq 0 0 false s

/-- WATTD (R231, R232, R234). (DEDUCED, log 104, unsafe.) -/
def execWattd (vq : BitVec 7) (vo : BitVec 7) (sp : BitVec 7) (ea : Bool) (eb : Bool) (nq : BitVec 3) (sx : BitVec 7)
    (sq : BitVec 7) (eq : Bool) (s : State) : Result := attend true vq vo sp ea eb nq sx sq eq s

/-! ### A partial -/

/-- The 128 values of an entry as read (R63, R108, R232): T6 codes with the scale of their 32, or BF16 as it stands; none for
a NaR code or a 0xff scale. -/
def entryValues (fmt : BitVec 2) (bs : List Byte) : Option (List Num) :=
  if fmt = 0#2 then
    let codes := Element.t6.codes (bs.take 96)
    let scales := (bs.drop 96).map (fun b => b.toNat)
    if codes.contains 32 || (scales.take 4).contains 255 then none
    else some (codes.zipIdx.map (fun c => (taperedDecode 6 c.1).scaleBy ((scales.getD (c.2 / 32) 127 : Int) - 127)))
  else some (Element.bf16.codes bs |>.map (fun c => bf16.decode c))

/-- The 128 values of a query (R231). -/
def queryValues (q : List W32) : List Num := q.flatMap (fun x => [bf16.decode (half x 0), bf16.decode (half x 1)])

/-- The exact score rounded once (R232). -/
def score (q k : List Num) : W32 := BitVec.ofNat 32 (f32.sum .rne ((q.zip k).map (fun x => x.1.mul x.2))).1

/-- 2^(s − m), rounded once (R232). -/
def weight (m : Int) (x : W32) : W32 :=
  match f32.decode x.toNat with
  | .fin neg k e =>
    let y := scaled neg k e (-300) - m * 2 ^ 300
    BitVec.ofNat 32 (f32.round .rne false (2 * exp2Fix y + (if y % 2 ^ 300 = 0 then 0 else 1)) (-449)).1
  | _ => 0

/-- The triple of no positions (R232), and the triple of a special. -/
def Triple.empty : Triple := ⟨-32768, 0, List.replicate 128 0⟩
def Triple.special : Triple := ⟨32767, 0x7fc00000, List.replicate 128 0x7fc00000⟩

/-- The number of an F32. -/
def numOf (x : W32) : Num := f32.decode x.toNat

/-- THE PARTIAL TRIPLE of a query over a Whorl's positions (R232): the key and value of each. (DEDUCED, log 94, safe.) -/
def partialOf (q : List W32) (entries : List (Option (List Num) × Option (List Num))) : Triple :=
  let qs := queryValues q
  let known := entries.filterMap (fun e => match e with | (some k, some v) => some (score qs k, v) | _ => none)
  if known.length < entries.length || known.any (fun e => match numOf e.1 with | .fin _ _ _ => false | _ => true) then
    Triple.special
  else
    let m := (known.map (fun e => ceilScore e.1)).foldl max (-32767)
    let ps := known.map (fun e => (numOf (weight m e.1), e.2))
    ⟨m, BitVec.ofNat 32 (f32.sum .rne (ps.map (·.1))).1,
      (List.range 128).map (fun d => BitVec.ofNat 32 (f32.sum .rne (ps.map (fun p => p.1.mul (p.2.getD d (.fin false 0 0))))).1)⟩

/-- THE MERGE of two triples (R232). -/
def mergeTriples (a b : Triple) : Triple :=
  let m := max a.m b.m
  let add := fun (x y : W32) =>
    BitVec.ofNat 32 (f32.sum .rne [(numOf x).scaleBy (a.m - m), (numOf y).scaleBy (b.m - m)]).1
  ⟨m, add a.l b.l, (a.o.zip b.o).map (fun x => add x.1 x.2)⟩

/-! ### A Whorl's reads -/

/-- What an engine's read of a range comes to. -/
inductive Got where
  | bytes (bs : List Byte) (home : Nat)
  | fault (va : W64) (cause : BitVec 8) (level : Nat) (large : Bool)
  | poison (va : W64)
  deriving DecidableEq, Repr

/-- Bytes read through a context, with the home of their first line. -/
def gotBytes (cache : Cache) (tag : BitVec 8) (va : W64) (n : Nat) (s : State) : State × Got :=
  match translateBytes s cache tag va n Access.read with
  | (s, .inr (bad, c, l, g)) => (s, .fault bad c l g)
  | (s, .inl locs) =>
    if anyPoison s locs then (s, .poison va)
    else (s, .bytes (readLocs s.mem locs) (homeWhorl s (lineOf (locs.headD 0))))

/-- One attended position at a Whorl: its page is not present, so that its home is not known; homed elsewhere; excluded by its dirty word; or
its entry's key and value. -/
inductive Attended where
  | absent (va : W64) (cause : BitVec 8) (level : Nat) (large : Bool)
  | elsewhere (home : Nat)
  | excluded
  | entry (k v : Option (List Num))
  | fault (va : W64) (cause : BitVec 8) (level : Nat) (large : Bool)
  | poison (va : W64)
  deriving DecidableEq, Repr

/-- What a Whorl finds at a position (R232, R234); `dirty` is the dirty map's address. It takes the positions it homes, by the translation that
first found the home of each. (DEDUCED, log 93, safe.) -/
def attendedAt (op : AttnOp) (whorl : Nat) (tag : BitVec 8) (x : SlabSample) (bound layer head : Nat) (dirty : Option W64) (k : Nat)
    (s : State) : State × Attended :=
  let at' := fun kv => x.address bound layer head kv k 0
  let n := 128 * x.lines
  match translateBytes s (.shared whorl) tag (at' 0) n Access.read with
  | (s, .inr (bad, c, l, g)) =>
    match find op.homes k with
    | none => (s, .absent bad c l g)
    | some home => if home = whorl then (s, .fault bad c l g) else (s, .elsewhere home)
  | (s, .inl locs) =>
    let home := (find op.homes k).getD (homeWhorl s (lineOf (locs.headD 0)))
    if home != whorl then (s, .elsewhere home)
    else
      let word : State × Got := match dirty with
        | none => (s, .bytes [] 0)
        | some d => gotBytes (.shared whorl) tag (d + BitVec.ofNat 64 (4 * k)) 4 s
      match word with
      | (s, .fault va c l g) => (s, .fault va c l g)
      | (s, .poison va) => (s, .poison va)
      | (s, .bytes bits _) =>
        if (natOfBytes bits).testBit (layer / 4) then (s, .excluded)
        else
          match gotBytes (.shared whorl) tag (at' 0) n s with
          | (s, .fault va c l g) => (s, .fault va c l g)
          | (s, .poison va) => (s, .poison va)
          | (s, .bytes kb _) =>
            match gotBytes (.shared whorl) tag (at' 1) n s with
            | (s, .fault va c l g) => (s, .fault va c l g)
            | (s, .poison va) => (s, .poison va)
            | (s, .bytes vb _) => (s, .entry (entryValues x.fmt kb) (entryValues x.fmt vb))

/-- What a Whorl finds over all attended positions: the entries, how many were excluded, the positions with their homes, and the translations
that fail of those whose home is not known; or why it stops. -/
inductive Gathering where
  | ok (entries : List (Option (List Num) × Option (List Num))) (excluded : Nat) (homes : List (Nat × Nat))
      (absent : List (Nat × W64 × BitVec 8 × Nat × Bool))
  | fault (va : W64) (cause : BitVec 8) (level : Nat) (large : Bool)
  | poison (va : W64)
  deriving DecidableEq, Repr

/-- DEDUCED, log 93, safe. -/
def gatherPositions (op : AttnOp) (whorl : Nat) (tag : BitVec 8) (x : SlabSample) (bound layer head : Nat) (dirty : Option W64) :
    List Nat → State → State × Gathering
  | [], s => (s, .ok [] 0 [] [])
  | k :: ks, s =>
    match attendedAt op whorl tag x bound layer head dirty k s with
    | (s, .fault va c l g) => (s, .fault va c l g)
    | (s, .poison va) => (s, .poison va)
    | (s, found) =>
      match gatherPositions op whorl tag x bound layer head dirty ks s with
      | (s, .ok es n hs fs) =>
        match found with
        | .absent va c l g => (s, .ok es n hs ((64, va, c, l, g) :: fs))
        | .elsewhere home => (s, .ok es n ((k, home) :: hs) fs)
        | .excluded => (s, .ok es (n + 1) ((k, whorl) :: hs) fs)
        | .entry a b => (s, .ok ((a, b) :: es) n ((k, whorl) :: hs) fs)
        | _ => (s, .ok es n hs fs)
      | r => r

/-- Change an attention operation of a wave. -/
def onAttn (k seq : Nat) (f : AttnOp → AttnOp) (s : State) : State :=
  let w := s.wave k
  s.setWave k { w with attn := w.attn.map (fun op => if op.seq == seq then f op else op) }

/-- The positions an operation attends to (R232). -/
def AttnOp.positions (op : AttnOp) (x : SlabSample) : List Nat :=
  let first := op.range.toNat % 2 ^ 32
  (List.range (min (op.range.toNat / 2 ^ 32) (x.length - first))).map (first + ·)

/-- A Whorl has formed its partial over the positions it is known to home. -/
def AttnOp.form (op : AttnOp) (whorl : Nat) (entries : List (Option (List Num) × Option (List Num))) (excluded : Nat)
    (homes : List (Nat × Nat)) : AttnOp :=
  { op with
    homes := homes.foldl (fun m h => if (find m h.1).isSome then m else ins m h.1 h.2) op.homes
    formed := ins op.formed whorl ⟨(homes.filter (fun h => h.2 == whorl)).map (·.1), excluded,
      if entries.isEmpty then [] else [op.queries.map (fun q => partialOf q entries)]⟩ }

/-- The partials formed, once the homes of all positions are known: those over all the positions their Whorl homes are whole and go to the
network; the others are computed again, from their first position (R233). (DEDUCED, log 93, safe.) -/
def AttnOp.release (op : AttnOp) (positions : List Nat) : AttnOp :=
  if !positions.all (fun k => (find op.homes k).isSome) then op
  else
    let whole := op.formed.filter (fun f => positions.all (fun k => find op.homes k != some f.1 || f.2.taken.contains k))
    { op with
      formed := []
      whorls := op.whorls ++ whole.map (·.1)
      excluded := (whole.map (·.2.excluded)).foldl (· + ·) op.excluded
      partials := op.partials ++ whole.flatMap (·.2.triples) }

/-- WHORL_PARTIAL (R232 to R234): a Whorl's partial of an operation, from its first position. A fault in its reads stops it; a page not
present, which it may home or not, does not keep it from forming the rest. (DEDUCED, log 93, 94, safe.) -/
def execWhorlPartial (wave : Nat) (id : Nat) (whorl : Nat) (s : State) : Result :=
  let w := s.wave wave
  match w.attn.find? (fun op => op.seq == id && w.station != .saved) with
  | none => .next s
  | some op =>
    if !guardOpen s wave id || op.whorls.contains whorl || 16 ≤ whorl then .next s
    else
      match w.env.handle (ptrHandle op.ptr) with
      | none => .next s
      | some h =>
        let stop := fun cause va (s : State) => engineStop wave w.launch 2 Access.read cause va op.addr s
        let fault := fun va c l g (s : State) => engineFault 2 w op.addr Access.read [(64, va, c, l, g)] s
        match gotBytes (.shared whorl) w.env.tag h.base 64 s with
        | (s, .fault va c l g) => .next (fault va c l g s)
        | (s, .poison va) => .next (stop Cause.poison va s)
        | (s, .bytes bs _) =>
          let d : BitVec 512 := BitVec.ofNat 512 (natOfBytes bs)
          if op.sample.isNone && slabReserved d then .next (stop Cause.handle 0 s)
          else
            let x := op.sample.getD (slabSample h.base d)
            let layer := (h.selector.extractLsb' 0 8).toNat
            let head := (h.selector.extractLsb' 8 8).toNat + (op.ptr.extractLsb' 32 8).toNat
            if x.layers < layer || x.heads < head then .next (stop Cause.bounds 0 s)
            else
              let s := onAttn wave id (fun op => { op with sample := some x }) s
              let dirty := op.seqId.map (fun q => seqDirty s (seqSlot q))
              match gatherPositions op whorl w.env.tag x (slabBound d) layer head dirty (op.positions x) s with
              | (s, .fault va c l g) => .next (fault va c l g s)
              | (s, .poison va) => .next (stop Cause.poison va s)
              | (s, .ok entries excluded homes absent) =>
                .next (engineFault 2 w op.addr Access.read absent
                  (onAttn wave id (fun op => (op.form whorl entries excluded homes).release (op.positions x)) s))

/-! ### Merging -/

/-- The writes of a completed operation (R231, R234). -/
def AttnOp.results (op : AttnOp) (ts : List Triple) : List RegWrite :=
  ts.zipIdx.flatMap (fun x =>
    (List.range 8).flatMap (fun i => (List.range 16).map (fun t => RegWrite.vec (op.vo + 8 * x.2 + i) t (x.1.o.getD (16 * i + t) 0))) ++
    [.vec (op.vo + 64) (2 * x.2) (BitVec.ofInt 32 x.1.m), .vec (op.vo + 64) (2 * x.2 + 1) x.1.l]) ++
  (if op.dirty then [.scalar op.sx (BitVec.ofNat 64 op.excluded)] else [])

/-- The operation is whole: every Whorl's partial is in and at most one triple is left. -/
def AttnOp.whole (op : AttnOp) : Bool := decide (16 ≤ op.whorls.length) && decide (op.partials.length ≤ 1)

/-- A whole operation completes: its results are on their way to its registers. -/
def completeAttn (wave : Nat) (op : AttnOp) (s : State) : State :=
  let w := s.wave wave
  let ts := op.partials.headD (List.replicate op.nq Triple.empty)
  let p : Producer := ⟨op.seq, 4, op.results ts, attnOutputs op.vo op.nq, if op.dirty then [op.sx] else []⟩
  s.setWave wave { w with attn := w.attn.filter (fun o => o.seq != op.seq), producers := w.producers ++ [p] }

/-- Two of the waiting triples merged, whichever the network takes. (DEDUCED, log 95, unsafe.) -/
def mergePair (free : Nat) (ps : List (List Triple)) : List (List Triple) :=
  let i := Config.freePick free % ps.length
  let rest := ps.eraseIdx i
  let j := Config.freePick (free + 1) % rest.length
  rest.eraseIdx j ++ [((ps.getD i []).zip (rest.getD j [])).map (fun x => mergeTriples x.1 x.2)]

/-- PARTIAL_MERGE (R232, R233): two partials become one; with the last the operation completes. (DEDUCED, log 95, unsafe.) -/
def execPartialMerge (wave : Nat) (id : Nat) (s : State) : Result :=
  match (s.wave wave).attn.find? (fun op => op.seq == id && (s.wave wave).station != .saved) with
  | none => .next s
  | some op =>
    if op.partials.length ≤ 1 then (if op.whole then .next (completeAttn wave op s) else .next s)
    else
      let op := { op with partials := mergePair s.free op.partials }
      let s := onAttn wave id (fun _ => op) { s with free := s.free + 2 }
      if op.whole then .next (completeAttn wave op s) else .next s

end Sys2Proof.Machine
end

