-- ==== Sys2Proof/Machine/Schedule.lean ====
section
/-! DEFINITION. From a launch record to placed teams (R22 to R31, R81, R101, R265 to R273, R295, R317): reading and checking a
record, its dependences, the launch table, and the scheduler's placement. -/

namespace Sys2Proof.Machine

/-! ### Reads of the command processor (R267, R288, R341) -/

/-- What a read through a context comes to: bytes, a page awaited, or an address that cannot be read. -/
inductive CpRead where
  | ok (bytes : List Byte)
  | wait
  | bad (va : W64)
  deriving DecidableEq, Repr

/-- A read for a launch record was attached to a record of the page that has been denied, and has yet to see it. -/
def deniedRecord (c : Context) (word va : W64) : Option Nat :=
  let i := c.faults.findIdx (fun f => f.denied && f.readers.contains word && f.va.toNat / 2 ^ 16 == va.toNat / 2 ^ 16)
  if i < c.faults.length then some i else none

/-- One page of a read: its location, or why not; it waits while the line of its entry is in use. A page that is not present is posted (agent 7) and awaited by every read of it; where
the record is denied each of them fails, once. -/
def cpPage (tag : BitVec 8) (launchid : W32) (word va : W64) (s : State) : State × (Nat ⊕ CpRead) :=
  match walk s (s.context tag) va Access.read with
  | .ok leaf entry large =>
    (match orEntry tag entry (usedBits false) s with
     | some s => (s, .inl (leafLoc leaf large va))
     | none => (askOwning [lineOf entry] s, .inr .wait))
  | .fail cause level large =>
    if cause != Cause.notPresent then (s, .inr (.bad va))
    else
      match deniedRecord (s.context tag) word va with
      | some i => (changeFault tag i (fun f => { f with readers := f.readers.filter (· != word) }) s, .inr (.bad va))
      | none =>
        match openRecord (s.context tag) (va.toNat / 2 ^ 16) 0 with
        | some i =>
          (changeFault tag i (fun f => { f with readers := if f.readers.contains word then f.readers else f.readers ++ [word] }) s, .inr .wait)
        | none =>
          let w0 := faultWord0 cause 7 Access.read large true tag launchid
          let w1 : W64 := 0#10 ++ BitVec.ofNat 2 level ++ va.setWidth 52
          ((postRecord tag [w0, w1, word &&& 0x000fffffffffffff#64, 0] va Access.read true [] [word] s).1, .inr .wait)

/-- Read `n` bytes at an address, page by page. (DEDUCED, log 107, unsafe.) -/
def cpRead (tag : BitVec 8) (launchid : W32) (word : W64) : Nat → W64 → Nat → State → State × CpRead
  | 0, _, _, s => (s, .ok [])
  | fuel + 1, va, n, s =>
    if n = 0 then (s, .ok [])
    else
      let k := min n (65536 - va.toNat % 65536)
      match cpPage tag launchid word va s with
      | (s, .inr r) => (s, r)
      | (s, .inl loc) =>
        if anyPoison s ((List.range k).map (loc + ·)) then (s, .bad va)
        else
          match cpRead tag launchid word fuel (va + BitVec.ofNat 64 k) (n - k) s with
          | (s, .ok bs) => (s, .ok (readBytes s.mem loc k ++ bs))
          | r => r

/-! ### The record and header checks (R21, R26, R28, R266, R267) -/

/-- Fields of a launch record (Table 17.4). -/
def recBit (ws : List W64) (w b : Nat) : Bool := (ws.getD w 0).getLsbD b
def recField (ws : List W64) (w lo n : Nat) : Nat := ((ws.getD w 0).extractLsb' lo n).toNat
def recTeams (ws : List W64) : Nat := recField ws 1 0 32
def recWaves (ws : List W64) : Nat := recField ws 1 38 7 + 1
def recTwin (ws : List W64) : Bool := recBit ws 1 45
def recPrio (ws : List W64) : Nat := recField ws 1 46 4
def recSup (ws : List W64) : Bool := recBit ws 1 51
def recPaired (ws : List W64) : Bool := recBit ws 1 52
def recHandles (ws : List W64) : Nat := recField ws 3 0 9
def recId (ws : List W64) : W32 := (ws.getD 18 0).setWidth 32

/-- Launch error 0x01 (Table 17.5). -/
def recordBad (ws : List W64) : Bool :=
  let deps := [9, 10, 11, 12]
  let n := recWaves ws
  recField ws 1 58 6 != 0 || recBit ws 1 50 || recField ws 1 32 6 != 0 || recField ws 3 9 55 != 0 || recField ws 18 32 32 != 0 ||
    (List.range 13).any (fun i => ws.getD (19 + i) 0 != 0) ||
    deps.any (fun w => recField ws w 40 21 != 0 || (recField ws w 62 2 == 1 && recField ws w 32 8 != 0)) ||
    decide (1 < (deps.filter (fun w => recField ws w 62 2 == 3)).length) ||
    recTeams ws == 0 || recHandles ws == 0 || decide (256 < recHandles ws) ||
    (ws.getD 0 0).toNat % 256 != 0 || (ws.getD 2 0).toNat % 32 != 0 || (ws.getD 17 0).toNat % 16 != 0 ||
    (if recTwin ws then decide (n < 2 ∨ 96 < n) else decide (48 < n))

/-- What the kernel header's word 0 declares (Table 2.5). -/
def hdrWidth (h : W32) : Nat := 16 * 2 ^ (h.extractLsb' 14 2).toNat
def hdrVregs (h : W32) : Nat := 8 * ((h.extractLsb' 10 4).toNat + 1)
def hdrSregs (h : W32) : Nat := 16 * ((h.extractLsb' 7 3).toNat + 1)
def hdrPorts (h : W32) : BitVec 2 := h.extractLsb' 16 2
def hdrBarriers (h : W32) : Nat := (h.extractLsb' 18 6).toNat
def hdrScratch (h : W32) : Nat := (h.extractLsb' 0 7).toNat

/-- The byte of `.expect` for a slot. -/
def expectByte (hs : List W32) (i : Nat) : BitVec 8 := (hs.getD (4 + i / 4) 0).extractLsb' (8 * (i % 4)) 8

/-- Launch error 0x02: the checks of R28 but the comparison. (DEDUCED, log 107, unsafe.) -/
def headerRefused (code : W64) (hs : List W32) : Bool :=
  let h := hs.getD 0 0
  let entry := (hs.getD 1 0).toNat
  let trap := (hs.getD 2 0).toNat
  let length := (hs.getD 3 0).toNat
  h.extractLsb' 24 8 != 1#8 || decide (32 < hdrBarriers h) || hdrPorts h == 3#2 || h.extractLsb' 14 2 == 3#2 || decide (64 < hdrScratch h) ||
    (List.range 10).any (fun i => hs.getD (6 + i) 0 != 0) || (List.range 8).any (fun i => (expectByte hs i).extractLsb' 5 2 != 0) ||
    (hdrPorts h != 0 && hdrVregs h == 128) || length % 4 != 0 || decide (length < 0x44) || decide (2 ^ 52 < code.toNat + length) ||
    entry == 0 || entry % 4 != 0 || decide (length ≤ entry) || trap % 4 != 0 || decide (length ≤ trap)

/-- The format slot descriptors of a record. -/
def recSlots (ws : List W64) : List W32 :=
  (List.range 8).map (fun i => (ws.getD (4 + i / 2) 0).extractLsb' (32 * (i % 2)) 32)

/-- Launch error 0x03: the `.expect` comparison. -/
def expectFails (ws : List W64) (hs : List W32) : Bool :=
  (List.range 8).any (fun i =>
    let b := expectByte hs i
    b.getLsbD 7 && b.extractLsb' 0 5 != ((recSlots ws).getD i 0).extractLsb' 0 5)

/-! ### Room (R22 to R24, R262) -/

/-- What one team asks for. -/
structure Demand where
  waves    : Nat
  twin     : Bool
  width    : Nat
  vregs    : Nat
  sregs    : Nat
  scratch  : Nat
  barriers : Nat
  deriving DecidableEq, Repr

def demandOf (n : Nat) (twin : Bool) (h : W32) : Demand := ⟨n, twin, hdrWidth h, hdrVregs h, hdrSregs h, hdrScratch h, hdrBarriers h⟩
def Launch.demand (l : Launch) : Demand := demandOf (recWaves l.record) (recTwin l.record) l.hdr

/-- Waves of a team in column `col`, quarter `q`. -/
def Demand.share (d : Demand) (col q : Nat) : Nat := ((List.range d.waves).filter (fun w => quarterOfWid d.twin w == 4 * col + q)).length

/-- The columns a team has. -/
def Demand.columns (d : Demand) : List Nat := if d.twin then [0, 1] else [0]

/-- Waves that hold registers of a quarter, but for those of some teams. -/
def holding (s : State) (core q : Nat) (without : List Nat) : List Wave :=
  (s.allWaves.map (·.2)).filter (fun w => w.core == core && w.quarter == q && w.station != .vacant && w.station != .saved &&
    !without.contains w.team)

def sumOf (xs : List Nat) : Nat := xs.foldl (· + ·) 0

/-- What teams on a core hold of scratch granules and barriers, but for those of some teams. -/
def coreHeld (s : State) (core : Nat) (without : List Nat) : Nat × Nat :=
  let ls := s.teams.filterMap (fun e =>
    if !e.2.saved && !without.contains e.1 && (e.2.core == core || (e.2.twin && e.2.core + 1 == core)) then find s.launches e.2.launch
    else none)
  (sumOf (ls.map (fun l => hdrScratch l.hdr)), sumOf (ls.map (fun l => hdrBarriers l.hdr)))

/-- A team fits from a core on, were some teams gone (R23, R24). -/
def fitsWithout (s : State) (without : List Nat) (d : Demand) (core : Nat) : Bool :=
  d.columns.all (fun col =>
    let held := coreHeld s (core + col) without
    decide (held.1 + d.scratch ≤ 64) && decide (held.2 + d.barriers ≤ 32) &&
      (List.range 4).all (fun q =>
        let ws := holding s (core + col) q without
        let k := d.share col q
        decide (sumOf (ws.map (fun w => w.width * w.vregs)) + k * d.width * d.vregs ≤ 32768) &&
          decide (sumOf (ws.map (·.sregs)) + k * d.sregs ≤ 1024) && decide (ws.length + k ≤ 12)))

/-- One team fits an empty core or twin (R26). -/
def Demand.fitsEmpty (d : Demand) : Bool :=
  d.columns.all (fun col => (List.range 4).all (fun q =>
    let k := d.share col q
    decide (k * d.width * d.vregs ≤ 32768) && decide (k * d.sregs ≤ 1024) && decide (k ≤ 12)))

/-- Cores of a partition (R262): 48 on each compute die. One that no PARTSET has set is the whole part, as before the first PARTSET.
(DESIGN CHOICE, log 195, unsafe.) -/
def partCores (s : State) (part : Nat) : List Nat :=
  match find s.mgmt.parts part with
  | some (die, n) => (List.range (48 * n)).map (48 * die + ·)
  | none => List.range 384

/-- Where a team may go, in the order of R272. -/
def spots (s : State) (part : Nat) (d : Demand) : List Nat := (partCores s part).filter (fun c => !d.twin || c % 2 == 0)

/-- The first fit of R25 and R272, among cores a test admits. -/
def firstFit (s : State) (part : Nat) (d : Demand) (okAt : Nat → Bool) : Option Nat :=
  (spots s part d).find? (fun c => okAt c && fitsWithout s [] d c)

/-- Launch error 0x04: no room even on an empty part; a paired launch needs it in two Whorl groups (R26, R317). -/
def neverFits (s : State) (part : Nat) (ws : List W64) (h : W32) : Bool :=
  let d := demandOf (recWaves ws) (recTwin ws) h
  !d.fitsEmpty || (spots s part d).isEmpty || (recPaired ws && decide (((spots s part d).map (· / 24)).eraseDups.length < 2))

/-! ### The launch table (R267, R270, R271, R273) -/

/-- A launch that ends at its check (R267, R288): status 2, a fault record of agent 7, and its completion record.
(DEDUCED, log 106, unsafe.) -/
def launchError (tag : BitVec 8) (ws : List W64) (lrec : W64) (code : BitVec 8) (va : W64) (s : State) : State :=
  let k := s.stamp + 1
  let l : Launch :=
    { record := ws, env := { Env.none with tag := tag, lrec := lrec, launchid := recId ws }, hdr := 0, state := .ended, status := 2,
      cause := code, team1 := 0, level := 0, stamp := s.stamp, placed := 0, waited := 0, since := 0, reserves := false, deps := [], next := 0,
      retired := 0, replays := 0, snaps := [], shielded := false, irrepl := false, stopCause := none }
  let s := postTerminating tag [faultWord0 code 7 0 false false tag (recId ws), va &&& 0x000fffffffffffff#64,
    lrec &&& 0x000fffffffffffff#64, 0] va 0 s
  writeCompletion k { s with launches := ins s.launches k l, stamp := k }

/-- A launch of a context in flight under an id. -/
def inFlight (s : State) (tag : BitVec 8) (id : W32) : Bool := (launchNamed s tag id).isSome

/-- The dependences of a record as they stand at its fetch (R271, R273): met, open, or resolved against the launch. -/
def depsOf (s : State) (tag : BitVec 8) (ws : List W64) : List Dep × Bool :=
  let raw := ([9, 10, 11, 12].filter (fun w => recField ws w 62 2 != 0)).map (fun w =>
    (⟨(ws.getD w 0).extractLsb' 62 2, recBit ws w 61, (ws.getD w 0).extractLsb' 32 8, (ws.getD w 0).setWidth 32, false⟩ : Dep))
  let value := fun (d : Dep) =>
    let g := s.guard tag d.slot
    if g.gen != d.id then some false else if g.state = 2#2 then some true else if g.state = 3#2 then some false else none
  let settled := raw.map (fun d =>
    if d.kind = 1#2 then { d with met := !inFlight s tag d.id } else { d with met := value d == some d.sense })
  (settled, raw.any (fun d => d.kind != 1#2 && (value d).any (· != d.sense)))

/-- A checked launch enters the table (R270): it waits, is eligible, or ends where a guard has already gone against it.
(DEDUCED, log 152, safe.) -/
def enterLaunch (tag : BitVec 8) (ws : List W64) (lrec : W64) (hs : List W32) (extra : List Dep) (s : State) : State :=
  let k := s.stamp + 1
  let c := s.context tag
  let env : Env :=
    { handles := [], slots := recSlots ws, stepptr := ws.getD 8 0, code := ws.getD 0 0, entry := hs.getD 1 0, trap := hs.getD 2 0,
      length := hs.getD 3 0, tag := tag, part := BitVec.ofNat 3 c.part, ctxdesc := Config.contextTable + BitVec.ofNat 64 (256 * c.entry), lrec := lrec,
      level := BitVec.ofNat 4 (recPrio ws), sup := recSup ws, launchid := recId ws }
  let (deps, against) := depsOf s tag ws
  let l : Launch :=
    { record := ws, env := env, hdr := hs.getD 0 0, state := .waiting, status := 0, cause := 0, team1 := 0, level := recPrio ws,
      stamp := s.cycle, placed := 0, waited := 0, since := 0, reserves := false, deps := deps ++ extra, next := 0, retired := 0, replays := 0, snaps := [],
      shielded := true, irrepl := false, stopCause := none }
  let s := { s with launches := ins s.launches k l, stamp := k }
  if against then endLaunch k 4 0 s
  else
    let s := (deps ++ extra).foldl (fun (s : State) d =>
      match (if d.kind = 1#2 then (launchNamed s tag d.id).bind (find s.launches) else none) with
      | some p => if p.state == .finished then meetEarly p s else s
      | none => s) s
    makeEligible k s

/-- CHECK A RECORD and enter its launch (R267): the first error of Table 17.5, in the order 0x01, 0x08, 0x09, 0x05, 0x07, 0x02,
0x06, 0x03, 0x04; `none` while a page is awaited. (DEDUCED, log 107, unsafe.) -/
def checkLaunch (tag : BitVec 8) (ws : List W64) (lrec : W64) (distaff : Bool) (extra : List Dep) (s : State) : State × Bool :=
  let id := recId ws
  let c := s.context tag
  let err := fun (code : BitVec 8) (va : W64) (s : State) => (launchError tag ws lrec code va s, true)
  if recordBad ws then err 0x01 0 s
  else if recSup ws && !(c.word 0).getLsbD 62 then err 0x08 0 s
  else if recPrio ws == 15 && !distaff && !recSup ws then err 0x09 0 s
  else if inFlight s tag id then err 0x05 0 s
  else
    match cpRead tag id lrec 3 (ws.getD 0 0) 64 s with
    | (s, .wait) => (s, false)
    | (s, .bad va) => err 0x07 va s
    | (s, .ok bs) =>
      match cpRead tag id lrec 3 (ws.getD 2 0) (32 * recHandles ws) s with
      | (s, .wait) => (s, false)
      | (s, .bad va) => err 0x07 va s
      | (s, .ok _) =>
        let hs := wordsOf bs
        let h := hs.getD 0 0
        if headerRefused (ws.getD 0 0) hs then err 0x02 0 s
        else if recField ws 1 56 2 != 0 && decide (8 * 2 ^ recField ws 1 56 2 ≠ hdrWidth h) then err 0x06 0 s
        else if expectFails ws hs then err 0x03 0 s
        else if neverFits s c.part ws h then err 0x04 0 s
        else (enterLaunch tag ws lrec hs extra s, true)

/-- A launch queue has a record to fetch. -/
def queueWaits (c : Context) (level : Nat) : Bool := look 0 c.lqhead level != look 0 c.lqtail level

/-- Where a queue's record at an index lies (R265, Table 17.1). -/
def queueAddress (c : Context) (level : Nat) (index : W32) : W64 :=
  let log := ((c.word 0).extractLsb' 0 4).toNat
  c.word 1 + BitVec.ofNat 64 (level * 256 * 2 ^ log + 256 * (index.toNat % 2 ^ log))

/-- A queue's head moves past its record, whose reads are over. -/
def popQueue (tag : BitVec 8) (level : Nat) (lrec : W64) (s : State) : State :=
  let s := forgetReader tag lrec s
  { s with contexts := change (fun c => { c with lqhead := put 0 c.lqhead level (look 0 c.lqhead level + 1) }) s.contexts tag.toNat }

/-- LAUNCH_FETCH (R265, R267): the next record of a queue is copied and checked; the queue waits while a page it needs is not
present. (DEDUCED, log 106, unsafe.) -/
def execLaunchFetch (tag : BitVec 8) (level : Nat) (s : State) : Result :=
  let c := s.context tag
  if !c.active || c.closing || 16 ≤ level || !queueWaits c level then .next s
  else
    let lrec := queueAddress c level (look 0 c.lqhead level)
    match cpRead tag 0 lrec 3 lrec 256 s with
    | (s, .wait) => .next s
    | (s, .bad va) => .next (launchError tag [] lrec 0x07 va (popQueue tag level lrec s))
    | (s, .ok bs) =>
      match checkLaunch tag (doublesOf bs) lrec false [] s with
      | (s, false) => .next s
      | (s, true) => .next (popQueue tag level lrec s)

/-! ### Placement (R24, R25, R31, R101, R272, R317) -/

/-- The lowest vacant slot of a quarter. -/
def vacantSlot (s : State) (core q : Nat) : Nat :=
  ((List.range 12).find? (fun i => (s.wave (waveKey core q i)).station == .vacant)).getD 0

/-- A wave in the state of Table 2.7. The 2,048 cycles without an issued word (R36) count from its placement until it issues one.
(DEDUCED, log 71, safe; DESIGN CHOICE, log 177, unsafe.) -/
def startWave (s : State) (k : Nat) (l : Launch) (team core wid : Nat) : Wave :=
  let d := l.demand
  let place := quarterOfWid d.twin wid
  let c := core + place / 4
  { Wave.vacant with
    a := { Arch.zero with exec := fullMask d.width, pos := CodePos.atHeader (l.env.code + l.env.entry.setWidth 64) }
    env := l.env, station := .live, core := c, quarter := place % 4, slot := vacantSlot s c (place % 4), launch := k, team := team
    teamid := BitVec.ofNat 32 l.next, wid := wid, width := d.width, vregs := d.vregs, sregs := d.sregs, ports := hdrPorts l.hdr
    scratch := d.scratch, barriers := d.barriers, waves := d.waves, twin := d.twin, lastIssue := s.clockOf c }

/-- A team's waves put into their slots. -/
def startWaves (k : Nat) (l : Launch) (team core : Nat) (s : State) : State :=
  (List.range l.demand.waves).foldl (fun (s : State) wid =>
    let w := startWave s k l team core wid
    s.setWave w.key w) s

/-- A team's scratch tiles pinned at their home (R101). -/
def pinTeam (team core : Nat) (d : Demand) (tag : BitVec 8) (s : State) : State :=
  d.columns.foldl (fun (s : State) col => (List.range d.scratch).foldl (fun (s : State) g =>
    let tile := (scratchLoc team col (4096 * g)) / 4096
    { s.onWhorl (core / 24) (Whorl.pinScratch tile tag (BitVec.allOnes 64) (core + col) s.cycle s.stamp) with stamp := s.stamp + 1 }) s) s

/-- An island set to a frequency; a core's clock counts on at it. (DESIGN CHOICE, log 146, unsafe.) -/
def setFreq (cls index f : Nat) (s : State) : State :=
  let s := if cls = 0 then s.countClock index else s
  { s with mgmt := { s.mgmt with freqs := put 2600 s.mgmt.freqs (islandKey cls index) f } }

/-- A gated core island that receives a team starts at 130 MHz (R336). -/
def wakeCore (core : Nat) (s : State) : State := if s.freq 0 core = 0 then setFreq 0 core 260 s else s
def wakeCores (core : Nat) (twin : Bool) (s : State) : State := if twin then wakeCore (core + 1) (wakeCore core s) else wakeCore core s

/-- Pages of 64 KiB that back a team's scratch (R101). -/
def Demand.backing (d : Demand) : Nat := d.columns.length * ((d.scratch + 15) / 16)

/-- One copy of the next team of a launch placed on a core: the key of the team. -/
def placeCopy (k core : Nat) (l : Launch) (partner : Option Nat) (s : State) : State × Nat :=
  let team := s.stamp + 1
  let t : Team :=
    { launch := k, teamid := BitVec.ofNat 32 l.next, core := core, twin := l.demand.twin, left := l.demand.waves, barriers := [],
      halting := false, saved := false, commands := [], block := (0, 0), sealed := false, age := s.cycle, partner := partner,
      stopped := none, backing := allocBacking s l.env.tag l.demand.backing }
  let s := wakeCores core l.demand.twin { s with teams := ins s.teams team t, stamp := team }
  (pinTeam team core l.demand l.env.tag (startWaves k l team core s), team)

/-- The waves of two copies tied to one another (R317). -/
def tiePair (a b : Nat) (s : State) : State :=
  let keyOf := fun (team wid : Nat) => ((s.allWaves.find? (fun e => e.2.team == team && e.2.wid == wid && e.2.station != .vacant)).map (·.1)).getD 0
  let s := s.mapWaves (fun _ w =>
    if w.station == .vacant then w
    else if w.team == a then { w with pair := some (keyOf b w.wid, true) }
    else if w.team == b then { w with pair := some (keyOf a w.wid, false) }
    else w)
  { s with teams := change (fun t => { t with partner := some b }) s.teams a }

/-- The launch has a team more: running, its level fixed, and with the first of them the time it was placed (R132). -/
def countTeam (k : Nat) (s : State) : State :=
  { s with launches := change (fun l => { l with
      state := .running, placed := if l.next = 0 then s.cycle else l.placed, next := l.next + 1, reserves := false }) s.launches k }

/-- The handles and the level of a launch fixed at its first placement (R81, R263, R269). (DEDUCED, log 108, unsafe.) -/
def fixLaunch (k : Nat) (bs : List Byte) (s : State) : State :=
  let handles := (List.range (bs.length / 32)).map (fun i => BitVec.ofNat 256 (natOfBytes ((bs.drop (32 * i)).take 32)))
  { s with launches := change (fun l => { l with env := { l.env with handles := handles, level := BitVec.ofNat 4 l.level } }) s.launches k }

/-- What trying to place one team comes to. -/
inductive Placed where
  | placed (s : State)
  | waits (s : State)
  | full

/-- The next team of a launch placed by first fit, both copies of a paired one (R272, R317). (DEDUCED, log 109, safe.) -/
def placeTeam (k : Nat) (l : Launch) (s : State) : Placed :=
  let d := l.demand
  let part := l.env.part.toNat
  match firstFit s part d (fun _ => true) with
  | none => .full
  | some a =>
    let spots := if recPaired l.record then
        ((spots s part d).filter (fun c => fitsWithout s [] d c)).findSome? (fun a =>
          (firstFit s part d (fun b => b / 24 != a / 24)).map (fun b => (a, some b)))
      else some (a, none)
    match spots with
    | none => .full
    | some (a, b) =>
      let go := fun (s : State) =>
        match find s.launches k with
        | none => Placed.full
        | some l =>
          let (s, ta) := placeCopy k a l none s
          match b with
          | none => .placed (countTeam k s)
          | some b =>
            let (s, tb) := placeCopy k b l (some ta) s
            .placed (countTeam k (tiePair ta tb s))
      if !l.env.handles.isEmpty then go s
      else
        match cpRead l.env.tag l.env.launchid l.env.lrec 3 (l.word 2) (32 * recHandles l.record) s with
        | (s, .ok bs) => go (fixLaunch k bs s)
        | (s, .wait) => .waits s
        | (s, .bad va) =>
          let s := postTerminating l.env.tag [faultWord0 0x07 7 0 false false l.env.tag l.env.launchid, va &&& 0x000fffffffffffff#64,
            l.env.lrec &&& 0x000fffffffffffff#64, 0] va 0 s
          .placed (endLaunch k 2 0x07 s)

/-- Saved teams of a launch, the lowest teamid first (R292). (DEDUCED, log 130, unsafe.) -/
def savedTeams (s : State) (k : Nat) : List (Nat × Team) :=
  (s.teams.filter (fun e => e.2.launch == k && e.2.saved)).mergeSort (fun a b => decide (a.2.teamid.toNat ≤ b.2.teamid.toNat))

/-- Launches with a team to place, in the order of R272. -/
def placeOrder (s : State) : List (Nat × Launch) :=
  (s.launches.filter (fun e => (e.2.state == .eligible || e.2.state == .running) && !(s.context e.2.env.tag).closing &&
    (decide (e.2.next < e.2.teamCount) || !(savedTeams s e.1).isEmpty))).mergeSort (fun a b =>
      decide (b.2.level < a.2.level) || (a.2.level == b.2.level && decide (a.2.stamp ≤ b.2.stamp)))

/-- One pass of R272 over launches in order: a team is placed (the pass starts again), or none can be. Partitions of launches
that reserve hold back the rest. (DEDUCED, log 109, safe.) -/
def placePass : List (Nat × Launch) → List Nat → State → State × Bool
  | [], _, s => (s, false)
  | (k, l) :: rest, held, s =>
    let part := l.env.part.toNat
    if held.contains part then placePass rest held s
    else
      let held' := if l.reserves then held ++ [part] else held
      match savedTeams s k with
      | (t, team) :: _ =>
        match (if team.sealed then firstFit s part l.demand (fun _ => true) else none) with
        | some core => ({ s with agenda := s.agenda ++ [Instr.teamRestore t core, Instr.teamPlacement] }, false)
        | none => placePass rest held' s
      | [] =>
        match placeTeam k l s with
        | .placed s => (s, true)
        | .waits s => placePass rest held' s
        | .full => placePass rest held' s

/-- `place()` of R272, started again after each team placed. (DEDUCED, log 109, safe.) -/
def placeAll' : Nat → State → State
  | 0, s => s
  | n + 1, s =>
    match placePass (placeOrder s) [] s with
    | (s, true) => placeAll' n s
    | (s, false) => s

/-- TEAM_PLACEMENT (R24, R25, R272): every team that fits, at most one for each wave slot of the part.
(DEDUCED, log 109, safe.) -/
def execTeamPlacement (s : State) : Result := .next (placeAll' 18432 s)

/-- An eligible launch with no team placed. -/
def Launch.unplaced (l : Launch) : Bool := l.state == .eligible && l.next == 0

/-- Device reference time has reached an amount after a launch became eligible. (DEDUCED, log 110, safe.) -/
def passSince (l : Launch) (ns : Nat) (s : State) : State :=
  let due := l.since + BitVec.ofNat 64 ns
  if s.nanotime.toNat < due.toNat then { s with nanotime := due } else s

/-- LEVEL_RAISE (R269): every 2 ms without a team placed, up to level 14. A launch that a replay has made eligible again keeps the level
of its first placement, which has copied its handles (R81, R315). (DEDUCED, log 110, safe.) -/
def execLevelRaise (launch : Nat) (s : State) : Result :=
  match find s.launches launch with
  | none => .next s
  | some l =>
    if !l.unplaced || !l.env.handles.isEmpty || 14 ≤ l.level then .next s
    else
      let s := passSince l (2000000 * (l.waited + 1)) s
      .next { s with launches := change (fun l => { l with waited := l.waited + 1, level := l.level + 1 }) s.launches launch
                     agenda := s.agenda ++ [Instr.teamPlacement] }

/-! ### Reserving and victims (R272, R295) -/

/-- The units a team's block takes (R296). -/
def blockUnits (d : Demand) : Nat :=
  let b := (0x6000 + 4 * d.width * d.vregs + 4095) / 4096 * 4096
  (0x400 + d.waves * b + 65535) / 65536

/-- Consecutive units, none of them in use. -/
def unitsFree (units : Nat) (used : List Nat) (n : Nat) : Option Nat :=
  (List.range (units + 1 - n)).find? (fun u => (List.range n).all (fun i => !used.contains (u + i)))

/-- Units of a context's save area, its header included (R295); units for which the allocation map has no bit hold no block.
(DESIGN CHOICE, log 189, unsafe.) -/
def areaUnits (s : State) (tag : BitVec 8) : Nat :=
  match probe s tag ((s.context tag).word 4) Access.read with
  | none => 0
  | some loc => min (readW s.mem loc).toNat 491520

/-- Units that no block can take: the header and those of other blocks. -/
def takenUnits (s : State) (tag : BitVec 8) : List Nat := 0 :: usedUnits s tag

/-- Consecutive free units of a context's save area (R295). -/
def freeUnits (s : State) (tag : BitVec 8) (n : Nat) : Option Nat := unitsFree (areaUnits s tag) (takenUnits s tag) n

/-- The save area of a context holds a block of `n` units beside those that some teams of it, chosen or being stopped, have yet to take. -/
def roomBeside (s : State) (tag : BitVec 8) (teams : List Nat) (n : Nat) : Bool :=
  let units := areaUnits s tag
  let due := s.teams.filterMap (fun e =>
    if (teams.contains e.1 || e.2.halting) && !e.2.saved then
      ((find s.launches e.2.launch).filter (fun l => l.env.tag == tag)).map (fun l => blockUnits l.demand)
    else none)
  let used := due.foldl (fun (used : Option (List Nat)) k => used.bind (fun used =>
    (unitsFree units used k).map (fun u => (List.range k).map (u + ·) ++ used))) (some (takenUnits s tag))
  used.any (fun used => (unitsFree units used n).isSome)

/-- The next victim of R272 in a partition: of the lowest level below 15, the youngest, whose block the save area can hold (R295). -/
def nextVictim (s : State) (part : Nat) (taken : List Nat) : Option Nat :=
  (s.teams.foldl (fun (best : Option (Nat × Nat × Nat)) e =>
    match find s.launches e.2.launch with
    | none => best
    | some l =>
      if taken.contains e.1 || e.2.saved || e.2.halting || l.env.part.toNat != part || 15 ≤ l.level ||
          !roomBeside s l.env.tag taken (blockUnits l.demand) then best
      else
        match best with
        | none => some (e.1, l.level, e.2.age)
        | some (_, lv, age) => if l.level < lv || (l.level == lv && age ≤ e.2.age) then some (e.1, l.level, e.2.age) else best) none).map (·.1)

/-- A team fits somewhere once some teams are gone, both copies of a paired one in two Whorl groups (R272, R317). -/
def fitsOnce (s : State) (part : Nat) (d : Demand) (paired : Bool) (gone : List Nat) : Bool :=
  let at' := (spots s part d).filter (fitsWithout s gone d)
  if paired then at'.any (fun a => at'.any (fun b => b / 24 != a / 24)) else !at'.isEmpty

/-- Victims until a team would fit, or until no more teams can be saved. -/
def victims (s : State) (part : Nat) (d : Demand) (paired : Bool) : Nat → List Nat → List Nat
  | 0, taken => taken
  | fuel + 1, taken =>
    if fitsOnce s part d paired taken then taken
    else
      match nextVictim s part taken with
      | none => taken
      | some t => victims s part d paired fuel (taken ++ [t])

/-- A launch that reserves stands higher in the order of its partition (R272): a pass skips this one. -/
def heldBack (s : State) (launch : Nat) : Bool :=
  ((placeOrder s).takeWhile (fun e => e.1 != launch)).any (fun e => e.2.reserves &&
    (find s.launches launch).any (fun l => l.env.part == e.2.env.part))

/-- RESERVE (R272): eligible for 8 ms with no team placed and not held back; a level-15 launch has teams pre-empted until its team fits: those
that can be saved now, and at a later time those that could not. (DEDUCED, log 110, safe.) -/
def execReserve (launch : Nat) (s : State) : Result :=
  match find s.launches launch with
  | none => .next s
  | some l =>
    if !l.unplaced || heldBack s launch then .next s
    else
      let s := passSince l 8000000 s
      let s := { s with launches := change (fun l => { l with reserves := true }) s.launches launch }
      let part := l.env.part.toNat
      let out := if l.level = 15 then
          victims s part l.demand (recPaired l.record) s.teams.length ((s.teams.filter (fun e => e.2.halting)).map (·.1))
        else []
      .next { s with agenda := s.agenda ++ out.map Instr.preemptionRequest }

end Sys2Proof.Machine
end

