-- ==== Sys2Proof/Machine/Distaff.lean ====
section
/-! DEFINITION. The Distaff (R275 to R279): admission, the steps of a context's batch and their chains, the stop test, and
retirement. -/

namespace Sys2Proof.Machine

/-- The Distaff's stepping of a context changed. -/
def onDistaff (tag : BitVec 8) (f : Distaff → Distaff) (s : State) : State :=
  { s with contexts := change (fun c => { c with distaff := f c.distaff }) s.contexts tag.toNat }

def State.distaffOf (s : State) (tag : BitVec 8) : Distaff := (s.context tag).distaff

/-- The Distaff is woken for a context. -/
def wakeDistaff (tag : BitVec 8) (s : State) : State := { s with agenda := s.agenda ++ [Instr.distaffStep tag] }

/-! ### Retirement (R279) -/

/-- The completion ring of a context has room beside the entries on their way to it. -/
def ringRoom (c : Context) : Bool :=
  decide ((c.cpltail - c.cplhead).toNat + (c.stores.filter (·.isEntry)).length < ((c.word 13).extractLsb' 16 16).toNat + 1)

/-- Completion entries written while the ring has room; the tail moves as each is made (R279, R341). -/
def flushCompletions (tag : BitVec 8) : Nat → State → State
  | 0, s => s
  | n + 1, s =>
    let c := s.context tag
    match c.distaff.pending with
    | [] => s
    | e :: rest =>
      if !ringRoom c then s
      else
        flushCompletions tag n (flushStores tag [.entry e] (onDistaff tag (fun d => { d with pending := rest }) s))

/-- A completion entry queued and, with room, written: cookie; id and reason; length; token array.
(DESIGN CHOICE, log 99, unsafe.) -/
def postCompletion (tag : BitVec 8) (cookie : W64) (id : W32) (reason : Nat) (length : Nat) (tokens : W64) (s : State) : State :=
  let e : List W64 := [cookie, BitVec.ofNat 32 reason ++ id, BitVec.ofNat 64 length, tokens]
  let s := onDistaff tag (fun d => { d with pending := d.pending ++ [e] }) s
  flushCompletions tag (s.distaffOf tag).pending.length s

/-- A sequence retires with the reason its entry holds. (DESIGN CHOICE, log 99, unsafe.) -/
def retireSequence (tag : BitVec 8) (slot : Nat) (s : State) : State :=
  let w0 := seqWord s slot 0
  let id := seqIdOf s slot
  let desc := seqWord s slot 4
  let gen : BitVec 20 := w0.extractLsb' 32 20 + 1
  let s := setSeqWord slot 0 (0#1 ++ w0.extractLsb' 52 11 ++ gen ++ w0.setWidth 32) s
  let freed := fun (c : Context) (r : Region) => if c.word 9 + BitVec.ofNat 64 (65536 * r.unit) = desc then { r with desc := desc, released := true } else r
  let leave := fun (d : Distaff) => { d with batch := d.batch.erase slot, joined := d.joined.erase slot, cancels := d.cancels.erase id }
  let out := fun (c : Context) => { c with regions := c.regions.map (freed c), distaff := leave c.distaff }
  let s := { s with contexts := change out s.contexts tag.toNat }
  postCompletion tag (seqWord s slot 12) id (seqWord s slot 14).toNat (w0.setWidth 32).toNat (seqTokens s slot) s

/-- SEQUENCE_RETIREMENT (R279): a sequence whose entry holds an end reason. -/
def execSequenceRetirement (slot : Nat) (s : State) : Result :=
  if 4096 ≤ slot || !(seqWord s slot 0).getLsbD 63 || (seqWord s slot 14).extractLsb' 0 8 == 0 then .next s
  else .next (retireSequence ((seqWord s slot 0).extractLsb' 52 8) slot s)

/-- Every active sequence of a context retires with a reason (R323). -/
def retireAll (tag : BitVec 8) (reason : W64) (s : State) : State :=
  (List.range 4096).foldl (fun (s : State) slot =>
    let w := seqWord s slot 0
    if w.getLsbD 63 && w.extractLsb' 52 8 == tag then retireSequence tag slot (setSeqWord slot 14 reason s) else s) s

/-! ### Admission (R276, R277) -/

/-- An operation in flight holds a sample of a slab (R110, R111). -/
def slabHeld (s : State) (desc : W64) : Bool :=
  s.allWaves.any (fun e => e.2.attn.any (fun op => op.sample.any (fun x => x.desc == desc)) || holdsSample desc e.2.sampled ||
    (e.2.pendingAccesses ++ e.2.aside).any (fun x => x.onSlab e.2.env desc) || e.2.matrix.any (fun m => holdsSample desc m.samples)) ||
  s.cores.any (fun e => e.2.spindle.any (fun c => holdsSample desc c.samples)) ||
  s.teams.any (fun e => e.2.commands.any (fun c => holdsSample desc c.samples)) ||
  s.carders.any (fun e => e.2.any (fun c => holdsSample desc c.samples))

/-- Released regions that nothing holds return to the pool. -/
def reapRegions (tag : BitVec 8) (s : State) : State :=
  let keep := fun (c : Context) => { c with regions := c.regions.filter (fun r => !r.released || slabHeld s r.desc) }
  { s with contexts := change keep s.contexts tag.toNat }

/-- log2 of the 64 KiB units a record's region takes. (DESIGN CHOICE, log 101, unsafe.) -/
def regionLog (cap fmt layers heads : Nat) : Nat :=
  let d := 2 ^ cap * (if fmt = 0 then 1 else 2) * (layers + 1) * (heads + 1) * 256
  ((List.range 40).find? (fun k => decide (65536 + d ≤ 65536 * 2 ^ k))).getD 40

/-- A free region of the pool: the lowest aligned one. (DESIGN CHOICE, log 101, unsafe.) -/
def freeRegion (c : Context) (log : Nat) : Option Nat :=
  let size := 2 ^ log
  let pool := 2 ^ ((c.word 10).extractLsb' 0 6).toNat
  ((List.range (pool / size)).map (size * ·)).find? (fun u =>
    c.regions.all (fun r => decide (u + size ≤ r.unit ∨ r.unit + 2 ^ r.log ≤ u)))

/-- An invalid admission record (R277). -/
def admissionBad (ws : List W64) : Bool :=
  let f := recField ws
  let cap := f 3 56 6
  (f 3 62 2 == 1 || f 3 62 2 == 3) || decide (cap < 6 ∨ 23 < cap) || decide (8 < f 3 52 4) || decide (2 ≤ f 9 16 2) ||
    f 3 0 32 == 0 || decide (65536 < f 3 0 32) || decide (f 2 32 32 ≤ f 2 0 32) || f 3 32 20 != 0 || f 4 32 32 != 0 || f 9 18 46 != 0 ||
    (List.range 6).any (fun i => ws.getD (10 + i) 0 != 0)

/-- The stop set of a record: its first nstop tokens, zero beyond. -/
def stopWords (ws : List W64) : List W64 :=
  let n := recField ws 3 52 4
  let tok := fun i => if i < n then (ws.getD (5 + i / 2) 0).extractLsb' (32 * (i % 2)) 32 else 0#32
  (List.range 4).map (fun j => tok (2 * j + 1) ++ tok (2 * j))

/-- The admission record at the head of a context's ring. -/
def headRecord (tag : BitVec 8) (s : State) : State × CpRead :=
  let c := s.context tag
  cpRead tag 0 0 2 (c.word 11 + BitVec.ofNat 64 (128 * (c.admhead.toNat % (((c.word 13).extractLsb' 0 16).toNat + 1)))) 128 s

def popAdmission (tag : BitVec 8) (s : State) : State :=
  { s with contexts := change (fun c => { c with admhead := c.admhead + 1 }) s.contexts tag.toNat }

/-- Batch slots of a context's sequences in use. -/
def batchSlot (s : State) (slot : Nat) : Nat := ((seqWord s slot 5).extractLsb' 32 16).toNat

/-- A valid record admitted into a table slot and a region (R277): the descriptor, then the entry. R277 gives commit for mode 0 alone; an entry
of mode 2 has plen too. (DESIGN CHOICE, log 100, safe; DESIGN CHOICE, log 101, unsafe; DESIGN CHOICE, log 194, unsafe.) -/
def admitRecord (tag : BitVec 8) (slot unit log : Nat) (ws : List W64) (masked : Nat) (s : State) : State :=
  let c := s.context tag
  let f := recField ws
  let mode := f 3 62 2
  let plen := f 2 0 32
  let desc := c.word 9 + BitVec.ofNat 64 (65536 * unit)
  let length := if mode = 2 then plen else 0
  let d1 : W64 := BitVec.ofNat 32 length ++ 0#8 ++ BitVec.ofNat 8 (f 9 8 8) ++ BitVec.ofNat 8 (f 9 0 8) ++ BitVec.ofNat 2 (f 9 16 2) ++ BitVec.ofNat 6 (f 3 56 6)
  let s := { s with contexts := change (fun c => { c with regions := c.regions ++ [⟨unit, log, desc, false⟩] }) s.contexts tag.toNat }
  let s := storeFor tag desc [desc + 65536, d1, 0, 0, 0, 0, 0, 0] s
  let used := (c.distaff.batch ++ c.distaff.next ++ c.distaff.joined).map (batchSlot s)
  let place := ((List.range 4097).find? (fun i => !used.contains i)).getD 0
  let gen : BitVec 20 := (seqWord s slot 0).extractLsb' 32 20 + 1
  let entryMode : BitVec 2 := if mode = 2 then 2 else 1
  let words : List W64 :=
    [1#1 ++ 0#1 ++ entryMode ++ tag ++ gen ++ BitVec.ofNat 32 length,
     BitVec.ofNat 32 masked ++ BitVec.ofNat 32 (f 2 32 32),
     ws.getD 1 0, Config.dirtyMap s.free, desc,
     0#12 ++ BitVec.ofNat 4 (f 3 52 4) ++ BitVec.ofNat 16 place ++ BitVec.ofNat 32 (f 4 0 32)] ++ stopWords ws ++
    [0#32 ++ BitVec.ofNat 32 plen,
     BitVec.ofNat 32 (f 3 0 32) ++ BitVec.ofNat 32 (if mode = 2 then 0 else plen),
     ws.getD 0 0, BitVec.ofNat 64 c.distaff.step, 0, 0]
  let s := homeWords (some tag) (seqLoc s slot 0) words { s with free := s.free + 1 }
  onDistaff tag (fun d => { d with joined := d.joined ++ [slot] }) s

/-- Records taken from the head of the ring while they fit. One that cannot be read, or whose token array cannot, stays at the head and is
tried again. (DEDUCED, log 102, unsafe; DESIGN CHOICE, log 193, unsafe.) -/
def admitAll (tag : BitVec 8) : Nat → State → State
  | 0, s => s
  | n + 1, s =>
    let c := s.context tag
    if c.admhead = c.admtail then s
    else
      match headRecord tag s with
      | (s, .ok bs) =>
        let ws := doublesOf bs
        let f := recField ws
        if admissionBad ws then
          admitAll tag n (postCompletion tag (ws.getD 0 0) 0 5 0 (ws.getD 1 0) (popAdmission tag s))
        else
          let s := reapRegions tag s
          let c := s.context tag
          let log := regionLog (f 3 56 6) (f 9 16 2) (f 9 0 8) (f 9 8 8)
          let slot := (List.range 4096).find? (fun i => !(seqWord s i 0).getLsbD 63)
          let plen := if f 3 62 2 = 2 then f 2 0 32 else 0
          match slot, freeRegion c log with
          | some slot, some unit =>
            if 4096 ≤ (c.distaff.batch ++ c.distaff.joined).length then s
            else
              match cpRead tag 0 0 (plen / 16384 + 2) (ws.getD 1 0) (4 * plen) s with
              | (s, .ok ts) =>
                let masked := ((wordsOf ts).filter (fun t => t == BitVec.ofNat 32 (f 4 0 32))).length
                admitAll tag n (admitRecord tag slot unit log ws masked (popAdmission tag s))
              | (s, _) => s
          | _, _ => s
      | (s, _) => s

/-- An admission point (R277). (DEDUCED, log 102, unsafe.) -/
def admissionPoint (tag : BitVec 8) (s : State) : State :=
  let c := s.context tag
  admitAll tag ((c.admtail - c.admhead).toNat) (onDistaff tag (fun d => { d with admitDue := false }) s)

/-! ### Steps (R278) -/

/-- The step buffer of a step. -/
def stepBuffer (c : Context) (n : Nat) : W64 := c.word 15 + BitVec.ofNat 64 (n % 2 * (32 + 32 * 4096))

/-- The guard slot of a step: 254 for even steps. -/
def stepGuard (n : Nat) : BitVec 8 := if n % 2 = 0 then 254 else 255

/-- The launch id of a chain's launch. -/
def chainId (n index : Nat) : W32 := BitVec.ofNat 32 (2 ^ 31 + (n * 8 + index) % 2 ^ 31)

/-- Launches in the chain, less one. -/
def Context.chainm1 (c : Context) : Nat := ((c.word 16).extractLsb' 0 3).toNat

/-- start and ntok of a sequence (R278). -/
def stepSpan (s : State) (slot : Nat) : Nat × Nat :=
  let len := seqLength s slot
  let w := seqWord s slot 11
  if seqMode s slot = 1#2 then (len, min (w.extractLsb' 32 32).toNat (w.extractLsb' 0 32).toNat)
  else if seqMode s slot = 0#2 then (len, 1)
  else (0, len)

/-- A batch in batch-slot order. -/
def inOrder (s : State) (batch : List Nat) : List Nat := batch.mergeSort (fun a b => decide (batchSlot s a ≤ batchSlot s b))

/-- The words of a step entry (Table 11.11). (DEDUCED, log 103, unsafe.) -/
def stepWords (s : State) (n : Nat) (batch : List Nat) : List W64 :=
  [BitVec.ofNat 64 n, BitVec.ofNat 64 batch.length, 0, 0] ++ batch.flatMap (fun slot =>
    let (start, ntok) := stepSpan s slot
    [(seqMode s slot).setWidth 16 ++ BitVec.ofNat 16 (batchSlot s slot) ++ seqIdOf s slot,
     BitVec.ofNat 32 ntok ++ BitVec.ofNat 32 start, seqWord s slot 4, 0])

/-- The writes of a step: each slab's length, in the upper half of its descriptor's second word, then the step entry.
(DEDUCED, log 103, unsafe.) -/
def stepWrites (s : State) (tag : BitVec 8) (n : Nat) (batch : List Nat) : List (W64 × W64) :=
  let c := s.context tag
  batch.map (fun slot =>
    let va := seqWord s slot 4 + 8
    let old := match probe s tag va Access.read with | some loc => readD s.mem loc | none => 0
    let (start, ntok) := stepSpan s slot
    (va, BitVec.ofNat 32 (start + ntok) ++ old.setWidth 32)) ++
  (stepWords s n batch).zipIdx.map (fun x => (stepBuffer c n + BitVec.ofNat 64 (8 * x.2), x.1))

/-- A page the Distaff writes is not present, and no record of it has been denied: the write waits. Any other failure drops it (R341). -/
def distaffAwaits (s : State) (tag : BitVec 8) (va : W64) : Bool :=
  match walk s (s.context tag) va Access.write with
  | .ok _ _ _ => false
  | .fail cause _ _ => cause == Cause.notPresent && !(s.distaffOf tag).denied.contains (va.toNat / 2 ^ 16)

/-- The record of such a page posted or joined (agent 5), and the Distaff waits. -/
def distaffBlocked (tag : BitVec 8) (va : W64) (s : State) : State :=
  match walk s (s.context tag) va Access.write with
  | .ok _ _ _ => s
  | .fail cause level large =>
    match openRecord (s.context tag) (va.toNat / 2 ^ 16) 1 with
    | some _ => s
    | none =>
      let w0 := faultWord0 cause 5 Access.write large true tag 0
      let w1 : W64 := 0#10 ++ BitVec.ofNat 2 level ++ va.setWidth 52
      (postRecord tag [w0, w1, 0, 0] va Access.write true [] [] s).1

/-- The chain of a step submitted from an index on (R278): each record copied, with its pointer, level and id, behind the one
before it and, where guarded, under its guard, as far as that is not resolved. A page awaited stops the submission there. -/
def submitChain (tag : BitVec 8) (n : Nat) (guarded : Bool) : Nat → Nat → State → State
  | 0, _, s => onDistaff tag (fun d => { d with chain := none }) s
  | fuel + 1, index, s =>
    let c := s.context tag
    let lrec := c.word 14 + BitVec.ofNat 64 (256 * index)
    let pause := fun (s : State) => onDistaff tag (fun d => { d with chain := some (n, index, guarded) }) s
    match cpRead tag 0 lrec 3 lrec 256 s with
    | (s, .wait) => pause s
    | (s, .bad va) => launchError tag [] lrec 0x07 va (onDistaff tag (fun d => { d with chain := none }) s)
    | (s, .ok bs) =>
      let ws := doublesOf bs
      let w1 := (ws.getD 1 0 &&& ~~~(0x0003c00000000000#64)) ||| 0x0003c00000000000#64
      let ws := ((ws.set 1 w1).set 8 (stepBuffer c n)).set 18 ((ws.getD 18 0 &&& ~~~(0xffffffff#64)) ||| (chainId n index).setWidth 64)
      let behind : List Dep := if index = 0 then [] else [⟨1, false, 0, chainId n (index - 1), !inFlight s tag (chainId n (index - 1))⟩]
      let g := s.guard tag (stepGuard n)
      let under : List Dep := if guarded then [⟨3, true, stepGuard n, g.gen, g.state == 2#2⟩] else []
      match checkLaunch tag ws lrec true (behind ++ under) s with
      | (s, false) => pause s
      | (s, true) => submitChain tag n guarded fuel (index + 1) s

/-- A step begun, once no page of its writes is awaited: what cannot be written is dropped (R341). (DEDUCED, log 103, unsafe.) -/
def beginStep (tag : BitVec 8) (n : Nat) (batch : List Nat) (guarded : Bool) (s : State) : State ⊕ State :=
  let writes := stepWrites s tag n (inOrder s batch)
  match writes.find? (fun w => distaffAwaits s tag w.1) with
  | some w => .inr (distaffBlocked tag w.1 s)
  | none =>
    let s := (writes.filter (fun w => (probe s tag w.1 Access.write).isSome)).foldl (fun (s : State) w => storeFor tag w.1 [w.2] s) s
    let s := onDistaff tag (fun d => { d with denied := [] }) s
    .inl (if guarded then armGuard tag (stepGuard n) s else s)

/-- The last launch of a step's chain has finished, or has committed: one that has ended otherwise takes no further part (R278). -/
def chainFinished (s : State) (tag : BitVec 8) (n : Nat) : Bool :=
  let c := s.context tag
  c.distaff.chain.isNone &&
    (c.distaff.done || ((launchNamed s tag (chainId n c.chainm1)).bind (find s.launches)).any (fun l => l.state == .finished))

/-- DISTAFF_STEP (R278): a chain under submission goes on; else, at an admission point, records are admitted; else the next step
starts, unguarded where none runs, or running ahead of the step whose chain has finished. (DEDUCED, log 102, unsafe.) -/
def execDistaffStep (tag : BitVec 8) (s : State) : Result :=
  let c := s.context tag
  let d := c.distaff
  if !c.active || c.closing || !(c.word 0).getLsbD 61 then .next s
  else
    match d.chain with
    | some (n, index, guarded) => .next (submitChain tag n guarded (c.chainm1 + 1 - index) index s)
    | none =>
      let s := if d.admitDue || !d.running then admissionPoint tag s else s
      let d := s.distaffOf tag
      if !d.running then
        let batch := d.batch ++ d.joined
        if batch.isEmpty || !d.pending.isEmpty then .next s
        else
          match beginStep tag d.step batch false s with
          | .inr s => .next s
          | .inl s =>
            .next (submitChain tag d.step false (c.chainm1 + 1) 0
              (onDistaff tag (fun d => { d with running := true, done := false, batch := batch, joined := [] }) s))
      else if !d.ahead && chainFinished s tag d.step then
        let batch := d.batch ++ d.joined
        match beginStep tag (d.step + 1) batch true s with
        | .inr s => .next s
        | .inl s =>
          .next (submitChain tag (d.step + 1) true (c.chainm1 + 1) 0
            (onDistaff tag (fun d => { d with ahead := true, next := batch, joined := [] }) s))
      else .next s

/-! ### The stop test (R278) -/

/-- A token of a sequence's array. -/
def tokenAt (s : State) (tag : BitVec 8) (slot p : Nat) : W32 :=
  match probe s tag (seqTokens s slot + BitVec.ofNat 64 (4 * p)) Access.read with
  | some loc => readW s.mem loc
  | none => 0

/-- The stop set of an entry. -/
def stopSet (s : State) (slot : Nat) : List W32 :=
  (List.range ((seqWord s slot 5).extractLsb' 48 4).toNat).map (fun i => (seqWord s slot (6 + i / 2)).extractLsb' (32 * (i % 2)) 32)

/-- A step applied to a sequence, and its end reason, 0 for none. The tokens committed during it are those of TOKC in order, then those of
rounds by position. (DEDUCED, log 103, unsafe.) -/
def applyStep (tag : BitVec 8) (slot : Nat) (s : State) : State :=
  let mode := seqMode s slot
  let stepc := (seqStepc s slot).toNat
  let commit := (seqCommit s slot).toNat
  let w11 := seqWord s slot 11
  let (_, ntok) := stepSpan s slot
  let len := seqLength s slot + (if mode = 1#2 then ntok else if mode = 0#2 then stepc else 0)
  let left := (w11.extractLsb' 0 32).toNat - (if mode = 1#2 then ntok else 0)
  let mode' : BitVec 2 := if mode = 1#2 ∧ left = 0 then 0 else mode
  let rounds := (((s.distaffOf tag).rounds.filter (fun r => r.1 == slot)).map (·.2)).mergeSort (fun a b => decide (a ≤ b))
  let stop := (((List.range stepc).map (commit - stepc + ·) ++ rounds).find? (fun p => (stopSet s slot).contains (tokenAt s tag slot p)))
  let len := match stop with | some p => p + 1 | none => len
  let limit := ((seqWord s slot 1).extractLsb' 0 32).toNat
  let reason : Nat :=
    if stop.isSome then 1 else if limit ≤ len then 2 else if mode = 2#2 ∧ seqMasked s slot = 0 then 3
    else if (s.distaffOf tag).cancels.contains (seqIdOf s slot) then 4 else 0
  let w0 := seqWord s slot 0
  let s := setSeqWord slot 0 (w0.extractLsb' 62 2 ++ mode' ++ w0.extractLsb' 32 28 ++ BitVec.ofNat 32 len) s
  let s := onDistaff tag (fun d => { d with rounds := d.rounds.filter (fun r => r.1 != slot) }) s
  let s := setSeqWord slot 10 (0#32 ++ BitVec.ofNat 32 commit) s
  let s := setSeqWord slot 11 (w11.extractLsb' 32 32 ++ BitVec.ofNat 32 left) s
  setSeqWord slot 14 (BitVec.ofNat 64 reason) s

/-- STEP_COMMIT (R278): the committed step is applied, the stop test resolves the guard of the step that runs ahead, sequences
with a reason retire, and records are admitted. (DEDUCED, log 102, 103, unsafe.) -/
def execStepCommit (tag : BitVec 8) (s : State) : Result :=
  let d := s.distaffOf tag
  if !d.running || !d.done then .next s
  else
    let batch := inOrder s d.batch
    let s := onDistaff tag (fun d => { d with done := false }) s
    let s := batch.foldl (fun s slot => applyStep tag slot s) s
    let finished := batch.filter (fun slot => (seqWord s slot 14).extractLsb' 0 8 != 0)
    let s := if d.ahead then resolveGuard tag (stepGuard (d.step + 1)) finished.isEmpty s else s
    let s := onDistaff tag (fun d =>
      if d.ahead && finished.isEmpty then
        { d with step := d.step + 1, batch := d.next, next := [], ahead := false, admitDue := true }
      else
        { d with step := d.step + 1, running := false, done := false, ahead := false, next := [], admitDue := true
                 chain := if d.ahead then none else d.chain
                 joined := d.joined ++ d.next.filter (fun x => !d.batch.contains x) }) s
    .next (wakeDistaff tag { s with agenda := s.agenda ++ finished.map Instr.sequenceRetirement })

end Sys2Proof.Machine
end

