-- ==== Sys2Proof/Machine/Replay.lean ====
section
/-! DEFINITION. What becomes of a launch that meets a terminating cause or an uncorrectable error (R310 to R318, R322 to R325):
replay, termination of the launch, termination of its context; and the comparison of paired copies. -/

namespace Sys2Proof.Machine

/-! ### Replay (R312 to R315) -/

def Launch.maxrep (l : Launch) : Nat := recField l.record 1 54 2
def Launch.anycause (l : Launch) : Bool := recBit l.record 1 53

/-- A launch that may be replayed (Table 19.5). -/
def Launch.replayable (l : Launch) : Bool := l.isProtected && !l.irrepl && decide (l.replays < l.maxrep)

/-- A launch holds a snapshot of a page taken before the damage: the copy is not itself poisoned (R314). -/
def heldBefore (s : State) (l : Launch) (page : Nat) : Bool :=
  l.snaps.any (fun x => x.page == page &&
    (match poolLoc s l.env.tag x.slot with
     | some loc => !(List.range 2048).any (fun i => anyPoison s [loc + 32 * i])
     | none => false))

/-- REPLAY (R315): everything of the launch stops, the damaged frame is retired, its pages are restored, and it is eligible
again at the level it was placed at. (DEDUCED, log 108, unsafe.) -/
def replayLaunch (k : Nat) (damaged : Option Nat) (s : State) : State :=
  let s := killLaunch k s
  let s := match damaged with
    | some loc => retireFrame (regionOf loc == 1) (addrOf loc / 65536) 1 none s
    | none => s
  let s := restoreSnapshots [k] s
  { s with
    launches := change (fun l => { l with
      state := .eligible, replays := l.replays + 1, next := 0, retired := 0, stopCause := none, level := l.env.level.toNat
      stamp := s.cycle, waited := 0, since := s.nanotime, reserves := false }) s.launches k
    agenda := s.agenda ++ [Instr.teamPlacement] }

/-! ### Termination of a context (R323, R324) -/

/-- Launches of a context in flight, in ascending launchid. -/
def inFlightOf (s : State) (tag : BitVec 8) : List (Nat × Launch) :=
  (s.launches.filter (fun e => e.2.env.tag == tag && e.2.state != .ended)).mergeSort (fun a b =>
    decide (a.2.env.launchid.toNat ≤ b.2.env.launchid.toNat))

/-- Every pin that carries a context's tag removed (R93). (DEDUCED, log 126, unsafe.) -/
def dropPins (tag : BitVec 8) (s : State) : State :=
  let f := fun (t : Tile) => if t.pin.any (fun p => p.2 == tag) then { t with pin := none } else t
  { s with whorls := mapEntries (fun _ h => h.mapTiles f) s.whorls }

/-- A CONTEXT IS TERMINATED (R323): each launch in flight with status 6, its record from `record` if any, and its completion
record; then nothing of it is active. (DEDUCED, log 131, unsafe.) -/
def terminateContext (tag : BitVec 8) (cause : BitVec 8) (record : Launch → Option (List W64 × W64)) (s : State) : State :=
  let ls := inFlightOf s tag
  let s := ls.foldl (fun s e => killLaunch e.1 s) s
  let s := { s with launches := mapEntries (fun k l =>
    if ls.any (fun e => e.1 == k) then { l with state := .ended, status := 6, cause := cause, snaps := [] } else l) s.launches }
  let s := retireAll tag 4 (dropPins tag s)
  let s := ls.foldl (fun (s : State) e =>
    let s := match record e.2 with
      | some (words, va) => postTerminating tag words va 0 s
      | none => s
    writeCompletion e.1 s) s
  let s := ((s.launches.filter (fun e => e.2.env.tag == tag)).map (·.1)).foldl (fun s k => dropCompletion k s) s
  let close := fun (c : Context) => { c with
    active := false, closing := false, stores := [], faults := c.faults.map (fun f => { f with readers := [] })
    distaff := { c.distaff with running := false, done := false, batch := [], ahead := false, next := [], joined := [], admitDue := false,
                                chain := .none, cancels := [], pending := [] } }
  let s := { dropTranslations 1 tag 0 s with decided := s.decided.filter (fun d => d.2 != tag) }
  { s with walks := s.walks.filter (fun k => k.tag != tag), contexts := change close s.contexts tag.toNat
           agenda := s.agenda ++ [Instr.teamPlacement] }

/-! ### The decision (R314) -/

/-- The record of a stop (Table 18.4, R315): for a consumed error, va is the first byte of the damaged sector, and for one met on a page table
entry, level and large are the entry's. -/
def stopRecord (s : State) (c : Stop) (l : Launch) : List W64 × W64 :=
  let va := if c.cause = Cause.poison then c.va &&& ~~~(31#64) else c.va
  ([faultWord0 c.cause c.agent c.access c.large false l.env.tag l.env.launchid, 0#10 ++ BitVec.ofNat 2 c.level ++ va.setWidth 52,
    c.word &&& 0x000fffffffffffff#64, faultWord3 (s.wave c.wave) 0], va)

/-- The record of a cause that ends or replays a launch posted; a denied request has posted its record already (R288, R289, R315).
(DEDUCED, log 112, unsafe.) -/
def postStop (c : Stop) (l : Launch) (s : State) : State :=
  if c.cause = Cause.notPresent ∨ c.cause = Cause.protection then s
  else
    let (words, va) := stopRecord s c l
    postTerminating l.env.tag words va c.access s

/-- A report of a damaged sector is still to be decided. -/
def reported (s : State) (sector : Nat) : Bool :=
  (s.agenda ++ s.parked).any (fun i => match i with | .poisonReport addr _ => eccSector addr == sector | _ => false)

/-- A damaged sector decided for a context (R322). -/
def decide' (sector : Nat) (tag : BitVec 8) (s : State) : State := { s with decided := s.decided ++ [(sector, tag)] }

/-- TERMINATING_CAUSE (R314): Table 19.5. A consumption of a sector that has been decided for the context adds no decision and no record
(R322): the launch ends with status 3. (DEDUCED, log 112, unsafe; DESIGN CHOICE, log 188, unsafe.) -/
def execTerminatingCause (launch : Nat) (s : State) : Result :=
  match find s.launches launch with
  | none => .next s
  | some l =>
    match l.stopCause with
    | none => .next s
    | some c =>
      if l.state == .ended then .next s
      else
        let w := s.wave c.wave
        let s := if l.team1 = 0 && w.launch = launch then
            { s with launches := change (fun l => { l with team1 := w.teamid }) s.launches launch } else s
        if c.cause = Cause.poison then
          match probe s l.env.tag c.va Access.read with
          | some a =>
            if s.decided.contains (eccSector a, l.env.tag) then .next (endLaunch launch 3 Cause.poison s)
            else if l.replayable && heldBefore s l (a / 65536) then
              if frameInUse s a [launch] then .next (park (.terminatingCause launch) s)
              else
                .next (replayLaunch launch (some a) (postStop c l (if reported s (eccSector a) then decide' (eccSector a) l.env.tag s else s)))
            else
              let s := terminateContext l.env.tag Cause.poison (fun x => some (stopRecord s c x)) s
              .next { s with agenda := s.agenda ++ [Instr.frameRetire (regionOf a == 1) (addrOf a / 65536) (1, none)] }
          | none => .next (terminateContext l.env.tag Cause.poison (fun x => some (stopRecord s c x)) s)
        else if l.anycause && l.replayable then .next (replayLaunch launch none (postStop c l s))
        else .next (endLaunch launch 3 c.cause (postStop c l s))

/-! ### Reports (R310, R322, R324) -/

/-- The record of a launch ended on a report (R324). (DEDUCED, log 156, unsafe.) -/
def reportRecord (addr : Nat) (l : Launch) : List W64 × W64 :=
  let pa : W64 := BitVec.ofNat 64 (addrOf addr / 32 * 32)
  ([faultWord0 Cause.poison 7 0 false false l.env.tag l.env.launchid, 0#10 ++ 3#2 ++ pa.setWidth 52, 0, 0], pa)

/-- POISON_REPORT (R310, R314, R322): an uncorrectable error in a dirty sector of a tile that carried a tag. The owner context's launches that
hold a snapshot of the page are replayed, once no other access to the frame is outstanding (R290, R315), or the context ends.
(DEDUCED, log 156, unsafe.) -/
def execPoisonReport (addr : Nat) (tag : Option (BitVec 8)) (s : State) : Result :=
  let retire := fun (s : State) => { s with agenda := s.agenda ++ [Instr.frameRetire (regionOf addr == 1) (addrOf addr / 65536) (1, tag)] }
  match tag with
  | none => .next (retire s)
  | some tag =>
    if !(s.context tag).active then .next (retire s)
    else if s.decided.contains (eccSector addr, tag) then .next s
    else
      let ls := (inFlightOf s tag).filter (fun e => e.2.snaps.any (fun x => x.page == addr / 65536))
      if !ls.isEmpty && ls.all (fun e => e.2.replayable && heldBefore s e.2 (addr / 65536)) then
        if frameInUse s addr (ls.map (·.1)) then .next (park (.poisonReport addr (some tag)) s)
        else
          .next (decide' (eccSector addr) tag (ls.foldl (fun (s : State) e =>
            let (words, va) := reportRecord addr e.2
            replayLaunch e.1 (some addr) (postTerminating tag words va 0 s)) s))
      else .next (retire (terminateContext tag Cause.poison (fun l => some (reportRecord addr l)) s))

/-! ### Pairs (R317, R318) -/

/-- A logged write performed at its homes (R119, R318): every copy of its lines goes, and poison that its computation meets is consumed
(R309). Nothing where a page it needs a copy of finds the snapshot pool full: its launch waits (R274). -/
def performLogged (k : Nat) (x : Access) (s : State) : Option State :=
  let w := s.wave k
  let locs := x.elems.flatMap (·.locs)
  (beforeWrite w.launch x.handle x.space.toNat (wroteLocs x.op (performElems x.op s.mem x.elems).2) s).map (fun s =>
    let s := ((locs.map lineOf).eraseDups).foldl (fun s l => invalidateNow l s) s
    let bad := consumedAt s x x.elems
    let (s, _) := applyWrite w x x.elems s
    match bad with
    | none => s
    | some va => stopLaunch w.launch ⟨Cause.poison, 0, x.op.cls, va, x.word, k, 0, false⟩ s)

/-- A log performed in its order, all of it or none (R317). -/
def performLog (k : Nat) : List Access → State → Option State
  | [], s => some s
  | x :: xs, s => (performLogged k x s).bind (performLog k xs)

/-- The log of a copy may be performed: no line of it is in use, and its home owns it (R119, R303). -/
def logFree (w : Wave) (s : State) : Bool := homeFree s (w.pairLog.flatMap (fun x => x.elems.flatMap (·.locs)))

/-- A copy waits at a comparison point with every earlier access of it performed or logged (R318). -/
def atPoint (w : Wave) : Bool := w.hold == .pair && w.pairOk == 0#2 && !w.speculative

/-- The signature of a copy at a comparison point: at the end of a transaction, over what it would commit as well (R317). -/
def Wave.pairSignature (w : Wave) : W64 :=
  match w.txn with
  | none => w.signature
  | some t => (t.winning (t.losers w.width)).foldl signWrite w.signature

/-- PAIR_COMPARISON (R318): two copies at a comparison point. Equal signatures perform copy A's log, and its word is executed
once; different ones replay the launch, or end it with status 3. (DEDUCED, log 63, safe; DEDUCED, log 151, unsafe.) -/
def execPairComparison (waveA : Nat) (waveB : Nat) (s : State) : Result :=
  let a := s.wave waveA
  let b := s.wave waveB
  if a.pair != some (waveB, true) || b.pair != some (waveA, false) || !atPoint a || !atPoint b then .next s
  else if a.pairSignature = b.pairSignature && !logFree a s then
    .next (askOwning (((a.pairLog.flatMap (fun x => x.elems.flatMap (·.locs))).map lineOf).eraseDups) s)
  else if a.pairSignature = b.pairSignature then
    match performLog waveA a.pairLog s with
    | none => .next s
    | some s =>
    let s := s.setWave waveA { s.wave waveA with pairLog := [], signature := 0, pairOk := 1, hold := .none }
    .next (s.setWave waveB { s.wave waveB with pairLog := [], signature := 0, pairOk := 2, hold := .none })
  else
    match find s.launches a.launch with
    | none => .next s
    | some l =>
      let c : Stop := ⟨Cause.poison, 0, 0, 0, a.a.pos.pc, waveA, 0, false⟩
      let (words, va) := stopRecord s c l
      let s := postTerminating l.env.tag words va 0 s
      if l.replays < l.maxrep then .next (replayLaunch a.launch none s) else .next (endLaunch a.launch 3 Cause.poison s)

end Sys2Proof.Machine
end

