-- ==== Sys2Proof/Machine/Doorbells.lean ====
section
/-! DEFINITION. The doorbell page of a context (R265, R273, R276, R278, R279, R330, R331): a write before S3 is dropped, one for
a context that is not active is ignored. -/

namespace Sys2Proof.Machine

/-- A doorbell write of a context: its effect, if it is accepted. (DEDUCED, log 113, unsafe.) -/
def doorbell (tag : BitVec 8) (effect : State → State) (s : State) : Result :=
  if !s.accepts 4 then .next { s with mgmt := { s.mgmt with dropped := true } }
  else if !(s.context tag).active then .next s
  else .next (effect s)

/-- A context's words changed. -/
def onContext (tag : BitVec 8) (f : Context → Context) (s : State) : State :=
  { s with contexts := change f s.contexts tag.toNat }

/-- A 32-bit word of a context's doorbell page as the host reads it (Table 17.3): what is not listed, or is written only, reads zero, and so
does the page of a tag that no active context holds (R329). No instruction of the device reads it. -/
def doorbellWord (c : Context) (offset : Nat) : W32 :=
  if !c.active then 0
  else if offset < 0x40 then look 0 c.lqtail (offset / 4)
  else if offset < 0x80 then look 0 c.lqhead (offset / 4 - 16)
  else if offset = 0x80 then c.admtail
  else if offset = 0x84 then c.admhead
  else if offset = 0x88 then c.cplhead
  else if offset = 0x8c then c.cpltail
  else 0

/-- Where a context's doorbell page lies in the host link's second memory BAR (R265). -/
def doorbellPage (tag : BitVec 8) : Nat := 4096 * tag.toNat

/-- LQTAIL (R265): a tail that moves backward, or on by more than the ring, deactivates the context with cause 0x01.
(DEDUCED, log 113, unsafe.) -/
def execLqtail (tag : BitVec 8) (level : Nat) (value : BitVec 32) (s : State) : Result :=
  doorbell tag (fun s =>
    let c := s.context tag
    let moved := (value - look 0 c.lqtail level).toNat
    if 16 ≤ level then s
    else if 2 ^ ((c.word 0).extractLsb' 0 4).toNat < moved then
      let s := postTerminating tag [faultWord0 Cause.illegal 7 0 false false tag 0, 0, 0, 0] 0 0 s
      terminateContext tag Cause.illegal (fun _ => none) s
    else onContext tag (fun c => { c with lqtail := put 0 c.lqtail level value }) s) s

/-- GRDARM (R273). -/
def execGrdarm (tag : BitVec 8) (slot : BitVec 8) (s : State) : Result := doorbell tag (armGuard tag slot) s

/-- GRDSET_DOORBELL (R273). -/
def execGrdsetDoorbell (tag : BitVec 8) (slot : BitVec 8) (value : Bool) (s : State) : Result :=
  doorbell tag (resolveGuard tag slot value) s

/-- ADMTAIL (R276). -/
def execAdmtail (tag : BitVec 8) (value : BitVec 32) (s : State) : Result :=
  doorbell tag (fun s => wakeDistaff tag (onContext tag (fun c => { c with admtail := value }) s)) s

/-- CPLHEAD (R279): entries that waited for room are written. -/
def execCplhead (tag : BitVec 8) (value : BitVec 32) (s : State) : Result :=
  doorbell tag (fun s =>
    let s := onContext tag (fun c => { c with cplhead := value }) s
    wakeDistaff tag (flushCompletions tag (s.distaffOf tag).pending.length s)) s

/-- CANCEL (R278): the sequence ends at the test of the step that runs. -/
def execCancel (tag : BitVec 8) (seq : BitVec 32) (s : State) : Result :=
  doorbell tag (fun s =>
    if owns s tag seq && !(s.distaffOf tag).cancels.contains seq then
      onDistaff tag (fun d => { d with cancels := d.cancels ++ [seq] }) s
    else s) s

end Sys2Proof.Machine
end

