-- ==== Sys2Proof/Machine/Preempt.lean ====
section
/-! DEFINITION. Pre-emption (R292 to R299): a team stopped, saved into a block of its context's save area, sealed when its last
result is in, and restored on another core. A saved team's waves go on in the state under keys of their own; the block holds
the image that Tables 18.6 to 18.8 lay out. -/

namespace Sys2Proof.Machine

/-! ### Stopping (R292, R293) -/

/-- The waves of a team with their keys. -/
def teamWaves (s : State) (team : Nat) : List (Nat × Wave) :=
  s.allWaves.filter (fun e => e.2.team == team && e.2.station != .vacant)

/-- PREEMPTION_REQUEST (R292, R293, R295): no wave of the team starts a clause, and one that is blocked stops where it stands. A
second request joins the first; a team whose block the save area cannot hold is not chosen, but for a context that is deactivated. -/
def execPreemptionRequest (team : Nat) (s : State) : Result :=
  match find s.teams team with
  | none => .next s
  | some t =>
    match find s.launches t.launch with
    | none => .next s
    | some l =>
      if t.halting || t.saved || (!roomBeside s l.env.tag [] (blockUnits l.demand) && !(s.context l.env.tag).closing) then .next s
      else
        let s := { s with teams := change (fun t => { t with halting := true }) s.teams team }
        .next ((teamWaves s team).foldl (fun (s : State) e =>
          if e.2.hold != .none && e.2.pend.isNone then
            { s.setWave e.1 { e.2 with halted := true } with holders := freeSlots e.2 s.holders }
          else s) s)

/-- A wave that a pre-emption finds where it may stop: blocked, between clauses, or asleep. (DEDUCED, log 124, safe.) -/
def Wave.atRest (w : Wave) : Bool := w.halted || !w.a.pos.inClause || w.station == .asleep

/-- A stopped wave loses its run-ahead: its transaction aborts with code 6, or it rolls back uncounted (R130, R293).
(DEDUCED, log 125, safe.) -/
def undoAhead (k : Nat) (s : State) : State :=
  let w := s.wave k
  let s := if w.txn.isSome then abortTxn k 6 s else if w.speculative then rollback k false s else s
  s.setWave k { s.wave k with halted := true }

/-- A halted team with no access left to perform and no matrix operation whose rows are all written (R227, R293, R294).
(DEDUCED, log 90, 125, safe.) -/
def teamQuiet (s : State) (team : Nat) : Bool :=
  teamStopped s team && (teamWaves s team).all (fun e => e.2.accesses.all (fun x => !x.op.writes) && e.2.matrix.all (fun m => !m.started))

/-! ### Keys -/

/-- The key a saved wave stands under: beyond every slot's. (DEDUCED, log 152, safe.) -/
def savedKey (team wid : Nat) : Nat := 32768 + 96 * team + wid

/-- The number of a saved wave's place, which makes its key its own. -/
def savedSlot (w : Wave) : Nat := savedKey w.team w.wid - waveKey w.core w.quarter 0

/-- Every mention of some waves follows them to new keys. (DEDUCED, log 152, safe.) -/
def rekey (moves : List (Nat × Nat)) (s : State) : State :=
  let at' := fun (k : Nat) => (find moves k).getD k
  let s := s.mapWaves (fun _ w => { w with pair := w.pair.map (fun p => (at' p.1, p.2)) })
  { s with
    cores := mapEntries (fun _ c => { c with
      spindle := c.spindle.map (fun x => { x with wave := at' x.wave })
      trans := mapEntries (fun _ q => q.map (fun x => { x with wave := at' x.wave })) c.trans }) s.cores
    carders := mapEntries (fun _ q => q.map (fun x => { x with wave := at' x.wave })) s.carders
    distaff := s.distaff.map (fun x => { x with wave := at' x.wave })
    tlbinvs := s.tlbinvs.map (fun x => { x with wave := at' x.wave, waits := x.waits.map (fun p => (at' p.1, p.2)) })
    egress := s.egress.map (fun x => { x with wave := at' x.wave })
    teams := mapEntries (fun _ t => { t with commands := t.commands.map (fun x => { x with wave := at' x.wave }) }) s.teams
    launches := mapEntries (fun _ l => { l with stopCause := l.stopCause.map (fun c => { c with wave := at' c.wave }) }) s.launches
    whorls := mapEntries (fun _ h => { h with hold := h.hold.map (fun p => (at' p.1, p.2)) }) s.whorls }

/-- A wave moved from one key to another. -/
def moveWave (old new : Nat) (w : Wave) (s : State) : State := (s.setWave old Wave.vacant).setWave new w

/-! ### The image of a team (R296, R297) -/

/-- Some bytes in a field of fixed size. -/
def fieldOf (n : Nat) (bs : List Byte) : List Byte := (bs ++ List.replicate n 0).take n

/-- 64-bit words as bytes. -/
def bytesOfWords (ws : List W64) : List Byte := ws.flatMap (fun x => bytesOfNat x.toNat 8)

/-- Six-bit codes, the first lowest (R63). -/
def packCodes (cs : List (BitVec 6)) : Nat := cs.foldr (fun c n => c.toNat + 64 * n) 0

/-- The words of a place in the code (Table 18.8, 0x000 to 0x01f). -/
def clauseWord (p : CodePos) : W64 :=
  p.header ++ BitVec.ofNat 4 p.index ++ p.residue.pattern ++ BitVec.ofNat 4 p.residue.left ++ 0#16
def codeWords (p : CodePos) : List W64 :=
  [(p.pc &&& 0x000ffffffffffffc#64) ||| (if p.inClause then 2#64 else 0), clauseWord p, p.residue.thenSet, p.residue.elseSet]

/-- The wave control words (Table 18.8). (DESIGN CHOICE, log 128, unsafe.) -/
def controlBytes (s : State) (w : Wave) : List Byte :=
  let words := codeWords w.a.pos ++
    [w.a.exec, w.a.flNv, w.a.flDz, w.a.flOf, w.a.flUf, w.a.flNx, w.fte.setWidth 64, w.rmode.setWidth 64,
      { w with mode := 0, holds := [] }.specmode, { w with consec := 0 }.specrb, w.txstat, w.gang, w.mprog] ++
    (List.range 8).map (fun i => BitVec.ofNat 64 (w.count i)) ++
    (List.range 5).map (fun i => (sprValue s w (0x010 + i)).getD 0) ++
    [clauseWord w.trpos, w.trpos.residue.thenSet, w.trpos.residue.elseSet, w.deadline]
  let arrives := (List.range 32).flatMap (fun b =>
    let own := look 0 w.arrives (2 * b)
    let column := look 0 w.arrives (2 * b + if w.twin && w.core % 2 = 1 then 65 else 1)
    bytesOfNat (if own = 0 then column else own) 4)
  fieldOf 0x180 (bytesOfWords words) ++ fieldOf 128 arrives

/-- Iterations that one turn of loop `j` takes, and a loop's index as it is saved: the outermost counts on, so that a nest that is done shows. -/
def QueuePort.below (q : QueuePort) (j : Nat) : Nat := ((List.range j).map q.trip).foldl (· * ·) 1
def QueuePort.savedIndex (q : QueuePort) (it j : Nat) : Nat :=
  if q.loops ≤ j then 0 else if j + 1 = q.loops then it / q.below j else q.index it j

/-- A QBIND group with its loop indices: of the next iteration to issue, above that of the next to leave.
(DESIGN CHOICE, log 128, unsafe.) -/
def queueBytes (q : QueuePort) : List Byte :=
  bytesOfWords ((List.range 6).map q.word ++ (List.range 4).map (fun j =>
    if q.bound then BitVec.ofNat 32 (q.savedIndex q.issued j) ++ BitVec.ofNat 32 (q.savedIndex q.gone j) else 0))

/-- A row's state, and its chain buffer. -/
def rowBytes (x : RowState) : List Byte :=
  bytesOfNat (BitVec.ofInt 32 x.m).toNat 4 ++ bytesOfNat x.l.toNat 4 ++ bytesOfNat (BitVec.ofInt 16 x.off0).toNat 2 ++
    bytesOfNat (BitVec.ofInt 16 x.off1).toNat 2 ++ [0, 0, 0, 0]
def chainBytes (x : RowState) : List Byte := bytesOfNat (packCodes x.codes0) 48 ++ bytesOfNat (packCodes x.codes1) 48

/-- A matrix queue entry, an attention record and a Spindle command, their parts in the order Table 18.7 lists.
(DESIGN CHOICE, log 127, unsafe.) -/
def matrixBytes (open' : Bool) (m : MatrixOp) : List Byte :=
  fieldOf 64 (bytesOfWords [m.inst, m.aPtr, m.bPtr, if open' then 1 else 0] ++ m.srcs.flatMap (fun x => bytesOfNat x.2.toNat 4))
def tripleBytes (t : Triple) : List Byte :=
  bytesOfNat (BitVec.ofInt 32 t.m).toNat 4 ++ bytesOfNat t.l.toNat 4 ++ t.o.flatMap (fun x => bytesOfNat x.toNat 4)
def sampleWords (x : SlabSample) : List W64 :=
  [x.desc, x.base, x.oldbase, x.newbase, BitVec.ofNat 64 x.length, BitVec.ofNat 32 x.cap ++ x.gen]
/-- DESIGN CHOICE, log 127, unsafe. -/
def attnBytes (op : AttnOp) : List Byte :=
  fieldOf 4352 (bytesOfWords [op.inst, op.ptr, op.range] ++ op.queries.flatMap (fun q => q.flatMap (fun x => bytesOfNat x.toNat 4)) ++
    (match op.sample with | some x => bytesOfWords (sampleWords x) | none => []) ++
    (op.partials.headD []).flatMap tripleBytes ++ bytesOfNat (op.whorls.foldl (fun m i => m + 2 ^ i) 0) 2)
def commandBytes (c : SpindleCmd) : List Byte := fieldOf 64 (bytesOfWords ([c.inst, c.dst, c.src] ++ c.params ++ [BitVec.ofNat 64 c.progress]))

/-- Bytes of a wave block: 0x6000 + 4·W·V rounded up to 4 KiB (R296). -/
def waveBlockBytes (d : Demand) : Nat := (0x6000 + 4 * d.width * d.vregs + 4095) / 4096 * 4096

/-- A wave block (Table 18.7): of a wave, or, retired, of none. (DESIGN CHOICE, log 127, unsafe.) -/
def waveBytes (s : State) (d : Demand) (cmds : List SpindleCmd) (k : Nat) (w : Wave) : List Byte :=
  fieldOf (waveBlockBytes d) (
    controlBytes s w ++
    fieldOf 64 (bytesOfNat (~~~w.a.emptyV).toNat 16 ++ bytesOfNat (~~~w.a.emptyS).toNat 16) ++
    bytesOfWords ((List.range 16).map (fun i => (w.a.stream (i / 4)).words (i % 4))) ++
    (List.range 4).flatMap (fun q => queueBytes (w.a.queue q)) ++
    (List.range 16).flatMap (fun r => rowBytes (w.row r)) ++
    (List.range 16).flatMap (fun r => chainBytes (w.row r)) ++
    fieldOf 512 (w.matrix.flatMap (fun m => matrixBytes (guardOpen s k m.seq) m)) ++
    fieldOf 17408 (w.attn.flatMap attnBytes) ++
    fieldOf 2048 ((cmds.filter (fun c => c.wave == k)).flatMap commandBytes) ++
    (List.range 128).flatMap (fun i => bytesOfNat (if w.badS i then 0 else (w.a.getS i).toNat) 8) ++
    List.replicate 768 0 ++
    (List.range w.vregs).flatMap (fun i => (List.range w.width).flatMap (fun t => bytesOfNat (w.a.getV i t).toNat 4)))

/-- A barrier instance's twelve bytes (Table 18.6). -/
def barrierBytes (b : Barrier) : List Byte :=
  let counts := fun (xs : List Nat) => (List.range 4).map (fun i => BitVec.ofNat 8 (xs.getD i 0))
  bytesOfNat b.ended 4 ++ counts b.arrived ++ counts b.latched

/-- Barrier `b` of a team for the first table of the header, and its column-1 instance for the second. -/
def headerBarrier (t : Team) (b : Nat) : Barrier :=
  match find t.barriers (2 * b) with
  | some x => x
  | none => look Barrier.fresh t.barriers (2 * b + 1)

/-- The team block header (Table 18.6). (DESIGN CHOICE, log 127, unsafe.) -/
def headerBytes (t : Team) (l : Launch) : List Byte :=
  let d := l.demand
  let words : List W64 :=
    [t.teamid ++ l.env.launchid,
      0#31 ++ BitVec.ofBool t.twin ++ BitVec.ofNat 8 d.waves ++ BitVec.ofNat 8 d.vregs ++ BitVec.ofNat 8 d.sregs ++ BitVec.ofNat 8 d.width,
      (BitVec.ofBool t.sealed).setWidth 64, BitVec.ofNat 64 t.core, t.stopped.getD 0]
  fieldOf 0x400 (fieldOf 0x40 (bytesOfWords words) ++
    (List.range 32).flatMap (fun b => barrierBytes (headerBarrier t b)) ++
    (if t.twin then (List.range 32).flatMap (fun b => barrierBytes (look Barrier.fresh t.barriers (2 * b + 65))) else []))

/-- A block's bytes: the header, then a block for each wave, a retired one marked halted. (DESIGN CHOICE, log 127, unsafe.) -/
def blockBytes (s : State) (team : Nat) (t : Team) (l : Launch) : List Byte :=
  headerBytes t l ++ (List.range l.demand.waves).flatMap (fun wid =>
    match memberOf s team wid with
    | some k => waveBytes s l.demand t.commands k (s.wave k)
    | none => fieldOf (waveBlockBytes l.demand) [1])

/-- Bytes stored through a context, a unit of 64 KiB at a time. (DEDUCED, log 129, safe.) -/
def storeUnits (tag : BitVec 8) : Nat → W64 → List Byte → State → State
  | 0, _, _, s => s
  | fuel + 1, va, bs, s =>
    if bs.isEmpty then s
    else
      let s := match walk s (s.context tag) va Access.write with
        | .ok leaf entry large =>
          homeWrite (some tag) (cellsAt (leafLoc leaf large va) (bs.take 65536)) ((orEntry tag entry (usedBits true) s).getD s)
        | .fail _ _ _ => s
      storeUnits tag fuel (va + 65536) (bs.drop 65536) s

/-- The address of a unit of a context's save area (R295). -/
def unitAddress (s : State) (tag : BitVec 8) (unit : Nat) : W64 := (s.context tag).word 4 + BitVec.ofNat 64 (65536 * unit)

/-- Units of a save area that cannot be read or written, as translations that fail. -/
def unitFaults (s : State) (tag : BitVec 8) (block : Nat × Nat) (access : BitVec 2) : List (Nat × W64 × BitVec 8 × Nat × Bool) :=
  (List.range block.2).filterMap (fun i =>
    let va := unitAddress s tag (block.1 + i)
    match walk s (s.context tag) va access with
    | .ok _ _ _ => none
    | .fail cause level large => some (64, va, cause, level, large))

/-- The lines of some units that other traffic uses, and the entries that translate them: a write there waits (R303). -/
def unitsHeld (s : State) (tag : BitVec 8) (block : Nat × Nat) : List Nat :=
  (List.range block.2).flatMap (fun i =>
    match walk s (s.context tag) (unitAddress s tag (block.1 + i)) Access.write with
    | .ok leaf entry large =>
      (lineOf entry :: (List.range 512).map (lineOf (leafLoc leaf large (unitAddress s tag (block.1 + i))) + ·)).filter (lineHeld s)
    | .fail _ _ _ => [])

/-- A team's block is written by its core's Spindle once every unit of it has a translation and its lines are free; until then what the
Spindle meets is posted (agent 3) and the save waits (R294, R341). (DEDUCED, log 129, safe.) -/
def withUnits (team : Nat) (l : Launch) (block : Nat × Nat) (k : State → State) (s : State) : State :=
  let first := ((teamWaves s team).map (·.1)).headD 0
  match unitFaults s l.env.tag block Access.write with
  | [] =>
    let held := unitsHeld s l.env.tag block
    if held.isEmpty then k s else askOwning held s
  | fs => engineFault 3 (s.wave first) 0 Access.write fs s

/-- A saved team's block written. -/
def writeBlock (team : Nat) (s : State) : State :=
  match find s.teams team with
  | none => s
  | some t =>
    match find s.launches t.launch with
    | none => s
    | some l => storeUnits l.env.tag (t.block.2 + 1) (unitAddress s l.env.tag t.block.1) (blockBytes s team t l) s

/-! ### Saving (R294) -/

/-- A wave as it is saved: it holds no slot, its ports hold nothing fetched, its attention operations one merged triple. -/
def savedForm (free : Nat) (w : Wave) : Wave :=
  let w := w.dropFetches (fun x => x.path != 6)
  let merge := fun (ps : List (List Triple)) =>
    (List.range (ps.length - 1)).foldl (fun (r : List (List Triple)) i => mergePair (free + 2 * i) r) ps
  { w with
    station := .saved, slot := savedSlot w, ran := 0, rest := false, promoted := false, mode := modeAfterRelease w.force
    consec := 0, holds := []
    hold := (match w.hold with | .barrier i p => .barrier i p | .open4 i => .open4 i | _ => .none)
    attn := w.attn.map (fun op => { op with partials := merge op.partials, formed := [] })
    matrix := w.matrix.map (fun op => { op with brows := none })
    a := { w.a with
      queues := mapEntries (fun i q => if i < 2 then { q with issued := q.gone } else q) w.a.queues } }

/-- A scratch tile of a team. -/
def scratchTile (team : Nat) (t : Tile) : Bool := regionOf (t.tile * 4096) / 2 == 2 ^ 45 + team

/-- A team's dirty scratch sectors written back (R294). -/
def writeBackTeam (team : Nat) (s : State) : State :=
  (s.whorls.flatMap (fun e => e.2.tiles.filter (scratchTile team))).foldl (fun s t => writeBack t s) s

/-- A team's scratch tiles unpinned and clean where they stand. -/
def cleanScratch (team : Nat) (h : Whorl) : Whorl :=
  { h.mapTiles (fun t => if scratchTile team t then { t with pin := none, scratch := false, dirty := 0 } else t) with
    waitPin := h.waitPin.filter (fun t => !scratchTile team t.2) }

/-- A stopped team saved: its block allocated, its engines' entries taken, its waves out of their slots, the image written.
(DEDUCED, log 125, safe; DEDUCED, log 126, unsafe.) -/
def saveTeam (team unit : Nat) (l : Launch) (s : State) : State :=
  let tag := l.env.tag
  let units := blockUnits l.demand
  let waves := teamWaves s team
  let mine := fun (k : Nat) => waves.any (fun e => e.1 == k)
  let commands := s.cores.flatMap (fun c => c.2.spindle.filter (fun x => mine x.wave))
  let s := writeBackTeam team s
  let s := { s with
    teams := change (fun t => { t with saved := true, sealed := false, block := (unit, units), commands := commands.map (fun c => { c with asked := false, sent := false }) }) s.teams team
    cores := mapEntries (fun _ c => { c with
      spindle := c.spindle.filter (fun x => !mine x.wave)
      held := c.held.filter (fun e => !e.2.any (fun h => h.team == team)) }) s.cores
    whorls := mapEntries (fun _ h => cleanScratch team h) s.whorls }
  let s := dropPins tag s
  let s := waves.foldl (fun (s : State) e =>
    let s := releaseHolds e.1 s
    let w := s.wave e.1
    let s := { s with holders := freeSlots w s.holders, free := s.free + 2 * 32 * w.attn.length }
    moveWave e.1 (savedKey team w.wid) (savedForm s.free w) s) s
  let s := rekey (waves.map (fun e => (e.1, savedKey team e.2.wid))) s
  let s := writeUnits tag ((List.range units).map (unit + ·)) s
  let s := writeBlock team s
  { s with agenda := s.agenda ++ [Instr.teamPlacement] }

/-- A team's issued transcendental words are complete, and its traps have entered their handlers (R293, Table 18.9). -/
def teamStill (s : State) (team : Nat) : Bool :=
  (teamWaves s team).all (fun e => e.2.pend.isNone) && s.cores.all (fun c => c.2.trans.all (fun q => q.2.all (fun x => (s.wave x.wave).team != team)))

/-- The halt of a team (R293): what its waves run ahead with is undone, and, once its words at the transcendental units are complete and its
traps have been taken, the team is halted and the time is taken (Table 18.6). -/
def haltTeam (team : Nat) (s : State) : State :=
  let s := (teamWaves s team).foldl (fun s e => undoAhead e.1 s) s
  if teamStopped s team || !teamStill s team then s
  else
    let s := advanceNanotime s
    { s with teams := change (fun t => { t with stopped := some s.nanotime }) s.teams team }

/-- A stopped team of a context that is deactivated, for whose block there is no room, leaves without being saved.
(DEDUCED, log 175, safe.) -/
def leaveUnsaved (team : Nat) (s : State) : State :=
  dropTeam team ((teamWaves s team).foldl (fun s e => dropWave e.1 s) s)

/-- TEAM_SAVE (R293, R294): once every wave of the team has stopped, their run-ahead is undone; once what is left of their
stores is performed and the units are done with them, the team is saved and its core's resources are free.
(DEDUCED, log 90, 125, safe.) -/
def execTeamSave (team : Nat) (s : State) : Result :=
  match find s.teams team with
  | none => .next s
  | some t =>
    match find s.launches t.launch with
    | none => .next s
    | some l =>
      if !t.halting || t.saved || l.stopCause.isSome || !(teamWaves s team).all (fun e => e.2.atRest || e.2.pend.isSome) then .next s
      else
        let s := haltTeam team s
        if !teamQuiet s team then .next s
        else
          match freeUnits s l.env.tag (blockUnits l.demand) with
          | none => .next (if (s.context l.env.tag).closing then leaveUnsaved team s else s)
          | some unit => .next (withUnits team l (unit, blockUnits l.demand) (saveTeam team unit l) s)

/-- Every operation of a saved wave outside its saved queues is complete: nothing is left to write into its image.
(DEDUCED, log 129, safe.) -/
def Wave.settled (w : Wave) : Bool :=
  w.accesses.isEmpty && w.producers.isEmpty && [0, 1, 5, 6, 7].all (fun p => w.count p == 0)

/-- SAVE_SEAL (R294): results that have come in are in the image, and with the last of them the block is sealed.
(DEDUCED, log 129, safe.) -/
def execSaveSeal (team : Nat) (s : State) : Result :=
  match find s.teams team with
  | none => .next s
  | some t =>
    if !t.saved || t.sealed then .next s
    else
      match find s.launches t.launch with
      | none => .next s
      | some l =>
        .next (withUnits team l t.block (fun s =>
          writeBlock team (if (teamWaves s team).all (fun e => e.2.settled) then
            { s with teams := change (fun t => { t with sealed := true }) s.teams team, agenda := s.agenda ++ [Instr.teamPlacement] }
          else s)) s)

/-! ### Restoring (R298) -/

/-- A saved wave on its new core: ready at its saved place, asleep until its deadline, or at its barrier.
(DEDUCED, log 130, unsafe.) -/
def restoredForm (s : State) (core : Nat) (w : Wave) : Wave :=
  let place := quarterOfWid w.twin w.wid
  let c := core + place / 4
  { w with
    station := if w.deadline = 0 then .live else .asleep, core := c, quarter := place % 4, slot := vacantSlot s c (place % 4)
    halted := false, lastIssue := s.clockOf c }

/-- The copies of a team's scratch tiles at a home they have left. -/
def dropScratchTiles (team whorl : Nat) (s : State) : State :=
  let h := s.whorl whorl
  (h.tiles.filter (scratchTile team)).foldl (fun s t => evictTile whorl t.tile s)
    (s.onWhorl whorl (fun _ => { h.dropTiles (scratchTile team) with
      evicting := h.evicting, leaving := h.leaving ++ (h.tiles.filter (scratchTile team)).map (fun t => Leaving.mk t 0 0) }))

/-- A 64-bit word of a saved team's block, by its offset from the block's first unit. -/
def blockWord (s : State) (tag : BitVec 8) (unit off : Nat) : W64 :=
  match probe s tag (unitAddress s tag (unit + off / 65536)) Access.read with
  | some loc => readD s.mem (loc + off % 65536)
  | none => 0

/-- A place in the code as a block holds its clause (Table 18.8): header, index and prefix residue. -/
def CodePos.fromBlock (p : CodePos) (clause thenSet elseSet : W64) : CodePos :=
  { p with
    header := clause.extractLsb' 32 32, index := (clause.extractLsb' 28 4).toNat
    residue := ⟨thenSet, elseSet, clause.extractLsb' 20 8, (clause.extractLsb' 16 4).toNat⟩ }

/-- A stream port and a queue as a block holds them (Tables 5.6, 18.7). -/
def StreamPort.fromBlock (p : StreamPort) (word : Nat → W64) : StreamPort :=
  { p with
    bound := (word 0).getLsbD 63, dir := (word 0).getLsbD 62, size := (word 0).extractLsb' 60 2, handle := (word 0).extractLsb' 40 8
    base := (word 0).extractLsb' 0 40, tstride := (word 1).extractLsb' 32 32, sstride := word 2, count := (word 3).extractLsb' 32 32
    step := (word 3).extractLsb' 0 32 }
def QueuePort.fromBlock (q : QueuePort) (word : Nat → W64) : QueuePort :=
  if !q.bound then q
  else
    let q := { q with group := (List.range 6).map word }
    let iteration := fun (lo : Nat) =>
      ((List.range q.loops).map (fun j => ((word (6 + j)).extractLsb' lo 32).toNat * q.below j)).foldl (· + ·) 0
    { q with issued := iteration 32, gone := iteration 0 }

/-- The state of a row and its chain buffer as a block holds them (Table 18.7). -/
def RowState.fromBlock (state chain : List Byte) : RowState :=
  let codes := fun (bs : List Byte) => (Element.t6.codes bs).map (BitVec.ofNat 6)
  let number := fun (lo n : Nat) => BitVec.ofNat (8 * n) (natOfBytes ((state.drop lo).take n))
  ⟨(number 0 4).toInt, (number 4 4).setWidth 32, (number 8 2).toInt, (number 10 2).toInt, codes (chain.take 48), codes (chain.drop 48)⟩

/-- A wave as its block holds it (Tables 18.7, 18.8): its control words, full/empty bits, ports, row state and registers. The entries of its
engines, whose parts Table 18.7 names and does not place, and what the block does not hold come from the state.
(DESIGN CHOICE, log 127, unsafe.) -/
def fromBlock (s : State) (tag : BitVec 8) (unit : Nat) (d : Demand) (w : Wave) : Wave :=
  let at' := 0x400 + w.wid * waveBlockBytes d
  let word := fun (off : Nat) => blockWord s tag unit (at' + off)
  let bytes := fun (off n : Nat) => ((List.range (n / 8)).flatMap (fun i => bytesOfNat (word (off + 8 * i)).toNat 8))
  let pc := word 0
  let a := { w.a with
    pos := { w.a.pos.fromBlock (word 8) (word 0x10) (word 0x18) with pc := pc &&& 0x000ffffffffffffc#64, inClause := pc.getLsbD 1 }
    exec := word 0x20, flNv := word 0x28, flDz := word 0x30, flOf := word 0x38, flUf := word 0x40, flNx := word 0x48
    emptyV := ~~~(word 0x208 ++ word 0x200), emptyS := ~~~(word 0x218 ++ word 0x210) }
  let a := (List.range 4).foldl (fun (a : Arch) i => a.setStream i ((w.a.stream i).fromBlock (fun j => word (0x240 + 32 * i + 8 * j)))) a
  let a := (List.range 4).foldl (fun (a : Arch) i => a.setQueue i ((w.a.queue i).fromBlock (fun j => word (0x2c0 + 80 * i + 8 * j)))) a
  let a := ((List.range 128).filter (fun i => !w.badS i)).foldl (fun (a : Arch) i => a.setS i (word (0x5900 + 8 * i))) a
  let a := (List.range (w.vregs * w.width / 2)).foldl (fun (a : Arch) j =>
    let x := word (0x6000 + 8 * j)
    (a.setV (2 * j / w.width) (2 * j % w.width) (x.setWidth 32)).setV ((2 * j + 1) / w.width) ((2 * j + 1) % w.width) (x.extractLsb' 32 32)) a
  let arrives := (List.range 32).foldl (fun (m : SMap Nat) b =>
    let n := ((word (0x180 + 4 * b / 8 * 8)).extractLsb' (32 * (b % 2)) 32).toNat
    let column := if w.twin && w.core % 2 = 1 then 2 * b + 65 else 2 * b + 1
    if look 0 m (2 * b) = 0 && look 0 m column != 0 then put 0 m column n else put 0 m (2 * b) n) w.arrives
  let w := (List.range 16).foldl (fun (w : Wave) r => w.setRow r (RowState.fromBlock (bytes (0x400 + 16 * r) 16) (bytes (0x500 + 96 * r) 96))) w
  { w with
    a := a, arrives := arrives
    fte := (word 0x50).setWidth 5, rmode := (word 0x58).setWidth 2, force := (word 0x60).getLsbD 8, total := (word 0x68).setWidth 32
    txUser := (word 0x70).extractLsb' 40 8, txCode := (word 0x70).extractLsb' 32 3, txAborts := (word 0x70).extractLsb' 16 16
    gang := word 0x78, mprog := word 0x80
    trcause := word 0xc8, trpc := word 0xd0, trmask := word 0xd8, trinst := word 0xe0, trexec := word 0xe8
    trpos := w.trpos.fromBlock (word 0xf0) (word 0xf8) (word 0x100), deadline := word 0x108 }

/-- A barrier instance as a block holds it, and a team's instances (Table 18.6). -/
def barrierFrom (word : Nat → Nat) (off : Nat) : Barrier :=
  let counts := fun (n : Nat) => (List.range 4).map (fun i => n / 256 ^ i % 256)
  ⟨word off, counts (word (off + 4)), counts (word (off + 8))⟩
def barriersFrom (s : State) (tag : BitVec 8) (unit : Nat) (t : Team) : SMap Barrier :=
  let word := fun (off : Nat) => ((blockWord s tag unit (off / 8 * 8)).extractLsb' (8 * (off % 8)) 32).toNat
  (List.range 32).foldl (fun (m : SMap Barrier) b =>
    let key := if (find t.barriers (2 * b)).isSome then 2 * b else 2 * b + 1
    let m := if (find t.barriers key).isSome then ins m key (barrierFrom word (0x40 + 12 * b)) else m
    if t.twin && (find t.barriers (2 * b + 65)).isSome then ins m (2 * b + 65) (barrierFrom word (0x1c0 + 12 * b)) else m) t.barriers

/-- The poisoned sector of a block that is read first. -/
def blockPoison (s : State) (tag : BitVec 8) (t : Team) : Option W64 :=
  (List.range t.block.2).findSome? (fun i =>
    let va := unitAddress s tag (t.block.1 + i)
    (probe s tag va Access.read).bind (fun loc =>
      ((List.range 2048).find? (fun j => anyPoison s [loc + 32 * j])).map (fun j => va + BitVec.ofNat 64 (32 * j))))

/-- The block is read by a Spindle through its context (R298 step 1), or what that meets: its pages are awaited (agent 3), or its poison is
consumed. There is no issuing word: the record has 0 for it and names the team's first wave. (DESIGN CHOICE, log 192, unsafe.) -/
def readBlock (team : Nat) (t : Team) (l : Launch) (k : State → Result) (s : State) : Result :=
  let tag := l.env.tag
  let first := ((teamWaves s team).map (·.1)).headD 0
  match unitFaults s tag t.block Access.read with
  | [] =>
    (match blockPoison s tag t with
     | some va => .next (engineStop first t.launch 3 Access.read Cause.poison va 0 s)
     | none => k s)
  | fs => .next (engineFault 3 (s.wave first) 0 Access.read fs s)

/-- TEAM_RESTORE (R298): a sealed team, its block read, on a core where it fits; its engines' entries re-enter in saved order and its block
is freed. (DEDUCED, log 130, unsafe.) -/
def execTeamRestore (team : Nat) (core : Nat) (s : State) : Result :=
  match find s.teams team with
  | none => .next s
  | some t =>
    match find s.launches t.launch with
    | none => .next s
    | some l =>
      if !t.saved || !t.sealed || !(spots s l.env.part.toNat l.demand).contains core || !fitsWithout s [] l.demand core then .next s
      else
        readBlock team t l (fun s =>
          let waves := (teamWaves s team).map (fun e => (e.1, fromBlock s l.env.tag t.block.1 l.demand e.2))
          let barriers := barriersFrom s l.env.tag t.block.1 t
          let s := if t.core / 24 = core / 24 then s else dropScratchTiles team (t.core / 24) s
          let s := wakeCores core t.twin (freeBlock team s)
          let (s, moves) := waves.foldl (fun (r : State × List (Nat × Nat)) e =>
            let w := restoredForm r.1 core e.2
            (moveWave e.1 w.key w r.1, r.2 ++ [(e.1, w.key)])) (s, [])
          let s := rekey moves s
          let commands := match find s.teams team with | some t => t.commands | none => []
          let s := commands.foldl (fun (s : State) c =>
            s.onCore (s.wave c.wave).core (fun x => { x with spindle := x.spindle ++ [c] })) s
          .next { s with
            teams := change (fun t => { t with
              core := core, halting := false, saved := false, sealed := false, commands := [], age := s.cycle, stopped := none, barriers := barriers }) s.teams team }) s

end Sys2Proof.Machine
end

