-- ==== Sys2Proof/Machine/Islands.lean ====
section
/-! DEFINITION. Voltage and frequency islands, power and temperature (R12, R13, R336), and the refresh of the outer turns (R305,
R306, R308, R311). Frequencies are in half megahertz, so that a step of 12.5 MHz is 25. -/

namespace Sys2Proof.Machine

/-! ### Frequencies (R336) -/

/-- How many islands a class has (Table 22.6), and its limits (Table 22.5). Input/output and miscellaneous islands, which have no class code,
are the model's class 5: their frequency is fixed by their protocols. (DESIGN CHOICE, log 146, unsafe.) -/
def islandCount (cls : Nat) : Nat :=
  if cls ≤ 1 then 384 else if cls = 2 then 16 else if cls = 3 then 128 else if cls = 4 then 64 else if cls = 5 then 48 else 0
/-- DESIGN CHOICE, log 146, unsafe. -/
def islandFloor (cls : Nat) : Nat := if cls ≤ 1 then 260 else 1300
/-- DESIGN CHOICE, log 146, unsafe. -/
def islandTop (cls : Nat) : Nat := if cls = 3 then 2600 else 3000

/-- The highest frequency of a class within a bound: a multiple of 12.5 MHz for cores and matrix units, or its lowest.
(DESIGN CHOICE, log 146, unsafe.) -/
def bestFreq (cls bound : Nat) : Nat :=
  let f := min bound (islandTop cls)
  max (islandFloor cls) (if cls ≤ 1 then f / 25 * 25 else f)

/-- An island of a core with nothing to do may be gated. -/
def islandEmpty (s : State) (cls index : Nat) : Bool :=
  decide (cls ≤ 1) && !s.allWaves.any (fun e => e.2.core == index && e.2.station != .vacant && e.2.station != .saved &&
    (cls == 0 || !e.2.matrix.isEmpty))

/-- ISLAND_CONTROL_LOOP (R336): the highest frequency within the droop margin, the class cap and the share of the power limit; no
higher than it was while the module draws more than the limit. -/
def execIslandControlLoop (cls : BitVec 4) (index : Nat) (droopMHz : Nat) (shareMHz : Nat) (s : State) : Result :=
  let c := cls.toNat
  if islandCount c ≤ index || c = 5 || s.mgmt.tripped then .next s
  else
    let bound := min (2 * droopMHz) (2 * shareMHz)
    let bound := match find s.mgmt.caps c with | some m => min bound (2 * m) | none => bound
    let bound := if s.mgmt.powerCap < s.mgmt.power then min bound (s.freq c index) else bound
    let gate := islandEmpty s c index && Config.freeBit s.free
    .next { setFreq c index (if gate then 0 else bestFreq c bound) s with free := s.free + 1 }

/-- An island steps down, within its limits. (DESIGN CHOICE, log 146, unsafe.) -/
def stepDown (cls index : Nat) (s : State) : State :=
  if cls = 5 || s.freq cls index = 0 then s else setFreq cls index (max (islandFloor cls) (s.freq cls index - 25)) s

/-- MODULE_POWER_LOOP (R13, R336): the average over the last millisecond; above the limit every island steps down, so that the module
comes back to it. (DESIGN CHOICE, log 146, unsafe.) -/
def execModulePowerLoop (avgWatts : Nat) (s : State) : Result :=
  let s := { s with mgmt := { s.mgmt with power := avgWatts } }
  if avgWatts ≤ s.mgmt.powerCap then .next s
  else .next ((List.range 5).foldl (fun (s : State) c => (List.range (islandCount c)).foldl (fun s i => stepDown c i s) s) s)

/-- FAST_CLAMP (R13, R336): above 3,400 W every matrix unit group island halves its frequency, to a step of Table 22.5 and not below its
range. (DESIGN CHOICE, log 146, unsafe.) -/
def execFastClamp (watts : Nat) (s : State) : Result :=
  if watts ≤ 3400 || s.mgmt.tripped then .next s
  else .next ((List.range 384).foldl (fun (s : State) i =>
    if s.freq 1 i = 0 then s else setFreq 1 i (bestFreq 1 (s.freq 1 i / 2)) s) s)

/-- THERMAL_LIMIT (R333, R336): an island above 100 °C steps down, and the host is told. -/
def execThermalLimit (cls : BitVec 4) (index : Nat) (s : State) : Result :=
  let c := cls.toNat
  if islandCount c ≤ index || s.mgmt.tripped then .next s
  else
    .next (postEvent 4 0 [0#28 ++ cls ++ BitVec.ofNat 32 index] (stepDown c index s))

/-- Every active context terminated with status 6 (R323, R336, R337). -/
def terminateAll (s : State) : State :=
  (s.contexts.filter (fun e => e.2.active)).foldl (fun (s : State) e => terminateContext (BitVec.ofNat 8 e.1) 0 (fun _ => none) s) s

/-- THERMAL_TRIP (R336): at 110 °C every context terminates, every island stops, error 7 is set and the part stays in S0. -/
def execThermalTrip (s : State) : Result :=
  if s.mgmt.tripped then .next s
  else
    let s := (List.range 384).foldl (fun (s : State) c => s.countClock c) (terminateAll s)
    .next { s with mgmt := { s.mgmt with tripped := true, stage := 0, error := 7, accept := 3 } }

/-! ### Retention and refresh (R305, R306) -/

/-- ω of a temperature, in units of 4 μs (Table 19.3), and the threshold below the row of an ω. (DEDUCED, log 135, unsafe.) -/
def omegaOf (temp : Nat) : Nat := if temp ≤ 60 then 64 else if temp ≤ 70 then 32 else if temp ≤ 80 then 16 else if temp ≤ 90 then 8 else 4
/-- DEDUCED, log 135, unsafe. -/
def omegaThreshold (omega : Nat) : Nat := if omega = 32 then 60 else if omega = 16 then 70 else if omega = 8 then 80 else 90

/-- DEDUCED, log 135, unsafe. -/
def Whorl.omegaNow (h : Whorl) (group : Nat) : Nat := look 64 h.omega group

/-- RETENTION_WINDOW_LOOP (R306): a lower ω at once, a higher one after ten readings running 3 °C below the row's threshold.
(DEDUCED, log 135, unsafe; DESIGN CHOICE, log 145, unsafe.) -/
def execRetentionWindowLoop (whorl : Nat) (group : Nat) (temp : Nat) (s : State) : Result :=
  if 16 ≤ whorl || 8 ≤ group then .next s
  else
    .next (s.onWhorl whorl (fun h =>
      let now := h.omegaNow group
      let want := omegaOf temp
      let cool := if now < want && temp + 3 ≤ omegaThreshold now then look 0 h.cooler group + 1 else 0
      let next := if want < now then want else if 10 ≤ cool then want else now
      { h with temp := put 0 h.temp group temp, omega := put 64 h.omega group next,
               cooler := put 0 h.cooler group (if next = now then cool else 0) }))

/-- ROW_GROUP_REFRESH (R305, R322): the oldest due row group of its turn group is rewritten in place, its sectors checked as they are read, and
stamped. `found` lists the errors the rewriting meets first: 128 times the slot plus the 32-byte sector, and whether it is uncorrectable.
(DEDUCED, log 134, unsafe.) -/
def execRowGroupRefresh (whorl : Nat) (group : Nat) (found : List (Nat × Bool)) (s : State) : Result :=
  let h := s.whorl whorl
  let at' := fun (g : Nat) => look 0 h.stamps g
  if 16 ≤ whorl || 240 ≤ group || (List.range 30).any (fun i => at' (30 * (group / 30) + i) < at' group) then .next s
  else
    let due := at' group + 4000 * (h.omegaNow (group / 30) - 1)
    let s := if s.nanotime.toNat ≤ due then { s with nanotime := BitVec.ofNat 64 (due + 1) } else s
    let s := s.onWhorl whorl (fun h => { h with stamps := put 0 h.stamps group s.nanotime.toNat })
    let tiles := (groupSlots group).filterMap (fun p => (find h.slots p).map (·.tile))
    let s := tiles.foldl (fun s t => checkTile t s) s
    .next ((found.filter (fun e => (groupSlots group).contains (e.1 / 128))).foldl (fun (s : State) e =>
      if e.2 then uncorrectableError whorl (e.1 / 128) (e.1 % 128) s else correctedError whorl (e.1 / 128) s) s)

end Sys2Proof.Machine
end

