-- ==== Sys2Proof/Machine/Mailbox.lean ====
section
/-! DEFINITION. The management domain (R261, R262, R307, R328 to R339): staged start, the mailbox and its commands, warm reset,
attestation, and writes of registers that have no row of their own. -/

namespace Sys2Proof.Machine

def onMgmt (f : Mgmt → Mgmt) (s : State) : State := { s with mgmt := f s.mgmt }

/-! ### Registers (R329, R330) -/

/-- The stage register (Table 22.2). -/
def Mgmt.stageWord (m : Mgmt) : W64 :=
  0#23 ++ BitVec.ofBool m.dropped ++ m.error ++ m.accept ++ 0#8 ++ BitVec.ofBool m.retained ++ 0#3 ++ m.stage

/-- A register of BAR 0 as it reads (Table 22.1). (DESIGN CHOICE, log 143, unsafe.) -/
def Mgmt.register (m : Mgmt) (offset : Nat) : W64 :=
  if offset = 0 then m.stageWord
  else if 0x108 ≤ offset ∧ offset ≤ 0x120 then m.args.getD ((offset - 0x108) / 8) 0
  else if offset = 0x128 then 0#48 ++ m.mbcode ++ 0#6 ++ m.mbstat
  else if 0x130 ≤ offset ∧ offset ≤ 0x148 then m.results.getD ((offset - 0x130) / 8) 0
  else if offset = 0x300 then m.evbase
  else if offset = 0x308 then 0#16 ++ m.evhead ++ 0#16 ++ m.events
  else if offset = 0x310 then BitVec.ofBool m.evlost ++ 0#47 ++ m.evtail
  else 0

def Mgmt.arg (m : Mgmt) (i : Nat) : W64 := m.args.getD i 0

/-! ### Staged start (R331) -/

/-- What a stage accepts (Table 22.3): its own classes and those of every earlier stage. (DESIGN CHOICE, log 139, unsafe.) -/
def acceptOf (stage : BitVec 4) : BitVec 16 :=
  if stage = 0#4 then 0x0003 else if stage = 1#4 then 0x0007 else if stage = 2#4 then 0x000f else 0x007f

/-- A stage entered: its accept bits; with S3 the second tier and the Skein links come up. (DESIGN CHOICE, log 139, unsafe.) -/
def enterStage (stage : BitVec 4) (s : State) : State :=
  onMgmt (fun m => { m with
    stage := stage, accept := acceptOf stage, wasS3 := m.wasS3 || stage == 3#4
    skeinUp := if stage = 3#4 then 0xffff else 0, cxlUp := if stage = 3#4 then 0xf else 0 }) s

/-- Four 16-bit lane maps to a word. -/
def lanemapWords (s : State) : List W64 :=
  (List.range 384).map (fun c => laneMap s (4 * c + 3) ++ laneMap s (4 * c + 2) ++ laneMap s (4 * c + 1) ++ laneMap s (4 * c))

/-- A quarantine entry of a status record (Table 19.4), and the sixteen of a Whorl in four words. -/
def quarantineWord (q : Quarantine) : BitVec 16 := 1#1 ++ q.reason ++ BitVec.ofNat 13 q.slot
def Whorl.quarantineWords (h : Whorl) : List W64 :=
  let e := fun i => ((h.quar.map quarantineWord).getD i 0)
  (List.range 4).map (fun i => e (4 * i + 3) ++ e (4 * i + 2) ++ e (4 * i + 1) ++ e (4 * i))

/-- The measurement blocks of R339 as they stand. (DESIGN CHOICE, log 147, safe.) -/
def measure (s : State) : List (List W64) :=
  let hash := fun (block n : Nat) => (List.range n).map (Config.digest block)
  [hash 0 6, (if s.mgmt.imgDigest = [] then hash 1 6 else s.mgmt.imgDigest) ++ [s.mgmt.imgIndex.setWidth 64], [s.mgmt.rollback.setWidth 64] ++ hash 2 12,
    s.mgmt.parts.map (fun p => BitVec.ofNat 16 (look 0 s.mgmt.weights p.1) ++ BitVec.ofNat 16 p.1 ++ BitVec.ofNat 16 p.2.1 ++ BitVec.ofNat 16 p.2.2),
    lanemapWords s ++ (List.range 16).flatMap (fun w => (s.whorl w).quarantineWords)]
/-- DESIGN CHOICE, log 147, safe. -/
def takeMeasurements (s : State) : State := onMgmt (fun m => { m with measured := measure s }) s

/-- What of a Whorl outlives every reset: its quarantined slots, now all out of service (R311, R337). -/
def Whorl.kept (h : Whorl) : Whorl := { Whorl.vacant with quar := h.quar.map (fun q => { q with out := true }) }

/-- PERST_DEASSERTION (R331): the part starts at S0 from its reset state; what the non-volatile store and the fuses hold, the
memories outside the part, and what stands in device memory stay. (DESIGN CHOICE, log 144, unsafe.) -/
def execPerstDeassertion (s : State) : Result :=
  let m := s.mgmt
  .next (takeMeasurements { State.reset with
    agenda := s.agenda, free := s.free, nanotime := s.nanotime, cycle := s.cycle, stamp := s.stamp, mem := s.mem, poison := s.poison, damage := s.damage
    lanemaps := s.lanemaps, whorls := (mapEntries (fun _ h => h.kept) s.whorls).filter (fun e => e.2 != Whorl.vacant)
    retired := s.retired, reads := s.reads
    mgmt := { Mgmt.reset with
      accept := 3, rollback := m.rollback, imgIndex := m.imgIndex, imgDigest := m.imgDigest, bootCount := m.bootCount + 1, lmsUsed := m.lmsUsed, spdm := m.spdm } })

/-- STAGE_ADVANCE (R331): the next stage is entered, or, with an error of Table 22.2, start-up stops where it is. -/
def execStageAdvance (error : BitVec 8) (s : State) : Result :=
  if !s.accepts 1 || s.mgmt.error != 0 || s.mgmt.stage == 3#4 || 6 < error.toNat then .next s
  else if error != 0 then .next (onMgmt (fun m => { m with error := error, accept := 3 }) s)
  else .next (enterStage (s.mgmt.stage + 1) s)

/-- STAGE_DROPPED_CLEAR (R330). -/
def execStageDroppedClear (s : State) : Result := .next (onMgmt (fun m => { m with dropped := false }) s)

/-! ### The mailbox (R332) -/

/-- The command of a code, and the accept class of the stage it is marked with (Table 22.4). (DESIGN CHOICE, log 141, unsafe.) -/
def commandOf (code : Nat) : Option (Instr × Nat) :=
  if code = 0x01 then some (.identify, 1) else if code = 0x02 then some (.fwload, 1) else if code = 0x03 then some (.rollfwd, 6)
  else if code = 0x08 then some (.evring, 1) else if code = 0x10 then some (.ctxwrite, 6) else if code = 0x11 then some (.partset, 6)
  else if code = 0x20 then some (.wstat, 2) else if code = 0x21 then some (.retlist, 2) else if code = 0x30 then some (.islcap, 3)
  else if code = 0x31 then some (.skroute, 6) else if code = 0x40 then some (.reset, 1) else none

/-- A command done, or refused with a result code; a write that came meanwhile has left its mark in bit 7 (R332). -/
def commandDone (s : State) : State := onMgmt (fun m => { m with mbstat := 2, mbcmd := 0 }) s
def commandRefused (code : BitVec 8) (s : State) : State := onMgmt (fun m => { m with mbstat := 3, mbcode := m.mbcode ||| code, mbcmd := 0 }) s

/-- A write of mbcmd (R331, R332): ignored while a command is busy; refused where the stage does not accept it, or no command has
the code; else the command is busy and comes next. -/
def startCommand (code : Nat) (s : State) : State :=
  if s.mgmt.mbstat = 1#2 then onMgmt (fun m => { m with mbcode := m.mbcode ||| 0x80 }) s
  else
    let s := onMgmt (fun m => { m with mbcode := 0, results := [0, 0, 0, 0] }) s
    match commandOf code with
    | none => commandRefused 0x01 s
    | some (i, cls) =>
      if !s.accepts cls then commandRefused 0x02 s
      else
        let s := onMgmt (fun m => { m with mbstat := 1, mbcmd := BitVec.ofNat 8 code }) s
        { s with agenda := s.agenda ++ [i] }

/-- The command of a code, if it is the one that is busy. (DESIGN CHOICE, log 139, 140, 141, 142, unsafe.) -/
def command (code : BitVec 8) (effect : State → State) (s : State) : Result :=
  if s.mgmt.mbstat = 1#2 && s.mgmt.mbcmd == code then .next (effect s) else .next s

/-- IDENTIFY. -/
def execIdentify (s : State) : Result :=
  command 0x01 (fun s => commandDone (onMgmt (fun m => { m with
    results := [0x3840, m.stageWord, Config.serial.extractLsb' 0 64, Config.serial.extractLsb' 64 64] }) s)) s

/-- Bytes at a host address, every write that has left the device among them. -/
def hostBytes (s : State) (a : W64) (n : Nat) : List Byte := readBytes (drained s) (hostPhysLoc a.toNat) n

/-- FWLOAD (R338): a signature or digest that fails sets error 1, an index below the counter error 2; neither image runs. One that
is accepted runs, and clears an error of an earlier image. -/
def execFwload (s : State) : Result :=
  command 0x02 (fun s =>
    let image := hostBytes s (s.mgmt.arg 0) (s.mgmt.arg 1).toNat
    let index := Config.firmwareIndex image
    let fail := fun (e : BitVec 8) => commandDone (onMgmt (fun m => { m with
      error := e, accept := if m.stage = 3#4 then m.accept else m.accept &&& 3 }) s)
    if !Config.firmwareVerifies image then fail 1
    else if index.toNat < s.mgmt.rollback.toNat then fail 2
    else commandDone (onMgmt (fun m => { m with
      imgIndex := index, imgDigest := (List.range 6).map (Config.imageDigest image)
      accept := if m.error = 1#8 ∨ m.error = 2#8 then acceptOf m.stage else m.accept
      error := if m.error = 1#8 ∨ m.error = 2#8 then 0 else m.error }) s)) s

/-- ROLLFWD (R338): the counter rises to the running image's index. -/
def execRollfwd (s : State) : Result :=
  command 0x03 (fun s => commandDone (onMgmt (fun m => { m with
    rollback := if m.rollback.toNat < m.imgIndex.toNat then m.imgIndex else m.rollback }) s)) s

/-- A write of evctl (Table 22.1). -/
def writeEvctl (x : W64) (m : Mgmt) : Mgmt := { m with events := x.extractLsb' 0 16, evhead := x.extractLsb' 32 16 }

/-- EVRING. -/
def execEvring (s : State) : Result :=
  command 0x08 (fun s => commandDone (onMgmt (fun m => writeEvctl (m.arg 1) { m with evbase := m.arg 0 }) s)) s

/-- The context an entry of the table has active. (DESIGN CHOICE, log 115, safe; DESIGN CHOICE, log 141, unsafe.) -/
def activeEntry (s : State) (entry : Nat) : Option (BitVec 8) :=
  (s.contexts.find? (fun e => e.2.active && e.2.entry == entry)).map (fun e => BitVec.ofNat 8 e.1)

/-- A context is deactivated (R292, R299): its teams are pre-empted, and once none runs its launches end with status 6. The command is busy
until then. (DEDUCED, log 175, safe.) -/
def closeContext (tag : BitVec 8) (write : State → State) (s : State) : State :=
  let teams := s.teams.filter (fun e => !e.2.saved && (find s.launches e.2.launch).any (fun l => l.env.tag == tag))
  if teams.isEmpty then commandDone (terminateContext tag 0 (fun _ => none) (write s))
  else
    let s := { s with contexts := change (fun c => { c with closing := true }) s.contexts tag.toNat }
    park .ctxwrite { s with agenda := s.agenda ++ ((teams.filter (fun e => !e.2.halting)).map (fun e => Instr.preemptionRequest e.1)) }

/-- CTXWRITE (R261, R299): the entry is written; its valid bit activates a context, which reads it, or deactivates the one it
names. An active context ignores what is written. A tag that another active context holds refuses the command. -/
def execCtxwrite (s : State) : Result :=
  command 0x10 (fun s =>
    let entry := (s.mgmt.arg 0).toNat % 64
    let words := doublesOf (hostBytes s (s.mgmt.arg 1) 256)
    let tag := (words.getD 0 0).extractLsb' 48 8
    let valid := (words.getD 0 0).msb
    let write := homeWords none (hbmLoc (Config.contextTable.toNat + 256 * entry)) words
    match activeEntry s entry with
    | some old => if valid then commandDone (write s) else closeContext old write s
    | none =>
      if !valid then commandDone (write s)
      else if (s.context tag).active then commandRefused 0x04 s
      else
        let s := write s
        commandDone { s with contexts := ins s.contexts tag.toNat { Context.none with entry := entry, words := words, active := true }
                             agenda := s.agenda ++ (if (words.getD 0 0).getLsbD 61 then [Instr.distaffStep tag] else []) }) s

/-- A partition's dies from a byte of mbarg0: how many above, the first below; none where they are no aligned group (R262). -/
def partOf (b : Nat) : Option (Nat × Nat) :=
  let n := b / 16
  let die := b % 16
  if [1, 2, 4, 8].contains n && die % n == 0 && decide (die + n ≤ 8) then some (die, n) else none

/-- PARTSET (R262): refused with 0x03 while a context is active. Groups of dies that overlap are taken as they come.
(DESIGN CHOICE, log 195, unsafe.) -/
def execPartset (s : State) : Result :=
  command 0x11 (fun s =>
    if s.contexts.any (fun e => e.2.active) then commandRefused 0x03 s
    else
      let byte := fun (w : W64) (i : Nat) => (w.extractLsb' (8 * i) 8).toNat
      let parts := (List.range 8).filterMap (fun i => (partOf (byte (s.mgmt.arg 0) i)).map (fun p => (i, p)))
      commandDone (takeMeasurements (onMgmt (fun m => { m with
        parts := parts, weights := parts.map (fun p => (p.1, byte (m.arg 1) p.1 % 16)) }) s))) s

/-- The status record of a Whorl (Table 19.4). The count of usable slots is put at bit 16 as a number: with no slot out it is 8,192, whose one
bit is bit 29, as the record of chapter 21 reads (0x2000_1fff). (DEDUCED, log 174, unsafe.) -/
def Whorl.status (h : Whorl) : List W64 :=
  let out := (h.quar.filter (·.out)).length
  let bytes := fun (f : Nat → Nat) => (List.range 8).foldl (fun (x : W64) j => x ||| (BitVec.ofNat 64 (f j % 256) <<< (8 * j))) 0
  [(BitVec.ofBool h.full).setWidth 64 <<< 29 ||| BitVec.ofNat 64 (65536 * (8192 - out) + h.lastSlot),
    bytes h.omegaNow, bytes (fun j => look 0 h.temp j), h.ue ++ h.ce] ++ h.quarantineWords

/-- Words written to the host. -/
def toHost (a : W64) (ws : List W64) (s : State) : State := homeWords none (hostPhysLoc a.toNat) ws s

/-- WSTAT (R307). -/
def execWstat (s : State) : Result :=
  command 0x20 (fun s => commandDone (toHost (s.mgmt.arg 1) (s.whorl ((s.mgmt.arg 0).toNat % 16)).status s)) s

/-- A record of the retired-frame list (R291): the lower word, then the time. -/
def Retired.words (r : Retired) : List W64 :=
  [r.reason ++ 0#7 ++ BitVec.ofBool r.tier ++ BitVec.ofNat 32 r.frame ++ 0#16, r.time]

/-- RETLIST (R291). -/
def execRetlist (s : State) : Result :=
  command 0x21 (fun s => commandDone (toHost (s.mgmt.arg 0) (s.retired.flatMap Retired.words) s)) s

/-- ISLCAP (R332): a reserved class or a power limit out of range refuses; a cap of 0 removes the cap, a low one is raised. -/
def execIslcap (s : State) : Result :=
  command 0x30 (fun s =>
    let cls := (s.mgmt.arg 0).toNat % 16
    let cap := ((s.mgmt.arg 0).extractLsb' 16 16).toNat
    let watts := ((s.mgmt.arg 1).extractLsb' 0 16).toNat
    if (4 < cls && cls != 15) || (watts != 0 && (watts < 1600 || 3200 < watts)) then commandRefused 0x04 s
    else
      commandDone (onMgmt (fun m => { m with
        caps := if cls = 15 then m.caps else if cap = 0 then erase m.caps cls else ins m.caps cls (max cap (islandFloor cls / 2))
        powerCap := if watts = 0 then m.powerCap else watts }) s)) s

/-- SKROUTE (R335). -/
def execSkroute (s : State) : Result :=
  command 0x31 (fun s => commandDone (onMgmt (fun m => { m with
    routes := put 0 m.routes ((m.arg 0).extractLsb' 0 16).toNat ((m.arg 0).extractLsb' 16 16) }) s)) s

/-! ### Warm reset (R337) -/

/-- A tile that stays through a warm reset: no owner, no pin, no sharers; its dirty sectors stay dirty. -/
def Tile.retain (t : Tile) : Tile := { t with pin := none, owner := none, dir := [], scratch := false }

/-- A Whorl through a warm reset: with retention the outer turns keep their tiles; a quarantined slot that is emptied is out.
(DESIGN CHOICE, log 144, unsafe.) -/
def Whorl.warm (retain : Bool) (h : Whorl) : Whorl :=
  let slots := if retain then ((h.slots.filter (fun e => decide (529 ≤ e.1) && decide (regionOf (e.2.tile * 4096) < 2 ^ 46))).map
      (fun e => (e.1, e.2.retain)))
    else []
  { Whorl.vacant with
    slots := slots, omega := h.omega, temp := h.temp, cooler := h.cooler, stamps := h.stamps
    quar := h.quar.map (fun q => { q with out := q.out || (find slots q.slot).isNone }) }

/-- WARM RESET (R337): every active context terminates, the compute dies and their engines start afresh, and start-up goes on
from S1. Retention needs a start that had reached S3 with no thermal trip since. Device reference time goes on, and every clock stands at
what it then gives. (DESIGN CHOICE, log 144, unsafe.) -/
def warmReset (ask : Bool) (s : State) : State :=
  let retain := ask && s.mgmt.wasS3 && !s.mgmt.tripped
  let s := drainEgress (terminateAll s)
  let s := { State.reset with
    free := s.free, nanotime := s.nanotime, cycle := s.cycle, stamp := s.stamp
    mem := s.mem.filter (fun c => regionOf c.1 < 2 ^ 46), poison := s.poison.filter (fun x => regionOf (32 * x) < 2 ^ 46)
    damage := s.damage.filter (fun x => regionOf (32 * x) < 2 ^ 46), hostCopy := s.hostCopy
    lanemaps := s.lanemaps, whorls := (mapEntries (fun _ h => h.warm retain) s.whorls).filter (fun e => e.2 != Whorl.vacant)
    seqTable := s.seqTable, retired := s.retired, reads := s.reads
    mgmt := { s.mgmt with
      error := 0, dropped := false, wasS3 := false, tripped := false, retained := retain, mbstat := 0, mbcmd := 0, mbcode := 0
      powerCap := 3200, freqs := [], atomics := false } }
  takeMeasurements (enterStage 1 s)

/-- RESET (R332, R337): the command itself is aborted by the reset, and mbstat reads idle. -/
def execReset (s : State) : Result := command 0x40 (fun s => warmReset ((s.mgmt.arg 0).getLsbD 0) s) s

/-- FUNCTION_LEVEL_RESET (R328, R337). -/
def execFunctionLevelReset (s : State) : Result := .next (warmReset false s)

/-! ### Attestation (R339) -/

/-- SPDM_REQUEST: a measurement block of those taken at the last reset or PARTSET, signed with both keys; error Unspecified once
the LMS signatures are spent. -/
def execSpdmRequest (block : Nat) (s : State) : Result :=
  if !s.accepts 1 || 5 ≤ block then .next s
  else if 2 ^ 20 ≤ s.mgmt.lmsUsed then .next (onMgmt (fun m => { m with spdm := m.spdm ++ [none] }) s)
  else
    let ws := s.mgmt.measured.getD block []
    .next (onMgmt (fun m => { m with
      spdm := m.spdm ++ [some (ws ++ [Config.ecdsaSign ws, Config.lmsSign ws])], lmsUsed := m.lmsUsed + 1 }) s)

/-! ### Register writes (R3, R289, R329) -/

/-- REGISTER_WRITE: a register of BAR 0 by its offset (Table 22.1); at 0x100000, which is beyond BAR 0, the PCI Express Device
Control 2 register of configuration space, whose bit 6 enables the device as AtomicOp requester (R255).
(DESIGN CHOICE, log 143, unsafe.) -/
def execRegisterWrite (offset : Nat) (value : BitVec 64) (s : State) : Result :=
  if offset = 0x000 then .next (if value.getLsbD 40 then onMgmt (fun m => { m with dropped := false }) s else s)
  else if offset = 0x100 then .next (startCommand (value.toNat % 256) s)
  else if offset = 0x108 ∨ offset = 0x110 ∨ offset = 0x118 ∨ offset = 0x120 then
    .next (onMgmt (fun m => { m with args := m.args.set ((offset - 0x108) / 8) value }) s)
  else if offset = 0x200 then
    let tag := value.extractLsb' 32 8
    let index := (value.extractLsb' 0 32).toNat
    .next { s with agenda := s.agenda ++ [if value.getLsbD 40 then Instr.fresDeny tag index else Instr.fresRetry tag index] }
  else if offset = 0x300 then .next (onMgmt (fun m => { m with evbase := value }) s)
  else if offset = 0x308 then .next (onMgmt (writeEvctl value) s)
  else if offset = 0x100000 then .next (onMgmt (fun m => { m with atomics := value.getLsbD 6 }) s)
  else .next s

end Sys2Proof.Machine
end

