-- ==== Sys2Proof/Decode.lean ====
section
/-! DEFINITION. The decoder of R151 and R152, total on any two words and on any bytes, one function per major of Table 7.7;
after it the encoder. Every word Table 7.7 does not define is rejected, by the reason R152 gives. -/

namespace Sys2Proof

/-- Why a word is no instruction (R152), or why bytes hold no words at all. -/
inductive Reject where
  | unassignedMajor
  | illegalFn
  | reservedBits
  | immediate
  | select
  | pattern
  | tooShort
  deriving DecidableEq, Repr

/-- Bits `lo` to `lo + n - 1` of a word. -/
def fld (w : W32) (lo n : Nat) : BitVec n := w.extractLsb' lo n

/-- Bit `i` of a word. -/
def bit (w : W32) (i : Nat) : Bool := w.getLsbD i

/-- The instruction, if its word's reserved bits are zero (R146, R150). -/
def checked (zero : Prop) [Decidable zero] (i : Instr) : Except Reject Instr :=
  if zero then .ok i else .error .reservedBits

/-- Major 0x00: SADD SSUB SMUL SMULH SMULHU SAND SOR SXOR (Table 7.7). -/
noncomputable def dec00 (w0 : W32) : Except Reject Instr :=
  match (fld w0 2 3).toNat with
  | 0 => .ok (.sadd (fld w0 19 7) (fld w0 12 7) (fld w0 5 7) (bit w0 1) (bit w0 0))
  | 1 => .ok (.ssub (fld w0 19 7) (fld w0 12 7) (fld w0 5 7) (bit w0 1) (bit w0 0))
  | 2 => .ok (.smul (fld w0 19 7) (fld w0 12 7) (fld w0 5 7) (bit w0 1) (bit w0 0))
  | 3 => .ok (.smulh (fld w0 19 7) (fld w0 12 7) (fld w0 5 7) (bit w0 1) (bit w0 0))
  | 4 => .ok (.smulhu (fld w0 19 7) (fld w0 12 7) (fld w0 5 7) (bit w0 1) (bit w0 0))
  | 5 => .ok (.sand (fld w0 19 7) (fld w0 12 7) (fld w0 5 7) (bit w0 1) (bit w0 0))
  | 6 => .ok (.sor (fld w0 19 7) (fld w0 12 7) (fld w0 5 7) (bit w0 1) (bit w0 0))
  | 7 => .ok (.sxor (fld w0 19 7) (fld w0 12 7) (fld w0 5 7) (bit w0 1) (bit w0 0))
  | _ => .error .illegalFn

/-- Major 0x01: SSHL SSHR SSRA SMIN SMAX SMINU SMAXU SANDN (Table 7.7). -/
noncomputable def dec01 (w0 : W32) : Except Reject Instr :=
  match (fld w0 2 3).toNat with
  | 0 => .ok (.sshl (fld w0 19 7) (fld w0 12 7) (fld w0 5 7) (bit w0 1) (bit w0 0))
  | 1 => .ok (.sshr (fld w0 19 7) (fld w0 12 7) (fld w0 5 7) (bit w0 1) (bit w0 0))
  | 2 => .ok (.ssra (fld w0 19 7) (fld w0 12 7) (fld w0 5 7) (bit w0 1) (bit w0 0))
  | 3 => .ok (.smin (fld w0 19 7) (fld w0 12 7) (fld w0 5 7) (bit w0 1) (bit w0 0))
  | 4 => .ok (.smax (fld w0 19 7) (fld w0 12 7) (fld w0 5 7) (bit w0 1) (bit w0 0))
  | 5 => .ok (.sminu (fld w0 19 7) (fld w0 12 7) (fld w0 5 7) (bit w0 1) (bit w0 0))
  | 6 => .ok (.smaxu (fld w0 19 7) (fld w0 12 7) (fld w0 5 7) (bit w0 1) (bit w0 0))
  | 7 => .ok (.sandn (fld w0 19 7) (fld w0 12 7) (fld w0 5 7) (bit w0 1) (bit w0 0))
  | _ => .error .illegalFn

/-- Major 0x02: SCEQ SCNE SCLT SCLE SCLTU SCLEU SSEL SCBIT (Table 7.7). -/
noncomputable def dec02 (w0 : W32) : Except Reject Instr :=
  match (fld w0 2 3).toNat with
  | 0 => .ok (.sceq (fld w0 19 7) (fld w0 12 7) (fld w0 5 7) (bit w0 1) (bit w0 0))
  | 1 => .ok (.scne (fld w0 19 7) (fld w0 12 7) (fld w0 5 7) (bit w0 1) (bit w0 0))
  | 2 => .ok (.sclt (fld w0 19 7) (fld w0 12 7) (fld w0 5 7) (bit w0 1) (bit w0 0))
  | 3 => .ok (.scle (fld w0 19 7) (fld w0 12 7) (fld w0 5 7) (bit w0 1) (bit w0 0))
  | 4 => .ok (.scltu (fld w0 19 7) (fld w0 12 7) (fld w0 5 7) (bit w0 1) (bit w0 0))
  | 5 => .ok (.scleu (fld w0 19 7) (fld w0 12 7) (fld w0 5 7) (bit w0 1) (bit w0 0))
  | 6 => .ok (.ssel (fld w0 19 7) (fld w0 12 7) (fld w0 5 7) (bit w0 1) (bit w0 0))
  | 7 => .ok (.scbit (fld w0 19 7) (fld w0 12 7) (fld w0 5 7) (bit w0 1) (bit w0 0))
  | _ => .error .illegalFn

/-- Major 0x03: SADDI SANDI SORI SXORI SSHLI SSHRI SSRAI SCLTI (Table 7.7). -/
noncomputable def dec03 (w0 : W32) : Except Reject Instr :=
  match (fld w0 1 3).toNat with
  | 0 => .ok (.saddi (fld w0 19 7) (fld w0 12 7) (fld w0 4 8) (bit w0 0))
  | 1 => .ok (.sandi (fld w0 19 7) (fld w0 12 7) (fld w0 4 8) (bit w0 0))
  | 2 => .ok (.sori (fld w0 19 7) (fld w0 12 7) (fld w0 4 8) (bit w0 0))
  | 3 => .ok (.sxori (fld w0 19 7) (fld w0 12 7) (fld w0 4 8) (bit w0 0))
  | 4 => if (fld w0 4 8).toNat < 64 then .ok (.sshli (fld w0 19 7) (fld w0 12 7) (fld w0 4 8) (bit w0 0)) else .error
      .immediate
  | 5 => if (fld w0 4 8).toNat < 64 then .ok (.sshri (fld w0 19 7) (fld w0 12 7) (fld w0 4 8) (bit w0 0)) else .error
      .immediate
  | 6 => if (fld w0 4 8).toNat < 64 then .ok (.ssrai (fld w0 19 7) (fld w0 12 7) (fld w0 4 8) (bit w0 0)) else .error
      .immediate
  | 7 => .ok (.sclti (fld w0 19 7) (fld w0 12 7) (fld w0 4 8) (bit w0 0))
  | _ => .error .illegalFn

/-- Major 0x04: SMOVI (Table 7.7). -/
noncomputable def dec04 (w0 : W32) : Except Reject Instr :=
  .ok (.smovi (fld w0 19 7) (fld w0 0 19))

/-- Major 0x05: SINSH (Table 7.7). -/
noncomputable def dec05 (w0 : W32) : Except Reject Instr :=
  checked (w0 &&& 0x00010000#32 = 0#32) (.sinsh (fld w0 19 7) (fld w0 17 2) (fld w0 0 16))

/-- Major 0x06: SGETX SSETX SANDX SANDNX SORX SPOPC SFFS SFULLX (Table 7.7). -/
noncomputable def dec06 (w0 : W32) : Except Reject Instr :=
  match (fld w0 2 3).toNat with
  | 0 => checked (w0 &&& 0x0007ffe3#32 = 0#32) (.sgetx (fld w0 19 7))
  | 1 => checked (w0 &&& 0x03f80fe1#32 = 0#32) (.ssetx (fld w0 12 7) (bit w0 1))
  | 2 => checked (w0 &&& 0x00000fe1#32 = 0#32) (.sandx (fld w0 19 7) (fld w0 12 7) (bit w0 1))
  | 3 => checked (w0 &&& 0x00000fe1#32 = 0#32) (.sandnx (fld w0 19 7) (fld w0 12 7) (bit w0 1))
  | 4 => checked (w0 &&& 0x00000fe1#32 = 0#32) (.sorx (fld w0 19 7) (fld w0 12 7) (bit w0 1))
  | 5 => checked (w0 &&& 0x00000fe1#32 = 0#32) (.spopc (fld w0 19 7) (fld w0 12 7) (bit w0 1))
  | 6 => checked (w0 &&& 0x00000fe1#32 = 0#32) (.sffs (fld w0 19 7) (fld w0 12 7) (bit w0 1))
  | 7 => checked (w0 &&& 0x0007ffe3#32 = 0#32) (.sfullx (fld w0 19 7))
  | _ => .error .illegalFn

/-- Major 0x07: SCLZ SCTZ SBREV SBSWAP SEXTB SEXTH SEXTW SZEXTW (Table 7.7). -/
noncomputable def dec07 (w0 : W32) : Except Reject Instr :=
  match (fld w0 2 3).toNat with
  | 0 => checked (w0 &&& 0x00000fe1#32 = 0#32) (.sclz (fld w0 19 7) (fld w0 12 7) (bit w0 1))
  | 1 => checked (w0 &&& 0x00000fe1#32 = 0#32) (.sctz (fld w0 19 7) (fld w0 12 7) (bit w0 1))
  | 2 => checked (w0 &&& 0x00000fe1#32 = 0#32) (.sbrev (fld w0 19 7) (fld w0 12 7) (bit w0 1))
  | 3 => checked (w0 &&& 0x00000fe1#32 = 0#32) (.sbswap (fld w0 19 7) (fld w0 12 7) (bit w0 1))
  | 4 => checked (w0 &&& 0x00000fe1#32 = 0#32) (.sextb (fld w0 19 7) (fld w0 12 7) (bit w0 1))
  | 5 => checked (w0 &&& 0x00000fe1#32 = 0#32) (.sexth (fld w0 19 7) (fld w0 12 7) (bit w0 1))
  | 6 => checked (w0 &&& 0x00000fe1#32 = 0#32) (.sextw (fld w0 19 7) (fld w0 12 7) (bit w0 1))
  | 7 => checked (w0 &&& 0x00000fe1#32 = 0#32) (.szextw (fld w0 19 7) (fld w0 12 7) (bit w0 1))
  | _ => .error .illegalFn

/-- Major 0x08: BR BRXZ BRXNZ BRXALL CALL (Table 7.7). -/
noncomputable def dec08 (w0 : W32) : Except Reject Instr :=
  match (fld w0 22 4).toNat with
  | 0 => .ok (.br (fld w0 0 22))
  | 1 => .ok (.brxz (fld w0 0 22))
  | 2 => .ok (.brxnz (fld w0 0 22))
  | 3 => .ok (.brxall (fld w0 0 22))
  | 4 => .ok (.call (fld w0 0 22))
  | _ => .error .illegalFn

/-- Major 0x09: BRZ BRNZ BRNEG BRPOS (Table 7.7). -/
noncomputable def dec09 (w0 : W32) : Except Reject Instr :=
  match (fld w0 22 4).toNat with
  | 0 => .ok (.brz (fld w0 15 7) (bit w0 14) (fld w0 0 14))
  | 1 => .ok (.brnz (fld w0 15 7) (bit w0 14) (fld w0 0 14))
  | 2 => .ok (.brneg (fld w0 15 7) (bit w0 14) (fld w0 0 14))
  | 3 => .ok (.brpos (fld w0 15 7) (bit w0 14) (fld w0 0 14))
  | _ => .error .illegalFn

/-- Major 0x0a: JMPR CALLR RET (Table 7.7). -/
noncomputable def dec0a (w0 : W32) : Except Reject Instr :=
  match (fld w0 2 3).toNat with
  | 0 => checked (w0 &&& 0x03f80fe1#32 = 0#32) (.jmpr (fld w0 12 7) (bit w0 1))
  | 1 => checked (w0 &&& 0x03f80fe1#32 = 0#32) (.callr (fld w0 12 7) (bit w0 1))
  | 2 => checked (w0 &&& 0x03ffffe3#32 = 0#32) (.ret)
  | _ => .error .illegalFn

/-- Major 0x0b: SMFR SMTR (Table 7.7). -/
noncomputable def dec0b (w0 : W32) : Except Reject Instr :=
  match (fld w0 4 3).toNat with
  | 0 => checked (w0 &&& 0x0000000f#32 = 0#32) (.smfr (fld w0 19 7) (fld w0 7 12))
  | 1 => checked (w0 &&& 0x0000000e#32 = 0#32) (.smtr (fld w0 19 7) (fld w0 7 12) (bit w0 0))
  | _ => .error .illegalFn

/-- Major 0x0c: NOP YIELD HALT TRAP TRET SPECBAR SLEEP BKPT (Table 7.7). -/
noncomputable def dec0c (w0 : W32) : Except Reject Instr :=
  match (fld w0 2 3).toNat with
  | 0 => checked (w0 &&& 0x03ffffe3#32 = 0#32) (.nop)
  | 1 => checked (w0 &&& 0x03ffffe3#32 = 0#32) (.yield)
  | 2 => checked (w0 &&& 0x03ffffe3#32 = 0#32) (.halt)
  | 3 => checked (w0 &&& 0x03ffe003#32 = 0#32) (.trap (fld w0 5 8))
  | 4 => checked (w0 &&& 0x03ffffe3#32 = 0#32) (.tret)
  | 5 => checked (w0 &&& 0x03ffffe3#32 = 0#32) (.specbar)
  | 6 => checked (w0 &&& 0x03f80fe1#32 = 0#32) (.sleep (fld w0 12 7) (bit w0 1))
  | 7 => checked (w0 &&& 0x03ffffe3#32 = 0#32) (.bkpt)
  | _ => .error .illegalFn

/-- Major 0x0d: WAITC WAITR WAITS (Table 7.7). -/
noncomputable def dec0d (w0 : W32) : Except Reject Instr :=
  match (fld w0 2 3).toNat with
  | 0 => checked (w0 &&& 0x00780fe2#32 = 0#32) (.waitc (fld w0 23 3) (fld w0 12 7) (bit w0 0))
  | 1 => checked (w0 &&& 0x03f80fe3#32 = 0#32) (.waitr (fld w0 12 7))
  | 2 => checked (w0 &&& 0x03f80fe3#32 = 0#32) (.waits (fld w0 12 7))
  | _ => .error .illegalFn

/-- Major 0x0e: BARA BARW BARAW BARI (Table 7.7). -/
noncomputable def dec0e (w0 : W32) : Except Reject Instr :=
  match (fld w0 3 3).toNat with
  | 0 => checked (w0 &&& 0x00000006#32 = 0#32) (.bara (fld w0 19 7) (fld w0 14 5) (fld w0 7 7) (bit w0 6) (bit w0 0))
  | 1 => checked (w0 &&& 0x03f80006#32 = 0#32) (.barw (fld w0 14 5) (fld w0 7 7) (bit w0 6) (bit w0 0))
  | 2 => checked (w0 &&& 0x00000006#32 = 0#32) (.baraw (fld w0 19 7) (fld w0 14 5) (fld w0 7 7) (bit w0 6) (bit w0 0))
  | 3 => checked (w0 &&& 0x03f80006#32 = 0#32) (.bari (fld w0 14 5) (fld w0 7 7) (bit w0 6) (bit w0 0))
  | _ => .error .illegalFn

/-- Major 0x0f: PBLK (Table 7.7). -/
noncomputable def dec0f (w0 : W32) : Except Reject Instr :=
  if (fld w0 8 8) >>> ((fld w0 16 3).toNat + 1) = 0#8 then checked (w0 &&& 0x000000fe#32 = 0#32) (.pblk (fld w0 19 7)
    (fld w0 16 3) (fld w0 8 8) (bit w0 0)) else .error .pattern

/-- Major 0x10: SLDB SLDH SLDW SLDD SLDBS SLDHS SLDWS (Table 7.7). -/
noncomputable def dec10 (w0 : W32) : Except Reject Instr :=
  match (fld w0 3 3).toNat with
  | 0 => checked (w0 &&& 0x00000002#32 = 0#32) (.sldb (fld w0 19 7) (fld w0 12 7) (fld w0 6 6) (bit w0 2) (bit w0 0))
  | 1 => checked (w0 &&& 0x00000002#32 = 0#32) (.sldh (fld w0 19 7) (fld w0 12 7) (fld w0 6 6) (bit w0 2) (bit w0 0))
  | 2 => checked (w0 &&& 0x00000002#32 = 0#32) (.sldw (fld w0 19 7) (fld w0 12 7) (fld w0 6 6) (bit w0 2) (bit w0 0))
  | 3 => checked (w0 &&& 0x00000002#32 = 0#32) (.sldd (fld w0 19 7) (fld w0 12 7) (fld w0 6 6) (bit w0 2) (bit w0 0))
  | 4 => checked (w0 &&& 0x00000002#32 = 0#32) (.sldbs (fld w0 19 7) (fld w0 12 7) (fld w0 6 6) (bit w0 2) (bit w0 0))
  | 5 => checked (w0 &&& 0x00000002#32 = 0#32) (.sldhs (fld w0 19 7) (fld w0 12 7) (fld w0 6 6) (bit w0 2) (bit w0 0))
  | 6 => checked (w0 &&& 0x00000002#32 = 0#32) (.sldws (fld w0 19 7) (fld w0 12 7) (fld w0 6 6) (bit w0 2) (bit w0 0))
  | _ => .error .illegalFn

/-- Major 0x11: SSTB SSTH SSTW SSTD (Table 7.7). -/
noncomputable def dec11 (w0 : W32) : Except Reject Instr :=
  match (fld w0 3 3).toNat with
  | 0 => .ok (.sstb (fld w0 19 7) (fld w0 12 7) (fld w0 6 6) (bit w0 2) (bit w0 1) (bit w0 0))
  | 1 => .ok (.ssth (fld w0 19 7) (fld w0 12 7) (fld w0 6 6) (bit w0 2) (bit w0 1) (bit w0 0))
  | 2 => .ok (.sstw (fld w0 19 7) (fld w0 12 7) (fld w0 6 6) (bit w0 2) (bit w0 1) (bit w0 0))
  | 3 => .ok (.sstd (fld w0 19 7) (fld w0 12 7) (fld w0 6 6) (bit w0 2) (bit w0 1) (bit w0 0))
  | _ => .error .illegalFn

/-- Major 0x12: VADD VSUB VMULLO VMULHI VMULHU VMIN VMAX VMINU (Table 7.7). -/
noncomputable def dec12 (w0 : W32) : Except Reject Instr :=
  match (fld w0 2 3).toNat with
  | 0 => .ok (.vadd (fld w0 19 7) (fld w0 12 7) (fld w0 5 7) (bit w0 1) (bit w0 0))
  | 1 => .ok (.vsub (fld w0 19 7) (fld w0 12 7) (fld w0 5 7) (bit w0 1) (bit w0 0))
  | 2 => .ok (.vmullo (fld w0 19 7) (fld w0 12 7) (fld w0 5 7) (bit w0 1) (bit w0 0))
  | 3 => .ok (.vmulhi (fld w0 19 7) (fld w0 12 7) (fld w0 5 7) (bit w0 1) (bit w0 0))
  | 4 => .ok (.vmulhu (fld w0 19 7) (fld w0 12 7) (fld w0 5 7) (bit w0 1) (bit w0 0))
  | 5 => .ok (.vmin (fld w0 19 7) (fld w0 12 7) (fld w0 5 7) (bit w0 1) (bit w0 0))
  | 6 => .ok (.vmax (fld w0 19 7) (fld w0 12 7) (fld w0 5 7) (bit w0 1) (bit w0 0))
  | 7 => .ok (.vminu (fld w0 19 7) (fld w0 12 7) (fld w0 5 7) (bit w0 1) (bit w0 0))
  | _ => .error .illegalFn

/-- Major 0x13: VAND VOR VXOR VANDN VSHL VSHR VSRA VMAXU (Table 7.7). -/
noncomputable def dec13 (w0 : W32) : Except Reject Instr :=
  match (fld w0 2 3).toNat with
  | 0 => .ok (.vand (fld w0 19 7) (fld w0 12 7) (fld w0 5 7) (bit w0 1) (bit w0 0))
  | 1 => .ok (.vor (fld w0 19 7) (fld w0 12 7) (fld w0 5 7) (bit w0 1) (bit w0 0))
  | 2 => .ok (.vxor (fld w0 19 7) (fld w0 12 7) (fld w0 5 7) (bit w0 1) (bit w0 0))
  | 3 => .ok (.vandn (fld w0 19 7) (fld w0 12 7) (fld w0 5 7) (bit w0 1) (bit w0 0))
  | 4 => .ok (.vshl (fld w0 19 7) (fld w0 12 7) (fld w0 5 7) (bit w0 1) (bit w0 0))
  | 5 => .ok (.vshr (fld w0 19 7) (fld w0 12 7) (fld w0 5 7) (bit w0 1) (bit w0 0))
  | 6 => .ok (.vsra (fld w0 19 7) (fld w0 12 7) (fld w0 5 7) (bit w0 1) (bit w0 0))
  | 7 => .ok (.vmaxu (fld w0 19 7) (fld w0 12 7) (fld w0 5 7) (bit w0 1) (bit w0 0))
  | _ => .error .illegalFn

/-- Major 0x14: VADDS VSUBS VMULS VANDS VORS VXORS VSHLS VSHRS (Table 7.7). -/
noncomputable def dec14 (w0 : W32) : Except Reject Instr :=
  match (fld w0 2 3).toNat with
  | 0 => .ok (.vadds (fld w0 19 7) (fld w0 12 7) (fld w0 5 7) (bit w0 1) (bit w0 0))
  | 1 => .ok (.vsubs (fld w0 19 7) (fld w0 12 7) (fld w0 5 7) (bit w0 1) (bit w0 0))
  | 2 => .ok (.vmuls (fld w0 19 7) (fld w0 12 7) (fld w0 5 7) (bit w0 1) (bit w0 0))
  | 3 => .ok (.vands (fld w0 19 7) (fld w0 12 7) (fld w0 5 7) (bit w0 1) (bit w0 0))
  | 4 => .ok (.vors (fld w0 19 7) (fld w0 12 7) (fld w0 5 7) (bit w0 1) (bit w0 0))
  | 5 => .ok (.vxors (fld w0 19 7) (fld w0 12 7) (fld w0 5 7) (bit w0 1) (bit w0 0))
  | 6 => .ok (.vshls (fld w0 19 7) (fld w0 12 7) (fld w0 5 7) (bit w0 1) (bit w0 0))
  | 7 => .ok (.vshrs (fld w0 19 7) (fld w0 12 7) (fld w0 5 7) (bit w0 1) (bit w0 0))
  | _ => .error .illegalFn

/-- Major 0x15: VADDI VANDI VORI VXORI VSHLI VSHRI VSRAI VMULI (Table 7.7). -/
noncomputable def dec15 (w0 : W32) : Except Reject Instr :=
  match (fld w0 1 3).toNat with
  | 0 => .ok (.vaddi (fld w0 19 7) (fld w0 12 7) (fld w0 4 8) (bit w0 0))
  | 1 => .ok (.vandi (fld w0 19 7) (fld w0 12 7) (fld w0 4 8) (bit w0 0))
  | 2 => .ok (.vori (fld w0 19 7) (fld w0 12 7) (fld w0 4 8) (bit w0 0))
  | 3 => .ok (.vxori (fld w0 19 7) (fld w0 12 7) (fld w0 4 8) (bit w0 0))
  | 4 => if (fld w0 4 8).toNat < 32 then .ok (.vshli (fld w0 19 7) (fld w0 12 7) (fld w0 4 8) (bit w0 0)) else .error
      .immediate
  | 5 => if (fld w0 4 8).toNat < 32 then .ok (.vshri (fld w0 19 7) (fld w0 12 7) (fld w0 4 8) (bit w0 0)) else .error
      .immediate
  | 6 => if (fld w0 4 8).toNat < 32 then .ok (.vsrai (fld w0 19 7) (fld w0 12 7) (fld w0 4 8) (bit w0 0)) else .error
      .immediate
  | 7 => .ok (.vmuli (fld w0 19 7) (fld w0 12 7) (fld w0 4 8) (bit w0 0))
  | _ => .error .illegalFn

/-- Major 0x16: VCEQ VCNE VCLT VCLE VCGT VCGE VCLTU VCLEU (Table 7.7). -/
noncomputable def dec16 (w0 : W32) : Except Reject Instr :=
  match (fld w0 2 3).toNat with
  | 0 => .ok (.vceq (fld w0 19 7) (fld w0 12 7) (fld w0 5 7) (bit w0 1) (bit w0 0))
  | 1 => .ok (.vcne (fld w0 19 7) (fld w0 12 7) (fld w0 5 7) (bit w0 1) (bit w0 0))
  | 2 => .ok (.vclt (fld w0 19 7) (fld w0 12 7) (fld w0 5 7) (bit w0 1) (bit w0 0))
  | 3 => .ok (.vcle (fld w0 19 7) (fld w0 12 7) (fld w0 5 7) (bit w0 1) (bit w0 0))
  | 4 => .ok (.vcgt (fld w0 19 7) (fld w0 12 7) (fld w0 5 7) (bit w0 1) (bit w0 0))
  | 5 => .ok (.vcge (fld w0 19 7) (fld w0 12 7) (fld w0 5 7) (bit w0 1) (bit w0 0))
  | 6 => .ok (.vcltu (fld w0 19 7) (fld w0 12 7) (fld w0 5 7) (bit w0 1) (bit w0 0))
  | 7 => .ok (.vcleu (fld w0 19 7) (fld w0 12 7) (fld w0 5 7) (bit w0 1) (bit w0 0))
  | _ => .error .illegalFn

/-- Major 0x17: VMOV VMOVS VTID VCLZ VPOPC VBREV VWRX VRDX (Table 7.7). -/
noncomputable def dec17 (w0 : W32) : Except Reject Instr :=
  match (fld w0 2 3).toNat with
  | 0 => checked (w0 &&& 0x00000fe1#32 = 0#32) (.vmov (fld w0 19 7) (fld w0 12 7) (bit w0 1))
  | 1 => checked (w0 &&& 0x0007f002#32 = 0#32) (.vmovs (fld w0 19 7) (fld w0 5 7) (bit w0 0))
  | 2 => checked (w0 &&& 0x0007ffe3#32 = 0#32) (.vtid (fld w0 19 7))
  | 3 => checked (w0 &&& 0x00000fe1#32 = 0#32) (.vclz (fld w0 19 7) (fld w0 12 7) (bit w0 1))
  | 4 => checked (w0 &&& 0x00000fe1#32 = 0#32) (.vpopc (fld w0 19 7) (fld w0 12 7) (bit w0 1))
  | 5 => checked (w0 &&& 0x00000fe1#32 = 0#32) (.vbrev (fld w0 19 7) (fld w0 12 7) (bit w0 1))
  | 6 => checked (w0 &&& 0x03f80000#32 = 0#32) (.vwrx (fld w0 12 7) (fld w0 5 7) (bit w0 1) (bit w0 0))
  | 7 => checked (w0 &&& 0x0007f000#32 = 0#32) (.vrdx (fld w0 19 7) (fld w0 5 7) (bit w0 1) (bit w0 0))
  | _ => .error .illegalFn

/-- Major 0x18: VFADD VFSUB VFMUL VFMIN VFMAX VFMAC VFMSC VFNMAC (Table 7.7). -/
noncomputable def dec18 (w0 : W32) : Except Reject Instr :=
  match (fld w0 2 3).toNat with
  | 0 => .ok (.vfadd (fld w0 19 7) (fld w0 12 7) (fld w0 5 7) (bit w0 1) (bit w0 0))
  | 1 => .ok (.vfsub (fld w0 19 7) (fld w0 12 7) (fld w0 5 7) (bit w0 1) (bit w0 0))
  | 2 => .ok (.vfmul (fld w0 19 7) (fld w0 12 7) (fld w0 5 7) (bit w0 1) (bit w0 0))
  | 3 => .ok (.vfmin (fld w0 19 7) (fld w0 12 7) (fld w0 5 7) (bit w0 1) (bit w0 0))
  | 4 => .ok (.vfmax (fld w0 19 7) (fld w0 12 7) (fld w0 5 7) (bit w0 1) (bit w0 0))
  | 5 => .ok (.vfmac (fld w0 19 7) (fld w0 12 7) (fld w0 5 7) (bit w0 1) (bit w0 0))
  | 6 => .ok (.vfmsc (fld w0 19 7) (fld w0 12 7) (fld w0 5 7) (bit w0 1) (bit w0 0))
  | 7 => .ok (.vfnmac (fld w0 19 7) (fld w0 12 7) (fld w0 5 7) (bit w0 1) (bit w0 0))
  | _ => .error .illegalFn

/-- Major 0x19: VFADDS VFSUBS VFMULS VFMACS VFMINS VFMAXS (Table 7.7). -/
noncomputable def dec19 (w0 : W32) : Except Reject Instr :=
  match (fld w0 2 3).toNat with
  | 0 => .ok (.vfadds (fld w0 19 7) (fld w0 12 7) (fld w0 5 7) (bit w0 1) (bit w0 0))
  | 1 => .ok (.vfsubs (fld w0 19 7) (fld w0 12 7) (fld w0 5 7) (bit w0 1) (bit w0 0))
  | 2 => .ok (.vfmuls (fld w0 19 7) (fld w0 12 7) (fld w0 5 7) (bit w0 1) (bit w0 0))
  | 3 => .ok (.vfmacs (fld w0 19 7) (fld w0 12 7) (fld w0 5 7) (bit w0 1) (bit w0 0))
  | 4 => .ok (.vfmins (fld w0 19 7) (fld w0 12 7) (fld w0 5 7) (bit w0 1) (bit w0 0))
  | 5 => .ok (.vfmaxs (fld w0 19 7) (fld w0 12 7) (fld w0 5 7) (bit w0 1) (bit w0 0))
  | _ => .error .illegalFn

/-- Major 0x1a: VFCEQ VFCNE VFCLT VFCLE VFCUN VFSLT VFSLE (Table 7.7). -/
noncomputable def dec1a (w0 : W32) : Except Reject Instr :=
  match (fld w0 2 3).toNat with
  | 0 => .ok (.vfceq (fld w0 19 7) (fld w0 12 7) (fld w0 5 7) (bit w0 1) (bit w0 0))
  | 1 => .ok (.vfcne (fld w0 19 7) (fld w0 12 7) (fld w0 5 7) (bit w0 1) (bit w0 0))
  | 2 => .ok (.vfclt (fld w0 19 7) (fld w0 12 7) (fld w0 5 7) (bit w0 1) (bit w0 0))
  | 3 => .ok (.vfcle (fld w0 19 7) (fld w0 12 7) (fld w0 5 7) (bit w0 1) (bit w0 0))
  | 4 => .ok (.vfcun (fld w0 19 7) (fld w0 12 7) (fld w0 5 7) (bit w0 1) (bit w0 0))
  | 5 => .ok (.vfslt (fld w0 19 7) (fld w0 12 7) (fld w0 5 7) (bit w0 1) (bit w0 0))
  | 6 => .ok (.vfsle (fld w0 19 7) (fld w0 12 7) (fld w0 5 7) (bit w0 1) (bit w0 0))
  | _ => .error .illegalFn

/-- Major 0x1b: VHADD VHMUL VHMAC VBADD VBMUL VBMAC VHDOT VBDOT (Table 7.7). -/
noncomputable def dec1b (w0 : W32) : Except Reject Instr :=
  match (fld w0 2 3).toNat with
  | 0 => .ok (.vhadd (fld w0 19 7) (fld w0 12 7) (fld w0 5 7) (bit w0 1) (bit w0 0))
  | 1 => .ok (.vhmul (fld w0 19 7) (fld w0 12 7) (fld w0 5 7) (bit w0 1) (bit w0 0))
  | 2 => .ok (.vhmac (fld w0 19 7) (fld w0 12 7) (fld w0 5 7) (bit w0 1) (bit w0 0))
  | 3 => .ok (.vbadd (fld w0 19 7) (fld w0 12 7) (fld w0 5 7) (bit w0 1) (bit w0 0))
  | 4 => .ok (.vbmul (fld w0 19 7) (fld w0 12 7) (fld w0 5 7) (bit w0 1) (bit w0 0))
  | 5 => .ok (.vbmac (fld w0 19 7) (fld w0 12 7) (fld w0 5 7) (bit w0 1) (bit w0 0))
  | 6 => .ok (.vhdot (fld w0 19 7) (fld w0 12 7) (fld w0 5 7) (bit w0 1) (bit w0 0))
  | 7 => .ok (.vbdot (fld w0 19 7) (fld w0 12 7) (fld w0 5 7) (bit w0 1) (bit w0 0))
  | _ => .error .illegalFn

/-- Major 0x1d: VRCP VRSQ VSQRT VEXP2 VLOG2 VSIN VCOS VTANH (Table 7.7). -/
noncomputable def dec1d (w0 : W32) : Except Reject Instr :=
  match (fld w0 2 3).toNat with
  | 0 => checked (w0 &&& 0x00000fe1#32 = 0#32) (.vrcp (fld w0 19 7) (fld w0 12 7) (bit w0 1))
  | 1 => checked (w0 &&& 0x00000fe1#32 = 0#32) (.vrsq (fld w0 19 7) (fld w0 12 7) (bit w0 1))
  | 2 => checked (w0 &&& 0x00000fe1#32 = 0#32) (.vsqrt (fld w0 19 7) (fld w0 12 7) (bit w0 1))
  | 3 => checked (w0 &&& 0x00000fe1#32 = 0#32) (.vexp2 (fld w0 19 7) (fld w0 12 7) (bit w0 1))
  | 4 => checked (w0 &&& 0x00000fe1#32 = 0#32) (.vlog2 (fld w0 19 7) (fld w0 12 7) (bit w0 1))
  | 5 => checked (w0 &&& 0x00000fe1#32 = 0#32) (.vsin (fld w0 19 7) (fld w0 12 7) (bit w0 1))
  | 6 => checked (w0 &&& 0x00000fe1#32 = 0#32) (.vcos (fld w0 19 7) (fld w0 12 7) (bit w0 1))
  | 7 => checked (w0 &&& 0x00000fe1#32 = 0#32) (.vtanh (fld w0 19 7) (fld w0 12 7) (bit w0 1))
  | _ => .error .illegalFn

/-- Major 0x1e: VCF16 VCF32H VCBF VCF32B VCI32 VCF32I VCN32 VCF32N VCNAR VCWID VCT6 VCF32T6 VPK6 VUNPK6 (Table 7.7). -/
noncomputable def dec1e (w0 : W32) : Except Reject Instr :=
  match (fld w0 5 4).toNat with
  | 0 => if (fld w0 1 2).toNat < 2 then checked (w0 &&& 0x00000e00#32 = 0#32) (.vcf16 (fld w0 19 7) (fld w0 12 7) (fld
      w0 3 2) (fld w0 1 2) (bit w0 0)) else .error .select
  | 1 => if (fld w0 1 2).toNat < 2 then checked (w0 &&& 0x00000e18#32 = 0#32) (.vcf32h (fld w0 19 7) (fld w0 12 7)
      (fld w0 1 2) (bit w0 0)) else .error .select
  | 2 => if (fld w0 1 2).toNat < 2 then checked (w0 &&& 0x00000e00#32 = 0#32) (.vcbf (fld w0 19 7) (fld w0 12 7) (fld
      w0 3 2) (fld w0 1 2) (bit w0 0)) else .error .select
  | 3 => if (fld w0 1 2).toNat < 2 then checked (w0 &&& 0x00000e18#32 = 0#32) (.vcf32b (fld w0 19 7) (fld w0 12 7)
      (fld w0 1 2) (bit w0 0)) else .error .select
  | 4 => checked (w0 &&& 0x00000e06#32 = 0#32) (.vci32 (fld w0 19 7) (fld w0 12 7) (fld w0 3 2) (bit w0 0))
  | 5 => checked (w0 &&& 0x00000e06#32 = 0#32) (.vcf32i (fld w0 19 7) (fld w0 12 7) (fld w0 3 2) (bit w0 0))
  | 6 => checked (w0 &&& 0x00000e06#32 = 0#32) (.vcn32 (fld w0 19 7) (fld w0 12 7) (fld w0 3 2) (bit w0 0))
  | 7 => checked (w0 &&& 0x00000e06#32 = 0#32) (.vcf32n (fld w0 19 7) (fld w0 12 7) (fld w0 3 2) (bit w0 0))
  | 10 => .ok (.vcnar (fld w0 19 7) (fld w0 12 7) (fld w0 9 3) (fld w0 3 2) (fld w0 1 2) (bit w0 0))
  | 11 => checked (w0 &&& 0x00000018#32 = 0#32) (.vcwid (fld w0 19 7) (fld w0 12 7) (fld w0 9 3) (fld w0 1 2) (bit w0
      0))
  | 12 => .ok (.vct6 (fld w0 19 7) (fld w0 12 7) (fld w0 9 3) (fld w0 3 2) (fld w0 1 2) (bit w0 0))
  | 13 => checked (w0 &&& 0x00000e18#32 = 0#32) (.vcf32t6 (fld w0 19 7) (fld w0 12 7) (fld w0 1 2) (bit w0 0))
  | 14 => checked (w0 &&& 0x00000e18#32 = 0#32) (.vpk6 (fld w0 19 7) (fld w0 12 7) (fld w0 1 2) (bit w0 0))
  | 15 => checked (w0 &&& 0x00000e18#32 = 0#32) (.vunpk6 (fld w0 19 7) (fld w0 12 7) (fld w0 1 2) (bit w0 0))
  | _ => .error .illegalFn

/-- Major 0x1f: VSHUF VSHFX VROTS VBCST VREDA VREDF VSCAN VCMPK (Table 7.7). -/
noncomputable def dec1f (w0 : W32) : Except Reject Instr :=
  match (fld w0 2 3).toNat with
  | 0 => .ok (.vshuf (fld w0 19 7) (fld w0 12 7) (fld w0 5 7) (bit w0 1) (bit w0 0))
  | 1 => checked (w0 &&& 0x00000001#32 = 0#32) (.vshfx (fld w0 19 7) (fld w0 12 7) (fld w0 5 7) (bit w0 1))
  | 2 => .ok (.vrots (fld w0 19 7) (fld w0 12 7) (fld w0 5 7) (bit w0 1) (bit w0 0))
  | 3 => checked (w0 &&& 0x00000fe1#32 = 0#32) (.vbcst (fld w0 19 7) (fld w0 12 7) (bit w0 1))
  | 4 => checked (w0 &&& 0x00000fe1#32 = 0#32) (.vreda (fld w0 19 7) (fld w0 12 7) (bit w0 1))
  | 5 => checked (w0 &&& 0x00000fe1#32 = 0#32) (.vredf (fld w0 19 7) (fld w0 12 7) (bit w0 1))
  | 6 => checked (w0 &&& 0x00000fe1#32 = 0#32) (.vscan (fld w0 19 7) (fld w0 12 7) (bit w0 1))
  | 7 => checked (w0 &&& 0x00000fe1#32 = 0#32) (.vcmpk (fld w0 19 7) (fld w0 12 7) (bit w0 1))
  | _ => .error .illegalFn

/-- Major 0x20: VLDB VLDH VLDW VLDD VLDQ VLDBS VLDHS VLDL (Table 7.7). -/
noncomputable def dec20 (w0 : W32) : Except Reject Instr :=
  match (fld w0 3 3).toNat with
  | 0 => checked (w0 &&& 0x00000002#32 = 0#32) (.vldb (fld w0 19 7) (fld w0 12 7) (fld w0 6 6) (bit w0 2) (bit w0 0))
  | 1 => checked (w0 &&& 0x00000002#32 = 0#32) (.vldh (fld w0 19 7) (fld w0 12 7) (fld w0 6 6) (bit w0 2) (bit w0 0))
  | 2 => checked (w0 &&& 0x00000002#32 = 0#32) (.vldw (fld w0 19 7) (fld w0 12 7) (fld w0 6 6) (bit w0 2) (bit w0 0))
  | 3 => checked (w0 &&& 0x00000002#32 = 0#32) (.vldd (fld w0 19 7) (fld w0 12 7) (fld w0 6 6) (bit w0 2) (bit w0 0))
  | 4 => checked (w0 &&& 0x00000002#32 = 0#32) (.vldq (fld w0 19 7) (fld w0 12 7) (fld w0 6 6) (bit w0 2) (bit w0 0))
  | 5 => checked (w0 &&& 0x00000002#32 = 0#32) (.vldbs (fld w0 19 7) (fld w0 12 7) (fld w0 6 6) (bit w0 2) (bit w0 0))
  | 6 => checked (w0 &&& 0x00000002#32 = 0#32) (.vldhs (fld w0 19 7) (fld w0 12 7) (fld w0 6 6) (bit w0 2) (bit w0 0))
  | 7 => checked (w0 &&& 0x00000002#32 = 0#32) (.vldl (fld w0 19 7) (fld w0 12 7) (fld w0 6 6) (bit w0 2) (bit w0 0))
  | _ => .error .illegalFn

/-- Major 0x21: VSTB VSTH VSTW VSTD VSTQ VSTL (Table 7.7). -/
noncomputable def dec21 (w0 : W32) : Except Reject Instr :=
  match (fld w0 3 3).toNat with
  | 0 => .ok (.vstb (fld w0 19 7) (fld w0 12 7) (fld w0 6 6) (bit w0 2) (bit w0 1) (bit w0 0))
  | 1 => .ok (.vsth (fld w0 19 7) (fld w0 12 7) (fld w0 6 6) (bit w0 2) (bit w0 1) (bit w0 0))
  | 2 => .ok (.vstw (fld w0 19 7) (fld w0 12 7) (fld w0 6 6) (bit w0 2) (bit w0 1) (bit w0 0))
  | 3 => .ok (.vstd (fld w0 19 7) (fld w0 12 7) (fld w0 6 6) (bit w0 2) (bit w0 1) (bit w0 0))
  | 4 => .ok (.vstq (fld w0 19 7) (fld w0 12 7) (fld w0 6 6) (bit w0 2) (bit w0 1) (bit w0 0))
  | 5 => .ok (.vstl (fld w0 19 7) (fld w0 12 7) (fld w0 6 6) (bit w0 2) (bit w0 1) (bit w0 0))
  | _ => .error .illegalFn

/-- Major 0x22: STBIND STPOS STSET QBIND QDRAIN STEND (Table 7.7). -/
noncomputable def dec22 (w0 : W32) : Except Reject Instr :=
  match (fld w0 3 3).toNat with
  | 0 => checked (w0 &&& 0x0007f001#32 = 0#32) (.stbind (fld w0 19 7) (fld w0 6 6) (bit w0 2) (bit w0 1))
  | 1 => checked (w0 &&& 0x0007ffc5#32 = 0#32) (.stpos (fld w0 19 7) (bit w0 1))
  | 2 => checked (w0 &&& 0x0007ffc5#32 = 0#32) (.stset (fld w0 19 7) (bit w0 1))
  | 3 => checked (w0 &&& 0x0007f001#32 = 0#32) (.qbind (fld w0 19 7) (fld w0 6 6) (bit w0 2) (bit w0 1))
  | 4 => checked (w0 &&& 0x0007ffc5#32 = 0#32) (.qdrain (fld w0 19 7) (bit w0 1))
  | 5 => checked (w0 &&& 0x0007ffc5#32 = 0#32) (.stend (fld w0 19 7) (bit w0 1))
  | _ => .error .illegalFn

/-- Major 0x23: WDIST WPIN WUNPIN WPULL WHOME (Table 7.7). -/
noncomputable def dec23 (w0 : W32) : Except Reject Instr :=
  match (fld w0 3 3).toNat with
  | 0 => checked (w0 &&& 0x00000006#32 = 0#32) (.wdist (fld w0 19 7) (fld w0 12 7) (fld w0 6 6) (bit w0 0))
  | 1 => checked (w0 &&& 0x00000004#32 = 0#32) (.wpin (fld w0 19 7) (fld w0 12 7) (fld w0 6 6) (bit w0 1) (bit w0 0))
  | 2 => checked (w0 &&& 0x00000006#32 = 0#32) (.wunpin (fld w0 19 7) (fld w0 12 7) (fld w0 6 6) (bit w0 0))
  | 3 => checked (w0 &&& 0x00000006#32 = 0#32) (.wpull (fld w0 19 7) (fld w0 12 7) (fld w0 6 6) (bit w0 0))
  | 4 => checked (w0 &&& 0x00000006#32 = 0#32) (.whome (fld w0 19 7) (fld w0 12 7) (fld w0 6 6) (bit w0 0))
  | _ => .error .illegalFn

/-- Major 0x24: AADD AMIN AMAX AMINU AMAXU AAND AOR AXOR AXCHG ACAS AFADD (Table 7.7). -/
noncomputable def dec24 (w0 w1 : W32) : Except Reject Instr :=
  match (fld w0 2 4).toNat with
  | 0 => checked (w0 &&& 0x00000000#32 = 0#32 ∧ w1 &&& 0x01fc3fff#32 = 0#32) (.aadd (fld w0 19 7) (fld w0 12 7) (fld
      w0 6 6) (bit w0 1) (bit w0 0) (fld w1 25 7) (fld w1 16 2) (bit w1 15) (bit w1 14))
  | 1 => checked (w0 &&& 0x00000000#32 = 0#32 ∧ w1 &&& 0x01fc3fff#32 = 0#32) (.amin (fld w0 19 7) (fld w0 12 7) (fld
      w0 6 6) (bit w0 1) (bit w0 0) (fld w1 25 7) (fld w1 16 2) (bit w1 15) (bit w1 14))
  | 2 => checked (w0 &&& 0x00000000#32 = 0#32 ∧ w1 &&& 0x01fc3fff#32 = 0#32) (.amax (fld w0 19 7) (fld w0 12 7) (fld
      w0 6 6) (bit w0 1) (bit w0 0) (fld w1 25 7) (fld w1 16 2) (bit w1 15) (bit w1 14))
  | 3 => checked (w0 &&& 0x00000000#32 = 0#32 ∧ w1 &&& 0x01fc3fff#32 = 0#32) (.aminu (fld w0 19 7) (fld w0 12 7) (fld
      w0 6 6) (bit w0 1) (bit w0 0) (fld w1 25 7) (fld w1 16 2) (bit w1 15) (bit w1 14))
  | 4 => checked (w0 &&& 0x00000000#32 = 0#32 ∧ w1 &&& 0x01fc3fff#32 = 0#32) (.amaxu (fld w0 19 7) (fld w0 12 7) (fld
      w0 6 6) (bit w0 1) (bit w0 0) (fld w1 25 7) (fld w1 16 2) (bit w1 15) (bit w1 14))
  | 5 => checked (w0 &&& 0x00000000#32 = 0#32 ∧ w1 &&& 0x01fc3fff#32 = 0#32) (.aand (fld w0 19 7) (fld w0 12 7) (fld
      w0 6 6) (bit w0 1) (bit w0 0) (fld w1 25 7) (fld w1 16 2) (bit w1 15) (bit w1 14))
  | 6 => checked (w0 &&& 0x00000000#32 = 0#32 ∧ w1 &&& 0x01fc3fff#32 = 0#32) (.aor (fld w0 19 7) (fld w0 12 7) (fld w0
      6 6) (bit w0 1) (bit w0 0) (fld w1 25 7) (fld w1 16 2) (bit w1 15) (bit w1 14))
  | 7 => checked (w0 &&& 0x00000000#32 = 0#32 ∧ w1 &&& 0x01fc3fff#32 = 0#32) (.axor (fld w0 19 7) (fld w0 12 7) (fld
      w0 6 6) (bit w0 1) (bit w0 0) (fld w1 25 7) (fld w1 16 2) (bit w1 15) (bit w1 14))
  | 8 => checked (w0 &&& 0x00000000#32 = 0#32 ∧ w1 &&& 0x01fc3fff#32 = 0#32) (.axchg (fld w0 19 7) (fld w0 12 7) (fld
      w0 6 6) (bit w0 1) (bit w0 0) (fld w1 25 7) (fld w1 16 2) (bit w1 15) (bit w1 14))
  | 9 => checked (w0 &&& 0x00000000#32 = 0#32 ∧ w1 &&& 0x00001fff#32 = 0#32) (.acas (fld w0 19 7) (fld w0 12 7) (fld
      w0 6 6) (bit w0 1) (bit w0 0) (fld w1 25 7) (fld w1 18 7) (fld w1 16 2) (bit w1 15) (bit w1 14) (bit w1 13))
  | 10 => checked (w0 &&& 0x00000000#32 = 0#32 ∧ w1 &&& 0x01fc3fff#32 = 0#32) (.afadd (fld w0 19 7) (fld w0 12 7) (fld
      w0 6 6) (bit w0 1) (bit w0 0) (fld w1 25 7) (fld w1 16 2) (bit w1 15) (bit w1 14))
  | _ => .error .illegalFn

/-- Major 0x25: RADD RFADD RBFADD RMIN RMAX RAND ROR RXOR (Table 7.7). -/
noncomputable def dec25 (w0 : W32) : Except Reject Instr :=
  match (fld w0 3 3).toNat with
  | 0 => .ok (.radd (fld w0 19 7) (fld w0 12 7) (fld w0 6 6) (bit w0 2) (bit w0 1) (bit w0 0))
  | 1 => .ok (.rfadd (fld w0 19 7) (fld w0 12 7) (fld w0 6 6) (bit w0 2) (bit w0 1) (bit w0 0))
  | 2 => .ok (.rbfadd (fld w0 19 7) (fld w0 12 7) (fld w0 6 6) (bit w0 2) (bit w0 1) (bit w0 0))
  | 3 => .ok (.rmin (fld w0 19 7) (fld w0 12 7) (fld w0 6 6) (bit w0 2) (bit w0 1) (bit w0 0))
  | 4 => .ok (.rmax (fld w0 19 7) (fld w0 12 7) (fld w0 6 6) (bit w0 2) (bit w0 1) (bit w0 0))
  | 5 => .ok (.rand (fld w0 19 7) (fld w0 12 7) (fld w0 6 6) (bit w0 2) (bit w0 1) (bit w0 0))
  | 6 => .ok (.ror (fld w0 19 7) (fld w0 12 7) (fld w0 6 6) (bit w0 2) (bit w0 1) (bit w0 0))
  | 7 => .ok (.rxor (fld w0 19 7) (fld w0 12 7) (fld w0 6 6) (bit w0 2) (bit w0 1) (bit w0 0))
  | _ => .error .illegalFn

/-- Major 0x26: TBEGIN TEND TABORT TTEST (Table 7.7). -/
noncomputable def dec26 (w0 : W32) : Except Reject Instr :=
  match (fld w0 2 3).toNat with
  | 0 => checked (w0 &&& 0x00000fe1#32 = 0#32) (.tbegin (fld w0 19 7) (fld w0 12 7) (bit w0 1))
  | 1 => checked (w0 &&& 0x03ffffe3#32 = 0#32) (.tend)
  | 2 => checked (w0 &&& 0x03f80fe1#32 = 0#32) (.tabort (fld w0 12 7) (bit w0 1))
  | 3 => checked (w0 &&& 0x0007ffe3#32 = 0#32) (.ttest (fld w0 19 7))
  | _ => .error .illegalFn

/-- Major 0x27: CPY CPY2D CPYG CPYS SLBMV CPYZ (Table 7.7). -/
noncomputable def dec27 (w0 w1 : W32) : Except Reject Instr :=
  match (fld w0 2 3).toNat with
  | 0 => checked (w0 &&& 0x00000003#32 = 0#32 ∧ w1 &&& 0x1fc0feff#32 = 0#32) (.cpy (fld w0 19 7) (fld w0 12 7) (fld w0
      5 7) (bit w1 31) (bit w1 30) (bit w1 29) (fld w1 16 6) (bit w1 8))
  | 1 => checked (w0 &&& 0x00000003#32 = 0#32 ∧ w1 &&& 0x1fc0feff#32 = 0#32) (.cpy2d (fld w0 19 7) (fld w0 12 7) (fld
      w0 5 7) (bit w1 31) (bit w1 30) (bit w1 29) (fld w1 16 6) (bit w1 8))
  | 2 => checked (w0 &&& 0x00000003#32 = 0#32 ∧ w1 &&& 0x1fc0fef8#32 = 0#32) (.cpyg (fld w0 19 7) (fld w0 12 7) (fld
      w0 5 7) (bit w1 31) (bit w1 30) (bit w1 29) (fld w1 16 6) (bit w1 8) (bit w1 2) (fld w1 0 2))
  | 3 => checked (w0 &&& 0x00000003#32 = 0#32 ∧ w1 &&& 0x1fc0fef8#32 = 0#32) (.cpys (fld w0 19 7) (fld w0 12 7) (fld
      w0 5 7) (bit w1 31) (bit w1 30) (bit w1 29) (fld w1 16 6) (bit w1 8) (bit w1 2) (fld w1 0 2))
  | 4 => checked (w0 &&& 0x00000fe3#32 = 0#32 ∧ w1 &&& 0x3fffffff#32 = 0#32) (.slbmv (fld w0 19 7) (fld w0 12 7) (bit
      w1 31) (bit w1 30))
  | 5 => checked (w0 &&& 0x0007f003#32 = 0#32 ∧ w1 &&& 0x5fc0feff#32 = 0#32) (.cpyz (fld w0 19 7) (fld w0 5 7) (bit w1
      31) (bit w1 29) (fld w1 16 6) (bit w1 8))
  | _ => .error .illegalFn

/-- Major 0x28: FENCE FENCEI FENCEH (Table 7.7). -/
noncomputable def dec28 (w0 : W32) : Except Reject Instr :=
  match (fld w0 2 3).toNat with
  | 0 => checked (w0 &&& 0x03ffffe3#32 = 0#32) (.fence)
  | 1 => checked (w0 &&& 0x03ffffe3#32 = 0#32) (.fencei)
  | 2 => checked (w0 &&& 0x03ffffe3#32 = 0#32) (.fenceh)
  | _ => .error .illegalFn

/-- Major 0x29: SLBXL SLBRD (Table 7.7). -/
noncomputable def dec29 (w0 w1 : W32) : Except Reject Instr :=
  match (fld w0 2 3).toNat with
  | 0 => checked (w0 &&& 0x00000022#32 = 0#32 ∧ w1 &&& 0xc0ffffff#32 = 0#32) (.slbxl (fld w0 19 7) (fld w0 12 7) (fld
      w0 6 6) (bit w0 0) (fld w1 24 6))
  | 1 => checked (w0 &&& 0x0007f023#32 = 0#32 ∧ w1 &&& 0xfffffff8#32 = 0#32) (.slbrd (fld w0 19 7) (fld w0 6 6) (fld
      w1 0 3))
  | _ => .error .illegalFn

/-- Major 0x30: MMA MMAZ MMAC MMACZ (Table 7.7). -/
noncomputable def dec30 (w0 w1 : W32) : Except Reject Instr :=
  match (fld w0 3 2).toNat with
  | 0 => if (bit w1 8) = true ∨ ((bit w1 7) = false ∧ (fld w1 0 7) = 0#7) then checked (w0 &&& 0x00000000#32 = 0#32 ∧
      w1 &&& 0x00000200#32 = 0#32) (.mma (fld w0 19 7) (fld w0 12 7) (fld w0 5 7) (bit w0 2) (bit w0 1) (bit w0 0)
      (fld w1 29 3) (fld w1 26 3) (fld w1 19 7) (fld w1 12 7) (fld w1 10 2) (bit w1 8) (bit w1 7) (fld w1 0 7)) else
      .error .reservedBits
  | 1 => if (bit w1 8) = true ∨ ((bit w1 7) = false ∧ (fld w1 0 7) = 0#7) then checked (w0 &&& 0x00000000#32 = 0#32 ∧
      w1 &&& 0x00000200#32 = 0#32) (.mmaz (fld w0 19 7) (fld w0 12 7) (fld w0 5 7) (bit w0 2) (bit w0 1) (bit w0 0)
      (fld w1 29 3) (fld w1 26 3) (fld w1 19 7) (fld w1 12 7) (fld w1 10 2) (bit w1 8) (bit w1 7) (fld w1 0 7)) else
      .error .reservedBits
  | 2 => checked (w0 &&& 0x0007f002#32 = 0#32 ∧ w1 &&& 0xe3ffff7f#32 = 0#32) (.mmac (fld w0 19 7) (fld w0 5 7) (bit w0
      2) (bit w0 0) (fld w1 26 3) (bit w1 7))
  | 3 => checked (w0 &&& 0x0007f002#32 = 0#32 ∧ w1 &&& 0xe3ffff7f#32 = 0#32) (.mmacz (fld w0 19 7) (fld w0 5 7) (bit
      w0 2) (bit w0 0) (fld w1 26 3) (bit w1 7))
  | _ => .error .illegalFn

/-- Major 0x31: MSTZ MSTRD MSTWR MNORM (Table 7.7). -/
noncomputable def dec31 (w0 : W32) : Except Reject Instr :=
  match (fld w0 2 3).toNat with
  | 0 => checked (w0 &&& 0x03ffffe3#32 = 0#32) (.mstz)
  | 1 => checked (w0 &&& 0x0007ffe3#32 = 0#32) (.mstrd (fld w0 19 7))
  | 2 => checked (w0 &&& 0x03f80fe1#32 = 0#32) (.mstwr (fld w0 12 7) (bit w0 1))
  | 3 => checked (w0 &&& 0x0007ffe3#32 = 0#32) (.mnorm (fld w0 19 7))
  | _ => .error .illegalFn

/-- Major 0x33: WATT WATTD (Table 7.7). -/
noncomputable def dec33 (w0 w1 : W32) : Except Reject Instr :=
  match (fld w0 2 3).toNat with
  | 0 => checked (w0 &&& 0x00000000#32 = 0#32 ∧ w1 &&& 0x1fffffff#32 = 0#32) (.watt (fld w0 19 7) (fld w0 12 7) (fld
      w0 5 7) (bit w0 1) (bit w0 0) (fld w1 29 3))
  | 1 => checked (w0 &&& 0x00000000#32 = 0#32 ∧ w1 &&& 0x00003fff#32 = 0#32) (.wattd (fld w0 19 7) (fld w0 12 7) (fld
      w0 5 7) (bit w0 1) (bit w0 0) (fld w1 29 3) (fld w1 22 7) (fld w1 15 7) (bit w1 14))
  | _ => .error .illegalFn

/-- Major 0x34: CRDS CRDR DMRD DMCLR (Table 7.7). -/
noncomputable def dec34 (w0 w1 : W32) : Except Reject Instr :=
  match (fld w0 2 3).toNat with
  | 0 => checked (w0 &&& 0x00000000#32 = 0#32 ∧ w1 &&& 0x7fffffff#32 = 0#32) (.crds (fld w0 19 7) (fld w0 12 7) (fld
      w0 5 7) (bit w0 1) (bit w0 0) (bit w1 31))
  | 1 => checked (w0 &&& 0x00000000#32 = 0#32 ∧ w1 &&& 0xffffffff#32 = 0#32) (.crdr (fld w0 19 7) (fld w0 12 7) (fld
      w0 5 7) (bit w0 1) (bit w0 0))
  | 2 => checked (w0 &&& 0x00000000#32 = 0#32 ∧ w1 &&& 0xffffffe0#32 = 0#32) (.dmrd (fld w0 19 7) (fld w0 12 7) (fld
      w0 5 7) (bit w0 1) (bit w0 0) (fld w1 0 5))
  | 3 => checked (w0 &&& 0x00000000#32 = 0#32 ∧ w1 &&& 0x7fffffe0#32 = 0#32) (.dmclr (fld w0 19 7) (fld w0 12 7) (fld
      w0 5 7) (bit w0 1) (bit w0 0) (bit w1 31) (fld w1 0 5))
  | _ => .error .illegalFn

/-- Major 0x35: STEPQ TOKC SEQRD (Table 7.7). -/
noncomputable def dec35 (w0 : W32) : Except Reject Instr :=
  match (fld w0 2 3).toNat with
  | 0 => checked (w0 &&& 0x00000fe1#32 = 0#32) (.stepq (fld w0 19 7) (fld w0 12 7) (bit w0 1))
  | 1 => checked (w0 &&& 0x03f80000#32 = 0#32) (.tokc (fld w0 12 7) (fld w0 5 7) (bit w0 1) (bit w0 0))
  | 2 => .ok (.seqrd (fld w0 19 7) (fld w0 12 7) (fld w0 5 7) (bit w0 1) (bit w0 0))
  | _ => .error .illegalFn

/-- Major 0x3c: TLBINV GRDSET SNAPCT DBGRD (Table 7.7). TLBINV's selector bits and register that its kind does not use are not reserved:
the bits are ignored, and the register is a source under its e-bit. (DESIGN CHOICE, log 180, unsafe.) -/
noncomputable def dec3c (w0 : W32) : Except Reject Instr :=
  match (fld w0 4 3).toNat with
  | 0 => if (fld w0 7 2) ≠ 3#2 then checked (w0 &&& 0x0000060e#32 = 0#32) (.tlbinv (fld w0 19 7) (fld w0 11 8) (fld w0
      7 2) (bit w0 0)) else .error .select
  | 1 => checked (w0 &&& 0x0007800e#32 = 0#32) (.grdset (fld w0 19 7) (fld w0 7 8) (bit w0 0))
  | 2 => if (fld w0 7 2) ≠ 3#2 then checked (w0 &&& 0x0007fe0e#32 = 0#32) (.snapct (fld w0 19 7) (fld w0 7 2) (bit w0
      0)) else .error .select
  | 3 => if (fld w0 7 12).toNat < 0x180 then checked (w0 &&& 0x0000000e#32 = 0#32) (.dbgrd (fld w0 19 7) (fld w0 7 12)
      (bit w0 0)) else .error .select
  | _ => .error .illegalFn

/-- The decoder (R151, R152): the instruction that words `w0` and, for a long form, `w1` encode, or why there is none.
(DEDUCED, log 76, unsafe.) -/
noncomputable def decode (w0 w1 : W32) : Except Reject Instr :=
  match (fld w0 26 6).toNat with
  | 0x00 => dec00 w0
  | 0x01 => dec01 w0
  | 0x02 => dec02 w0
  | 0x03 => dec03 w0
  | 0x04 => dec04 w0
  | 0x05 => dec05 w0
  | 0x06 => dec06 w0
  | 0x07 => dec07 w0
  | 0x08 => dec08 w0
  | 0x09 => dec09 w0
  | 0x0a => dec0a w0
  | 0x0b => dec0b w0
  | 0x0c => dec0c w0
  | 0x0d => dec0d w0
  | 0x0e => dec0e w0
  | 0x0f => dec0f w0
  | 0x10 => dec10 w0
  | 0x11 => dec11 w0
  | 0x12 => dec12 w0
  | 0x13 => dec13 w0
  | 0x14 => dec14 w0
  | 0x15 => dec15 w0
  | 0x16 => dec16 w0
  | 0x17 => dec17 w0
  | 0x18 => dec18 w0
  | 0x19 => dec19 w0
  | 0x1a => dec1a w0
  | 0x1b => dec1b w0
  | 0x1d => dec1d w0
  | 0x1e => dec1e w0
  | 0x1f => dec1f w0
  | 0x20 => dec20 w0
  | 0x21 => dec21 w0
  | 0x22 => dec22 w0
  | 0x23 => dec23 w0
  | 0x24 => dec24 w0 w1
  | 0x25 => dec25 w0
  | 0x26 => dec26 w0
  | 0x27 => dec27 w0 w1
  | 0x28 => dec28 w0
  | 0x29 => dec29 w0 w1
  | 0x30 => dec30 w0 w1
  | 0x31 => dec31 w0
  | 0x33 => dec33 w0 w1
  | 0x34 => dec34 w0 w1
  | 0x35 => dec35 w0
  | 0x3c => dec3c w0
  | _ => .error .unassignedMajor

/-- A word of a major whose instructions take two words, with a fn that names one (R150, Table 7.6).
(DEDUCED, log 76, unsafe.) -/
def isLong (w0 : W32) : Bool :=
  match (fld w0 26 6).toNat with
  | 0x24 => (fld w0 2 4).toNat < 11
  | 0x27 => (fld w0 2 3).toNat < 6
  | 0x29 => (fld w0 2 3).toNat < 2
  | 0x30 => true
  | 0x33 => (fld w0 2 3).toNat < 2
  | 0x34 => (fld w0 2 3).toNat < 4
  | _ => false

/-- A 32-bit word from four bytes, the lowest address first (R140). -/
def wordOfBytes (a b c d : Byte) : W32 := d ++ c ++ b ++ a

/-- The four bytes of a word, the lowest address first (R140). -/
def bytesOfWord (w : W32) : List Byte := [fld w 0 8, fld w 8 8, fld w 16 8, fld w 24 8]

/-- The decoder on bytes: the first instruction and the bytes after it. A long form needs eight bytes. -/
noncomputable def decodeBytes : List Byte → Except Reject (Instr × List Byte)
  | a :: b :: c :: d :: rest =>
    let w0 := wordOfBytes a b c d
    if isLong w0 then
      match rest with
      | e :: f :: g :: h :: rest' => (decode w0 (wordOfBytes e f g h)).map (·, rest')
      | _ => .error .tooShort
    else (decode w0 0).map (·, rest)
  | _ => .error .tooShort

/-- The instruction read from an instruction whose bits are `w`, bit 0 the least significant of the first word; the bits
above `nbits` are zero, up to the longest instruction's 64. -/
noncomputable def decodeTableWord (nbits w : Nat) : Option Instr :=
  let v := BitVec.ofNat 64 (w % 2 ^ nbits)
  match decodeBytes (bytesOfWord (v.extractLsb' 0 32) ++ bytesOfWord (v.extractLsb' 32 32)) with
  | .ok (i, _) => some i
  | .error _ => none

/-- The words of an instruction (Tables 7.3, 7.7 and the long forms' entries); `none` for the device steps, which have no
encoding. -/
def encode : Instr → Option (W32 × Option W32)
  | .sadd d a b ea eb => some (0x00#6 ++ d ++ a ++ b ++ 0#3 ++ BitVec.ofBool ea ++ BitVec.ofBool eb, none)
  | .ssub d a b ea eb => some (0x00#6 ++ d ++ a ++ b ++ 1#3 ++ BitVec.ofBool ea ++ BitVec.ofBool eb, none)
  | .smul d a b ea eb => some (0x00#6 ++ d ++ a ++ b ++ 2#3 ++ BitVec.ofBool ea ++ BitVec.ofBool eb, none)
  | .smulh d a b ea eb => some (0x00#6 ++ d ++ a ++ b ++ 3#3 ++ BitVec.ofBool ea ++ BitVec.ofBool eb, none)
  | .smulhu d a b ea eb => some (0x00#6 ++ d ++ a ++ b ++ 4#3 ++ BitVec.ofBool ea ++ BitVec.ofBool eb, none)
  | .sand d a b ea eb => some (0x00#6 ++ d ++ a ++ b ++ 5#3 ++ BitVec.ofBool ea ++ BitVec.ofBool eb, none)
  | .sor d a b ea eb => some (0x00#6 ++ d ++ a ++ b ++ 6#3 ++ BitVec.ofBool ea ++ BitVec.ofBool eb, none)
  | .sxor d a b ea eb => some (0x00#6 ++ d ++ a ++ b ++ 7#3 ++ BitVec.ofBool ea ++ BitVec.ofBool eb, none)
  | .sshl d a b ea eb => some (0x01#6 ++ d ++ a ++ b ++ 0#3 ++ BitVec.ofBool ea ++ BitVec.ofBool eb, none)
  | .sshr d a b ea eb => some (0x01#6 ++ d ++ a ++ b ++ 1#3 ++ BitVec.ofBool ea ++ BitVec.ofBool eb, none)
  | .ssra d a b ea eb => some (0x01#6 ++ d ++ a ++ b ++ 2#3 ++ BitVec.ofBool ea ++ BitVec.ofBool eb, none)
  | .smin d a b ea eb => some (0x01#6 ++ d ++ a ++ b ++ 3#3 ++ BitVec.ofBool ea ++ BitVec.ofBool eb, none)
  | .smax d a b ea eb => some (0x01#6 ++ d ++ a ++ b ++ 4#3 ++ BitVec.ofBool ea ++ BitVec.ofBool eb, none)
  | .sminu d a b ea eb => some (0x01#6 ++ d ++ a ++ b ++ 5#3 ++ BitVec.ofBool ea ++ BitVec.ofBool eb, none)
  | .smaxu d a b ea eb => some (0x01#6 ++ d ++ a ++ b ++ 6#3 ++ BitVec.ofBool ea ++ BitVec.ofBool eb, none)
  | .sandn d a b ea eb => some (0x01#6 ++ d ++ a ++ b ++ 7#3 ++ BitVec.ofBool ea ++ BitVec.ofBool eb, none)
  | .sceq d a b ea eb => some (0x02#6 ++ d ++ a ++ b ++ 0#3 ++ BitVec.ofBool ea ++ BitVec.ofBool eb, none)
  | .scne d a b ea eb => some (0x02#6 ++ d ++ a ++ b ++ 1#3 ++ BitVec.ofBool ea ++ BitVec.ofBool eb, none)
  | .sclt d a b ea eb => some (0x02#6 ++ d ++ a ++ b ++ 2#3 ++ BitVec.ofBool ea ++ BitVec.ofBool eb, none)
  | .scle d a b ea eb => some (0x02#6 ++ d ++ a ++ b ++ 3#3 ++ BitVec.ofBool ea ++ BitVec.ofBool eb, none)
  | .scltu d a b ea eb => some (0x02#6 ++ d ++ a ++ b ++ 4#3 ++ BitVec.ofBool ea ++ BitVec.ofBool eb, none)
  | .scleu d a b ea eb => some (0x02#6 ++ d ++ a ++ b ++ 5#3 ++ BitVec.ofBool ea ++ BitVec.ofBool eb, none)
  | .ssel d a b ea eb => some (0x02#6 ++ d ++ a ++ b ++ 6#3 ++ BitVec.ofBool ea ++ BitVec.ofBool eb, none)
  | .scbit d a b ea eb => some (0x02#6 ++ d ++ a ++ b ++ 7#3 ++ BitVec.ofBool ea ++ BitVec.ofBool eb, none)
  | .saddi d a imm ea => some (0x03#6 ++ d ++ a ++ imm ++ 0#3 ++ BitVec.ofBool ea, none)
  | .sandi d a imm ea => some (0x03#6 ++ d ++ a ++ imm ++ 1#3 ++ BitVec.ofBool ea, none)
  | .sori d a imm ea => some (0x03#6 ++ d ++ a ++ imm ++ 2#3 ++ BitVec.ofBool ea, none)
  | .sxori d a imm ea => some (0x03#6 ++ d ++ a ++ imm ++ 3#3 ++ BitVec.ofBool ea, none)
  | .sshli d a imm ea => some (0x03#6 ++ d ++ a ++ imm ++ 4#3 ++ BitVec.ofBool ea, none)
  | .sshri d a imm ea => some (0x03#6 ++ d ++ a ++ imm ++ 5#3 ++ BitVec.ofBool ea, none)
  | .ssrai d a imm ea => some (0x03#6 ++ d ++ a ++ imm ++ 6#3 ++ BitVec.ofBool ea, none)
  | .sclti d a imm ea => some (0x03#6 ++ d ++ a ++ imm ++ 7#3 ++ BitVec.ofBool ea, none)
  | .smovi d imm => some (0x04#6 ++ d ++ imm, none)
  | .sinsh d k imm => some (0x05#6 ++ d ++ k ++ 0#1 ++ imm, none)
  | .sgetx d => some (0x06#6 ++ d ++ 0#14 ++ 0#3 ++ 0#2, none)
  | .ssetx a ea => some (0x06#6 ++ 0#7 ++ a ++ 0#7 ++ 1#3 ++ BitVec.ofBool ea ++ 0#1, none)
  | .sandx d a ea => some (0x06#6 ++ d ++ a ++ 0#7 ++ 2#3 ++ BitVec.ofBool ea ++ 0#1, none)
  | .sandnx d a ea => some (0x06#6 ++ d ++ a ++ 0#7 ++ 3#3 ++ BitVec.ofBool ea ++ 0#1, none)
  | .sorx d a ea => some (0x06#6 ++ d ++ a ++ 0#7 ++ 4#3 ++ BitVec.ofBool ea ++ 0#1, none)
  | .spopc d a ea => some (0x06#6 ++ d ++ a ++ 0#7 ++ 5#3 ++ BitVec.ofBool ea ++ 0#1, none)
  | .sffs d a ea => some (0x06#6 ++ d ++ a ++ 0#7 ++ 6#3 ++ BitVec.ofBool ea ++ 0#1, none)
  | .sfullx d => some (0x06#6 ++ d ++ 0#14 ++ 7#3 ++ 0#2, none)
  | .sclz d a ea => some (0x07#6 ++ d ++ a ++ 0#7 ++ 0#3 ++ BitVec.ofBool ea ++ 0#1, none)
  | .sctz d a ea => some (0x07#6 ++ d ++ a ++ 0#7 ++ 1#3 ++ BitVec.ofBool ea ++ 0#1, none)
  | .sbrev d a ea => some (0x07#6 ++ d ++ a ++ 0#7 ++ 2#3 ++ BitVec.ofBool ea ++ 0#1, none)
  | .sbswap d a ea => some (0x07#6 ++ d ++ a ++ 0#7 ++ 3#3 ++ BitVec.ofBool ea ++ 0#1, none)
  | .sextb d a ea => some (0x07#6 ++ d ++ a ++ 0#7 ++ 4#3 ++ BitVec.ofBool ea ++ 0#1, none)
  | .sexth d a ea => some (0x07#6 ++ d ++ a ++ 0#7 ++ 5#3 ++ BitVec.ofBool ea ++ 0#1, none)
  | .sextw d a ea => some (0x07#6 ++ d ++ a ++ 0#7 ++ 6#3 ++ BitVec.ofBool ea ++ 0#1, none)
  | .szextw d a ea => some (0x07#6 ++ d ++ a ++ 0#7 ++ 7#3 ++ BitVec.ofBool ea ++ 0#1, none)
  | .br off => some (0x08#6 ++ 0#4 ++ off, none)
  | .brxz off => some (0x08#6 ++ 1#4 ++ off, none)
  | .brxnz off => some (0x08#6 ++ 2#4 ++ off, none)
  | .brxall off => some (0x08#6 ++ 3#4 ++ off, none)
  | .call off => some (0x08#6 ++ 4#4 ++ off, none)
  | .brz a ea off => some (0x09#6 ++ 0#4 ++ a ++ BitVec.ofBool ea ++ off, none)
  | .brnz a ea off => some (0x09#6 ++ 1#4 ++ a ++ BitVec.ofBool ea ++ off, none)
  | .brneg a ea off => some (0x09#6 ++ 2#4 ++ a ++ BitVec.ofBool ea ++ off, none)
  | .brpos a ea off => some (0x09#6 ++ 3#4 ++ a ++ BitVec.ofBool ea ++ off, none)
  | .jmpr a ea => some (0x0a#6 ++ 0#7 ++ a ++ 0#7 ++ 0#3 ++ BitVec.ofBool ea ++ 0#1, none)
  | .callr a ea => some (0x0a#6 ++ 0#7 ++ a ++ 0#7 ++ 1#3 ++ BitVec.ofBool ea ++ 0#1, none)
  | .ret => some (0x0a#6 ++ 0#21 ++ 2#3 ++ 0#2, none)
  | .smfr s spr => some (0x0b#6 ++ s ++ spr ++ 0#3 ++ 0#4, none)
  | .smtr s spr ea => some (0x0b#6 ++ s ++ spr ++ 1#3 ++ 0#3 ++ BitVec.ofBool ea, none)
  | .nop => some (0x0c#6 ++ 0#21 ++ 0#3 ++ 0#2, none)
  | .yield => some (0x0c#6 ++ 0#21 ++ 1#3 ++ 0#2, none)
  | .halt => some (0x0c#6 ++ 0#21 ++ 2#3 ++ 0#2, none)
  | .trap imm => some (0x0c#6 ++ 0#13 ++ imm ++ 3#3 ++ 0#2, none)
  | .tret => some (0x0c#6 ++ 0#21 ++ 4#3 ++ 0#2, none)
  | .specbar => some (0x0c#6 ++ 0#21 ++ 5#3 ++ 0#2, none)
  | .sleep a ea => some (0x0c#6 ++ 0#7 ++ a ++ 0#7 ++ 6#3 ++ BitVec.ofBool ea ++ 0#1, none)
  | .bkpt => some (0x0c#6 ++ 0#21 ++ 7#3 ++ 0#2, none)
  | .waitc path r ea => some (0x0d#6 ++ path ++ 0#4 ++ r ++ 0#7 ++ 0#3 ++ 0#1 ++ BitVec.ofBool ea, none)
  | .waitr r => some (0x0d#6 ++ 0#7 ++ r ++ 0#7 ++ 1#3 ++ 0#2, none)
  | .waits r => some (0x0d#6 ++ 0#7 ++ r ++ 0#7 ++ 2#3 ++ 0#2, none)
  | .bara s id cnt core ea => some (0x0e#6 ++ s ++ id ++ cnt ++ BitVec.ofBool core ++ 0#3 ++ 0#2 ++ BitVec.ofBool ea,
      none)
  | .barw id tok core ea => some (0x0e#6 ++ 0#7 ++ id ++ tok ++ BitVec.ofBool core ++ 1#3 ++ 0#2 ++ BitVec.ofBool ea,
      none)
  | .baraw s id cnt core ea => some (0x0e#6 ++ s ++ id ++ cnt ++ BitVec.ofBool core ++ 2#3 ++ 0#2 ++ BitVec.ofBool ea,
      none)
  | .bari id cnt core ea => some (0x0e#6 ++ 0#7 ++ id ++ cnt ++ BitVec.ofBool core ++ 3#3 ++ 0#2 ++ BitVec.ofBool ea,
      none)
  | .pblk s n pattern ea => some (0x0f#6 ++ s ++ n ++ pattern ++ 0#7 ++ BitVec.ofBool ea, none)
  | .sldb d o h byp ea => some (0x10#6 ++ d ++ o ++ h ++ 0#3 ++ BitVec.ofBool byp ++ 0#1 ++ BitVec.ofBool ea, none)
  | .sldh d o h byp ea => some (0x10#6 ++ d ++ o ++ h ++ 1#3 ++ BitVec.ofBool byp ++ 0#1 ++ BitVec.ofBool ea, none)
  | .sldw d o h byp ea => some (0x10#6 ++ d ++ o ++ h ++ 2#3 ++ BitVec.ofBool byp ++ 0#1 ++ BitVec.ofBool ea, none)
  | .sldd d o h byp ea => some (0x10#6 ++ d ++ o ++ h ++ 3#3 ++ BitVec.ofBool byp ++ 0#1 ++ BitVec.ofBool ea, none)
  | .sldbs d o h byp ea => some (0x10#6 ++ d ++ o ++ h ++ 4#3 ++ BitVec.ofBool byp ++ 0#1 ++ BitVec.ofBool ea, none)
  | .sldhs d o h byp ea => some (0x10#6 ++ d ++ o ++ h ++ 5#3 ++ BitVec.ofBool byp ++ 0#1 ++ BitVec.ofBool ea, none)
  | .sldws d o h byp ea => some (0x10#6 ++ d ++ o ++ h ++ 6#3 ++ BitVec.ofBool byp ++ 0#1 ++ BitVec.ofBool ea, none)
  | .sstb d o h byp ed ea => some (0x11#6 ++ d ++ o ++ h ++ 0#3 ++ BitVec.ofBool byp ++ BitVec.ofBool ed ++
      BitVec.ofBool ea, none)
  | .ssth d o h byp ed ea => some (0x11#6 ++ d ++ o ++ h ++ 1#3 ++ BitVec.ofBool byp ++ BitVec.ofBool ed ++
      BitVec.ofBool ea, none)
  | .sstw d o h byp ed ea => some (0x11#6 ++ d ++ o ++ h ++ 2#3 ++ BitVec.ofBool byp ++ BitVec.ofBool ed ++
      BitVec.ofBool ea, none)
  | .sstd d o h byp ed ea => some (0x11#6 ++ d ++ o ++ h ++ 3#3 ++ BitVec.ofBool byp ++ BitVec.ofBool ed ++
      BitVec.ofBool ea, none)
  | .vadd d a b ea eb => some (0x12#6 ++ d ++ a ++ b ++ 0#3 ++ BitVec.ofBool ea ++ BitVec.ofBool eb, none)
  | .vsub d a b ea eb => some (0x12#6 ++ d ++ a ++ b ++ 1#3 ++ BitVec.ofBool ea ++ BitVec.ofBool eb, none)
  | .vmullo d a b ea eb => some (0x12#6 ++ d ++ a ++ b ++ 2#3 ++ BitVec.ofBool ea ++ BitVec.ofBool eb, none)
  | .vmulhi d a b ea eb => some (0x12#6 ++ d ++ a ++ b ++ 3#3 ++ BitVec.ofBool ea ++ BitVec.ofBool eb, none)
  | .vmulhu d a b ea eb => some (0x12#6 ++ d ++ a ++ b ++ 4#3 ++ BitVec.ofBool ea ++ BitVec.ofBool eb, none)
  | .vmin d a b ea eb => some (0x12#6 ++ d ++ a ++ b ++ 5#3 ++ BitVec.ofBool ea ++ BitVec.ofBool eb, none)
  | .vmax d a b ea eb => some (0x12#6 ++ d ++ a ++ b ++ 6#3 ++ BitVec.ofBool ea ++ BitVec.ofBool eb, none)
  | .vminu d a b ea eb => some (0x12#6 ++ d ++ a ++ b ++ 7#3 ++ BitVec.ofBool ea ++ BitVec.ofBool eb, none)
  | .vand d a b ea eb => some (0x13#6 ++ d ++ a ++ b ++ 0#3 ++ BitVec.ofBool ea ++ BitVec.ofBool eb, none)
  | .vor d a b ea eb => some (0x13#6 ++ d ++ a ++ b ++ 1#3 ++ BitVec.ofBool ea ++ BitVec.ofBool eb, none)
  | .vxor d a b ea eb => some (0x13#6 ++ d ++ a ++ b ++ 2#3 ++ BitVec.ofBool ea ++ BitVec.ofBool eb, none)
  | .vandn d a b ea eb => some (0x13#6 ++ d ++ a ++ b ++ 3#3 ++ BitVec.ofBool ea ++ BitVec.ofBool eb, none)
  | .vshl d a b ea eb => some (0x13#6 ++ d ++ a ++ b ++ 4#3 ++ BitVec.ofBool ea ++ BitVec.ofBool eb, none)
  | .vshr d a b ea eb => some (0x13#6 ++ d ++ a ++ b ++ 5#3 ++ BitVec.ofBool ea ++ BitVec.ofBool eb, none)
  | .vsra d a b ea eb => some (0x13#6 ++ d ++ a ++ b ++ 6#3 ++ BitVec.ofBool ea ++ BitVec.ofBool eb, none)
  | .vmaxu d a b ea eb => some (0x13#6 ++ d ++ a ++ b ++ 7#3 ++ BitVec.ofBool ea ++ BitVec.ofBool eb, none)
  | .vadds d a b ea eb => some (0x14#6 ++ d ++ a ++ b ++ 0#3 ++ BitVec.ofBool ea ++ BitVec.ofBool eb, none)
  | .vsubs d a b ea eb => some (0x14#6 ++ d ++ a ++ b ++ 1#3 ++ BitVec.ofBool ea ++ BitVec.ofBool eb, none)
  | .vmuls d a b ea eb => some (0x14#6 ++ d ++ a ++ b ++ 2#3 ++ BitVec.ofBool ea ++ BitVec.ofBool eb, none)
  | .vands d a b ea eb => some (0x14#6 ++ d ++ a ++ b ++ 3#3 ++ BitVec.ofBool ea ++ BitVec.ofBool eb, none)
  | .vors d a b ea eb => some (0x14#6 ++ d ++ a ++ b ++ 4#3 ++ BitVec.ofBool ea ++ BitVec.ofBool eb, none)
  | .vxors d a b ea eb => some (0x14#6 ++ d ++ a ++ b ++ 5#3 ++ BitVec.ofBool ea ++ BitVec.ofBool eb, none)
  | .vshls d a b ea eb => some (0x14#6 ++ d ++ a ++ b ++ 6#3 ++ BitVec.ofBool ea ++ BitVec.ofBool eb, none)
  | .vshrs d a b ea eb => some (0x14#6 ++ d ++ a ++ b ++ 7#3 ++ BitVec.ofBool ea ++ BitVec.ofBool eb, none)
  | .vaddi d a imm ea => some (0x15#6 ++ d ++ a ++ imm ++ 0#3 ++ BitVec.ofBool ea, none)
  | .vandi d a imm ea => some (0x15#6 ++ d ++ a ++ imm ++ 1#3 ++ BitVec.ofBool ea, none)
  | .vori d a imm ea => some (0x15#6 ++ d ++ a ++ imm ++ 2#3 ++ BitVec.ofBool ea, none)
  | .vxori d a imm ea => some (0x15#6 ++ d ++ a ++ imm ++ 3#3 ++ BitVec.ofBool ea, none)
  | .vshli d a imm ea => some (0x15#6 ++ d ++ a ++ imm ++ 4#3 ++ BitVec.ofBool ea, none)
  | .vshri d a imm ea => some (0x15#6 ++ d ++ a ++ imm ++ 5#3 ++ BitVec.ofBool ea, none)
  | .vsrai d a imm ea => some (0x15#6 ++ d ++ a ++ imm ++ 6#3 ++ BitVec.ofBool ea, none)
  | .vmuli d a imm ea => some (0x15#6 ++ d ++ a ++ imm ++ 7#3 ++ BitVec.ofBool ea, none)
  | .vceq d a b ea eb => some (0x16#6 ++ d ++ a ++ b ++ 0#3 ++ BitVec.ofBool ea ++ BitVec.ofBool eb, none)
  | .vcne d a b ea eb => some (0x16#6 ++ d ++ a ++ b ++ 1#3 ++ BitVec.ofBool ea ++ BitVec.ofBool eb, none)
  | .vclt d a b ea eb => some (0x16#6 ++ d ++ a ++ b ++ 2#3 ++ BitVec.ofBool ea ++ BitVec.ofBool eb, none)
  | .vcle d a b ea eb => some (0x16#6 ++ d ++ a ++ b ++ 3#3 ++ BitVec.ofBool ea ++ BitVec.ofBool eb, none)
  | .vcgt d a b ea eb => some (0x16#6 ++ d ++ a ++ b ++ 4#3 ++ BitVec.ofBool ea ++ BitVec.ofBool eb, none)
  | .vcge d a b ea eb => some (0x16#6 ++ d ++ a ++ b ++ 5#3 ++ BitVec.ofBool ea ++ BitVec.ofBool eb, none)
  | .vcltu d a b ea eb => some (0x16#6 ++ d ++ a ++ b ++ 6#3 ++ BitVec.ofBool ea ++ BitVec.ofBool eb, none)
  | .vcleu d a b ea eb => some (0x16#6 ++ d ++ a ++ b ++ 7#3 ++ BitVec.ofBool ea ++ BitVec.ofBool eb, none)
  | .vmov d a ea => some (0x17#6 ++ d ++ a ++ 0#7 ++ 0#3 ++ BitVec.ofBool ea ++ 0#1, none)
  | .vmovs d b eb => some (0x17#6 ++ d ++ 0#7 ++ b ++ 1#3 ++ 0#1 ++ BitVec.ofBool eb, none)
  | .vtid d => some (0x17#6 ++ d ++ 0#14 ++ 2#3 ++ 0#2, none)
  | .vclz d a ea => some (0x17#6 ++ d ++ a ++ 0#7 ++ 3#3 ++ BitVec.ofBool ea ++ 0#1, none)
  | .vpopc d a ea => some (0x17#6 ++ d ++ a ++ 0#7 ++ 4#3 ++ BitVec.ofBool ea ++ 0#1, none)
  | .vbrev d a ea => some (0x17#6 ++ d ++ a ++ 0#7 ++ 5#3 ++ BitVec.ofBool ea ++ 0#1, none)
  | .vwrx a b ea eb => some (0x17#6 ++ 0#7 ++ a ++ b ++ 6#3 ++ BitVec.ofBool ea ++ BitVec.ofBool eb, none)
  | .vrdx d b ea eb => some (0x17#6 ++ d ++ 0#7 ++ b ++ 7#3 ++ BitVec.ofBool ea ++ BitVec.ofBool eb, none)
  | .vfadd d a b ea eb => some (0x18#6 ++ d ++ a ++ b ++ 0#3 ++ BitVec.ofBool ea ++ BitVec.ofBool eb, none)
  | .vfsub d a b ea eb => some (0x18#6 ++ d ++ a ++ b ++ 1#3 ++ BitVec.ofBool ea ++ BitVec.ofBool eb, none)
  | .vfmul d a b ea eb => some (0x18#6 ++ d ++ a ++ b ++ 2#3 ++ BitVec.ofBool ea ++ BitVec.ofBool eb, none)
  | .vfmin d a b ea eb => some (0x18#6 ++ d ++ a ++ b ++ 3#3 ++ BitVec.ofBool ea ++ BitVec.ofBool eb, none)
  | .vfmax d a b ea eb => some (0x18#6 ++ d ++ a ++ b ++ 4#3 ++ BitVec.ofBool ea ++ BitVec.ofBool eb, none)
  | .vfmac d a b ea eb => some (0x18#6 ++ d ++ a ++ b ++ 5#3 ++ BitVec.ofBool ea ++ BitVec.ofBool eb, none)
  | .vfmsc d a b ea eb => some (0x18#6 ++ d ++ a ++ b ++ 6#3 ++ BitVec.ofBool ea ++ BitVec.ofBool eb, none)
  | .vfnmac d a b ea eb => some (0x18#6 ++ d ++ a ++ b ++ 7#3 ++ BitVec.ofBool ea ++ BitVec.ofBool eb, none)
  | .vfadds d a b ea eb => some (0x19#6 ++ d ++ a ++ b ++ 0#3 ++ BitVec.ofBool ea ++ BitVec.ofBool eb, none)
  | .vfsubs d a b ea eb => some (0x19#6 ++ d ++ a ++ b ++ 1#3 ++ BitVec.ofBool ea ++ BitVec.ofBool eb, none)
  | .vfmuls d a b ea eb => some (0x19#6 ++ d ++ a ++ b ++ 2#3 ++ BitVec.ofBool ea ++ BitVec.ofBool eb, none)
  | .vfmacs d a b ea eb => some (0x19#6 ++ d ++ a ++ b ++ 3#3 ++ BitVec.ofBool ea ++ BitVec.ofBool eb, none)
  | .vfmins d a b ea eb => some (0x19#6 ++ d ++ a ++ b ++ 4#3 ++ BitVec.ofBool ea ++ BitVec.ofBool eb, none)
  | .vfmaxs d a b ea eb => some (0x19#6 ++ d ++ a ++ b ++ 5#3 ++ BitVec.ofBool ea ++ BitVec.ofBool eb, none)
  | .vfceq d a b ea eb => some (0x1a#6 ++ d ++ a ++ b ++ 0#3 ++ BitVec.ofBool ea ++ BitVec.ofBool eb, none)
  | .vfcne d a b ea eb => some (0x1a#6 ++ d ++ a ++ b ++ 1#3 ++ BitVec.ofBool ea ++ BitVec.ofBool eb, none)
  | .vfclt d a b ea eb => some (0x1a#6 ++ d ++ a ++ b ++ 2#3 ++ BitVec.ofBool ea ++ BitVec.ofBool eb, none)
  | .vfcle d a b ea eb => some (0x1a#6 ++ d ++ a ++ b ++ 3#3 ++ BitVec.ofBool ea ++ BitVec.ofBool eb, none)
  | .vfcun d a b ea eb => some (0x1a#6 ++ d ++ a ++ b ++ 4#3 ++ BitVec.ofBool ea ++ BitVec.ofBool eb, none)
  | .vfslt d a b ea eb => some (0x1a#6 ++ d ++ a ++ b ++ 5#3 ++ BitVec.ofBool ea ++ BitVec.ofBool eb, none)
  | .vfsle d a b ea eb => some (0x1a#6 ++ d ++ a ++ b ++ 6#3 ++ BitVec.ofBool ea ++ BitVec.ofBool eb, none)
  | .vhadd d a b ea eb => some (0x1b#6 ++ d ++ a ++ b ++ 0#3 ++ BitVec.ofBool ea ++ BitVec.ofBool eb, none)
  | .vhmul d a b ea eb => some (0x1b#6 ++ d ++ a ++ b ++ 1#3 ++ BitVec.ofBool ea ++ BitVec.ofBool eb, none)
  | .vhmac d a b ea eb => some (0x1b#6 ++ d ++ a ++ b ++ 2#3 ++ BitVec.ofBool ea ++ BitVec.ofBool eb, none)
  | .vbadd d a b ea eb => some (0x1b#6 ++ d ++ a ++ b ++ 3#3 ++ BitVec.ofBool ea ++ BitVec.ofBool eb, none)
  | .vbmul d a b ea eb => some (0x1b#6 ++ d ++ a ++ b ++ 4#3 ++ BitVec.ofBool ea ++ BitVec.ofBool eb, none)
  | .vbmac d a b ea eb => some (0x1b#6 ++ d ++ a ++ b ++ 5#3 ++ BitVec.ofBool ea ++ BitVec.ofBool eb, none)
  | .vhdot d a b ea eb => some (0x1b#6 ++ d ++ a ++ b ++ 6#3 ++ BitVec.ofBool ea ++ BitVec.ofBool eb, none)
  | .vbdot d a b ea eb => some (0x1b#6 ++ d ++ a ++ b ++ 7#3 ++ BitVec.ofBool ea ++ BitVec.ofBool eb, none)
  | .vrcp d a ea => some (0x1d#6 ++ d ++ a ++ 0#7 ++ 0#3 ++ BitVec.ofBool ea ++ 0#1, none)
  | .vrsq d a ea => some (0x1d#6 ++ d ++ a ++ 0#7 ++ 1#3 ++ BitVec.ofBool ea ++ 0#1, none)
  | .vsqrt d a ea => some (0x1d#6 ++ d ++ a ++ 0#7 ++ 2#3 ++ BitVec.ofBool ea ++ 0#1, none)
  | .vexp2 d a ea => some (0x1d#6 ++ d ++ a ++ 0#7 ++ 3#3 ++ BitVec.ofBool ea ++ 0#1, none)
  | .vlog2 d a ea => some (0x1d#6 ++ d ++ a ++ 0#7 ++ 4#3 ++ BitVec.ofBool ea ++ 0#1, none)
  | .vsin d a ea => some (0x1d#6 ++ d ++ a ++ 0#7 ++ 5#3 ++ BitVec.ofBool ea ++ 0#1, none)
  | .vcos d a ea => some (0x1d#6 ++ d ++ a ++ 0#7 ++ 6#3 ++ BitVec.ofBool ea ++ 0#1, none)
  | .vtanh d a ea => some (0x1d#6 ++ d ++ a ++ 0#7 ++ 7#3 ++ BitVec.ofBool ea ++ 0#1, none)
  | .vcf16 d a rnd sel ea => some (0x1e#6 ++ d ++ a ++ 0#3 ++ 0#4 ++ rnd ++ sel ++ BitVec.ofBool ea, none)
  | .vcf32h d a sel ea => some (0x1e#6 ++ d ++ a ++ 0#3 ++ 1#4 ++ 0#2 ++ sel ++ BitVec.ofBool ea, none)
  | .vcbf d a rnd sel ea => some (0x1e#6 ++ d ++ a ++ 0#3 ++ 2#4 ++ rnd ++ sel ++ BitVec.ofBool ea, none)
  | .vcf32b d a sel ea => some (0x1e#6 ++ d ++ a ++ 0#3 ++ 3#4 ++ 0#2 ++ sel ++ BitVec.ofBool ea, none)
  | .vci32 d a rnd ea => some (0x1e#6 ++ d ++ a ++ 0#3 ++ 4#4 ++ rnd ++ 0#2 ++ BitVec.ofBool ea, none)
  | .vcf32i d a rnd ea => some (0x1e#6 ++ d ++ a ++ 0#3 ++ 5#4 ++ rnd ++ 0#2 ++ BitVec.ofBool ea, none)
  | .vcn32 d a rnd ea => some (0x1e#6 ++ d ++ a ++ 0#3 ++ 6#4 ++ rnd ++ 0#2 ++ BitVec.ofBool ea, none)
  | .vcf32n d a rnd ea => some (0x1e#6 ++ d ++ a ++ 0#3 ++ 7#4 ++ rnd ++ 0#2 ++ BitVec.ofBool ea, none)
  | .vcnar d a slot rnd sel ea => some (0x1e#6 ++ d ++ a ++ slot ++ 10#4 ++ rnd ++ sel ++ BitVec.ofBool ea, none)
  | .vcwid d a slot sel ea => some (0x1e#6 ++ d ++ a ++ slot ++ 11#4 ++ 0#2 ++ sel ++ BitVec.ofBool ea, none)
  | .vct6 d a slot rnd sel ea => some (0x1e#6 ++ d ++ a ++ slot ++ 12#4 ++ rnd ++ sel ++ BitVec.ofBool ea, none)
  | .vcf32t6 d a sel ea => some (0x1e#6 ++ d ++ a ++ 0#3 ++ 13#4 ++ 0#2 ++ sel ++ BitVec.ofBool ea, none)
  | .vpk6 d a sel ea => some (0x1e#6 ++ d ++ a ++ 0#3 ++ 14#4 ++ 0#2 ++ sel ++ BitVec.ofBool ea, none)
  | .vunpk6 d a sel ea => some (0x1e#6 ++ d ++ a ++ 0#3 ++ 15#4 ++ 0#2 ++ sel ++ BitVec.ofBool ea, none)
  | .vshuf d a b ea eb => some (0x1f#6 ++ d ++ a ++ b ++ 0#3 ++ BitVec.ofBool ea ++ BitVec.ofBool eb, none)
  | .vshfx d a imm ea => some (0x1f#6 ++ d ++ a ++ imm ++ 1#3 ++ BitVec.ofBool ea ++ 0#1, none)
  | .vrots d a b ea eb => some (0x1f#6 ++ d ++ a ++ b ++ 2#3 ++ BitVec.ofBool ea ++ BitVec.ofBool eb, none)
  | .vbcst d a ea => some (0x1f#6 ++ d ++ a ++ 0#7 ++ 3#3 ++ BitVec.ofBool ea ++ 0#1, none)
  | .vreda d a ea => some (0x1f#6 ++ d ++ a ++ 0#7 ++ 4#3 ++ BitVec.ofBool ea ++ 0#1, none)
  | .vredf d a ea => some (0x1f#6 ++ d ++ a ++ 0#7 ++ 5#3 ++ BitVec.ofBool ea ++ 0#1, none)
  | .vscan d a ea => some (0x1f#6 ++ d ++ a ++ 0#7 ++ 6#3 ++ BitVec.ofBool ea ++ 0#1, none)
  | .vcmpk d a ea => some (0x1f#6 ++ d ++ a ++ 0#7 ++ 7#3 ++ BitVec.ofBool ea ++ 0#1, none)
  | .vldb d o h byp ea => some (0x20#6 ++ d ++ o ++ h ++ 0#3 ++ BitVec.ofBool byp ++ 0#1 ++ BitVec.ofBool ea, none)
  | .vldh d o h byp ea => some (0x20#6 ++ d ++ o ++ h ++ 1#3 ++ BitVec.ofBool byp ++ 0#1 ++ BitVec.ofBool ea, none)
  | .vldw d o h byp ea => some (0x20#6 ++ d ++ o ++ h ++ 2#3 ++ BitVec.ofBool byp ++ 0#1 ++ BitVec.ofBool ea, none)
  | .vldd d o h byp ea => some (0x20#6 ++ d ++ o ++ h ++ 3#3 ++ BitVec.ofBool byp ++ 0#1 ++ BitVec.ofBool ea, none)
  | .vldq d o h byp ea => some (0x20#6 ++ d ++ o ++ h ++ 4#3 ++ BitVec.ofBool byp ++ 0#1 ++ BitVec.ofBool ea, none)
  | .vldbs d o h byp ea => some (0x20#6 ++ d ++ o ++ h ++ 5#3 ++ BitVec.ofBool byp ++ 0#1 ++ BitVec.ofBool ea, none)
  | .vldhs d o h byp ea => some (0x20#6 ++ d ++ o ++ h ++ 6#3 ++ BitVec.ofBool byp ++ 0#1 ++ BitVec.ofBool ea, none)
  | .vldl d o h byp ea => some (0x20#6 ++ d ++ o ++ h ++ 7#3 ++ BitVec.ofBool byp ++ 0#1 ++ BitVec.ofBool ea, none)
  | .vstb d o h byp ed ea => some (0x21#6 ++ d ++ o ++ h ++ 0#3 ++ BitVec.ofBool byp ++ BitVec.ofBool ed ++
      BitVec.ofBool ea, none)
  | .vsth d o h byp ed ea => some (0x21#6 ++ d ++ o ++ h ++ 1#3 ++ BitVec.ofBool byp ++ BitVec.ofBool ed ++
      BitVec.ofBool ea, none)
  | .vstw d o h byp ed ea => some (0x21#6 ++ d ++ o ++ h ++ 2#3 ++ BitVec.ofBool byp ++ BitVec.ofBool ed ++
      BitVec.ofBool ea, none)
  | .vstd d o h byp ed ea => some (0x21#6 ++ d ++ o ++ h ++ 3#3 ++ BitVec.ofBool byp ++ BitVec.ofBool ed ++
      BitVec.ofBool ea, none)
  | .vstq d o h byp ed ea => some (0x21#6 ++ d ++ o ++ h ++ 4#3 ++ BitVec.ofBool byp ++ BitVec.ofBool ed ++
      BitVec.ofBool ea, none)
  | .vstl d o h byp ed ea => some (0x21#6 ++ d ++ o ++ h ++ 5#3 ++ BitVec.ofBool byp ++ BitVec.ofBool ed ++
      BitVec.ofBool ea, none)
  | .stbind d h byp ed => some (0x22#6 ++ d ++ 0#7 ++ h ++ 0#3 ++ BitVec.ofBool byp ++ BitVec.ofBool ed ++ 0#1, none)
  | .stpos d ed => some (0x22#6 ++ d ++ 0#13 ++ 1#3 ++ 0#1 ++ BitVec.ofBool ed ++ 0#1, none)
  | .stset d ed => some (0x22#6 ++ d ++ 0#13 ++ 2#3 ++ 0#1 ++ BitVec.ofBool ed ++ 0#1, none)
  | .qbind d h byp ed => some (0x22#6 ++ d ++ 0#7 ++ h ++ 3#3 ++ BitVec.ofBool byp ++ BitVec.ofBool ed ++ 0#1, none)
  | .qdrain d ed => some (0x22#6 ++ d ++ 0#13 ++ 4#3 ++ 0#1 ++ BitVec.ofBool ed ++ 0#1, none)
  | .stend d ed => some (0x22#6 ++ d ++ 0#13 ++ 5#3 ++ 0#1 ++ BitVec.ofBool ed ++ 0#1, none)
  | .wdist d o h ea => some (0x23#6 ++ d ++ o ++ h ++ 0#3 ++ 0#2 ++ BitVec.ofBool ea, none)
  | .wpin d o h ed ea => some (0x23#6 ++ d ++ o ++ h ++ 1#3 ++ 0#1 ++ BitVec.ofBool ed ++ BitVec.ofBool ea, none)
  | .wunpin d o h ea => some (0x23#6 ++ d ++ o ++ h ++ 2#3 ++ 0#2 ++ BitVec.ofBool ea, none)
  | .wpull d o h ea => some (0x23#6 ++ d ++ o ++ h ++ 3#3 ++ 0#2 ++ BitVec.ofBool ea, none)
  | .whome d o h ea => some (0x23#6 ++ d ++ o ++ h ++ 4#3 ++ 0#2 ++ BitVec.ofBool ea, none)
  | .aadd d o h byp ea opnd width scalar eo => some (0x24#6 ++ d ++ o ++ h ++ 0#4 ++ BitVec.ofBool byp ++
      BitVec.ofBool ea, some (opnd ++ 0#7 ++ width ++ BitVec.ofBool scalar ++ BitVec.ofBool eo ++ 0#14))
  | .amin d o h byp ea opnd width scalar eo => some (0x24#6 ++ d ++ o ++ h ++ 1#4 ++ BitVec.ofBool byp ++
      BitVec.ofBool ea, some (opnd ++ 0#7 ++ width ++ BitVec.ofBool scalar ++ BitVec.ofBool eo ++ 0#14))
  | .amax d o h byp ea opnd width scalar eo => some (0x24#6 ++ d ++ o ++ h ++ 2#4 ++ BitVec.ofBool byp ++
      BitVec.ofBool ea, some (opnd ++ 0#7 ++ width ++ BitVec.ofBool scalar ++ BitVec.ofBool eo ++ 0#14))
  | .aminu d o h byp ea opnd width scalar eo => some (0x24#6 ++ d ++ o ++ h ++ 3#4 ++ BitVec.ofBool byp ++
      BitVec.ofBool ea, some (opnd ++ 0#7 ++ width ++ BitVec.ofBool scalar ++ BitVec.ofBool eo ++ 0#14))
  | .amaxu d o h byp ea opnd width scalar eo => some (0x24#6 ++ d ++ o ++ h ++ 4#4 ++ BitVec.ofBool byp ++
      BitVec.ofBool ea, some (opnd ++ 0#7 ++ width ++ BitVec.ofBool scalar ++ BitVec.ofBool eo ++ 0#14))
  | .aand d o h byp ea opnd width scalar eo => some (0x24#6 ++ d ++ o ++ h ++ 5#4 ++ BitVec.ofBool byp ++
      BitVec.ofBool ea, some (opnd ++ 0#7 ++ width ++ BitVec.ofBool scalar ++ BitVec.ofBool eo ++ 0#14))
  | .aor d o h byp ea opnd width scalar eo => some (0x24#6 ++ d ++ o ++ h ++ 6#4 ++ BitVec.ofBool byp ++ BitVec.ofBool
      ea, some (opnd ++ 0#7 ++ width ++ BitVec.ofBool scalar ++ BitVec.ofBool eo ++ 0#14))
  | .axor d o h byp ea opnd width scalar eo => some (0x24#6 ++ d ++ o ++ h ++ 7#4 ++ BitVec.ofBool byp ++
      BitVec.ofBool ea, some (opnd ++ 0#7 ++ width ++ BitVec.ofBool scalar ++ BitVec.ofBool eo ++ 0#14))
  | .axchg d o h byp ea opnd width scalar eo => some (0x24#6 ++ d ++ o ++ h ++ 8#4 ++ BitVec.ofBool byp ++
      BitVec.ofBool ea, some (opnd ++ 0#7 ++ width ++ BitVec.ofBool scalar ++ BitVec.ofBool eo ++ 0#14))
  | .acas d o h byp ea opnd cmp width scalar eo ec => some (0x24#6 ++ d ++ o ++ h ++ 9#4 ++ BitVec.ofBool byp ++
      BitVec.ofBool ea, some (opnd ++ cmp ++ width ++ BitVec.ofBool scalar ++ BitVec.ofBool eo ++ BitVec.ofBool ec ++
      0#13))
  | .afadd d o h byp ea opnd width scalar eo => some (0x24#6 ++ d ++ o ++ h ++ 10#4 ++ BitVec.ofBool byp ++
      BitVec.ofBool ea, some (opnd ++ 0#7 ++ width ++ BitVec.ofBool scalar ++ BitVec.ofBool eo ++ 0#14))
  | .radd d o h byp ed ea => some (0x25#6 ++ d ++ o ++ h ++ 0#3 ++ BitVec.ofBool byp ++ BitVec.ofBool ed ++
      BitVec.ofBool ea, none)
  | .rfadd d o h byp ed ea => some (0x25#6 ++ d ++ o ++ h ++ 1#3 ++ BitVec.ofBool byp ++ BitVec.ofBool ed ++
      BitVec.ofBool ea, none)
  | .rbfadd d o h byp ed ea => some (0x25#6 ++ d ++ o ++ h ++ 2#3 ++ BitVec.ofBool byp ++ BitVec.ofBool ed ++
      BitVec.ofBool ea, none)
  | .rmin d o h byp ed ea => some (0x25#6 ++ d ++ o ++ h ++ 3#3 ++ BitVec.ofBool byp ++ BitVec.ofBool ed ++
      BitVec.ofBool ea, none)
  | .rmax d o h byp ed ea => some (0x25#6 ++ d ++ o ++ h ++ 4#3 ++ BitVec.ofBool byp ++ BitVec.ofBool ed ++
      BitVec.ofBool ea, none)
  | .rand d o h byp ed ea => some (0x25#6 ++ d ++ o ++ h ++ 5#3 ++ BitVec.ofBool byp ++ BitVec.ofBool ed ++
      BitVec.ofBool ea, none)
  | .ror d o h byp ed ea => some (0x25#6 ++ d ++ o ++ h ++ 6#3 ++ BitVec.ofBool byp ++ BitVec.ofBool ed ++
      BitVec.ofBool ea, none)
  | .rxor d o h byp ed ea => some (0x25#6 ++ d ++ o ++ h ++ 7#3 ++ BitVec.ofBool byp ++ BitVec.ofBool ed ++
      BitVec.ofBool ea, none)
  | .tbegin d a ea => some (0x26#6 ++ d ++ a ++ 0#7 ++ 0#3 ++ BitVec.ofBool ea ++ 0#1, none)
  | .tend => some (0x26#6 ++ 0#21 ++ 1#3 ++ 0#2, none)
  | .tabort a ea => some (0x26#6 ++ 0#7 ++ a ++ 0#7 ++ 2#3 ++ BitVec.ofBool ea ++ 0#1, none)
  | .ttest d => some (0x26#6 ++ d ++ 0#14 ++ 3#3 ++ 0#2, none)
  | .cpy sd ss sn ed es en gh gchk => some (0x27#6 ++ sd ++ ss ++ sn ++ 0#3 ++ 0#2, some (BitVec.ofBool ed ++
      BitVec.ofBool es ++ BitVec.ofBool en ++ 0#7 ++ gh ++ 0#7 ++ BitVec.ofBool gchk ++ 0#8))
  | .cpy2d sd ss sn ed es en gh gchk => some (0x27#6 ++ sd ++ ss ++ sn ++ 1#3 ++ 0#2, some (BitVec.ofBool ed ++
      BitVec.ofBool es ++ BitVec.ofBool en ++ 0#7 ++ gh ++ 0#7 ++ BitVec.ofBool gchk ++ 0#8))
  | .cpyg sd ss sn ed es en gh gchk iw esz => some (0x27#6 ++ sd ++ ss ++ sn ++ 2#3 ++ 0#2, some (BitVec.ofBool ed ++
      BitVec.ofBool es ++ BitVec.ofBool en ++ 0#7 ++ gh ++ 0#7 ++ BitVec.ofBool gchk ++ 0#5 ++ BitVec.ofBool iw ++
      esz))
  | .cpys sd ss sn ed es en gh gchk iw esz => some (0x27#6 ++ sd ++ ss ++ sn ++ 3#3 ++ 0#2, some (BitVec.ofBool ed ++
      BitVec.ofBool es ++ BitVec.ofBool en ++ 0#7 ++ gh ++ 0#7 ++ BitVec.ofBool gchk ++ 0#5 ++ BitVec.ofBool iw ++
      esz))
  | .slbmv sd ss ed es => some (0x27#6 ++ sd ++ ss ++ 0#7 ++ 4#3 ++ 0#2, some (BitVec.ofBool ed ++ BitVec.ofBool es ++
      0#30))
  | .cpyz sd sn ed en gh gchk => some (0x27#6 ++ sd ++ 0#7 ++ sn ++ 5#3 ++ 0#2, some (BitVec.ofBool ed ++ 0#1 ++
      BitVec.ofBool en ++ 0#7 ++ gh ++ 0#7 ++ BitVec.ofBool gchk ++ 0#8))
  | .fence => some (0x28#6 ++ 0#21 ++ 0#3 ++ 0#2, none)
  | .fencei => some (0x28#6 ++ 0#21 ++ 1#3 ++ 0#2, none)
  | .fenceh => some (0x28#6 ++ 0#21 ++ 2#3 ++ 0#2, none)
  | .slbxl sd so h ea rh => some (0x29#6 ++ sd ++ so ++ h ++ 0#1 ++ 0#3 ++ 0#1 ++ BitVec.ofBool ea, some (0#2 ++ rh ++
      0#24))
  | .slbrd sd h sel => some (0x29#6 ++ sd ++ 0#7 ++ h ++ 0#1 ++ 1#3 ++ 0#2, some (0#29 ++ sel))
  | .mma vacc sA sB keep ea eb aslot bslot asb bsb sel soft half obase => some (0x30#6 ++ vacc ++ sA ++ sB ++ 0#2 ++
      BitVec.ofBool keep ++ BitVec.ofBool ea ++ BitVec.ofBool eb, some (aslot ++ bslot ++ asb ++ bsb ++ sel ++ 0#1 ++
      BitVec.ofBool soft ++ BitVec.ofBool half ++ obase))
  | .mmaz vacc sA sB keep ea eb aslot bslot asb bsb sel soft half obase => some (0x30#6 ++ vacc ++ sA ++ sB ++ 1#2 ++
      BitVec.ofBool keep ++ BitVec.ofBool ea ++ BitVec.ofBool eb, some (aslot ++ bslot ++ asb ++ bsb ++ sel ++ 0#1 ++
      BitVec.ofBool soft ++ BitVec.ofBool half ++ obase))
  | .mmac vacc sB keep eb bslot half => some (0x30#6 ++ vacc ++ 0#7 ++ sB ++ 2#2 ++ BitVec.ofBool keep ++ 0#1 ++
      BitVec.ofBool eb, some (0#3 ++ bslot ++ 0#18 ++ BitVec.ofBool half ++ 0#7))
  | .mmacz vacc sB keep eb bslot half => some (0x30#6 ++ vacc ++ 0#7 ++ sB ++ 3#2 ++ BitVec.ofBool keep ++ 0#1 ++
      BitVec.ofBool eb, some (0#3 ++ bslot ++ 0#18 ++ BitVec.ofBool half ++ 0#7))
  | .mstz => some (0x31#6 ++ 0#21 ++ 0#3 ++ 0#2, none)
  | .mstrd d => some (0x31#6 ++ d ++ 0#14 ++ 1#3 ++ 0#2, none)
  | .mstwr a ea => some (0x31#6 ++ 0#7 ++ a ++ 0#7 ++ 2#3 ++ BitVec.ofBool ea ++ 0#1, none)
  | .mnorm d => some (0x31#6 ++ d ++ 0#14 ++ 3#3 ++ 0#2, none)
  | .watt vq vo sp ea eb nq => some (0x33#6 ++ vq ++ vo ++ sp ++ 0#3 ++ BitVec.ofBool ea ++ BitVec.ofBool eb, some (nq
      ++ 0#29))
  | .wattd vq vo sp ea eb nq sx sq eq => some (0x33#6 ++ vq ++ vo ++ sp ++ 1#3 ++ BitVec.ofBool ea ++ BitVec.ofBool
      eb, some (nq ++ sx ++ sq ++ BitVec.ofBool eq ++ 0#14))
  | .crds d a b ea eb ed => some (0x34#6 ++ d ++ a ++ b ++ 0#3 ++ BitVec.ofBool ea ++ BitVec.ofBool eb, some
      (BitVec.ofBool ed ++ 0#31))
  | .crdr d a b ea eb => some (0x34#6 ++ d ++ a ++ b ++ 1#3 ++ BitVec.ofBool ea ++ BitVec.ofBool eb, some (0#32))
  | .dmrd d a b ea eb g => some (0x34#6 ++ d ++ a ++ b ++ 2#3 ++ BitVec.ofBool ea ++ BitVec.ofBool eb, some (0#27 ++ g))
  | .dmclr d a b ea eb ed g => some (0x34#6 ++ d ++ a ++ b ++ 3#3 ++ BitVec.ofBool ea ++ BitVec.ofBool eb, some
      (BitVec.ofBool ed ++ 0#26 ++ g))
  | .stepq d a ea => some (0x35#6 ++ d ++ a ++ 0#7 ++ 0#3 ++ BitVec.ofBool ea ++ 0#1, none)
  | .tokc a b ea eb => some (0x35#6 ++ 0#7 ++ a ++ b ++ 1#3 ++ BitVec.ofBool ea ++ BitVec.ofBool eb, none)
  | .seqrd d a b ea eb => some (0x35#6 ++ d ++ a ++ b ++ 2#3 ++ BitVec.ofBool ea ++ BitVec.ofBool eb, none)
  | .tlbinv s tag kind ea => some (0x3c#6 ++ s ++ tag ++ 0#2 ++ kind ++ 0#3 ++ 0#3 ++ BitVec.ofBool ea, none)
  | .grdset s slot ea => some (0x3c#6 ++ s ++ 0#4 ++ slot ++ 1#3 ++ 0#3 ++ BitVec.ofBool ea, none)
  | .snapct s kind ea => some (0x3c#6 ++ s ++ 0#10 ++ kind ++ 2#3 ++ 0#3 ++ BitVec.ofBool ea, none)
  | .dbgrd s sel ea => some (0x3c#6 ++ s ++ sel ++ 3#3 ++ 0#3 ++ BitVec.ofBool ea, none)
  | .slotArbitration _ => none
  | .starvationPromotion _ => none
  | .loadDataReturn _ _ => none
  | .accessRetire _ => none
  | .storeBufferLeave _ => none
  | .invalidationArrival _ _ => none
  | .evictionNotice _ _ => none
  | .noticeCompletion _ _ => none
  | .acknowledgement _ _ => none
  | .frontRequestAccept _ => none
  | .retryTimerExpiry _ _ _ => none
  | .holdTimeout _ => none
  | .tileLanding _ => none
  | .fillComplete _ _ => none
  | .scratchMotionStart _ => none
  | .portCapLoop _ => none
  | .transcendentalStart _ => none
  | .transcendentalResult _ => none
  | .sleepDeadline _ => none
  | .barrierWaitComplete _ => none
  | .streamPrefetch _ _ => none
  | .queueFetch _ _ => none
  | .storeQueueDrain _ _ => none
  | .spindleCommandStart _ => none
  | .matrixOperationStart _ => none
  | .matrixOperationComplete _ => none
  | .whorlPartial _ _ _ => none
  | .partialMerge _ _ => none
  | .carderRound _ => none
  | .carderRecordRead _ => none
  | .distaffRead _ => none
  | .hostSnoop _ _ => none
  | .cxlMemRead _ _ => none
  | .cxlMemWrite _ _ => none
  | .hostCompletion _ _ => none
  | .peerAcknowledgement _ _ => none
  | .peerRequest _ _ _ _ _ _ _ => none
  | .priResponse _ _ _ => none
  | .priTimeout _ _ => none
  | .pageWalk _ _ _ _ => none
  | .tlbinvComplete _ => none
  | .fresRetry _ _ => none
  | .fresDeny _ _ => none
  | .pageMove _ _ _ _ => none
  | .eventRingDenyTimeout _ _ => none
  | .lqtail _ _ _ => none
  | .launchFetch _ _ => none
  | .teamPlacement => none
  | .levelRaise _ => none
  | .reserve _ => none
  | .grdarm _ _ => none
  | .grdsetDoorbell _ _ _ => none
  | .admtail _ _ => none
  | .cplhead _ _ => none
  | .cancel _ _ => none
  | .distaffStep _ => none
  | .stepCommit _ => none
  | .sequenceRetirement _ => none
  | .poisonReport _ _ => none
  | .terminatingCause _ => none
  | .frameRetire _ _ _ => none
  | .preemptionRequest _ => none
  | .teamSave _ => none
  | .saveSeal _ => none
  | .teamRestore _ _ => none
  | .pairComparison _ _ => none
  | .islandControlLoop _ _ _ _ => none
  | .modulePowerLoop _ => none
  | .fastClamp _ => none
  | .thermalLimit _ _ => none
  | .thermalTrip => none
  | .retentionWindowLoop _ _ _ => none
  | .rowGroupRefresh _ _ _ => none
  | .perstDeassertion => none
  | .stageAdvance _ => none
  | .functionLevelReset => none
  | .stageDroppedClear => none
  | .identify => none
  | .fwload => none
  | .rollfwd => none
  | .evring => none
  | .ctxwrite => none
  | .partset => none
  | .wstat => none
  | .retlist => none
  | .islcap => none
  | .skroute => none
  | .reset => none
  | .skeinPortDown _ => none
  | .skeinPortUp _ => none
  | .skeinPeerTimeout _ => none
  | .cxlPortDown _ => none
  | .cxlPortUp _ => none
  | .spdmRequest _ => none
  | .registerWrite _ _ => none
  | .illegalInstruction _ => none
  | .cxlCacheOwnershipGrant _ => none
  | .backInvalidateResponse _ => none
  | .atsTranslationCompletion _ _ _ _ => none

/-- The bytes of an instruction as they lie in code, in address order. -/
def encodeBytes (i : Instr) : List Byte :=
  match encode i with
  | some (w0, some w1) => bytesOfWord w0 ++ bytesOfWord w1
  | some (w0, none) => bytesOfWord w0
  | none => []

end Sys2Proof
end

