-- ==== Sys2Proof/Machine/Control.lean ====
section
/-! DEFINITION. Branches, jumps, wave control, waits and the predicate-block prefix (R149, R158, R166 to R172, R178). HALT
is in Machine/Teams.lean. -/

namespace Sys2Proof.Machine

/-- A branch relative to its own clause's header (R166): the target if taken, else the next clause's header. -/
def branch (u : Use) (taken : State → Bool) (off : W64) (s : State) : Result :=
  issue u (fun s => .next (jump (if taken s then s.w.a.pos.clause + 4 * off else s.w.a.pos.next) u.logged s)) s

/-- BR (R166). -/
def execBr (off : BitVec 22) (s : State) : Result := branch {} (fun _ => true) (off.signExtend 64) s

/-- BRXZ (R166). -/
def execBrxz (off : BitVec 22) (s : State) : Result := branch {} (fun s => s.w.a.exec == 0) (off.signExtend 64) s

/-- BRXNZ (R166). -/
def execBrxnz (off : BitVec 22) (s : State) : Result := branch {} (fun s => s.w.a.exec != 0) (off.signExtend 64) s

/-- BRXALL (R166). -/
def execBrxall (off : BitVec 22) (s : State) : Result :=
  branch {} (fun s => s.w.a.exec == fullMask s.w.width) (off.signExtend 64) s

/-- CALL (R166): the return address, the next clause's header, goes to s127. -/
def execCall (off : BitVec 22) (s : State) : Result :=
  issue { dstS := [127] } (fun s =>
    .next (jump (s.w.a.pos.clause + 4 * off.signExtend 64) 1 (s.setS 127 s.w.a.pos.next))) s

/-- BRZ (R166). -/
def execBrz (a : BitVec 7) (ea : Bool) (off : BitVec 14) (s : State) : Result :=
  branch { srcS := [(a.toNat, ea)] } (fun s => s.sreg a.toNat == 0) (off.signExtend 64) s

/-- BRNZ (R166). -/
def execBrnz (a : BitVec 7) (ea : Bool) (off : BitVec 14) (s : State) : Result :=
  branch { srcS := [(a.toNat, ea)] } (fun s => s.sreg a.toNat != 0) (off.signExtend 64) s

/-- BRNEG (R166). -/
def execBrneg (a : BitVec 7) (ea : Bool) (off : BitVec 14) (s : State) : Result :=
  branch { srcS := [(a.toNat, ea)] } (fun s => (s.sreg a.toNat).slt 0) (off.signExtend 64) s

/-- BRPOS (R166). -/
def execBrpos (a : BitVec 7) (ea : Bool) (off : BitVec 14) (s : State) : Result :=
  branch { srcS := [(a.toNat, ea)] } (fun s => (0#64).slt (s.sreg a.toNat)) (off.signExtend 64) s

/-- An address in the wave's code range (R140). -/
def inCode (w : Wave) (pc : W64) : Bool :=
  decide ((w.env.code + w.env.entry.setWidth 64).toNat ≤ pc.toNat) &&
    decide (pc.toNat + 4 ≤ w.env.code.toNat + w.env.length.toNat)

/-- A jump's target that traps 0x02 (R167). -/
def badTarget (w : Wave) (pc : W64) : Bool := pc.extractLsb' 0 2 != 0 || !inCode w pc

/-- JMPR (R167). -/
def execJmpr (a : BitVec 7) (ea : Bool) (s : State) : Result :=
  issue { srcS := [(a.toNat, ea)] } (fun s =>
    if badTarget s.w (s.sreg a.toNat) then raise Cause.clause 0 0 s else .next (jump (s.sreg a.toNat) 0 s)) s

/-- CALLR (R167): the target is read before s127 is written. -/
def execCallr (a : BitVec 7) (ea : Bool) (s : State) : Result :=
  issue { srcS := [(a.toNat, ea)], dstS := [127] } (fun s =>
    if badTarget s.w (s.sreg a.toNat) then raise Cause.clause 0 0 s
    else .next (jump (s.sreg a.toNat) 1 (s.setS 127 s.w.a.pos.next))) s

/-- RET (R167). -/
def execRet (s : State) : Result :=
  issue { oldS := [127] } (fun s =>
    if badTarget s.w (s.sreg 127) then raise Cause.clause 0 0 s else .next (jump (s.sreg 127) 0 s)) s

/-- NOP (Table 8.4). -/
def execNop (s : State) : Result := run {} id s

/-- The run ends after this clause (R35 case 4). -/
def markYield (s : State) : State := s.onWave (fun w => { w with ran := yieldMark })

/-- YIELD (Table 8.4). -/
def execYield (s : State) : Result := run {} markYield s

/-- TRAP (R169). -/
def execTrap (imm : BitVec 8) (s : State) : Result := issue { irrevocable := true, both := true } (raise Cause.software imm 0) s

/-- BKPT (R169). -/
def execBkpt (s : State) : Result := issue { irrevocable := true, both := true } (raise Cause.breakpoint 0 0) s

/-- TRET (R158): outside the handler it traps 0x01. -/
def execTret (s : State) : Result :=
  issue { irrevocable := true, both := true, illegal := !s.w.inHandler } (fun s => .next (returnFromHandler s)) s

/-- SPECBAR (R168): waits, holding the slot, until the wave is non-speculative. -/
def execSpecbar (s : State) : Result :=
  issue {} (fun s => if s.w.speculative then .next (s.holdFor .nonspec) else .next (finish {} s)) s

/-- SLEEP (R170): a deadline at most 16,777,215 ns away; a zero operand acts as YIELD. -/
def execSleep (a : BitVec 7) (ea : Bool) (s : State) : Result :=
  let u : Use := { srcS := [(a.toNat, ea)], irrevocable := true, both := true }
  issue u (fun s =>
    let d := s.sreg a.toNat
    if d = 0 then .next (finish u (markYield s))
    else
      let s := advanceNanotime s
      let ns := if d.toNat < 16777215 then d else 16777215
      let s := finish u s
      .next ((s.onWave (fun w => { w with station := .asleep, deadline := s.nanotime + ns })).endRun)) s

/-- WAITC (R171): a blocked wave gives up the slot. -/
def execWaitc (path : BitVec 3) (r : BitVec 7) (ea : Bool) (s : State) : Result :=
  let u : Use := { srcS := [(r.toNat, ea)] }
  issue u (fun s =>
    if s.w.count path.toNat ≤ (s.sreg r.toNat).toNat then
      .next (finish u (if path = 3#3 then settleMatrix s else s))
    else .next (s.blockFor (.counters (1#8 <<< path.toNat) (s.sreg r.toNat).toNat))) s

/-- WAITR (R171). -/
def execWaitr (r : BitVec 7) (s : State) : Result :=
  issue { illegal := s.w.isPort r.toNat } (fun s =>
    if s.w.badV r.toNat then raise Cause.register 0 0 s
    else if s.w.a.emptyV.getLsbD r.toNat then .next (s.blockFor (.operand (RegSet.with 0 r.toNat) 0))
    else .next (finish {} s)) s

/-- WAITS (R171). -/
def execWaits (r : BitVec 7) (s : State) : Result :=
  issue {} (fun s =>
    if s.w.badS r.toNat then raise Cause.register 0 0 s
    else if s.w.a.emptyS.getLsbD r.toNat then .next (s.blockFor (.operand 0 (RegSet.with 0 r.toNat)))
    else .next (finish {} s)) s

/-- PBLK (R149, R178): the two sets are a snapshot at issue. -/
def execPblk (sp : BitVec 7) (n : BitVec 3) (pattern : BitVec 8) (ea : Bool) (s : State) : Result :=
  let u : Use := { srcS := [(sp.toNat, ea)] }
  issue u (fun s =>
    let x := s.sreg sp.toNat
    let residue : Residue := ⟨s.w.a.exec &&& x, s.w.a.exec &&& ~~~x, pattern, n.toNat + 1⟩
    .next ((finish u s).onArch (fun a => { a with pos := { a.pos with residue := residue } }))) s

/-- ILLEGAL_INSTRUCTION (R152): a word Table 7.7 does not define traps 0x01 before any effect. -/
def execIllegalInstruction (_word : BitVec 32) (s : State) : Result := raise Cause.illegal 0 0 s

end Sys2Proof.Machine
end

