-- ==== Sys2Proof/Machine/Fences.lean ====
section
/-! DEFINITION. Fences (R215, R216) and the slab translation words (R217). -/

namespace Sys2Proof.Machine

/-- FENCE (R215): the wave is non-speculative and cnt.st and cnt.hx are zero. (DEDUCED, log 86, safe.) -/
def execFence (s : State) : Result :=
  issue {} (fun s =>
    if s.w.speculative || s.w.count 1 != 0 || s.w.count 6 != 0 then .next (s.holdFor .fence) else .next (finish {} s)) s

/-- The key of a fetched code word: a context's address. -/
def fetchKey (tag : BitVec 8) (pc : W64) : Nat := tag.toNat * 2 ^ 64 + pc.toNat

/-- A word of memory at a code address, changing nothing. -/
def peekWord (s : State) (w : Wave) (pc : W64) : Option W32 :=
  match tlbFind s (.core w.core) w.env.tag pc with
  | some e => some (readW s.mem (leafLoc e.leaf e.large pc))
  | none => (probe s w.env.tag pc Access.fetch).map (readW s.mem)

/-- The words of the clause a wave is in, as its core fetched them (R215). (DEDUCED, log 86, safe.) -/
def clauseWords (s : State) (w : Wave) : SMap W32 :=
  (List.range (headerN w.a.pos.header)).foldl (fun m i =>
    let pc := w.a.pos.clause + 4 + 4 * BitVec.ofNat 64 i
    match (find (s.core w.core).fetched (fetchKey w.env.tag pc)).or (peekWord s w pc) with
    | some x => ins m pc.toNat x
    | none => m) []

/-- The issuing core's fetched copies of the launch's code are discarded; a clause whose words a wave of the core is issuing runs as
fetched (R215). (DESIGN CHOICE, log 57, safe; DEDUCED, log 86, safe.) -/
def discardFetched (s : State) : State :=
  let lo := fetchKey s.w.env.tag s.w.env.code
  let core := s.w.core
  let s := s.mapWaves (fun _ w => if w.core == core && w.station != .vacant && w.a.pos.inClause then { w with kept := clauseWords s w } else w)
  s.onCore s.w.core (fun c => { c with fetched := c.fetched.filter (fun e => !decide (lo ≤ e.1 ∧ e.1 < lo + s.w.env.length.toNat)) })

/-- FENCEI (R215). (DEDUCED, log 86, safe.) -/
def execFencei (s : State) : Result :=
  issue {} (fun s =>
    if s.w.count 1 != 0 then .next (s.holdFor .fence) else .next (finish {} (discardFetched s))) s

/-- FENCEH (R216): a zero-length read behind the wave's space-4 stores, counted on hx; HOST_COMPLETION completes the word.
(DEDUCED, log 86, safe.) -/
def execFenceh (s : State) : Result :=
  issue { irrevocable := true, path := some 6 } (fun s =>
    if s.w.producers.any (fun p => p.seq == s.w.seq) then .next (s.holdFor .fence)
    else
      let p : Producer := ⟨s.w.seq, 6, [], [], []⟩
      .next (((raiseCount 6 s).onWave (fun w => { w with producers := w.producers ++ [p] })).holdFor .fence)) s

/-- A window handle's descriptor (R217): the handle must be valid and of space 6, and, where one is named, the reach handle of space 0; the
descriptor must not be reserved (R107). -/
def windowWord (u : Use) (h : BitVec 6) (rh : Option (BitVec 6)) (k : Handle → List Nat → State → Result) (s : State) : Result :=
  issue u (fun s =>
    match s.w.env.handle h.toNat with
    | none => raise Cause.handle 0 0 s
    | some hd =>
      if hd.space ≠ 6 || rh.any (fun r => !(s.w.env.handle r.toNat).any (fun x => x.space == 0)) then raise Cause.handle 0 0 s
      else
        match translateBytes s (.core s.w.core) s.w.env.tag hd.base 64 Access.read with
        | (s', .inl locs) => if slabReserved (slabBits s' locs) then raise Cause.handle 0 0 s' else k hd locs s'
        | (s', .inr (va, c, l, g)) =>
          .next (stallOrTrap 0 Access.read [(64, va, c, l, g)] s')) s

/-- SLBXL (R217): an operand pointer through the reach handle, and the sample's gen, into an even pair. The descriptor is
sampled once the wave is non-speculative; a poisoned sector of it is consumed (R309). (DEDUCED, log 87, safe.) -/
def execSlbxl (sd : BitVec 7) (so : BitVec 7) (h : BitVec 6) (ea : Bool) (rh : BitVec 6) (s : State) : Result :=
  let d := sd.toNat
  let u : Use := { words := 2, srcS := [(so.toNat, ea)], dstS := [d, d + 1], path := some 0, late := true, illegal := sd.getLsbD 0 }
  windowWord u h (some rh) (fun hd locs s =>
    match s.w.env.handle rh.toNat with
    | none => raise Cause.handle 0 0 s
    | some r =>
      let desc := slabBits s locs
      let x := slabSample hd.base desc
      let o := (s.sreg so.toNat).toNat
      if !slabInRange hd x o then raise Cause.bounds 0 0 s
      else
        let va := slabVa hd x (slabBound desc) o
        if va.toNat < r.base.toNat ∨ r.base.toNat + r.limit < va.toNat then raise Cause.bounds 0 0 s
        else if s.w.speculative then .next (s.holdFor .nonspec)
        else
        match poisonVa s (fun _ _ => false) [⟨64, hd.base, locs, [], [], [], []⟩] with
        | some bad => .next (stallOrTrap 0 Access.read [(64, bad, Cause.poison, 0, false)] s)
        | none =>
          let ptr : W64 := rh.setWidth 8 ++ 0#16 ++ (va - r.base).setWidth 40
          .next (answerLater u 0 [.scalar d ptr, .scalar (d + 1) (x.gen.setWidth 64)] [] [d, d + 1] s)) s

/-- SLBRD (R217): one 64-bit word of the descriptor, a load of the wave. (DEDUCED, log 87, safe.) -/
def execSlbrd (sd : BitVec 7) (h : BitVec 6) (sel : BitVec 3) (s : State) : Result :=
  let u : Use := { words := 2, dstS := [sd.toNat], path := some 0, late := true }
  windowWord u h none (fun hd locs s =>
    let e : Elem := ⟨64, hd.base + BitVec.ofNat 64 (8 * sel.toNat), (locs.drop (8 * sel.toNat)).take 8, [], [], [], []⟩
    let x := (makeAccess s 0 hd h.toNat false (.loadS sd.toNat 8 false) [e]).asLoad s hd
    if s.w.writePending then .next (s.holdFor .engine)
    else .next (finish u ((nearTouched x (addAccess x (raiseCount 0 s))).onArch (fun a => a.emptySs [sd.toNat])))) s

end Sys2Proof.Machine
end

