-- ==== Sys2Proof/Machine/Fetch.lean ====
section
/-! DEFINITION. From the wave in focus to the words it issues next (R33 to R36, R140 to R144, R149, R154): a pending trap, the
clause header with its checks and waits, the word or words with theirs. -/

namespace Sys2Proof.Machine

/-! ### Clauses -/

/-- Home classes (Table 3.4), numbered as the class field of a header is (Table 7.1). -/
def scalarClass : Nat := 0
def vectorClass : Nat := 1
def memoryClass : Nat := 2
def asyncClass : Nat := 3
def mixedClass : Nat := 4
def transClass : Nat := 5
def controlClass : Nat := 6

/-- The major opcode of a word (R145). -/
def majorOf (w : W32) : Nat := (w.extractLsb' 26 6).toNat

/-- The home class of a major (Table 7.7); none for an unassigned one. -/
def homeClass (major : Nat) : Option Nat :=
  if major < 0x08 ∨ major = 0x10 ∨ major = 0x11 then some scalarClass
  else if major < 0x10 ∨ major = 0x3c then some controlClass
  else if major < 0x1c ∨ major = 0x1e ∨ major = 0x1f then some vectorClass
  else if major = 0x1d then some transClass
  else if (0x20 ≤ major ∧ major ≤ 0x26) ∨ major = 0x28 ∨ major = 0x29 then some memoryClass
  else if major = 0x27 ∨ major = 0x30 ∨ major = 0x31 ∨ (0x33 ≤ major ∧ major ≤ 0x35) then some asyncClass
  else none

/-- Whether a clause's class admits a home class (R142). NOP is a control word, so a clause of class scalar does not admit it: the scalar
clauses of NOPs that R49 pads with are of class control. (DEDUCED, log 178, unsafe.) -/
def admits (cls home : Nat) : Bool :=
  cls == mixedClass || home == scalarClass || (cls != scalarClass && home == controlClass) || cls == home

/-- A clause of class scalar or control needs only the scalar slot (R33). -/
def scalarOnly (cls : Nat) : Bool := cls == scalarClass || cls == controlClass

/-- A header that Table 7.2 calls malformed, at an address of the code object. -/
def headerBad (w : Wave) (pc : W64) (h : W32) : Bool :=
  let n := headerN h
  n == 0 || headerClass h == 7 || headerD h 0 || (List.range 15).any (fun i => decide (n ≤ i) && headerD h i) ||
    decide (w.env.code.toNat + w.env.length.toNat < pc.toNat + 4 + 4 * n)

/-- A branch, CALL, JMPR, CALLR or RET, by major and cond or fn (Table 7.7). -/
def isBranch (x : W32) : Bool :=
  let m := majorOf x
  (m == 0x08 && decide ((x.extractLsb' 22 4).toNat < 5)) || (m == 0x09 && decide ((x.extractLsb' 22 4).toNat < 4)) ||
    (m == 0x0a && decide ((x.extractLsb' 2 3).toNat < 3))

/-- A word that Table 7.2 calls malformed at its place in its clause. -/
def wordBad (p : CodePos) (x : W32) : Bool :=
  let n := headerN p.header
  let last := p.index + 1 == n
  (isLong x && (last || headerD p.header (p.index + 1))) ||
    (match homeClass (majorOf x) with | some c => !admits (headerClass p.header) c | none => false) ||
    (isBranch x && !last) ||
    (majorOf x == 0x0f && decide (n < p.index + 1 + (x.extractLsb' 16 3).toNat + 1))

/-! ### Fetching -/

/-- What a fetch of one word comes to. -/
inductive Fetch where
  | word (x : W32)
  | outside
  | poison
  | fault (va : W64) (cause : BitVec 8) (level : Nat) (large : Bool)
  deriving DecidableEq, Repr

/-- A word as the core sees it (R140): memory's, or, where the core fetched it before and it has changed since, either.
(DESIGN CHOICE, log 57, safe.) -/
def seenWord (core key : Nat) (now : W32) (s : State) : State × W32 :=
  match find (s.core core).fetched key with
  | none => (s.onCore core (fun c => { c with fetched := ins c.fetched key now }), now)
  | some old =>
    if old = now then (s, now)
    else if Config.freeBit s.free then
      ({ s.onCore core (fun c => { c with fetched := ins c.fetched key now }) with free := s.free + 1 }, now)
    else ({ s with free := s.free + 1 }, old)

/-- Fetch a word of the focused wave's code object (R140); a word of its clause that it keeps is that (R215).
(DESIGN CHOICE, log 57, safe; DEDUCED, log 86, safe.) -/
def fetchWord (pc : W64) (s : State) : State × Fetch :=
  if !inCode s.w pc then (s, .outside)
  else if let some x := find s.w.kept pc.toNat then (s, .word x)
  else
    match translateBytes s (.core s.w.core) s.w.env.tag pc 4 Access.fetch with
    | (s, .inr (va, c, l, g)) => (s, .fault va c l g)
    | (s, .inl locs) =>
      if anyPoison s locs then (s, .poison)
      else
        let (s, x) := seenWord s.w.core (fetchKey s.w.env.tag pc) (BitVec.ofNat 32 (natOfBytes (readLocs s.mem locs))) s
        (s, .word x)

/-! ### What stands before a word -/

/-- What the wave in focus comes to before a word issues: the state it is left in, or the words to issue. -/
inductive Ready where
  | done (s : State)
  | words (w0 w1 : W32) (s : State)
  deriving DecidableEq, Repr

/-- A trap at a place in the code, on the words given: trinst is zero where the header or word could not be fetched, of which the
spec says nothing. Poison is met at an address. (DESIGN CHOICE, log 166, unsafe.) -/
def trapAt (cause : BitVec 8) (inst va : W64) (s : State) : Ready :=
  let s := s.onWave (fun w => { w with inst := inst })
  .done (takeTrap { trapHere s cause 0 0 with access := if cause = Cause.poison then Access.fetch else 0,
                                              va := if cause = Cause.poison then va else 0 } s)

/-- A page fault of a fetch (R140, R289): the wave stalls until it is resolved. -/
def fetchFault (va : W64) (cause : BitVec 8) (level : Nat) (large : Bool) (s : State) : Ready :=
  .done (stallOrTrap 0 Access.fetch [(64, va, cause, level, large)] s)

/-- A long-latency producer of the clause has not filled its destinations (R144). -/
def clauseOpen (s : State) (w : Wave) : Bool :=
  let first := w.a.pos.first
  w.accesses.any (fun x => first ≤ x.seq && !x.returned && (match x.op with | .portStore _ => false | _ => true)) ||
    w.producers.any (fun p => first ≤ p.seq) || w.attn.any (fun p => first ≤ p.seq) ||
    s.distaff.any (fun r => r.wave == w.key && first ≤ r.seq) ||
    s.carders.any (fun e => e.2.any (fun r => !r.round && r.wave == w.key && first ≤ r.seq)) ||
    (s.core w.core).trans.any (fun e => e.2.any (fun r => r.wave == w.key && first ≤ r.seq))

/-- Any counter that a header's W names is nonzero (R141). -/
def counterWait (w : Wave) : Bool := (List.range 8).any (fun i => (headerW w.a.pos.header).getLsbD i && w.count i != 0)

/-- The words at the wave's place in a clause, once the clause's waits let it go on (R35, R141, R143, R144).
(DEDUCED, log 18, safe.) -/
def nextWords (s : State) : Ready :=
  let p := s.w.a.pos
  if p.index = 0 && counterWait s.w then .done (s.blockFor (.counters (headerW p.header) 0))
  else if p.index = 0 && headerS p.header && s.w.speculative then .done (s.blockFor .nonspec)
  else if headerD p.header p.index && clauseOpen s s.w then .done (s.holdFor .engine)
  else
    let s := if p.index = 0 && (headerW p.header).getLsbD 3 then settleMatrix s else s
    match fetchWord p.pc s with
    | (s, .outside) => trapAt Cause.clause 0 p.pc s
    | (s, .poison) => trapAt Cause.poison 0 p.pc s
    | (s, .fault va c l g) => fetchFault va c l g s
    | (s, .word x) =>
      if wordBad p x then trapAt Cause.clause (x.setWidth 64) p.pc s
      else if !isLong x then .words x 0 (s.onWave (fun w => { w with inst := x.setWidth 64 }))
      else
        match fetchWord (p.pc + 4) s with
        | (s, .outside) => trapAt Cause.clause (x.setWidth 64) (p.pc + 4) s
        | (s, .poison) => trapAt Cause.poison (x.setWidth 64) (p.pc + 4) s
        | (s, .fault va c l g) => fetchFault va c l g s
        | (s, .word y) => .words x y (s.onWave (fun w => { w with inst := y ++ x }))

/-- The wave's team is being pre-empted (R293): it starts no clause. (DEDUCED, log 124, safe.) -/
def teamHalting (s : State) (w : Wave) : Bool := (find s.teams w.team).any (·.halting)

/-- The wave holds the scalar slot and not the vector slot. (DEDUCED, log 16, safe.) -/
def scalarHolder (s : State) (w : Wave) : Bool :=
  !w.holdsSlot s.holders w.quarterId && w.holdsSlot s.holders (scalarSlot w.quarterId)

/-- The next clause's header at its boundary, then its first word. A holder of the scalar slot gives it up before a clause
that needs the other. (DEDUCED, log 16, 124, safe.) -/
def nextClause (s : State) : Ready :=
  let pc := s.w.a.pos.pc
  if teamHalting s s.w then .done s.endRun
  else
    match fetchWord pc (s.onWave (fun w => { w with kept := [] })) with
    | (s, .outside) => trapAt Cause.clause 0 pc s
    | (s, .poison) => trapAt Cause.poison 0 pc s
    | (s, .fault va c l g) => fetchFault va c l g s
    | (s, .word h) =>
      if headerBad s.w pc h then trapAt Cause.clause (h.setWidth 64) pc s
      else if scalarHolder s s.w && !scalarOnly (headerClass h) then .done s.endRun
      else
        let place : CodePos := ⟨pc + 4, true, h, 0, Residue.none, s.w.seq⟩
        nextWords (s.onArch (fun a => { a with pos := place }))

/-- A pending trap of the wave in focus is taken once it is non-speculative; one after completion names the next word (R157).
(DEDUCED, log 43, safe.) -/
def deliverPending (t : PendTrap) (s : State) : State :=
  if s.w.speculative then s.holdFor .nonspec
  else if t.cause = Cause.barrier then deliverMisuse t s
  else deliverTrap (if t.post then { t with pc := s.w.a.pos.pc } else t) s

/-- A transcendental whose result may trap is not complete: it holds the wave's next word at issue (R258). (DEDUCED, log 43, safe.) -/
def awaitsFlags (s : State) : Bool := s.w.fte != 0 && (s.core s.w.core).trans.any (fun e => e.2.any (fun r => r.wave == s.w.key))

/-- WHAT THE WAVE IN FOCUS DOES NEXT before exec. A transaction in which a page fault has been resolved aborts (R210). -/
def prepare (s : State) : Ready :=
  match s.w.pend with
  | some t => .done (deliverPending t s)
  | none =>
    if s.w.txn.any (·.faulted) then .done (abortTxn s.focus 6#3 s)
    else if awaitsFlags s then .done (s.holdFor .engine)
    else if s.w.a.pos.inClause then nextWords s else nextClause s

/-- A wait for a register, a port or earlier words of the clause. -/
def Hold.onOperand : Hold → Bool
  | .operand _ _ => true
  | _ => false

/-- A word that would be its clause's first and is blocked on an operand ends the run (R35 case 3). A wave of a team being
pre-empted stops where it is found blocked (R293). (DEDUCED, log 18, 124, safe.) -/
def afterIssue (before after : State) : State :=
  if after.w.hold != .none && teamHalting after after.w then (after.onWave (fun w => { w with halted := true })).endRun else
  if before.w.a.pos.index = 0 && after.w.a.pos == before.w.a.pos && after.w.hold.onOperand then after.endRun else after

end Sys2Proof.Machine
end

