-- ==== Sys2Proof/Machine/Quarter.lean ====
section
/-! DEFINITION. What a quarter does between words: granting its slots (R33, R36), its transcendental unit (R191), waking a
sleeper (R170), and its stream and affine engines fetching ahead (R102, R105). -/

namespace Sys2Proof.Machine

/-! ### Slots (R33, R36) -/

/-- The class of the clause a wave goes on with; of no class where its header cannot be seen: it then asks for the vector slot.
(DESIGN CHOICE, log 187, safe.) -/
def nextClass (s : State) (w : Wave) : Option Nat :=
  if w.a.pos.inClause then some (headerClass w.a.pos.header) else (peekWord s w w.a.pos.pc).map headerClass

/-- The waits of the clause a wave starts next let its first word go (R36): its counters and its speculation barrier. What blocks the word
itself stands in its hold by then. (DEDUCED, log 15, safe.) -/
def Wave.startable (w : Wave) (s : State) : Bool :=
  if w.a.pos.inClause then true
  else
    match peekWord s w w.a.pos.pc with
    | none => true
    | some h => !(List.range 8).any (fun i => (headerW h).getLsbD i && w.count i != 0) && !(headerS h && w.speculative)

/-- A ready wave of a quarter that holds no slot (R36). A pre-emption lets a pending trap go first (R299).
(DEDUCED, log 15, safe.) -/
def Wave.ready (w : Wave) (s : State) (quarter : Nat) : Bool :=
  w.quarterId == quarter && w.station == .live && w.hold == .none && (w.pend.isSome || w.startable s) && !w.holdsSlot s.holders quarter &&
    !w.holdsSlot s.holders (scalarSlot quarter) && (w.pend.isSome || (!w.halted && !(teamHalting s w && !w.a.pos.inClause)))

/-- The order of steps 2 to 4 of R36, least first: among promoted waves the oldest. -/
def arbitrationKey (s : State) (w : Wave) : List Nat :=
  if w.promoted then 0 :: (waveRank s w).drop 1 else 1 :: waveRank s w

/-- A wave needs its quarter's scalar slot alone for the clause it goes on with (R33). -/
def needsScalar (s : State) (w : Wave) : Bool := (nextClass s w).any scalarOnly

/-- The wave a free slot goes to, among those that need it: one that has just ended a run only if there is no other. -/
def chooseWave (s : State) (quarter : Nat) (scalar : Bool) : Option (Nat × Wave) :=
  let all := s.allWaves.filter (fun e => e.2.ready s quarter && needsScalar s e.2 == scalar)
  let others := all.filter (fun e => !e.2.rest)
  (if others.isEmpty then all else others).foldl (fun best e =>
    match best with
    | none => some e
    | some b => if arbitrationKey s e.2 < arbitrationKey s b.2 then some e else some b) none

/-- No live wave of a quarter holds a slot. -/
def slotFree (s : State) (quarter key : Nat) : Bool :=
  s.allWaves.all (fun e => !(e.2.quarterId == quarter && e.2.station == .live && e.2.holdsSlot s.holders key))

/-- A slot granted to a wave: its run begins, and a wave that ended the run before may be chosen again (R36). -/
def grantSlot (scalar : Bool) (k : Nat) (s : State) : State :=
  let w := s.wave k
  let key := if scalar then scalarSlot w.quarterId else w.quarterId
  let s := s.mapWaves (fun _ x => if x.quarterId == w.quarterId && needsScalar s x == scalar then { x with rest := false } else x)
  { s.setWave k { s.wave k with ran := 0, rest := false } with holders := put 0 s.holders key (w.slot + 1) }

/-- SLOT_ARBITRATION (R33, R36): the vector slot of a quarter, else its scalar slot, goes to a ready wave that needs it.
(DEDUCED, log 15, safe.) -/
def execSlotArbitration (quarter : Nat) (s : State) : Result :=
  match (if slotFree s quarter quarter then chooseWave s quarter false else none) with
  | some (k, _) => .next (grantSlot false k s)
  | none =>
    match (if slotFree s quarter (scalarSlot quarter) then chooseWave s quarter true else none) with
    | some (k, _) => .next (grantSlot true k s)
    | none => .next s

/-- STARVATION_PROMOTION (R36): a ready wave that has waited 2,048 cycles of its core's clock since its last word.
(DESIGN CHOICE, log 4, unsafe.) -/
def execStarvationPromotion (wave : Nat) (s : State) : Result :=
  let w := s.wave wave
  if !w.ready s w.quarterId || w.promoted then .next s
  else
    .next ((s.reachClock w.core (w.lastIssue + 2048)).setWave wave { w with promoted := true })

/-! ### The transcendental unit (R191) -/

/-- A quarter's words at its unit, the oldest first. -/
def transQueue (s : State) (quarter : Nat) : List TransOp := look [] (s.core (quarter / 4)).trans (quarter % 4)

def setTrans (quarter : Nat) (q : List TransOp) (s : State) : State :=
  s.onCore (quarter / 4) (fun c => { c with trans := put [] c.trans (quarter % 4) q })

/-- TRANSCENDENTAL_START (R191): the unit, free, starts the oldest word. (DEDUCED, log 153, safe.) -/
def execTranscendentalStart (quarter : Nat) (s : State) : Result :=
  match transQueue s quarter with
  | [] => .next s
  | op :: rest => if op.started then .next s else .next (setTrans quarter ({ op with started := true } :: rest) s)

/-- TRANSCENDENTAL_RESULT (R76, R77, R191): vd takes its values and falls full, the flags are raised, an enabled one traps.
(DEDUCED, log 153, safe.) -/
def execTranscendentalResult (quarter : Nat) (s : State) : Result :=
  match transQueue s quarter with
  | [] => .next s
  | op :: rest =>
    if !op.started then .next s
    else
      let s := setTrans quarter rest s
      let back := s.focus
      let s := s.focusOn op.wave
      let results := op.operand.map (fun x => (x.1, transcendental op.fn (Rounding.ofBits op.mode) x.2))
      let fs := results.map (fun r => (r.1, r.2.2))
      let f := fun (a : Arch) =>
        ((results.foldl (fun (a : Arch) r => a.setV op.d r.1 r.2.1) a).fillVs [op.d]).addFlags fs
      let s := { s with w := (s.w.late op.seq [op.d] s.free f).fillPortStores op.seq, free := s.free + lateSpan }
      let enabled := allRaised fs &&& s.w.fte
      let s := if enabled = 0 then s else postTrap op.seq enabled (raisedBy s.w.fte fs) op.inst s
      .next (s.focusOn back)

/-! ### Sleepers and the port engines -/

/-- SLEEP_DEADLINE (R170): nanotime has reached a sleeping wave's deadline. (DESIGN CHOICE, log 4, unsafe.) -/
def execSleepDeadline (wave : Nat) (s : State) : Result :=
  let w := s.wave wave
  if w.station ≠ .asleep then .next s
  else
    let s := if s.nanotime.toNat < w.deadline.toNat then { s with nanotime := w.deadline } else s
    .next (s.setWave wave { w with station := .live, hold := .none, deadline := 0 })

/-- The step, or entry, of a read port at a number, as the engine fetches it: every thread's element. -/
def Wave.stepAt (w : Wave) (r n : Nat) : PortStep :=
  if w.ports == 1#2 then
    let p := w.a.stream (r - 124)
    ⟨r, true, p.handle.toNat, p.byp, elemBytes p.size, (List.range w.width).map (fun t => (t, p.offset n t))⟩
  else
    let q := w.a.queue (r - 124)
    ⟨r, true, q.handle.toNat, q.byp, elemBytes q.size, (List.range w.width).map (fun t => (t, q.offset n t))⟩

/-- The threads of a step whose checks pass, each by itself (R103), with their places; and whether a walk of one is on its way. -/
def stepPlaces (w : Wave) (p : PortStep) : List (Nat × Nat) → State → State × List Place × Bool
  | [], s => (s, [], false)
  | o :: os, s =>
    match checkAccess w (.core w.core) p.handle .load p.bytes p.bytes [o] s with
    | (s, .ok _ places) =>
      let (s, more, wait) := stepPlaces w p os s
      (s, places ++ more, wait)
    | (s, .waitHost) =>
      let (s, more, _) := stepPlaces w p os s
      (s, more, true)
    | (s, .fault fs) =>
      let (s, more, wait) := stepPlaces w p os s
      (s, more, wait || fs.any (fun f => f.2.2.1 == Cause.waiting))
    | (s, _) => stepPlaces w p os s

/-- A wave's engine may fetch through a handle: an access of spaces 4 and 5 is irrevocable, and waits until the wave is not speculative and
its guard lets it go; that of a paired launch is copy A's, once the comparison lets it lead (R129, R274, R318). -/
def mayFetch (s : State) (w : Wave) (h : Handle) (handle : Nat) : Bool :=
  !h.remote || (!w.speculative && w.txn.isNone && !guardHoldsAccess s w h handle false && (w.pair.isNone || w.pairOk == 1#2))

/-- The step a port's engine fetches next: the first within `ahead` that it does not hold; the step to be read is fetched again where more
threads have a place than it was fetched for. Nothing while the path counter is at its limit (R172). (DEDUCED, log 32, 33, safe.) -/
def fetchNext (wave r ahead total : Nat) (s : State) : State :=
  let w := s.wave wave
  let next := w.nextStep r
  let steps := ((List.range ahead).map (next + ·)).filter (· < total)
  let short := fun n => decide (n = next) && (w.arrived r).any (fun x => decide (x.elems.length < w.width))
  match steps.find? (fun n => (w.fetchOf r n).isNone || short n) with
  | none => s
  | some n =>
    let p := w.stepAt r n
    match w.env.handle p.handle with
    | none => s
    | some h =>
      let path := if h.remote then 6 else 0
      if !mayFetch s w h p.handle || 65535 ≤ w.count path || 64 ≤ refusedOf s w.core then s
      else
        let (s, places, wait) := stepPlaces w p p.offs s
        if wait || (short n && decide (places.length ≤ ((w.fetchOf r n).map (fun x => x.elems.length)).getD 0)) then s
        else
          let back := s.focus
          let s := s.focusOn wave
          let s := s.onWave (Wave.dropFetches (fun x => x.op == .fetch r n))
          let near := fun (l : Nat) => nearServes s h p.byp (lineOf l)
          let elems := places.map (fun q =>
            (⟨q.thread, q.va, q.locs, [], [], [], (q.locs.filter near).map (fun l => (l, readByte s.mem l))⟩ : Elem))
          let reqs := (requests .sent s.cycle (homeWhorl s) (elems.flatMap (·.locs))).map (fun r =>
            if nearServes s h p.byp r.line then { r with phase := .done, here := true } else r)
          let id := 2 ^ 40 + s.stamp
          let x := { makeAccess s path h p.handle p.byp (.fetch r n) elems with
            seq := id, reqs := reqs, poisoned := poisonVa s (fun _ l => !near l) elems }
          let s := (nearTouched x s).onWave (fun w => { w with
            aside := w.aside ++ [x], flight := w.flight ++ [⟨path, id, false⟩]
            a := if w.ports == 2#2 then
                let q := w.a.queue (r - 124)
                w.a.setQueue (r - 124) { q with issued := max q.issued (n + 1) }
              else w.a })
          { s with stamp := s.stamp + 1 }.focusOn back

/-- STREAM_PREFETCH (R102): a read port's next step is fetched, at most eight ahead. (DEDUCED, log 32, 33, safe.) -/
def execStreamPrefetch (wave : Nat) (port : Nat) (s : State) : Result :=
  let w := s.wave wave
  let p := w.a.stream port
  if w.station ≠ .live ∨ w.ports ≠ 1#2 ∨ 4 ≤ port ∨ !p.bound ∨ p.dir then .next s
  else .next (fetchNext wave (124 + port) 8 p.count.toNat s)

/-- QUEUE_FETCH (R105): a load queue's next entry is fetched, at most sixteen held. (DEDUCED, log 32, 33, safe.) -/
def execQueueFetch (wave : Nat) (queue : Nat) (s : State) : Result :=
  let w := s.wave wave
  let q := w.a.queue queue
  if w.station ≠ .live ∨ w.ports ≠ 2#2 ∨ 2 ≤ queue ∨ !q.bound then .next s
  else .next (fetchNext wave (124 + queue) 16 q.total s)

end Sys2Proof.Machine
end

