-- ==== Sys2Proof/Machine/Choices.lean ====
section
/-! DEFINITION. What may come next (R36, R95, R112, R119): the waves that may issue, and the device steps whose conditions may
hold. The spec orders few of them, so the step takes any; what comes from outside the device stands on the agenda instead. -/

namespace Sys2Proof.Machine

/-- A wave that may issue: live, in a slot, not waiting. One that a pre-emption has stopped may only take a pending trap. -/
def Wave.mayIssue (w : Wave) (holders : SMap Nat) : Bool :=
  w.station == .live && w.hold == .none && (!w.halted || w.pend.isSome) &&
    (w.holdsSlot holders w.quarterId || w.holdsSlot holders (scalarSlot w.quarterId))

/-- The waves that may issue, by key. (DESIGN CHOICE, log 6, safe.) -/
def issuers (s : State) : List Nat := (s.allWaves.filter (fun e => e.2.mayIssue s.holders)).map (·.1)

/-- The host's answer to a line whose ownership, or whose copy, the device has asked for. -/
def ownershipOf (s : State) (line : Nat) : Instr :=
  if s.hostCopy.contains line then .backInvalidateResponse line else .cxlCacheOwnershipGrant line

/-- Device steps for what a wave has outstanding. (DESIGN CHOICE, log 53, safe.) -/
def waveChoices (s : State) (k : Nat) (w : Wave) : List Instr :=
  let live := w.station == .live
  (w.producers.filter (fun p => p.path != 6)).map (fun p => Instr.loadDataReturn k p.seq) ++
  (w.under.filter (fun x => w.awaited x.seq == some x)).map (fun x => Instr.loadDataReturn k x.seq) ++
  (if (w.accesses.head?).any (·.retirable) then [Instr.accessRetire k] else []) ++
  (match w.leaving with
    | some x => (match x.queue with | some q => [Instr.storeQueueDrain k q] | none => [Instr.storeBufferLeave k])
    | none => []) ++
  w.under.flatMap (fun x => (x.reqs.filter (fun r => r.phase == .refused)).map (fun r => Instr.retryTimerExpiry k x.seq r.line)) ++
  (if w.station == .asleep then [Instr.sleepDeadline k] else []) ++
  (match w.hold with | .barrier _ _ => [Instr.barrierWaitComplete k] | _ => []) ++
  (if live && w.ports == 1#2 then (w.a.streams.filter (fun p => p.2.bound && !p.2.dir)).map (fun p => Instr.streamPrefetch k p.1) else []) ++
  (if live && w.ports == 2#2 then (w.a.queues.filter (fun q => q.2.bound && decide (q.1 < 2))).map (fun q => Instr.queueFetch k q.1) else []) ++
  w.attn.flatMap (fun op =>
    ((List.range 16).filter (fun h => !op.whorls.contains h)).map (fun h => Instr.whorlPartial k op.seq h) ++
      (if op.partials.length ≤ 1 && !op.whole then [] else [Instr.partialMerge k op.seq])) ++
  (if (awaiting s k 4).isSome || (awaitingCommand s k 4).isSome || w.producers.any (fun p => p.path == 6) then [Instr.hostCompletion k (Config.freeStatus s.cycle)] else []) ++
  (match awaiting s k 5 with
    | some x =>
      (if portsTo s x.node = 0 then [Instr.skeinPeerTimeout (BitVec.ofNat 16 x.node)] else []) ++
        [Instr.peerAcknowledgement k (Config.freeStatus s.cycle)]
    | none =>
      match awaitingCommand s k 5 with
      | some (_, c) =>
        (if portsTo s c.node = 0 then [Instr.skeinPeerTimeout (BitVec.ofNat 16 c.node)] else []) ++
          [Instr.peerAcknowledgement k (Config.freeStatus s.cycle)]
      | none => []) ++
  w.accesses.flatMap (fun x => (x.reqs.filter (fun r => r.phase == .owning)).map (fun r => ownershipOf s r.line)) ++
  (if live && !w.promoted && w.ready s w.quarterId then [Instr.starvationPromotion k, Instr.slotArbitration w.quarterId] else []) ++
  (if live && w.promoted && w.ready s w.quarterId then [Instr.slotArbitration w.quarterId] else []) ++
  (if !w.matrix.isEmpty then [Instr.matrixOperationStart (w.quarterId, 768), Instr.matrixOperationStart (w.quarterId, 1), Instr.matrixOperationComplete w.quarterId] else []) ++
  (match w.pair with
    | some (j, true) => if atPoint w && atPoint (s.wave j) then [Instr.pairComparison k j] else []
    | _ => [])

/-- Device steps of a core: its messages, its vertical queue, its transcendental units. -/
def coreChoices (c : Nat) (x : Core) : List Instr :=
  x.inbox.map (fun m => if m.2 then Instr.noticeCompletion c m.1 else Instr.invalidationArrival c m.1) ++
  x.out.map (fun m => if m.2.1 then Instr.evictionNotice c m.1 else Instr.acknowledgement c m.1) ++
  (if x.spindle.isEmpty then [] else [Instr.spindleCommandStart c]) ++
  x.trans.flatMap (fun q => match q.2 with
    | [] => []
    | op :: _ => if op.started then [Instr.transcendentalResult (4 * c + q.1)] else [Instr.transcendentalStart (4 * c + q.1)])

/-- Device steps of a Whorl: its front, tiles in motion, fills, lines it asks the host for, holds, port caps and refresh. -/
def whorlChoices (s : State) (w : Nat) (h : Whorl) : List Instr :=
  (if (landable s w).isSome || !(dueOut h s.cycle).isEmpty then [Instr.tileLanding w] else []) ++
  h.fills.map (fun f => Instr.fillComplete w (f.sector, [])) ++
  (h.owning.filter (unowned s)).map (ownershipOf s) ++
  (if h.waitPin.isEmpty || !h.room then [] else [Instr.scratchMotionStart w]) ++
  (if h.hold.any (fun g => decide (g.2 + 2000 ≤ s.cycle)) then [Instr.holdTimeout w] else []) ++
  (if h.asked.isEmpty && h.caps.isEmpty then [] else [Instr.portCapLoop w]) ++
  ((h.slots.filter (fun e => 529 ≤ e.1)).map (fun e => (e.1 - 529) / 32)).eraseDups.map (fun g => Instr.rowGroupRefresh w g [])

/-- Device steps of a context: its queues, its Distaff, and the deadlines of its fault records. -/
def contextChoices (s : State) (tag : BitVec 8) (c : Context) : List Instr :=
  if !c.active || c.closing then []
  else
    ((List.range 16).filter (queueWaits c)).map (fun l => Instr.launchFetch tag l) ++
    (if (c.word 0).getLsbD 61 then [Instr.distaffStep tag] else []) ++
    (if c.distaff.running && c.distaff.done then [Instr.stepCommit tag] else []) ++
    c.faults.zipIdx.flatMap (fun f =>
      if !f.1.opened then []
      else if f.1.host then (if f.1.told then [] else [Instr.priTimeout tag f.2])
      else if s.mgmt.evbase = 0 && !explained s tag f.1.va then [Instr.eventRingDenyTimeout tag f.2] else [])

/-- Every device step that the state itself may call for. (DESIGN CHOICE, log 6, safe.) -/
def deviceChoices (s : State) : List Instr :=
  s.allWaves.flatMap (fun e => if e.2.station == .vacant then [] else waveChoices s e.1 e.2) ++
  s.parked ++
  s.moves.map (fun m => Instr.pageMove m.tag m.va m.tier m.frame) ++
  (List.range 4).flatMap (fun f => (liveWalks s f).map (fun k =>
    Instr.pageWalk k.cache.number k.tag (BitVec.ofNat 64 (k.page * 2 ^ 16)) (k.accesses.headD 0))) ++
  ((List.range 16).filter (fun h => !(wantsAt s h).isEmpty || !(unblocked s h).isEmpty)).map (fun h => Instr.frontRequestAccept (h, [])) ++
  s.cores.flatMap (fun e => coreChoices e.1 e.2) ++
  s.whorls.flatMap (fun e => whorlChoices s e.1 e.2) ++
  s.contexts.flatMap (fun e => contextChoices s (BitVec.ofNat 8 e.1) e.2) ++
  s.carders.flatMap (fun e => match e.2 with
    | [] => []
    | op :: _ => if op.round then [Instr.carderRound e.1] else [Instr.carderRecordRead e.1]) ++
  s.distaff.map (fun r => Instr.distaffRead r.wave) ++
  (s.tlbinvs.filter (fun i => !i.waits.any (outstanding s))).map (fun i => Instr.tlbinvComplete i.wave) ++
  s.launches.flatMap (fun e => if e.2.unplaced then [Instr.levelRaise e.1, Instr.reserve e.1] else []) ++
  (if (placeOrder s).isEmpty then [] else [Instr.teamPlacement]) ++
  s.teams.flatMap (fun e =>
    if e.2.saved then (if e.2.sealed then [] else [Instr.saveSeal e.1]) else if e.2.halting then [Instr.teamSave e.1] else [])

end Sys2Proof.Machine
end

