-- ==== Sys2Proof/Machine/Ports.lean ====
section
/-! DEFINITION. The stream and queue words of major 0x22 (R201 to R203). -/

namespace Sys2Proof.Machine

/-- A binding whose first scalar, owned and full, names the reserved element size (R202, R203): illegal, before the conditions on the port and
the rest of the group (R154). -/
def reservedSize (s : State) (d : BitVec 7) (lo : Nat) : Bool :=
  !s.w.badS d.toNat && !s.w.emptyScalar d.toNat && (s.sreg d.toNat).extractLsb' lo 2 == 3#2

/-- What a stream word, and a queue word, asks: a group of `k` scalars from s on, in the right port mode. -/
def useStream (s : State) (d : BitVec 7) (ed : Bool) (k : Nat) : Use :=
  { srcS := (regsFrom d k).map (fun r => (r, ed)), unbound := s.w.ports != 1#2 }
def useQueue (s : State) (d : BitVec 7) (ed : Bool) (k : Nat) : Use :=
  { srcS := (regsFrom d k).map (fun r => (r, ed)), unbound := s.w.ports != 2#2 }

/-- The port a stream word's operand names. -/
def portOf (x : W64) : Nat := (x.extractLsb' 62 2).toNat

/-- What the engine has fetched of a port, or is fetching, is dropped (R202, R203): it belongs to another place of the pattern. -/
def dropPort (r : Nat) (s : State) : State :=
  s.onWave (Wave.dropFetches (fun x => match x.op with | .fetch p _ => p == r | _ => false))

/-- STBIND (R202). -/
def execStbind (d : BitVec 7) (h : BitVec 6) (byp : Bool) (ed : Bool) (s : State) : Result :=
  let u := { useStream s d ed 3 with illegal := reservedSize s d 59 }
  issue u (fun s =>
    let x := s.sreg d.toNat
    let dir := x.getLsbD 61
    match s.w.env.handle h.toNat with
    | none => raise Cause.handle 0 0 s
    | some hd =>
      if !(if dir then hd.wr else hd.rd) then raise Cause.permission 0 0 s
      else
        let y := s.sreg (d.toNat + 1)
        let p : StreamPort :=
          { bound := true, dir := dir, size := x.extractLsb' 59 2, handle := h.setWidth 8, byp := byp,
            base := x.extractLsb' 0 40, tstride := y.extractLsb' 32 32, sstride := s.sreg (d.toNat + 2),
            count := y.extractLsb' 0 32, step := 0 }
        .next (finish u (dropPort (124 + portOf x) (s.onArch (fun a => a.setStream (portOf x) p))))) s

/-- A stream word on a bound port (R202): unbound traps 0x15. -/
def onStream (d : BitVec 7) (ed : Bool) (bad : StreamPort → W64 → Bool) (f : StreamPort → W64 → StreamPort) (s : State) :
    Result :=
  let u := useStream s d ed 1
  issue u (fun s =>
    let x := s.sreg d.toNat
    let p := s.w.a.stream (portOf x)
    if !p.bound then raise Cause.unbound 0 0 s
    else if bad p x then raise Cause.bounds 0 0 s
    else .next (finish u (dropPort (124 + portOf x) (s.onArch (fun a => a.setStream (portOf x) (f p x)))))) s

/-- STPOS (R202): a step above count traps 0x06. -/
def execStpos (d : BitVec 7) (ed : Bool) (s : State) : Result :=
  onStream d ed (fun p x => decide (p.count.toNat < (x.extractLsb' 0 32).toNat))
    (fun p x => { p with step := x.extractLsb' 0 32 }) s

/-- STSET (R202). -/
def execStset (d : BitVec 7) (ed : Bool) (s : State) : Result :=
  onStream d ed (fun _ _ => false) (fun p x => { p with base := x.extractLsb' 0 40 }) s

/-- STEND (R202): unbinds the port. -/
def execStend (d : BitVec 7) (ed : Bool) (s : State) : Result :=
  let u := useStream s d ed 1
  run u (fun s =>
    let i := portOf (s.sreg d.toNat)
    dropPort (124 + i) (s.onArch (fun a => a.setStream i StreamPort.unbound))) s

/-- QBIND (R203): a bound store queue first empties; registers of loops not declared are not read.
(DEDUCED, log 35, 104, unsafe.) -/
def execQbind (d : BitVec 7) (h : BitVec 6) (byp : Bool) (ed : Bool) (s : State) : Result :=
  let u := { useQueue s d ed 3 with groupS := regsFrom d 6, illegal := reservedSize s d 42 }
  issue u (fun s =>
    let x := s.sreg d.toNat
    let loops := (x.extractLsb' 44 2).toNat + 1
    let q := (x.extractLsb' 40 2).toNat
    let rest := (List.range (loops - 1)).map (fun j => d.toNat + 3 + j)
    if rest.any s.w.emptyScalar then
      if ed then raise Cause.empty 0 0 s else .next (s.holdFor (.operand 0 (rest.foldl RegSet.with 0)))
    else
      match s.w.env.handle h.toNat with
      | none => raise Cause.handle 0 0 s
      | some hd =>
        if !(if q < 2 then hd.rd else hd.wr) then raise Cause.permission 0 0 s
        else if 2 ≤ q && 0 < s.w.storeOcc q then .next (s.holdFor .drain)
        else
          let p : QueuePort :=
            { bound := true, handle := h.setWidth 8, byp := byp,
              group := (List.range (2 + loops)).map (fun j => s.sreg (d.toNat + j)), issued := 0, gone := 0 }
          .next (finish u (dropPort (124 + q) (s.onArch (fun a => a.setQueue q p))))) s

/-- QDRAIN (R203): a load queue's entries are discarded, a store queue's leave first; then the queue is unbound.
(DEDUCED, log 35, unsafe.) -/
def execQdrain (d : BitVec 7) (ed : Bool) (s : State) : Result :=
  let u := useQueue s d ed 1
  issue u (fun s =>
    let q := (s.sreg d.toNat).toNat % 4
    if !(s.w.a.queue q).bound then raise Cause.unbound 0 0 s
    else if 2 ≤ q && 0 < s.w.storeOcc q then .next (s.holdFor .drain)
    else .next (finish u (dropPort (124 + q) (s.onArch (fun a => a.setQueue q QueuePort.unbound))))) s

end Sys2Proof.Machine
end

