-- ==== Sys2Proof/Machine/Teams.lean ====
section
/-! DEFINITION. HALT (R39, R177, R220, R318): a wave retires, and with the last wave its team. -/

namespace Sys2Proof.Machine

/-- Barrier instances of a team in use: with state, or with a wave waiting there. -/
def instancesOf (s : State) (team : Nat) : List Nat :=
  let held := match find s.teams team with | some t => t.barriers.map (·.1) | none => []
  let awaited := s.allWaves.filterMap (fun e =>
    if e.2.team != team || e.2.station == .vacant then none
    else
      match e.2.hold with
      | .barrier i _ => some i
      | .open4 i => some i
      | _ => none)
  (held ++ awaited).eraseDups

/-- Waves whose gang operation waits at its head for a member that has halted take 0x0f (R220). (DEDUCED, log 92, unsafe.) -/
def leaveGangs (team wid : Nat) (s : State) : State :=
  let waiting := s.allWaves.filterMap (fun e =>
    if e.2.team == team && e.2.station != .vacant then
      (openHead s e.1).bind (fun op => if op.ganged && (gangWids op.gang).contains wid then some (e.1, op) else none)
    else none)
  match waiting with
  | [] => s
  | (k, op) :: _ =>
    match gather s k op with
    | .fails members => gangFails op k members s
    | _ => s

/-- A team loses a wave that has halted, and retires with its last. -/
def leaveTeam (team : Nat) (s : State) : State :=
  match find s.teams team with
  | none => s
  | some t =>
    let s := { s with teams := change (fun t => { t with left := t.left - 1 }) s.teams team }
    if t.left ≤ 1 then retireTeam team s else s

/-- The wave in focus retires (R39): its slot returns, its barriers are checked (R177), and its team loses it. Misuse that the check finds
ends the launch; the team stays until it does. -/
def retireWave (s : State) : State :=
  let k := s.focus
  let w := s.w
  let s := dropWave k s
  match (instancesOf s w.team).find? (fun i => barrierStuck s w.team i) with
  | some i => misuseBy w.launch k w.a.pos.pc w.team i s
  | none => leaveTeam w.team (leaveGangs w.team w.wid s)

/-- HALT (R39): once every path counter is zero. Both copies of a pair halt (R318). -/
def execHalt (s : State) : Result :=
  issue { irrevocable := true, both := true } (fun s =>
    if (List.range 8).any (fun p => s.w.count p != 0) then .next (s.blockFor (.counters 0xff 0)) else .next (retireWave s)) s

end Sys2Proof.Machine
end

