-- ==== Sys2Proof/Machine/Dispatch.lean ====
section
/-! DEFINITION. The one match from an instruction or device step to its meaning. -/

namespace Sys2Proof.Machine

/-- The meaning of an instruction or device step: one arm per row of the table of operations and events.
(DEDUCED, log 10, safe.) -/
def exec (i : Instr) (s : State) : Host.Outcome State Fault Refusal :=
  match i with
  | .slotArbitration quarter => Sys2Proof.Machine.execSlotArbitration quarter s
  | .starvationPromotion wave => Sys2Proof.Machine.execStarvationPromotion wave s
  | .loadDataReturn wave id => Sys2Proof.Machine.execLoadDataReturn wave id s
  | .accessRetire wave => Sys2Proof.Machine.execAccessRetire wave s
  | .storeBufferLeave wave => Sys2Proof.Machine.execStoreBufferLeave wave s
  | .invalidationArrival core line => Sys2Proof.Machine.execInvalidationArrival core line s
  | .evictionNotice core line => Sys2Proof.Machine.execEvictionNotice core line s
  | .noticeCompletion core line => Sys2Proof.Machine.execNoticeCompletion core line s
  | .acknowledgement core line => Sys2Proof.Machine.execAcknowledgement core line s
  | .frontRequestAccept front => Sys2Proof.Machine.execFrontRequestAccept front s
  | .retryTimerExpiry wave id line => Sys2Proof.Machine.execRetryTimerExpiry wave id line s
  | .holdTimeout whorl => Sys2Proof.Machine.execHoldTimeout whorl s
  | .tileLanding whorl => Sys2Proof.Machine.execTileLanding whorl s
  | .fillComplete whorl fetched => Sys2Proof.Machine.execFillComplete whorl fetched s
  | .scratchMotionStart whorl => Sys2Proof.Machine.execScratchMotionStart whorl s
  | .portCapLoop whorl => Sys2Proof.Machine.execPortCapLoop whorl s
  | .transcendentalStart quarter => Sys2Proof.Machine.execTranscendentalStart quarter s
  | .transcendentalResult quarter => Sys2Proof.Machine.execTranscendentalResult quarter s
  | .sleepDeadline wave => Sys2Proof.Machine.execSleepDeadline wave s
  | .barrierWaitComplete wave => Sys2Proof.Machine.execBarrierWaitComplete wave s
  | .streamPrefetch wave port => Sys2Proof.Machine.execStreamPrefetch wave port s
  | .queueFetch wave queue => Sys2Proof.Machine.execQueueFetch wave queue s
  | .storeQueueDrain wave queue => Sys2Proof.Machine.execStoreQueueDrain wave queue s
  | .spindleCommandStart core => Sys2Proof.Machine.execSpindleCommandStart core s
  | .matrixOperationStart unit => Sys2Proof.Machine.execMatrixOperationStart unit s
  | .matrixOperationComplete quarter => Sys2Proof.Machine.execMatrixOperationComplete quarter s
  | .whorlPartial wave id whorl => Sys2Proof.Machine.execWhorlPartial wave id whorl s
  | .partialMerge wave id => Sys2Proof.Machine.execPartialMerge wave id s
  | .carderRound floor => Sys2Proof.Machine.execCarderRound floor s
  | .carderRecordRead floor => Sys2Proof.Machine.execCarderRecordRead floor s
  | .distaffRead wave => Sys2Proof.Machine.execDistaffRead wave s
  | .hostSnoop line payload => Sys2Proof.Machine.execHostSnoop line payload s
  | .cxlMemRead addr n => Sys2Proof.Machine.execCxlMemRead addr n s
  | .cxlMemWrite addr payload => Sys2Proof.Machine.execCxlMemWrite addr payload s
  | .hostCompletion wave status => Sys2Proof.Machine.execHostCompletion wave status s
  | .peerAcknowledgement wave status => Sys2Proof.Machine.execPeerAcknowledgement wave status s
  | .peerRequest tag va kind fn n payload cmp => Sys2Proof.Machine.execPeerRequest tag va kind fn n payload cmp s
  | .priResponse tag index ok => Sys2Proof.Machine.execPriResponse tag index ok s
  | .priTimeout tag index => Sys2Proof.Machine.execPriTimeout tag index s
  | .pageWalk cache tag va access => Sys2Proof.Machine.execPageWalk cache tag va access s
  | .tlbinvComplete wave => Sys2Proof.Machine.execTlbinvComplete wave s
  | .fresRetry tag index => Sys2Proof.Machine.execFresRetry tag index s
  | .fresDeny tag index => Sys2Proof.Machine.execFresDeny tag index s
  | .pageMove tag va tier frame => Sys2Proof.Machine.execPageMove tag va tier frame s
  | .eventRingDenyTimeout tag index => Sys2Proof.Machine.execEventRingDenyTimeout tag index s
  | .lqtail tag level value => Sys2Proof.Machine.execLqtail tag level value s
  | .launchFetch tag level => Sys2Proof.Machine.execLaunchFetch tag level s
  | .teamPlacement => Sys2Proof.Machine.execTeamPlacement s
  | .levelRaise launch => Sys2Proof.Machine.execLevelRaise launch s
  | .reserve launch => Sys2Proof.Machine.execReserve launch s
  | .grdarm tag slot => Sys2Proof.Machine.execGrdarm tag slot s
  | .grdsetDoorbell tag slot value => Sys2Proof.Machine.execGrdsetDoorbell tag slot value s
  | .admtail tag value => Sys2Proof.Machine.execAdmtail tag value s
  | .cplhead tag value => Sys2Proof.Machine.execCplhead tag value s
  | .cancel tag seq => Sys2Proof.Machine.execCancel tag seq s
  | .distaffStep tag => Sys2Proof.Machine.execDistaffStep tag s
  | .stepCommit tag => Sys2Proof.Machine.execStepCommit tag s
  | .sequenceRetirement slot => Sys2Proof.Machine.execSequenceRetirement slot s
  | .poisonReport addr tag => Sys2Proof.Machine.execPoisonReport addr tag s
  | .terminatingCause launch => Sys2Proof.Machine.execTerminatingCause launch s
  | .frameRetire tier frame reason => Sys2Proof.Machine.execFrameRetire tier frame reason s
  | .preemptionRequest team => Sys2Proof.Machine.execPreemptionRequest team s
  | .teamSave team => Sys2Proof.Machine.execTeamSave team s
  | .saveSeal team => Sys2Proof.Machine.execSaveSeal team s
  | .teamRestore team core => Sys2Proof.Machine.execTeamRestore team core s
  | .pairComparison waveA waveB => Sys2Proof.Machine.execPairComparison waveA waveB s
  | .islandControlLoop cls index droopMHz shareMHz => Sys2Proof.Machine.execIslandControlLoop cls index droopMHz shareMHz s
  | .modulePowerLoop avgWatts => Sys2Proof.Machine.execModulePowerLoop avgWatts s
  | .fastClamp watts => Sys2Proof.Machine.execFastClamp watts s
  | .thermalLimit cls index => Sys2Proof.Machine.execThermalLimit cls index s
  | .thermalTrip => Sys2Proof.Machine.execThermalTrip s
  | .retentionWindowLoop whorl group temp => Sys2Proof.Machine.execRetentionWindowLoop whorl group temp s
  | .rowGroupRefresh whorl group found => Sys2Proof.Machine.execRowGroupRefresh whorl group found s
  | .perstDeassertion => Sys2Proof.Machine.execPerstDeassertion s
  | .stageAdvance error => Sys2Proof.Machine.execStageAdvance error s
  | .functionLevelReset => Sys2Proof.Machine.execFunctionLevelReset s
  | .stageDroppedClear => Sys2Proof.Machine.execStageDroppedClear s
  | .identify => Sys2Proof.Machine.execIdentify s
  | .fwload => Sys2Proof.Machine.execFwload s
  | .rollfwd => Sys2Proof.Machine.execRollfwd s
  | .evring => Sys2Proof.Machine.execEvring s
  | .ctxwrite => Sys2Proof.Machine.execCtxwrite s
  | .partset => Sys2Proof.Machine.execPartset s
  | .wstat => Sys2Proof.Machine.execWstat s
  | .retlist => Sys2Proof.Machine.execRetlist s
  | .islcap => Sys2Proof.Machine.execIslcap s
  | .skroute => Sys2Proof.Machine.execSkroute s
  | .reset => Sys2Proof.Machine.execReset s
  | .skeinPortDown port => Sys2Proof.Machine.execSkeinPortDown port s
  | .skeinPortUp port => Sys2Proof.Machine.execSkeinPortUp port s
  | .skeinPeerTimeout node => Sys2Proof.Machine.execSkeinPeerTimeout node s
  | .cxlPortDown port => Sys2Proof.Machine.execCxlPortDown port s
  | .cxlPortUp port => Sys2Proof.Machine.execCxlPortUp port s
  | .spdmRequest block => Sys2Proof.Machine.execSpdmRequest block s
  | .registerWrite offset value => Sys2Proof.Machine.execRegisterWrite offset value s
  | .illegalInstruction word => Sys2Proof.Machine.execIllegalInstruction word s
  | .cxlCacheOwnershipGrant line => Sys2Proof.Machine.execCxlCacheOwnershipGrant line s
  | .backInvalidateResponse line => Sys2Proof.Machine.execBackInvalidateResponse line s
  | .atsTranslationCompletion pasid va granted frame => Sys2Proof.Machine.execAtsTranslationCompletion pasid va granted frame s
  | .sadd d a b ea eb => Sys2Proof.Machine.execSadd d a b ea eb s
  | .ssub d a b ea eb => Sys2Proof.Machine.execSsub d a b ea eb s
  | .smul d a b ea eb => Sys2Proof.Machine.execSmul d a b ea eb s
  | .smulh d a b ea eb => Sys2Proof.Machine.execSmulh d a b ea eb s
  | .smulhu d a b ea eb => Sys2Proof.Machine.execSmulhu d a b ea eb s
  | .sand d a b ea eb => Sys2Proof.Machine.execSand d a b ea eb s
  | .sor d a b ea eb => Sys2Proof.Machine.execSor d a b ea eb s
  | .sxor d a b ea eb => Sys2Proof.Machine.execSxor d a b ea eb s
  | .sshl d a b ea eb => Sys2Proof.Machine.execSshl d a b ea eb s
  | .sshr d a b ea eb => Sys2Proof.Machine.execSshr d a b ea eb s
  | .ssra d a b ea eb => Sys2Proof.Machine.execSsra d a b ea eb s
  | .smin d a b ea eb => Sys2Proof.Machine.execSmin d a b ea eb s
  | .smax d a b ea eb => Sys2Proof.Machine.execSmax d a b ea eb s
  | .sminu d a b ea eb => Sys2Proof.Machine.execSminu d a b ea eb s
  | .smaxu d a b ea eb => Sys2Proof.Machine.execSmaxu d a b ea eb s
  | .sandn d a b ea eb => Sys2Proof.Machine.execSandn d a b ea eb s
  | .sceq d a b ea eb => Sys2Proof.Machine.execSceq d a b ea eb s
  | .scne d a b ea eb => Sys2Proof.Machine.execScne d a b ea eb s
  | .sclt d a b ea eb => Sys2Proof.Machine.execSclt d a b ea eb s
  | .scle d a b ea eb => Sys2Proof.Machine.execScle d a b ea eb s
  | .scltu d a b ea eb => Sys2Proof.Machine.execScltu d a b ea eb s
  | .scleu d a b ea eb => Sys2Proof.Machine.execScleu d a b ea eb s
  | .ssel d a b ea eb => Sys2Proof.Machine.execSsel d a b ea eb s
  | .scbit d a b ea eb => Sys2Proof.Machine.execScbit d a b ea eb s
  | .saddi d a imm ea => Sys2Proof.Machine.execSaddi d a imm ea s
  | .sandi d a imm ea => Sys2Proof.Machine.execSandi d a imm ea s
  | .sori d a imm ea => Sys2Proof.Machine.execSori d a imm ea s
  | .sxori d a imm ea => Sys2Proof.Machine.execSxori d a imm ea s
  | .sshli d a imm ea => Sys2Proof.Machine.execSshli d a imm ea s
  | .sshri d a imm ea => Sys2Proof.Machine.execSshri d a imm ea s
  | .ssrai d a imm ea => Sys2Proof.Machine.execSsrai d a imm ea s
  | .sclti d a imm ea => Sys2Proof.Machine.execSclti d a imm ea s
  | .smovi d imm => Sys2Proof.Machine.execSmovi d imm s
  | .sinsh d k imm => Sys2Proof.Machine.execSinsh d k imm s
  | .sgetx d => Sys2Proof.Machine.execSgetx d s
  | .ssetx a ea => Sys2Proof.Machine.execSsetx a ea s
  | .sandx d a ea => Sys2Proof.Machine.execSandx d a ea s
  | .sandnx d a ea => Sys2Proof.Machine.execSandnx d a ea s
  | .sorx d a ea => Sys2Proof.Machine.execSorx d a ea s
  | .spopc d a ea => Sys2Proof.Machine.execSpopc d a ea s
  | .sffs d a ea => Sys2Proof.Machine.execSffs d a ea s
  | .sfullx d => Sys2Proof.Machine.execSfullx d s
  | .sclz d a ea => Sys2Proof.Machine.execSclz d a ea s
  | .sctz d a ea => Sys2Proof.Machine.execSctz d a ea s
  | .sbrev d a ea => Sys2Proof.Machine.execSbrev d a ea s
  | .sbswap d a ea => Sys2Proof.Machine.execSbswap d a ea s
  | .sextb d a ea => Sys2Proof.Machine.execSextb d a ea s
  | .sexth d a ea => Sys2Proof.Machine.execSexth d a ea s
  | .sextw d a ea => Sys2Proof.Machine.execSextw d a ea s
  | .szextw d a ea => Sys2Proof.Machine.execSzextw d a ea s
  | .br off => Sys2Proof.Machine.execBr off s
  | .brxz off => Sys2Proof.Machine.execBrxz off s
  | .brxnz off => Sys2Proof.Machine.execBrxnz off s
  | .brxall off => Sys2Proof.Machine.execBrxall off s
  | .call off => Sys2Proof.Machine.execCall off s
  | .brz a ea off => Sys2Proof.Machine.execBrz a ea off s
  | .brnz a ea off => Sys2Proof.Machine.execBrnz a ea off s
  | .brneg a ea off => Sys2Proof.Machine.execBrneg a ea off s
  | .brpos a ea off => Sys2Proof.Machine.execBrpos a ea off s
  | .jmpr a ea => Sys2Proof.Machine.execJmpr a ea s
  | .callr a ea => Sys2Proof.Machine.execCallr a ea s
  | .ret => Sys2Proof.Machine.execRet s
  | .smfr rs spr => Sys2Proof.Machine.execSmfr rs spr s
  | .smtr rs spr ea => Sys2Proof.Machine.execSmtr rs spr ea s
  | .nop => Sys2Proof.Machine.execNop s
  | .yield => Sys2Proof.Machine.execYield s
  | .halt => Sys2Proof.Machine.execHalt s
  | .trap imm => Sys2Proof.Machine.execTrap imm s
  | .tret => Sys2Proof.Machine.execTret s
  | .specbar => Sys2Proof.Machine.execSpecbar s
  | .sleep a ea => Sys2Proof.Machine.execSleep a ea s
  | .bkpt => Sys2Proof.Machine.execBkpt s
  | .waitc path r ea => Sys2Proof.Machine.execWaitc path r ea s
  | .waitr r => Sys2Proof.Machine.execWaitr r s
  | .waits r => Sys2Proof.Machine.execWaits r s
  | .bara rs id cnt core ea => Sys2Proof.Machine.execBara rs id cnt core ea s
  | .barw id tok core ea => Sys2Proof.Machine.execBarw id tok core ea s
  | .baraw rs id cnt core ea => Sys2Proof.Machine.execBaraw rs id cnt core ea s
  | .bari id cnt core ea => Sys2Proof.Machine.execBari id cnt core ea s
  | .pblk rs n pattern ea => Sys2Proof.Machine.execPblk rs n pattern ea s
  | .sldb d o h byp ea => Sys2Proof.Machine.execSldb d o h byp ea s
  | .sldh d o h byp ea => Sys2Proof.Machine.execSldh d o h byp ea s
  | .sldw d o h byp ea => Sys2Proof.Machine.execSldw d o h byp ea s
  | .sldd d o h byp ea => Sys2Proof.Machine.execSldd d o h byp ea s
  | .sldbs d o h byp ea => Sys2Proof.Machine.execSldbs d o h byp ea s
  | .sldhs d o h byp ea => Sys2Proof.Machine.execSldhs d o h byp ea s
  | .sldws d o h byp ea => Sys2Proof.Machine.execSldws d o h byp ea s
  | .sstb d o h byp ed ea => Sys2Proof.Machine.execSstb d o h byp ed ea s
  | .ssth d o h byp ed ea => Sys2Proof.Machine.execSsth d o h byp ed ea s
  | .sstw d o h byp ed ea => Sys2Proof.Machine.execSstw d o h byp ed ea s
  | .sstd d o h byp ed ea => Sys2Proof.Machine.execSstd d o h byp ed ea s
  | .vadd d a b ea eb => Sys2Proof.Machine.execVadd d a b ea eb s
  | .vsub d a b ea eb => Sys2Proof.Machine.execVsub d a b ea eb s
  | .vmullo d a b ea eb => Sys2Proof.Machine.execVmullo d a b ea eb s
  | .vmulhi d a b ea eb => Sys2Proof.Machine.execVmulhi d a b ea eb s
  | .vmulhu d a b ea eb => Sys2Proof.Machine.execVmulhu d a b ea eb s
  | .vmin d a b ea eb => Sys2Proof.Machine.execVmin d a b ea eb s
  | .vmax d a b ea eb => Sys2Proof.Machine.execVmax d a b ea eb s
  | .vminu d a b ea eb => Sys2Proof.Machine.execVminu d a b ea eb s
  | .vand d a b ea eb => Sys2Proof.Machine.execVand d a b ea eb s
  | .vor d a b ea eb => Sys2Proof.Machine.execVor d a b ea eb s
  | .vxor d a b ea eb => Sys2Proof.Machine.execVxor d a b ea eb s
  | .vandn d a b ea eb => Sys2Proof.Machine.execVandn d a b ea eb s
  | .vshl d a b ea eb => Sys2Proof.Machine.execVshl d a b ea eb s
  | .vshr d a b ea eb => Sys2Proof.Machine.execVshr d a b ea eb s
  | .vsra d a b ea eb => Sys2Proof.Machine.execVsra d a b ea eb s
  | .vmaxu d a b ea eb => Sys2Proof.Machine.execVmaxu d a b ea eb s
  | .vadds d a b ea eb => Sys2Proof.Machine.execVadds d a b ea eb s
  | .vsubs d a b ea eb => Sys2Proof.Machine.execVsubs d a b ea eb s
  | .vmuls d a b ea eb => Sys2Proof.Machine.execVmuls d a b ea eb s
  | .vands d a b ea eb => Sys2Proof.Machine.execVands d a b ea eb s
  | .vors d a b ea eb => Sys2Proof.Machine.execVors d a b ea eb s
  | .vxors d a b ea eb => Sys2Proof.Machine.execVxors d a b ea eb s
  | .vshls d a b ea eb => Sys2Proof.Machine.execVshls d a b ea eb s
  | .vshrs d a b ea eb => Sys2Proof.Machine.execVshrs d a b ea eb s
  | .vaddi d a imm ea => Sys2Proof.Machine.execVaddi d a imm ea s
  | .vandi d a imm ea => Sys2Proof.Machine.execVandi d a imm ea s
  | .vori d a imm ea => Sys2Proof.Machine.execVori d a imm ea s
  | .vxori d a imm ea => Sys2Proof.Machine.execVxori d a imm ea s
  | .vshli d a imm ea => Sys2Proof.Machine.execVshli d a imm ea s
  | .vshri d a imm ea => Sys2Proof.Machine.execVshri d a imm ea s
  | .vsrai d a imm ea => Sys2Proof.Machine.execVsrai d a imm ea s
  | .vmuli d a imm ea => Sys2Proof.Machine.execVmuli d a imm ea s
  | .vceq d a b ea eb => Sys2Proof.Machine.execVceq d a b ea eb s
  | .vcne d a b ea eb => Sys2Proof.Machine.execVcne d a b ea eb s
  | .vclt d a b ea eb => Sys2Proof.Machine.execVclt d a b ea eb s
  | .vcle d a b ea eb => Sys2Proof.Machine.execVcle d a b ea eb s
  | .vcgt d a b ea eb => Sys2Proof.Machine.execVcgt d a b ea eb s
  | .vcge d a b ea eb => Sys2Proof.Machine.execVcge d a b ea eb s
  | .vcltu d a b ea eb => Sys2Proof.Machine.execVcltu d a b ea eb s
  | .vcleu d a b ea eb => Sys2Proof.Machine.execVcleu d a b ea eb s
  | .vmov d a ea => Sys2Proof.Machine.execVmov d a ea s
  | .vmovs d b eb => Sys2Proof.Machine.execVmovs d b eb s
  | .vtid d => Sys2Proof.Machine.execVtid d s
  | .vclz d a ea => Sys2Proof.Machine.execVclz d a ea s
  | .vpopc d a ea => Sys2Proof.Machine.execVpopc d a ea s
  | .vbrev d a ea => Sys2Proof.Machine.execVbrev d a ea s
  | .vwrx a b ea eb => Sys2Proof.Machine.execVwrx a b ea eb s
  | .vrdx d b ea eb => Sys2Proof.Machine.execVrdx d b ea eb s
  | .vfadd d a b ea eb => Sys2Proof.Machine.execVfadd d a b ea eb s
  | .vfsub d a b ea eb => Sys2Proof.Machine.execVfsub d a b ea eb s
  | .vfmul d a b ea eb => Sys2Proof.Machine.execVfmul d a b ea eb s
  | .vfmin d a b ea eb => Sys2Proof.Machine.execVfmin d a b ea eb s
  | .vfmax d a b ea eb => Sys2Proof.Machine.execVfmax d a b ea eb s
  | .vfmac d a b ea eb => Sys2Proof.Machine.execVfmac d a b ea eb s
  | .vfmsc d a b ea eb => Sys2Proof.Machine.execVfmsc d a b ea eb s
  | .vfnmac d a b ea eb => Sys2Proof.Machine.execVfnmac d a b ea eb s
  | .vfadds d a b ea eb => Sys2Proof.Machine.execVfadds d a b ea eb s
  | .vfsubs d a b ea eb => Sys2Proof.Machine.execVfsubs d a b ea eb s
  | .vfmuls d a b ea eb => Sys2Proof.Machine.execVfmuls d a b ea eb s
  | .vfmacs d a b ea eb => Sys2Proof.Machine.execVfmacs d a b ea eb s
  | .vfmins d a b ea eb => Sys2Proof.Machine.execVfmins d a b ea eb s
  | .vfmaxs d a b ea eb => Sys2Proof.Machine.execVfmaxs d a b ea eb s
  | .vfceq d a b ea eb => Sys2Proof.Machine.execVfceq d a b ea eb s
  | .vfcne d a b ea eb => Sys2Proof.Machine.execVfcne d a b ea eb s
  | .vfclt d a b ea eb => Sys2Proof.Machine.execVfclt d a b ea eb s
  | .vfcle d a b ea eb => Sys2Proof.Machine.execVfcle d a b ea eb s
  | .vfcun d a b ea eb => Sys2Proof.Machine.execVfcun d a b ea eb s
  | .vfslt d a b ea eb => Sys2Proof.Machine.execVfslt d a b ea eb s
  | .vfsle d a b ea eb => Sys2Proof.Machine.execVfsle d a b ea eb s
  | .vhadd d a b ea eb => Sys2Proof.Machine.execVhadd d a b ea eb s
  | .vhmul d a b ea eb => Sys2Proof.Machine.execVhmul d a b ea eb s
  | .vhmac d a b ea eb => Sys2Proof.Machine.execVhmac d a b ea eb s
  | .vbadd d a b ea eb => Sys2Proof.Machine.execVbadd d a b ea eb s
  | .vbmul d a b ea eb => Sys2Proof.Machine.execVbmul d a b ea eb s
  | .vbmac d a b ea eb => Sys2Proof.Machine.execVbmac d a b ea eb s
  | .vhdot d a b ea eb => Sys2Proof.Machine.execVhdot d a b ea eb s
  | .vbdot d a b ea eb => Sys2Proof.Machine.execVbdot d a b ea eb s
  | .vrcp d a ea => Sys2Proof.Machine.execVrcp d a ea s
  | .vrsq d a ea => Sys2Proof.Machine.execVrsq d a ea s
  | .vsqrt d a ea => Sys2Proof.Machine.execVsqrt d a ea s
  | .vexp2 d a ea => Sys2Proof.Machine.execVexp2 d a ea s
  | .vlog2 d a ea => Sys2Proof.Machine.execVlog2 d a ea s
  | .vsin d a ea => Sys2Proof.Machine.execVsin d a ea s
  | .vcos d a ea => Sys2Proof.Machine.execVcos d a ea s
  | .vtanh d a ea => Sys2Proof.Machine.execVtanh d a ea s
  | .vcf16 d a rnd sel ea => Sys2Proof.Machine.execVcf16 d a rnd sel ea s
  | .vcf32h d a sel ea => Sys2Proof.Machine.execVcf32h d a sel ea s
  | .vcbf d a rnd sel ea => Sys2Proof.Machine.execVcbf d a rnd sel ea s
  | .vcf32b d a sel ea => Sys2Proof.Machine.execVcf32b d a sel ea s
  | .vci32 d a rnd ea => Sys2Proof.Machine.execVci32 d a rnd ea s
  | .vcf32i d a rnd ea => Sys2Proof.Machine.execVcf32i d a rnd ea s
  | .vcn32 d a rnd ea => Sys2Proof.Machine.execVcn32 d a rnd ea s
  | .vcf32n d a rnd ea => Sys2Proof.Machine.execVcf32n d a rnd ea s
  | .vcnar d a slot rnd sel ea => Sys2Proof.Machine.execVcnar d a slot rnd sel ea s
  | .vcwid d a slot sel ea => Sys2Proof.Machine.execVcwid d a slot sel ea s
  | .vct6 d a slot rnd sel ea => Sys2Proof.Machine.execVct6 d a slot rnd sel ea s
  | .vcf32t6 d a sel ea => Sys2Proof.Machine.execVcf32t6 d a sel ea s
  | .vpk6 d a sel ea => Sys2Proof.Machine.execVpk6 d a sel ea s
  | .vunpk6 d a sel ea => Sys2Proof.Machine.execVunpk6 d a sel ea s
  | .vshuf d a b ea eb => Sys2Proof.Machine.execVshuf d a b ea eb s
  | .vshfx d a imm ea => Sys2Proof.Machine.execVshfx d a imm ea s
  | .vrots d a b ea eb => Sys2Proof.Machine.execVrots d a b ea eb s
  | .vbcst d a ea => Sys2Proof.Machine.execVbcst d a ea s
  | .vreda d a ea => Sys2Proof.Machine.execVreda d a ea s
  | .vredf d a ea => Sys2Proof.Machine.execVredf d a ea s
  | .vscan d a ea => Sys2Proof.Machine.execVscan d a ea s
  | .vcmpk d a ea => Sys2Proof.Machine.execVcmpk d a ea s
  | .vldb d o h byp ea => Sys2Proof.Machine.execVldb d o h byp ea s
  | .vldh d o h byp ea => Sys2Proof.Machine.execVldh d o h byp ea s
  | .vldw d o h byp ea => Sys2Proof.Machine.execVldw d o h byp ea s
  | .vldd d o h byp ea => Sys2Proof.Machine.execVldd d o h byp ea s
  | .vldq d o h byp ea => Sys2Proof.Machine.execVldq d o h byp ea s
  | .vldbs d o h byp ea => Sys2Proof.Machine.execVldbs d o h byp ea s
  | .vldhs d o h byp ea => Sys2Proof.Machine.execVldhs d o h byp ea s
  | .vldl d o h byp ea => Sys2Proof.Machine.execVldl d o h byp ea s
  | .vstb d o h byp ed ea => Sys2Proof.Machine.execVstb d o h byp ed ea s
  | .vsth d o h byp ed ea => Sys2Proof.Machine.execVsth d o h byp ed ea s
  | .vstw d o h byp ed ea => Sys2Proof.Machine.execVstw d o h byp ed ea s
  | .vstd d o h byp ed ea => Sys2Proof.Machine.execVstd d o h byp ed ea s
  | .vstq d o h byp ed ea => Sys2Proof.Machine.execVstq d o h byp ed ea s
  | .vstl d o h byp ed ea => Sys2Proof.Machine.execVstl d o h byp ed ea s
  | .stbind d h byp ed => Sys2Proof.Machine.execStbind d h byp ed s
  | .stpos d ed => Sys2Proof.Machine.execStpos d ed s
  | .stset d ed => Sys2Proof.Machine.execStset d ed s
  | .qbind d h byp ed => Sys2Proof.Machine.execQbind d h byp ed s
  | .qdrain d ed => Sys2Proof.Machine.execQdrain d ed s
  | .stend d ed => Sys2Proof.Machine.execStend d ed s
  | .wdist d o h ea => Sys2Proof.Machine.execWdist d o h ea s
  | .wpin d o h ed ea => Sys2Proof.Machine.execWpin d o h ed ea s
  | .wunpin d o h ea => Sys2Proof.Machine.execWunpin d o h ea s
  | .wpull d o h ea => Sys2Proof.Machine.execWpull d o h ea s
  | .whome d o h ea => Sys2Proof.Machine.execWhome d o h ea s
  | .aadd d o h byp ea opnd width scalar eo => Sys2Proof.Machine.execAadd d o h byp ea opnd width scalar eo s
  | .amin d o h byp ea opnd width scalar eo => Sys2Proof.Machine.execAmin d o h byp ea opnd width scalar eo s
  | .amax d o h byp ea opnd width scalar eo => Sys2Proof.Machine.execAmax d o h byp ea opnd width scalar eo s
  | .aminu d o h byp ea opnd width scalar eo => Sys2Proof.Machine.execAminu d o h byp ea opnd width scalar eo s
  | .amaxu d o h byp ea opnd width scalar eo => Sys2Proof.Machine.execAmaxu d o h byp ea opnd width scalar eo s
  | .aand d o h byp ea opnd width scalar eo => Sys2Proof.Machine.execAand d o h byp ea opnd width scalar eo s
  | .aor d o h byp ea opnd width scalar eo => Sys2Proof.Machine.execAor d o h byp ea opnd width scalar eo s
  | .axor d o h byp ea opnd width scalar eo => Sys2Proof.Machine.execAxor d o h byp ea opnd width scalar eo s
  | .axchg d o h byp ea opnd width scalar eo => Sys2Proof.Machine.execAxchg d o h byp ea opnd width scalar eo s
  | .acas d o h byp ea opnd cmp width scalar eo ec => Sys2Proof.Machine.execAcas d o h byp ea opnd cmp width scalar eo ec s
  | .afadd d o h byp ea opnd width scalar eo => Sys2Proof.Machine.execAfadd d o h byp ea opnd width scalar eo s
  | .radd d o h byp ed ea => Sys2Proof.Machine.execRadd d o h byp ed ea s
  | .rfadd d o h byp ed ea => Sys2Proof.Machine.execRfadd d o h byp ed ea s
  | .rbfadd d o h byp ed ea => Sys2Proof.Machine.execRbfadd d o h byp ed ea s
  | .rmin d o h byp ed ea => Sys2Proof.Machine.execRmin d o h byp ed ea s
  | .rmax d o h byp ed ea => Sys2Proof.Machine.execRmax d o h byp ed ea s
  | .rand d o h byp ed ea => Sys2Proof.Machine.execRand d o h byp ed ea s
  | .ror d o h byp ed ea => Sys2Proof.Machine.execRor d o h byp ed ea s
  | .rxor d o h byp ed ea => Sys2Proof.Machine.execRxor d o h byp ed ea s
  | .tbegin d a ea => Sys2Proof.Machine.execTbegin d a ea s
  | .tend => Sys2Proof.Machine.execTend s
  | .tabort a ea => Sys2Proof.Machine.execTabort a ea s
  | .ttest d => Sys2Proof.Machine.execTtest d s
  | .cpy sd ss sn ed es en gh gchk => Sys2Proof.Machine.execCpy sd ss sn ed es en gh gchk s
  | .cpy2d sd ss sn ed es en gh gchk => Sys2Proof.Machine.execCpy2d sd ss sn ed es en gh gchk s
  | .cpyg sd ss sn ed es en gh gchk iw esz => Sys2Proof.Machine.execCpyg sd ss sn ed es en gh gchk iw esz s
  | .cpys sd ss sn ed es en gh gchk iw esz => Sys2Proof.Machine.execCpys sd ss sn ed es en gh gchk iw esz s
  | .slbmv sd ss ed es => Sys2Proof.Machine.execSlbmv sd ss ed es s
  | .cpyz sd sn ed en gh gchk => Sys2Proof.Machine.execCpyz sd sn ed en gh gchk s
  | .fence => Sys2Proof.Machine.execFence s
  | .fencei => Sys2Proof.Machine.execFencei s
  | .fenceh => Sys2Proof.Machine.execFenceh s
  | .slbxl sd so h ea rh => Sys2Proof.Machine.execSlbxl sd so h ea rh s
  | .slbrd sd h sel => Sys2Proof.Machine.execSlbrd sd h sel s
  | .mma vacc sA sB keep ea eb aslot bslot asb bsb sel soft half obase => Sys2Proof.Machine.execMma vacc sA sB keep ea eb aslot bslot asb bsb sel soft half obase s
  | .mmaz vacc sA sB keep ea eb aslot bslot asb bsb sel soft half obase => Sys2Proof.Machine.execMmaz vacc sA sB keep ea eb aslot bslot asb bsb sel soft half obase s
  | .mmac vacc sB keep eb bslot half => Sys2Proof.Machine.execMmac vacc sB keep eb bslot half s
  | .mmacz vacc sB keep eb bslot half => Sys2Proof.Machine.execMmacz vacc sB keep eb bslot half s
  | .mstz => Sys2Proof.Machine.execMstz s
  | .mstrd d => Sys2Proof.Machine.execMstrd d s
  | .mstwr a ea => Sys2Proof.Machine.execMstwr a ea s
  | .mnorm d => Sys2Proof.Machine.execMnorm d s
  | .watt vq vo sp ea eb nq => Sys2Proof.Machine.execWatt vq vo sp ea eb nq s
  | .wattd vq vo sp ea eb nq sx sq eq => Sys2Proof.Machine.execWattd vq vo sp ea eb nq sx sq eq s
  | .crds d a b ea eb ed => Sys2Proof.Machine.execCrds d a b ea eb ed s
  | .crdr d a b ea eb => Sys2Proof.Machine.execCrdr d a b ea eb s
  | .dmrd d a b ea eb g => Sys2Proof.Machine.execDmrd d a b ea eb g s
  | .dmclr d a b ea eb ed g => Sys2Proof.Machine.execDmclr d a b ea eb ed g s
  | .stepq d a ea => Sys2Proof.Machine.execStepq d a ea s
  | .tokc a b ea eb => Sys2Proof.Machine.execTokc a b ea eb s
  | .seqrd d a b ea eb => Sys2Proof.Machine.execSeqrd d a b ea eb s
  | .tlbinv rs tag kind ea => Sys2Proof.Machine.execTlbinv rs tag kind ea s
  | .grdset rs slot ea => Sys2Proof.Machine.execGrdset rs slot ea s
  | .snapct rs kind ea => Sys2Proof.Machine.execSnapct rs kind ea s
  | .dbgrd rs sel ea => Sys2Proof.Machine.execDbgrd rs sel ea s

end Sys2Proof.Machine
end

