-- ==== Sys2Proof/Machine/Turn.lean ====
section
/-! DEFINITION. One turn of the device: the next thing on its agenda, or one of what may come next; a wave's turn fetches,
decodes and executes its next word. And the placing of one instruction where a wave fetches next. -/

namespace Sys2Proof.Machine

/-- The instruction of two code words, an undefined encoding as the step that traps on it (R152). -/
noncomputable def instructionOf (w0 w1 : W32) : Instr :=
  match decode w0 w1 with
  | .ok i => i
  | .error _ => .illegalInstruction w0

/-- The state after a turn changed, where there is one. -/
def onNext (f : State → State) : Result → Result
  | .next s => .next (f s)
  | r => r

/-- A wave still waits: a barrier, a fault and a comparison of copies end by a step of their own, a wait for registers, counters or the end of
speculation when that has come; any other is looked at again. -/
def Wave.waits (w : Wave) : Bool :=
  match w.hold with
  | .barrier _ _ => true
  | .open4 _ => true
  | .fault _ => true
  | .pair => w.pend.isNone
  | .operand v x => (List.range 128).any (fun r => (v.getLsbD r && w.emptySource r) || (x.getLsbD r && w.emptyScalar r))
  | .filling v x => (List.range 128).any (fun r => (v.getLsbD r && w.unfilled r) || (x.getLsbD r && w.emptyScalar r))
  | .counters paths most => (List.range 8).any (fun i => paths.getLsbD i && decide (most < w.count i))
  | .nonspec => w.speculative
  | _ => false

def Wave.wake (w : Wave) : Wave := if w.waits then w else { w with hold := .none }

/-- The waves but one wake. -/
def wakeOthers (k : Option Nat) (s : State) : State := s.mapWaves (fun j w => if k = some j then w else w.wake)

/-- A cycle has passed, and what waits for a translation, or for a line in use, is looked at again (R285, R341). (DEDUCED, log 29, unsafe.) -/
def endTurn (k : Option Nat) (s : State) : State :=
  let s := { wakeOthers k s with cycle := s.cycle + 1 }
  retryPending (retryStores s)

/-- THE TURN OF THE WAVE IN FOCUS: what stands before its next word, or that word. (DEDUCED, log 14, safe.) -/
noncomputable def issueTurn (s : State) : Result :=
  match prepare s with
  | .done s' => .next (afterIssue s s')
  | .words w0 w1 s' => onNext (afterIssue s') (exec (instructionOf w0 w1) s')

/-- The turn of a wave. -/
noncomputable def waveTurn (k : Nat) (s : State) : Result := onNext (endTurn (some k)) (issueTurn (s.focusOn k))

/-- A wave at a clause boundary looked ahead of: what blocks the first word of its next clause, an empty operand or a port (R36), is found as
the word would find it, and only that is kept. (DEDUCED, log 15, safe.) -/
noncomputable def foresee (s : State) (k : Nat) : State :=
  match issueTurn (s.focusOn k) with
  | .next t =>
    if (t.wave k).seq = (s.wave k).seq && (t.wave k).hold.onOperand then s.setWave k { s.wave k with hold := (t.wave k).hold } else s
  | _ => s

/-- Before a quarter's slots are arbitrated, its ready waves at a boundary are looked ahead of (R36). -/
noncomputable def foreseen (i : Instr) (s : State) : State :=
  match i with
  | .slotArbitration q => ((s.allWaves.filter (fun e => e.2.ready s q && !e.2.a.pos.inClause)).map (·.1)).foldl foresee s
  | _ => s

/-- The turn of a device step. (DEDUCED, log 10, safe.) -/
noncomputable def deviceTurn (i : Instr) (s : State) : Result := onNext (endTurn none) (exec i (foreseen i s))

/-- One of what may come next: a wave by its number in `issuers`, then a device step; a request that was parked is presented again. (DESIGN CHOICE, log 6, 7, safe.) -/
noncomputable def pickTurn (n : Nat) (s : State) : Result :=
  let ks := issuers s
  match ks[n]? with
  | some k => waveTurn k s
  | none =>
    match (deviceChoices s)[n - ks.length]? with
    | some i => deviceTurn i { s with parked := s.parked.erase i }
    | none => .next (endTurn none s)

/-- THE TURN: the agenda first; then, of several, the part's choice; of none, time passes. (DESIGN CHOICE, log 6, 7, 9, safe.) -/
noncomputable def turn (s : State) : Result :=
  match s.agenda with
  | i :: rest => deviceTurn i { s with agenda := rest }
  | [] =>
    let n := (issuers s).length + (deviceChoices s).length
    if n ≤ 1 then pickTurn 0 s else pickTurn (Config.freePick s.free % n) { s with free := s.free + 1 }

/-! ### One instruction placed -/

/-- Where the placed code lies: a page of HBM, mapped at the same address for every access. (DEDUCED, log 8, safe.) -/
def placedCode : W64 := 0x10000
/-- DEDUCED, log 8, safe. -/
def placedLeaf : W64 := 0x1006d
/-- DEDUCED, log 8, safe. -/
def placedPc : W64 := 0x10044

/-- A clause header that admits the placed instruction: one word for a branch, which ends its clause, else as many as there are.
(DEDUCED, log 8, safe.) -/
def placedHeader (w0 : W32) : W32 := (if isBranch w0 then 1#4 else 15#4) ++ 4#3 ++ 0#25

/-- The wave that fetches the placed instruction next: a supervisor launch's only wave, of 16 threads, with every register
declared, at the first word of a clause. (DEDUCED, log 8, safe.) -/
def placedWave (w0 : W32) : Wave :=
  { Wave.vacant with
    a := { Arch.zero with exec := fullMask 16, pos := { CodePos.none with pc := placedPc, inClause := true, header := placedHeader w0 } }
    env := { Env.none with code := placedCode, entry := 0x40, length := 0x1000, sup := true }
    station := .live, width := 16, vregs := 128, sregs := 128 }

/-- An instruction's bits placed where the machine fetches next, everything that could come before it gone: the wave in its
quarter's vector slot, its code in memory, its page in its core's translation cache, and the device in S3.
(DEDUCED, log 8, safe.) -/
def placeInstruction (bits : BitVec 64) (s : State) : State :=
  let w0 := bits.extractLsb' 0 32
  { s with
    w := placedWave w0, waves := [], focus := 0, holders := [(0, 1)], agenda := [], parked := [], moves := []
    mem := writeBytes s.mem placedPc.toNat (bytesOfNat bits.toNat 8)
    poison := [], damage := [], decided := [], teams := [], launches := [], contexts := [], whorls := [], cores := [], tlbinvs := [], walks := [], walkCache := [], carders := [], distaff := [], egress := []
    tlb := [⟨.core 0, 0, false, 1, placedLeaf⟩]
    mgmt := { s.mgmt with stage := 3, accept := 0x7f } }

end Sys2Proof.Machine
end

