-- ==== Sys2Proof/Machine/Step.lean ====
section
/-! DEFINITION. The step function, and the placing of one instruction where it fetches next. -/

namespace Sys2Proof.Machine

/-- One step of the device. -/
noncomputable
def step : State → Host.Outcome State Fault Refusal := turn

/-- The state with an instruction of `nbits` bits stored where the next step fetches: it stands for the load of a program
from outside, which nothing inside the device performs. (DEDUCED, log 8, safe.) -/
noncomputable
def State.withFetchWord (s : State) (nbits w : Nat) : State := placeInstruction (BitVec.ofNat 64 (w % 2 ^ nbits)) s

end Sys2Proof.Machine
end

