-- ==== Sys2Proof/Safety.lean ====
section
/-! DEFINITION. What the claims ask of a state and of a step: the one memory in its canonical form; a step that completes; the
conditions under which a word issues, taken from the rules that give them; and what one state keeps of another. -/

namespace Sys2Proof.Safety

open Sys2Proof.Machine

/-- The memory of a state is in its canonical form. -/
def Canonical (s : State) : Prop := Memory.wf s.mem = true

/-- An instruction completes at a state: its meaning answers a next state. -/
def Completes (i : Instr) (s : State) : Prop := ∃ t, exec i s = .next t

/-- Vector and scalar registers a word names. -/
def vectorRegs (u : Use) : List Nat := u.srcV.map (·.1) ++ u.oldV ++ u.dstV ++ u.groupV
def scalarRegs (u : Use) : List Nat := u.srcS.map (·.1) ++ u.oldS ++ u.dstS ++ u.groupS

/-- THE WORD ISSUES: a word that asks `u` of the wave in focus meets none of the traps and waits that stand before its own
conditions, and the steps of the ports it names lead from `s` to `t`; a word that names no port register has `t = s`. -/
structure Issues (u : Use) (s t : State) : Prop where
  /-- No prefix covers a word that may not be covered; the word is legal in this state (R149, R154). -/
  legal : (s.w.a.pos.residue.left = 0 ∨ u.covered = true) ∧ u.illegal = false ∧ s.w.queueIllegal u = false
  /-- A supervisor word is in a supervisor launch (R180). -/
  privileged : u.supervisor = true → s.w.env.sup = true
  /-- Every register is declared (R32). -/
  declared : (∀ r ∈ vectorRegs u, s.w.badV r = false) ∧ ∀ r ∈ scalarRegs u, s.w.badS r = false
  /-- Every port is bound, and used in its direction (R103, R105). -/
  bound : u.unbound = false ∧ s.w.portUnbound u = false
  /-- No source is empty, and no destination (R148). -/
  sources : (∀ r ∈ u.srcV.map (·.1) ++ u.oldV, s.w.emptySource r = false) ∧
    ∀ r ∈ u.srcS.map (·.1) ++ u.oldS ++ u.dstS, s.w.emptyScalar r = false
  destinations : ∀ r ∈ u.dstV, s.w.a.emptyV.getLsbD r = false
  /-- An irrevocable word is in no transaction on a non-speculative wave (R129, Table 6.4). -/
  revocable : u.irrevocable = true → s.w.speculative = false ∧ s.w.txn = none
  /-- An asynchronous command is in no transaction (Table 6.4). -/
  command : u.async = true → s.w.txn = none
  /-- Cautious and nonspeculative modes hold back a word after a write that has not retired (Table 6.1). -/
  cautious : s.w.mode = 0 ∨ ∀ x ∈ s.w.accesses, x.op.writes = false
  /-- The word's path counter has room (R172). -/
  counter : ∀ p, u.path = some p → s.w.count p < 65535
  /-- The undo log has room (R124, Table 6.4). -/
  log : (s.w.speculative = true → s.w.txn = none → s.w.logUsed < 64 ∧ s.w.logUsed + u.logged ≤ 64) ∧ ∀ x, s.w.txn = some x → x.log < 64 ∧ x.log + u.logged ≤ 64
  /-- A store queue has room (R105). -/
  queue : s.w.ports = 2#2 → ∀ r ∈ u.dstV, s.w.isPort r = true → s.w.storeOcc (r - 124) < 16
  /-- The ports' steps pass their checks (R103). -/
  ports : takePorts (s.w.portSteps u) s = .go t
  /-- A transaction's sets have room (Table 6.4). -/
  capacity : t.w.overCapacity = false
  /-- A copy of a paired launch is not at a comparison, its other copy is not behind, and it does not follow (R318). -/
  copies : s.w.atComparison u = false ∧ awaitsFollower s = false ∧ (s.w.pairOk = 2#2 → u.both = true ∨ (u.irrevocable = false ∧ u.compare = false))

/-- A memory word's own conditions, once it issues (R84, R125, R129, R134, R172, R274, R301): no older write waits for its translation where
the word reads, its threads' places pass every check with the state `t'` that the translations leave, and the access finds room. -/
structure Accesses (m : MemWord) (s t t' : State) (h : Handle) (places : List Place) : Prop where
  threads : m.offs ≠ []
  unit : refusedOf t t.w.core < 64
  known : m.op.writes = true ∨ t.w.writePending = false
  checks : checkAccess t.w (.core t.w.core) m.handle m.kind m.n m.align m.offs t = (t', .ok h places)
  plain : h.remote = true → t'.w.txn = none ∧ s.w.speculative = false ∧ s.w.pairOk ≠ 2#2 ∧ (s.w.pair = none ∨ s.w.pairOk ≠ 0#2)
  guarded : guardHoldsAccess s s.w h m.handle m.op.writes = false
  some : m.elems t' places ≠ []
  counter : t'.w.count (memPath h m.op) < 65535
  capacity : (addAccess (m.access t' h places) t').w.overCapacity = false

/-- What a memory word leaves before it moves past itself: its path counter raised, its access made (a port's store after it), the lines that
it hits near made most recent, and its destinations empty (R42, R123, R148, R319). -/
def accessed (m : MemWord) (t' : State) (h : Handle) (places : List Place) : State :=
  let x := m.access t' h places
  (nearTouched x ((addAccess x (raiseCount (memPath h m.op) t')).onWave Wave.portsLast)).onArch (fun a =>
    (a.emptyVs m.dstV).emptySs m.dstS)

/-- The number ±m × 2^e. -/
def valueOf (neg : Bool) (m : Nat) (e : Int) : ℚ := (if neg then -1 else 1) * (m : ℚ) * (2 : ℚ) ^ e

/-- A whole number is another number rounded in a mode (R56). -/
def RoundsTo (mode : Rounding) (v : ℚ) (r : Int) : Prop :=
  match mode with
  | .rne => |v - r| ≤ 1 / 2 ∧ (|v - r| = 1 / 2 → r % 2 = 0)
  | .rtz => r = if v < 0 then ⌈v⌉ else ⌊v⌋
  | .rdn => r = ⌊v⌋
  | .rup => r = ⌈v⌉

/-- TININESS after rounding (R58): the number, rounded to the format's precision with no bound on its exponent, lies below the least normal. -/
def Tiny (f : Fmt) (mode : Rounding) (v : ℚ) : Prop :=
  ∃ q r : Int, (2 : ℚ) ^ (q + f.p - 1) ≤ |v| ∧ |v| < (2 : ℚ) ^ (q + f.p) ∧ RoundsTo mode (v / 2 ^ q) r ∧
    |(r : ℚ)| * 2 ^ q < (2 : ℚ) ^ (1 - (f.emax : Int))

/-- THE EXACT NUMBER ROUNDED ONCE to a format, with its flags (R56, R58): to a whole number of units in the last place, which is that of the
lowest subnormal or gives the format's full precision. -/
def RoundedOnce (f : Fmt) (mode : Rounding) (v : ℚ) (result : Nat × Flags) : Prop :=
  ∃ q r : Int, f.qmin ≤ q ∧ (q = f.qmin ∨ (2 : ℚ) ^ (q + f.p - 1) ≤ |v|) ∧ |v| < (2 : ℚ) ^ (q + f.p) ∧ RoundsTo mode (v / 2 ^ q) r ∧
    ((2 : ℚ) ^ ((f.emax : Int) + 1) ≤ |(r : ℚ)| * 2 ^ q →
      result = (f.signed (v < 0) (if mode.overflowsUp (v < 0) then f.infBits else f.infBits - 1), Flags.of ||| Flags.nx)) ∧
    (|(r : ℚ)| * 2 ^ q < (2 : ℚ) ^ ((f.emax : Int) + 1) →
      (∃ n m e, f.decode result.1 = .fin n m e ∧ valueOf n m e = r * 2 ^ q ∧ (v ≠ 0 → n = decide (v < 0))) ∧
      ((r : ℚ) * 2 ^ q = v → result.2 = 0) ∧ ((r : ℚ) * 2 ^ q ≠ v → Tiny f mode v → result.2 = Flags.uf ||| Flags.nx) ∧
      ((r : ℚ) * 2 ^ q ≠ v → ¬ Tiny f mode v → result.2 = Flags.nx))

/-- The value of a tapered code that is no NaR (R60). -/
def taperedValue (n c : Nat) : ℚ :=
  match taperedDecode n c with
  | .fin neg m e => valueOf neg m e
  | _ => 0

/-- The tapered code that a number between codes `lo` and `lo` + 1 is rounded to, by the distances to them (R64). -/
def taperedChoice (mode : Rounding) (neg : Bool) (below above : ℚ) (lo : Nat) : Nat :=
  match mode with
  | .rne => if below < above then lo else if above < below then lo + 1 else if lo % 2 = 0 then lo else lo + 1
  | .rtz => lo
  | .rup => if neg then lo else lo + 1
  | .rdn => if neg then lo + 1 else lo

/-- Every byte of memory reads as before. -/
def SameMemory (s t : State) : Prop := ∀ loc, readByte t.mem loc = readByte s.mem loc

/-- Every byte of memory outside some locations reads as before. -/
def SameMemoryBut (locs : List Nat) (s t : State) : Prop := ∀ loc, loc ∉ locs → readByte t.mem loc = readByte s.mem loc

/-- Every vector register but some reads as before in every thread, every scalar register but some, and every one of these keeps
its full/empty bit. -/
def SameRegisters (vs ss : List Nat) (s t : State) : Prop :=
  (∀ r, r ∉ vs → (∀ th < 64, t.vreg r th = s.vreg r th) ∧ t.w.a.emptyV.getLsbD r = s.w.a.emptyV.getLsbD r) ∧
    ∀ r, r ∉ ss → t.sreg r = s.sreg r ∧ t.w.a.emptyS.getLsbD r = s.w.a.emptyS.getLsbD r

/-- The five flag masks are as before. -/
def SameFlags (s t : State) : Prop :=
  t.w.a.flNv = s.w.a.flNv ∧ t.w.a.flDz = s.w.a.flDz ∧ t.w.a.flOf = s.w.a.flOf ∧ t.w.a.flUf = s.w.a.flUf ∧ t.w.a.flNx = s.w.a.flNx

/-- Special registers a word may write (R160) and the ports are as before: exec, fte, rmode, gang, mprog, the trap registers, and
the state of transactions and speculation. -/
def SameSpecials (s t : State) : Prop :=
  t.w.a.exec = s.w.a.exec ∧ t.w.a.streams = s.w.a.streams ∧ t.w.a.queues = s.w.a.queues ∧ t.w.fte = s.w.fte ∧ t.w.rmode = s.w.rmode ∧ t.w.gang = s.w.gang ∧ t.w.mprog = s.w.mprog ∧
    t.w.trcause = s.w.trcause ∧ t.w.trpc = s.w.trpc ∧ t.w.trmask = s.w.trmask ∧ t.w.trinst = s.w.trinst ∧
    t.w.trexec = s.w.trexec ∧ t.w.txUser = s.w.txUser ∧ t.w.txCode = s.w.txCode ∧ t.w.txAborts = s.w.txAborts ∧
    t.w.total = s.w.total ∧ t.w.consec = s.w.consec ∧ t.w.mode = s.w.mode

/-- The matrix accumulators' pending values but for some registers, the row state and chain buffers, and the queues of matrix and
attention operations. A word that writes an operand of an operation before the wave waits spoils what the unit reads of it (R148). -/
def SameMatrix (vs : List Nat) (s t : State) : Prop :=
  (∀ k, k / 64 ∉ vs → find t.w.acc k = find s.w.acc k) ∧ t.w.rows = s.w.rows ∧ t.w.matrix = s.w.matrix ∧ t.w.matDone = s.w.matDone ∧ t.w.attn = s.w.attn

/-- What a word of a wave leaves outside cores, Whorls and other waves: teams, launches, contexts, translations, rings and the management
domain. -/
def SameUnits (s t : State) : Prop :=
  t.focus = s.focus ∧ t.teams = s.teams ∧ t.launches = s.launches ∧ t.contexts = s.contexts ∧ t.tlb = s.tlb ∧ t.carders = s.carders ∧
    t.distaff = s.distaff ∧ t.egress = s.egress ∧ t.mgmt = s.mgmt ∧ t.poison = s.poison ∧ t.damage = s.damage ∧ t.decided = s.decided ∧ t.agenda = s.agenda ∧ t.parked = s.parked ∧
    t.walks = s.walks ∧ t.walkCache = s.walkCache ∧ t.moves = s.moves ∧ t.tlbinvs = s.tlbinvs ∧ t.ats = s.ats ∧ t.hostCopy = s.hostCopy

/-- Everything outside the wave that a word of registers alone leaves: that, the other waves, the cores and the Whorls. -/
def SameDevice (s t : State) : Prop := SameUnits s t ∧ t.waves = s.waves ∧ t.whorls = s.whorls ∧ t.cores = s.cores

/-- A vector register keeps its value in every thread that does not act, where no register is undefined until a wait on mx (R148, R181). -/
def KeepsInactive (r : Nat) (s t : State) : Prop :=
  s.w.undefRegs = [] → ∀ th < 64, s.w.acting.getLsbD th = false → t.vreg r th = s.vreg r th

/-- A state with the exec mask of another. -/
def withExecOf (s t : State) : State := { t with w := { t.w with a := { t.w.a with exec := s.w.a.exec } } }

/-- THE FRAME of a word that writes only some registers and, `flags` set, the flags. -/
structure Frame (vs ss : List Nat) (flags : Bool) (s t : State) : Prop where
  registers : SameRegisters vs ss s t
  noFlags : flags = false → SameFlags s t
  specials : SameSpecials s t
  matrix : SameMatrix vs s t
  memory : SameMemory s t
  device : SameDevice s t

/-- THE FRAME of a load or store at its issue: its registers, the core's near cache by its order alone (R319), and the holds of Whorls that a sole
transaction asks for (R136). -/
structure AccessFrame (vs ss : List Nat) (s t : State) : Prop where
  registers : SameRegisters vs ss s t
  flags : SameFlags s t
  specials : SameSpecials s t
  matrix : SameMatrix vs s t
  memory : SameMemory s t
  units : SameUnits s t
  waves : ∀ k, k ≠ s.focus → { t.wave k with holds := [] } = { s.wave k with holds := [] }
  cores : ∀ k, { t.core k with near := [] } = { s.core k with near := [] }
  whorls : ∀ k, { t.whorl k with hold := none } = { s.whorl k with hold := none }

/-- THE FRAME of a transcendental word at its issue: its destination waits, and its core's units have it (R191). -/
structure UnitFrame (vs : List Nat) (s t : State) : Prop where
  registers : SameRegisters vs [] s t
  flags : SameFlags s t
  specials : SameSpecials s t
  matrix : SameMatrix vs s t
  memory : SameMemory s t
  units : SameUnits s t
  waves : t.waves = s.waves
  whorls : t.whorls = s.whorls
  cores : ∀ k, { t.core k with trans := [] } = { s.core k with trans := [] }

end Sys2Proof.Safety
end

