-- ==== Sys2Proof/WellFormed.lean ====
section
/-! DEFINITION. Which instructions are well formed: a field that the encoding cannot restrict by its width alone is in the
range its entry states (Table 7.5, Table 9.6, R149, R180, R221), and the unit a device step names exists (Table 1.1). -/

namespace Sys2Proof

/-- The instructions the device can be given: the words of Table 7.7 with every field in the range its entry states, and the
device steps with unit numbers of Table 1.1. -/
def Instr.wellFormed : Instr → Bool
  | .sadd _ _ _ _ _ => true
  | .ssub _ _ _ _ _ => true
  | .smul _ _ _ _ _ => true
  | .smulh _ _ _ _ _ => true
  | .smulhu _ _ _ _ _ => true
  | .sand _ _ _ _ _ => true
  | .sor _ _ _ _ _ => true
  | .sxor _ _ _ _ _ => true
  | .sshl _ _ _ _ _ => true
  | .sshr _ _ _ _ _ => true
  | .ssra _ _ _ _ _ => true
  | .smin _ _ _ _ _ => true
  | .smax _ _ _ _ _ => true
  | .sminu _ _ _ _ _ => true
  | .smaxu _ _ _ _ _ => true
  | .sandn _ _ _ _ _ => true
  | .sceq _ _ _ _ _ => true
  | .scne _ _ _ _ _ => true
  | .sclt _ _ _ _ _ => true
  | .scle _ _ _ _ _ => true
  | .scltu _ _ _ _ _ => true
  | .scleu _ _ _ _ _ => true
  | .ssel _ _ _ _ _ => true
  | .scbit _ _ _ _ _ => true
  | .saddi _ _ _ _ => true
  | .sandi _ _ _ _ => true
  | .sori _ _ _ _ => true
  | .sxori _ _ _ _ => true
  | .sshli _ _ imm _ => decide (imm.toNat < 64)
  | .sshri _ _ imm _ => decide (imm.toNat < 64)
  | .ssrai _ _ imm _ => decide (imm.toNat < 64)
  | .sclti _ _ _ _ => true
  | .smovi _ _ => true
  | .sinsh _ _ _ => true
  | .sgetx _ => true
  | .ssetx _ _ => true
  | .sandx _ _ _ => true
  | .sandnx _ _ _ => true
  | .sorx _ _ _ => true
  | .spopc _ _ _ => true
  | .sffs _ _ _ => true
  | .sfullx _ => true
  | .sclz _ _ _ => true
  | .sctz _ _ _ => true
  | .sbrev _ _ _ => true
  | .sbswap _ _ _ => true
  | .sextb _ _ _ => true
  | .sexth _ _ _ => true
  | .sextw _ _ _ => true
  | .szextw _ _ _ => true
  | .br _ => true
  | .brxz _ => true
  | .brxnz _ => true
  | .brxall _ => true
  | .call _ => true
  | .brz _ _ _ => true
  | .brnz _ _ _ => true
  | .brneg _ _ _ => true
  | .brpos _ _ _ => true
  | .jmpr _ _ => true
  | .callr _ _ => true
  | .ret => true
  | .smfr _ _ => true
  | .smtr _ _ _ => true
  | .nop => true
  | .yield => true
  | .halt => true
  | .trap _ => true
  | .tret => true
  | .specbar => true
  | .sleep _ _ => true
  | .bkpt => true
  | .waitc _ _ _ => true
  | .waitr _ => true
  | .waits _ => true
  | .bara _ _ _ _ _ => true
  | .barw _ _ _ _ => true
  | .baraw _ _ _ _ _ => true
  | .bari _ _ _ _ => true
  | .pblk _ n pattern _ => decide (pattern >>> (n.toNat + 1) = 0#8)
  | .sldb _ _ _ _ _ => true
  | .sldh _ _ _ _ _ => true
  | .sldw _ _ _ _ _ => true
  | .sldd _ _ _ _ _ => true
  | .sldbs _ _ _ _ _ => true
  | .sldhs _ _ _ _ _ => true
  | .sldws _ _ _ _ _ => true
  | .sstb _ _ _ _ _ _ => true
  | .ssth _ _ _ _ _ _ => true
  | .sstw _ _ _ _ _ _ => true
  | .sstd _ _ _ _ _ _ => true
  | .vadd _ _ _ _ _ => true
  | .vsub _ _ _ _ _ => true
  | .vmullo _ _ _ _ _ => true
  | .vmulhi _ _ _ _ _ => true
  | .vmulhu _ _ _ _ _ => true
  | .vmin _ _ _ _ _ => true
  | .vmax _ _ _ _ _ => true
  | .vminu _ _ _ _ _ => true
  | .vand _ _ _ _ _ => true
  | .vor _ _ _ _ _ => true
  | .vxor _ _ _ _ _ => true
  | .vandn _ _ _ _ _ => true
  | .vshl _ _ _ _ _ => true
  | .vshr _ _ _ _ _ => true
  | .vsra _ _ _ _ _ => true
  | .vmaxu _ _ _ _ _ => true
  | .vadds _ _ _ _ _ => true
  | .vsubs _ _ _ _ _ => true
  | .vmuls _ _ _ _ _ => true
  | .vands _ _ _ _ _ => true
  | .vors _ _ _ _ _ => true
  | .vxors _ _ _ _ _ => true
  | .vshls _ _ _ _ _ => true
  | .vshrs _ _ _ _ _ => true
  | .vaddi _ _ _ _ => true
  | .vandi _ _ _ _ => true
  | .vori _ _ _ _ => true
  | .vxori _ _ _ _ => true
  | .vshli _ _ imm _ => decide (imm.toNat < 32)
  | .vshri _ _ imm _ => decide (imm.toNat < 32)
  | .vsrai _ _ imm _ => decide (imm.toNat < 32)
  | .vmuli _ _ _ _ => true
  | .vceq _ _ _ _ _ => true
  | .vcne _ _ _ _ _ => true
  | .vclt _ _ _ _ _ => true
  | .vcle _ _ _ _ _ => true
  | .vcgt _ _ _ _ _ => true
  | .vcge _ _ _ _ _ => true
  | .vcltu _ _ _ _ _ => true
  | .vcleu _ _ _ _ _ => true
  | .vmov _ _ _ => true
  | .vmovs _ _ _ => true
  | .vtid _ => true
  | .vclz _ _ _ => true
  | .vpopc _ _ _ => true
  | .vbrev _ _ _ => true
  | .vwrx _ _ _ _ => true
  | .vrdx _ _ _ _ => true
  | .vfadd _ _ _ _ _ => true
  | .vfsub _ _ _ _ _ => true
  | .vfmul _ _ _ _ _ => true
  | .vfmin _ _ _ _ _ => true
  | .vfmax _ _ _ _ _ => true
  | .vfmac _ _ _ _ _ => true
  | .vfmsc _ _ _ _ _ => true
  | .vfnmac _ _ _ _ _ => true
  | .vfadds _ _ _ _ _ => true
  | .vfsubs _ _ _ _ _ => true
  | .vfmuls _ _ _ _ _ => true
  | .vfmacs _ _ _ _ _ => true
  | .vfmins _ _ _ _ _ => true
  | .vfmaxs _ _ _ _ _ => true
  | .vfceq _ _ _ _ _ => true
  | .vfcne _ _ _ _ _ => true
  | .vfclt _ _ _ _ _ => true
  | .vfcle _ _ _ _ _ => true
  | .vfcun _ _ _ _ _ => true
  | .vfslt _ _ _ _ _ => true
  | .vfsle _ _ _ _ _ => true
  | .vhadd _ _ _ _ _ => true
  | .vhmul _ _ _ _ _ => true
  | .vhmac _ _ _ _ _ => true
  | .vbadd _ _ _ _ _ => true
  | .vbmul _ _ _ _ _ => true
  | .vbmac _ _ _ _ _ => true
  | .vhdot _ _ _ _ _ => true
  | .vbdot _ _ _ _ _ => true
  | .vrcp _ _ _ => true
  | .vrsq _ _ _ => true
  | .vsqrt _ _ _ => true
  | .vexp2 _ _ _ => true
  | .vlog2 _ _ _ => true
  | .vsin _ _ _ => true
  | .vcos _ _ _ => true
  | .vtanh _ _ _ => true
  | .vcf16 _ _ _ sel _ => decide (sel.toNat < 2)
  | .vcf32h _ _ sel _ => decide (sel.toNat < 2)
  | .vcbf _ _ _ sel _ => decide (sel.toNat < 2)
  | .vcf32b _ _ sel _ => decide (sel.toNat < 2)
  | .vci32 _ _ _ _ => true
  | .vcf32i _ _ _ _ => true
  | .vcn32 _ _ _ _ => true
  | .vcf32n _ _ _ _ => true
  | .vcnar _ _ _ _ _ _ => true
  | .vcwid _ _ _ _ _ => true
  | .vct6 _ _ _ _ _ _ => true
  | .vcf32t6 _ _ _ _ => true
  | .vpk6 _ _ _ _ => true
  | .vunpk6 _ _ _ _ => true
  | .vshuf _ _ _ _ _ => true
  | .vshfx _ _ _ _ => true
  | .vrots _ _ _ _ _ => true
  | .vbcst _ _ _ => true
  | .vreda _ _ _ => true
  | .vredf _ _ _ => true
  | .vscan _ _ _ => true
  | .vcmpk _ _ _ => true
  | .vldb _ _ _ _ _ => true
  | .vldh _ _ _ _ _ => true
  | .vldw _ _ _ _ _ => true
  | .vldd _ _ _ _ _ => true
  | .vldq _ _ _ _ _ => true
  | .vldbs _ _ _ _ _ => true
  | .vldhs _ _ _ _ _ => true
  | .vldl _ _ _ _ _ => true
  | .vstb _ _ _ _ _ _ => true
  | .vsth _ _ _ _ _ _ => true
  | .vstw _ _ _ _ _ _ => true
  | .vstd _ _ _ _ _ _ => true
  | .vstq _ _ _ _ _ _ => true
  | .vstl _ _ _ _ _ _ => true
  | .stbind _ _ _ _ => true
  | .stpos _ _ => true
  | .stset _ _ => true
  | .qbind _ _ _ _ => true
  | .qdrain _ _ => true
  | .stend _ _ => true
  | .wdist _ _ _ _ => true
  | .wpin _ _ _ _ _ => true
  | .wunpin _ _ _ _ => true
  | .wpull _ _ _ _ => true
  | .whome _ _ _ _ => true
  | .aadd _ _ _ _ _ _ _ _ _ => true
  | .amin _ _ _ _ _ _ _ _ _ => true
  | .amax _ _ _ _ _ _ _ _ _ => true
  | .aminu _ _ _ _ _ _ _ _ _ => true
  | .amaxu _ _ _ _ _ _ _ _ _ => true
  | .aand _ _ _ _ _ _ _ _ _ => true
  | .aor _ _ _ _ _ _ _ _ _ => true
  | .axor _ _ _ _ _ _ _ _ _ => true
  | .axchg _ _ _ _ _ _ _ _ _ => true
  | .acas _ _ _ _ _ _ _ _ _ _ _ => true
  | .afadd _ _ _ _ _ _ _ _ _ => true
  | .radd _ _ _ _ _ _ => true
  | .rfadd _ _ _ _ _ _ => true
  | .rbfadd _ _ _ _ _ _ => true
  | .rmin _ _ _ _ _ _ => true
  | .rmax _ _ _ _ _ _ => true
  | .rand _ _ _ _ _ _ => true
  | .ror _ _ _ _ _ _ => true
  | .rxor _ _ _ _ _ _ => true
  | .tbegin _ _ _ => true
  | .tend => true
  | .tabort _ _ => true
  | .ttest _ => true
  | .cpy _ _ _ _ _ _ _ _ => true
  | .cpy2d _ _ _ _ _ _ _ _ => true
  | .cpyg _ _ _ _ _ _ _ _ _ _ => true
  | .cpys _ _ _ _ _ _ _ _ _ _ => true
  | .slbmv _ _ _ _ => true
  | .cpyz _ _ _ _ _ _ => true
  | .fence => true
  | .fencei => true
  | .fenceh => true
  | .slbxl _ _ _ _ _ => true
  | .slbrd _ _ _ => true
  | .mma _ _ _ _ _ _ _ _ _ _ _ soft half obase => decide (soft = true ∨ (half = false ∧ obase = 0#7))
  | .mmaz _ _ _ _ _ _ _ _ _ _ _ soft half obase => decide (soft = true ∨ (half = false ∧ obase = 0#7))
  | .mmac _ _ _ _ _ _ => true
  | .mmacz _ _ _ _ _ _ => true
  | .mstz => true
  | .mstrd _ => true
  | .mstwr _ _ => true
  | .mnorm _ => true
  | .watt _ _ _ _ _ _ => true
  | .wattd _ _ _ _ _ _ _ _ _ => true
  | .crds _ _ _ _ _ _ => true
  | .crdr _ _ _ _ _ => true
  | .dmrd _ _ _ _ _ _ => true
  | .dmclr _ _ _ _ _ _ _ => true
  | .stepq _ _ _ => true
  | .tokc _ _ _ _ => true
  | .seqrd _ _ _ _ _ => true
  | .tlbinv _ _ kind _ => decide (kind ≠ 3#2)
  | .grdset _ _ _ => true
  | .snapct _ kind _ => decide (kind ≠ 3#2)
  | .dbgrd _ sel _ => decide (sel.toNat < 0x180)
  | .slotArbitration quarter => decide (quarter < 1536)
  | .starvationPromotion _ => true
  | .loadDataReturn _ _ => true
  | .accessRetire _ => true
  | .storeBufferLeave _ => true
  | .invalidationArrival core _ => decide (core < 384)
  | .evictionNotice core _ => decide (core < 384)
  | .noticeCompletion core _ => decide (core < 384)
  | .acknowledgement core _ => decide (core < 384)
  | .frontRequestAccept front => decide (front.1 < 16)
  | .retryTimerExpiry _ _ _ => true
  | .holdTimeout whorl => decide (whorl < 16)
  | .tileLanding whorl => decide (whorl < 16)
  | .fillComplete whorl _ => decide (whorl < 16)
  | .scratchMotionStart whorl => decide (whorl < 16)
  | .portCapLoop whorl => decide (whorl < 16)
  | .transcendentalStart quarter => decide (quarter < 1536)
  | .transcendentalResult quarter => decide (quarter < 1536)
  | .sleepDeadline _ => true
  | .barrierWaitComplete _ => true
  | .streamPrefetch _ port => decide (port < 4)
  | .queueFetch _ queue => decide (queue < 2)
  | .storeQueueDrain _ queue => decide (2 ≤ queue ∧ queue < 4)
  | .spindleCommandStart core => decide (core < 384)
  | .matrixOperationStart unit => decide (unit.1 < 1536)
  | .matrixOperationComplete quarter => decide (quarter < 1536)
  | .whorlPartial _ _ whorl => decide (whorl < 16)
  | .partialMerge _ _ => true
  | .carderRound floor => decide (floor < 4)
  | .carderRecordRead floor => decide (floor < 4)
  | .distaffRead _ => true
  | .hostSnoop _ _ => true
  | .cxlMemRead _ _ => true
  | .cxlMemWrite _ _ => true
  | .hostCompletion _ _ => true
  | .peerAcknowledgement _ _ => true
  | .peerRequest _ _ _ _ n payload _ => decide (n ≤ 128 ∧ payload.1.length ≤ 128)
  | .priResponse _ _ _ => true
  | .priTimeout _ _ => true
  | .pageWalk cache _ _ _ => decide (cache < 20)
  | .tlbinvComplete _ => true
  | .fresRetry _ _ => true
  | .fresDeny _ _ => true
  | .pageMove _ _ _ _ => true
  | .eventRingDenyTimeout _ _ => true
  | .lqtail _ level _ => decide (level < 16)
  | .launchFetch _ level => decide (level < 16)
  | .teamPlacement => true
  | .levelRaise _ => true
  | .reserve _ => true
  | .grdarm _ _ => true
  | .grdsetDoorbell _ _ _ => true
  | .admtail _ _ => true
  | .cplhead _ _ => true
  | .cancel _ _ => true
  | .distaffStep _ => true
  | .stepCommit _ => true
  | .sequenceRetirement _ => true
  | .poisonReport _ _ => true
  | .terminatingCause _ => true
  | .frameRetire _ _ _ => true
  | .preemptionRequest _ => true
  | .teamSave _ => true
  | .saveSeal _ => true
  | .teamRestore _ core => decide (core < 384)
  | .pairComparison waveA waveB => decide (waveA < 18432 ∧ waveB < 18432)
  | .islandControlLoop _ _ _ _ => true
  | .modulePowerLoop _ => true
  | .fastClamp _ => true
  | .thermalLimit _ _ => true
  | .thermalTrip => true
  | .retentionWindowLoop whorl group _ => decide (whorl < 16 ∧ group < 8)
  | .rowGroupRefresh whorl _ _ => decide (whorl < 16)
  | .perstDeassertion => true
  | .stageAdvance _ => true
  | .functionLevelReset => true
  | .stageDroppedClear => true
  | .identify => true
  | .fwload => true
  | .rollfwd => true
  | .evring => true
  | .ctxwrite => true
  | .partset => true
  | .wstat => true
  | .retlist => true
  | .islcap => true
  | .skroute => true
  | .reset => true
  | .skeinPortDown port => decide (port < 16)
  | .skeinPortUp port => decide (port < 16)
  | .skeinPeerTimeout _ => true
  | .cxlPortDown port => decide (port < 4)
  | .cxlPortUp port => decide (port < 4)
  | .spdmRequest _ => true
  | .registerWrite _ _ => true
  | .illegalInstruction _ => true
  | .cxlCacheOwnershipGrant _ => true
  | .backInvalidateResponse _ => true
  | .atsTranslationCompletion _ _ _ _ => true

end Sys2Proof
end

