-- ==== Sys2Proof/Certificates/Slice0/Obligations.lean ====
section
/-! DEFINITION. The statements for the provers. Each says, at every state and with every operand that meets its hypotheses, what
an instruction, a device step or an operation of the model does; the rules it formalises are in its docstring. -/

open Sys2Proof Sys2Proof.Machine Sys2Proof.Safety

/-- The words of majors 0x00 to 0x02 write their value of Table 8.2 to sd (R161, R162). -/
def Obligations.ScalarThreeOperand : Prop :=
  (∀ p ∈ ([(Instr.sadd, fun x y => x + y), (Instr.ssub, fun x y => x - y), (Instr.smul, fun x y => x * y),
      (Instr.smulh, fun x y => BitVec.ofInt 64 (x.toInt * y.toInt / 2 ^ 64)),
      (Instr.smulhu, fun x y => BitVec.ofNat 64 (x.toNat * y.toNat / 2 ^ 64)),
      (Instr.sand, fun x y => x &&& y), (Instr.sor, fun x y => x ||| y), (Instr.sxor, fun x y => x ^^^ y),
      (Instr.sshl, fun x y => x <<< (y.toNat % 64)), (Instr.sshr, fun x y => x >>> (y.toNat % 64)),
      (Instr.ssra, fun x y => x.sshiftRight (y.toNat % 64)),
      (Instr.smin, fun x y => if x.toInt < y.toInt then x else y), (Instr.smax, fun x y => if x.toInt < y.toInt then y else x),
      (Instr.sminu, fun x y => if x.toNat < y.toNat then x else y), (Instr.smaxu, fun x y => if x.toNat < y.toNat then y else x),
      (Instr.sandn, fun x y => x &&& ~~~y),
      (Instr.sceq, fun x y => if x = y then 1 else 0), (Instr.scne, fun x y => if x = y then 0 else 1),
      (Instr.sclt, fun x y => if x.toInt < y.toInt then 1 else 0), (Instr.scle, fun x y => if x.toInt ≤ y.toInt then 1 else 0),
      (Instr.scltu, fun x y => if x.toNat < y.toNat then 1 else 0), (Instr.scleu, fun x y => if x.toNat ≤ y.toNat then 1 else 0),
      (Instr.scbit, fun x y => if x.getLsbD (y.toNat % 64) then 1 else 0)] :
      List ((BitVec 7 → BitVec 7 → BitVec 7 → Bool → Bool → Instr) × (W64 → W64 → W64))),
    ∀ (s : State) (d a b : BitVec 7) (ea eb : Bool), Issues (useS3 d a b ea eb) s s →
      exec (p.1 d a b ea eb) s =
        .next (finish (useS3 d a b ea eb) (s.setS d.toNat (p.2 (s.sreg a.toNat) (s.sreg b.toNat))))) ∧
  ∀ (s : State) (d a b : BitVec 7) (ea eb : Bool), Issues { useS3 d a b ea eb with oldS := [d.toNat] } s s →
    exec (.ssel d a b ea eb) s = .next (finish { useS3 d a b ea eb with oldS := [d.toNat] }
      (s.setS d.toNat (if s.sreg d.toNat = 0 then s.sreg b.toNat else s.sreg a.toNat)))

/-- Immediate forms and the words of one source write their value to sd (R161, R163, R164, R165). -/
def Obligations.ScalarOneOperand : Prop :=
  (∀ p ∈ ([(Instr.saddi, fun x i => x + i.signExtend 64), (Instr.sandi, fun x i => x &&& i.signExtend 64),
      (Instr.sori, fun x i => x ||| i.signExtend 64), (Instr.sxori, fun x i => x ^^^ i.signExtend 64),
      (Instr.sshli, fun x i => x <<< i.toNat), (Instr.sshri, fun x i => x >>> i.toNat),
      (Instr.ssrai, fun x i => x.sshiftRight i.toNat),
      (Instr.sclti, fun x i => if x.toInt < i.toInt then 1 else 0)] :
      List ((BitVec 7 → BitVec 7 → BitVec 8 → Bool → Instr) × (W64 → BitVec 8 → W64))),
    ∀ (s : State) (d a : BitVec 7) (imm : BitVec 8) (ea : Bool), Issues (useS1 d a ea) s s →
      exec (p.1 d a imm ea) s = .next (finish (useS1 d a ea) (s.setS d.toNat (p.2 (s.sreg a.toNat) imm)))) ∧
  (∀ p ∈ ([(Instr.spopc, fun x => BitVec.ofNat 64 (popcount 64 x)),
      (Instr.sffs, fun x => BitVec.ofNat 64 (((List.range 64).find? (fun i => x.getLsbD i)).getD 64)),
      (Instr.sclz, fun x => BitVec.ofNat 64 (((List.range 64).find? (fun i => x.getLsbD (63 - i))).getD 64)),
      (Instr.sctz, fun x => BitVec.ofNat 64 (((List.range 64).find? (fun i => x.getLsbD i)).getD 64)),
      (Instr.sbrev, fun x => x.reverse),
      (Instr.sbswap, fun x => BitVec.ofNat 64 (natOfBytes (bytesOfNat x.toNat 8).reverse)),
      (Instr.sextb, fun x => (x.extractLsb' 0 8).signExtend 64), (Instr.sexth, fun x => (x.extractLsb' 0 16).signExtend 64),
      (Instr.sextw, fun x => (x.extractLsb' 0 32).signExtend 64), (Instr.szextw, fun x => (x.extractLsb' 0 32).setWidth 64)] :
      List ((BitVec 7 → BitVec 7 → Bool → Instr) × (W64 → W64))),
    ∀ (s : State) (d a : BitVec 7) (ea : Bool), Issues (useS1 d a ea) s s →
      exec (p.1 d a ea) s = .next (finish (useS1 d a ea) (s.setS d.toNat (p.2 (s.sreg a.toNat))))) ∧
  (∀ (s : State) (d : BitVec 7) (imm : BitVec 19), Issues { dstS := [d.toNat] } s s →
    exec (.smovi d imm) s = .next (finish { dstS := [d.toNat] } (s.setS d.toNat (imm.signExtend 64)))) ∧
  ∀ (s : State) (d : BitVec 7) (k : BitVec 2) (imm : BitVec 16), Issues { oldS := [d.toNat], dstS := [d.toNat] } s s →
    ∃ x : W64, exec (.sinsh d k imm) s = .next (finish { oldS := [d.toNat], dstS := [d.toNat] } (s.setS d.toNat x)) ∧
      ∀ i : Nat, i < 64 → x.getLsbD i =
        if 16 * k.toNat ≤ i ∧ i < 16 * k.toNat + 16 then imm.getLsbD (i - 16 * k.toNat) else (s.sreg d.toNat).getLsbD i

/-- The words of major 0x06 that read or write exec do what Table 8.3 says (R18, R164). -/
def Obligations.ExecMaskWords : Prop :=
  (∀ (s : State) (d : BitVec 7), Issues { dstS := [d.toNat] } s s →
    exec (.sgetx d) s = .next (finish { dstS := [d.toNat] } (s.setS d.toNat s.w.a.exec)) ∧
    exec (.sfullx d) s = .next (finish { dstS := [d.toNat] } (s.setS d.toNat (BitVec.ofNat 64 (2 ^ s.w.width - 1))))) ∧
  (∀ (s : State) (a : BitVec 7) (ea : Bool), Issues { srcS := [(a.toNat, ea)] } s s →
    exec (.ssetx a ea) s = .next (finish { srcS := [(a.toNat, ea)] } (s.setExec (s.sreg a.toNat)))) ∧
  (∀ p ∈ ([(Instr.sandx, fun x y => x &&& y), (Instr.sandnx, fun x y => x &&& ~~~y), (Instr.sorx, fun x y => x ||| y)] :
      List ((BitVec 7 → BitVec 7 → Bool → Instr) × (W64 → W64 → W64))),
    ∀ (s : State) (d a : BitVec 7) (ea : Bool), Issues (useS1 d a ea) s s →
      exec (p.1 d a ea) s = .next (finish (useS1 d a ea)
        ((s.setS d.toNat s.w.a.exec).setExec (p.2 s.w.a.exec (s.sreg a.toNat))))) ∧
  ∀ (s : State) (x : W64) (i : Nat), s.w.width ≤ 64 →
    (s.setExec x).w.a.exec.getLsbD i = (decide (i < s.w.width) && x.getLsbD i)

/-- Branches and CALL go to their target or to the next clause header (R166). -/
def Obligations.Branches : Prop :=
  (∀ p ∈ ([(Instr.br, fun _ => true), (Instr.brxz, fun s => decide (s.w.a.exec = 0)), (Instr.brxnz, fun s => decide (s.w.a.exec ≠ 0)),
      (Instr.brxall, fun s => decide (s.w.a.exec = BitVec.ofNat 64 (2 ^ s.w.width - 1)))] : List ((BitVec 22 → Instr) × (State → Bool))),
    ∀ (s : State) (off : BitVec 22), Issues {} s s →
      exec (p.1 off) s =
        .next (jump (if p.2 s then s.w.a.pos.clause + 4 * off.signExtend 64 else s.w.a.pos.next) 0 s)) ∧
  (∀ p ∈ ([(Instr.brz, fun x => decide (x = 0)), (Instr.brnz, fun x => decide (x ≠ 0)), (Instr.brneg, fun x => decide (x.toInt < 0)),
      (Instr.brpos, fun x => decide (0 < x.toInt))] : List ((BitVec 7 → Bool → BitVec 14 → Instr) × (W64 → Bool))),
    ∀ (s : State) (a : BitVec 7) (ea : Bool) (off : BitVec 14), Issues { srcS := [(a.toNat, ea)] } s s →
      exec (p.1 a ea off) s =
        .next (jump (if p.2 (s.sreg a.toNat) then s.w.a.pos.clause + 4 * off.signExtend 64 else s.w.a.pos.next) 0 s)) ∧
  ∀ (s : State) (off : BitVec 22), Issues { dstS := [127] } s s →
    exec (.call off) s = .next (jump (s.w.a.pos.clause + 4 * off.signExtend 64) 1 (s.setS 127 s.w.a.pos.next))

/-- JMPR, CALLR and RET go to an address in a register, and trap 0x02 on a bad one (R140, R167). -/
def Obligations.RegisterJumps : Prop :=
  ∀ (s : State) (a : BitVec 7) (ea : Bool),
    (Issues { srcS := [(a.toNat, ea)] } s s →
      exec (.jmpr a ea) s = if badTarget s.w (s.sreg a.toNat) then raise Cause.clause 0 0 s else .next (jump (s.sreg a.toNat) 0 s)) ∧
    (Issues { srcS := [(a.toNat, ea)], dstS := [127] } s s →
      exec (.callr a ea) s = if badTarget s.w (s.sreg a.toNat) then raise Cause.clause 0 0 s
        else .next (jump (s.sreg a.toNat) 1 (s.setS 127 s.w.a.pos.next))) ∧
    (Issues { oldS := [127] } s s →
      exec .ret s = if badTarget s.w (s.sreg 127) then raise Cause.clause 0 0 s else .next (jump (s.sreg 127) 0 s)) ∧
    (∀ pc : W64, badTarget s.w pc = false ↔ pc.toNat % 4 = 0 ∧
      (s.w.env.code + s.w.env.entry.setWidth 64).toNat ≤ pc.toNat ∧ pc.toNat + 4 ≤ s.w.env.code.toNat + s.w.env.length.toNat)

/-- SMFR reads and SMTR writes a special register; one that may not be written traps 0x07 (R159, R160, R219). The model's choice: how much
time passes before a read of clock or nanotime is free (log 4). -/
def Obligations.SpecialRegisters : Prop :=
  (∀ (s : State) (d : BitVec 7) (n : BitVec 12) (x : W64), sprValue s s.w n.toNat = some x → n ≠ 0x030#12 → n ≠ 0x031#12 →
    Issues { dstS := [d.toNat], supervisor := sprSupervisor n.toNat } s s →
    exec (.smfr d n) s = .next (finish { dstS := [d.toNat], supervisor := sprSupervisor n.toNat } (s.setS d.toNat x))) ∧
  (∀ (s : State) (d : BitVec 7), Issues { dstS := [d.toNat] } s s →
    exec (.smfr d 0x030#12) s = .next (finish { dstS := [d.toNat] }
      ((advanceNanotime s).setS d.toNat ((advanceNanotime s).clockOf s.w.core))) ∧
    exec (.smfr d 0x031#12) s = .next (finish { dstS := [d.toNat] }
      ((advanceNanotime s).setS d.toNat (s.nanotime + (Config.nanoseconds s.free).setWidth 64)))) ∧
  (∀ (s : State) (a : BitVec 7) (ea : Bool) (n : BitVec 12), (sprValue s s.w n.toNat).isSome = true →
    (sprWrite n.toNat = .revocable ∨ sprWrite n.toNat = .irrevocable ∨ (sprWrite n.toNat = .handlerOnly ∧ s.w.inHandler = true)) →
    (n = 0x006#12 → s.w.count 3 = 0 ∧ gangOk s.w (s.sreg a.toNat &&& 0x0000ffffffffffff#64) = true) →
    Issues { srcS := [(a.toNat, ea)], irrevocable := decide (sprWrite n.toNat ≠ .revocable), both := true } s s →
    exec (.smtr a n ea) s = .next (finish { srcS := [(a.toNat, ea)], irrevocable := decide (sprWrite n.toNat ≠ .revocable), both := true }
      (writeSpr n.toNat (s.sreg a.toNat) s))) ∧
  ∀ (s : State) (a : BitVec 7) (ea : Bool) (n : BitVec 12), (sprValue s s.w n.toNat).isSome = true →
    (sprWrite n.toNat = .readOnly ∨ (sprWrite n.toNat = .handlerOnly ∧ s.w.inHandler = false)) →
    Issues { srcS := [(a.toNat, ea)], supervisor := sprSupervisor n.toNat } s s →
    exec (.smtr a n ea) s = raise Cause.permission 0 0 s

/-- NOP, YIELD, SPECBAR, SLEEP, the waits and PBLK have the effects of Tables 8.4 and R171 (R35, R149, R168, R170, R171, R178). The model's
choice: the time that passes before SLEEP reads nanotime is free (log 4). -/
def Obligations.WaveControl : Prop :=
  (∀ s : State, Issues {} s s →
    exec .nop s = .next (finish {} s) ∧
    exec .yield s = .next (finish {} (s.onWave (fun w => { w with ran := 1000 }))) ∧
    exec .specbar s = (if s.w.speculative then .next (s.holdFor .nonspec) else .next (finish {} s))) ∧
  (∀ (s : State) (a : BitVec 7) (ea : Bool), Issues { srcS := [(a.toNat, ea)], irrevocable := true, both := true } s s →
    (s.sreg a.toNat = 0 → exec (.sleep a ea) s =
      .next (finish { srcS := [(a.toNat, ea)], irrevocable := true, both := true } (s.onWave (fun w => { w with ran := 1000 })))) ∧
    (s.sreg a.toNat ≠ 0 → ∃ t, exec (.sleep a ea) s = .next t ∧ t.w.station = .asleep ∧ t.w.ran = 0 ∧
      s.nanotime + (Config.nanoseconds s.free).setWidth 64 = t.nanotime ∧
      t.w.deadline = t.nanotime + BitVec.ofNat 64 (min (s.sreg a.toNat).toNat 16777215) ∧
      t.w.a.pos = s.w.a.pos.advance 1)) ∧
  (∀ (s : State) (path : BitVec 3) (r : BitVec 7) (ea : Bool), Issues { srcS := [(r.toNat, ea)] } s s →
    (s.w.count path.toNat ≤ (s.sreg r.toNat).toNat → exec (.waitc path r ea) s =
      .next (finish { srcS := [(r.toNat, ea)] } (if path = 3#3 then settleMatrix s else s))) ∧
    ((s.sreg r.toNat).toNat < s.w.count path.toNat → exec (.waitc path r ea) s =
      .next (s.blockFor (.counters (1#8 <<< path.toNat) (s.sreg r.toNat).toNat)))) ∧
  (∀ (s : State) (r : BitVec 7), Issues {} s s → s.w.isPort r.toNat = false → s.w.badV r.toNat = false →
    exec (.waitr r) s = .next (if s.w.a.emptyV.getLsbD r.toNat then s.blockFor (.operand (RegSet.with 0 r.toNat) 0) else finish {} s)) ∧
  (∀ (s : State) (r : BitVec 7), Issues {} s s → s.w.badS r.toNat = false →
    exec (.waits r) s = .next (if s.w.a.emptyS.getLsbD r.toNat then s.blockFor (.operand 0 (RegSet.with 0 r.toNat)) else finish {} s)) ∧
  ∀ (s : State) (sp : BitVec 7) (n : BitVec 3) (pattern : BitVec 8) (ea : Bool), Issues { srcS := [(sp.toNat, ea)] } s s →
    ∃ t, exec (.pblk sp n pattern ea) s = .next t ∧ t.w.a.exec = s.w.a.exec ∧ t.w.a.pos.pc = (s.w.a.pos.advance 1).pc ∧
      t.w.a.pos.residue = ⟨s.w.a.exec &&& s.sreg sp.toNat, s.w.a.exec &&& ~~~(s.sreg sp.toNat), pattern, n.toNat + 1⟩

/-- TRAP, BKPT and an undefined word raise their cause at their own address; TRET returns (R152, R156, R158, R168, R169). -/
def Obligations.SoftwareTraps : Prop :=
  (∀ (s : State) (imm : BitVec 8), Issues { irrevocable := true, both := true } s s →
    exec (.trap imm) s = .next (deliverTrap ⟨Cause.software, imm, false, 0, s.w.inst, s.w.a.pos.pc, 0, 0, 0, 0, false⟩ s) ∧
    exec .bkpt s = .next (deliverTrap ⟨Cause.breakpoint, 0, false, 0, s.w.inst, s.w.a.pos.pc, 0, 0, 0, 0, false⟩ s)) ∧
  (∀ (s : State) (w : BitVec 32), s.w.txn = none → s.w.speculative = false →
    exec (.illegalInstruction w) s = .next (deliverTrap ⟨Cause.illegal, 0, false, 0, s.w.inst, s.w.a.pos.pc, 0, 0, 0, 0, false⟩ s)) ∧
  ∀ s : State, s.w.inHandler = true → Issues { irrevocable := true, both := true } s s →
    ∃ t, exec .tret s = .next t ∧ t.w.inHandler = false ∧ t.w.a.exec = s.w.trexec &&& fullMask s.w.width ∧
      t.w.a.pos = (if s.w.trwritten then CodePos.atHeader s.w.trpc else s.w.trpos) ∧
      SameMemory s t ∧ SameRegisters [] [] s t ∧ SameFlags s t

/-- A trap that goes to the user handler saves its state, fills exec and goes to the handler (R154, R156, R158). The model's choice: a trap
that terminates its launch records the same registers (log 75). Causes 0x09 and 0x0a are no traps of this kind: their records are
resolved (R156). -/
def Obligations.HandlerEntry : Prop :=
  ∀ (x : PendTrap) (s : State),
    (x.cause ∈ [0x04#8, 0x0c#8, 0x10#8, 0x11#8] ∧ s.w.env.trap ≠ 0 ∧ s.w.inHandler = false →
      (deliverTrap x s).w.a.pos = CodePos.atHeader (s.w.env.code + s.w.env.trap.setWidth 64) ∧
      (deliverTrap x s).w.inHandler = true ∧ (deliverTrap x s).w.a.exec = BitVec.ofNat 64 (2 ^ s.w.width - 1) ∧
      (deliverTrap x s).w.station = s.w.station ∧ (deliverTrap x s).w.ran = 0 ∧ (deliverTrap x s).launches = s.launches) ∧
    (¬ (x.cause ∈ [0x04#8, 0x0c#8, 0x10#8, 0x11#8] ∧ s.w.env.trap ≠ 0 ∧ s.w.inHandler = false) →
      (deliverTrap x s).w.station = .stopped ∧ (deliverTrap x s).w.a = s.w.a) ∧
    (deliverTrap x s).w.trcause.extractLsb' 0 8 = x.cause ∧ (deliverTrap x s).w.trcause.extractLsb' 8 8 = x.detail ∧
    (deliverTrap x s).w.trcause.getLsbD 17 = x.post ∧
    (deliverTrap x s).w.trpc = x.pc ∧ (deliverTrap x s).w.trmask = x.mask ∧ (deliverTrap x s).w.trinst = x.inst ∧
    (deliverTrap x s).w.trexec = s.w.a.exec ∧ (deliverTrap x s).w.trpos = { s.w.a.pos with pc := x.pc } ∧
    SameMemory s (deliverTrap x s) ∧ SameRegisters [] [] s (deliverTrap x s) ∧ SameFlags s (deliverTrap x s)

/-- The conditions before a word of its own are taken in the order of R154 (R32, R103, R148, R152, R154, R180). The model's choice: where a
vector source and a scalar source are both empty, trmask is the vector source's (log 179). -/
def Obligations.EarlyTrapOrder : Prop :=
  ∀ (u : Use) (k : State → Result) (s : State), s.w.txn = none → s.w.speculative = false →
    let illegal := (s.w.a.pos.residue.left ≠ 0 ∧ u.covered = false) ∨ u.illegal = true ∨ s.w.queueIllegal u = true
    let privilege := u.supervisor = true ∧ s.w.env.sup = false
    let undeclared := (∃ r ∈ vectorRegs u, s.w.badV r = true) ∨ ∃ r ∈ scalarRegs u, s.w.badS r = true
    let unbound := u.unbound = true ∨ s.w.portUnbound u = true
    let emptyV := ∃ x ∈ u.srcV, x.2 = true ∧ s.w.emptySource x.1 = true
    let emptyS := ∃ x ∈ u.srcS, x.2 = true ∧ s.w.emptyScalar x.1 = true
    let traps := fun (c : BitVec 8) (m : W64) => issue u k s = .next (deliverTrap ⟨c, 0, false, m, s.w.inst, s.w.a.pos.pc, 0, 0, 0, 0, false⟩ s)
    (illegal → traps 0x01 0) ∧ (¬ illegal → privilege → traps 0x12 0) ∧
    (¬ illegal → ¬ privilege → undeclared → traps 0x03 0) ∧
    (¬ illegal → ¬ privilege → ¬ undeclared → unbound → traps 0x15 0) ∧
    (¬ illegal → ¬ privilege → ¬ undeclared → ¬ unbound → emptyV → traps 0x04 s.w.acting) ∧
    (¬ illegal → ¬ privilege → ¬ undeclared → ¬ unbound → ¬ emptyV → emptyS → traps 0x04 0)

/-- Integer vector words write their value in every acting thread and no other (R181, R184, R186). -/
def Obligations.VectorInteger : Prop :=
  (∀ p ∈ ([(Instr.vadd, fun x y => x + y), (Instr.vsub, fun x y => x - y), (Instr.vmullo, fun x y => x * y),
      (Instr.vmulhi, fun x y => BitVec.ofInt 32 (x.toInt * y.toInt / 2 ^ 32)),
      (Instr.vmulhu, fun x y => BitVec.ofNat 32 (x.toNat * y.toNat / 2 ^ 32)),
      (Instr.vmin, fun x y => if x.toInt < y.toInt then x else y), (Instr.vmax, fun x y => if x.toInt < y.toInt then y else x),
      (Instr.vminu, fun x y => if x.toNat < y.toNat then x else y), (Instr.vmaxu, fun x y => if x.toNat < y.toNat then y else x),
      (Instr.vand, fun x y => x &&& y), (Instr.vor, fun x y => x ||| y), (Instr.vxor, fun x y => x ^^^ y),
      (Instr.vandn, fun x y => x &&& ~~~y), (Instr.vshl, fun x y => x <<< (y.toNat % 32)),
      (Instr.vshr, fun x y => x >>> (y.toNat % 32)), (Instr.vsra, fun x y => x.sshiftRight (y.toNat % 32))] :
      List ((BitVec 7 → BitVec 7 → BitVec 7 → Bool → Bool → Instr) × (W32 → W32 → W32))),
    ∀ (s t : State) (d a b : BitVec 7) (ea eb : Bool), Issues (useV3 d a b ea eb) s t →
      exec (p.1 d a b ea eb) s = .next (finish (useV3 d a b ea eb)
        (t.setVs d.toNat (fun th => p.2 (t.vreg a.toNat th) (t.vreg b.toNat th)) t.w.actingThreads))) ∧
  (∀ p ∈ ([(Instr.vadds, fun x y => x + y), (Instr.vsubs, fun x y => x - y), (Instr.vmuls, fun x y => x * y),
      (Instr.vands, fun x y => x &&& y), (Instr.vors, fun x y => x ||| y), (Instr.vxors, fun x y => x ^^^ y),
      (Instr.vshls, fun x y => x <<< (y.toNat % 32)), (Instr.vshrs, fun x y => x >>> (y.toNat % 32))] :
      List ((BitVec 7 → BitVec 7 → BitVec 7 → Bool → Bool → Instr) × (W32 → W32 → W32))),
    ∀ (s t : State) (d a b : BitVec 7) (ea eb : Bool), Issues (useVS d a b ea eb) s t →
      exec (p.1 d a b ea eb) s = .next (finish (useVS d a b ea eb)
        (t.setVs d.toNat (fun th => p.2 (t.vreg a.toNat th) ((t.sreg b.toNat).extractLsb' 0 32)) t.w.actingThreads))) ∧
  (∀ p ∈ ([(Instr.vaddi, fun x i => x + i.signExtend 32), (Instr.vandi, fun x i => x &&& i.signExtend 32),
      (Instr.vori, fun x i => x ||| i.signExtend 32), (Instr.vxori, fun x i => x ^^^ i.signExtend 32),
      (Instr.vmuli, fun x i => x * i.signExtend 32), (Instr.vshli, fun x i => x <<< i.toNat),
      (Instr.vshri, fun x i => x >>> i.toNat), (Instr.vsrai, fun x i => x.sshiftRight i.toNat)] :
      List ((BitVec 7 → BitVec 7 → BitVec 8 → Bool → Instr) × (W32 → BitVec 8 → W32))),
    ∀ (s t : State) (d a : BitVec 7) (imm : BitVec 8) (ea : Bool), Issues (useV1 d a ea) s t →
      exec (p.1 d a imm ea) s = .next (finish (useV1 d a ea)
        (t.setVs d.toNat (fun th => p.2 (t.vreg a.toNat th) imm) t.w.actingThreads))) ∧
  (∀ p ∈ ([(Instr.vmov, fun x => x),
      (Instr.vclz, fun x => BitVec.ofNat 32 (((List.range 32).find? (fun i => x.getLsbD (31 - i))).getD 32)),
      (Instr.vpopc, fun x => BitVec.ofNat 32 (popcount 32 x)), (Instr.vbrev, fun x => x.reverse)] :
      List ((BitVec 7 → BitVec 7 → Bool → Instr) × (W32 → W32))),
    ∀ (s t : State) (d a : BitVec 7) (ea : Bool), Issues (useV1 d a ea) s t →
      exec (p.1 d a ea) s = .next (finish (useV1 d a ea)
        (t.setVs d.toNat (fun th => p.2 (t.vreg a.toNat th)) t.w.actingThreads))) ∧
  (∀ (s t : State) (d b : BitVec 7) (eb : Bool),
    Issues { covered := true, srcS := [(b.toNat, eb)], dstV := [d.toNat] } s t →
      exec (.vmovs d b eb) s = .next (finish { covered := true, srcS := [(b.toNat, eb)], dstV := [d.toNat] }
        (t.setVs d.toNat (fun _ => (t.sreg b.toNat).extractLsb' 0 32) t.w.actingThreads))) ∧
  ∀ (s t : State) (d : BitVec 7), Issues { covered := true, dstV := [d.toNat] } s t →
    exec (.vtid d) s = .next (finish { covered := true, dstV := [d.toNat] }
      (t.setVs d.toNat (fun th => BitVec.ofNat 32 th) t.w.actingThreads))

/-- Integer vector compares write the mask of the acting threads where the relation holds (R185). -/
def Obligations.VectorCompares : Prop :=
  ∀ p ∈ ([(Instr.vceq, fun x y => decide (x = y)), (Instr.vcne, fun x y => decide (x ≠ y)),
      (Instr.vclt, fun x y => decide (x.toInt < y.toInt)), (Instr.vcle, fun x y => decide (x.toInt ≤ y.toInt)),
      (Instr.vcgt, fun x y => decide (y.toInt < x.toInt)), (Instr.vcge, fun x y => decide (y.toInt ≤ x.toInt)),
      (Instr.vcltu, fun x y => decide (x.toNat < y.toNat)), (Instr.vcleu, fun x y => decide (x.toNat ≤ y.toNat))] :
      List ((BitVec 7 → BitVec 7 → BitVec 7 → Bool → Bool → Instr) × (W32 → W32 → Bool))),
    ∀ (s t : State) (d a b : BitVec 7) (ea eb : Bool), Issues (useVC d a b ea eb) s t →
      ∃ x : W64, exec (p.1 d a b ea eb) s = .next (finish (useVC d a b ea eb) (t.setS d.toNat x)) ∧
        ∀ i : Nat, x.getLsbD i = (decide (i ∈ t.w.actingThreads) && p.2 (t.vreg a.toNat i) (t.vreg b.toNat i))

/-- VWRX and VRDX write and read v[x], x being the value of sb; x beyond the declaration traps 0x03, a port 0x01, ahead of the word's
other traps and waits (R154, R187). -/
def Obligations.IndexedRegisters : Prop :=
  ∀ (s t : State) (d a b : BitVec 7) (ea eb : Bool),
    let x := (s.sreg b.toNat).toNat
    (s.w.badS b.toNat = false → s.w.a.emptyS.getLsbD b.toNat = false →
      useVwrx s a.toNat b.toNat ea eb = {
        covered := true, srcV := [(a.toNat, ea)], srcS := [(b.toNat, eb)], dstV := [x], illegal := s.w.isPort x } ∧
      useVrdx s d.toNat b.toNat ea eb = {
        covered := true, srcV := [(x, ea)], srcS := [(b.toNat, eb)], dstV := [d.toNat], illegal := s.w.isPort x } ∧
      (s.w.isPort x = true →
        exec (.vwrx a b ea eb) s = raise Cause.illegal 0 0 s ∧ exec (.vrdx d b ea eb) s = raise Cause.illegal 0 0 s) ∧
      (s.w.isPort x = false → (s.w.vregs ≤ x ∨ 128 ≤ x) →
        (s.w.queueIllegal (useVwrx s a.toNat b.toNat ea eb) = false → exec (.vwrx a b ea eb) s = raise Cause.register 0 0 s) ∧
        (s.w.queueIllegal (useVrdx s d.toNat b.toNat ea eb) = false → exec (.vrdx d b ea eb) s = raise Cause.register 0 0 s))) ∧
    (Issues (useVwrx s a.toNat b.toNat ea eb) s t → exec (.vwrx a b ea eb) s = .next (finish (useVwrx s a.toNat b.toNat ea eb)
      (t.setVs (t.sreg b.toNat).toNat (fun th => t.vreg a.toNat th) t.w.actingThreads))) ∧
    (Issues (useVrdx s d.toNat b.toNat ea eb) s t → exec (.vrdx d b ea eb) s = .next (finish (useVrdx s d.toNat b.toNat ea eb)
      (t.setVs d.toNat (fun th => t.vreg (t.sreg b.toNat).toNat th) t.w.actingThreads)))

/-- F32 and packed floating-point words write value and flags of every acting thread, the exact number rounded once (R56, R58, R181, R188,
R190, R195). -/
def Obligations.FloatingPoint : Prop :=
  (∀ p ∈ ([(Instr.vfadd, addF32), (Instr.vfsub, subF32), (Instr.vfmul, mulF32), (Instr.vfmin, fun _ => minMaxF32 true),
      (Instr.vfmax, fun _ => minMaxF32 false), (Instr.vhadd, fun r x y => packed (fun u v _ => f16.add r u v) x y 0),
      (Instr.vhmul, fun r x y => packed (fun u v _ => f16.mul r u v) x y 0),
      (Instr.vbadd, fun r x y => packed (fun u v _ => bf16.add r u v) x y 0),
      (Instr.vbmul, fun r x y => packed (fun u v _ => bf16.mul r u v) x y 0)] : List ((BitVec 7 → BitVec 7 → BitVec 7 → Bool → Bool → Instr) × (Rounding → W32 → W32 → W32 × Flags))),
    ∀ (s t : State) (d a b : BitVec 7) (ea eb : Bool), Issues (useV3 d a b ea eb) s t →
      exec (p.1 d a b ea eb) s = .next (finishFlags (useV3 d a b ea eb)
        (t.w.actingThreads.map (fun th => (th, (p.2 (Rounding.ofBits t.w.rmode) (t.vreg a.toNat th) (t.vreg b.toNat th)).2)))
        (t.setVs d.toNat (fun th => (p.2 (Rounding.ofBits t.w.rmode) (t.vreg a.toNat th) (t.vreg b.toNat th)).1) t.w.actingThreads))) ∧
  (∀ p ∈ ([(Instr.vfadds, addF32), (Instr.vfsubs, subF32), (Instr.vfmuls, mulF32), (Instr.vfmins, fun _ => minMaxF32 true),
      (Instr.vfmaxs, fun _ => minMaxF32 false)] : List ((BitVec 7 → BitVec 7 → BitVec 7 → Bool → Bool → Instr) × (Rounding → W32 → W32 → W32 × Flags))),
    ∀ (s t : State) (d a b : BitVec 7) (ea eb : Bool), Issues (useVS d a b ea eb) s t →
      exec (p.1 d a b ea eb) s = .next (finishFlags (useVS d a b ea eb)
        (t.w.actingThreads.map (fun th => (th, (p.2 (Rounding.ofBits t.w.rmode) (t.vreg a.toNat th) (t.sregW b.toNat)).2)))
        (t.setVs d.toNat (fun th => (p.2 (Rounding.ofBits t.w.rmode) (t.vreg a.toNat th) (t.sregW b.toNat)).1) t.w.actingThreads))) ∧
  (∀ p ∈ ([(Instr.vfmac, fun r => fmaF32 r false false), (Instr.vfmsc, fun r => fmaF32 r false true),
      (Instr.vfnmac, fun r => fmaF32 r true false), (Instr.vhmac, fun r => packed (f16.fma r false false)),
      (Instr.vbmac, fun r => packed (bf16.fma r false false)), (Instr.vhdot, dotPair f16), (Instr.vbdot, dotPair bf16)] :
      List ((BitVec 7 → BitVec 7 → BitVec 7 → Bool → Bool → Instr) × (Rounding → W32 → W32 → W32 → W32 × Flags))),
    ∀ (s t : State) (d a b : BitVec 7) (ea eb : Bool), Issues { useV3 d a b ea eb with oldV := [d.toNat] } s t →
      exec (p.1 d a b ea eb) s = .next (finishFlags { useV3 d a b ea eb with oldV := [d.toNat] }
        (t.w.actingThreads.map (fun th =>
          (th, (p.2 (Rounding.ofBits t.w.rmode) (t.vreg a.toNat th) (t.vreg b.toNat th) (t.vreg d.toNat th)).2)))
        (t.setVs d.toNat (fun th =>
          (p.2 (Rounding.ofBits t.w.rmode) (t.vreg a.toNat th) (t.vreg b.toNat th) (t.vreg d.toNat th)).1) t.w.actingThreads))) ∧
  (∀ (s t : State) (d a b : BitVec 7) (ea eb : Bool), Issues { useVS d a b ea eb with oldV := [d.toNat] } s t →
    exec (.vfmacs d a b ea eb) s = .next (finishFlags { useVS d a b ea eb with oldV := [d.toNat] }
      (t.w.actingThreads.map (fun th =>
        (th, (fmaF32 (Rounding.ofBits t.w.rmode) false false (t.vreg a.toNat th) (t.sregW b.toNat) (t.vreg d.toNat th)).2)))
      (t.setVs d.toNat (fun th =>
        (fmaF32 (Rounding.ofBits t.w.rmode) false false (t.vreg a.toNat th) (t.sregW b.toNat) (t.vreg d.toNat th)).1) t.w.actingThreads))) ∧
  (∀ (mode : Rounding) (a b d : W32) (na nb nd : Bool) (ma mb md : Nat) (ea eb ed : Int),
    f32.decode a.toNat = .fin na ma ea → f32.decode b.toNat = .fin nb mb eb →
    let x := valueOf na ma ea
    let y := valueOf nb mb eb
    RoundedOnce f32 mode (x + y) ((addF32 mode a b).1.toNat, (addF32 mode a b).2) ∧
    RoundedOnce f32 mode (x - y) ((subF32 mode a b).1.toNat, (subF32 mode a b).2) ∧
    RoundedOnce f32 mode (x * y) ((mulF32 mode a b).1.toNat, (mulF32 mode a b).2) ∧
    (f32.decode d.toNat = .fin nd md ed → ∀ np nc : Bool, RoundedOnce f32 mode
      ((if np then -(x * y) else x * y) + (if nc then -valueOf nd md ed else valueOf nd md ed))
      ((fmaF32 mode np nc a b d).1.toNat, (fmaF32 mode np nc a b d).2))) ∧
  (∀ f ∈ [f16, bf16], ∀ (mode : Rounding) (a b d : Nat) (na nb nd : Bool) (ma mb md : Nat) (ea eb ed : Int),
    f.decode a = .fin na ma ea → f.decode b = .fin nb mb eb →
    let x := valueOf na ma ea
    let y := valueOf nb mb eb
    RoundedOnce f mode (x + y) (f.add mode a b) ∧ RoundedOnce f mode (x * y) (f.mul mode a b) ∧
    (f.decode d = .fin nd md ed → RoundedOnce f mode (x * y + valueOf nd md ed) (f.fma mode false false a b d))) ∧
  (∀ (op : Nat → Nat → Nat → Nat × Flags) (a b d : W32), (∀ x y z, (op x y z).1 < 2 ^ 16) →
    (∀ i < 2, half (packed op a b d).1 i = (op (half a i) (half b i) (half d i)).1) ∧
    (packed op a b d).2 = (op (half a 0) (half b 0) (half d 0)).2 ||| (op (half a 1) (half b 1) (half d 1)).2) ∧
  ∀ f ∈ [f16, bf16], ∀ (mode : Rounding) (a b d : W32) (na nb : Nat → Bool) (ma mb : Nat → Nat) (ea eb : Nat → Int) (nd : Bool) (md : Nat)
      (ed : Int),
    (∀ i < 2, f.decode (half a i) = .fin (na i) (ma i) (ea i) ∧ f.decode (half b i) = .fin (nb i) (mb i) (eb i)) →
    f32.decode d.toNat = .fin nd md ed →
    RoundedOnce f32 mode (valueOf (na 0) (ma 0) (ea 0) * valueOf (nb 0) (mb 0) (eb 0) +
        valueOf (na 1) (ma 1) (ea 1) * valueOf (nb 1) (mb 1) (eb 1) + valueOf nd md ed)
      ((dotPair f mode a b d).1.toNat, (dotPair f mode a b d).2)

/-- F32 compares give the relation of their numbers and raise nv as R189 says (R185, R189). -/
def Obligations.FloatingCompares : Prop :=
  (∀ p ∈ ([(Instr.vfceq, 0), (Instr.vfcne, 1), (Instr.vfclt, 2), (Instr.vfcle, 3), (Instr.vfcun, 4), (Instr.vfslt, 5), (Instr.vfsle, 6)] :
      List ((BitVec 7 → BitVec 7 → BitVec 7 → Bool → Bool → Instr) × Nat)),
    ∀ (s t : State) (d a b : BitVec 7) (ea eb : Bool), Issues (useVC d a b ea eb) s t →
      ∃ x : W64, exec (p.1 d a b ea eb) s = .next (finishFlags (useVC d a b ea eb)
          (t.w.actingThreads.map (fun th => (th, (compareF32 p.2 (t.vreg a.toNat th) (t.vreg b.toNat th)).2))) (t.setS d.toNat x)) ∧
        ∀ i : Nat, x.getLsbD i = (decide (i ∈ t.w.actingThreads) && (compareF32 p.2 (t.vreg a.toNat i) (t.vreg b.toNat i)).1)) ∧
  (∀ (fn : Nat) (a b : W32), fn ≤ 6 →
    let nan := fun (x : W32) => x.extractLsb' 23 8 = 0xff#8 ∧ x.extractLsb' 0 23 ≠ 0
    let signalling := fun (x : W32) => nan x ∧ x.getLsbD 22 = false
    (compareF32 fn a b).2 = (if signalling a ∨ signalling b ∨ (5 ≤ fn ∧ (nan a ∨ nan b)) then Flags.nv else 0) ∧
    (nan a ∨ nan b → (compareF32 fn a b).1 = decide (fn = 1 ∨ fn = 4)) ∧
    (¬ nan a → ¬ nan b → (compareF32 4 a b).1 = false ∧ (compareF32 1 a b).1 = !(compareF32 0 a b).1 ∧
      (compareF32 3 a b).1 = ((compareF32 2 a b).1 || (compareF32 0 a b).1) ∧
      (compareF32 5 a b).1 = (compareF32 2 a b).1 ∧ (compareF32 6 a b).1 = (compareF32 3 a b).1 ∧
      (compareF32 2 a b).1 = !(compareF32 3 b a).1)) ∧
  (∀ (a b : W32) (n n' : Bool) (m m' : Nat) (e e' : Int), f32.decode a.toNat = .fin n m e → f32.decode b.toNat = .fin n' m' e' →
    ((compareF32 0 a b).1 = true ↔ valueOf n m e = valueOf n' m' e') ∧ ((compareF32 2 a b).1 = true ↔ valueOf n m e < valueOf n' m' e')) ∧
  ∀ (a b : W32) (n n' : Bool) (m : Nat) (e : Int),
    (f32.decode a.toNat = .inf n → f32.decode b.toNat = .inf n' →
      (compareF32 0 a b).1 = decide (n = n') ∧ (compareF32 2 a b).1 = (n && !n')) ∧
    (f32.decode a.toNat = .inf n → f32.decode b.toNat = .fin n' m e → (compareF32 0 a b).1 = false ∧ (compareF32 2 a b).1 = n) ∧
    (f32.decode a.toNat = .fin n' m e → f32.decode b.toNat = .inf n → (compareF32 0 a b).1 = false ∧ (compareF32 2 a b).1 = !n)

/-- A floating-point word completes, then traps 0x0c where it raised an enabled flag (R157, R195, R196). -/
def Obligations.FlagTrap : Prop :=
  ∀ (u : Use) (fs : List (Nat × Flags)) (s : State), s.w.txn = none → s.w.accesses = [] →
    let done := finish u (s.onArch (fun a => a.addFlags fs))
    let enabled := allRaised fs &&& s.w.fte
    (enabled = 0 → finishFlags u fs s = done) ∧
    (enabled ≠ 0 → finishFlags u fs s =
      deliverTrap ⟨Cause.fp, enabled.setWidth 8, true, raisedBy s.w.fte fs, s.w.inst, (s.w.a.pos.advance u.words).pc, 0, 0, 0, 0, false⟩ done) ∧
    (∀ i : Nat, i < 64 → (raisedBy s.w.fte fs).getLsbD i = fs.any (fun x => x.1 == i && (x.2 &&& s.w.fte) != 0)) ∧
    done.w.a.flNx = s.w.a.flNx ||| raisedBy Flags.nx fs ∧ done.w.a.flNv = s.w.a.flNv ||| raisedBy Flags.nv fs ∧
    done.w.a.flDz = s.w.a.flDz ||| raisedBy Flags.dz fs ∧ done.w.a.flOf = s.w.a.flOf ||| raisedBy Flags.of fs ∧
    done.w.a.flUf = s.w.a.flUf ||| raisedBy Flags.uf fs

/-- The conversions of major 0x1e write their value, rounded once, and flags in every acting thread (R56, R60, R64, R66, R67, R192). -/
def Obligations.Conversions : Prop :=
  (∀ (s t : State) (d a : BitVec 7) (rnd sel : BitVec 2) (ea : Bool), Issues (useV1 d a ea) s t →
    (∀ p ∈ ([(.vcf32h d a sel ea, fun x => (widen (f16.decode (half x sel.toNat)), 0)),
        (.vcf32b d a sel ea, fun x => (widen (bf16.decode (half x sel.toNat)), 0)),
        (.vcf32t6 d a sel ea, fun x => (widen (Element.t6.decode (getByte x sel.toNat)), 0)),
        (.vci32 d a rnd ea, fun x => (BitVec.ofInt 32 (f32ToInt (Rounding.ofBits rnd) (-(2 ^ 31)) (2 ^ 31 - 1) x).1,
          (f32ToInt (Rounding.ofBits rnd) (-(2 ^ 31)) (2 ^ 31 - 1) x).2)),
        (.vcn32 d a rnd ea, fun x => (BitVec.ofInt 32 (f32ToInt (Rounding.ofBits rnd) 0 (2 ^ 32 - 1) x).1,
          (f32ToInt (Rounding.ofBits rnd) 0 (2 ^ 32 - 1) x).2)),
        (.vcf32i d a rnd ea, fun x => intToF32 (Rounding.ofBits rnd) x.toInt),
        (.vcf32n d a rnd ea, fun x => intToF32 (Rounding.ofBits rnd) x.toNat)] : List (Instr × (W32 → W32 × Flags))),
      exec p.1 s = .next (finishFlags (useV1 d a ea) (t.w.actingThreads.map (fun th => (th, (p.2 (t.vreg a.toNat th)).2)))
        (t.setVs d.toNat (fun th => (p.2 (t.vreg a.toNat th)).1) t.w.actingThreads)))) ∧
  (∀ (s t : State) (d a : BitVec 7) (rnd sel : BitVec 2) (ea : Bool), Issues { useV1 d a ea with oldV := [d.toNat] } s t →
    (∀ p ∈ ([(.vcf16 d a rnd sel ea, f16), (.vcbf d a rnd sel ea, bf16)] : List (Instr × Fmt)),
      exec p.1 s = .next (finishFlags { useV1 d a ea with oldV := [d.toNat] }
        (t.w.actingThreads.map (fun th => (th, (f32ToHalf p.2 (Rounding.ofBits rnd) (t.vreg a.toNat th)).2)))
        (t.setVs d.toNat (fun th => setHalf (t.vreg d.toNat th) sel.toNat
          (f32ToHalf p.2 (Rounding.ofBits rnd) (t.vreg a.toNat th)).1) t.w.actingThreads)))) ∧
  (∀ (s t : State) (d a : BitVec 7) (slot : BitVec 3) (sel : BitVec 2) (ea : Bool) (el : Element),
    slotReserved (s.w.slotDesc slot.toNat) = false → Element.ofSlot (s.w.slotDesc slot.toNat) = some el → el.bits = 8 →
    Issues (useV1 d a ea) s t →
    exec (.vcwid d a slot sel ea) s = .next (finishFlags (useV1 d a ea) (t.w.actingThreads.map (fun th => (th, 0)))
      (t.setVs d.toNat (fun th => widen (el.decode (getByte (t.vreg a.toNat th) sel.toNat))) t.w.actingThreads))) ∧
  (∀ (s t : State) (d a : BitVec 7) (slot : BitVec 3) (rnd sel : BitVec 2) (ea : Bool) (el : Element),
    slotReserved (s.w.slotDesc slot.toNat) = false → Element.ofSlot (s.w.slotDesc slot.toNat) = some el →
    Issues { useV1 d a ea with oldV := [d.toNat] } s t →
    (el.bits = 8 → exec (.vcnar d a slot rnd sel ea) s = .next (finishFlags { useV1 d a ea with oldV := [d.toNat] }
      (t.w.actingThreads.map (fun th =>
        (th, (toElement el (Rounding.ofBits rnd) (slotOvf (s.w.slotDesc slot.toNat) == 1#2) (t.vreg a.toNat th)).2)))
      (t.setVs d.toNat (fun th => setByte (t.vreg d.toNat th) sel.toNat
        (toElement el (Rounding.ofBits rnd) (slotOvf (s.w.slotDesc slot.toNat) == 1#2) (t.vreg a.toNat th)).1) t.w.actingThreads))) ∧
    (el = .t6 → exec (.vct6 d a slot rnd sel ea) s = .next (finishFlags { useV1 d a ea with oldV := [d.toNat] }
      (t.w.actingThreads.map (fun th =>
        (th, (toTapered 6 (Rounding.ofBits rnd) (slotOvf (s.w.slotDesc slot.toNat) == 1#2) (t.vreg a.toNat th)).2)))
      (t.setVs d.toNat (fun th => setByte (t.vreg d.toNat th) sel.toNat
        (toTapered 6 (Rounding.ofBits rnd) (slotOvf (s.w.slotDesc slot.toNat) == 1#2) (t.vreg a.toNat th)).1) t.w.actingThreads)))) ∧
  (∀ (x : W32) (i v j : Nat), i < 4 → j < 32 →
    (setByte x i v).getLsbD j = (if 8 * i ≤ j ∧ j < 8 * i + 8 then v.testBit (j - 8 * i) else x.getLsbD j) ∧
    (i < 2 → (setHalf x i v).getLsbD j = (if 16 * i ≤ j ∧ j < 16 * i + 16 then v.testBit (j - 16 * i) else x.getLsbD j))) ∧
  (∀ f ∈ [f16, bf16], ∀ (mode : Rounding) (x : W32),
    (∀ n m e, f32.decode x.toNat = .fin n m e → RoundedOnce f mode (valueOf n m e) (f32ToHalf f mode x)) ∧
    (∀ n, f32.decode x.toNat = .inf n → f32ToHalf f mode x = (f.signed n f.infBits, 0)) ∧
    (∀ s, f32.decode x.toNat = .nan s → f32ToHalf f mode x = (f.nanBits, if s then Flags.nv else 0))) ∧
  (∀ (mode : Rounding) (w : Int), RoundedOnce f32 mode w ((intToF32 mode w).1.toNat, (intToF32 mode w).2)) ∧
  (∀ (el : Element) (c : Nat),
    (∀ n m e, el.decode c = .fin n m e →
      ∃ m' e', f32.decode (widen (el.decode c)).toNat = .fin n m' e' ∧ valueOf n m' e' = valueOf n m e) ∧
    (∀ n, el.decode c = .inf n → f32.decode (widen (el.decode c)).toNat = .inf n) ∧
    (∀ s, el.decode c = .nan s → widen (el.decode c) = 0x7fc00000#32)) ∧
  ∀ n ∈ [6, 8], ∀ (mode : Rounding) (nonFinite : Bool) (x : W32),
    (∀ s, f32.decode x.toNat = .nan s → toTapered n mode nonFinite x = (2 ^ (n - 1), Flags.nv)) ∧
    (∀ neg, f32.decode x.toNat = .inf neg → toTapered n mode nonFinite x = (2 ^ (n - 1), Flags.nv)) ∧
    ∀ neg m e, f32.decode x.toNat = .fin neg m e →
      let v := valueOf false m e
      (v = 0 → toTapered n mode nonFinite x = (0, 0)) ∧
      ((2 : ℚ) ^ (2 * n - 4) < v → toTapered n mode nonFinite x =
        (if nonFinite then 2 ^ (n - 1) else taperedSigned n neg (2 ^ (n - 1) - 1), Flags.of ||| Flags.nx)) ∧
      (0 < v → v < 1 / (2 : ℚ) ^ (2 * n - 4) → toTapered n mode nonFinite x = (taperedSigned n neg 1, Flags.uf ||| Flags.nx)) ∧
      (∀ c, 1 ≤ c → c < 2 ^ (n - 1) → taperedValue n c = v → toTapered n mode nonFinite x = (taperedSigned n neg c, 0)) ∧
      ∀ lo, 1 ≤ lo → lo + 1 < 2 ^ (n - 1) → taperedValue n lo < v → v < taperedValue n (lo + 1) →
        toTapered n mode nonFinite x = (taperedSigned n neg (taperedChoice mode neg (v - taperedValue n lo) (taperedValue n (lo + 1) - v) lo), Flags.nx)

/-- Conversion into I8 and N8 rounds, saturates with nv, gives 0 for a NaN (R66). -/
def Obligations.IntegerElements : Prop :=
  ∀ (rnd : Rounding) (ovf : Bool) (x : W32), ∀ p ∈ ([(Element.i8, -128, 127), (Element.n8, 0, 255)] : List (Element × Int × Int)),
    (x.extractLsb' 23 8 = 0xff#8 ∧ x.extractLsb' 0 23 ≠ 0 → toElement p.1 rnd ovf x = (0, Flags.nv)) ∧
    (∀ neg : Bool, f32.decode x.toNat = .inf neg →
      toElement p.1 rnd ovf x = (((if neg then p.2.1 else p.2.2) % 256).toNat, Flags.nv)) ∧
    (∀ (neg : Bool) (m : Nat) (e r : Int), f32.decode x.toNat = .fin neg m e →
      let v : ℚ := (if neg then -1 else 1) * (m : ℚ) * (2 : ℚ) ^ e
      (match rnd with
        | .rdn => r = ⌊v⌋
        | .rup => r = ⌈v⌉
        | .rtz => r = if v < 0 then ⌈v⌉ else ⌊v⌋
        | .rne => |v - r| ≤ 1 / 2 ∧ (|v - r| = 1 / 2 → r % 2 = 0)) →
      toElement p.1 rnd ovf x = ((max p.2.1 (min p.2.2 r) % 256).toNat,
        if r < p.2.1 ∨ p.2.2 < r then Flags.nv else if (r : ℚ) = v then 0 else Flags.nx))

/-- Cross-lane, packing and unpacking words move values between threads and codes (R79, R193, R194). -/
def Obligations.CrossLane : Prop :=
  (∀ (s t : State) (d a b : BitVec 7) (ea eb : Bool), Issues (useV3 d a b ea eb) s t →
    exec (.vshuf d a b ea eb) s = .next (finish (useV3 d a b ea eb)
      (t.setVs d.toNat (fun th => t.vreg a.toNat ((t.vreg b.toNat th).toNat % t.w.width)) t.w.actingThreads)) ∧
    exec (.vrots d a b ea eb) s = .next (finish (useV3 d a b ea eb)
      (t.setVs d.toNat (fun th => t.vreg a.toNat ((th + (t.vreg b.toNat 0).toNat % t.w.width) % t.w.width)) t.w.actingThreads))) ∧
  (∀ (s t : State) (d a : BitVec 7) (imm : BitVec 7) (ea : Bool), Issues (useV1 d a ea) s t →
    exec (.vshfx d a imm ea) s = .next (finish (useV1 d a ea)
      (t.setVs d.toNat (fun th => t.vreg a.toNat (th ^^^ (imm.toNat % t.w.width))) t.w.actingThreads)) ∧
    exec (.vbcst d a ea) s = .next (finish (useV1 d a ea)
      (t.setVs d.toNat (fun _ => t.vreg a.toNat (t.w.actingThreads.headD 0)) t.w.actingThreads)) ∧
    exec (.vscan d a ea) s = .next (finish (useV1 d a ea)
      (t.setVs d.toNat (fun th => ((t.w.actingThreads.filter (fun u => decide (u ≤ th))).map (fun u => t.vreg a.toNat u)).foldl (· + ·) 0)
        t.w.actingThreads)) ∧
    exec (.vcmpk d a ea) s = .next (finish (useV1 d a ea)
      (t.setVs d.toNat (fun k => t.vreg a.toNat (t.w.actingThreads.getD k 0)) (List.range t.w.actingThreads.length)))) ∧
  (∀ (s t : State) (d a : BitVec 7) (ea : Bool), Issues { covered := true, srcV := [(a.toNat, ea)], dstS := [d.toNat] } s t →
    exec (.vreda d a ea) s = .next (finish { covered := true, srcV := [(a.toNat, ea)], dstS := [d.toNat] }
      (t.setS d.toNat ((t.w.actingThreads.map (fun th => (t.vreg a.toNat th).signExtend 64)).foldl (· + ·) 0))) ∧
    (let sum := treeSum (Rounding.ofBits t.w.rmode) (Nat.log2 t.w.width) ((List.range t.w.width).map (fun th =>
        if t.w.acting.getLsbD th then t.vreg a.toNat th else 0x80000000#32))
     exec (.vredf d a ea) s = .next (finishFlags { covered := true, srcV := [(a.toNat, ea)], dstS := [d.toNat] } [(0, sum.2)]
        (t.setS d.toNat (sum.1.setWidth 64))))) ∧
  ∀ (s t : State) (d a : BitVec 7) (sel : BitVec 2) (ea : Bool),
    (Issues {
        covered := true, srcV := [(a.toNat, ea)], oldV := [d.toNat, d.toNat + 1, d.toNat + 2],
        dstV := [d.toNat, d.toNat + 1, d.toNat + 2] } s t → s.w.rangeHitsPort d.toNat 3 = false →
      ∃ x : Nat → BitVec 96, exec (.vpk6 d a sel ea) s = .next (finish {
          covered := true, srcV := [(a.toNat, ea)], oldV := [d.toNat, d.toNat + 1, d.toNat + 2],
          dstV := [d.toNat, d.toNat + 1, d.toNat + 2] }
        (((t.setVs d.toNat (fun th => (x th).extractLsb' 0 32) t.w.actingThreads).setVs (d.toNat + 1)
          (fun th => (x th).extractLsb' 32 32) t.w.actingThreads).setVs (d.toNat + 2) (fun th => (x th).extractLsb' 64 32) t.w.actingThreads)) ∧
        ∀ th, ∀ i < 96, (x th).getLsbD i = (if 24 * sel.toNat ≤ i ∧ i < 24 * sel.toNat + 24
          then (t.vreg a.toNat th).getLsbD (8 * ((i - 24 * sel.toNat) / 6) + (i - 24 * sel.toNat) % 6)
          else (t.vreg (d.toNat + 2) th ++ t.vreg (d.toNat + 1) th ++ t.vreg d.toNat th).getLsbD i)) ∧
    (Issues { covered := true, srcV := [(a.toNat, ea), (a.toNat + 1, ea), (a.toNat + 2, ea)], dstV := [d.toNat] } s t →
      s.w.rangeHitsPort a.toNat 3 = false →
      exec (.vunpk6 d a sel ea) s = .next (finish { covered := true, srcV := [(a.toNat, ea), (a.toNat + 1, ea), (a.toNat + 2, ea)], dstV := [d.toNat] }
        (t.setVs d.toNat (fun th =>
          let g := ((t.vreg (a.toNat + 2) th ++ t.vreg (a.toNat + 1) th ++ t.vreg a.toNat th).extractLsb' (24 * sel.toNat) 24)
          0#2 ++ g.extractLsb' 18 6 ++ 0#2 ++ g.extractLsb' 12 6 ++ 0#2 ++ g.extractLsb' 6 6 ++ 0#2 ++ g.extractLsb' 0 6) t.w.actingThreads)))

/-- A transcendental word joins its quarter's unit and empties its destination (R17, R148, R191). -/
def Obligations.Transcendentals : Prop :=
  (∀ p ∈ ([(Instr.vrcp, 0), (Instr.vrsq, 1), (Instr.vsqrt, 2), (Instr.vexp2, 3), (Instr.vlog2, 4), (Instr.vsin, 5), (Instr.vcos, 6),
      (Instr.vtanh, 7)] : List ((BitVec 7 → BitVec 7 → Bool → Instr) × Nat)),
    ∀ (s t : State) (d a : BitVec 7) (ea : Bool), Issues { useV1 d a ea with late := true } s t →
      (t.w.acting = 0 → exec (p.1 d a ea) s = .next (finish (useV1 d a ea) t)) ∧
      (t.w.acting ≠ 0 → ∃ t', exec (p.1 d a ea) s = .next t' ∧ t'.w.a.pos = t.w.a.pos.advance 1 ∧
        look [] (t'.core t.w.core).trans t.w.quarter = look [] (t.core t.w.core).trans t.w.quarter ++
          [{ wave := t.focus, seq := t.w.seq, fn := p.2, d := d.toNat, mode := t.w.rmode,
             operand := t.w.actingThreads.map (fun th => (th, t.vreg a.toNat th)), word := t.w.a.pos.pc, inst := t.w.inst, started := false }] ∧
        t'.w.a.emptyV.getLsbD d.toNat = true)) ∧
  ∀ (s : State) (quarter : Nat) (op : TransOp) (rest : List TransOp),
    look [] (s.core (quarter / 4)).trans (quarter % 4) = op :: rest → op.started = false →
    ∃ t, exec (.transcendentalStart quarter) s = .next t ∧
      look [] (t.core (quarter / 4)).trans (quarter % 4) = { op with started := true } :: rest ∧ t.w = s.w ∧ t.mem = s.mem

/-- Scalar loads and stores make one access of their bytes at the offset in sa, or trap by the first check of R84 that fails (R84, R117, R179,
R197). -/
def Obligations.ScalarMemory : Prop :=
  (∀ p ∈ ([(Instr.sldb, 1, false), (Instr.sldh, 2, false), (Instr.sldw, 4, false), (Instr.sldd, 8, false), (Instr.sldbs, 1, true),
      (Instr.sldhs, 2, true), (Instr.sldws, 4, true)] : List ((BitVec 7 → BitVec 7 → BitVec 6 → Bool → Bool → Instr) × Nat × Bool)),
    ∀ (s t' : State) (d o : BitVec 7) (h : BitVec 6) (byp ea : Bool) (hd : Handle) (places : List Place),
      let u : Use := { srcS := [(o.toNat, ea)], dstS := [d.toNat], late := true }
      let m : MemWord := {
        handle := h.toNat, byp := byp, kind := .load, n := p.2.1, align := p.2.1, op := .loadS d.toNat p.2.1 p.2.2,
        offs := [(64, (s.sreg o.toNat).toNat)], dstS := [d.toNat] }
      Issues u s s → Accesses m s s t' hd places → exec (p.1 d o h byp ea) s = .next (finish u (accessed m t' hd places))) ∧
  (∀ p ∈ ([(Instr.sstb, 1), (Instr.ssth, 2), (Instr.sstw, 4), (Instr.sstd, 8)] :
      List ((BitVec 7 → BitVec 7 → BitVec 6 → Bool → Bool → Bool → Instr) × Nat)),
    ∀ (s t' : State) (d o : BitVec 7) (h : BitVec 6) (byp ed ea : Bool) (hd : Handle) (places : List Place),
      let u : Use := { srcS := [(o.toNat, ea), (d.toNat, ed)] }
      let m : MemWord := {
        handle := h.toNat, byp := byp, kind := .store, n := p.2, align := p.2, op := .store,
        offs := [(64, (s.sreg o.toNat).toNat)], data := fun _ => bytesOfNat (s.sreg d.toNat).toNat p.2 }
      Issues u s s → Accesses m s s t' hd places → exec (p.1 d o h byp ed ea) s = .next (finish u (accessed m t' hd places))) ∧
  (∀ p ∈ ([(Instr.sldb, 1), (Instr.sldh, 2), (Instr.sldw, 4), (Instr.sldd, 8), (Instr.sldbs, 1), (Instr.sldhs, 2), (Instr.sldws, 4)] :
      List ((BitVec 7 → BitVec 7 → BitVec 6 → Bool → Bool → Instr) × Nat)),
    ∀ (s : State) (d o : BitVec 7) (h : BitVec 6) (byp ea : Bool), refusedOf s s.w.core < 64 → s.w.writePending = false →
      Issues { srcS := [(o.toNat, ea)], dstS := [d.toNat], late := true } s s →
      (s.w.env.handle h.toNat = none → exec (p.1 d o h byp ea) s =
        .next (takeTrap { trapHere s Cause.handle 0 0 with access := Access.read } s)) ∧
      (∀ hd, s.w.env.handle h.toNat = some hd → hd.space = 0 →
        let t := fun cause => Host.Outcome.next (takeTrap
          { trapHere s cause 0 0 with access := Access.read, va := hd.base + BitVec.ofNat 64 (s.sreg o.toNat).toNat } s)
        (hd.rd = false → exec (p.1 d o h byp ea) s = t Cause.permission) ∧
        (hd.rd = true → s.w.txn = none → (s.sreg o.toNat).toNat % p.2 ≠ 0 → exec (p.1 d o h byp ea) s = t Cause.misaligned) ∧
        (hd.rd = true → s.w.txn = none → (s.sreg o.toNat).toNat % p.2 = 0 → hd.limit < (s.sreg o.toNat).toNat + p.2 - 1 →
          exec (p.1 d o h byp ea) s = t Cause.bounds))) ∧
  ∀ p ∈ ([(Instr.sstb, 1), (Instr.ssth, 2), (Instr.sstw, 4), (Instr.sstd, 8)] :
      List ((BitVec 7 → BitVec 7 → BitVec 6 → Bool → Bool → Bool → Instr) × Nat)),
    ∀ (s : State) (d o : BitVec 7) (h : BitVec 6) (byp ed ea : Bool), refusedOf s s.w.core < 64 →
      Issues { srcS := [(o.toNat, ea), (d.toNat, ed)] } s s →
      (s.w.env.handle h.toNat = none → exec (p.1 d o h byp ed ea) s =
        .next (takeTrap { trapHere s Cause.handle 0 0 with access := Access.write } s)) ∧
      (∀ hd, s.w.env.handle h.toNat = some hd → hd.space = 0 →
        let t := fun cause => Host.Outcome.next (takeTrap
          { trapHere s cause 0 0 with access := Access.write, va := hd.base + BitVec.ofNat 64 (s.sreg o.toNat).toNat } s)
        (hd.wr = false → exec (p.1 d o h byp ed ea) s = t Cause.permission) ∧
        (hd.wr = true → s.w.txn = none → (s.sreg o.toNat).toNat % p.2 ≠ 0 → exec (p.1 d o h byp ed ea) s = t Cause.misaligned) ∧
        (hd.wr = true → s.w.txn = none → (s.sreg o.toNat).toNat % p.2 = 0 → hd.limit < (s.sreg o.toNat).toNat + p.2 - 1 →
          exec (p.1 d o h byp ed ea) s = t Cause.bounds))

/-- Vector loads and stores make one access with a part for each acting thread (R84, R117, R197, R198, R199, R200). -/
def Obligations.VectorMemory : Prop :=
  (∀ p ∈ ([(Instr.vldb, 1, false), (Instr.vldh, 2, false), (Instr.vldw, 4, false), (Instr.vldd, 8, false), (Instr.vldq, 16, false),
      (Instr.vldbs, 1, true), (Instr.vldhs, 2, true)] : List ((BitVec 7 → BitVec 7 → BitVec 6 → Bool → Bool → Instr) × Nat × Bool)),
    ∀ (s t t' : State) (d o : BitVec 7) (h : BitVec 6) (byp ea : Bool) (hd : Handle) (places : List Place),
      let k := (p.2.1 + 3) / 4
      let u : Use := { covered := true, srcV := [(o.toNat, ea)], dstV := regsFrom d k, late := true }
      let m : MemWord := {
        handle := h.toNat, byp := byp, kind := .load, n := p.2.1, align := p.2.1, op := .loadV d.toNat p.2.1 p.2.2,
        offs := t.w.actingThreads.map (fun th => (th, (t.vreg o.toNat th).toNat)), dstV := regsFrom d k }
      badGroup s d k = false → Issues u s t →
        (t.w.actingThreads = [] → exec (p.1 d o h byp ea) s = .next (finish { u with late := false } t)) ∧
        (Accesses m s t t' hd places → exec (p.1 d o h byp ea) s = .next (finish u (accessed m t' hd places)))) ∧
  (∀ p ∈ ([(Instr.vstb, 1), (Instr.vsth, 2), (Instr.vstw, 4), (Instr.vstd, 8), (Instr.vstq, 16)] :
      List ((BitVec 7 → BitVec 7 → BitVec 6 → Bool → Bool → Bool → Instr) × Nat)),
    ∀ (s t t' : State) (d o : BitVec 7) (h : BitVec 6) (byp ed ea : Bool) (hd : Handle) (places : List Place),
      let k := (p.2 + 3) / 4
      let u : Use := { covered := true, srcV := (o.toNat, ea) :: (regsFrom d k).map (fun r => (r, ed)) }
      let m : MemWord := {
        handle := h.toNat, byp := byp, kind := .store, n := p.2, align := p.2, op := .store,
        offs := t.w.actingThreads.map (fun th => (th, (t.vreg o.toNat th).toNat)), data := vectorData t d k p.2 }
      badGroup s d k = false → Issues u s t →
        (t.w.actingThreads = [] → exec (p.1 d o h byp ed ea) s = .next (finish u t)) ∧
        (Accesses m s t t' hd places → exec (p.1 d o h byp ed ea) s = .next (finish u (accessed m t' hd places)))) ∧
  ∀ (s t t' : State) (d o : BitVec 7) (h : BitVec 6) (byp ed ea : Bool) (hd : Handle) (places : List Place),
    let k := lineRegs s
    let offs := (t.w.actingThreads.map (fun th => (th, (t.vreg o.toNat th).toNat))).take 1
    badGroup s d k = false →
    (let u : Use := { covered := true, srcV := [(o.toNat, ea)], dstV := regsFrom d k, late := true }
      let m : MemWord := {
        handle := h.toNat, byp := byp, kind := .load, n := 128, align := 128, op := .loadL d.toNat, offs := offs,
        line := true, dstV := regsFrom d k }
      Issues u s t → Accesses m s t t' hd places → exec (.vldl d o h byp ea) s = .next (finish u (accessed m t' hd places))) ∧
    (let u : Use := { covered := true, srcV := (o.toNat, ea) :: (regsFrom d k).map (fun r => (r, ed)) }
      let m : MemWord := {
        handle := h.toNat, byp := byp, kind := .store, n := 128, align := 128, op := .store, offs := offs,
        data := fun th => (regsFrom d k).flatMap (fun r => bytesOfNat (t.vreg r th).toNat 4), line := true }
      Issues u s t → Accesses m s t t' hd places → exec (.vstl d o h byp ed ea) s = .next (finish u (accessed m t' hd places)))

/-- Returning atomics and reductions make one access; the new values are those of Table 10.7 and R208, the floating sums rounded once (R84,
R205, R206, R208). -/
def Obligations.Atomics : Prop :=
  (∀ p ∈ ([(Instr.aadd, 0), (Instr.amin, 1), (Instr.amax, 2), (Instr.aminu, 3), (Instr.amaxu, 4), (Instr.aand, 5), (Instr.aor, 6),
      (Instr.axor, 7), (Instr.axchg, 8), (Instr.afadd, 10)] : List ((BitVec 7 → BitVec 7 → BitVec 6 → Bool → Bool → BitVec 7 → BitVec 2 → Bool → Bool → Instr) × Nat)),
    ∀ (s t t' : State) (d o : BitVec 7) (h : BitVec 6) (byp ea : Bool) (opnd : BitVec 7) (width : BitVec 2) (scalar eo : Bool)
      (hd : Handle) (places : List Place),
      let k := atomicRegs width scalar
      let n := 4 * 2 ^ width.toNat
      let u : Use := {
        words := 2, late := true, compare := true,
        srcS := if scalar then (o.toNat, ea) :: (regsFrom opnd k).map (fun r => (r, eo)) else [],
        srcV := if scalar then [] else (o.toNat, ea) :: (regsFrom opnd k).map (fun r => (r, eo)),
        dstS := if scalar then regsFrom d k else [], dstV := if scalar then [] else regsFrom d k }
      let data := fun th => if scalar then scalarData t opnd k n else vectorData t opnd k n th
      let m : MemWord := {
        handle := h.toNat, byp := byp, kind := .atomic p.2 width.toNat, n := n, align := n,
        op := .atomic p.2 d.toNat width.toNat scalar,
        offs := if scalar then [(64, (t.sreg o.toNat).toNat)] else t.w.actingThreads.map (fun th => (th, (t.vreg o.toNat th).toNat)),
        data := data, cmp := data, dstV := if scalar then [] else regsFrom d k, dstS := if scalar then regsFrom d k else [] }
      widthOk p.2 width = true → badAtomicReg s width scalar d = false → badAtomicReg s width scalar opnd = false →
      Issues u s t → Accesses m s t t' hd places →
      exec (p.1 d o h byp ea opnd width scalar eo) s = .next (finish u (accessed m t' hd places))) ∧
  (∀ (s t t' : State) (d o : BitVec 7) (h : BitVec 6) (byp ea : Bool) (opnd cmp : BitVec 7) (width : BitVec 2) (scalar eo ec : Bool)
      (hd : Handle) (places : List Place),
      let k := atomicRegs width scalar
      let n := 4 * 2 ^ width.toNat
      let ops := (regsFrom opnd k).map (fun r => (r, eo)) ++ (regsFrom cmp k).map (fun r => (r, ec))
      let u : Use := {
        words := 2, late := true, compare := true,
        srcS := if scalar then (o.toNat, ea) :: ops else [], srcV := if scalar then [] else (o.toNat, ea) :: ops,
        dstS := if scalar then regsFrom d k else [], dstV := if scalar then [] else regsFrom d k }
      let m : MemWord := {
        handle := h.toNat, byp := byp, kind := .atomic 9 width.toNat, n := n, align := n,
        op := .atomic 9 d.toNat width.toNat scalar,
        offs := if scalar then [(64, (t.sreg o.toNat).toNat)] else t.w.actingThreads.map (fun th => (th, (t.vreg o.toNat th).toNat)),
        data := fun th => if scalar then scalarData t opnd k n else vectorData t opnd k n th,
        cmp := fun th => if scalar then scalarData t cmp k n else vectorData t cmp k n th,
        dstV := if scalar then [] else regsFrom d k, dstS := if scalar then regsFrom d k else [] }
      widthOk 9 width = true → badAtomicReg s width scalar d = false → badAtomicReg s width scalar opnd = false →
      badAtomicReg s width scalar cmp = false → Issues u s t → Accesses m s t t' hd places →
      exec (.acas d o h byp ea opnd cmp width scalar eo ec) s = .next (finish u (accessed m t' hd places))) ∧
  (∀ p ∈ ([(Instr.radd, 0, 4), (Instr.rfadd, 1, 4), (Instr.rbfadd, 2, 2), (Instr.rmin, 3, 4), (Instr.rmax, 4, 4), (Instr.rand, 5, 4),
      (Instr.ror, 6, 4), (Instr.rxor, 7, 4)] : List ((BitVec 7 → BitVec 7 → BitVec 6 → Bool → Bool → Bool → Instr) × Nat × Nat)),
    ∀ (s t t' : State) (d o : BitVec 7) (h : BitVec 6) (byp ed ea : Bool) (hd : Handle) (places : List Place),
      let u : Use := { covered := true, srcV := [(o.toNat, ea), (d.toNat, ed)] }
      let m : MemWord := {
        handle := h.toNat, byp := byp, kind := .reduce, n := p.2.2, align := p.2.2, op := .reduce p.2.1,
        offs := t.w.actingThreads.map (fun th => (th, (t.vreg o.toNat th).toNat)), data := vectorData t d 1 p.2.2 }
      Issues u s t → Accesses m s t t' hd places →
      exec (p.1 d o h byp ed ea) s = .next (finish u (accessed m t' hd places))) ∧
  (∀ (n m x cmp : Nat), m < 2 ^ (8 * n) → x < 2 ^ (8 * n) →
    atomicValue 0 n m x cmp = (m + x) % 2 ^ (8 * n) ∧
    atomicValue 1 n m x cmp = (if (BitVec.ofNat (8 * n) x).toInt < (BitVec.ofNat (8 * n) m).toInt then x else m) ∧
    atomicValue 2 n m x cmp = (if (BitVec.ofNat (8 * n) m).toInt < (BitVec.ofNat (8 * n) x).toInt then x else m) ∧
    atomicValue 3 n m x cmp = min m x ∧ atomicValue 4 n m x cmp = max m x ∧ atomicValue 5 n m x cmp = m &&& x ∧
    atomicValue 6 n m x cmp = m ||| x ∧ atomicValue 7 n m x cmp = m ^^^ x ∧ atomicValue 8 n m x cmp = x ∧
    atomicValue 9 n m x cmp = (if m = cmp then x else m)) ∧
  (∀ m x : Nat, m < 2 ^ 32 → x < 2 ^ 32 →
    reduceValue 0 m x = (m + x) % 2 ^ 32 ∧
    reduceValue 3 m x = (if (BitVec.ofNat 32 x).toInt < (BitVec.ofNat 32 m).toInt then x else m) ∧
    reduceValue 4 m x = (if (BitVec.ofNat 32 m).toInt < (BitVec.ofNat 32 x).toInt then x else m) ∧
    reduceValue 5 m x = m &&& x ∧ reduceValue 6 m x = m ||| x ∧ reduceValue 7 m x = m ^^^ x) ∧
  ∀ p ∈ ([(f32, fun m x => atomicValue 10 4 m x 0, 0x7fc00000), (f32, reduceValue 1, 0x7fc00000), (bf16, reduceValue 2, 0x7fc0)] :
      List (Fmt × (Nat → Nat → Nat) × Nat)),
    ∀ m x : Nat,
      (∀ (n n' : Bool) (a a' : Nat) (e e' : Int), p.1.decode m = .fin n a e → p.1.decode x = .fin n' a' e' →
        ∃ fl, RoundedOnce p.1 .rne (valueOf n a e + valueOf n' a' e') (p.2.1 m x, fl)) ∧
      (∀ sg, p.1.decode m = .nan sg ∨ p.1.decode x = .nan sg → p.2.1 m x = p.2.2) ∧
      (∀ n n' : Bool, p.1.decode m = .inf n → p.1.decode x = .inf n' →
        p.2.1 m x = if n = n' then p.1.signed n p.1.infBits else p.2.2) ∧
      (∀ (n n' : Bool) (a : Nat) (e : Int), (p.1.decode m = .inf n ∧ p.1.decode x = .fin n' a e) ∨ (p.1.decode m = .fin n' a e ∧ p.1.decode x = .inf n) →
        p.2.1 m x = p.1.signed n p.1.infBits)

/-- A write performed changes exactly the bytes it stores to (R119, R137, R200, R206, R208). -/
def Obligations.StorePerformed : Prop :=
  ∀ (m : Memory) (e : Elem), e.locs.Nodup → e.data.length = e.locs.length →
    (∀ loc, loc ∉ e.locs → ∀ op, readByte (performElem op m e).1 loc = readByte m loc) ∧
    (∀ i (hi : i < e.locs.length), readByte (performElem .store m e).1 (e.locs[i]'hi) = e.data.getD i 0) ∧
    (∀ fn r w sc i (hi : i < e.locs.length), readByte (performElem (.atomic fn r w sc) m e).1 (e.locs[i]'hi) =
      BitVec.ofNat 8 (atomicValue fn e.locs.length (natOfBytes (readLocs m e.locs)) (natOfBytes e.data) (natOfBytes e.cmp) / 256 ^ i)) ∧
    (∀ fn i (hi : i < e.locs.length), readByte (performElem (.reduce fn) m e).1 (e.locs[i]'hi) =
      BitVec.ofNat 8 (reduceValue fn (natOfBytes (readLocs m e.locs)) (natOfBytes e.data) / 256 ^ i)) ∧
    (∀ op, (performElem op m e).2 = e.locs.map (readByte m)) ∧
    (∀ op, op.writes = false → (performElem op m e).1 = m) ∧
    (∀ op, Memory.wf m = true → Memory.wf (performElem op m e).1 = true) ∧
    ∀ op es, (performElems op m (e :: es)).1 = (performElems op (performElem op m e).1 es).1

/-- The stream and queue words bind, move and unbind the port their operand names, its fetched steps dropped; a reserved element size traps 0x01
first (R102, R103, R105, R154, R201, R202, R203). -/
def Obligations.PortWords : Prop :=
  (∀ (s : State) (d : BitVec 7) (h : BitVec 6) (byp ed : Bool) (hd : Handle),
    let x := s.sreg d.toNat
    let u : Use := { useStream s d ed 3 with illegal := reservedSize s d 59 }
    s.w.env.handle h.toNat = some hd → (if x.getLsbD 61 then hd.wr else hd.rd) = true → Issues u s s →
    exec (.stbind d h byp ed) s = .next (finish u (dropPort (124 + portOf x) (s.onArch (fun a => a.setStream (portOf x) {
      bound := true, dir := x.getLsbD 61, size := x.extractLsb' 59 2, handle := h.setWidth 8, byp := byp, base := x.extractLsb' 0 40,
      tstride := (s.sreg (d.toNat + 1)).extractLsb' 32 32, sstride := s.sreg (d.toNat + 2),
      count := (s.sreg (d.toNat + 1)).extractLsb' 0 32, step := 0 }))))) ∧
  (∀ (s : State) (d : BitVec 7) (ed : Bool),
    let x := s.sreg d.toNat
    let i := portOf x
    let p := s.w.a.stream i
    i = (x.extractLsb' 62 2).toNat ∧ (Issues (useStream s d ed 1) s s →
    (p.bound = false → exec (.stpos d ed) s = raise Cause.unbound 0 0 s ∧ exec (.stset d ed) s = raise Cause.unbound 0 0 s) ∧
    (p.bound = true → p.count.toNat < (x.extractLsb' 0 32).toNat → exec (.stpos d ed) s = raise Cause.bounds 0 0 s) ∧
    (p.bound = true → (x.extractLsb' 0 32).toNat ≤ p.count.toNat → exec (.stpos d ed) s =
      .next (finish (useStream s d ed 1) (dropPort (124 + i) (s.onArch (fun a => a.setStream i { p with step := x.extractLsb' 0 32 }))))) ∧
    (p.bound = true → exec (.stset d ed) s =
      .next (finish (useStream s d ed 1) (dropPort (124 + i) (s.onArch (fun a => a.setStream i { p with base := x.extractLsb' 0 40 }))))) ∧
    exec (.stend d ed) s = .next (finish (useStream s d ed 1) (dropPort (124 + i) (s.onArch (fun a => a.setStream i StreamPort.unbound)))))) ∧
  (∀ (s : State) (d : BitVec 7) (h : BitVec 6) (byp ed : Bool) (hd : Handle),
    let x := s.sreg d.toNat
    let loops := (x.extractLsb' 44 2).toNat + 1
    let q := (x.extractLsb' 40 2).toNat
    let u : Use := { useQueue s d ed 3 with groupS := regsFrom d 6, illegal := reservedSize s d 42 }
    s.w.env.handle h.toNat = some hd → (if q < 2 then hd.rd else hd.wr) = true →
    (∀ j, j < loops - 1 → s.w.emptyScalar (d.toNat + 3 + j) = false) → (2 ≤ q → s.w.storeOcc q = 0) →
    Issues u s s →
    exec (.qbind d h byp ed) s = .next (finish u (dropPort (124 + q) (s.onArch (fun a => a.setQueue q {
      bound := true, handle := h.setWidth 8, byp := byp, group := (List.range (2 + loops)).map (fun j => s.sreg (d.toNat + j)),
      issued := 0, gone := 0 }))))) ∧
  (∀ (s : State) (d : BitVec 7) (h : BitVec 6) (byp ed : Bool), s.w.badS d.toNat = false → s.w.emptyScalar d.toNat = false →
    ((s.sreg d.toNat).extractLsb' 59 2 = 3#2 → exec (.stbind d h byp ed) s = raise Cause.illegal 0 0 s) ∧
    ((s.sreg d.toNat).extractLsb' 42 2 = 3#2 → exec (.qbind d h byp ed) s = raise Cause.illegal 0 0 s)) ∧
  ∀ (s : State) (d : BitVec 7) (ed : Bool),
    let q := (s.sreg d.toNat).toNat % 4
    Issues (useQueue s d ed 1) s s →
    ((s.w.a.queue q).bound = false → exec (.qdrain d ed) s = raise Cause.unbound 0 0 s) ∧
    ((s.w.a.queue q).bound = true → (2 ≤ q → s.w.storeOcc q = 0) →
      exec (.qdrain d ed) s = .next (finish (useQueue s d ed 1) (dropPort (124 + q) (s.onArch (fun a => a.setQueue q QueuePort.unbound)))))

/-- WDIST, WPIN, WUNPIN, WPULL and WHOME act at the tile's home and answer on path ld; with no motion buffer entry WPIN and WPULL are refused
and retried (R87, R92, R93, R94, R96, R204). The model's choice: they wait behind what their core has sent to the home before (log 163), and a
refused WPIN leaves the pin that a tile has (log 162). -/
def Obligations.WhorlWords : Prop :=
  (∀ (u : Use) (d : BitVec 7) (x : W64) (s : State), ∃ t, answerScalar u d x s = .next t ∧
    t.w.producers = s.w.producers ++ [⟨s.w.seq, 0, [.scalar d.toNat x], [], [d.toNat]⟩] ∧
    t.w.flight = s.w.flight ++ [⟨0, s.w.seq, false⟩] ∧ t.w.a.emptyS.getLsbD d.toNat = true ∧ t.w.a.pos = s.w.a.pos.advance u.words ∧
    SameMemory s t) ∧
  (∀ (s s' : State) (d o : BitVec 7) (h : BitVec 6) (ea : Bool) (hd : Handle) (places : List Place),
    let u : Use := { srcS := [(o.toNat, ea)], dstS := [d.toNat], path := some 0 }
    let loc := (places.flatMap (·.locs)).headD 0
    let tile := tileOf loc
    let home := homeWhorl s' (lineOf loc)
    let s1 := if (s'.whorl home).waitPin.isEmpty then s' else startHeldAt home s'
    s.w.env.handle h.toNat = some hd → hd.remote = false → refusedOf s s.w.core < 64 →
    checkAccess s.w (.core s.w.core) h.toNat .place 1 1 [(64, (s.sreg o.toNat).toNat)] s = (s', .ok hd places) →
    (Issues u s s →
      exec (.whome d o h ea) s = answerScalar u d (BitVec.ofNat 64 (hops s'.w.core home * 256 + home)) s' ∧
      (sentBefore s' s'.w.core home = true → exec (.wdist d o h ea) s = .next (s'.holdFor .engine)) ∧
      (sentBefore s' s'.w.core home = false →
        exec (.wdist d o h ea) s = answerScalar u d (wdistWord s' s'.w.core (lineOf loc)) s' ∧
        (∀ t, (s'.whorl home).tileOf tile = some t →
          exec (.wunpin d o h ea) s = if t.scratch then answerScalar u d 2 s'
            else if t.pin.isSome then answerScalar u d 0 (s'.onWhorl home (fun w => w.onTile tile (fun t => { t with pin := none })))
            else answerScalar u d 1 s') ∧
        ((s'.whorl home).tileOf tile = none → exec (.wunpin d o h ea) s = answerScalar u d 1 s') ∧
        (∀ status t, placeAt 0 loc s1.w.core s1.w.env.tag s1 = some (status, t) →
          exec (.wpull d o h ea) s = answerScalar u d (BitVec.ofNat 64 status) t) ∧
        (placeAt 0 loc s1.w.core s1.w.env.tag s1 = none →
          exec (.wpull d o h ea) s = .next (refuseWord u d h hd 0 loc (hd.base + s1.sreg o.toNat) s1)))) ∧
    ∀ ed : Bool,
      let v : Use := { u with srcS := [(o.toNat, ea), (d.toNat, ed)] }
      let c := (s.sreg d.toNat).toNat % 64
      let cls := if c = 0 then hd.pinclass.toNat else c
      Issues v s s → s'.w.env.handle h.toNat = some hd →
      ((c = 0 ∧ hd.policy ≠ 2#2) ∨ 46 ≤ c → exec (.wpin d o h ed ea) s = raise Cause.bounds 0 0 s') ∧
      ((c = 0 → hd.policy = 2#2) → c < 46 → sentBefore s' s'.w.core home = false →
        (hd.space = 1 ∨ hd.space = 2 → exec (.wpin d o h ed ea) s = answerScalar v d 0 s') ∧
        (hd.space ≠ 1 → hd.space ≠ 2 →
          (∀ status t, placeAt cls loc s1.w.core s1.w.env.tag s1 = some (status, t) →
            exec (.wpin d o h ed ea) s = answerScalar v d (BitVec.ofNat 64 status) t) ∧
          (placeAt cls loc s1.w.core s1.w.env.tag s1 = none →
            exec (.wpin d o h ed ea) s = .next (refuseWord v d h hd cls loc (hd.base + s1.sreg o.toNat) s1))))) ∧
  ∀ (loc core : Nat) (tag : BitVec 8) (s : State),
    let home := homeWhorl s (lineOf loc)
    let x := s.whorl home
    let tile := tileOf loc
    let stamped := fun (s : State) => { s with stamp := s.stamp + 1 }
    ((x.tileOf tile).isSome = true → x.wouldMove tile = false → placeAt 0 loc core tag s = some (1, s)) ∧
    ((x.tileOf tile).isSome = true → x.wouldMove tile = true → x.room = true →
      placeAt 0 loc core tag s = some (0, stamped (touchTile home tile core s))) ∧
    ((x.tileOf tile).isSome = false → x.room = true →
      placeAt 0 loc core tag s = some (2, stamped (s.onWhorl home (fun w => w.allocate (sectorOf loc) core s.cycle s.stamp)))) ∧
    ((x.tileOf tile).isSome = false ∨ x.wouldMove tile = true → x.room = false → placeAt 0 loc core tag s = none) ∧
    ∀ c, c ≠ 0 →
      let t := if x.pinMoves tile c then moveTile loc core s else s
      (x.pinStatus tile c ≠ 0 → placeAt c loc core tag s = some (x.pinStatus tile c, s)) ∧
      (x.pinStatus tile c = 0 → (x.pinMoves tile c = true → x.room = true) →
        placeAt c loc core tag s = some (0, stamped (t.onWhorl home (fun w => w.setPin tile c tag t.stamp)))) ∧
      (x.pinStatus tile c = 0 → x.pinMoves tile c = true → x.room = false → placeAt c loc core tag s = none)

/-- TBEGIN opens a transaction, TEND commits it whole, TABORT aborts it, TTEST names its threads (R134, R135, R136, R209, R210). The model's
choice: threads that lose a conflict count as one abort of the transaction (log 50). -/
def Obligations.Transactions : Prop :=
  (∀ (s : State) (d a : BitVec 7) (ea : Bool), Issues { srcS := [(a.toNat, ea)], dstS := [d.toNat] } s s → s.w.speculative = false →
    (s.w.txn = none → ∃ t x, exec (.tbegin d a ea) s = .next t ∧ t.w.txn = some x ∧ x.threads = s.w.a.exec ∧
      x.sole = (s.sreg a.toNat).getLsbD 0 ∧ x.sd = d.toNat ∧ x.snap = t.w.a ∧ x.reads = [] ∧ x.accs = [] ∧ x.mode = s.w.mode ∧ t.sreg d.toNat = 0 ∧
      t.w.mode = (if (s.sreg a.toNat).getLsbD 0 then 2#2 else s.w.mode) ∧ t.w.a.pos = s.w.a.pos.advance 1 ∧ SameMemory s t) ∧
    (s.w.txn.isSome = true → exec (.tbegin d a ea) s = .next (deliverTrap ⟨Cause.txn, 0, false, 0, s.w.inst, s.w.a.pos.pc, 0, 0, 0, 0, false⟩ s))) ∧
  (∀ s : State, Issues {} s s → s.w.txn = none → exec .tend s = raise Cause.txn 0 0 s) ∧
  (∀ (s s1 s2 : State) (x : Txn), Issues {} s s → s.w.txn = some x → s.w.speculative = false → s.w.pair = none → s.w.pairOk ≠ 2#2 → guardHolds s s.w = false →
    let xs := x.winning (x.losers s.w.width)
    let lines := commitLines xs
    lockLines lines (if x.sole then lines.foldl (fun s l => grantHold (homeWhorl s l) s) s else s) = (s1, true) →
    (∀ l ∈ lines, (s1.whorl (homeWhorl s1 l)).busy.any (fun b => b.1 == l) = false) → commitAll xs s1 = some (s2, none) →
    let done := (unlockCommit lines s2).onWave (fun w => { w with txn := none, txAborts := 0 })
    (x.losers s.w.width = 0 → exec .tend s = .next (releaseCheckpoint done.focus (finish {} done))) ∧
    (x.losers s.w.width ≠ 0 → exec .tend s = .next (releaseCheckpoint done.focus (done.onWave (fun w => { w with
      a := restoreLosers x (x.losers s.w.width) w, txCode := 1, txAborts := 1, seq := w.seq + 1, pairOk := 0 }))))) ∧
  (∀ (w : Wave) (x : Txn) (losers : W64), (restoreLosers x losers w).exec = losers ∧ (restoreLosers x losers w).pos = x.snap.pos ∧
    (restoreLosers x losers w).getS x.sd = losers ∧ ∀ r, r ≠ x.sd → (restoreLosers x losers w).getS r = x.snap.getS r) ∧
  (∀ (s : State) (a : BitVec 7) (ea : Bool), Issues { srcS := [(a.toNat, ea)] } s s →
    exec (.tabort a ea) s = if s.w.txn.isSome then
        .next ((abortTxn s.focus 4#3 s).onWave (fun w => { w with txUser := (s.sreg a.toNat).extractLsb' 0 8 }))
      else raise Cause.txn 0 0 s) ∧
  ∀ (s : State) (d : BitVec 7), Issues { dstS := [d.toNat] } s s → exec (.ttest d) s = .next (finish { dstS := [d.toNat] }
    (s.setS d.toNat (match s.w.txn with | some x => x.threads | none => 0)))

/-- Arriving at a barrier gives its token; a wait goes on once its phase has ended (R173, R175, R176, R177). -/
def Obligations.Barriers : Prop :=
  (∀ (s s' : State) (r cnt : BitVec 7) (id : BitVec 5) (core ea : Bool) (phase : Nat),
    let team := barrierTeam s s.w
    let inst := instanceOf s.w id core
    let u : Use := { srcS := [(cnt.toNat, ea)], dstS := [r.toNat] }
    let ui : Use := { srcS := [(cnt.toNat, ea)] }
    id.toNat < s.w.barriers → arrive id core (s.sreg cnt.toNat) s = .ok s' phase → barrierStuck s' team inst = false →
    (Issues { u with irrevocable := true } s s →
      exec (.bara r id cnt core ea) s = .next (finish u (s'.setS r.toNat (tokenOf (levelOf s'.w core) id phase))) ∧
      (let s'' := s'.setS r.toNat (tokenOf (levelOf s'.w core) id phase)
       let team' := barrierTeam s' s'.w
       let inst' := instanceOf s'.w id core
       let waits := s'.blockFor (.barrier inst' (BitVec.ofNat 32 phase))
       ((barrierAt s' team' inst').unended (BitVec.ofNat 32 phase) = false → exec (.baraw r id cnt core ea) s = .next (finish u s'')) ∧
       ((barrierAt s' team' inst').unended (BitVec.ofNat 32 phase) = true → barrierStuck waits team' inst' = false →
        exec (.baraw r id cnt core ea) s = .next (waits.setS r.toNat (tokenOf (levelOf s'.w core) id phase))))) ∧
    (Issues { ui with irrevocable := true } s s → exec (.bari id cnt core ea) s = .next (finish ui s'))) ∧
  (∀ (s : State) (id : BitVec 5) (tok : BitVec 7) (core ea : Bool), Issues { srcS := [(tok.toNat, ea)] } s s →
    (s.w.barriers ≤ id.toNat → exec (.barw id tok core ea) s = raise Cause.barrier 0 0 s) ∧
    (id.toNat < s.w.barriers → (∃ phase, s.sreg tok.toNat = tokenOf (levelOf s.w core) id phase) →
      otherLevel s s.w (barrierTeam s s.w) id (levelOf s.w core) = false →
      let inst := instanceOf s.w id core
      let phase := (s.sreg tok.toNat).extractLsb' 0 32
      let ahead := phase - BitVec.ofNat 32 (barrierAt s (barrierTeam s s.w) inst).ended
      let waits := s.blockFor (.barrier inst phase)
      (ahead.msb = true → exec (.barw id tok core ea) s = .next (finish { srcS := [(tok.toNat, ea)] } s)) ∧
      (ahead.msb = false → ahead.toNat < 4 → barrierStuck waits (barrierTeam s s.w) inst = false →
        exec (.barw id tok core ea) s = .next waits))) ∧
  (∀ (s : State) (r : BitVec 7) (id : BitVec 5) (cnt : BitVec 7) (core ea : Bool), s.w.barriers ≤ id.toNat →
    (Issues { srcS := [(cnt.toNat, ea)], irrevocable := true } s s → exec (.bari id cnt core ea) s = raise Cause.barrier 0 0 s) ∧
    (Issues { srcS := [(cnt.toNat, ea)], dstS := [r.toNat], irrevocable := true } s s →
      exec (.bara r id cnt core ea) s = raise Cause.barrier 0 0 s ∧ exec (.baraw r id cnt core ea) s = raise Cause.barrier 0 0 s)) ∧
  ∀ (s : State) (k inst : Nat) (phase : BitVec 32), (s.wave k).hold = .barrier inst phase →
    (barrierAt s (barrierTeam s (s.wave k)) inst).unended phase = false → (s.wave k).halted = false → (s.wave k).station ≠ .saved →
    exec (.barrierWaitComplete k) s = .next ((advance 1 0 (s.focusOn k)).focusOn s.focus)

/-- A token holds its level, barrier id and phase number as Table 8.5 lays them out (R174). -/
def Obligations.BarrierToken : Prop :=
  (∀ (level : Bool) (id : BitVec 5) (phase : Nat),
    (tokenOf level id phase).extractLsb' 38 26 = 0 ∧ (tokenOf level id phase).getLsbD 37 = level ∧
    (tokenOf level id phase).extractLsb' 32 5 = id ∧ ((tokenOf level id phase).extractLsb' 0 32).toNat = phase % 2 ^ 32) ∧
  tokenOf false 3#5 0 = 0x300000000#64

/-- A Spindle word whose ranges pass joins its core's vertical queue and raises cnt.cp; a full queue stalls it; one that copies nothing is
complete at issue (R35, R42, R211, R212, R213, R214). The model's choice: a bad window handle of gchk traps 0x05 before the other checks
(log 82). -/
def Obligations.SpindleWords : Prop :=
  (∀ p ∈ ([(fun d a n ed ea en g c => Instr.cpy d a n ed ea en g c, 0, true), (fun d a n ed ea en g c => Instr.cpy2d d a n ed ea en g c, 1, true),
      (fun d _ n ed _ en g c => Instr.cpyz d n ed en g c, 5, false)] :
      List ((BitVec 7 → BitVec 7 → BitVec 7 → Bool → Bool → Bool → BitVec 6 → Bool → Instr) × Nat × Bool)),
    ∀ (s s' : State) (sd ss sn : BitVec 7) (ed es en : Bool) (gh : BitVec 6) (gchk : Bool),
      let u : Use := {
        words := 2, async := true, path := some 2,
        srcS := (sd.toNat, ed) :: ((if p.2.2 then [(ss.toNat, es)] else []) ++ (sn.toNat, en) :: (if gchk then [(sn.toNat + 1, en)] else [])) }
      let dst := s.sreg sd.toNat
      let src := if p.2.2 then s.sreg ss.toNat else 0
      let n := s.sreg sn.toNat
      let window := if gchk then some gh.toNat else none
      let srcs := if p.2.2 then [ptrHandle src] else []
      let ranges := srcs.map (fun h => ⟨h, .load, 0, 0⟩) ++ [⟨ptrHandle dst, .store, 0, 0⟩] ++
        (linearPieces p.2.1 dst src [n]).flatMap (fun q =>
          (match q.src with | some (h, o) => [⟨h, .load, o, q.len⟩] | none => []) ++ [⟨q.dst.1, .store, q.dst.2, q.len⟩])
      Issues u s s →
      (windowCause s.w window ≠ none → exec (p.1 sd ss sn ed es en gh gchk) s = raiseAccess Cause.handle 0 0 0 s) ∧
      (checkRanges s.w (.core s.w.core) (permitCause s.w) [windowCause s.w window]
          [if p.2.1 = 1 ∧ (ptrStride dst % 16 ≠ 0 ∨ ptrStride src % 16 ≠ 0) then some Cause.misaligned else none,
           if (p.2.1 = 1 ∧ 65535 < n.toNat / 2 ^ 32) ∨ (p.2.1 ≠ 1 ∧ 2 ^ 32 - 1 < n.toNat) then some Cause.bounds else none] true ranges s =
          .ok s' → guardHoldsCopy s' (ptrHandle dst) srcs = false →
        let zero := (linearPieces p.2.1 dst src [n]).all (fun q => q.len == 0)
        (zero = true → exec (p.1 sd ss sn ed es en gh gchk) s = .next (finish u s')) ∧
        (zero = false → (s'.core s'.w.core).spindle.length < 32 → exec (p.1 sd ss sn ed es en gh gchk) s =
          .next (finish u ((raiseCount 2 s').onCore s'.w.core (fun x => { x with spindle := x.spindle ++ [{
            wave := s'.focus, seq := s'.w.seq, fn := p.2.1, gchk := window, iw := false, esz := 0, dst := dst, src := src,
            params := n :: (if gchk then [s.sreg (sn.toNat + 1)] else []), env := s'.w.env,
            addr := s'.w.a.pos.pc, inst := s'.w.inst, started := false, progress := 0, samples := [],
            asked := false, index := none, got := none, sent := false }] })))) ∧
        (zero = false → 32 ≤ (s'.core s'.w.core).spindle.length → exec (p.1 sd ss sn ed es en gh gchk) s = .next (s'.holdFor .engine)))) ∧
  (∀ (scatter : Bool) (s s' : State) (sd ss sn : BitVec 7) (ed es en : Bool) (gh : BitVec 6) (gchk iw : Bool) (esz : BitVec 2),
    let i := if scatter then Instr.cpys sd ss sn ed es en gh gchk iw esz else Instr.cpyg sd ss sn ed es en gh gchk iw esz
    let u : Use := {
      words := 2, async := true, path := some 2,
      srcS := [(sd.toNat, ed), (ss.toNat, es), (sn.toNat, en), (sn.toNat + 1, en)] ++ (if gchk then [(sn.toNat + 2, en)] else []) }
    let dst := s.sreg sd.toNat
    let src := s.sreg ss.toNat
    let ix := s.sreg sn.toNat
    let count := (s.sreg (sn.toNat + 1)).toNat % 2 ^ 32
    let window := if gchk then some gh.toNat else none
    let e := elementSize esz
    let width := if iw then 8 else 4
    let ranges : List Range := [⟨ptrHandle ix, .load, 0, 0⟩, ⟨ptrHandle src, .load, 0, 0⟩, ⟨ptrHandle dst, .store, 0, 0⟩,
      ⟨ptrHandle ix, .load, ptrOffset ix, count * width⟩,
      if scatter then ⟨ptrHandle src, .load, ptrOffset src, count * e⟩ else ⟨ptrHandle dst, .store, ptrOffset dst, count * e⟩]
    Issues u s s →
    checkRanges s.w (.core s.w.core) (permitCause s.w) [windowCause s.w window]
      [if ptrStride dst % 16 != 0 || ptrStride src % 16 != 0 || ptrOffset dst % min e 16 != 0 || ptrOffset src % min e 16 != 0 ||
        ptrOffset ix % width != 0 then some Cause.misaligned else none] true ranges s = .ok s' →
    guardHoldsCopy s' (ptrHandle dst) [ptrHandle src, ptrHandle ix] = false →
    (count = 0 → exec i s = .next (finish u s')) ∧
    (count ≠ 0 → 32 ≤ (s'.core s'.w.core).spindle.length → exec i s = .next (s'.holdFor .engine)) ∧
    (count ≠ 0 → (s'.core s'.w.core).spindle.length < 32 → exec i s = .next (finish u ((raiseCount 2 s').onCore s'.w.core (fun x => { x with spindle := x.spindle ++ [{
      wave := s'.focus, seq := s'.w.seq, fn := if scatter then 3 else 2, gchk := window, iw := iw, esz := esz,
      dst := dst, src := src, params := [ix, BitVec.ofNat 64 count] ++ (if gchk then [s.sreg (sn.toNat + 2)] else []), env := s'.w.env,
      addr := s'.w.a.pos.pc, inst := s'.w.inst, started := false, progress := 0, samples := [],
      asked := false, index := none, got := none, sent := false }] }))))) ∧
  ∀ (s s' : State) (sd ss : BitVec 7) (ed es : Bool),
    let u : Use := { words := 2, async := true, path := some 2, srcS := [(sd.toNat, ed), (ss.toNat, es)] }
    let dst := s.sreg sd.toNat
    let src := s.sreg ss.toNat
    let h := ptrHandle src
    Issues u s s →
    ((s.w.env.handle h).any (fun x => x.space == 0) = false → exec (.slbmv sd ss ed es) s = raiseAccess Cause.handle 0 0 0 s) ∧
    ((s.w.env.handle h).any (fun x => x.space == 0) = true →
      checkRanges s.w (.core s.w.core) (permitCause s.w) [none]
        [if ptrOffset src % 64 != 0 || dst.toNat % 65536 != 0 then some Cause.misaligned else none] true
        [⟨h, .load, ptrOffset src, 64⟩, ⟨h, .store, ptrOffset src, 64⟩] s = .ok s' →
      guardHoldsCopy s' h [h] = false →
      (32 ≤ (s'.core s'.w.core).spindle.length → exec (.slbmv sd ss ed es) s = .next (s'.holdFor .engine)) ∧
      ((s'.core s'.w.core).spindle.length < 32 → exec (.slbmv sd ss ed es) s = .next (finish u ((raiseCount 2 s').onCore s'.w.core (fun x => { x with spindle := x.spindle ++ [{
        wave := s'.focus, seq := s'.w.seq, fn := 4, gchk := none, iw := false, esz := 0, dst := dst, src := src, params := [],
        env := s'.w.env, addr := s'.w.a.pos.pc, inst := s'.w.inst, started := false, progress := 0, samples := [],
        asked := false, index := none, got := none, sent := false }] })))))

/-- FENCE, FENCEI and FENCEH complete when Table 10.10's conditions hold; SLBXL and SLBRD answer on path ld (R108, R109, R215, R216, R217). -/
def Obligations.Fences : Prop :=
  (∀ s : State, Issues {} s s →
    (s.w.speculative = false → s.w.count 1 = 0 → s.w.count 6 = 0 → exec .fence s = .next (finish {} s)) ∧
    (s.w.speculative = true ∨ s.w.count 1 ≠ 0 ∨ s.w.count 6 ≠ 0 → exec .fence s = .next (s.holdFor .fence)) ∧
    (s.w.count 1 = 0 → ∃ t, exec .fencei s = .next t ∧ t.w.a.pos = s.w.a.pos.advance 1 ∧ SameMemory s t ∧
      ∀ e ∈ (t.core s.w.core).fetched, ¬ (fetchKey s.w.env.tag s.w.env.code ≤ e.1 ∧
        e.1 < fetchKey s.w.env.tag s.w.env.code + s.w.env.length.toNat)) ∧
    (s.w.count 1 ≠ 0 → exec .fencei s = .next (s.holdFor .fence))) ∧
  (∀ s : State, Issues { irrevocable := true, path := some 6 } s s →
    ((∀ p ∈ s.w.producers, p.seq ≠ s.w.seq) → exec .fenceh s = .next (((raiseCount 6 s).onWave (fun w => { w with
      producers := w.producers ++ [⟨s.w.seq, 6, [], [], []⟩] })).holdFor .fence)) ∧
    ((∃ p ∈ s.w.producers, p.seq = s.w.seq) → exec .fenceh s = .next (s.holdFor .fence))) ∧
  (∀ (s s' : State) (sd so : BitVec 7) (h rh : BitVec 6) (ea : Bool) (hd r : Handle) (locs : List Nat),
    let u : Use := { words := 2, srcS := [(so.toNat, ea)], dstS := [sd.toNat, sd.toNat + 1], path := some 0, late := true }
    let desc := slabBits s' locs
    let x := slabSample hd.base desc
    let o := (s'.sreg so.toNat).toNat
    let va := slabVa hd x (slabBound desc) o
    sd.getLsbD 0 = false → Issues u s s → s.w.env.handle h.toNat = some hd → hd.space = 6 →
    s.w.env.handle rh.toNat = some r → r.space = 0 →
    translateBytes s (.core s.w.core) s.w.env.tag hd.base 64 Access.read = (s', .inl locs) → s'.w.env.handle rh.toNat = some r →
    slabReserved desc = false → slabInRange hd x o = true →
    r.base.toNat ≤ va.toNat → va.toNat ≤ r.base.toNat + r.limit → s'.w.speculative = false →
    poisonVa s' (fun _ _ => false) [⟨64, hd.base, locs, [], [], [], []⟩] = none →
    exec (.slbxl sd so h ea rh) s = .next (answerLater u 0 [.scalar sd.toNat (rh.setWidth 8 ++ 0#16 ++ (va - r.base).setWidth 40),
      .scalar (sd.toNat + 1) (x.gen.setWidth 64)] [] [sd.toNat, sd.toNat + 1] s')) ∧
  ∀ (s s' : State) (sd : BitVec 7) (h : BitVec 6) (sel : BitVec 3) (hd : Handle) (locs : List Nat),
    let u : Use := { words := 2, dstS := [sd.toNat], path := some 0, late := true }
    Issues u s s → s.w.env.handle h.toNat = some hd → hd.space = 6 →
    translateBytes s (.core s.w.core) s.w.env.tag hd.base 64 Access.read = (s', .inl locs) →
    (slabReserved (slabBits s' locs) = true → exec (.slbrd sd h sel) s = raise Cause.handle 0 0 s') ∧
    (slabReserved (slabBits s' locs) = false → s'.w.writePending = true → exec (.slbrd sd h sel) s = .next (s'.holdFor .engine)) ∧
    (slabReserved (slabBits s' locs) = false → s'.w.writePending = false → ∃ t x, exec (.slbrd sd h sel) s = .next t ∧ t.w.a.pos = s'.w.a.pos.advance 2 ∧ t.w.accesses.getLast? = some x ∧
      x.op = .loadS sd.toNat 8 false ∧ x.elems.map (·.locs) = [(locs.drop (8 * sel.toNat)).take 8] ∧ SameMemory s' t)

/-- A matrix word whose operands pass enters its wave's queue and raises cnt.mx (R35, R218, R221, R222, R224, R230). -/
def Obligations.MatrixWords : Prop :=
  (∀ (u : Use) (op : MatrixOp) (s : State), u.dstV = [] →
    (8 ≤ s.w.matrix.length → enterMatrix u op s = .next (s.holdFor .engine)) ∧
    (s.w.matrix.length < 8 → ∃ t, enterMatrix u op s = .next t ∧ t.w.matrix = s.w.matrix ++ [op] ∧
      t.w.flight = s.w.flight ++ [⟨3, s.w.seq, false⟩] ∧ t.w.a.pos = s.w.a.pos.advance u.words ∧
      SameMemory s t ∧ t.w.a.s = s.w.a.s ∧ ∀ r, r ∉ op.undef → ∀ th < 64, t.vreg r th = s.vreg r th)) ∧
  (∀ (zero : Bool) (s s' : State) (vacc sA sB : BitVec 7) (keep ea eb : Bool) (aslot bslot : BitVec 3) (asb bsb : BitVec 7) (sel : BitVec 2)
      (soft half : Bool) (obase : BitVec 7),
    let i := if zero then Instr.mmaz vacc sA sB keep ea eb aslot bslot asb bsb sel soft half obase
      else Instr.mma vacc sA sB keep ea eb aslot bslot asb bsb sel soft half obase
    let n := 1024 / s.w.width
    let acc := regRange vacc.toNat n
    let outs := if soft then regRange obase.toNat (2 * n) else []
    let scales := scaleRegs s.w aslot.toNat bslot.toNat asb.toNat bsb.toNat
    let u : Use := { words := 2, async := true, path := some 3, srcS := [(sA.toNat, ea), (sB.toNat, eb)], oldV := acc ++ outs, groupV := scales }
    slotsOk s.w aslot.toNat bslot.toNat soft = true → (∀ r ∈ acc ++ outs ++ scales, s.w.isPort r = false) → (∀ r ∈ acc, r ∉ outs) →
    Issues u s s → operandCheck s [(s.sreg sA.toNat, 16, 96), (s.sreg sB.toNat, 64, 96)] = .ok s' →
    exec i s = enterMatrix u { MatrixOp.plain s' (.mma zero false) with
      vacc := vacc.toNat, aPtr := s.sreg sA.toNat, bPtr := s.sreg sB.toNat, keep := keep, aslot := aslot.toNat, bslot := bslot.toNat,
      asb := asb.toNat, bsb := bsb.toNat, sel := sel.toNat, soft := soft, half := if half then 1 else 0, obase := obase.toNat,
      undef := (acc ++ outs ++ scales).eraseDups, scales := scales.filter (fun r => !(acc ++ outs).contains r) } s') ∧
  (∀ (zero : Bool) (s s' : State) (vacc sB : BitVec 7) (keep eb : Bool) (bslot : BitVec 3) (half : Bool),
    let i := if zero then Instr.mmacz vacc sB keep eb bslot half else Instr.mmac vacc sB keep eb bslot half
    let acc := regRange vacc.toNat (1024 / s.w.width)
    let desc := s.w.slotDesc bslot.toNat
    let u : Use := { words := 2, async := true, path := some 3, srcS := [(sB.toNat, eb)], oldV := acc }
    slotReserved desc = false → s.w.slotElement bslot.toNat = .t6 → slotScaled desc = true → (∀ r ∈ acc, s.w.isPort r = false) →
    Issues u s s → operandCheck s [(s.sreg sB.toNat, 128, 100)] = .ok s' →
    exec i s = enterMatrix u { MatrixOp.plain s' (.mma zero true) with
      vacc := vacc.toNat, bPtr := s.sreg sB.toNat, keep := keep, bslot := bslot.toNat, half := if half then 1 else 0, undef := acc } s') ∧
  (∀ s : State, Issues { async := true, path := some 3 } s s →
    exec .mstz s = enterMatrix { async := true, path := some 3 } (MatrixOp.plain s .mstz) s) ∧
  (∀ (s : State) (d : BitVec 7), (∀ r ∈ regRange d.toNat 3, s.w.isPort r = false) →
    Issues { async := true, path := some 3, oldV := regRange d.toNat 3 } s s →
    exec (.mstrd d) s = enterMatrix { async := true, path := some 3, oldV := regRange d.toNat 3 }
      { MatrixOp.plain s .mstrd with vacc := d.toNat, undef := regRange d.toNat 3 } s) ∧
  (∀ (s : State) (a : BitVec 7) (ea : Bool), (∀ r ∈ regRange a.toNat 3, s.w.isPort r = false) →
    Issues { async := true, path := some 3, srcV := (regRange a.toNat 3).map (fun r => (r, ea)) } s s →
    exec (.mstwr a ea) s = enterMatrix { async := true, path := some 3, srcV := (regRange a.toNat 3).map (fun r => (r, ea)) }
      { MatrixOp.plain s .mstwr with
        srcs := (List.range 3).flatMap (fun i => (List.range 16).map (fun t => (64 * i + t, s.vreg (a.toNat + i) t))) } s) ∧
  ∀ (s : State) (d : BitVec 7),
    let rs := regRange d.toNat (2048 / s.w.width)
    (∀ r ∈ rs, s.w.isPort r = false) → Issues { async := true, path := some 3, oldV := rs } s s →
    exec (.mnorm d) s = enterMatrix { async := true, path := some 3, oldV := rs }
      { MatrixOp.plain s .mnorm with vacc := d.toNat, undef := rs } s

/-- WATT, WATTD, CRDS, CRDR, DMRD and DMCLR start their operation once their checks pass (R231, R234, R237, R239, R240). -/
def Obligations.AttentionWords : Prop :=
  (∀ (dirty : Bool) (s : State) (vq vo sp : BitVec 7) (ea eb : Bool) (nq : BitVec 3) (sx sq : BitVec 7) (eq : Bool) (h : Handle),
    let i := if dirty then Instr.wattd vq vo sp ea eb nq sx sq eq else Instr.watt vq vo sp ea eb nq
    let n := nq.toNat + 1
    let queries := regRange vq.toNat (4 * n)
    let outs := attnOutputs vo.toNat n
    let u : Use := {
      words := 2, async := true, path := some 4, srcV := queries.map (fun r => (r, ea)),
      srcS := [(sp.toNat, eb), (sp.toNat + 1, eb)] ++ (if dirty then [(sq.toNat, eq)] else []), oldV := outs,
      oldS := if dirty then [sx.toNat] else [] }
    (∀ r ∈ queries ++ outs, s.w.isPort r = false) → Issues u s s →
    (dirty = true → owns s s.w.env.tag ((s.sreg sq.toNat).setWidth 32) = true) →
    s.w.env.handle (ptrHandle (s.sreg sp.toNat)) = some h → h.space = 6 → h.rd = true →
    (4 ≤ s.w.attending → exec i s = .next (s.holdFor .engine)) ∧
    (s.w.attending < 4 → ∃ t op, exec i s = .next t ∧ t.w.attn = s.w.attn ++ [op] ∧ op.dirty = dirty ∧ op.nq = n ∧
      op.vo = vo.toNat ∧ op.ptr = s.sreg sp.toNat ∧ op.range = s.sreg (sp.toNat + 1) ∧ op.whorls = [] ∧ op.formed = [] ∧ op.partials = [] ∧
      op.queries = (List.range n).map (fun j => queryOf s (vq.toNat + 4 * j)) ∧
      (∀ r ∈ outs, r < 128 → t.w.a.emptyV.getLsbD r = true) ∧ t.w.a.pos = s.w.a.pos.advance 2 ∧ SameMemory s t)) ∧
  (∀ (s s' : State) (d a b : BitVec 7) (ea eb ed : Bool),
    let u : Use := {
      words := 2, irrevocable := true, path := some 5,
      srcS := [(d.toNat, ed), (a.toNat, ea), (b.toNat, eb), (b.toNat + 1, eb)] }
    let id := (s.sreg d.toNat).setWidth 32
    Issues u s s →
    (owns s s.w.env.tag id = false ∨ seqMode s (seqSlot id) ≠ 2 →
      exec (.crds d a b ea eb ed) s = raiseAccess Cause.sequence 0 0 0 s) ∧
    (roundCheck s id (s.sreg a.toNat) (s.sreg b.toNat) (s.sreg (b.toNat + 1)) = .ok s' → guardHolds s' s'.w = false →
      exec (.crds d a b ea eb ed) s = .next (finish u
        (askCarder true id (s.sreg a.toNat) (s.sreg b.toNat) (s.sreg (b.toNat + 1)) 0 (raiseCount 5 s'))))) ∧
  (∀ (s s' : State) (d a b : BitVec 7) (ea eb : Bool),
    let u : Use := { words := 2, async := true, path := some 5, srcS := [(a.toNat, ea), (b.toNat, eb)], oldV := regRange d.toNat 3 }
    let ptr := s.sreg a.toNat
    let off := ptrOffset ptr + 16 * ((s.sreg b.toNat).extractLsb' 0 32).toNat
    (∀ r ∈ regRange d.toNat 3, s.w.isPort r = false) → Issues u s s →
    checkRanges s.w (.core s.w.core) (permitCause s.w) [] [] false [⟨ptrHandle ptr, .load, off, 144⟩] s = .ok s' →
    exec (.crdr d a b ea eb) s = .next (finish u ((askCarder false 0 ptr (s.sreg b.toNat) 0 d.toNat (raiseCount 5 s')).onArch
      (fun x => x.emptyVs (regRange d.toNat 3))))) ∧
  (∀ (s : State) (round : Bool) (id : W32) (ptr p0 p1 : W64) (d : Nat),
    let f := floorOf s.w.core
    carderQueue (askCarder round id ptr p0 p1 d s) f = carderQueue s f ++ [{
      wave := s.focus, seq := s.w.seq, round := round, seqId := id, ptr := ptr, param0 := p0, param1 := p1, d := d, env := s.w.env,
      addr := s.w.a.pos.pc, entry := [], samples := [] }]) ∧
  (∀ (s : State) (d a b : BitVec 7) (ea eb : Bool) (g : BitVec 5),
    let u : Use := { words := 2, path := some 0, srcS := [(a.toNat, ea), (b.toNat, eb)], dstS := [d.toNat], late := true }
    let id := (s.sreg a.toNat).setWidth 32
    let p := ((s.sreg b.toNat).extractLsb' 0 32).toNat
    Issues u s s → owns s s.w.env.tag id = true → p % 64 = 0 →
    (seqLength s (seqSlot id) ≤ p → exec (.dmrd d a b ea eb g) s = .next (finish { u with late := false } (s.setS d.toNat 0))) ∧
    (p < seqLength s (seqSlot id) → refusedOf s s.w.core < 64 → s.w.writePending = false → ∀ s' places,
      placeAll (.core s.w.core) s.w.env.tag Access.read 4 (fun o => seqDirty s (seqSlot id) + BitVec.ofNat 64 o)
        (((List.range 64).filter (fun i => p + i < seqLength s (seqSlot id))).map (fun i => (i, 4 * (p + i)))) s = (s', places, []) →
      let x := (makeAccess s' 0 plainHandle noHandle false (.dmrd d.toNat g.toNat)
        (places.map (fun q => (⟨q.thread, q.va, q.locs, [], [], [], []⟩ : Elem)))).asLoad s' plainHandle
      (addAccess x (raiseCount 0 s')).w.overCapacity = false →
      exec (.dmrd d a b ea eb g) s = .next (finish u ((nearTouched x (addAccess x (raiseCount 0 s'))).onArch (fun r => r.emptySs [d.toNat]))) ∧
        x.elems.map (·.locs) = places.map (·.locs))) ∧
  ∀ (s : State) (d a b : BitVec 7) (ea eb ed : Bool) (g : BitVec 5),
    let u : Use := { words := 2, path := some 1, srcS := [(d.toNat, ed), (a.toNat, ea), (b.toNat, eb)] }
    let id := (s.sreg a.toNat).setWidth 32
    let p := ((s.sreg b.toNat).extractLsb' 0 32).toNat
    let is := (List.range 64).filter (fun i => p + i < seqLength s (seqSlot id) && (s.sreg d.toNat).getLsbD i)
    Issues u s s → owns s s.w.env.tag id = true → p % 64 = 0 →
    (is = [] → exec (.dmclr d a b ea eb ed g) s = .next (finish u s)) ∧
    (is ≠ [] → refusedOf s s.w.core < 64 → ∀ s' places,
      placeAll (.core s.w.core) s.w.env.tag Access.atom 4 (fun o => seqDirty s (seqSlot id) + BitVec.ofNat 64 o)
        (is.map (fun i => (i, 4 * (p + i)))) s = (s', places, []) →
      (addAccess (makeAccess s' 1 plainHandle noHandle false (.reduce 5) (places.map (fun q => (⟨q.thread, q.va, q.locs,
        bytesOfNat (~~~(1#32 <<< g.toNat)).toNat 4, [], [], []⟩ : Elem)))) (raiseCount 1 s')).w.overCapacity = false →
      ∃ t x, exec (.dmclr d a b ea eb ed g) s = .next t ∧ t.w.accesses.getLast? = some x ∧ x.op = .reduce 5 ∧
        x.elems.map (fun e => (e.locs, e.data)) = places.map (fun q => (q.locs, bytesOfNat (~~~(1#32 <<< g.toNat)).toNat 4)) ∧
        t.w.a.pos = s'.w.a.pos.advance 2 ∧ SameMemory s' t)

/-- STEPQ and SEQRD ask the Distaff; TOKC writes the token and moves the commit position on (R242, R243, R244, R245). -/
def Obligations.SequenceWords : Prop :=
  (∀ (s : State) (d a : BitVec 7) (ea : Bool),
    let u : Use := { async := true, path := some 7, srcS := [(a.toNat, ea)], oldS := regRange d.toNat 4 }
    d.toNat % 4 = 0 → Issues u s s →
    (s.w.env.stepptr = 0 → exec (.stepq d a ea) s = raise Cause.handle 0 0 s) ∧
    (s.w.env.stepptr ≠ 0 → ∃ t, exec (.stepq d a ea) s = .next t ∧
      t.distaff = s.distaff ++ [⟨s.focus, s.w.seq, true, d.toNat, s.sreg a.toNat, 0, s.w.a.pos.pc, s.w.inst, t.w.a⟩] ∧
      t.w.flight = s.w.flight ++ [⟨7, s.w.seq, false⟩] ∧ (∀ r ∈ regRange d.toNat 4, t.w.a.emptyS.getLsbD r = true) ∧
      t.w.a.pos = s.w.a.pos.advance 1 ∧ SameMemory s t)) ∧
  (∀ (s : State) (d a b : BitVec 7) (ea eb : Bool),
    let u : Use := { async := true, path := some 7, srcS := [(a.toNat, ea), (b.toNat, eb)], oldS := [d.toNat] }
    let id := (s.sreg a.toNat).setWidth 32
    Issues u s s →
    (owns s s.w.env.tag id = false → exec (.seqrd d a b ea eb) s = raise Cause.sequence 0 0 s) ∧
    (owns s s.w.env.tag id = true → ∃ t, exec (.seqrd d a b ea eb) s = .next t ∧
      t.distaff = s.distaff ++ [⟨s.focus, s.w.seq, false, d.toNat, s.sreg b.toNat, id, s.w.a.pos.pc, s.w.inst, t.w.a⟩] ∧
      t.w.flight = s.w.flight ++ [⟨7, s.w.seq, false⟩] ∧ t.w.a.emptyS.getLsbD d.toNat = true ∧
      t.w.a.pos = s.w.a.pos.advance 1 ∧ SameMemory s t)) ∧
  (∀ (s s' : State) (a b : BitVec 7) (ea eb : Bool) (locs : List Nat),
    let u : Use := { irrevocable := true, path := some 7, srcS := [(a.toNat, ea), (b.toNat, eb)] }
    let id := (s.sreg a.toNat).setWidth 32
    let slot := seqSlot id
    Issues u s s →
    (owns s s.w.env.tag id = false → exec (.tokc a b ea eb) s = raise Cause.sequence 0 0 s) ∧
    (owns s s.w.env.tag id = true → seqMode s slot ≠ 2 → (seqStepc s slot).toNat < 64 → guardHolds s s.w = false →
      translateBytes s (.core s.w.core) s.w.env.tag (seqTokens s slot + 4 * (seqCommit s slot).setWidth 64) 4 Access.write = (s', .inl locs) →
      (homeFree s' (seqLoc s slot 10 :: locs) = false → exec (.tokc a b ea eb) s = .next (s'.holdFor .engine)) ∧
      (homeFree s' (seqLoc s slot 10 :: locs) = true → ∃ t, exec (.tokc a b ea eb) s = .next t ∧ t.w.a.pos = s'.w.a.pos.advance 1 ∧
        (Memory.wf s'.mem = true → seqLoc s' slot 10 + 8 ≤ 2 ^ 64 → (∀ i < 8, tierDown s' (seqLoc s' slot 10 + i) = false) →
          seqWord t slot 10 = (seqStepc s slot + 1) ++ (seqCommit s slot + 1))))) ∧
  ∀ (s s' : State) (k : Nat) (r : DistaffReq) (words : List W64) (parts : List Elem),
    s.distaff.find? (fun r => r.wave == k) = some r → guardOpen s k r.seq = true →
    distaffWords (s.wave k) r s = (s', .ok words parts) →
    poisonVa (checkLocs (parts.flatMap (·.locs)) { s' with distaff := s'.distaff.erase r }) (fun _ _ => false) parts = none →
    ∃ t, exec (.distaffRead k) s = .next t ∧ t.distaff = s'.distaff.erase r ∧ SameMemory s' t ∧
      (t.wave k).producers = (s'.wave k).producers ++
        [⟨r.seq, 7, words.zipIdx.map (fun x => .scalar (r.d + x.2) x.1), [], regRange r.d words.length⟩]

/-- TLBINV, GRDSET, SNAPCT and DBGRD do their work in a supervisor launch alone; HALT retires the wave (R39, R180, R264, R273, R286). The
model's choice: SNAPCT finds its launch by the context in [63:56] and the id in [31:0] (log 78); a scalar register that the read wave does not
own has a free value (log 77); the time that passes before a read of clock or nanotime is free (log 4). -/
def Obligations.SupervisorWords : Prop :=
  (∀ (s : State) (rs : BitVec 7) (tag slot : BitVec 8) (kind : BitVec 2) (sel : BitVec 12) (ea : Bool), s.w.a.pos.residue.left = 0 →
    s.w.env.sup = false → (sprValue s s.w sel.toNat).isSome = true ∨ 0x100 ≤ sel.toNat →
    ∀ i ∈ [Instr.tlbinv rs tag kind ea, .grdset rs slot ea, .snapct rs kind ea, .dbgrd rs sel ea],
      exec i s = raise Cause.privileged 0 0 s) ∧
  (∀ (s : State) (rs : BitVec 7) (tag : BitVec 8) (kind : BitVec 2) (ea : Bool),
    Issues { srcS := [(rs.toNat, ea)], supervisor := true, irrevocable := true, path := some 6 } s s → guardHolds s s.w = false →
    ∃ t, exec (.tlbinv rs tag kind ea) s = .next t ∧
      t.tlb = s.tlb.filter (fun e => !invalidates kind tag (s.sreg rs.toNat) e) ∧
      t.walkCache = s.walkCache.filter (fun e => !e.removed kind tag (s.sreg rs.toNat)) ∧ t.w.flight = s.w.flight ++ [⟨6, s.w.seq, false⟩] ∧
      t.tlbinvs = s.tlbinvs ++ [⟨s.focus, s.w.seq, translatedBy kind tag (s.sreg rs.toNat) s⟩] ∧ t.w.a.pos = s.w.a.pos.advance 1 ∧
      SameMemory s t) ∧
  (∀ (s : State) (rs : BitVec 7) (slot : BitVec 8) (ea : Bool),
    let u : Use := { srcS := [(rs.toNat, ea)], supervisor := true, irrevocable := true, path := some 6 }
    Issues u s s → guardHolds s s.w = false →
    exec (.grdset rs slot ea) s = .next (finish u (noteIrreplaceable s.w.launch
      (resolveGuard ((s.sreg rs.toNat).extractLsb' 56 8) slot ((s.sreg rs.toNat).getLsbD 0) (countDone 6 s))))) ∧
  (∀ (s : State) (rs : BitVec 7) (kind : BitVec 2) (ea : Bool),
    let u : Use := {
      srcS := [(rs.toNat, ea)], dstS := if kind = 2#2 then [rs.toNat] else [], supervisor := true, irrevocable := true, path := some 6 }
    let k := launchNamed s ((s.sreg rs.toNat).extractLsb' 56 8) ((s.sreg rs.toNat).setWidth 32)
    let s1 := countDone 6 s
    Issues u s s → guardHolds s s.w = false →
    (kind = 0 → exec (.snapct rs kind ea) s = .next (finish u (noteIrreplaceable s.w.launch (match k with
      | some k => { s1 with launches := change (fun l => { l with snaps := [] }) s1.launches k }
      | none => s1)))) ∧
    (kind = 1 → exec (.snapct rs kind ea) s = .next (finish u (noteIrreplaceable s.w.launch (match k with
      | some k => restoreSnapshots [k] s1
      | none => s1)))) ∧
    (kind = 2 → exec (.snapct rs kind ea) s = .next (finish u (noteIrreplaceable s.w.launch (s1.setS rs.toNat (BitVec.ofNat 64
      (match k.bind (find s1.launches) with | some l => l.snaps.length | none => 0))))))) ∧
  (∀ (s : State) (rs : BitVec 7) (sel : BitVec 12) (ea : Bool),
    let u : Use := { srcS := [(rs.toNat, ea)], dstS := [rs.toNat], supervisor := true, irrevocable := true, path := some 6 }
    let x := s.sreg rs.toNat
    let slot := (x.extractLsb' 11 4).toNat
    let s1 := countDone 6 s
    let w := s1.wave (waveKey (x.extractLsb' 0 9).toNat (x.extractLsb' 9 2).toNat slot)
    (sel.toNat < 0x100 → (sprValue s s.w sel.toNat).isSome = true) → Issues u s s → guardHolds s s.w = false →
    (12 ≤ slot ∨ w.station = .vacant → exec (.dbgrd rs sel ea) s = .next (finish u (noteIrreplaceable s.w.launch (s1.setS rs.toNat 0)))) ∧
    (slot < 12 → w.station ≠ .vacant →
      let s' := if sel.toNat = 0x030 ∨ sel.toNat = 0x031 then advanceNanotime s1 else s1
      exec (.dbgrd rs sel ea) s = .next (finish u (noteIrreplaceable s.w.launch
        { s'.setS rs.toNat (debugValue s' w sel.toNat) with free := s'.free + 2 })))) ∧
  (∀ (s : State) (k : Nat) (i : Invalidation), s.tlbinvs.find? (fun i => i.wave == k) = some i → (∀ x ∈ i.waits, outstanding s x = false) →
    exec (.tlbinvComplete k) s = .next (State.landFor k 6 i.seq { s with tlbinvs := s.tlbinvs.erase i })) ∧
  ∀ s : State, Issues { irrevocable := true, both := true } s s →
    ((∀ p < 8, s.w.count p = 0) → exec .halt s = .next (retireWave s)) ∧
    (∀ p < 8, s.w.count p ≠ 0 → exec .halt s = .next (s.blockFor (.counters 0xff 0)))

/-- A quarter's steps: slots granted and promoted for, transcendental results, sleepers, engines fetching ahead (R36, R76, R102, R105, R170, R191). -/
def Obligations.QuarterSteps : Prop :=
  (∀ (s : State) (q k : Nat) (w : Wave),
    (slotFree s q q = true → chooseWave s q false = some (k, w) → exec (.slotArbitration q) s = .next (grantSlot false k s)) ∧
    ((slotFree s q q = false ∨ chooseWave s q false = none) → slotFree s q (scalarSlot q) = true → chooseWave s q true = some (k, w) →
      exec (.slotArbitration q) s = .next (grantSlot true k s)) ∧
    ∀ scalar, look 0 (grantSlot scalar k s).holders (if scalar then scalarSlot (s.wave k).quarterId else (s.wave k).quarterId) =
        (s.wave k).slot + 1 ∧
      ((grantSlot scalar k s).wave k).ran = 0 ∧ ((grantSlot scalar k s).wave k).rest = false ∧ SameMemory s (grantSlot scalar k s)) ∧
  (∀ (s : State) (k : Nat), (s.wave k).ready s (s.wave k).quarterId = true → (s.wave k).promoted = false →
    ∃ t, exec (.starvationPromotion k) s = .next t ∧ t.wave k = { s.wave k with promoted := true } ∧ SameMemory s t ∧
      t = (s.reachClock (s.wave k).core ((s.wave k).lastIssue + 2048)).setWave k { s.wave k with promoted := true }) ∧
  (∀ (s : State) (q : Nat) (op : TransOp) (rest : List TransOp), transQueue s q = op :: rest → op.started = true →
    let s1 := (setTrans q rest s).focusOn op.wave
    let results := op.operand.map (fun x => (x.1, transcendental op.fn (Rounding.ofBits op.mode) x.2))
    let fs := results.map (fun r => (r.1, r.2.2))
    let f := fun (a : Arch) => ((results.foldl (fun (a : Arch) r => a.setV op.d r.1 r.2.1) a).fillVs [op.d]).addFlags fs
    let s2 := { s1 with w := (s1.w.late op.seq [op.d] s1.free f).fillPortStores op.seq, free := s1.free + lateSpan }
    let enabled := allRaised fs &&& s2.w.fte
    (enabled = 0 → exec (.transcendentalResult q) s = .next (s2.focusOn s.focus)) ∧
    (enabled ≠ 0 → exec (.transcendentalResult q) s =
      .next ((postTrap op.seq enabled (raisedBy s2.w.fte fs) op.inst s2).focusOn s.focus))) ∧
  (∀ (s : State) (q : Nat) (op : TransOp) (rest : List TransOp), transQueue s q = op :: rest → op.started = true →
    op.wave = s.focus → s.w.fte = 0 → op.d ∉ s.w.undefRegs → op.d < 128 → (∀ x ∈ op.operand, x.1 < 64) → (op.operand.map (·.1)).Nodup →
    ∃ t, exec (.transcendentalResult q) s = .next t ∧ transQueue t q = rest ∧ t.w.a.emptyV.getLsbD op.d = false ∧
      (∀ x ∈ op.operand, t.vreg op.d x.1 = (transcendental op.fn (Rounding.ofBits op.mode) x.2).1) ∧ SameMemory s t) ∧
  (∀ (s : State) (k : Nat), (s.wave k).station = .asleep → ∃ t, exec (.sleepDeadline k) s = .next t ∧
    t.wave k = { s.wave k with station := .live, hold := .none, deadline := 0 } ∧ (s.wave k).deadline.toNat ≤ t.nanotime.toNat ∧ SameMemory s t) ∧
  (∀ (s : State) (k i : Nat), (s.wave k).station = .live →
    ((s.wave k).ports = 1 → i < 4 → ((s.wave k).a.stream i).bound = true → ((s.wave k).a.stream i).dir = false →
      exec (.streamPrefetch k i) s = .next (fetchNext k (124 + i) 8 ((s.wave k).a.stream i).count.toNat s)) ∧
    ((s.wave k).ports = 2 → i < 2 → ((s.wave k).a.queue i).bound = true →
      exec (.queueFetch k i) s = .next (fetchNext k (124 + i) 16 ((s.wave k).a.queue i).total s))) ∧
  ∀ (s s' : State) (k r ahead total : Nat) (h : Handle) (places : List Place),
    let n := (s.wave k).nextStep r
    let p := (s.wave k).stepAt r n
    (s.wave k).fetchOf r n = none → (s.wave k).arrived r = none → 0 < ahead → n < total → (s.wave k).env.handle p.handle = some h →
    mayFetch s (s.wave k) h p.handle = true → (s.wave k).count (if h.remote then 6 else 0) < 65535 → refusedOf s (s.wave k).core < 64 →
    stepPlaces (s.wave k) p p.offs s = (s', places, false) →
    ((fetchNext k r ahead total s).wave k).aside.getLast?.map (fun x => (x.op, x.elems.map (·.locs))) =
      some (.fetch r n, places.map (·.locs)) ∧ SameMemory s' (fetchNext k r ahead total s)

/-- The steps of an access: leaving, acceptance, retry, fill, data return and retirement (R87, R95, R98, R105, R119, R123, R125, R148, R309,
R319). -/
def Obligations.AccessSteps : Prop :=
  (∀ (s s' : State) (k : Nat) (x : Access), (s.wave k).leaving = some x → routedBack x = false →
    (x.queue = none → unsendable s x = false → leaveBuffer k x s = some s' → exec (.storeBufferLeave k) s = .next s') ∧
    (∀ q, x.queue = some q → (s.wave k).count x.path < 65535 →
      leaveBuffer k x (s.setWave k { s.wave k with flight := (s.wave k).flight ++ [⟨x.path, x.seq, false⟩] }) = some s' →
      exec (.storeQueueDrain k q) s = .next s')) ∧
  (∀ (s s' : State) (k : Nat) (x : Access), (s.wave k).pair = none → x.space ≠ 4 → x.space ≠ 5 → x.op.isAtomic = false →
    beforeWrite (s.wave k).launch x.handle x.space.toNat (x.elems.flatMap (·.locs)) s = some s' →
    ∃ t, leaveBuffer k x s = some t ∧ (t.wave k).flight = (s'.wave k).flight ∧ (t.wave k).accesses = (match (s'.wave k).accesses with
      | [] => []
      | y :: ys => { y with
          left := true, reqs := y.reqs.map (fun r => { r with phase := .sent, arrived := s'.cycle }) } :: ys) ∧ SameMemory s' t) ∧
  (∀ (s s1 s2 s3 : State) (i : Nat) (errors : List (Nat × SectorError)) (taken taken' taken'' : List Nat) (late skipped rest : List Want),
    let met := evictDue i ((errors.filter (fun e => homeWhorl s (e.1 / 4) == i)).foldl (fun s e => errorArises e s) s)
    unblocked met i = [] → wantsAt met i ≠ [] →
    let wants := (wantsAt met i).mergeSort Want.before
    let s0 := wants.foldl (fun (s : State) w =>
      s.onWhorl i (fun h => { h with asked := put 0 h.asked w.core (look 0 h.asked w.core + 1) })) (grantHold i met)
    acceptAll i false (wants.filter (·.urgent)) [] [] s0 = (s1, taken, late) →
    acceptAll i true (wants.filter (fun w => !w.urgent)) taken [] (startHeldAt i s1) = (s2, taken', skipped) →
    acceptAll i false skipped taken' [] s2 = (s3, taken'', rest) →
    exec (.frontRequestAccept (i, errors)) s = .next ((late ++ rest).foldl (fun s w => refuse w.wave w.seq w.line 0 0 s) s3)) ∧
  (∀ (i : Nat) (capped : Bool) (ws : List Want) (taken : List Nat) (skipped : List Want) (s : State), taken.length ≤ 16 →
    (acceptAll i capped ws taken skipped s).2.1.length ≤ 16) ∧
  (∀ (s : State) (k seq line : Nat), exec (.retryTimerExpiry k seq line) s =
    .next (s.onAccess k seq (Access.onReq line .refused (fun r => { r with phase := .sent, arrived := s.cycle, lost := false })))) ∧
  (∀ (s : State) (i sector : Nat) (bad : List Nat), (s.whorl i).fills.any (fun f => f.sector == sector) = true →
    let s1 := (refill sector s).onWhorl i (fun h =>
      { h.onTile (sector / 64) (fun t => { t with present := t.present ||| (1#64 <<< (sector % 64)) }) with
        fills := h.fills.filter (fun f => f.sector != sector) })
    let s2 := ((bad ++ s1.damage).filter (fun e => e / 2 == sector)).foldl (fun s e =>
      { poisonSector e s with damage := s.damage.filter (· != e) }) s1
    exec (.fillComplete i (sector, bad)) s =
      .next (((waitingIn s2 .filling (· == sector / 2)).filter (filled s2 i)).foldl (fun s w => serveLine w.wave w.seq w.line s) s2) ∧
    (s2.whorl i).fills.any (fun f => f.sector == sector) = false ∧
    ∀ x, (s2.whorl i).tileOf (sector / 64) = some x → x.present.getLsbD (sector % 64) = true) ∧
  (∀ (s : State) (k id : Nat) (p : Producer), (s.wave k).producers.find? (fun p => p.seq == id && p.path != 6) = some p →
    let w := (s.wave k).late id p.vregs s.free (fun a => ((p.writes.foldl Arch.write a).fillVs p.vregs).fillSs p.sregs)
    exec (.loadDataReturn k id) s = .next
      { s.setWave k ({ w with producers := w.producers.filter (fun q => q.seq != id) }.land p.path id) with free := s.free + lateSpan }) ∧
  (∀ (s : State) (k id : Nat) (x : Access), (s.wave k).producers.find? (fun p => p.seq == id && p.path != 6) = none →
    (s.wave k).awaited id = some x →
    let s1 := match x.nextLine with | some r => lineArrives k x r s | none => s
    (∀ y, (s1.wave k).awaited id = some y → y.arrived = true → exec (.loadDataReturn k id) s = .next (deliverAccess k y s1)) ∧
    ((∀ y, (s1.wave k).awaited id = some y → y.arrived = false) → exec (.loadDataReturn k id) s = .next s1)) ∧
  (∀ (s : State) (k : Nat) (x : Access) (r : Req),
    let s1 := s.onAccess k x.seq (fun y => if y == x then { y with reqs := y.reqs.map (fun q => if q == r then { q with here := true } else q) } else y)
    (x.byp = true ∨ x.homed = false ∨ r.byp = true ∨ r.lost = true → lineArrives k x r s = s1) ∧
    (x.byp = false → x.homed = true → r.byp = false → r.lost = false →
      lineArrives k x r s = allocateNear (s1.wave k).core r.line s1 ∧
      ((lineArrives k x r s).core (s1.wave k).core).near.head? = some r.line)) ∧
  (∀ (s : State) (seq r n : Nat) (signed : Bool) (x : Access) (e : Elem), s.w.producers.find? (fun p => p.seq == seq && p.path != 6) = none →
    s.w.awaited seq = some x → x.arrived = true → x.op = .loadS r n signed → x.elems = [e] → 0 < n → r < 128 →
    ∃ t, exec (.loadDataReturn s.focus seq) s = .next t ∧ t.sreg r = extendBytes e.bytes signed ∧ t.w.a.emptyS.getLsbD r = false ∧
      SameMemory s t) ∧
  ∀ (s : State) (k : Nat) (x : Access) (rest : List Access), (s.wave k).accesses = x :: rest → x.retirable = true →
    let s' := if x.op.writes then s else noteAccess (s.wave k).launch x.handle x.space.toNat false s
    (x.poisoned = none → exec (.accessRetire k) s = .next (retireOldest k s')) ∧
    (∀ va, x.poisoned = some va → (s.wave k).txn.isSome = true → exec (.accessRetire k) s = .next (abortTxn k 6 s')) ∧
    (∀ va, x.poisoned = some va → (s.wave k).txn = none → exec (.accessRetire k) s =
      .next (stopAfter k x.seq x.snap (x.trap Cause.poison va) s') ∧
      stopAfter k x.seq x.snap (x.trap Cause.poison va) s' = stopWave k (x.trap Cause.poison va)
        ((discardAfter k x.seq s').setWave k { (discardAfter k x.seq s').wave k with a := x.snap, accesses := [] }))

/-- Invalidations, acknowledgements, notices, the host's snoops and its reads and writes of device memory (R119, R120, R126, R254, R300, R303, R304, R329). -/
def Obligations.CoherenceSteps : Prop :=
  (∀ (s : State) (c line : Nat),
    (firstIn s c line false = true → exec (.invalidationArrival c line) s = .next (loseLine c line false (s.onCore c (fun x => { x with
      inbox := x.inbox.erase (line, false), near := x.near.filter (· != line)
      out := if x.notices.contains line then x.out else x.out ++ [(line, false, s.cycle)] })))) ∧
    (∀ sent, firstOut s c line false = some sent → exec (.acknowledgement c line) s =
      .next (countAck c line (s.onCore c (fun x => { x with out := x.out.erase (line, false, sent) })))) ∧
    (∀ sent, firstOut s c line true = some sent → (∀ w ∈ wantsAt s (homeWhorl s line), w.core ≠ c ∨ sent < w.arrived) →
      let s' := s.onCore c (fun x => { x with out := x.out.erase (line, true, sent), inbox := x.inbox ++ [(line, true)] })
      exec (.evictionNotice c line) s = .next
        (if (find (s'.whorl (homeWhorl s line)).busy line).any (fun owed => owed.contains c) then countAck c line s'
         else s'.onWhorl (homeWhorl s line) (fun h =>
          if (dirEntry h line).coarse then h
          else setDir line { dirEntry h line with sharers := (dirEntry h line).sharers.erase c } h))) ∧
    (firstIn s c line true = true → exec (.noticeCompletion c line) s =
      .next (s.onCore c (fun x => { x with inbox := x.inbox.erase (line, true), notices := x.notices.erase line })))) ∧
  (∀ (s : State) (line : Nat) (data : List (BitVec 8)) (poisoned : Bool), isHostLine line = true →
    let home := homeWhorl s line
    let s1 := s.onWhorl home (fun h => { h with
      owned := h.owned.erase line, snooped := if h.snooped.contains line then h.snooped else h.snooped ++ [line] })
    let cells := cellsAt (128 * line) (data.take 128)
    let s2 := invalidateNow line s1
    (snoopBlocked s line = true → exec (.hostSnoop line (data, poisoned)) s = .next (park (.hostSnoop line (data, poisoned)) s)) ∧
    (snoopBlocked s line = false → exec (.hostSnoop line (data, poisoned)) s = .next (if data = [] then s1 else
      { s2 with mem := writeLocs s2.mem cells
                poison := if poisoned then setPoison s2.poison (cells.map (·.1)) else clearPoison s2.poison (cells.map (·.1))
                damage := clearPoison s2.damage (cells.map (·.1)) })) ∧
    (Memory.wf s.mem = true → data.length = 128 → readBytes (writeLocs s2.mem cells) (128 * line) 128 = data)) ∧
  (∀ (s : State) (line : Nat), (regionOf (line * 128) = 2 → exec (.cxlCacheOwnershipGrant line) s =
      .next (serveOwning line (s.onWhorl (homeWhorl s line) (fun h =>
        { h with owned := if h.owned.contains line then h.owned else h.owned ++ [line] })))) ∧
    exec (.backInvalidateResponse line) s = .next (serveOwning line { s with hostCopy := s.hostCopy.erase line })) ∧
  (∀ (s : State) (addr n : Nat), addr + n ≤ hdmBytes → s.accepts 5 = true →
    (∀ l ∈ linesFrom (hbmLoc addr) n, (s.whorl (homeWhorl s l)).inUse l = false) →
    ∃ t, exec (.cxlMemRead addr n) s = .next t ∧ t.mem = s.mem ∧ (∀ l ∈ linesFrom (hbmLoc addr) n, l ∈ t.hostCopy) ∧
      t.reads = s.reads ++ [(addr, if anyPoison s ((List.range n).map (hbmLoc addr + ·)) then [] else readBytes s.mem (hbmLoc addr) n)]) ∧
  ∀ (s : State) (addr : Nat) (data : List (BitVec 8)) (poisoned : Bool), addr + data.length ≤ hdmBytes → s.accepts 5 = true →
    (∀ l ∈ linesFrom (hbmLoc addr) data.length, lineWaits s l = false) →
    ∃ t, exec (.cxlMemWrite addr (data, poisoned)) s = .next t ∧
      (Memory.wf s.mem = true → readBytes t.mem (hbmLoc addr) data.length = data ∧
        SameMemoryBut ((List.range data.length).map (hbmLoc addr + ·)) s t) ∧
      (poisoned = true → ∀ i < data.length, anyPoison t [hbmLoc addr + i] = true)

/-- A Whorl's own steps: landings, scratch motions, port caps, holds, the retention window and refresh (R88, R99, R101, R132, R305, R306, R308, R310). -/
def Obligations.WhorlSteps : Prop :=
  (∀ (s : State) (i : Nat),
    let s0 := evictDue i s
    (landable s0 i = none → exec (.tileLanding i) s = .next s0) ∧
    (∀ m, landable s0 i = some m →
      let s1 := if s0.damage.isEmpty then s0
        else (displaced (s0.whorl i) ((s0.whorl i).land m s0.cycle)).foldl (fun s t => checkTile t s) s0
      exec (.tileLanding i) s = .next (s1.onWhorl i (fun _ => stampGroups (s1.whorl i) s1.nanotime ((s1.whorl i).land m s1.cycle))) ∧
      m.ready ≤ s0.cycle ∧ wantsAt s0 i = [] ∧
      (s0.damage = [] → find (s0.whorl i).slots 0 = none → ∃ t, exec (.tileLanding i) s = .next t ∧
        find (t.whorl i).slots 0 = some m.tile ∧ (t.whorl i).leaving = (s0.whorl i).leaving ∧
        (t.whorl i).motion = (s0.whorl i).motion.filter (fun x => x.tile.tile != m.tile.tile) ∧ SameMemory s0 t))) ∧
  (∀ (s : State) (i : Nat), (s.whorl i).waitPin = [] ∨ 4 ≤ (s.whorl i).motion.length →
    ∃ t, exec (.scratchMotionStart i) s = .next t ∧ t.whorl i = s.whorl i ∧ SameMemory s t) ∧
  (∀ (s : State) (i c : Nat) (x : Tile) (rest : List (Nat × Tile)), (s.whorl i).waitPin = (c, x) :: rest → (s.whorl i).motion.length < 4 →
    ∃ t, exec (.scratchMotionStart i) s = .next t ∧ SameMemory s t ∧
      (s.damage = [] → (s.whorl i).slotOf x.tile = none → (t.whorl i).waitPin = rest.filter (fun y => y.2.tile != x.tile) ∧
        (t.whorl i).motion = (s.whorl i).motion ++ [⟨x, s.cycle, c, s.stamp⟩]) ∧
      (∀ p, s.damage = [] → (s.whorl i).slotOf x.tile = some p →
        t.whorl i = ({ s.whorl i with waitPin := rest }).touch x.tile c s.cycle s.stamp)) ∧
  (∀ (s : State) (i : Nat), ∃ t, exec (.portCapLoop i) s = .next t ∧ (t.whorl i).asked = [] ∧ (t.whorl i).refused = [] ∧
    (∀ c ∈ (s.whorl i).asked.map (·.1), 2 ≤ (s.whorl i).cap c → (s.whorl i).cap c ≤ 8 → 2 ≤ (t.whorl i).cap c ∧ (t.whorl i).cap c ≤ 8) ∧
    SameMemory s t) ∧
  (∀ (s : State) (i k n : Nat), (s.whorl i).hold = some (k, n) →
    (s.cycle < n + 2000 → exec (.holdTimeout i) s = .next s) ∧
    (n + 2000 ≤ s.cycle → ∃ t, exec (.holdTimeout i) s = .next t ∧ (t.whorl i).hold = none ∧
      (t.whorl i).defer = [] ∧ (t.wave k).holds = (s.wave k).holds.erase i ∧ SameMemory s t)) ∧
  (∀ (s : State) (i g temp : Nat), i < 16 → g < 8 →
    ∃ t, exec (.retentionWindowLoop i g temp) s = .next t ∧ look 0 (t.whorl i).temp g = temp ∧ SameMemory s t ∧
      (omegaOf temp < (s.whorl i).omegaNow g → (t.whorl i).omegaNow g = omegaOf temp) ∧
      ((s.whorl i).omegaNow g ≤ omegaOf temp → (t.whorl i).omegaNow g = (s.whorl i).omegaNow g ∨
        ((t.whorl i).omegaNow g = omegaOf temp ∧ 9 ≤ look 0 (s.whorl i).cooler g))) ∧
  (∀ (s : State) (i g : Nat) (found : List (Nat × Bool)), i < 16 → g < 240 →
    (∀ j < 30, look 0 (s.whorl i).stamps g ≤ look 0 (s.whorl i).stamps (30 * (g / 30) + j)) →
    let due := look 0 (s.whorl i).stamps g + 4000 * ((s.whorl i).omegaNow (g / 30) - 1)
    let s1 := if s.nanotime.toNat ≤ due then { s with nanotime := BitVec.ofNat 64 (due + 1) } else s
    let s2 := ((groupSlots g).filterMap (fun p => (find (s.whorl i).slots p).map (·.tile))).foldl (fun s t => checkTile t s)
      (s1.onWhorl i (fun h => { h with stamps := put 0 h.stamps g s1.nanotime.toNat }))
    exec (.rowGroupRefresh i g found) s = .next ((found.filter (fun e => (groupSlots g).contains (e.1 / 128))).foldl
      (fun (s : State) e => if e.2 then uncorrectableError i (e.1 / 128) (e.1 % 128) s else correctedError i (e.1 / 128) s) s2)) ∧
  (∀ (s : State) (i g : Nat), i < 16 → g < 240 → s.damage = [] →
    (∀ j < 30, look 0 (s.whorl i).stamps g ≤ look 0 (s.whorl i).stamps (30 * (g / 30) + j)) →
    1 ≤ (s.whorl i).omegaNow (g / 30) → look 0 (s.whorl i).stamps g + 4000 * (s.whorl i).omegaNow (g / 30) < 2 ^ 64 →
    ∃ t, exec (.rowGroupRefresh i g []) s = .next t ∧ look 0 (t.whorl i).stamps g = t.nanotime.toNat ∧
      look 0 (s.whorl i).stamps g + 4000 * ((s.whorl i).omegaNow (g / 30) - 1) < t.nanotime.toNat ∧ SameMemory s t) ∧
  (∀ (s : State) (sector : Nat) (x : Tile),
    let home := homeWhorl s (sector / 4)
    (s.whorl home).tileOf (sector / 128) = some x → x.present.getLsbD (sector % 128 / 2) = true →
    ((errorFound sector s).whorl home).ue = (s.whorl home).ue + 1 ∧ (errorFound sector s).damage = s.damage.filter (· != sector) ∧
    (x.dirty.getLsbD (sector % 128 / 2) = true → sector ∈ (errorFound sector s).poison ∧
      (errorFound sector s).agenda.getLast? = some (Instr.poisonReport (32 * sector) x.owner)) ∧
    (x.dirty.getLsbD (sector % 128 / 2) = false → (errorFound sector s).poison = s.poison ∧
      ((errorFound sector s).whorl home).fills.any (fun f => f.sector == sector / 2) = true)) ∧
  ∀ (s : State) (addr : Nat) (tag : BitVec 8),
    let retire := fun (owner : Option (BitVec 8)) (s : State) =>
      { s with agenda := s.agenda ++ [Instr.frameRetire (regionOf addr == 1) (addrOf addr / 65536) (1, owner)] }
    let ls := (inFlightOf s tag).filter (fun e => e.2.snaps.any (fun x => x.page == addr / 65536))
    exec (.poisonReport addr none) s = .next (retire none s) ∧
    ((s.context tag).active = false → exec (.poisonReport addr (some tag)) s = .next (retire (some tag) s)) ∧
    ((s.context tag).active = true → (eccSector addr, tag) ∈ s.decided → exec (.poisonReport addr (some tag)) s = .next s) ∧
    ((s.context tag).active = true → (eccSector addr, tag) ∉ s.decided →
      (ls ≠ [] → (∀ e ∈ ls, e.2.replayable = true ∧ heldBefore s e.2 (addr / 65536) = true) →
        (frameInUse s addr (ls.map (·.1)) = false → exec (.poisonReport addr (some tag)) s =
          .next (decide' (eccSector addr) tag (ls.foldl (fun (s : State) e => replayLaunch e.1 (some addr)
            (postTerminating tag (reportRecord addr e.2).1 (reportRecord addr e.2).2 0 s)) s))) ∧
        (frameInUse s addr (ls.map (·.1)) = true → exec (.poisonReport addr (some tag)) s =
          .next (park (.poisonReport addr (some tag)) s))) ∧
      ((ls = [] ∨ ∃ e ∈ ls, e.2.replayable = false ∨ heldBefore s e.2 (addr / 65536) = false) →
        exec (.poisonReport addr (some tag)) s =
          .next (retire (some tag) (terminateContext tag Cause.poison (fun l => some (reportRecord addr l)) s))))

/-- The engines' steps: Spindle commands, matrix operations, Whorl partials and merges, Carder rounds and records (R212, R213, R218, R226, R230, R232, R233, R238, R239). -/
def Obligations.EngineSteps : Prop :=
  (∀ (s s' : State) (core : Nat) (c : SpindleCmd) (rest : List SpindleCmd) (xs : List (Nat × SlabSample)),
    (s.core core).spindle = c :: rest → guardOpen s c.wave c.seq = true →
    (c.fn = 4 → exec (.spindleCommandStart core) s = .next (runMove core c s)) ∧
    (c.fn ≠ 4 → c.started = true → exec (.spindleCommandStart core) s = .next (runCommand core c s)) ∧
    (c.fn ≠ 4 → c.started = false →
      takeSamples (engineWave s c.wave c.env []) (.spindle core) ((if c.fn = 5 then [] else [ptrHandle c.src]) ++ [ptrHandle c.dst] ++
        (if c.fn = 2 ∨ c.fn = 3 then [ptrHandle (c.params.headD 0)] else []) ++ c.gchk.toList) s = (s', .ok xs) →
      exec (.spindleCommandStart core) s =
        .next (runCommand core { c with started := true, samples := xs } (onHead core (fun _ => { c with started := true, samples := xs }) s')))) ∧
  (∀ (s s' : State) (core : Nat) (c : SpindleCmd) (pairs : List (Option Nat × Nat)), genMismatch c = false →
    (c.indexed = true → c.index.isSome = true) →
    mapPieces (engineWave s c.wave c.env c.samples) (.spindle core) c.pieces s = (s', .ok pairs) →
    returnsHere c.env (ptrHandle c.src) (pairs.filterMap (·.1)) = false → returnsHere c.env (ptrHandle c.dst) (pairs.map (·.2)) = false →
    c.sent = false → c.got = none →
    (c.fn ≠ 5 → remoteHandle c.env (ptrHandle c.src) = true → runCommand core c s = onHead core (fun h => { h with asked := true }) s') ∧
    (c.fn = 5 ∨ remoteHandle c.env (ptrHandle c.src) = false → peerHandle c.env (ptrHandle c.dst) = false →
      let s1 := checkLocs (pairs.filterMap (·.1)) s'
      runCommand core c s = landCopy core c pairs (pairs.map (fun p => match p.1 with
          | some l => (readByte (engineMem s1 c.env (ptrHandle c.src)) l, anyPoison s1 [l])
          | none => (0, false)))
        (if c.fn = 5 then s1 else noteSource (s.wave c.wave).launch c.env (ptrHandle c.src) s1))) ∧
  (∀ (s s' : State) (core : Nat) (c : SpindleCmd) (pairs : List (Option Nat × Nat)) (bs : List (Byte × Bool)) (made : Bool),
    engineWrite (s.wave c.wave).launch (ptrHandle c.dst) (match c.env.handle (ptrHandle c.dst) with | some h => h.space | none => 0)
      (some c.env.tag) ((pairs.map (·.2)).zip (bs.map (·.1))) s = (s', made) →
    let marked := ((pairs.zip bs).filter (fun x => x.2.2)).map (fun x => x.1.2)
    landCopy core c pairs bs s = (if made then spindleDone core c { s' with poison := setPoison s'.poison marked } else s')) ∧
  (∀ (s s' : State) (core : Nat) (c : SpindleCmd) (locs : List Nat), genMismatch c = false → c.indexed = true → c.index = none →
    remoteHandle c.env (ptrHandle c.table) = false →
    locsOf (engineWave s c.wave c.env c.samples) (.spindle core) (ptrHandle c.table) .load (ptrOffset c.table) c.tableBytes s = (s', .ok locs) →
    let s1 := checkLocs locs s'
    let width := if c.iw then 8 else 4
    let xs := (List.range (c.params.getD 1 0).toNat).map (fun i =>
      natOfBytes (((engineRead s1 c.env (ptrHandle c.table) locs).drop (width * i)).take width))
    anyPoison s1 locs = false → runCommand core c s = runCopy core { c with index := some xs }
      (indexedPieces (c.fn == 3) (elementSize c.esz) c.dst c.src xs)
      (noteSource (s.wave c.wave).launch c.env (ptrHandle c.table) (onHead core (fun h => { h with index := some xs }) s1))) ∧
  (∀ (s : State) (core : Nat) (c : SpindleCmd), genMismatch c = true → runCommand core c s = spindleStop core c Cause.stale 0 0 s) ∧
  (∀ (s : State) (q rows k : Nat) (op : MatrixOp) (members : List Nat), unitBusy s q = false →
    (pickHead s (startable s q) = some (k, op, .run members) → exec (.matrixOperationStart (q, rows)) s = .next (startHead k op members rows s) ∧
      (op.kind = .mstz → ((startHead k op members rows s).wave k).rows = [] ∧ SameMemory s (startHead k op members rows s))) ∧
    (pickHead s (startable s q) = some (k, op, .fails members) → exec (.matrixOperationStart (q, rows)) s = .next (gangFails op k members s))) ∧
  (∀ (s : State) (q : Nat), ∃ t, exec (.matrixOperationComplete q) s = .next t ∧ (s.w.quarterId = q → ∀ op rest, s.w.matrix = op :: rest →
    op.started = true → t.w.matrix = rest ∧ t.w.matDone = s.w.matDone ++ [op] ∧ (op.isMma = true → t.w.mprog = 0)) ∧ SameMemory s t) ∧
  (∀ (s s1 s2 : State) (k id i : Nat) (op : AttnOp) (h : Handle) (bs : List Byte) (n : Nat)
      (entries : List (Option (List Machine.Num) × Option (List Machine.Num))) (excluded : Nat) (homes : List (Nat × Nat))
      (absent : List (Nat × W64 × BitVec 8 × Nat × Bool)),
    (s.wave k).attn.find? (fun op => op.seq == id && (s.wave k).station != .saved) = some op → guardOpen s k id = true → i ∉ op.whorls →
    i < 16 → (s.wave k).env.handle (ptrHandle op.ptr) = some h → gotBytes (.shared i) (s.wave k).env.tag h.base 64 s = (s1, .bytes bs n) →
    let d : BitVec 512 := BitVec.ofNat 512 (natOfBytes bs)
    let x := op.sample.getD (slabSample h.base d)
    let layer := (h.selector.extractLsb' 0 8).toNat
    let head := (h.selector.extractLsb' 8 8).toNat + (op.ptr.extractLsb' 32 8).toNat
    let s' := onAttn k id (fun op => { op with sample := some x }) s1
    (op.sample = none → slabReserved d = false) → layer ≤ x.layers → head ≤ x.heads →
    gatherPositions op i (s.wave k).env.tag x (slabBound d) layer head (op.seqId.map (fun q => seqDirty s' (seqSlot q)))
      (op.positions x) s' = (s2, .ok entries excluded homes absent) →
    exec (.whorlPartial k id i) s = .next (engineFault 2 (s.wave k) op.addr Access.read absent
      (onAttn k id (fun op => (op.form i entries excluded homes).release (op.positions x)) s2))) ∧
  (∀ (op : AttnOp) (i : Nat) (entries : List (Option (List Machine.Num) × Option (List Machine.Num))) (excluded : Nat) (homes : List (Nat × Nat)),
    find (op.form i entries excluded homes).formed i = some ⟨(homes.filter (fun h => h.2 == i)).map (·.1), excluded,
      if entries.isEmpty then [] else [op.queries.map (fun q => partialOf q entries)]⟩) ∧
  (∀ (op : AttnOp) (positions : List Nat) (i : Nat) (part : AttnPart), op.formed = [(i, part)] →
    ((∃ k ∈ positions, find op.homes k = none) → op.release positions = op) ∧
    ((∀ k ∈ positions, (find op.homes k).isSome = true) →
      (op.release positions).formed = [] ∧
      ((∀ k ∈ positions, find op.homes k = some i → k ∈ part.taken) → (op.release positions).whorls = op.whorls ++ [i] ∧
        (op.release positions).partials = op.partials ++ part.triples ∧ (op.release positions).excluded = op.excluded + part.excluded) ∧
      ((∃ k ∈ positions, find op.homes k = some i ∧ k ∉ part.taken) → (op.release positions).whorls = op.whorls ∧
        (op.release positions).partials = op.partials ∧ (op.release positions).excluded = op.excluded))) ∧
  (∀ (s : State) (k id : Nat) (op : AttnOp),
    (s.wave k).attn.find? (fun op => op.seq == id && (s.wave k).station != .saved) = some op →
    (op.partials.length ≤ 1 → op.whole = true → exec (.partialMerge k id) s = .next (completeAttn k op s)) ∧
    (1 < op.partials.length →
      let op' := { op with partials := mergePair s.free op.partials }
      let s' := onAttn k id (fun _ => op') { s with free := s.free + 2 }
      exec (.partialMerge k id) s = .next (if op'.whole then completeAttn k op' s' else s'))) ∧
  (∀ (s : State) (k id : Nat) (op : AttnOp) (a b : List Triple),
    (s.wave k).attn.find? (fun op => op.seq == id && (s.wave k).station != .saved) = some op → op.partials = [a, b] → op.whorls.length < 16 →
    ∃ t c, exec (.partialMerge k id) s = .next t ∧ (∀ o ∈ (t.wave k).attn, o.seq = id → o.partials = [c]) ∧
      (c = (a.zip b).map (fun x => mergeTriples x.1 x.2) ∨ c = (b.zip a).map (fun x => mergeTriples x.1 x.2)) ∧ SameMemory s t) ∧
  (∀ (s s' : State) (f : Nat) (op : CarderOp) (rest : List CarderOp) (buffer : List Nat), carderQueue s f = op :: rest → op.round = true →
    (op.entry = [] → seqBusy s (seqSlot op.seqId) = false → exec (.carderRound f) s = .next (startRound f op s)) ∧
    (op.entry = [] → seqBusy s (seqSlot op.seqId) = true → exec (.carderRound f) s = .next s) ∧
    (op.entry ≠ [] →
      locsOf (engineWave s op.wave op.env op.samples) (.carder f) (ptrHandle op.ptr) .load (ptrOffset op.ptr) (16 * roundCount op.param0) s =
        (s', .ok buffer) → anyPoison s' buffer = false →
      exec (.carderRound f) s = .next (runRound f op buffer s') ∧
      ((∃ c ∈ candidatesOf (roundCount op.param0) (engineRead s' op.env (ptrHandle op.ptr) buffer), op.length ≤ c.position) →
        exec (.carderRound f) s = .next (carderStop f op Cause.bounds 0 0 s')))) ∧
  ∀ (s s' : State) (f : Nat) (op : CarderOp) (rest : List CarderOp) (locs : List Nat), carderQueue s f = op :: rest → op.round = false →
    guardOpen s op.wave op.seq = true →
    locsOf (engineWave s op.wave op.env op.samples) (.carder f) (ptrHandle op.ptr) .load
      (ptrOffset op.ptr + 16 * (op.param0.extractLsb' 0 32).toNat) 144 s = (s', .ok locs) → anyPoison s' locs = false →
    ∃ t, exec (.carderRecordRead f) s = .next t ∧ (t.wave op.wave).producers = ((popCarder f s').wave op.wave).producers ++
      [⟨op.seq, 5, recordWrites op.d (wordsOf (engineRead s' op.env (ptrHandle op.ptr) locs)), regRange op.d 3, []⟩] ∧ t.mem = s'.mem

/-- The host link, the peers and the ports: completions, requests, timeouts, and ports going down and up (R119, R120, R207, R216, R308, R328,
R334, R335). The model's choice: a peer's request is translated through Whorl 0's shared cache (log 182) and writes with the named context's
owner tag (log 138); the payload of events 5 and 6 is the port's number (log 197). -/
def Obligations.LinkSteps : Prop :=
  (∀ (s : State) (k : Nat) (x : Access) (status : BitVec 2),
    let d := drainEgress s
    (d.egress ≠ [] → exec (.hostCompletion k status) s = .next d) ∧
    (d.egress = [] → awaiting d k 4 = some x → routedBack x = false → status ≠ 1 →
      (x.op.writes = true → ∀ l ∈ x.elems.flatMap (·.locs), lineWaits d (lineOf l) = false) →
      exec (.hostCompletion k status) s = .next (completeRemote k x (status == 2) d)) ∧
    (d.egress = [] → awaiting d k 4 = some x → routedBack x = true ∨ status = 1 →
      exec (.hostCompletion k status) s = .next (refuseRemote k x d)) ∧
    (d.egress = [] → awaiting d k 4 = none → ∀ core c, awaitingCommand d k 4 = some (core, c) → exec (.hostCompletion k status) s =
      .next (if status = 1 then refuseCommand core c d else answerCommand core c (status == 2) d)) ∧
    (d.egress = [] → awaiting d k 4 = none → awaitingCommand d k 4 = none →
      exec (.hostCompletion k status) s = .next (finishFenceh k (status == 1) d)) ∧
    (d.egress = [] → awaiting d k 4 = none → awaitingCommand d k 4 = none →
      ∀ p, (d.wave k).producers.find? (fun p => p.path == 6 && p.seq == (d.wave k).seq) = some p →
      ∃ t, exec (.hostCompletion k 0) s = .next t ∧ (k = d.focus → t.w.a.pos = d.w.a.pos.advance 1)) ∧
    (awaiting s k 5 = none → ∀ core c, awaitingCommand s k 5 = some (core, c) →
      (find s.mgmt.routes c.node = none ∨ status = 1 → exec (.peerAcknowledgement k status) s = .next (refuseCommand core c s)) ∧
      ((find s.mgmt.routes c.node).isSome = true → portsTo s c.node ≠ 0 → status ≠ 1 →
        exec (.peerAcknowledgement k status) s = .next (answerCommand core c (status == 2) s))) ∧
    (awaiting s k 5 = some x → x.here = true → exec (.peerAcknowledgement k status) s = .next (completeHere k x s)) ∧
    (awaiting s k 5 = some x → x.here = false → (find s.mgmt.routes x.node).isSome = true → portsTo s x.node ≠ 0 → status ≠ 1 →
      exec (.peerAcknowledgement k status) s = .next (completeRemote k x (status == 2) s)) ∧
    (awaiting s k 5 = some x → x.here = false → (find s.mgmt.routes x.node = none ∨ status = 1) →
      exec (.peerAcknowledgement k status) s = .next (refuseRemote k x s))) ∧
  (∀ (s s' : State) (tag : BitVec 8) (va : BitVec 64) (fn n : Nat) (data cmp : List (BitVec 8)) (poisoned : Bool) (locs : List Nat),
    (s.context tag).active = true →
    (translateBytes s (.shared 0) tag va n Access.read = (s', .inl locs) →
      (∀ l ∈ locs, (s'.whorl (homeWhorl s' (lineOf l))).inUse (lineOf l) = false) →
      exec (.peerRequest tag va 0 fn n (data, poisoned) cmp) s =
        .next (answerOut va.toNat (if anyPoison s' locs then [] else readLocs s'.mem locs) s')) ∧
    (translateBytes s (.shared 0) tag va n Access.write = (s', .inl locs) → homeFree s' locs = true →
      exec (.peerRequest tag va 1 fn n (data, poisoned) cmp) s = .next (if poisoned then
        { homeWrite (some tag) (locs.zip data) s' with poison := setPoison (homeWrite (some tag) (locs.zip data) s').poison locs }
        else homeWrite (some tag) (locs.zip data) s')) ∧
    (translateBytes s (.shared 0) tag va n Access.atom = (s', .inl locs) → homeFree s' locs = true →
      exec (.peerRequest tag va 2 fn n (data, poisoned) cmp) s =
        .next (answerOut va.toNat (if anyPoison s' locs then [] else readLocs s'.mem locs) (homeWrite (some tag) (locs.zip (bytesOfNat
          (atomicValue fn locs.length (natOfBytes (readLocs s'.mem locs)) (natOfBytes data) (natOfBytes cmp)) locs.length)) s')) ∧
      exec (.peerRequest tag va 3 fn n (data, poisoned) cmp) s = .next (homeWrite (some tag) (locs.zip (bytesOfNat
        (reduceValue fn (natOfBytes (readLocs s'.mem locs)) (natOfBytes data)) locs.length)) s'))) ∧
  (∀ (s : State) (tag : BitVec 8) (va : BitVec 64) (kind : BitVec 2) (fn n : Nat) (data cmp : List (BitVec 8)) (poisoned : Bool),
    (s.context tag).active = false → exec (.peerRequest tag va kind fn n (data, poisoned) cmp) s = .next (answerOut va.toNat [] s)) ∧
  (∀ (s : State) (node : BitVec 16), portsTo s node.toNat = 0 → (find s.mgmt.routes node.toNat).isSome = true →
    let of := fun (x : Access) => x.space == 5#4 && !x.answered && (!x.op.writes || x.left) && x.node == node.toNat && !x.here
    exec (.skeinPeerTimeout node) s = .next (s.allWaves.foldl (fun (s : State) e => endAccesses node.toNat e.1 s) s) ∧
    ∀ k, (∀ x, (s.wave k).under.find? of = some x → endAccesses node.toNat k s = refuseRemote k x s) ∧
      ((s.wave k).under.find? of = none → ∀ core c, awaitingCommand s k 5 = some (core, c) →
        endAccesses node.toNat k s = if c.node = node.toNat then refuseCommand core c s else s)) ∧
  (∀ (s : State) (pasid : BitVec 20) (va : BitVec 64) (granted : Bool) (frame : Nat),
    exec (.atsTranslationCompletion pasid va granted frame) s =
      .next { s with ats := ins s.ats (atsKey pasid.toNat va) (if granted then frame % 2 ^ 40 else refusedFrame) }) ∧
  ∀ (s : State) (port : Nat),
    (s.mgmt.skeinUp.getLsbD port = true → exec (.skeinPortDown port) s = .next (postEvent 5 0 [BitVec.ofNat 64 port]
      { s with mgmt := { s.mgmt with skeinUp := s.mgmt.skeinUp &&& ~~~(1#16 <<< port) } })) ∧
    (port < 16 → ∃ t, exec (.skeinPortUp port) s = .next t ∧ t.mgmt.skeinUp.getLsbD port = true ∧
      ∀ p, p ≠ port → t.mgmt.skeinUp.getLsbD p = s.mgmt.skeinUp.getLsbD p) ∧
    (s.mgmt.cxlUp.getLsbD port = true → exec (.cxlPortDown port) s = .next (postEvent 6 0 [BitVec.ofNat 64 port]
      { s with mgmt := { s.mgmt with cxlUp := s.mgmt.cxlUp &&& ~~~(1#4 <<< port) } })) ∧
    (port < 4 → ∃ t, exec (.cxlPortUp port) s = .next t ∧ t.mgmt.cxlUp.getLsbD port = true ∧
      ∀ p, p ≠ port → t.mgmt.cxlUp.getLsbD p = s.mgmt.cxlUp.getLsbD p)

/-- Records resolved, pages walked and moved, frames retired (R282, R285, R287, R289, R290, R291, R325, R328, R333). -/
def Obligations.FaultSteps : Prop :=
  (∀ (s : State) (tag : BitVec 8) (index : Nat) (f : FaultRec), openFault s tag index = some f →
    exec (.fresRetry tag index) s = .next (resolveRetry tag index s) ∧ exec (.fresDeny tag index) s = .next (resolveDeny tag index s) ∧
    (∀ ok, exec (.priResponse tag index ok) s =
      .next (if f.host then (if ok then resolveRetry tag index s else resolveDeny tag index s) else s)) ∧
    (f.host = false → explained s tag f.va = false → s.mgmt.evbase = 0 → exec (.eventRingDenyTimeout tag index) s = .next (resolveDeny tag index (secondAfter f s))) ∧
    (f.host = true → f.told = false → exec (.priTimeout tag index) s =
      .next (postEvent 2 tag f.words (changeFault tag index (fun f => { f with told := true }) (secondAfter f s))))) ∧
  (∀ (s : State) (tag : BitVec 8) (index : Nat) (f : FaultRec), openFault s tag index = some f →
    (∀ denied, openFault (closeRecord tag index f denied s) tag index = none) ∧
    resolveRetry tag index s = settleWrites tag ((closeRecord tag index f false s).mapWaves
      (fun _ w => if w.env.tag == tag && w.hold == .fault index then { w with hold := .none } else w)) ∧
    (accessClass f.access ≠ 1 → resolveDeny tag index s = settleWrites tag (f.launches.foldl (fun s k => stopLaunch k f.stop s)
      ((refusePeers tag f (closeRecord tag index f true s)).mapWaves (fun _ w => if w.env.tag == tag then w.denied index else w)))) ∧
    (∀ (w : Wave) (i : Nat) (mask : W64), w.hold = .fault i → w.failing.find? (fun e => e.1 == index) = some (index, mask) →
      (w.denied index).trmask = mask)) ∧
  (∀ (s : State) (cache : Nat) (tag : BitVec 8) (va : BitVec 64) (access : BitVec 2) (k : PageWalk), walkFor s cache tag va access = some k →
    exec (.pageWalk cache tag va access) s = .next (stepWalk k s)) ∧
  (∀ (s : State) (k : PageWalk), k.stage = .queued → 64 ≤ (s.walks.filter (fun x => x.reads && x.cache.floor == k.cache.floor)).length →
    stepWalk k s = s) ∧
  (∀ (s : State) (tag : BitVec 8) (va : BitVec 64) (tier : Bool) (frame : Nat),
    (∀ leaf entry, moveOf s tag va = none → isRetired s tier frame = false → (s.context tag).active = true →
      walk s (s.context tag) va Access.read = .ok leaf entry false →
      exec (.pageMove tag va tier frame) s = .next (startMove ⟨tag, va, leaf, entry, tier, frame⟩ s)) ∧
    (∀ m, moveOf s tag va = some m → (∀ x ∈ translatedBy 0 tag va s, outstanding s x = false) →
      exec (.pageMove tag va tier frame) s = .next (finishMove m s)) ∧
    (∀ m, moveOf s tag va = some m → (∃ x ∈ translatedBy 0 tag va s, outstanding s x = true) →
      exec (.pageMove tag va tier frame) s = .next s)) ∧
  ∀ (s : State) (tier : Bool) (frame : Nat) (reason : BitVec 8) (owner : Option (BitVec 8)),
    (frameInUse s (frameLoc tier frame) [] = false → exec (.frameRetire tier frame (reason, owner)) s =
      .next (retireFrame tier frame reason owner s)) ∧
    (frameInUse s (frameLoc tier frame) [] = true → exec (.frameRetire tier frame (reason, owner)) s =
      .next (park (.frameRetire tier frame (reason, owner)) s))

/-- Doorbell writes act on an active context from S3 on, and are dropped before (R265, R273, R276, R278, R279, R330). -/
def Obligations.Doorbells : Prop :=
  (∀ (s : State) (tag slot : BitVec 8) (level : Nat) (value : BitVec 32) (b : Bool),
    ∀ i ∈ [Instr.lqtail tag level value, .grdarm tag slot, .grdsetDoorbell tag slot b, .admtail tag value, .cplhead tag value, .cancel tag value],
      (s.accepts 4 = false → exec i s = .next { s with mgmt := { s.mgmt with dropped := true } }) ∧
      (s.accepts 4 = true → (s.context tag).active = false → exec i s = .next s)) ∧
  ∀ (s : State) (tag slot : BitVec 8) (level : Nat) (value : BitVec 32) (b : Bool), s.accepts 4 = true → (s.context tag).active = true →
    (level < 16 → (value - look 0 (s.context tag).lqtail level).toNat ≤ 2 ^ (((s.context tag).word 0).extractLsb' 0 4).toNat →
      ∃ t, exec (.lqtail tag level value) s = .next t ∧ look 0 (t.context tag).lqtail level = value ∧ SameMemory s t) ∧
    (level < 16 → 2 ^ (((s.context tag).word 0).extractLsb' 0 4).toNat < (value - look 0 (s.context tag).lqtail level).toNat →
      exec (.lqtail tag level value) s = .next (terminateContext tag Cause.illegal (fun _ => none)
        (postTerminating tag [faultWord0 Cause.illegal 7 0 false false tag 0, 0, 0, 0] 0 0 s))) ∧
    exec (.grdarm tag slot) s = .next (armGuard tag slot s) ∧
    ((s.guard tag slot).state ≠ 1 → launchesOf s tag = [] →
      armGuard tag slot s = writeGuard tag slot ⟨1, (s.guard tag slot).gen + 1⟩ s) ∧
    exec (.grdsetDoorbell tag slot b) s = .next (resolveGuard tag slot b s) ∧
    ((s.guard tag slot).state = 1 → launchesOf (writeGuard tag slot { s.guard tag slot with state := if b then 2#2 else 3#2 } s) tag = [] →
      resolveGuard tag slot b s = writeGuard tag slot { s.guard tag slot with state := if b then 2#2 else 3#2 } s) ∧
    (∃ t, exec (.admtail tag value) s = .next t ∧ (t.context tag).admtail = value ∧ t.agenda = s.agenda ++ [Instr.distaffStep tag] ∧
      SameMemory s t) ∧
    (let s' := onContext tag (fun c => { c with cplhead := value }) s
     exec (.cplhead tag value) s = .next (wakeDistaff tag (flushCompletions tag (s'.distaffOf tag).pending.length s')) ∧
     (s'.context tag).cplhead = value) ∧
    (owns s tag value = true → ∃ t, exec (.cancel tag value) s = .next t ∧ value ∈ (t.context tag).distaff.cancels ∧ SameMemory s t)

/-- Launches fetched, placed, raised, reserving and ending; pairs compared (R265, R267, R269, R272, R314, R315, R318, R323). -/
def Obligations.SchedulerSteps : Prop :=
  (∀ (s s' s'' : State) (tag : BitVec 8) (level : Nat) (bs : List Byte), (s.context tag).active = true → (s.context tag).closing = false →
    level < 16 → queueWaits (s.context tag) level = true →
    (let lrec := queueAddress (s.context tag) level (look 0 (s.context tag).lqhead level)
     cpRead tag 0 lrec 3 lrec 256 s = (s', .ok bs) ∧ checkLaunch tag (doublesOf bs) lrec false [] s' = (s'', true)) →
    exec (.launchFetch tag level) s =
      .next (popQueue tag level (queueAddress (s.context tag) level (look 0 (s.context tag).lqhead level)) s'')) ∧
  (∀ s : State, (placeOrder s = [] → exec .teamPlacement s = .next s) ∧ exec .teamPlacement s = .next (placeAll' 18432 s)) ∧
  (∀ (s : State) (k : Nat) (l : Launch), find s.launches k = some l → l.unplaced = true → l.env.handles = [] → l.level < 14 →
    ∃ t, exec (.levelRaise k) s = .next t ∧ find t.launches k = some { l with waited := l.waited + 1, level := l.level + 1 } ∧
      (l.since + BitVec.ofNat 64 (2000000 * (l.waited + 1))).toNat ≤ t.nanotime.toNat ∧ SameMemory s t) ∧
  (∀ (s : State) (k : Nat) (l : Launch), find s.launches k = some l → l.unplaced = true → heldBack s k = false →
    ∃ t, exec (.reserve k) s = .next t ∧ find t.launches k = some { l with reserves := true } ∧
      (l.since + 8000000).toNat ≤ t.nanotime.toNat ∧ (l.level < 15 → t.agenda = s.agenda) ∧ SameMemory s t) ∧
  (∀ (s : State) (k : Nat) (l : Launch) (c : Stop), find s.launches k = some l → l.stopCause = some c → l.state ≠ .ended →
    let s1 := if l.team1 = 0 && (s.wave c.wave).launch = k then
      { s with launches := change (fun l => { l with team1 := (s.wave c.wave).teamid }) s.launches k } else s
    let damaged := probe s1 l.env.tag c.va Access.read
    let ended := terminateContext l.env.tag Cause.poison (fun x => some (stopRecord s1 c x)) s1
    (c.cause ≠ Cause.poison → (l.anycause = false ∨ l.replayable = false) →
      exec (.terminatingCause k) s = .next (endLaunch k 3 c.cause (postStop c l s1))) ∧
    (c.cause ≠ Cause.poison → l.anycause = true → l.replayable = true →
      exec (.terminatingCause k) s = .next (replayLaunch k none (postStop c l s1))) ∧
    (c.cause = Cause.poison → damaged = none → exec (.terminatingCause k) s = .next ended) ∧
    (∀ a, c.cause = Cause.poison → damaged = some a → (eccSector a, l.env.tag) ∈ s1.decided →
      exec (.terminatingCause k) s = .next (endLaunch k 3 Cause.poison s1)) ∧
    (∀ a, c.cause = Cause.poison → damaged = some a → (eccSector a, l.env.tag) ∉ s1.decided →
      (l.replayable = false ∨ heldBefore s1 l (a / 65536) = false) → exec (.terminatingCause k) s =
        .next { ended with agenda := ended.agenda ++ [Instr.frameRetire (regionOf a == 1) (addrOf a / 65536) (1, none)] }) ∧
    (∀ a, c.cause = Cause.poison → damaged = some a → (eccSector a, l.env.tag) ∉ s1.decided →
      l.replayable = true → heldBefore s1 l (a / 65536) = true →
      exec (.terminatingCause k) s = .next (if frameInUse s1 a [k] then park (.terminatingCause k) s1
        else replayLaunch k (some a) (postStop c l (if reported s1 (eccSector a) then decide' (eccSector a) l.env.tag s1 else s1))))) ∧
  (∀ (s : State) (a b : Nat), (s.wave a).pair = some (b, true) → (s.wave b).pair = some (a, false) → atPoint (s.wave a) = true →
    atPoint (s.wave b) = true → (s.wave a).pairSignature = (s.wave b).pairSignature →
    (logFree (s.wave a) s = false → ∃ t, exec (.pairComparison a b) s = .next t ∧ SameMemory s t ∧
      (t.wave a).pairLog = (s.wave a).pairLog ∧ (t.wave a).pairOk = 0) ∧
    (logFree (s.wave a) s = true → performLog a (s.wave a).pairLog s = none → exec (.pairComparison a b) s = .next s) ∧
    (∀ u, logFree (s.wave a) s = true → performLog a (s.wave a).pairLog s = some u →
      ∃ t, exec (.pairComparison a b) s = .next t ∧
        (t.wave b).pairOk = 2 ∧ (t.wave b).hold = .none ∧ (t.wave b).pairLog = [] ∧
        (a ≠ b → (t.wave a).pairOk = 1 ∧ (t.wave a).hold = .none ∧ (t.wave a).pairLog = []) ∧ t.mem = u.mem)) ∧
  ∀ (s : State) (a b : Nat) (l : Launch), (s.wave a).pair = some (b, true) → (s.wave b).pair = some (a, false) → atPoint (s.wave a) = true →
    atPoint (s.wave b) = true → (s.wave a).pairSignature ≠ (s.wave b).pairSignature → find s.launches (s.wave a).launch = some l →
    let record := stopRecord s ⟨Cause.poison, 0, 0, 0, (s.wave a).a.pos.pc, a, 0, false⟩ l
    let s' := postTerminating l.env.tag record.1 record.2 0 s
    exec (.pairComparison a b) s = .next (if l.replays < l.maxrep then replayLaunch (s.wave a).launch none s'
      else endLaunch (s.wave a).launch 3 Cause.poison s')

/-- The Distaff steps a context's batch, applies a committed step, and retires sequences (R276, R277, R278, R279). -/
def Obligations.DistaffSteps : Prop :=
  (∀ (s : State) (tag : BitVec 8), (s.context tag).active = true → (s.context tag).closing = false → ((s.context tag).word 0).getLsbD 61 = true →
    (∀ n index guarded, (s.context tag).distaff.chain = some (n, index, guarded) →
      exec (.distaffStep tag) s = .next (submitChain tag n guarded ((s.context tag).chainm1 + 1 - index) index s)) ∧
    (∀ s', (s.context tag).distaff.chain = none → (s.context tag).distaff.running = false →
      ((admissionPoint tag s).distaffOf tag).running = false → ((admissionPoint tag s).distaffOf tag).pending = [] →
      ((admissionPoint tag s).distaffOf tag).batch ++ ((admissionPoint tag s).distaffOf tag).joined ≠ [] →
      beginStep tag ((admissionPoint tag s).distaffOf tag).step
        (((admissionPoint tag s).distaffOf tag).batch ++ ((admissionPoint tag s).distaffOf tag).joined) false (admissionPoint tag s) = .inl s' →
      exec (.distaffStep tag) s = .next (submitChain tag ((admissionPoint tag s).distaffOf tag).step false ((s.context tag).chainm1 + 1) 0
        (onDistaff tag (fun d => { d with
          running := true, done := false, joined := [],
          batch := ((admissionPoint tag s).distaffOf tag).batch ++ ((admissionPoint tag s).distaffOf tag).joined }) s'))) ∧
    (∀ s', (s.context tag).distaff.chain = none → (s.context tag).distaff.running = true → (s.context tag).distaff.admitDue = false →
      (s.context tag).distaff.ahead = false → chainFinished s tag (s.context tag).distaff.step = true →
      beginStep tag ((s.context tag).distaff.step + 1) ((s.context tag).distaff.batch ++ (s.context tag).distaff.joined) true s = .inl s' →
      exec (.distaffStep tag) s = .next (submitChain tag ((s.context tag).distaff.step + 1) true ((s.context tag).chainm1 + 1) 0
        (onDistaff tag (fun d => { d with
          ahead := true, joined := [], next := (s.context tag).distaff.batch ++ (s.context tag).distaff.joined }) s')))) ∧
  (∀ (s : State) (tag : BitVec 8), (s.distaffOf tag).running = true → (s.distaffOf tag).done = true →
    let d := s.distaffOf tag
    let s1 := (inOrder s d.batch).foldl (fun s slot => applyStep tag slot s) (onDistaff tag (fun d => { d with done := false }) s)
    let finished := (inOrder s d.batch).filter (fun slot => (seqWord s1 slot 14).extractLsb' 0 8 != 0)
    let s2 := if d.ahead then resolveGuard tag (stepGuard (d.step + 1)) finished.isEmpty s1 else s1
    ∃ t, exec (.stepCommit tag) s = .next t ∧ t.mem = s2.mem ∧
      t.agenda = s2.agenda ++ finished.map Instr.sequenceRetirement ++ [Instr.distaffStep tag]) ∧
  (∀ (s : State) (tag : BitVec 8), (s.distaffOf tag).running = true → (s.distaffOf tag).done = true → (s.distaffOf tag).batch = [] →
    (s.distaffOf tag).ahead = false →
    ∃ t, exec (.stepCommit tag) s = .next t ∧ t.agenda = s.agenda ++ [Instr.distaffStep tag] ∧
      (t.distaffOf tag).step = (s.distaffOf tag).step + 1 ∧ (t.distaffOf tag).running = false ∧ (t.distaffOf tag).admitDue = true) ∧
  ∀ (s : State) (slot : Nat), slot < 4096 → (seqWord s slot 0).getLsbD 63 = true → (seqWord s slot 14).extractLsb' 0 8 ≠ 0 →
    exec (.sequenceRetirement slot) s = .next (retireSequence ((seqWord s slot 0).extractLsb' 52 8) slot s)

/-- A team is stopped, saved, sealed and restored (R292, R293, R294, R295, R298). The model's choice: a team of a context being deactivated for
whose block there is no room leaves unsaved (log 175). -/
def Obligations.PreemptionSteps : Prop :=
  (∀ (s : State) (team : Nat) (t : Team) (l : Launch), find s.teams team = some t → find s.launches t.launch = some l →
    (t.halting = false → t.saved = false → (roomBeside s l.env.tag [] (blockUnits l.demand) = true ∨ (s.context l.env.tag).closing = true) →
      ∃ s', exec (.preemptionRequest team) s = .next s' ∧ find s'.teams team = some { t with halting := true } ∧ SameMemory s s') ∧
    (t.halting = true → t.saved = false → l.stopCause = none → (∀ e ∈ teamWaves s team, e.2.atRest = true ∨ e.2.pend.isSome = true) →
      let s' := haltTeam team s
      (teamQuiet s' team = false → exec (.teamSave team) s = .next s') ∧
      (teamQuiet s' team = true → ∀ unit, freeUnits s' l.env.tag (blockUnits l.demand) = some unit →
        exec (.teamSave team) s = .next (withUnits team l (unit, blockUnits l.demand) (saveTeam team unit l) s')) ∧
      (teamQuiet s' team = true → freeUnits s' l.env.tag (blockUnits l.demand) = none → (s'.context l.env.tag).closing = true →
        exec (.teamSave team) s = .next (leaveUnsaved team s'))) ∧
    (t.saved = true → t.sealed = false → unitFaults s l.env.tag t.block Access.write = [] → unitsHeld s l.env.tag t.block = [] →
      ((∀ e ∈ teamWaves s team, e.2.settled = true) → ∃ s', exec (.saveSeal team) s = .next (writeBlock team s') ∧
        find s'.teams team = some { t with sealed := true } ∧ s'.agenda = s.agenda ++ [Instr.teamPlacement]) ∧
      ((∃ e ∈ teamWaves s team, e.2.settled = false) → exec (.saveSeal team) s = .next (writeBlock team s))) ∧
    (t.saved = true → t.sealed = false → unitFaults s l.env.tag t.block Access.write ≠ [] → exec (.saveSeal team) s = .next
      (engineFault 3 (s.wave (((teamWaves s team).map (·.1)).headD 0)) 0 Access.write (unitFaults s l.env.tag t.block Access.write) s)) ∧
    (∀ core, t.saved = true → t.sealed = true → core ∈ spots s l.env.part.toNat l.demand → fitsWithout s [] l.demand core = true →
      (unitFaults s l.env.tag t.block Access.read = [] → blockPoison s l.env.tag t = none →
        ∃ s' t', exec (.teamRestore team core) s = .next s' ∧ find s'.teams team = some t' ∧
          t'.core = core ∧ t'.saved = false ∧ t'.halting = false ∧ t'.commands = [] ∧ t'.barriers = barriersFrom s l.env.tag t.block.1 t) ∧
      (unitFaults s l.env.tag t.block Access.read = [] → ∀ va, blockPoison s l.env.tag t = some va →
        exec (.teamRestore team core) s = .next
          (engineStop (((teamWaves s team).map (·.1)).headD 0) t.launch 3 Access.read Cause.poison va 0 s)) ∧
      (unitFaults s l.env.tag t.block Access.read ≠ [] → exec (.teamRestore team core) s = .next
        (engineFault 3 (s.wave (((teamWaves s team).map (·.1)).headD 0)) 0 Access.read (unitFaults s l.env.tag t.block Access.read) s))))

/-- A mailbox command that is busy does its work and reads done or refused (R261, R262, R289, R299, R307, R332, R335, R336, R337, R338). The
model's choice: the bits of PARTSET's arguments (log 140), CTXWRITE of a tag active under another entry refused with 0x04 (log 141), and the fresh
state of a context at its activation (log 142). -/
def Obligations.Mailbox : Prop :=
  (∀ s : State, ∀ p ∈ [(Instr.identify, 0x01#8), (.fwload, 0x02), (.rollfwd, 0x03), (.evring, 0x08), (.ctxwrite, 0x10), (.partset, 0x11),
      (.wstat, 0x20), (.retlist, 0x21), (.islcap, 0x30), (.skroute, 0x31), (.reset, 0x40)],
    s.mgmt.mbstat ≠ 1 ∨ s.mgmt.mbcmd ≠ p.2 → exec p.1 s = .next s) ∧
  (∀ s : State, s.mgmt.mbstat = 1 →
    (s.mgmt.mbcmd = 0x01 → ∃ t, exec .identify s = .next t ∧ t.mgmt.mbstat = 2 ∧ t.mgmt.results.getD 0 0 = 0x3840 ∧
      t.mgmt.results.getD 1 0 = s.mgmt.stageWord ∧ SameMemory s t) ∧
    (s.mgmt.mbcmd = 0x02 →
      let image := hostBytes s (s.mgmt.arg 0) (s.mgmt.arg 1).toNat
      (Config.firmwareVerifies image = false →
        ∃ t, exec .fwload s = .next t ∧ t.mgmt.mbstat = 2 ∧ t.mgmt.error = 1 ∧ SameMemory s t) ∧
      (Config.firmwareVerifies image = true → (Config.firmwareIndex image).toNat < s.mgmt.rollback.toNat →
        ∃ t, exec .fwload s = .next t ∧ t.mgmt.mbstat = 2 ∧ t.mgmt.error = 2 ∧ SameMemory s t) ∧
      (Config.firmwareVerifies image = true → s.mgmt.rollback.toNat ≤ (Config.firmwareIndex image).toNat →
        ∃ t, exec .fwload s = .next t ∧ t.mgmt.mbstat = 2 ∧ t.mgmt.imgIndex = Config.firmwareIndex image ∧ SameMemory s t)) ∧
    (s.mgmt.mbcmd = 0x03 → ∃ t, exec .rollfwd s = .next t ∧ t.mgmt.mbstat = 2 ∧
      t.mgmt.rollback.toNat = max s.mgmt.rollback.toNat s.mgmt.imgIndex.toNat ∧ SameMemory s t) ∧
    (s.mgmt.mbcmd = 0x08 → ∃ t, exec .evring s = .next t ∧ t.mgmt.mbstat = 2 ∧ t.mgmt.evbase = s.mgmt.arg 0 ∧
      t.mgmt.events = (s.mgmt.arg 1).extractLsb' 0 16 ∧ SameMemory s t) ∧
    (s.mgmt.mbcmd = 0x10 →
      let entry := (s.mgmt.arg 0).toNat % 64
      let words := doublesOf (hostBytes s (s.mgmt.arg 1) 256)
      let tag := (words.getD 0 0).extractLsb' 48 8
      let written := homeWords none (hbmLoc (Config.contextTable.toNat + 256 * entry)) words s
      (activeEntry s entry = none → (words.getD 0 0).msb = true → (s.context tag).active = false →
        ∃ t, exec .ctxwrite s = .next t ∧ t.mgmt.mbstat = 2 ∧
          t.context tag = { Context.none with entry := entry, words := words, active := true }) ∧
      (activeEntry s entry = none → (words.getD 0 0).msb = true → (s.context tag).active = true →
        exec .ctxwrite s = .next (commandRefused 0x04 s)) ∧
      (activeEntry s entry = none → (words.getD 0 0).msb = false → exec .ctxwrite s = .next (commandDone written)) ∧
      (∀ old, activeEntry s entry = some old → (words.getD 0 0).msb = true → exec .ctxwrite s = .next (commandDone written)) ∧
      (∀ old, activeEntry s entry = some old → (words.getD 0 0).msb = false → exec .ctxwrite s = .next
        (closeContext old (homeWords none (hbmLoc (Config.contextTable.toNat + 256 * entry)) words) s))) ∧
    (s.mgmt.mbcmd = 0x11 → ((∃ e ∈ s.contexts, e.2.active = true) → ∃ t, exec .partset s = .next t ∧ t.mgmt.mbstat = 3 ∧
        t.mgmt.mbcode = s.mgmt.mbcode ||| 0x03 ∧ t.mgmt.parts = s.mgmt.parts) ∧
      ((∀ e ∈ s.contexts, e.2.active = false) → ∃ t, exec .partset s = .next t ∧ t.mgmt.mbstat = 2 ∧
        t.mgmt.parts = (List.range 8).filterMap (fun i =>
          (partOf ((s.mgmt.arg 0).extractLsb' (8 * i) 8).toNat).map (fun p => (i, p))))) ∧
    (s.mgmt.mbcmd = 0x20 → exec .wstat s =
      .next (commandDone (toHost (s.mgmt.arg 1) (s.whorl ((s.mgmt.arg 0).toNat % 16)).status s))) ∧
    (s.mgmt.mbcmd = 0x21 → exec .retlist s = .next (commandDone (toHost (s.mgmt.arg 0) (s.retired.flatMap Retired.words) s))) ∧
    (s.mgmt.mbcmd = 0x30 →
      let cls := (s.mgmt.arg 0).toNat % 16
      let cap := ((s.mgmt.arg 0).extractLsb' 16 16).toNat
      let watts := ((s.mgmt.arg 1).extractLsb' 0 16).toNat
      ((cls ≤ 4 ∨ cls = 15) → (watts = 0 ∨ (1600 ≤ watts ∧ watts ≤ 3200)) → ∃ t, exec .islcap s = .next t ∧ t.mgmt.mbstat = 2 ∧
        t.mgmt.powerCap = (if watts = 0 then s.mgmt.powerCap else watts) ∧
        t.mgmt.caps = (if cls = 15 then s.mgmt.caps else if cap = 0 then erase s.mgmt.caps cls
          else ins s.mgmt.caps cls (max cap (islandFloor cls / 2)))) ∧
      ((4 < cls ∧ cls ≠ 15) ∨ (watts ≠ 0 ∧ (watts < 1600 ∨ 3200 < watts)) → exec .islcap s = .next (commandRefused 0x04 s))) ∧
    (s.mgmt.mbcmd = 0x31 → ∃ t, exec .skroute s = .next t ∧ t.mgmt.mbstat = 2 ∧
      look 0 t.mgmt.routes ((s.mgmt.arg 0).extractLsb' 0 16).toNat = (s.mgmt.arg 0).extractLsb' 16 16) ∧
    (s.mgmt.mbcmd = 0x40 → exec .reset s = .next (warmReset ((s.mgmt.arg 0).getLsbD 0) s))) ∧
  ∀ (s : State) (value : BitVec 64),
    (s.mgmt.mbstat ≠ 1 → value.toNat % 256 = 0x10 → s.accepts 6 = false → ∃ t, exec (.registerWrite 0x100 value) s = .next t ∧
      t.mgmt.mbstat = 3 ∧ t.mgmt.mbcode = 0x02 ∧ t.agenda = s.agenda) ∧
    (s.mgmt.mbstat ≠ 1 → value.toNat % 256 = 0x10 → s.accepts 6 = true → ∃ t, exec (.registerWrite 0x100 value) s = .next t ∧
      t.mgmt.mbstat = 1 ∧ t.mgmt.mbcmd = 0x10 ∧ t.agenda = s.agenda ++ [Instr.ctxwrite]) ∧
    (∀ i < 4, i < s.mgmt.args.length → ∃ t, exec (.registerWrite (0x108 + 8 * i) value) s = .next t ∧ t.mgmt.arg i = value ∧ SameMemory s t) ∧
    exec (.registerWrite 0x100 value) s = .next (startCommand (value.toNat % 256) s) ∧
    exec (.registerWrite 0x000 value) s = .next (if value.getLsbD 40 then { s with mgmt := { s.mgmt with dropped := false } } else s) ∧
    exec (.registerWrite 0x200 value) s = .next { s with agenda := s.agenda ++ [if value.getLsbD 40 then
      Instr.fresDeny (value.extractLsb' 32 8) (value.extractLsb' 0 32).toNat else Instr.fresRetry (value.extractLsb' 32 8) (value.extractLsb' 0 32).toNat] } ∧
    exec (.registerWrite 0x300 value) s = .next { s with mgmt := { s.mgmt with evbase := value } } ∧
    exec (.registerWrite 0x308 value) s = .next { s with mgmt := { s.mgmt with
      events := value.extractLsb' 0 16, evhead := value.extractLsb' 32 16 } }

/-- Staged start, warm reset, attestation, frequencies, power and temperature (R13, R330, R331, R336, R337, R339). The model's choice: what PERST
and a function-level reset keep (log 144), the payload of event 4 (log 145), and the step of 12.5 MHz and the least frequency of a class (log 146). -/
def Obligations.ManagementSteps : Prop :=
  (∀ s : State, ∃ t, exec .perstDeassertion s = .next t ∧ t.mgmt.stage = 0 ∧ t.mgmt.accept = 3 ∧ t.mgmt.error = 0 ∧ t.contexts = [] ∧
    t.launches = [] ∧ t.teams = [] ∧ t.waves = [] ∧ t.mgmt.bootCount = s.mgmt.bootCount + 1 ∧ t.mgmt.rollback = s.mgmt.rollback) ∧
  (∀ (s : State) (e : BitVec 8), s.accepts 1 = true → s.mgmt.error = 0 → s.mgmt.stage ≠ 3 →
    (e = 0 → ∃ t, exec (.stageAdvance e) s = .next t ∧ t.mgmt.stage = s.mgmt.stage + 1 ∧ t.mgmt.accept = acceptOf (s.mgmt.stage + 1) ∧
      SameMemory s t) ∧
    (e ≠ 0 → e.toNat ≤ 6 → ∃ t, exec (.stageAdvance e) s = .next t ∧ t.mgmt.stage = s.mgmt.stage ∧ t.mgmt.error = e ∧ t.mgmt.accept = 3 ∧
      SameMemory s t)) ∧
  (∀ s : State, exec .stageDroppedClear s = .next { s with mgmt := { s.mgmt with dropped := false } }) ∧
  (∀ s : State, ∃ t, exec .functionLevelReset s = .next t ∧ t.mgmt.stage = 1 ∧ t.mgmt.retained = false ∧ t.contexts = [] ∧ t.launches = [] ∧
    t.teams = [] ∧ t.waves = []) ∧
  (∀ (s : State) (block : Nat), s.accepts 1 = true → block < 5 →
    (s.mgmt.lmsUsed < 2 ^ 20 → ∃ t, exec (.spdmRequest block) s = .next t ∧
      t.mgmt.spdm = s.mgmt.spdm ++ [some (s.mgmt.measured.getD block [] ++ [Config.ecdsaSign (s.mgmt.measured.getD block []),
        Config.lmsSign (s.mgmt.measured.getD block [])])] ∧ t.mgmt.lmsUsed = s.mgmt.lmsUsed + 1 ∧ SameMemory s t) ∧
    (2 ^ 20 ≤ s.mgmt.lmsUsed → exec (.spdmRequest block) s =
      .next { s with mgmt := { s.mgmt with spdm := s.mgmt.spdm ++ [none] } })) ∧
  (∀ (s : State) (w : Nat), (∃ t, exec (.modulePowerLoop w) s = .next t ∧ t.mgmt.power = w ∧ SameMemory s t ∧
      (w ≤ s.mgmt.powerCap → t = { s with mgmt := { s.mgmt with power := w } }) ∧
      (s.mgmt.powerCap < w → s.mgmt.tripped = false → ∀ cls < 5, ∀ i < islandCount cls, t.freq cls i =
        (if s.freq cls i = 0 then 0 else max (islandFloor cls) (s.freq cls i - 25)))) ∧
    (w ≤ 3400 → exec (.fastClamp w) s = .next s) ∧
    (3400 < w → s.mgmt.tripped = false → ∃ t, exec (.fastClamp w) s = .next t ∧
      ∀ i < 384, t.freq 1 i = (if s.freq 1 i = 0 then 0 else bestFreq 1 (s.freq 1 i / 2)))) ∧
  (∀ (s : State) (cls : BitVec 4) (index : Nat), index < islandCount cls.toNat → s.mgmt.tripped = false →
    exec (.thermalLimit cls index) s = .next (postEvent 4 0 [0#28 ++ cls ++ BitVec.ofNat 32 index]
      (if cls = 5 ∨ s.freq cls.toNat index = 0 then s
       else setFreq cls.toNat index (max (islandFloor cls.toNat) (s.freq cls.toNat index - 25)) s))) ∧
  (∀ s : State, s.mgmt.tripped = false → ∃ t, exec .thermalTrip s = .next t ∧ t.mgmt.tripped = true ∧ t.mgmt.stage = 0 ∧ t.mgmt.error = 7 ∧
    t.mgmt.accept = 3) ∧
  ∀ (s : State) (cls : BitVec 4) (index droop share : Nat), index < islandCount cls.toNat → cls ≠ 5 → s.mgmt.tripped = false →
    ∃ t, exec (.islandControlLoop cls index droop share) s = .next t ∧ (t.freq cls.toNat index = 0 ∨
      (islandFloor cls.toNat ≤ t.freq cls.toNat index ∧ t.freq cls.toNat index ≤ islandTop cls.toNat ∧
        t.freq cls.toNat index ≤ max (islandFloor cls.toNat) (2 * min droop share) ∧
        (s.mgmt.powerCap < s.mgmt.power → t.freq cls.toNat index ≤ max (islandFloor cls.toNat) (s.freq cls.toNat index)))) ∧ SameMemory s t

/-- A scalar word, a branch or a jump changes its destination, for the words of exec that mask, and its place in the code alone (R161, R162, R163,
R164, R165, R166, R167). -/
def Obligations.ScalarFrame : Prop :=
  (∀ f ∈ ([Instr.sadd, .ssub, .smul, .smulh, .smulhu, .sand, .sor, .sxor, .sshl, .sshr, .ssra, .smin, .smax, .sminu, .smaxu, .sandn, .sceq,
      .scne, .sclt, .scle, .scltu, .scleu, .scbit] : List (BitVec 7 → BitVec 7 → BitVec 7 → Bool → Bool → Instr)),
    ∀ (s t : State) (d a b : BitVec 7) (ea eb : Bool), Issues (useS3 d a b ea eb) s s → exec (f d a b ea eb) s = .next t →
      Frame [] [d.toNat] false s t) ∧
  (∀ (s t : State) (d a b : BitVec 7) (ea eb : Bool), Issues { useS3 d a b ea eb with oldS := [d.toNat] } s s →
    exec (.ssel d a b ea eb) s = .next t → Frame [] [d.toNat] false s t) ∧
  (∀ f ∈ ([Instr.saddi, .sandi, .sori, .sxori, .sshli, .sshri, .ssrai, .sclti] : List (BitVec 7 → BitVec 7 → BitVec 8 → Bool → Instr)),
    ∀ (s t : State) (d a : BitVec 7) (imm : BitVec 8) (ea : Bool), Issues (useS1 d a ea) s s → exec (f d a imm ea) s = .next t →
      Frame [] [d.toNat] false s t) ∧
  (∀ f ∈ ([Instr.spopc, .sffs, .sclz, .sctz, .sbrev, .sbswap, .sextb, .sexth, .sextw, .szextw] : List (BitVec 7 → BitVec 7 → Bool → Instr)),
    ∀ (s t : State) (d a : BitVec 7) (ea : Bool), Issues (useS1 d a ea) s s → exec (f d a ea) s = .next t →
      Frame [] [d.toNat] false s t) ∧
  (∀ (s t : State) (d : BitVec 7) (imm : BitVec 19) (k : BitVec 2) (half : BitVec 16),
    (Issues { dstS := [d.toNat] } s s → exec (.smovi d imm) s = .next t ∨ exec (.sgetx d) s = .next t ∨ exec (.sfullx d) s = .next t →
      Frame [] [d.toNat] false s t) ∧
    (Issues { oldS := [d.toNat], dstS := [d.toNat] } s s → exec (.sinsh d k half) s = .next t → Frame [] [d.toNat] false s t)) ∧
  (∀ (s t : State) (a : BitVec 7) (ea : Bool) (off : BitVec 14), Issues { srcS := [(a.toNat, ea)] } s s →
    (exec (.ssetx a ea) s = .next t → Frame [] [] false s (withExecOf s t)) ∧
    (∀ i ∈ [Instr.brz a ea off, .brnz a ea off, .brneg a ea off, .brpos a ea off], exec i s = .next t → Frame [] [] false s t) ∧
    (badTarget s.w (s.sreg a.toNat) = false → exec (.jmpr a ea) s = .next t → Frame [] [] false s t)) ∧
  (∀ f ∈ ([Instr.sandx, .sandnx, .sorx] : List (BitVec 7 → BitVec 7 → Bool → Instr)),
    ∀ (s t : State) (d a : BitVec 7) (ea : Bool), Issues (useS1 d a ea) s s → exec (f d a ea) s = .next t →
      Frame [] [d.toNat] false s (withExecOf s t)) ∧
  (∀ (s t : State) (off : BitVec 22), Issues {} s s → ∀ i ∈ [Instr.br off, .brxz off, .brxnz off, .brxall off, .nop],
    exec i s = .next t → Frame [] [] false s t) ∧
  ∀ (s t : State) (a : BitVec 7) (ea : Bool) (off : BitVec 22),
    (Issues { dstS := [127] } s s → exec (.call off) s = .next t → Frame [] [127] false s t) ∧
    (Issues { srcS := [(a.toNat, ea)], dstS := [127] } s s → badTarget s.w (s.sreg a.toNat) = false → exec (.callr a ea) s = .next t →
      Frame [] [127] false s t) ∧
    (Issues { oldS := [127] } s s → badTarget s.w (s.sreg 127) = false → exec .ret s = .next t → Frame [] [] false s t)

/-- A vector word changes its destination, vd of its acting threads; a float word, with no exception enabled, the flags as well (R58, R181, R184,
R185, R186, R187, R188, R190, R191, R192, R193, R194). -/
def Obligations.VectorFrame : Prop :=
  (∀ f ∈ ([Instr.vadd, .vsub, .vmullo, .vmulhi, .vmulhu, .vmin, .vmax, .vminu, .vmaxu, .vand, .vor, .vxor, .vandn, .vshl, .vshr, .vsra] : List (BitVec 7 → BitVec 7 → BitVec 7 → Bool → Bool → Instr)),
    ∀ (s s' t : State) (d a b : BitVec 7) (ea eb : Bool), Issues (useV3 d a b ea eb) s s' → exec (f d a b ea eb) s = .next t →
      Frame [d.toNat] [] false s' t ∧ KeepsInactive d.toNat s' t) ∧
  (∀ f ∈ ([Instr.vadds, .vsubs, .vmuls, .vands, .vors, .vxors, .vshls, .vshrs] : List (BitVec 7 → BitVec 7 → BitVec 7 → Bool → Bool → Instr)),
    ∀ (s s' t : State) (d a b : BitVec 7) (ea eb : Bool), Issues (useVS d a b ea eb) s s' → exec (f d a b ea eb) s = .next t →
      Frame [d.toNat] [] false s' t ∧ KeepsInactive d.toNat s' t) ∧
  (∀ f ∈ ([Instr.vaddi, .vandi, .vori, .vxori, .vmuli, .vshli, .vshri, .vsrai] : List (BitVec 7 → BitVec 7 → BitVec 8 → Bool → Instr)),
    ∀ (s s' t : State) (d a : BitVec 7) (imm : BitVec 8) (ea : Bool), Issues (useV1 d a ea) s s' → exec (f d a imm ea) s = .next t →
      Frame [d.toNat] [] false s' t ∧ KeepsInactive d.toNat s' t) ∧
  (∀ f ∈ ([Instr.vfadd, .vfsub, .vfmul, .vfmin, .vfmax, .vhadd, .vhmul, .vbadd, .vbmul] : List (BitVec 7 → BitVec 7 → BitVec 7 → Bool → Bool → Instr)),
    ∀ (s s' t : State) (d a b : BitVec 7) (ea eb : Bool), Issues (useV3 d a b ea eb) s s' → s'.w.fte = 0 → exec (f d a b ea eb) s = .next t →
      Frame [d.toNat] [] true s' t ∧ KeepsInactive d.toNat s' t) ∧
  (∀ f ∈ ([Instr.vfadds, .vfsubs, .vfmuls, .vfmins, .vfmaxs] : List (BitVec 7 → BitVec 7 → BitVec 7 → Bool → Bool → Instr)),
    ∀ (s s' t : State) (d a b : BitVec 7) (ea eb : Bool), Issues (useVS d a b ea eb) s s' → s'.w.fte = 0 → exec (f d a b ea eb) s = .next t →
      Frame [d.toNat] [] true s' t ∧ KeepsInactive d.toNat s' t) ∧
  (∀ f ∈ ([Instr.vfmac, .vfmsc, .vfnmac, .vhmac, .vbmac, .vhdot, .vbdot] : List (BitVec 7 → BitVec 7 → BitVec 7 → Bool → Bool → Instr)),
    ∀ (s s' t : State) (d a b : BitVec 7) (ea eb : Bool), Issues { useV3 d a b ea eb with oldV := [d.toNat] } s s' → s'.w.fte = 0 →
      exec (f d a b ea eb) s = .next t → Frame [d.toNat] [] true s' t ∧ KeepsInactive d.toNat s' t) ∧
  (∀ (s s' t : State) (d a b : BitVec 7) (ea eb : Bool), Issues { useVS d a b ea eb with oldV := [d.toNat] } s s' → s'.w.fte = 0 →
    exec (.vfmacs d a b ea eb) s = .next t → Frame [d.toNat] [] true s' t ∧ KeepsInactive d.toNat s' t) ∧
  (∀ f ∈ ([Instr.vceq, .vcne, .vclt, .vcle, .vcgt, .vcge, .vcltu, .vcleu] : List (BitVec 7 → BitVec 7 → BitVec 7 → Bool → Bool → Instr)),
    ∀ (s s' t : State) (d a b : BitVec 7) (ea eb : Bool), Issues (useVC d a b ea eb) s s' → exec (f d a b ea eb) s = .next t →
      Frame [] [d.toNat] false s' t) ∧
  (∀ f ∈ ([Instr.vfceq, .vfcne, .vfclt, .vfcle, .vfcun, .vfslt, .vfsle] : List (BitVec 7 → BitVec 7 → BitVec 7 → Bool → Bool → Instr)),
    ∀ (s s' t : State) (d a b : BitVec 7) (ea eb : Bool), Issues (useVC d a b ea eb) s s' → s'.w.fte = 0 → exec (f d a b ea eb) s = .next t →
      Frame [] [d.toNat] true s' t) ∧
  (∀ (s s' t : State) (d a b : BitVec 7) (sel : BitVec 2) (imm : BitVec 7) (ea eb : Bool),
    ∀ p ∈ ([(Instr.vmov d a ea, useV1 d a ea), (.vclz d a ea, useV1 d a ea), (.vpopc d a ea, useV1 d a ea), (.vbrev d a ea, useV1 d a ea),
        (.vmovs d b eb, { covered := true, srcS := [(b.toNat, eb)], dstV := [d.toNat] }), (.vtid d, { covered := true, dstV := [d.toNat] }),
        (.vrdx d b ea eb, useVrdx s d.toNat b.toNat ea eb), (.vshuf d a b ea eb, useV3 d a b ea eb), (.vshfx d a imm ea, useV1 d a ea),
        (.vrots d a b ea eb, useV3 d a b ea eb), (.vbcst d a ea, useV1 d a ea), (.vscan d a ea, useV1 d a ea),
        (.vunpk6 d a sel ea, { useV1 d a ea with srcV := (regsFrom a 3).map (fun r => (r, ea)), illegal := s.w.rangeHitsPort a.toNat 3 })] :
        List (Instr × Use)),
      Issues p.2 s s' → exec p.1 s = .next t → Frame [d.toNat] [] false s' t ∧ KeepsInactive d.toNat s' t) ∧
  (∀ (s s' t : State) (a b : BitVec 7) (ea eb : Bool) (x : Nat), indexed s b.toNat = some x → Issues (useVwrx s a.toNat b.toNat ea eb) s s' →
    exec (.vwrx a b ea eb) s = .next t → Frame [x] [] false s' t ∧ KeepsInactive x s' t) ∧
  (∀ (s s' t : State) (d a : BitVec 7) (sel : BitVec 2) (ea : Bool),
    (Issues { covered := true, srcV := [(a.toNat, ea)], oldV := regsFrom d 3, dstV := regsFrom d 3, illegal := s.w.rangeHitsPort d.toNat 3 } s s' →
      exec (.vpk6 d a sel ea) s = .next t → Frame (regsFrom d 3) [] false s' t ∧ ∀ r ∈ regsFrom d 3, KeepsInactive r s' t) ∧
    (Issues (useV1 d a ea) s s' → exec (.vcmpk d a ea) s = .next t → Frame [d.toNat] [] false s' t ∧
      (s'.w.undefRegs = [] → ∀ th < 64, s'.w.actingThreads.length ≤ th → t.vreg d.toNat th = s'.vreg d.toNat th)) ∧
    (Issues { covered := true, srcV := [(a.toNat, ea)], dstS := [d.toNat] } s s' →
      (exec (.vreda d a ea) s = .next t → Frame [] [d.toNat] false s' t) ∧
      (s'.w.fte = 0 → exec (.vredf d a ea) s = .next t → Frame [] [d.toNat] true s' t)) ∧
    (Issues { useV1 d a ea with late := true } s s' → ∀ i ∈ [Instr.vrcp d a ea, .vrsq d a ea, .vsqrt d a ea, .vexp2 d a ea, .vlog2 d a ea,
      .vsin d a ea, .vcos d a ea, .vtanh d a ea], exec i s = .next t → UnitFrame [d.toNat] s' t)) ∧
  ∀ (s s' t : State) (d a : BitVec 7) (slot : BitVec 3) (rnd sel : BitVec 2) (ea : Bool), s'.w.fte = 0 →
    let part : Use := { useV1 d a ea with oldV := [d.toNat] }
    ∀ p ∈ ([(Instr.vcf32h d a sel ea, useV1 d a ea), (.vcf32b d a sel ea, useV1 d a ea), (.vci32 d a rnd ea, useV1 d a ea),
        (.vcf32i d a rnd ea, useV1 d a ea), (.vcn32 d a rnd ea, useV1 d a ea), (.vcf32n d a rnd ea, useV1 d a ea),
        (.vcf32t6 d a sel ea, useV1 d a ea), (.vcwid d a slot sel ea, { useV1 d a ea with illegal := slotIllegal s.w slot.toNat Element.isByte }),
        (.vcf16 d a rnd sel ea, part), (.vcbf d a rnd sel ea, part),
        (.vcnar d a slot rnd sel ea, { part with illegal := slotIllegal s.w slot.toNat Element.isByte }),
        (.vct6 d a slot rnd sel ea, { part with illegal := slotIllegal s.w slot.toNat (fun el => el == .t6) })] : List (Instr × Use)),
      Issues p.2 s s' → exec p.1 s = .next t → Frame [d.toNat] [] true s' t ∧ KeepsInactive d.toNat s' t

/-- A load or store leaves memory as its translations left it until it is performed, and its registers alone change (R119, R148, R197, R198). -/
def Obligations.MemoryFrame : Prop :=
  (∀ p ∈ ([(Instr.sldb, 1, false), (Instr.sldh, 2, false), (Instr.sldw, 4, false), (Instr.sldd, 8, false), (Instr.sldbs, 1, true),
      (Instr.sldhs, 2, true), (Instr.sldws, 4, true)] : List ((BitVec 7 → BitVec 7 → BitVec 6 → Bool → Bool → Instr) × Nat × Bool)),
    ∀ (s t' t : State) (d o : BitVec 7) (h : BitVec 6) (byp ea : Bool) (hd : Handle) (places : List Place),
      let u : Use := { srcS := [(o.toNat, ea)], dstS := [d.toNat], late := true }
      let m : MemWord := {
        handle := h.toNat, byp := byp, kind := .load, n := p.2.1, align := p.2.1, op := .loadS d.toNat p.2.1 p.2.2,
        offs := [(64, (s.sreg o.toNat).toNat)], dstS := [d.toNat] }
      Issues u s s → Accesses m s s t' hd places → exec (p.1 d o h byp ea) s = .next t → AccessFrame [] [d.toNat] t' t) ∧
  (∀ p ∈ ([(Instr.sstb, 1), (Instr.ssth, 2), (Instr.sstw, 4), (Instr.sstd, 8)] :
      List ((BitVec 7 → BitVec 7 → BitVec 6 → Bool → Bool → Bool → Instr) × Nat)),
    ∀ (s t' t : State) (d o : BitVec 7) (h : BitVec 6) (byp ed ea : Bool) (hd : Handle) (places : List Place),
      let u : Use := { srcS := [(o.toNat, ea), (d.toNat, ed)] }
      let m : MemWord := {
        handle := h.toNat, byp := byp, kind := .store, n := p.2, align := p.2, op := .store,
        offs := [(64, (s.sreg o.toNat).toNat)], data := fun _ => bytesOfNat (s.sreg d.toNat).toNat p.2 }
      Issues u s s → Accesses m s s t' hd places → exec (p.1 d o h byp ed ea) s = .next t → AccessFrame [] [] t' t) ∧
  (∀ p ∈ ([(Instr.vldb, 1, false), (Instr.vldh, 2, false), (Instr.vldw, 4, false), (Instr.vldd, 8, false), (Instr.vldq, 16, false),
      (Instr.vldbs, 1, true), (Instr.vldhs, 2, true)] : List ((BitVec 7 → BitVec 7 → BitVec 6 → Bool → Bool → Instr) × Nat × Bool)),
    ∀ (s s' t' t : State) (d o : BitVec 7) (h : BitVec 6) (byp ea : Bool) (hd : Handle) (places : List Place),
      let k := (p.2.1 + 3) / 4
      let u : Use := { covered := true, srcV := [(o.toNat, ea)], dstV := regsFrom d k, late := true }
      let m : MemWord := {
        handle := h.toNat, byp := byp, kind := .load, n := p.2.1, align := p.2.1, op := .loadV d.toNat p.2.1 p.2.2,
        offs := s'.w.actingThreads.map (fun th => (th, (s'.vreg o.toNat th).toNat)), dstV := regsFrom d k }
      badGroup s d k = false → Issues u s s' → Accesses m s s' t' hd places → exec (p.1 d o h byp ea) s = .next t →
        AccessFrame (regsFrom d k) [] t' t) ∧
  (∀ (s s' t' t : State) (d o : BitVec 7) (h : BitVec 6) (byp ed ea : Bool) (hd : Handle) (places : List Place),
    let k := lineRegs s
    let offs := (s'.w.actingThreads.map (fun th => (th, (s'.vreg o.toNat th).toNat))).take 1
    badGroup s d k = false →
    (let u : Use := { covered := true, srcV := [(o.toNat, ea)], dstV := regsFrom d k, late := true }
      let m : MemWord := {
        handle := h.toNat, byp := byp, kind := .load, n := 128, align := 128, op := .loadL d.toNat, offs := offs,
        line := true, dstV := regsFrom d k }
      Issues u s s' → Accesses m s s' t' hd places → exec (.vldl d o h byp ea) s = .next t → AccessFrame (regsFrom d k) [] t' t) ∧
    (let u : Use := { covered := true, srcV := (o.toNat, ea) :: (regsFrom d k).map (fun r => (r, ed)) }
      let m : MemWord := {
        handle := h.toNat, byp := byp, kind := .store, n := 128, align := 128, op := .store, offs := offs,
        data := fun th => (regsFrom d k).flatMap (fun r => bytesOfNat (s'.vreg r th).toNat 4), line := true }
      Issues u s s' → Accesses m s s' t' hd places → exec (.vstl d o h byp ed ea) s = .next t → AccessFrame [] [] t' t)) ∧
  ∀ p ∈ ([(Instr.vstb, 1), (Instr.vsth, 2), (Instr.vstw, 4), (Instr.vstd, 8), (Instr.vstq, 16)] :
      List ((BitVec 7 → BitVec 7 → BitVec 6 → Bool → Bool → Bool → Instr) × Nat)),
    ∀ (s s' t' t : State) (d o : BitVec 7) (h : BitVec 6) (byp ed ea : Bool) (hd : Handle) (places : List Place),
      let k := (p.2 + 3) / 4
      let u : Use := { covered := true, srcV := (o.toNat, ea) :: (regsFrom d k).map (fun r => (r, ed)) }
      let m : MemWord := {
        handle := h.toNat, byp := byp, kind := .store, n := p.2, align := p.2, op := .store,
        offs := s'.w.actingThreads.map (fun th => (th, (s'.vreg o.toNat th).toNat)), data := vectorData s' d k p.2 }
      badGroup s d k = false → Issues u s s' → Accesses m s s' t' hd places → exec (p.1 d o h byp ed ea) s = .next t →
        AccessFrame [] [] t' t

/-- A step runs the instruction that the bytes at the program counter decode to, or the step at the head of the agenda (R33, R45, R140, R141, R152). -/
def Obligations.StepRunsDecoded : Prop :=
  (∀ (s s' : State) (k : Nat) (w0 w1 : W32), s.agenda = [] → issuers s = [k] → deviceChoices s = [] → prepare (s.focusOn k) = .words w0 w1 s' →
    (∀ i, decode w0 w1 = .ok i → step s = onNext (endTurn (some k)) (onNext (afterIssue s') (exec i s'))) ∧
    (∀ e, decode w0 w1 = .error e → step s = onNext (endTurn (some k)) (onNext (afterIssue s') (exec (.illegalInstruction w0) s')))) ∧
  (∀ (s : State) (i : Instr) (rest : List Instr), s.agenda = i :: rest →
    step s = onNext (endTurn none) (exec i (foreseen i { s with agenda := rest })) ∧
    ((∀ q, i ≠ .slotArbitration q) → step s = onNext (endTurn none) (exec i { s with agenda := rest }))) ∧
  (∀ (s s1 s2 : State) (x y : W32),
    let p := s.w.a.pos
    s.w.pend = none → s.w.txn.any (·.faulted) = false → awaitsFlags s = false → p.inClause = true → p.index ≠ 0 → headerD p.header p.index = false → fetchWord p.pc s = (s1, .word x) →
    wordBad p x = false →
    (isLong x = false → prepare s = .words x 0 (s1.onWave (fun w => { w with inst := x.setWidth 64 }))) ∧
    (isLong x = true → fetchWord (p.pc + 4) s1 = (s2, .word y) → prepare s = .words x y (s2.onWave (fun w => { w with inst := y ++ x })))) ∧
  (∀ (s : State) (pc : W64) (x : W32), inCode s.w pc = true → find s.w.kept pc.toNat = some x → fetchWord pc s = (s, .word x)) ∧
  ∀ (s s1 : State) (pc : W64) (locs : List Nat), inCode s.w pc = true → find s.w.kept pc.toNat = none →
    translateBytes s (.core s.w.core) s.w.env.tag pc 4 Access.fetch = (s1, .inl locs) → anyPoison s1 locs = false →
    find (s1.core s1.w.core).fetched (fetchKey s1.w.env.tag pc) = none →
    ∃ s2, fetchWord pc s = (s2, .word (BitVec.ofNat 32 (natOfBytes (readLocs s1.mem locs)))) ∧ s2.w = s1.w ∧ s2.mem = s1.mem

/-- Words written out from the spec's encodings decode to the instructions they stand for (R162, R166, R167, R168, R211, R215, R217). -/
def Obligations.DecodedWords : Prop :=
  decodeTableWord 32 0x08103090 = some (.scltu 2 3 4 false false) ∧ decodeTableWord 32 0x28000008 = some .ret ∧
  decodeTableWord 32 0x21000028 = some (.call 40) ∧ decodeTableWord 32 0x30000000 = some .nop ∧
  decodeTableWord 64 0x000000009c50b180 = some (.cpy 10 11 12 false false false 0 false) ∧
  decodeTableWord 32 0xa0000000 = some .fence ∧ decodeTableWord 32 0xa0000004 = some .fencei ∧ decodeTableWord 32 0xa0000008 = some .fenceh ∧
  decodeTableWord 64 0x01000000a45031c0 = some (.slbxl 10 3 7 false 1) ∧ decodeTableWord 32 0xf8000000 = none

/-- Decoding the bytes of every well-formed word of the opcode table gives the word back, whatever follows (R44, R45, R152). -/
def Obligations.RoundTrip : Prop :=
  ∀ (i : Instr) (rest : List Byte), i.wellFormed = true → (encode i).isSome = true →
    decodeBytes (encodeBytes i ++ rest) = .ok (i, rest) ∧ (encodeBytes i).length = (if isLong (wordOfBytes ((encodeBytes i).getD 0 0)
      ((encodeBytes i).getD 1 0) ((encodeBytes i).getD 2 0) ((encodeBytes i).getD 3 0)) then 8 else 4)

/-- The decoder accepts the encodings alone: words it accepts are the encoding of what it answers (R45, R46, R152). -/
def Obligations.DecodeUnique : Prop :=
  (∀ (w0 w1 : W32) (i : Instr), decode w0 w1 = .ok i → encode i = some (w0, if isLong w0 then some w1 else none)) ∧
  ∀ (w0 w1 v0 v1 : W32) (i : Instr), decode w0 w1 = .ok i → decode v0 v1 = .ok i → w0 = v0 ∧ (isLong w0 = true → w1 = v1)

/-- Memory is in its canonical form at reset, and every byte reads as zero (R101, R331). -/
def Obligations.CanonicalReset : Prop :=
  Canonical State.reset ∧ ∀ loc, readByte State.reset.mem loc = 0

/-- Every step keeps memory in its canonical form (R101, R119, R137). -/
def Obligations.CanonicalStep : Prop :=
  ∀ s t : State, Canonical s → step s = .next t → Canonical t

/-- No instruction and no step of the device stops: each answers a next state (R151, R152, R153). -/
def Obligations.NeverStops : Prop :=
  (∀ (i : Instr) (s : State), ∃ t, exec i s = .next t) ∧ ∀ s : State, ∃ t, step s = .next t

/-- After reset the part stands before start-up (R39, R331, R332). The model's choice: no wave, team, launch, context, translation, queue, cached
tile or link, and the mailbox at zero (logs 2, 72 and 148). -/
def Obligations.ResetValues : Prop :=
  State.reset.mgmt.stage = 0 ∧ State.reset.mgmt.error = 0 ∧ State.reset.mgmt.mbstat = 0 ∧ State.reset.accepts 4 = false ∧
  State.reset.mgmt.skeinUp = 0 ∧ State.reset.mgmt.cxlUp = 0 ∧
  (∀ k, (State.reset.wave k).station = .vacant) ∧ State.reset.teams = [] ∧ State.reset.launches = [] ∧
  (∀ tag, (State.reset.context tag).active = false) ∧ State.reset.tlb = [] ∧ State.reset.distaff = [] ∧ State.reset.carders = [] ∧
  (∀ c, (State.reset.core c).spindle = []) ∧ (∀ i t, (State.reset.whorl i).tileOf t = none) ∧
  ∃ t, step State.reset = .next t ∧ t.cycle = State.reset.cycle + 1 ∧ t.mem = State.reset.mem ∧ t.w.station = .vacant

/-- A wave declared with S scalar registers owns s0 to s(S - 2) and s127 (R30). -/
def Obligations.OwnedScalars : Prop :=
  (∀ (w : Wave) (r : Nat), 1 ≤ w.sregs → r < 128 → (w.badS r = false ↔ r + 2 ≤ w.sregs ∨ r = 127)) ∧
  (∀ w : Wave, w.badS 127 = false) ∧
  ∀ (w : Wave) (r : Nat), w.sregs = 16 → (w.badS r = false ↔ r ≤ 14 ∨ r = 127)
end

