-- ==== Sys2Proof/Laws/Bits.lean ====
section
/-! SUPPORT. Fields of concatenated bits, for the decoder. -/

namespace Sys2Proof.Laws

theorem ext_low {m n : Nat} (x : BitVec m) (y : BitVec n) (lo k : Nat) (h : lo + k ≤ n) :
    (x ++ y).extractLsb' lo k = y.extractLsb' lo k := by
  apply BitVec.eq_of_getLsbD_eq
  intro i hi
  simp [BitVec.getLsbD_append, hi, show lo + i < n by omega]

theorem ext_high {m n : Nat} (x : BitVec m) (y : BitVec n) (lo k : Nat) (h : n ≤ lo) :
    (x ++ y).extractLsb' lo k = x.extractLsb' (lo - n) k := by
  apply BitVec.eq_of_getLsbD_eq
  intro i hi
  simp [BitVec.getLsbD_append, hi, show ¬ lo + i < n by omega, show lo + i - n = lo - n + i by omega]

theorem ext_all {n : Nat} (x : BitVec n) : x.extractLsb' 0 n = x := by
  apply BitVec.eq_of_getLsbD_eq
  intro i hi
  simp [hi]

theorem bit_low {m n : Nat} (x : BitVec m) (y : BitVec n) (i : Nat) (h : i < n) :
    (x ++ y).getLsbD i = y.getLsbD i := by
  simp [BitVec.getLsbD_append, h]

theorem bit_high {m n : Nat} (x : BitVec m) (y : BitVec n) (i : Nat) (h : n ≤ i) :
    (x ++ y).getLsbD i = x.getLsbD (i - n) := by
  simp [BitVec.getLsbD_append, show ¬ i < n by omega]

theorem bit_ofBool (b : Bool) : (BitVec.ofBool b).getLsbD 0 = b := by cases b <;> rfl

/-- A mask that misses both parts of a word misses the word. -/
theorem and_append_zero {m n : Nat} (x : BitVec m) (y : BitVec n) (k : BitVec (m + n))
    (hx : x &&& k.extractLsb' n m = 0#m) (hy : y &&& k.extractLsb' 0 n = 0#n) : (x ++ y) &&& k = 0#(m + n) := by
  apply BitVec.eq_of_getLsbD_eq
  intro i hi
  by_cases h : i < n
  · have := congrArg (fun z => z.getLsbD i) hy
    simp [h] at this
    simp [BitVec.getLsbD_append, h]
    exact this
  · have := congrArg (fun z => z.getLsbD (i - n)) hx
    simp [show i - n < m by omega, show n + (i - n) = i by omega] at this
    simp [BitVec.getLsbD_append, h]
    exact this

theorem checked_ok (p : Prop) [Decidable p] (i : Instr) (h : p) : checked p i = .ok i := if_pos h

end Sys2Proof.Laws
end

