-- ==== Sys2Proof/Laws/State.lean ====
section
/-! SUPPORT. What each update of the state leaves in each field: one lemma per field per update, so that no proof unfolds an
update. The fields of the wave in focus follow from the `_w` lemma of an update. -/

set_option Elab.async false

namespace Sys2Proof.Machine

/-! ### `State.onWave` -/

@[simp] theorem State.onWave_w (s : State) (f : Wave → Wave) : (s.onWave f).w = f s.w := rfl
@[simp] theorem State.onWave_waves (s : State) (f : Wave → Wave) : (s.onWave f).waves = s.waves := rfl
@[simp] theorem State.onWave_focus (s : State) (f : Wave → Wave) : (s.onWave f).focus = s.focus := rfl
@[simp] theorem State.onWave_holders (s : State) (f : Wave → Wave) : (s.onWave f).holders = s.holders := rfl
@[simp] theorem State.onWave_agenda (s : State) (f : Wave → Wave) : (s.onWave f).agenda = s.agenda := rfl
@[simp] theorem State.onWave_free (s : State) (f : Wave → Wave) : (s.onWave f).free = s.free := rfl
@[simp] theorem State.onWave_nanotime (s : State) (f : Wave → Wave) : (s.onWave f).nanotime = s.nanotime := rfl
@[simp] theorem State.onWave_cycle (s : State) (f : Wave → Wave) : (s.onWave f).cycle = s.cycle := rfl
@[simp] theorem State.onWave_stamp (s : State) (f : Wave → Wave) : (s.onWave f).stamp = s.stamp := rfl
@[simp] theorem State.onWave_mem (s : State) (f : Wave → Wave) : (s.onWave f).mem = s.mem := rfl
@[simp] theorem State.onWave_poison (s : State) (f : Wave → Wave) : (s.onWave f).poison = s.poison := rfl
@[simp] theorem State.onWave_damage (s : State) (f : Wave → Wave) : (s.onWave f).damage = s.damage := rfl
@[simp] theorem State.onWave_decided (s : State) (f : Wave → Wave) : (s.onWave f).decided = s.decided := rfl
@[simp] theorem State.onWave_hostCopy (s : State) (f : Wave → Wave) : (s.onWave f).hostCopy = s.hostCopy := rfl
@[simp] theorem State.onWave_lanemaps (s : State) (f : Wave → Wave) : (s.onWave f).lanemaps = s.lanemaps := rfl
@[simp] theorem State.onWave_teams (s : State) (f : Wave → Wave) : (s.onWave f).teams = s.teams := rfl
@[simp] theorem State.onWave_launches (s : State) (f : Wave → Wave) : (s.onWave f).launches = s.launches := rfl
@[simp] theorem State.onWave_contexts (s : State) (f : Wave → Wave) : (s.onWave f).contexts = s.contexts := rfl
@[simp] theorem State.onWave_whorls (s : State) (f : Wave → Wave) : (s.onWave f).whorls = s.whorls := rfl
@[simp] theorem State.onWave_cores (s : State) (f : Wave → Wave) : (s.onWave f).cores = s.cores := rfl
@[simp] theorem State.onWave_tlb (s : State) (f : Wave → Wave) : (s.onWave f).tlb = s.tlb := rfl
@[simp] theorem State.onWave_tlbinvs (s : State) (f : Wave → Wave) : (s.onWave f).tlbinvs = s.tlbinvs := rfl
@[simp] theorem State.onWave_ats (s : State) (f : Wave → Wave) : (s.onWave f).ats = s.ats := rfl
@[simp] theorem State.onWave_carders (s : State) (f : Wave → Wave) : (s.onWave f).carders = s.carders := rfl
@[simp] theorem State.onWave_distaff (s : State) (f : Wave → Wave) : (s.onWave f).distaff = s.distaff := rfl
@[simp] theorem State.onWave_egress (s : State) (f : Wave → Wave) : (s.onWave f).egress = s.egress := rfl
@[simp] theorem State.onWave_seqTable (s : State) (f : Wave → Wave) : (s.onWave f).seqTable = s.seqTable := rfl
@[simp] theorem State.onWave_retired (s : State) (f : Wave → Wave) : (s.onWave f).retired = s.retired := rfl
@[simp] theorem State.onWave_mgmt (s : State) (f : Wave → Wave) : (s.onWave f).mgmt = s.mgmt := rfl
@[simp] theorem State.onWave_reads (s : State) (f : Wave → Wave) : (s.onWave f).reads = s.reads := rfl
@[simp] theorem State.onWave_parked (s : State) (f : Wave → Wave) : (s.onWave f).parked = s.parked := rfl
@[simp] theorem State.onWave_walks (s : State) (f : Wave → Wave) : (s.onWave f).walks = s.walks := rfl
@[simp] theorem State.onWave_walkCache (s : State) (f : Wave → Wave) : (s.onWave f).walkCache = s.walkCache := rfl
@[simp] theorem State.onWave_moves (s : State) (f : Wave → Wave) : (s.onWave f).moves = s.moves := rfl

/-! ### `State.onArch` -/

@[simp] theorem State.onArch_w (s : State) (f : Arch → Arch) : (s.onArch f).w = { s.w with a := f s.w.a } := rfl
@[simp] theorem State.onArch_waves (s : State) (f : Arch → Arch) : (s.onArch f).waves = s.waves := rfl
@[simp] theorem State.onArch_focus (s : State) (f : Arch → Arch) : (s.onArch f).focus = s.focus := rfl
@[simp] theorem State.onArch_holders (s : State) (f : Arch → Arch) : (s.onArch f).holders = s.holders := rfl
@[simp] theorem State.onArch_agenda (s : State) (f : Arch → Arch) : (s.onArch f).agenda = s.agenda := rfl
@[simp] theorem State.onArch_free (s : State) (f : Arch → Arch) : (s.onArch f).free = s.free := rfl
@[simp] theorem State.onArch_nanotime (s : State) (f : Arch → Arch) : (s.onArch f).nanotime = s.nanotime := rfl
@[simp] theorem State.onArch_cycle (s : State) (f : Arch → Arch) : (s.onArch f).cycle = s.cycle := rfl
@[simp] theorem State.onArch_stamp (s : State) (f : Arch → Arch) : (s.onArch f).stamp = s.stamp := rfl
@[simp] theorem State.onArch_mem (s : State) (f : Arch → Arch) : (s.onArch f).mem = s.mem := rfl
@[simp] theorem State.onArch_poison (s : State) (f : Arch → Arch) : (s.onArch f).poison = s.poison := rfl
@[simp] theorem State.onArch_damage (s : State) (f : Arch → Arch) : (s.onArch f).damage = s.damage := rfl
@[simp] theorem State.onArch_decided (s : State) (f : Arch → Arch) : (s.onArch f).decided = s.decided := rfl
@[simp] theorem State.onArch_hostCopy (s : State) (f : Arch → Arch) : (s.onArch f).hostCopy = s.hostCopy := rfl
@[simp] theorem State.onArch_lanemaps (s : State) (f : Arch → Arch) : (s.onArch f).lanemaps = s.lanemaps := rfl
@[simp] theorem State.onArch_teams (s : State) (f : Arch → Arch) : (s.onArch f).teams = s.teams := rfl
@[simp] theorem State.onArch_launches (s : State) (f : Arch → Arch) : (s.onArch f).launches = s.launches := rfl
@[simp] theorem State.onArch_contexts (s : State) (f : Arch → Arch) : (s.onArch f).contexts = s.contexts := rfl
@[simp] theorem State.onArch_whorls (s : State) (f : Arch → Arch) : (s.onArch f).whorls = s.whorls := rfl
@[simp] theorem State.onArch_cores (s : State) (f : Arch → Arch) : (s.onArch f).cores = s.cores := rfl
@[simp] theorem State.onArch_tlb (s : State) (f : Arch → Arch) : (s.onArch f).tlb = s.tlb := rfl
@[simp] theorem State.onArch_tlbinvs (s : State) (f : Arch → Arch) : (s.onArch f).tlbinvs = s.tlbinvs := rfl
@[simp] theorem State.onArch_ats (s : State) (f : Arch → Arch) : (s.onArch f).ats = s.ats := rfl
@[simp] theorem State.onArch_carders (s : State) (f : Arch → Arch) : (s.onArch f).carders = s.carders := rfl
@[simp] theorem State.onArch_distaff (s : State) (f : Arch → Arch) : (s.onArch f).distaff = s.distaff := rfl
@[simp] theorem State.onArch_egress (s : State) (f : Arch → Arch) : (s.onArch f).egress = s.egress := rfl
@[simp] theorem State.onArch_seqTable (s : State) (f : Arch → Arch) : (s.onArch f).seqTable = s.seqTable := rfl
@[simp] theorem State.onArch_retired (s : State) (f : Arch → Arch) : (s.onArch f).retired = s.retired := rfl
@[simp] theorem State.onArch_mgmt (s : State) (f : Arch → Arch) : (s.onArch f).mgmt = s.mgmt := rfl
@[simp] theorem State.onArch_reads (s : State) (f : Arch → Arch) : (s.onArch f).reads = s.reads := rfl
@[simp] theorem State.onArch_parked (s : State) (f : Arch → Arch) : (s.onArch f).parked = s.parked := rfl
@[simp] theorem State.onArch_walks (s : State) (f : Arch → Arch) : (s.onArch f).walks = s.walks := rfl
@[simp] theorem State.onArch_walkCache (s : State) (f : Arch → Arch) : (s.onArch f).walkCache = s.walkCache := rfl
@[simp] theorem State.onArch_moves (s : State) (f : Arch → Arch) : (s.onArch f).moves = s.moves := rfl

/-! ### `State.setV` -/

@[simp] theorem State.setV_w (s : State) (r t : Nat) (x : W32) : (s.setV r t x).w = { s.w with a := s.w.a.setV r t x } := rfl
@[simp] theorem State.setV_waves (s : State) (r t : Nat) (x : W32) : (s.setV r t x).waves = s.waves := rfl
@[simp] theorem State.setV_focus (s : State) (r t : Nat) (x : W32) : (s.setV r t x).focus = s.focus := rfl
@[simp] theorem State.setV_holders (s : State) (r t : Nat) (x : W32) : (s.setV r t x).holders = s.holders := rfl
@[simp] theorem State.setV_agenda (s : State) (r t : Nat) (x : W32) : (s.setV r t x).agenda = s.agenda := rfl
@[simp] theorem State.setV_free (s : State) (r t : Nat) (x : W32) : (s.setV r t x).free = s.free := rfl
@[simp] theorem State.setV_nanotime (s : State) (r t : Nat) (x : W32) : (s.setV r t x).nanotime = s.nanotime := rfl
@[simp] theorem State.setV_cycle (s : State) (r t : Nat) (x : W32) : (s.setV r t x).cycle = s.cycle := rfl
@[simp] theorem State.setV_stamp (s : State) (r t : Nat) (x : W32) : (s.setV r t x).stamp = s.stamp := rfl
@[simp] theorem State.setV_mem (s : State) (r t : Nat) (x : W32) : (s.setV r t x).mem = s.mem := rfl
@[simp] theorem State.setV_poison (s : State) (r t : Nat) (x : W32) : (s.setV r t x).poison = s.poison := rfl
@[simp] theorem State.setV_damage (s : State) (r t : Nat) (x : W32) : (s.setV r t x).damage = s.damage := rfl
@[simp] theorem State.setV_decided (s : State) (r t : Nat) (x : W32) : (s.setV r t x).decided = s.decided := rfl
@[simp] theorem State.setV_hostCopy (s : State) (r t : Nat) (x : W32) : (s.setV r t x).hostCopy = s.hostCopy := rfl
@[simp] theorem State.setV_lanemaps (s : State) (r t : Nat) (x : W32) : (s.setV r t x).lanemaps = s.lanemaps := rfl
@[simp] theorem State.setV_teams (s : State) (r t : Nat) (x : W32) : (s.setV r t x).teams = s.teams := rfl
@[simp] theorem State.setV_launches (s : State) (r t : Nat) (x : W32) : (s.setV r t x).launches = s.launches := rfl
@[simp] theorem State.setV_contexts (s : State) (r t : Nat) (x : W32) : (s.setV r t x).contexts = s.contexts := rfl
@[simp] theorem State.setV_whorls (s : State) (r t : Nat) (x : W32) : (s.setV r t x).whorls = s.whorls := rfl
@[simp] theorem State.setV_cores (s : State) (r t : Nat) (x : W32) : (s.setV r t x).cores = s.cores := rfl
@[simp] theorem State.setV_tlb (s : State) (r t : Nat) (x : W32) : (s.setV r t x).tlb = s.tlb := rfl
@[simp] theorem State.setV_tlbinvs (s : State) (r t : Nat) (x : W32) : (s.setV r t x).tlbinvs = s.tlbinvs := rfl
@[simp] theorem State.setV_ats (s : State) (r t : Nat) (x : W32) : (s.setV r t x).ats = s.ats := rfl
@[simp] theorem State.setV_carders (s : State) (r t : Nat) (x : W32) : (s.setV r t x).carders = s.carders := rfl
@[simp] theorem State.setV_distaff (s : State) (r t : Nat) (x : W32) : (s.setV r t x).distaff = s.distaff := rfl
@[simp] theorem State.setV_egress (s : State) (r t : Nat) (x : W32) : (s.setV r t x).egress = s.egress := rfl
@[simp] theorem State.setV_seqTable (s : State) (r t : Nat) (x : W32) : (s.setV r t x).seqTable = s.seqTable := rfl
@[simp] theorem State.setV_retired (s : State) (r t : Nat) (x : W32) : (s.setV r t x).retired = s.retired := rfl
@[simp] theorem State.setV_mgmt (s : State) (r t : Nat) (x : W32) : (s.setV r t x).mgmt = s.mgmt := rfl
@[simp] theorem State.setV_reads (s : State) (r t : Nat) (x : W32) : (s.setV r t x).reads = s.reads := rfl
@[simp] theorem State.setV_parked (s : State) (r t : Nat) (x : W32) : (s.setV r t x).parked = s.parked := rfl
@[simp] theorem State.setV_walks (s : State) (r t : Nat) (x : W32) : (s.setV r t x).walks = s.walks := rfl
@[simp] theorem State.setV_walkCache (s : State) (r t : Nat) (x : W32) : (s.setV r t x).walkCache = s.walkCache := rfl
@[simp] theorem State.setV_moves (s : State) (r t : Nat) (x : W32) : (s.setV r t x).moves = s.moves := rfl

/-! ### `State.setS` -/

@[simp] theorem State.setS_w (s : State) (r : Nat) (x : W64) : (s.setS r x).w = { s.w with a := s.w.a.setS r x } := rfl
@[simp] theorem State.setS_waves (s : State) (r : Nat) (x : W64) : (s.setS r x).waves = s.waves := rfl
@[simp] theorem State.setS_focus (s : State) (r : Nat) (x : W64) : (s.setS r x).focus = s.focus := rfl
@[simp] theorem State.setS_holders (s : State) (r : Nat) (x : W64) : (s.setS r x).holders = s.holders := rfl
@[simp] theorem State.setS_agenda (s : State) (r : Nat) (x : W64) : (s.setS r x).agenda = s.agenda := rfl
@[simp] theorem State.setS_free (s : State) (r : Nat) (x : W64) : (s.setS r x).free = s.free := rfl
@[simp] theorem State.setS_nanotime (s : State) (r : Nat) (x : W64) : (s.setS r x).nanotime = s.nanotime := rfl
@[simp] theorem State.setS_cycle (s : State) (r : Nat) (x : W64) : (s.setS r x).cycle = s.cycle := rfl
@[simp] theorem State.setS_stamp (s : State) (r : Nat) (x : W64) : (s.setS r x).stamp = s.stamp := rfl
@[simp] theorem State.setS_mem (s : State) (r : Nat) (x : W64) : (s.setS r x).mem = s.mem := rfl
@[simp] theorem State.setS_poison (s : State) (r : Nat) (x : W64) : (s.setS r x).poison = s.poison := rfl
@[simp] theorem State.setS_damage (s : State) (r : Nat) (x : W64) : (s.setS r x).damage = s.damage := rfl
@[simp] theorem State.setS_decided (s : State) (r : Nat) (x : W64) : (s.setS r x).decided = s.decided := rfl
@[simp] theorem State.setS_hostCopy (s : State) (r : Nat) (x : W64) : (s.setS r x).hostCopy = s.hostCopy := rfl
@[simp] theorem State.setS_lanemaps (s : State) (r : Nat) (x : W64) : (s.setS r x).lanemaps = s.lanemaps := rfl
@[simp] theorem State.setS_teams (s : State) (r : Nat) (x : W64) : (s.setS r x).teams = s.teams := rfl
@[simp] theorem State.setS_launches (s : State) (r : Nat) (x : W64) : (s.setS r x).launches = s.launches := rfl
@[simp] theorem State.setS_contexts (s : State) (r : Nat) (x : W64) : (s.setS r x).contexts = s.contexts := rfl
@[simp] theorem State.setS_whorls (s : State) (r : Nat) (x : W64) : (s.setS r x).whorls = s.whorls := rfl
@[simp] theorem State.setS_cores (s : State) (r : Nat) (x : W64) : (s.setS r x).cores = s.cores := rfl
@[simp] theorem State.setS_tlb (s : State) (r : Nat) (x : W64) : (s.setS r x).tlb = s.tlb := rfl
@[simp] theorem State.setS_tlbinvs (s : State) (r : Nat) (x : W64) : (s.setS r x).tlbinvs = s.tlbinvs := rfl
@[simp] theorem State.setS_ats (s : State) (r : Nat) (x : W64) : (s.setS r x).ats = s.ats := rfl
@[simp] theorem State.setS_carders (s : State) (r : Nat) (x : W64) : (s.setS r x).carders = s.carders := rfl
@[simp] theorem State.setS_distaff (s : State) (r : Nat) (x : W64) : (s.setS r x).distaff = s.distaff := rfl
@[simp] theorem State.setS_egress (s : State) (r : Nat) (x : W64) : (s.setS r x).egress = s.egress := rfl
@[simp] theorem State.setS_seqTable (s : State) (r : Nat) (x : W64) : (s.setS r x).seqTable = s.seqTable := rfl
@[simp] theorem State.setS_retired (s : State) (r : Nat) (x : W64) : (s.setS r x).retired = s.retired := rfl
@[simp] theorem State.setS_mgmt (s : State) (r : Nat) (x : W64) : (s.setS r x).mgmt = s.mgmt := rfl
@[simp] theorem State.setS_reads (s : State) (r : Nat) (x : W64) : (s.setS r x).reads = s.reads := rfl
@[simp] theorem State.setS_parked (s : State) (r : Nat) (x : W64) : (s.setS r x).parked = s.parked := rfl
@[simp] theorem State.setS_walks (s : State) (r : Nat) (x : W64) : (s.setS r x).walks = s.walks := rfl
@[simp] theorem State.setS_walkCache (s : State) (r : Nat) (x : W64) : (s.setS r x).walkCache = s.walkCache := rfl
@[simp] theorem State.setS_moves (s : State) (r : Nat) (x : W64) : (s.setS r x).moves = s.moves := rfl

/-! ### `State.setVs` -/

@[simp] theorem State.setVs_w (s : State) (r : Nat) (f : Nat → W32) (ts : List Nat) : (s.setVs r f ts).w = { s.w with a := s.w.a.setVs r f ts } := rfl
@[simp] theorem State.setVs_waves (s : State) (r : Nat) (f : Nat → W32) (ts : List Nat) : (s.setVs r f ts).waves = s.waves := rfl
@[simp] theorem State.setVs_focus (s : State) (r : Nat) (f : Nat → W32) (ts : List Nat) : (s.setVs r f ts).focus = s.focus := rfl
@[simp] theorem State.setVs_holders (s : State) (r : Nat) (f : Nat → W32) (ts : List Nat) : (s.setVs r f ts).holders = s.holders := rfl
@[simp] theorem State.setVs_agenda (s : State) (r : Nat) (f : Nat → W32) (ts : List Nat) : (s.setVs r f ts).agenda = s.agenda := rfl
@[simp] theorem State.setVs_free (s : State) (r : Nat) (f : Nat → W32) (ts : List Nat) : (s.setVs r f ts).free = s.free := rfl
@[simp] theorem State.setVs_nanotime (s : State) (r : Nat) (f : Nat → W32) (ts : List Nat) : (s.setVs r f ts).nanotime = s.nanotime := rfl
@[simp] theorem State.setVs_cycle (s : State) (r : Nat) (f : Nat → W32) (ts : List Nat) : (s.setVs r f ts).cycle = s.cycle := rfl
@[simp] theorem State.setVs_stamp (s : State) (r : Nat) (f : Nat → W32) (ts : List Nat) : (s.setVs r f ts).stamp = s.stamp := rfl
@[simp] theorem State.setVs_mem (s : State) (r : Nat) (f : Nat → W32) (ts : List Nat) : (s.setVs r f ts).mem = s.mem := rfl
@[simp] theorem State.setVs_poison (s : State) (r : Nat) (f : Nat → W32) (ts : List Nat) : (s.setVs r f ts).poison = s.poison := rfl
@[simp] theorem State.setVs_damage (s : State) (r : Nat) (f : Nat → W32) (ts : List Nat) : (s.setVs r f ts).damage = s.damage := rfl
@[simp] theorem State.setVs_decided (s : State) (r : Nat) (f : Nat → W32) (ts : List Nat) : (s.setVs r f ts).decided = s.decided := rfl
@[simp] theorem State.setVs_hostCopy (s : State) (r : Nat) (f : Nat → W32) (ts : List Nat) : (s.setVs r f ts).hostCopy = s.hostCopy := rfl
@[simp] theorem State.setVs_lanemaps (s : State) (r : Nat) (f : Nat → W32) (ts : List Nat) : (s.setVs r f ts).lanemaps = s.lanemaps := rfl
@[simp] theorem State.setVs_teams (s : State) (r : Nat) (f : Nat → W32) (ts : List Nat) : (s.setVs r f ts).teams = s.teams := rfl
@[simp] theorem State.setVs_launches (s : State) (r : Nat) (f : Nat → W32) (ts : List Nat) : (s.setVs r f ts).launches = s.launches := rfl
@[simp] theorem State.setVs_contexts (s : State) (r : Nat) (f : Nat → W32) (ts : List Nat) : (s.setVs r f ts).contexts = s.contexts := rfl
@[simp] theorem State.setVs_whorls (s : State) (r : Nat) (f : Nat → W32) (ts : List Nat) : (s.setVs r f ts).whorls = s.whorls := rfl
@[simp] theorem State.setVs_cores (s : State) (r : Nat) (f : Nat → W32) (ts : List Nat) : (s.setVs r f ts).cores = s.cores := rfl
@[simp] theorem State.setVs_tlb (s : State) (r : Nat) (f : Nat → W32) (ts : List Nat) : (s.setVs r f ts).tlb = s.tlb := rfl
@[simp] theorem State.setVs_tlbinvs (s : State) (r : Nat) (f : Nat → W32) (ts : List Nat) : (s.setVs r f ts).tlbinvs = s.tlbinvs := rfl
@[simp] theorem State.setVs_ats (s : State) (r : Nat) (f : Nat → W32) (ts : List Nat) : (s.setVs r f ts).ats = s.ats := rfl
@[simp] theorem State.setVs_carders (s : State) (r : Nat) (f : Nat → W32) (ts : List Nat) : (s.setVs r f ts).carders = s.carders := rfl
@[simp] theorem State.setVs_distaff (s : State) (r : Nat) (f : Nat → W32) (ts : List Nat) : (s.setVs r f ts).distaff = s.distaff := rfl
@[simp] theorem State.setVs_egress (s : State) (r : Nat) (f : Nat → W32) (ts : List Nat) : (s.setVs r f ts).egress = s.egress := rfl
@[simp] theorem State.setVs_seqTable (s : State) (r : Nat) (f : Nat → W32) (ts : List Nat) : (s.setVs r f ts).seqTable = s.seqTable := rfl
@[simp] theorem State.setVs_retired (s : State) (r : Nat) (f : Nat → W32) (ts : List Nat) : (s.setVs r f ts).retired = s.retired := rfl
@[simp] theorem State.setVs_mgmt (s : State) (r : Nat) (f : Nat → W32) (ts : List Nat) : (s.setVs r f ts).mgmt = s.mgmt := rfl
@[simp] theorem State.setVs_reads (s : State) (r : Nat) (f : Nat → W32) (ts : List Nat) : (s.setVs r f ts).reads = s.reads := rfl
@[simp] theorem State.setVs_parked (s : State) (r : Nat) (f : Nat → W32) (ts : List Nat) : (s.setVs r f ts).parked = s.parked := rfl
@[simp] theorem State.setVs_walks (s : State) (r : Nat) (f : Nat → W32) (ts : List Nat) : (s.setVs r f ts).walks = s.walks := rfl
@[simp] theorem State.setVs_walkCache (s : State) (r : Nat) (f : Nat → W32) (ts : List Nat) : (s.setVs r f ts).walkCache = s.walkCache := rfl
@[simp] theorem State.setVs_moves (s : State) (r : Nat) (f : Nat → W32) (ts : List Nat) : (s.setVs r f ts).moves = s.moves := rfl

/-! ### `State.setExec` -/

@[simp] theorem State.setExec_w (s : State) (x : W64) : (s.setExec x).w = { s.w with a := { s.w.a with exec := x &&& fullMask s.w.width } } := rfl
@[simp] theorem State.setExec_waves (s : State) (x : W64) : (s.setExec x).waves = s.waves := rfl
@[simp] theorem State.setExec_focus (s : State) (x : W64) : (s.setExec x).focus = s.focus := rfl
@[simp] theorem State.setExec_holders (s : State) (x : W64) : (s.setExec x).holders = s.holders := rfl
@[simp] theorem State.setExec_agenda (s : State) (x : W64) : (s.setExec x).agenda = s.agenda := rfl
@[simp] theorem State.setExec_free (s : State) (x : W64) : (s.setExec x).free = s.free := rfl
@[simp] theorem State.setExec_nanotime (s : State) (x : W64) : (s.setExec x).nanotime = s.nanotime := rfl
@[simp] theorem State.setExec_cycle (s : State) (x : W64) : (s.setExec x).cycle = s.cycle := rfl
@[simp] theorem State.setExec_stamp (s : State) (x : W64) : (s.setExec x).stamp = s.stamp := rfl
@[simp] theorem State.setExec_mem (s : State) (x : W64) : (s.setExec x).mem = s.mem := rfl
@[simp] theorem State.setExec_poison (s : State) (x : W64) : (s.setExec x).poison = s.poison := rfl
@[simp] theorem State.setExec_damage (s : State) (x : W64) : (s.setExec x).damage = s.damage := rfl
@[simp] theorem State.setExec_decided (s : State) (x : W64) : (s.setExec x).decided = s.decided := rfl
@[simp] theorem State.setExec_hostCopy (s : State) (x : W64) : (s.setExec x).hostCopy = s.hostCopy := rfl
@[simp] theorem State.setExec_lanemaps (s : State) (x : W64) : (s.setExec x).lanemaps = s.lanemaps := rfl
@[simp] theorem State.setExec_teams (s : State) (x : W64) : (s.setExec x).teams = s.teams := rfl
@[simp] theorem State.setExec_launches (s : State) (x : W64) : (s.setExec x).launches = s.launches := rfl
@[simp] theorem State.setExec_contexts (s : State) (x : W64) : (s.setExec x).contexts = s.contexts := rfl
@[simp] theorem State.setExec_whorls (s : State) (x : W64) : (s.setExec x).whorls = s.whorls := rfl
@[simp] theorem State.setExec_cores (s : State) (x : W64) : (s.setExec x).cores = s.cores := rfl
@[simp] theorem State.setExec_tlb (s : State) (x : W64) : (s.setExec x).tlb = s.tlb := rfl
@[simp] theorem State.setExec_tlbinvs (s : State) (x : W64) : (s.setExec x).tlbinvs = s.tlbinvs := rfl
@[simp] theorem State.setExec_ats (s : State) (x : W64) : (s.setExec x).ats = s.ats := rfl
@[simp] theorem State.setExec_carders (s : State) (x : W64) : (s.setExec x).carders = s.carders := rfl
@[simp] theorem State.setExec_distaff (s : State) (x : W64) : (s.setExec x).distaff = s.distaff := rfl
@[simp] theorem State.setExec_egress (s : State) (x : W64) : (s.setExec x).egress = s.egress := rfl
@[simp] theorem State.setExec_seqTable (s : State) (x : W64) : (s.setExec x).seqTable = s.seqTable := rfl
@[simp] theorem State.setExec_retired (s : State) (x : W64) : (s.setExec x).retired = s.retired := rfl
@[simp] theorem State.setExec_mgmt (s : State) (x : W64) : (s.setExec x).mgmt = s.mgmt := rfl
@[simp] theorem State.setExec_reads (s : State) (x : W64) : (s.setExec x).reads = s.reads := rfl
@[simp] theorem State.setExec_parked (s : State) (x : W64) : (s.setExec x).parked = s.parked := rfl
@[simp] theorem State.setExec_walks (s : State) (x : W64) : (s.setExec x).walks = s.walks := rfl
@[simp] theorem State.setExec_walkCache (s : State) (x : W64) : (s.setExec x).walkCache = s.walkCache := rfl
@[simp] theorem State.setExec_moves (s : State) (x : W64) : (s.setExec x).moves = s.moves := rfl

/-! ### `State.holdFor` -/

@[simp] theorem State.holdFor_w (s : State) (h : Hold) : (s.holdFor h).w = { s.w with hold := h } := rfl
@[simp] theorem State.holdFor_waves (s : State) (h : Hold) : (s.holdFor h).waves = s.waves := rfl
@[simp] theorem State.holdFor_focus (s : State) (h : Hold) : (s.holdFor h).focus = s.focus := rfl
@[simp] theorem State.holdFor_holders (s : State) (h : Hold) : (s.holdFor h).holders = s.holders := rfl
@[simp] theorem State.holdFor_agenda (s : State) (h : Hold) : (s.holdFor h).agenda = s.agenda := rfl
@[simp] theorem State.holdFor_free (s : State) (h : Hold) : (s.holdFor h).free = s.free := rfl
@[simp] theorem State.holdFor_nanotime (s : State) (h : Hold) : (s.holdFor h).nanotime = s.nanotime := rfl
@[simp] theorem State.holdFor_cycle (s : State) (h : Hold) : (s.holdFor h).cycle = s.cycle := rfl
@[simp] theorem State.holdFor_stamp (s : State) (h : Hold) : (s.holdFor h).stamp = s.stamp := rfl
@[simp] theorem State.holdFor_mem (s : State) (h : Hold) : (s.holdFor h).mem = s.mem := rfl
@[simp] theorem State.holdFor_poison (s : State) (h : Hold) : (s.holdFor h).poison = s.poison := rfl
@[simp] theorem State.holdFor_damage (s : State) (h : Hold) : (s.holdFor h).damage = s.damage := rfl
@[simp] theorem State.holdFor_decided (s : State) (h : Hold) : (s.holdFor h).decided = s.decided := rfl
@[simp] theorem State.holdFor_hostCopy (s : State) (h : Hold) : (s.holdFor h).hostCopy = s.hostCopy := rfl
@[simp] theorem State.holdFor_lanemaps (s : State) (h : Hold) : (s.holdFor h).lanemaps = s.lanemaps := rfl
@[simp] theorem State.holdFor_teams (s : State) (h : Hold) : (s.holdFor h).teams = s.teams := rfl
@[simp] theorem State.holdFor_launches (s : State) (h : Hold) : (s.holdFor h).launches = s.launches := rfl
@[simp] theorem State.holdFor_contexts (s : State) (h : Hold) : (s.holdFor h).contexts = s.contexts := rfl
@[simp] theorem State.holdFor_whorls (s : State) (h : Hold) : (s.holdFor h).whorls = s.whorls := rfl
@[simp] theorem State.holdFor_cores (s : State) (h : Hold) : (s.holdFor h).cores = s.cores := rfl
@[simp] theorem State.holdFor_tlb (s : State) (h : Hold) : (s.holdFor h).tlb = s.tlb := rfl
@[simp] theorem State.holdFor_tlbinvs (s : State) (h : Hold) : (s.holdFor h).tlbinvs = s.tlbinvs := rfl
@[simp] theorem State.holdFor_ats (s : State) (h : Hold) : (s.holdFor h).ats = s.ats := rfl
@[simp] theorem State.holdFor_carders (s : State) (h : Hold) : (s.holdFor h).carders = s.carders := rfl
@[simp] theorem State.holdFor_distaff (s : State) (h : Hold) : (s.holdFor h).distaff = s.distaff := rfl
@[simp] theorem State.holdFor_egress (s : State) (h : Hold) : (s.holdFor h).egress = s.egress := rfl
@[simp] theorem State.holdFor_seqTable (s : State) (h : Hold) : (s.holdFor h).seqTable = s.seqTable := rfl
@[simp] theorem State.holdFor_retired (s : State) (h : Hold) : (s.holdFor h).retired = s.retired := rfl
@[simp] theorem State.holdFor_mgmt (s : State) (h : Hold) : (s.holdFor h).mgmt = s.mgmt := rfl
@[simp] theorem State.holdFor_reads (s : State) (h : Hold) : (s.holdFor h).reads = s.reads := rfl
@[simp] theorem State.holdFor_parked (s : State) (h : Hold) : (s.holdFor h).parked = s.parked := rfl
@[simp] theorem State.holdFor_walks (s : State) (h : Hold) : (s.holdFor h).walks = s.walks := rfl
@[simp] theorem State.holdFor_walkCache (s : State) (h : Hold) : (s.holdFor h).walkCache = s.walkCache := rfl
@[simp] theorem State.holdFor_moves (s : State) (h : Hold) : (s.holdFor h).moves = s.moves := rfl

/-! ### `State.tick` -/

@[simp] theorem State.tick_w (s : State) : (s.tick).w = s.w := rfl
@[simp] theorem State.tick_waves (s : State) : (s.tick).waves = s.waves := rfl
@[simp] theorem State.tick_focus (s : State) : (s.tick).focus = s.focus := rfl
@[simp] theorem State.tick_holders (s : State) : (s.tick).holders = s.holders := rfl
@[simp] theorem State.tick_agenda (s : State) : (s.tick).agenda = s.agenda := rfl
@[simp] theorem State.tick_free (s : State) : (s.tick).free = s.free + 1 := rfl
@[simp] theorem State.tick_nanotime (s : State) : (s.tick).nanotime = s.nanotime := rfl
@[simp] theorem State.tick_cycle (s : State) : (s.tick).cycle = s.cycle := rfl
@[simp] theorem State.tick_stamp (s : State) : (s.tick).stamp = s.stamp := rfl
@[simp] theorem State.tick_mem (s : State) : (s.tick).mem = s.mem := rfl
@[simp] theorem State.tick_poison (s : State) : (s.tick).poison = s.poison := rfl
@[simp] theorem State.tick_damage (s : State) : (s.tick).damage = s.damage := rfl
@[simp] theorem State.tick_decided (s : State) : (s.tick).decided = s.decided := rfl
@[simp] theorem State.tick_hostCopy (s : State) : (s.tick).hostCopy = s.hostCopy := rfl
@[simp] theorem State.tick_lanemaps (s : State) : (s.tick).lanemaps = s.lanemaps := rfl
@[simp] theorem State.tick_teams (s : State) : (s.tick).teams = s.teams := rfl
@[simp] theorem State.tick_launches (s : State) : (s.tick).launches = s.launches := rfl
@[simp] theorem State.tick_contexts (s : State) : (s.tick).contexts = s.contexts := rfl
@[simp] theorem State.tick_whorls (s : State) : (s.tick).whorls = s.whorls := rfl
@[simp] theorem State.tick_cores (s : State) : (s.tick).cores = s.cores := rfl
@[simp] theorem State.tick_tlb (s : State) : (s.tick).tlb = s.tlb := rfl
@[simp] theorem State.tick_tlbinvs (s : State) : (s.tick).tlbinvs = s.tlbinvs := rfl
@[simp] theorem State.tick_ats (s : State) : (s.tick).ats = s.ats := rfl
@[simp] theorem State.tick_carders (s : State) : (s.tick).carders = s.carders := rfl
@[simp] theorem State.tick_distaff (s : State) : (s.tick).distaff = s.distaff := rfl
@[simp] theorem State.tick_egress (s : State) : (s.tick).egress = s.egress := rfl
@[simp] theorem State.tick_seqTable (s : State) : (s.tick).seqTable = s.seqTable := rfl
@[simp] theorem State.tick_retired (s : State) : (s.tick).retired = s.retired := rfl
@[simp] theorem State.tick_mgmt (s : State) : (s.tick).mgmt = s.mgmt := rfl
@[simp] theorem State.tick_reads (s : State) : (s.tick).reads = s.reads := rfl
@[simp] theorem State.tick_parked (s : State) : (s.tick).parked = s.parked := rfl
@[simp] theorem State.tick_walks (s : State) : (s.tick).walks = s.walks := rfl
@[simp] theorem State.tick_walkCache (s : State) : (s.tick).walkCache = s.walkCache := rfl
@[simp] theorem State.tick_moves (s : State) : (s.tick).moves = s.moves := rfl

/-! ### `State.endRun` -/

@[simp] theorem State.endRun_w (s : State) : (s.endRun).w = { s.w with ran := 0 } := rfl
@[simp] theorem State.endRun_waves (s : State) : (s.endRun).waves = s.waves := rfl
@[simp] theorem State.endRun_focus (s : State) : (s.endRun).focus = s.focus := rfl
@[simp] theorem State.endRun_holders (s : State) : (s.endRun).holders = freeSlots s.w s.holders := rfl
@[simp] theorem State.endRun_agenda (s : State) : (s.endRun).agenda = s.agenda := rfl
@[simp] theorem State.endRun_free (s : State) : (s.endRun).free = s.free := rfl
@[simp] theorem State.endRun_nanotime (s : State) : (s.endRun).nanotime = s.nanotime := rfl
@[simp] theorem State.endRun_cycle (s : State) : (s.endRun).cycle = s.cycle := rfl
@[simp] theorem State.endRun_stamp (s : State) : (s.endRun).stamp = s.stamp := rfl
@[simp] theorem State.endRun_mem (s : State) : (s.endRun).mem = s.mem := rfl
@[simp] theorem State.endRun_poison (s : State) : (s.endRun).poison = s.poison := rfl
@[simp] theorem State.endRun_damage (s : State) : (s.endRun).damage = s.damage := rfl
@[simp] theorem State.endRun_decided (s : State) : (s.endRun).decided = s.decided := rfl
@[simp] theorem State.endRun_hostCopy (s : State) : (s.endRun).hostCopy = s.hostCopy := rfl
@[simp] theorem State.endRun_lanemaps (s : State) : (s.endRun).lanemaps = s.lanemaps := rfl
@[simp] theorem State.endRun_teams (s : State) : (s.endRun).teams = s.teams := rfl
@[simp] theorem State.endRun_launches (s : State) : (s.endRun).launches = s.launches := rfl
@[simp] theorem State.endRun_contexts (s : State) : (s.endRun).contexts = s.contexts := rfl
@[simp] theorem State.endRun_whorls (s : State) : (s.endRun).whorls = s.whorls := rfl
@[simp] theorem State.endRun_cores (s : State) : (s.endRun).cores = s.cores := rfl
@[simp] theorem State.endRun_tlb (s : State) : (s.endRun).tlb = s.tlb := rfl
@[simp] theorem State.endRun_tlbinvs (s : State) : (s.endRun).tlbinvs = s.tlbinvs := rfl
@[simp] theorem State.endRun_ats (s : State) : (s.endRun).ats = s.ats := rfl
@[simp] theorem State.endRun_carders (s : State) : (s.endRun).carders = s.carders := rfl
@[simp] theorem State.endRun_distaff (s : State) : (s.endRun).distaff = s.distaff := rfl
@[simp] theorem State.endRun_egress (s : State) : (s.endRun).egress = s.egress := rfl
@[simp] theorem State.endRun_seqTable (s : State) : (s.endRun).seqTable = s.seqTable := rfl
@[simp] theorem State.endRun_retired (s : State) : (s.endRun).retired = s.retired := rfl
@[simp] theorem State.endRun_mgmt (s : State) : (s.endRun).mgmt = s.mgmt := rfl
@[simp] theorem State.endRun_reads (s : State) : (s.endRun).reads = s.reads := rfl
@[simp] theorem State.endRun_parked (s : State) : (s.endRun).parked = s.parked := rfl
@[simp] theorem State.endRun_walks (s : State) : (s.endRun).walks = s.walks := rfl
@[simp] theorem State.endRun_walkCache (s : State) : (s.endRun).walkCache = s.walkCache := rfl
@[simp] theorem State.endRun_moves (s : State) : (s.endRun).moves = s.moves := rfl

/-! ### `State.blockFor` -/

@[simp] theorem State.blockFor_w (s : State) (h : Hold) : (s.blockFor h).w = { s.w with hold := h, ran := 0 } := rfl
@[simp] theorem State.blockFor_waves (s : State) (h : Hold) : (s.blockFor h).waves = s.waves := rfl
@[simp] theorem State.blockFor_focus (s : State) (h : Hold) : (s.blockFor h).focus = s.focus := rfl
@[simp] theorem State.blockFor_holders (s : State) (h : Hold) : (s.blockFor h).holders = freeSlots { s.w with hold := h } s.holders := rfl
@[simp] theorem State.blockFor_agenda (s : State) (h : Hold) : (s.blockFor h).agenda = s.agenda := rfl
@[simp] theorem State.blockFor_free (s : State) (h : Hold) : (s.blockFor h).free = s.free := rfl
@[simp] theorem State.blockFor_nanotime (s : State) (h : Hold) : (s.blockFor h).nanotime = s.nanotime := rfl
@[simp] theorem State.blockFor_cycle (s : State) (h : Hold) : (s.blockFor h).cycle = s.cycle := rfl
@[simp] theorem State.blockFor_stamp (s : State) (h : Hold) : (s.blockFor h).stamp = s.stamp := rfl
@[simp] theorem State.blockFor_mem (s : State) (h : Hold) : (s.blockFor h).mem = s.mem := rfl
@[simp] theorem State.blockFor_poison (s : State) (h : Hold) : (s.blockFor h).poison = s.poison := rfl
@[simp] theorem State.blockFor_damage (s : State) (h : Hold) : (s.blockFor h).damage = s.damage := rfl
@[simp] theorem State.blockFor_decided (s : State) (h : Hold) : (s.blockFor h).decided = s.decided := rfl
@[simp] theorem State.blockFor_hostCopy (s : State) (h : Hold) : (s.blockFor h).hostCopy = s.hostCopy := rfl
@[simp] theorem State.blockFor_lanemaps (s : State) (h : Hold) : (s.blockFor h).lanemaps = s.lanemaps := rfl
@[simp] theorem State.blockFor_teams (s : State) (h : Hold) : (s.blockFor h).teams = s.teams := rfl
@[simp] theorem State.blockFor_launches (s : State) (h : Hold) : (s.blockFor h).launches = s.launches := rfl
@[simp] theorem State.blockFor_contexts (s : State) (h : Hold) : (s.blockFor h).contexts = s.contexts := rfl
@[simp] theorem State.blockFor_whorls (s : State) (h : Hold) : (s.blockFor h).whorls = s.whorls := rfl
@[simp] theorem State.blockFor_cores (s : State) (h : Hold) : (s.blockFor h).cores = s.cores := rfl
@[simp] theorem State.blockFor_tlb (s : State) (h : Hold) : (s.blockFor h).tlb = s.tlb := rfl
@[simp] theorem State.blockFor_tlbinvs (s : State) (h : Hold) : (s.blockFor h).tlbinvs = s.tlbinvs := rfl
@[simp] theorem State.blockFor_ats (s : State) (h : Hold) : (s.blockFor h).ats = s.ats := rfl
@[simp] theorem State.blockFor_carders (s : State) (h : Hold) : (s.blockFor h).carders = s.carders := rfl
@[simp] theorem State.blockFor_distaff (s : State) (h : Hold) : (s.blockFor h).distaff = s.distaff := rfl
@[simp] theorem State.blockFor_egress (s : State) (h : Hold) : (s.blockFor h).egress = s.egress := rfl
@[simp] theorem State.blockFor_seqTable (s : State) (h : Hold) : (s.blockFor h).seqTable = s.seqTable := rfl
@[simp] theorem State.blockFor_retired (s : State) (h : Hold) : (s.blockFor h).retired = s.retired := rfl
@[simp] theorem State.blockFor_mgmt (s : State) (h : Hold) : (s.blockFor h).mgmt = s.mgmt := rfl
@[simp] theorem State.blockFor_reads (s : State) (h : Hold) : (s.blockFor h).reads = s.reads := rfl
@[simp] theorem State.blockFor_parked (s : State) (h : Hold) : (s.blockFor h).parked = s.parked := rfl
@[simp] theorem State.blockFor_walks (s : State) (h : Hold) : (s.blockFor h).walks = s.walks := rfl
@[simp] theorem State.blockFor_walkCache (s : State) (h : Hold) : (s.blockFor h).walkCache = s.walkCache := rfl
@[simp] theorem State.blockFor_moves (s : State) (h : Hold) : (s.blockFor h).moves = s.moves := rfl

/-! ### `State.onCore` -/

@[simp] theorem State.onCore_w (c : Nat) (f : Core → Core) (s : State) : (State.onCore c f s).w = s.w := rfl
@[simp] theorem State.onCore_waves (c : Nat) (f : Core → Core) (s : State) : (State.onCore c f s).waves = s.waves := rfl
@[simp] theorem State.onCore_focus (c : Nat) (f : Core → Core) (s : State) : (State.onCore c f s).focus = s.focus := rfl
@[simp] theorem State.onCore_holders (c : Nat) (f : Core → Core) (s : State) : (State.onCore c f s).holders = s.holders := rfl
@[simp] theorem State.onCore_agenda (c : Nat) (f : Core → Core) (s : State) : (State.onCore c f s).agenda = s.agenda := rfl
@[simp] theorem State.onCore_free (c : Nat) (f : Core → Core) (s : State) : (State.onCore c f s).free = s.free := rfl
@[simp] theorem State.onCore_nanotime (c : Nat) (f : Core → Core) (s : State) : (State.onCore c f s).nanotime = s.nanotime := rfl
@[simp] theorem State.onCore_cycle (c : Nat) (f : Core → Core) (s : State) : (State.onCore c f s).cycle = s.cycle := rfl
@[simp] theorem State.onCore_stamp (c : Nat) (f : Core → Core) (s : State) : (State.onCore c f s).stamp = s.stamp := rfl
@[simp] theorem State.onCore_mem (c : Nat) (f : Core → Core) (s : State) : (State.onCore c f s).mem = s.mem := rfl
@[simp] theorem State.onCore_poison (c : Nat) (f : Core → Core) (s : State) : (State.onCore c f s).poison = s.poison := rfl
@[simp] theorem State.onCore_damage (c : Nat) (f : Core → Core) (s : State) : (State.onCore c f s).damage = s.damage := rfl
@[simp] theorem State.onCore_decided (c : Nat) (f : Core → Core) (s : State) : (State.onCore c f s).decided = s.decided := rfl
@[simp] theorem State.onCore_hostCopy (c : Nat) (f : Core → Core) (s : State) : (State.onCore c f s).hostCopy = s.hostCopy := rfl
@[simp] theorem State.onCore_lanemaps (c : Nat) (f : Core → Core) (s : State) : (State.onCore c f s).lanemaps = s.lanemaps := rfl
@[simp] theorem State.onCore_teams (c : Nat) (f : Core → Core) (s : State) : (State.onCore c f s).teams = s.teams := rfl
@[simp] theorem State.onCore_launches (c : Nat) (f : Core → Core) (s : State) : (State.onCore c f s).launches = s.launches := rfl
@[simp] theorem State.onCore_contexts (c : Nat) (f : Core → Core) (s : State) : (State.onCore c f s).contexts = s.contexts := rfl
@[simp] theorem State.onCore_whorls (c : Nat) (f : Core → Core) (s : State) : (State.onCore c f s).whorls = s.whorls := rfl
@[simp] theorem State.onCore_cores (c : Nat) (f : Core → Core) (s : State) : (State.onCore c f s).cores = put Core.vacant s.cores c (f (s.core c)) := rfl
@[simp] theorem State.onCore_tlb (c : Nat) (f : Core → Core) (s : State) : (State.onCore c f s).tlb = s.tlb := rfl
@[simp] theorem State.onCore_tlbinvs (c : Nat) (f : Core → Core) (s : State) : (State.onCore c f s).tlbinvs = s.tlbinvs := rfl
@[simp] theorem State.onCore_ats (c : Nat) (f : Core → Core) (s : State) : (State.onCore c f s).ats = s.ats := rfl
@[simp] theorem State.onCore_carders (c : Nat) (f : Core → Core) (s : State) : (State.onCore c f s).carders = s.carders := rfl
@[simp] theorem State.onCore_distaff (c : Nat) (f : Core → Core) (s : State) : (State.onCore c f s).distaff = s.distaff := rfl
@[simp] theorem State.onCore_egress (c : Nat) (f : Core → Core) (s : State) : (State.onCore c f s).egress = s.egress := rfl
@[simp] theorem State.onCore_seqTable (c : Nat) (f : Core → Core) (s : State) : (State.onCore c f s).seqTable = s.seqTable := rfl
@[simp] theorem State.onCore_retired (c : Nat) (f : Core → Core) (s : State) : (State.onCore c f s).retired = s.retired := rfl
@[simp] theorem State.onCore_mgmt (c : Nat) (f : Core → Core) (s : State) : (State.onCore c f s).mgmt = s.mgmt := rfl
@[simp] theorem State.onCore_reads (c : Nat) (f : Core → Core) (s : State) : (State.onCore c f s).reads = s.reads := rfl
@[simp] theorem State.onCore_parked (c : Nat) (f : Core → Core) (s : State) : (State.onCore c f s).parked = s.parked := rfl
@[simp] theorem State.onCore_walks (c : Nat) (f : Core → Core) (s : State) : (State.onCore c f s).walks = s.walks := rfl
@[simp] theorem State.onCore_walkCache (c : Nat) (f : Core → Core) (s : State) : (State.onCore c f s).walkCache = s.walkCache := rfl
@[simp] theorem State.onCore_moves (c : Nat) (f : Core → Core) (s : State) : (State.onCore c f s).moves = s.moves := rfl

/-! ### `State.onWhorl` -/

@[simp] theorem State.onWhorl_w (h : Nat) (f : Whorl → Whorl) (s : State) : (State.onWhorl h f s).w = s.w := rfl
@[simp] theorem State.onWhorl_waves (h : Nat) (f : Whorl → Whorl) (s : State) : (State.onWhorl h f s).waves = s.waves := rfl
@[simp] theorem State.onWhorl_focus (h : Nat) (f : Whorl → Whorl) (s : State) : (State.onWhorl h f s).focus = s.focus := rfl
@[simp] theorem State.onWhorl_holders (h : Nat) (f : Whorl → Whorl) (s : State) : (State.onWhorl h f s).holders = s.holders := rfl
@[simp] theorem State.onWhorl_agenda (h : Nat) (f : Whorl → Whorl) (s : State) : (State.onWhorl h f s).agenda = s.agenda := rfl
@[simp] theorem State.onWhorl_free (h : Nat) (f : Whorl → Whorl) (s : State) : (State.onWhorl h f s).free = s.free := rfl
@[simp] theorem State.onWhorl_nanotime (h : Nat) (f : Whorl → Whorl) (s : State) : (State.onWhorl h f s).nanotime = s.nanotime := rfl
@[simp] theorem State.onWhorl_cycle (h : Nat) (f : Whorl → Whorl) (s : State) : (State.onWhorl h f s).cycle = s.cycle := rfl
@[simp] theorem State.onWhorl_stamp (h : Nat) (f : Whorl → Whorl) (s : State) : (State.onWhorl h f s).stamp = s.stamp := rfl
@[simp] theorem State.onWhorl_mem (h : Nat) (f : Whorl → Whorl) (s : State) : (State.onWhorl h f s).mem = s.mem := rfl
@[simp] theorem State.onWhorl_poison (h : Nat) (f : Whorl → Whorl) (s : State) : (State.onWhorl h f s).poison = s.poison := rfl
@[simp] theorem State.onWhorl_damage (h : Nat) (f : Whorl → Whorl) (s : State) : (State.onWhorl h f s).damage = s.damage := rfl
@[simp] theorem State.onWhorl_decided (h : Nat) (f : Whorl → Whorl) (s : State) : (State.onWhorl h f s).decided = s.decided := rfl
@[simp] theorem State.onWhorl_hostCopy (h : Nat) (f : Whorl → Whorl) (s : State) : (State.onWhorl h f s).hostCopy = s.hostCopy := rfl
@[simp] theorem State.onWhorl_lanemaps (h : Nat) (f : Whorl → Whorl) (s : State) : (State.onWhorl h f s).lanemaps = s.lanemaps := rfl
@[simp] theorem State.onWhorl_teams (h : Nat) (f : Whorl → Whorl) (s : State) : (State.onWhorl h f s).teams = s.teams := rfl
@[simp] theorem State.onWhorl_launches (h : Nat) (f : Whorl → Whorl) (s : State) : (State.onWhorl h f s).launches = s.launches := rfl
@[simp] theorem State.onWhorl_contexts (h : Nat) (f : Whorl → Whorl) (s : State) : (State.onWhorl h f s).contexts = s.contexts := rfl
@[simp] theorem State.onWhorl_whorls (h : Nat) (f : Whorl → Whorl) (s : State) : (State.onWhorl h f s).whorls = put Whorl.vacant s.whorls h (f (s.whorl h)) := rfl
@[simp] theorem State.onWhorl_cores (h : Nat) (f : Whorl → Whorl) (s : State) : (State.onWhorl h f s).cores = s.cores := rfl
@[simp] theorem State.onWhorl_tlb (h : Nat) (f : Whorl → Whorl) (s : State) : (State.onWhorl h f s).tlb = s.tlb := rfl
@[simp] theorem State.onWhorl_tlbinvs (h : Nat) (f : Whorl → Whorl) (s : State) : (State.onWhorl h f s).tlbinvs = s.tlbinvs := rfl
@[simp] theorem State.onWhorl_ats (h : Nat) (f : Whorl → Whorl) (s : State) : (State.onWhorl h f s).ats = s.ats := rfl
@[simp] theorem State.onWhorl_carders (h : Nat) (f : Whorl → Whorl) (s : State) : (State.onWhorl h f s).carders = s.carders := rfl
@[simp] theorem State.onWhorl_distaff (h : Nat) (f : Whorl → Whorl) (s : State) : (State.onWhorl h f s).distaff = s.distaff := rfl
@[simp] theorem State.onWhorl_egress (h : Nat) (f : Whorl → Whorl) (s : State) : (State.onWhorl h f s).egress = s.egress := rfl
@[simp] theorem State.onWhorl_seqTable (h : Nat) (f : Whorl → Whorl) (s : State) : (State.onWhorl h f s).seqTable = s.seqTable := rfl
@[simp] theorem State.onWhorl_retired (h : Nat) (f : Whorl → Whorl) (s : State) : (State.onWhorl h f s).retired = s.retired := rfl
@[simp] theorem State.onWhorl_mgmt (h : Nat) (f : Whorl → Whorl) (s : State) : (State.onWhorl h f s).mgmt = s.mgmt := rfl
@[simp] theorem State.onWhorl_reads (h : Nat) (f : Whorl → Whorl) (s : State) : (State.onWhorl h f s).reads = s.reads := rfl
@[simp] theorem State.onWhorl_parked (h : Nat) (f : Whorl → Whorl) (s : State) : (State.onWhorl h f s).parked = s.parked := rfl
@[simp] theorem State.onWhorl_walks (h : Nat) (f : Whorl → Whorl) (s : State) : (State.onWhorl h f s).walks = s.walks := rfl
@[simp] theorem State.onWhorl_walkCache (h : Nat) (f : Whorl → Whorl) (s : State) : (State.onWhorl h f s).walkCache = s.walkCache := rfl
@[simp] theorem State.onWhorl_moves (h : Nat) (f : Whorl → Whorl) (s : State) : (State.onWhorl h f s).moves = s.moves := rfl

/-! ### `State.mapWaves` -/

@[simp] theorem State.mapWaves_w (s : State) (f : Nat → Wave → Wave) : (s.mapWaves f).w = f s.focus s.w := rfl
@[simp] theorem State.mapWaves_waves (s : State) (f : Nat → Wave → Wave) : (s.mapWaves f).waves = mapEntries f s.waves := rfl
@[simp] theorem State.mapWaves_focus (s : State) (f : Nat → Wave → Wave) : (s.mapWaves f).focus = s.focus := rfl
@[simp] theorem State.mapWaves_holders (s : State) (f : Nat → Wave → Wave) : (s.mapWaves f).holders = s.holders := rfl
@[simp] theorem State.mapWaves_agenda (s : State) (f : Nat → Wave → Wave) : (s.mapWaves f).agenda = s.agenda := rfl
@[simp] theorem State.mapWaves_free (s : State) (f : Nat → Wave → Wave) : (s.mapWaves f).free = s.free := rfl
@[simp] theorem State.mapWaves_nanotime (s : State) (f : Nat → Wave → Wave) : (s.mapWaves f).nanotime = s.nanotime := rfl
@[simp] theorem State.mapWaves_cycle (s : State) (f : Nat → Wave → Wave) : (s.mapWaves f).cycle = s.cycle := rfl
@[simp] theorem State.mapWaves_stamp (s : State) (f : Nat → Wave → Wave) : (s.mapWaves f).stamp = s.stamp := rfl
@[simp] theorem State.mapWaves_mem (s : State) (f : Nat → Wave → Wave) : (s.mapWaves f).mem = s.mem := rfl
@[simp] theorem State.mapWaves_poison (s : State) (f : Nat → Wave → Wave) : (s.mapWaves f).poison = s.poison := rfl
@[simp] theorem State.mapWaves_damage (s : State) (f : Nat → Wave → Wave) : (s.mapWaves f).damage = s.damage := rfl
@[simp] theorem State.mapWaves_decided (s : State) (f : Nat → Wave → Wave) : (s.mapWaves f).decided = s.decided := rfl
@[simp] theorem State.mapWaves_hostCopy (s : State) (f : Nat → Wave → Wave) : (s.mapWaves f).hostCopy = s.hostCopy := rfl
@[simp] theorem State.mapWaves_lanemaps (s : State) (f : Nat → Wave → Wave) : (s.mapWaves f).lanemaps = s.lanemaps := rfl
@[simp] theorem State.mapWaves_teams (s : State) (f : Nat → Wave → Wave) : (s.mapWaves f).teams = s.teams := rfl
@[simp] theorem State.mapWaves_launches (s : State) (f : Nat → Wave → Wave) : (s.mapWaves f).launches = s.launches := rfl
@[simp] theorem State.mapWaves_contexts (s : State) (f : Nat → Wave → Wave) : (s.mapWaves f).contexts = s.contexts := rfl
@[simp] theorem State.mapWaves_whorls (s : State) (f : Nat → Wave → Wave) : (s.mapWaves f).whorls = s.whorls := rfl
@[simp] theorem State.mapWaves_cores (s : State) (f : Nat → Wave → Wave) : (s.mapWaves f).cores = s.cores := rfl
@[simp] theorem State.mapWaves_tlb (s : State) (f : Nat → Wave → Wave) : (s.mapWaves f).tlb = s.tlb := rfl
@[simp] theorem State.mapWaves_tlbinvs (s : State) (f : Nat → Wave → Wave) : (s.mapWaves f).tlbinvs = s.tlbinvs := rfl
@[simp] theorem State.mapWaves_ats (s : State) (f : Nat → Wave → Wave) : (s.mapWaves f).ats = s.ats := rfl
@[simp] theorem State.mapWaves_carders (s : State) (f : Nat → Wave → Wave) : (s.mapWaves f).carders = s.carders := rfl
@[simp] theorem State.mapWaves_distaff (s : State) (f : Nat → Wave → Wave) : (s.mapWaves f).distaff = s.distaff := rfl
@[simp] theorem State.mapWaves_egress (s : State) (f : Nat → Wave → Wave) : (s.mapWaves f).egress = s.egress := rfl
@[simp] theorem State.mapWaves_seqTable (s : State) (f : Nat → Wave → Wave) : (s.mapWaves f).seqTable = s.seqTable := rfl
@[simp] theorem State.mapWaves_retired (s : State) (f : Nat → Wave → Wave) : (s.mapWaves f).retired = s.retired := rfl
@[simp] theorem State.mapWaves_mgmt (s : State) (f : Nat → Wave → Wave) : (s.mapWaves f).mgmt = s.mgmt := rfl
@[simp] theorem State.mapWaves_reads (s : State) (f : Nat → Wave → Wave) : (s.mapWaves f).reads = s.reads := rfl
@[simp] theorem State.mapWaves_parked (s : State) (f : Nat → Wave → Wave) : (s.mapWaves f).parked = s.parked := rfl
@[simp] theorem State.mapWaves_walks (s : State) (f : Nat → Wave → Wave) : (s.mapWaves f).walks = s.walks := rfl
@[simp] theorem State.mapWaves_walkCache (s : State) (f : Nat → Wave → Wave) : (s.mapWaves f).walkCache = s.walkCache := rfl
@[simp] theorem State.mapWaves_moves (s : State) (f : Nat → Wave → Wave) : (s.mapWaves f).moves = s.moves := rfl

/-! ### `raiseCount` -/

@[simp] theorem raiseCount_w (path : Nat) (s : State) : (raiseCount path s).w = { s.w with flight := s.w.flight ++ [⟨path, s.w.seq, false⟩] } := rfl
@[simp] theorem raiseCount_waves (path : Nat) (s : State) : (raiseCount path s).waves = s.waves := rfl
@[simp] theorem raiseCount_focus (path : Nat) (s : State) : (raiseCount path s).focus = s.focus := rfl
@[simp] theorem raiseCount_holders (path : Nat) (s : State) : (raiseCount path s).holders = s.holders := rfl
@[simp] theorem raiseCount_agenda (path : Nat) (s : State) : (raiseCount path s).agenda = s.agenda := rfl
@[simp] theorem raiseCount_free (path : Nat) (s : State) : (raiseCount path s).free = s.free := rfl
@[simp] theorem raiseCount_nanotime (path : Nat) (s : State) : (raiseCount path s).nanotime = s.nanotime := rfl
@[simp] theorem raiseCount_cycle (path : Nat) (s : State) : (raiseCount path s).cycle = s.cycle := rfl
@[simp] theorem raiseCount_stamp (path : Nat) (s : State) : (raiseCount path s).stamp = s.stamp := rfl
@[simp] theorem raiseCount_mem (path : Nat) (s : State) : (raiseCount path s).mem = s.mem := rfl
@[simp] theorem raiseCount_poison (path : Nat) (s : State) : (raiseCount path s).poison = s.poison := rfl
@[simp] theorem raiseCount_damage (path : Nat) (s : State) : (raiseCount path s).damage = s.damage := rfl
@[simp] theorem raiseCount_decided (path : Nat) (s : State) : (raiseCount path s).decided = s.decided := rfl
@[simp] theorem raiseCount_hostCopy (path : Nat) (s : State) : (raiseCount path s).hostCopy = s.hostCopy := rfl
@[simp] theorem raiseCount_lanemaps (path : Nat) (s : State) : (raiseCount path s).lanemaps = s.lanemaps := rfl
@[simp] theorem raiseCount_teams (path : Nat) (s : State) : (raiseCount path s).teams = s.teams := rfl
@[simp] theorem raiseCount_launches (path : Nat) (s : State) : (raiseCount path s).launches = s.launches := rfl
@[simp] theorem raiseCount_contexts (path : Nat) (s : State) : (raiseCount path s).contexts = s.contexts := rfl
@[simp] theorem raiseCount_whorls (path : Nat) (s : State) : (raiseCount path s).whorls = s.whorls := rfl
@[simp] theorem raiseCount_cores (path : Nat) (s : State) : (raiseCount path s).cores = s.cores := rfl
@[simp] theorem raiseCount_tlb (path : Nat) (s : State) : (raiseCount path s).tlb = s.tlb := rfl
@[simp] theorem raiseCount_tlbinvs (path : Nat) (s : State) : (raiseCount path s).tlbinvs = s.tlbinvs := rfl
@[simp] theorem raiseCount_ats (path : Nat) (s : State) : (raiseCount path s).ats = s.ats := rfl
@[simp] theorem raiseCount_carders (path : Nat) (s : State) : (raiseCount path s).carders = s.carders := rfl
@[simp] theorem raiseCount_distaff (path : Nat) (s : State) : (raiseCount path s).distaff = s.distaff := rfl
@[simp] theorem raiseCount_egress (path : Nat) (s : State) : (raiseCount path s).egress = s.egress := rfl
@[simp] theorem raiseCount_seqTable (path : Nat) (s : State) : (raiseCount path s).seqTable = s.seqTable := rfl
@[simp] theorem raiseCount_retired (path : Nat) (s : State) : (raiseCount path s).retired = s.retired := rfl
@[simp] theorem raiseCount_mgmt (path : Nat) (s : State) : (raiseCount path s).mgmt = s.mgmt := rfl
@[simp] theorem raiseCount_reads (path : Nat) (s : State) : (raiseCount path s).reads = s.reads := rfl
@[simp] theorem raiseCount_parked (path : Nat) (s : State) : (raiseCount path s).parked = s.parked := rfl
@[simp] theorem raiseCount_walks (path : Nat) (s : State) : (raiseCount path s).walks = s.walks := rfl
@[simp] theorem raiseCount_walkCache (path : Nat) (s : State) : (raiseCount path s).walkCache = s.walkCache := rfl
@[simp] theorem raiseCount_moves (path : Nat) (s : State) : (raiseCount path s).moves = s.moves := rfl

/-! ### Moving past a word -/

@[simp] theorem State.boundary_waves (s : State) (b : Bool) : (s.boundary b).waves = s.waves := by unfold State.boundary; split <;> rfl
@[simp] theorem State.boundary_focus (s : State) (b : Bool) : (s.boundary b).focus = s.focus := by unfold State.boundary; split <;> rfl
@[simp] theorem State.boundary_agenda (s : State) (b : Bool) : (s.boundary b).agenda = s.agenda := by unfold State.boundary; split <;> rfl
@[simp] theorem State.boundary_free (s : State) (b : Bool) : (s.boundary b).free = s.free := by unfold State.boundary; split <;> rfl
@[simp] theorem State.boundary_nanotime (s : State) (b : Bool) : (s.boundary b).nanotime = s.nanotime := by unfold State.boundary; split <;> rfl
@[simp] theorem State.boundary_cycle (s : State) (b : Bool) : (s.boundary b).cycle = s.cycle := by unfold State.boundary; split <;> rfl
@[simp] theorem State.boundary_stamp (s : State) (b : Bool) : (s.boundary b).stamp = s.stamp := by unfold State.boundary; split <;> rfl
@[simp] theorem State.boundary_mem (s : State) (b : Bool) : (s.boundary b).mem = s.mem := by unfold State.boundary; split <;> rfl
@[simp] theorem State.boundary_poison (s : State) (b : Bool) : (s.boundary b).poison = s.poison := by unfold State.boundary; split <;> rfl
@[simp] theorem State.boundary_damage (s : State) (b : Bool) : (s.boundary b).damage = s.damage := by unfold State.boundary; split <;> rfl
@[simp] theorem State.boundary_decided (s : State) (b : Bool) : (s.boundary b).decided = s.decided := by unfold State.boundary; split <;> rfl
@[simp] theorem State.boundary_hostCopy (s : State) (b : Bool) : (s.boundary b).hostCopy = s.hostCopy := by unfold State.boundary; split <;> rfl
@[simp] theorem State.boundary_lanemaps (s : State) (b : Bool) : (s.boundary b).lanemaps = s.lanemaps := by unfold State.boundary; split <;> rfl
@[simp] theorem State.boundary_teams (s : State) (b : Bool) : (s.boundary b).teams = s.teams := by unfold State.boundary; split <;> rfl
@[simp] theorem State.boundary_launches (s : State) (b : Bool) : (s.boundary b).launches = s.launches := by unfold State.boundary; split <;> rfl
@[simp] theorem State.boundary_contexts (s : State) (b : Bool) : (s.boundary b).contexts = s.contexts := by unfold State.boundary; split <;> rfl
@[simp] theorem State.boundary_whorls (s : State) (b : Bool) : (s.boundary b).whorls = s.whorls := by unfold State.boundary; split <;> rfl
@[simp] theorem State.boundary_cores (s : State) (b : Bool) : (s.boundary b).cores = s.cores := by unfold State.boundary; split <;> rfl
@[simp] theorem State.boundary_tlb (s : State) (b : Bool) : (s.boundary b).tlb = s.tlb := by unfold State.boundary; split <;> rfl
@[simp] theorem State.boundary_tlbinvs (s : State) (b : Bool) : (s.boundary b).tlbinvs = s.tlbinvs := by unfold State.boundary; split <;> rfl
@[simp] theorem State.boundary_ats (s : State) (b : Bool) : (s.boundary b).ats = s.ats := by unfold State.boundary; split <;> rfl
@[simp] theorem State.boundary_carders (s : State) (b : Bool) : (s.boundary b).carders = s.carders := by unfold State.boundary; split <;> rfl
@[simp] theorem State.boundary_distaff (s : State) (b : Bool) : (s.boundary b).distaff = s.distaff := by unfold State.boundary; split <;> rfl
@[simp] theorem State.boundary_egress (s : State) (b : Bool) : (s.boundary b).egress = s.egress := by unfold State.boundary; split <;> rfl
@[simp] theorem State.boundary_seqTable (s : State) (b : Bool) : (s.boundary b).seqTable = s.seqTable := by unfold State.boundary; split <;> rfl
@[simp] theorem State.boundary_retired (s : State) (b : Bool) : (s.boundary b).retired = s.retired := by unfold State.boundary; split <;> rfl
@[simp] theorem State.boundary_mgmt (s : State) (b : Bool) : (s.boundary b).mgmt = s.mgmt := by unfold State.boundary; split <;> rfl
@[simp] theorem State.boundary_reads (s : State) (b : Bool) : (s.boundary b).reads = s.reads := by unfold State.boundary; split <;> rfl
@[simp] theorem State.boundary_parked (s : State) (b : Bool) : (s.boundary b).parked = s.parked := by unfold State.boundary; split <;> rfl
@[simp] theorem State.boundary_walks (s : State) (b : Bool) : (s.boundary b).walks = s.walks := by unfold State.boundary; split <;> rfl
@[simp] theorem State.boundary_walkCache (s : State) (b : Bool) : (s.boundary b).walkCache = s.walkCache := by unfold State.boundary; split <;> rfl
@[simp] theorem State.boundary_moves (s : State) (b : Bool) : (s.boundary b).moves = s.moves := by unfold State.boundary; split <;> rfl
@[simp] theorem State.boundary_w_a (s : State) (b : Bool) : (s.boundary b).w.a = s.w.a := by unfold State.boundary; split <;> rfl
@[simp] theorem State.boundary_w_env (s : State) (b : Bool) : (s.boundary b).w.env = s.w.env := by unfold State.boundary; split <;> rfl
@[simp] theorem State.boundary_w_station (s : State) (b : Bool) : (s.boundary b).w.station = s.w.station := by unfold State.boundary; split <;> rfl
@[simp] theorem State.boundary_w_hold (s : State) (b : Bool) : (s.boundary b).w.hold = s.w.hold := by unfold State.boundary; split <;> rfl
@[simp] theorem State.boundary_w_core (s : State) (b : Bool) : (s.boundary b).w.core = s.w.core := by unfold State.boundary; split <;> rfl
@[simp] theorem State.boundary_w_quarter (s : State) (b : Bool) : (s.boundary b).w.quarter = s.w.quarter := by unfold State.boundary; split <;> rfl
@[simp] theorem State.boundary_w_slot (s : State) (b : Bool) : (s.boundary b).w.slot = s.w.slot := by unfold State.boundary; split <;> rfl
@[simp] theorem State.boundary_w_launch (s : State) (b : Bool) : (s.boundary b).w.launch = s.w.launch := by unfold State.boundary; split <;> rfl
@[simp] theorem State.boundary_w_team (s : State) (b : Bool) : (s.boundary b).w.team = s.w.team := by unfold State.boundary; split <;> rfl
@[simp] theorem State.boundary_w_teamid (s : State) (b : Bool) : (s.boundary b).w.teamid = s.w.teamid := by unfold State.boundary; split <;> rfl
@[simp] theorem State.boundary_w_wid (s : State) (b : Bool) : (s.boundary b).w.wid = s.w.wid := by unfold State.boundary; split <;> rfl
@[simp] theorem State.boundary_w_width (s : State) (b : Bool) : (s.boundary b).w.width = s.w.width := by unfold State.boundary; split <;> rfl
@[simp] theorem State.boundary_w_vregs (s : State) (b : Bool) : (s.boundary b).w.vregs = s.w.vregs := by unfold State.boundary; split <;> rfl
@[simp] theorem State.boundary_w_sregs (s : State) (b : Bool) : (s.boundary b).w.sregs = s.w.sregs := by unfold State.boundary; split <;> rfl
@[simp] theorem State.boundary_w_ports (s : State) (b : Bool) : (s.boundary b).w.ports = s.w.ports := by unfold State.boundary; split <;> rfl
@[simp] theorem State.boundary_w_scratch (s : State) (b : Bool) : (s.boundary b).w.scratch = s.w.scratch := by unfold State.boundary; split <;> rfl
@[simp] theorem State.boundary_w_barriers (s : State) (b : Bool) : (s.boundary b).w.barriers = s.w.barriers := by unfold State.boundary; split <;> rfl
@[simp] theorem State.boundary_w_waves (s : State) (b : Bool) : (s.boundary b).w.waves = s.w.waves := by unfold State.boundary; split <;> rfl
@[simp] theorem State.boundary_w_twin (s : State) (b : Bool) : (s.boundary b).w.twin = s.w.twin := by unfold State.boundary; split <;> rfl
@[simp] theorem State.boundary_w_seq (s : State) (b : Bool) : (s.boundary b).w.seq = s.w.seq := by unfold State.boundary; split <;> rfl
@[simp] theorem State.boundary_w_lastIssue (s : State) (b : Bool) : (s.boundary b).w.lastIssue = s.w.lastIssue := by unfold State.boundary; split <;> rfl
@[simp] theorem State.boundary_w_promoted (s : State) (b : Bool) : (s.boundary b).w.promoted = s.w.promoted := by unfold State.boundary; split <;> rfl
@[simp] theorem State.boundary_w_inst (s : State) (b : Bool) : (s.boundary b).w.inst = s.w.inst := by unfold State.boundary; split <;> rfl
@[simp] theorem State.boundary_w_halted (s : State) (b : Bool) : (s.boundary b).w.halted = s.w.halted := by unfold State.boundary; split <;> rfl
@[simp] theorem State.boundary_w_fte (s : State) (b : Bool) : (s.boundary b).w.fte = s.w.fte := by unfold State.boundary; split <;> rfl
@[simp] theorem State.boundary_w_rmode (s : State) (b : Bool) : (s.boundary b).w.rmode = s.w.rmode := by unfold State.boundary; split <;> rfl
@[simp] theorem State.boundary_w_gang (s : State) (b : Bool) : (s.boundary b).w.gang = s.w.gang := by unfold State.boundary; split <;> rfl
@[simp] theorem State.boundary_w_mprog (s : State) (b : Bool) : (s.boundary b).w.mprog = s.w.mprog := by unfold State.boundary; split <;> rfl
@[simp] theorem State.boundary_w_trcause (s : State) (b : Bool) : (s.boundary b).w.trcause = s.w.trcause := by unfold State.boundary; split <;> rfl
@[simp] theorem State.boundary_w_trpc (s : State) (b : Bool) : (s.boundary b).w.trpc = s.w.trpc := by unfold State.boundary; split <;> rfl
@[simp] theorem State.boundary_w_trmask (s : State) (b : Bool) : (s.boundary b).w.trmask = s.w.trmask := by unfold State.boundary; split <;> rfl
@[simp] theorem State.boundary_w_trinst (s : State) (b : Bool) : (s.boundary b).w.trinst = s.w.trinst := by unfold State.boundary; split <;> rfl
@[simp] theorem State.boundary_w_trexec (s : State) (b : Bool) : (s.boundary b).w.trexec = s.w.trexec := by unfold State.boundary; split <;> rfl
@[simp] theorem State.boundary_w_trpos (s : State) (b : Bool) : (s.boundary b).w.trpos = s.w.trpos := by unfold State.boundary; split <;> rfl
@[simp] theorem State.boundary_w_trwritten (s : State) (b : Bool) : (s.boundary b).w.trwritten = s.w.trwritten := by unfold State.boundary; split <;> rfl
@[simp] theorem State.boundary_w_pend (s : State) (b : Bool) : (s.boundary b).w.pend = s.w.pend := by unfold State.boundary; split <;> rfl
@[simp] theorem State.boundary_w_pendSeq (s : State) (b : Bool) : (s.boundary b).w.pendSeq = s.w.pendSeq := by unfold State.boundary; split <;> rfl
@[simp] theorem State.boundary_w_flight (s : State) (b : Bool) : (s.boundary b).w.flight = s.w.flight := by unfold State.boundary; split <;> rfl
@[simp] theorem State.boundary_w_accesses (s : State) (b : Bool) : (s.boundary b).w.accesses = s.w.accesses := by unfold State.boundary; split <;> rfl
@[simp] theorem State.boundary_w_producers (s : State) (b : Bool) : (s.boundary b).w.producers = s.w.producers := by unfold State.boundary; split <;> rfl
@[simp] theorem State.boundary_w_aside (s : State) (b : Bool) : (s.boundary b).w.aside = s.w.aside := by unfold State.boundary; split <;> rfl
@[simp] theorem State.boundary_w_kept (s : State) (b : Bool) : (s.boundary b).w.kept = s.w.kept := by unfold State.boundary; split <;> rfl
@[simp] theorem State.boundary_w_sampled (s : State) (b : Bool) : (s.boundary b).w.sampled = s.w.sampled := by unfold State.boundary; split <;> rfl
@[simp] theorem State.boundary_w_total (s : State) (b : Bool) : (s.boundary b).w.total = s.w.total := by unfold State.boundary; split <;> rfl
@[simp] theorem State.boundary_w_consec (s : State) (b : Bool) : (s.boundary b).w.consec = s.w.consec := by unfold State.boundary; split <;> rfl
@[simp] theorem State.boundary_w_failing (s : State) (b : Bool) : (s.boundary b).w.failing = s.w.failing := by unfold State.boundary; split <;> rfl
@[simp] theorem State.boundary_w_force (s : State) (b : Bool) : (s.boundary b).w.force = s.w.force := by unfold State.boundary; split <;> rfl
@[simp] theorem State.boundary_w_mode (s : State) (b : Bool) : (s.boundary b).w.mode = s.w.mode := by unfold State.boundary; split <;> rfl
@[simp] theorem State.boundary_w_holds (s : State) (b : Bool) : (s.boundary b).w.holds = s.w.holds := by unfold State.boundary; split <;> rfl
@[simp] theorem State.boundary_w_txn (s : State) (b : Bool) : (s.boundary b).w.txn = s.w.txn := by unfold State.boundary; split <;> rfl
@[simp] theorem State.boundary_w_txUser (s : State) (b : Bool) : (s.boundary b).w.txUser = s.w.txUser := by unfold State.boundary; split <;> rfl
@[simp] theorem State.boundary_w_txCode (s : State) (b : Bool) : (s.boundary b).w.txCode = s.w.txCode := by unfold State.boundary; split <;> rfl
@[simp] theorem State.boundary_w_txAborts (s : State) (b : Bool) : (s.boundary b).w.txAborts = s.w.txAborts := by unfold State.boundary; split <;> rfl
@[simp] theorem State.boundary_w_deadline (s : State) (b : Bool) : (s.boundary b).w.deadline = s.w.deadline := by unfold State.boundary; split <;> rfl
@[simp] theorem State.boundary_w_arrives (s : State) (b : Bool) : (s.boundary b).w.arrives = s.w.arrives := by unfold State.boundary; split <;> rfl
@[simp] theorem State.boundary_w_matrix (s : State) (b : Bool) : (s.boundary b).w.matrix = s.w.matrix := by unfold State.boundary; split <;> rfl
@[simp] theorem State.boundary_w_matDone (s : State) (b : Bool) : (s.boundary b).w.matDone = s.w.matDone := by unfold State.boundary; split <;> rfl
@[simp] theorem State.boundary_w_acc (s : State) (b : Bool) : (s.boundary b).w.acc = s.w.acc := by unfold State.boundary; split <;> rfl
@[simp] theorem State.boundary_w_rows (s : State) (b : Bool) : (s.boundary b).w.rows = s.w.rows := by unfold State.boundary; split <;> rfl
@[simp] theorem State.boundary_w_attn (s : State) (b : Bool) : (s.boundary b).w.attn = s.w.attn := by unfold State.boundary; split <;> rfl
@[simp] theorem State.boundary_w_pair (s : State) (b : Bool) : (s.boundary b).w.pair = s.w.pair := by unfold State.boundary; split <;> rfl
@[simp] theorem State.boundary_w_pairLog (s : State) (b : Bool) : (s.boundary b).w.pairLog = s.w.pairLog := by unfold State.boundary; split <;> rfl
@[simp] theorem State.boundary_w_signature (s : State) (b : Bool) : (s.boundary b).w.signature = s.w.signature := by unfold State.boundary; split <;> rfl
@[simp] theorem State.boundary_w_pairOk (s : State) (b : Bool) : (s.boundary b).w.pairOk = s.w.pairOk := by unfold State.boundary; split <;> rfl
@[simp] theorem advance_waves (n l : Nat) (s : State) : (advance n l s).waves = s.waves := by unfold advance; dsimp only; split <;> simp
@[simp] theorem advance_focus (n l : Nat) (s : State) : (advance n l s).focus = s.focus := by unfold advance; dsimp only; split <;> simp
@[simp] theorem advance_agenda (n l : Nat) (s : State) : (advance n l s).agenda = s.agenda := by unfold advance; dsimp only; split <;> simp
@[simp] theorem advance_free (n l : Nat) (s : State) : (advance n l s).free = s.free := by unfold advance; dsimp only; split <;> simp
@[simp] theorem advance_nanotime (n l : Nat) (s : State) : (advance n l s).nanotime = s.nanotime := by unfold advance; dsimp only; split <;> simp
@[simp] theorem advance_cycle (n l : Nat) (s : State) : (advance n l s).cycle = s.cycle := by unfold advance; dsimp only; split <;> simp
@[simp] theorem advance_stamp (n l : Nat) (s : State) : (advance n l s).stamp = s.stamp := by unfold advance; dsimp only; split <;> simp
@[simp] theorem advance_mem (n l : Nat) (s : State) : (advance n l s).mem = s.mem := by unfold advance; dsimp only; split <;> simp
@[simp] theorem advance_poison (n l : Nat) (s : State) : (advance n l s).poison = s.poison := by unfold advance; dsimp only; split <;> simp
@[simp] theorem advance_damage (n l : Nat) (s : State) : (advance n l s).damage = s.damage := by unfold advance; dsimp only; split <;> simp
@[simp] theorem advance_decided (n l : Nat) (s : State) : (advance n l s).decided = s.decided := by unfold advance; dsimp only; split <;> simp
@[simp] theorem advance_hostCopy (n l : Nat) (s : State) : (advance n l s).hostCopy = s.hostCopy := by unfold advance; dsimp only; split <;> simp
@[simp] theorem advance_lanemaps (n l : Nat) (s : State) : (advance n l s).lanemaps = s.lanemaps := by unfold advance; dsimp only; split <;> simp
@[simp] theorem advance_teams (n l : Nat) (s : State) : (advance n l s).teams = s.teams := by unfold advance; dsimp only; split <;> simp
@[simp] theorem advance_launches (n l : Nat) (s : State) : (advance n l s).launches = s.launches := by unfold advance; dsimp only; split <;> simp
@[simp] theorem advance_contexts (n l : Nat) (s : State) : (advance n l s).contexts = s.contexts := by unfold advance; dsimp only; split <;> simp
@[simp] theorem advance_whorls (n l : Nat) (s : State) : (advance n l s).whorls = s.whorls := by unfold advance; dsimp only; split <;> simp
@[simp] theorem advance_cores (n l : Nat) (s : State) : (advance n l s).cores = s.cores := by unfold advance; dsimp only; split <;> simp
@[simp] theorem advance_tlb (n l : Nat) (s : State) : (advance n l s).tlb = s.tlb := by unfold advance; dsimp only; split <;> simp
@[simp] theorem advance_tlbinvs (n l : Nat) (s : State) : (advance n l s).tlbinvs = s.tlbinvs := by unfold advance; dsimp only; split <;> simp
@[simp] theorem advance_ats (n l : Nat) (s : State) : (advance n l s).ats = s.ats := by unfold advance; dsimp only; split <;> simp
@[simp] theorem advance_carders (n l : Nat) (s : State) : (advance n l s).carders = s.carders := by unfold advance; dsimp only; split <;> simp
@[simp] theorem advance_distaff (n l : Nat) (s : State) : (advance n l s).distaff = s.distaff := by unfold advance; dsimp only; split <;> simp
@[simp] theorem advance_egress (n l : Nat) (s : State) : (advance n l s).egress = s.egress := by unfold advance; dsimp only; split <;> simp
@[simp] theorem advance_seqTable (n l : Nat) (s : State) : (advance n l s).seqTable = s.seqTable := by unfold advance; dsimp only; split <;> simp
@[simp] theorem advance_retired (n l : Nat) (s : State) : (advance n l s).retired = s.retired := by unfold advance; dsimp only; split <;> simp
@[simp] theorem advance_mgmt (n l : Nat) (s : State) : (advance n l s).mgmt = s.mgmt := by unfold advance; dsimp only; split <;> simp
@[simp] theorem advance_reads (n l : Nat) (s : State) : (advance n l s).reads = s.reads := by unfold advance; dsimp only; split <;> simp
@[simp] theorem advance_parked (n l : Nat) (s : State) : (advance n l s).parked = s.parked := by unfold advance; dsimp only; split <;> simp
@[simp] theorem advance_walks (n l : Nat) (s : State) : (advance n l s).walks = s.walks := by unfold advance; dsimp only; split <;> simp
@[simp] theorem advance_walkCache (n l : Nat) (s : State) : (advance n l s).walkCache = s.walkCache := by unfold advance; dsimp only; split <;> simp
@[simp] theorem advance_moves (n l : Nat) (s : State) : (advance n l s).moves = s.moves := by unfold advance; dsimp only; split <;> simp
@[simp] theorem advance_w_env (n l : Nat) (s : State) : (advance n l s).w.env = s.w.env := by unfold advance; dsimp only; split <;> simp [Wave.seal, Wave.logWrites]
@[simp] theorem advance_w_station (n l : Nat) (s : State) : (advance n l s).w.station = s.w.station := by unfold advance; dsimp only; split <;> simp [Wave.seal, Wave.logWrites]
@[simp] theorem advance_w_core (n l : Nat) (s : State) : (advance n l s).w.core = s.w.core := by unfold advance; dsimp only; split <;> simp [Wave.seal, Wave.logWrites]
@[simp] theorem advance_w_quarter (n l : Nat) (s : State) : (advance n l s).w.quarter = s.w.quarter := by unfold advance; dsimp only; split <;> simp [Wave.seal, Wave.logWrites]
@[simp] theorem advance_w_slot (n l : Nat) (s : State) : (advance n l s).w.slot = s.w.slot := by unfold advance; dsimp only; split <;> simp [Wave.seal, Wave.logWrites]
@[simp] theorem advance_w_launch (n l : Nat) (s : State) : (advance n l s).w.launch = s.w.launch := by unfold advance; dsimp only; split <;> simp [Wave.seal, Wave.logWrites]
@[simp] theorem advance_w_team (n l : Nat) (s : State) : (advance n l s).w.team = s.w.team := by unfold advance; dsimp only; split <;> simp [Wave.seal, Wave.logWrites]
@[simp] theorem advance_w_teamid (n l : Nat) (s : State) : (advance n l s).w.teamid = s.w.teamid := by unfold advance; dsimp only; split <;> simp [Wave.seal, Wave.logWrites]
@[simp] theorem advance_w_wid (n l : Nat) (s : State) : (advance n l s).w.wid = s.w.wid := by unfold advance; dsimp only; split <;> simp [Wave.seal, Wave.logWrites]
@[simp] theorem advance_w_width (n l : Nat) (s : State) : (advance n l s).w.width = s.w.width := by unfold advance; dsimp only; split <;> simp [Wave.seal, Wave.logWrites]
@[simp] theorem advance_w_vregs (n l : Nat) (s : State) : (advance n l s).w.vregs = s.w.vregs := by unfold advance; dsimp only; split <;> simp [Wave.seal, Wave.logWrites]
@[simp] theorem advance_w_sregs (n l : Nat) (s : State) : (advance n l s).w.sregs = s.w.sregs := by unfold advance; dsimp only; split <;> simp [Wave.seal, Wave.logWrites]
@[simp] theorem advance_w_ports (n l : Nat) (s : State) : (advance n l s).w.ports = s.w.ports := by unfold advance; dsimp only; split <;> simp [Wave.seal, Wave.logWrites]
@[simp] theorem advance_w_scratch (n l : Nat) (s : State) : (advance n l s).w.scratch = s.w.scratch := by unfold advance; dsimp only; split <;> simp [Wave.seal, Wave.logWrites]
@[simp] theorem advance_w_barriers (n l : Nat) (s : State) : (advance n l s).w.barriers = s.w.barriers := by unfold advance; dsimp only; split <;> simp [Wave.seal, Wave.logWrites]
@[simp] theorem advance_w_waves (n l : Nat) (s : State) : (advance n l s).w.waves = s.w.waves := by unfold advance; dsimp only; split <;> simp [Wave.seal, Wave.logWrites]
@[simp] theorem advance_w_twin (n l : Nat) (s : State) : (advance n l s).w.twin = s.w.twin := by unfold advance; dsimp only; split <;> simp [Wave.seal, Wave.logWrites]
@[simp] theorem advance_w_inst (n l : Nat) (s : State) : (advance n l s).w.inst = s.w.inst := by unfold advance; dsimp only; split <;> simp [Wave.seal, Wave.logWrites]
@[simp] theorem advance_w_halted (n l : Nat) (s : State) : (advance n l s).w.halted = s.w.halted := by unfold advance; dsimp only; split <;> simp [Wave.seal, Wave.logWrites]
@[simp] theorem advance_w_fte (n l : Nat) (s : State) : (advance n l s).w.fte = s.w.fte := by unfold advance; dsimp only; split <;> simp [Wave.seal, Wave.logWrites]
@[simp] theorem advance_w_rmode (n l : Nat) (s : State) : (advance n l s).w.rmode = s.w.rmode := by unfold advance; dsimp only; split <;> simp [Wave.seal, Wave.logWrites]
@[simp] theorem advance_w_gang (n l : Nat) (s : State) : (advance n l s).w.gang = s.w.gang := by unfold advance; dsimp only; split <;> simp [Wave.seal, Wave.logWrites]
@[simp] theorem advance_w_mprog (n l : Nat) (s : State) : (advance n l s).w.mprog = s.w.mprog := by unfold advance; dsimp only; split <;> simp [Wave.seal, Wave.logWrites]
@[simp] theorem advance_w_trcause (n l : Nat) (s : State) : (advance n l s).w.trcause = s.w.trcause := by unfold advance; dsimp only; split <;> simp [Wave.seal, Wave.logWrites]
@[simp] theorem advance_w_trpc (n l : Nat) (s : State) : (advance n l s).w.trpc = s.w.trpc := by unfold advance; dsimp only; split <;> simp [Wave.seal, Wave.logWrites]
@[simp] theorem advance_w_trmask (n l : Nat) (s : State) : (advance n l s).w.trmask = s.w.trmask := by unfold advance; dsimp only; split <;> simp [Wave.seal, Wave.logWrites]
@[simp] theorem advance_w_trinst (n l : Nat) (s : State) : (advance n l s).w.trinst = s.w.trinst := by unfold advance; dsimp only; split <;> simp [Wave.seal, Wave.logWrites]
@[simp] theorem advance_w_trexec (n l : Nat) (s : State) : (advance n l s).w.trexec = s.w.trexec := by unfold advance; dsimp only; split <;> simp [Wave.seal, Wave.logWrites]
@[simp] theorem advance_w_trpos (n l : Nat) (s : State) : (advance n l s).w.trpos = s.w.trpos := by unfold advance; dsimp only; split <;> simp [Wave.seal, Wave.logWrites]
@[simp] theorem advance_w_trwritten (n l : Nat) (s : State) : (advance n l s).w.trwritten = s.w.trwritten := by unfold advance; dsimp only; split <;> simp [Wave.seal, Wave.logWrites]
@[simp] theorem advance_w_pend (n l : Nat) (s : State) : (advance n l s).w.pend = s.w.pend := by unfold advance; dsimp only; split <;> simp [Wave.seal, Wave.logWrites]
@[simp] theorem advance_w_pendSeq (n l : Nat) (s : State) : (advance n l s).w.pendSeq = s.w.pendSeq := by unfold advance; dsimp only; split <;> simp [Wave.seal, Wave.logWrites]
@[simp] theorem advance_w_flight (n l : Nat) (s : State) : (advance n l s).w.flight = s.w.flight := by unfold advance; dsimp only; split <;> simp [Wave.seal, Wave.logWrites]
@[simp] theorem advance_w_producers (n l : Nat) (s : State) : (advance n l s).w.producers = s.w.producers := by unfold advance; dsimp only; split <;> simp [Wave.seal, Wave.logWrites]
@[simp] theorem advance_w_aside (n l : Nat) (s : State) : (advance n l s).w.aside = s.w.aside := by unfold advance; dsimp only; split <;> simp [Wave.seal, Wave.logWrites]
@[simp] theorem advance_w_kept (n l : Nat) (s : State) : (advance n l s).w.kept = s.w.kept := by unfold advance; dsimp only; split <;> simp [Wave.seal, Wave.logWrites]
@[simp] theorem advance_w_total (n l : Nat) (s : State) : (advance n l s).w.total = s.w.total := by unfold advance; dsimp only; split <;> simp [Wave.seal, Wave.logWrites]
@[simp] theorem advance_w_consec (n l : Nat) (s : State) : (advance n l s).w.consec = s.w.consec := by unfold advance; dsimp only; split <;> simp [Wave.seal, Wave.logWrites]
@[simp] theorem advance_w_failing (n l : Nat) (s : State) : (advance n l s).w.failing = s.w.failing := by unfold advance; dsimp only; split <;> simp [Wave.seal, Wave.logWrites]
@[simp] theorem advance_w_force (n l : Nat) (s : State) : (advance n l s).w.force = s.w.force := by unfold advance; dsimp only; split <;> simp [Wave.seal, Wave.logWrites]
@[simp] theorem advance_w_mode (n l : Nat) (s : State) : (advance n l s).w.mode = s.w.mode := by unfold advance; dsimp only; split <;> simp [Wave.seal, Wave.logWrites]
@[simp] theorem advance_w_holds (n l : Nat) (s : State) : (advance n l s).w.holds = s.w.holds := by unfold advance; dsimp only; split <;> simp [Wave.seal, Wave.logWrites]
@[simp] theorem advance_w_txUser (n l : Nat) (s : State) : (advance n l s).w.txUser = s.w.txUser := by unfold advance; dsimp only; split <;> simp [Wave.seal, Wave.logWrites]
@[simp] theorem advance_w_txCode (n l : Nat) (s : State) : (advance n l s).w.txCode = s.w.txCode := by unfold advance; dsimp only; split <;> simp [Wave.seal, Wave.logWrites]
@[simp] theorem advance_w_txAborts (n l : Nat) (s : State) : (advance n l s).w.txAborts = s.w.txAborts := by unfold advance; dsimp only; split <;> simp [Wave.seal, Wave.logWrites]
@[simp] theorem advance_w_deadline (n l : Nat) (s : State) : (advance n l s).w.deadline = s.w.deadline := by unfold advance; dsimp only; split <;> simp [Wave.seal, Wave.logWrites]
@[simp] theorem advance_w_arrives (n l : Nat) (s : State) : (advance n l s).w.arrives = s.w.arrives := by unfold advance; dsimp only; split <;> simp [Wave.seal, Wave.logWrites]
@[simp] theorem advance_w_matrix (n l : Nat) (s : State) : (advance n l s).w.matrix = s.w.matrix := by unfold advance; dsimp only; split <;> simp [Wave.seal, Wave.logWrites]
@[simp] theorem advance_w_matDone (n l : Nat) (s : State) : (advance n l s).w.matDone = s.w.matDone := by unfold advance; dsimp only; split <;> simp [Wave.seal, Wave.logWrites]
@[simp] theorem advance_w_acc (n l : Nat) (s : State) : (advance n l s).w.acc = s.w.acc := by unfold advance; dsimp only; split <;> simp [Wave.seal, Wave.logWrites]
@[simp] theorem advance_w_rows (n l : Nat) (s : State) : (advance n l s).w.rows = s.w.rows := by unfold advance; dsimp only; split <;> simp [Wave.seal, Wave.logWrites]
@[simp] theorem advance_w_attn (n l : Nat) (s : State) : (advance n l s).w.attn = s.w.attn := by unfold advance; dsimp only; split <;> simp [Wave.seal, Wave.logWrites]
@[simp] theorem advance_w_pair (n l : Nat) (s : State) : (advance n l s).w.pair = s.w.pair := by unfold advance; dsimp only; split <;> simp [Wave.seal, Wave.logWrites]
@[simp] theorem advance_w_pairLog (n l : Nat) (s : State) : (advance n l s).w.pairLog = s.w.pairLog := by unfold advance; dsimp only; split <;> simp [Wave.seal, Wave.logWrites]
@[simp] theorem advance_w_signature (n l : Nat) (s : State) : (advance n l s).w.signature = s.w.signature := by unfold advance; dsimp only; split <;> simp [Wave.seal, Wave.logWrites]
@[simp] theorem jump_waves (target : W64) (l : Nat) (s : State) : (jump target l s).waves = s.waves := by unfold jump; simp
@[simp] theorem jump_focus (target : W64) (l : Nat) (s : State) : (jump target l s).focus = s.focus := by unfold jump; simp
@[simp] theorem jump_agenda (target : W64) (l : Nat) (s : State) : (jump target l s).agenda = s.agenda := by unfold jump; simp
@[simp] theorem jump_free (target : W64) (l : Nat) (s : State) : (jump target l s).free = s.free := by unfold jump; simp
@[simp] theorem jump_nanotime (target : W64) (l : Nat) (s : State) : (jump target l s).nanotime = s.nanotime := by unfold jump; simp
@[simp] theorem jump_cycle (target : W64) (l : Nat) (s : State) : (jump target l s).cycle = s.cycle := by unfold jump; simp
@[simp] theorem jump_stamp (target : W64) (l : Nat) (s : State) : (jump target l s).stamp = s.stamp := by unfold jump; simp
@[simp] theorem jump_mem (target : W64) (l : Nat) (s : State) : (jump target l s).mem = s.mem := by unfold jump; simp
@[simp] theorem jump_poison (target : W64) (l : Nat) (s : State) : (jump target l s).poison = s.poison := by unfold jump; simp
@[simp] theorem jump_damage (target : W64) (l : Nat) (s : State) : (jump target l s).damage = s.damage := by unfold jump; simp
@[simp] theorem jump_decided (target : W64) (l : Nat) (s : State) : (jump target l s).decided = s.decided := by unfold jump; simp
@[simp] theorem jump_hostCopy (target : W64) (l : Nat) (s : State) : (jump target l s).hostCopy = s.hostCopy := by unfold jump; simp
@[simp] theorem jump_lanemaps (target : W64) (l : Nat) (s : State) : (jump target l s).lanemaps = s.lanemaps := by unfold jump; simp
@[simp] theorem jump_teams (target : W64) (l : Nat) (s : State) : (jump target l s).teams = s.teams := by unfold jump; simp
@[simp] theorem jump_launches (target : W64) (l : Nat) (s : State) : (jump target l s).launches = s.launches := by unfold jump; simp
@[simp] theorem jump_contexts (target : W64) (l : Nat) (s : State) : (jump target l s).contexts = s.contexts := by unfold jump; simp
@[simp] theorem jump_whorls (target : W64) (l : Nat) (s : State) : (jump target l s).whorls = s.whorls := by unfold jump; simp
@[simp] theorem jump_cores (target : W64) (l : Nat) (s : State) : (jump target l s).cores = s.cores := by unfold jump; simp
@[simp] theorem jump_tlb (target : W64) (l : Nat) (s : State) : (jump target l s).tlb = s.tlb := by unfold jump; simp
@[simp] theorem jump_tlbinvs (target : W64) (l : Nat) (s : State) : (jump target l s).tlbinvs = s.tlbinvs := by unfold jump; simp
@[simp] theorem jump_ats (target : W64) (l : Nat) (s : State) : (jump target l s).ats = s.ats := by unfold jump; simp
@[simp] theorem jump_carders (target : W64) (l : Nat) (s : State) : (jump target l s).carders = s.carders := by unfold jump; simp
@[simp] theorem jump_distaff (target : W64) (l : Nat) (s : State) : (jump target l s).distaff = s.distaff := by unfold jump; simp
@[simp] theorem jump_egress (target : W64) (l : Nat) (s : State) : (jump target l s).egress = s.egress := by unfold jump; simp
@[simp] theorem jump_seqTable (target : W64) (l : Nat) (s : State) : (jump target l s).seqTable = s.seqTable := by unfold jump; simp
@[simp] theorem jump_retired (target : W64) (l : Nat) (s : State) : (jump target l s).retired = s.retired := by unfold jump; simp
@[simp] theorem jump_mgmt (target : W64) (l : Nat) (s : State) : (jump target l s).mgmt = s.mgmt := by unfold jump; simp
@[simp] theorem jump_reads (target : W64) (l : Nat) (s : State) : (jump target l s).reads = s.reads := by unfold jump; simp
@[simp] theorem jump_parked (target : W64) (l : Nat) (s : State) : (jump target l s).parked = s.parked := by unfold jump; simp
@[simp] theorem jump_walks (target : W64) (l : Nat) (s : State) : (jump target l s).walks = s.walks := by unfold jump; simp
@[simp] theorem jump_walkCache (target : W64) (l : Nat) (s : State) : (jump target l s).walkCache = s.walkCache := by unfold jump; simp
@[simp] theorem jump_moves (target : W64) (l : Nat) (s : State) : (jump target l s).moves = s.moves := by unfold jump; simp
@[simp] theorem jump_w_env (target : W64) (l : Nat) (s : State) : (jump target l s).w.env = s.w.env := by unfold jump; simp [Wave.seal, Wave.logWrites]
@[simp] theorem jump_w_station (target : W64) (l : Nat) (s : State) : (jump target l s).w.station = s.w.station := by unfold jump; simp [Wave.seal, Wave.logWrites]
@[simp] theorem jump_w_core (target : W64) (l : Nat) (s : State) : (jump target l s).w.core = s.w.core := by unfold jump; simp [Wave.seal, Wave.logWrites]
@[simp] theorem jump_w_quarter (target : W64) (l : Nat) (s : State) : (jump target l s).w.quarter = s.w.quarter := by unfold jump; simp [Wave.seal, Wave.logWrites]
@[simp] theorem jump_w_slot (target : W64) (l : Nat) (s : State) : (jump target l s).w.slot = s.w.slot := by unfold jump; simp [Wave.seal, Wave.logWrites]
@[simp] theorem jump_w_launch (target : W64) (l : Nat) (s : State) : (jump target l s).w.launch = s.w.launch := by unfold jump; simp [Wave.seal, Wave.logWrites]
@[simp] theorem jump_w_team (target : W64) (l : Nat) (s : State) : (jump target l s).w.team = s.w.team := by unfold jump; simp [Wave.seal, Wave.logWrites]
@[simp] theorem jump_w_teamid (target : W64) (l : Nat) (s : State) : (jump target l s).w.teamid = s.w.teamid := by unfold jump; simp [Wave.seal, Wave.logWrites]
@[simp] theorem jump_w_wid (target : W64) (l : Nat) (s : State) : (jump target l s).w.wid = s.w.wid := by unfold jump; simp [Wave.seal, Wave.logWrites]
@[simp] theorem jump_w_width (target : W64) (l : Nat) (s : State) : (jump target l s).w.width = s.w.width := by unfold jump; simp [Wave.seal, Wave.logWrites]
@[simp] theorem jump_w_vregs (target : W64) (l : Nat) (s : State) : (jump target l s).w.vregs = s.w.vregs := by unfold jump; simp [Wave.seal, Wave.logWrites]
@[simp] theorem jump_w_sregs (target : W64) (l : Nat) (s : State) : (jump target l s).w.sregs = s.w.sregs := by unfold jump; simp [Wave.seal, Wave.logWrites]
@[simp] theorem jump_w_ports (target : W64) (l : Nat) (s : State) : (jump target l s).w.ports = s.w.ports := by unfold jump; simp [Wave.seal, Wave.logWrites]
@[simp] theorem jump_w_scratch (target : W64) (l : Nat) (s : State) : (jump target l s).w.scratch = s.w.scratch := by unfold jump; simp [Wave.seal, Wave.logWrites]
@[simp] theorem jump_w_barriers (target : W64) (l : Nat) (s : State) : (jump target l s).w.barriers = s.w.barriers := by unfold jump; simp [Wave.seal, Wave.logWrites]
@[simp] theorem jump_w_waves (target : W64) (l : Nat) (s : State) : (jump target l s).w.waves = s.w.waves := by unfold jump; simp [Wave.seal, Wave.logWrites]
@[simp] theorem jump_w_twin (target : W64) (l : Nat) (s : State) : (jump target l s).w.twin = s.w.twin := by unfold jump; simp [Wave.seal, Wave.logWrites]
@[simp] theorem jump_w_inst (target : W64) (l : Nat) (s : State) : (jump target l s).w.inst = s.w.inst := by unfold jump; simp [Wave.seal, Wave.logWrites]
@[simp] theorem jump_w_halted (target : W64) (l : Nat) (s : State) : (jump target l s).w.halted = s.w.halted := by unfold jump; simp [Wave.seal, Wave.logWrites]
@[simp] theorem jump_w_fte (target : W64) (l : Nat) (s : State) : (jump target l s).w.fte = s.w.fte := by unfold jump; simp [Wave.seal, Wave.logWrites]
@[simp] theorem jump_w_rmode (target : W64) (l : Nat) (s : State) : (jump target l s).w.rmode = s.w.rmode := by unfold jump; simp [Wave.seal, Wave.logWrites]
@[simp] theorem jump_w_gang (target : W64) (l : Nat) (s : State) : (jump target l s).w.gang = s.w.gang := by unfold jump; simp [Wave.seal, Wave.logWrites]
@[simp] theorem jump_w_mprog (target : W64) (l : Nat) (s : State) : (jump target l s).w.mprog = s.w.mprog := by unfold jump; simp [Wave.seal, Wave.logWrites]
@[simp] theorem jump_w_trcause (target : W64) (l : Nat) (s : State) : (jump target l s).w.trcause = s.w.trcause := by unfold jump; simp [Wave.seal, Wave.logWrites]
@[simp] theorem jump_w_trpc (target : W64) (l : Nat) (s : State) : (jump target l s).w.trpc = s.w.trpc := by unfold jump; simp [Wave.seal, Wave.logWrites]
@[simp] theorem jump_w_trmask (target : W64) (l : Nat) (s : State) : (jump target l s).w.trmask = s.w.trmask := by unfold jump; simp [Wave.seal, Wave.logWrites]
@[simp] theorem jump_w_trinst (target : W64) (l : Nat) (s : State) : (jump target l s).w.trinst = s.w.trinst := by unfold jump; simp [Wave.seal, Wave.logWrites]
@[simp] theorem jump_w_trexec (target : W64) (l : Nat) (s : State) : (jump target l s).w.trexec = s.w.trexec := by unfold jump; simp [Wave.seal, Wave.logWrites]
@[simp] theorem jump_w_trpos (target : W64) (l : Nat) (s : State) : (jump target l s).w.trpos = s.w.trpos := by unfold jump; simp [Wave.seal, Wave.logWrites]
@[simp] theorem jump_w_trwritten (target : W64) (l : Nat) (s : State) : (jump target l s).w.trwritten = s.w.trwritten := by unfold jump; simp [Wave.seal, Wave.logWrites]
@[simp] theorem jump_w_pend (target : W64) (l : Nat) (s : State) : (jump target l s).w.pend = s.w.pend := by unfold jump; simp [Wave.seal, Wave.logWrites]
@[simp] theorem jump_w_pendSeq (target : W64) (l : Nat) (s : State) : (jump target l s).w.pendSeq = s.w.pendSeq := by unfold jump; simp [Wave.seal, Wave.logWrites]
@[simp] theorem jump_w_flight (target : W64) (l : Nat) (s : State) : (jump target l s).w.flight = s.w.flight := by unfold jump; simp [Wave.seal, Wave.logWrites]
@[simp] theorem jump_w_producers (target : W64) (l : Nat) (s : State) : (jump target l s).w.producers = s.w.producers := by unfold jump; simp [Wave.seal, Wave.logWrites]
@[simp] theorem jump_w_aside (target : W64) (l : Nat) (s : State) : (jump target l s).w.aside = s.w.aside := by unfold jump; simp [Wave.seal, Wave.logWrites]
@[simp] theorem jump_w_kept (target : W64) (l : Nat) (s : State) : (jump target l s).w.kept = s.w.kept := by unfold jump; simp [Wave.seal, Wave.logWrites]
@[simp] theorem jump_w_total (target : W64) (l : Nat) (s : State) : (jump target l s).w.total = s.w.total := by unfold jump; simp [Wave.seal, Wave.logWrites]
@[simp] theorem jump_w_consec (target : W64) (l : Nat) (s : State) : (jump target l s).w.consec = s.w.consec := by unfold jump; simp [Wave.seal, Wave.logWrites]
@[simp] theorem jump_w_failing (target : W64) (l : Nat) (s : State) : (jump target l s).w.failing = s.w.failing := by unfold jump; simp [Wave.seal, Wave.logWrites]
@[simp] theorem jump_w_force (target : W64) (l : Nat) (s : State) : (jump target l s).w.force = s.w.force := by unfold jump; simp [Wave.seal, Wave.logWrites]
@[simp] theorem jump_w_mode (target : W64) (l : Nat) (s : State) : (jump target l s).w.mode = s.w.mode := by unfold jump; simp [Wave.seal, Wave.logWrites]
@[simp] theorem jump_w_holds (target : W64) (l : Nat) (s : State) : (jump target l s).w.holds = s.w.holds := by unfold jump; simp [Wave.seal, Wave.logWrites]
@[simp] theorem jump_w_txUser (target : W64) (l : Nat) (s : State) : (jump target l s).w.txUser = s.w.txUser := by unfold jump; simp [Wave.seal, Wave.logWrites]
@[simp] theorem jump_w_txCode (target : W64) (l : Nat) (s : State) : (jump target l s).w.txCode = s.w.txCode := by unfold jump; simp [Wave.seal, Wave.logWrites]
@[simp] theorem jump_w_txAborts (target : W64) (l : Nat) (s : State) : (jump target l s).w.txAborts = s.w.txAborts := by unfold jump; simp [Wave.seal, Wave.logWrites]
@[simp] theorem jump_w_deadline (target : W64) (l : Nat) (s : State) : (jump target l s).w.deadline = s.w.deadline := by unfold jump; simp [Wave.seal, Wave.logWrites]
@[simp] theorem jump_w_arrives (target : W64) (l : Nat) (s : State) : (jump target l s).w.arrives = s.w.arrives := by unfold jump; simp [Wave.seal, Wave.logWrites]
@[simp] theorem jump_w_matrix (target : W64) (l : Nat) (s : State) : (jump target l s).w.matrix = s.w.matrix := by unfold jump; simp [Wave.seal, Wave.logWrites]
@[simp] theorem jump_w_matDone (target : W64) (l : Nat) (s : State) : (jump target l s).w.matDone = s.w.matDone := by unfold jump; simp [Wave.seal, Wave.logWrites]
@[simp] theorem jump_w_acc (target : W64) (l : Nat) (s : State) : (jump target l s).w.acc = s.w.acc := by unfold jump; simp [Wave.seal, Wave.logWrites]
@[simp] theorem jump_w_rows (target : W64) (l : Nat) (s : State) : (jump target l s).w.rows = s.w.rows := by unfold jump; simp [Wave.seal, Wave.logWrites]
@[simp] theorem jump_w_attn (target : W64) (l : Nat) (s : State) : (jump target l s).w.attn = s.w.attn := by unfold jump; simp [Wave.seal, Wave.logWrites]
@[simp] theorem jump_w_pair (target : W64) (l : Nat) (s : State) : (jump target l s).w.pair = s.w.pair := by unfold jump; simp [Wave.seal, Wave.logWrites]
@[simp] theorem jump_w_pairLog (target : W64) (l : Nat) (s : State) : (jump target l s).w.pairLog = s.w.pairLog := by unfold jump; simp [Wave.seal, Wave.logWrites]
@[simp] theorem jump_w_signature (target : W64) (l : Nat) (s : State) : (jump target l s).w.signature = s.w.signature := by unfold jump; simp [Wave.seal, Wave.logWrites]
@[simp] theorem advance_arch (n l : Nat) (s : State) : (advance n l s).w.a = { s.w.a with pos := s.w.a.pos.advance n } := by unfold advance; dsimp only; split <;> simp [Wave.seal, Wave.logWrites]
@[simp] theorem jump_arch (target : W64) (l : Nat) (s : State) : (jump target l s).w.a = { s.w.a with pos := CodePos.atHeader target } := by unfold jump; simp [Wave.seal, Wave.logWrites]
@[simp] theorem advance_w_seq (n l : Nat) (s : State) : (advance n l s).w.seq = s.w.seq + 1 := by unfold advance; dsimp only; split <;> simp [Wave.seal, Wave.logWrites]
@[simp] theorem jump_w_seq (target : W64) (l : Nat) (s : State) : (jump target l s).w.seq = s.w.seq + 1 := by unfold jump; simp [Wave.seal, Wave.logWrites]
@[simp] theorem advance_w_hold (n l : Nat) (s : State) : (advance n l s).w.hold = .none := by unfold advance; dsimp only; split <;> simp [Wave.seal, Wave.logWrites]
@[simp] theorem jump_w_hold (target : W64) (l : Nat) (s : State) : (jump target l s).w.hold = .none := by unfold jump; simp [Wave.seal, Wave.logWrites]

end Sys2Proof.Machine
end

