-- ==== Sys2Proof/Laws/Issue.lean ====
section
/-! SUPPORT. What issuing a word does, said once: `issue_go` for a word that issues, and what it answers in every other case. -/

namespace Sys2Proof.Machine

open Sys2Proof.Safety

/-- A word that issues is at its own effect, the steps of its ports taken. -/
theorem issue_go {u : Use} {s t : State} (h : Issues u s t) (k : State → Result) : issue u k s = k t := by
  have hearly : earlyTrap u s.w = none := by
    obtain ⟨hl, hi, hq⟩ := h.legal
    have h1 : (s.w.a.pos.residue.left != 0 && !u.covered) = false := by
      rcases hl with hl | hl <;> simp [hl]
    have h2 : (u.supervisor && !s.w.env.sup) = false := by
      cases hs : u.supervisor with
      | false => rfl
      | true => simp [h.privileged hs]
    have h3 : (u.srcV.map (·.1) ++ u.oldV ++ u.dstV ++ u.groupV).any s.w.badV = false := by
      rw [List.any_eq_false]; intro r hr; simp [h.declared.1 r hr]
    have h4 : (u.srcS.map (·.1) ++ u.oldS ++ u.dstS ++ u.groupS).any s.w.badS = false := by
      rw [List.any_eq_false]; intro r hr; simp [h.declared.2 r hr]
    have h5 : u.srcV.any (fun x => x.2 && s.w.emptySource x.1) = false := by
      rw [List.any_eq_false]
      intro x hx
      simp [h.sources.1 x.1 (List.mem_append.2 (.inl (List.mem_map.2 ⟨x, hx, rfl⟩)))]
    have h6 : u.srcS.any (fun x => x.2 && s.w.emptyScalar x.1) = false := by
      rw [List.any_eq_false]
      intro x hx
      simp [h.sources.2 x.1 (List.mem_append.2 (.inl (List.mem_append.2 (.inl (List.mem_map.2 ⟨x, hx, rfl⟩)))))]
    unfold earlyTrap
    rw [h1, hi, hq, h2, h3, h4, h.bound.1, h.bound.2, h5, h6]
    rfl
  have hwait : earlyWait { u with irrevocable := u.irrevocable && s.w.txn.isNone } s.w = none := by
    have h1 : (u.srcV.map (·.1)).any s.w.emptySource = false := by
      rw [List.any_eq_false]; intro r hr; simp [h.sources.1 r (List.mem_append.2 (.inl hr))]
    have h1' : (u.srcS.map (·.1)).any s.w.emptyScalar = false := by
      rw [List.any_eq_false]; intro r hr
      simp [h.sources.2 r (List.mem_append.2 (.inl (List.mem_append.2 (.inl hr))))]
    have h1'' : u.oldV.any s.w.emptySource = false := by
      rw [List.any_eq_false]; intro r hr; simp [h.sources.1 r (List.mem_append.2 (.inr hr))]
    have h2 : u.dstV.any (s.w.a.emptyV.getLsbD ·) = false := by
      rw [List.any_eq_false]; intro r hr
      simp [h.destinations r hr]
    have h3 : (u.oldS ++ u.dstS).any s.w.emptyScalar = false := by
      rw [List.any_eq_false]; intro r hr
      simp [h.sources.2 r (by rw [List.append_assoc]; exact List.mem_append.2 (.inr hr))]
    have h4 : (u.irrevocable && s.w.txn.isNone && s.w.speculative) = false := by
      cases hi : u.irrevocable with
      | false => rfl
      | true => simp [(h.revocable hi).1]
    have h5 : (s.w.mode != 0 && s.w.accesses.any (fun a => a.op.writes)) = false := by
      rcases h.cautious with hc | hc
      · simp [hc]
      · have : s.w.accesses.any (fun a => a.op.writes) = false := by
          rw [List.any_eq_false]; intro x hx; simp [hc x hx]
        simp [this]
    have h6 : u.path.any (fun p => decide (65535 ≤ s.w.count p)) = false := by
      cases hp : u.path with
      | none => rfl
      | some p => have := h.counter p hp; simp only [Option.any_some, decide_eq_false_iff_not]; omega
    have h7 : (s.w.speculative && s.w.txn.isNone && s.w.logFull u) = false := by
      cases hs : s.w.speculative with
      | false => rfl
      | true =>
        cases ht : s.w.txn with
        | none => have := h.log.1 hs ht; simp [Wave.logFull]; omega
        | some x => rfl
    have h8 : (s.w.ports == 2#2 && u.dstV.any (fun r => s.w.isPort r && decide (16 ≤ s.w.storeOcc (r - 124)))) = false := by
      by_cases hq : s.w.ports = 2#2
      · have : u.dstV.any (fun r => s.w.isPort r && decide (16 ≤ s.w.storeOcc (r - 124))) = false := by
          rw [List.any_eq_false]; intro r hr
          cases hp : s.w.isPort r with
          | false => simp
          | true => have := h.queue hq r hr hp; simp; omega
        simp [this]
      · simp [hq]
    unfold earlyWait
    dsimp only
    rw [h1, h1', h1'', h2, h3, h4, h5, h6, h8]
    change (if _ then _ else if _ then _ else if _ then _ else if _ then _ else if _ then _ else
      if (s.w.speculative && s.w.txn.isNone && s.w.logFull u) then _ else _) = _
    rw [h7]
    rfl
  have habort : earlyAbort u s.w = none := by
    unfold earlyAbort
    cases ht : s.w.txn with
    | none => rfl
    | some x =>
      have h1 : u.irrevocable = false := by
        cases hi : u.irrevocable with
        | false => rfl
        | true => have := (h.revocable hi).2; rw [ht] at this; cases this
      have h2 : u.async = false := by
        cases hi : u.async with
        | false => rfl
        | true => have := h.command hi; rw [ht] at this; cases this
      have h3 := h.log.2 x ht
      have h4 : ¬(64 ≤ x.log ∨ 64 < x.log + u.logged) := by omega
      simp [h1, h2, h4]
  have hgate : gate u s = .go t := by
    unfold gate
    rw [hearly]
    dsimp only
    rw [hwait]
    dsimp only
    rw [habort]
    dsimp only
    rw [h.ports]
    dsimp only
    rw [h.capacity]
    rfl
  obtain ⟨hc, hf, hb⟩ := h.copies
  have h9 : (s.w.pairOk == 2#2 && !u.both && (u.irrevocable || (u.compare && s.w.txn.isNone))) = false := by
    by_cases hp : s.w.pairOk = 2#2
    · rcases hb hp with h | ⟨h1, h2⟩ <;> simp [*]
    · simp [hp]
  unfold issue
  rw [hgate]
  simp only [hc, hf, h9, Bool.false_eq_true, if_false]

/-- A word that names no port register takes no port step. -/
theorem portSteps_none {u : Use} {s : State} (h : ∀ r ∈ vectorRegs u, s.w.isPort r = false) : s.w.portSteps u = [] := by
  have h1 : (u.srcV.map (·.1) ++ u.oldV).eraseDups.filter s.w.isPort = [] := by
    rw [List.filter_eq_nil_iff]; intro r hr
    have : r ∈ u.srcV.map (·.1) ++ u.oldV := by simpa using hr
    simp [h r (by unfold vectorRegs; simp only [List.mem_append] at *; tauto)]
  have h2 : u.dstV.eraseDups.filter s.w.isPort = [] := by
    rw [List.filter_eq_nil_iff]; intro r hr
    have : r ∈ u.dstV := by simpa using hr
    simp [h r (by unfold vectorRegs; simp only [List.mem_append]; tauto)]
  unfold Wave.portSteps
  rw [h1, h2]
  simp

/-- A word that names no port register issues at the state it found. -/
theorem issues_same {u : Use} {s t : State} (h : Issues u s t) (hp : ∀ r ∈ vectorRegs u, s.w.isPort r = false) : t = s := by
  have := h.ports
  rw [portSteps_none hp] at this
  simpa [takePorts] using this.symm

/-- A word with an effect and no condition of its own. -/
theorem run_go {u : Use} {s t : State} (h : Issues u s t) (f : State → State) : run u f s = .next (finish u (f t)) := by
  unfold run
  rw [issue_go h]

/-- A word whose conditions include a trap takes it. -/
theorem issue_trap {u : Use} {s : State} {cause : BitVec 8} {mask : W64} (h : earlyTrap u s.w = some (cause, mask))
    (k : State → Result) : issue u k s = raise cause 0 mask s := by
  unfold issue gate
  rw [h]

/-- A word that waits keeps its place and its slot. -/
theorem issue_wait {u : Use} {s : State} {w : Hold} (h : earlyTrap u s.w = none)
    (hw : earlyWait { u with irrevocable := u.irrevocable && s.w.txn.isNone } s.w = some w) (k : State → Result) :
    issue u k s = .next (s.holdFor w) := by
  unfold issue gate
  rw [h]
  dsimp only
  rw [hw]

/-- `issue` always answers a next state when what follows does. -/
theorem issue_next {u : Use} {k : State → Result} (hk : ∀ s, ∃ t, k s = .next t) (s : State) : ∃ t, issue u k s = .next t := by
  unfold issue
  cases gate u s with
  | go s' => dsimp only; repeat' split
             all_goals first | exact hk _ | exact ⟨_, rfl⟩
  | _ => exact ⟨_, rfl⟩

end Sys2Proof.Machine
end

