-- ==== Sys2Proof/Laws/Store.lean ====
section
/-! SUPPORT. The laws of the sparse tables and of memory: what a read finds after a write, that a write leaves every other place
alone, and that every operation keeps the canonical form. -/

namespace Sys2Proof.Machine

variable {α : Type}

/-! ### Reads after writes -/

@[simp] theorem look_ins (d : α) (m : SMap α) (i j : Nat) (x : α) :
    look d (ins m i x) j = if i = j then x else look d m j := by
  induction m with
  | nil => simp [ins, look]
  | cons e m ih =>
    obtain ⟨k, y⟩ := e
    unfold ins
    split
    · simp [look]
    · split
      · next h => subst h; by_cases hj : i = j <;> simp [look, hj]
      · simp only [look, ih]
        by_cases hk : k = j <;> by_cases hi : i = j <;> simp_all

@[simp] theorem find_ins (m : SMap α) (i j : Nat) (x : α) : find (ins m i x) j = if i = j then some x else find m j := by
  induction m with
  | nil => simp [ins, find]
  | cons e m ih =>
    obtain ⟨k, y⟩ := e
    unfold ins
    split
    · simp [find]
    · split
      · next h => subst h; by_cases hj : i = j <;> simp [find, hj]
      · simp only [find, ih]
        by_cases hk : k = j <;> by_cases hi : i = j <;> simp_all

@[simp] theorem look_erase (d : α) (m : SMap α) (i j : Nat) :
    look d (erase m i) j = if i = j then d else look d m j := by
  induction m with
  | nil => simp [erase, look]
  | cons e m ih =>
    obtain ⟨k, y⟩ := e
    unfold erase
    split
    · next h =>
      subst h
      rw [ih]
      by_cases hj : k = j <;> simp [look, hj]
    · simp only [look, ih]
      by_cases hk : k = j <;> by_cases hi : i = j <;> simp_all

@[simp] theorem look_put [DecidableEq α] (d : α) (m : SMap α) (i j : Nat) (x : α) :
    look d (put d m i x) j = if i = j then x else look d m j := by
  unfold put
  split
  · next h => subst h; simp
  · simp

theorem look_put_same [DecidableEq α] (d : α) (m : SMap α) (i : Nat) (x : α) : look d (put d m i x) i = x := by simp

theorem look_put_other [DecidableEq α] (d : α) (m : SMap α) {i j : Nat} (x : α) (h : i ≠ j) :
    look d (put d m i x) j = look d m j := by simp [h]

@[simp] theorem readByte_writeByte (m : Memory) (i j : Nat) (b : Byte) :
    readByte (writeByte m i b) j = if i = j then b else readByte m j := by simp [readByte, writeByte]

/-- A write of bytes leaves every byte outside them alone. -/
theorem readByte_writeBytes_outside (bs : List Byte) (m : Memory) (loc j : Nat) (h : j < loc ∨ loc + bs.length ≤ j) :
    readByte (writeBytes m loc bs) j = readByte m j := by
  induction bs generalizing m loc with
  | nil => rfl
  | cons b bs ih =>
    simp only [writeBytes, List.length_cons] at *
    rw [ih _ _ (by omega), readByte_writeByte, if_neg (by omega)]

/-- A read of the bytes just written finds them. -/
theorem readBytes_writeBytes (bs : List Byte) (m : Memory) (loc : Nat) :
    readBytes (writeBytes m loc bs) loc bs.length = bs := by
  induction bs generalizing m loc with
  | nil => rfl
  | cons b bs ih =>
    simp only [writeBytes, List.length_cons, readBytes, ih]
    rw [readByte_writeBytes_outside _ _ _ _ (by omega), readByte_writeByte, if_pos rfl]

/-- Bytes written at separate locations leave every other location alone. -/
theorem readByte_writeLocs_outside (cells : List (Nat × Byte)) (m : Memory) (j : Nat) (h : j ∉ cells.map (·.1)) :
    readByte (writeLocs m cells) j = readByte m j := by
  induction cells generalizing m with
  | nil => rfl
  | cons c cells ih =>
    obtain ⟨l, b⟩ := c
    simp only [List.map_cons, List.mem_cons, not_or] at h
    simp only [writeLocs]
    rw [ih _ h.2, readByte_writeByte, if_neg (fun e => h.1 e.symm)]

/-- A location written once holds what was written. -/
theorem readByte_writeLocs_mem (cells : List (Nat × Byte)) (m : Memory) (j : Nat) (b : Byte) (hn : (cells.map (·.1)).Nodup)
    (h : (j, b) ∈ cells) : readByte (writeLocs m cells) j = b := by
  induction cells generalizing m with
  | nil => simp at h
  | cons c cells ih =>
    obtain ⟨l, x⟩ := c
    simp only [List.map_cons, List.nodup_cons] at hn
    simp only [writeLocs]
    rcases List.mem_cons.1 h with e | e
    · cases e
      rw [readByte_writeLocs_outside _ _ _ hn.1, readByte_writeByte, if_pos rfl]
    · exact ih _ hn.2 e

/-! ### The canonical form -/

theorem wfFrom_mono [DecidableEq α] {d : α} {m : SMap α} {lo lo' : Nat} (h : lo' ≤ lo) (w : wfFrom d lo m = true) :
    wfFrom d lo' m = true := by
  cases m with
  | nil => rfl
  | cons e m =>
    obtain ⟨k, x⟩ := e
    simp only [wfFrom, Bool.and_eq_true, decide_eq_true_eq] at *
    exact ⟨⟨by omega, w.1.2⟩, w.2⟩

theorem wfFrom_ins [DecidableEq α] {d : α} {m : SMap α} {lo i : Nat} {x : α} (hi : lo ≤ i) (hx : x ≠ d)
    (w : wfFrom d lo m = true) : wfFrom d lo (ins m i x) = true := by
  induction m generalizing lo with
  | nil => simp [ins, wfFrom, hi, hx]
  | cons e m ih =>
    obtain ⟨k, y⟩ := e
    simp only [wfFrom, Bool.and_eq_true, decide_eq_true_eq] at w
    unfold ins
    split
    · next h =>
      simp only [wfFrom, Bool.and_eq_true, decide_eq_true_eq]
      exact ⟨⟨hi, hx⟩, ⟨by omega, w.1.2⟩, w.2⟩
    · split
      · next h =>
        subst h
        simp only [wfFrom, Bool.and_eq_true, decide_eq_true_eq]
        exact ⟨⟨hi, hx⟩, w.2⟩
      · simp only [wfFrom, Bool.and_eq_true, decide_eq_true_eq]
        exact ⟨w.1, ih (by omega) w.2⟩

theorem wfFrom_erase [DecidableEq α] {d : α} {m : SMap α} {lo : Nat} (i : Nat) (w : wfFrom d lo m = true) :
    wfFrom d lo (erase m i) = true := by
  induction m generalizing lo with
  | nil => rfl
  | cons e m ih =>
    obtain ⟨k, y⟩ := e
    simp only [wfFrom, Bool.and_eq_true, decide_eq_true_eq] at w
    unfold erase
    split
    · exact wfFrom_mono (by omega) (ih w.2)
    · simp only [wfFrom, Bool.and_eq_true, decide_eq_true_eq]
      exact ⟨w.1, ih w.2⟩

/-- Every table operation keeps the canonical form. -/
theorem wfMap_put [DecidableEq α] {d : α} {m : SMap α} (i : Nat) (x : α) (w : wfMap d m = true) : wfMap d (put d m i x) = true := by
  unfold put
  split
  · exact wfFrom_erase i w
  · next h => exact wfFrom_ins (by omega) h w

theorem wf_writeByte {m : Memory} (i : Nat) (b : Byte) (w : Memory.wf m = true) : Memory.wf (writeByte m i b) = true :=
  wfMap_put i b w

theorem wf_writeBytes (bs : List Byte) {m : Memory} (loc : Nat) (w : Memory.wf m = true) :
    Memory.wf (writeBytes m loc bs) = true := by
  induction bs generalizing m loc with
  | nil => exact w
  | cons b bs ih => exact ih _ (wf_writeByte _ _ w)

theorem wf_writeLocs (cells : List (Nat × Byte)) {m : Memory} (w : Memory.wf m = true) :
    Memory.wf (writeLocs m cells) = true := by
  induction cells generalizing m with
  | nil => exact w
  | cons c cells ih => exact ih (wf_writeByte _ _ w)

theorem wf_writeD {m : Memory} (loc : Nat) (x : W64) (w : Memory.wf m = true) : Memory.wf (writeD m loc x) = true :=
  wf_writeBytes _ _ w

theorem wf_writeW {m : Memory} (loc : Nat) (x : W32) (w : Memory.wf m = true) : Memory.wf (writeW m loc x) = true :=
  wf_writeBytes _ _ w

theorem wfFrom_filter [DecidableEq α] {d : α} {m : SMap α} {lo : Nat} (p : Nat × α → Bool) (w : wfFrom d lo m = true) :
    wfFrom d lo (m.filter p) = true := by
  induction m generalizing lo with
  | nil => rfl
  | cons e m ih =>
    obtain ⟨k, y⟩ := e
    simp only [wfFrom, Bool.and_eq_true, decide_eq_true_eq] at w
    rw [List.filter_cons]
    split
    · simp only [wfFrom, Bool.and_eq_true, decide_eq_true_eq]
      exact ⟨w.1, ih w.2⟩
    · exact wfFrom_mono (by omega) (ih w.2)

theorem wf_filter {m : Memory} (p : Host.Cell → Bool) (w : Memory.wf m = true) : Memory.wf (m.filter p) = true :=
  wfFrom_filter p w

/-- The canonical form in one sentence. -/
theorem wfFrom_iff [DecidableEq α] {d : α} {m : SMap α} {lo : Nat} :
    wfFrom d lo m = true ↔ (m.map (·.1)).Pairwise (· < ·) ∧ ∀ e ∈ m, lo ≤ e.1 ∧ e.2 ≠ d := by
  induction m generalizing lo with
  | nil => simp [wfFrom]
  | cons e m ih =>
    obtain ⟨k, y⟩ := e
    simp only [wfFrom, Bool.and_eq_true, decide_eq_true_eq, ih, List.map_cons, List.pairwise_cons, List.mem_cons,
      List.mem_map, forall_eq_or_imp]
    constructor
    · rintro ⟨⟨h1, h2⟩, h3, h4⟩
      refine ⟨⟨?_, h3⟩, ⟨h1, h2⟩, fun e he => ⟨?_, (h4 e he).2⟩⟩
      · rintro a ⟨e, he, rfl⟩
        have := (h4 e he).1
        omega
      · have := (h4 e he).1
        omega
    · rintro ⟨⟨h1, h2⟩, ⟨h3, h4⟩, h5⟩
      refine ⟨⟨h3, h4⟩, h2, fun e he => ⟨?_, (h5 e he).2⟩⟩
      have := h1 e.1 ⟨e, he, rfl⟩
      omega

theorem wf_setCells {m cells : Memory} (lo n : Nat) (w : Memory.wf m = true)
    (hs : (cells.map (·.1)).Pairwise (· < ·)) (hc : ∀ e ∈ cells, lo ≤ e.1 ∧ e.1 < lo + n ∧ e.2 ≠ 0) :
    Memory.wf (setCells m lo n cells) = true := by
  have w' := wfFrom_iff.1 w
  have hp : ∀ p : Host.Cell → Bool, ((m.filter p).map (·.1)).Pairwise (· < ·) :=
    fun p => List.Pairwise.sublist (List.Sublist.map _ List.filter_sublist) w'.1
  apply wfFrom_iff.2
  unfold setCells
  constructor
  · simp only [List.map_append, List.pairwise_append]
    refine ⟨⟨hp _, hs, ?_⟩, hp _, ?_⟩
    · intro a ha b hb
      simp only [List.mem_map, List.mem_filter, decide_eq_true_eq] at ha hb
      obtain ⟨x, ⟨-, hx⟩, rfl⟩ := ha
      obtain ⟨y, hy, rfl⟩ := hb
      have := (hc y hy).1
      omega
    · intro a ha b hb
      simp only [List.mem_append, List.mem_map, List.mem_filter, decide_eq_true_eq] at ha hb
      obtain ⟨y, ⟨-, hy⟩, rfl⟩ := hb
      rcases ha with ⟨x, ⟨-, hx⟩, rfl⟩ | ⟨x, hx, rfl⟩
      · omega
      · have := hc x hx
        omega
  · intro e he
    refine ⟨Nat.zero_le _, ?_⟩
    simp only [List.mem_append, List.mem_filter] at he
    rcases he with (he | he) | he
    · exact (w'.2 e he.1).2
    · exact (hc e he).2.2
    · exact (w'.2 e he.1).2

/-- A copied page keeps the canonical form. -/
theorem wf_copyCells {m : Memory} (src dst n : Nat) (w : Memory.wf m = true) : Memory.wf (copyCells m src dst n) = true := by
  have w' := wfFrom_iff.1 w
  unfold copyCells
  apply wf_setCells _ _ w
  · rw [List.map_map]
    unfold cellsOf
    have hp : ((m.filter (fun c => decide (src ≤ c.1 ∧ c.1 < src + n))).map (·.1)).Pairwise (· < ·) :=
      List.Pairwise.sublist (List.Sublist.map _ List.filter_sublist) w'.1
    rw [List.pairwise_map] at hp ⊢
    apply List.Pairwise.imp_of_mem _ hp
    intro a b ha hb h
    simp only [List.mem_filter, decide_eq_true_eq] at ha hb
    simp only [Function.comp]
    omega
  · intro e he
    simp only [cellsOf, List.mem_map, List.mem_filter, decide_eq_true_eq] at he
    obtain ⟨x, ⟨hx, h1, h2⟩, rfl⟩ := he
    refine ⟨by omega, by omega, (w'.2 x hx).2⟩

/-- Memory right after reset is in its canonical form. -/
theorem wf_reset_mem : Memory.wf State.reset.mem = true := rfl

/-! ### Little-endian words -/

theorem natOfBytes_bytesOfNat (n x : Nat) : natOfBytes (bytesOfNat x n) = x % 256 ^ n := by
  induction n generalizing x with
  | zero => simp [bytesOfNat, natOfBytes, Nat.mod_one]
  | succ n ih =>
    simp only [bytesOfNat, natOfBytes, ih, BitVec.toNat_ofNat]
    rw [show 256 ^ (n + 1) = 256 * 256 ^ n from Nat.pow_succ', Nat.mod_mul]

@[simp] theorem length_bytesOfNat (n x : Nat) : (bytesOfNat x n).length = n := by
  induction n generalizing x with
  | zero => rfl
  | succ n ih => simp [bytesOfNat, ih]

/-- A 64-bit word written reads back. -/
theorem readD_writeD (m : Memory) (loc : Nat) (x : W64) : readD (writeD m loc x) loc = x := by
  have h := readBytes_writeBytes (bytesOfNat x.toNat 8) m loc
  rw [length_bytesOfNat] at h
  unfold readD writeD
  rw [h, natOfBytes_bytesOfNat]
  apply BitVec.eq_of_toNat_eq
  have := x.isLt
  simp only [BitVec.toNat_ofNat]
  omega

end Sys2Proof.Machine
end

