-- ==== Sys2Proof/Laws/Finish.lean ====
section
/-! SUPPORT. What `finish` leaves: a word that is done issuing moves its wave past it and changes no register but those that
a matrix operation in flight leaves undefined among its destinations. -/

set_option Elab.async false

namespace Sys2Proof.Machine

/-! ### Registers set to undefined values -/

theorem scramble_cons (r : Nat) (rs : List Nat) (s : State) : scramble (r :: rs) s =
    scramble rs { s.setVs r (fun t => Config.freeWord (s.free + t)) (List.range 64) with free := s.free + 64 } := by
  unfold scramble; rw [List.foldl_cons]


/-- Setting a vector register changes vector registers alone. -/
theorem Arch.setVs_same (a : Arch) (r : Nat) (f : Nat → W32) (ts : List Nat) : a.setVs r f ts = { a with v := (a.setVs r f ts).v } := by
  induction ts generalizing a with
  | nil => rfl
  | cons t ts ih =>
    unfold Arch.setVs
    rw [ih]
    rfl

/-- A register of a thread, another having been set. -/
@[simp] theorem Arch.getV_setV (a : Arch) (r t r' t' : Nat) (x : W32) :
    (a.setV r t x).getV r' t' = if 64 * r + t = 64 * r' + t' then x else a.getV r' t' := by
  simp [Arch.getV, Arch.setV]

@[simp] theorem Arch.getS_setS (a : Arch) (r r' : Nat) (x : W64) :
    (a.setS r x).getS r' = if r = r' then x else a.getS r' := by
  simp [Arch.getS, Arch.setS]

@[simp] theorem Arch.getS_setV (a : Arch) (r t r' : Nat) (x : W32) : (a.setV r t x).getS r' = a.getS r' := rfl
@[simp] theorem Arch.getV_setS (a : Arch) (r r' t : Nat) (x : W64) : (a.setS r x).getV r' t = a.getV r' t := rfl

/-- A vector register set in some threads below 64: those threads hold the new values, every other thread and register its old. -/
theorem Arch.getV_setVs (a : Arch) (r : Nat) (f : Nat → W32) (ts : List Nat) (r' t' : Nat) (ht : ∀ t ∈ ts, t < 64) (ht' : t' < 64) :
    (a.setVs r f ts).getV r' t' = if r = r' ∧ t' ∈ ts then f t' else a.getV r' t' := by
  induction ts generalizing a with
  | nil => simp [Arch.setVs]
  | cons t ts ih =>
    unfold Arch.setVs
    rw [ih _ (fun t h => ht t (List.mem_cons_of_mem _ h)), Arch.getV_setV]
    have h0 := ht t List.mem_cons_self
    by_cases h1 : r = r' ∧ t' ∈ ts
    · rw [if_pos h1, if_pos ⟨h1.1, List.mem_cons_of_mem _ h1.2⟩]
    · rw [if_neg h1]
      by_cases h2 : r = r' ∧ t' = t
      · obtain ⟨rfl, rfl⟩ := h2
        simp
      · have h3 : ¬ (64 * r + t = 64 * r' + t') := by
          intro e
          apply h2
          constructor <;> omega
        rw [if_neg h3, if_neg]
        rintro ⟨h4, h5⟩
        rcases List.mem_cons.1 h5 with h6 | h6
        · exact h2 ⟨h4, h6⟩
        · exact h1 ⟨h4, h6⟩

/-- A register other than the one set, in any thread. -/
theorem Arch.getV_setVs_other (a : Arch) (r : Nat) (f : Nat → W32) (ts : List Nat) (r' t' : Nat) (ht : ∀ t ∈ ts, t < 64)
    (ht' : t' < 64) (h : r ≠ r') : (a.setVs r f ts).getV r' t' = a.getV r' t' := by
  rw [Arch.getV_setVs a r f ts r' t' ht ht', if_neg (fun e => h e.1)]

theorem mem_threadsOf {mask : W64} {width t : Nat} : t ∈ threadsOf mask width ↔ t < width ∧ mask.getLsbD t = true := by
  simp [threadsOf]

/-- Acting threads are below 64. -/
theorem lt_of_mem_threadsOf {mask : W64} {width t : Nat} (h : t ∈ threadsOf mask width) : t < 64 := by
  by_contra hc
  have := (mem_threadsOf.1 h).2
  rw [BitVec.getLsbD_of_ge _ _ (by omega)] at this
  cases this

@[simp] theorem Arch.setVs_pos (a : Arch) (r : Nat) (f : Nat → W32) (ts : List Nat) : (a.setVs r f ts).pos = a.pos := by rw [Arch.setVs_same]
@[simp] theorem Arch.setVs_exec (a : Arch) (r : Nat) (f : Nat → W32) (ts : List Nat) : (a.setVs r f ts).exec = a.exec := by rw [Arch.setVs_same]
@[simp] theorem Arch.setVs_flNv (a : Arch) (r : Nat) (f : Nat → W32) (ts : List Nat) : (a.setVs r f ts).flNv = a.flNv := by rw [Arch.setVs_same]
@[simp] theorem Arch.setVs_flDz (a : Arch) (r : Nat) (f : Nat → W32) (ts : List Nat) : (a.setVs r f ts).flDz = a.flDz := by rw [Arch.setVs_same]
@[simp] theorem Arch.setVs_flOf (a : Arch) (r : Nat) (f : Nat → W32) (ts : List Nat) : (a.setVs r f ts).flOf = a.flOf := by rw [Arch.setVs_same]
@[simp] theorem Arch.setVs_flUf (a : Arch) (r : Nat) (f : Nat → W32) (ts : List Nat) : (a.setVs r f ts).flUf = a.flUf := by rw [Arch.setVs_same]
@[simp] theorem Arch.setVs_flNx (a : Arch) (r : Nat) (f : Nat → W32) (ts : List Nat) : (a.setVs r f ts).flNx = a.flNx := by rw [Arch.setVs_same]
@[simp] theorem Arch.setVs_s (a : Arch) (r : Nat) (f : Nat → W32) (ts : List Nat) : (a.setVs r f ts).s = a.s := by rw [Arch.setVs_same]
@[simp] theorem Arch.setVs_emptyV (a : Arch) (r : Nat) (f : Nat → W32) (ts : List Nat) : (a.setVs r f ts).emptyV = a.emptyV := by rw [Arch.setVs_same]
@[simp] theorem Arch.setVs_emptyS (a : Arch) (r : Nat) (f : Nat → W32) (ts : List Nat) : (a.setVs r f ts).emptyS = a.emptyS := by rw [Arch.setVs_same]
@[simp] theorem Arch.setVs_streams (a : Arch) (r : Nat) (f : Nat → W32) (ts : List Nat) : (a.setVs r f ts).streams = a.streams := by rw [Arch.setVs_same]
@[simp] theorem Arch.setVs_queues (a : Arch) (r : Nat) (f : Nat → W32) (ts : List Nat) : (a.setVs r f ts).queues = a.queues := by rw [Arch.setVs_same]

/-- Registers not scrambled keep their values. -/
theorem scramble_getV (rs : List Nat) (s : State) (r t : Nat) (ht : t < 64) (h : r ∉ rs) :
    (scramble rs s).w.a.getV r t = s.w.a.getV r t := by
  induction rs generalizing s with
  | nil => rfl
  | cons q rs ih =>
    simp only [List.mem_cons, not_or] at h
    rw [scramble_cons, ih _ h.2]
    exact Arch.getV_setVs_other _ _ _ _ _ _ (fun t h => by have := List.mem_range.1 h; omega) ht (fun e => h.1 e.symm)

/-- WHAT SETTING REGISTERS TO UNDEFINED VALUES CAN DO: it changes vector registers of the wave in focus and the counter of free values. -/
theorem scramble_form (rs : List Nat) (s : State) :
    ∃ v n, scramble rs s = { s with w := { s.w with a := { s.w.a with v := v } }, free := n } := by
  induction rs generalizing s with
  | nil => exact ⟨s.w.a.v, s.free, rfl⟩
  | cons r rs ih =>
    obtain ⟨v, n, e⟩ := ih { s.setVs r (fun t => Config.freeWord (s.free + t)) (List.range 64) with free := s.free + 64 }
    rw [scramble_cons, e]
    have hs := Arch.setVs_same s.w.a r (fun t => Config.freeWord (s.free + t)) (List.range 64)
    refine ⟨v, n, ?_⟩
    unfold State.setVs State.onArch
    dsimp only
    rw [hs]

/-- What spoiling operand registers can do: it changes pending matrix values. -/
theorem spoil_form (rs : List Nat) (n : Nat) (w : Wave) : ∃ acc, w.spoil rs n = { w with acc := acc } := ⟨_, rfl⟩

/-- A pending value of no spoiled register is as before. -/
theorem spoil_find (rs : List Nat) (n : Nat) (w : Wave) (k : Nat) (h : k / 64 ∉ rs) : find (w.spoil rs n).acc k = find w.acc k := by
  have one : ∀ (r : Nat) (g : Nat → W32) (ts : List Nat) (m : SMap W32), (∀ t ∈ ts, t < 64) → k / 64 ≠ r →
      find (ts.foldl (fun m t => if (find m (64 * r + t)).isSome then ins m (64 * r + t) (g t) else m) m) k = find m k := by
    intro r g ts
    induction ts with
    | nil => intros; rfl
    | cons t ts ih =>
      intro m ht hr
      have h0 := ht t List.mem_cons_self
      rw [List.foldl_cons, ih _ (fun t h => ht t (List.mem_cons_of_mem _ h)) hr]
      split
      · rw [find_ins, if_neg (by omega)]
      · rfl
  have below : ∀ t ∈ List.range 64, t < 64 := fun t h => List.mem_range.1 h
  have all : ∀ (qs : List Nat) (m : SMap W32), k / 64 ∉ qs →
      find (qs.foldl (fun m r => (List.range 64).foldl (fun m t =>
        if (find m (64 * r + t)).isSome then ins m (64 * r + t) (Config.freeWord (n + 64 * r + t)) else m) m) m) k = find m k := by
    intro qs
    induction qs with
    | nil => intros; rfl
    | cons r qs ih =>
      intro m hq
      simp only [List.mem_cons, not_or] at hq
      rw [List.foldl_cons, ih _ hq.2]
      exact one r _ _ _ below hq.1
  exact all _ _ (fun hm => h (List.mem_filter.1 hm).1)

/-! ### The word done -/

/-- WHAT UNDEFINED DESTINATIONS CAN DO (R148): vector registers, pending matrix values, and the counter of free values. -/
theorem blurWrites_form (u : Use) (s : State) :
    ∃ v acc n, blurWrites u s = { s with w := { s.w with a := { s.w.a with v := v }, acc := acc }, free := n } := by
  unfold blurWrites
  split
  · exact ⟨s.w.a.v, s.w.acc, s.free, rfl⟩
  · dsimp only
    obtain ⟨v, n, e⟩ := scramble_form (u.dstV.filter (fun r => s.w.undefRegs.contains r)) s
    rw [e]
    exact ⟨v, _, _, rfl⟩

/-- A pending matrix value of no destination of the word is as before. -/
theorem blurWrites_acc (u : Use) (s : State) (k : Nat) (h : k / 64 ∉ u.dstV) :
    find (blurWrites u s).w.acc k = find s.w.acc k := by
  unfold blurWrites
  split
  · rfl
  · dsimp only
    obtain ⟨v, n, e⟩ := scramble_form (u.dstV.filter (fun r => s.w.undefRegs.contains r)) s
    rw [e]
    exact spoil_find _ _ _ _ h

@[simp] theorem blurWrites_waves (u : Use) (s : State) : (blurWrites u s).waves = s.waves := by obtain ⟨_, _, _, h⟩ := blurWrites_form u s; rw [h]
@[simp] theorem blurWrites_focus (u : Use) (s : State) : (blurWrites u s).focus = s.focus := by obtain ⟨_, _, _, h⟩ := blurWrites_form u s; rw [h]
@[simp] theorem blurWrites_holders (u : Use) (s : State) : (blurWrites u s).holders = s.holders := by obtain ⟨_, _, _, h⟩ := blurWrites_form u s; rw [h]
@[simp] theorem blurWrites_agenda (u : Use) (s : State) : (blurWrites u s).agenda = s.agenda := by obtain ⟨_, _, _, h⟩ := blurWrites_form u s; rw [h]
@[simp] theorem blurWrites_nanotime (u : Use) (s : State) : (blurWrites u s).nanotime = s.nanotime := by obtain ⟨_, _, _, h⟩ := blurWrites_form u s; rw [h]
@[simp] theorem blurWrites_cycle (u : Use) (s : State) : (blurWrites u s).cycle = s.cycle := by obtain ⟨_, _, _, h⟩ := blurWrites_form u s; rw [h]
@[simp] theorem blurWrites_stamp (u : Use) (s : State) : (blurWrites u s).stamp = s.stamp := by obtain ⟨_, _, _, h⟩ := blurWrites_form u s; rw [h]
@[simp] theorem blurWrites_mem (u : Use) (s : State) : (blurWrites u s).mem = s.mem := by obtain ⟨_, _, _, h⟩ := blurWrites_form u s; rw [h]
@[simp] theorem blurWrites_poison (u : Use) (s : State) : (blurWrites u s).poison = s.poison := by obtain ⟨_, _, _, h⟩ := blurWrites_form u s; rw [h]
@[simp] theorem blurWrites_damage (u : Use) (s : State) : (blurWrites u s).damage = s.damage := by obtain ⟨_, _, _, h⟩ := blurWrites_form u s; rw [h]
@[simp] theorem blurWrites_decided (u : Use) (s : State) : (blurWrites u s).decided = s.decided := by obtain ⟨_, _, _, h⟩ := blurWrites_form u s; rw [h]
@[simp] theorem blurWrites_hostCopy (u : Use) (s : State) : (blurWrites u s).hostCopy = s.hostCopy := by obtain ⟨_, _, _, h⟩ := blurWrites_form u s; rw [h]
@[simp] theorem blurWrites_lanemaps (u : Use) (s : State) : (blurWrites u s).lanemaps = s.lanemaps := by obtain ⟨_, _, _, h⟩ := blurWrites_form u s; rw [h]
@[simp] theorem blurWrites_teams (u : Use) (s : State) : (blurWrites u s).teams = s.teams := by obtain ⟨_, _, _, h⟩ := blurWrites_form u s; rw [h]
@[simp] theorem blurWrites_launches (u : Use) (s : State) : (blurWrites u s).launches = s.launches := by obtain ⟨_, _, _, h⟩ := blurWrites_form u s; rw [h]
@[simp] theorem blurWrites_contexts (u : Use) (s : State) : (blurWrites u s).contexts = s.contexts := by obtain ⟨_, _, _, h⟩ := blurWrites_form u s; rw [h]
@[simp] theorem blurWrites_whorls (u : Use) (s : State) : (blurWrites u s).whorls = s.whorls := by obtain ⟨_, _, _, h⟩ := blurWrites_form u s; rw [h]
@[simp] theorem blurWrites_cores (u : Use) (s : State) : (blurWrites u s).cores = s.cores := by obtain ⟨_, _, _, h⟩ := blurWrites_form u s; rw [h]
@[simp] theorem blurWrites_tlb (u : Use) (s : State) : (blurWrites u s).tlb = s.tlb := by obtain ⟨_, _, _, h⟩ := blurWrites_form u s; rw [h]
@[simp] theorem blurWrites_tlbinvs (u : Use) (s : State) : (blurWrites u s).tlbinvs = s.tlbinvs := by obtain ⟨_, _, _, h⟩ := blurWrites_form u s; rw [h]
@[simp] theorem blurWrites_ats (u : Use) (s : State) : (blurWrites u s).ats = s.ats := by obtain ⟨_, _, _, h⟩ := blurWrites_form u s; rw [h]
@[simp] theorem blurWrites_carders (u : Use) (s : State) : (blurWrites u s).carders = s.carders := by obtain ⟨_, _, _, h⟩ := blurWrites_form u s; rw [h]
@[simp] theorem blurWrites_distaff (u : Use) (s : State) : (blurWrites u s).distaff = s.distaff := by obtain ⟨_, _, _, h⟩ := blurWrites_form u s; rw [h]
@[simp] theorem blurWrites_egress (u : Use) (s : State) : (blurWrites u s).egress = s.egress := by obtain ⟨_, _, _, h⟩ := blurWrites_form u s; rw [h]
@[simp] theorem blurWrites_seqTable (u : Use) (s : State) : (blurWrites u s).seqTable = s.seqTable := by obtain ⟨_, _, _, h⟩ := blurWrites_form u s; rw [h]
@[simp] theorem blurWrites_retired (u : Use) (s : State) : (blurWrites u s).retired = s.retired := by obtain ⟨_, _, _, h⟩ := blurWrites_form u s; rw [h]
@[simp] theorem blurWrites_mgmt (u : Use) (s : State) : (blurWrites u s).mgmt = s.mgmt := by obtain ⟨_, _, _, h⟩ := blurWrites_form u s; rw [h]
@[simp] theorem blurWrites_reads (u : Use) (s : State) : (blurWrites u s).reads = s.reads := by obtain ⟨_, _, _, h⟩ := blurWrites_form u s; rw [h]
@[simp] theorem blurWrites_parked (u : Use) (s : State) : (blurWrites u s).parked = s.parked := by obtain ⟨_, _, _, h⟩ := blurWrites_form u s; rw [h]
@[simp] theorem blurWrites_walks (u : Use) (s : State) : (blurWrites u s).walks = s.walks := by obtain ⟨_, _, _, h⟩ := blurWrites_form u s; rw [h]
@[simp] theorem blurWrites_walkCache (u : Use) (s : State) : (blurWrites u s).walkCache = s.walkCache := by obtain ⟨_, _, _, h⟩ := blurWrites_form u s; rw [h]
@[simp] theorem blurWrites_moves (u : Use) (s : State) : (blurWrites u s).moves = s.moves := by obtain ⟨_, _, _, h⟩ := blurWrites_form u s; rw [h]
@[simp] theorem blurWrites_w_env (u : Use) (s : State) : (blurWrites u s).w.env = s.w.env := by obtain ⟨_, _, _, h⟩ := blurWrites_form u s; rw [h]
@[simp] theorem blurWrites_w_station (u : Use) (s : State) : (blurWrites u s).w.station = s.w.station := by obtain ⟨_, _, _, h⟩ := blurWrites_form u s; rw [h]
@[simp] theorem blurWrites_w_hold (u : Use) (s : State) : (blurWrites u s).w.hold = s.w.hold := by obtain ⟨_, _, _, h⟩ := blurWrites_form u s; rw [h]
@[simp] theorem blurWrites_w_core (u : Use) (s : State) : (blurWrites u s).w.core = s.w.core := by obtain ⟨_, _, _, h⟩ := blurWrites_form u s; rw [h]
@[simp] theorem blurWrites_w_quarter (u : Use) (s : State) : (blurWrites u s).w.quarter = s.w.quarter := by obtain ⟨_, _, _, h⟩ := blurWrites_form u s; rw [h]
@[simp] theorem blurWrites_w_slot (u : Use) (s : State) : (blurWrites u s).w.slot = s.w.slot := by obtain ⟨_, _, _, h⟩ := blurWrites_form u s; rw [h]
@[simp] theorem blurWrites_w_launch (u : Use) (s : State) : (blurWrites u s).w.launch = s.w.launch := by obtain ⟨_, _, _, h⟩ := blurWrites_form u s; rw [h]
@[simp] theorem blurWrites_w_team (u : Use) (s : State) : (blurWrites u s).w.team = s.w.team := by obtain ⟨_, _, _, h⟩ := blurWrites_form u s; rw [h]
@[simp] theorem blurWrites_w_teamid (u : Use) (s : State) : (blurWrites u s).w.teamid = s.w.teamid := by obtain ⟨_, _, _, h⟩ := blurWrites_form u s; rw [h]
@[simp] theorem blurWrites_w_wid (u : Use) (s : State) : (blurWrites u s).w.wid = s.w.wid := by obtain ⟨_, _, _, h⟩ := blurWrites_form u s; rw [h]
@[simp] theorem blurWrites_w_width (u : Use) (s : State) : (blurWrites u s).w.width = s.w.width := by obtain ⟨_, _, _, h⟩ := blurWrites_form u s; rw [h]
@[simp] theorem blurWrites_w_vregs (u : Use) (s : State) : (blurWrites u s).w.vregs = s.w.vregs := by obtain ⟨_, _, _, h⟩ := blurWrites_form u s; rw [h]
@[simp] theorem blurWrites_w_sregs (u : Use) (s : State) : (blurWrites u s).w.sregs = s.w.sregs := by obtain ⟨_, _, _, h⟩ := blurWrites_form u s; rw [h]
@[simp] theorem blurWrites_w_ports (u : Use) (s : State) : (blurWrites u s).w.ports = s.w.ports := by obtain ⟨_, _, _, h⟩ := blurWrites_form u s; rw [h]
@[simp] theorem blurWrites_w_scratch (u : Use) (s : State) : (blurWrites u s).w.scratch = s.w.scratch := by obtain ⟨_, _, _, h⟩ := blurWrites_form u s; rw [h]
@[simp] theorem blurWrites_w_barriers (u : Use) (s : State) : (blurWrites u s).w.barriers = s.w.barriers := by obtain ⟨_, _, _, h⟩ := blurWrites_form u s; rw [h]
@[simp] theorem blurWrites_w_waves (u : Use) (s : State) : (blurWrites u s).w.waves = s.w.waves := by obtain ⟨_, _, _, h⟩ := blurWrites_form u s; rw [h]
@[simp] theorem blurWrites_w_twin (u : Use) (s : State) : (blurWrites u s).w.twin = s.w.twin := by obtain ⟨_, _, _, h⟩ := blurWrites_form u s; rw [h]
@[simp] theorem blurWrites_w_seq (u : Use) (s : State) : (blurWrites u s).w.seq = s.w.seq := by obtain ⟨_, _, _, h⟩ := blurWrites_form u s; rw [h]
@[simp] theorem blurWrites_w_ran (u : Use) (s : State) : (blurWrites u s).w.ran = s.w.ran := by obtain ⟨_, _, _, h⟩ := blurWrites_form u s; rw [h]
@[simp] theorem blurWrites_w_lastIssue (u : Use) (s : State) : (blurWrites u s).w.lastIssue = s.w.lastIssue := by obtain ⟨_, _, _, h⟩ := blurWrites_form u s; rw [h]
@[simp] theorem blurWrites_w_promoted (u : Use) (s : State) : (blurWrites u s).w.promoted = s.w.promoted := by obtain ⟨_, _, _, h⟩ := blurWrites_form u s; rw [h]
@[simp] theorem blurWrites_w_rest (u : Use) (s : State) : (blurWrites u s).w.rest = s.w.rest := by obtain ⟨_, _, _, h⟩ := blurWrites_form u s; rw [h]
@[simp] theorem blurWrites_w_inst (u : Use) (s : State) : (blurWrites u s).w.inst = s.w.inst := by obtain ⟨_, _, _, h⟩ := blurWrites_form u s; rw [h]
@[simp] theorem blurWrites_w_halted (u : Use) (s : State) : (blurWrites u s).w.halted = s.w.halted := by obtain ⟨_, _, _, h⟩ := blurWrites_form u s; rw [h]
@[simp] theorem blurWrites_w_fte (u : Use) (s : State) : (blurWrites u s).w.fte = s.w.fte := by obtain ⟨_, _, _, h⟩ := blurWrites_form u s; rw [h]
@[simp] theorem blurWrites_w_rmode (u : Use) (s : State) : (blurWrites u s).w.rmode = s.w.rmode := by obtain ⟨_, _, _, h⟩ := blurWrites_form u s; rw [h]
@[simp] theorem blurWrites_w_gang (u : Use) (s : State) : (blurWrites u s).w.gang = s.w.gang := by obtain ⟨_, _, _, h⟩ := blurWrites_form u s; rw [h]
@[simp] theorem blurWrites_w_mprog (u : Use) (s : State) : (blurWrites u s).w.mprog = s.w.mprog := by obtain ⟨_, _, _, h⟩ := blurWrites_form u s; rw [h]
@[simp] theorem blurWrites_w_trcause (u : Use) (s : State) : (blurWrites u s).w.trcause = s.w.trcause := by obtain ⟨_, _, _, h⟩ := blurWrites_form u s; rw [h]
@[simp] theorem blurWrites_w_trpc (u : Use) (s : State) : (blurWrites u s).w.trpc = s.w.trpc := by obtain ⟨_, _, _, h⟩ := blurWrites_form u s; rw [h]
@[simp] theorem blurWrites_w_trmask (u : Use) (s : State) : (blurWrites u s).w.trmask = s.w.trmask := by obtain ⟨_, _, _, h⟩ := blurWrites_form u s; rw [h]
@[simp] theorem blurWrites_w_trinst (u : Use) (s : State) : (blurWrites u s).w.trinst = s.w.trinst := by obtain ⟨_, _, _, h⟩ := blurWrites_form u s; rw [h]
@[simp] theorem blurWrites_w_trexec (u : Use) (s : State) : (blurWrites u s).w.trexec = s.w.trexec := by obtain ⟨_, _, _, h⟩ := blurWrites_form u s; rw [h]
@[simp] theorem blurWrites_w_trpos (u : Use) (s : State) : (blurWrites u s).w.trpos = s.w.trpos := by obtain ⟨_, _, _, h⟩ := blurWrites_form u s; rw [h]
@[simp] theorem blurWrites_w_trwritten (u : Use) (s : State) : (blurWrites u s).w.trwritten = s.w.trwritten := by obtain ⟨_, _, _, h⟩ := blurWrites_form u s; rw [h]
@[simp] theorem blurWrites_w_pend (u : Use) (s : State) : (blurWrites u s).w.pend = s.w.pend := by obtain ⟨_, _, _, h⟩ := blurWrites_form u s; rw [h]
@[simp] theorem blurWrites_w_pendSeq (u : Use) (s : State) : (blurWrites u s).w.pendSeq = s.w.pendSeq := by obtain ⟨_, _, _, h⟩ := blurWrites_form u s; rw [h]
@[simp] theorem blurWrites_w_flight (u : Use) (s : State) : (blurWrites u s).w.flight = s.w.flight := by obtain ⟨_, _, _, h⟩ := blurWrites_form u s; rw [h]
@[simp] theorem blurWrites_w_accesses (u : Use) (s : State) : (blurWrites u s).w.accesses = s.w.accesses := by obtain ⟨_, _, _, h⟩ := blurWrites_form u s; rw [h]
@[simp] theorem blurWrites_w_producers (u : Use) (s : State) : (blurWrites u s).w.producers = s.w.producers := by obtain ⟨_, _, _, h⟩ := blurWrites_form u s; rw [h]
@[simp] theorem blurWrites_w_sampled (u : Use) (s : State) : (blurWrites u s).w.sampled = s.w.sampled := by obtain ⟨_, _, _, h⟩ := blurWrites_form u s; rw [h]
@[simp] theorem blurWrites_w_aside (u : Use) (s : State) : (blurWrites u s).w.aside = s.w.aside := by obtain ⟨_, _, _, h⟩ := blurWrites_form u s; rw [h]
@[simp] theorem blurWrites_w_kept (u : Use) (s : State) : (blurWrites u s).w.kept = s.w.kept := by obtain ⟨_, _, _, h⟩ := blurWrites_form u s; rw [h]
@[simp] theorem blurWrites_w_total (u : Use) (s : State) : (blurWrites u s).w.total = s.w.total := by obtain ⟨_, _, _, h⟩ := blurWrites_form u s; rw [h]
@[simp] theorem blurWrites_w_consec (u : Use) (s : State) : (blurWrites u s).w.consec = s.w.consec := by obtain ⟨_, _, _, h⟩ := blurWrites_form u s; rw [h]
@[simp] theorem blurWrites_w_failing (u : Use) (s : State) : (blurWrites u s).w.failing = s.w.failing := by obtain ⟨_, _, _, h⟩ := blurWrites_form u s; rw [h]
@[simp] theorem blurWrites_w_force (u : Use) (s : State) : (blurWrites u s).w.force = s.w.force := by obtain ⟨_, _, _, h⟩ := blurWrites_form u s; rw [h]
@[simp] theorem blurWrites_w_mode (u : Use) (s : State) : (blurWrites u s).w.mode = s.w.mode := by obtain ⟨_, _, _, h⟩ := blurWrites_form u s; rw [h]
@[simp] theorem blurWrites_w_holds (u : Use) (s : State) : (blurWrites u s).w.holds = s.w.holds := by obtain ⟨_, _, _, h⟩ := blurWrites_form u s; rw [h]
@[simp] theorem blurWrites_w_txn (u : Use) (s : State) : (blurWrites u s).w.txn = s.w.txn := by obtain ⟨_, _, _, h⟩ := blurWrites_form u s; rw [h]
@[simp] theorem blurWrites_w_txUser (u : Use) (s : State) : (blurWrites u s).w.txUser = s.w.txUser := by obtain ⟨_, _, _, h⟩ := blurWrites_form u s; rw [h]
@[simp] theorem blurWrites_w_txCode (u : Use) (s : State) : (blurWrites u s).w.txCode = s.w.txCode := by obtain ⟨_, _, _, h⟩ := blurWrites_form u s; rw [h]
@[simp] theorem blurWrites_w_txAborts (u : Use) (s : State) : (blurWrites u s).w.txAborts = s.w.txAborts := by obtain ⟨_, _, _, h⟩ := blurWrites_form u s; rw [h]
@[simp] theorem blurWrites_w_deadline (u : Use) (s : State) : (blurWrites u s).w.deadline = s.w.deadline := by obtain ⟨_, _, _, h⟩ := blurWrites_form u s; rw [h]
@[simp] theorem blurWrites_w_arrives (u : Use) (s : State) : (blurWrites u s).w.arrives = s.w.arrives := by obtain ⟨_, _, _, h⟩ := blurWrites_form u s; rw [h]
@[simp] theorem blurWrites_w_matrix (u : Use) (s : State) : (blurWrites u s).w.matrix = s.w.matrix := by obtain ⟨_, _, _, h⟩ := blurWrites_form u s; rw [h]
@[simp] theorem blurWrites_w_matDone (u : Use) (s : State) : (blurWrites u s).w.matDone = s.w.matDone := by obtain ⟨_, _, _, h⟩ := blurWrites_form u s; rw [h]
@[simp] theorem blurWrites_w_rows (u : Use) (s : State) : (blurWrites u s).w.rows = s.w.rows := by obtain ⟨_, _, _, h⟩ := blurWrites_form u s; rw [h]
@[simp] theorem blurWrites_w_attn (u : Use) (s : State) : (blurWrites u s).w.attn = s.w.attn := by obtain ⟨_, _, _, h⟩ := blurWrites_form u s; rw [h]
@[simp] theorem blurWrites_w_pair (u : Use) (s : State) : (blurWrites u s).w.pair = s.w.pair := by obtain ⟨_, _, _, h⟩ := blurWrites_form u s; rw [h]
@[simp] theorem blurWrites_w_pairLog (u : Use) (s : State) : (blurWrites u s).w.pairLog = s.w.pairLog := by obtain ⟨_, _, _, h⟩ := blurWrites_form u s; rw [h]
@[simp] theorem blurWrites_w_signature (u : Use) (s : State) : (blurWrites u s).w.signature = s.w.signature := by obtain ⟨_, _, _, h⟩ := blurWrites_form u s; rw [h]
@[simp] theorem blurWrites_w_pairOk (u : Use) (s : State) : (blurWrites u s).w.pairOk = s.w.pairOk := by obtain ⟨_, _, _, h⟩ := blurWrites_form u s; rw [h]
@[simp] theorem blurWrites_a_pos (u : Use) (s : State) : (blurWrites u s).w.a.pos = s.w.a.pos := by obtain ⟨_, _, _, h⟩ := blurWrites_form u s; rw [h]
@[simp] theorem blurWrites_a_exec (u : Use) (s : State) : (blurWrites u s).w.a.exec = s.w.a.exec := by obtain ⟨_, _, _, h⟩ := blurWrites_form u s; rw [h]
@[simp] theorem blurWrites_a_flNv (u : Use) (s : State) : (blurWrites u s).w.a.flNv = s.w.a.flNv := by obtain ⟨_, _, _, h⟩ := blurWrites_form u s; rw [h]
@[simp] theorem blurWrites_a_flDz (u : Use) (s : State) : (blurWrites u s).w.a.flDz = s.w.a.flDz := by obtain ⟨_, _, _, h⟩ := blurWrites_form u s; rw [h]
@[simp] theorem blurWrites_a_flOf (u : Use) (s : State) : (blurWrites u s).w.a.flOf = s.w.a.flOf := by obtain ⟨_, _, _, h⟩ := blurWrites_form u s; rw [h]
@[simp] theorem blurWrites_a_flUf (u : Use) (s : State) : (blurWrites u s).w.a.flUf = s.w.a.flUf := by obtain ⟨_, _, _, h⟩ := blurWrites_form u s; rw [h]
@[simp] theorem blurWrites_a_flNx (u : Use) (s : State) : (blurWrites u s).w.a.flNx = s.w.a.flNx := by obtain ⟨_, _, _, h⟩ := blurWrites_form u s; rw [h]
@[simp] theorem blurWrites_a_s (u : Use) (s : State) : (blurWrites u s).w.a.s = s.w.a.s := by obtain ⟨_, _, _, h⟩ := blurWrites_form u s; rw [h]
@[simp] theorem blurWrites_a_emptyV (u : Use) (s : State) : (blurWrites u s).w.a.emptyV = s.w.a.emptyV := by obtain ⟨_, _, _, h⟩ := blurWrites_form u s; rw [h]
@[simp] theorem blurWrites_a_emptyS (u : Use) (s : State) : (blurWrites u s).w.a.emptyS = s.w.a.emptyS := by obtain ⟨_, _, _, h⟩ := blurWrites_form u s; rw [h]
@[simp] theorem blurWrites_a_streams (u : Use) (s : State) : (blurWrites u s).w.a.streams = s.w.a.streams := by obtain ⟨_, _, _, h⟩ := blurWrites_form u s; rw [h]
@[simp] theorem blurWrites_a_queues (u : Use) (s : State) : (blurWrites u s).w.a.queues = s.w.a.queues := by obtain ⟨_, _, _, h⟩ := blurWrites_form u s; rw [h]
@[simp] theorem finish_waves (u : Use) (s : State) : (finish u s).waves = s.waves := by unfold finish; split <;> simp
@[simp] theorem finish_focus (u : Use) (s : State) : (finish u s).focus = s.focus := by unfold finish; split <;> simp
@[simp] theorem finish_agenda (u : Use) (s : State) : (finish u s).agenda = s.agenda := by unfold finish; split <;> simp
@[simp] theorem finish_nanotime (u : Use) (s : State) : (finish u s).nanotime = s.nanotime := by unfold finish; split <;> simp
@[simp] theorem finish_cycle (u : Use) (s : State) : (finish u s).cycle = s.cycle := by unfold finish; split <;> simp
@[simp] theorem finish_stamp (u : Use) (s : State) : (finish u s).stamp = s.stamp := by unfold finish; split <;> simp
@[simp] theorem finish_mem (u : Use) (s : State) : (finish u s).mem = s.mem := by unfold finish; split <;> simp
@[simp] theorem finish_poison (u : Use) (s : State) : (finish u s).poison = s.poison := by unfold finish; split <;> simp
@[simp] theorem finish_damage (u : Use) (s : State) : (finish u s).damage = s.damage := by unfold finish; split <;> simp
@[simp] theorem finish_decided (u : Use) (s : State) : (finish u s).decided = s.decided := by unfold finish; split <;> simp
@[simp] theorem finish_hostCopy (u : Use) (s : State) : (finish u s).hostCopy = s.hostCopy := by unfold finish; split <;> simp
@[simp] theorem finish_lanemaps (u : Use) (s : State) : (finish u s).lanemaps = s.lanemaps := by unfold finish; split <;> simp
@[simp] theorem finish_teams (u : Use) (s : State) : (finish u s).teams = s.teams := by unfold finish; split <;> simp
@[simp] theorem finish_launches (u : Use) (s : State) : (finish u s).launches = s.launches := by unfold finish; split <;> simp
@[simp] theorem finish_contexts (u : Use) (s : State) : (finish u s).contexts = s.contexts := by unfold finish; split <;> simp
@[simp] theorem finish_whorls (u : Use) (s : State) : (finish u s).whorls = s.whorls := by unfold finish; split <;> simp
@[simp] theorem finish_cores (u : Use) (s : State) : (finish u s).cores = s.cores := by unfold finish; split <;> simp
@[simp] theorem finish_tlb (u : Use) (s : State) : (finish u s).tlb = s.tlb := by unfold finish; split <;> simp
@[simp] theorem finish_tlbinvs (u : Use) (s : State) : (finish u s).tlbinvs = s.tlbinvs := by unfold finish; split <;> simp
@[simp] theorem finish_ats (u : Use) (s : State) : (finish u s).ats = s.ats := by unfold finish; split <;> simp
@[simp] theorem finish_carders (u : Use) (s : State) : (finish u s).carders = s.carders := by unfold finish; split <;> simp
@[simp] theorem finish_distaff (u : Use) (s : State) : (finish u s).distaff = s.distaff := by unfold finish; split <;> simp
@[simp] theorem finish_egress (u : Use) (s : State) : (finish u s).egress = s.egress := by unfold finish; split <;> simp
@[simp] theorem finish_seqTable (u : Use) (s : State) : (finish u s).seqTable = s.seqTable := by unfold finish; split <;> simp
@[simp] theorem finish_retired (u : Use) (s : State) : (finish u s).retired = s.retired := by unfold finish; split <;> simp
@[simp] theorem finish_mgmt (u : Use) (s : State) : (finish u s).mgmt = s.mgmt := by unfold finish; split <;> simp
@[simp] theorem finish_reads (u : Use) (s : State) : (finish u s).reads = s.reads := by unfold finish; split <;> simp
@[simp] theorem finish_parked (u : Use) (s : State) : (finish u s).parked = s.parked := by unfold finish; split <;> simp
@[simp] theorem finish_walks (u : Use) (s : State) : (finish u s).walks = s.walks := by unfold finish; split <;> simp
@[simp] theorem finish_walkCache (u : Use) (s : State) : (finish u s).walkCache = s.walkCache := by unfold finish; split <;> simp
@[simp] theorem finish_moves (u : Use) (s : State) : (finish u s).moves = s.moves := by unfold finish; split <;> simp
@[simp] theorem finish_w_env (u : Use) (s : State) : (finish u s).w.env = s.w.env := by unfold finish; split <;> simp [Wave.fillPortStores]
@[simp] theorem finish_w_station (u : Use) (s : State) : (finish u s).w.station = s.w.station := by unfold finish; split <;> simp [Wave.fillPortStores]
@[simp] theorem finish_w_core (u : Use) (s : State) : (finish u s).w.core = s.w.core := by unfold finish; split <;> simp [Wave.fillPortStores]
@[simp] theorem finish_w_quarter (u : Use) (s : State) : (finish u s).w.quarter = s.w.quarter := by unfold finish; split <;> simp [Wave.fillPortStores]
@[simp] theorem finish_w_slot (u : Use) (s : State) : (finish u s).w.slot = s.w.slot := by unfold finish; split <;> simp [Wave.fillPortStores]
@[simp] theorem finish_w_launch (u : Use) (s : State) : (finish u s).w.launch = s.w.launch := by unfold finish; split <;> simp [Wave.fillPortStores]
@[simp] theorem finish_w_team (u : Use) (s : State) : (finish u s).w.team = s.w.team := by unfold finish; split <;> simp [Wave.fillPortStores]
@[simp] theorem finish_w_teamid (u : Use) (s : State) : (finish u s).w.teamid = s.w.teamid := by unfold finish; split <;> simp [Wave.fillPortStores]
@[simp] theorem finish_w_wid (u : Use) (s : State) : (finish u s).w.wid = s.w.wid := by unfold finish; split <;> simp [Wave.fillPortStores]
@[simp] theorem finish_w_width (u : Use) (s : State) : (finish u s).w.width = s.w.width := by unfold finish; split <;> simp [Wave.fillPortStores]
@[simp] theorem finish_w_vregs (u : Use) (s : State) : (finish u s).w.vregs = s.w.vregs := by unfold finish; split <;> simp [Wave.fillPortStores]
@[simp] theorem finish_w_sregs (u : Use) (s : State) : (finish u s).w.sregs = s.w.sregs := by unfold finish; split <;> simp [Wave.fillPortStores]
@[simp] theorem finish_w_ports (u : Use) (s : State) : (finish u s).w.ports = s.w.ports := by unfold finish; split <;> simp [Wave.fillPortStores]
@[simp] theorem finish_w_scratch (u : Use) (s : State) : (finish u s).w.scratch = s.w.scratch := by unfold finish; split <;> simp [Wave.fillPortStores]
@[simp] theorem finish_w_barriers (u : Use) (s : State) : (finish u s).w.barriers = s.w.barriers := by unfold finish; split <;> simp [Wave.fillPortStores]
@[simp] theorem finish_w_waves (u : Use) (s : State) : (finish u s).w.waves = s.w.waves := by unfold finish; split <;> simp [Wave.fillPortStores]
@[simp] theorem finish_w_twin (u : Use) (s : State) : (finish u s).w.twin = s.w.twin := by unfold finish; split <;> simp [Wave.fillPortStores]
@[simp] theorem finish_w_inst (u : Use) (s : State) : (finish u s).w.inst = s.w.inst := by unfold finish; split <;> simp [Wave.fillPortStores]
@[simp] theorem finish_w_halted (u : Use) (s : State) : (finish u s).w.halted = s.w.halted := by unfold finish; split <;> simp [Wave.fillPortStores]
@[simp] theorem finish_w_fte (u : Use) (s : State) : (finish u s).w.fte = s.w.fte := by unfold finish; split <;> simp [Wave.fillPortStores]
@[simp] theorem finish_w_rmode (u : Use) (s : State) : (finish u s).w.rmode = s.w.rmode := by unfold finish; split <;> simp [Wave.fillPortStores]
@[simp] theorem finish_w_gang (u : Use) (s : State) : (finish u s).w.gang = s.w.gang := by unfold finish; split <;> simp [Wave.fillPortStores]
@[simp] theorem finish_w_mprog (u : Use) (s : State) : (finish u s).w.mprog = s.w.mprog := by unfold finish; split <;> simp [Wave.fillPortStores]
@[simp] theorem finish_w_trcause (u : Use) (s : State) : (finish u s).w.trcause = s.w.trcause := by unfold finish; split <;> simp [Wave.fillPortStores]
@[simp] theorem finish_w_trpc (u : Use) (s : State) : (finish u s).w.trpc = s.w.trpc := by unfold finish; split <;> simp [Wave.fillPortStores]
@[simp] theorem finish_w_trmask (u : Use) (s : State) : (finish u s).w.trmask = s.w.trmask := by unfold finish; split <;> simp [Wave.fillPortStores]
@[simp] theorem finish_w_trinst (u : Use) (s : State) : (finish u s).w.trinst = s.w.trinst := by unfold finish; split <;> simp [Wave.fillPortStores]
@[simp] theorem finish_w_trexec (u : Use) (s : State) : (finish u s).w.trexec = s.w.trexec := by unfold finish; split <;> simp [Wave.fillPortStores]
@[simp] theorem finish_w_trpos (u : Use) (s : State) : (finish u s).w.trpos = s.w.trpos := by unfold finish; split <;> simp [Wave.fillPortStores]
@[simp] theorem finish_w_trwritten (u : Use) (s : State) : (finish u s).w.trwritten = s.w.trwritten := by unfold finish; split <;> simp [Wave.fillPortStores]
@[simp] theorem finish_w_pend (u : Use) (s : State) : (finish u s).w.pend = s.w.pend := by unfold finish; split <;> simp [Wave.fillPortStores]
@[simp] theorem finish_w_pendSeq (u : Use) (s : State) : (finish u s).w.pendSeq = s.w.pendSeq := by unfold finish; split <;> simp [Wave.fillPortStores]
@[simp] theorem finish_w_flight (u : Use) (s : State) : (finish u s).w.flight = s.w.flight := by unfold finish; split <;> simp [Wave.fillPortStores]
@[simp] theorem finish_w_producers (u : Use) (s : State) : (finish u s).w.producers = s.w.producers := by unfold finish; split <;> simp [Wave.fillPortStores]
@[simp] theorem finish_w_aside (u : Use) (s : State) : (finish u s).w.aside = s.w.aside := by unfold finish; split <;> simp [Wave.fillPortStores]
@[simp] theorem finish_w_kept (u : Use) (s : State) : (finish u s).w.kept = s.w.kept := by unfold finish; split <;> simp [Wave.fillPortStores]
@[simp] theorem finish_w_total (u : Use) (s : State) : (finish u s).w.total = s.w.total := by unfold finish; split <;> simp [Wave.fillPortStores]
@[simp] theorem finish_w_consec (u : Use) (s : State) : (finish u s).w.consec = s.w.consec := by unfold finish; split <;> simp [Wave.fillPortStores]
@[simp] theorem finish_w_failing (u : Use) (s : State) : (finish u s).w.failing = s.w.failing := by unfold finish; split <;> simp [Wave.fillPortStores]
@[simp] theorem finish_w_force (u : Use) (s : State) : (finish u s).w.force = s.w.force := by unfold finish; split <;> simp [Wave.fillPortStores]
@[simp] theorem finish_w_mode (u : Use) (s : State) : (finish u s).w.mode = s.w.mode := by unfold finish; split <;> simp [Wave.fillPortStores]
/-- A pending matrix value of no destination of the word is as before. -/
theorem finish_acc (u : Use) (s : State) (k : Nat) (h : k / 64 ∉ u.dstV) : find (finish u s).w.acc k = find s.w.acc k := by
  unfold finish; rw [advance_w_acc, blurWrites_acc u _ k h]; split <;> rfl

@[simp] theorem finish_w_holds (u : Use) (s : State) : (finish u s).w.holds = s.w.holds := by unfold finish; split <;> simp [Wave.fillPortStores]
@[simp] theorem finish_w_txUser (u : Use) (s : State) : (finish u s).w.txUser = s.w.txUser := by unfold finish; split <;> simp [Wave.fillPortStores]
@[simp] theorem finish_w_txCode (u : Use) (s : State) : (finish u s).w.txCode = s.w.txCode := by unfold finish; split <;> simp [Wave.fillPortStores]
@[simp] theorem finish_w_txAborts (u : Use) (s : State) : (finish u s).w.txAborts = s.w.txAborts := by unfold finish; split <;> simp [Wave.fillPortStores]
@[simp] theorem finish_w_deadline (u : Use) (s : State) : (finish u s).w.deadline = s.w.deadline := by unfold finish; split <;> simp [Wave.fillPortStores]
@[simp] theorem finish_w_arrives (u : Use) (s : State) : (finish u s).w.arrives = s.w.arrives := by unfold finish; split <;> simp [Wave.fillPortStores]
@[simp] theorem finish_w_matrix (u : Use) (s : State) : (finish u s).w.matrix = s.w.matrix := by unfold finish; split <;> simp [Wave.fillPortStores]
@[simp] theorem finish_w_matDone (u : Use) (s : State) : (finish u s).w.matDone = s.w.matDone := by unfold finish; split <;> simp [Wave.fillPortStores]
@[simp] theorem finish_w_rows (u : Use) (s : State) : (finish u s).w.rows = s.w.rows := by unfold finish; split <;> simp [Wave.fillPortStores]
@[simp] theorem finish_w_attn (u : Use) (s : State) : (finish u s).w.attn = s.w.attn := by unfold finish; split <;> simp [Wave.fillPortStores]
@[simp] theorem finish_w_pair (u : Use) (s : State) : (finish u s).w.pair = s.w.pair := by unfold finish; split <;> simp [Wave.fillPortStores]
@[simp] theorem finish_w_pairLog (u : Use) (s : State) : (finish u s).w.pairLog = s.w.pairLog := by unfold finish; split <;> simp [Wave.fillPortStores]
@[simp] theorem finish_w_signature (u : Use) (s : State) : (finish u s).w.signature = s.w.signature := by unfold finish; split <;> simp [Wave.fillPortStores]
@[simp] theorem finish_a_exec (u : Use) (s : State) : (finish u s).w.a.exec = s.w.a.exec := by unfold finish; split <;> simp [Wave.fillPortStores]
@[simp] theorem finish_a_flNv (u : Use) (s : State) : (finish u s).w.a.flNv = s.w.a.flNv := by unfold finish; split <;> simp [Wave.fillPortStores]
@[simp] theorem finish_a_flDz (u : Use) (s : State) : (finish u s).w.a.flDz = s.w.a.flDz := by unfold finish; split <;> simp [Wave.fillPortStores]
@[simp] theorem finish_a_flOf (u : Use) (s : State) : (finish u s).w.a.flOf = s.w.a.flOf := by unfold finish; split <;> simp [Wave.fillPortStores]
@[simp] theorem finish_a_flUf (u : Use) (s : State) : (finish u s).w.a.flUf = s.w.a.flUf := by unfold finish; split <;> simp [Wave.fillPortStores]
@[simp] theorem finish_a_flNx (u : Use) (s : State) : (finish u s).w.a.flNx = s.w.a.flNx := by unfold finish; split <;> simp [Wave.fillPortStores]
@[simp] theorem finish_a_s (u : Use) (s : State) : (finish u s).w.a.s = s.w.a.s := by unfold finish; split <;> simp [Wave.fillPortStores]
@[simp] theorem finish_a_emptyV (u : Use) (s : State) : (finish u s).w.a.emptyV = s.w.a.emptyV := by unfold finish; split <;> simp [Wave.fillPortStores]
@[simp] theorem finish_a_emptyS (u : Use) (s : State) : (finish u s).w.a.emptyS = s.w.a.emptyS := by unfold finish; split <;> simp [Wave.fillPortStores]
@[simp] theorem finish_a_streams (u : Use) (s : State) : (finish u s).w.a.streams = s.w.a.streams := by unfold finish; split <;> simp [Wave.fillPortStores]
@[simp] theorem finish_a_queues (u : Use) (s : State) : (finish u s).w.a.queues = s.w.a.queues := by unfold finish; split <;> simp [Wave.fillPortStores]

@[simp] theorem finish_w_seq (u : Use) (s : State) : (finish u s).w.seq = s.w.seq + 1 := by
  unfold finish; split <;> simp [Wave.fillPortStores]

@[simp] theorem finish_w_hold (u : Use) (s : State) : (finish u s).w.hold = .none := by
  unfold finish; split <;> simp

/-- The wave stands past the word. -/
@[simp] theorem finish_a_pos (u : Use) (s : State) : (finish u s).w.a.pos = s.w.a.pos.advance u.words := by
  unfold finish; split <;> simp [Wave.fillPortStores]

/-- A scalar register keeps what the word left in it. -/
@[simp] theorem finish_sreg (u : Use) (s : State) (r : Nat) : (finish u s).sreg r = s.sreg r := by
  unfold State.sreg Arch.getS
  rw [finish_a_s]

/-- A vector register keeps what the word left in it, unless a matrix operation in flight leaves it undefined (R148). -/
theorem finish_vreg (u : Use) (s : State) (r t : Nat) (ht : t < 64)
    (h : r ∉ u.dstV ∨ r ∉ s.w.undefRegs) : (finish u s).vreg r t = s.vreg r t := by
  have hb : (finish u s).w.a.v = (blurWrites u (if s.w.ports == 0#2 || u.late then s else s.onWave (fun w => w.fillPortStores w.seq))).w.a.v := by
    unfold finish; rw [advance_arch]
  have hg : ∀ s' : State, s'.w.a = s.w.a → s'.w.width = s.w.width → s'.w.undefRegs = s.w.undefRegs →
      (blurWrites u s').w.a.getV r t = s.w.a.getV r t := by
    intro s' ha hw' hu
    unfold blurWrites
    split
    · rw [ha]
    · dsimp only
      show (scramble (u.dstV.filter (fun r => s'.w.undefRegs.contains r)) s').w.a.getV r t = _
      rw [scramble_getV _ _ _ _ ht, ha]
      intro hm
      simp only [List.mem_filter, List.contains_iff_mem, hu] at hm
      rcases h with h | h
      · exact h hm.1
      · exact h hm.2
  unfold State.vreg
  show look 0 (finish u s).w.a.v (64 * r + t) = s.w.a.getV r t
  rw [hb]
  split
  · exact hg s rfl rfl rfl
  · exact hg _ rfl rfl rfl

end Sys2Proof.Machine
end

