-- ==== Sys2Proof/Laws/Memory.lean ====
section
/-! SUPPORT. What a memory word does, said once: an access that passes its checks joins the wave's accesses. -/

namespace Sys2Proof.Machine

open Sys2Proof.Safety

theorem raiseCount_elems (m : MemWord) (s : State) (path : Nat) (places : List Place) :
    m.elems (raiseCount path s) places = m.elems s places := rfl

/-- The path of the access a memory word makes. -/
theorem access_path (m : MemWord) (s : State) (h : Handle) (places : List Place) : (m.access s h places).path = memPath h m.op := by
  unfold MemWord.access
  dsimp only
  split <;> rfl

/-- A memory word whose places pass every check and whose access finds room makes it. -/
theorem memWord_go {u : Use} {m : State → MemWord} {s t t' : State} {h : Handle} {places : List Place} (hi : Issues u s t)
    (ha : Accesses (m t) s t t' h places) : memWord u m s = .next (finish u (accessed (m t) t' h places)) := by
  unfold memWord
  rw [issue_go hi]
  have h1 : (m t).offs.isEmpty = false := by simpa using ha.threads
  have h2 : ¬ 64 ≤ refusedOf t t.w.core := by have := ha.unit; omega
  have h3 : (h.remote && t'.w.txn.isSome) = false := by
    cases hr : h.remote with
    | false => rfl
    | true => simp [(ha.plain hr).1]
  have h4 : (h.remote && s.w.speculative) = false := by
    cases hr : h.remote with
    | false => rfl
    | true => simp [(ha.plain hr).2.1]
  have h7 : (h.remote && s.w.pair.isSome && s.w.pairOk == 0#2) = false := by
    cases hr : h.remote with
    | false => rfl
    | true => rcases (ha.plain hr).2.2.2 with e | e <;> simp [e]
  have h8 : (h.remote && s.w.pairOk == 2#2) = false := by
    cases hr : h.remote with
    | false => rfl
    | true => simp [(ha.plain hr).2.2.1]
  have h5 : ((m t).elems t' places).isEmpty = false := by simpa using ha.some
  have h6 : ¬ 65535 ≤ t'.w.count (memPath h (m t).op) := by have := ha.counter; omega
  unfold memAccess
  have h9 : ¬ (64 ≤ refusedOf t t.w.core || (!(m t).op.writes && t.w.writePending)) = true := by
    rcases ha.known with e | e <;> simp [h2, e]
  rw [if_neg (by simp [h1]), if_neg h9, ha.checks]
  dsimp only
  rw [if_neg (by simp [h3]), if_neg (by simp [ha.guarded]), if_neg (by simp [h4]), if_neg (by simp [h7]), if_neg (by simp [h8]), if_neg (by simp [h5]), if_neg h6]
  rw [if_neg (by simp [ha.capacity])]
  unfold issueAccess accessed
  rw [access_path]

end Sys2Proof.Machine
end

