-- ==== Sys2Proof/Laws/PerInstr.lean ====
section
/-! SUPPORT. For every instruction: its words decode to it, and their first tells how many they are. -/

set_option linter.unusedSimpArgs false
set_option Elab.async false

namespace Sys2Proof.Laws

/-! ### The major opcode chooses the decoder's row -/

theorem decode_00 (w0 w1 : W32) (h : w0.extractLsb' 26 6 = 0x00#6) : decode w0 w1 = dec00 w0 := by
  simp only [decode, fld, h, BitVec.reduceToNat]
theorem decode_01 (w0 w1 : W32) (h : w0.extractLsb' 26 6 = 0x01#6) : decode w0 w1 = dec01 w0 := by
  simp only [decode, fld, h, BitVec.reduceToNat]
theorem decode_02 (w0 w1 : W32) (h : w0.extractLsb' 26 6 = 0x02#6) : decode w0 w1 = dec02 w0 := by
  simp only [decode, fld, h, BitVec.reduceToNat]
theorem decode_03 (w0 w1 : W32) (h : w0.extractLsb' 26 6 = 0x03#6) : decode w0 w1 = dec03 w0 := by
  simp only [decode, fld, h, BitVec.reduceToNat]
theorem decode_04 (w0 w1 : W32) (h : w0.extractLsb' 26 6 = 0x04#6) : decode w0 w1 = dec04 w0 := by
  simp only [decode, fld, h, BitVec.reduceToNat]
theorem decode_05 (w0 w1 : W32) (h : w0.extractLsb' 26 6 = 0x05#6) : decode w0 w1 = dec05 w0 := by
  simp only [decode, fld, h, BitVec.reduceToNat]
theorem decode_06 (w0 w1 : W32) (h : w0.extractLsb' 26 6 = 0x06#6) : decode w0 w1 = dec06 w0 := by
  simp only [decode, fld, h, BitVec.reduceToNat]
theorem decode_07 (w0 w1 : W32) (h : w0.extractLsb' 26 6 = 0x07#6) : decode w0 w1 = dec07 w0 := by
  simp only [decode, fld, h, BitVec.reduceToNat]
theorem decode_08 (w0 w1 : W32) (h : w0.extractLsb' 26 6 = 0x08#6) : decode w0 w1 = dec08 w0 := by
  simp only [decode, fld, h, BitVec.reduceToNat]
theorem decode_09 (w0 w1 : W32) (h : w0.extractLsb' 26 6 = 0x09#6) : decode w0 w1 = dec09 w0 := by
  simp only [decode, fld, h, BitVec.reduceToNat]
theorem decode_0a (w0 w1 : W32) (h : w0.extractLsb' 26 6 = 0x0a#6) : decode w0 w1 = dec0a w0 := by
  simp only [decode, fld, h, BitVec.reduceToNat]
theorem decode_0b (w0 w1 : W32) (h : w0.extractLsb' 26 6 = 0x0b#6) : decode w0 w1 = dec0b w0 := by
  simp only [decode, fld, h, BitVec.reduceToNat]
theorem decode_0c (w0 w1 : W32) (h : w0.extractLsb' 26 6 = 0x0c#6) : decode w0 w1 = dec0c w0 := by
  simp only [decode, fld, h, BitVec.reduceToNat]
theorem decode_0d (w0 w1 : W32) (h : w0.extractLsb' 26 6 = 0x0d#6) : decode w0 w1 = dec0d w0 := by
  simp only [decode, fld, h, BitVec.reduceToNat]
theorem decode_0e (w0 w1 : W32) (h : w0.extractLsb' 26 6 = 0x0e#6) : decode w0 w1 = dec0e w0 := by
  simp only [decode, fld, h, BitVec.reduceToNat]
theorem decode_0f (w0 w1 : W32) (h : w0.extractLsb' 26 6 = 0x0f#6) : decode w0 w1 = dec0f w0 := by
  simp only [decode, fld, h, BitVec.reduceToNat]
theorem decode_10 (w0 w1 : W32) (h : w0.extractLsb' 26 6 = 0x10#6) : decode w0 w1 = dec10 w0 := by
  simp only [decode, fld, h, BitVec.reduceToNat]
theorem decode_11 (w0 w1 : W32) (h : w0.extractLsb' 26 6 = 0x11#6) : decode w0 w1 = dec11 w0 := by
  simp only [decode, fld, h, BitVec.reduceToNat]
theorem decode_12 (w0 w1 : W32) (h : w0.extractLsb' 26 6 = 0x12#6) : decode w0 w1 = dec12 w0 := by
  simp only [decode, fld, h, BitVec.reduceToNat]
theorem decode_13 (w0 w1 : W32) (h : w0.extractLsb' 26 6 = 0x13#6) : decode w0 w1 = dec13 w0 := by
  simp only [decode, fld, h, BitVec.reduceToNat]
theorem decode_14 (w0 w1 : W32) (h : w0.extractLsb' 26 6 = 0x14#6) : decode w0 w1 = dec14 w0 := by
  simp only [decode, fld, h, BitVec.reduceToNat]
theorem decode_15 (w0 w1 : W32) (h : w0.extractLsb' 26 6 = 0x15#6) : decode w0 w1 = dec15 w0 := by
  simp only [decode, fld, h, BitVec.reduceToNat]
theorem decode_16 (w0 w1 : W32) (h : w0.extractLsb' 26 6 = 0x16#6) : decode w0 w1 = dec16 w0 := by
  simp only [decode, fld, h, BitVec.reduceToNat]
theorem decode_17 (w0 w1 : W32) (h : w0.extractLsb' 26 6 = 0x17#6) : decode w0 w1 = dec17 w0 := by
  simp only [decode, fld, h, BitVec.reduceToNat]
theorem decode_18 (w0 w1 : W32) (h : w0.extractLsb' 26 6 = 0x18#6) : decode w0 w1 = dec18 w0 := by
  simp only [decode, fld, h, BitVec.reduceToNat]
theorem decode_19 (w0 w1 : W32) (h : w0.extractLsb' 26 6 = 0x19#6) : decode w0 w1 = dec19 w0 := by
  simp only [decode, fld, h, BitVec.reduceToNat]
theorem decode_1a (w0 w1 : W32) (h : w0.extractLsb' 26 6 = 0x1a#6) : decode w0 w1 = dec1a w0 := by
  simp only [decode, fld, h, BitVec.reduceToNat]
theorem decode_1b (w0 w1 : W32) (h : w0.extractLsb' 26 6 = 0x1b#6) : decode w0 w1 = dec1b w0 := by
  simp only [decode, fld, h, BitVec.reduceToNat]
theorem decode_1d (w0 w1 : W32) (h : w0.extractLsb' 26 6 = 0x1d#6) : decode w0 w1 = dec1d w0 := by
  simp only [decode, fld, h, BitVec.reduceToNat]
theorem decode_1e (w0 w1 : W32) (h : w0.extractLsb' 26 6 = 0x1e#6) : decode w0 w1 = dec1e w0 := by
  simp only [decode, fld, h, BitVec.reduceToNat]
theorem decode_1f (w0 w1 : W32) (h : w0.extractLsb' 26 6 = 0x1f#6) : decode w0 w1 = dec1f w0 := by
  simp only [decode, fld, h, BitVec.reduceToNat]
theorem decode_20 (w0 w1 : W32) (h : w0.extractLsb' 26 6 = 0x20#6) : decode w0 w1 = dec20 w0 := by
  simp only [decode, fld, h, BitVec.reduceToNat]
theorem decode_21 (w0 w1 : W32) (h : w0.extractLsb' 26 6 = 0x21#6) : decode w0 w1 = dec21 w0 := by
  simp only [decode, fld, h, BitVec.reduceToNat]
theorem decode_22 (w0 w1 : W32) (h : w0.extractLsb' 26 6 = 0x22#6) : decode w0 w1 = dec22 w0 := by
  simp only [decode, fld, h, BitVec.reduceToNat]
theorem decode_23 (w0 w1 : W32) (h : w0.extractLsb' 26 6 = 0x23#6) : decode w0 w1 = dec23 w0 := by
  simp only [decode, fld, h, BitVec.reduceToNat]
theorem decode_24 (w0 w1 : W32) (h : w0.extractLsb' 26 6 = 0x24#6) : decode w0 w1 = dec24 w0 w1 := by
  simp only [decode, fld, h, BitVec.reduceToNat]
theorem decode_25 (w0 w1 : W32) (h : w0.extractLsb' 26 6 = 0x25#6) : decode w0 w1 = dec25 w0 := by
  simp only [decode, fld, h, BitVec.reduceToNat]
theorem decode_26 (w0 w1 : W32) (h : w0.extractLsb' 26 6 = 0x26#6) : decode w0 w1 = dec26 w0 := by
  simp only [decode, fld, h, BitVec.reduceToNat]
theorem decode_27 (w0 w1 : W32) (h : w0.extractLsb' 26 6 = 0x27#6) : decode w0 w1 = dec27 w0 w1 := by
  simp only [decode, fld, h, BitVec.reduceToNat]
theorem decode_28 (w0 w1 : W32) (h : w0.extractLsb' 26 6 = 0x28#6) : decode w0 w1 = dec28 w0 := by
  simp only [decode, fld, h, BitVec.reduceToNat]
theorem decode_29 (w0 w1 : W32) (h : w0.extractLsb' 26 6 = 0x29#6) : decode w0 w1 = dec29 w0 w1 := by
  simp only [decode, fld, h, BitVec.reduceToNat]
theorem decode_30 (w0 w1 : W32) (h : w0.extractLsb' 26 6 = 0x30#6) : decode w0 w1 = dec30 w0 w1 := by
  simp only [decode, fld, h, BitVec.reduceToNat]
theorem decode_31 (w0 w1 : W32) (h : w0.extractLsb' 26 6 = 0x31#6) : decode w0 w1 = dec31 w0 := by
  simp only [decode, fld, h, BitVec.reduceToNat]
theorem decode_33 (w0 w1 : W32) (h : w0.extractLsb' 26 6 = 0x33#6) : decode w0 w1 = dec33 w0 w1 := by
  simp only [decode, fld, h, BitVec.reduceToNat]
theorem decode_34 (w0 w1 : W32) (h : w0.extractLsb' 26 6 = 0x34#6) : decode w0 w1 = dec34 w0 w1 := by
  simp only [decode, fld, h, BitVec.reduceToNat]
theorem decode_35 (w0 w1 : W32) (h : w0.extractLsb' 26 6 = 0x35#6) : decode w0 w1 = dec35 w0 := by
  simp only [decode, fld, h, BitVec.reduceToNat]
theorem decode_3c (w0 w1 : W32) (h : w0.extractLsb' 26 6 = 0x3c#6) : decode w0 w1 = dec3c w0 := by
  simp only [decode, fld, h, BitVec.reduceToNat]

/-- Decoding the encoding of a well-formed instruction gives it back; the first word tells whether there is a second. -/
def RoundTrip.Statement (i : Instr) : Prop :=
  i.wellFormed = true →
    match encode i with
    | some (w0, w1) => decode w0 (w1.getD 0) = .ok i ∧ isLong w0 = w1.isSome
    | none => True

open RoundTrip in
theorem RoundTrip.slotArbitration (quarter : Nat) : Statement (.slotArbitration quarter) :=
  fun _ => trivial

open RoundTrip in
theorem RoundTrip.starvationPromotion (wave : Nat) : Statement (.starvationPromotion wave) :=
  fun _ => trivial

open RoundTrip in
theorem RoundTrip.loadDataReturn (wave : Nat) (id : Nat) : Statement (.loadDataReturn wave id) :=
  fun _ => trivial

open RoundTrip in
theorem RoundTrip.accessRetire (wave : Nat) : Statement (.accessRetire wave) :=
  fun _ => trivial

open RoundTrip in
theorem RoundTrip.storeBufferLeave (wave : Nat) : Statement (.storeBufferLeave wave) :=
  fun _ => trivial

open RoundTrip in
theorem RoundTrip.invalidationArrival (core : Nat) (line : Nat) : Statement (.invalidationArrival core line) :=
  fun _ => trivial

open RoundTrip in
theorem RoundTrip.evictionNotice (core : Nat) (line : Nat) : Statement (.evictionNotice core line) :=
  fun _ => trivial

open RoundTrip in
theorem RoundTrip.noticeCompletion (core : Nat) (line : Nat) : Statement (.noticeCompletion core line) :=
  fun _ => trivial

open RoundTrip in
theorem RoundTrip.acknowledgement (core : Nat) (line : Nat) : Statement (.acknowledgement core line) :=
  fun _ => trivial

open RoundTrip in
theorem RoundTrip.frontRequestAccept (front : Nat × List (Nat × SectorError)) : Statement (.frontRequestAccept front) :=
  fun _ => trivial

open RoundTrip in
theorem RoundTrip.retryTimerExpiry (wave : Nat) (id : Nat) (line : Nat) : Statement (.retryTimerExpiry wave id line) :=
  fun _ => trivial

open RoundTrip in
theorem RoundTrip.holdTimeout (whorl : Nat) : Statement (.holdTimeout whorl) :=
  fun _ => trivial

open RoundTrip in
theorem RoundTrip.tileLanding (whorl : Nat) : Statement (.tileLanding whorl) :=
  fun _ => trivial

open RoundTrip in
theorem RoundTrip.fillComplete (whorl : Nat) (fetched : Nat × List Nat) : Statement (.fillComplete whorl fetched) :=
  fun _ => trivial

open RoundTrip in
theorem RoundTrip.scratchMotionStart (whorl : Nat) : Statement (.scratchMotionStart whorl) :=
  fun _ => trivial

open RoundTrip in
theorem RoundTrip.portCapLoop (whorl : Nat) : Statement (.portCapLoop whorl) :=
  fun _ => trivial

open RoundTrip in
theorem RoundTrip.transcendentalStart (quarter : Nat) : Statement (.transcendentalStart quarter) :=
  fun _ => trivial

open RoundTrip in
theorem RoundTrip.transcendentalResult (quarter : Nat) : Statement (.transcendentalResult quarter) :=
  fun _ => trivial

open RoundTrip in
theorem RoundTrip.sleepDeadline (wave : Nat) : Statement (.sleepDeadline wave) :=
  fun _ => trivial

open RoundTrip in
theorem RoundTrip.barrierWaitComplete (wave : Nat) : Statement (.barrierWaitComplete wave) :=
  fun _ => trivial

open RoundTrip in
theorem RoundTrip.streamPrefetch (wave : Nat) (port : Nat) : Statement (.streamPrefetch wave port) :=
  fun _ => trivial

open RoundTrip in
theorem RoundTrip.queueFetch (wave : Nat) (queue : Nat) : Statement (.queueFetch wave queue) :=
  fun _ => trivial

open RoundTrip in
theorem RoundTrip.storeQueueDrain (wave : Nat) (queue : Nat) : Statement (.storeQueueDrain wave queue) :=
  fun _ => trivial

open RoundTrip in
theorem RoundTrip.spindleCommandStart (core : Nat) : Statement (.spindleCommandStart core) :=
  fun _ => trivial

open RoundTrip in
theorem RoundTrip.matrixOperationStart (unit : Nat × Nat) : Statement (.matrixOperationStart unit) :=
  fun _ => trivial

open RoundTrip in
theorem RoundTrip.matrixOperationComplete (quarter : Nat) : Statement (.matrixOperationComplete quarter) :=
  fun _ => trivial

open RoundTrip in
theorem RoundTrip.whorlPartial (wave : Nat) (id : Nat) (whorl : Nat) : Statement (.whorlPartial wave id whorl) :=
  fun _ => trivial

open RoundTrip in
theorem RoundTrip.partialMerge (wave : Nat) (id : Nat) : Statement (.partialMerge wave id) :=
  fun _ => trivial

open RoundTrip in
theorem RoundTrip.carderRound (floor : Nat) : Statement (.carderRound floor) :=
  fun _ => trivial

open RoundTrip in
theorem RoundTrip.carderRecordRead (floor : Nat) : Statement (.carderRecordRead floor) :=
  fun _ => trivial

open RoundTrip in
theorem RoundTrip.distaffRead (wave : Nat) : Statement (.distaffRead wave) :=
  fun _ => trivial

open RoundTrip in
theorem RoundTrip.hostSnoop (line : Nat) (payload : List (BitVec 8) × Bool) : Statement (.hostSnoop line payload) :=
  fun _ => trivial

open RoundTrip in
theorem RoundTrip.cxlMemRead (addr : Nat) (n : Nat) : Statement (.cxlMemRead addr n) :=
  fun _ => trivial

open RoundTrip in
theorem RoundTrip.cxlMemWrite (addr : Nat) (payload : List (BitVec 8) × Bool) : Statement (.cxlMemWrite addr payload) :=
  fun _ => trivial

open RoundTrip in
theorem RoundTrip.hostCompletion (wave : Nat) (status : BitVec 2) : Statement (.hostCompletion wave status) :=
  fun _ => trivial

open RoundTrip in
theorem RoundTrip.peerAcknowledgement (wave : Nat) (status : BitVec 2) : Statement (.peerAcknowledgement wave status) :=
  fun _ => trivial

open RoundTrip in
theorem RoundTrip.peerRequest (tag : BitVec 8) (va : BitVec 64) (kind : BitVec 2) (fn : Nat) (n : Nat) (payload : List (BitVec 8) × Bool) (cmp : List (BitVec 8)) : Statement (.peerRequest tag va kind fn n payload cmp) :=
  fun _ => trivial

open RoundTrip in
theorem RoundTrip.priResponse (tag : BitVec 8) (index : Nat) (ok : Bool) : Statement (.priResponse tag index ok) :=
  fun _ => trivial

open RoundTrip in
theorem RoundTrip.priTimeout (tag : BitVec 8) (index : Nat) : Statement (.priTimeout tag index) :=
  fun _ => trivial

open RoundTrip in
theorem RoundTrip.pageWalk (cache : Nat) (tag : BitVec 8) (va : BitVec 64) (access : BitVec 2) : Statement (.pageWalk cache tag va access) :=
  fun _ => trivial

open RoundTrip in
theorem RoundTrip.tlbinvComplete (wave : Nat) : Statement (.tlbinvComplete wave) :=
  fun _ => trivial

open RoundTrip in
theorem RoundTrip.fresRetry (tag : BitVec 8) (index : Nat) : Statement (.fresRetry tag index) :=
  fun _ => trivial

open RoundTrip in
theorem RoundTrip.fresDeny (tag : BitVec 8) (index : Nat) : Statement (.fresDeny tag index) :=
  fun _ => trivial

open RoundTrip in
theorem RoundTrip.pageMove (tag : BitVec 8) (va : BitVec 64) (tier : Bool) (frame : Nat) : Statement (.pageMove tag va tier frame) :=
  fun _ => trivial

open RoundTrip in
theorem RoundTrip.eventRingDenyTimeout (tag : BitVec 8) (index : Nat) : Statement (.eventRingDenyTimeout tag index) :=
  fun _ => trivial

open RoundTrip in
theorem RoundTrip.lqtail (tag : BitVec 8) (level : Nat) (value : BitVec 32) : Statement (.lqtail tag level value) :=
  fun _ => trivial

open RoundTrip in
theorem RoundTrip.launchFetch (tag : BitVec 8) (level : Nat) : Statement (.launchFetch tag level) :=
  fun _ => trivial

open RoundTrip in
theorem RoundTrip.teamPlacement : Statement (.teamPlacement) :=
  fun _ => trivial

open RoundTrip in
theorem RoundTrip.levelRaise (launch : Nat) : Statement (.levelRaise launch) :=
  fun _ => trivial

open RoundTrip in
theorem RoundTrip.reserve (launch : Nat) : Statement (.reserve launch) :=
  fun _ => trivial

open RoundTrip in
theorem RoundTrip.grdarm (tag : BitVec 8) (slot : BitVec 8) : Statement (.grdarm tag slot) :=
  fun _ => trivial

open RoundTrip in
theorem RoundTrip.grdsetDoorbell (tag : BitVec 8) (slot : BitVec 8) (value : Bool) : Statement (.grdsetDoorbell tag slot value) :=
  fun _ => trivial

open RoundTrip in
theorem RoundTrip.admtail (tag : BitVec 8) (value : BitVec 32) : Statement (.admtail tag value) :=
  fun _ => trivial

open RoundTrip in
theorem RoundTrip.cplhead (tag : BitVec 8) (value : BitVec 32) : Statement (.cplhead tag value) :=
  fun _ => trivial

open RoundTrip in
theorem RoundTrip.cancel (tag : BitVec 8) (seq : BitVec 32) : Statement (.cancel tag seq) :=
  fun _ => trivial

open RoundTrip in
theorem RoundTrip.distaffStep (tag : BitVec 8) : Statement (.distaffStep tag) :=
  fun _ => trivial

open RoundTrip in
theorem RoundTrip.stepCommit (tag : BitVec 8) : Statement (.stepCommit tag) :=
  fun _ => trivial

open RoundTrip in
theorem RoundTrip.sequenceRetirement (slot : Nat) : Statement (.sequenceRetirement slot) :=
  fun _ => trivial

open RoundTrip in
theorem RoundTrip.poisonReport (addr : Nat) (tag : Option (BitVec 8)) : Statement (.poisonReport addr tag) :=
  fun _ => trivial

open RoundTrip in
theorem RoundTrip.terminatingCause (launch : Nat) : Statement (.terminatingCause launch) :=
  fun _ => trivial

open RoundTrip in
theorem RoundTrip.frameRetire (tier : Bool) (frame : Nat) (reason : BitVec 8 × Option (BitVec 8)) : Statement (.frameRetire tier frame reason) :=
  fun _ => trivial

open RoundTrip in
theorem RoundTrip.preemptionRequest (team : Nat) : Statement (.preemptionRequest team) :=
  fun _ => trivial

open RoundTrip in
theorem RoundTrip.teamSave (team : Nat) : Statement (.teamSave team) :=
  fun _ => trivial

open RoundTrip in
theorem RoundTrip.saveSeal (team : Nat) : Statement (.saveSeal team) :=
  fun _ => trivial

open RoundTrip in
theorem RoundTrip.teamRestore (team : Nat) (core : Nat) : Statement (.teamRestore team core) :=
  fun _ => trivial

open RoundTrip in
theorem RoundTrip.pairComparison (waveA : Nat) (waveB : Nat) : Statement (.pairComparison waveA waveB) :=
  fun _ => trivial

open RoundTrip in
theorem RoundTrip.islandControlLoop (cls : BitVec 4) (index : Nat) (droopMHz : Nat) (shareMHz : Nat) : Statement (.islandControlLoop cls index droopMHz shareMHz) :=
  fun _ => trivial

open RoundTrip in
theorem RoundTrip.modulePowerLoop (avgWatts : Nat) : Statement (.modulePowerLoop avgWatts) :=
  fun _ => trivial

open RoundTrip in
theorem RoundTrip.fastClamp (watts : Nat) : Statement (.fastClamp watts) :=
  fun _ => trivial

open RoundTrip in
theorem RoundTrip.thermalLimit (cls : BitVec 4) (index : Nat) : Statement (.thermalLimit cls index) :=
  fun _ => trivial

open RoundTrip in
theorem RoundTrip.thermalTrip : Statement (.thermalTrip) :=
  fun _ => trivial

open RoundTrip in
theorem RoundTrip.retentionWindowLoop (whorl : Nat) (group : Nat) (temp : Nat) : Statement (.retentionWindowLoop whorl group temp) :=
  fun _ => trivial

open RoundTrip in
theorem RoundTrip.rowGroupRefresh (whorl : Nat) (group : Nat) (found : List (Nat × Bool)) : Statement (.rowGroupRefresh whorl group found) :=
  fun _ => trivial

open RoundTrip in
theorem RoundTrip.perstDeassertion : Statement (.perstDeassertion) :=
  fun _ => trivial

open RoundTrip in
theorem RoundTrip.stageAdvance (error : BitVec 8) : Statement (.stageAdvance error) :=
  fun _ => trivial

open RoundTrip in
theorem RoundTrip.functionLevelReset : Statement (.functionLevelReset) :=
  fun _ => trivial

open RoundTrip in
theorem RoundTrip.stageDroppedClear : Statement (.stageDroppedClear) :=
  fun _ => trivial

open RoundTrip in
theorem RoundTrip.identify : Statement (.identify) :=
  fun _ => trivial

open RoundTrip in
theorem RoundTrip.fwload : Statement (.fwload) :=
  fun _ => trivial

open RoundTrip in
theorem RoundTrip.rollfwd : Statement (.rollfwd) :=
  fun _ => trivial

open RoundTrip in
theorem RoundTrip.evring : Statement (.evring) :=
  fun _ => trivial

open RoundTrip in
theorem RoundTrip.ctxwrite : Statement (.ctxwrite) :=
  fun _ => trivial

open RoundTrip in
theorem RoundTrip.partset : Statement (.partset) :=
  fun _ => trivial

open RoundTrip in
theorem RoundTrip.wstat : Statement (.wstat) :=
  fun _ => trivial

open RoundTrip in
theorem RoundTrip.retlist : Statement (.retlist) :=
  fun _ => trivial

open RoundTrip in
theorem RoundTrip.islcap : Statement (.islcap) :=
  fun _ => trivial

open RoundTrip in
theorem RoundTrip.skroute : Statement (.skroute) :=
  fun _ => trivial

open RoundTrip in
theorem RoundTrip.reset : Statement (.reset) :=
  fun _ => trivial

open RoundTrip in
theorem RoundTrip.skeinPortDown (port : Nat) : Statement (.skeinPortDown port) :=
  fun _ => trivial

open RoundTrip in
theorem RoundTrip.skeinPortUp (port : Nat) : Statement (.skeinPortUp port) :=
  fun _ => trivial

open RoundTrip in
theorem RoundTrip.skeinPeerTimeout (node : BitVec 16) : Statement (.skeinPeerTimeout node) :=
  fun _ => trivial

open RoundTrip in
theorem RoundTrip.cxlPortDown (port : Nat) : Statement (.cxlPortDown port) :=
  fun _ => trivial

open RoundTrip in
theorem RoundTrip.cxlPortUp (port : Nat) : Statement (.cxlPortUp port) :=
  fun _ => trivial

open RoundTrip in
theorem RoundTrip.spdmRequest (block : Nat) : Statement (.spdmRequest block) :=
  fun _ => trivial

open RoundTrip in
theorem RoundTrip.registerWrite (offset : Nat) (value : BitVec 64) : Statement (.registerWrite offset value) :=
  fun _ => trivial

open RoundTrip in
theorem RoundTrip.illegalInstruction (word : BitVec 32) : Statement (.illegalInstruction word) :=
  fun _ => trivial

open RoundTrip in
theorem RoundTrip.cxlCacheOwnershipGrant (line : Nat) : Statement (.cxlCacheOwnershipGrant line) :=
  fun _ => trivial

open RoundTrip in
theorem RoundTrip.backInvalidateResponse (line : Nat) : Statement (.backInvalidateResponse line) :=
  fun _ => trivial

open RoundTrip in
theorem RoundTrip.atsTranslationCompletion (pasid : BitVec 20) (va : BitVec 64) (granted : Bool) (frame : Nat) : Statement (.atsTranslationCompletion pasid va granted frame) :=
  fun _ => trivial

open RoundTrip in
theorem RoundTrip.sadd (d : BitVec 7) (a : BitVec 7) (b : BitVec 7) (ea : Bool) (eb : Bool) : Statement (.sadd d a b ea eb) := by
  intro hw
  refine ⟨?_, ?_⟩
  · show decode (0x00#6 ++ d ++ a ++ b ++ 0#3 ++ BitVec.ofBool ea ++ BitVec.ofBool eb) (0) = .ok (.sadd d a b ea eb)
    rw [decode_00 _ _ (by simp (disch := decide) only [ext_high, Nat.reduceSub, ext_all])]
    simp (disch := decide) only [dec00, fld, bit, ext_low, ext_high, bit_low, bit_high, ext_all, bit_ofBool, Nat.reduceSub, BitVec.reduceToNat]
  · show isLong (0x00#6 ++ d ++ a ++ b ++ 0#3 ++ BitVec.ofBool ea ++ BitVec.ofBool eb) = false
    simp (disch := decide) only [isLong, fld, ext_low, ext_high, ext_all, Nat.reduceSub, Nat.reduceLT, decide_true, decide_false, BitVec.reduceToNat]

open RoundTrip in
theorem RoundTrip.ssub (d : BitVec 7) (a : BitVec 7) (b : BitVec 7) (ea : Bool) (eb : Bool) : Statement (.ssub d a b ea eb) := by
  intro hw
  refine ⟨?_, ?_⟩
  · show decode (0x00#6 ++ d ++ a ++ b ++ 1#3 ++ BitVec.ofBool ea ++ BitVec.ofBool eb) (0) = .ok (.ssub d a b ea eb)
    rw [decode_00 _ _ (by simp (disch := decide) only [ext_high, Nat.reduceSub, ext_all])]
    simp (disch := decide) only [dec00, fld, bit, ext_low, ext_high, bit_low, bit_high, ext_all, bit_ofBool, Nat.reduceSub, BitVec.reduceToNat]
  · show isLong (0x00#6 ++ d ++ a ++ b ++ 1#3 ++ BitVec.ofBool ea ++ BitVec.ofBool eb) = false
    simp (disch := decide) only [isLong, fld, ext_low, ext_high, ext_all, Nat.reduceSub, Nat.reduceLT, decide_true, decide_false, BitVec.reduceToNat]

open RoundTrip in
theorem RoundTrip.smul (d : BitVec 7) (a : BitVec 7) (b : BitVec 7) (ea : Bool) (eb : Bool) : Statement (.smul d a b ea eb) := by
  intro hw
  refine ⟨?_, ?_⟩
  · show decode (0x00#6 ++ d ++ a ++ b ++ 2#3 ++ BitVec.ofBool ea ++ BitVec.ofBool eb) (0) = .ok (.smul d a b ea eb)
    rw [decode_00 _ _ (by simp (disch := decide) only [ext_high, Nat.reduceSub, ext_all])]
    simp (disch := decide) only [dec00, fld, bit, ext_low, ext_high, bit_low, bit_high, ext_all, bit_ofBool, Nat.reduceSub, BitVec.reduceToNat]
  · show isLong (0x00#6 ++ d ++ a ++ b ++ 2#3 ++ BitVec.ofBool ea ++ BitVec.ofBool eb) = false
    simp (disch := decide) only [isLong, fld, ext_low, ext_high, ext_all, Nat.reduceSub, Nat.reduceLT, decide_true, decide_false, BitVec.reduceToNat]

open RoundTrip in
theorem RoundTrip.smulh (d : BitVec 7) (a : BitVec 7) (b : BitVec 7) (ea : Bool) (eb : Bool) : Statement (.smulh d a b ea eb) := by
  intro hw
  refine ⟨?_, ?_⟩
  · show decode (0x00#6 ++ d ++ a ++ b ++ 3#3 ++ BitVec.ofBool ea ++ BitVec.ofBool eb) (0) = .ok (.smulh d a b ea eb)
    rw [decode_00 _ _ (by simp (disch := decide) only [ext_high, Nat.reduceSub, ext_all])]
    simp (disch := decide) only [dec00, fld, bit, ext_low, ext_high, bit_low, bit_high, ext_all, bit_ofBool, Nat.reduceSub, BitVec.reduceToNat]
  · show isLong (0x00#6 ++ d ++ a ++ b ++ 3#3 ++ BitVec.ofBool ea ++ BitVec.ofBool eb) = false
    simp (disch := decide) only [isLong, fld, ext_low, ext_high, ext_all, Nat.reduceSub, Nat.reduceLT, decide_true, decide_false, BitVec.reduceToNat]

open RoundTrip in
theorem RoundTrip.smulhu (d : BitVec 7) (a : BitVec 7) (b : BitVec 7) (ea : Bool) (eb : Bool) : Statement (.smulhu d a b ea eb) := by
  intro hw
  refine ⟨?_, ?_⟩
  · show decode (0x00#6 ++ d ++ a ++ b ++ 4#3 ++ BitVec.ofBool ea ++ BitVec.ofBool eb) (0) = .ok (.smulhu d a b ea eb)
    rw [decode_00 _ _ (by simp (disch := decide) only [ext_high, Nat.reduceSub, ext_all])]
    simp (disch := decide) only [dec00, fld, bit, ext_low, ext_high, bit_low, bit_high, ext_all, bit_ofBool, Nat.reduceSub, BitVec.reduceToNat]
  · show isLong (0x00#6 ++ d ++ a ++ b ++ 4#3 ++ BitVec.ofBool ea ++ BitVec.ofBool eb) = false
    simp (disch := decide) only [isLong, fld, ext_low, ext_high, ext_all, Nat.reduceSub, Nat.reduceLT, decide_true, decide_false, BitVec.reduceToNat]

open RoundTrip in
theorem RoundTrip.sand (d : BitVec 7) (a : BitVec 7) (b : BitVec 7) (ea : Bool) (eb : Bool) : Statement (.sand d a b ea eb) := by
  intro hw
  refine ⟨?_, ?_⟩
  · show decode (0x00#6 ++ d ++ a ++ b ++ 5#3 ++ BitVec.ofBool ea ++ BitVec.ofBool eb) (0) = .ok (.sand d a b ea eb)
    rw [decode_00 _ _ (by simp (disch := decide) only [ext_high, Nat.reduceSub, ext_all])]
    simp (disch := decide) only [dec00, fld, bit, ext_low, ext_high, bit_low, bit_high, ext_all, bit_ofBool, Nat.reduceSub, BitVec.reduceToNat]
  · show isLong (0x00#6 ++ d ++ a ++ b ++ 5#3 ++ BitVec.ofBool ea ++ BitVec.ofBool eb) = false
    simp (disch := decide) only [isLong, fld, ext_low, ext_high, ext_all, Nat.reduceSub, Nat.reduceLT, decide_true, decide_false, BitVec.reduceToNat]

open RoundTrip in
theorem RoundTrip.sor (d : BitVec 7) (a : BitVec 7) (b : BitVec 7) (ea : Bool) (eb : Bool) : Statement (.sor d a b ea eb) := by
  intro hw
  refine ⟨?_, ?_⟩
  · show decode (0x00#6 ++ d ++ a ++ b ++ 6#3 ++ BitVec.ofBool ea ++ BitVec.ofBool eb) (0) = .ok (.sor d a b ea eb)
    rw [decode_00 _ _ (by simp (disch := decide) only [ext_high, Nat.reduceSub, ext_all])]
    simp (disch := decide) only [dec00, fld, bit, ext_low, ext_high, bit_low, bit_high, ext_all, bit_ofBool, Nat.reduceSub, BitVec.reduceToNat]
  · show isLong (0x00#6 ++ d ++ a ++ b ++ 6#3 ++ BitVec.ofBool ea ++ BitVec.ofBool eb) = false
    simp (disch := decide) only [isLong, fld, ext_low, ext_high, ext_all, Nat.reduceSub, Nat.reduceLT, decide_true, decide_false, BitVec.reduceToNat]

open RoundTrip in
theorem RoundTrip.sxor (d : BitVec 7) (a : BitVec 7) (b : BitVec 7) (ea : Bool) (eb : Bool) : Statement (.sxor d a b ea eb) := by
  intro hw
  refine ⟨?_, ?_⟩
  · show decode (0x00#6 ++ d ++ a ++ b ++ 7#3 ++ BitVec.ofBool ea ++ BitVec.ofBool eb) (0) = .ok (.sxor d a b ea eb)
    rw [decode_00 _ _ (by simp (disch := decide) only [ext_high, Nat.reduceSub, ext_all])]
    simp (disch := decide) only [dec00, fld, bit, ext_low, ext_high, bit_low, bit_high, ext_all, bit_ofBool, Nat.reduceSub, BitVec.reduceToNat]
  · show isLong (0x00#6 ++ d ++ a ++ b ++ 7#3 ++ BitVec.ofBool ea ++ BitVec.ofBool eb) = false
    simp (disch := decide) only [isLong, fld, ext_low, ext_high, ext_all, Nat.reduceSub, Nat.reduceLT, decide_true, decide_false, BitVec.reduceToNat]

open RoundTrip in
theorem RoundTrip.sshl (d : BitVec 7) (a : BitVec 7) (b : BitVec 7) (ea : Bool) (eb : Bool) : Statement (.sshl d a b ea eb) := by
  intro hw
  refine ⟨?_, ?_⟩
  · show decode (0x01#6 ++ d ++ a ++ b ++ 0#3 ++ BitVec.ofBool ea ++ BitVec.ofBool eb) (0) = .ok (.sshl d a b ea eb)
    rw [decode_01 _ _ (by simp (disch := decide) only [ext_high, Nat.reduceSub, ext_all])]
    simp (disch := decide) only [dec01, fld, bit, ext_low, ext_high, bit_low, bit_high, ext_all, bit_ofBool, Nat.reduceSub, BitVec.reduceToNat]
  · show isLong (0x01#6 ++ d ++ a ++ b ++ 0#3 ++ BitVec.ofBool ea ++ BitVec.ofBool eb) = false
    simp (disch := decide) only [isLong, fld, ext_low, ext_high, ext_all, Nat.reduceSub, Nat.reduceLT, decide_true, decide_false, BitVec.reduceToNat]

open RoundTrip in
theorem RoundTrip.sshr (d : BitVec 7) (a : BitVec 7) (b : BitVec 7) (ea : Bool) (eb : Bool) : Statement (.sshr d a b ea eb) := by
  intro hw
  refine ⟨?_, ?_⟩
  · show decode (0x01#6 ++ d ++ a ++ b ++ 1#3 ++ BitVec.ofBool ea ++ BitVec.ofBool eb) (0) = .ok (.sshr d a b ea eb)
    rw [decode_01 _ _ (by simp (disch := decide) only [ext_high, Nat.reduceSub, ext_all])]
    simp (disch := decide) only [dec01, fld, bit, ext_low, ext_high, bit_low, bit_high, ext_all, bit_ofBool, Nat.reduceSub, BitVec.reduceToNat]
  · show isLong (0x01#6 ++ d ++ a ++ b ++ 1#3 ++ BitVec.ofBool ea ++ BitVec.ofBool eb) = false
    simp (disch := decide) only [isLong, fld, ext_low, ext_high, ext_all, Nat.reduceSub, Nat.reduceLT, decide_true, decide_false, BitVec.reduceToNat]

open RoundTrip in
theorem RoundTrip.ssra (d : BitVec 7) (a : BitVec 7) (b : BitVec 7) (ea : Bool) (eb : Bool) : Statement (.ssra d a b ea eb) := by
  intro hw
  refine ⟨?_, ?_⟩
  · show decode (0x01#6 ++ d ++ a ++ b ++ 2#3 ++ BitVec.ofBool ea ++ BitVec.ofBool eb) (0) = .ok (.ssra d a b ea eb)
    rw [decode_01 _ _ (by simp (disch := decide) only [ext_high, Nat.reduceSub, ext_all])]
    simp (disch := decide) only [dec01, fld, bit, ext_low, ext_high, bit_low, bit_high, ext_all, bit_ofBool, Nat.reduceSub, BitVec.reduceToNat]
  · show isLong (0x01#6 ++ d ++ a ++ b ++ 2#3 ++ BitVec.ofBool ea ++ BitVec.ofBool eb) = false
    simp (disch := decide) only [isLong, fld, ext_low, ext_high, ext_all, Nat.reduceSub, Nat.reduceLT, decide_true, decide_false, BitVec.reduceToNat]

open RoundTrip in
theorem RoundTrip.smin (d : BitVec 7) (a : BitVec 7) (b : BitVec 7) (ea : Bool) (eb : Bool) : Statement (.smin d a b ea eb) := by
  intro hw
  refine ⟨?_, ?_⟩
  · show decode (0x01#6 ++ d ++ a ++ b ++ 3#3 ++ BitVec.ofBool ea ++ BitVec.ofBool eb) (0) = .ok (.smin d a b ea eb)
    rw [decode_01 _ _ (by simp (disch := decide) only [ext_high, Nat.reduceSub, ext_all])]
    simp (disch := decide) only [dec01, fld, bit, ext_low, ext_high, bit_low, bit_high, ext_all, bit_ofBool, Nat.reduceSub, BitVec.reduceToNat]
  · show isLong (0x01#6 ++ d ++ a ++ b ++ 3#3 ++ BitVec.ofBool ea ++ BitVec.ofBool eb) = false
    simp (disch := decide) only [isLong, fld, ext_low, ext_high, ext_all, Nat.reduceSub, Nat.reduceLT, decide_true, decide_false, BitVec.reduceToNat]

open RoundTrip in
theorem RoundTrip.smax (d : BitVec 7) (a : BitVec 7) (b : BitVec 7) (ea : Bool) (eb : Bool) : Statement (.smax d a b ea eb) := by
  intro hw
  refine ⟨?_, ?_⟩
  · show decode (0x01#6 ++ d ++ a ++ b ++ 4#3 ++ BitVec.ofBool ea ++ BitVec.ofBool eb) (0) = .ok (.smax d a b ea eb)
    rw [decode_01 _ _ (by simp (disch := decide) only [ext_high, Nat.reduceSub, ext_all])]
    simp (disch := decide) only [dec01, fld, bit, ext_low, ext_high, bit_low, bit_high, ext_all, bit_ofBool, Nat.reduceSub, BitVec.reduceToNat]
  · show isLong (0x01#6 ++ d ++ a ++ b ++ 4#3 ++ BitVec.ofBool ea ++ BitVec.ofBool eb) = false
    simp (disch := decide) only [isLong, fld, ext_low, ext_high, ext_all, Nat.reduceSub, Nat.reduceLT, decide_true, decide_false, BitVec.reduceToNat]

open RoundTrip in
theorem RoundTrip.sminu (d : BitVec 7) (a : BitVec 7) (b : BitVec 7) (ea : Bool) (eb : Bool) : Statement (.sminu d a b ea eb) := by
  intro hw
  refine ⟨?_, ?_⟩
  · show decode (0x01#6 ++ d ++ a ++ b ++ 5#3 ++ BitVec.ofBool ea ++ BitVec.ofBool eb) (0) = .ok (.sminu d a b ea eb)
    rw [decode_01 _ _ (by simp (disch := decide) only [ext_high, Nat.reduceSub, ext_all])]
    simp (disch := decide) only [dec01, fld, bit, ext_low, ext_high, bit_low, bit_high, ext_all, bit_ofBool, Nat.reduceSub, BitVec.reduceToNat]
  · show isLong (0x01#6 ++ d ++ a ++ b ++ 5#3 ++ BitVec.ofBool ea ++ BitVec.ofBool eb) = false
    simp (disch := decide) only [isLong, fld, ext_low, ext_high, ext_all, Nat.reduceSub, Nat.reduceLT, decide_true, decide_false, BitVec.reduceToNat]

open RoundTrip in
theorem RoundTrip.smaxu (d : BitVec 7) (a : BitVec 7) (b : BitVec 7) (ea : Bool) (eb : Bool) : Statement (.smaxu d a b ea eb) := by
  intro hw
  refine ⟨?_, ?_⟩
  · show decode (0x01#6 ++ d ++ a ++ b ++ 6#3 ++ BitVec.ofBool ea ++ BitVec.ofBool eb) (0) = .ok (.smaxu d a b ea eb)
    rw [decode_01 _ _ (by simp (disch := decide) only [ext_high, Nat.reduceSub, ext_all])]
    simp (disch := decide) only [dec01, fld, bit, ext_low, ext_high, bit_low, bit_high, ext_all, bit_ofBool, Nat.reduceSub, BitVec.reduceToNat]
  · show isLong (0x01#6 ++ d ++ a ++ b ++ 6#3 ++ BitVec.ofBool ea ++ BitVec.ofBool eb) = false
    simp (disch := decide) only [isLong, fld, ext_low, ext_high, ext_all, Nat.reduceSub, Nat.reduceLT, decide_true, decide_false, BitVec.reduceToNat]

open RoundTrip in
theorem RoundTrip.sandn (d : BitVec 7) (a : BitVec 7) (b : BitVec 7) (ea : Bool) (eb : Bool) : Statement (.sandn d a b ea eb) := by
  intro hw
  refine ⟨?_, ?_⟩
  · show decode (0x01#6 ++ d ++ a ++ b ++ 7#3 ++ BitVec.ofBool ea ++ BitVec.ofBool eb) (0) = .ok (.sandn d a b ea eb)
    rw [decode_01 _ _ (by simp (disch := decide) only [ext_high, Nat.reduceSub, ext_all])]
    simp (disch := decide) only [dec01, fld, bit, ext_low, ext_high, bit_low, bit_high, ext_all, bit_ofBool, Nat.reduceSub, BitVec.reduceToNat]
  · show isLong (0x01#6 ++ d ++ a ++ b ++ 7#3 ++ BitVec.ofBool ea ++ BitVec.ofBool eb) = false
    simp (disch := decide) only [isLong, fld, ext_low, ext_high, ext_all, Nat.reduceSub, Nat.reduceLT, decide_true, decide_false, BitVec.reduceToNat]

open RoundTrip in
theorem RoundTrip.sceq (d : BitVec 7) (a : BitVec 7) (b : BitVec 7) (ea : Bool) (eb : Bool) : Statement (.sceq d a b ea eb) := by
  intro hw
  refine ⟨?_, ?_⟩
  · show decode (0x02#6 ++ d ++ a ++ b ++ 0#3 ++ BitVec.ofBool ea ++ BitVec.ofBool eb) (0) = .ok (.sceq d a b ea eb)
    rw [decode_02 _ _ (by simp (disch := decide) only [ext_high, Nat.reduceSub, ext_all])]
    simp (disch := decide) only [dec02, fld, bit, ext_low, ext_high, bit_low, bit_high, ext_all, bit_ofBool, Nat.reduceSub, BitVec.reduceToNat]
  · show isLong (0x02#6 ++ d ++ a ++ b ++ 0#3 ++ BitVec.ofBool ea ++ BitVec.ofBool eb) = false
    simp (disch := decide) only [isLong, fld, ext_low, ext_high, ext_all, Nat.reduceSub, Nat.reduceLT, decide_true, decide_false, BitVec.reduceToNat]

open RoundTrip in
theorem RoundTrip.scne (d : BitVec 7) (a : BitVec 7) (b : BitVec 7) (ea : Bool) (eb : Bool) : Statement (.scne d a b ea eb) := by
  intro hw
  refine ⟨?_, ?_⟩
  · show decode (0x02#6 ++ d ++ a ++ b ++ 1#3 ++ BitVec.ofBool ea ++ BitVec.ofBool eb) (0) = .ok (.scne d a b ea eb)
    rw [decode_02 _ _ (by simp (disch := decide) only [ext_high, Nat.reduceSub, ext_all])]
    simp (disch := decide) only [dec02, fld, bit, ext_low, ext_high, bit_low, bit_high, ext_all, bit_ofBool, Nat.reduceSub, BitVec.reduceToNat]
  · show isLong (0x02#6 ++ d ++ a ++ b ++ 1#3 ++ BitVec.ofBool ea ++ BitVec.ofBool eb) = false
    simp (disch := decide) only [isLong, fld, ext_low, ext_high, ext_all, Nat.reduceSub, Nat.reduceLT, decide_true, decide_false, BitVec.reduceToNat]

open RoundTrip in
theorem RoundTrip.sclt (d : BitVec 7) (a : BitVec 7) (b : BitVec 7) (ea : Bool) (eb : Bool) : Statement (.sclt d a b ea eb) := by
  intro hw
  refine ⟨?_, ?_⟩
  · show decode (0x02#6 ++ d ++ a ++ b ++ 2#3 ++ BitVec.ofBool ea ++ BitVec.ofBool eb) (0) = .ok (.sclt d a b ea eb)
    rw [decode_02 _ _ (by simp (disch := decide) only [ext_high, Nat.reduceSub, ext_all])]
    simp (disch := decide) only [dec02, fld, bit, ext_low, ext_high, bit_low, bit_high, ext_all, bit_ofBool, Nat.reduceSub, BitVec.reduceToNat]
  · show isLong (0x02#6 ++ d ++ a ++ b ++ 2#3 ++ BitVec.ofBool ea ++ BitVec.ofBool eb) = false
    simp (disch := decide) only [isLong, fld, ext_low, ext_high, ext_all, Nat.reduceSub, Nat.reduceLT, decide_true, decide_false, BitVec.reduceToNat]

open RoundTrip in
theorem RoundTrip.scle (d : BitVec 7) (a : BitVec 7) (b : BitVec 7) (ea : Bool) (eb : Bool) : Statement (.scle d a b ea eb) := by
  intro hw
  refine ⟨?_, ?_⟩
  · show decode (0x02#6 ++ d ++ a ++ b ++ 3#3 ++ BitVec.ofBool ea ++ BitVec.ofBool eb) (0) = .ok (.scle d a b ea eb)
    rw [decode_02 _ _ (by simp (disch := decide) only [ext_high, Nat.reduceSub, ext_all])]
    simp (disch := decide) only [dec02, fld, bit, ext_low, ext_high, bit_low, bit_high, ext_all, bit_ofBool, Nat.reduceSub, BitVec.reduceToNat]
  · show isLong (0x02#6 ++ d ++ a ++ b ++ 3#3 ++ BitVec.ofBool ea ++ BitVec.ofBool eb) = false
    simp (disch := decide) only [isLong, fld, ext_low, ext_high, ext_all, Nat.reduceSub, Nat.reduceLT, decide_true, decide_false, BitVec.reduceToNat]

open RoundTrip in
theorem RoundTrip.scltu (d : BitVec 7) (a : BitVec 7) (b : BitVec 7) (ea : Bool) (eb : Bool) : Statement (.scltu d a b ea eb) := by
  intro hw
  refine ⟨?_, ?_⟩
  · show decode (0x02#6 ++ d ++ a ++ b ++ 4#3 ++ BitVec.ofBool ea ++ BitVec.ofBool eb) (0) = .ok (.scltu d a b ea eb)
    rw [decode_02 _ _ (by simp (disch := decide) only [ext_high, Nat.reduceSub, ext_all])]
    simp (disch := decide) only [dec02, fld, bit, ext_low, ext_high, bit_low, bit_high, ext_all, bit_ofBool, Nat.reduceSub, BitVec.reduceToNat]
  · show isLong (0x02#6 ++ d ++ a ++ b ++ 4#3 ++ BitVec.ofBool ea ++ BitVec.ofBool eb) = false
    simp (disch := decide) only [isLong, fld, ext_low, ext_high, ext_all, Nat.reduceSub, Nat.reduceLT, decide_true, decide_false, BitVec.reduceToNat]

open RoundTrip in
theorem RoundTrip.scleu (d : BitVec 7) (a : BitVec 7) (b : BitVec 7) (ea : Bool) (eb : Bool) : Statement (.scleu d a b ea eb) := by
  intro hw
  refine ⟨?_, ?_⟩
  · show decode (0x02#6 ++ d ++ a ++ b ++ 5#3 ++ BitVec.ofBool ea ++ BitVec.ofBool eb) (0) = .ok (.scleu d a b ea eb)
    rw [decode_02 _ _ (by simp (disch := decide) only [ext_high, Nat.reduceSub, ext_all])]
    simp (disch := decide) only [dec02, fld, bit, ext_low, ext_high, bit_low, bit_high, ext_all, bit_ofBool, Nat.reduceSub, BitVec.reduceToNat]
  · show isLong (0x02#6 ++ d ++ a ++ b ++ 5#3 ++ BitVec.ofBool ea ++ BitVec.ofBool eb) = false
    simp (disch := decide) only [isLong, fld, ext_low, ext_high, ext_all, Nat.reduceSub, Nat.reduceLT, decide_true, decide_false, BitVec.reduceToNat]

open RoundTrip in
theorem RoundTrip.ssel (d : BitVec 7) (a : BitVec 7) (b : BitVec 7) (ea : Bool) (eb : Bool) : Statement (.ssel d a b ea eb) := by
  intro hw
  refine ⟨?_, ?_⟩
  · show decode (0x02#6 ++ d ++ a ++ b ++ 6#3 ++ BitVec.ofBool ea ++ BitVec.ofBool eb) (0) = .ok (.ssel d a b ea eb)
    rw [decode_02 _ _ (by simp (disch := decide) only [ext_high, Nat.reduceSub, ext_all])]
    simp (disch := decide) only [dec02, fld, bit, ext_low, ext_high, bit_low, bit_high, ext_all, bit_ofBool, Nat.reduceSub, BitVec.reduceToNat]
  · show isLong (0x02#6 ++ d ++ a ++ b ++ 6#3 ++ BitVec.ofBool ea ++ BitVec.ofBool eb) = false
    simp (disch := decide) only [isLong, fld, ext_low, ext_high, ext_all, Nat.reduceSub, Nat.reduceLT, decide_true, decide_false, BitVec.reduceToNat]

open RoundTrip in
theorem RoundTrip.scbit (d : BitVec 7) (a : BitVec 7) (b : BitVec 7) (ea : Bool) (eb : Bool) : Statement (.scbit d a b ea eb) := by
  intro hw
  refine ⟨?_, ?_⟩
  · show decode (0x02#6 ++ d ++ a ++ b ++ 7#3 ++ BitVec.ofBool ea ++ BitVec.ofBool eb) (0) = .ok (.scbit d a b ea eb)
    rw [decode_02 _ _ (by simp (disch := decide) only [ext_high, Nat.reduceSub, ext_all])]
    simp (disch := decide) only [dec02, fld, bit, ext_low, ext_high, bit_low, bit_high, ext_all, bit_ofBool, Nat.reduceSub, BitVec.reduceToNat]
  · show isLong (0x02#6 ++ d ++ a ++ b ++ 7#3 ++ BitVec.ofBool ea ++ BitVec.ofBool eb) = false
    simp (disch := decide) only [isLong, fld, ext_low, ext_high, ext_all, Nat.reduceSub, Nat.reduceLT, decide_true, decide_false, BitVec.reduceToNat]

open RoundTrip in
theorem RoundTrip.saddi (d : BitVec 7) (a : BitVec 7) (imm : BitVec 8) (ea : Bool) : Statement (.saddi d a imm ea) := by
  intro hw
  refine ⟨?_, ?_⟩
  · show decode (0x03#6 ++ d ++ a ++ imm ++ 0#3 ++ BitVec.ofBool ea) (0) = .ok (.saddi d a imm ea)
    rw [decode_03 _ _ (by simp (disch := decide) only [ext_high, Nat.reduceSub, ext_all])]
    simp (disch := decide) only [dec03, fld, bit, ext_low, ext_high, bit_low, bit_high, ext_all, bit_ofBool, Nat.reduceSub, BitVec.reduceToNat]
  · show isLong (0x03#6 ++ d ++ a ++ imm ++ 0#3 ++ BitVec.ofBool ea) = false
    simp (disch := decide) only [isLong, fld, ext_low, ext_high, ext_all, Nat.reduceSub, Nat.reduceLT, decide_true, decide_false, BitVec.reduceToNat]

open RoundTrip in
theorem RoundTrip.sandi (d : BitVec 7) (a : BitVec 7) (imm : BitVec 8) (ea : Bool) : Statement (.sandi d a imm ea) := by
  intro hw
  refine ⟨?_, ?_⟩
  · show decode (0x03#6 ++ d ++ a ++ imm ++ 1#3 ++ BitVec.ofBool ea) (0) = .ok (.sandi d a imm ea)
    rw [decode_03 _ _ (by simp (disch := decide) only [ext_high, Nat.reduceSub, ext_all])]
    simp (disch := decide) only [dec03, fld, bit, ext_low, ext_high, bit_low, bit_high, ext_all, bit_ofBool, Nat.reduceSub, BitVec.reduceToNat]
  · show isLong (0x03#6 ++ d ++ a ++ imm ++ 1#3 ++ BitVec.ofBool ea) = false
    simp (disch := decide) only [isLong, fld, ext_low, ext_high, ext_all, Nat.reduceSub, Nat.reduceLT, decide_true, decide_false, BitVec.reduceToNat]

open RoundTrip in
theorem RoundTrip.sori (d : BitVec 7) (a : BitVec 7) (imm : BitVec 8) (ea : Bool) : Statement (.sori d a imm ea) := by
  intro hw
  refine ⟨?_, ?_⟩
  · show decode (0x03#6 ++ d ++ a ++ imm ++ 2#3 ++ BitVec.ofBool ea) (0) = .ok (.sori d a imm ea)
    rw [decode_03 _ _ (by simp (disch := decide) only [ext_high, Nat.reduceSub, ext_all])]
    simp (disch := decide) only [dec03, fld, bit, ext_low, ext_high, bit_low, bit_high, ext_all, bit_ofBool, Nat.reduceSub, BitVec.reduceToNat]
  · show isLong (0x03#6 ++ d ++ a ++ imm ++ 2#3 ++ BitVec.ofBool ea) = false
    simp (disch := decide) only [isLong, fld, ext_low, ext_high, ext_all, Nat.reduceSub, Nat.reduceLT, decide_true, decide_false, BitVec.reduceToNat]

open RoundTrip in
theorem RoundTrip.sxori (d : BitVec 7) (a : BitVec 7) (imm : BitVec 8) (ea : Bool) : Statement (.sxori d a imm ea) := by
  intro hw
  refine ⟨?_, ?_⟩
  · show decode (0x03#6 ++ d ++ a ++ imm ++ 3#3 ++ BitVec.ofBool ea) (0) = .ok (.sxori d a imm ea)
    rw [decode_03 _ _ (by simp (disch := decide) only [ext_high, Nat.reduceSub, ext_all])]
    simp (disch := decide) only [dec03, fld, bit, ext_low, ext_high, bit_low, bit_high, ext_all, bit_ofBool, Nat.reduceSub, BitVec.reduceToNat]
  · show isLong (0x03#6 ++ d ++ a ++ imm ++ 3#3 ++ BitVec.ofBool ea) = false
    simp (disch := decide) only [isLong, fld, ext_low, ext_high, ext_all, Nat.reduceSub, Nat.reduceLT, decide_true, decide_false, BitVec.reduceToNat]

open RoundTrip in
theorem RoundTrip.sshli (d : BitVec 7) (a : BitVec 7) (imm : BitVec 8) (ea : Bool) : Statement (.sshli d a imm ea) := by
  intro hw
  refine ⟨?_, ?_⟩
  · show decode (0x03#6 ++ d ++ a ++ imm ++ 4#3 ++ BitVec.ofBool ea) (0) = .ok (.sshli d a imm ea)
    rw [decode_03 _ _ (by simp (disch := decide) only [ext_high, Nat.reduceSub, ext_all])]
    simp (disch := decide) only [dec03, fld, bit, ext_low, ext_high, bit_low, bit_high, ext_all, bit_ofBool, Nat.reduceSub, BitVec.reduceToNat]
    rw [if_pos (of_decide_eq_true hw)]
  · show isLong (0x03#6 ++ d ++ a ++ imm ++ 4#3 ++ BitVec.ofBool ea) = false
    simp (disch := decide) only [isLong, fld, ext_low, ext_high, ext_all, Nat.reduceSub, Nat.reduceLT, decide_true, decide_false, BitVec.reduceToNat]

open RoundTrip in
theorem RoundTrip.sshri (d : BitVec 7) (a : BitVec 7) (imm : BitVec 8) (ea : Bool) : Statement (.sshri d a imm ea) := by
  intro hw
  refine ⟨?_, ?_⟩
  · show decode (0x03#6 ++ d ++ a ++ imm ++ 5#3 ++ BitVec.ofBool ea) (0) = .ok (.sshri d a imm ea)
    rw [decode_03 _ _ (by simp (disch := decide) only [ext_high, Nat.reduceSub, ext_all])]
    simp (disch := decide) only [dec03, fld, bit, ext_low, ext_high, bit_low, bit_high, ext_all, bit_ofBool, Nat.reduceSub, BitVec.reduceToNat]
    rw [if_pos (of_decide_eq_true hw)]
  · show isLong (0x03#6 ++ d ++ a ++ imm ++ 5#3 ++ BitVec.ofBool ea) = false
    simp (disch := decide) only [isLong, fld, ext_low, ext_high, ext_all, Nat.reduceSub, Nat.reduceLT, decide_true, decide_false, BitVec.reduceToNat]

open RoundTrip in
theorem RoundTrip.ssrai (d : BitVec 7) (a : BitVec 7) (imm : BitVec 8) (ea : Bool) : Statement (.ssrai d a imm ea) := by
  intro hw
  refine ⟨?_, ?_⟩
  · show decode (0x03#6 ++ d ++ a ++ imm ++ 6#3 ++ BitVec.ofBool ea) (0) = .ok (.ssrai d a imm ea)
    rw [decode_03 _ _ (by simp (disch := decide) only [ext_high, Nat.reduceSub, ext_all])]
    simp (disch := decide) only [dec03, fld, bit, ext_low, ext_high, bit_low, bit_high, ext_all, bit_ofBool, Nat.reduceSub, BitVec.reduceToNat]
    rw [if_pos (of_decide_eq_true hw)]
  · show isLong (0x03#6 ++ d ++ a ++ imm ++ 6#3 ++ BitVec.ofBool ea) = false
    simp (disch := decide) only [isLong, fld, ext_low, ext_high, ext_all, Nat.reduceSub, Nat.reduceLT, decide_true, decide_false, BitVec.reduceToNat]

open RoundTrip in
theorem RoundTrip.sclti (d : BitVec 7) (a : BitVec 7) (imm : BitVec 8) (ea : Bool) : Statement (.sclti d a imm ea) := by
  intro hw
  refine ⟨?_, ?_⟩
  · show decode (0x03#6 ++ d ++ a ++ imm ++ 7#3 ++ BitVec.ofBool ea) (0) = .ok (.sclti d a imm ea)
    rw [decode_03 _ _ (by simp (disch := decide) only [ext_high, Nat.reduceSub, ext_all])]
    simp (disch := decide) only [dec03, fld, bit, ext_low, ext_high, bit_low, bit_high, ext_all, bit_ofBool, Nat.reduceSub, BitVec.reduceToNat]
  · show isLong (0x03#6 ++ d ++ a ++ imm ++ 7#3 ++ BitVec.ofBool ea) = false
    simp (disch := decide) only [isLong, fld, ext_low, ext_high, ext_all, Nat.reduceSub, Nat.reduceLT, decide_true, decide_false, BitVec.reduceToNat]

open RoundTrip in
theorem RoundTrip.smovi (d : BitVec 7) (imm : BitVec 19) : Statement (.smovi d imm) := by
  intro hw
  refine ⟨?_, ?_⟩
  · show decode (0x04#6 ++ d ++ imm) (0) = .ok (.smovi d imm)
    rw [decode_04 _ _ (by simp (disch := decide) only [ext_high, Nat.reduceSub, ext_all])]
    simp (disch := decide) only [dec04, fld, bit, ext_low, ext_high, bit_low, bit_high, ext_all, bit_ofBool, Nat.reduceSub, BitVec.reduceToNat]
  · show isLong (0x04#6 ++ d ++ imm) = false
    simp (disch := decide) only [isLong, fld, ext_low, ext_high, ext_all, Nat.reduceSub, Nat.reduceLT, decide_true, decide_false, BitVec.reduceToNat]

open RoundTrip in
theorem RoundTrip.sinsh (d : BitVec 7) (k : BitVec 2) (imm : BitVec 16) : Statement (.sinsh d k imm) := by
  intro hw
  refine ⟨?_, ?_⟩
  · show decode (0x05#6 ++ d ++ k ++ 0#1 ++ imm) (0) = .ok (.sinsh d k imm)
    rw [decode_05 _ _ (by simp (disch := decide) only [ext_high, Nat.reduceSub, ext_all])]
    simp (disch := decide) only [dec05, fld, bit, ext_low, ext_high, bit_low, bit_high, ext_all, bit_ofBool, Nat.reduceSub, BitVec.reduceToNat]
    exact checked_ok _ _ (and_append_zero (m := 16) (n := 16) _ _ _ (and_append_zero (m := 15) (n := 1) _ _ _ (and_append_zero (m := 13) (n := 2) _ _ _ (and_append_zero (m := 6) (n := 7) _ _ _ (BitVec.and_zero) (BitVec.and_zero)) (BitVec.and_zero)) (BitVec.zero_and)) (BitVec.and_zero))
  · show isLong (0x05#6 ++ d ++ k ++ 0#1 ++ imm) = false
    simp (disch := decide) only [isLong, fld, ext_low, ext_high, ext_all, Nat.reduceSub, Nat.reduceLT, decide_true, decide_false, BitVec.reduceToNat]

open RoundTrip in
theorem RoundTrip.sgetx (d : BitVec 7) : Statement (.sgetx d) := by
  intro hw
  refine ⟨?_, ?_⟩
  · show decode (0x06#6 ++ d ++ 0#14 ++ 0#3 ++ 0#2) (0) = .ok (.sgetx d)
    rw [decode_06 _ _ (by simp (disch := decide) only [ext_high, Nat.reduceSub, ext_all])]
    simp (disch := decide) only [dec06, fld, bit, ext_low, ext_high, bit_low, bit_high, ext_all, bit_ofBool, Nat.reduceSub, BitVec.reduceToNat]
    exact checked_ok _ _ (and_append_zero (m := 30) (n := 2) _ _ _ (and_append_zero (m := 27) (n := 3) _ _ _ (and_append_zero (m := 13) (n := 14) _ _ _ (and_append_zero (m := 6) (n := 7) _ _ _ (BitVec.and_zero) (BitVec.and_zero)) (BitVec.zero_and)) (BitVec.zero_and)) (BitVec.zero_and))
  · show isLong (0x06#6 ++ d ++ 0#14 ++ 0#3 ++ 0#2) = false
    simp (disch := decide) only [isLong, fld, ext_low, ext_high, ext_all, Nat.reduceSub, Nat.reduceLT, decide_true, decide_false, BitVec.reduceToNat]

open RoundTrip in
theorem RoundTrip.ssetx (a : BitVec 7) (ea : Bool) : Statement (.ssetx a ea) := by
  intro hw
  refine ⟨?_, ?_⟩
  · show decode (0x06#6 ++ 0#7 ++ a ++ 0#7 ++ 1#3 ++ BitVec.ofBool ea ++ 0#1) (0) = .ok (.ssetx a ea)
    rw [decode_06 _ _ (by simp (disch := decide) only [ext_high, Nat.reduceSub, ext_all])]
    simp (disch := decide) only [dec06, fld, bit, ext_low, ext_high, bit_low, bit_high, ext_all, bit_ofBool, Nat.reduceSub, BitVec.reduceToNat]
    exact checked_ok _ _ (and_append_zero (m := 31) (n := 1) _ _ _ (and_append_zero (m := 30) (n := 1) _ _ _ (and_append_zero (m := 27) (n := 3) _ _ _ (and_append_zero (m := 20) (n := 7) _ _ _ (and_append_zero (m := 13) (n := 7) _ _ _ (and_append_zero (m := 6) (n := 7) _ _ _ (BitVec.and_zero) (BitVec.zero_and)) (BitVec.and_zero)) (BitVec.zero_and)) (BitVec.and_zero)) (BitVec.and_zero)) (BitVec.zero_and))
  · show isLong (0x06#6 ++ 0#7 ++ a ++ 0#7 ++ 1#3 ++ BitVec.ofBool ea ++ 0#1) = false
    simp (disch := decide) only [isLong, fld, ext_low, ext_high, ext_all, Nat.reduceSub, Nat.reduceLT, decide_true, decide_false, BitVec.reduceToNat]

open RoundTrip in
theorem RoundTrip.sandx (d : BitVec 7) (a : BitVec 7) (ea : Bool) : Statement (.sandx d a ea) := by
  intro hw
  refine ⟨?_, ?_⟩
  · show decode (0x06#6 ++ d ++ a ++ 0#7 ++ 2#3 ++ BitVec.ofBool ea ++ 0#1) (0) = .ok (.sandx d a ea)
    rw [decode_06 _ _ (by simp (disch := decide) only [ext_high, Nat.reduceSub, ext_all])]
    simp (disch := decide) only [dec06, fld, bit, ext_low, ext_high, bit_low, bit_high, ext_all, bit_ofBool, Nat.reduceSub, BitVec.reduceToNat]
    exact checked_ok _ _ (and_append_zero (m := 31) (n := 1) _ _ _ (and_append_zero (m := 30) (n := 1) _ _ _ (and_append_zero (m := 27) (n := 3) _ _ _ (and_append_zero (m := 20) (n := 7) _ _ _ (and_append_zero (m := 13) (n := 7) _ _ _ (and_append_zero (m := 6) (n := 7) _ _ _ (BitVec.and_zero) (BitVec.and_zero)) (BitVec.and_zero)) (BitVec.zero_and)) (BitVec.and_zero)) (BitVec.and_zero)) (BitVec.zero_and))
  · show isLong (0x06#6 ++ d ++ a ++ 0#7 ++ 2#3 ++ BitVec.ofBool ea ++ 0#1) = false
    simp (disch := decide) only [isLong, fld, ext_low, ext_high, ext_all, Nat.reduceSub, Nat.reduceLT, decide_true, decide_false, BitVec.reduceToNat]

open RoundTrip in
theorem RoundTrip.sandnx (d : BitVec 7) (a : BitVec 7) (ea : Bool) : Statement (.sandnx d a ea) := by
  intro hw
  refine ⟨?_, ?_⟩
  · show decode (0x06#6 ++ d ++ a ++ 0#7 ++ 3#3 ++ BitVec.ofBool ea ++ 0#1) (0) = .ok (.sandnx d a ea)
    rw [decode_06 _ _ (by simp (disch := decide) only [ext_high, Nat.reduceSub, ext_all])]
    simp (disch := decide) only [dec06, fld, bit, ext_low, ext_high, bit_low, bit_high, ext_all, bit_ofBool, Nat.reduceSub, BitVec.reduceToNat]
    exact checked_ok _ _ (and_append_zero (m := 31) (n := 1) _ _ _ (and_append_zero (m := 30) (n := 1) _ _ _ (and_append_zero (m := 27) (n := 3) _ _ _ (and_append_zero (m := 20) (n := 7) _ _ _ (and_append_zero (m := 13) (n := 7) _ _ _ (and_append_zero (m := 6) (n := 7) _ _ _ (BitVec.and_zero) (BitVec.and_zero)) (BitVec.and_zero)) (BitVec.zero_and)) (BitVec.and_zero)) (BitVec.and_zero)) (BitVec.zero_and))
  · show isLong (0x06#6 ++ d ++ a ++ 0#7 ++ 3#3 ++ BitVec.ofBool ea ++ 0#1) = false
    simp (disch := decide) only [isLong, fld, ext_low, ext_high, ext_all, Nat.reduceSub, Nat.reduceLT, decide_true, decide_false, BitVec.reduceToNat]

open RoundTrip in
theorem RoundTrip.sorx (d : BitVec 7) (a : BitVec 7) (ea : Bool) : Statement (.sorx d a ea) := by
  intro hw
  refine ⟨?_, ?_⟩
  · show decode (0x06#6 ++ d ++ a ++ 0#7 ++ 4#3 ++ BitVec.ofBool ea ++ 0#1) (0) = .ok (.sorx d a ea)
    rw [decode_06 _ _ (by simp (disch := decide) only [ext_high, Nat.reduceSub, ext_all])]
    simp (disch := decide) only [dec06, fld, bit, ext_low, ext_high, bit_low, bit_high, ext_all, bit_ofBool, Nat.reduceSub, BitVec.reduceToNat]
    exact checked_ok _ _ (and_append_zero (m := 31) (n := 1) _ _ _ (and_append_zero (m := 30) (n := 1) _ _ _ (and_append_zero (m := 27) (n := 3) _ _ _ (and_append_zero (m := 20) (n := 7) _ _ _ (and_append_zero (m := 13) (n := 7) _ _ _ (and_append_zero (m := 6) (n := 7) _ _ _ (BitVec.and_zero) (BitVec.and_zero)) (BitVec.and_zero)) (BitVec.zero_and)) (BitVec.and_zero)) (BitVec.and_zero)) (BitVec.zero_and))
  · show isLong (0x06#6 ++ d ++ a ++ 0#7 ++ 4#3 ++ BitVec.ofBool ea ++ 0#1) = false
    simp (disch := decide) only [isLong, fld, ext_low, ext_high, ext_all, Nat.reduceSub, Nat.reduceLT, decide_true, decide_false, BitVec.reduceToNat]

open RoundTrip in
theorem RoundTrip.spopc (d : BitVec 7) (a : BitVec 7) (ea : Bool) : Statement (.spopc d a ea) := by
  intro hw
  refine ⟨?_, ?_⟩
  · show decode (0x06#6 ++ d ++ a ++ 0#7 ++ 5#3 ++ BitVec.ofBool ea ++ 0#1) (0) = .ok (.spopc d a ea)
    rw [decode_06 _ _ (by simp (disch := decide) only [ext_high, Nat.reduceSub, ext_all])]
    simp (disch := decide) only [dec06, fld, bit, ext_low, ext_high, bit_low, bit_high, ext_all, bit_ofBool, Nat.reduceSub, BitVec.reduceToNat]
    exact checked_ok _ _ (and_append_zero (m := 31) (n := 1) _ _ _ (and_append_zero (m := 30) (n := 1) _ _ _ (and_append_zero (m := 27) (n := 3) _ _ _ (and_append_zero (m := 20) (n := 7) _ _ _ (and_append_zero (m := 13) (n := 7) _ _ _ (and_append_zero (m := 6) (n := 7) _ _ _ (BitVec.and_zero) (BitVec.and_zero)) (BitVec.and_zero)) (BitVec.zero_and)) (BitVec.and_zero)) (BitVec.and_zero)) (BitVec.zero_and))
  · show isLong (0x06#6 ++ d ++ a ++ 0#7 ++ 5#3 ++ BitVec.ofBool ea ++ 0#1) = false
    simp (disch := decide) only [isLong, fld, ext_low, ext_high, ext_all, Nat.reduceSub, Nat.reduceLT, decide_true, decide_false, BitVec.reduceToNat]

open RoundTrip in
theorem RoundTrip.sffs (d : BitVec 7) (a : BitVec 7) (ea : Bool) : Statement (.sffs d a ea) := by
  intro hw
  refine ⟨?_, ?_⟩
  · show decode (0x06#6 ++ d ++ a ++ 0#7 ++ 6#3 ++ BitVec.ofBool ea ++ 0#1) (0) = .ok (.sffs d a ea)
    rw [decode_06 _ _ (by simp (disch := decide) only [ext_high, Nat.reduceSub, ext_all])]
    simp (disch := decide) only [dec06, fld, bit, ext_low, ext_high, bit_low, bit_high, ext_all, bit_ofBool, Nat.reduceSub, BitVec.reduceToNat]
    exact checked_ok _ _ (and_append_zero (m := 31) (n := 1) _ _ _ (and_append_zero (m := 30) (n := 1) _ _ _ (and_append_zero (m := 27) (n := 3) _ _ _ (and_append_zero (m := 20) (n := 7) _ _ _ (and_append_zero (m := 13) (n := 7) _ _ _ (and_append_zero (m := 6) (n := 7) _ _ _ (BitVec.and_zero) (BitVec.and_zero)) (BitVec.and_zero)) (BitVec.zero_and)) (BitVec.and_zero)) (BitVec.and_zero)) (BitVec.zero_and))
  · show isLong (0x06#6 ++ d ++ a ++ 0#7 ++ 6#3 ++ BitVec.ofBool ea ++ 0#1) = false
    simp (disch := decide) only [isLong, fld, ext_low, ext_high, ext_all, Nat.reduceSub, Nat.reduceLT, decide_true, decide_false, BitVec.reduceToNat]

open RoundTrip in
theorem RoundTrip.sfullx (d : BitVec 7) : Statement (.sfullx d) := by
  intro hw
  refine ⟨?_, ?_⟩
  · show decode (0x06#6 ++ d ++ 0#14 ++ 7#3 ++ 0#2) (0) = .ok (.sfullx d)
    rw [decode_06 _ _ (by simp (disch := decide) only [ext_high, Nat.reduceSub, ext_all])]
    simp (disch := decide) only [dec06, fld, bit, ext_low, ext_high, bit_low, bit_high, ext_all, bit_ofBool, Nat.reduceSub, BitVec.reduceToNat]
    exact checked_ok _ _ (and_append_zero (m := 30) (n := 2) _ _ _ (and_append_zero (m := 27) (n := 3) _ _ _ (and_append_zero (m := 13) (n := 14) _ _ _ (and_append_zero (m := 6) (n := 7) _ _ _ (BitVec.and_zero) (BitVec.and_zero)) (BitVec.zero_and)) (BitVec.and_zero)) (BitVec.zero_and))
  · show isLong (0x06#6 ++ d ++ 0#14 ++ 7#3 ++ 0#2) = false
    simp (disch := decide) only [isLong, fld, ext_low, ext_high, ext_all, Nat.reduceSub, Nat.reduceLT, decide_true, decide_false, BitVec.reduceToNat]

open RoundTrip in
theorem RoundTrip.sclz (d : BitVec 7) (a : BitVec 7) (ea : Bool) : Statement (.sclz d a ea) := by
  intro hw
  refine ⟨?_, ?_⟩
  · show decode (0x07#6 ++ d ++ a ++ 0#7 ++ 0#3 ++ BitVec.ofBool ea ++ 0#1) (0) = .ok (.sclz d a ea)
    rw [decode_07 _ _ (by simp (disch := decide) only [ext_high, Nat.reduceSub, ext_all])]
    simp (disch := decide) only [dec07, fld, bit, ext_low, ext_high, bit_low, bit_high, ext_all, bit_ofBool, Nat.reduceSub, BitVec.reduceToNat]
    exact checked_ok _ _ (and_append_zero (m := 31) (n := 1) _ _ _ (and_append_zero (m := 30) (n := 1) _ _ _ (and_append_zero (m := 27) (n := 3) _ _ _ (and_append_zero (m := 20) (n := 7) _ _ _ (and_append_zero (m := 13) (n := 7) _ _ _ (and_append_zero (m := 6) (n := 7) _ _ _ (BitVec.and_zero) (BitVec.and_zero)) (BitVec.and_zero)) (BitVec.zero_and)) (BitVec.zero_and)) (BitVec.and_zero)) (BitVec.zero_and))
  · show isLong (0x07#6 ++ d ++ a ++ 0#7 ++ 0#3 ++ BitVec.ofBool ea ++ 0#1) = false
    simp (disch := decide) only [isLong, fld, ext_low, ext_high, ext_all, Nat.reduceSub, Nat.reduceLT, decide_true, decide_false, BitVec.reduceToNat]

open RoundTrip in
theorem RoundTrip.sctz (d : BitVec 7) (a : BitVec 7) (ea : Bool) : Statement (.sctz d a ea) := by
  intro hw
  refine ⟨?_, ?_⟩
  · show decode (0x07#6 ++ d ++ a ++ 0#7 ++ 1#3 ++ BitVec.ofBool ea ++ 0#1) (0) = .ok (.sctz d a ea)
    rw [decode_07 _ _ (by simp (disch := decide) only [ext_high, Nat.reduceSub, ext_all])]
    simp (disch := decide) only [dec07, fld, bit, ext_low, ext_high, bit_low, bit_high, ext_all, bit_ofBool, Nat.reduceSub, BitVec.reduceToNat]
    exact checked_ok _ _ (and_append_zero (m := 31) (n := 1) _ _ _ (and_append_zero (m := 30) (n := 1) _ _ _ (and_append_zero (m := 27) (n := 3) _ _ _ (and_append_zero (m := 20) (n := 7) _ _ _ (and_append_zero (m := 13) (n := 7) _ _ _ (and_append_zero (m := 6) (n := 7) _ _ _ (BitVec.and_zero) (BitVec.and_zero)) (BitVec.and_zero)) (BitVec.zero_and)) (BitVec.and_zero)) (BitVec.and_zero)) (BitVec.zero_and))
  · show isLong (0x07#6 ++ d ++ a ++ 0#7 ++ 1#3 ++ BitVec.ofBool ea ++ 0#1) = false
    simp (disch := decide) only [isLong, fld, ext_low, ext_high, ext_all, Nat.reduceSub, Nat.reduceLT, decide_true, decide_false, BitVec.reduceToNat]

open RoundTrip in
theorem RoundTrip.sbrev (d : BitVec 7) (a : BitVec 7) (ea : Bool) : Statement (.sbrev d a ea) := by
  intro hw
  refine ⟨?_, ?_⟩
  · show decode (0x07#6 ++ d ++ a ++ 0#7 ++ 2#3 ++ BitVec.ofBool ea ++ 0#1) (0) = .ok (.sbrev d a ea)
    rw [decode_07 _ _ (by simp (disch := decide) only [ext_high, Nat.reduceSub, ext_all])]
    simp (disch := decide) only [dec07, fld, bit, ext_low, ext_high, bit_low, bit_high, ext_all, bit_ofBool, Nat.reduceSub, BitVec.reduceToNat]
    exact checked_ok _ _ (and_append_zero (m := 31) (n := 1) _ _ _ (and_append_zero (m := 30) (n := 1) _ _ _ (and_append_zero (m := 27) (n := 3) _ _ _ (and_append_zero (m := 20) (n := 7) _ _ _ (and_append_zero (m := 13) (n := 7) _ _ _ (and_append_zero (m := 6) (n := 7) _ _ _ (BitVec.and_zero) (BitVec.and_zero)) (BitVec.and_zero)) (BitVec.zero_and)) (BitVec.and_zero)) (BitVec.and_zero)) (BitVec.zero_and))
  · show isLong (0x07#6 ++ d ++ a ++ 0#7 ++ 2#3 ++ BitVec.ofBool ea ++ 0#1) = false
    simp (disch := decide) only [isLong, fld, ext_low, ext_high, ext_all, Nat.reduceSub, Nat.reduceLT, decide_true, decide_false, BitVec.reduceToNat]

open RoundTrip in
theorem RoundTrip.sbswap (d : BitVec 7) (a : BitVec 7) (ea : Bool) : Statement (.sbswap d a ea) := by
  intro hw
  refine ⟨?_, ?_⟩
  · show decode (0x07#6 ++ d ++ a ++ 0#7 ++ 3#3 ++ BitVec.ofBool ea ++ 0#1) (0) = .ok (.sbswap d a ea)
    rw [decode_07 _ _ (by simp (disch := decide) only [ext_high, Nat.reduceSub, ext_all])]
    simp (disch := decide) only [dec07, fld, bit, ext_low, ext_high, bit_low, bit_high, ext_all, bit_ofBool, Nat.reduceSub, BitVec.reduceToNat]
    exact checked_ok _ _ (and_append_zero (m := 31) (n := 1) _ _ _ (and_append_zero (m := 30) (n := 1) _ _ _ (and_append_zero (m := 27) (n := 3) _ _ _ (and_append_zero (m := 20) (n := 7) _ _ _ (and_append_zero (m := 13) (n := 7) _ _ _ (and_append_zero (m := 6) (n := 7) _ _ _ (BitVec.and_zero) (BitVec.and_zero)) (BitVec.and_zero)) (BitVec.zero_and)) (BitVec.and_zero)) (BitVec.and_zero)) (BitVec.zero_and))
  · show isLong (0x07#6 ++ d ++ a ++ 0#7 ++ 3#3 ++ BitVec.ofBool ea ++ 0#1) = false
    simp (disch := decide) only [isLong, fld, ext_low, ext_high, ext_all, Nat.reduceSub, Nat.reduceLT, decide_true, decide_false, BitVec.reduceToNat]

open RoundTrip in
theorem RoundTrip.sextb (d : BitVec 7) (a : BitVec 7) (ea : Bool) : Statement (.sextb d a ea) := by
  intro hw
  refine ⟨?_, ?_⟩
  · show decode (0x07#6 ++ d ++ a ++ 0#7 ++ 4#3 ++ BitVec.ofBool ea ++ 0#1) (0) = .ok (.sextb d a ea)
    rw [decode_07 _ _ (by simp (disch := decide) only [ext_high, Nat.reduceSub, ext_all])]
    simp (disch := decide) only [dec07, fld, bit, ext_low, ext_high, bit_low, bit_high, ext_all, bit_ofBool, Nat.reduceSub, BitVec.reduceToNat]
    exact checked_ok _ _ (and_append_zero (m := 31) (n := 1) _ _ _ (and_append_zero (m := 30) (n := 1) _ _ _ (and_append_zero (m := 27) (n := 3) _ _ _ (and_append_zero (m := 20) (n := 7) _ _ _ (and_append_zero (m := 13) (n := 7) _ _ _ (and_append_zero (m := 6) (n := 7) _ _ _ (BitVec.and_zero) (BitVec.and_zero)) (BitVec.and_zero)) (BitVec.zero_and)) (BitVec.and_zero)) (BitVec.and_zero)) (BitVec.zero_and))
  · show isLong (0x07#6 ++ d ++ a ++ 0#7 ++ 4#3 ++ BitVec.ofBool ea ++ 0#1) = false
    simp (disch := decide) only [isLong, fld, ext_low, ext_high, ext_all, Nat.reduceSub, Nat.reduceLT, decide_true, decide_false, BitVec.reduceToNat]

open RoundTrip in
theorem RoundTrip.sexth (d : BitVec 7) (a : BitVec 7) (ea : Bool) : Statement (.sexth d a ea) := by
  intro hw
  refine ⟨?_, ?_⟩
  · show decode (0x07#6 ++ d ++ a ++ 0#7 ++ 5#3 ++ BitVec.ofBool ea ++ 0#1) (0) = .ok (.sexth d a ea)
    rw [decode_07 _ _ (by simp (disch := decide) only [ext_high, Nat.reduceSub, ext_all])]
    simp (disch := decide) only [dec07, fld, bit, ext_low, ext_high, bit_low, bit_high, ext_all, bit_ofBool, Nat.reduceSub, BitVec.reduceToNat]
    exact checked_ok _ _ (and_append_zero (m := 31) (n := 1) _ _ _ (and_append_zero (m := 30) (n := 1) _ _ _ (and_append_zero (m := 27) (n := 3) _ _ _ (and_append_zero (m := 20) (n := 7) _ _ _ (and_append_zero (m := 13) (n := 7) _ _ _ (and_append_zero (m := 6) (n := 7) _ _ _ (BitVec.and_zero) (BitVec.and_zero)) (BitVec.and_zero)) (BitVec.zero_and)) (BitVec.and_zero)) (BitVec.and_zero)) (BitVec.zero_and))
  · show isLong (0x07#6 ++ d ++ a ++ 0#7 ++ 5#3 ++ BitVec.ofBool ea ++ 0#1) = false
    simp (disch := decide) only [isLong, fld, ext_low, ext_high, ext_all, Nat.reduceSub, Nat.reduceLT, decide_true, decide_false, BitVec.reduceToNat]

open RoundTrip in
theorem RoundTrip.sextw (d : BitVec 7) (a : BitVec 7) (ea : Bool) : Statement (.sextw d a ea) := by
  intro hw
  refine ⟨?_, ?_⟩
  · show decode (0x07#6 ++ d ++ a ++ 0#7 ++ 6#3 ++ BitVec.ofBool ea ++ 0#1) (0) = .ok (.sextw d a ea)
    rw [decode_07 _ _ (by simp (disch := decide) only [ext_high, Nat.reduceSub, ext_all])]
    simp (disch := decide) only [dec07, fld, bit, ext_low, ext_high, bit_low, bit_high, ext_all, bit_ofBool, Nat.reduceSub, BitVec.reduceToNat]
    exact checked_ok _ _ (and_append_zero (m := 31) (n := 1) _ _ _ (and_append_zero (m := 30) (n := 1) _ _ _ (and_append_zero (m := 27) (n := 3) _ _ _ (and_append_zero (m := 20) (n := 7) _ _ _ (and_append_zero (m := 13) (n := 7) _ _ _ (and_append_zero (m := 6) (n := 7) _ _ _ (BitVec.and_zero) (BitVec.and_zero)) (BitVec.and_zero)) (BitVec.zero_and)) (BitVec.and_zero)) (BitVec.and_zero)) (BitVec.zero_and))
  · show isLong (0x07#6 ++ d ++ a ++ 0#7 ++ 6#3 ++ BitVec.ofBool ea ++ 0#1) = false
    simp (disch := decide) only [isLong, fld, ext_low, ext_high, ext_all, Nat.reduceSub, Nat.reduceLT, decide_true, decide_false, BitVec.reduceToNat]

open RoundTrip in
theorem RoundTrip.szextw (d : BitVec 7) (a : BitVec 7) (ea : Bool) : Statement (.szextw d a ea) := by
  intro hw
  refine ⟨?_, ?_⟩
  · show decode (0x07#6 ++ d ++ a ++ 0#7 ++ 7#3 ++ BitVec.ofBool ea ++ 0#1) (0) = .ok (.szextw d a ea)
    rw [decode_07 _ _ (by simp (disch := decide) only [ext_high, Nat.reduceSub, ext_all])]
    simp (disch := decide) only [dec07, fld, bit, ext_low, ext_high, bit_low, bit_high, ext_all, bit_ofBool, Nat.reduceSub, BitVec.reduceToNat]
    exact checked_ok _ _ (and_append_zero (m := 31) (n := 1) _ _ _ (and_append_zero (m := 30) (n := 1) _ _ _ (and_append_zero (m := 27) (n := 3) _ _ _ (and_append_zero (m := 20) (n := 7) _ _ _ (and_append_zero (m := 13) (n := 7) _ _ _ (and_append_zero (m := 6) (n := 7) _ _ _ (BitVec.and_zero) (BitVec.and_zero)) (BitVec.and_zero)) (BitVec.zero_and)) (BitVec.and_zero)) (BitVec.and_zero)) (BitVec.zero_and))
  · show isLong (0x07#6 ++ d ++ a ++ 0#7 ++ 7#3 ++ BitVec.ofBool ea ++ 0#1) = false
    simp (disch := decide) only [isLong, fld, ext_low, ext_high, ext_all, Nat.reduceSub, Nat.reduceLT, decide_true, decide_false, BitVec.reduceToNat]

open RoundTrip in
theorem RoundTrip.br (off : BitVec 22) : Statement (.br off) := by
  intro hw
  refine ⟨?_, ?_⟩
  · show decode (0x08#6 ++ 0#4 ++ off) (0) = .ok (.br off)
    rw [decode_08 _ _ (by simp (disch := decide) only [ext_high, Nat.reduceSub, ext_all])]
    simp (disch := decide) only [dec08, fld, bit, ext_low, ext_high, bit_low, bit_high, ext_all, bit_ofBool, Nat.reduceSub, BitVec.reduceToNat]
  · show isLong (0x08#6 ++ 0#4 ++ off) = false
    simp (disch := decide) only [isLong, fld, ext_low, ext_high, ext_all, Nat.reduceSub, Nat.reduceLT, decide_true, decide_false, BitVec.reduceToNat]

open RoundTrip in
theorem RoundTrip.brxz (off : BitVec 22) : Statement (.brxz off) := by
  intro hw
  refine ⟨?_, ?_⟩
  · show decode (0x08#6 ++ 1#4 ++ off) (0) = .ok (.brxz off)
    rw [decode_08 _ _ (by simp (disch := decide) only [ext_high, Nat.reduceSub, ext_all])]
    simp (disch := decide) only [dec08, fld, bit, ext_low, ext_high, bit_low, bit_high, ext_all, bit_ofBool, Nat.reduceSub, BitVec.reduceToNat]
  · show isLong (0x08#6 ++ 1#4 ++ off) = false
    simp (disch := decide) only [isLong, fld, ext_low, ext_high, ext_all, Nat.reduceSub, Nat.reduceLT, decide_true, decide_false, BitVec.reduceToNat]

open RoundTrip in
theorem RoundTrip.brxnz (off : BitVec 22) : Statement (.brxnz off) := by
  intro hw
  refine ⟨?_, ?_⟩
  · show decode (0x08#6 ++ 2#4 ++ off) (0) = .ok (.brxnz off)
    rw [decode_08 _ _ (by simp (disch := decide) only [ext_high, Nat.reduceSub, ext_all])]
    simp (disch := decide) only [dec08, fld, bit, ext_low, ext_high, bit_low, bit_high, ext_all, bit_ofBool, Nat.reduceSub, BitVec.reduceToNat]
  · show isLong (0x08#6 ++ 2#4 ++ off) = false
    simp (disch := decide) only [isLong, fld, ext_low, ext_high, ext_all, Nat.reduceSub, Nat.reduceLT, decide_true, decide_false, BitVec.reduceToNat]

open RoundTrip in
theorem RoundTrip.brxall (off : BitVec 22) : Statement (.brxall off) := by
  intro hw
  refine ⟨?_, ?_⟩
  · show decode (0x08#6 ++ 3#4 ++ off) (0) = .ok (.brxall off)
    rw [decode_08 _ _ (by simp (disch := decide) only [ext_high, Nat.reduceSub, ext_all])]
    simp (disch := decide) only [dec08, fld, bit, ext_low, ext_high, bit_low, bit_high, ext_all, bit_ofBool, Nat.reduceSub, BitVec.reduceToNat]
  · show isLong (0x08#6 ++ 3#4 ++ off) = false
    simp (disch := decide) only [isLong, fld, ext_low, ext_high, ext_all, Nat.reduceSub, Nat.reduceLT, decide_true, decide_false, BitVec.reduceToNat]

open RoundTrip in
theorem RoundTrip.call (off : BitVec 22) : Statement (.call off) := by
  intro hw
  refine ⟨?_, ?_⟩
  · show decode (0x08#6 ++ 4#4 ++ off) (0) = .ok (.call off)
    rw [decode_08 _ _ (by simp (disch := decide) only [ext_high, Nat.reduceSub, ext_all])]
    simp (disch := decide) only [dec08, fld, bit, ext_low, ext_high, bit_low, bit_high, ext_all, bit_ofBool, Nat.reduceSub, BitVec.reduceToNat]
  · show isLong (0x08#6 ++ 4#4 ++ off) = false
    simp (disch := decide) only [isLong, fld, ext_low, ext_high, ext_all, Nat.reduceSub, Nat.reduceLT, decide_true, decide_false, BitVec.reduceToNat]

open RoundTrip in
theorem RoundTrip.brz (a : BitVec 7) (ea : Bool) (off : BitVec 14) : Statement (.brz a ea off) := by
  intro hw
  refine ⟨?_, ?_⟩
  · show decode (0x09#6 ++ 0#4 ++ a ++ BitVec.ofBool ea ++ off) (0) = .ok (.brz a ea off)
    rw [decode_09 _ _ (by simp (disch := decide) only [ext_high, Nat.reduceSub, ext_all])]
    simp (disch := decide) only [dec09, fld, bit, ext_low, ext_high, bit_low, bit_high, ext_all, bit_ofBool, Nat.reduceSub, BitVec.reduceToNat]
  · show isLong (0x09#6 ++ 0#4 ++ a ++ BitVec.ofBool ea ++ off) = false
    simp (disch := decide) only [isLong, fld, ext_low, ext_high, ext_all, Nat.reduceSub, Nat.reduceLT, decide_true, decide_false, BitVec.reduceToNat]

open RoundTrip in
theorem RoundTrip.brnz (a : BitVec 7) (ea : Bool) (off : BitVec 14) : Statement (.brnz a ea off) := by
  intro hw
  refine ⟨?_, ?_⟩
  · show decode (0x09#6 ++ 1#4 ++ a ++ BitVec.ofBool ea ++ off) (0) = .ok (.brnz a ea off)
    rw [decode_09 _ _ (by simp (disch := decide) only [ext_high, Nat.reduceSub, ext_all])]
    simp (disch := decide) only [dec09, fld, bit, ext_low, ext_high, bit_low, bit_high, ext_all, bit_ofBool, Nat.reduceSub, BitVec.reduceToNat]
  · show isLong (0x09#6 ++ 1#4 ++ a ++ BitVec.ofBool ea ++ off) = false
    simp (disch := decide) only [isLong, fld, ext_low, ext_high, ext_all, Nat.reduceSub, Nat.reduceLT, decide_true, decide_false, BitVec.reduceToNat]

open RoundTrip in
theorem RoundTrip.brneg (a : BitVec 7) (ea : Bool) (off : BitVec 14) : Statement (.brneg a ea off) := by
  intro hw
  refine ⟨?_, ?_⟩
  · show decode (0x09#6 ++ 2#4 ++ a ++ BitVec.ofBool ea ++ off) (0) = .ok (.brneg a ea off)
    rw [decode_09 _ _ (by simp (disch := decide) only [ext_high, Nat.reduceSub, ext_all])]
    simp (disch := decide) only [dec09, fld, bit, ext_low, ext_high, bit_low, bit_high, ext_all, bit_ofBool, Nat.reduceSub, BitVec.reduceToNat]
  · show isLong (0x09#6 ++ 2#4 ++ a ++ BitVec.ofBool ea ++ off) = false
    simp (disch := decide) only [isLong, fld, ext_low, ext_high, ext_all, Nat.reduceSub, Nat.reduceLT, decide_true, decide_false, BitVec.reduceToNat]

open RoundTrip in
theorem RoundTrip.brpos (a : BitVec 7) (ea : Bool) (off : BitVec 14) : Statement (.brpos a ea off) := by
  intro hw
  refine ⟨?_, ?_⟩
  · show decode (0x09#6 ++ 3#4 ++ a ++ BitVec.ofBool ea ++ off) (0) = .ok (.brpos a ea off)
    rw [decode_09 _ _ (by simp (disch := decide) only [ext_high, Nat.reduceSub, ext_all])]
    simp (disch := decide) only [dec09, fld, bit, ext_low, ext_high, bit_low, bit_high, ext_all, bit_ofBool, Nat.reduceSub, BitVec.reduceToNat]
  · show isLong (0x09#6 ++ 3#4 ++ a ++ BitVec.ofBool ea ++ off) = false
    simp (disch := decide) only [isLong, fld, ext_low, ext_high, ext_all, Nat.reduceSub, Nat.reduceLT, decide_true, decide_false, BitVec.reduceToNat]

open RoundTrip in
theorem RoundTrip.jmpr (a : BitVec 7) (ea : Bool) : Statement (.jmpr a ea) := by
  intro hw
  refine ⟨?_, ?_⟩
  · show decode (0x0a#6 ++ 0#7 ++ a ++ 0#7 ++ 0#3 ++ BitVec.ofBool ea ++ 0#1) (0) = .ok (.jmpr a ea)
    rw [decode_0a _ _ (by simp (disch := decide) only [ext_high, Nat.reduceSub, ext_all])]
    simp (disch := decide) only [dec0a, fld, bit, ext_low, ext_high, bit_low, bit_high, ext_all, bit_ofBool, Nat.reduceSub, BitVec.reduceToNat]
    exact checked_ok _ _ (and_append_zero (m := 31) (n := 1) _ _ _ (and_append_zero (m := 30) (n := 1) _ _ _ (and_append_zero (m := 27) (n := 3) _ _ _ (and_append_zero (m := 20) (n := 7) _ _ _ (and_append_zero (m := 13) (n := 7) _ _ _ (and_append_zero (m := 6) (n := 7) _ _ _ (BitVec.and_zero) (BitVec.zero_and)) (BitVec.and_zero)) (BitVec.zero_and)) (BitVec.zero_and)) (BitVec.and_zero)) (BitVec.zero_and))
  · show isLong (0x0a#6 ++ 0#7 ++ a ++ 0#7 ++ 0#3 ++ BitVec.ofBool ea ++ 0#1) = false
    simp (disch := decide) only [isLong, fld, ext_low, ext_high, ext_all, Nat.reduceSub, Nat.reduceLT, decide_true, decide_false, BitVec.reduceToNat]

open RoundTrip in
theorem RoundTrip.callr (a : BitVec 7) (ea : Bool) : Statement (.callr a ea) := by
  intro hw
  refine ⟨?_, ?_⟩
  · show decode (0x0a#6 ++ 0#7 ++ a ++ 0#7 ++ 1#3 ++ BitVec.ofBool ea ++ 0#1) (0) = .ok (.callr a ea)
    rw [decode_0a _ _ (by simp (disch := decide) only [ext_high, Nat.reduceSub, ext_all])]
    simp (disch := decide) only [dec0a, fld, bit, ext_low, ext_high, bit_low, bit_high, ext_all, bit_ofBool, Nat.reduceSub, BitVec.reduceToNat]
    exact checked_ok _ _ (and_append_zero (m := 31) (n := 1) _ _ _ (and_append_zero (m := 30) (n := 1) _ _ _ (and_append_zero (m := 27) (n := 3) _ _ _ (and_append_zero (m := 20) (n := 7) _ _ _ (and_append_zero (m := 13) (n := 7) _ _ _ (and_append_zero (m := 6) (n := 7) _ _ _ (BitVec.and_zero) (BitVec.zero_and)) (BitVec.and_zero)) (BitVec.zero_and)) (BitVec.and_zero)) (BitVec.and_zero)) (BitVec.zero_and))
  · show isLong (0x0a#6 ++ 0#7 ++ a ++ 0#7 ++ 1#3 ++ BitVec.ofBool ea ++ 0#1) = false
    simp (disch := decide) only [isLong, fld, ext_low, ext_high, ext_all, Nat.reduceSub, Nat.reduceLT, decide_true, decide_false, BitVec.reduceToNat]

open RoundTrip in
theorem RoundTrip.ret : Statement (.ret) := by
  intro hw
  refine ⟨?_, ?_⟩
  · show decode (0x0a#6 ++ 0#21 ++ 2#3 ++ 0#2) (0) = .ok (.ret)
    rw [decode_0a _ _ (by simp (disch := decide) only [ext_high, Nat.reduceSub, ext_all])]
    simp (disch := decide) only [dec0a, fld, bit, ext_low, ext_high, bit_low, bit_high, ext_all, bit_ofBool, Nat.reduceSub, BitVec.reduceToNat]
    exact checked_ok _ _ (and_append_zero (m := 30) (n := 2) _ _ _ (and_append_zero (m := 27) (n := 3) _ _ _ (and_append_zero (m := 6) (n := 21) _ _ _ (BitVec.and_zero) (BitVec.zero_and)) (BitVec.and_zero)) (BitVec.zero_and))
  · show isLong (0x0a#6 ++ 0#21 ++ 2#3 ++ 0#2) = false
    simp (disch := decide) only [isLong, fld, ext_low, ext_high, ext_all, Nat.reduceSub, Nat.reduceLT, decide_true, decide_false, BitVec.reduceToNat]

open RoundTrip in
theorem RoundTrip.smfr (s : BitVec 7) (spr : BitVec 12) : Statement (.smfr s spr) := by
  intro hw
  refine ⟨?_, ?_⟩
  · show decode (0x0b#6 ++ s ++ spr ++ 0#3 ++ 0#4) (0) = .ok (.smfr s spr)
    rw [decode_0b _ _ (by simp (disch := decide) only [ext_high, Nat.reduceSub, ext_all])]
    simp (disch := decide) only [dec0b, fld, bit, ext_low, ext_high, bit_low, bit_high, ext_all, bit_ofBool, Nat.reduceSub, BitVec.reduceToNat]
    exact checked_ok _ _ (and_append_zero (m := 28) (n := 4) _ _ _ (and_append_zero (m := 25) (n := 3) _ _ _ (and_append_zero (m := 13) (n := 12) _ _ _ (and_append_zero (m := 6) (n := 7) _ _ _ (BitVec.and_zero) (BitVec.and_zero)) (BitVec.and_zero)) (BitVec.zero_and)) (BitVec.zero_and))
  · show isLong (0x0b#6 ++ s ++ spr ++ 0#3 ++ 0#4) = false
    simp (disch := decide) only [isLong, fld, ext_low, ext_high, ext_all, Nat.reduceSub, Nat.reduceLT, decide_true, decide_false, BitVec.reduceToNat]

open RoundTrip in
theorem RoundTrip.smtr (s : BitVec 7) (spr : BitVec 12) (ea : Bool) : Statement (.smtr s spr ea) := by
  intro hw
  refine ⟨?_, ?_⟩
  · show decode (0x0b#6 ++ s ++ spr ++ 1#3 ++ 0#3 ++ BitVec.ofBool ea) (0) = .ok (.smtr s spr ea)
    rw [decode_0b _ _ (by simp (disch := decide) only [ext_high, Nat.reduceSub, ext_all])]
    simp (disch := decide) only [dec0b, fld, bit, ext_low, ext_high, bit_low, bit_high, ext_all, bit_ofBool, Nat.reduceSub, BitVec.reduceToNat]
    exact checked_ok _ _ (and_append_zero (m := 31) (n := 1) _ _ _ (and_append_zero (m := 28) (n := 3) _ _ _ (and_append_zero (m := 25) (n := 3) _ _ _ (and_append_zero (m := 13) (n := 12) _ _ _ (and_append_zero (m := 6) (n := 7) _ _ _ (BitVec.and_zero) (BitVec.and_zero)) (BitVec.and_zero)) (BitVec.and_zero)) (BitVec.zero_and)) (BitVec.and_zero))
  · show isLong (0x0b#6 ++ s ++ spr ++ 1#3 ++ 0#3 ++ BitVec.ofBool ea) = false
    simp (disch := decide) only [isLong, fld, ext_low, ext_high, ext_all, Nat.reduceSub, Nat.reduceLT, decide_true, decide_false, BitVec.reduceToNat]

open RoundTrip in
theorem RoundTrip.nop : Statement (.nop) := by
  intro hw
  refine ⟨?_, ?_⟩
  · show decode (0x0c#6 ++ 0#21 ++ 0#3 ++ 0#2) (0) = .ok (.nop)
    rw [decode_0c _ _ (by simp (disch := decide) only [ext_high, Nat.reduceSub, ext_all])]
    simp (disch := decide) only [dec0c, fld, bit, ext_low, ext_high, bit_low, bit_high, ext_all, bit_ofBool, Nat.reduceSub, BitVec.reduceToNat]
    exact checked_ok _ _ (and_append_zero (m := 30) (n := 2) _ _ _ (and_append_zero (m := 27) (n := 3) _ _ _ (and_append_zero (m := 6) (n := 21) _ _ _ (BitVec.and_zero) (BitVec.zero_and)) (BitVec.zero_and)) (BitVec.zero_and))
  · show isLong (0x0c#6 ++ 0#21 ++ 0#3 ++ 0#2) = false
    simp (disch := decide) only [isLong, fld, ext_low, ext_high, ext_all, Nat.reduceSub, Nat.reduceLT, decide_true, decide_false, BitVec.reduceToNat]

open RoundTrip in
theorem RoundTrip.yield : Statement (.yield) := by
  intro hw
  refine ⟨?_, ?_⟩
  · show decode (0x0c#6 ++ 0#21 ++ 1#3 ++ 0#2) (0) = .ok (.yield)
    rw [decode_0c _ _ (by simp (disch := decide) only [ext_high, Nat.reduceSub, ext_all])]
    simp (disch := decide) only [dec0c, fld, bit, ext_low, ext_high, bit_low, bit_high, ext_all, bit_ofBool, Nat.reduceSub, BitVec.reduceToNat]
    exact checked_ok _ _ (and_append_zero (m := 30) (n := 2) _ _ _ (and_append_zero (m := 27) (n := 3) _ _ _ (and_append_zero (m := 6) (n := 21) _ _ _ (BitVec.and_zero) (BitVec.zero_and)) (BitVec.and_zero)) (BitVec.zero_and))
  · show isLong (0x0c#6 ++ 0#21 ++ 1#3 ++ 0#2) = false
    simp (disch := decide) only [isLong, fld, ext_low, ext_high, ext_all, Nat.reduceSub, Nat.reduceLT, decide_true, decide_false, BitVec.reduceToNat]

open RoundTrip in
theorem RoundTrip.halt : Statement (.halt) := by
  intro hw
  refine ⟨?_, ?_⟩
  · show decode (0x0c#6 ++ 0#21 ++ 2#3 ++ 0#2) (0) = .ok (.halt)
    rw [decode_0c _ _ (by simp (disch := decide) only [ext_high, Nat.reduceSub, ext_all])]
    simp (disch := decide) only [dec0c, fld, bit, ext_low, ext_high, bit_low, bit_high, ext_all, bit_ofBool, Nat.reduceSub, BitVec.reduceToNat]
    exact checked_ok _ _ (and_append_zero (m := 30) (n := 2) _ _ _ (and_append_zero (m := 27) (n := 3) _ _ _ (and_append_zero (m := 6) (n := 21) _ _ _ (BitVec.and_zero) (BitVec.zero_and)) (BitVec.and_zero)) (BitVec.zero_and))
  · show isLong (0x0c#6 ++ 0#21 ++ 2#3 ++ 0#2) = false
    simp (disch := decide) only [isLong, fld, ext_low, ext_high, ext_all, Nat.reduceSub, Nat.reduceLT, decide_true, decide_false, BitVec.reduceToNat]

open RoundTrip in
theorem RoundTrip.trap (imm : BitVec 8) : Statement (.trap imm) := by
  intro hw
  refine ⟨?_, ?_⟩
  · show decode (0x0c#6 ++ 0#13 ++ imm ++ 3#3 ++ 0#2) (0) = .ok (.trap imm)
    rw [decode_0c _ _ (by simp (disch := decide) only [ext_high, Nat.reduceSub, ext_all])]
    simp (disch := decide) only [dec0c, fld, bit, ext_low, ext_high, bit_low, bit_high, ext_all, bit_ofBool, Nat.reduceSub, BitVec.reduceToNat]
    exact checked_ok _ _ (and_append_zero (m := 30) (n := 2) _ _ _ (and_append_zero (m := 27) (n := 3) _ _ _ (and_append_zero (m := 19) (n := 8) _ _ _ (and_append_zero (m := 6) (n := 13) _ _ _ (BitVec.and_zero) (BitVec.zero_and)) (BitVec.and_zero)) (BitVec.and_zero)) (BitVec.zero_and))
  · show isLong (0x0c#6 ++ 0#13 ++ imm ++ 3#3 ++ 0#2) = false
    simp (disch := decide) only [isLong, fld, ext_low, ext_high, ext_all, Nat.reduceSub, Nat.reduceLT, decide_true, decide_false, BitVec.reduceToNat]

open RoundTrip in
theorem RoundTrip.tret : Statement (.tret) := by
  intro hw
  refine ⟨?_, ?_⟩
  · show decode (0x0c#6 ++ 0#21 ++ 4#3 ++ 0#2) (0) = .ok (.tret)
    rw [decode_0c _ _ (by simp (disch := decide) only [ext_high, Nat.reduceSub, ext_all])]
    simp (disch := decide) only [dec0c, fld, bit, ext_low, ext_high, bit_low, bit_high, ext_all, bit_ofBool, Nat.reduceSub, BitVec.reduceToNat]
    exact checked_ok _ _ (and_append_zero (m := 30) (n := 2) _ _ _ (and_append_zero (m := 27) (n := 3) _ _ _ (and_append_zero (m := 6) (n := 21) _ _ _ (BitVec.and_zero) (BitVec.zero_and)) (BitVec.and_zero)) (BitVec.zero_and))
  · show isLong (0x0c#6 ++ 0#21 ++ 4#3 ++ 0#2) = false
    simp (disch := decide) only [isLong, fld, ext_low, ext_high, ext_all, Nat.reduceSub, Nat.reduceLT, decide_true, decide_false, BitVec.reduceToNat]

open RoundTrip in
theorem RoundTrip.specbar : Statement (.specbar) := by
  intro hw
  refine ⟨?_, ?_⟩
  · show decode (0x0c#6 ++ 0#21 ++ 5#3 ++ 0#2) (0) = .ok (.specbar)
    rw [decode_0c _ _ (by simp (disch := decide) only [ext_high, Nat.reduceSub, ext_all])]
    simp (disch := decide) only [dec0c, fld, bit, ext_low, ext_high, bit_low, bit_high, ext_all, bit_ofBool, Nat.reduceSub, BitVec.reduceToNat]
    exact checked_ok _ _ (and_append_zero (m := 30) (n := 2) _ _ _ (and_append_zero (m := 27) (n := 3) _ _ _ (and_append_zero (m := 6) (n := 21) _ _ _ (BitVec.and_zero) (BitVec.zero_and)) (BitVec.and_zero)) (BitVec.zero_and))
  · show isLong (0x0c#6 ++ 0#21 ++ 5#3 ++ 0#2) = false
    simp (disch := decide) only [isLong, fld, ext_low, ext_high, ext_all, Nat.reduceSub, Nat.reduceLT, decide_true, decide_false, BitVec.reduceToNat]

open RoundTrip in
theorem RoundTrip.sleep (a : BitVec 7) (ea : Bool) : Statement (.sleep a ea) := by
  intro hw
  refine ⟨?_, ?_⟩
  · show decode (0x0c#6 ++ 0#7 ++ a ++ 0#7 ++ 6#3 ++ BitVec.ofBool ea ++ 0#1) (0) = .ok (.sleep a ea)
    rw [decode_0c _ _ (by simp (disch := decide) only [ext_high, Nat.reduceSub, ext_all])]
    simp (disch := decide) only [dec0c, fld, bit, ext_low, ext_high, bit_low, bit_high, ext_all, bit_ofBool, Nat.reduceSub, BitVec.reduceToNat]
    exact checked_ok _ _ (and_append_zero (m := 31) (n := 1) _ _ _ (and_append_zero (m := 30) (n := 1) _ _ _ (and_append_zero (m := 27) (n := 3) _ _ _ (and_append_zero (m := 20) (n := 7) _ _ _ (and_append_zero (m := 13) (n := 7) _ _ _ (and_append_zero (m := 6) (n := 7) _ _ _ (BitVec.and_zero) (BitVec.zero_and)) (BitVec.and_zero)) (BitVec.zero_and)) (BitVec.and_zero)) (BitVec.and_zero)) (BitVec.zero_and))
  · show isLong (0x0c#6 ++ 0#7 ++ a ++ 0#7 ++ 6#3 ++ BitVec.ofBool ea ++ 0#1) = false
    simp (disch := decide) only [isLong, fld, ext_low, ext_high, ext_all, Nat.reduceSub, Nat.reduceLT, decide_true, decide_false, BitVec.reduceToNat]

open RoundTrip in
theorem RoundTrip.bkpt : Statement (.bkpt) := by
  intro hw
  refine ⟨?_, ?_⟩
  · show decode (0x0c#6 ++ 0#21 ++ 7#3 ++ 0#2) (0) = .ok (.bkpt)
    rw [decode_0c _ _ (by simp (disch := decide) only [ext_high, Nat.reduceSub, ext_all])]
    simp (disch := decide) only [dec0c, fld, bit, ext_low, ext_high, bit_low, bit_high, ext_all, bit_ofBool, Nat.reduceSub, BitVec.reduceToNat]
    exact checked_ok _ _ (and_append_zero (m := 30) (n := 2) _ _ _ (and_append_zero (m := 27) (n := 3) _ _ _ (and_append_zero (m := 6) (n := 21) _ _ _ (BitVec.and_zero) (BitVec.zero_and)) (BitVec.and_zero)) (BitVec.zero_and))
  · show isLong (0x0c#6 ++ 0#21 ++ 7#3 ++ 0#2) = false
    simp (disch := decide) only [isLong, fld, ext_low, ext_high, ext_all, Nat.reduceSub, Nat.reduceLT, decide_true, decide_false, BitVec.reduceToNat]

open RoundTrip in
theorem RoundTrip.waitc (path : BitVec 3) (r : BitVec 7) (ea : Bool) : Statement (.waitc path r ea) := by
  intro hw
  refine ⟨?_, ?_⟩
  · show decode (0x0d#6 ++ path ++ 0#4 ++ r ++ 0#7 ++ 0#3 ++ 0#1 ++ BitVec.ofBool ea) (0) = .ok (.waitc path r ea)
    rw [decode_0d _ _ (by simp (disch := decide) only [ext_high, Nat.reduceSub, ext_all])]
    simp (disch := decide) only [dec0d, fld, bit, ext_low, ext_high, bit_low, bit_high, ext_all, bit_ofBool, Nat.reduceSub, BitVec.reduceToNat]
    exact checked_ok _ _ (and_append_zero (m := 31) (n := 1) _ _ _ (and_append_zero (m := 30) (n := 1) _ _ _ (and_append_zero (m := 27) (n := 3) _ _ _ (and_append_zero (m := 20) (n := 7) _ _ _ (and_append_zero (m := 13) (n := 7) _ _ _ (and_append_zero (m := 9) (n := 4) _ _ _ (and_append_zero (m := 6) (n := 3) _ _ _ (BitVec.and_zero) (BitVec.and_zero)) (BitVec.zero_and)) (BitVec.and_zero)) (BitVec.zero_and)) (BitVec.zero_and)) (BitVec.zero_and)) (BitVec.and_zero))
  · show isLong (0x0d#6 ++ path ++ 0#4 ++ r ++ 0#7 ++ 0#3 ++ 0#1 ++ BitVec.ofBool ea) = false
    simp (disch := decide) only [isLong, fld, ext_low, ext_high, ext_all, Nat.reduceSub, Nat.reduceLT, decide_true, decide_false, BitVec.reduceToNat]

open RoundTrip in
theorem RoundTrip.waitr (r : BitVec 7) : Statement (.waitr r) := by
  intro hw
  refine ⟨?_, ?_⟩
  · show decode (0x0d#6 ++ 0#7 ++ r ++ 0#7 ++ 1#3 ++ 0#2) (0) = .ok (.waitr r)
    rw [decode_0d _ _ (by simp (disch := decide) only [ext_high, Nat.reduceSub, ext_all])]
    simp (disch := decide) only [dec0d, fld, bit, ext_low, ext_high, bit_low, bit_high, ext_all, bit_ofBool, Nat.reduceSub, BitVec.reduceToNat]
    exact checked_ok _ _ (and_append_zero (m := 30) (n := 2) _ _ _ (and_append_zero (m := 27) (n := 3) _ _ _ (and_append_zero (m := 20) (n := 7) _ _ _ (and_append_zero (m := 13) (n := 7) _ _ _ (and_append_zero (m := 6) (n := 7) _ _ _ (BitVec.and_zero) (BitVec.zero_and)) (BitVec.and_zero)) (BitVec.zero_and)) (BitVec.and_zero)) (BitVec.zero_and))
  · show isLong (0x0d#6 ++ 0#7 ++ r ++ 0#7 ++ 1#3 ++ 0#2) = false
    simp (disch := decide) only [isLong, fld, ext_low, ext_high, ext_all, Nat.reduceSub, Nat.reduceLT, decide_true, decide_false, BitVec.reduceToNat]

open RoundTrip in
theorem RoundTrip.waits (r : BitVec 7) : Statement (.waits r) := by
  intro hw
  refine ⟨?_, ?_⟩
  · show decode (0x0d#6 ++ 0#7 ++ r ++ 0#7 ++ 2#3 ++ 0#2) (0) = .ok (.waits r)
    rw [decode_0d _ _ (by simp (disch := decide) only [ext_high, Nat.reduceSub, ext_all])]
    simp (disch := decide) only [dec0d, fld, bit, ext_low, ext_high, bit_low, bit_high, ext_all, bit_ofBool, Nat.reduceSub, BitVec.reduceToNat]
    exact checked_ok _ _ (and_append_zero (m := 30) (n := 2) _ _ _ (and_append_zero (m := 27) (n := 3) _ _ _ (and_append_zero (m := 20) (n := 7) _ _ _ (and_append_zero (m := 13) (n := 7) _ _ _ (and_append_zero (m := 6) (n := 7) _ _ _ (BitVec.and_zero) (BitVec.zero_and)) (BitVec.and_zero)) (BitVec.zero_and)) (BitVec.and_zero)) (BitVec.zero_and))
  · show isLong (0x0d#6 ++ 0#7 ++ r ++ 0#7 ++ 2#3 ++ 0#2) = false
    simp (disch := decide) only [isLong, fld, ext_low, ext_high, ext_all, Nat.reduceSub, Nat.reduceLT, decide_true, decide_false, BitVec.reduceToNat]

open RoundTrip in
theorem RoundTrip.bara (s : BitVec 7) (id : BitVec 5) (cnt : BitVec 7) (core : Bool) (ea : Bool) : Statement (.bara s id cnt core ea) := by
  intro hw
  refine ⟨?_, ?_⟩
  · show decode (0x0e#6 ++ s ++ id ++ cnt ++ BitVec.ofBool core ++ 0#3 ++ 0#2 ++ BitVec.ofBool ea) (0) = .ok (.bara s id cnt core ea)
    rw [decode_0e _ _ (by simp (disch := decide) only [ext_high, Nat.reduceSub, ext_all])]
    simp (disch := decide) only [dec0e, fld, bit, ext_low, ext_high, bit_low, bit_high, ext_all, bit_ofBool, Nat.reduceSub, BitVec.reduceToNat]
    exact checked_ok _ _ (and_append_zero (m := 31) (n := 1) _ _ _ (and_append_zero (m := 29) (n := 2) _ _ _ (and_append_zero (m := 26) (n := 3) _ _ _ (and_append_zero (m := 25) (n := 1) _ _ _ (and_append_zero (m := 18) (n := 7) _ _ _ (and_append_zero (m := 13) (n := 5) _ _ _ (and_append_zero (m := 6) (n := 7) _ _ _ (BitVec.and_zero) (BitVec.and_zero)) (BitVec.and_zero)) (BitVec.and_zero)) (BitVec.and_zero)) (BitVec.zero_and)) (BitVec.zero_and)) (BitVec.and_zero))
  · show isLong (0x0e#6 ++ s ++ id ++ cnt ++ BitVec.ofBool core ++ 0#3 ++ 0#2 ++ BitVec.ofBool ea) = false
    simp (disch := decide) only [isLong, fld, ext_low, ext_high, ext_all, Nat.reduceSub, Nat.reduceLT, decide_true, decide_false, BitVec.reduceToNat]

open RoundTrip in
theorem RoundTrip.barw (id : BitVec 5) (tok : BitVec 7) (core : Bool) (ea : Bool) : Statement (.barw id tok core ea) := by
  intro hw
  refine ⟨?_, ?_⟩
  · show decode (0x0e#6 ++ 0#7 ++ id ++ tok ++ BitVec.ofBool core ++ 1#3 ++ 0#2 ++ BitVec.ofBool ea) (0) = .ok (.barw id tok core ea)
    rw [decode_0e _ _ (by simp (disch := decide) only [ext_high, Nat.reduceSub, ext_all])]
    simp (disch := decide) only [dec0e, fld, bit, ext_low, ext_high, bit_low, bit_high, ext_all, bit_ofBool, Nat.reduceSub, BitVec.reduceToNat]
    exact checked_ok _ _ (and_append_zero (m := 31) (n := 1) _ _ _ (and_append_zero (m := 29) (n := 2) _ _ _ (and_append_zero (m := 26) (n := 3) _ _ _ (and_append_zero (m := 25) (n := 1) _ _ _ (and_append_zero (m := 18) (n := 7) _ _ _ (and_append_zero (m := 13) (n := 5) _ _ _ (and_append_zero (m := 6) (n := 7) _ _ _ (BitVec.and_zero) (BitVec.zero_and)) (BitVec.and_zero)) (BitVec.and_zero)) (BitVec.and_zero)) (BitVec.and_zero)) (BitVec.zero_and)) (BitVec.and_zero))
  · show isLong (0x0e#6 ++ 0#7 ++ id ++ tok ++ BitVec.ofBool core ++ 1#3 ++ 0#2 ++ BitVec.ofBool ea) = false
    simp (disch := decide) only [isLong, fld, ext_low, ext_high, ext_all, Nat.reduceSub, Nat.reduceLT, decide_true, decide_false, BitVec.reduceToNat]

open RoundTrip in
theorem RoundTrip.baraw (s : BitVec 7) (id : BitVec 5) (cnt : BitVec 7) (core : Bool) (ea : Bool) : Statement (.baraw s id cnt core ea) := by
  intro hw
  refine ⟨?_, ?_⟩
  · show decode (0x0e#6 ++ s ++ id ++ cnt ++ BitVec.ofBool core ++ 2#3 ++ 0#2 ++ BitVec.ofBool ea) (0) = .ok (.baraw s id cnt core ea)
    rw [decode_0e _ _ (by simp (disch := decide) only [ext_high, Nat.reduceSub, ext_all])]
    simp (disch := decide) only [dec0e, fld, bit, ext_low, ext_high, bit_low, bit_high, ext_all, bit_ofBool, Nat.reduceSub, BitVec.reduceToNat]
    exact checked_ok _ _ (and_append_zero (m := 31) (n := 1) _ _ _ (and_append_zero (m := 29) (n := 2) _ _ _ (and_append_zero (m := 26) (n := 3) _ _ _ (and_append_zero (m := 25) (n := 1) _ _ _ (and_append_zero (m := 18) (n := 7) _ _ _ (and_append_zero (m := 13) (n := 5) _ _ _ (and_append_zero (m := 6) (n := 7) _ _ _ (BitVec.and_zero) (BitVec.and_zero)) (BitVec.and_zero)) (BitVec.and_zero)) (BitVec.and_zero)) (BitVec.and_zero)) (BitVec.zero_and)) (BitVec.and_zero))
  · show isLong (0x0e#6 ++ s ++ id ++ cnt ++ BitVec.ofBool core ++ 2#3 ++ 0#2 ++ BitVec.ofBool ea) = false
    simp (disch := decide) only [isLong, fld, ext_low, ext_high, ext_all, Nat.reduceSub, Nat.reduceLT, decide_true, decide_false, BitVec.reduceToNat]

open RoundTrip in
theorem RoundTrip.bari (id : BitVec 5) (cnt : BitVec 7) (core : Bool) (ea : Bool) : Statement (.bari id cnt core ea) := by
  intro hw
  refine ⟨?_, ?_⟩
  · show decode (0x0e#6 ++ 0#7 ++ id ++ cnt ++ BitVec.ofBool core ++ 3#3 ++ 0#2 ++ BitVec.ofBool ea) (0) = .ok (.bari id cnt core ea)
    rw [decode_0e _ _ (by simp (disch := decide) only [ext_high, Nat.reduceSub, ext_all])]
    simp (disch := decide) only [dec0e, fld, bit, ext_low, ext_high, bit_low, bit_high, ext_all, bit_ofBool, Nat.reduceSub, BitVec.reduceToNat]
    exact checked_ok _ _ (and_append_zero (m := 31) (n := 1) _ _ _ (and_append_zero (m := 29) (n := 2) _ _ _ (and_append_zero (m := 26) (n := 3) _ _ _ (and_append_zero (m := 25) (n := 1) _ _ _ (and_append_zero (m := 18) (n := 7) _ _ _ (and_append_zero (m := 13) (n := 5) _ _ _ (and_append_zero (m := 6) (n := 7) _ _ _ (BitVec.and_zero) (BitVec.zero_and)) (BitVec.and_zero)) (BitVec.and_zero)) (BitVec.and_zero)) (BitVec.and_zero)) (BitVec.zero_and)) (BitVec.and_zero))
  · show isLong (0x0e#6 ++ 0#7 ++ id ++ cnt ++ BitVec.ofBool core ++ 3#3 ++ 0#2 ++ BitVec.ofBool ea) = false
    simp (disch := decide) only [isLong, fld, ext_low, ext_high, ext_all, Nat.reduceSub, Nat.reduceLT, decide_true, decide_false, BitVec.reduceToNat]

open RoundTrip in
theorem RoundTrip.pblk (s : BitVec 7) (n : BitVec 3) (pattern : BitVec 8) (ea : Bool) : Statement (.pblk s n pattern ea) := by
  intro hw
  refine ⟨?_, ?_⟩
  · show decode (0x0f#6 ++ s ++ n ++ pattern ++ 0#7 ++ BitVec.ofBool ea) (0) = .ok (.pblk s n pattern ea)
    rw [decode_0f _ _ (by simp (disch := decide) only [ext_high, Nat.reduceSub, ext_all])]
    simp (disch := decide) only [dec0f, fld, bit, ext_low, ext_high, bit_low, bit_high, ext_all, bit_ofBool, Nat.reduceSub, BitVec.reduceToNat]
    rw [if_pos (of_decide_eq_true hw)]
    exact checked_ok _ _ (and_append_zero (m := 31) (n := 1) _ _ _ (and_append_zero (m := 24) (n := 7) _ _ _ (and_append_zero (m := 16) (n := 8) _ _ _ (and_append_zero (m := 13) (n := 3) _ _ _ (and_append_zero (m := 6) (n := 7) _ _ _ (BitVec.and_zero) (BitVec.and_zero)) (BitVec.and_zero)) (BitVec.and_zero)) (BitVec.zero_and)) (BitVec.and_zero))
  · show isLong (0x0f#6 ++ s ++ n ++ pattern ++ 0#7 ++ BitVec.ofBool ea) = false
    simp (disch := decide) only [isLong, fld, ext_low, ext_high, ext_all, Nat.reduceSub, Nat.reduceLT, decide_true, decide_false, BitVec.reduceToNat]

open RoundTrip in
theorem RoundTrip.sldb (d : BitVec 7) (o : BitVec 7) (h : BitVec 6) (byp : Bool) (ea : Bool) : Statement (.sldb d o h byp ea) := by
  intro hw
  refine ⟨?_, ?_⟩
  · show decode (0x10#6 ++ d ++ o ++ h ++ 0#3 ++ BitVec.ofBool byp ++ 0#1 ++ BitVec.ofBool ea) (0) = .ok (.sldb d o h byp ea)
    rw [decode_10 _ _ (by simp (disch := decide) only [ext_high, Nat.reduceSub, ext_all])]
    simp (disch := decide) only [dec10, fld, bit, ext_low, ext_high, bit_low, bit_high, ext_all, bit_ofBool, Nat.reduceSub, BitVec.reduceToNat]
    exact checked_ok _ _ (and_append_zero (m := 31) (n := 1) _ _ _ (and_append_zero (m := 30) (n := 1) _ _ _ (and_append_zero (m := 29) (n := 1) _ _ _ (and_append_zero (m := 26) (n := 3) _ _ _ (and_append_zero (m := 20) (n := 6) _ _ _ (and_append_zero (m := 13) (n := 7) _ _ _ (and_append_zero (m := 6) (n := 7) _ _ _ (BitVec.and_zero) (BitVec.and_zero)) (BitVec.and_zero)) (BitVec.and_zero)) (BitVec.zero_and)) (BitVec.and_zero)) (BitVec.zero_and)) (BitVec.and_zero))
  · show isLong (0x10#6 ++ d ++ o ++ h ++ 0#3 ++ BitVec.ofBool byp ++ 0#1 ++ BitVec.ofBool ea) = false
    simp (disch := decide) only [isLong, fld, ext_low, ext_high, ext_all, Nat.reduceSub, Nat.reduceLT, decide_true, decide_false, BitVec.reduceToNat]

open RoundTrip in
theorem RoundTrip.sldh (d : BitVec 7) (o : BitVec 7) (h : BitVec 6) (byp : Bool) (ea : Bool) : Statement (.sldh d o h byp ea) := by
  intro hw
  refine ⟨?_, ?_⟩
  · show decode (0x10#6 ++ d ++ o ++ h ++ 1#3 ++ BitVec.ofBool byp ++ 0#1 ++ BitVec.ofBool ea) (0) = .ok (.sldh d o h byp ea)
    rw [decode_10 _ _ (by simp (disch := decide) only [ext_high, Nat.reduceSub, ext_all])]
    simp (disch := decide) only [dec10, fld, bit, ext_low, ext_high, bit_low, bit_high, ext_all, bit_ofBool, Nat.reduceSub, BitVec.reduceToNat]
    exact checked_ok _ _ (and_append_zero (m := 31) (n := 1) _ _ _ (and_append_zero (m := 30) (n := 1) _ _ _ (and_append_zero (m := 29) (n := 1) _ _ _ (and_append_zero (m := 26) (n := 3) _ _ _ (and_append_zero (m := 20) (n := 6) _ _ _ (and_append_zero (m := 13) (n := 7) _ _ _ (and_append_zero (m := 6) (n := 7) _ _ _ (BitVec.and_zero) (BitVec.and_zero)) (BitVec.and_zero)) (BitVec.and_zero)) (BitVec.and_zero)) (BitVec.and_zero)) (BitVec.zero_and)) (BitVec.and_zero))
  · show isLong (0x10#6 ++ d ++ o ++ h ++ 1#3 ++ BitVec.ofBool byp ++ 0#1 ++ BitVec.ofBool ea) = false
    simp (disch := decide) only [isLong, fld, ext_low, ext_high, ext_all, Nat.reduceSub, Nat.reduceLT, decide_true, decide_false, BitVec.reduceToNat]

open RoundTrip in
theorem RoundTrip.sldw (d : BitVec 7) (o : BitVec 7) (h : BitVec 6) (byp : Bool) (ea : Bool) : Statement (.sldw d o h byp ea) := by
  intro hw
  refine ⟨?_, ?_⟩
  · show decode (0x10#6 ++ d ++ o ++ h ++ 2#3 ++ BitVec.ofBool byp ++ 0#1 ++ BitVec.ofBool ea) (0) = .ok (.sldw d o h byp ea)
    rw [decode_10 _ _ (by simp (disch := decide) only [ext_high, Nat.reduceSub, ext_all])]
    simp (disch := decide) only [dec10, fld, bit, ext_low, ext_high, bit_low, bit_high, ext_all, bit_ofBool, Nat.reduceSub, BitVec.reduceToNat]
    exact checked_ok _ _ (and_append_zero (m := 31) (n := 1) _ _ _ (and_append_zero (m := 30) (n := 1) _ _ _ (and_append_zero (m := 29) (n := 1) _ _ _ (and_append_zero (m := 26) (n := 3) _ _ _ (and_append_zero (m := 20) (n := 6) _ _ _ (and_append_zero (m := 13) (n := 7) _ _ _ (and_append_zero (m := 6) (n := 7) _ _ _ (BitVec.and_zero) (BitVec.and_zero)) (BitVec.and_zero)) (BitVec.and_zero)) (BitVec.and_zero)) (BitVec.and_zero)) (BitVec.zero_and)) (BitVec.and_zero))
  · show isLong (0x10#6 ++ d ++ o ++ h ++ 2#3 ++ BitVec.ofBool byp ++ 0#1 ++ BitVec.ofBool ea) = false
    simp (disch := decide) only [isLong, fld, ext_low, ext_high, ext_all, Nat.reduceSub, Nat.reduceLT, decide_true, decide_false, BitVec.reduceToNat]

open RoundTrip in
theorem RoundTrip.sldd (d : BitVec 7) (o : BitVec 7) (h : BitVec 6) (byp : Bool) (ea : Bool) : Statement (.sldd d o h byp ea) := by
  intro hw
  refine ⟨?_, ?_⟩
  · show decode (0x10#6 ++ d ++ o ++ h ++ 3#3 ++ BitVec.ofBool byp ++ 0#1 ++ BitVec.ofBool ea) (0) = .ok (.sldd d o h byp ea)
    rw [decode_10 _ _ (by simp (disch := decide) only [ext_high, Nat.reduceSub, ext_all])]
    simp (disch := decide) only [dec10, fld, bit, ext_low, ext_high, bit_low, bit_high, ext_all, bit_ofBool, Nat.reduceSub, BitVec.reduceToNat]
    exact checked_ok _ _ (and_append_zero (m := 31) (n := 1) _ _ _ (and_append_zero (m := 30) (n := 1) _ _ _ (and_append_zero (m := 29) (n := 1) _ _ _ (and_append_zero (m := 26) (n := 3) _ _ _ (and_append_zero (m := 20) (n := 6) _ _ _ (and_append_zero (m := 13) (n := 7) _ _ _ (and_append_zero (m := 6) (n := 7) _ _ _ (BitVec.and_zero) (BitVec.and_zero)) (BitVec.and_zero)) (BitVec.and_zero)) (BitVec.and_zero)) (BitVec.and_zero)) (BitVec.zero_and)) (BitVec.and_zero))
  · show isLong (0x10#6 ++ d ++ o ++ h ++ 3#3 ++ BitVec.ofBool byp ++ 0#1 ++ BitVec.ofBool ea) = false
    simp (disch := decide) only [isLong, fld, ext_low, ext_high, ext_all, Nat.reduceSub, Nat.reduceLT, decide_true, decide_false, BitVec.reduceToNat]

open RoundTrip in
theorem RoundTrip.sldbs (d : BitVec 7) (o : BitVec 7) (h : BitVec 6) (byp : Bool) (ea : Bool) : Statement (.sldbs d o h byp ea) := by
  intro hw
  refine ⟨?_, ?_⟩
  · show decode (0x10#6 ++ d ++ o ++ h ++ 4#3 ++ BitVec.ofBool byp ++ 0#1 ++ BitVec.ofBool ea) (0) = .ok (.sldbs d o h byp ea)
    rw [decode_10 _ _ (by simp (disch := decide) only [ext_high, Nat.reduceSub, ext_all])]
    simp (disch := decide) only [dec10, fld, bit, ext_low, ext_high, bit_low, bit_high, ext_all, bit_ofBool, Nat.reduceSub, BitVec.reduceToNat]
    exact checked_ok _ _ (and_append_zero (m := 31) (n := 1) _ _ _ (and_append_zero (m := 30) (n := 1) _ _ _ (and_append_zero (m := 29) (n := 1) _ _ _ (and_append_zero (m := 26) (n := 3) _ _ _ (and_append_zero (m := 20) (n := 6) _ _ _ (and_append_zero (m := 13) (n := 7) _ _ _ (and_append_zero (m := 6) (n := 7) _ _ _ (BitVec.and_zero) (BitVec.and_zero)) (BitVec.and_zero)) (BitVec.and_zero)) (BitVec.and_zero)) (BitVec.and_zero)) (BitVec.zero_and)) (BitVec.and_zero))
  · show isLong (0x10#6 ++ d ++ o ++ h ++ 4#3 ++ BitVec.ofBool byp ++ 0#1 ++ BitVec.ofBool ea) = false
    simp (disch := decide) only [isLong, fld, ext_low, ext_high, ext_all, Nat.reduceSub, Nat.reduceLT, decide_true, decide_false, BitVec.reduceToNat]

open RoundTrip in
theorem RoundTrip.sldhs (d : BitVec 7) (o : BitVec 7) (h : BitVec 6) (byp : Bool) (ea : Bool) : Statement (.sldhs d o h byp ea) := by
  intro hw
  refine ⟨?_, ?_⟩
  · show decode (0x10#6 ++ d ++ o ++ h ++ 5#3 ++ BitVec.ofBool byp ++ 0#1 ++ BitVec.ofBool ea) (0) = .ok (.sldhs d o h byp ea)
    rw [decode_10 _ _ (by simp (disch := decide) only [ext_high, Nat.reduceSub, ext_all])]
    simp (disch := decide) only [dec10, fld, bit, ext_low, ext_high, bit_low, bit_high, ext_all, bit_ofBool, Nat.reduceSub, BitVec.reduceToNat]
    exact checked_ok _ _ (and_append_zero (m := 31) (n := 1) _ _ _ (and_append_zero (m := 30) (n := 1) _ _ _ (and_append_zero (m := 29) (n := 1) _ _ _ (and_append_zero (m := 26) (n := 3) _ _ _ (and_append_zero (m := 20) (n := 6) _ _ _ (and_append_zero (m := 13) (n := 7) _ _ _ (and_append_zero (m := 6) (n := 7) _ _ _ (BitVec.and_zero) (BitVec.and_zero)) (BitVec.and_zero)) (BitVec.and_zero)) (BitVec.and_zero)) (BitVec.and_zero)) (BitVec.zero_and)) (BitVec.and_zero))
  · show isLong (0x10#6 ++ d ++ o ++ h ++ 5#3 ++ BitVec.ofBool byp ++ 0#1 ++ BitVec.ofBool ea) = false
    simp (disch := decide) only [isLong, fld, ext_low, ext_high, ext_all, Nat.reduceSub, Nat.reduceLT, decide_true, decide_false, BitVec.reduceToNat]

open RoundTrip in
theorem RoundTrip.sldws (d : BitVec 7) (o : BitVec 7) (h : BitVec 6) (byp : Bool) (ea : Bool) : Statement (.sldws d o h byp ea) := by
  intro hw
  refine ⟨?_, ?_⟩
  · show decode (0x10#6 ++ d ++ o ++ h ++ 6#3 ++ BitVec.ofBool byp ++ 0#1 ++ BitVec.ofBool ea) (0) = .ok (.sldws d o h byp ea)
    rw [decode_10 _ _ (by simp (disch := decide) only [ext_high, Nat.reduceSub, ext_all])]
    simp (disch := decide) only [dec10, fld, bit, ext_low, ext_high, bit_low, bit_high, ext_all, bit_ofBool, Nat.reduceSub, BitVec.reduceToNat]
    exact checked_ok _ _ (and_append_zero (m := 31) (n := 1) _ _ _ (and_append_zero (m := 30) (n := 1) _ _ _ (and_append_zero (m := 29) (n := 1) _ _ _ (and_append_zero (m := 26) (n := 3) _ _ _ (and_append_zero (m := 20) (n := 6) _ _ _ (and_append_zero (m := 13) (n := 7) _ _ _ (and_append_zero (m := 6) (n := 7) _ _ _ (BitVec.and_zero) (BitVec.and_zero)) (BitVec.and_zero)) (BitVec.and_zero)) (BitVec.and_zero)) (BitVec.and_zero)) (BitVec.zero_and)) (BitVec.and_zero))
  · show isLong (0x10#6 ++ d ++ o ++ h ++ 6#3 ++ BitVec.ofBool byp ++ 0#1 ++ BitVec.ofBool ea) = false
    simp (disch := decide) only [isLong, fld, ext_low, ext_high, ext_all, Nat.reduceSub, Nat.reduceLT, decide_true, decide_false, BitVec.reduceToNat]

open RoundTrip in
theorem RoundTrip.sstb (d : BitVec 7) (o : BitVec 7) (h : BitVec 6) (byp : Bool) (ed : Bool) (ea : Bool) : Statement (.sstb d o h byp ed ea) := by
  intro hw
  refine ⟨?_, ?_⟩
  · show decode (0x11#6 ++ d ++ o ++ h ++ 0#3 ++ BitVec.ofBool byp ++ BitVec.ofBool ed ++ BitVec.ofBool ea) (0) = .ok (.sstb d o h byp ed ea)
    rw [decode_11 _ _ (by simp (disch := decide) only [ext_high, Nat.reduceSub, ext_all])]
    simp (disch := decide) only [dec11, fld, bit, ext_low, ext_high, bit_low, bit_high, ext_all, bit_ofBool, Nat.reduceSub, BitVec.reduceToNat]
  · show isLong (0x11#6 ++ d ++ o ++ h ++ 0#3 ++ BitVec.ofBool byp ++ BitVec.ofBool ed ++ BitVec.ofBool ea) = false
    simp (disch := decide) only [isLong, fld, ext_low, ext_high, ext_all, Nat.reduceSub, Nat.reduceLT, decide_true, decide_false, BitVec.reduceToNat]

open RoundTrip in
theorem RoundTrip.ssth (d : BitVec 7) (o : BitVec 7) (h : BitVec 6) (byp : Bool) (ed : Bool) (ea : Bool) : Statement (.ssth d o h byp ed ea) := by
  intro hw
  refine ⟨?_, ?_⟩
  · show decode (0x11#6 ++ d ++ o ++ h ++ 1#3 ++ BitVec.ofBool byp ++ BitVec.ofBool ed ++ BitVec.ofBool ea) (0) = .ok (.ssth d o h byp ed ea)
    rw [decode_11 _ _ (by simp (disch := decide) only [ext_high, Nat.reduceSub, ext_all])]
    simp (disch := decide) only [dec11, fld, bit, ext_low, ext_high, bit_low, bit_high, ext_all, bit_ofBool, Nat.reduceSub, BitVec.reduceToNat]
  · show isLong (0x11#6 ++ d ++ o ++ h ++ 1#3 ++ BitVec.ofBool byp ++ BitVec.ofBool ed ++ BitVec.ofBool ea) = false
    simp (disch := decide) only [isLong, fld, ext_low, ext_high, ext_all, Nat.reduceSub, Nat.reduceLT, decide_true, decide_false, BitVec.reduceToNat]

open RoundTrip in
theorem RoundTrip.sstw (d : BitVec 7) (o : BitVec 7) (h : BitVec 6) (byp : Bool) (ed : Bool) (ea : Bool) : Statement (.sstw d o h byp ed ea) := by
  intro hw
  refine ⟨?_, ?_⟩
  · show decode (0x11#6 ++ d ++ o ++ h ++ 2#3 ++ BitVec.ofBool byp ++ BitVec.ofBool ed ++ BitVec.ofBool ea) (0) = .ok (.sstw d o h byp ed ea)
    rw [decode_11 _ _ (by simp (disch := decide) only [ext_high, Nat.reduceSub, ext_all])]
    simp (disch := decide) only [dec11, fld, bit, ext_low, ext_high, bit_low, bit_high, ext_all, bit_ofBool, Nat.reduceSub, BitVec.reduceToNat]
  · show isLong (0x11#6 ++ d ++ o ++ h ++ 2#3 ++ BitVec.ofBool byp ++ BitVec.ofBool ed ++ BitVec.ofBool ea) = false
    simp (disch := decide) only [isLong, fld, ext_low, ext_high, ext_all, Nat.reduceSub, Nat.reduceLT, decide_true, decide_false, BitVec.reduceToNat]

open RoundTrip in
theorem RoundTrip.sstd (d : BitVec 7) (o : BitVec 7) (h : BitVec 6) (byp : Bool) (ed : Bool) (ea : Bool) : Statement (.sstd d o h byp ed ea) := by
  intro hw
  refine ⟨?_, ?_⟩
  · show decode (0x11#6 ++ d ++ o ++ h ++ 3#3 ++ BitVec.ofBool byp ++ BitVec.ofBool ed ++ BitVec.ofBool ea) (0) = .ok (.sstd d o h byp ed ea)
    rw [decode_11 _ _ (by simp (disch := decide) only [ext_high, Nat.reduceSub, ext_all])]
    simp (disch := decide) only [dec11, fld, bit, ext_low, ext_high, bit_low, bit_high, ext_all, bit_ofBool, Nat.reduceSub, BitVec.reduceToNat]
  · show isLong (0x11#6 ++ d ++ o ++ h ++ 3#3 ++ BitVec.ofBool byp ++ BitVec.ofBool ed ++ BitVec.ofBool ea) = false
    simp (disch := decide) only [isLong, fld, ext_low, ext_high, ext_all, Nat.reduceSub, Nat.reduceLT, decide_true, decide_false, BitVec.reduceToNat]

open RoundTrip in
theorem RoundTrip.vadd (d : BitVec 7) (a : BitVec 7) (b : BitVec 7) (ea : Bool) (eb : Bool) : Statement (.vadd d a b ea eb) := by
  intro hw
  refine ⟨?_, ?_⟩
  · show decode (0x12#6 ++ d ++ a ++ b ++ 0#3 ++ BitVec.ofBool ea ++ BitVec.ofBool eb) (0) = .ok (.vadd d a b ea eb)
    rw [decode_12 _ _ (by simp (disch := decide) only [ext_high, Nat.reduceSub, ext_all])]
    simp (disch := decide) only [dec12, fld, bit, ext_low, ext_high, bit_low, bit_high, ext_all, bit_ofBool, Nat.reduceSub, BitVec.reduceToNat]
  · show isLong (0x12#6 ++ d ++ a ++ b ++ 0#3 ++ BitVec.ofBool ea ++ BitVec.ofBool eb) = false
    simp (disch := decide) only [isLong, fld, ext_low, ext_high, ext_all, Nat.reduceSub, Nat.reduceLT, decide_true, decide_false, BitVec.reduceToNat]

open RoundTrip in
theorem RoundTrip.vsub (d : BitVec 7) (a : BitVec 7) (b : BitVec 7) (ea : Bool) (eb : Bool) : Statement (.vsub d a b ea eb) := by
  intro hw
  refine ⟨?_, ?_⟩
  · show decode (0x12#6 ++ d ++ a ++ b ++ 1#3 ++ BitVec.ofBool ea ++ BitVec.ofBool eb) (0) = .ok (.vsub d a b ea eb)
    rw [decode_12 _ _ (by simp (disch := decide) only [ext_high, Nat.reduceSub, ext_all])]
    simp (disch := decide) only [dec12, fld, bit, ext_low, ext_high, bit_low, bit_high, ext_all, bit_ofBool, Nat.reduceSub, BitVec.reduceToNat]
  · show isLong (0x12#6 ++ d ++ a ++ b ++ 1#3 ++ BitVec.ofBool ea ++ BitVec.ofBool eb) = false
    simp (disch := decide) only [isLong, fld, ext_low, ext_high, ext_all, Nat.reduceSub, Nat.reduceLT, decide_true, decide_false, BitVec.reduceToNat]

open RoundTrip in
theorem RoundTrip.vmullo (d : BitVec 7) (a : BitVec 7) (b : BitVec 7) (ea : Bool) (eb : Bool) : Statement (.vmullo d a b ea eb) := by
  intro hw
  refine ⟨?_, ?_⟩
  · show decode (0x12#6 ++ d ++ a ++ b ++ 2#3 ++ BitVec.ofBool ea ++ BitVec.ofBool eb) (0) = .ok (.vmullo d a b ea eb)
    rw [decode_12 _ _ (by simp (disch := decide) only [ext_high, Nat.reduceSub, ext_all])]
    simp (disch := decide) only [dec12, fld, bit, ext_low, ext_high, bit_low, bit_high, ext_all, bit_ofBool, Nat.reduceSub, BitVec.reduceToNat]
  · show isLong (0x12#6 ++ d ++ a ++ b ++ 2#3 ++ BitVec.ofBool ea ++ BitVec.ofBool eb) = false
    simp (disch := decide) only [isLong, fld, ext_low, ext_high, ext_all, Nat.reduceSub, Nat.reduceLT, decide_true, decide_false, BitVec.reduceToNat]

open RoundTrip in
theorem RoundTrip.vmulhi (d : BitVec 7) (a : BitVec 7) (b : BitVec 7) (ea : Bool) (eb : Bool) : Statement (.vmulhi d a b ea eb) := by
  intro hw
  refine ⟨?_, ?_⟩
  · show decode (0x12#6 ++ d ++ a ++ b ++ 3#3 ++ BitVec.ofBool ea ++ BitVec.ofBool eb) (0) = .ok (.vmulhi d a b ea eb)
    rw [decode_12 _ _ (by simp (disch := decide) only [ext_high, Nat.reduceSub, ext_all])]
    simp (disch := decide) only [dec12, fld, bit, ext_low, ext_high, bit_low, bit_high, ext_all, bit_ofBool, Nat.reduceSub, BitVec.reduceToNat]
  · show isLong (0x12#6 ++ d ++ a ++ b ++ 3#3 ++ BitVec.ofBool ea ++ BitVec.ofBool eb) = false
    simp (disch := decide) only [isLong, fld, ext_low, ext_high, ext_all, Nat.reduceSub, Nat.reduceLT, decide_true, decide_false, BitVec.reduceToNat]

open RoundTrip in
theorem RoundTrip.vmulhu (d : BitVec 7) (a : BitVec 7) (b : BitVec 7) (ea : Bool) (eb : Bool) : Statement (.vmulhu d a b ea eb) := by
  intro hw
  refine ⟨?_, ?_⟩
  · show decode (0x12#6 ++ d ++ a ++ b ++ 4#3 ++ BitVec.ofBool ea ++ BitVec.ofBool eb) (0) = .ok (.vmulhu d a b ea eb)
    rw [decode_12 _ _ (by simp (disch := decide) only [ext_high, Nat.reduceSub, ext_all])]
    simp (disch := decide) only [dec12, fld, bit, ext_low, ext_high, bit_low, bit_high, ext_all, bit_ofBool, Nat.reduceSub, BitVec.reduceToNat]
  · show isLong (0x12#6 ++ d ++ a ++ b ++ 4#3 ++ BitVec.ofBool ea ++ BitVec.ofBool eb) = false
    simp (disch := decide) only [isLong, fld, ext_low, ext_high, ext_all, Nat.reduceSub, Nat.reduceLT, decide_true, decide_false, BitVec.reduceToNat]

open RoundTrip in
theorem RoundTrip.vmin (d : BitVec 7) (a : BitVec 7) (b : BitVec 7) (ea : Bool) (eb : Bool) : Statement (.vmin d a b ea eb) := by
  intro hw
  refine ⟨?_, ?_⟩
  · show decode (0x12#6 ++ d ++ a ++ b ++ 5#3 ++ BitVec.ofBool ea ++ BitVec.ofBool eb) (0) = .ok (.vmin d a b ea eb)
    rw [decode_12 _ _ (by simp (disch := decide) only [ext_high, Nat.reduceSub, ext_all])]
    simp (disch := decide) only [dec12, fld, bit, ext_low, ext_high, bit_low, bit_high, ext_all, bit_ofBool, Nat.reduceSub, BitVec.reduceToNat]
  · show isLong (0x12#6 ++ d ++ a ++ b ++ 5#3 ++ BitVec.ofBool ea ++ BitVec.ofBool eb) = false
    simp (disch := decide) only [isLong, fld, ext_low, ext_high, ext_all, Nat.reduceSub, Nat.reduceLT, decide_true, decide_false, BitVec.reduceToNat]

open RoundTrip in
theorem RoundTrip.vmax (d : BitVec 7) (a : BitVec 7) (b : BitVec 7) (ea : Bool) (eb : Bool) : Statement (.vmax d a b ea eb) := by
  intro hw
  refine ⟨?_, ?_⟩
  · show decode (0x12#6 ++ d ++ a ++ b ++ 6#3 ++ BitVec.ofBool ea ++ BitVec.ofBool eb) (0) = .ok (.vmax d a b ea eb)
    rw [decode_12 _ _ (by simp (disch := decide) only [ext_high, Nat.reduceSub, ext_all])]
    simp (disch := decide) only [dec12, fld, bit, ext_low, ext_high, bit_low, bit_high, ext_all, bit_ofBool, Nat.reduceSub, BitVec.reduceToNat]
  · show isLong (0x12#6 ++ d ++ a ++ b ++ 6#3 ++ BitVec.ofBool ea ++ BitVec.ofBool eb) = false
    simp (disch := decide) only [isLong, fld, ext_low, ext_high, ext_all, Nat.reduceSub, Nat.reduceLT, decide_true, decide_false, BitVec.reduceToNat]

open RoundTrip in
theorem RoundTrip.vminu (d : BitVec 7) (a : BitVec 7) (b : BitVec 7) (ea : Bool) (eb : Bool) : Statement (.vminu d a b ea eb) := by
  intro hw
  refine ⟨?_, ?_⟩
  · show decode (0x12#6 ++ d ++ a ++ b ++ 7#3 ++ BitVec.ofBool ea ++ BitVec.ofBool eb) (0) = .ok (.vminu d a b ea eb)
    rw [decode_12 _ _ (by simp (disch := decide) only [ext_high, Nat.reduceSub, ext_all])]
    simp (disch := decide) only [dec12, fld, bit, ext_low, ext_high, bit_low, bit_high, ext_all, bit_ofBool, Nat.reduceSub, BitVec.reduceToNat]
  · show isLong (0x12#6 ++ d ++ a ++ b ++ 7#3 ++ BitVec.ofBool ea ++ BitVec.ofBool eb) = false
    simp (disch := decide) only [isLong, fld, ext_low, ext_high, ext_all, Nat.reduceSub, Nat.reduceLT, decide_true, decide_false, BitVec.reduceToNat]

open RoundTrip in
theorem RoundTrip.vand (d : BitVec 7) (a : BitVec 7) (b : BitVec 7) (ea : Bool) (eb : Bool) : Statement (.vand d a b ea eb) := by
  intro hw
  refine ⟨?_, ?_⟩
  · show decode (0x13#6 ++ d ++ a ++ b ++ 0#3 ++ BitVec.ofBool ea ++ BitVec.ofBool eb) (0) = .ok (.vand d a b ea eb)
    rw [decode_13 _ _ (by simp (disch := decide) only [ext_high, Nat.reduceSub, ext_all])]
    simp (disch := decide) only [dec13, fld, bit, ext_low, ext_high, bit_low, bit_high, ext_all, bit_ofBool, Nat.reduceSub, BitVec.reduceToNat]
  · show isLong (0x13#6 ++ d ++ a ++ b ++ 0#3 ++ BitVec.ofBool ea ++ BitVec.ofBool eb) = false
    simp (disch := decide) only [isLong, fld, ext_low, ext_high, ext_all, Nat.reduceSub, Nat.reduceLT, decide_true, decide_false, BitVec.reduceToNat]

open RoundTrip in
theorem RoundTrip.vor (d : BitVec 7) (a : BitVec 7) (b : BitVec 7) (ea : Bool) (eb : Bool) : Statement (.vor d a b ea eb) := by
  intro hw
  refine ⟨?_, ?_⟩
  · show decode (0x13#6 ++ d ++ a ++ b ++ 1#3 ++ BitVec.ofBool ea ++ BitVec.ofBool eb) (0) = .ok (.vor d a b ea eb)
    rw [decode_13 _ _ (by simp (disch := decide) only [ext_high, Nat.reduceSub, ext_all])]
    simp (disch := decide) only [dec13, fld, bit, ext_low, ext_high, bit_low, bit_high, ext_all, bit_ofBool, Nat.reduceSub, BitVec.reduceToNat]
  · show isLong (0x13#6 ++ d ++ a ++ b ++ 1#3 ++ BitVec.ofBool ea ++ BitVec.ofBool eb) = false
    simp (disch := decide) only [isLong, fld, ext_low, ext_high, ext_all, Nat.reduceSub, Nat.reduceLT, decide_true, decide_false, BitVec.reduceToNat]

open RoundTrip in
theorem RoundTrip.vxor (d : BitVec 7) (a : BitVec 7) (b : BitVec 7) (ea : Bool) (eb : Bool) : Statement (.vxor d a b ea eb) := by
  intro hw
  refine ⟨?_, ?_⟩
  · show decode (0x13#6 ++ d ++ a ++ b ++ 2#3 ++ BitVec.ofBool ea ++ BitVec.ofBool eb) (0) = .ok (.vxor d a b ea eb)
    rw [decode_13 _ _ (by simp (disch := decide) only [ext_high, Nat.reduceSub, ext_all])]
    simp (disch := decide) only [dec13, fld, bit, ext_low, ext_high, bit_low, bit_high, ext_all, bit_ofBool, Nat.reduceSub, BitVec.reduceToNat]
  · show isLong (0x13#6 ++ d ++ a ++ b ++ 2#3 ++ BitVec.ofBool ea ++ BitVec.ofBool eb) = false
    simp (disch := decide) only [isLong, fld, ext_low, ext_high, ext_all, Nat.reduceSub, Nat.reduceLT, decide_true, decide_false, BitVec.reduceToNat]

open RoundTrip in
theorem RoundTrip.vandn (d : BitVec 7) (a : BitVec 7) (b : BitVec 7) (ea : Bool) (eb : Bool) : Statement (.vandn d a b ea eb) := by
  intro hw
  refine ⟨?_, ?_⟩
  · show decode (0x13#6 ++ d ++ a ++ b ++ 3#3 ++ BitVec.ofBool ea ++ BitVec.ofBool eb) (0) = .ok (.vandn d a b ea eb)
    rw [decode_13 _ _ (by simp (disch := decide) only [ext_high, Nat.reduceSub, ext_all])]
    simp (disch := decide) only [dec13, fld, bit, ext_low, ext_high, bit_low, bit_high, ext_all, bit_ofBool, Nat.reduceSub, BitVec.reduceToNat]
  · show isLong (0x13#6 ++ d ++ a ++ b ++ 3#3 ++ BitVec.ofBool ea ++ BitVec.ofBool eb) = false
    simp (disch := decide) only [isLong, fld, ext_low, ext_high, ext_all, Nat.reduceSub, Nat.reduceLT, decide_true, decide_false, BitVec.reduceToNat]

open RoundTrip in
theorem RoundTrip.vshl (d : BitVec 7) (a : BitVec 7) (b : BitVec 7) (ea : Bool) (eb : Bool) : Statement (.vshl d a b ea eb) := by
  intro hw
  refine ⟨?_, ?_⟩
  · show decode (0x13#6 ++ d ++ a ++ b ++ 4#3 ++ BitVec.ofBool ea ++ BitVec.ofBool eb) (0) = .ok (.vshl d a b ea eb)
    rw [decode_13 _ _ (by simp (disch := decide) only [ext_high, Nat.reduceSub, ext_all])]
    simp (disch := decide) only [dec13, fld, bit, ext_low, ext_high, bit_low, bit_high, ext_all, bit_ofBool, Nat.reduceSub, BitVec.reduceToNat]
  · show isLong (0x13#6 ++ d ++ a ++ b ++ 4#3 ++ BitVec.ofBool ea ++ BitVec.ofBool eb) = false
    simp (disch := decide) only [isLong, fld, ext_low, ext_high, ext_all, Nat.reduceSub, Nat.reduceLT, decide_true, decide_false, BitVec.reduceToNat]

open RoundTrip in
theorem RoundTrip.vshr (d : BitVec 7) (a : BitVec 7) (b : BitVec 7) (ea : Bool) (eb : Bool) : Statement (.vshr d a b ea eb) := by
  intro hw
  refine ⟨?_, ?_⟩
  · show decode (0x13#6 ++ d ++ a ++ b ++ 5#3 ++ BitVec.ofBool ea ++ BitVec.ofBool eb) (0) = .ok (.vshr d a b ea eb)
    rw [decode_13 _ _ (by simp (disch := decide) only [ext_high, Nat.reduceSub, ext_all])]
    simp (disch := decide) only [dec13, fld, bit, ext_low, ext_high, bit_low, bit_high, ext_all, bit_ofBool, Nat.reduceSub, BitVec.reduceToNat]
  · show isLong (0x13#6 ++ d ++ a ++ b ++ 5#3 ++ BitVec.ofBool ea ++ BitVec.ofBool eb) = false
    simp (disch := decide) only [isLong, fld, ext_low, ext_high, ext_all, Nat.reduceSub, Nat.reduceLT, decide_true, decide_false, BitVec.reduceToNat]

open RoundTrip in
theorem RoundTrip.vsra (d : BitVec 7) (a : BitVec 7) (b : BitVec 7) (ea : Bool) (eb : Bool) : Statement (.vsra d a b ea eb) := by
  intro hw
  refine ⟨?_, ?_⟩
  · show decode (0x13#6 ++ d ++ a ++ b ++ 6#3 ++ BitVec.ofBool ea ++ BitVec.ofBool eb) (0) = .ok (.vsra d a b ea eb)
    rw [decode_13 _ _ (by simp (disch := decide) only [ext_high, Nat.reduceSub, ext_all])]
    simp (disch := decide) only [dec13, fld, bit, ext_low, ext_high, bit_low, bit_high, ext_all, bit_ofBool, Nat.reduceSub, BitVec.reduceToNat]
  · show isLong (0x13#6 ++ d ++ a ++ b ++ 6#3 ++ BitVec.ofBool ea ++ BitVec.ofBool eb) = false
    simp (disch := decide) only [isLong, fld, ext_low, ext_high, ext_all, Nat.reduceSub, Nat.reduceLT, decide_true, decide_false, BitVec.reduceToNat]

open RoundTrip in
theorem RoundTrip.vmaxu (d : BitVec 7) (a : BitVec 7) (b : BitVec 7) (ea : Bool) (eb : Bool) : Statement (.vmaxu d a b ea eb) := by
  intro hw
  refine ⟨?_, ?_⟩
  · show decode (0x13#6 ++ d ++ a ++ b ++ 7#3 ++ BitVec.ofBool ea ++ BitVec.ofBool eb) (0) = .ok (.vmaxu d a b ea eb)
    rw [decode_13 _ _ (by simp (disch := decide) only [ext_high, Nat.reduceSub, ext_all])]
    simp (disch := decide) only [dec13, fld, bit, ext_low, ext_high, bit_low, bit_high, ext_all, bit_ofBool, Nat.reduceSub, BitVec.reduceToNat]
  · show isLong (0x13#6 ++ d ++ a ++ b ++ 7#3 ++ BitVec.ofBool ea ++ BitVec.ofBool eb) = false
    simp (disch := decide) only [isLong, fld, ext_low, ext_high, ext_all, Nat.reduceSub, Nat.reduceLT, decide_true, decide_false, BitVec.reduceToNat]

open RoundTrip in
theorem RoundTrip.vadds (d : BitVec 7) (a : BitVec 7) (b : BitVec 7) (ea : Bool) (eb : Bool) : Statement (.vadds d a b ea eb) := by
  intro hw
  refine ⟨?_, ?_⟩
  · show decode (0x14#6 ++ d ++ a ++ b ++ 0#3 ++ BitVec.ofBool ea ++ BitVec.ofBool eb) (0) = .ok (.vadds d a b ea eb)
    rw [decode_14 _ _ (by simp (disch := decide) only [ext_high, Nat.reduceSub, ext_all])]
    simp (disch := decide) only [dec14, fld, bit, ext_low, ext_high, bit_low, bit_high, ext_all, bit_ofBool, Nat.reduceSub, BitVec.reduceToNat]
  · show isLong (0x14#6 ++ d ++ a ++ b ++ 0#3 ++ BitVec.ofBool ea ++ BitVec.ofBool eb) = false
    simp (disch := decide) only [isLong, fld, ext_low, ext_high, ext_all, Nat.reduceSub, Nat.reduceLT, decide_true, decide_false, BitVec.reduceToNat]

open RoundTrip in
theorem RoundTrip.vsubs (d : BitVec 7) (a : BitVec 7) (b : BitVec 7) (ea : Bool) (eb : Bool) : Statement (.vsubs d a b ea eb) := by
  intro hw
  refine ⟨?_, ?_⟩
  · show decode (0x14#6 ++ d ++ a ++ b ++ 1#3 ++ BitVec.ofBool ea ++ BitVec.ofBool eb) (0) = .ok (.vsubs d a b ea eb)
    rw [decode_14 _ _ (by simp (disch := decide) only [ext_high, Nat.reduceSub, ext_all])]
    simp (disch := decide) only [dec14, fld, bit, ext_low, ext_high, bit_low, bit_high, ext_all, bit_ofBool, Nat.reduceSub, BitVec.reduceToNat]
  · show isLong (0x14#6 ++ d ++ a ++ b ++ 1#3 ++ BitVec.ofBool ea ++ BitVec.ofBool eb) = false
    simp (disch := decide) only [isLong, fld, ext_low, ext_high, ext_all, Nat.reduceSub, Nat.reduceLT, decide_true, decide_false, BitVec.reduceToNat]

open RoundTrip in
theorem RoundTrip.vmuls (d : BitVec 7) (a : BitVec 7) (b : BitVec 7) (ea : Bool) (eb : Bool) : Statement (.vmuls d a b ea eb) := by
  intro hw
  refine ⟨?_, ?_⟩
  · show decode (0x14#6 ++ d ++ a ++ b ++ 2#3 ++ BitVec.ofBool ea ++ BitVec.ofBool eb) (0) = .ok (.vmuls d a b ea eb)
    rw [decode_14 _ _ (by simp (disch := decide) only [ext_high, Nat.reduceSub, ext_all])]
    simp (disch := decide) only [dec14, fld, bit, ext_low, ext_high, bit_low, bit_high, ext_all, bit_ofBool, Nat.reduceSub, BitVec.reduceToNat]
  · show isLong (0x14#6 ++ d ++ a ++ b ++ 2#3 ++ BitVec.ofBool ea ++ BitVec.ofBool eb) = false
    simp (disch := decide) only [isLong, fld, ext_low, ext_high, ext_all, Nat.reduceSub, Nat.reduceLT, decide_true, decide_false, BitVec.reduceToNat]

open RoundTrip in
theorem RoundTrip.vands (d : BitVec 7) (a : BitVec 7) (b : BitVec 7) (ea : Bool) (eb : Bool) : Statement (.vands d a b ea eb) := by
  intro hw
  refine ⟨?_, ?_⟩
  · show decode (0x14#6 ++ d ++ a ++ b ++ 3#3 ++ BitVec.ofBool ea ++ BitVec.ofBool eb) (0) = .ok (.vands d a b ea eb)
    rw [decode_14 _ _ (by simp (disch := decide) only [ext_high, Nat.reduceSub, ext_all])]
    simp (disch := decide) only [dec14, fld, bit, ext_low, ext_high, bit_low, bit_high, ext_all, bit_ofBool, Nat.reduceSub, BitVec.reduceToNat]
  · show isLong (0x14#6 ++ d ++ a ++ b ++ 3#3 ++ BitVec.ofBool ea ++ BitVec.ofBool eb) = false
    simp (disch := decide) only [isLong, fld, ext_low, ext_high, ext_all, Nat.reduceSub, Nat.reduceLT, decide_true, decide_false, BitVec.reduceToNat]

open RoundTrip in
theorem RoundTrip.vors (d : BitVec 7) (a : BitVec 7) (b : BitVec 7) (ea : Bool) (eb : Bool) : Statement (.vors d a b ea eb) := by
  intro hw
  refine ⟨?_, ?_⟩
  · show decode (0x14#6 ++ d ++ a ++ b ++ 4#3 ++ BitVec.ofBool ea ++ BitVec.ofBool eb) (0) = .ok (.vors d a b ea eb)
    rw [decode_14 _ _ (by simp (disch := decide) only [ext_high, Nat.reduceSub, ext_all])]
    simp (disch := decide) only [dec14, fld, bit, ext_low, ext_high, bit_low, bit_high, ext_all, bit_ofBool, Nat.reduceSub, BitVec.reduceToNat]
  · show isLong (0x14#6 ++ d ++ a ++ b ++ 4#3 ++ BitVec.ofBool ea ++ BitVec.ofBool eb) = false
    simp (disch := decide) only [isLong, fld, ext_low, ext_high, ext_all, Nat.reduceSub, Nat.reduceLT, decide_true, decide_false, BitVec.reduceToNat]

open RoundTrip in
theorem RoundTrip.vxors (d : BitVec 7) (a : BitVec 7) (b : BitVec 7) (ea : Bool) (eb : Bool) : Statement (.vxors d a b ea eb) := by
  intro hw
  refine ⟨?_, ?_⟩
  · show decode (0x14#6 ++ d ++ a ++ b ++ 5#3 ++ BitVec.ofBool ea ++ BitVec.ofBool eb) (0) = .ok (.vxors d a b ea eb)
    rw [decode_14 _ _ (by simp (disch := decide) only [ext_high, Nat.reduceSub, ext_all])]
    simp (disch := decide) only [dec14, fld, bit, ext_low, ext_high, bit_low, bit_high, ext_all, bit_ofBool, Nat.reduceSub, BitVec.reduceToNat]
  · show isLong (0x14#6 ++ d ++ a ++ b ++ 5#3 ++ BitVec.ofBool ea ++ BitVec.ofBool eb) = false
    simp (disch := decide) only [isLong, fld, ext_low, ext_high, ext_all, Nat.reduceSub, Nat.reduceLT, decide_true, decide_false, BitVec.reduceToNat]

open RoundTrip in
theorem RoundTrip.vshls (d : BitVec 7) (a : BitVec 7) (b : BitVec 7) (ea : Bool) (eb : Bool) : Statement (.vshls d a b ea eb) := by
  intro hw
  refine ⟨?_, ?_⟩
  · show decode (0x14#6 ++ d ++ a ++ b ++ 6#3 ++ BitVec.ofBool ea ++ BitVec.ofBool eb) (0) = .ok (.vshls d a b ea eb)
    rw [decode_14 _ _ (by simp (disch := decide) only [ext_high, Nat.reduceSub, ext_all])]
    simp (disch := decide) only [dec14, fld, bit, ext_low, ext_high, bit_low, bit_high, ext_all, bit_ofBool, Nat.reduceSub, BitVec.reduceToNat]
  · show isLong (0x14#6 ++ d ++ a ++ b ++ 6#3 ++ BitVec.ofBool ea ++ BitVec.ofBool eb) = false
    simp (disch := decide) only [isLong, fld, ext_low, ext_high, ext_all, Nat.reduceSub, Nat.reduceLT, decide_true, decide_false, BitVec.reduceToNat]

open RoundTrip in
theorem RoundTrip.vshrs (d : BitVec 7) (a : BitVec 7) (b : BitVec 7) (ea : Bool) (eb : Bool) : Statement (.vshrs d a b ea eb) := by
  intro hw
  refine ⟨?_, ?_⟩
  · show decode (0x14#6 ++ d ++ a ++ b ++ 7#3 ++ BitVec.ofBool ea ++ BitVec.ofBool eb) (0) = .ok (.vshrs d a b ea eb)
    rw [decode_14 _ _ (by simp (disch := decide) only [ext_high, Nat.reduceSub, ext_all])]
    simp (disch := decide) only [dec14, fld, bit, ext_low, ext_high, bit_low, bit_high, ext_all, bit_ofBool, Nat.reduceSub, BitVec.reduceToNat]
  · show isLong (0x14#6 ++ d ++ a ++ b ++ 7#3 ++ BitVec.ofBool ea ++ BitVec.ofBool eb) = false
    simp (disch := decide) only [isLong, fld, ext_low, ext_high, ext_all, Nat.reduceSub, Nat.reduceLT, decide_true, decide_false, BitVec.reduceToNat]

open RoundTrip in
theorem RoundTrip.vaddi (d : BitVec 7) (a : BitVec 7) (imm : BitVec 8) (ea : Bool) : Statement (.vaddi d a imm ea) := by
  intro hw
  refine ⟨?_, ?_⟩
  · show decode (0x15#6 ++ d ++ a ++ imm ++ 0#3 ++ BitVec.ofBool ea) (0) = .ok (.vaddi d a imm ea)
    rw [decode_15 _ _ (by simp (disch := decide) only [ext_high, Nat.reduceSub, ext_all])]
    simp (disch := decide) only [dec15, fld, bit, ext_low, ext_high, bit_low, bit_high, ext_all, bit_ofBool, Nat.reduceSub, BitVec.reduceToNat]
  · show isLong (0x15#6 ++ d ++ a ++ imm ++ 0#3 ++ BitVec.ofBool ea) = false
    simp (disch := decide) only [isLong, fld, ext_low, ext_high, ext_all, Nat.reduceSub, Nat.reduceLT, decide_true, decide_false, BitVec.reduceToNat]

open RoundTrip in
theorem RoundTrip.vandi (d : BitVec 7) (a : BitVec 7) (imm : BitVec 8) (ea : Bool) : Statement (.vandi d a imm ea) := by
  intro hw
  refine ⟨?_, ?_⟩
  · show decode (0x15#6 ++ d ++ a ++ imm ++ 1#3 ++ BitVec.ofBool ea) (0) = .ok (.vandi d a imm ea)
    rw [decode_15 _ _ (by simp (disch := decide) only [ext_high, Nat.reduceSub, ext_all])]
    simp (disch := decide) only [dec15, fld, bit, ext_low, ext_high, bit_low, bit_high, ext_all, bit_ofBool, Nat.reduceSub, BitVec.reduceToNat]
  · show isLong (0x15#6 ++ d ++ a ++ imm ++ 1#3 ++ BitVec.ofBool ea) = false
    simp (disch := decide) only [isLong, fld, ext_low, ext_high, ext_all, Nat.reduceSub, Nat.reduceLT, decide_true, decide_false, BitVec.reduceToNat]

open RoundTrip in
theorem RoundTrip.vori (d : BitVec 7) (a : BitVec 7) (imm : BitVec 8) (ea : Bool) : Statement (.vori d a imm ea) := by
  intro hw
  refine ⟨?_, ?_⟩
  · show decode (0x15#6 ++ d ++ a ++ imm ++ 2#3 ++ BitVec.ofBool ea) (0) = .ok (.vori d a imm ea)
    rw [decode_15 _ _ (by simp (disch := decide) only [ext_high, Nat.reduceSub, ext_all])]
    simp (disch := decide) only [dec15, fld, bit, ext_low, ext_high, bit_low, bit_high, ext_all, bit_ofBool, Nat.reduceSub, BitVec.reduceToNat]
  · show isLong (0x15#6 ++ d ++ a ++ imm ++ 2#3 ++ BitVec.ofBool ea) = false
    simp (disch := decide) only [isLong, fld, ext_low, ext_high, ext_all, Nat.reduceSub, Nat.reduceLT, decide_true, decide_false, BitVec.reduceToNat]

open RoundTrip in
theorem RoundTrip.vxori (d : BitVec 7) (a : BitVec 7) (imm : BitVec 8) (ea : Bool) : Statement (.vxori d a imm ea) := by
  intro hw
  refine ⟨?_, ?_⟩
  · show decode (0x15#6 ++ d ++ a ++ imm ++ 3#3 ++ BitVec.ofBool ea) (0) = .ok (.vxori d a imm ea)
    rw [decode_15 _ _ (by simp (disch := decide) only [ext_high, Nat.reduceSub, ext_all])]
    simp (disch := decide) only [dec15, fld, bit, ext_low, ext_high, bit_low, bit_high, ext_all, bit_ofBool, Nat.reduceSub, BitVec.reduceToNat]
  · show isLong (0x15#6 ++ d ++ a ++ imm ++ 3#3 ++ BitVec.ofBool ea) = false
    simp (disch := decide) only [isLong, fld, ext_low, ext_high, ext_all, Nat.reduceSub, Nat.reduceLT, decide_true, decide_false, BitVec.reduceToNat]

open RoundTrip in
theorem RoundTrip.vshli (d : BitVec 7) (a : BitVec 7) (imm : BitVec 8) (ea : Bool) : Statement (.vshli d a imm ea) := by
  intro hw
  refine ⟨?_, ?_⟩
  · show decode (0x15#6 ++ d ++ a ++ imm ++ 4#3 ++ BitVec.ofBool ea) (0) = .ok (.vshli d a imm ea)
    rw [decode_15 _ _ (by simp (disch := decide) only [ext_high, Nat.reduceSub, ext_all])]
    simp (disch := decide) only [dec15, fld, bit, ext_low, ext_high, bit_low, bit_high, ext_all, bit_ofBool, Nat.reduceSub, BitVec.reduceToNat]
    rw [if_pos (of_decide_eq_true hw)]
  · show isLong (0x15#6 ++ d ++ a ++ imm ++ 4#3 ++ BitVec.ofBool ea) = false
    simp (disch := decide) only [isLong, fld, ext_low, ext_high, ext_all, Nat.reduceSub, Nat.reduceLT, decide_true, decide_false, BitVec.reduceToNat]

open RoundTrip in
theorem RoundTrip.vshri (d : BitVec 7) (a : BitVec 7) (imm : BitVec 8) (ea : Bool) : Statement (.vshri d a imm ea) := by
  intro hw
  refine ⟨?_, ?_⟩
  · show decode (0x15#6 ++ d ++ a ++ imm ++ 5#3 ++ BitVec.ofBool ea) (0) = .ok (.vshri d a imm ea)
    rw [decode_15 _ _ (by simp (disch := decide) only [ext_high, Nat.reduceSub, ext_all])]
    simp (disch := decide) only [dec15, fld, bit, ext_low, ext_high, bit_low, bit_high, ext_all, bit_ofBool, Nat.reduceSub, BitVec.reduceToNat]
    rw [if_pos (of_decide_eq_true hw)]
  · show isLong (0x15#6 ++ d ++ a ++ imm ++ 5#3 ++ BitVec.ofBool ea) = false
    simp (disch := decide) only [isLong, fld, ext_low, ext_high, ext_all, Nat.reduceSub, Nat.reduceLT, decide_true, decide_false, BitVec.reduceToNat]

open RoundTrip in
theorem RoundTrip.vsrai (d : BitVec 7) (a : BitVec 7) (imm : BitVec 8) (ea : Bool) : Statement (.vsrai d a imm ea) := by
  intro hw
  refine ⟨?_, ?_⟩
  · show decode (0x15#6 ++ d ++ a ++ imm ++ 6#3 ++ BitVec.ofBool ea) (0) = .ok (.vsrai d a imm ea)
    rw [decode_15 _ _ (by simp (disch := decide) only [ext_high, Nat.reduceSub, ext_all])]
    simp (disch := decide) only [dec15, fld, bit, ext_low, ext_high, bit_low, bit_high, ext_all, bit_ofBool, Nat.reduceSub, BitVec.reduceToNat]
    rw [if_pos (of_decide_eq_true hw)]
  · show isLong (0x15#6 ++ d ++ a ++ imm ++ 6#3 ++ BitVec.ofBool ea) = false
    simp (disch := decide) only [isLong, fld, ext_low, ext_high, ext_all, Nat.reduceSub, Nat.reduceLT, decide_true, decide_false, BitVec.reduceToNat]

open RoundTrip in
theorem RoundTrip.vmuli (d : BitVec 7) (a : BitVec 7) (imm : BitVec 8) (ea : Bool) : Statement (.vmuli d a imm ea) := by
  intro hw
  refine ⟨?_, ?_⟩
  · show decode (0x15#6 ++ d ++ a ++ imm ++ 7#3 ++ BitVec.ofBool ea) (0) = .ok (.vmuli d a imm ea)
    rw [decode_15 _ _ (by simp (disch := decide) only [ext_high, Nat.reduceSub, ext_all])]
    simp (disch := decide) only [dec15, fld, bit, ext_low, ext_high, bit_low, bit_high, ext_all, bit_ofBool, Nat.reduceSub, BitVec.reduceToNat]
  · show isLong (0x15#6 ++ d ++ a ++ imm ++ 7#3 ++ BitVec.ofBool ea) = false
    simp (disch := decide) only [isLong, fld, ext_low, ext_high, ext_all, Nat.reduceSub, Nat.reduceLT, decide_true, decide_false, BitVec.reduceToNat]

open RoundTrip in
theorem RoundTrip.vceq (d : BitVec 7) (a : BitVec 7) (b : BitVec 7) (ea : Bool) (eb : Bool) : Statement (.vceq d a b ea eb) := by
  intro hw
  refine ⟨?_, ?_⟩
  · show decode (0x16#6 ++ d ++ a ++ b ++ 0#3 ++ BitVec.ofBool ea ++ BitVec.ofBool eb) (0) = .ok (.vceq d a b ea eb)
    rw [decode_16 _ _ (by simp (disch := decide) only [ext_high, Nat.reduceSub, ext_all])]
    simp (disch := decide) only [dec16, fld, bit, ext_low, ext_high, bit_low, bit_high, ext_all, bit_ofBool, Nat.reduceSub, BitVec.reduceToNat]
  · show isLong (0x16#6 ++ d ++ a ++ b ++ 0#3 ++ BitVec.ofBool ea ++ BitVec.ofBool eb) = false
    simp (disch := decide) only [isLong, fld, ext_low, ext_high, ext_all, Nat.reduceSub, Nat.reduceLT, decide_true, decide_false, BitVec.reduceToNat]

open RoundTrip in
theorem RoundTrip.vcne (d : BitVec 7) (a : BitVec 7) (b : BitVec 7) (ea : Bool) (eb : Bool) : Statement (.vcne d a b ea eb) := by
  intro hw
  refine ⟨?_, ?_⟩
  · show decode (0x16#6 ++ d ++ a ++ b ++ 1#3 ++ BitVec.ofBool ea ++ BitVec.ofBool eb) (0) = .ok (.vcne d a b ea eb)
    rw [decode_16 _ _ (by simp (disch := decide) only [ext_high, Nat.reduceSub, ext_all])]
    simp (disch := decide) only [dec16, fld, bit, ext_low, ext_high, bit_low, bit_high, ext_all, bit_ofBool, Nat.reduceSub, BitVec.reduceToNat]
  · show isLong (0x16#6 ++ d ++ a ++ b ++ 1#3 ++ BitVec.ofBool ea ++ BitVec.ofBool eb) = false
    simp (disch := decide) only [isLong, fld, ext_low, ext_high, ext_all, Nat.reduceSub, Nat.reduceLT, decide_true, decide_false, BitVec.reduceToNat]

open RoundTrip in
theorem RoundTrip.vclt (d : BitVec 7) (a : BitVec 7) (b : BitVec 7) (ea : Bool) (eb : Bool) : Statement (.vclt d a b ea eb) := by
  intro hw
  refine ⟨?_, ?_⟩
  · show decode (0x16#6 ++ d ++ a ++ b ++ 2#3 ++ BitVec.ofBool ea ++ BitVec.ofBool eb) (0) = .ok (.vclt d a b ea eb)
    rw [decode_16 _ _ (by simp (disch := decide) only [ext_high, Nat.reduceSub, ext_all])]
    simp (disch := decide) only [dec16, fld, bit, ext_low, ext_high, bit_low, bit_high, ext_all, bit_ofBool, Nat.reduceSub, BitVec.reduceToNat]
  · show isLong (0x16#6 ++ d ++ a ++ b ++ 2#3 ++ BitVec.ofBool ea ++ BitVec.ofBool eb) = false
    simp (disch := decide) only [isLong, fld, ext_low, ext_high, ext_all, Nat.reduceSub, Nat.reduceLT, decide_true, decide_false, BitVec.reduceToNat]

open RoundTrip in
theorem RoundTrip.vcle (d : BitVec 7) (a : BitVec 7) (b : BitVec 7) (ea : Bool) (eb : Bool) : Statement (.vcle d a b ea eb) := by
  intro hw
  refine ⟨?_, ?_⟩
  · show decode (0x16#6 ++ d ++ a ++ b ++ 3#3 ++ BitVec.ofBool ea ++ BitVec.ofBool eb) (0) = .ok (.vcle d a b ea eb)
    rw [decode_16 _ _ (by simp (disch := decide) only [ext_high, Nat.reduceSub, ext_all])]
    simp (disch := decide) only [dec16, fld, bit, ext_low, ext_high, bit_low, bit_high, ext_all, bit_ofBool, Nat.reduceSub, BitVec.reduceToNat]
  · show isLong (0x16#6 ++ d ++ a ++ b ++ 3#3 ++ BitVec.ofBool ea ++ BitVec.ofBool eb) = false
    simp (disch := decide) only [isLong, fld, ext_low, ext_high, ext_all, Nat.reduceSub, Nat.reduceLT, decide_true, decide_false, BitVec.reduceToNat]

open RoundTrip in
theorem RoundTrip.vcgt (d : BitVec 7) (a : BitVec 7) (b : BitVec 7) (ea : Bool) (eb : Bool) : Statement (.vcgt d a b ea eb) := by
  intro hw
  refine ⟨?_, ?_⟩
  · show decode (0x16#6 ++ d ++ a ++ b ++ 4#3 ++ BitVec.ofBool ea ++ BitVec.ofBool eb) (0) = .ok (.vcgt d a b ea eb)
    rw [decode_16 _ _ (by simp (disch := decide) only [ext_high, Nat.reduceSub, ext_all])]
    simp (disch := decide) only [dec16, fld, bit, ext_low, ext_high, bit_low, bit_high, ext_all, bit_ofBool, Nat.reduceSub, BitVec.reduceToNat]
  · show isLong (0x16#6 ++ d ++ a ++ b ++ 4#3 ++ BitVec.ofBool ea ++ BitVec.ofBool eb) = false
    simp (disch := decide) only [isLong, fld, ext_low, ext_high, ext_all, Nat.reduceSub, Nat.reduceLT, decide_true, decide_false, BitVec.reduceToNat]

open RoundTrip in
theorem RoundTrip.vcge (d : BitVec 7) (a : BitVec 7) (b : BitVec 7) (ea : Bool) (eb : Bool) : Statement (.vcge d a b ea eb) := by
  intro hw
  refine ⟨?_, ?_⟩
  · show decode (0x16#6 ++ d ++ a ++ b ++ 5#3 ++ BitVec.ofBool ea ++ BitVec.ofBool eb) (0) = .ok (.vcge d a b ea eb)
    rw [decode_16 _ _ (by simp (disch := decide) only [ext_high, Nat.reduceSub, ext_all])]
    simp (disch := decide) only [dec16, fld, bit, ext_low, ext_high, bit_low, bit_high, ext_all, bit_ofBool, Nat.reduceSub, BitVec.reduceToNat]
  · show isLong (0x16#6 ++ d ++ a ++ b ++ 5#3 ++ BitVec.ofBool ea ++ BitVec.ofBool eb) = false
    simp (disch := decide) only [isLong, fld, ext_low, ext_high, ext_all, Nat.reduceSub, Nat.reduceLT, decide_true, decide_false, BitVec.reduceToNat]

open RoundTrip in
theorem RoundTrip.vcltu (d : BitVec 7) (a : BitVec 7) (b : BitVec 7) (ea : Bool) (eb : Bool) : Statement (.vcltu d a b ea eb) := by
  intro hw
  refine ⟨?_, ?_⟩
  · show decode (0x16#6 ++ d ++ a ++ b ++ 6#3 ++ BitVec.ofBool ea ++ BitVec.ofBool eb) (0) = .ok (.vcltu d a b ea eb)
    rw [decode_16 _ _ (by simp (disch := decide) only [ext_high, Nat.reduceSub, ext_all])]
    simp (disch := decide) only [dec16, fld, bit, ext_low, ext_high, bit_low, bit_high, ext_all, bit_ofBool, Nat.reduceSub, BitVec.reduceToNat]
  · show isLong (0x16#6 ++ d ++ a ++ b ++ 6#3 ++ BitVec.ofBool ea ++ BitVec.ofBool eb) = false
    simp (disch := decide) only [isLong, fld, ext_low, ext_high, ext_all, Nat.reduceSub, Nat.reduceLT, decide_true, decide_false, BitVec.reduceToNat]

open RoundTrip in
theorem RoundTrip.vcleu (d : BitVec 7) (a : BitVec 7) (b : BitVec 7) (ea : Bool) (eb : Bool) : Statement (.vcleu d a b ea eb) := by
  intro hw
  refine ⟨?_, ?_⟩
  · show decode (0x16#6 ++ d ++ a ++ b ++ 7#3 ++ BitVec.ofBool ea ++ BitVec.ofBool eb) (0) = .ok (.vcleu d a b ea eb)
    rw [decode_16 _ _ (by simp (disch := decide) only [ext_high, Nat.reduceSub, ext_all])]
    simp (disch := decide) only [dec16, fld, bit, ext_low, ext_high, bit_low, bit_high, ext_all, bit_ofBool, Nat.reduceSub, BitVec.reduceToNat]
  · show isLong (0x16#6 ++ d ++ a ++ b ++ 7#3 ++ BitVec.ofBool ea ++ BitVec.ofBool eb) = false
    simp (disch := decide) only [isLong, fld, ext_low, ext_high, ext_all, Nat.reduceSub, Nat.reduceLT, decide_true, decide_false, BitVec.reduceToNat]

open RoundTrip in
theorem RoundTrip.vmov (d : BitVec 7) (a : BitVec 7) (ea : Bool) : Statement (.vmov d a ea) := by
  intro hw
  refine ⟨?_, ?_⟩
  · show decode (0x17#6 ++ d ++ a ++ 0#7 ++ 0#3 ++ BitVec.ofBool ea ++ 0#1) (0) = .ok (.vmov d a ea)
    rw [decode_17 _ _ (by simp (disch := decide) only [ext_high, Nat.reduceSub, ext_all])]
    simp (disch := decide) only [dec17, fld, bit, ext_low, ext_high, bit_low, bit_high, ext_all, bit_ofBool, Nat.reduceSub, BitVec.reduceToNat]
    exact checked_ok _ _ (and_append_zero (m := 31) (n := 1) _ _ _ (and_append_zero (m := 30) (n := 1) _ _ _ (and_append_zero (m := 27) (n := 3) _ _ _ (and_append_zero (m := 20) (n := 7) _ _ _ (and_append_zero (m := 13) (n := 7) _ _ _ (and_append_zero (m := 6) (n := 7) _ _ _ (BitVec.and_zero) (BitVec.and_zero)) (BitVec.and_zero)) (BitVec.zero_and)) (BitVec.zero_and)) (BitVec.and_zero)) (BitVec.zero_and))
  · show isLong (0x17#6 ++ d ++ a ++ 0#7 ++ 0#3 ++ BitVec.ofBool ea ++ 0#1) = false
    simp (disch := decide) only [isLong, fld, ext_low, ext_high, ext_all, Nat.reduceSub, Nat.reduceLT, decide_true, decide_false, BitVec.reduceToNat]

open RoundTrip in
theorem RoundTrip.vmovs (d : BitVec 7) (b : BitVec 7) (eb : Bool) : Statement (.vmovs d b eb) := by
  intro hw
  refine ⟨?_, ?_⟩
  · show decode (0x17#6 ++ d ++ 0#7 ++ b ++ 1#3 ++ 0#1 ++ BitVec.ofBool eb) (0) = .ok (.vmovs d b eb)
    rw [decode_17 _ _ (by simp (disch := decide) only [ext_high, Nat.reduceSub, ext_all])]
    simp (disch := decide) only [dec17, fld, bit, ext_low, ext_high, bit_low, bit_high, ext_all, bit_ofBool, Nat.reduceSub, BitVec.reduceToNat]
    exact checked_ok _ _ (and_append_zero (m := 31) (n := 1) _ _ _ (and_append_zero (m := 30) (n := 1) _ _ _ (and_append_zero (m := 27) (n := 3) _ _ _ (and_append_zero (m := 20) (n := 7) _ _ _ (and_append_zero (m := 13) (n := 7) _ _ _ (and_append_zero (m := 6) (n := 7) _ _ _ (BitVec.and_zero) (BitVec.and_zero)) (BitVec.zero_and)) (BitVec.and_zero)) (BitVec.and_zero)) (BitVec.zero_and)) (BitVec.and_zero))
  · show isLong (0x17#6 ++ d ++ 0#7 ++ b ++ 1#3 ++ 0#1 ++ BitVec.ofBool eb) = false
    simp (disch := decide) only [isLong, fld, ext_low, ext_high, ext_all, Nat.reduceSub, Nat.reduceLT, decide_true, decide_false, BitVec.reduceToNat]

open RoundTrip in
theorem RoundTrip.vtid (d : BitVec 7) : Statement (.vtid d) := by
  intro hw
  refine ⟨?_, ?_⟩
  · show decode (0x17#6 ++ d ++ 0#14 ++ 2#3 ++ 0#2) (0) = .ok (.vtid d)
    rw [decode_17 _ _ (by simp (disch := decide) only [ext_high, Nat.reduceSub, ext_all])]
    simp (disch := decide) only [dec17, fld, bit, ext_low, ext_high, bit_low, bit_high, ext_all, bit_ofBool, Nat.reduceSub, BitVec.reduceToNat]
    exact checked_ok _ _ (and_append_zero (m := 30) (n := 2) _ _ _ (and_append_zero (m := 27) (n := 3) _ _ _ (and_append_zero (m := 13) (n := 14) _ _ _ (and_append_zero (m := 6) (n := 7) _ _ _ (BitVec.and_zero) (BitVec.and_zero)) (BitVec.zero_and)) (BitVec.and_zero)) (BitVec.zero_and))
  · show isLong (0x17#6 ++ d ++ 0#14 ++ 2#3 ++ 0#2) = false
    simp (disch := decide) only [isLong, fld, ext_low, ext_high, ext_all, Nat.reduceSub, Nat.reduceLT, decide_true, decide_false, BitVec.reduceToNat]

open RoundTrip in
theorem RoundTrip.vclz (d : BitVec 7) (a : BitVec 7) (ea : Bool) : Statement (.vclz d a ea) := by
  intro hw
  refine ⟨?_, ?_⟩
  · show decode (0x17#6 ++ d ++ a ++ 0#7 ++ 3#3 ++ BitVec.ofBool ea ++ 0#1) (0) = .ok (.vclz d a ea)
    rw [decode_17 _ _ (by simp (disch := decide) only [ext_high, Nat.reduceSub, ext_all])]
    simp (disch := decide) only [dec17, fld, bit, ext_low, ext_high, bit_low, bit_high, ext_all, bit_ofBool, Nat.reduceSub, BitVec.reduceToNat]
    exact checked_ok _ _ (and_append_zero (m := 31) (n := 1) _ _ _ (and_append_zero (m := 30) (n := 1) _ _ _ (and_append_zero (m := 27) (n := 3) _ _ _ (and_append_zero (m := 20) (n := 7) _ _ _ (and_append_zero (m := 13) (n := 7) _ _ _ (and_append_zero (m := 6) (n := 7) _ _ _ (BitVec.and_zero) (BitVec.and_zero)) (BitVec.and_zero)) (BitVec.zero_and)) (BitVec.and_zero)) (BitVec.and_zero)) (BitVec.zero_and))
  · show isLong (0x17#6 ++ d ++ a ++ 0#7 ++ 3#3 ++ BitVec.ofBool ea ++ 0#1) = false
    simp (disch := decide) only [isLong, fld, ext_low, ext_high, ext_all, Nat.reduceSub, Nat.reduceLT, decide_true, decide_false, BitVec.reduceToNat]

open RoundTrip in
theorem RoundTrip.vpopc (d : BitVec 7) (a : BitVec 7) (ea : Bool) : Statement (.vpopc d a ea) := by
  intro hw
  refine ⟨?_, ?_⟩
  · show decode (0x17#6 ++ d ++ a ++ 0#7 ++ 4#3 ++ BitVec.ofBool ea ++ 0#1) (0) = .ok (.vpopc d a ea)
    rw [decode_17 _ _ (by simp (disch := decide) only [ext_high, Nat.reduceSub, ext_all])]
    simp (disch := decide) only [dec17, fld, bit, ext_low, ext_high, bit_low, bit_high, ext_all, bit_ofBool, Nat.reduceSub, BitVec.reduceToNat]
    exact checked_ok _ _ (and_append_zero (m := 31) (n := 1) _ _ _ (and_append_zero (m := 30) (n := 1) _ _ _ (and_append_zero (m := 27) (n := 3) _ _ _ (and_append_zero (m := 20) (n := 7) _ _ _ (and_append_zero (m := 13) (n := 7) _ _ _ (and_append_zero (m := 6) (n := 7) _ _ _ (BitVec.and_zero) (BitVec.and_zero)) (BitVec.and_zero)) (BitVec.zero_and)) (BitVec.and_zero)) (BitVec.and_zero)) (BitVec.zero_and))
  · show isLong (0x17#6 ++ d ++ a ++ 0#7 ++ 4#3 ++ BitVec.ofBool ea ++ 0#1) = false
    simp (disch := decide) only [isLong, fld, ext_low, ext_high, ext_all, Nat.reduceSub, Nat.reduceLT, decide_true, decide_false, BitVec.reduceToNat]

open RoundTrip in
theorem RoundTrip.vbrev (d : BitVec 7) (a : BitVec 7) (ea : Bool) : Statement (.vbrev d a ea) := by
  intro hw
  refine ⟨?_, ?_⟩
  · show decode (0x17#6 ++ d ++ a ++ 0#7 ++ 5#3 ++ BitVec.ofBool ea ++ 0#1) (0) = .ok (.vbrev d a ea)
    rw [decode_17 _ _ (by simp (disch := decide) only [ext_high, Nat.reduceSub, ext_all])]
    simp (disch := decide) only [dec17, fld, bit, ext_low, ext_high, bit_low, bit_high, ext_all, bit_ofBool, Nat.reduceSub, BitVec.reduceToNat]
    exact checked_ok _ _ (and_append_zero (m := 31) (n := 1) _ _ _ (and_append_zero (m := 30) (n := 1) _ _ _ (and_append_zero (m := 27) (n := 3) _ _ _ (and_append_zero (m := 20) (n := 7) _ _ _ (and_append_zero (m := 13) (n := 7) _ _ _ (and_append_zero (m := 6) (n := 7) _ _ _ (BitVec.and_zero) (BitVec.and_zero)) (BitVec.and_zero)) (BitVec.zero_and)) (BitVec.and_zero)) (BitVec.and_zero)) (BitVec.zero_and))
  · show isLong (0x17#6 ++ d ++ a ++ 0#7 ++ 5#3 ++ BitVec.ofBool ea ++ 0#1) = false
    simp (disch := decide) only [isLong, fld, ext_low, ext_high, ext_all, Nat.reduceSub, Nat.reduceLT, decide_true, decide_false, BitVec.reduceToNat]

open RoundTrip in
theorem RoundTrip.vwrx (a : BitVec 7) (b : BitVec 7) (ea : Bool) (eb : Bool) : Statement (.vwrx a b ea eb) := by
  intro hw
  refine ⟨?_, ?_⟩
  · show decode (0x17#6 ++ 0#7 ++ a ++ b ++ 6#3 ++ BitVec.ofBool ea ++ BitVec.ofBool eb) (0) = .ok (.vwrx a b ea eb)
    rw [decode_17 _ _ (by simp (disch := decide) only [ext_high, Nat.reduceSub, ext_all])]
    simp (disch := decide) only [dec17, fld, bit, ext_low, ext_high, bit_low, bit_high, ext_all, bit_ofBool, Nat.reduceSub, BitVec.reduceToNat]
    exact checked_ok _ _ (and_append_zero (m := 31) (n := 1) _ _ _ (and_append_zero (m := 30) (n := 1) _ _ _ (and_append_zero (m := 27) (n := 3) _ _ _ (and_append_zero (m := 20) (n := 7) _ _ _ (and_append_zero (m := 13) (n := 7) _ _ _ (and_append_zero (m := 6) (n := 7) _ _ _ (BitVec.and_zero) (BitVec.zero_and)) (BitVec.and_zero)) (BitVec.and_zero)) (BitVec.and_zero)) (BitVec.and_zero)) (BitVec.and_zero))
  · show isLong (0x17#6 ++ 0#7 ++ a ++ b ++ 6#3 ++ BitVec.ofBool ea ++ BitVec.ofBool eb) = false
    simp (disch := decide) only [isLong, fld, ext_low, ext_high, ext_all, Nat.reduceSub, Nat.reduceLT, decide_true, decide_false, BitVec.reduceToNat]

open RoundTrip in
theorem RoundTrip.vrdx (d : BitVec 7) (b : BitVec 7) (ea : Bool) (eb : Bool) : Statement (.vrdx d b ea eb) := by
  intro hw
  refine ⟨?_, ?_⟩
  · show decode (0x17#6 ++ d ++ 0#7 ++ b ++ 7#3 ++ BitVec.ofBool ea ++ BitVec.ofBool eb) (0) = .ok (.vrdx d b ea eb)
    rw [decode_17 _ _ (by simp (disch := decide) only [ext_high, Nat.reduceSub, ext_all])]
    simp (disch := decide) only [dec17, fld, bit, ext_low, ext_high, bit_low, bit_high, ext_all, bit_ofBool, Nat.reduceSub, BitVec.reduceToNat]
    exact checked_ok _ _ (and_append_zero (m := 31) (n := 1) _ _ _ (and_append_zero (m := 30) (n := 1) _ _ _ (and_append_zero (m := 27) (n := 3) _ _ _ (and_append_zero (m := 20) (n := 7) _ _ _ (and_append_zero (m := 13) (n := 7) _ _ _ (and_append_zero (m := 6) (n := 7) _ _ _ (BitVec.and_zero) (BitVec.and_zero)) (BitVec.zero_and)) (BitVec.and_zero)) (BitVec.and_zero)) (BitVec.and_zero)) (BitVec.and_zero))
  · show isLong (0x17#6 ++ d ++ 0#7 ++ b ++ 7#3 ++ BitVec.ofBool ea ++ BitVec.ofBool eb) = false
    simp (disch := decide) only [isLong, fld, ext_low, ext_high, ext_all, Nat.reduceSub, Nat.reduceLT, decide_true, decide_false, BitVec.reduceToNat]

open RoundTrip in
theorem RoundTrip.vfadd (d : BitVec 7) (a : BitVec 7) (b : BitVec 7) (ea : Bool) (eb : Bool) : Statement (.vfadd d a b ea eb) := by
  intro hw
  refine ⟨?_, ?_⟩
  · show decode (0x18#6 ++ d ++ a ++ b ++ 0#3 ++ BitVec.ofBool ea ++ BitVec.ofBool eb) (0) = .ok (.vfadd d a b ea eb)
    rw [decode_18 _ _ (by simp (disch := decide) only [ext_high, Nat.reduceSub, ext_all])]
    simp (disch := decide) only [dec18, fld, bit, ext_low, ext_high, bit_low, bit_high, ext_all, bit_ofBool, Nat.reduceSub, BitVec.reduceToNat]
  · show isLong (0x18#6 ++ d ++ a ++ b ++ 0#3 ++ BitVec.ofBool ea ++ BitVec.ofBool eb) = false
    simp (disch := decide) only [isLong, fld, ext_low, ext_high, ext_all, Nat.reduceSub, Nat.reduceLT, decide_true, decide_false, BitVec.reduceToNat]

open RoundTrip in
theorem RoundTrip.vfsub (d : BitVec 7) (a : BitVec 7) (b : BitVec 7) (ea : Bool) (eb : Bool) : Statement (.vfsub d a b ea eb) := by
  intro hw
  refine ⟨?_, ?_⟩
  · show decode (0x18#6 ++ d ++ a ++ b ++ 1#3 ++ BitVec.ofBool ea ++ BitVec.ofBool eb) (0) = .ok (.vfsub d a b ea eb)
    rw [decode_18 _ _ (by simp (disch := decide) only [ext_high, Nat.reduceSub, ext_all])]
    simp (disch := decide) only [dec18, fld, bit, ext_low, ext_high, bit_low, bit_high, ext_all, bit_ofBool, Nat.reduceSub, BitVec.reduceToNat]
  · show isLong (0x18#6 ++ d ++ a ++ b ++ 1#3 ++ BitVec.ofBool ea ++ BitVec.ofBool eb) = false
    simp (disch := decide) only [isLong, fld, ext_low, ext_high, ext_all, Nat.reduceSub, Nat.reduceLT, decide_true, decide_false, BitVec.reduceToNat]

open RoundTrip in
theorem RoundTrip.vfmul (d : BitVec 7) (a : BitVec 7) (b : BitVec 7) (ea : Bool) (eb : Bool) : Statement (.vfmul d a b ea eb) := by
  intro hw
  refine ⟨?_, ?_⟩
  · show decode (0x18#6 ++ d ++ a ++ b ++ 2#3 ++ BitVec.ofBool ea ++ BitVec.ofBool eb) (0) = .ok (.vfmul d a b ea eb)
    rw [decode_18 _ _ (by simp (disch := decide) only [ext_high, Nat.reduceSub, ext_all])]
    simp (disch := decide) only [dec18, fld, bit, ext_low, ext_high, bit_low, bit_high, ext_all, bit_ofBool, Nat.reduceSub, BitVec.reduceToNat]
  · show isLong (0x18#6 ++ d ++ a ++ b ++ 2#3 ++ BitVec.ofBool ea ++ BitVec.ofBool eb) = false
    simp (disch := decide) only [isLong, fld, ext_low, ext_high, ext_all, Nat.reduceSub, Nat.reduceLT, decide_true, decide_false, BitVec.reduceToNat]

open RoundTrip in
theorem RoundTrip.vfmin (d : BitVec 7) (a : BitVec 7) (b : BitVec 7) (ea : Bool) (eb : Bool) : Statement (.vfmin d a b ea eb) := by
  intro hw
  refine ⟨?_, ?_⟩
  · show decode (0x18#6 ++ d ++ a ++ b ++ 3#3 ++ BitVec.ofBool ea ++ BitVec.ofBool eb) (0) = .ok (.vfmin d a b ea eb)
    rw [decode_18 _ _ (by simp (disch := decide) only [ext_high, Nat.reduceSub, ext_all])]
    simp (disch := decide) only [dec18, fld, bit, ext_low, ext_high, bit_low, bit_high, ext_all, bit_ofBool, Nat.reduceSub, BitVec.reduceToNat]
  · show isLong (0x18#6 ++ d ++ a ++ b ++ 3#3 ++ BitVec.ofBool ea ++ BitVec.ofBool eb) = false
    simp (disch := decide) only [isLong, fld, ext_low, ext_high, ext_all, Nat.reduceSub, Nat.reduceLT, decide_true, decide_false, BitVec.reduceToNat]

open RoundTrip in
theorem RoundTrip.vfmax (d : BitVec 7) (a : BitVec 7) (b : BitVec 7) (ea : Bool) (eb : Bool) : Statement (.vfmax d a b ea eb) := by
  intro hw
  refine ⟨?_, ?_⟩
  · show decode (0x18#6 ++ d ++ a ++ b ++ 4#3 ++ BitVec.ofBool ea ++ BitVec.ofBool eb) (0) = .ok (.vfmax d a b ea eb)
    rw [decode_18 _ _ (by simp (disch := decide) only [ext_high, Nat.reduceSub, ext_all])]
    simp (disch := decide) only [dec18, fld, bit, ext_low, ext_high, bit_low, bit_high, ext_all, bit_ofBool, Nat.reduceSub, BitVec.reduceToNat]
  · show isLong (0x18#6 ++ d ++ a ++ b ++ 4#3 ++ BitVec.ofBool ea ++ BitVec.ofBool eb) = false
    simp (disch := decide) only [isLong, fld, ext_low, ext_high, ext_all, Nat.reduceSub, Nat.reduceLT, decide_true, decide_false, BitVec.reduceToNat]

open RoundTrip in
theorem RoundTrip.vfmac (d : BitVec 7) (a : BitVec 7) (b : BitVec 7) (ea : Bool) (eb : Bool) : Statement (.vfmac d a b ea eb) := by
  intro hw
  refine ⟨?_, ?_⟩
  · show decode (0x18#6 ++ d ++ a ++ b ++ 5#3 ++ BitVec.ofBool ea ++ BitVec.ofBool eb) (0) = .ok (.vfmac d a b ea eb)
    rw [decode_18 _ _ (by simp (disch := decide) only [ext_high, Nat.reduceSub, ext_all])]
    simp (disch := decide) only [dec18, fld, bit, ext_low, ext_high, bit_low, bit_high, ext_all, bit_ofBool, Nat.reduceSub, BitVec.reduceToNat]
  · show isLong (0x18#6 ++ d ++ a ++ b ++ 5#3 ++ BitVec.ofBool ea ++ BitVec.ofBool eb) = false
    simp (disch := decide) only [isLong, fld, ext_low, ext_high, ext_all, Nat.reduceSub, Nat.reduceLT, decide_true, decide_false, BitVec.reduceToNat]

open RoundTrip in
theorem RoundTrip.vfmsc (d : BitVec 7) (a : BitVec 7) (b : BitVec 7) (ea : Bool) (eb : Bool) : Statement (.vfmsc d a b ea eb) := by
  intro hw
  refine ⟨?_, ?_⟩
  · show decode (0x18#6 ++ d ++ a ++ b ++ 6#3 ++ BitVec.ofBool ea ++ BitVec.ofBool eb) (0) = .ok (.vfmsc d a b ea eb)
    rw [decode_18 _ _ (by simp (disch := decide) only [ext_high, Nat.reduceSub, ext_all])]
    simp (disch := decide) only [dec18, fld, bit, ext_low, ext_high, bit_low, bit_high, ext_all, bit_ofBool, Nat.reduceSub, BitVec.reduceToNat]
  · show isLong (0x18#6 ++ d ++ a ++ b ++ 6#3 ++ BitVec.ofBool ea ++ BitVec.ofBool eb) = false
    simp (disch := decide) only [isLong, fld, ext_low, ext_high, ext_all, Nat.reduceSub, Nat.reduceLT, decide_true, decide_false, BitVec.reduceToNat]

open RoundTrip in
theorem RoundTrip.vfnmac (d : BitVec 7) (a : BitVec 7) (b : BitVec 7) (ea : Bool) (eb : Bool) : Statement (.vfnmac d a b ea eb) := by
  intro hw
  refine ⟨?_, ?_⟩
  · show decode (0x18#6 ++ d ++ a ++ b ++ 7#3 ++ BitVec.ofBool ea ++ BitVec.ofBool eb) (0) = .ok (.vfnmac d a b ea eb)
    rw [decode_18 _ _ (by simp (disch := decide) only [ext_high, Nat.reduceSub, ext_all])]
    simp (disch := decide) only [dec18, fld, bit, ext_low, ext_high, bit_low, bit_high, ext_all, bit_ofBool, Nat.reduceSub, BitVec.reduceToNat]
  · show isLong (0x18#6 ++ d ++ a ++ b ++ 7#3 ++ BitVec.ofBool ea ++ BitVec.ofBool eb) = false
    simp (disch := decide) only [isLong, fld, ext_low, ext_high, ext_all, Nat.reduceSub, Nat.reduceLT, decide_true, decide_false, BitVec.reduceToNat]

open RoundTrip in
theorem RoundTrip.vfadds (d : BitVec 7) (a : BitVec 7) (b : BitVec 7) (ea : Bool) (eb : Bool) : Statement (.vfadds d a b ea eb) := by
  intro hw
  refine ⟨?_, ?_⟩
  · show decode (0x19#6 ++ d ++ a ++ b ++ 0#3 ++ BitVec.ofBool ea ++ BitVec.ofBool eb) (0) = .ok (.vfadds d a b ea eb)
    rw [decode_19 _ _ (by simp (disch := decide) only [ext_high, Nat.reduceSub, ext_all])]
    simp (disch := decide) only [dec19, fld, bit, ext_low, ext_high, bit_low, bit_high, ext_all, bit_ofBool, Nat.reduceSub, BitVec.reduceToNat]
  · show isLong (0x19#6 ++ d ++ a ++ b ++ 0#3 ++ BitVec.ofBool ea ++ BitVec.ofBool eb) = false
    simp (disch := decide) only [isLong, fld, ext_low, ext_high, ext_all, Nat.reduceSub, Nat.reduceLT, decide_true, decide_false, BitVec.reduceToNat]

open RoundTrip in
theorem RoundTrip.vfsubs (d : BitVec 7) (a : BitVec 7) (b : BitVec 7) (ea : Bool) (eb : Bool) : Statement (.vfsubs d a b ea eb) := by
  intro hw
  refine ⟨?_, ?_⟩
  · show decode (0x19#6 ++ d ++ a ++ b ++ 1#3 ++ BitVec.ofBool ea ++ BitVec.ofBool eb) (0) = .ok (.vfsubs d a b ea eb)
    rw [decode_19 _ _ (by simp (disch := decide) only [ext_high, Nat.reduceSub, ext_all])]
    simp (disch := decide) only [dec19, fld, bit, ext_low, ext_high, bit_low, bit_high, ext_all, bit_ofBool, Nat.reduceSub, BitVec.reduceToNat]
  · show isLong (0x19#6 ++ d ++ a ++ b ++ 1#3 ++ BitVec.ofBool ea ++ BitVec.ofBool eb) = false
    simp (disch := decide) only [isLong, fld, ext_low, ext_high, ext_all, Nat.reduceSub, Nat.reduceLT, decide_true, decide_false, BitVec.reduceToNat]

open RoundTrip in
theorem RoundTrip.vfmuls (d : BitVec 7) (a : BitVec 7) (b : BitVec 7) (ea : Bool) (eb : Bool) : Statement (.vfmuls d a b ea eb) := by
  intro hw
  refine ⟨?_, ?_⟩
  · show decode (0x19#6 ++ d ++ a ++ b ++ 2#3 ++ BitVec.ofBool ea ++ BitVec.ofBool eb) (0) = .ok (.vfmuls d a b ea eb)
    rw [decode_19 _ _ (by simp (disch := decide) only [ext_high, Nat.reduceSub, ext_all])]
    simp (disch := decide) only [dec19, fld, bit, ext_low, ext_high, bit_low, bit_high, ext_all, bit_ofBool, Nat.reduceSub, BitVec.reduceToNat]
  · show isLong (0x19#6 ++ d ++ a ++ b ++ 2#3 ++ BitVec.ofBool ea ++ BitVec.ofBool eb) = false
    simp (disch := decide) only [isLong, fld, ext_low, ext_high, ext_all, Nat.reduceSub, Nat.reduceLT, decide_true, decide_false, BitVec.reduceToNat]

open RoundTrip in
theorem RoundTrip.vfmacs (d : BitVec 7) (a : BitVec 7) (b : BitVec 7) (ea : Bool) (eb : Bool) : Statement (.vfmacs d a b ea eb) := by
  intro hw
  refine ⟨?_, ?_⟩
  · show decode (0x19#6 ++ d ++ a ++ b ++ 3#3 ++ BitVec.ofBool ea ++ BitVec.ofBool eb) (0) = .ok (.vfmacs d a b ea eb)
    rw [decode_19 _ _ (by simp (disch := decide) only [ext_high, Nat.reduceSub, ext_all])]
    simp (disch := decide) only [dec19, fld, bit, ext_low, ext_high, bit_low, bit_high, ext_all, bit_ofBool, Nat.reduceSub, BitVec.reduceToNat]
  · show isLong (0x19#6 ++ d ++ a ++ b ++ 3#3 ++ BitVec.ofBool ea ++ BitVec.ofBool eb) = false
    simp (disch := decide) only [isLong, fld, ext_low, ext_high, ext_all, Nat.reduceSub, Nat.reduceLT, decide_true, decide_false, BitVec.reduceToNat]

open RoundTrip in
theorem RoundTrip.vfmins (d : BitVec 7) (a : BitVec 7) (b : BitVec 7) (ea : Bool) (eb : Bool) : Statement (.vfmins d a b ea eb) := by
  intro hw
  refine ⟨?_, ?_⟩
  · show decode (0x19#6 ++ d ++ a ++ b ++ 4#3 ++ BitVec.ofBool ea ++ BitVec.ofBool eb) (0) = .ok (.vfmins d a b ea eb)
    rw [decode_19 _ _ (by simp (disch := decide) only [ext_high, Nat.reduceSub, ext_all])]
    simp (disch := decide) only [dec19, fld, bit, ext_low, ext_high, bit_low, bit_high, ext_all, bit_ofBool, Nat.reduceSub, BitVec.reduceToNat]
  · show isLong (0x19#6 ++ d ++ a ++ b ++ 4#3 ++ BitVec.ofBool ea ++ BitVec.ofBool eb) = false
    simp (disch := decide) only [isLong, fld, ext_low, ext_high, ext_all, Nat.reduceSub, Nat.reduceLT, decide_true, decide_false, BitVec.reduceToNat]

open RoundTrip in
theorem RoundTrip.vfmaxs (d : BitVec 7) (a : BitVec 7) (b : BitVec 7) (ea : Bool) (eb : Bool) : Statement (.vfmaxs d a b ea eb) := by
  intro hw
  refine ⟨?_, ?_⟩
  · show decode (0x19#6 ++ d ++ a ++ b ++ 5#3 ++ BitVec.ofBool ea ++ BitVec.ofBool eb) (0) = .ok (.vfmaxs d a b ea eb)
    rw [decode_19 _ _ (by simp (disch := decide) only [ext_high, Nat.reduceSub, ext_all])]
    simp (disch := decide) only [dec19, fld, bit, ext_low, ext_high, bit_low, bit_high, ext_all, bit_ofBool, Nat.reduceSub, BitVec.reduceToNat]
  · show isLong (0x19#6 ++ d ++ a ++ b ++ 5#3 ++ BitVec.ofBool ea ++ BitVec.ofBool eb) = false
    simp (disch := decide) only [isLong, fld, ext_low, ext_high, ext_all, Nat.reduceSub, Nat.reduceLT, decide_true, decide_false, BitVec.reduceToNat]

open RoundTrip in
theorem RoundTrip.vfceq (d : BitVec 7) (a : BitVec 7) (b : BitVec 7) (ea : Bool) (eb : Bool) : Statement (.vfceq d a b ea eb) := by
  intro hw
  refine ⟨?_, ?_⟩
  · show decode (0x1a#6 ++ d ++ a ++ b ++ 0#3 ++ BitVec.ofBool ea ++ BitVec.ofBool eb) (0) = .ok (.vfceq d a b ea eb)
    rw [decode_1a _ _ (by simp (disch := decide) only [ext_high, Nat.reduceSub, ext_all])]
    simp (disch := decide) only [dec1a, fld, bit, ext_low, ext_high, bit_low, bit_high, ext_all, bit_ofBool, Nat.reduceSub, BitVec.reduceToNat]
  · show isLong (0x1a#6 ++ d ++ a ++ b ++ 0#3 ++ BitVec.ofBool ea ++ BitVec.ofBool eb) = false
    simp (disch := decide) only [isLong, fld, ext_low, ext_high, ext_all, Nat.reduceSub, Nat.reduceLT, decide_true, decide_false, BitVec.reduceToNat]

open RoundTrip in
theorem RoundTrip.vfcne (d : BitVec 7) (a : BitVec 7) (b : BitVec 7) (ea : Bool) (eb : Bool) : Statement (.vfcne d a b ea eb) := by
  intro hw
  refine ⟨?_, ?_⟩
  · show decode (0x1a#6 ++ d ++ a ++ b ++ 1#3 ++ BitVec.ofBool ea ++ BitVec.ofBool eb) (0) = .ok (.vfcne d a b ea eb)
    rw [decode_1a _ _ (by simp (disch := decide) only [ext_high, Nat.reduceSub, ext_all])]
    simp (disch := decide) only [dec1a, fld, bit, ext_low, ext_high, bit_low, bit_high, ext_all, bit_ofBool, Nat.reduceSub, BitVec.reduceToNat]
  · show isLong (0x1a#6 ++ d ++ a ++ b ++ 1#3 ++ BitVec.ofBool ea ++ BitVec.ofBool eb) = false
    simp (disch := decide) only [isLong, fld, ext_low, ext_high, ext_all, Nat.reduceSub, Nat.reduceLT, decide_true, decide_false, BitVec.reduceToNat]

open RoundTrip in
theorem RoundTrip.vfclt (d : BitVec 7) (a : BitVec 7) (b : BitVec 7) (ea : Bool) (eb : Bool) : Statement (.vfclt d a b ea eb) := by
  intro hw
  refine ⟨?_, ?_⟩
  · show decode (0x1a#6 ++ d ++ a ++ b ++ 2#3 ++ BitVec.ofBool ea ++ BitVec.ofBool eb) (0) = .ok (.vfclt d a b ea eb)
    rw [decode_1a _ _ (by simp (disch := decide) only [ext_high, Nat.reduceSub, ext_all])]
    simp (disch := decide) only [dec1a, fld, bit, ext_low, ext_high, bit_low, bit_high, ext_all, bit_ofBool, Nat.reduceSub, BitVec.reduceToNat]
  · show isLong (0x1a#6 ++ d ++ a ++ b ++ 2#3 ++ BitVec.ofBool ea ++ BitVec.ofBool eb) = false
    simp (disch := decide) only [isLong, fld, ext_low, ext_high, ext_all, Nat.reduceSub, Nat.reduceLT, decide_true, decide_false, BitVec.reduceToNat]

open RoundTrip in
theorem RoundTrip.vfcle (d : BitVec 7) (a : BitVec 7) (b : BitVec 7) (ea : Bool) (eb : Bool) : Statement (.vfcle d a b ea eb) := by
  intro hw
  refine ⟨?_, ?_⟩
  · show decode (0x1a#6 ++ d ++ a ++ b ++ 3#3 ++ BitVec.ofBool ea ++ BitVec.ofBool eb) (0) = .ok (.vfcle d a b ea eb)
    rw [decode_1a _ _ (by simp (disch := decide) only [ext_high, Nat.reduceSub, ext_all])]
    simp (disch := decide) only [dec1a, fld, bit, ext_low, ext_high, bit_low, bit_high, ext_all, bit_ofBool, Nat.reduceSub, BitVec.reduceToNat]
  · show isLong (0x1a#6 ++ d ++ a ++ b ++ 3#3 ++ BitVec.ofBool ea ++ BitVec.ofBool eb) = false
    simp (disch := decide) only [isLong, fld, ext_low, ext_high, ext_all, Nat.reduceSub, Nat.reduceLT, decide_true, decide_false, BitVec.reduceToNat]

open RoundTrip in
theorem RoundTrip.vfcun (d : BitVec 7) (a : BitVec 7) (b : BitVec 7) (ea : Bool) (eb : Bool) : Statement (.vfcun d a b ea eb) := by
  intro hw
  refine ⟨?_, ?_⟩
  · show decode (0x1a#6 ++ d ++ a ++ b ++ 4#3 ++ BitVec.ofBool ea ++ BitVec.ofBool eb) (0) = .ok (.vfcun d a b ea eb)
    rw [decode_1a _ _ (by simp (disch := decide) only [ext_high, Nat.reduceSub, ext_all])]
    simp (disch := decide) only [dec1a, fld, bit, ext_low, ext_high, bit_low, bit_high, ext_all, bit_ofBool, Nat.reduceSub, BitVec.reduceToNat]
  · show isLong (0x1a#6 ++ d ++ a ++ b ++ 4#3 ++ BitVec.ofBool ea ++ BitVec.ofBool eb) = false
    simp (disch := decide) only [isLong, fld, ext_low, ext_high, ext_all, Nat.reduceSub, Nat.reduceLT, decide_true, decide_false, BitVec.reduceToNat]

open RoundTrip in
theorem RoundTrip.vfslt (d : BitVec 7) (a : BitVec 7) (b : BitVec 7) (ea : Bool) (eb : Bool) : Statement (.vfslt d a b ea eb) := by
  intro hw
  refine ⟨?_, ?_⟩
  · show decode (0x1a#6 ++ d ++ a ++ b ++ 5#3 ++ BitVec.ofBool ea ++ BitVec.ofBool eb) (0) = .ok (.vfslt d a b ea eb)
    rw [decode_1a _ _ (by simp (disch := decide) only [ext_high, Nat.reduceSub, ext_all])]
    simp (disch := decide) only [dec1a, fld, bit, ext_low, ext_high, bit_low, bit_high, ext_all, bit_ofBool, Nat.reduceSub, BitVec.reduceToNat]
  · show isLong (0x1a#6 ++ d ++ a ++ b ++ 5#3 ++ BitVec.ofBool ea ++ BitVec.ofBool eb) = false
    simp (disch := decide) only [isLong, fld, ext_low, ext_high, ext_all, Nat.reduceSub, Nat.reduceLT, decide_true, decide_false, BitVec.reduceToNat]

open RoundTrip in
theorem RoundTrip.vfsle (d : BitVec 7) (a : BitVec 7) (b : BitVec 7) (ea : Bool) (eb : Bool) : Statement (.vfsle d a b ea eb) := by
  intro hw
  refine ⟨?_, ?_⟩
  · show decode (0x1a#6 ++ d ++ a ++ b ++ 6#3 ++ BitVec.ofBool ea ++ BitVec.ofBool eb) (0) = .ok (.vfsle d a b ea eb)
    rw [decode_1a _ _ (by simp (disch := decide) only [ext_high, Nat.reduceSub, ext_all])]
    simp (disch := decide) only [dec1a, fld, bit, ext_low, ext_high, bit_low, bit_high, ext_all, bit_ofBool, Nat.reduceSub, BitVec.reduceToNat]
  · show isLong (0x1a#6 ++ d ++ a ++ b ++ 6#3 ++ BitVec.ofBool ea ++ BitVec.ofBool eb) = false
    simp (disch := decide) only [isLong, fld, ext_low, ext_high, ext_all, Nat.reduceSub, Nat.reduceLT, decide_true, decide_false, BitVec.reduceToNat]

open RoundTrip in
theorem RoundTrip.vhadd (d : BitVec 7) (a : BitVec 7) (b : BitVec 7) (ea : Bool) (eb : Bool) : Statement (.vhadd d a b ea eb) := by
  intro hw
  refine ⟨?_, ?_⟩
  · show decode (0x1b#6 ++ d ++ a ++ b ++ 0#3 ++ BitVec.ofBool ea ++ BitVec.ofBool eb) (0) = .ok (.vhadd d a b ea eb)
    rw [decode_1b _ _ (by simp (disch := decide) only [ext_high, Nat.reduceSub, ext_all])]
    simp (disch := decide) only [dec1b, fld, bit, ext_low, ext_high, bit_low, bit_high, ext_all, bit_ofBool, Nat.reduceSub, BitVec.reduceToNat]
  · show isLong (0x1b#6 ++ d ++ a ++ b ++ 0#3 ++ BitVec.ofBool ea ++ BitVec.ofBool eb) = false
    simp (disch := decide) only [isLong, fld, ext_low, ext_high, ext_all, Nat.reduceSub, Nat.reduceLT, decide_true, decide_false, BitVec.reduceToNat]

open RoundTrip in
theorem RoundTrip.vhmul (d : BitVec 7) (a : BitVec 7) (b : BitVec 7) (ea : Bool) (eb : Bool) : Statement (.vhmul d a b ea eb) := by
  intro hw
  refine ⟨?_, ?_⟩
  · show decode (0x1b#6 ++ d ++ a ++ b ++ 1#3 ++ BitVec.ofBool ea ++ BitVec.ofBool eb) (0) = .ok (.vhmul d a b ea eb)
    rw [decode_1b _ _ (by simp (disch := decide) only [ext_high, Nat.reduceSub, ext_all])]
    simp (disch := decide) only [dec1b, fld, bit, ext_low, ext_high, bit_low, bit_high, ext_all, bit_ofBool, Nat.reduceSub, BitVec.reduceToNat]
  · show isLong (0x1b#6 ++ d ++ a ++ b ++ 1#3 ++ BitVec.ofBool ea ++ BitVec.ofBool eb) = false
    simp (disch := decide) only [isLong, fld, ext_low, ext_high, ext_all, Nat.reduceSub, Nat.reduceLT, decide_true, decide_false, BitVec.reduceToNat]

open RoundTrip in
theorem RoundTrip.vhmac (d : BitVec 7) (a : BitVec 7) (b : BitVec 7) (ea : Bool) (eb : Bool) : Statement (.vhmac d a b ea eb) := by
  intro hw
  refine ⟨?_, ?_⟩
  · show decode (0x1b#6 ++ d ++ a ++ b ++ 2#3 ++ BitVec.ofBool ea ++ BitVec.ofBool eb) (0) = .ok (.vhmac d a b ea eb)
    rw [decode_1b _ _ (by simp (disch := decide) only [ext_high, Nat.reduceSub, ext_all])]
    simp (disch := decide) only [dec1b, fld, bit, ext_low, ext_high, bit_low, bit_high, ext_all, bit_ofBool, Nat.reduceSub, BitVec.reduceToNat]
  · show isLong (0x1b#6 ++ d ++ a ++ b ++ 2#3 ++ BitVec.ofBool ea ++ BitVec.ofBool eb) = false
    simp (disch := decide) only [isLong, fld, ext_low, ext_high, ext_all, Nat.reduceSub, Nat.reduceLT, decide_true, decide_false, BitVec.reduceToNat]

open RoundTrip in
theorem RoundTrip.vbadd (d : BitVec 7) (a : BitVec 7) (b : BitVec 7) (ea : Bool) (eb : Bool) : Statement (.vbadd d a b ea eb) := by
  intro hw
  refine ⟨?_, ?_⟩
  · show decode (0x1b#6 ++ d ++ a ++ b ++ 3#3 ++ BitVec.ofBool ea ++ BitVec.ofBool eb) (0) = .ok (.vbadd d a b ea eb)
    rw [decode_1b _ _ (by simp (disch := decide) only [ext_high, Nat.reduceSub, ext_all])]
    simp (disch := decide) only [dec1b, fld, bit, ext_low, ext_high, bit_low, bit_high, ext_all, bit_ofBool, Nat.reduceSub, BitVec.reduceToNat]
  · show isLong (0x1b#6 ++ d ++ a ++ b ++ 3#3 ++ BitVec.ofBool ea ++ BitVec.ofBool eb) = false
    simp (disch := decide) only [isLong, fld, ext_low, ext_high, ext_all, Nat.reduceSub, Nat.reduceLT, decide_true, decide_false, BitVec.reduceToNat]

open RoundTrip in
theorem RoundTrip.vbmul (d : BitVec 7) (a : BitVec 7) (b : BitVec 7) (ea : Bool) (eb : Bool) : Statement (.vbmul d a b ea eb) := by
  intro hw
  refine ⟨?_, ?_⟩
  · show decode (0x1b#6 ++ d ++ a ++ b ++ 4#3 ++ BitVec.ofBool ea ++ BitVec.ofBool eb) (0) = .ok (.vbmul d a b ea eb)
    rw [decode_1b _ _ (by simp (disch := decide) only [ext_high, Nat.reduceSub, ext_all])]
    simp (disch := decide) only [dec1b, fld, bit, ext_low, ext_high, bit_low, bit_high, ext_all, bit_ofBool, Nat.reduceSub, BitVec.reduceToNat]
  · show isLong (0x1b#6 ++ d ++ a ++ b ++ 4#3 ++ BitVec.ofBool ea ++ BitVec.ofBool eb) = false
    simp (disch := decide) only [isLong, fld, ext_low, ext_high, ext_all, Nat.reduceSub, Nat.reduceLT, decide_true, decide_false, BitVec.reduceToNat]

open RoundTrip in
theorem RoundTrip.vbmac (d : BitVec 7) (a : BitVec 7) (b : BitVec 7) (ea : Bool) (eb : Bool) : Statement (.vbmac d a b ea eb) := by
  intro hw
  refine ⟨?_, ?_⟩
  · show decode (0x1b#6 ++ d ++ a ++ b ++ 5#3 ++ BitVec.ofBool ea ++ BitVec.ofBool eb) (0) = .ok (.vbmac d a b ea eb)
    rw [decode_1b _ _ (by simp (disch := decide) only [ext_high, Nat.reduceSub, ext_all])]
    simp (disch := decide) only [dec1b, fld, bit, ext_low, ext_high, bit_low, bit_high, ext_all, bit_ofBool, Nat.reduceSub, BitVec.reduceToNat]
  · show isLong (0x1b#6 ++ d ++ a ++ b ++ 5#3 ++ BitVec.ofBool ea ++ BitVec.ofBool eb) = false
    simp (disch := decide) only [isLong, fld, ext_low, ext_high, ext_all, Nat.reduceSub, Nat.reduceLT, decide_true, decide_false, BitVec.reduceToNat]

open RoundTrip in
theorem RoundTrip.vhdot (d : BitVec 7) (a : BitVec 7) (b : BitVec 7) (ea : Bool) (eb : Bool) : Statement (.vhdot d a b ea eb) := by
  intro hw
  refine ⟨?_, ?_⟩
  · show decode (0x1b#6 ++ d ++ a ++ b ++ 6#3 ++ BitVec.ofBool ea ++ BitVec.ofBool eb) (0) = .ok (.vhdot d a b ea eb)
    rw [decode_1b _ _ (by simp (disch := decide) only [ext_high, Nat.reduceSub, ext_all])]
    simp (disch := decide) only [dec1b, fld, bit, ext_low, ext_high, bit_low, bit_high, ext_all, bit_ofBool, Nat.reduceSub, BitVec.reduceToNat]
  · show isLong (0x1b#6 ++ d ++ a ++ b ++ 6#3 ++ BitVec.ofBool ea ++ BitVec.ofBool eb) = false
    simp (disch := decide) only [isLong, fld, ext_low, ext_high, ext_all, Nat.reduceSub, Nat.reduceLT, decide_true, decide_false, BitVec.reduceToNat]

open RoundTrip in
theorem RoundTrip.vbdot (d : BitVec 7) (a : BitVec 7) (b : BitVec 7) (ea : Bool) (eb : Bool) : Statement (.vbdot d a b ea eb) := by
  intro hw
  refine ⟨?_, ?_⟩
  · show decode (0x1b#6 ++ d ++ a ++ b ++ 7#3 ++ BitVec.ofBool ea ++ BitVec.ofBool eb) (0) = .ok (.vbdot d a b ea eb)
    rw [decode_1b _ _ (by simp (disch := decide) only [ext_high, Nat.reduceSub, ext_all])]
    simp (disch := decide) only [dec1b, fld, bit, ext_low, ext_high, bit_low, bit_high, ext_all, bit_ofBool, Nat.reduceSub, BitVec.reduceToNat]
  · show isLong (0x1b#6 ++ d ++ a ++ b ++ 7#3 ++ BitVec.ofBool ea ++ BitVec.ofBool eb) = false
    simp (disch := decide) only [isLong, fld, ext_low, ext_high, ext_all, Nat.reduceSub, Nat.reduceLT, decide_true, decide_false, BitVec.reduceToNat]

open RoundTrip in
theorem RoundTrip.vrcp (d : BitVec 7) (a : BitVec 7) (ea : Bool) : Statement (.vrcp d a ea) := by
  intro hw
  refine ⟨?_, ?_⟩
  · show decode (0x1d#6 ++ d ++ a ++ 0#7 ++ 0#3 ++ BitVec.ofBool ea ++ 0#1) (0) = .ok (.vrcp d a ea)
    rw [decode_1d _ _ (by simp (disch := decide) only [ext_high, Nat.reduceSub, ext_all])]
    simp (disch := decide) only [dec1d, fld, bit, ext_low, ext_high, bit_low, bit_high, ext_all, bit_ofBool, Nat.reduceSub, BitVec.reduceToNat]
    exact checked_ok _ _ (and_append_zero (m := 31) (n := 1) _ _ _ (and_append_zero (m := 30) (n := 1) _ _ _ (and_append_zero (m := 27) (n := 3) _ _ _ (and_append_zero (m := 20) (n := 7) _ _ _ (and_append_zero (m := 13) (n := 7) _ _ _ (and_append_zero (m := 6) (n := 7) _ _ _ (BitVec.and_zero) (BitVec.and_zero)) (BitVec.and_zero)) (BitVec.zero_and)) (BitVec.zero_and)) (BitVec.and_zero)) (BitVec.zero_and))
  · show isLong (0x1d#6 ++ d ++ a ++ 0#7 ++ 0#3 ++ BitVec.ofBool ea ++ 0#1) = false
    simp (disch := decide) only [isLong, fld, ext_low, ext_high, ext_all, Nat.reduceSub, Nat.reduceLT, decide_true, decide_false, BitVec.reduceToNat]

open RoundTrip in
theorem RoundTrip.vrsq (d : BitVec 7) (a : BitVec 7) (ea : Bool) : Statement (.vrsq d a ea) := by
  intro hw
  refine ⟨?_, ?_⟩
  · show decode (0x1d#6 ++ d ++ a ++ 0#7 ++ 1#3 ++ BitVec.ofBool ea ++ 0#1) (0) = .ok (.vrsq d a ea)
    rw [decode_1d _ _ (by simp (disch := decide) only [ext_high, Nat.reduceSub, ext_all])]
    simp (disch := decide) only [dec1d, fld, bit, ext_low, ext_high, bit_low, bit_high, ext_all, bit_ofBool, Nat.reduceSub, BitVec.reduceToNat]
    exact checked_ok _ _ (and_append_zero (m := 31) (n := 1) _ _ _ (and_append_zero (m := 30) (n := 1) _ _ _ (and_append_zero (m := 27) (n := 3) _ _ _ (and_append_zero (m := 20) (n := 7) _ _ _ (and_append_zero (m := 13) (n := 7) _ _ _ (and_append_zero (m := 6) (n := 7) _ _ _ (BitVec.and_zero) (BitVec.and_zero)) (BitVec.and_zero)) (BitVec.zero_and)) (BitVec.and_zero)) (BitVec.and_zero)) (BitVec.zero_and))
  · show isLong (0x1d#6 ++ d ++ a ++ 0#7 ++ 1#3 ++ BitVec.ofBool ea ++ 0#1) = false
    simp (disch := decide) only [isLong, fld, ext_low, ext_high, ext_all, Nat.reduceSub, Nat.reduceLT, decide_true, decide_false, BitVec.reduceToNat]

open RoundTrip in
theorem RoundTrip.vsqrt (d : BitVec 7) (a : BitVec 7) (ea : Bool) : Statement (.vsqrt d a ea) := by
  intro hw
  refine ⟨?_, ?_⟩
  · show decode (0x1d#6 ++ d ++ a ++ 0#7 ++ 2#3 ++ BitVec.ofBool ea ++ 0#1) (0) = .ok (.vsqrt d a ea)
    rw [decode_1d _ _ (by simp (disch := decide) only [ext_high, Nat.reduceSub, ext_all])]
    simp (disch := decide) only [dec1d, fld, bit, ext_low, ext_high, bit_low, bit_high, ext_all, bit_ofBool, Nat.reduceSub, BitVec.reduceToNat]
    exact checked_ok _ _ (and_append_zero (m := 31) (n := 1) _ _ _ (and_append_zero (m := 30) (n := 1) _ _ _ (and_append_zero (m := 27) (n := 3) _ _ _ (and_append_zero (m := 20) (n := 7) _ _ _ (and_append_zero (m := 13) (n := 7) _ _ _ (and_append_zero (m := 6) (n := 7) _ _ _ (BitVec.and_zero) (BitVec.and_zero)) (BitVec.and_zero)) (BitVec.zero_and)) (BitVec.and_zero)) (BitVec.and_zero)) (BitVec.zero_and))
  · show isLong (0x1d#6 ++ d ++ a ++ 0#7 ++ 2#3 ++ BitVec.ofBool ea ++ 0#1) = false
    simp (disch := decide) only [isLong, fld, ext_low, ext_high, ext_all, Nat.reduceSub, Nat.reduceLT, decide_true, decide_false, BitVec.reduceToNat]

open RoundTrip in
theorem RoundTrip.vexp2 (d : BitVec 7) (a : BitVec 7) (ea : Bool) : Statement (.vexp2 d a ea) := by
  intro hw
  refine ⟨?_, ?_⟩
  · show decode (0x1d#6 ++ d ++ a ++ 0#7 ++ 3#3 ++ BitVec.ofBool ea ++ 0#1) (0) = .ok (.vexp2 d a ea)
    rw [decode_1d _ _ (by simp (disch := decide) only [ext_high, Nat.reduceSub, ext_all])]
    simp (disch := decide) only [dec1d, fld, bit, ext_low, ext_high, bit_low, bit_high, ext_all, bit_ofBool, Nat.reduceSub, BitVec.reduceToNat]
    exact checked_ok _ _ (and_append_zero (m := 31) (n := 1) _ _ _ (and_append_zero (m := 30) (n := 1) _ _ _ (and_append_zero (m := 27) (n := 3) _ _ _ (and_append_zero (m := 20) (n := 7) _ _ _ (and_append_zero (m := 13) (n := 7) _ _ _ (and_append_zero (m := 6) (n := 7) _ _ _ (BitVec.and_zero) (BitVec.and_zero)) (BitVec.and_zero)) (BitVec.zero_and)) (BitVec.and_zero)) (BitVec.and_zero)) (BitVec.zero_and))
  · show isLong (0x1d#6 ++ d ++ a ++ 0#7 ++ 3#3 ++ BitVec.ofBool ea ++ 0#1) = false
    simp (disch := decide) only [isLong, fld, ext_low, ext_high, ext_all, Nat.reduceSub, Nat.reduceLT, decide_true, decide_false, BitVec.reduceToNat]

open RoundTrip in
theorem RoundTrip.vlog2 (d : BitVec 7) (a : BitVec 7) (ea : Bool) : Statement (.vlog2 d a ea) := by
  intro hw
  refine ⟨?_, ?_⟩
  · show decode (0x1d#6 ++ d ++ a ++ 0#7 ++ 4#3 ++ BitVec.ofBool ea ++ 0#1) (0) = .ok (.vlog2 d a ea)
    rw [decode_1d _ _ (by simp (disch := decide) only [ext_high, Nat.reduceSub, ext_all])]
    simp (disch := decide) only [dec1d, fld, bit, ext_low, ext_high, bit_low, bit_high, ext_all, bit_ofBool, Nat.reduceSub, BitVec.reduceToNat]
    exact checked_ok _ _ (and_append_zero (m := 31) (n := 1) _ _ _ (and_append_zero (m := 30) (n := 1) _ _ _ (and_append_zero (m := 27) (n := 3) _ _ _ (and_append_zero (m := 20) (n := 7) _ _ _ (and_append_zero (m := 13) (n := 7) _ _ _ (and_append_zero (m := 6) (n := 7) _ _ _ (BitVec.and_zero) (BitVec.and_zero)) (BitVec.and_zero)) (BitVec.zero_and)) (BitVec.and_zero)) (BitVec.and_zero)) (BitVec.zero_and))
  · show isLong (0x1d#6 ++ d ++ a ++ 0#7 ++ 4#3 ++ BitVec.ofBool ea ++ 0#1) = false
    simp (disch := decide) only [isLong, fld, ext_low, ext_high, ext_all, Nat.reduceSub, Nat.reduceLT, decide_true, decide_false, BitVec.reduceToNat]

open RoundTrip in
theorem RoundTrip.vsin (d : BitVec 7) (a : BitVec 7) (ea : Bool) : Statement (.vsin d a ea) := by
  intro hw
  refine ⟨?_, ?_⟩
  · show decode (0x1d#6 ++ d ++ a ++ 0#7 ++ 5#3 ++ BitVec.ofBool ea ++ 0#1) (0) = .ok (.vsin d a ea)
    rw [decode_1d _ _ (by simp (disch := decide) only [ext_high, Nat.reduceSub, ext_all])]
    simp (disch := decide) only [dec1d, fld, bit, ext_low, ext_high, bit_low, bit_high, ext_all, bit_ofBool, Nat.reduceSub, BitVec.reduceToNat]
    exact checked_ok _ _ (and_append_zero (m := 31) (n := 1) _ _ _ (and_append_zero (m := 30) (n := 1) _ _ _ (and_append_zero (m := 27) (n := 3) _ _ _ (and_append_zero (m := 20) (n := 7) _ _ _ (and_append_zero (m := 13) (n := 7) _ _ _ (and_append_zero (m := 6) (n := 7) _ _ _ (BitVec.and_zero) (BitVec.and_zero)) (BitVec.and_zero)) (BitVec.zero_and)) (BitVec.and_zero)) (BitVec.and_zero)) (BitVec.zero_and))
  · show isLong (0x1d#6 ++ d ++ a ++ 0#7 ++ 5#3 ++ BitVec.ofBool ea ++ 0#1) = false
    simp (disch := decide) only [isLong, fld, ext_low, ext_high, ext_all, Nat.reduceSub, Nat.reduceLT, decide_true, decide_false, BitVec.reduceToNat]

open RoundTrip in
theorem RoundTrip.vcos (d : BitVec 7) (a : BitVec 7) (ea : Bool) : Statement (.vcos d a ea) := by
  intro hw
  refine ⟨?_, ?_⟩
  · show decode (0x1d#6 ++ d ++ a ++ 0#7 ++ 6#3 ++ BitVec.ofBool ea ++ 0#1) (0) = .ok (.vcos d a ea)
    rw [decode_1d _ _ (by simp (disch := decide) only [ext_high, Nat.reduceSub, ext_all])]
    simp (disch := decide) only [dec1d, fld, bit, ext_low, ext_high, bit_low, bit_high, ext_all, bit_ofBool, Nat.reduceSub, BitVec.reduceToNat]
    exact checked_ok _ _ (and_append_zero (m := 31) (n := 1) _ _ _ (and_append_zero (m := 30) (n := 1) _ _ _ (and_append_zero (m := 27) (n := 3) _ _ _ (and_append_zero (m := 20) (n := 7) _ _ _ (and_append_zero (m := 13) (n := 7) _ _ _ (and_append_zero (m := 6) (n := 7) _ _ _ (BitVec.and_zero) (BitVec.and_zero)) (BitVec.and_zero)) (BitVec.zero_and)) (BitVec.and_zero)) (BitVec.and_zero)) (BitVec.zero_and))
  · show isLong (0x1d#6 ++ d ++ a ++ 0#7 ++ 6#3 ++ BitVec.ofBool ea ++ 0#1) = false
    simp (disch := decide) only [isLong, fld, ext_low, ext_high, ext_all, Nat.reduceSub, Nat.reduceLT, decide_true, decide_false, BitVec.reduceToNat]

open RoundTrip in
theorem RoundTrip.vtanh (d : BitVec 7) (a : BitVec 7) (ea : Bool) : Statement (.vtanh d a ea) := by
  intro hw
  refine ⟨?_, ?_⟩
  · show decode (0x1d#6 ++ d ++ a ++ 0#7 ++ 7#3 ++ BitVec.ofBool ea ++ 0#1) (0) = .ok (.vtanh d a ea)
    rw [decode_1d _ _ (by simp (disch := decide) only [ext_high, Nat.reduceSub, ext_all])]
    simp (disch := decide) only [dec1d, fld, bit, ext_low, ext_high, bit_low, bit_high, ext_all, bit_ofBool, Nat.reduceSub, BitVec.reduceToNat]
    exact checked_ok _ _ (and_append_zero (m := 31) (n := 1) _ _ _ (and_append_zero (m := 30) (n := 1) _ _ _ (and_append_zero (m := 27) (n := 3) _ _ _ (and_append_zero (m := 20) (n := 7) _ _ _ (and_append_zero (m := 13) (n := 7) _ _ _ (and_append_zero (m := 6) (n := 7) _ _ _ (BitVec.and_zero) (BitVec.and_zero)) (BitVec.and_zero)) (BitVec.zero_and)) (BitVec.and_zero)) (BitVec.and_zero)) (BitVec.zero_and))
  · show isLong (0x1d#6 ++ d ++ a ++ 0#7 ++ 7#3 ++ BitVec.ofBool ea ++ 0#1) = false
    simp (disch := decide) only [isLong, fld, ext_low, ext_high, ext_all, Nat.reduceSub, Nat.reduceLT, decide_true, decide_false, BitVec.reduceToNat]

open RoundTrip in
theorem RoundTrip.vcf16 (d : BitVec 7) (a : BitVec 7) (rnd : BitVec 2) (sel : BitVec 2) (ea : Bool) : Statement (.vcf16 d a rnd sel ea) := by
  intro hw
  refine ⟨?_, ?_⟩
  · show decode (0x1e#6 ++ d ++ a ++ 0#3 ++ 0#4 ++ rnd ++ sel ++ BitVec.ofBool ea) (0) = .ok (.vcf16 d a rnd sel ea)
    rw [decode_1e _ _ (by simp (disch := decide) only [ext_high, Nat.reduceSub, ext_all])]
    simp (disch := decide) only [dec1e, fld, bit, ext_low, ext_high, bit_low, bit_high, ext_all, bit_ofBool, Nat.reduceSub, BitVec.reduceToNat]
    rw [if_pos (of_decide_eq_true hw)]
    exact checked_ok _ _ (and_append_zero (m := 31) (n := 1) _ _ _ (and_append_zero (m := 29) (n := 2) _ _ _ (and_append_zero (m := 27) (n := 2) _ _ _ (and_append_zero (m := 23) (n := 4) _ _ _ (and_append_zero (m := 20) (n := 3) _ _ _ (and_append_zero (m := 13) (n := 7) _ _ _ (and_append_zero (m := 6) (n := 7) _ _ _ (BitVec.and_zero) (BitVec.and_zero)) (BitVec.and_zero)) (BitVec.zero_and)) (BitVec.zero_and)) (BitVec.and_zero)) (BitVec.and_zero)) (BitVec.and_zero))
  · show isLong (0x1e#6 ++ d ++ a ++ 0#3 ++ 0#4 ++ rnd ++ sel ++ BitVec.ofBool ea) = false
    simp (disch := decide) only [isLong, fld, ext_low, ext_high, ext_all, Nat.reduceSub, Nat.reduceLT, decide_true, decide_false, BitVec.reduceToNat]

open RoundTrip in
theorem RoundTrip.vcf32h (d : BitVec 7) (a : BitVec 7) (sel : BitVec 2) (ea : Bool) : Statement (.vcf32h d a sel ea) := by
  intro hw
  refine ⟨?_, ?_⟩
  · show decode (0x1e#6 ++ d ++ a ++ 0#3 ++ 1#4 ++ 0#2 ++ sel ++ BitVec.ofBool ea) (0) = .ok (.vcf32h d a sel ea)
    rw [decode_1e _ _ (by simp (disch := decide) only [ext_high, Nat.reduceSub, ext_all])]
    simp (disch := decide) only [dec1e, fld, bit, ext_low, ext_high, bit_low, bit_high, ext_all, bit_ofBool, Nat.reduceSub, BitVec.reduceToNat]
    rw [if_pos (of_decide_eq_true hw)]
    exact checked_ok _ _ (and_append_zero (m := 31) (n := 1) _ _ _ (and_append_zero (m := 29) (n := 2) _ _ _ (and_append_zero (m := 27) (n := 2) _ _ _ (and_append_zero (m := 23) (n := 4) _ _ _ (and_append_zero (m := 20) (n := 3) _ _ _ (and_append_zero (m := 13) (n := 7) _ _ _ (and_append_zero (m := 6) (n := 7) _ _ _ (BitVec.and_zero) (BitVec.and_zero)) (BitVec.and_zero)) (BitVec.zero_and)) (BitVec.and_zero)) (BitVec.zero_and)) (BitVec.and_zero)) (BitVec.and_zero))
  · show isLong (0x1e#6 ++ d ++ a ++ 0#3 ++ 1#4 ++ 0#2 ++ sel ++ BitVec.ofBool ea) = false
    simp (disch := decide) only [isLong, fld, ext_low, ext_high, ext_all, Nat.reduceSub, Nat.reduceLT, decide_true, decide_false, BitVec.reduceToNat]

open RoundTrip in
theorem RoundTrip.vcbf (d : BitVec 7) (a : BitVec 7) (rnd : BitVec 2) (sel : BitVec 2) (ea : Bool) : Statement (.vcbf d a rnd sel ea) := by
  intro hw
  refine ⟨?_, ?_⟩
  · show decode (0x1e#6 ++ d ++ a ++ 0#3 ++ 2#4 ++ rnd ++ sel ++ BitVec.ofBool ea) (0) = .ok (.vcbf d a rnd sel ea)
    rw [decode_1e _ _ (by simp (disch := decide) only [ext_high, Nat.reduceSub, ext_all])]
    simp (disch := decide) only [dec1e, fld, bit, ext_low, ext_high, bit_low, bit_high, ext_all, bit_ofBool, Nat.reduceSub, BitVec.reduceToNat]
    rw [if_pos (of_decide_eq_true hw)]
    exact checked_ok _ _ (and_append_zero (m := 31) (n := 1) _ _ _ (and_append_zero (m := 29) (n := 2) _ _ _ (and_append_zero (m := 27) (n := 2) _ _ _ (and_append_zero (m := 23) (n := 4) _ _ _ (and_append_zero (m := 20) (n := 3) _ _ _ (and_append_zero (m := 13) (n := 7) _ _ _ (and_append_zero (m := 6) (n := 7) _ _ _ (BitVec.and_zero) (BitVec.and_zero)) (BitVec.and_zero)) (BitVec.zero_and)) (BitVec.and_zero)) (BitVec.and_zero)) (BitVec.and_zero)) (BitVec.and_zero))
  · show isLong (0x1e#6 ++ d ++ a ++ 0#3 ++ 2#4 ++ rnd ++ sel ++ BitVec.ofBool ea) = false
    simp (disch := decide) only [isLong, fld, ext_low, ext_high, ext_all, Nat.reduceSub, Nat.reduceLT, decide_true, decide_false, BitVec.reduceToNat]

open RoundTrip in
theorem RoundTrip.vcf32b (d : BitVec 7) (a : BitVec 7) (sel : BitVec 2) (ea : Bool) : Statement (.vcf32b d a sel ea) := by
  intro hw
  refine ⟨?_, ?_⟩
  · show decode (0x1e#6 ++ d ++ a ++ 0#3 ++ 3#4 ++ 0#2 ++ sel ++ BitVec.ofBool ea) (0) = .ok (.vcf32b d a sel ea)
    rw [decode_1e _ _ (by simp (disch := decide) only [ext_high, Nat.reduceSub, ext_all])]
    simp (disch := decide) only [dec1e, fld, bit, ext_low, ext_high, bit_low, bit_high, ext_all, bit_ofBool, Nat.reduceSub, BitVec.reduceToNat]
    rw [if_pos (of_decide_eq_true hw)]
    exact checked_ok _ _ (and_append_zero (m := 31) (n := 1) _ _ _ (and_append_zero (m := 29) (n := 2) _ _ _ (and_append_zero (m := 27) (n := 2) _ _ _ (and_append_zero (m := 23) (n := 4) _ _ _ (and_append_zero (m := 20) (n := 3) _ _ _ (and_append_zero (m := 13) (n := 7) _ _ _ (and_append_zero (m := 6) (n := 7) _ _ _ (BitVec.and_zero) (BitVec.and_zero)) (BitVec.and_zero)) (BitVec.zero_and)) (BitVec.and_zero)) (BitVec.zero_and)) (BitVec.and_zero)) (BitVec.and_zero))
  · show isLong (0x1e#6 ++ d ++ a ++ 0#3 ++ 3#4 ++ 0#2 ++ sel ++ BitVec.ofBool ea) = false
    simp (disch := decide) only [isLong, fld, ext_low, ext_high, ext_all, Nat.reduceSub, Nat.reduceLT, decide_true, decide_false, BitVec.reduceToNat]

open RoundTrip in
theorem RoundTrip.vci32 (d : BitVec 7) (a : BitVec 7) (rnd : BitVec 2) (ea : Bool) : Statement (.vci32 d a rnd ea) := by
  intro hw
  refine ⟨?_, ?_⟩
  · show decode (0x1e#6 ++ d ++ a ++ 0#3 ++ 4#4 ++ rnd ++ 0#2 ++ BitVec.ofBool ea) (0) = .ok (.vci32 d a rnd ea)
    rw [decode_1e _ _ (by simp (disch := decide) only [ext_high, Nat.reduceSub, ext_all])]
    simp (disch := decide) only [dec1e, fld, bit, ext_low, ext_high, bit_low, bit_high, ext_all, bit_ofBool, Nat.reduceSub, BitVec.reduceToNat]
    exact checked_ok _ _ (and_append_zero (m := 31) (n := 1) _ _ _ (and_append_zero (m := 29) (n := 2) _ _ _ (and_append_zero (m := 27) (n := 2) _ _ _ (and_append_zero (m := 23) (n := 4) _ _ _ (and_append_zero (m := 20) (n := 3) _ _ _ (and_append_zero (m := 13) (n := 7) _ _ _ (and_append_zero (m := 6) (n := 7) _ _ _ (BitVec.and_zero) (BitVec.and_zero)) (BitVec.and_zero)) (BitVec.zero_and)) (BitVec.and_zero)) (BitVec.and_zero)) (BitVec.zero_and)) (BitVec.and_zero))
  · show isLong (0x1e#6 ++ d ++ a ++ 0#3 ++ 4#4 ++ rnd ++ 0#2 ++ BitVec.ofBool ea) = false
    simp (disch := decide) only [isLong, fld, ext_low, ext_high, ext_all, Nat.reduceSub, Nat.reduceLT, decide_true, decide_false, BitVec.reduceToNat]

open RoundTrip in
theorem RoundTrip.vcf32i (d : BitVec 7) (a : BitVec 7) (rnd : BitVec 2) (ea : Bool) : Statement (.vcf32i d a rnd ea) := by
  intro hw
  refine ⟨?_, ?_⟩
  · show decode (0x1e#6 ++ d ++ a ++ 0#3 ++ 5#4 ++ rnd ++ 0#2 ++ BitVec.ofBool ea) (0) = .ok (.vcf32i d a rnd ea)
    rw [decode_1e _ _ (by simp (disch := decide) only [ext_high, Nat.reduceSub, ext_all])]
    simp (disch := decide) only [dec1e, fld, bit, ext_low, ext_high, bit_low, bit_high, ext_all, bit_ofBool, Nat.reduceSub, BitVec.reduceToNat]
    exact checked_ok _ _ (and_append_zero (m := 31) (n := 1) _ _ _ (and_append_zero (m := 29) (n := 2) _ _ _ (and_append_zero (m := 27) (n := 2) _ _ _ (and_append_zero (m := 23) (n := 4) _ _ _ (and_append_zero (m := 20) (n := 3) _ _ _ (and_append_zero (m := 13) (n := 7) _ _ _ (and_append_zero (m := 6) (n := 7) _ _ _ (BitVec.and_zero) (BitVec.and_zero)) (BitVec.and_zero)) (BitVec.zero_and)) (BitVec.and_zero)) (BitVec.and_zero)) (BitVec.zero_and)) (BitVec.and_zero))
  · show isLong (0x1e#6 ++ d ++ a ++ 0#3 ++ 5#4 ++ rnd ++ 0#2 ++ BitVec.ofBool ea) = false
    simp (disch := decide) only [isLong, fld, ext_low, ext_high, ext_all, Nat.reduceSub, Nat.reduceLT, decide_true, decide_false, BitVec.reduceToNat]

open RoundTrip in
theorem RoundTrip.vcn32 (d : BitVec 7) (a : BitVec 7) (rnd : BitVec 2) (ea : Bool) : Statement (.vcn32 d a rnd ea) := by
  intro hw
  refine ⟨?_, ?_⟩
  · show decode (0x1e#6 ++ d ++ a ++ 0#3 ++ 6#4 ++ rnd ++ 0#2 ++ BitVec.ofBool ea) (0) = .ok (.vcn32 d a rnd ea)
    rw [decode_1e _ _ (by simp (disch := decide) only [ext_high, Nat.reduceSub, ext_all])]
    simp (disch := decide) only [dec1e, fld, bit, ext_low, ext_high, bit_low, bit_high, ext_all, bit_ofBool, Nat.reduceSub, BitVec.reduceToNat]
    exact checked_ok _ _ (and_append_zero (m := 31) (n := 1) _ _ _ (and_append_zero (m := 29) (n := 2) _ _ _ (and_append_zero (m := 27) (n := 2) _ _ _ (and_append_zero (m := 23) (n := 4) _ _ _ (and_append_zero (m := 20) (n := 3) _ _ _ (and_append_zero (m := 13) (n := 7) _ _ _ (and_append_zero (m := 6) (n := 7) _ _ _ (BitVec.and_zero) (BitVec.and_zero)) (BitVec.and_zero)) (BitVec.zero_and)) (BitVec.and_zero)) (BitVec.and_zero)) (BitVec.zero_and)) (BitVec.and_zero))
  · show isLong (0x1e#6 ++ d ++ a ++ 0#3 ++ 6#4 ++ rnd ++ 0#2 ++ BitVec.ofBool ea) = false
    simp (disch := decide) only [isLong, fld, ext_low, ext_high, ext_all, Nat.reduceSub, Nat.reduceLT, decide_true, decide_false, BitVec.reduceToNat]

open RoundTrip in
theorem RoundTrip.vcf32n (d : BitVec 7) (a : BitVec 7) (rnd : BitVec 2) (ea : Bool) : Statement (.vcf32n d a rnd ea) := by
  intro hw
  refine ⟨?_, ?_⟩
  · show decode (0x1e#6 ++ d ++ a ++ 0#3 ++ 7#4 ++ rnd ++ 0#2 ++ BitVec.ofBool ea) (0) = .ok (.vcf32n d a rnd ea)
    rw [decode_1e _ _ (by simp (disch := decide) only [ext_high, Nat.reduceSub, ext_all])]
    simp (disch := decide) only [dec1e, fld, bit, ext_low, ext_high, bit_low, bit_high, ext_all, bit_ofBool, Nat.reduceSub, BitVec.reduceToNat]
    exact checked_ok _ _ (and_append_zero (m := 31) (n := 1) _ _ _ (and_append_zero (m := 29) (n := 2) _ _ _ (and_append_zero (m := 27) (n := 2) _ _ _ (and_append_zero (m := 23) (n := 4) _ _ _ (and_append_zero (m := 20) (n := 3) _ _ _ (and_append_zero (m := 13) (n := 7) _ _ _ (and_append_zero (m := 6) (n := 7) _ _ _ (BitVec.and_zero) (BitVec.and_zero)) (BitVec.and_zero)) (BitVec.zero_and)) (BitVec.and_zero)) (BitVec.and_zero)) (BitVec.zero_and)) (BitVec.and_zero))
  · show isLong (0x1e#6 ++ d ++ a ++ 0#3 ++ 7#4 ++ rnd ++ 0#2 ++ BitVec.ofBool ea) = false
    simp (disch := decide) only [isLong, fld, ext_low, ext_high, ext_all, Nat.reduceSub, Nat.reduceLT, decide_true, decide_false, BitVec.reduceToNat]

open RoundTrip in
theorem RoundTrip.vcnar (d : BitVec 7) (a : BitVec 7) (slot : BitVec 3) (rnd : BitVec 2) (sel : BitVec 2) (ea : Bool) : Statement (.vcnar d a slot rnd sel ea) := by
  intro hw
  refine ⟨?_, ?_⟩
  · show decode (0x1e#6 ++ d ++ a ++ slot ++ 10#4 ++ rnd ++ sel ++ BitVec.ofBool ea) (0) = .ok (.vcnar d a slot rnd sel ea)
    rw [decode_1e _ _ (by simp (disch := decide) only [ext_high, Nat.reduceSub, ext_all])]
    simp (disch := decide) only [dec1e, fld, bit, ext_low, ext_high, bit_low, bit_high, ext_all, bit_ofBool, Nat.reduceSub, BitVec.reduceToNat]
  · show isLong (0x1e#6 ++ d ++ a ++ slot ++ 10#4 ++ rnd ++ sel ++ BitVec.ofBool ea) = false
    simp (disch := decide) only [isLong, fld, ext_low, ext_high, ext_all, Nat.reduceSub, Nat.reduceLT, decide_true, decide_false, BitVec.reduceToNat]

open RoundTrip in
theorem RoundTrip.vcwid (d : BitVec 7) (a : BitVec 7) (slot : BitVec 3) (sel : BitVec 2) (ea : Bool) : Statement (.vcwid d a slot sel ea) := by
  intro hw
  refine ⟨?_, ?_⟩
  · show decode (0x1e#6 ++ d ++ a ++ slot ++ 11#4 ++ 0#2 ++ sel ++ BitVec.ofBool ea) (0) = .ok (.vcwid d a slot sel ea)
    rw [decode_1e _ _ (by simp (disch := decide) only [ext_high, Nat.reduceSub, ext_all])]
    simp (disch := decide) only [dec1e, fld, bit, ext_low, ext_high, bit_low, bit_high, ext_all, bit_ofBool, Nat.reduceSub, BitVec.reduceToNat]
    exact checked_ok _ _ (and_append_zero (m := 31) (n := 1) _ _ _ (and_append_zero (m := 29) (n := 2) _ _ _ (and_append_zero (m := 27) (n := 2) _ _ _ (and_append_zero (m := 23) (n := 4) _ _ _ (and_append_zero (m := 20) (n := 3) _ _ _ (and_append_zero (m := 13) (n := 7) _ _ _ (and_append_zero (m := 6) (n := 7) _ _ _ (BitVec.and_zero) (BitVec.and_zero)) (BitVec.and_zero)) (BitVec.and_zero)) (BitVec.and_zero)) (BitVec.zero_and)) (BitVec.and_zero)) (BitVec.and_zero))
  · show isLong (0x1e#6 ++ d ++ a ++ slot ++ 11#4 ++ 0#2 ++ sel ++ BitVec.ofBool ea) = false
    simp (disch := decide) only [isLong, fld, ext_low, ext_high, ext_all, Nat.reduceSub, Nat.reduceLT, decide_true, decide_false, BitVec.reduceToNat]

open RoundTrip in
theorem RoundTrip.vct6 (d : BitVec 7) (a : BitVec 7) (slot : BitVec 3) (rnd : BitVec 2) (sel : BitVec 2) (ea : Bool) : Statement (.vct6 d a slot rnd sel ea) := by
  intro hw
  refine ⟨?_, ?_⟩
  · show decode (0x1e#6 ++ d ++ a ++ slot ++ 12#4 ++ rnd ++ sel ++ BitVec.ofBool ea) (0) = .ok (.vct6 d a slot rnd sel ea)
    rw [decode_1e _ _ (by simp (disch := decide) only [ext_high, Nat.reduceSub, ext_all])]
    simp (disch := decide) only [dec1e, fld, bit, ext_low, ext_high, bit_low, bit_high, ext_all, bit_ofBool, Nat.reduceSub, BitVec.reduceToNat]
  · show isLong (0x1e#6 ++ d ++ a ++ slot ++ 12#4 ++ rnd ++ sel ++ BitVec.ofBool ea) = false
    simp (disch := decide) only [isLong, fld, ext_low, ext_high, ext_all, Nat.reduceSub, Nat.reduceLT, decide_true, decide_false, BitVec.reduceToNat]

open RoundTrip in
theorem RoundTrip.vcf32t6 (d : BitVec 7) (a : BitVec 7) (sel : BitVec 2) (ea : Bool) : Statement (.vcf32t6 d a sel ea) := by
  intro hw
  refine ⟨?_, ?_⟩
  · show decode (0x1e#6 ++ d ++ a ++ 0#3 ++ 13#4 ++ 0#2 ++ sel ++ BitVec.ofBool ea) (0) = .ok (.vcf32t6 d a sel ea)
    rw [decode_1e _ _ (by simp (disch := decide) only [ext_high, Nat.reduceSub, ext_all])]
    simp (disch := decide) only [dec1e, fld, bit, ext_low, ext_high, bit_low, bit_high, ext_all, bit_ofBool, Nat.reduceSub, BitVec.reduceToNat]
    exact checked_ok _ _ (and_append_zero (m := 31) (n := 1) _ _ _ (and_append_zero (m := 29) (n := 2) _ _ _ (and_append_zero (m := 27) (n := 2) _ _ _ (and_append_zero (m := 23) (n := 4) _ _ _ (and_append_zero (m := 20) (n := 3) _ _ _ (and_append_zero (m := 13) (n := 7) _ _ _ (and_append_zero (m := 6) (n := 7) _ _ _ (BitVec.and_zero) (BitVec.and_zero)) (BitVec.and_zero)) (BitVec.zero_and)) (BitVec.and_zero)) (BitVec.zero_and)) (BitVec.and_zero)) (BitVec.and_zero))
  · show isLong (0x1e#6 ++ d ++ a ++ 0#3 ++ 13#4 ++ 0#2 ++ sel ++ BitVec.ofBool ea) = false
    simp (disch := decide) only [isLong, fld, ext_low, ext_high, ext_all, Nat.reduceSub, Nat.reduceLT, decide_true, decide_false, BitVec.reduceToNat]

open RoundTrip in
theorem RoundTrip.vpk6 (d : BitVec 7) (a : BitVec 7) (sel : BitVec 2) (ea : Bool) : Statement (.vpk6 d a sel ea) := by
  intro hw
  refine ⟨?_, ?_⟩
  · show decode (0x1e#6 ++ d ++ a ++ 0#3 ++ 14#4 ++ 0#2 ++ sel ++ BitVec.ofBool ea) (0) = .ok (.vpk6 d a sel ea)
    rw [decode_1e _ _ (by simp (disch := decide) only [ext_high, Nat.reduceSub, ext_all])]
    simp (disch := decide) only [dec1e, fld, bit, ext_low, ext_high, bit_low, bit_high, ext_all, bit_ofBool, Nat.reduceSub, BitVec.reduceToNat]
    exact checked_ok _ _ (and_append_zero (m := 31) (n := 1) _ _ _ (and_append_zero (m := 29) (n := 2) _ _ _ (and_append_zero (m := 27) (n := 2) _ _ _ (and_append_zero (m := 23) (n := 4) _ _ _ (and_append_zero (m := 20) (n := 3) _ _ _ (and_append_zero (m := 13) (n := 7) _ _ _ (and_append_zero (m := 6) (n := 7) _ _ _ (BitVec.and_zero) (BitVec.and_zero)) (BitVec.and_zero)) (BitVec.zero_and)) (BitVec.and_zero)) (BitVec.zero_and)) (BitVec.and_zero)) (BitVec.and_zero))
  · show isLong (0x1e#6 ++ d ++ a ++ 0#3 ++ 14#4 ++ 0#2 ++ sel ++ BitVec.ofBool ea) = false
    simp (disch := decide) only [isLong, fld, ext_low, ext_high, ext_all, Nat.reduceSub, Nat.reduceLT, decide_true, decide_false, BitVec.reduceToNat]

open RoundTrip in
theorem RoundTrip.vunpk6 (d : BitVec 7) (a : BitVec 7) (sel : BitVec 2) (ea : Bool) : Statement (.vunpk6 d a sel ea) := by
  intro hw
  refine ⟨?_, ?_⟩
  · show decode (0x1e#6 ++ d ++ a ++ 0#3 ++ 15#4 ++ 0#2 ++ sel ++ BitVec.ofBool ea) (0) = .ok (.vunpk6 d a sel ea)
    rw [decode_1e _ _ (by simp (disch := decide) only [ext_high, Nat.reduceSub, ext_all])]
    simp (disch := decide) only [dec1e, fld, bit, ext_low, ext_high, bit_low, bit_high, ext_all, bit_ofBool, Nat.reduceSub, BitVec.reduceToNat]
    exact checked_ok _ _ (and_append_zero (m := 31) (n := 1) _ _ _ (and_append_zero (m := 29) (n := 2) _ _ _ (and_append_zero (m := 27) (n := 2) _ _ _ (and_append_zero (m := 23) (n := 4) _ _ _ (and_append_zero (m := 20) (n := 3) _ _ _ (and_append_zero (m := 13) (n := 7) _ _ _ (and_append_zero (m := 6) (n := 7) _ _ _ (BitVec.and_zero) (BitVec.and_zero)) (BitVec.and_zero)) (BitVec.zero_and)) (BitVec.and_zero)) (BitVec.zero_and)) (BitVec.and_zero)) (BitVec.and_zero))
  · show isLong (0x1e#6 ++ d ++ a ++ 0#3 ++ 15#4 ++ 0#2 ++ sel ++ BitVec.ofBool ea) = false
    simp (disch := decide) only [isLong, fld, ext_low, ext_high, ext_all, Nat.reduceSub, Nat.reduceLT, decide_true, decide_false, BitVec.reduceToNat]

open RoundTrip in
theorem RoundTrip.vshuf (d : BitVec 7) (a : BitVec 7) (b : BitVec 7) (ea : Bool) (eb : Bool) : Statement (.vshuf d a b ea eb) := by
  intro hw
  refine ⟨?_, ?_⟩
  · show decode (0x1f#6 ++ d ++ a ++ b ++ 0#3 ++ BitVec.ofBool ea ++ BitVec.ofBool eb) (0) = .ok (.vshuf d a b ea eb)
    rw [decode_1f _ _ (by simp (disch := decide) only [ext_high, Nat.reduceSub, ext_all])]
    simp (disch := decide) only [dec1f, fld, bit, ext_low, ext_high, bit_low, bit_high, ext_all, bit_ofBool, Nat.reduceSub, BitVec.reduceToNat]
  · show isLong (0x1f#6 ++ d ++ a ++ b ++ 0#3 ++ BitVec.ofBool ea ++ BitVec.ofBool eb) = false
    simp (disch := decide) only [isLong, fld, ext_low, ext_high, ext_all, Nat.reduceSub, Nat.reduceLT, decide_true, decide_false, BitVec.reduceToNat]

open RoundTrip in
theorem RoundTrip.vshfx (d : BitVec 7) (a : BitVec 7) (imm : BitVec 7) (ea : Bool) : Statement (.vshfx d a imm ea) := by
  intro hw
  refine ⟨?_, ?_⟩
  · show decode (0x1f#6 ++ d ++ a ++ imm ++ 1#3 ++ BitVec.ofBool ea ++ 0#1) (0) = .ok (.vshfx d a imm ea)
    rw [decode_1f _ _ (by simp (disch := decide) only [ext_high, Nat.reduceSub, ext_all])]
    simp (disch := decide) only [dec1f, fld, bit, ext_low, ext_high, bit_low, bit_high, ext_all, bit_ofBool, Nat.reduceSub, BitVec.reduceToNat]
    exact checked_ok _ _ (and_append_zero (m := 31) (n := 1) _ _ _ (and_append_zero (m := 30) (n := 1) _ _ _ (and_append_zero (m := 27) (n := 3) _ _ _ (and_append_zero (m := 20) (n := 7) _ _ _ (and_append_zero (m := 13) (n := 7) _ _ _ (and_append_zero (m := 6) (n := 7) _ _ _ (BitVec.and_zero) (BitVec.and_zero)) (BitVec.and_zero)) (BitVec.and_zero)) (BitVec.and_zero)) (BitVec.and_zero)) (BitVec.zero_and))
  · show isLong (0x1f#6 ++ d ++ a ++ imm ++ 1#3 ++ BitVec.ofBool ea ++ 0#1) = false
    simp (disch := decide) only [isLong, fld, ext_low, ext_high, ext_all, Nat.reduceSub, Nat.reduceLT, decide_true, decide_false, BitVec.reduceToNat]

open RoundTrip in
theorem RoundTrip.vrots (d : BitVec 7) (a : BitVec 7) (b : BitVec 7) (ea : Bool) (eb : Bool) : Statement (.vrots d a b ea eb) := by
  intro hw
  refine ⟨?_, ?_⟩
  · show decode (0x1f#6 ++ d ++ a ++ b ++ 2#3 ++ BitVec.ofBool ea ++ BitVec.ofBool eb) (0) = .ok (.vrots d a b ea eb)
    rw [decode_1f _ _ (by simp (disch := decide) only [ext_high, Nat.reduceSub, ext_all])]
    simp (disch := decide) only [dec1f, fld, bit, ext_low, ext_high, bit_low, bit_high, ext_all, bit_ofBool, Nat.reduceSub, BitVec.reduceToNat]
  · show isLong (0x1f#6 ++ d ++ a ++ b ++ 2#3 ++ BitVec.ofBool ea ++ BitVec.ofBool eb) = false
    simp (disch := decide) only [isLong, fld, ext_low, ext_high, ext_all, Nat.reduceSub, Nat.reduceLT, decide_true, decide_false, BitVec.reduceToNat]

open RoundTrip in
theorem RoundTrip.vbcst (d : BitVec 7) (a : BitVec 7) (ea : Bool) : Statement (.vbcst d a ea) := by
  intro hw
  refine ⟨?_, ?_⟩
  · show decode (0x1f#6 ++ d ++ a ++ 0#7 ++ 3#3 ++ BitVec.ofBool ea ++ 0#1) (0) = .ok (.vbcst d a ea)
    rw [decode_1f _ _ (by simp (disch := decide) only [ext_high, Nat.reduceSub, ext_all])]
    simp (disch := decide) only [dec1f, fld, bit, ext_low, ext_high, bit_low, bit_high, ext_all, bit_ofBool, Nat.reduceSub, BitVec.reduceToNat]
    exact checked_ok _ _ (and_append_zero (m := 31) (n := 1) _ _ _ (and_append_zero (m := 30) (n := 1) _ _ _ (and_append_zero (m := 27) (n := 3) _ _ _ (and_append_zero (m := 20) (n := 7) _ _ _ (and_append_zero (m := 13) (n := 7) _ _ _ (and_append_zero (m := 6) (n := 7) _ _ _ (BitVec.and_zero) (BitVec.and_zero)) (BitVec.and_zero)) (BitVec.zero_and)) (BitVec.and_zero)) (BitVec.and_zero)) (BitVec.zero_and))
  · show isLong (0x1f#6 ++ d ++ a ++ 0#7 ++ 3#3 ++ BitVec.ofBool ea ++ 0#1) = false
    simp (disch := decide) only [isLong, fld, ext_low, ext_high, ext_all, Nat.reduceSub, Nat.reduceLT, decide_true, decide_false, BitVec.reduceToNat]

open RoundTrip in
theorem RoundTrip.vreda (d : BitVec 7) (a : BitVec 7) (ea : Bool) : Statement (.vreda d a ea) := by
  intro hw
  refine ⟨?_, ?_⟩
  · show decode (0x1f#6 ++ d ++ a ++ 0#7 ++ 4#3 ++ BitVec.ofBool ea ++ 0#1) (0) = .ok (.vreda d a ea)
    rw [decode_1f _ _ (by simp (disch := decide) only [ext_high, Nat.reduceSub, ext_all])]
    simp (disch := decide) only [dec1f, fld, bit, ext_low, ext_high, bit_low, bit_high, ext_all, bit_ofBool, Nat.reduceSub, BitVec.reduceToNat]
    exact checked_ok _ _ (and_append_zero (m := 31) (n := 1) _ _ _ (and_append_zero (m := 30) (n := 1) _ _ _ (and_append_zero (m := 27) (n := 3) _ _ _ (and_append_zero (m := 20) (n := 7) _ _ _ (and_append_zero (m := 13) (n := 7) _ _ _ (and_append_zero (m := 6) (n := 7) _ _ _ (BitVec.and_zero) (BitVec.and_zero)) (BitVec.and_zero)) (BitVec.zero_and)) (BitVec.and_zero)) (BitVec.and_zero)) (BitVec.zero_and))
  · show isLong (0x1f#6 ++ d ++ a ++ 0#7 ++ 4#3 ++ BitVec.ofBool ea ++ 0#1) = false
    simp (disch := decide) only [isLong, fld, ext_low, ext_high, ext_all, Nat.reduceSub, Nat.reduceLT, decide_true, decide_false, BitVec.reduceToNat]

open RoundTrip in
theorem RoundTrip.vredf (d : BitVec 7) (a : BitVec 7) (ea : Bool) : Statement (.vredf d a ea) := by
  intro hw
  refine ⟨?_, ?_⟩
  · show decode (0x1f#6 ++ d ++ a ++ 0#7 ++ 5#3 ++ BitVec.ofBool ea ++ 0#1) (0) = .ok (.vredf d a ea)
    rw [decode_1f _ _ (by simp (disch := decide) only [ext_high, Nat.reduceSub, ext_all])]
    simp (disch := decide) only [dec1f, fld, bit, ext_low, ext_high, bit_low, bit_high, ext_all, bit_ofBool, Nat.reduceSub, BitVec.reduceToNat]
    exact checked_ok _ _ (and_append_zero (m := 31) (n := 1) _ _ _ (and_append_zero (m := 30) (n := 1) _ _ _ (and_append_zero (m := 27) (n := 3) _ _ _ (and_append_zero (m := 20) (n := 7) _ _ _ (and_append_zero (m := 13) (n := 7) _ _ _ (and_append_zero (m := 6) (n := 7) _ _ _ (BitVec.and_zero) (BitVec.and_zero)) (BitVec.and_zero)) (BitVec.zero_and)) (BitVec.and_zero)) (BitVec.and_zero)) (BitVec.zero_and))
  · show isLong (0x1f#6 ++ d ++ a ++ 0#7 ++ 5#3 ++ BitVec.ofBool ea ++ 0#1) = false
    simp (disch := decide) only [isLong, fld, ext_low, ext_high, ext_all, Nat.reduceSub, Nat.reduceLT, decide_true, decide_false, BitVec.reduceToNat]

open RoundTrip in
theorem RoundTrip.vscan (d : BitVec 7) (a : BitVec 7) (ea : Bool) : Statement (.vscan d a ea) := by
  intro hw
  refine ⟨?_, ?_⟩
  · show decode (0x1f#6 ++ d ++ a ++ 0#7 ++ 6#3 ++ BitVec.ofBool ea ++ 0#1) (0) = .ok (.vscan d a ea)
    rw [decode_1f _ _ (by simp (disch := decide) only [ext_high, Nat.reduceSub, ext_all])]
    simp (disch := decide) only [dec1f, fld, bit, ext_low, ext_high, bit_low, bit_high, ext_all, bit_ofBool, Nat.reduceSub, BitVec.reduceToNat]
    exact checked_ok _ _ (and_append_zero (m := 31) (n := 1) _ _ _ (and_append_zero (m := 30) (n := 1) _ _ _ (and_append_zero (m := 27) (n := 3) _ _ _ (and_append_zero (m := 20) (n := 7) _ _ _ (and_append_zero (m := 13) (n := 7) _ _ _ (and_append_zero (m := 6) (n := 7) _ _ _ (BitVec.and_zero) (BitVec.and_zero)) (BitVec.and_zero)) (BitVec.zero_and)) (BitVec.and_zero)) (BitVec.and_zero)) (BitVec.zero_and))
  · show isLong (0x1f#6 ++ d ++ a ++ 0#7 ++ 6#3 ++ BitVec.ofBool ea ++ 0#1) = false
    simp (disch := decide) only [isLong, fld, ext_low, ext_high, ext_all, Nat.reduceSub, Nat.reduceLT, decide_true, decide_false, BitVec.reduceToNat]

open RoundTrip in
theorem RoundTrip.vcmpk (d : BitVec 7) (a : BitVec 7) (ea : Bool) : Statement (.vcmpk d a ea) := by
  intro hw
  refine ⟨?_, ?_⟩
  · show decode (0x1f#6 ++ d ++ a ++ 0#7 ++ 7#3 ++ BitVec.ofBool ea ++ 0#1) (0) = .ok (.vcmpk d a ea)
    rw [decode_1f _ _ (by simp (disch := decide) only [ext_high, Nat.reduceSub, ext_all])]
    simp (disch := decide) only [dec1f, fld, bit, ext_low, ext_high, bit_low, bit_high, ext_all, bit_ofBool, Nat.reduceSub, BitVec.reduceToNat]
    exact checked_ok _ _ (and_append_zero (m := 31) (n := 1) _ _ _ (and_append_zero (m := 30) (n := 1) _ _ _ (and_append_zero (m := 27) (n := 3) _ _ _ (and_append_zero (m := 20) (n := 7) _ _ _ (and_append_zero (m := 13) (n := 7) _ _ _ (and_append_zero (m := 6) (n := 7) _ _ _ (BitVec.and_zero) (BitVec.and_zero)) (BitVec.and_zero)) (BitVec.zero_and)) (BitVec.and_zero)) (BitVec.and_zero)) (BitVec.zero_and))
  · show isLong (0x1f#6 ++ d ++ a ++ 0#7 ++ 7#3 ++ BitVec.ofBool ea ++ 0#1) = false
    simp (disch := decide) only [isLong, fld, ext_low, ext_high, ext_all, Nat.reduceSub, Nat.reduceLT, decide_true, decide_false, BitVec.reduceToNat]

open RoundTrip in
theorem RoundTrip.vldb (d : BitVec 7) (o : BitVec 7) (h : BitVec 6) (byp : Bool) (ea : Bool) : Statement (.vldb d o h byp ea) := by
  intro hw
  refine ⟨?_, ?_⟩
  · show decode (0x20#6 ++ d ++ o ++ h ++ 0#3 ++ BitVec.ofBool byp ++ 0#1 ++ BitVec.ofBool ea) (0) = .ok (.vldb d o h byp ea)
    rw [decode_20 _ _ (by simp (disch := decide) only [ext_high, Nat.reduceSub, ext_all])]
    simp (disch := decide) only [dec20, fld, bit, ext_low, ext_high, bit_low, bit_high, ext_all, bit_ofBool, Nat.reduceSub, BitVec.reduceToNat]
    exact checked_ok _ _ (and_append_zero (m := 31) (n := 1) _ _ _ (and_append_zero (m := 30) (n := 1) _ _ _ (and_append_zero (m := 29) (n := 1) _ _ _ (and_append_zero (m := 26) (n := 3) _ _ _ (and_append_zero (m := 20) (n := 6) _ _ _ (and_append_zero (m := 13) (n := 7) _ _ _ (and_append_zero (m := 6) (n := 7) _ _ _ (BitVec.and_zero) (BitVec.and_zero)) (BitVec.and_zero)) (BitVec.and_zero)) (BitVec.zero_and)) (BitVec.and_zero)) (BitVec.zero_and)) (BitVec.and_zero))
  · show isLong (0x20#6 ++ d ++ o ++ h ++ 0#3 ++ BitVec.ofBool byp ++ 0#1 ++ BitVec.ofBool ea) = false
    simp (disch := decide) only [isLong, fld, ext_low, ext_high, ext_all, Nat.reduceSub, Nat.reduceLT, decide_true, decide_false, BitVec.reduceToNat]

open RoundTrip in
theorem RoundTrip.vldh (d : BitVec 7) (o : BitVec 7) (h : BitVec 6) (byp : Bool) (ea : Bool) : Statement (.vldh d o h byp ea) := by
  intro hw
  refine ⟨?_, ?_⟩
  · show decode (0x20#6 ++ d ++ o ++ h ++ 1#3 ++ BitVec.ofBool byp ++ 0#1 ++ BitVec.ofBool ea) (0) = .ok (.vldh d o h byp ea)
    rw [decode_20 _ _ (by simp (disch := decide) only [ext_high, Nat.reduceSub, ext_all])]
    simp (disch := decide) only [dec20, fld, bit, ext_low, ext_high, bit_low, bit_high, ext_all, bit_ofBool, Nat.reduceSub, BitVec.reduceToNat]
    exact checked_ok _ _ (and_append_zero (m := 31) (n := 1) _ _ _ (and_append_zero (m := 30) (n := 1) _ _ _ (and_append_zero (m := 29) (n := 1) _ _ _ (and_append_zero (m := 26) (n := 3) _ _ _ (and_append_zero (m := 20) (n := 6) _ _ _ (and_append_zero (m := 13) (n := 7) _ _ _ (and_append_zero (m := 6) (n := 7) _ _ _ (BitVec.and_zero) (BitVec.and_zero)) (BitVec.and_zero)) (BitVec.and_zero)) (BitVec.and_zero)) (BitVec.and_zero)) (BitVec.zero_and)) (BitVec.and_zero))
  · show isLong (0x20#6 ++ d ++ o ++ h ++ 1#3 ++ BitVec.ofBool byp ++ 0#1 ++ BitVec.ofBool ea) = false
    simp (disch := decide) only [isLong, fld, ext_low, ext_high, ext_all, Nat.reduceSub, Nat.reduceLT, decide_true, decide_false, BitVec.reduceToNat]

open RoundTrip in
theorem RoundTrip.vldw (d : BitVec 7) (o : BitVec 7) (h : BitVec 6) (byp : Bool) (ea : Bool) : Statement (.vldw d o h byp ea) := by
  intro hw
  refine ⟨?_, ?_⟩
  · show decode (0x20#6 ++ d ++ o ++ h ++ 2#3 ++ BitVec.ofBool byp ++ 0#1 ++ BitVec.ofBool ea) (0) = .ok (.vldw d o h byp ea)
    rw [decode_20 _ _ (by simp (disch := decide) only [ext_high, Nat.reduceSub, ext_all])]
    simp (disch := decide) only [dec20, fld, bit, ext_low, ext_high, bit_low, bit_high, ext_all, bit_ofBool, Nat.reduceSub, BitVec.reduceToNat]
    exact checked_ok _ _ (and_append_zero (m := 31) (n := 1) _ _ _ (and_append_zero (m := 30) (n := 1) _ _ _ (and_append_zero (m := 29) (n := 1) _ _ _ (and_append_zero (m := 26) (n := 3) _ _ _ (and_append_zero (m := 20) (n := 6) _ _ _ (and_append_zero (m := 13) (n := 7) _ _ _ (and_append_zero (m := 6) (n := 7) _ _ _ (BitVec.and_zero) (BitVec.and_zero)) (BitVec.and_zero)) (BitVec.and_zero)) (BitVec.and_zero)) (BitVec.and_zero)) (BitVec.zero_and)) (BitVec.and_zero))
  · show isLong (0x20#6 ++ d ++ o ++ h ++ 2#3 ++ BitVec.ofBool byp ++ 0#1 ++ BitVec.ofBool ea) = false
    simp (disch := decide) only [isLong, fld, ext_low, ext_high, ext_all, Nat.reduceSub, Nat.reduceLT, decide_true, decide_false, BitVec.reduceToNat]

open RoundTrip in
theorem RoundTrip.vldd (d : BitVec 7) (o : BitVec 7) (h : BitVec 6) (byp : Bool) (ea : Bool) : Statement (.vldd d o h byp ea) := by
  intro hw
  refine ⟨?_, ?_⟩
  · show decode (0x20#6 ++ d ++ o ++ h ++ 3#3 ++ BitVec.ofBool byp ++ 0#1 ++ BitVec.ofBool ea) (0) = .ok (.vldd d o h byp ea)
    rw [decode_20 _ _ (by simp (disch := decide) only [ext_high, Nat.reduceSub, ext_all])]
    simp (disch := decide) only [dec20, fld, bit, ext_low, ext_high, bit_low, bit_high, ext_all, bit_ofBool, Nat.reduceSub, BitVec.reduceToNat]
    exact checked_ok _ _ (and_append_zero (m := 31) (n := 1) _ _ _ (and_append_zero (m := 30) (n := 1) _ _ _ (and_append_zero (m := 29) (n := 1) _ _ _ (and_append_zero (m := 26) (n := 3) _ _ _ (and_append_zero (m := 20) (n := 6) _ _ _ (and_append_zero (m := 13) (n := 7) _ _ _ (and_append_zero (m := 6) (n := 7) _ _ _ (BitVec.and_zero) (BitVec.and_zero)) (BitVec.and_zero)) (BitVec.and_zero)) (BitVec.and_zero)) (BitVec.and_zero)) (BitVec.zero_and)) (BitVec.and_zero))
  · show isLong (0x20#6 ++ d ++ o ++ h ++ 3#3 ++ BitVec.ofBool byp ++ 0#1 ++ BitVec.ofBool ea) = false
    simp (disch := decide) only [isLong, fld, ext_low, ext_high, ext_all, Nat.reduceSub, Nat.reduceLT, decide_true, decide_false, BitVec.reduceToNat]

open RoundTrip in
theorem RoundTrip.vldq (d : BitVec 7) (o : BitVec 7) (h : BitVec 6) (byp : Bool) (ea : Bool) : Statement (.vldq d o h byp ea) := by
  intro hw
  refine ⟨?_, ?_⟩
  · show decode (0x20#6 ++ d ++ o ++ h ++ 4#3 ++ BitVec.ofBool byp ++ 0#1 ++ BitVec.ofBool ea) (0) = .ok (.vldq d o h byp ea)
    rw [decode_20 _ _ (by simp (disch := decide) only [ext_high, Nat.reduceSub, ext_all])]
    simp (disch := decide) only [dec20, fld, bit, ext_low, ext_high, bit_low, bit_high, ext_all, bit_ofBool, Nat.reduceSub, BitVec.reduceToNat]
    exact checked_ok _ _ (and_append_zero (m := 31) (n := 1) _ _ _ (and_append_zero (m := 30) (n := 1) _ _ _ (and_append_zero (m := 29) (n := 1) _ _ _ (and_append_zero (m := 26) (n := 3) _ _ _ (and_append_zero (m := 20) (n := 6) _ _ _ (and_append_zero (m := 13) (n := 7) _ _ _ (and_append_zero (m := 6) (n := 7) _ _ _ (BitVec.and_zero) (BitVec.and_zero)) (BitVec.and_zero)) (BitVec.and_zero)) (BitVec.and_zero)) (BitVec.and_zero)) (BitVec.zero_and)) (BitVec.and_zero))
  · show isLong (0x20#6 ++ d ++ o ++ h ++ 4#3 ++ BitVec.ofBool byp ++ 0#1 ++ BitVec.ofBool ea) = false
    simp (disch := decide) only [isLong, fld, ext_low, ext_high, ext_all, Nat.reduceSub, Nat.reduceLT, decide_true, decide_false, BitVec.reduceToNat]

open RoundTrip in
theorem RoundTrip.vldbs (d : BitVec 7) (o : BitVec 7) (h : BitVec 6) (byp : Bool) (ea : Bool) : Statement (.vldbs d o h byp ea) := by
  intro hw
  refine ⟨?_, ?_⟩
  · show decode (0x20#6 ++ d ++ o ++ h ++ 5#3 ++ BitVec.ofBool byp ++ 0#1 ++ BitVec.ofBool ea) (0) = .ok (.vldbs d o h byp ea)
    rw [decode_20 _ _ (by simp (disch := decide) only [ext_high, Nat.reduceSub, ext_all])]
    simp (disch := decide) only [dec20, fld, bit, ext_low, ext_high, bit_low, bit_high, ext_all, bit_ofBool, Nat.reduceSub, BitVec.reduceToNat]
    exact checked_ok _ _ (and_append_zero (m := 31) (n := 1) _ _ _ (and_append_zero (m := 30) (n := 1) _ _ _ (and_append_zero (m := 29) (n := 1) _ _ _ (and_append_zero (m := 26) (n := 3) _ _ _ (and_append_zero (m := 20) (n := 6) _ _ _ (and_append_zero (m := 13) (n := 7) _ _ _ (and_append_zero (m := 6) (n := 7) _ _ _ (BitVec.and_zero) (BitVec.and_zero)) (BitVec.and_zero)) (BitVec.and_zero)) (BitVec.and_zero)) (BitVec.and_zero)) (BitVec.zero_and)) (BitVec.and_zero))
  · show isLong (0x20#6 ++ d ++ o ++ h ++ 5#3 ++ BitVec.ofBool byp ++ 0#1 ++ BitVec.ofBool ea) = false
    simp (disch := decide) only [isLong, fld, ext_low, ext_high, ext_all, Nat.reduceSub, Nat.reduceLT, decide_true, decide_false, BitVec.reduceToNat]

open RoundTrip in
theorem RoundTrip.vldhs (d : BitVec 7) (o : BitVec 7) (h : BitVec 6) (byp : Bool) (ea : Bool) : Statement (.vldhs d o h byp ea) := by
  intro hw
  refine ⟨?_, ?_⟩
  · show decode (0x20#6 ++ d ++ o ++ h ++ 6#3 ++ BitVec.ofBool byp ++ 0#1 ++ BitVec.ofBool ea) (0) = .ok (.vldhs d o h byp ea)
    rw [decode_20 _ _ (by simp (disch := decide) only [ext_high, Nat.reduceSub, ext_all])]
    simp (disch := decide) only [dec20, fld, bit, ext_low, ext_high, bit_low, bit_high, ext_all, bit_ofBool, Nat.reduceSub, BitVec.reduceToNat]
    exact checked_ok _ _ (and_append_zero (m := 31) (n := 1) _ _ _ (and_append_zero (m := 30) (n := 1) _ _ _ (and_append_zero (m := 29) (n := 1) _ _ _ (and_append_zero (m := 26) (n := 3) _ _ _ (and_append_zero (m := 20) (n := 6) _ _ _ (and_append_zero (m := 13) (n := 7) _ _ _ (and_append_zero (m := 6) (n := 7) _ _ _ (BitVec.and_zero) (BitVec.and_zero)) (BitVec.and_zero)) (BitVec.and_zero)) (BitVec.and_zero)) (BitVec.and_zero)) (BitVec.zero_and)) (BitVec.and_zero))
  · show isLong (0x20#6 ++ d ++ o ++ h ++ 6#3 ++ BitVec.ofBool byp ++ 0#1 ++ BitVec.ofBool ea) = false
    simp (disch := decide) only [isLong, fld, ext_low, ext_high, ext_all, Nat.reduceSub, Nat.reduceLT, decide_true, decide_false, BitVec.reduceToNat]

open RoundTrip in
theorem RoundTrip.vldl (d : BitVec 7) (o : BitVec 7) (h : BitVec 6) (byp : Bool) (ea : Bool) : Statement (.vldl d o h byp ea) := by
  intro hw
  refine ⟨?_, ?_⟩
  · show decode (0x20#6 ++ d ++ o ++ h ++ 7#3 ++ BitVec.ofBool byp ++ 0#1 ++ BitVec.ofBool ea) (0) = .ok (.vldl d o h byp ea)
    rw [decode_20 _ _ (by simp (disch := decide) only [ext_high, Nat.reduceSub, ext_all])]
    simp (disch := decide) only [dec20, fld, bit, ext_low, ext_high, bit_low, bit_high, ext_all, bit_ofBool, Nat.reduceSub, BitVec.reduceToNat]
    exact checked_ok _ _ (and_append_zero (m := 31) (n := 1) _ _ _ (and_append_zero (m := 30) (n := 1) _ _ _ (and_append_zero (m := 29) (n := 1) _ _ _ (and_append_zero (m := 26) (n := 3) _ _ _ (and_append_zero (m := 20) (n := 6) _ _ _ (and_append_zero (m := 13) (n := 7) _ _ _ (and_append_zero (m := 6) (n := 7) _ _ _ (BitVec.and_zero) (BitVec.and_zero)) (BitVec.and_zero)) (BitVec.and_zero)) (BitVec.and_zero)) (BitVec.and_zero)) (BitVec.zero_and)) (BitVec.and_zero))
  · show isLong (0x20#6 ++ d ++ o ++ h ++ 7#3 ++ BitVec.ofBool byp ++ 0#1 ++ BitVec.ofBool ea) = false
    simp (disch := decide) only [isLong, fld, ext_low, ext_high, ext_all, Nat.reduceSub, Nat.reduceLT, decide_true, decide_false, BitVec.reduceToNat]

open RoundTrip in
theorem RoundTrip.vstb (d : BitVec 7) (o : BitVec 7) (h : BitVec 6) (byp : Bool) (ed : Bool) (ea : Bool) : Statement (.vstb d o h byp ed ea) := by
  intro hw
  refine ⟨?_, ?_⟩
  · show decode (0x21#6 ++ d ++ o ++ h ++ 0#3 ++ BitVec.ofBool byp ++ BitVec.ofBool ed ++ BitVec.ofBool ea) (0) = .ok (.vstb d o h byp ed ea)
    rw [decode_21 _ _ (by simp (disch := decide) only [ext_high, Nat.reduceSub, ext_all])]
    simp (disch := decide) only [dec21, fld, bit, ext_low, ext_high, bit_low, bit_high, ext_all, bit_ofBool, Nat.reduceSub, BitVec.reduceToNat]
  · show isLong (0x21#6 ++ d ++ o ++ h ++ 0#3 ++ BitVec.ofBool byp ++ BitVec.ofBool ed ++ BitVec.ofBool ea) = false
    simp (disch := decide) only [isLong, fld, ext_low, ext_high, ext_all, Nat.reduceSub, Nat.reduceLT, decide_true, decide_false, BitVec.reduceToNat]

open RoundTrip in
theorem RoundTrip.vsth (d : BitVec 7) (o : BitVec 7) (h : BitVec 6) (byp : Bool) (ed : Bool) (ea : Bool) : Statement (.vsth d o h byp ed ea) := by
  intro hw
  refine ⟨?_, ?_⟩
  · show decode (0x21#6 ++ d ++ o ++ h ++ 1#3 ++ BitVec.ofBool byp ++ BitVec.ofBool ed ++ BitVec.ofBool ea) (0) = .ok (.vsth d o h byp ed ea)
    rw [decode_21 _ _ (by simp (disch := decide) only [ext_high, Nat.reduceSub, ext_all])]
    simp (disch := decide) only [dec21, fld, bit, ext_low, ext_high, bit_low, bit_high, ext_all, bit_ofBool, Nat.reduceSub, BitVec.reduceToNat]
  · show isLong (0x21#6 ++ d ++ o ++ h ++ 1#3 ++ BitVec.ofBool byp ++ BitVec.ofBool ed ++ BitVec.ofBool ea) = false
    simp (disch := decide) only [isLong, fld, ext_low, ext_high, ext_all, Nat.reduceSub, Nat.reduceLT, decide_true, decide_false, BitVec.reduceToNat]

open RoundTrip in
theorem RoundTrip.vstw (d : BitVec 7) (o : BitVec 7) (h : BitVec 6) (byp : Bool) (ed : Bool) (ea : Bool) : Statement (.vstw d o h byp ed ea) := by
  intro hw
  refine ⟨?_, ?_⟩
  · show decode (0x21#6 ++ d ++ o ++ h ++ 2#3 ++ BitVec.ofBool byp ++ BitVec.ofBool ed ++ BitVec.ofBool ea) (0) = .ok (.vstw d o h byp ed ea)
    rw [decode_21 _ _ (by simp (disch := decide) only [ext_high, Nat.reduceSub, ext_all])]
    simp (disch := decide) only [dec21, fld, bit, ext_low, ext_high, bit_low, bit_high, ext_all, bit_ofBool, Nat.reduceSub, BitVec.reduceToNat]
  · show isLong (0x21#6 ++ d ++ o ++ h ++ 2#3 ++ BitVec.ofBool byp ++ BitVec.ofBool ed ++ BitVec.ofBool ea) = false
    simp (disch := decide) only [isLong, fld, ext_low, ext_high, ext_all, Nat.reduceSub, Nat.reduceLT, decide_true, decide_false, BitVec.reduceToNat]

open RoundTrip in
theorem RoundTrip.vstd (d : BitVec 7) (o : BitVec 7) (h : BitVec 6) (byp : Bool) (ed : Bool) (ea : Bool) : Statement (.vstd d o h byp ed ea) := by
  intro hw
  refine ⟨?_, ?_⟩
  · show decode (0x21#6 ++ d ++ o ++ h ++ 3#3 ++ BitVec.ofBool byp ++ BitVec.ofBool ed ++ BitVec.ofBool ea) (0) = .ok (.vstd d o h byp ed ea)
    rw [decode_21 _ _ (by simp (disch := decide) only [ext_high, Nat.reduceSub, ext_all])]
    simp (disch := decide) only [dec21, fld, bit, ext_low, ext_high, bit_low, bit_high, ext_all, bit_ofBool, Nat.reduceSub, BitVec.reduceToNat]
  · show isLong (0x21#6 ++ d ++ o ++ h ++ 3#3 ++ BitVec.ofBool byp ++ BitVec.ofBool ed ++ BitVec.ofBool ea) = false
    simp (disch := decide) only [isLong, fld, ext_low, ext_high, ext_all, Nat.reduceSub, Nat.reduceLT, decide_true, decide_false, BitVec.reduceToNat]

open RoundTrip in
theorem RoundTrip.vstq (d : BitVec 7) (o : BitVec 7) (h : BitVec 6) (byp : Bool) (ed : Bool) (ea : Bool) : Statement (.vstq d o h byp ed ea) := by
  intro hw
  refine ⟨?_, ?_⟩
  · show decode (0x21#6 ++ d ++ o ++ h ++ 4#3 ++ BitVec.ofBool byp ++ BitVec.ofBool ed ++ BitVec.ofBool ea) (0) = .ok (.vstq d o h byp ed ea)
    rw [decode_21 _ _ (by simp (disch := decide) only [ext_high, Nat.reduceSub, ext_all])]
    simp (disch := decide) only [dec21, fld, bit, ext_low, ext_high, bit_low, bit_high, ext_all, bit_ofBool, Nat.reduceSub, BitVec.reduceToNat]
  · show isLong (0x21#6 ++ d ++ o ++ h ++ 4#3 ++ BitVec.ofBool byp ++ BitVec.ofBool ed ++ BitVec.ofBool ea) = false
    simp (disch := decide) only [isLong, fld, ext_low, ext_high, ext_all, Nat.reduceSub, Nat.reduceLT, decide_true, decide_false, BitVec.reduceToNat]

open RoundTrip in
theorem RoundTrip.vstl (d : BitVec 7) (o : BitVec 7) (h : BitVec 6) (byp : Bool) (ed : Bool) (ea : Bool) : Statement (.vstl d o h byp ed ea) := by
  intro hw
  refine ⟨?_, ?_⟩
  · show decode (0x21#6 ++ d ++ o ++ h ++ 5#3 ++ BitVec.ofBool byp ++ BitVec.ofBool ed ++ BitVec.ofBool ea) (0) = .ok (.vstl d o h byp ed ea)
    rw [decode_21 _ _ (by simp (disch := decide) only [ext_high, Nat.reduceSub, ext_all])]
    simp (disch := decide) only [dec21, fld, bit, ext_low, ext_high, bit_low, bit_high, ext_all, bit_ofBool, Nat.reduceSub, BitVec.reduceToNat]
  · show isLong (0x21#6 ++ d ++ o ++ h ++ 5#3 ++ BitVec.ofBool byp ++ BitVec.ofBool ed ++ BitVec.ofBool ea) = false
    simp (disch := decide) only [isLong, fld, ext_low, ext_high, ext_all, Nat.reduceSub, Nat.reduceLT, decide_true, decide_false, BitVec.reduceToNat]

open RoundTrip in
theorem RoundTrip.stbind (d : BitVec 7) (h : BitVec 6) (byp : Bool) (ed : Bool) : Statement (.stbind d h byp ed) := by
  intro hw
  refine ⟨?_, ?_⟩
  · show decode (0x22#6 ++ d ++ 0#7 ++ h ++ 0#3 ++ BitVec.ofBool byp ++ BitVec.ofBool ed ++ 0#1) (0) = .ok (.stbind d h byp ed)
    rw [decode_22 _ _ (by simp (disch := decide) only [ext_high, Nat.reduceSub, ext_all])]
    simp (disch := decide) only [dec22, fld, bit, ext_low, ext_high, bit_low, bit_high, ext_all, bit_ofBool, Nat.reduceSub, BitVec.reduceToNat]
    exact checked_ok _ _ (and_append_zero (m := 31) (n := 1) _ _ _ (and_append_zero (m := 30) (n := 1) _ _ _ (and_append_zero (m := 29) (n := 1) _ _ _ (and_append_zero (m := 26) (n := 3) _ _ _ (and_append_zero (m := 20) (n := 6) _ _ _ (and_append_zero (m := 13) (n := 7) _ _ _ (and_append_zero (m := 6) (n := 7) _ _ _ (BitVec.and_zero) (BitVec.and_zero)) (BitVec.zero_and)) (BitVec.and_zero)) (BitVec.zero_and)) (BitVec.and_zero)) (BitVec.and_zero)) (BitVec.zero_and))
  · show isLong (0x22#6 ++ d ++ 0#7 ++ h ++ 0#3 ++ BitVec.ofBool byp ++ BitVec.ofBool ed ++ 0#1) = false
    simp (disch := decide) only [isLong, fld, ext_low, ext_high, ext_all, Nat.reduceSub, Nat.reduceLT, decide_true, decide_false, BitVec.reduceToNat]

open RoundTrip in
theorem RoundTrip.stpos (d : BitVec 7) (ed : Bool) : Statement (.stpos d ed) := by
  intro hw
  refine ⟨?_, ?_⟩
  · show decode (0x22#6 ++ d ++ 0#13 ++ 1#3 ++ 0#1 ++ BitVec.ofBool ed ++ 0#1) (0) = .ok (.stpos d ed)
    rw [decode_22 _ _ (by simp (disch := decide) only [ext_high, Nat.reduceSub, ext_all])]
    simp (disch := decide) only [dec22, fld, bit, ext_low, ext_high, bit_low, bit_high, ext_all, bit_ofBool, Nat.reduceSub, BitVec.reduceToNat]
    exact checked_ok _ _ (and_append_zero (m := 31) (n := 1) _ _ _ (and_append_zero (m := 30) (n := 1) _ _ _ (and_append_zero (m := 29) (n := 1) _ _ _ (and_append_zero (m := 26) (n := 3) _ _ _ (and_append_zero (m := 13) (n := 13) _ _ _ (and_append_zero (m := 6) (n := 7) _ _ _ (BitVec.and_zero) (BitVec.and_zero)) (BitVec.zero_and)) (BitVec.and_zero)) (BitVec.zero_and)) (BitVec.and_zero)) (BitVec.zero_and))
  · show isLong (0x22#6 ++ d ++ 0#13 ++ 1#3 ++ 0#1 ++ BitVec.ofBool ed ++ 0#1) = false
    simp (disch := decide) only [isLong, fld, ext_low, ext_high, ext_all, Nat.reduceSub, Nat.reduceLT, decide_true, decide_false, BitVec.reduceToNat]

open RoundTrip in
theorem RoundTrip.stset (d : BitVec 7) (ed : Bool) : Statement (.stset d ed) := by
  intro hw
  refine ⟨?_, ?_⟩
  · show decode (0x22#6 ++ d ++ 0#13 ++ 2#3 ++ 0#1 ++ BitVec.ofBool ed ++ 0#1) (0) = .ok (.stset d ed)
    rw [decode_22 _ _ (by simp (disch := decide) only [ext_high, Nat.reduceSub, ext_all])]
    simp (disch := decide) only [dec22, fld, bit, ext_low, ext_high, bit_low, bit_high, ext_all, bit_ofBool, Nat.reduceSub, BitVec.reduceToNat]
    exact checked_ok _ _ (and_append_zero (m := 31) (n := 1) _ _ _ (and_append_zero (m := 30) (n := 1) _ _ _ (and_append_zero (m := 29) (n := 1) _ _ _ (and_append_zero (m := 26) (n := 3) _ _ _ (and_append_zero (m := 13) (n := 13) _ _ _ (and_append_zero (m := 6) (n := 7) _ _ _ (BitVec.and_zero) (BitVec.and_zero)) (BitVec.zero_and)) (BitVec.and_zero)) (BitVec.zero_and)) (BitVec.and_zero)) (BitVec.zero_and))
  · show isLong (0x22#6 ++ d ++ 0#13 ++ 2#3 ++ 0#1 ++ BitVec.ofBool ed ++ 0#1) = false
    simp (disch := decide) only [isLong, fld, ext_low, ext_high, ext_all, Nat.reduceSub, Nat.reduceLT, decide_true, decide_false, BitVec.reduceToNat]

open RoundTrip in
theorem RoundTrip.qbind (d : BitVec 7) (h : BitVec 6) (byp : Bool) (ed : Bool) : Statement (.qbind d h byp ed) := by
  intro hw
  refine ⟨?_, ?_⟩
  · show decode (0x22#6 ++ d ++ 0#7 ++ h ++ 3#3 ++ BitVec.ofBool byp ++ BitVec.ofBool ed ++ 0#1) (0) = .ok (.qbind d h byp ed)
    rw [decode_22 _ _ (by simp (disch := decide) only [ext_high, Nat.reduceSub, ext_all])]
    simp (disch := decide) only [dec22, fld, bit, ext_low, ext_high, bit_low, bit_high, ext_all, bit_ofBool, Nat.reduceSub, BitVec.reduceToNat]
    exact checked_ok _ _ (and_append_zero (m := 31) (n := 1) _ _ _ (and_append_zero (m := 30) (n := 1) _ _ _ (and_append_zero (m := 29) (n := 1) _ _ _ (and_append_zero (m := 26) (n := 3) _ _ _ (and_append_zero (m := 20) (n := 6) _ _ _ (and_append_zero (m := 13) (n := 7) _ _ _ (and_append_zero (m := 6) (n := 7) _ _ _ (BitVec.and_zero) (BitVec.and_zero)) (BitVec.zero_and)) (BitVec.and_zero)) (BitVec.and_zero)) (BitVec.and_zero)) (BitVec.and_zero)) (BitVec.zero_and))
  · show isLong (0x22#6 ++ d ++ 0#7 ++ h ++ 3#3 ++ BitVec.ofBool byp ++ BitVec.ofBool ed ++ 0#1) = false
    simp (disch := decide) only [isLong, fld, ext_low, ext_high, ext_all, Nat.reduceSub, Nat.reduceLT, decide_true, decide_false, BitVec.reduceToNat]

open RoundTrip in
theorem RoundTrip.qdrain (d : BitVec 7) (ed : Bool) : Statement (.qdrain d ed) := by
  intro hw
  refine ⟨?_, ?_⟩
  · show decode (0x22#6 ++ d ++ 0#13 ++ 4#3 ++ 0#1 ++ BitVec.ofBool ed ++ 0#1) (0) = .ok (.qdrain d ed)
    rw [decode_22 _ _ (by simp (disch := decide) only [ext_high, Nat.reduceSub, ext_all])]
    simp (disch := decide) only [dec22, fld, bit, ext_low, ext_high, bit_low, bit_high, ext_all, bit_ofBool, Nat.reduceSub, BitVec.reduceToNat]
    exact checked_ok _ _ (and_append_zero (m := 31) (n := 1) _ _ _ (and_append_zero (m := 30) (n := 1) _ _ _ (and_append_zero (m := 29) (n := 1) _ _ _ (and_append_zero (m := 26) (n := 3) _ _ _ (and_append_zero (m := 13) (n := 13) _ _ _ (and_append_zero (m := 6) (n := 7) _ _ _ (BitVec.and_zero) (BitVec.and_zero)) (BitVec.zero_and)) (BitVec.and_zero)) (BitVec.zero_and)) (BitVec.and_zero)) (BitVec.zero_and))
  · show isLong (0x22#6 ++ d ++ 0#13 ++ 4#3 ++ 0#1 ++ BitVec.ofBool ed ++ 0#1) = false
    simp (disch := decide) only [isLong, fld, ext_low, ext_high, ext_all, Nat.reduceSub, Nat.reduceLT, decide_true, decide_false, BitVec.reduceToNat]

open RoundTrip in
theorem RoundTrip.stend (d : BitVec 7) (ed : Bool) : Statement (.stend d ed) := by
  intro hw
  refine ⟨?_, ?_⟩
  · show decode (0x22#6 ++ d ++ 0#13 ++ 5#3 ++ 0#1 ++ BitVec.ofBool ed ++ 0#1) (0) = .ok (.stend d ed)
    rw [decode_22 _ _ (by simp (disch := decide) only [ext_high, Nat.reduceSub, ext_all])]
    simp (disch := decide) only [dec22, fld, bit, ext_low, ext_high, bit_low, bit_high, ext_all, bit_ofBool, Nat.reduceSub, BitVec.reduceToNat]
    exact checked_ok _ _ (and_append_zero (m := 31) (n := 1) _ _ _ (and_append_zero (m := 30) (n := 1) _ _ _ (and_append_zero (m := 29) (n := 1) _ _ _ (and_append_zero (m := 26) (n := 3) _ _ _ (and_append_zero (m := 13) (n := 13) _ _ _ (and_append_zero (m := 6) (n := 7) _ _ _ (BitVec.and_zero) (BitVec.and_zero)) (BitVec.zero_and)) (BitVec.and_zero)) (BitVec.zero_and)) (BitVec.and_zero)) (BitVec.zero_and))
  · show isLong (0x22#6 ++ d ++ 0#13 ++ 5#3 ++ 0#1 ++ BitVec.ofBool ed ++ 0#1) = false
    simp (disch := decide) only [isLong, fld, ext_low, ext_high, ext_all, Nat.reduceSub, Nat.reduceLT, decide_true, decide_false, BitVec.reduceToNat]

open RoundTrip in
theorem RoundTrip.wdist (d : BitVec 7) (o : BitVec 7) (h : BitVec 6) (ea : Bool) : Statement (.wdist d o h ea) := by
  intro hw
  refine ⟨?_, ?_⟩
  · show decode (0x23#6 ++ d ++ o ++ h ++ 0#3 ++ 0#2 ++ BitVec.ofBool ea) (0) = .ok (.wdist d o h ea)
    rw [decode_23 _ _ (by simp (disch := decide) only [ext_high, Nat.reduceSub, ext_all])]
    simp (disch := decide) only [dec23, fld, bit, ext_low, ext_high, bit_low, bit_high, ext_all, bit_ofBool, Nat.reduceSub, BitVec.reduceToNat]
    exact checked_ok _ _ (and_append_zero (m := 31) (n := 1) _ _ _ (and_append_zero (m := 29) (n := 2) _ _ _ (and_append_zero (m := 26) (n := 3) _ _ _ (and_append_zero (m := 20) (n := 6) _ _ _ (and_append_zero (m := 13) (n := 7) _ _ _ (and_append_zero (m := 6) (n := 7) _ _ _ (BitVec.and_zero) (BitVec.and_zero)) (BitVec.and_zero)) (BitVec.and_zero)) (BitVec.zero_and)) (BitVec.zero_and)) (BitVec.and_zero))
  · show isLong (0x23#6 ++ d ++ o ++ h ++ 0#3 ++ 0#2 ++ BitVec.ofBool ea) = false
    simp (disch := decide) only [isLong, fld, ext_low, ext_high, ext_all, Nat.reduceSub, Nat.reduceLT, decide_true, decide_false, BitVec.reduceToNat]

open RoundTrip in
theorem RoundTrip.wpin (d : BitVec 7) (o : BitVec 7) (h : BitVec 6) (ed : Bool) (ea : Bool) : Statement (.wpin d o h ed ea) := by
  intro hw
  refine ⟨?_, ?_⟩
  · show decode (0x23#6 ++ d ++ o ++ h ++ 1#3 ++ 0#1 ++ BitVec.ofBool ed ++ BitVec.ofBool ea) (0) = .ok (.wpin d o h ed ea)
    rw [decode_23 _ _ (by simp (disch := decide) only [ext_high, Nat.reduceSub, ext_all])]
    simp (disch := decide) only [dec23, fld, bit, ext_low, ext_high, bit_low, bit_high, ext_all, bit_ofBool, Nat.reduceSub, BitVec.reduceToNat]
    exact checked_ok _ _ (and_append_zero (m := 31) (n := 1) _ _ _ (and_append_zero (m := 30) (n := 1) _ _ _ (and_append_zero (m := 29) (n := 1) _ _ _ (and_append_zero (m := 26) (n := 3) _ _ _ (and_append_zero (m := 20) (n := 6) _ _ _ (and_append_zero (m := 13) (n := 7) _ _ _ (and_append_zero (m := 6) (n := 7) _ _ _ (BitVec.and_zero) (BitVec.and_zero)) (BitVec.and_zero)) (BitVec.and_zero)) (BitVec.and_zero)) (BitVec.zero_and)) (BitVec.and_zero)) (BitVec.and_zero))
  · show isLong (0x23#6 ++ d ++ o ++ h ++ 1#3 ++ 0#1 ++ BitVec.ofBool ed ++ BitVec.ofBool ea) = false
    simp (disch := decide) only [isLong, fld, ext_low, ext_high, ext_all, Nat.reduceSub, Nat.reduceLT, decide_true, decide_false, BitVec.reduceToNat]

open RoundTrip in
theorem RoundTrip.wunpin (d : BitVec 7) (o : BitVec 7) (h : BitVec 6) (ea : Bool) : Statement (.wunpin d o h ea) := by
  intro hw
  refine ⟨?_, ?_⟩
  · show decode (0x23#6 ++ d ++ o ++ h ++ 2#3 ++ 0#2 ++ BitVec.ofBool ea) (0) = .ok (.wunpin d o h ea)
    rw [decode_23 _ _ (by simp (disch := decide) only [ext_high, Nat.reduceSub, ext_all])]
    simp (disch := decide) only [dec23, fld, bit, ext_low, ext_high, bit_low, bit_high, ext_all, bit_ofBool, Nat.reduceSub, BitVec.reduceToNat]
    exact checked_ok _ _ (and_append_zero (m := 31) (n := 1) _ _ _ (and_append_zero (m := 29) (n := 2) _ _ _ (and_append_zero (m := 26) (n := 3) _ _ _ (and_append_zero (m := 20) (n := 6) _ _ _ (and_append_zero (m := 13) (n := 7) _ _ _ (and_append_zero (m := 6) (n := 7) _ _ _ (BitVec.and_zero) (BitVec.and_zero)) (BitVec.and_zero)) (BitVec.and_zero)) (BitVec.and_zero)) (BitVec.zero_and)) (BitVec.and_zero))
  · show isLong (0x23#6 ++ d ++ o ++ h ++ 2#3 ++ 0#2 ++ BitVec.ofBool ea) = false
    simp (disch := decide) only [isLong, fld, ext_low, ext_high, ext_all, Nat.reduceSub, Nat.reduceLT, decide_true, decide_false, BitVec.reduceToNat]

open RoundTrip in
theorem RoundTrip.wpull (d : BitVec 7) (o : BitVec 7) (h : BitVec 6) (ea : Bool) : Statement (.wpull d o h ea) := by
  intro hw
  refine ⟨?_, ?_⟩
  · show decode (0x23#6 ++ d ++ o ++ h ++ 3#3 ++ 0#2 ++ BitVec.ofBool ea) (0) = .ok (.wpull d o h ea)
    rw [decode_23 _ _ (by simp (disch := decide) only [ext_high, Nat.reduceSub, ext_all])]
    simp (disch := decide) only [dec23, fld, bit, ext_low, ext_high, bit_low, bit_high, ext_all, bit_ofBool, Nat.reduceSub, BitVec.reduceToNat]
    exact checked_ok _ _ (and_append_zero (m := 31) (n := 1) _ _ _ (and_append_zero (m := 29) (n := 2) _ _ _ (and_append_zero (m := 26) (n := 3) _ _ _ (and_append_zero (m := 20) (n := 6) _ _ _ (and_append_zero (m := 13) (n := 7) _ _ _ (and_append_zero (m := 6) (n := 7) _ _ _ (BitVec.and_zero) (BitVec.and_zero)) (BitVec.and_zero)) (BitVec.and_zero)) (BitVec.and_zero)) (BitVec.zero_and)) (BitVec.and_zero))
  · show isLong (0x23#6 ++ d ++ o ++ h ++ 3#3 ++ 0#2 ++ BitVec.ofBool ea) = false
    simp (disch := decide) only [isLong, fld, ext_low, ext_high, ext_all, Nat.reduceSub, Nat.reduceLT, decide_true, decide_false, BitVec.reduceToNat]

open RoundTrip in
theorem RoundTrip.whome (d : BitVec 7) (o : BitVec 7) (h : BitVec 6) (ea : Bool) : Statement (.whome d o h ea) := by
  intro hw
  refine ⟨?_, ?_⟩
  · show decode (0x23#6 ++ d ++ o ++ h ++ 4#3 ++ 0#2 ++ BitVec.ofBool ea) (0) = .ok (.whome d o h ea)
    rw [decode_23 _ _ (by simp (disch := decide) only [ext_high, Nat.reduceSub, ext_all])]
    simp (disch := decide) only [dec23, fld, bit, ext_low, ext_high, bit_low, bit_high, ext_all, bit_ofBool, Nat.reduceSub, BitVec.reduceToNat]
    exact checked_ok _ _ (and_append_zero (m := 31) (n := 1) _ _ _ (and_append_zero (m := 29) (n := 2) _ _ _ (and_append_zero (m := 26) (n := 3) _ _ _ (and_append_zero (m := 20) (n := 6) _ _ _ (and_append_zero (m := 13) (n := 7) _ _ _ (and_append_zero (m := 6) (n := 7) _ _ _ (BitVec.and_zero) (BitVec.and_zero)) (BitVec.and_zero)) (BitVec.and_zero)) (BitVec.and_zero)) (BitVec.zero_and)) (BitVec.and_zero))
  · show isLong (0x23#6 ++ d ++ o ++ h ++ 4#3 ++ 0#2 ++ BitVec.ofBool ea) = false
    simp (disch := decide) only [isLong, fld, ext_low, ext_high, ext_all, Nat.reduceSub, Nat.reduceLT, decide_true, decide_false, BitVec.reduceToNat]

open RoundTrip in
theorem RoundTrip.aadd (d : BitVec 7) (o : BitVec 7) (h : BitVec 6) (byp : Bool) (ea : Bool) (opnd : BitVec 7) (width : BitVec 2) (scalar : Bool) (eo : Bool) : Statement (.aadd d o h byp ea opnd width scalar eo) := by
  intro hw
  refine ⟨?_, ?_⟩
  · show decode (0x24#6 ++ d ++ o ++ h ++ 0#4 ++ BitVec.ofBool byp ++ BitVec.ofBool ea) (opnd ++ 0#7 ++ width ++ BitVec.ofBool scalar ++ BitVec.ofBool eo ++ 0#14) = .ok (.aadd d o h byp ea opnd width scalar eo)
    rw [decode_24 _ _ (by simp (disch := decide) only [ext_high, Nat.reduceSub, ext_all])]
    simp (disch := decide) only [dec24, fld, bit, ext_low, ext_high, bit_low, bit_high, ext_all, bit_ofBool, Nat.reduceSub, BitVec.reduceToNat]
    exact checked_ok _ _ ⟨(and_append_zero (m := 31) (n := 1) _ _ _ (and_append_zero (m := 30) (n := 1) _ _ _ (and_append_zero (m := 26) (n := 4) _ _ _ (and_append_zero (m := 20) (n := 6) _ _ _ (and_append_zero (m := 13) (n := 7) _ _ _ (and_append_zero (m := 6) (n := 7) _ _ _ (BitVec.and_zero) (BitVec.and_zero)) (BitVec.and_zero)) (BitVec.and_zero)) (BitVec.zero_and)) (BitVec.and_zero)) (BitVec.and_zero)), (and_append_zero (m := 18) (n := 14) _ _ _ (and_append_zero (m := 17) (n := 1) _ _ _ (and_append_zero (m := 16) (n := 1) _ _ _ (and_append_zero (m := 14) (n := 2) _ _ _ (and_append_zero (m := 7) (n := 7) _ _ _ (BitVec.and_zero) (BitVec.zero_and)) (BitVec.and_zero)) (BitVec.and_zero)) (BitVec.and_zero)) (BitVec.zero_and))⟩
  · show isLong (0x24#6 ++ d ++ o ++ h ++ 0#4 ++ BitVec.ofBool byp ++ BitVec.ofBool ea) = true
    simp (disch := decide) only [isLong, fld, ext_low, ext_high, ext_all, Nat.reduceSub, Nat.reduceLT, decide_true, decide_false, BitVec.reduceToNat]

open RoundTrip in
theorem RoundTrip.amin (d : BitVec 7) (o : BitVec 7) (h : BitVec 6) (byp : Bool) (ea : Bool) (opnd : BitVec 7) (width : BitVec 2) (scalar : Bool) (eo : Bool) : Statement (.amin d o h byp ea opnd width scalar eo) := by
  intro hw
  refine ⟨?_, ?_⟩
  · show decode (0x24#6 ++ d ++ o ++ h ++ 1#4 ++ BitVec.ofBool byp ++ BitVec.ofBool ea) (opnd ++ 0#7 ++ width ++ BitVec.ofBool scalar ++ BitVec.ofBool eo ++ 0#14) = .ok (.amin d o h byp ea opnd width scalar eo)
    rw [decode_24 _ _ (by simp (disch := decide) only [ext_high, Nat.reduceSub, ext_all])]
    simp (disch := decide) only [dec24, fld, bit, ext_low, ext_high, bit_low, bit_high, ext_all, bit_ofBool, Nat.reduceSub, BitVec.reduceToNat]
    exact checked_ok _ _ ⟨(and_append_zero (m := 31) (n := 1) _ _ _ (and_append_zero (m := 30) (n := 1) _ _ _ (and_append_zero (m := 26) (n := 4) _ _ _ (and_append_zero (m := 20) (n := 6) _ _ _ (and_append_zero (m := 13) (n := 7) _ _ _ (and_append_zero (m := 6) (n := 7) _ _ _ (BitVec.and_zero) (BitVec.and_zero)) (BitVec.and_zero)) (BitVec.and_zero)) (BitVec.and_zero)) (BitVec.and_zero)) (BitVec.and_zero)), (and_append_zero (m := 18) (n := 14) _ _ _ (and_append_zero (m := 17) (n := 1) _ _ _ (and_append_zero (m := 16) (n := 1) _ _ _ (and_append_zero (m := 14) (n := 2) _ _ _ (and_append_zero (m := 7) (n := 7) _ _ _ (BitVec.and_zero) (BitVec.zero_and)) (BitVec.and_zero)) (BitVec.and_zero)) (BitVec.and_zero)) (BitVec.zero_and))⟩
  · show isLong (0x24#6 ++ d ++ o ++ h ++ 1#4 ++ BitVec.ofBool byp ++ BitVec.ofBool ea) = true
    simp (disch := decide) only [isLong, fld, ext_low, ext_high, ext_all, Nat.reduceSub, Nat.reduceLT, decide_true, decide_false, BitVec.reduceToNat]

open RoundTrip in
theorem RoundTrip.amax (d : BitVec 7) (o : BitVec 7) (h : BitVec 6) (byp : Bool) (ea : Bool) (opnd : BitVec 7) (width : BitVec 2) (scalar : Bool) (eo : Bool) : Statement (.amax d o h byp ea opnd width scalar eo) := by
  intro hw
  refine ⟨?_, ?_⟩
  · show decode (0x24#6 ++ d ++ o ++ h ++ 2#4 ++ BitVec.ofBool byp ++ BitVec.ofBool ea) (opnd ++ 0#7 ++ width ++ BitVec.ofBool scalar ++ BitVec.ofBool eo ++ 0#14) = .ok (.amax d o h byp ea opnd width scalar eo)
    rw [decode_24 _ _ (by simp (disch := decide) only [ext_high, Nat.reduceSub, ext_all])]
    simp (disch := decide) only [dec24, fld, bit, ext_low, ext_high, bit_low, bit_high, ext_all, bit_ofBool, Nat.reduceSub, BitVec.reduceToNat]
    exact checked_ok _ _ ⟨(and_append_zero (m := 31) (n := 1) _ _ _ (and_append_zero (m := 30) (n := 1) _ _ _ (and_append_zero (m := 26) (n := 4) _ _ _ (and_append_zero (m := 20) (n := 6) _ _ _ (and_append_zero (m := 13) (n := 7) _ _ _ (and_append_zero (m := 6) (n := 7) _ _ _ (BitVec.and_zero) (BitVec.and_zero)) (BitVec.and_zero)) (BitVec.and_zero)) (BitVec.and_zero)) (BitVec.and_zero)) (BitVec.and_zero)), (and_append_zero (m := 18) (n := 14) _ _ _ (and_append_zero (m := 17) (n := 1) _ _ _ (and_append_zero (m := 16) (n := 1) _ _ _ (and_append_zero (m := 14) (n := 2) _ _ _ (and_append_zero (m := 7) (n := 7) _ _ _ (BitVec.and_zero) (BitVec.zero_and)) (BitVec.and_zero)) (BitVec.and_zero)) (BitVec.and_zero)) (BitVec.zero_and))⟩
  · show isLong (0x24#6 ++ d ++ o ++ h ++ 2#4 ++ BitVec.ofBool byp ++ BitVec.ofBool ea) = true
    simp (disch := decide) only [isLong, fld, ext_low, ext_high, ext_all, Nat.reduceSub, Nat.reduceLT, decide_true, decide_false, BitVec.reduceToNat]

open RoundTrip in
theorem RoundTrip.aminu (d : BitVec 7) (o : BitVec 7) (h : BitVec 6) (byp : Bool) (ea : Bool) (opnd : BitVec 7) (width : BitVec 2) (scalar : Bool) (eo : Bool) : Statement (.aminu d o h byp ea opnd width scalar eo) := by
  intro hw
  refine ⟨?_, ?_⟩
  · show decode (0x24#6 ++ d ++ o ++ h ++ 3#4 ++ BitVec.ofBool byp ++ BitVec.ofBool ea) (opnd ++ 0#7 ++ width ++ BitVec.ofBool scalar ++ BitVec.ofBool eo ++ 0#14) = .ok (.aminu d o h byp ea opnd width scalar eo)
    rw [decode_24 _ _ (by simp (disch := decide) only [ext_high, Nat.reduceSub, ext_all])]
    simp (disch := decide) only [dec24, fld, bit, ext_low, ext_high, bit_low, bit_high, ext_all, bit_ofBool, Nat.reduceSub, BitVec.reduceToNat]
    exact checked_ok _ _ ⟨(and_append_zero (m := 31) (n := 1) _ _ _ (and_append_zero (m := 30) (n := 1) _ _ _ (and_append_zero (m := 26) (n := 4) _ _ _ (and_append_zero (m := 20) (n := 6) _ _ _ (and_append_zero (m := 13) (n := 7) _ _ _ (and_append_zero (m := 6) (n := 7) _ _ _ (BitVec.and_zero) (BitVec.and_zero)) (BitVec.and_zero)) (BitVec.and_zero)) (BitVec.and_zero)) (BitVec.and_zero)) (BitVec.and_zero)), (and_append_zero (m := 18) (n := 14) _ _ _ (and_append_zero (m := 17) (n := 1) _ _ _ (and_append_zero (m := 16) (n := 1) _ _ _ (and_append_zero (m := 14) (n := 2) _ _ _ (and_append_zero (m := 7) (n := 7) _ _ _ (BitVec.and_zero) (BitVec.zero_and)) (BitVec.and_zero)) (BitVec.and_zero)) (BitVec.and_zero)) (BitVec.zero_and))⟩
  · show isLong (0x24#6 ++ d ++ o ++ h ++ 3#4 ++ BitVec.ofBool byp ++ BitVec.ofBool ea) = true
    simp (disch := decide) only [isLong, fld, ext_low, ext_high, ext_all, Nat.reduceSub, Nat.reduceLT, decide_true, decide_false, BitVec.reduceToNat]

open RoundTrip in
theorem RoundTrip.amaxu (d : BitVec 7) (o : BitVec 7) (h : BitVec 6) (byp : Bool) (ea : Bool) (opnd : BitVec 7) (width : BitVec 2) (scalar : Bool) (eo : Bool) : Statement (.amaxu d o h byp ea opnd width scalar eo) := by
  intro hw
  refine ⟨?_, ?_⟩
  · show decode (0x24#6 ++ d ++ o ++ h ++ 4#4 ++ BitVec.ofBool byp ++ BitVec.ofBool ea) (opnd ++ 0#7 ++ width ++ BitVec.ofBool scalar ++ BitVec.ofBool eo ++ 0#14) = .ok (.amaxu d o h byp ea opnd width scalar eo)
    rw [decode_24 _ _ (by simp (disch := decide) only [ext_high, Nat.reduceSub, ext_all])]
    simp (disch := decide) only [dec24, fld, bit, ext_low, ext_high, bit_low, bit_high, ext_all, bit_ofBool, Nat.reduceSub, BitVec.reduceToNat]
    exact checked_ok _ _ ⟨(and_append_zero (m := 31) (n := 1) _ _ _ (and_append_zero (m := 30) (n := 1) _ _ _ (and_append_zero (m := 26) (n := 4) _ _ _ (and_append_zero (m := 20) (n := 6) _ _ _ (and_append_zero (m := 13) (n := 7) _ _ _ (and_append_zero (m := 6) (n := 7) _ _ _ (BitVec.and_zero) (BitVec.and_zero)) (BitVec.and_zero)) (BitVec.and_zero)) (BitVec.and_zero)) (BitVec.and_zero)) (BitVec.and_zero)), (and_append_zero (m := 18) (n := 14) _ _ _ (and_append_zero (m := 17) (n := 1) _ _ _ (and_append_zero (m := 16) (n := 1) _ _ _ (and_append_zero (m := 14) (n := 2) _ _ _ (and_append_zero (m := 7) (n := 7) _ _ _ (BitVec.and_zero) (BitVec.zero_and)) (BitVec.and_zero)) (BitVec.and_zero)) (BitVec.and_zero)) (BitVec.zero_and))⟩
  · show isLong (0x24#6 ++ d ++ o ++ h ++ 4#4 ++ BitVec.ofBool byp ++ BitVec.ofBool ea) = true
    simp (disch := decide) only [isLong, fld, ext_low, ext_high, ext_all, Nat.reduceSub, Nat.reduceLT, decide_true, decide_false, BitVec.reduceToNat]

open RoundTrip in
theorem RoundTrip.aand (d : BitVec 7) (o : BitVec 7) (h : BitVec 6) (byp : Bool) (ea : Bool) (opnd : BitVec 7) (width : BitVec 2) (scalar : Bool) (eo : Bool) : Statement (.aand d o h byp ea opnd width scalar eo) := by
  intro hw
  refine ⟨?_, ?_⟩
  · show decode (0x24#6 ++ d ++ o ++ h ++ 5#4 ++ BitVec.ofBool byp ++ BitVec.ofBool ea) (opnd ++ 0#7 ++ width ++ BitVec.ofBool scalar ++ BitVec.ofBool eo ++ 0#14) = .ok (.aand d o h byp ea opnd width scalar eo)
    rw [decode_24 _ _ (by simp (disch := decide) only [ext_high, Nat.reduceSub, ext_all])]
    simp (disch := decide) only [dec24, fld, bit, ext_low, ext_high, bit_low, bit_high, ext_all, bit_ofBool, Nat.reduceSub, BitVec.reduceToNat]
    exact checked_ok _ _ ⟨(and_append_zero (m := 31) (n := 1) _ _ _ (and_append_zero (m := 30) (n := 1) _ _ _ (and_append_zero (m := 26) (n := 4) _ _ _ (and_append_zero (m := 20) (n := 6) _ _ _ (and_append_zero (m := 13) (n := 7) _ _ _ (and_append_zero (m := 6) (n := 7) _ _ _ (BitVec.and_zero) (BitVec.and_zero)) (BitVec.and_zero)) (BitVec.and_zero)) (BitVec.and_zero)) (BitVec.and_zero)) (BitVec.and_zero)), (and_append_zero (m := 18) (n := 14) _ _ _ (and_append_zero (m := 17) (n := 1) _ _ _ (and_append_zero (m := 16) (n := 1) _ _ _ (and_append_zero (m := 14) (n := 2) _ _ _ (and_append_zero (m := 7) (n := 7) _ _ _ (BitVec.and_zero) (BitVec.zero_and)) (BitVec.and_zero)) (BitVec.and_zero)) (BitVec.and_zero)) (BitVec.zero_and))⟩
  · show isLong (0x24#6 ++ d ++ o ++ h ++ 5#4 ++ BitVec.ofBool byp ++ BitVec.ofBool ea) = true
    simp (disch := decide) only [isLong, fld, ext_low, ext_high, ext_all, Nat.reduceSub, Nat.reduceLT, decide_true, decide_false, BitVec.reduceToNat]

open RoundTrip in
theorem RoundTrip.aor (d : BitVec 7) (o : BitVec 7) (h : BitVec 6) (byp : Bool) (ea : Bool) (opnd : BitVec 7) (width : BitVec 2) (scalar : Bool) (eo : Bool) : Statement (.aor d o h byp ea opnd width scalar eo) := by
  intro hw
  refine ⟨?_, ?_⟩
  · show decode (0x24#6 ++ d ++ o ++ h ++ 6#4 ++ BitVec.ofBool byp ++ BitVec.ofBool ea) (opnd ++ 0#7 ++ width ++ BitVec.ofBool scalar ++ BitVec.ofBool eo ++ 0#14) = .ok (.aor d o h byp ea opnd width scalar eo)
    rw [decode_24 _ _ (by simp (disch := decide) only [ext_high, Nat.reduceSub, ext_all])]
    simp (disch := decide) only [dec24, fld, bit, ext_low, ext_high, bit_low, bit_high, ext_all, bit_ofBool, Nat.reduceSub, BitVec.reduceToNat]
    exact checked_ok _ _ ⟨(and_append_zero (m := 31) (n := 1) _ _ _ (and_append_zero (m := 30) (n := 1) _ _ _ (and_append_zero (m := 26) (n := 4) _ _ _ (and_append_zero (m := 20) (n := 6) _ _ _ (and_append_zero (m := 13) (n := 7) _ _ _ (and_append_zero (m := 6) (n := 7) _ _ _ (BitVec.and_zero) (BitVec.and_zero)) (BitVec.and_zero)) (BitVec.and_zero)) (BitVec.and_zero)) (BitVec.and_zero)) (BitVec.and_zero)), (and_append_zero (m := 18) (n := 14) _ _ _ (and_append_zero (m := 17) (n := 1) _ _ _ (and_append_zero (m := 16) (n := 1) _ _ _ (and_append_zero (m := 14) (n := 2) _ _ _ (and_append_zero (m := 7) (n := 7) _ _ _ (BitVec.and_zero) (BitVec.zero_and)) (BitVec.and_zero)) (BitVec.and_zero)) (BitVec.and_zero)) (BitVec.zero_and))⟩
  · show isLong (0x24#6 ++ d ++ o ++ h ++ 6#4 ++ BitVec.ofBool byp ++ BitVec.ofBool ea) = true
    simp (disch := decide) only [isLong, fld, ext_low, ext_high, ext_all, Nat.reduceSub, Nat.reduceLT, decide_true, decide_false, BitVec.reduceToNat]

open RoundTrip in
theorem RoundTrip.axor (d : BitVec 7) (o : BitVec 7) (h : BitVec 6) (byp : Bool) (ea : Bool) (opnd : BitVec 7) (width : BitVec 2) (scalar : Bool) (eo : Bool) : Statement (.axor d o h byp ea opnd width scalar eo) := by
  intro hw
  refine ⟨?_, ?_⟩
  · show decode (0x24#6 ++ d ++ o ++ h ++ 7#4 ++ BitVec.ofBool byp ++ BitVec.ofBool ea) (opnd ++ 0#7 ++ width ++ BitVec.ofBool scalar ++ BitVec.ofBool eo ++ 0#14) = .ok (.axor d o h byp ea opnd width scalar eo)
    rw [decode_24 _ _ (by simp (disch := decide) only [ext_high, Nat.reduceSub, ext_all])]
    simp (disch := decide) only [dec24, fld, bit, ext_low, ext_high, bit_low, bit_high, ext_all, bit_ofBool, Nat.reduceSub, BitVec.reduceToNat]
    exact checked_ok _ _ ⟨(and_append_zero (m := 31) (n := 1) _ _ _ (and_append_zero (m := 30) (n := 1) _ _ _ (and_append_zero (m := 26) (n := 4) _ _ _ (and_append_zero (m := 20) (n := 6) _ _ _ (and_append_zero (m := 13) (n := 7) _ _ _ (and_append_zero (m := 6) (n := 7) _ _ _ (BitVec.and_zero) (BitVec.and_zero)) (BitVec.and_zero)) (BitVec.and_zero)) (BitVec.and_zero)) (BitVec.and_zero)) (BitVec.and_zero)), (and_append_zero (m := 18) (n := 14) _ _ _ (and_append_zero (m := 17) (n := 1) _ _ _ (and_append_zero (m := 16) (n := 1) _ _ _ (and_append_zero (m := 14) (n := 2) _ _ _ (and_append_zero (m := 7) (n := 7) _ _ _ (BitVec.and_zero) (BitVec.zero_and)) (BitVec.and_zero)) (BitVec.and_zero)) (BitVec.and_zero)) (BitVec.zero_and))⟩
  · show isLong (0x24#6 ++ d ++ o ++ h ++ 7#4 ++ BitVec.ofBool byp ++ BitVec.ofBool ea) = true
    simp (disch := decide) only [isLong, fld, ext_low, ext_high, ext_all, Nat.reduceSub, Nat.reduceLT, decide_true, decide_false, BitVec.reduceToNat]

open RoundTrip in
theorem RoundTrip.axchg (d : BitVec 7) (o : BitVec 7) (h : BitVec 6) (byp : Bool) (ea : Bool) (opnd : BitVec 7) (width : BitVec 2) (scalar : Bool) (eo : Bool) : Statement (.axchg d o h byp ea opnd width scalar eo) := by
  intro hw
  refine ⟨?_, ?_⟩
  · show decode (0x24#6 ++ d ++ o ++ h ++ 8#4 ++ BitVec.ofBool byp ++ BitVec.ofBool ea) (opnd ++ 0#7 ++ width ++ BitVec.ofBool scalar ++ BitVec.ofBool eo ++ 0#14) = .ok (.axchg d o h byp ea opnd width scalar eo)
    rw [decode_24 _ _ (by simp (disch := decide) only [ext_high, Nat.reduceSub, ext_all])]
    simp (disch := decide) only [dec24, fld, bit, ext_low, ext_high, bit_low, bit_high, ext_all, bit_ofBool, Nat.reduceSub, BitVec.reduceToNat]
    exact checked_ok _ _ ⟨(and_append_zero (m := 31) (n := 1) _ _ _ (and_append_zero (m := 30) (n := 1) _ _ _ (and_append_zero (m := 26) (n := 4) _ _ _ (and_append_zero (m := 20) (n := 6) _ _ _ (and_append_zero (m := 13) (n := 7) _ _ _ (and_append_zero (m := 6) (n := 7) _ _ _ (BitVec.and_zero) (BitVec.and_zero)) (BitVec.and_zero)) (BitVec.and_zero)) (BitVec.and_zero)) (BitVec.and_zero)) (BitVec.and_zero)), (and_append_zero (m := 18) (n := 14) _ _ _ (and_append_zero (m := 17) (n := 1) _ _ _ (and_append_zero (m := 16) (n := 1) _ _ _ (and_append_zero (m := 14) (n := 2) _ _ _ (and_append_zero (m := 7) (n := 7) _ _ _ (BitVec.and_zero) (BitVec.zero_and)) (BitVec.and_zero)) (BitVec.and_zero)) (BitVec.and_zero)) (BitVec.zero_and))⟩
  · show isLong (0x24#6 ++ d ++ o ++ h ++ 8#4 ++ BitVec.ofBool byp ++ BitVec.ofBool ea) = true
    simp (disch := decide) only [isLong, fld, ext_low, ext_high, ext_all, Nat.reduceSub, Nat.reduceLT, decide_true, decide_false, BitVec.reduceToNat]

open RoundTrip in
theorem RoundTrip.acas (d : BitVec 7) (o : BitVec 7) (h : BitVec 6) (byp : Bool) (ea : Bool) (opnd : BitVec 7) (cmp : BitVec 7) (width : BitVec 2) (scalar : Bool) (eo : Bool) (ec : Bool) : Statement (.acas d o h byp ea opnd cmp width scalar eo ec) := by
  intro hw
  refine ⟨?_, ?_⟩
  · show decode (0x24#6 ++ d ++ o ++ h ++ 9#4 ++ BitVec.ofBool byp ++ BitVec.ofBool ea) (opnd ++ cmp ++ width ++ BitVec.ofBool scalar ++ BitVec.ofBool eo ++ BitVec.ofBool ec ++ 0#13) = .ok (.acas d o h byp ea opnd cmp width scalar eo ec)
    rw [decode_24 _ _ (by simp (disch := decide) only [ext_high, Nat.reduceSub, ext_all])]
    simp (disch := decide) only [dec24, fld, bit, ext_low, ext_high, bit_low, bit_high, ext_all, bit_ofBool, Nat.reduceSub, BitVec.reduceToNat]
    exact checked_ok _ _ ⟨(and_append_zero (m := 31) (n := 1) _ _ _ (and_append_zero (m := 30) (n := 1) _ _ _ (and_append_zero (m := 26) (n := 4) _ _ _ (and_append_zero (m := 20) (n := 6) _ _ _ (and_append_zero (m := 13) (n := 7) _ _ _ (and_append_zero (m := 6) (n := 7) _ _ _ (BitVec.and_zero) (BitVec.and_zero)) (BitVec.and_zero)) (BitVec.and_zero)) (BitVec.and_zero)) (BitVec.and_zero)) (BitVec.and_zero)), (and_append_zero (m := 19) (n := 13) _ _ _ (and_append_zero (m := 18) (n := 1) _ _ _ (and_append_zero (m := 17) (n := 1) _ _ _ (and_append_zero (m := 16) (n := 1) _ _ _ (and_append_zero (m := 14) (n := 2) _ _ _ (and_append_zero (m := 7) (n := 7) _ _ _ (BitVec.and_zero) (BitVec.and_zero)) (BitVec.and_zero)) (BitVec.and_zero)) (BitVec.and_zero)) (BitVec.and_zero)) (BitVec.zero_and))⟩
  · show isLong (0x24#6 ++ d ++ o ++ h ++ 9#4 ++ BitVec.ofBool byp ++ BitVec.ofBool ea) = true
    simp (disch := decide) only [isLong, fld, ext_low, ext_high, ext_all, Nat.reduceSub, Nat.reduceLT, decide_true, decide_false, BitVec.reduceToNat]

open RoundTrip in
theorem RoundTrip.afadd (d : BitVec 7) (o : BitVec 7) (h : BitVec 6) (byp : Bool) (ea : Bool) (opnd : BitVec 7) (width : BitVec 2) (scalar : Bool) (eo : Bool) : Statement (.afadd d o h byp ea opnd width scalar eo) := by
  intro hw
  refine ⟨?_, ?_⟩
  · show decode (0x24#6 ++ d ++ o ++ h ++ 10#4 ++ BitVec.ofBool byp ++ BitVec.ofBool ea) (opnd ++ 0#7 ++ width ++ BitVec.ofBool scalar ++ BitVec.ofBool eo ++ 0#14) = .ok (.afadd d o h byp ea opnd width scalar eo)
    rw [decode_24 _ _ (by simp (disch := decide) only [ext_high, Nat.reduceSub, ext_all])]
    simp (disch := decide) only [dec24, fld, bit, ext_low, ext_high, bit_low, bit_high, ext_all, bit_ofBool, Nat.reduceSub, BitVec.reduceToNat]
    exact checked_ok _ _ ⟨(and_append_zero (m := 31) (n := 1) _ _ _ (and_append_zero (m := 30) (n := 1) _ _ _ (and_append_zero (m := 26) (n := 4) _ _ _ (and_append_zero (m := 20) (n := 6) _ _ _ (and_append_zero (m := 13) (n := 7) _ _ _ (and_append_zero (m := 6) (n := 7) _ _ _ (BitVec.and_zero) (BitVec.and_zero)) (BitVec.and_zero)) (BitVec.and_zero)) (BitVec.and_zero)) (BitVec.and_zero)) (BitVec.and_zero)), (and_append_zero (m := 18) (n := 14) _ _ _ (and_append_zero (m := 17) (n := 1) _ _ _ (and_append_zero (m := 16) (n := 1) _ _ _ (and_append_zero (m := 14) (n := 2) _ _ _ (and_append_zero (m := 7) (n := 7) _ _ _ (BitVec.and_zero) (BitVec.zero_and)) (BitVec.and_zero)) (BitVec.and_zero)) (BitVec.and_zero)) (BitVec.zero_and))⟩
  · show isLong (0x24#6 ++ d ++ o ++ h ++ 10#4 ++ BitVec.ofBool byp ++ BitVec.ofBool ea) = true
    simp (disch := decide) only [isLong, fld, ext_low, ext_high, ext_all, Nat.reduceSub, Nat.reduceLT, decide_true, decide_false, BitVec.reduceToNat]

open RoundTrip in
theorem RoundTrip.radd (d : BitVec 7) (o : BitVec 7) (h : BitVec 6) (byp : Bool) (ed : Bool) (ea : Bool) : Statement (.radd d o h byp ed ea) := by
  intro hw
  refine ⟨?_, ?_⟩
  · show decode (0x25#6 ++ d ++ o ++ h ++ 0#3 ++ BitVec.ofBool byp ++ BitVec.ofBool ed ++ BitVec.ofBool ea) (0) = .ok (.radd d o h byp ed ea)
    rw [decode_25 _ _ (by simp (disch := decide) only [ext_high, Nat.reduceSub, ext_all])]
    simp (disch := decide) only [dec25, fld, bit, ext_low, ext_high, bit_low, bit_high, ext_all, bit_ofBool, Nat.reduceSub, BitVec.reduceToNat]
  · show isLong (0x25#6 ++ d ++ o ++ h ++ 0#3 ++ BitVec.ofBool byp ++ BitVec.ofBool ed ++ BitVec.ofBool ea) = false
    simp (disch := decide) only [isLong, fld, ext_low, ext_high, ext_all, Nat.reduceSub, Nat.reduceLT, decide_true, decide_false, BitVec.reduceToNat]

open RoundTrip in
theorem RoundTrip.rfadd (d : BitVec 7) (o : BitVec 7) (h : BitVec 6) (byp : Bool) (ed : Bool) (ea : Bool) : Statement (.rfadd d o h byp ed ea) := by
  intro hw
  refine ⟨?_, ?_⟩
  · show decode (0x25#6 ++ d ++ o ++ h ++ 1#3 ++ BitVec.ofBool byp ++ BitVec.ofBool ed ++ BitVec.ofBool ea) (0) = .ok (.rfadd d o h byp ed ea)
    rw [decode_25 _ _ (by simp (disch := decide) only [ext_high, Nat.reduceSub, ext_all])]
    simp (disch := decide) only [dec25, fld, bit, ext_low, ext_high, bit_low, bit_high, ext_all, bit_ofBool, Nat.reduceSub, BitVec.reduceToNat]
  · show isLong (0x25#6 ++ d ++ o ++ h ++ 1#3 ++ BitVec.ofBool byp ++ BitVec.ofBool ed ++ BitVec.ofBool ea) = false
    simp (disch := decide) only [isLong, fld, ext_low, ext_high, ext_all, Nat.reduceSub, Nat.reduceLT, decide_true, decide_false, BitVec.reduceToNat]

open RoundTrip in
theorem RoundTrip.rbfadd (d : BitVec 7) (o : BitVec 7) (h : BitVec 6) (byp : Bool) (ed : Bool) (ea : Bool) : Statement (.rbfadd d o h byp ed ea) := by
  intro hw
  refine ⟨?_, ?_⟩
  · show decode (0x25#6 ++ d ++ o ++ h ++ 2#3 ++ BitVec.ofBool byp ++ BitVec.ofBool ed ++ BitVec.ofBool ea) (0) = .ok (.rbfadd d o h byp ed ea)
    rw [decode_25 _ _ (by simp (disch := decide) only [ext_high, Nat.reduceSub, ext_all])]
    simp (disch := decide) only [dec25, fld, bit, ext_low, ext_high, bit_low, bit_high, ext_all, bit_ofBool, Nat.reduceSub, BitVec.reduceToNat]
  · show isLong (0x25#6 ++ d ++ o ++ h ++ 2#3 ++ BitVec.ofBool byp ++ BitVec.ofBool ed ++ BitVec.ofBool ea) = false
    simp (disch := decide) only [isLong, fld, ext_low, ext_high, ext_all, Nat.reduceSub, Nat.reduceLT, decide_true, decide_false, BitVec.reduceToNat]

open RoundTrip in
theorem RoundTrip.rmin (d : BitVec 7) (o : BitVec 7) (h : BitVec 6) (byp : Bool) (ed : Bool) (ea : Bool) : Statement (.rmin d o h byp ed ea) := by
  intro hw
  refine ⟨?_, ?_⟩
  · show decode (0x25#6 ++ d ++ o ++ h ++ 3#3 ++ BitVec.ofBool byp ++ BitVec.ofBool ed ++ BitVec.ofBool ea) (0) = .ok (.rmin d o h byp ed ea)
    rw [decode_25 _ _ (by simp (disch := decide) only [ext_high, Nat.reduceSub, ext_all])]
    simp (disch := decide) only [dec25, fld, bit, ext_low, ext_high, bit_low, bit_high, ext_all, bit_ofBool, Nat.reduceSub, BitVec.reduceToNat]
  · show isLong (0x25#6 ++ d ++ o ++ h ++ 3#3 ++ BitVec.ofBool byp ++ BitVec.ofBool ed ++ BitVec.ofBool ea) = false
    simp (disch := decide) only [isLong, fld, ext_low, ext_high, ext_all, Nat.reduceSub, Nat.reduceLT, decide_true, decide_false, BitVec.reduceToNat]

open RoundTrip in
theorem RoundTrip.rmax (d : BitVec 7) (o : BitVec 7) (h : BitVec 6) (byp : Bool) (ed : Bool) (ea : Bool) : Statement (.rmax d o h byp ed ea) := by
  intro hw
  refine ⟨?_, ?_⟩
  · show decode (0x25#6 ++ d ++ o ++ h ++ 4#3 ++ BitVec.ofBool byp ++ BitVec.ofBool ed ++ BitVec.ofBool ea) (0) = .ok (.rmax d o h byp ed ea)
    rw [decode_25 _ _ (by simp (disch := decide) only [ext_high, Nat.reduceSub, ext_all])]
    simp (disch := decide) only [dec25, fld, bit, ext_low, ext_high, bit_low, bit_high, ext_all, bit_ofBool, Nat.reduceSub, BitVec.reduceToNat]
  · show isLong (0x25#6 ++ d ++ o ++ h ++ 4#3 ++ BitVec.ofBool byp ++ BitVec.ofBool ed ++ BitVec.ofBool ea) = false
    simp (disch := decide) only [isLong, fld, ext_low, ext_high, ext_all, Nat.reduceSub, Nat.reduceLT, decide_true, decide_false, BitVec.reduceToNat]

open RoundTrip in
theorem RoundTrip.rand (d : BitVec 7) (o : BitVec 7) (h : BitVec 6) (byp : Bool) (ed : Bool) (ea : Bool) : Statement (.rand d o h byp ed ea) := by
  intro hw
  refine ⟨?_, ?_⟩
  · show decode (0x25#6 ++ d ++ o ++ h ++ 5#3 ++ BitVec.ofBool byp ++ BitVec.ofBool ed ++ BitVec.ofBool ea) (0) = .ok (.rand d o h byp ed ea)
    rw [decode_25 _ _ (by simp (disch := decide) only [ext_high, Nat.reduceSub, ext_all])]
    simp (disch := decide) only [dec25, fld, bit, ext_low, ext_high, bit_low, bit_high, ext_all, bit_ofBool, Nat.reduceSub, BitVec.reduceToNat]
  · show isLong (0x25#6 ++ d ++ o ++ h ++ 5#3 ++ BitVec.ofBool byp ++ BitVec.ofBool ed ++ BitVec.ofBool ea) = false
    simp (disch := decide) only [isLong, fld, ext_low, ext_high, ext_all, Nat.reduceSub, Nat.reduceLT, decide_true, decide_false, BitVec.reduceToNat]

open RoundTrip in
theorem RoundTrip.ror (d : BitVec 7) (o : BitVec 7) (h : BitVec 6) (byp : Bool) (ed : Bool) (ea : Bool) : Statement (.ror d o h byp ed ea) := by
  intro hw
  refine ⟨?_, ?_⟩
  · show decode (0x25#6 ++ d ++ o ++ h ++ 6#3 ++ BitVec.ofBool byp ++ BitVec.ofBool ed ++ BitVec.ofBool ea) (0) = .ok (.ror d o h byp ed ea)
    rw [decode_25 _ _ (by simp (disch := decide) only [ext_high, Nat.reduceSub, ext_all])]
    simp (disch := decide) only [dec25, fld, bit, ext_low, ext_high, bit_low, bit_high, ext_all, bit_ofBool, Nat.reduceSub, BitVec.reduceToNat]
  · show isLong (0x25#6 ++ d ++ o ++ h ++ 6#3 ++ BitVec.ofBool byp ++ BitVec.ofBool ed ++ BitVec.ofBool ea) = false
    simp (disch := decide) only [isLong, fld, ext_low, ext_high, ext_all, Nat.reduceSub, Nat.reduceLT, decide_true, decide_false, BitVec.reduceToNat]

open RoundTrip in
theorem RoundTrip.rxor (d : BitVec 7) (o : BitVec 7) (h : BitVec 6) (byp : Bool) (ed : Bool) (ea : Bool) : Statement (.rxor d o h byp ed ea) := by
  intro hw
  refine ⟨?_, ?_⟩
  · show decode (0x25#6 ++ d ++ o ++ h ++ 7#3 ++ BitVec.ofBool byp ++ BitVec.ofBool ed ++ BitVec.ofBool ea) (0) = .ok (.rxor d o h byp ed ea)
    rw [decode_25 _ _ (by simp (disch := decide) only [ext_high, Nat.reduceSub, ext_all])]
    simp (disch := decide) only [dec25, fld, bit, ext_low, ext_high, bit_low, bit_high, ext_all, bit_ofBool, Nat.reduceSub, BitVec.reduceToNat]
  · show isLong (0x25#6 ++ d ++ o ++ h ++ 7#3 ++ BitVec.ofBool byp ++ BitVec.ofBool ed ++ BitVec.ofBool ea) = false
    simp (disch := decide) only [isLong, fld, ext_low, ext_high, ext_all, Nat.reduceSub, Nat.reduceLT, decide_true, decide_false, BitVec.reduceToNat]

open RoundTrip in
theorem RoundTrip.tbegin (d : BitVec 7) (a : BitVec 7) (ea : Bool) : Statement (.tbegin d a ea) := by
  intro hw
  refine ⟨?_, ?_⟩
  · show decode (0x26#6 ++ d ++ a ++ 0#7 ++ 0#3 ++ BitVec.ofBool ea ++ 0#1) (0) = .ok (.tbegin d a ea)
    rw [decode_26 _ _ (by simp (disch := decide) only [ext_high, Nat.reduceSub, ext_all])]
    simp (disch := decide) only [dec26, fld, bit, ext_low, ext_high, bit_low, bit_high, ext_all, bit_ofBool, Nat.reduceSub, BitVec.reduceToNat]
    exact checked_ok _ _ (and_append_zero (m := 31) (n := 1) _ _ _ (and_append_zero (m := 30) (n := 1) _ _ _ (and_append_zero (m := 27) (n := 3) _ _ _ (and_append_zero (m := 20) (n := 7) _ _ _ (and_append_zero (m := 13) (n := 7) _ _ _ (and_append_zero (m := 6) (n := 7) _ _ _ (BitVec.and_zero) (BitVec.and_zero)) (BitVec.and_zero)) (BitVec.zero_and)) (BitVec.zero_and)) (BitVec.and_zero)) (BitVec.zero_and))
  · show isLong (0x26#6 ++ d ++ a ++ 0#7 ++ 0#3 ++ BitVec.ofBool ea ++ 0#1) = false
    simp (disch := decide) only [isLong, fld, ext_low, ext_high, ext_all, Nat.reduceSub, Nat.reduceLT, decide_true, decide_false, BitVec.reduceToNat]

open RoundTrip in
theorem RoundTrip.tend : Statement (.tend) := by
  intro hw
  refine ⟨?_, ?_⟩
  · show decode (0x26#6 ++ 0#21 ++ 1#3 ++ 0#2) (0) = .ok (.tend)
    rw [decode_26 _ _ (by simp (disch := decide) only [ext_high, Nat.reduceSub, ext_all])]
    simp (disch := decide) only [dec26, fld, bit, ext_low, ext_high, bit_low, bit_high, ext_all, bit_ofBool, Nat.reduceSub, BitVec.reduceToNat]
    exact checked_ok _ _ (and_append_zero (m := 30) (n := 2) _ _ _ (and_append_zero (m := 27) (n := 3) _ _ _ (and_append_zero (m := 6) (n := 21) _ _ _ (BitVec.and_zero) (BitVec.zero_and)) (BitVec.and_zero)) (BitVec.zero_and))
  · show isLong (0x26#6 ++ 0#21 ++ 1#3 ++ 0#2) = false
    simp (disch := decide) only [isLong, fld, ext_low, ext_high, ext_all, Nat.reduceSub, Nat.reduceLT, decide_true, decide_false, BitVec.reduceToNat]

open RoundTrip in
theorem RoundTrip.tabort (a : BitVec 7) (ea : Bool) : Statement (.tabort a ea) := by
  intro hw
  refine ⟨?_, ?_⟩
  · show decode (0x26#6 ++ 0#7 ++ a ++ 0#7 ++ 2#3 ++ BitVec.ofBool ea ++ 0#1) (0) = .ok (.tabort a ea)
    rw [decode_26 _ _ (by simp (disch := decide) only [ext_high, Nat.reduceSub, ext_all])]
    simp (disch := decide) only [dec26, fld, bit, ext_low, ext_high, bit_low, bit_high, ext_all, bit_ofBool, Nat.reduceSub, BitVec.reduceToNat]
    exact checked_ok _ _ (and_append_zero (m := 31) (n := 1) _ _ _ (and_append_zero (m := 30) (n := 1) _ _ _ (and_append_zero (m := 27) (n := 3) _ _ _ (and_append_zero (m := 20) (n := 7) _ _ _ (and_append_zero (m := 13) (n := 7) _ _ _ (and_append_zero (m := 6) (n := 7) _ _ _ (BitVec.and_zero) (BitVec.zero_and)) (BitVec.and_zero)) (BitVec.zero_and)) (BitVec.and_zero)) (BitVec.and_zero)) (BitVec.zero_and))
  · show isLong (0x26#6 ++ 0#7 ++ a ++ 0#7 ++ 2#3 ++ BitVec.ofBool ea ++ 0#1) = false
    simp (disch := decide) only [isLong, fld, ext_low, ext_high, ext_all, Nat.reduceSub, Nat.reduceLT, decide_true, decide_false, BitVec.reduceToNat]

open RoundTrip in
theorem RoundTrip.ttest (d : BitVec 7) : Statement (.ttest d) := by
  intro hw
  refine ⟨?_, ?_⟩
  · show decode (0x26#6 ++ d ++ 0#14 ++ 3#3 ++ 0#2) (0) = .ok (.ttest d)
    rw [decode_26 _ _ (by simp (disch := decide) only [ext_high, Nat.reduceSub, ext_all])]
    simp (disch := decide) only [dec26, fld, bit, ext_low, ext_high, bit_low, bit_high, ext_all, bit_ofBool, Nat.reduceSub, BitVec.reduceToNat]
    exact checked_ok _ _ (and_append_zero (m := 30) (n := 2) _ _ _ (and_append_zero (m := 27) (n := 3) _ _ _ (and_append_zero (m := 13) (n := 14) _ _ _ (and_append_zero (m := 6) (n := 7) _ _ _ (BitVec.and_zero) (BitVec.and_zero)) (BitVec.zero_and)) (BitVec.and_zero)) (BitVec.zero_and))
  · show isLong (0x26#6 ++ d ++ 0#14 ++ 3#3 ++ 0#2) = false
    simp (disch := decide) only [isLong, fld, ext_low, ext_high, ext_all, Nat.reduceSub, Nat.reduceLT, decide_true, decide_false, BitVec.reduceToNat]

open RoundTrip in
theorem RoundTrip.cpy (sd : BitVec 7) (ss : BitVec 7) (sn : BitVec 7) (ed : Bool) (es : Bool) (en : Bool) (gh : BitVec 6) (gchk : Bool) : Statement (.cpy sd ss sn ed es en gh gchk) := by
  intro hw
  refine ⟨?_, ?_⟩
  · show decode (0x27#6 ++ sd ++ ss ++ sn ++ 0#3 ++ 0#2) (BitVec.ofBool ed ++ BitVec.ofBool es ++ BitVec.ofBool en ++ 0#7 ++ gh ++ 0#7 ++ BitVec.ofBool gchk ++ 0#8) = .ok (.cpy sd ss sn ed es en gh gchk)
    rw [decode_27 _ _ (by simp (disch := decide) only [ext_high, Nat.reduceSub, ext_all])]
    simp (disch := decide) only [dec27, fld, bit, ext_low, ext_high, bit_low, bit_high, ext_all, bit_ofBool, Nat.reduceSub, BitVec.reduceToNat]
    exact checked_ok _ _ ⟨(and_append_zero (m := 30) (n := 2) _ _ _ (and_append_zero (m := 27) (n := 3) _ _ _ (and_append_zero (m := 20) (n := 7) _ _ _ (and_append_zero (m := 13) (n := 7) _ _ _ (and_append_zero (m := 6) (n := 7) _ _ _ (BitVec.and_zero) (BitVec.and_zero)) (BitVec.and_zero)) (BitVec.and_zero)) (BitVec.zero_and)) (BitVec.zero_and)), (and_append_zero (m := 24) (n := 8) _ _ _ (and_append_zero (m := 23) (n := 1) _ _ _ (and_append_zero (m := 16) (n := 7) _ _ _ (and_append_zero (m := 10) (n := 6) _ _ _ (and_append_zero (m := 3) (n := 7) _ _ _ (and_append_zero (m := 2) (n := 1) _ _ _ (and_append_zero (m := 1) (n := 1) _ _ _ (BitVec.and_zero) (BitVec.and_zero)) (BitVec.and_zero)) (BitVec.zero_and)) (BitVec.and_zero)) (BitVec.zero_and)) (BitVec.and_zero)) (BitVec.zero_and))⟩
  · show isLong (0x27#6 ++ sd ++ ss ++ sn ++ 0#3 ++ 0#2) = true
    simp (disch := decide) only [isLong, fld, ext_low, ext_high, ext_all, Nat.reduceSub, Nat.reduceLT, decide_true, decide_false, BitVec.reduceToNat]

open RoundTrip in
theorem RoundTrip.cpy2d (sd : BitVec 7) (ss : BitVec 7) (sn : BitVec 7) (ed : Bool) (es : Bool) (en : Bool) (gh : BitVec 6) (gchk : Bool) : Statement (.cpy2d sd ss sn ed es en gh gchk) := by
  intro hw
  refine ⟨?_, ?_⟩
  · show decode (0x27#6 ++ sd ++ ss ++ sn ++ 1#3 ++ 0#2) (BitVec.ofBool ed ++ BitVec.ofBool es ++ BitVec.ofBool en ++ 0#7 ++ gh ++ 0#7 ++ BitVec.ofBool gchk ++ 0#8) = .ok (.cpy2d sd ss sn ed es en gh gchk)
    rw [decode_27 _ _ (by simp (disch := decide) only [ext_high, Nat.reduceSub, ext_all])]
    simp (disch := decide) only [dec27, fld, bit, ext_low, ext_high, bit_low, bit_high, ext_all, bit_ofBool, Nat.reduceSub, BitVec.reduceToNat]
    exact checked_ok _ _ ⟨(and_append_zero (m := 30) (n := 2) _ _ _ (and_append_zero (m := 27) (n := 3) _ _ _ (and_append_zero (m := 20) (n := 7) _ _ _ (and_append_zero (m := 13) (n := 7) _ _ _ (and_append_zero (m := 6) (n := 7) _ _ _ (BitVec.and_zero) (BitVec.and_zero)) (BitVec.and_zero)) (BitVec.and_zero)) (BitVec.and_zero)) (BitVec.zero_and)), (and_append_zero (m := 24) (n := 8) _ _ _ (and_append_zero (m := 23) (n := 1) _ _ _ (and_append_zero (m := 16) (n := 7) _ _ _ (and_append_zero (m := 10) (n := 6) _ _ _ (and_append_zero (m := 3) (n := 7) _ _ _ (and_append_zero (m := 2) (n := 1) _ _ _ (and_append_zero (m := 1) (n := 1) _ _ _ (BitVec.and_zero) (BitVec.and_zero)) (BitVec.and_zero)) (BitVec.zero_and)) (BitVec.and_zero)) (BitVec.zero_and)) (BitVec.and_zero)) (BitVec.zero_and))⟩
  · show isLong (0x27#6 ++ sd ++ ss ++ sn ++ 1#3 ++ 0#2) = true
    simp (disch := decide) only [isLong, fld, ext_low, ext_high, ext_all, Nat.reduceSub, Nat.reduceLT, decide_true, decide_false, BitVec.reduceToNat]

open RoundTrip in
theorem RoundTrip.cpyg (sd : BitVec 7) (ss : BitVec 7) (sn : BitVec 7) (ed : Bool) (es : Bool) (en : Bool) (gh : BitVec 6) (gchk : Bool) (iw : Bool) (esz : BitVec 2) : Statement (.cpyg sd ss sn ed es en gh gchk iw esz) := by
  intro hw
  refine ⟨?_, ?_⟩
  · show decode (0x27#6 ++ sd ++ ss ++ sn ++ 2#3 ++ 0#2) (BitVec.ofBool ed ++ BitVec.ofBool es ++ BitVec.ofBool en ++ 0#7 ++ gh ++ 0#7 ++ BitVec.ofBool gchk ++ 0#5 ++ BitVec.ofBool iw ++ esz) = .ok (.cpyg sd ss sn ed es en gh gchk iw esz)
    rw [decode_27 _ _ (by simp (disch := decide) only [ext_high, Nat.reduceSub, ext_all])]
    simp (disch := decide) only [dec27, fld, bit, ext_low, ext_high, bit_low, bit_high, ext_all, bit_ofBool, Nat.reduceSub, BitVec.reduceToNat]
    exact checked_ok _ _ ⟨(and_append_zero (m := 30) (n := 2) _ _ _ (and_append_zero (m := 27) (n := 3) _ _ _ (and_append_zero (m := 20) (n := 7) _ _ _ (and_append_zero (m := 13) (n := 7) _ _ _ (and_append_zero (m := 6) (n := 7) _ _ _ (BitVec.and_zero) (BitVec.and_zero)) (BitVec.and_zero)) (BitVec.and_zero)) (BitVec.and_zero)) (BitVec.zero_and)), (and_append_zero (m := 30) (n := 2) _ _ _ (and_append_zero (m := 29) (n := 1) _ _ _ (and_append_zero (m := 24) (n := 5) _ _ _ (and_append_zero (m := 23) (n := 1) _ _ _ (and_append_zero (m := 16) (n := 7) _ _ _ (and_append_zero (m := 10) (n := 6) _ _ _ (and_append_zero (m := 3) (n := 7) _ _ _ (and_append_zero (m := 2) (n := 1) _ _ _ (and_append_zero (m := 1) (n := 1) _ _ _ (BitVec.and_zero) (BitVec.and_zero)) (BitVec.and_zero)) (BitVec.zero_and)) (BitVec.and_zero)) (BitVec.zero_and)) (BitVec.and_zero)) (BitVec.zero_and)) (BitVec.and_zero)) (BitVec.and_zero))⟩
  · show isLong (0x27#6 ++ sd ++ ss ++ sn ++ 2#3 ++ 0#2) = true
    simp (disch := decide) only [isLong, fld, ext_low, ext_high, ext_all, Nat.reduceSub, Nat.reduceLT, decide_true, decide_false, BitVec.reduceToNat]

open RoundTrip in
theorem RoundTrip.cpys (sd : BitVec 7) (ss : BitVec 7) (sn : BitVec 7) (ed : Bool) (es : Bool) (en : Bool) (gh : BitVec 6) (gchk : Bool) (iw : Bool) (esz : BitVec 2) : Statement (.cpys sd ss sn ed es en gh gchk iw esz) := by
  intro hw
  refine ⟨?_, ?_⟩
  · show decode (0x27#6 ++ sd ++ ss ++ sn ++ 3#3 ++ 0#2) (BitVec.ofBool ed ++ BitVec.ofBool es ++ BitVec.ofBool en ++ 0#7 ++ gh ++ 0#7 ++ BitVec.ofBool gchk ++ 0#5 ++ BitVec.ofBool iw ++ esz) = .ok (.cpys sd ss sn ed es en gh gchk iw esz)
    rw [decode_27 _ _ (by simp (disch := decide) only [ext_high, Nat.reduceSub, ext_all])]
    simp (disch := decide) only [dec27, fld, bit, ext_low, ext_high, bit_low, bit_high, ext_all, bit_ofBool, Nat.reduceSub, BitVec.reduceToNat]
    exact checked_ok _ _ ⟨(and_append_zero (m := 30) (n := 2) _ _ _ (and_append_zero (m := 27) (n := 3) _ _ _ (and_append_zero (m := 20) (n := 7) _ _ _ (and_append_zero (m := 13) (n := 7) _ _ _ (and_append_zero (m := 6) (n := 7) _ _ _ (BitVec.and_zero) (BitVec.and_zero)) (BitVec.and_zero)) (BitVec.and_zero)) (BitVec.and_zero)) (BitVec.zero_and)), (and_append_zero (m := 30) (n := 2) _ _ _ (and_append_zero (m := 29) (n := 1) _ _ _ (and_append_zero (m := 24) (n := 5) _ _ _ (and_append_zero (m := 23) (n := 1) _ _ _ (and_append_zero (m := 16) (n := 7) _ _ _ (and_append_zero (m := 10) (n := 6) _ _ _ (and_append_zero (m := 3) (n := 7) _ _ _ (and_append_zero (m := 2) (n := 1) _ _ _ (and_append_zero (m := 1) (n := 1) _ _ _ (BitVec.and_zero) (BitVec.and_zero)) (BitVec.and_zero)) (BitVec.zero_and)) (BitVec.and_zero)) (BitVec.zero_and)) (BitVec.and_zero)) (BitVec.zero_and)) (BitVec.and_zero)) (BitVec.and_zero))⟩
  · show isLong (0x27#6 ++ sd ++ ss ++ sn ++ 3#3 ++ 0#2) = true
    simp (disch := decide) only [isLong, fld, ext_low, ext_high, ext_all, Nat.reduceSub, Nat.reduceLT, decide_true, decide_false, BitVec.reduceToNat]

open RoundTrip in
theorem RoundTrip.slbmv (sd : BitVec 7) (ss : BitVec 7) (ed : Bool) (es : Bool) : Statement (.slbmv sd ss ed es) := by
  intro hw
  refine ⟨?_, ?_⟩
  · show decode (0x27#6 ++ sd ++ ss ++ 0#7 ++ 4#3 ++ 0#2) (BitVec.ofBool ed ++ BitVec.ofBool es ++ 0#30) = .ok (.slbmv sd ss ed es)
    rw [decode_27 _ _ (by simp (disch := decide) only [ext_high, Nat.reduceSub, ext_all])]
    simp (disch := decide) only [dec27, fld, bit, ext_low, ext_high, bit_low, bit_high, ext_all, bit_ofBool, Nat.reduceSub, BitVec.reduceToNat]
    exact checked_ok _ _ ⟨(and_append_zero (m := 30) (n := 2) _ _ _ (and_append_zero (m := 27) (n := 3) _ _ _ (and_append_zero (m := 20) (n := 7) _ _ _ (and_append_zero (m := 13) (n := 7) _ _ _ (and_append_zero (m := 6) (n := 7) _ _ _ (BitVec.and_zero) (BitVec.and_zero)) (BitVec.and_zero)) (BitVec.zero_and)) (BitVec.and_zero)) (BitVec.zero_and)), (and_append_zero (m := 2) (n := 30) _ _ _ (and_append_zero (m := 1) (n := 1) _ _ _ (BitVec.and_zero) (BitVec.and_zero)) (BitVec.zero_and))⟩
  · show isLong (0x27#6 ++ sd ++ ss ++ 0#7 ++ 4#3 ++ 0#2) = true
    simp (disch := decide) only [isLong, fld, ext_low, ext_high, ext_all, Nat.reduceSub, Nat.reduceLT, decide_true, decide_false, BitVec.reduceToNat]

open RoundTrip in
theorem RoundTrip.cpyz (sd : BitVec 7) (sn : BitVec 7) (ed : Bool) (en : Bool) (gh : BitVec 6) (gchk : Bool) : Statement (.cpyz sd sn ed en gh gchk) := by
  intro hw
  refine ⟨?_, ?_⟩
  · show decode (0x27#6 ++ sd ++ 0#7 ++ sn ++ 5#3 ++ 0#2) (BitVec.ofBool ed ++ 0#1 ++ BitVec.ofBool en ++ 0#7 ++ gh ++ 0#7 ++ BitVec.ofBool gchk ++ 0#8) = .ok (.cpyz sd sn ed en gh gchk)
    rw [decode_27 _ _ (by simp (disch := decide) only [ext_high, Nat.reduceSub, ext_all])]
    simp (disch := decide) only [dec27, fld, bit, ext_low, ext_high, bit_low, bit_high, ext_all, bit_ofBool, Nat.reduceSub, BitVec.reduceToNat]
    exact checked_ok _ _ ⟨(and_append_zero (m := 30) (n := 2) _ _ _ (and_append_zero (m := 27) (n := 3) _ _ _ (and_append_zero (m := 20) (n := 7) _ _ _ (and_append_zero (m := 13) (n := 7) _ _ _ (and_append_zero (m := 6) (n := 7) _ _ _ (BitVec.and_zero) (BitVec.and_zero)) (BitVec.zero_and)) (BitVec.and_zero)) (BitVec.and_zero)) (BitVec.zero_and)), (and_append_zero (m := 24) (n := 8) _ _ _ (and_append_zero (m := 23) (n := 1) _ _ _ (and_append_zero (m := 16) (n := 7) _ _ _ (and_append_zero (m := 10) (n := 6) _ _ _ (and_append_zero (m := 3) (n := 7) _ _ _ (and_append_zero (m := 2) (n := 1) _ _ _ (and_append_zero (m := 1) (n := 1) _ _ _ (BitVec.and_zero) (BitVec.zero_and)) (BitVec.and_zero)) (BitVec.zero_and)) (BitVec.and_zero)) (BitVec.zero_and)) (BitVec.and_zero)) (BitVec.zero_and))⟩
  · show isLong (0x27#6 ++ sd ++ 0#7 ++ sn ++ 5#3 ++ 0#2) = true
    simp (disch := decide) only [isLong, fld, ext_low, ext_high, ext_all, Nat.reduceSub, Nat.reduceLT, decide_true, decide_false, BitVec.reduceToNat]

open RoundTrip in
theorem RoundTrip.fence : Statement (.fence) := by
  intro hw
  refine ⟨?_, ?_⟩
  · show decode (0x28#6 ++ 0#21 ++ 0#3 ++ 0#2) (0) = .ok (.fence)
    rw [decode_28 _ _ (by simp (disch := decide) only [ext_high, Nat.reduceSub, ext_all])]
    simp (disch := decide) only [dec28, fld, bit, ext_low, ext_high, bit_low, bit_high, ext_all, bit_ofBool, Nat.reduceSub, BitVec.reduceToNat]
    exact checked_ok _ _ (and_append_zero (m := 30) (n := 2) _ _ _ (and_append_zero (m := 27) (n := 3) _ _ _ (and_append_zero (m := 6) (n := 21) _ _ _ (BitVec.and_zero) (BitVec.zero_and)) (BitVec.zero_and)) (BitVec.zero_and))
  · show isLong (0x28#6 ++ 0#21 ++ 0#3 ++ 0#2) = false
    simp (disch := decide) only [isLong, fld, ext_low, ext_high, ext_all, Nat.reduceSub, Nat.reduceLT, decide_true, decide_false, BitVec.reduceToNat]

open RoundTrip in
theorem RoundTrip.fencei : Statement (.fencei) := by
  intro hw
  refine ⟨?_, ?_⟩
  · show decode (0x28#6 ++ 0#21 ++ 1#3 ++ 0#2) (0) = .ok (.fencei)
    rw [decode_28 _ _ (by simp (disch := decide) only [ext_high, Nat.reduceSub, ext_all])]
    simp (disch := decide) only [dec28, fld, bit, ext_low, ext_high, bit_low, bit_high, ext_all, bit_ofBool, Nat.reduceSub, BitVec.reduceToNat]
    exact checked_ok _ _ (and_append_zero (m := 30) (n := 2) _ _ _ (and_append_zero (m := 27) (n := 3) _ _ _ (and_append_zero (m := 6) (n := 21) _ _ _ (BitVec.and_zero) (BitVec.zero_and)) (BitVec.and_zero)) (BitVec.zero_and))
  · show isLong (0x28#6 ++ 0#21 ++ 1#3 ++ 0#2) = false
    simp (disch := decide) only [isLong, fld, ext_low, ext_high, ext_all, Nat.reduceSub, Nat.reduceLT, decide_true, decide_false, BitVec.reduceToNat]

open RoundTrip in
theorem RoundTrip.fenceh : Statement (.fenceh) := by
  intro hw
  refine ⟨?_, ?_⟩
  · show decode (0x28#6 ++ 0#21 ++ 2#3 ++ 0#2) (0) = .ok (.fenceh)
    rw [decode_28 _ _ (by simp (disch := decide) only [ext_high, Nat.reduceSub, ext_all])]
    simp (disch := decide) only [dec28, fld, bit, ext_low, ext_high, bit_low, bit_high, ext_all, bit_ofBool, Nat.reduceSub, BitVec.reduceToNat]
    exact checked_ok _ _ (and_append_zero (m := 30) (n := 2) _ _ _ (and_append_zero (m := 27) (n := 3) _ _ _ (and_append_zero (m := 6) (n := 21) _ _ _ (BitVec.and_zero) (BitVec.zero_and)) (BitVec.and_zero)) (BitVec.zero_and))
  · show isLong (0x28#6 ++ 0#21 ++ 2#3 ++ 0#2) = false
    simp (disch := decide) only [isLong, fld, ext_low, ext_high, ext_all, Nat.reduceSub, Nat.reduceLT, decide_true, decide_false, BitVec.reduceToNat]

open RoundTrip in
theorem RoundTrip.slbxl (sd : BitVec 7) (so : BitVec 7) (h : BitVec 6) (ea : Bool) (rh : BitVec 6) : Statement (.slbxl sd so h ea rh) := by
  intro hw
  refine ⟨?_, ?_⟩
  · show decode (0x29#6 ++ sd ++ so ++ h ++ 0#1 ++ 0#3 ++ 0#1 ++ BitVec.ofBool ea) (0#2 ++ rh ++ 0#24) = .ok (.slbxl sd so h ea rh)
    rw [decode_29 _ _ (by simp (disch := decide) only [ext_high, Nat.reduceSub, ext_all])]
    simp (disch := decide) only [dec29, fld, bit, ext_low, ext_high, bit_low, bit_high, ext_all, bit_ofBool, Nat.reduceSub, BitVec.reduceToNat]
    exact checked_ok _ _ ⟨(and_append_zero (m := 31) (n := 1) _ _ _ (and_append_zero (m := 30) (n := 1) _ _ _ (and_append_zero (m := 27) (n := 3) _ _ _ (and_append_zero (m := 26) (n := 1) _ _ _ (and_append_zero (m := 20) (n := 6) _ _ _ (and_append_zero (m := 13) (n := 7) _ _ _ (and_append_zero (m := 6) (n := 7) _ _ _ (BitVec.and_zero) (BitVec.and_zero)) (BitVec.and_zero)) (BitVec.and_zero)) (BitVec.zero_and)) (BitVec.zero_and)) (BitVec.zero_and)) (BitVec.and_zero)), (and_append_zero (m := 8) (n := 24) _ _ _ (and_append_zero (m := 2) (n := 6) _ _ _ (BitVec.zero_and) (BitVec.and_zero)) (BitVec.zero_and))⟩
  · show isLong (0x29#6 ++ sd ++ so ++ h ++ 0#1 ++ 0#3 ++ 0#1 ++ BitVec.ofBool ea) = true
    simp (disch := decide) only [isLong, fld, ext_low, ext_high, ext_all, Nat.reduceSub, Nat.reduceLT, decide_true, decide_false, BitVec.reduceToNat]

open RoundTrip in
theorem RoundTrip.slbrd (sd : BitVec 7) (h : BitVec 6) (sel : BitVec 3) : Statement (.slbrd sd h sel) := by
  intro hw
  refine ⟨?_, ?_⟩
  · show decode (0x29#6 ++ sd ++ 0#7 ++ h ++ 0#1 ++ 1#3 ++ 0#2) (0#29 ++ sel) = .ok (.slbrd sd h sel)
    rw [decode_29 _ _ (by simp (disch := decide) only [ext_high, Nat.reduceSub, ext_all])]
    simp (disch := decide) only [dec29, fld, bit, ext_low, ext_high, bit_low, bit_high, ext_all, bit_ofBool, Nat.reduceSub, BitVec.reduceToNat]
    exact checked_ok _ _ ⟨(and_append_zero (m := 30) (n := 2) _ _ _ (and_append_zero (m := 27) (n := 3) _ _ _ (and_append_zero (m := 26) (n := 1) _ _ _ (and_append_zero (m := 20) (n := 6) _ _ _ (and_append_zero (m := 13) (n := 7) _ _ _ (and_append_zero (m := 6) (n := 7) _ _ _ (BitVec.and_zero) (BitVec.and_zero)) (BitVec.zero_and)) (BitVec.and_zero)) (BitVec.zero_and)) (BitVec.and_zero)) (BitVec.zero_and)), (and_append_zero (m := 29) (n := 3) _ _ _ (BitVec.zero_and) (BitVec.and_zero))⟩
  · show isLong (0x29#6 ++ sd ++ 0#7 ++ h ++ 0#1 ++ 1#3 ++ 0#2) = true
    simp (disch := decide) only [isLong, fld, ext_low, ext_high, ext_all, Nat.reduceSub, Nat.reduceLT, decide_true, decide_false, BitVec.reduceToNat]

open RoundTrip in
theorem RoundTrip.mma (vacc : BitVec 7) (sA : BitVec 7) (sB : BitVec 7) (keep : Bool) (ea : Bool) (eb : Bool) (aslot : BitVec 3) (bslot : BitVec 3) (asb : BitVec 7) (bsb : BitVec 7) (sel : BitVec 2) (soft : Bool) (half : Bool) (obase : BitVec 7) : Statement (.mma vacc sA sB keep ea eb aslot bslot asb bsb sel soft half obase) := by
  intro hw
  refine ⟨?_, ?_⟩
  · show decode (0x30#6 ++ vacc ++ sA ++ sB ++ 0#2 ++ BitVec.ofBool keep ++ BitVec.ofBool ea ++ BitVec.ofBool eb) (aslot ++ bslot ++ asb ++ bsb ++ sel ++ 0#1 ++ BitVec.ofBool soft ++ BitVec.ofBool half ++ obase) = .ok (.mma vacc sA sB keep ea eb aslot bslot asb bsb sel soft half obase)
    rw [decode_30 _ _ (by simp (disch := decide) only [ext_high, Nat.reduceSub, ext_all])]
    simp (disch := decide) only [dec30, fld, bit, ext_low, ext_high, bit_low, bit_high, ext_all, bit_ofBool, Nat.reduceSub, BitVec.reduceToNat]
    rw [if_pos (of_decide_eq_true hw)]
    exact checked_ok _ _ ⟨(and_append_zero (m := 31) (n := 1) _ _ _ (and_append_zero (m := 30) (n := 1) _ _ _ (and_append_zero (m := 29) (n := 1) _ _ _ (and_append_zero (m := 27) (n := 2) _ _ _ (and_append_zero (m := 20) (n := 7) _ _ _ (and_append_zero (m := 13) (n := 7) _ _ _ (and_append_zero (m := 6) (n := 7) _ _ _ (BitVec.and_zero) (BitVec.and_zero)) (BitVec.and_zero)) (BitVec.and_zero)) (BitVec.zero_and)) (BitVec.and_zero)) (BitVec.and_zero)) (BitVec.and_zero)), (and_append_zero (m := 25) (n := 7) _ _ _ (and_append_zero (m := 24) (n := 1) _ _ _ (and_append_zero (m := 23) (n := 1) _ _ _ (and_append_zero (m := 22) (n := 1) _ _ _ (and_append_zero (m := 20) (n := 2) _ _ _ (and_append_zero (m := 13) (n := 7) _ _ _ (and_append_zero (m := 6) (n := 7) _ _ _ (and_append_zero (m := 3) (n := 3) _ _ _ (BitVec.and_zero) (BitVec.and_zero)) (BitVec.and_zero)) (BitVec.and_zero)) (BitVec.and_zero)) (BitVec.zero_and)) (BitVec.and_zero)) (BitVec.and_zero)) (BitVec.and_zero))⟩
  · show isLong (0x30#6 ++ vacc ++ sA ++ sB ++ 0#2 ++ BitVec.ofBool keep ++ BitVec.ofBool ea ++ BitVec.ofBool eb) = true
    simp (disch := decide) only [isLong, fld, ext_low, ext_high, ext_all, Nat.reduceSub, Nat.reduceLT, decide_true, decide_false, BitVec.reduceToNat]

open RoundTrip in
theorem RoundTrip.mmaz (vacc : BitVec 7) (sA : BitVec 7) (sB : BitVec 7) (keep : Bool) (ea : Bool) (eb : Bool) (aslot : BitVec 3) (bslot : BitVec 3) (asb : BitVec 7) (bsb : BitVec 7) (sel : BitVec 2) (soft : Bool) (half : Bool) (obase : BitVec 7) : Statement (.mmaz vacc sA sB keep ea eb aslot bslot asb bsb sel soft half obase) := by
  intro hw
  refine ⟨?_, ?_⟩
  · show decode (0x30#6 ++ vacc ++ sA ++ sB ++ 1#2 ++ BitVec.ofBool keep ++ BitVec.ofBool ea ++ BitVec.ofBool eb) (aslot ++ bslot ++ asb ++ bsb ++ sel ++ 0#1 ++ BitVec.ofBool soft ++ BitVec.ofBool half ++ obase) = .ok (.mmaz vacc sA sB keep ea eb aslot bslot asb bsb sel soft half obase)
    rw [decode_30 _ _ (by simp (disch := decide) only [ext_high, Nat.reduceSub, ext_all])]
    simp (disch := decide) only [dec30, fld, bit, ext_low, ext_high, bit_low, bit_high, ext_all, bit_ofBool, Nat.reduceSub, BitVec.reduceToNat]
    rw [if_pos (of_decide_eq_true hw)]
    exact checked_ok _ _ ⟨(and_append_zero (m := 31) (n := 1) _ _ _ (and_append_zero (m := 30) (n := 1) _ _ _ (and_append_zero (m := 29) (n := 1) _ _ _ (and_append_zero (m := 27) (n := 2) _ _ _ (and_append_zero (m := 20) (n := 7) _ _ _ (and_append_zero (m := 13) (n := 7) _ _ _ (and_append_zero (m := 6) (n := 7) _ _ _ (BitVec.and_zero) (BitVec.and_zero)) (BitVec.and_zero)) (BitVec.and_zero)) (BitVec.and_zero)) (BitVec.and_zero)) (BitVec.and_zero)) (BitVec.and_zero)), (and_append_zero (m := 25) (n := 7) _ _ _ (and_append_zero (m := 24) (n := 1) _ _ _ (and_append_zero (m := 23) (n := 1) _ _ _ (and_append_zero (m := 22) (n := 1) _ _ _ (and_append_zero (m := 20) (n := 2) _ _ _ (and_append_zero (m := 13) (n := 7) _ _ _ (and_append_zero (m := 6) (n := 7) _ _ _ (and_append_zero (m := 3) (n := 3) _ _ _ (BitVec.and_zero) (BitVec.and_zero)) (BitVec.and_zero)) (BitVec.and_zero)) (BitVec.and_zero)) (BitVec.zero_and)) (BitVec.and_zero)) (BitVec.and_zero)) (BitVec.and_zero))⟩
  · show isLong (0x30#6 ++ vacc ++ sA ++ sB ++ 1#2 ++ BitVec.ofBool keep ++ BitVec.ofBool ea ++ BitVec.ofBool eb) = true
    simp (disch := decide) only [isLong, fld, ext_low, ext_high, ext_all, Nat.reduceSub, Nat.reduceLT, decide_true, decide_false, BitVec.reduceToNat]

open RoundTrip in
theorem RoundTrip.mmac (vacc : BitVec 7) (sB : BitVec 7) (keep : Bool) (eb : Bool) (bslot : BitVec 3) (half : Bool) : Statement (.mmac vacc sB keep eb bslot half) := by
  intro hw
  refine ⟨?_, ?_⟩
  · show decode (0x30#6 ++ vacc ++ 0#7 ++ sB ++ 2#2 ++ BitVec.ofBool keep ++ 0#1 ++ BitVec.ofBool eb) (0#3 ++ bslot ++ 0#18 ++ BitVec.ofBool half ++ 0#7) = .ok (.mmac vacc sB keep eb bslot half)
    rw [decode_30 _ _ (by simp (disch := decide) only [ext_high, Nat.reduceSub, ext_all])]
    simp (disch := decide) only [dec30, fld, bit, ext_low, ext_high, bit_low, bit_high, ext_all, bit_ofBool, Nat.reduceSub, BitVec.reduceToNat]
    exact checked_ok _ _ ⟨(and_append_zero (m := 31) (n := 1) _ _ _ (and_append_zero (m := 30) (n := 1) _ _ _ (and_append_zero (m := 29) (n := 1) _ _ _ (and_append_zero (m := 27) (n := 2) _ _ _ (and_append_zero (m := 20) (n := 7) _ _ _ (and_append_zero (m := 13) (n := 7) _ _ _ (and_append_zero (m := 6) (n := 7) _ _ _ (BitVec.and_zero) (BitVec.and_zero)) (BitVec.zero_and)) (BitVec.and_zero)) (BitVec.and_zero)) (BitVec.and_zero)) (BitVec.zero_and)) (BitVec.and_zero)), (and_append_zero (m := 25) (n := 7) _ _ _ (and_append_zero (m := 24) (n := 1) _ _ _ (and_append_zero (m := 6) (n := 18) _ _ _ (and_append_zero (m := 3) (n := 3) _ _ _ (BitVec.zero_and) (BitVec.and_zero)) (BitVec.zero_and)) (BitVec.and_zero)) (BitVec.zero_and))⟩
  · show isLong (0x30#6 ++ vacc ++ 0#7 ++ sB ++ 2#2 ++ BitVec.ofBool keep ++ 0#1 ++ BitVec.ofBool eb) = true
    simp (disch := decide) only [isLong, fld, ext_low, ext_high, ext_all, Nat.reduceSub, Nat.reduceLT, decide_true, decide_false, BitVec.reduceToNat]

open RoundTrip in
theorem RoundTrip.mmacz (vacc : BitVec 7) (sB : BitVec 7) (keep : Bool) (eb : Bool) (bslot : BitVec 3) (half : Bool) : Statement (.mmacz vacc sB keep eb bslot half) := by
  intro hw
  refine ⟨?_, ?_⟩
  · show decode (0x30#6 ++ vacc ++ 0#7 ++ sB ++ 3#2 ++ BitVec.ofBool keep ++ 0#1 ++ BitVec.ofBool eb) (0#3 ++ bslot ++ 0#18 ++ BitVec.ofBool half ++ 0#7) = .ok (.mmacz vacc sB keep eb bslot half)
    rw [decode_30 _ _ (by simp (disch := decide) only [ext_high, Nat.reduceSub, ext_all])]
    simp (disch := decide) only [dec30, fld, bit, ext_low, ext_high, bit_low, bit_high, ext_all, bit_ofBool, Nat.reduceSub, BitVec.reduceToNat]
    exact checked_ok _ _ ⟨(and_append_zero (m := 31) (n := 1) _ _ _ (and_append_zero (m := 30) (n := 1) _ _ _ (and_append_zero (m := 29) (n := 1) _ _ _ (and_append_zero (m := 27) (n := 2) _ _ _ (and_append_zero (m := 20) (n := 7) _ _ _ (and_append_zero (m := 13) (n := 7) _ _ _ (and_append_zero (m := 6) (n := 7) _ _ _ (BitVec.and_zero) (BitVec.and_zero)) (BitVec.zero_and)) (BitVec.and_zero)) (BitVec.and_zero)) (BitVec.and_zero)) (BitVec.zero_and)) (BitVec.and_zero)), (and_append_zero (m := 25) (n := 7) _ _ _ (and_append_zero (m := 24) (n := 1) _ _ _ (and_append_zero (m := 6) (n := 18) _ _ _ (and_append_zero (m := 3) (n := 3) _ _ _ (BitVec.zero_and) (BitVec.and_zero)) (BitVec.zero_and)) (BitVec.and_zero)) (BitVec.zero_and))⟩
  · show isLong (0x30#6 ++ vacc ++ 0#7 ++ sB ++ 3#2 ++ BitVec.ofBool keep ++ 0#1 ++ BitVec.ofBool eb) = true
    simp (disch := decide) only [isLong, fld, ext_low, ext_high, ext_all, Nat.reduceSub, Nat.reduceLT, decide_true, decide_false, BitVec.reduceToNat]

open RoundTrip in
theorem RoundTrip.mstz : Statement (.mstz) := by
  intro hw
  refine ⟨?_, ?_⟩
  · show decode (0x31#6 ++ 0#21 ++ 0#3 ++ 0#2) (0) = .ok (.mstz)
    rw [decode_31 _ _ (by simp (disch := decide) only [ext_high, Nat.reduceSub, ext_all])]
    simp (disch := decide) only [dec31, fld, bit, ext_low, ext_high, bit_low, bit_high, ext_all, bit_ofBool, Nat.reduceSub, BitVec.reduceToNat]
    exact checked_ok _ _ (and_append_zero (m := 30) (n := 2) _ _ _ (and_append_zero (m := 27) (n := 3) _ _ _ (and_append_zero (m := 6) (n := 21) _ _ _ (BitVec.and_zero) (BitVec.zero_and)) (BitVec.zero_and)) (BitVec.zero_and))
  · show isLong (0x31#6 ++ 0#21 ++ 0#3 ++ 0#2) = false
    simp (disch := decide) only [isLong, fld, ext_low, ext_high, ext_all, Nat.reduceSub, Nat.reduceLT, decide_true, decide_false, BitVec.reduceToNat]

open RoundTrip in
theorem RoundTrip.mstrd (d : BitVec 7) : Statement (.mstrd d) := by
  intro hw
  refine ⟨?_, ?_⟩
  · show decode (0x31#6 ++ d ++ 0#14 ++ 1#3 ++ 0#2) (0) = .ok (.mstrd d)
    rw [decode_31 _ _ (by simp (disch := decide) only [ext_high, Nat.reduceSub, ext_all])]
    simp (disch := decide) only [dec31, fld, bit, ext_low, ext_high, bit_low, bit_high, ext_all, bit_ofBool, Nat.reduceSub, BitVec.reduceToNat]
    exact checked_ok _ _ (and_append_zero (m := 30) (n := 2) _ _ _ (and_append_zero (m := 27) (n := 3) _ _ _ (and_append_zero (m := 13) (n := 14) _ _ _ (and_append_zero (m := 6) (n := 7) _ _ _ (BitVec.and_zero) (BitVec.and_zero)) (BitVec.zero_and)) (BitVec.and_zero)) (BitVec.zero_and))
  · show isLong (0x31#6 ++ d ++ 0#14 ++ 1#3 ++ 0#2) = false
    simp (disch := decide) only [isLong, fld, ext_low, ext_high, ext_all, Nat.reduceSub, Nat.reduceLT, decide_true, decide_false, BitVec.reduceToNat]

open RoundTrip in
theorem RoundTrip.mstwr (a : BitVec 7) (ea : Bool) : Statement (.mstwr a ea) := by
  intro hw
  refine ⟨?_, ?_⟩
  · show decode (0x31#6 ++ 0#7 ++ a ++ 0#7 ++ 2#3 ++ BitVec.ofBool ea ++ 0#1) (0) = .ok (.mstwr a ea)
    rw [decode_31 _ _ (by simp (disch := decide) only [ext_high, Nat.reduceSub, ext_all])]
    simp (disch := decide) only [dec31, fld, bit, ext_low, ext_high, bit_low, bit_high, ext_all, bit_ofBool, Nat.reduceSub, BitVec.reduceToNat]
    exact checked_ok _ _ (and_append_zero (m := 31) (n := 1) _ _ _ (and_append_zero (m := 30) (n := 1) _ _ _ (and_append_zero (m := 27) (n := 3) _ _ _ (and_append_zero (m := 20) (n := 7) _ _ _ (and_append_zero (m := 13) (n := 7) _ _ _ (and_append_zero (m := 6) (n := 7) _ _ _ (BitVec.and_zero) (BitVec.zero_and)) (BitVec.and_zero)) (BitVec.zero_and)) (BitVec.and_zero)) (BitVec.and_zero)) (BitVec.zero_and))
  · show isLong (0x31#6 ++ 0#7 ++ a ++ 0#7 ++ 2#3 ++ BitVec.ofBool ea ++ 0#1) = false
    simp (disch := decide) only [isLong, fld, ext_low, ext_high, ext_all, Nat.reduceSub, Nat.reduceLT, decide_true, decide_false, BitVec.reduceToNat]

open RoundTrip in
theorem RoundTrip.mnorm (d : BitVec 7) : Statement (.mnorm d) := by
  intro hw
  refine ⟨?_, ?_⟩
  · show decode (0x31#6 ++ d ++ 0#14 ++ 3#3 ++ 0#2) (0) = .ok (.mnorm d)
    rw [decode_31 _ _ (by simp (disch := decide) only [ext_high, Nat.reduceSub, ext_all])]
    simp (disch := decide) only [dec31, fld, bit, ext_low, ext_high, bit_low, bit_high, ext_all, bit_ofBool, Nat.reduceSub, BitVec.reduceToNat]
    exact checked_ok _ _ (and_append_zero (m := 30) (n := 2) _ _ _ (and_append_zero (m := 27) (n := 3) _ _ _ (and_append_zero (m := 13) (n := 14) _ _ _ (and_append_zero (m := 6) (n := 7) _ _ _ (BitVec.and_zero) (BitVec.and_zero)) (BitVec.zero_and)) (BitVec.and_zero)) (BitVec.zero_and))
  · show isLong (0x31#6 ++ d ++ 0#14 ++ 3#3 ++ 0#2) = false
    simp (disch := decide) only [isLong, fld, ext_low, ext_high, ext_all, Nat.reduceSub, Nat.reduceLT, decide_true, decide_false, BitVec.reduceToNat]

open RoundTrip in
theorem RoundTrip.watt (vq : BitVec 7) (vo : BitVec 7) (sp : BitVec 7) (ea : Bool) (eb : Bool) (nq : BitVec 3) : Statement (.watt vq vo sp ea eb nq) := by
  intro hw
  refine ⟨?_, ?_⟩
  · show decode (0x33#6 ++ vq ++ vo ++ sp ++ 0#3 ++ BitVec.ofBool ea ++ BitVec.ofBool eb) (nq ++ 0#29) = .ok (.watt vq vo sp ea eb nq)
    rw [decode_33 _ _ (by simp (disch := decide) only [ext_high, Nat.reduceSub, ext_all])]
    simp (disch := decide) only [dec33, fld, bit, ext_low, ext_high, bit_low, bit_high, ext_all, bit_ofBool, Nat.reduceSub, BitVec.reduceToNat]
    exact checked_ok _ _ ⟨(and_append_zero (m := 31) (n := 1) _ _ _ (and_append_zero (m := 30) (n := 1) _ _ _ (and_append_zero (m := 27) (n := 3) _ _ _ (and_append_zero (m := 20) (n := 7) _ _ _ (and_append_zero (m := 13) (n := 7) _ _ _ (and_append_zero (m := 6) (n := 7) _ _ _ (BitVec.and_zero) (BitVec.and_zero)) (BitVec.and_zero)) (BitVec.and_zero)) (BitVec.zero_and)) (BitVec.and_zero)) (BitVec.and_zero)), (and_append_zero (m := 3) (n := 29) _ _ _ (BitVec.and_zero) (BitVec.zero_and))⟩
  · show isLong (0x33#6 ++ vq ++ vo ++ sp ++ 0#3 ++ BitVec.ofBool ea ++ BitVec.ofBool eb) = true
    simp (disch := decide) only [isLong, fld, ext_low, ext_high, ext_all, Nat.reduceSub, Nat.reduceLT, decide_true, decide_false, BitVec.reduceToNat]

open RoundTrip in
theorem RoundTrip.wattd (vq : BitVec 7) (vo : BitVec 7) (sp : BitVec 7) (ea : Bool) (eb : Bool) (nq : BitVec 3) (sx : BitVec 7) (sq : BitVec 7) (eq : Bool) : Statement (.wattd vq vo sp ea eb nq sx sq eq) := by
  intro hw
  refine ⟨?_, ?_⟩
  · show decode (0x33#6 ++ vq ++ vo ++ sp ++ 1#3 ++ BitVec.ofBool ea ++ BitVec.ofBool eb) (nq ++ sx ++ sq ++ BitVec.ofBool eq ++ 0#14) = .ok (.wattd vq vo sp ea eb nq sx sq eq)
    rw [decode_33 _ _ (by simp (disch := decide) only [ext_high, Nat.reduceSub, ext_all])]
    simp (disch := decide) only [dec33, fld, bit, ext_low, ext_high, bit_low, bit_high, ext_all, bit_ofBool, Nat.reduceSub, BitVec.reduceToNat]
    exact checked_ok _ _ ⟨(and_append_zero (m := 31) (n := 1) _ _ _ (and_append_zero (m := 30) (n := 1) _ _ _ (and_append_zero (m := 27) (n := 3) _ _ _ (and_append_zero (m := 20) (n := 7) _ _ _ (and_append_zero (m := 13) (n := 7) _ _ _ (and_append_zero (m := 6) (n := 7) _ _ _ (BitVec.and_zero) (BitVec.and_zero)) (BitVec.and_zero)) (BitVec.and_zero)) (BitVec.and_zero)) (BitVec.and_zero)) (BitVec.and_zero)), (and_append_zero (m := 18) (n := 14) _ _ _ (and_append_zero (m := 17) (n := 1) _ _ _ (and_append_zero (m := 10) (n := 7) _ _ _ (and_append_zero (m := 3) (n := 7) _ _ _ (BitVec.and_zero) (BitVec.and_zero)) (BitVec.and_zero)) (BitVec.and_zero)) (BitVec.zero_and))⟩
  · show isLong (0x33#6 ++ vq ++ vo ++ sp ++ 1#3 ++ BitVec.ofBool ea ++ BitVec.ofBool eb) = true
    simp (disch := decide) only [isLong, fld, ext_low, ext_high, ext_all, Nat.reduceSub, Nat.reduceLT, decide_true, decide_false, BitVec.reduceToNat]

open RoundTrip in
theorem RoundTrip.crds (d : BitVec 7) (a : BitVec 7) (b : BitVec 7) (ea : Bool) (eb : Bool) (ed : Bool) : Statement (.crds d a b ea eb ed) := by
  intro hw
  refine ⟨?_, ?_⟩
  · show decode (0x34#6 ++ d ++ a ++ b ++ 0#3 ++ BitVec.ofBool ea ++ BitVec.ofBool eb) (BitVec.ofBool ed ++ 0#31) = .ok (.crds d a b ea eb ed)
    rw [decode_34 _ _ (by simp (disch := decide) only [ext_high, Nat.reduceSub, ext_all])]
    simp (disch := decide) only [dec34, fld, bit, ext_low, ext_high, bit_low, bit_high, ext_all, bit_ofBool, Nat.reduceSub, BitVec.reduceToNat]
    exact checked_ok _ _ ⟨(and_append_zero (m := 31) (n := 1) _ _ _ (and_append_zero (m := 30) (n := 1) _ _ _ (and_append_zero (m := 27) (n := 3) _ _ _ (and_append_zero (m := 20) (n := 7) _ _ _ (and_append_zero (m := 13) (n := 7) _ _ _ (and_append_zero (m := 6) (n := 7) _ _ _ (BitVec.and_zero) (BitVec.and_zero)) (BitVec.and_zero)) (BitVec.and_zero)) (BitVec.zero_and)) (BitVec.and_zero)) (BitVec.and_zero)), (and_append_zero (m := 1) (n := 31) _ _ _ (BitVec.and_zero) (BitVec.zero_and))⟩
  · show isLong (0x34#6 ++ d ++ a ++ b ++ 0#3 ++ BitVec.ofBool ea ++ BitVec.ofBool eb) = true
    simp (disch := decide) only [isLong, fld, ext_low, ext_high, ext_all, Nat.reduceSub, Nat.reduceLT, decide_true, decide_false, BitVec.reduceToNat]

open RoundTrip in
theorem RoundTrip.crdr (d : BitVec 7) (a : BitVec 7) (b : BitVec 7) (ea : Bool) (eb : Bool) : Statement (.crdr d a b ea eb) := by
  intro hw
  refine ⟨?_, ?_⟩
  · show decode (0x34#6 ++ d ++ a ++ b ++ 1#3 ++ BitVec.ofBool ea ++ BitVec.ofBool eb) (0#32) = .ok (.crdr d a b ea eb)
    rw [decode_34 _ _ (by simp (disch := decide) only [ext_high, Nat.reduceSub, ext_all])]
    simp (disch := decide) only [dec34, fld, bit, ext_low, ext_high, bit_low, bit_high, ext_all, bit_ofBool, Nat.reduceSub, BitVec.reduceToNat]
    exact checked_ok _ _ ⟨(and_append_zero (m := 31) (n := 1) _ _ _ (and_append_zero (m := 30) (n := 1) _ _ _ (and_append_zero (m := 27) (n := 3) _ _ _ (and_append_zero (m := 20) (n := 7) _ _ _ (and_append_zero (m := 13) (n := 7) _ _ _ (and_append_zero (m := 6) (n := 7) _ _ _ (BitVec.and_zero) (BitVec.and_zero)) (BitVec.and_zero)) (BitVec.and_zero)) (BitVec.and_zero)) (BitVec.and_zero)) (BitVec.and_zero)), (BitVec.zero_and)⟩
  · show isLong (0x34#6 ++ d ++ a ++ b ++ 1#3 ++ BitVec.ofBool ea ++ BitVec.ofBool eb) = true
    simp (disch := decide) only [isLong, fld, ext_low, ext_high, ext_all, Nat.reduceSub, Nat.reduceLT, decide_true, decide_false, BitVec.reduceToNat]

open RoundTrip in
theorem RoundTrip.dmrd (d : BitVec 7) (a : BitVec 7) (b : BitVec 7) (ea : Bool) (eb : Bool) (g : BitVec 5) : Statement (.dmrd d a b ea eb g) := by
  intro hw
  refine ⟨?_, ?_⟩
  · show decode (0x34#6 ++ d ++ a ++ b ++ 2#3 ++ BitVec.ofBool ea ++ BitVec.ofBool eb) (0#27 ++ g) = .ok (.dmrd d a b ea eb g)
    rw [decode_34 _ _ (by simp (disch := decide) only [ext_high, Nat.reduceSub, ext_all])]
    simp (disch := decide) only [dec34, fld, bit, ext_low, ext_high, bit_low, bit_high, ext_all, bit_ofBool, Nat.reduceSub, BitVec.reduceToNat]
    exact checked_ok _ _ ⟨(and_append_zero (m := 31) (n := 1) _ _ _ (and_append_zero (m := 30) (n := 1) _ _ _ (and_append_zero (m := 27) (n := 3) _ _ _ (and_append_zero (m := 20) (n := 7) _ _ _ (and_append_zero (m := 13) (n := 7) _ _ _ (and_append_zero (m := 6) (n := 7) _ _ _ (BitVec.and_zero) (BitVec.and_zero)) (BitVec.and_zero)) (BitVec.and_zero)) (BitVec.and_zero)) (BitVec.and_zero)) (BitVec.and_zero)), (and_append_zero (m := 27) (n := 5) _ _ _ (BitVec.zero_and) (BitVec.and_zero))⟩
  · show isLong (0x34#6 ++ d ++ a ++ b ++ 2#3 ++ BitVec.ofBool ea ++ BitVec.ofBool eb) = true
    simp (disch := decide) only [isLong, fld, ext_low, ext_high, ext_all, Nat.reduceSub, Nat.reduceLT, decide_true, decide_false, BitVec.reduceToNat]

open RoundTrip in
theorem RoundTrip.dmclr (d : BitVec 7) (a : BitVec 7) (b : BitVec 7) (ea : Bool) (eb : Bool) (ed : Bool) (g : BitVec 5) : Statement (.dmclr d a b ea eb ed g) := by
  intro hw
  refine ⟨?_, ?_⟩
  · show decode (0x34#6 ++ d ++ a ++ b ++ 3#3 ++ BitVec.ofBool ea ++ BitVec.ofBool eb) (BitVec.ofBool ed ++ 0#26 ++ g) = .ok (.dmclr d a b ea eb ed g)
    rw [decode_34 _ _ (by simp (disch := decide) only [ext_high, Nat.reduceSub, ext_all])]
    simp (disch := decide) only [dec34, fld, bit, ext_low, ext_high, bit_low, bit_high, ext_all, bit_ofBool, Nat.reduceSub, BitVec.reduceToNat]
    exact checked_ok _ _ ⟨(and_append_zero (m := 31) (n := 1) _ _ _ (and_append_zero (m := 30) (n := 1) _ _ _ (and_append_zero (m := 27) (n := 3) _ _ _ (and_append_zero (m := 20) (n := 7) _ _ _ (and_append_zero (m := 13) (n := 7) _ _ _ (and_append_zero (m := 6) (n := 7) _ _ _ (BitVec.and_zero) (BitVec.and_zero)) (BitVec.and_zero)) (BitVec.and_zero)) (BitVec.and_zero)) (BitVec.and_zero)) (BitVec.and_zero)), (and_append_zero (m := 27) (n := 5) _ _ _ (and_append_zero (m := 1) (n := 26) _ _ _ (BitVec.and_zero) (BitVec.zero_and)) (BitVec.and_zero))⟩
  · show isLong (0x34#6 ++ d ++ a ++ b ++ 3#3 ++ BitVec.ofBool ea ++ BitVec.ofBool eb) = true
    simp (disch := decide) only [isLong, fld, ext_low, ext_high, ext_all, Nat.reduceSub, Nat.reduceLT, decide_true, decide_false, BitVec.reduceToNat]

open RoundTrip in
theorem RoundTrip.stepq (d : BitVec 7) (a : BitVec 7) (ea : Bool) : Statement (.stepq d a ea) := by
  intro hw
  refine ⟨?_, ?_⟩
  · show decode (0x35#6 ++ d ++ a ++ 0#7 ++ 0#3 ++ BitVec.ofBool ea ++ 0#1) (0) = .ok (.stepq d a ea)
    rw [decode_35 _ _ (by simp (disch := decide) only [ext_high, Nat.reduceSub, ext_all])]
    simp (disch := decide) only [dec35, fld, bit, ext_low, ext_high, bit_low, bit_high, ext_all, bit_ofBool, Nat.reduceSub, BitVec.reduceToNat]
    exact checked_ok _ _ (and_append_zero (m := 31) (n := 1) _ _ _ (and_append_zero (m := 30) (n := 1) _ _ _ (and_append_zero (m := 27) (n := 3) _ _ _ (and_append_zero (m := 20) (n := 7) _ _ _ (and_append_zero (m := 13) (n := 7) _ _ _ (and_append_zero (m := 6) (n := 7) _ _ _ (BitVec.and_zero) (BitVec.and_zero)) (BitVec.and_zero)) (BitVec.zero_and)) (BitVec.zero_and)) (BitVec.and_zero)) (BitVec.zero_and))
  · show isLong (0x35#6 ++ d ++ a ++ 0#7 ++ 0#3 ++ BitVec.ofBool ea ++ 0#1) = false
    simp (disch := decide) only [isLong, fld, ext_low, ext_high, ext_all, Nat.reduceSub, Nat.reduceLT, decide_true, decide_false, BitVec.reduceToNat]

open RoundTrip in
theorem RoundTrip.tokc (a : BitVec 7) (b : BitVec 7) (ea : Bool) (eb : Bool) : Statement (.tokc a b ea eb) := by
  intro hw
  refine ⟨?_, ?_⟩
  · show decode (0x35#6 ++ 0#7 ++ a ++ b ++ 1#3 ++ BitVec.ofBool ea ++ BitVec.ofBool eb) (0) = .ok (.tokc a b ea eb)
    rw [decode_35 _ _ (by simp (disch := decide) only [ext_high, Nat.reduceSub, ext_all])]
    simp (disch := decide) only [dec35, fld, bit, ext_low, ext_high, bit_low, bit_high, ext_all, bit_ofBool, Nat.reduceSub, BitVec.reduceToNat]
    exact checked_ok _ _ (and_append_zero (m := 31) (n := 1) _ _ _ (and_append_zero (m := 30) (n := 1) _ _ _ (and_append_zero (m := 27) (n := 3) _ _ _ (and_append_zero (m := 20) (n := 7) _ _ _ (and_append_zero (m := 13) (n := 7) _ _ _ (and_append_zero (m := 6) (n := 7) _ _ _ (BitVec.and_zero) (BitVec.zero_and)) (BitVec.and_zero)) (BitVec.and_zero)) (BitVec.and_zero)) (BitVec.and_zero)) (BitVec.and_zero))
  · show isLong (0x35#6 ++ 0#7 ++ a ++ b ++ 1#3 ++ BitVec.ofBool ea ++ BitVec.ofBool eb) = false
    simp (disch := decide) only [isLong, fld, ext_low, ext_high, ext_all, Nat.reduceSub, Nat.reduceLT, decide_true, decide_false, BitVec.reduceToNat]

open RoundTrip in
theorem RoundTrip.seqrd (d : BitVec 7) (a : BitVec 7) (b : BitVec 7) (ea : Bool) (eb : Bool) : Statement (.seqrd d a b ea eb) := by
  intro hw
  refine ⟨?_, ?_⟩
  · show decode (0x35#6 ++ d ++ a ++ b ++ 2#3 ++ BitVec.ofBool ea ++ BitVec.ofBool eb) (0) = .ok (.seqrd d a b ea eb)
    rw [decode_35 _ _ (by simp (disch := decide) only [ext_high, Nat.reduceSub, ext_all])]
    simp (disch := decide) only [dec35, fld, bit, ext_low, ext_high, bit_low, bit_high, ext_all, bit_ofBool, Nat.reduceSub, BitVec.reduceToNat]
  · show isLong (0x35#6 ++ d ++ a ++ b ++ 2#3 ++ BitVec.ofBool ea ++ BitVec.ofBool eb) = false
    simp (disch := decide) only [isLong, fld, ext_low, ext_high, ext_all, Nat.reduceSub, Nat.reduceLT, decide_true, decide_false, BitVec.reduceToNat]

open RoundTrip in
theorem RoundTrip.tlbinv (s : BitVec 7) (tag : BitVec 8) (kind : BitVec 2) (ea : Bool) : Statement (.tlbinv s tag kind ea) := by
  intro hw
  refine ⟨?_, ?_⟩
  · show decode (0x3c#6 ++ s ++ tag ++ 0#2 ++ kind ++ 0#3 ++ 0#3 ++ BitVec.ofBool ea) (0) = .ok (.tlbinv s tag kind ea)
    rw [decode_3c _ _ (by simp (disch := decide) only [ext_high, Nat.reduceSub, ext_all])]
    simp (disch := decide) only [dec3c, fld, bit, ext_low, ext_high, bit_low, bit_high, ext_all, bit_ofBool, Nat.reduceSub, BitVec.reduceToNat]
    rw [if_pos (of_decide_eq_true hw)]
    exact checked_ok _ _ (and_append_zero (m := 31) (n := 1) _ _ _ (and_append_zero (m := 28) (n := 3) _ _ _ (and_append_zero (m := 25) (n := 3) _ _ _ (and_append_zero (m := 23) (n := 2) _ _ _ (and_append_zero (m := 21) (n := 2) _ _ _ (and_append_zero (m := 13) (n := 8) _ _ _ (and_append_zero (m := 6) (n := 7) _ _ _ (BitVec.and_zero) (BitVec.and_zero)) (BitVec.and_zero)) (BitVec.zero_and)) (BitVec.and_zero)) (BitVec.zero_and)) (BitVec.zero_and)) (BitVec.and_zero))
  · show isLong (0x3c#6 ++ s ++ tag ++ 0#2 ++ kind ++ 0#3 ++ 0#3 ++ BitVec.ofBool ea) = false
    simp (disch := decide) only [isLong, fld, ext_low, ext_high, ext_all, Nat.reduceSub, Nat.reduceLT, decide_true, decide_false, BitVec.reduceToNat]

open RoundTrip in
theorem RoundTrip.grdset (s : BitVec 7) (slot : BitVec 8) (ea : Bool) : Statement (.grdset s slot ea) := by
  intro hw
  refine ⟨?_, ?_⟩
  · show decode (0x3c#6 ++ s ++ 0#4 ++ slot ++ 1#3 ++ 0#3 ++ BitVec.ofBool ea) (0) = .ok (.grdset s slot ea)
    rw [decode_3c _ _ (by simp (disch := decide) only [ext_high, Nat.reduceSub, ext_all])]
    simp (disch := decide) only [dec3c, fld, bit, ext_low, ext_high, bit_low, bit_high, ext_all, bit_ofBool, Nat.reduceSub, BitVec.reduceToNat]
    exact checked_ok _ _ (and_append_zero (m := 31) (n := 1) _ _ _ (and_append_zero (m := 28) (n := 3) _ _ _ (and_append_zero (m := 25) (n := 3) _ _ _ (and_append_zero (m := 17) (n := 8) _ _ _ (and_append_zero (m := 13) (n := 4) _ _ _ (and_append_zero (m := 6) (n := 7) _ _ _ (BitVec.and_zero) (BitVec.and_zero)) (BitVec.zero_and)) (BitVec.and_zero)) (BitVec.and_zero)) (BitVec.zero_and)) (BitVec.and_zero))
  · show isLong (0x3c#6 ++ s ++ 0#4 ++ slot ++ 1#3 ++ 0#3 ++ BitVec.ofBool ea) = false
    simp (disch := decide) only [isLong, fld, ext_low, ext_high, ext_all, Nat.reduceSub, Nat.reduceLT, decide_true, decide_false, BitVec.reduceToNat]

open RoundTrip in
theorem RoundTrip.snapct (s : BitVec 7) (kind : BitVec 2) (ea : Bool) : Statement (.snapct s kind ea) := by
  intro hw
  refine ⟨?_, ?_⟩
  · show decode (0x3c#6 ++ s ++ 0#10 ++ kind ++ 2#3 ++ 0#3 ++ BitVec.ofBool ea) (0) = .ok (.snapct s kind ea)
    rw [decode_3c _ _ (by simp (disch := decide) only [ext_high, Nat.reduceSub, ext_all])]
    simp (disch := decide) only [dec3c, fld, bit, ext_low, ext_high, bit_low, bit_high, ext_all, bit_ofBool, Nat.reduceSub, BitVec.reduceToNat]
    rw [if_pos (of_decide_eq_true hw)]
    exact checked_ok _ _ (and_append_zero (m := 31) (n := 1) _ _ _ (and_append_zero (m := 28) (n := 3) _ _ _ (and_append_zero (m := 25) (n := 3) _ _ _ (and_append_zero (m := 23) (n := 2) _ _ _ (and_append_zero (m := 13) (n := 10) _ _ _ (and_append_zero (m := 6) (n := 7) _ _ _ (BitVec.and_zero) (BitVec.and_zero)) (BitVec.zero_and)) (BitVec.and_zero)) (BitVec.and_zero)) (BitVec.zero_and)) (BitVec.and_zero))
  · show isLong (0x3c#6 ++ s ++ 0#10 ++ kind ++ 2#3 ++ 0#3 ++ BitVec.ofBool ea) = false
    simp (disch := decide) only [isLong, fld, ext_low, ext_high, ext_all, Nat.reduceSub, Nat.reduceLT, decide_true, decide_false, BitVec.reduceToNat]

open RoundTrip in
theorem RoundTrip.dbgrd (s : BitVec 7) (sel : BitVec 12) (ea : Bool) : Statement (.dbgrd s sel ea) := by
  intro hw
  refine ⟨?_, ?_⟩
  · show decode (0x3c#6 ++ s ++ sel ++ 3#3 ++ 0#3 ++ BitVec.ofBool ea) (0) = .ok (.dbgrd s sel ea)
    rw [decode_3c _ _ (by simp (disch := decide) only [ext_high, Nat.reduceSub, ext_all])]
    simp (disch := decide) only [dec3c, fld, bit, ext_low, ext_high, bit_low, bit_high, ext_all, bit_ofBool, Nat.reduceSub, BitVec.reduceToNat]
    rw [if_pos (of_decide_eq_true hw)]
    exact checked_ok _ _ (and_append_zero (m := 31) (n := 1) _ _ _ (and_append_zero (m := 28) (n := 3) _ _ _ (and_append_zero (m := 25) (n := 3) _ _ _ (and_append_zero (m := 13) (n := 12) _ _ _ (and_append_zero (m := 6) (n := 7) _ _ _ (BitVec.and_zero) (BitVec.and_zero)) (BitVec.and_zero)) (BitVec.and_zero)) (BitVec.zero_and)) (BitVec.and_zero))
  · show isLong (0x3c#6 ++ s ++ sel ++ 3#3 ++ 0#3 ++ BitVec.ofBool ea) = false
    simp (disch := decide) only [isLong, fld, ext_low, ext_high, ext_all, Nat.reduceSub, Nat.reduceLT, decide_true, decide_false, BitVec.reduceToNat]

end Sys2Proof.Laws
end

