-- ==== Sys2Proof/Laws/Rounding.lean ====
section
/-! SUPPORT. Rounding to a binary format delivers the exact number rounded once, with the flags of R58. -/

namespace Sys2Proof.Machine

open Sys2Proof.Safety

/-- Two roundings of one number in one mode are the same. -/
theorem roundsTo_unique {mode : Rounding} {v : ℚ} {r r' : Int} (h : RoundsTo mode v r) (h' : RoundsTo mode v r') : r = r' := by
  cases mode with
  | rne =>
    obtain ⟨a, ta⟩ := h
    obtain ⟨b, tb⟩ := h'
    by_contra hne
    have d : (1 : ℚ) ≤ |(r : ℚ) - r'| := by
      have : (1 : Int) ≤ |r - r'| := Int.one_le_abs (sub_ne_zero.mpr hne)
      exact_mod_cast this
    have t : |(r : ℚ) - r'| ≤ |v - r'| + |v - r| := by
      have : (r : ℚ) - r' = (v - r') - (v - r) := by ring
      rw [this]; exact abs_sub _ _
    have ea := ta (by linarith)
    have eb := tb (by linarith)
    have one : |(r : ℚ) - r'| = 1 := by linarith
    have : |r - r'| = 1 := by exact_mod_cast one
    rcases (abs_eq (by norm_num : (0 : Int) ≤ 1)).mp this with h | h <;> omega
  | rtz => exact h.trans h'.symm
  | rdn => exact h.trans h'.symm
  | rup => exact h.trans h'.symm

/-- A whole number is rounded to itself. -/
theorem roundsTo_int (mode : Rounding) (r : Int) : RoundsTo mode (r : ℚ) r := by
  cases mode <;> simp [RoundsTo]

/-- A rounding lies within one of the number. -/
theorem roundsTo_near {mode : Rounding} {v : ℚ} {r : Int} (h : RoundsTo mode v r) : |v - r| < 1 := by
  have hf := Int.floor_le v
  have hf' := Int.lt_floor_add_one v
  have hc := Int.le_ceil v
  have hc' := Int.ceil_lt_add_one v
  cases mode with
  | rne => have := h.1; linarith [h.1]
  | rtz =>
    have h : r = if v < 0 then ⌈v⌉ else ⌊v⌋ := h
    rw [abs_lt]; split at h <;> subst h <;> constructor <;> linarith
  | rdn => have h : r = ⌊v⌋ := h; subst h; rw [abs_lt]; constructor <;> linarith
  | rup => have h : r = ⌈v⌉ := h; subst h; rw [abs_lt]; constructor <;> linarith

theorem valueOf_pos (m : Nat) (e : Int) : valueOf false m e = (m : ℚ) * 2 ^ e := by simp [valueOf]
theorem valueOf_neg (m : Nat) (e : Int) : valueOf true m e = -((m : ℚ) * 2 ^ e) := by simp [valueOf]

theorem abs_valueOf (neg : Bool) (m : Nat) (e : Int) : |valueOf neg m e| = (m : ℚ) * 2 ^ e := by
  have : (0 : ℚ) ≤ (m : ℚ) * 2 ^ e := by positivity
  cases neg
  · rw [valueOf_pos, abs_of_nonneg this]
  · rw [valueOf_neg, abs_neg, abs_of_nonneg this]

theorem valueOf_lt_zero {m : Nat} (hm : m ≠ 0) (neg : Bool) (e : Int) : (valueOf neg m e < 0) ↔ neg = true := by
  have : (0 : ℚ) < (m : ℚ) * 2 ^ e := by positivity
  cases neg
  · simp only [valueOf_pos]; constructor
    · intro h; linarith
    · intro h; cases h
  · simp only [valueOf_neg]; constructor
    · intro _; trivial
    · intro _; linarith

/-- A signed whole number. -/
def signedInt (neg : Bool) (w : Nat) : Int := if neg then -(w : Int) else w

theorem valueOf_signedInt (neg : Bool) (w : Nat) (q : Int) : valueOf neg w q = (signedInt neg w : ℚ) * 2 ^ q := by
  cases neg <;> simp [valueOf, signedInt]

theorem abs_signedInt (neg : Bool) (w : Nat) : |((signedInt neg w : Int) : ℚ)| = w := by
  cases neg <;> simp [signedInt]

/-- `roundTo` rounds, and says whether exactly. -/
theorem roundTo_rounds (mode : Rounding) (neg : Bool) (m : Nat) (e q : Int) :
    RoundsTo mode (valueOf neg m e / 2 ^ q) (signedInt neg (roundTo mode neg m e q).1) ∧
      ((roundTo mode neg m e q).2 = true ↔ valueOf neg (roundTo mode neg m e q).1 q = valueOf neg m e) := by
  have two : (2 : ℚ) ≠ 0 := by norm_num
  by_cases h : q ≤ e
  · have hv : valueOf neg m e / 2 ^ q = ((signedInt neg (m * 2 ^ (e - q).toNat) : Int) : ℚ) := by
      have hp : (2 : ℚ) ^ e = 2 ^ (e - q).toNat * 2 ^ q := by
        rw [← zpow_natCast, ← zpow_add₀ two]; congr 1; omega
      rw [div_eq_iff (by positivity)]
      cases neg <;> simp [valueOf, signedInt, hp] <;> ring
    have hr : roundTo mode neg m e q = (m * 2 ^ (e - q).toNat, true) := by simp [roundTo, h]
    rw [hr]
    refine ⟨?_, by simp; rw [valueOf_signedInt, ← hv]; field_simp⟩
    rw [hv]; exact roundsTo_int _ _
  · have hk : 0 < (q - e).toNat := by omega
    set k := (q - e).toNat with hkd
    have hP : (0 : ℚ) < 2 ^ k := by positivity
    set whole := m / 2 ^ k with hw
    set rest := m % 2 ^ k with hrest
    have hm : m = whole * 2 ^ k + rest := by rw [hw, hrest]; exact (Nat.div_add_mod' m (2 ^ k)).symm
    have hlt : rest < 2 ^ k := Nat.mod_lt _ (by positivity)
    have hmq : (m : ℚ) = whole * 2 ^ k + rest := by exact_mod_cast hm
    have hltq : (rest : ℚ) < 2 ^ k := by exact_mod_cast hlt
    have hv : valueOf neg m e / 2 ^ q = (if neg then -1 else 1) * ((whole : ℚ) + rest / 2 ^ k) := by
      have hp : (2 : ℚ) ^ q = 2 ^ k * 2 ^ e := by
        rw [← zpow_natCast, ← zpow_add₀ two]; congr 1; omega
      rw [valueOf, hp, hmq]; field_simp
    have hfr0 : (0 : ℚ) ≤ rest / 2 ^ k := by positivity
    have hfr1 : (rest : ℚ) / 2 ^ k < 1 := by rw [div_lt_one hP]; exact hltq
    have hz : (rest : ℚ) / 2 ^ k = 0 ↔ rest = 0 := by
      constructor
      · intro h; rcases div_eq_zero_iff.mp h with h | h
        · exact_mod_cast h
        · exact absurd h hP.ne'
      · intro h; simp [h]
    have hfl : ⌊(whole : ℚ) + rest / 2 ^ k⌋ = (whole : Int) := by
      rw [Int.floor_eq_iff]; push_cast; constructor <;> linarith
    have hcl : ⌈(whole : ℚ) + rest / 2 ^ k⌉ = if rest = 0 then (whole : Int) else whole + 1 := by
      rw [Int.ceil_eq_iff]
      split
      · next h0 => have := hz.mpr h0; push_cast; constructor <;> linarith
      · next h0 =>
        have : (0 : ℚ) < rest / 2 ^ k := lt_of_le_of_ne hfr0 (fun h => h0 (hz.mp h.symm))
        push_cast; constructor <;> linarith
    have hr1 : (roundTo mode neg m e q).1 = if (match mode with
        | .rne => decide (2 ^ k < 2 * rest) || (2 ^ k == 2 * rest && whole % 2 == 1)
        | .rtz => false
        | .rdn => neg && rest != 0
        | .rup => !neg && rest != 0) = true then whole + 1 else whole := by
      simp only [roundTo, if_neg h, ← hkd, ← hw, ← hrest] <;> cases mode <;> rfl
    have hr2 : (roundTo mode neg m e q).2 = (rest == 0) := by simp only [roundTo, if_neg h, ← hkd, ← hrest]
    have hround : RoundsTo mode (valueOf neg m e / 2 ^ q) (signedInt neg (roundTo mode neg m e q).1) := by
      rw [hv, hr1]
      have hpos : (0 : ℚ) ≤ (whole : ℚ) + rest / 2 ^ k := by positivity
      cases mode with
      | rdn =>
        cases neg
        · simp [RoundsTo, signedInt, hfl]
        · simp only [RoundsTo, signedInt, if_true, neg_one_mul, Int.floor_neg, hcl, Bool.true_and, bne_iff_ne, ne_eq]
          by_cases h0 : rest = 0 <;> simp [h0]
      | rup =>
        cases neg
        · simp only [RoundsTo, signedInt, one_mul, hcl, Bool.not_false, Bool.true_and, bne_iff_ne, ne_eq, Bool.false_eq_true, if_false]
          by_cases h0 : rest = 0 <;> simp [h0]
        · simp only [RoundsTo, signedInt, if_true, neg_one_mul, Int.ceil_neg, hfl, Bool.not_true, Bool.false_and, Bool.false_eq_true, if_false]
      | rtz =>
        cases neg
        · simp only [RoundsTo, signedInt, one_mul, Bool.false_eq_true, if_false]
          rw [if_neg (not_lt.mpr hpos), hfl]
        · simp only [RoundsTo, signedInt, if_true, neg_one_mul, Bool.false_eq_true, if_false, Int.ceil_neg, hfl, Int.floor_neg, hcl]
          split
          · rfl
          · next hn =>
            have h00 : (whole : ℚ) + rest / 2 ^ k = 0 := by linarith
            have : rest = 0 := hz.mp (by have : (0 : ℚ) ≤ whole := by positivity
                                         linarith)
            simp [this]
      | rne =>
        have key : ∀ b : Bool, b = (decide (2 ^ k < 2 * rest) || (2 ^ k == 2 * rest && whole % 2 == 1)) →
            |((whole : ℚ) + rest / 2 ^ k) - ((if b then whole + 1 else whole : Nat) : ℚ)| ≤ 1 / 2 ∧
            (|((whole : ℚ) + rest / 2 ^ k) - ((if b then whole + 1 else whole : Nat) : ℚ)| = 1 / 2 →
              (if b then whole + 1 else whole) % 2 = 0) := by
          intro b hb
          by_cases hup : 2 ^ k < 2 * rest
          · have hb' : b = true := by rw [hb]; simp [hup]
            have hq : (1 : ℚ) / 2 < rest / 2 ^ k := by
              rw [lt_div_iff₀ hP]; have : (2 : ℚ) ^ k < 2 * rest := by exact_mod_cast hup
              linarith
            rw [hb']
            have e1 : ((whole : ℚ) + rest / 2 ^ k) - ((if true = true then whole + 1 else whole : Nat) : ℚ) = rest / 2 ^ k - 1 := by
              push_cast; simp
            rw [e1, abs_of_nonpos (by linarith)]
            exact ⟨by linarith, fun h => by linarith⟩
          · by_cases heq : 2 ^ k = 2 * rest
            · have hq : (rest : ℚ) / 2 ^ k = 1 / 2 := by
                rw [div_eq_iff hP.ne']; have : (2 : ℚ) ^ k = 2 * rest := by exact_mod_cast heq
                linarith
              by_cases hodd : whole % 2 = 1
              · have hb' : b = true := by rw [hb]; simp [heq, hodd]
                rw [hb']
                have e1 : ((whole : ℚ) + rest / 2 ^ k) - ((if true = true then whole + 1 else whole : Nat) : ℚ) = -(1 / 2) := by
                  push_cast; rw [hq]; norm_num
                rw [e1]
                refine ⟨by norm_num, fun _ => ?_⟩
                rw [if_pos rfl]; omega
              · have hb' : b = false := by rw [hb]; simp [hup, hodd]
                rw [hb']
                have e1 : ((whole : ℚ) + rest / 2 ^ k) - ((if false = true then whole + 1 else whole : Nat) : ℚ) = 1 / 2 := by
                  rw [hq]; norm_num
                rw [e1]
                refine ⟨by norm_num, fun _ => ?_⟩
                rw [if_neg (by simp)]; omega
            · have hb' : b = false := by rw [hb]; simp [hup, heq]
              have hq : (rest : ℚ) / 2 ^ k < 1 / 2 := by
                have : 2 * rest < 2 ^ k := by omega
                rw [div_lt_iff₀ hP]; have : (2 : ℚ) * rest < 2 ^ k := by exact_mod_cast this
                linarith
              rw [hb']
              have e1 : ((whole : ℚ) + rest / 2 ^ k) - ((if false = true then whole + 1 else whole : Nat) : ℚ) = rest / 2 ^ k := by
                simp
              rw [e1, abs_of_nonneg hfr0]
              exact ⟨by linarith, fun h => by linarith⟩
        have := key _ rfl
        set w := (if (decide (2 ^ k < 2 * rest) || (2 ^ k == 2 * rest && whole % 2 == 1)) = true then whole + 1 else whole) with hwd
        cases neg
        · simp only [RoundsTo, signedInt, one_mul, Bool.false_eq_true, if_false]
          exact ⟨by exact_mod_cast this.1, fun h => by have := this.2 (by exact_mod_cast h); omega⟩
        · simp only [RoundsTo, signedInt, if_true, neg_one_mul]
          have e2 : -((whole : ℚ) + rest / 2 ^ k) - ((-(w : Int) : Int) : ℚ) = -(((whole : ℚ) + rest / 2 ^ k) - (w : ℚ)) := by
            push_cast; ring
          rw [e2, abs_neg]
          exact ⟨this.1, fun h => by have := this.2 h; omega⟩
    refine ⟨hround, ?_⟩
    rw [hr2]
    have hpq : (0 : ℚ) < 2 ^ q := by positivity
    have hback : valueOf neg m e = (if neg then -1 else 1) * ((whole : ℚ) + rest / 2 ^ k) * 2 ^ q := by
      rw [← hv]; field_simp
    constructor
    · intro h0
      have h0 : rest = 0 := by simpa using h0
      have hw' : (roundTo mode neg m e q).1 = whole := by
        rw [hr1, h0]
        have : ¬ (2 ^ k = 0) := by positivity
        cases mode <;> cases neg <;> simp [this]
      rw [hw', hback, valueOf, h0]; simp
    · intro heq
      have : (whole : ℚ) + rest / 2 ^ k = ((roundTo mode neg m e q).1 : ℚ) := by
        have h2 : (if neg then (-1 : ℚ) else 1) * ((roundTo mode neg m e q).1 : ℚ) =
            (if neg then -1 else 1) * ((whole : ℚ) + rest / 2 ^ k) :=
          mul_right_cancel₀ hpq.ne' (by rw [← hback, ← heq, valueOf])
        cases neg <;> simp at h2 <;> linarith
      have hcast : ((⌊(whole : ℚ) + rest / 2 ^ k⌋ : Int) : ℚ) = (whole : ℚ) + rest / 2 ^ k := by
        rw [this]; simp
      rw [hfl] at hcast
      have : (rest : ℚ) / 2 ^ k = 0 := by push_cast at hcast; linarith
      simpa using hz.mp this

/-- A format as the three of R56 are: its exponent field and bias fit each other. -/
structure Fmt.Sound (f : Fmt) : Prop where
  precise : 2 ≤ f.p
  exponent : 2 ≤ f.eb
  bias : 2 * f.emax + 2 = 2 ^ f.eb

theorem f32_sound : f32.Sound := ⟨by decide, by decide, by decide⟩
theorem f16_sound : f16.Sound := ⟨by decide, by decide, by decide⟩
theorem bf16_sound : bf16.Sound := ⟨by decide, by decide, by decide⟩

/-- The fields of a finite value's bits. -/
theorem Fmt.decode_signed {f : Fmt} (hf : f.Sound) (neg : Bool) (ex fr : Nat) (hfr : fr < 2 ^ (f.p - 1)) (hex : ex < 2 ^ f.eb - 1) :
    f.decode (f.signed neg (ex * 2 ^ (f.p - 1) + fr)) =
      if ex = 0 then .fin neg fr f.qmin else .fin neg (fr + 2 ^ (f.p - 1)) (f.qmin + (ex - 1)) := by
  have hP : 0 < 2 ^ (f.p - 1) := by positivity
  have hE : 0 < 2 ^ f.eb := by positivity
  set P := 2 ^ (f.p - 1) with hPd
  have hmag : ex * P + fr < P * 2 ^ f.eb := by
    calc ex * P + fr < ex * P + P := by omega
      _ = P * (ex + 1) := by ring
      _ ≤ P * 2 ^ f.eb := Nat.mul_le_mul_left _ (by omega)
  have hs : f.signed neg (ex * P + fr) = (if neg then 1 else 0) * (P * 2 ^ f.eb) + (ex * P + fr) := by
    cases neg <;> simp [Fmt.signed, pow_add, hPd]
  have h1 : f.signed neg (ex * P + fr) % P = fr := by
    rw [hs, show (if neg then 1 else 0) * (P * 2 ^ f.eb) + (ex * P + fr) = fr + P * ((if neg then 1 else 0) * 2 ^ f.eb + ex) by ring,
      Nat.add_mul_mod_self_left, Nat.mod_eq_of_lt hfr]
  have h2 : f.signed neg (ex * P + fr) / P % 2 ^ f.eb = ex := by
    rw [hs, show (if neg then 1 else 0) * (P * 2 ^ f.eb) + (ex * P + fr) = fr + P * (ex + 2 ^ f.eb * (if neg then 1 else 0)) by ring,
      Nat.add_mul_div_left _ _ hP, Nat.div_eq_of_lt hfr, Nat.zero_add, Nat.add_mul_mod_self_left, Nat.mod_eq_of_lt (by omega)]
  have h3 : f.signed neg (ex * P + fr) / (P * 2 ^ f.eb) % 2 = if neg then 1 else 0 := by
    rw [hs, show (if neg then 1 else 0) * (P * 2 ^ f.eb) + (ex * P + fr) = (ex * P + fr) + (P * 2 ^ f.eb) * (if neg then 1 else 0) by ring,
      Nat.add_mul_div_left _ _ (by positivity), Nat.div_eq_of_lt hmag]
    cases neg <;> simp
  have h4 : 2 ^ (f.p - 1 + f.eb) = P * 2 ^ f.eb := by rw [pow_add]
  simp only [Fmt.decode, ← hPd, h4, h1, h2, h3]
  rw [if_neg (by omega)]
  cases neg <;> simp

theorem two_zpow_add (a b : Int) : (2 : ℚ) ^ (a + b) = 2 ^ a * 2 ^ b := zpow_add₀ (by norm_num) a b

theorem two_zpow_le {a b : Int} : (2 : ℚ) ^ a ≤ 2 ^ b ↔ a ≤ b := zpow_le_zpow_iff_right₀ (by norm_num)
theorem two_zpow_lt {a b : Int} : (2 : ℚ) ^ a < 2 ^ b ↔ a < b := zpow_lt_zpow_iff_right₀ (by norm_num)

/-- Where a number's bits begin. -/
theorem valueOf_binade {m : Nat} (hm : m ≠ 0) (neg : Bool) (e : Int) :
    (2 : ℚ) ^ (e + bitLength m - 1) ≤ |valueOf neg m e| ∧ |valueOf neg m e| < (2 : ℚ) ^ (e + bitLength m) := by
  have hb : (bitLength m : Int) = m.log2 + 1 := by simp [bitLength, hm]
  have h1 : (2 : ℚ) ^ m.log2 ≤ m := by exact_mod_cast Nat.log2_self_le hm
  have h2 : (m : ℚ) < 2 ^ (m.log2 + 1) := by exact_mod_cast Nat.lt_log2_self
  have he : (0 : ℚ) < 2 ^ e := by positivity
  rw [abs_valueOf, hb, show e + ((m.log2 : Int) + 1) - 1 = (m.log2 : Int) + e by ring,
    show e + ((m.log2 : Int) + 1) = ((m.log2 + 1 : Nat) : Int) + e by push_cast; ring, two_zpow_add, two_zpow_add, zpow_natCast, zpow_natCast]
  exact ⟨mul_le_mul_of_nonneg_right h1 he.le, mul_lt_mul_of_pos_right h2 he⟩

/-- A rounded significand stays within its precision. -/
theorem roundTo_bounds {mode : Rounding} {neg : Bool} {m p : Nat} {e q : Int} (hp : 1 ≤ p)
    (hlt : |valueOf neg m e| < (2 : ℚ) ^ (q + p)) :
    (roundTo mode neg m e q).1 ≤ 2 ^ p ∧
      ((2 : ℚ) ^ (q + p - 1) ≤ |valueOf neg m e| → 2 ^ (p - 1) ≤ (roundTo mode neg m e q).1) := by
  have hr := (roundTo_rounds mode neg m e q).1
  set w := (roundTo mode neg m e q).1
  have hq : (0 : ℚ) < 2 ^ q := by positivity
  have hn := roundsTo_near hr
  have habs : |valueOf neg m e / 2 ^ q| = |valueOf neg m e| / 2 ^ q := by rw [abs_div, abs_of_pos hq]
  have hx : |valueOf neg m e| / 2 ^ q < 2 ^ p := by
    rw [div_lt_iff₀ hq, ← zpow_natCast, ← two_zpow_add, add_comm]; exact hlt
  have hw := abs_signedInt neg w
  have t1 : (w : ℚ) ≤ |valueOf neg m e / 2 ^ q| + |valueOf neg m e / 2 ^ q - (signedInt neg w : Int)| := by
    rw [← hw]
    have : ((signedInt neg w : Int) : ℚ) = valueOf neg m e / 2 ^ q - (valueOf neg m e / 2 ^ q - (signedInt neg w : Int)) := by ring
    calc |((signedInt neg w : Int) : ℚ)| = |valueOf neg m e / 2 ^ q - (valueOf neg m e / 2 ^ q - (signedInt neg w : Int))| := by rw [← this]
      _ ≤ _ := abs_sub _ _
  have t2 : |valueOf neg m e / 2 ^ q| ≤ (w : ℚ) + |valueOf neg m e / 2 ^ q - (signedInt neg w : Int)| := by
    rw [← hw]
    have : valueOf neg m e / 2 ^ q = (signedInt neg w : Int) + (valueOf neg m e / 2 ^ q - (signedInt neg w : Int)) := by ring
    calc |valueOf neg m e / 2 ^ q| = |((signedInt neg w : Int) : ℚ) + (valueOf neg m e / 2 ^ q - (signedInt neg w : Int))| := by rw [← this]
      _ ≤ _ := abs_add_le _ _
  rw [habs] at t1 t2
  constructor
  · have : (w : ℚ) < 2 ^ p + 1 := by linarith
    have : w < 2 ^ p + 1 := by exact_mod_cast this
    omega
  · intro hlo
    have hx' : (2 : ℚ) ^ (p - 1) ≤ |valueOf neg m e| / 2 ^ q := by
      rw [le_div_iff₀ hq, ← zpow_natCast, ← two_zpow_add]
      rwa [show ((p - 1 : Nat) : Int) + q = q + p - 1 by omega]
    have : (2 : ℚ) ^ (p - 1) < w + 1 := by linarith
    have : 2 ^ (p - 1) < w + 1 := by exact_mod_cast this
    omega

/-- `Fmt.round` delivers the number rounded once. -/
theorem Fmt.round_once {f : Fmt} (hf : f.Sound) (mode : Rounding) (neg : Bool) (m : Nat) (e : Int) :
    RoundedOnce f mode (valueOf neg m e) (f.round mode neg m e) := by
  have hp := hf.precise
  have hbias : (2 : Int) * f.emax + 2 = 2 ^ f.eb := by exact_mod_cast hf.bias
  have hqmin : f.qmin = 2 - (f.emax : Int) - f.p := rfl
  have hPnat : 0 < 2 ^ (f.p - 1) := by positivity
  have hPP : 2 ^ f.p = 2 * 2 ^ (f.p - 1) := by rw [← pow_succ']; congr 1; omega
  have hEb : 4 ≤ 2 ^ f.eb := by
    calc 4 = 2 ^ 2 := by norm_num
      _ ≤ 2 ^ f.eb := Nat.pow_le_pow_right (by norm_num) hf.exponent
  by_cases hm : m = 0
  · subst hm
    have hv : valueOf neg 0 e = 0 := by simp [valueOf]
    have hr : f.round mode neg 0 e = (f.signed neg 0, 0) := by simp [Fmt.round]
    rw [hv, hr]
    refine ⟨f.qmin, 0, le_refl _, .inl rfl, by simp; positivity, by simpa using roundsTo_int mode 0, ?_, ?_⟩
    · intro h; exact absurd h (not_le.mpr (by simp; positivity))
    · intro _
      refine ⟨⟨neg, 0, f.qmin, ?_, by simp [valueOf], fun h => absurd rfl h⟩, fun _ => rfl, fun h => absurd (by simp) h, fun h => absurd (by simp) h⟩
      have := Fmt.decode_signed hf neg 0 0 hPnat (by omega)
      simpa using this
  · have hb := valueOf_binade hm neg e
    have hneg := valueOf_lt_zero hm neg e
    have hv0 : valueOf neg m e ≠ 0 := by
      intro h; rw [h] at hb; simp at hb; exact absurd hb.1 (not_le.mpr (by positivity))
    set v := valueOf neg m e with hvd
    set top : Int := e + bitLength m - 1 with htop
    set qn : Int := top - (f.p - 1) with hqn
    set q : Int := max qn f.qmin with hq
    have hb1 : (2 : ℚ) ^ top ≤ |v| := hb.1
    have hb2 : |v| < (2 : ℚ) ^ (top + 1) := by rw [show top + 1 = e + bitLength m by omega]; exact hb.2
    have hltq : |v| < (2 : ℚ) ^ (q + f.p) := lt_of_lt_of_le hb2 (two_zpow_le.mpr (by omega))
    have hltn : |v| < (2 : ℚ) ^ (qn + f.p) := lt_of_lt_of_le hb2 (two_zpow_le.mpr (by omega))
    have hgen : (2 : ℚ) ^ (qn + f.p - 1) ≤ |v| := by rw [show qn + f.p - 1 = top by omega]; exact hb1
    have hfull : q = f.qmin ∨ (2 : ℚ) ^ (q + f.p - 1) ≤ |v| := by
      rcases le_total qn f.qmin with h | h
      · left; omega
      · right; rw [show q = qn by omega]; exact hgen
    obtain ⟨hround, hexact⟩ := roundTo_rounds mode neg m e q
    have hbound := roundTo_bounds (mode := mode) (by omega : 1 ≤ f.p) hltq
    have hboundn := roundTo_bounds (mode := mode) (by omega : 1 ≤ f.p) hltn
    obtain ⟨hroundn, -⟩ := roundTo_rounds mode neg m e qn
    set w := (roundTo mode neg m e q).1 with hw
    set wn := (roundTo mode neg m e qn).1 with hwn
    have hw1 := hbound.1
    have hwfull : q ≠ f.qmin → 2 ^ (f.p - 1) ≤ w := fun h => hbound.2 (hfull.resolve_left h)
    have hwn1 := hboundn.1
    have hwn2 : 2 ^ (f.p - 1) ≤ wn := hboundn.2 hgen
    have hsw := abs_signedInt neg w
    have hsv : ((signedInt neg w : Int) : ℚ) * 2 ^ q = valueOf neg w q := (valueOf_signedInt neg w q).symm
    set emin : Int := 1 - f.emax with hemin
    -- tininess
    have htiny : Tiny f mode v ↔ (top < emin ∧ ¬ (top = emin - 1 ∧ wn = 2 ^ f.p)) := by
      have one : ∀ a : Int, (2 : ℚ) ^ (f.p - 1 : Nat) * 2 ^ a = 2 ^ (a + f.p - 1) := by
        intro a; rw [← zpow_natCast, ← two_zpow_add]; congr 1; omega
      have hval : (wn : ℚ) * 2 ^ qn < 2 ^ emin ↔ (top < emin ∧ ¬ (top = emin - 1 ∧ wn = 2 ^ f.p)) := by
        have hqp : (0 : ℚ) < 2 ^ qn := by positivity
        by_cases hc : wn = 2 ^ f.p
        · have : (wn : ℚ) * 2 ^ qn = 2 ^ (top + 1) := by
            rw [hc]; push_cast; rw [← zpow_natCast, ← two_zpow_add]; congr 1; omega
          rw [this, two_zpow_lt]
          constructor
          · intro h; exact ⟨by omega, fun h' => by omega⟩
          · rintro ⟨h, h'⟩; by_contra hx; exact h' ⟨by omega, hc⟩
        · have hlt : wn < 2 ^ f.p := by omega
          have h1 : (2 : ℚ) ^ top ≤ wn * 2 ^ qn := by
            rw [show top = qn + f.p - 1 by omega, ← one]
            exact mul_le_mul_of_nonneg_right (by exact_mod_cast hwn2) hqp.le
          have h2 : (wn : ℚ) * 2 ^ qn < 2 ^ (top + 1) := by
            rw [show top + 1 = (f.p : Int) + qn by omega, two_zpow_add, zpow_natCast]
            exact mul_lt_mul_of_pos_right (by exact_mod_cast hlt) hqp
          constructor
          · intro h; exact ⟨two_zpow_lt.mp (lt_of_le_of_lt h1 h), fun h' => hc h'.2⟩
          · rintro ⟨h, -⟩; exact lt_of_lt_of_le h2 (two_zpow_le.mpr (by omega))
      rw [← hval]
      constructor
      · rintro ⟨q', r, h1, h2, h3, h4⟩
        have : q' = qn := by
          have a := two_zpow_lt.mp (lt_of_le_of_lt h1 hltn)
          have b := two_zpow_lt.mp (lt_of_le_of_lt hgen h2)
          omega
        subst this
        rw [roundsTo_unique h3 hroundn, abs_signedInt] at h4
        exact h4
      · intro h
        exact ⟨qn, _, hgen, hltn, hroundn, by rw [abs_signedInt]; exact h⟩
    -- the magnitude's fields
    have hE1 : 1 ≤ q - f.qmin + 1 := by omega
    obtain ⟨E, hE⟩ : ∃ E : Nat, (E : Int) = q - f.qmin + 1 := ⟨(q - f.qmin + 1).toNat, by omega⟩
    have hEq : (q - f.qmin + 1).toNat = E := by omega
    have hqpos : (0 : ℚ) < 2 ^ q := by positivity
    obtain ⟨ex, fr, hmag, hfr, hcarry⟩ : ∃ ex fr : Nat,
        (if w < 2 ^ (f.p - 1) then w else (q - f.qmin + 1).toNat * 2 ^ (f.p - 1) + (w - 2 ^ (f.p - 1))) = ex * 2 ^ (f.p - 1) + fr ∧
        fr < 2 ^ (f.p - 1) ∧
        ((w < 2 ^ (f.p - 1) ∧ q = f.qmin ∧ ex = 0 ∧ fr = w) ∨
          (2 ^ (f.p - 1) ≤ w ∧ w < 2 ^ f.p ∧ ex = E ∧ fr = w - 2 ^ (f.p - 1)) ∨ (w = 2 ^ f.p ∧ ex = E + 1 ∧ fr = 0)) := by
      by_cases h1 : w < 2 ^ (f.p - 1)
      · refine ⟨0, w, by simp [h1], h1, .inl ⟨h1, ?_, rfl, rfl⟩⟩
        by_contra h; have := hwfull h; omega
      · by_cases h2 : w < 2 ^ f.p
        · exact ⟨E, w - 2 ^ (f.p - 1), by simp [h1, hEq], by omega, .inr (.inl ⟨by omega, h2, rfl, rfl⟩)⟩
        · refine ⟨E + 1, 0, ?_, hPnat, .inr (.inr ⟨by omega, rfl, rfl⟩)⟩
          rw [if_neg h1, hEq, show w - 2 ^ (f.p - 1) = 2 ^ (f.p - 1) by omega]; ring
    have hval : ex = 0 ∧ (w : ℚ) * 2 ^ q = fr * 2 ^ f.qmin ∨
        1 ≤ ex ∧ (w : ℚ) * 2 ^ q = ((fr + 2 ^ (f.p - 1) : Nat) : ℚ) * 2 ^ (f.qmin + (ex - 1)) := by
      rcases hcarry with ⟨-, h2, h3, h4⟩ | ⟨h1, -, h3, h4⟩ | ⟨h1, h3, h4⟩
      · left; exact ⟨h3, by rw [h4, h2]⟩
      · right; refine ⟨by omega, ?_⟩
        rw [h4, show w - 2 ^ (f.p - 1) + 2 ^ (f.p - 1) = w by omega, h3]; congr 2; omega
      · right; refine ⟨by omega, ?_⟩
        rw [h4, h1, hPP, h3, Nat.zero_add]
        rw [show f.qmin + (((E + 1 : Nat) : Int) - 1) = 1 + q by push_cast; omega, two_zpow_add]; push_cast; ring
    have hover : f.infBits ≤ ex * 2 ^ (f.p - 1) + fr ↔ (2 : ℚ) ^ ((f.emax : Int) + 1) ≤ w * 2 ^ q := by
      have hinf : f.infBits ≤ ex * 2 ^ (f.p - 1) + fr ↔ 2 ^ f.eb - 1 ≤ ex := by
        rw [Fmt.infBits]
        constructor
        · intro h; by_contra hx
          have : (ex + 1) * 2 ^ (f.p - 1) ≤ (2 ^ f.eb - 1) * 2 ^ (f.p - 1) := Nat.mul_le_mul_right _ (by omega)
          rw [Nat.add_mul] at this; omega
        · intro h; exact le_trans (Nat.mul_le_mul_right _ h) (Nat.le_add_right _ _)
      rw [hinf]
      rcases hval with ⟨h0, h1⟩ | ⟨h0, h1⟩
      · constructor
        · intro h; omega
        · intro h; exfalso
          have : (fr : ℚ) * 2 ^ f.qmin < 2 ^ ((f.emax : Int) + 1) := by
            calc (fr : ℚ) * 2 ^ f.qmin < 2 ^ (f.p - 1) * 2 ^ f.qmin := mul_lt_mul_of_pos_right (by exact_mod_cast hfr) (by positivity)
              _ = 2 ^ (((f.p - 1 : Nat) : Int) + f.qmin) := by rw [two_zpow_add, zpow_natCast]
              _ ≤ _ := two_zpow_le.mpr (by omega)
          rw [← h1] at this; linarith
      · have hs : f.qmin + ((ex : Int) - 1) + (f.p - 1 : Nat) = ex - f.emax := by omega
        have lo : (2 : ℚ) ^ ((ex : Int) - f.emax) ≤ w * 2 ^ q := by
          rw [h1, ← hs, two_zpow_add, zpow_natCast, mul_comm]
          exact mul_le_mul_of_nonneg_right (by push_cast; linarith [(Nat.cast_nonneg fr : (0 : ℚ) ≤ fr)]) (by positivity)
        have hi : (w : ℚ) * 2 ^ q < (2 : ℚ) ^ ((ex : Int) - f.emax + 1) := by
          have e2 : (2 : ℚ) ^ ((ex : Int) - f.emax + 1) = 2 ^ (f.p - 1) * 2 * 2 ^ (f.qmin + ((ex : Int) - 1)) := by
            rw [← hs, two_zpow_add _ 1, two_zpow_add _ ((f.p - 1 : Nat) : Int), zpow_natCast, zpow_one]; ring
          rw [h1, e2]
          have : ((fr + 2 ^ (f.p - 1) : Nat) : ℚ) < 2 ^ (f.p - 1) * 2 := by
            have : fr + 2 ^ (f.p - 1) < 2 ^ (f.p - 1) * 2 := by omega
            exact_mod_cast this
          exact mul_lt_mul_of_pos_right this (by positivity)
        constructor
        · intro h
          have : (2 : Int) ^ f.eb - 1 ≤ ex := by
            have : 2 ^ f.eb ≤ ex + 1 := by omega
            have : (2 : Int) ^ f.eb ≤ ex + 1 := by exact_mod_cast this
            omega
          exact le_trans (two_zpow_le.mpr (by omega)) lo
        · intro h
          have := two_zpow_lt.mp (lt_of_le_of_lt h hi)
          have : (2 : Int) ^ f.eb ≤ ex + 1 := by omega
          have : 2 ^ f.eb ≤ ex + 1 := by exact_mod_cast this
          omega
    have hres : f.round mode neg m e = if f.infBits ≤ ex * 2 ^ (f.p - 1) + fr then
        (f.signed neg (if mode.overflowsUp neg then f.infBits else f.infBits - 1), Flags.of ||| Flags.nx)
      else (f.signed neg (ex * 2 ^ (f.p - 1) + fr), if (roundTo mode neg m e q).2 then 0
        else if (decide (top < emin) && !(top == emin - 1 && wn == 2 ^ f.p)) = true then Flags.uf ||| Flags.nx else Flags.nx) := by
      rw [← hmag]
      simp only [Fmt.round, if_neg hm, ← htop, ← hqn, ← hq, ← hemin, ← hw, ← hwn]
    have hdn : decide (v < 0) = neg := by cases neg <;> simp [hneg]
    refine ⟨q, signedInt neg w, le_max_right _ _, hfull, hltq, hround, ?_, ?_⟩
    · intro h
      rw [hsw] at h
      rw [hres, if_pos (hover.mpr h), hdn]
    · intro h
      rw [hsw] at h
      have hnot : ¬ f.infBits ≤ ex * 2 ^ (f.p - 1) + fr := fun hx => absurd (hover.mp hx) (not_le.mpr h)
      have hexlt : ex < 2 ^ f.eb - 1 := by
        by_contra hx
        exact hnot (le_trans (Nat.mul_le_mul_right _ (by omega)) (Nat.le_add_right _ _))
      rw [hres, if_neg hnot, hsv]
      refine ⟨?_, ?_, ?_, ?_⟩
      · have hd := Fmt.decode_signed hf neg ex fr hfr hexlt
        rcases hval with ⟨h0, h1⟩ | ⟨h0, h1⟩
        · refine ⟨neg, fr, f.qmin, by rw [hd, if_pos h0], ?_, fun _ => hdn.symm⟩
          simp only [valueOf]; rw [mul_assoc, mul_assoc, h1]
        · refine ⟨neg, fr + 2 ^ (f.p - 1), f.qmin + (ex - 1), by rw [hd, if_neg (by omega)], ?_, fun _ => hdn.symm⟩
          simp only [valueOf]; rw [mul_assoc, mul_assoc, h1]
      · intro hx; simp only [hexact.mpr hx, if_true]
      · intro hx ht
        have h1 : (roundTo mode neg m e q).2 ≠ true := fun h => hx (hexact.mp h)
        have h2 := htiny.mp ht
        simp only [h1, if_false, Bool.false_eq_true]
        rw [if_pos]
        simp only [Bool.and_eq_true, decide_eq_true_eq, Bool.not_eq_true', Bool.and_eq_false_iff, beq_eq_false_iff_ne]
        refine ⟨h2.1, ?_⟩
        by_contra hc; push_neg at hc; exact h2.2 hc
      · intro hx ht
        have h1 : (roundTo mode neg m e q).2 ≠ true := fun h => hx (hexact.mp h)
        simp only [h1, if_false, Bool.false_eq_true]
        rw [if_neg]
        intro hc
        simp only [Bool.and_eq_true, decide_eq_true_eq, Bool.not_eq_true', Bool.and_eq_false_iff, beq_eq_false_iff_ne] at hc
        exact ht (htiny.mpr ⟨hc.1, fun h => by rcases hc.2 with h' | h'; exact h' h.1; exact h' h.2⟩)

/-- The exact value of a sum of finite numbers. -/
def sumValue : List Num → ℚ
  | [] => 0
  | .fin n m e :: ts => valueOf n m e + sumValue ts
  | _ :: ts => sumValue ts

/-- A number in whole units of 2^q. -/
theorem scaled_value {q e : Int} (h : q ≤ e) (neg : Bool) (m : Nat) : ((scaled neg m e q : Int) : ℚ) * 2 ^ q = valueOf neg m e := by
  have hp : (2 : ℚ) ^ e = 2 ^ (e - q).toNat * 2 ^ q := by
    rw [← zpow_natCast, ← two_zpow_add]; congr 1; omega
  cases neg <;> simp [scaled, valueOf, hp] <;> ring

theorem leastExp_le : ∀ (ts : List Num) (q : Int), leastExp ts q ≤ q
  | [], q => le_refl q
  | .fin _ _ e :: ts, q => le_trans (leastExp_le ts _) (min_le_left _ _)
  | .nan _ :: ts, q => leastExp_le ts q
  | .inf _ :: ts, q => leastExp_le ts q

theorem sumFinite_value : ∀ (ts : List Num) (q0 q : Int), q ≤ leastExp ts q0 →
    ((sumFinite ts q : Int) : ℚ) * 2 ^ q = sumValue ts
  | [], _, _, _ => by simp [sumFinite, sumValue]
  | .fin n m e :: ts, q0, q, h => by
    have h1 : q ≤ e := le_trans h (le_trans (leastExp_le ts _) (min_le_right _ _))
    rw [sumFinite, sumValue, ← sumFinite_value ts (min q0 e) q h, ← scaled_value h1 n m]; push_cast; ring
  | .nan _ :: ts, q0, q, h => by rw [sumFinite, sumValue]; exact sumFinite_value ts q0 q h; all_goals simp
  | .inf _ :: ts, q0, q, h => by rw [sumFinite, sumValue]; exact sumFinite_value ts q0 q h; all_goals simp

/-- A sum of finite numbers is their exact sum rounded once (R56, R190). -/
theorem Fmt.sum_once {f : Fmt} (hf : f.Sound) (mode : Rounding) (ts : List Num) (h : ∀ t ∈ ts, ∃ n m e, t = .fin n m e) :
    RoundedOnce f mode (sumValue ts) (f.sum mode ts) := by
  have h1 : ts.any Num.isNan = false := by
    rw [List.any_eq_false]; intro t ht; obtain ⟨n, m, e, rfl⟩ := h t ht; simp [Num.isNan]
  have h2 : ∀ b, ts.any (· == .inf b) = false := by
    intro b; rw [List.any_eq_false]; intro t ht; obtain ⟨n, m, e, rfl⟩ := h t ht; simp
  set q := leastExp ts f.qmin with hq
  have hv := sumFinite_value ts f.qmin q (le_refl _)
  simp only [Fmt.sum, h1, h2, Bool.false_eq_true, if_false, ← hq]
  split
  · next h0 =>
    have := Fmt.round_once hf mode (zeroSign mode ts) 0 0
    rw [h0] at hv
    have hz : valueOf (zeroSign mode ts) 0 0 = sumValue ts := by rw [← hv]; simp [valueOf]
    rw [hz] at this
    simpa [Fmt.round] using this
  · next h0 =>
    have := Fmt.round_once hf mode (decide (sumFinite ts q < 0)) (sumFinite ts q).natAbs q
    have hz : valueOf (decide (sumFinite ts q < 0)) (sumFinite ts q).natAbs q = sumValue ts := by
      rw [← hv, valueOf]
      have : ((sumFinite ts q).natAbs : ℚ) = |(sumFinite ts q : ℚ)| := by rw [Nat.cast_natAbs]; push_cast; rfl
      rw [this]
      by_cases hn : sumFinite ts q < 0
      · have : (sumFinite ts q : ℚ) < 0 := by exact_mod_cast hn
        rw [abs_of_neg this]; simp [hn]
      · have : (0 : ℚ) ≤ (sumFinite ts q : ℚ) := by exact_mod_cast not_lt.mp hn
        rw [abs_of_nonneg this]; simp [hn]
    rwa [hz] at this

/-- A product of finite numbers is their exact product. -/
theorem mul_value (a b : Bool) (m n : Nat) (e g : Int) : valueOf (a != b) (m * n) (e + g) = valueOf a m e * valueOf b n g := by
  cases a <;> cases b <;> simp [valueOf, two_zpow_add] <;> ring

theorem negate_value (n : Bool) (m : Nat) (e : Int) : valueOf (!n) m e = -valueOf n m e := by
  cases n <;> simp [valueOf]

end Sys2Proof.Machine
end

