-- ==== Sys2Proof/Laws/Vector.lean ====
section
/-! SUPPORT. What the shared vector operations do, said once each: a value in every acting thread, a mask of threads in a scalar
register, flags, and the trap on an enabled flag. -/

namespace Sys2Proof.Machine

open Sys2Proof.Safety

/-- A vector word writes its value in every acting thread. -/
theorem vectorWord_go {u : Use} {s t : State} (h : Issues u s t) (d : BitVec 7) (f : State → Nat → W32) :
    vectorWord u d f s = .next (finish u (t.setVs d.toNat (f t) t.w.actingThreads)) := run_go h _

/-- Setting a register thread by thread from a list of results. -/
theorem foldl_setV (ts : List Nat) (f : Nat → W32 × Flags) (r : Nat) (a : Arch) :
    (ts.map (fun t => (t, f t))).foldl (fun (a : Arch) x => a.setV r x.1 x.2.1) a = a.setVs r (fun t => (f t).1) ts := by
  induction ts generalizing a with
  | nil => rfl
  | cons t ts ih => exact ih _

/-- A floating-point word writes value and flags in every acting thread. -/
theorem vectorFp_go {u : Use} {s t : State} (h : Issues u s t) (d : BitVec 7) (f : State → Nat → W32 × Flags) :
    vectorFp u d f s = .next (finishFlags u (t.w.actingThreads.map (fun th => (th, (f t th).2)))
      (t.setVs d.toNat (fun th => (f t th).1) t.w.actingThreads)) := by
  unfold vectorFp
  rw [issue_go h]
  simp only [foldl_setV, List.map_map]
  rfl

/-- A bit of a mask of threads. -/
theorem maskOf_bit (ts : List Nat) (i : Nat) : (maskOf ts).getLsbD i = (decide (i ∈ ts) && decide (i < 64)) := by
  have key : ∀ (ts : List Nat) (m : W64), (ts.foldl (fun m t => m ||| (1#64 <<< t)) m).getLsbD i =
      (m.getLsbD i || (decide (i ∈ ts) && decide (i < 64))) := by
    intro ts
    induction ts with
    | nil => simp
    | cons t ts ih =>
      intro m
      rw [List.foldl_cons, ih]
      simp only [BitVec.getLsbD_or, BitVec.getLsbD_shiftLeft, List.mem_cons]
      by_cases h1 : i < 64 <;> by_cases h2 : i = t
      · subst h2; simp [h1]
      · by_cases h3 : i < t
        · simp [h1, h2, h3]
        · have : i - t ≠ 0 := by omega
          simp [h1, h2, h3, this]
      · simp [h1]
      · simp [h1]
  unfold maskOf
  rw [key]
  simp

/-- A compare leaves the mask of the acting threads where its relation holds. -/
theorem vectorC_bit (w : Wave) (rel : Nat → Bool) (i : Nat) :
    (maskOf (w.actingThreads.filter rel)).getLsbD i = (decide (i ∈ w.actingThreads) && rel i) := by
  rw [maskOf_bit]
  by_cases h : i ∈ w.actingThreads
  · have := lt_of_mem_threadsOf h
    cases hr : rel i <;> simp [h, hr, this]
  · simp [h]

/-- A word that raises no enabled flag goes on. -/
theorem finishFlags_quiet {u : Use} {fs : List (Nat × Flags)} {s : State} (h : allRaised fs &&& s.w.fte = 0) :
    finishFlags u fs s = finish u (s.onArch (fun a => a.addFlags fs)) := by
  unfold finishFlags
  simp [h]

end Sys2Proof.Machine
end

