-- ==== Sys2Proof/Tests/Slice0.lean ====
section
/-! SUPPORT. Tests: words of the spec and the instructions they stand for, ill-formed terms and their refusal, single steps on a
small state, and for every obligation with hypotheses the states and operands that meet them. -/

namespace Sys2Proof.Tests

open Sys2Proof Sys2Proof.Machine Sys2Proof.Safety

set_option Elab.async false

/-! ### A small state -/

/-- The device in S3 with one supervisor wave of 16 threads, every register declared and zero, and the sequence table apart from its page. -/
def tState : State := { placeInstruction 0 State.reset with seqTable := 0x1000000 }

/-- The small state with its wave changed. -/
def tWave (f : Wave → Wave) : State := tState.onWave f

/-- The conditions of `Issues` but those of the ports, as a check. -/
def issueCheck (u : Use) (s : State) : Bool :=
  (s.w.a.pos.residue.left == 0 || u.covered) && !u.illegal && !s.w.queueIllegal u && (!u.supervisor || s.w.env.sup) &&
  (vectorRegs u).all (fun r => !s.w.badV r) && (scalarRegs u).all (fun r => !s.w.badS r) && !u.unbound && !s.w.portUnbound u &&
  (u.srcV.map (·.1) ++ u.oldV).all (fun r => !s.w.emptySource r) &&
  (u.srcS.map (·.1) ++ u.oldS ++ u.dstS).all (fun r => !s.w.emptyScalar r) &&
  u.dstV.all (fun r => !s.w.a.emptyV.getLsbD r) && (!u.irrevocable || (!s.w.speculative && s.w.txn.isNone)) &&
  (!u.async || s.w.txn.isNone) && (s.w.mode == 0 || s.w.accesses.all (fun x => !x.op.writes)) &&
  (match u.path with | none => true | some p => s.w.count p < 65535) &&
  (match s.w.txn with | some x => decide (x.log < 64 ∧ x.log + u.logged ≤ 64) | none => !s.w.speculative || decide (s.w.logUsed < 64 ∧ s.w.logUsed + u.logged ≤ 64)) &&
  (s.w.ports != 2#2 || u.dstV.all (fun r => !s.w.isPort r || decide (s.w.storeOcc (r - 124) < 16))) &&
  !s.w.atComparison u && !awaitsFollower s && (s.w.pairOk != 2#2 || u.both || (!u.irrevocable && !u.compare))

/-- A word that passes the check and whose ports' steps pass theirs issues. -/
theorem issues_of_check {u : Use} {s t : State} (h : issueCheck u s = true) (hp : takePorts (s.w.portSteps u) s = .go t)
    (hc : t.w.overCapacity = false) : Issues u s t := by
  simp only [issueCheck, Bool.and_eq_true, Bool.or_eq_true, Bool.not_eq_true', List.all_eq_true, beq_iff_eq, bne_iff_ne,
    decide_eq_true_eq] at h
  obtain ⟨⟨⟨⟨⟨⟨⟨⟨⟨⟨⟨⟨⟨⟨⟨⟨⟨⟨⟨h1, h2⟩, h3⟩, h4⟩, h5⟩, h6⟩, h7⟩, h8⟩, h9⟩, h10⟩, h11⟩, h12⟩, h13⟩, h14⟩, h15⟩, h16⟩, h17⟩, h18⟩, h19⟩, h20⟩ := h
  refine ⟨⟨h1, h2, h3⟩, ?_, ⟨h5, h6⟩, ⟨h7, h8⟩, ⟨h9, h10⟩, h11, ?_, ?_, ?_, ?_, ?_, ?_, hp, hc, ⟨h18, h19, ?_⟩⟩
  · intro hu; simpa [hu] using h4
  · intro hu; rcases h12 with h | h
    · rw [hu] at h; cases h
    · exact ⟨h.1, by simpa using h.2⟩
  · intro hu; rcases h13 with h | h
    · rw [hu] at h; cases h
    · simpa using h
  · rcases h14 with h | h
    · exact .inl h
    · exact .inr h
  · intro p hp; rw [hp] at h15; simpa using h15
  · cases hx : s.w.txn with
    | none =>
      rw [hx] at h16; refine ⟨fun hs _ => ?_, fun x h => by cases h⟩
      have h := (Bool.or_eq_true _ _).mp h16
      rcases h with h | h
      · rw [hs] at h; cases h
      · exact of_decide_eq_true h
    | some x =>
      rw [hx] at h16; refine ⟨fun _ h => (by cases h), fun y hy => ?_⟩
      cases hy; simpa using h16
  · intro hq r hr hp; rcases h17 with h | h
    · exact absurd hq h
    · rcases h r hr with h | h
      · rw [hp] at h; cases h
      · exact h
  · intro hp; rcases h20 with (h | h) | h
    · exact absurd hp h
    · exact .inl h
    · exact .inr h

/-- A word that passes the check and names no port. -/
def readyHere (p : Use × State) : Bool := issueCheck p.1 p.2 && (p.2.w.portSteps p.1).isEmpty && !p.2.w.overCapacity

/-- A word that names no port issues where it stands. -/
theorem issues_here {u : Use} {s : State} (h : readyHere (u, s) = true) : Issues u s s := by
  simp only [readyHere, Bool.and_eq_true, Bool.not_eq_true', List.isEmpty_iff] at h
  exact issues_of_check h.1.1 (by rw [h.1.2]; rfl) h.2

/-- Each word of the list issues where it stands. -/
def AllIssue (l : List (Use × State)) : Prop := ∀ p ∈ l, Issues p.1 p.2 p.2

theorem all_issue {l : List (Use × State)} (h : l.all readyHere = true) : AllIssue l :=
  fun _ hp => issues_here (List.all_eq_true.mp h _ hp)

/-! ### Hypotheses met: scalar and control words -/

theorem wit_ScalarThreeOperand :
    AllIssue [(useS3 0 126 127 true true, tState), ({ useS3 126 0 127 true true with oldS := [126] }, tState)] :=
  all_issue (by decide +kernel)

theorem wit_ScalarOneOperand :
    AllIssue [(useS1 127 0 true, tState), ({ dstS := [126] }, tState), ({ oldS := [0], dstS := [0] }, tState)] :=
  all_issue (by decide +kernel)

theorem wit_ExecMaskWords :
    AllIssue [({ dstS := [126] }, tState), ({ srcS := [(127, true)] }, tState), (useS1 0 126 true, tState)] ∧ tState.w.width ≤ 64 :=
  ⟨all_issue (by decide +kernel), by decide +kernel⟩

theorem wit_Branches : AllIssue [({}, tState), ({ srcS := [(127, true)] }, tState), ({ dstS := [127] }, tState)] :=
  all_issue (by decide +kernel)

theorem wit_RegisterJumps :
    AllIssue [({ srcS := [(0, true)] }, tState), ({ srcS := [(127, true)], dstS := [127] }, tState), ({ oldS := [127] }, tState)] ∧
      badTarget tState.w 0x10040 = false ∧ badTarget tState.w 0x10ffc = false ∧
      badTarget tState.w 0x1003c = true ∧ badTarget tState.w 0x11000 = true ∧ badTarget tState.w 0x10042 = true :=
  ⟨all_issue (by decide +kernel), by decide +kernel⟩

/-- The small state in its trap handler. -/
def tHandler : State := tWave (fun w => { w with trcause := 0x10004 })

/-- What SMTR asks of a special register. -/
def useSmtr (a : Nat) (n : Nat) : Use := { srcS := [(a, true)], irrevocable := decide (sprWrite n ≠ .revocable), both := true }

theorem wit_SpecialRegisters :
    AllIssue [({ dstS := [0], supervisor := sprSupervisor 0x000 }, tState), ({ dstS := [127], supervisor := sprSupervisor 0x104 }, tState),
      ({ dstS := [126] }, tState), (useSmtr 0 0x00c, tState), (useSmtr 126 0x006, tState), (useSmtr 0 0x011, tHandler),
      ({ srcS := [(0, true)], supervisor := sprSupervisor 0x001 }, tState), ({ srcS := [(0, true)], supervisor := sprSupervisor 0x104 }, tState)] ∧
      sprValue tState tState.w 0x000 = some 0xffff ∧ sprValue tState tState.w 0x104 = some 0 ∧
      ((sprValue tState tState.w 0x00c).isSome = true ∧ sprWrite 0x00c = .revocable) ∧
      ((sprValue tState tState.w 0x006).isSome = true ∧ sprWrite 0x006 = .irrevocable ∧ tState.w.count 3 = 0 ∧
        gangOk tState.w (tState.sreg 126 &&& 0x0000ffffffffffff#64) = true) ∧
      ((sprValue tHandler tHandler.w 0x011).isSome = true ∧ sprWrite 0x011 = .handlerOnly ∧ tHandler.w.inHandler = true) ∧
      (sprValue tState tState.w 0x001).isSome = true ∧ sprWrite 0x001 = .readOnly ∧ sprWrite 0x104 = .readOnly :=
  ⟨all_issue (by decide +kernel), by decide +kernel⟩

/-- The small state with two scalar loads outstanding, s1 = 1, s2 = 2, and registers v3 and s3 empty. -/
def tLoads : State := tWave (fun w => { w with
  flight := [⟨0, 0, false⟩, ⟨0, 1, false⟩], a := { w.a with s := [(1, 1), (2, 2)], emptyV := 8, emptyS := 8 } })

theorem wit_WaveControl :
    AllIssue [({}, tState), ({ srcS := [(0, true)], irrevocable := true, both := true }, tState),
      ({ srcS := [(1, true)], irrevocable := true, both := true }, tLoads), ({ srcS := [(2, true)] }, tLoads), ({ srcS := [(1, true)] }, tLoads),
      ({}, tLoads)] ∧
      tState.sreg 0 = 0 ∧ tLoads.sreg 1 ≠ 0 ∧ tLoads.w.count 0 ≤ (tLoads.sreg 2).toNat ∧
      (tLoads.sreg 1).toNat < tLoads.w.count 0 ∧ tLoads.w.count 7 ≤ (tLoads.sreg 1).toNat ∧
      tLoads.w.isPort 3 = false ∧ tLoads.w.badV 3 = false ∧ tLoads.w.a.emptyV.getLsbD 3 = true ∧
      tLoads.w.isPort 127 = false ∧ tLoads.w.badV 127 = false ∧ tLoads.w.a.emptyV.getLsbD 127 = false ∧
      tLoads.w.badS 3 = false ∧ tLoads.w.a.emptyS.getLsbD 3 = true ∧ tLoads.w.badS 127 = false ∧ tLoads.w.a.emptyS.getLsbD 127 = false :=
  ⟨all_issue (by decide +kernel), by decide +kernel⟩

theorem wit_SoftwareTraps :
    AllIssue [({ irrevocable := true, both := true }, tState), ({ irrevocable := true, both := true }, tHandler)] ∧
      tState.w.txn = none ∧ tState.w.speculative = false ∧ tHandler.w.inHandler = true :=
  ⟨all_issue (by decide +kernel), by decide +kernel⟩

/-- The small state with a user handler declared. -/
def tUser : State := tWave (fun w => { w with env := { w.env with trap := 0x80 } })

theorem wit_HandlerEntry :
    (0x11#8 ∈ [0x04#8, 0x0c#8, 0x10#8, 0x11#8] ∧ tUser.w.env.trap ≠ 0 ∧ tUser.w.inHandler = false) ∧
      ¬ (0x01#8 ∈ [0x04#8, 0x0c#8, 0x10#8, 0x11#8] ∧ tUser.w.env.trap ≠ 0 ∧ tUser.w.inHandler = false) ∧
      ¬ (0x11#8 ∈ [0x04#8, 0x0c#8, 0x10#8, 0x11#8] ∧ tState.w.env.trap ≠ 0 ∧ tState.w.inHandler = false) := by decide +kernel

/-- The small state outside a supervisor launch, with 16 vector and 16 scalar registers, v3 and s3 empty, and a prefix open. -/
def tNarrow (left : Nat) (ports : BitVec 2) : State := tWave (fun w => { w with
  vregs := 16, sregs := 16, ports := ports, env := { w.env with sup := false },
  a := { w.a with emptyV := 8, emptyS := 8, pos := { w.a.pos with residue := { w.a.pos.residue with left := left } } } })

theorem wit_EarlyTrapOrder :
    (tNarrow 1 0).w.txn = none ∧ (tNarrow 1 0).w.speculative = false ∧ (tNarrow 1 0).w.a.pos.residue.left ≠ 0 ∧
      (tNarrow 0 0).w.a.pos.residue.left = 0 ∧ (tNarrow 0 0).w.env.sup = false ∧ (tNarrow 0 0).w.queueIllegal {} = false ∧
      (tNarrow 0 0).w.badV 16 = true ∧ (tNarrow 0 0).w.badV 15 = false ∧ (tNarrow 0 0).w.badS 15 = true ∧ (tNarrow 0 0).w.badS 14 = false ∧
      (tNarrow 0 1).w.portUnbound { srcV := [(124, true)] } = true ∧ (tNarrow 0 1).w.badV 124 = false ∧
      (tNarrow 0 1).w.queueIllegal { srcV := [(124, true)] } = false ∧ (tNarrow 0 0).w.portUnbound {} = false ∧
      (tNarrow 0 0).w.emptySource 3 = true ∧ (tNarrow 0 0).w.emptySource 2 = false ∧
      (tNarrow 0 0).w.emptyScalar 3 = true ∧ (tNarrow 0 0).w.badV 3 = false ∧ (tNarrow 0 0).w.badS 3 = false := by decide +kernel

/-! ### Hypotheses met: vector words -/

/-- A word whose ports' steps pass, as a check. -/
def portCheck (u : Use) (s : State) : Bool :=
  issueCheck u s && (match takePorts (s.w.portSteps u) s with | .go t => !t.w.overCapacity | _ => false)

/-- A word that passes the check issues, its ports a step on. -/
theorem issues_somewhere {u : Use} {s : State} (h : portCheck u s = true) : ∃ t, Issues u s t := by
  simp only [portCheck, Bool.and_eq_true] at h
  cases hp : takePorts (s.w.portSteps u) s with
  | go t => rw [hp] at h; exact ⟨t, issues_of_check h.1 hp (by simpa using h.2)⟩
  | _ => rw [hp] at h; simp at h

/-- Each word of the list issues from a state. -/
theorem some_issue {l : List Use} {s : State} (h : l.all (portCheck · s) = true) : ∀ u ∈ l, ∃ t, Issues u s t :=
  fun _ hu => issues_somewhere (List.all_eq_true.mp h _ hu)

/-- A handle-table entry over the placed page, of a space and with permissions. -/
def tEntry (space perms : Nat) : BitVec 256 := BitVec.ofNat 256 (0x10000 + 0xfff * 2 ^ 64 + space * 2 ^ 112 + perms * 2 ^ 116)

/-- The small state with handles over the placed page: all permissions, writes alone, a slab window, host space, a reserved entry, all but
writes; offsets in s1 to s3 and past the page in s60, v1[t] = 4 t, and format slots 0 (E4M3), 1 (T6), 2 (I8), 3 (reserved). -/
def tMem : State := tWave (fun w => { w with
  env := { w.env with handles := [tEntry 0 15, tEntry 0 2, tEntry 6 15, tEntry 4 15, 1 <<< 192, tEntry 0 13], slots := [2, 0x10, 4, 0xf] }
  a := { w.a with s := [(1, 0x100), (2, 0xff8), (3, 0x104), (60, 0x1000)], v := (List.range 15).map (fun t => (65 + t, BitVec.ofNat 32 (4 * t + 4))) } })

/-- Step 0 of port 0, as its engine has fetched it: the first 64 bytes of the placed page. -/
def tFetched : Access := {
  seq := 2 ^ 40, path := 0, space := 0, policy := 0, pinclass := 0, byp := false, handle := 0, op := .fetch 124 0
  elems := [{ thread := 0, va := 0x10000, locs := (List.range 64).map (0x10000 + ·), data := [], cmp := [], fwd := [],
              got := (List.range 64).map (fun i => (0x10000 + i, BitVec.ofNat 8 i)) }]
  reqs := [], queue := none, log := 0, returned := true, left := true, poisoned := none, word := 0, inst := 0, snap := Arch.zero, pending := none }

/-- The same in stream mode, port 0 bound for reads with its first step fetched and port 1 for writes. -/
def tStream : State := tMem.onWave (fun w => { w with
  ports := 1, vregs := 124, aside := [tFetched]
  a := { w.a with streams := [(0, { StreamPort.unbound with bound := true, size := 2, tstride := 4, count := 4, sstride := 64 }),
    (1, { StreamPort.unbound with bound := true, dir := true, size := 2, tstride := 4, count := 4, sstride := 64 })] } })

/-- The small state with no thread in exec. -/
def tNone : State := tMem.onArch (fun a => { a with exec := 0 })

theorem wit_VectorInteger :
    AllIssue [(useV3 0 126 127 true true, tState), (useVS 0 126 127 true true, tState), (useV1 127 0 true, tState),
      ({ covered := true, srcS := [(127, true)], dstV := [0] }, tState), ({ covered := true, dstV := [127] }, tState)] ∧
      ∀ u ∈ [useV3 125 124 0 true true, useVS 125 124 1 true true, useV1 0 124 true, { covered := true, dstV := [125] }],
        ∃ t, Issues u tStream t :=
  ⟨all_issue (by decide +kernel), some_issue (by decide +kernel)⟩

theorem wit_VectorCompares : AllIssue [(useVC 127 0 126 true true, tState)] ∧ ∃ t, Issues (useVC 1 124 0 true true) tStream t :=
  ⟨all_issue (by decide +kernel), issues_somewhere (by decide +kernel)⟩

/-- The stream state with s5 naming its port register v125. -/
def tIndexed : State := tStream.onArch (fun a => { a with s := a.s ++ [(5, 125)] })

theorem wit_IndexedRegisters :
    AllIssue [(useVwrx tMem 126 0 true true, tMem), (useVrdx tMem 127 0 true true, tMem)] ∧
      (∀ r ∈ [0, 1], tMem.w.badS r = false ∧ tMem.w.a.emptyS.getLsbD r = false) ∧
      (tIndexed.w.badS 5 = false ∧ tIndexed.w.a.emptyS.getLsbD 5 = false ∧ tIndexed.w.isPort (tIndexed.sreg 5).toNat = true) ∧
      tMem.w.isPort (tMem.sreg 1).toNat = false ∧ 128 ≤ (tMem.sreg 1).toNat ∧
      tMem.w.queueIllegal (useVwrx tMem 126 1 true true) = false ∧ tMem.w.queueIllegal (useVrdx tMem 127 1 true true) = false :=
  ⟨all_issue (by decide +kernel), by decide +kernel⟩

theorem wit_FloatingPoint :
    AllIssue [(useV3 0 126 127 true true, tState), (useVS 127 0 126 true true, tState), ({ useV3 0 1 2 true true with oldV := [0] }, tState),
      ({ useVS 127 0 126 true true with oldV := [127] }, tState)] ∧
      (f32.decode (0x3fc00000 : W32).toNat = .fin false 0xc00000 (-23) ∧ f32.decode (0x80000000 : W32).toNat = .fin true 0 (-149)) ∧
      (f16.decode 0x3e00 = .fin false 0x600 (-10) ∧ bf16.decode 0x3fc0 = .fin false 0xc0 (-7)) ∧
      (∀ i < 2, f16.decode (half 0x3e003e00 i) = .fin false 0x600 (-10)) ∧ (∀ i < 2, bf16.decode (half 0x3fc03fc0 i) = .fin false 0xc0 (-7)) ∧
      ∀ x y z : Nat, ((fun (_ _ _ : Nat) => ((0x7e00 : Nat), (0 : Flags))) x y z).1 < 2 ^ 16 :=
  ⟨all_issue (by decide +kernel), by decide +kernel, by decide +kernel, by decide +kernel, by decide +kernel, fun _ _ _ => by norm_num⟩

theorem wit_FloatingCompares :
    AllIssue [(useVC 0 126 127 true true, tState)] ∧ (0x7fc00000#32).extractLsb' 23 8 = 0xff#8 ∧ (0x7fc00000#32).extractLsb' 0 23 ≠ 0 ∧
      (0x7fc00000#32).getLsbD 22 = true ∧ (0x7f800001#32).extractLsb' 23 8 = 0xff#8 ∧ (0x7f800001#32).extractLsb' 0 23 ≠ 0 ∧
      (0x7f800001#32).getLsbD 22 = false ∧ ¬ (0x7f800000#32).extractLsb' 0 23 ≠ 0 ∧
      (f32.decode (0x80000000 : W32).toNat = .fin true 0 (-149) ∧ f32.decode (0 : W32).toNat = .fin false 0 (-149)) ∧
      f32.decode (0x7f800000 : W32).toNat = .inf false ∧ f32.decode (0xff800000 : W32).toNat = .inf true :=
  ⟨all_issue (by decide +kernel), by decide +kernel⟩

theorem wit_FlagTrap :
    tState.w.txn = none ∧ tState.w.accesses = [] ∧ allRaised [(0, Flags.nx)] &&& tState.w.fte = 0 ∧
      (tWave (fun w => { w with fte := 0x1f })).w.txn = none ∧ (tWave (fun w => { w with fte := 0x1f })).w.accesses = [] ∧
      allRaised [(15, Flags.nv)] &&& (tWave (fun w => { w with fte := 0x1f })).w.fte ≠ 0 := by decide +kernel

theorem wit_Conversions :
    AllIssue [(useV1 0 127 true, tMem), ({ useV1 126 0 true with oldV := [126] }, tMem)] ∧
      (slotReserved (tMem.w.slotDesc 0) = false ∧ Element.ofSlot (tMem.w.slotDesc 0) = some .e4m3 ∧ Element.e4m3.bits = 8) ∧
      slotReserved (tMem.w.slotDesc 7) = false ∧ Element.ofSlot (tMem.w.slotDesc 1) = some .t6 ∧ slotReserved (tMem.w.slotDesc 1) = false :=
  ⟨all_issue (by decide +kernel), by decide +kernel⟩

/-- F32 numbers and codes of each kind, and numbers at, between, below and beyond the codes of T6. -/
theorem wit_Conversions_values :
    (f32.decode (0x3f800000 : W32).toNat = .fin false 0x800000 (-23) ∧ f32.decode (0xff800000 : W32).toNat = .inf true ∧
      f32.decode (0x7f800001 : W32).toNat = .nan true ∧ f32.decode (0x7fc00000 : W32).toNat = .nan false) ∧
    (Element.e4m3.decode 0x38 = .fin false 8 (-3) ∧ Element.e5m2.decode 0x7c = .inf false ∧ Element.e4m3.decode 0x7f = .nan false) ∧
    (f32.decode (0 : W32).toNat = .fin false 0 (-149) ∧ valueOf false 0 (-149) = 0) ∧
    (f32.decode (0x44000000 : W32).toNat = .fin false 0x800000 (-14) ∧ (2 : ℚ) ^ (2 * 6 - 4) < valueOf false 0x800000 (-14)) ∧
    (f32.decode (0x3b000000 : W32).toNat = .fin false 0x800000 (-32) ∧ 0 < valueOf false 0x800000 (-32) ∧
      valueOf false 0x800000 (-32) < 1 / (2 : ℚ) ^ (2 * 6 - 4)) ∧
    taperedValue 6 16 = valueOf false 0x800000 (-23) ∧
    (f32.decode (0x3f880000 : W32).toNat = .fin false 0x880000 (-23) ∧ taperedValue 6 16 < valueOf false 0x880000 (-23) ∧
      valueOf false 0x880000 (-23) < taperedValue 6 (16 + 1)) := by
  have h16 : taperedValue 6 16 = 1 := by
    have h : taperedDecode 6 16 = .fin false 4 (-2) := by decide +kernel
    simp only [taperedValue, h]; norm_num [valueOf]
  have h17 : taperedValue 6 (16 + 1) = 5 / 4 := by
    have h : taperedDecode 6 (16 + 1) = .fin false 5 (-2) := by decide +kernel
    simp only [taperedValue, h]; norm_num [valueOf]
  rw [h16, h17]
  and_intros <;> decide +kernel

theorem wit_IntegerElements :
    ((0xffc00000#32).extractLsb' 23 8 = 0xff#8 ∧ (0xffc00000#32).extractLsb' 0 23 ≠ 0) ∧ f32.decode 0xff800000 = .inf true ∧
      f32.decode 0x7f800000 = .inf false ∧ f32.decode 0xc3000000 = .fin true 0x800000 (-16) ∧ f32.decode 0x3fc00000 = .fin false 0xc00000 (-23) ∧
      (let v : ℚ := 1 * (0xc00000 : ℚ) * (2 : ℚ) ^ (-23 : Int)
       |v - (2 : Int)| ≤ 1 / 2 ∧ (|v - (2 : Int)| = 1 / 2 → (2 : Int) % 2 = 0) ∧ ⌊v⌋ = 1 ∧ ⌈v⌉ = 2) := by
  iterate 5 refine ⟨by decide +kernel, ?_⟩
  have hv : (1 : ℚ) * (0xc00000 : ℚ) * (2 : ℚ) ^ (-23 : Int) = 3 / 2 := by norm_num
  simp only [hv]
  refine ⟨by norm_num, by norm_num, ?_, ?_⟩
  · rw [Int.floor_eq_iff]; norm_num
  · rw [Int.ceil_eq_iff]; norm_num

theorem wit_CrossLane :
    AllIssue [(useV3 0 126 127 true true, tState), (useV1 0 127 true, tState),
      ({ covered := true, srcV := [(127, true)], dstS := [126] }, tState),
      ({ covered := true, srcV := [(0, true)], oldV := [125, 126, 127], dstV := [125, 126, 127] }, tState),
      ({ covered := true, srcV := [(125, true), (126, true), (127, true)], dstV := [0] }, tState)] ∧ tState.w.rangeHitsPort 125 3 = false :=
  ⟨all_issue (by decide +kernel), by decide +kernel⟩

/-- A transcendental word, and the small state with it at its unit. -/
def tOp (started : Bool) : TransOp :=
  { wave := 0, seq := 0, fn := 0, d := 127, mode := 0, operand := [(0, 0x3f800000), (15, 0)], word := 0, inst := 0, started := started }
def tUnit (started : Bool) : State := tState.onCore 0 (fun c => { c with trans := [(0, [tOp started])] })

theorem wit_Transcendentals :
    AllIssue [({ useV1 127 0 true with late := true }, tNone), ({ useV1 127 0 true with late := true }, tState)] ∧
      tNone.w.acting = 0 ∧ tState.w.acting ≠ 0 ∧ tState.w.isPort 127 = false ∧
      look [] ((tUnit false).core 0).trans 0 = [tOp false] ∧ (tOp false).started = false :=
  ⟨all_issue (by decide +kernel), by decide +kernel⟩

/-! ### Hypotheses met: memory words -/

/-- A memory word's own conditions, as a check. -/
def accessCheck (m : MemWord) (s t : State) : Bool :=
  !m.offs.isEmpty && decide (refusedOf t t.w.core < 64) && (m.op.writes || !t.w.writePending) &&
  (match checkAccess t.w (.core t.w.core) m.handle m.kind m.n m.align m.offs t with
  | (t', .ok h places) => !h.remote && !guardHoldsAccess s s.w h m.handle m.op.writes && !(m.elems t' places).isEmpty &&
      decide (t'.w.count (memPath h m.op) < 65535) && !(addAccess (m.access t' h places) t').w.overCapacity
  | _ => false)

/-- A memory word that passes the check makes its access. -/
theorem accesses_of_check {m : MemWord} {s t : State} (h : accessCheck m s t = true) : ∃ t' hd places, Accesses m s t t' hd places := by
  simp only [accessCheck, Bool.and_eq_true] at h
  obtain ⟨⟨⟨h1, h2⟩, hw⟩, h3⟩ := h
  split at h3
  case h_2 => cases h3
  case h_1 t' hd places hc =>
    simp only [Bool.and_eq_true, Bool.not_eq_true', decide_eq_true_eq] at h3
    obtain ⟨⟨⟨⟨h4, h5⟩, h6⟩, h7⟩, h8⟩ := h3
    refine ⟨t', hd, places, ⟨by simpa using h1, by simpa using h2, by simpa using hw, hc, fun hr => ?_, h5, by simpa using h6, h7, h8⟩⟩
    rw [h4] at hr; cases hr

/-- Each memory word of the list makes its access. -/
def AllAccess (l : List (MemWord × State)) : Prop := ∀ p ∈ l, ∃ t' hd places, Accesses p.1 p.2 p.2 t' hd places

theorem all_access {l : List (MemWord × State)} (h : l.all (fun p => accessCheck p.1 p.2 p.2) = true) : AllAccess l :=
  fun _ hp => accesses_of_check (List.all_eq_true.mp h _ hp)

/-- A scalar load and store of eight bytes through handle 0 at s2. -/
def mSldd : MemWord := {
  handle := 0, byp := false, kind := .load, n := 8, align := 8, op := .loadS 126 8 false, offs := [(64, (tMem.sreg 2).toNat)], dstS := [126] }
def mSstd : MemWord := {
  handle := 0, byp := true, kind := .store, n := 8, align := 8, op := .store, offs := [(64, (tMem.sreg 2).toNat)]
  data := fun _ => bytesOfNat (tMem.sreg 126).toNat 8 }

theorem wit_ScalarMemory :
    AllIssue [({ srcS := [(2, true)], dstS := [126], late := true }, tMem), ({ srcS := [(2, true), (126, true)] }, tMem),
      ({ srcS := [(3, true)], dstS := [126], late := true }, tMem), ({ srcS := [(60, true)], dstS := [126], late := true }, tMem),
      ({ srcS := [(3, true), (126, true)] }, tMem), ({ srcS := [(60, true), (126, true)] }, tMem)] ∧ AllAccess [(mSldd, tMem), (mSstd, tMem)] ∧
      refusedOf tMem tMem.w.core < 64 ∧ tMem.w.env.handle 4 = none ∧ tMem.w.env.handle 63 = none ∧
      tMem.w.env.handle 1 = some (Handle.ofEntry (tEntry 0 2)) ∧ (Handle.ofEntry (tEntry 0 2)).space = 0 ∧
      (Handle.ofEntry (tEntry 0 2)).rd = false ∧ tMem.w.env.handle 0 = some (Handle.ofEntry (tEntry 0 15)) ∧
      (Handle.ofEntry (tEntry 0 15)).rd = true ∧ (Handle.ofEntry (tEntry 0 15)).wr = true ∧ tMem.w.txn = none ∧ tMem.w.writePending = false ∧
      tMem.w.env.handle 5 = some (Handle.ofEntry (tEntry 0 13)) ∧ (Handle.ofEntry (tEntry 0 13)).wr = false ∧ (tMem.sreg 3).toNat % 8 ≠ 0 ∧
      (tMem.sreg 60).toNat % 8 = 0 ∧ (Handle.ofEntry (tEntry 0 15)).limit < (tMem.sreg 60).toNat + 8 - 1 :=
  ⟨all_issue (by decide +kernel), all_access (by decide +kernel), by decide +kernel⟩

/-- The acting threads of the small state with the offset each has in a register, and that of the lowest. -/
def tOffs (r : Nat) : List (Nat × Nat) := tMem.w.actingThreads.map (fun th => (th, (tMem.vreg r th).toNat))
def mVldq : MemWord := {
  handle := 0, byp := false, kind := .load, n := 16, align := 16, op := .loadV 124 16 false, offs := tOffs 0, dstV := regsFrom 124 4 }
def mVstw : MemWord := {
  handle := 0, byp := false, kind := .store, n := 4, align := 4, op := .store, offs := tOffs 1, data := vectorData tMem 127 1 4 }
def mVldl : MemWord := {
  handle := 0, byp := false, kind := .load, n := 128, align := 128, op := .loadL 126, offs := (tOffs 0).take 1, line := true
  dstV := regsFrom 126 (lineRegs tMem) }
def mVstl : MemWord := {
  handle := 0, byp := false, kind := .store, n := 128, align := 128, op := .store, offs := (tOffs 0).take 1, line := true
  data := fun th => (regsFrom 126 (lineRegs tMem)).flatMap (fun r => bytesOfNat (tMem.vreg r th).toNat 4) }

theorem wit_VectorMemory :
    AllIssue [({ covered := true, srcV := [(0, true)], dstV := regsFrom 124 4, late := true }, tMem),
      ({ covered := true, srcV := [(0, true)], dstV := regsFrom 124 4, late := true }, tNone),
      ({ covered := true, srcV := (1, true) :: (regsFrom 127 1).map (fun r => (r, true)) }, tMem),
      ({ covered := true, srcV := (1, true) :: (regsFrom 127 1).map (fun r => (r, true)) }, tNone),
      ({ covered := true, srcV := [(0, true)], dstV := regsFrom 126 (lineRegs tMem), late := true }, tMem),
      ({ covered := true, srcV := (0, true) :: (regsFrom 126 (lineRegs tMem)).map (fun r => (r, true)) }, tMem)] ∧
      AllAccess [(mVldq, tMem), (mVstw, tMem), (mVldl, tMem), (mVstl, tMem)] ∧ tNone.w.actingThreads = [] ∧
      ∀ s ∈ [tMem, tNone], badGroup s 124 4 = false ∧ badGroup s 127 1 = false ∧ badGroup s 126 (lineRegs s) = false :=
  ⟨all_issue (by decide +kernel), all_access (by decide +kernel), by decide +kernel⟩

/-- A scalar AADD of eight bytes, a vector ACAS of sixteen, a RADD. -/
def mAadd : MemWord := {
  handle := 0, byp := false, kind := .atomic 0 1, n := 8, align := 8, op := .atomic 0 126 1 true, offs := [(64, (tMem.sreg 1).toNat)]
  data := fun _ => scalarData tMem 126 1 8, cmp := fun _ => scalarData tMem 126 1 8, dstV := [], dstS := regsFrom 126 1 }
def mAcas : MemWord := {
  handle := 0, byp := false, kind := .atomic 9 2, n := 16, align := 16, op := .atomic 9 124 2 false, offs := tOffs 0
  data := vectorData tMem 120 4 16, cmp := vectorData tMem 116 4 16, dstV := regsFrom 124 4, dstS := [] }
def mRadd : MemWord := {
  handle := 0, byp := false, kind := .reduce, n := 4, align := 4, op := .reduce 0, offs := tOffs 1, data := vectorData tMem 127 1 4 }

theorem wit_Atomics :
    AllIssue [
      ({ words := 2, late := true, compare := true, srcS := (1, true) :: (regsFrom 126 1).map (fun r => (r, true)), srcV := [],
         dstS := regsFrom 126 1, dstV := [] }, tMem),
      ({ words := 2, late := true, compare := true, srcS := [], dstS := [], dstV := regsFrom 124 4,
         srcV := (0, true) :: ((regsFrom 120 4).map (fun r => (r, true)) ++ (regsFrom 116 4).map (fun r => (r, true))) }, tMem),
      ({ covered := true, srcV := [(1, true), (127, true)] }, tMem)] ∧
      AllAccess [(mAadd, tMem), (mAcas, tMem), (mRadd, tMem)] ∧ widthOk 0 1 = true ∧ widthOk 9 2 = true ∧
      badAtomicReg tMem 1 true 126 = false ∧ (∀ r ∈ [116, 120, 124], badAtomicReg tMem 2 false r = false) ∧ (2 ^ 32 - 1 : Nat) < 2 ^ (8 * 4) ∧
      (f32.decode 0x3fc00000 = .fin false 0xc00000 (-23) ∧ f32.decode 0x7fc00000 = .nan false ∧ f32.decode 0xff800000 = .inf true) ∧
      bf16.decode 0x3fc0 = .fin false 0xc0 (-7) ∧ bf16.decode 0x7fc0 = .nan false ∧ bf16.decode 0xff80 = .inf true :=
  ⟨all_issue (by decide +kernel), all_access (by decide +kernel), by decide +kernel⟩

theorem wit_StorePerformed : ([0, 1, 2, 3] : List Nat).Nodup ∧ ([1, 2, 3, 4] : List Byte).length = ([0, 1, 2, 3] : List Nat).length ∧
    Memory.wf State.reset.mem = true ∧ AccessOp.port.writes = false := by decide +kernel

/-! ### Hypotheses met: ports, Whorl words, transactions, barriers -/

/-- The small state in queue mode, with a store queue and a load queue free, s1 naming queue 2 and s5 queue 3, bound. -/
def tQueue : State := tMem.onWave (fun w => { w with
  ports := 2, vregs := 124
  a := { w.a with s := [(0, 0x00000200_00000000), (5, 3), (16, 0), (21, 0x00000c00_00000000)], queues := [(3, { QueuePort.unbound with bound := true })] } })

/-- The stream state with s0 binding port 0 for reads, s8 port 3 for writes, s16 past a count of 4 on port 0, s20 port 2. -/
def tBind : State := tStream.onArch (fun a => { a with
  s := [(8, 0xe000000000000000), (16, 5), (17, 4), (20, 0x8000000000000000), (21, 0x1800000000000000)] })

/-- The full handle of the placed page. -/
def tFull : Handle := Handle.ofEntry (tEntry 0 15)

theorem wit_PortWords :
    AllIssue [({ useStream tBind 8 true 3 with illegal := reservedSize tBind 8 59 }, tBind),
      ({ useStream tBind 0 true 3 with illegal := reservedSize tBind 0 59 }, tBind), (useStream tBind 16 true 1, tBind),
      (useStream tBind 17 true 1, tBind), (useStream tBind 20 true 1, tBind),
      ({ useQueue tQueue 0 true 3 with groupS := regsFrom 0 6, illegal := reservedSize tQueue 0 42 }, tQueue),
      ({ useQueue tQueue 16 true 3 with groupS := regsFrom 16 6, illegal := reservedSize tQueue 16 42 }, tQueue), (useQueue tQueue 5 true 1, tQueue),
      (useQueue tQueue 16 true 1, tQueue)] ∧
      (tBind.w.env.handle 0 = some tFull ∧ tFull.wr = true ∧ tFull.rd = true ∧ (tBind.sreg 8).extractLsb' 59 2 ≠ 3#2 ∧
        (tBind.sreg 8).getLsbD 61 = true ∧ (tBind.sreg 0).extractLsb' 59 2 ≠ 3#2 ∧ (tBind.sreg 0).getLsbD 61 = false) ∧
      ((tBind.w.a.stream 0).bound = true ∧ (tBind.w.a.stream 0).count.toNat < ((tBind.sreg 16).extractLsb' 0 32).toNat ∧
        ((tBind.sreg 17).extractLsb' 0 32).toNat ≤ (tBind.w.a.stream 0).count.toNat ∧ portOf (tBind.sreg 17) = 0 ∧
        portOf (tBind.sreg 20) = 2 ∧ (tBind.w.a.stream 2).bound = false) ∧
      (tQueue.w.env.handle 0 = some tFull ∧ (tQueue.sreg 0).extractLsb' 42 2 ≠ 3#2 ∧ ((tQueue.sreg 0).extractLsb' 40 2).toNat = 2 ∧
        tQueue.w.emptyScalar 3 = false ∧ tQueue.w.storeOcc 2 = 0 ∧ ((tQueue.sreg 16).extractLsb' 40 2).toNat = 0) ∧
      (tBind.w.badS 21 = false ∧ tBind.w.emptyScalar 21 = false ∧ (tBind.sreg 21).extractLsb' 59 2 = 3#2) ∧
      (tQueue.w.badS 21 = false ∧ tQueue.w.emptyScalar 21 = false ∧ (tQueue.sreg 21).extractLsb' 42 2 = 3#2) ∧
      (tQueue.sreg 5).toNat % 4 = 3 ∧ (tQueue.w.a.queue 3).bound = true ∧ tQueue.w.storeOcc 3 = 0 ∧ (tQueue.w.a.queue 0).bound = false :=
  ⟨all_issue (by decide +kernel), by decide +kernel⟩

/-- The places of a check that passes. -/
def okPlaces : State × Checked → List Place
  | (_, .ok _ ps) => ps
  | _ => []

/-- A check passes with a handle. -/
def okWith (h : Handle) : State × Checked → Bool
  | (_, .ok hd _) => decide (hd = h)
  | _ => false

theorem ok_places {h : Handle} {r : State × Checked} (hr : okWith h r = true) : r = (r.1, .ok h (okPlaces r)) := by
  obtain ⟨s, c⟩ := r
  cases c <;> simp_all [okWith, okPlaces]

/-- The place of a Whorl word of the small state with s1, and its home. -/
def tPlace (s : State) : State × Checked := checkAccess s.w (.core s.w.core) 0 .place 1 1 [(64, (s.sreg 1).toNat)] s
def tLine (s : State) : Nat := lineOf (((okPlaces (tPlace s)).flatMap (·.locs)).headD 0)

/-- The home of the place, with what its check leaves. -/
def tHome (s : State) : Whorl := (tPlace s).1.whorl (homeWhorl (tPlace s).1 (tLine s))

/-- The small state with the tile of its page in a slot of its home, or in none. -/
def tTile (slot : Nat) (pin : Option (Nat × BitVec 8)) (scratch : Bool) : State :=
  tMem.onWhorl (homeWhorl tMem (tLine tMem)) (fun h => { h with
    slots := [(slot, { tile := tLine tMem / 32, dirty := 0, present := -1, pin := pin, scratch := scratch, granted := 0, owner := none, dir := [] })] })

/-- The small state with its page's tile missing, or in slot 8191, and four other motions at the tile's home. -/
def tCrowded (s : State) : State := s.onWhorl (homeWhorl tMem (tLine tMem)) (fun h => { h with
  motion := (List.range 4).map (fun i => ⟨{ tile := 1000 + i, dirty := 0, present := 0, pin := none, scratch := false, granted := 0, owner := none, dir := [] }, 0, 0, i⟩) })

/-- What a word that places the page's tile comes to, WPULL's in class 0. -/
def tPut (c : Nat) (s : State) : Option Nat := (placeAt c (((okPlaces (tPlace s)).flatMap (·.locs)).headD 0) s.w.core s.w.env.tag s).map (·.1)

theorem wit_WhorlWords_placed :
    tPut 0 tMem = some 2 ∧ tPut 0 (tTile 0 none false) = some 1 ∧ tPut 0 (tTile 8191 none false) = some 0 ∧ tPut 4 tMem = some 0 ∧
      tPut 0 (tCrowded tMem) = none ∧ tPut 0 (tCrowded (tTile 8191 none false)) = none ∧ tPut 4 (tCrowded tMem) = none ∧
      (tHome (tCrowded tMem)).room = false ∧ (tHome tMem).pinMoves (tLine tMem / 32) 4 = true ∧
      (tHome (tTile 0 none false)).pinMoves (tLine tMem / 32) 4 = false ∧ (tHome (tTile 0 none false)).pinStatus (tLine tMem / 32) 4 = 0 ∧
      (tMem.sreg 0).toNat % 64 = 0 ∧ tFull.policy ≠ 2#2 ∧ 46 ≤ (tMem.sreg 2).toNat % 64 := by decide +kernel

theorem wit_WhorlWords :
    (∀ s ∈ [tMem, tTile 0 none false, tTile 8191 none false, tTile 0 (some (4, 0)) true],
      AllIssue [({ srcS := [(1, true)], dstS := [126], path := some 0 }, s), ({ srcS := [(1, true), (2, true)], dstS := [126], path := some 0 }, s)] ∧
      tPlace s = ((tPlace s).1, .ok tFull (okPlaces (tPlace s))) ∧ s.w.env.handle 0 = some tFull ∧
      sentBefore (tPlace s).1 0 (homeWhorl (tPlace s).1 (tLine s)) = false ∧ (tHome s).room = true) ∧
    tFull.remote = false ∧ tFull.space ≠ 1 ∧ tFull.space ≠ 2 ∧
      (tHome tMem).tileOf (tLine tMem / 32) = none ∧ ((tHome (tTile 0 none false)).tileOf (tLine tMem / 32)).isSome = true ∧
      (tHome (tTile 0 none false)).wouldMove (tLine tMem / 32) = false ∧ (tHome (tTile 8191 none false)).wouldMove (tLine tMem / 32) = true ∧
      (tMem.sreg 3).toNat % 64 = 4 ∧ (tHome tMem).pinStatus (tLine tMem / 32) 4 = 0 ∧
      ((tHome (tTile 8191 none false)).tileOf (tLine tMem / 32)).any (fun t => !t.scratch && t.pin.isNone) = true ∧
      ((tHome (tTile 0 (some (4, 0)) true)).tileOf (tLine tMem / 32)).any (·.scratch) = true := by
  refine ⟨fun s h => ?_, by decide +kernel⟩
  simp only [List.mem_cons, List.not_mem_nil, or_false] at h
  obtain rfl | rfl | rfl | rfl := h <;> exact ⟨all_issue (by decide +kernel), ok_places (by decide +kernel), by decide +kernel⟩

/-- A Whorl with as many pinned tiles in turn 1 and below as that turn admits: one more pin of class 1 is refused. -/
def tPins : Whorl := { Whorl.vacant with slots := (List.range (turnLimit 1)).map (fun i =>
  (i, { tile := 1000 + i, dirty := 0, present := 0, pin := some (1, 0), scratch := false, granted := 0, owner := none, dir := [] })) }

theorem wit_WhorlWords_refused : tPins.pinStatus 16 1 ≠ 0 := by decide +kernel

/-- An access of the wave in focus. -/
def tAccess (op : AccessOp) (space : BitVec 4) (queue : Option Nat) (phase : ReqPhase) (returned left : Bool) : Access := {
  seq := 0, path := 0, space := space, policy := 0, pinclass := 0, byp := false, handle := 0, op := op
  elems := [{ thread := 64, va := 0x10100, locs := (List.range 8).map (0x10100 + ·), data := [1, 2, 3, 4, 5, 6, 7, 8], cmp := [], fwd := [],
              got := [] }]
  reqs := [{ line := 0x202, home := homeWhorl tState 0x202, phase := phase, arrived := 0, refusals := 0, hint := 0, reason := 0, byp := false, lost := false, pin := 0,
             here := false, due := 0 }]
  queue := queue, log := 0, returned := returned, left := left, poisoned := none, word := 0, inst := 0, snap := Arch.zero, pending := none }

/-- The small state with a load of its page sent and not yet met by the front. -/
def tSent : State := tMem.onWave (fun w => { w with accesses := [tAccess (.loadS 5 8 false) 0 none .sent false true], seq := 1 })

theorem wit_WhorlWords_behind : AllIssue [({ srcS := [(1, true)], dstS := [126], path := some 0 }, tSent)] ∧
    tPlace tSent = ((tPlace tSent).1, .ok tFull (okPlaces (tPlace tSent))) ∧
    sentBefore (tPlace tSent).1 0 (homeWhorl (tPlace tSent).1 (tLine tSent)) = true :=
  ⟨all_issue (by decide +kernel), ok_places (by decide +kernel), by decide +kernel⟩

/-- An open transaction with one store, by thread 0, or by threads 0 and 1 to one line. -/
def tTxn (threads : Nat) : Txn := {
  threads := 0xffff, sole := false, sd := 5, snap := tState.w.a, seq := 0, reads := [], log := 0, faulted := false, mode := 0
  accs := [{ tAccess .store 0 none .held true false with
    seq := 1, path := 1
    elems := (List.range threads).map (fun t => { thread := t, va := 0x10100, locs := [0x10100], data := [7], cmp := [], fwd := [], got := [] }) }] }
def tInTxn (threads : Nat) : State := tWave (fun w => { w with txn := some (tTxn threads), flight := [⟨1, 1, false⟩] })

/-- The writes its TEND commits, and the state with their lines locked. -/
def tWinners (n : Nat) : List Access := (tTxn n).winning ((tTxn n).losers 16)
def tLocked (n : Nat) : State × Bool := lockLines (commitLines (tWinners n)) (tInTxn n)

theorem wit_Transactions :
    AllIssue [({ srcS := [(126, true)], dstS := [0] }, tState), ({ srcS := [(126, true)], dstS := [0] }, tInTxn 1), ({}, tState),
      ({ dstS := [127] }, tState), ({ srcS := [(0, true)] }, tState), ({}, tInTxn 1), ({}, tInTxn 2)] ∧
      tState.w.speculative = false ∧ tState.w.txn = none ∧
      ∀ n ∈ [1, 2], (tInTxn n).w.txn = some (tTxn n) ∧ (tInTxn n).w.speculative = false ∧ (tInTxn n).w.pair = none ∧
        (tInTxn n).w.pairOk ≠ 2#2 ∧ guardHolds (tInTxn n) (tInTxn n).w = false ∧ (tTxn n).sole = false ∧ (tLocked n).2 = true ∧
        (∀ l ∈ commitLines (tWinners n), ((tLocked n).1.whorl (homeWhorl (tLocked n).1 l)).busy.any (fun b => b.1 == l) = false) ∧
        (commitAll (tWinners n) (tLocked n).1).map (·.2) = some none ∧ ((tTxn n).losers (tInTxn n).w.width = 0 ↔ n = 1) :=
  ⟨all_issue (by decide +kernel), by decide +kernel⟩

/-- A team of two waves, this one in focus, declaring 32 barriers; s1 = 2, the phase count; s4 the token of id 31, phase 0. -/
def tBarrier (ended : Nat) : State :=
  let s := tWave (fun w => { w with barriers := 32, waves := 2, a := { w.a with s := [(1, 2), (4, tokenOf false 31 0)] } })
  { s with
    waves := [(1, { s.w with slot := 1, quarter := 1, wid := 1 })]
    teams := [(0, { launch := 0, teamid := 0, core := 0, twin := false, left := 2, barriers := put Barrier.fresh [] 62 { Barrier.fresh with ended := ended }, halting := false,
                    saved := false, commands := [], block := (0, 0), sealed := false, age := 0, partner := none, stopped := none, backing := [] })] }

def tArrived (s : State) : State × Nat := match arrive 31 false (s.sreg 1) s with | .ok s' p => (s', p) | _ => (s, 0)

/-- The wave of `tBarrier` waiting at id 31 for phase 0. -/
def tWaits (ended : Nat) : State := (tBarrier ended).onWave (fun w => { w with hold := .barrier 62 0 })

/-- A wave alone in its team arrives with a count of 1: the phase ends at once, as BARAW asks to go on. -/
def tAlone : State :=
  let s := tBarrier 0
  { s.onWave (fun w => { w with waves := 1, a := { w.a with s := [(1, 1)] } }) with waves := [] }

theorem wit_Barriers :
    AllIssue [({ srcS := [(1, true)], dstS := [126], irrevocable := true }, tBarrier 0), ({ srcS := [(1, true)], irrevocable := true }, tBarrier 0),
      ({ srcS := [(4, true)] }, tState), ({ srcS := [(1, true)], irrevocable := true }, tState),
      ({ srcS := [(1, true)], dstS := [126], irrevocable := true }, tState), ({ srcS := [(4, true)] }, tBarrier 1),
      ({ srcS := [(4, true)] }, tBarrier 0)] ∧
    ((31#5).toNat < (tBarrier 0).w.barriers ∧ barrierStuck (tArrived (tBarrier 0)).1 (barrierTeam (tBarrier 0) (tBarrier 0).w)
        (instanceOf (tBarrier 0).w 31 false) = false) ∧
    tState.w.barriers ≤ (0#5).toNat ∧
    ((tBarrier 1).sreg 4 = tokenOf (levelOf (tBarrier 1).w false) 31 0 ∧
      otherLevel (tBarrier 1) (tBarrier 1).w (barrierTeam (tBarrier 1) (tBarrier 1).w) 31 (levelOf (tBarrier 1).w false) = false ∧
      (((tBarrier 1).sreg 4).extractLsb' 0 32 - BitVec.ofNat 32
        (barrierAt (tBarrier 1) (barrierTeam (tBarrier 1) (tBarrier 1).w) (instanceOf (tBarrier 1).w 31 false)).ended).msb = true) ∧
    ((tBarrier 0).sreg 4 = tokenOf (levelOf (tBarrier 0).w false) 31 0 ∧
      otherLevel (tBarrier 0) (tBarrier 0).w (barrierTeam (tBarrier 0) (tBarrier 0).w) 31 (levelOf (tBarrier 0).w false) = false ∧
      (let ahead := ((tBarrier 0).sreg 4).extractLsb' 0 32 - BitVec.ofNat 32
        (barrierAt (tBarrier 0) (barrierTeam (tBarrier 0) (tBarrier 0).w) (instanceOf (tBarrier 0).w 31 false)).ended
       ahead.msb = false ∧ ahead.toNat < 4) ∧
      barrierStuck ((tBarrier 0).blockFor (.barrier (instanceOf (tBarrier 0).w 31 false) (((tBarrier 0).sreg 4).extractLsb' 0 32)))
        (barrierTeam (tBarrier 0) (tBarrier 0).w) (instanceOf (tBarrier 0).w 31 false) = false) ∧
    ((tWaits 1).wave 0).hold = .barrier 62 0 ∧ (barrierAt (tWaits 1) (barrierTeam (tWaits 1) ((tWaits 1).wave 0)) 62).unended 0 = false ∧
      ((tWaits 1).wave 0).halted = false ∧ ((tWaits 1).wave 0).station ≠ .saved ∧
    (barrierAt (tArrived (tBarrier 0)).1 (barrierTeam (tArrived (tBarrier 0)).1 (tArrived (tBarrier 0)).1.w)
      (instanceOf (tArrived (tBarrier 0)).1.w 31 false)).unended 0 = true ∧
    barrierStuck ((tArrived (tBarrier 0)).1.blockFor (.barrier (instanceOf (tArrived (tBarrier 0)).1.w 31 false) 0))
      (barrierTeam (tArrived (tBarrier 0)).1 (tArrived (tBarrier 0)).1.w) (instanceOf (tArrived (tBarrier 0)).1.w 31 false) = false :=
  ⟨all_issue (by decide +kernel), by decide +kernel⟩

theorem wit_Barriers_arrived :
    (∀ s ∈ [tBarrier 0, tAlone], arrive 31 false (s.sreg 1) s = .ok (tArrived s).1 (tArrived s).2) ∧
      barrierStuck (tArrived tAlone).1 (barrierTeam tAlone tAlone.w) (instanceOf tAlone.w 31 false) = false ∧
      (barrierAt (tArrived tAlone).1 (barrierTeam (tArrived tAlone).1 (tArrived tAlone).1.w) (instanceOf (tArrived tAlone).1.w 31 false)).unended
        0 = false := by
  refine ⟨fun s h => ?_, by decide +kernel⟩
  simp only [List.mem_cons, List.not_mem_nil, or_false] at h
  obtain rfl | rfl := h <;> rfl

/-! ### Hypotheses met: Spindle, fences, matrix, attention, sequences, supervisor -/

/-- Some bytes of memory written. -/
def tStore (addr : Nat) (xs : List W64) (s : State) : State := { s with mem := writeBytes s.mem addr (xs.flatMap (fun x => bytesOfNat x.toNat 8)) }

/-- Checks that pass, with a state they leave that satisfies more. -/
def passes (r : RangeCheck) (f : State → Bool) : Bool := match r with | .ok s => f s | _ => false

theorem passes_ok {r : RangeCheck} {f : State → Bool} (h : passes r f = true) : ∃ s', r = .ok s' ∧ f s' = true := by
  cases r <;> simp_all [passes]

/-- The small state with operand pointers: s8 through handle 0 at offset 0x200, s9 at 0x400, s10 a length of 16, s11 a generation,
s12 a window pointer, s13 a length of 2 rows of 8 bytes, s14 a count of 2 indices. -/
def tCopy : State := tMem.onArch (fun a => { a with
  s := [(8, 0x200), (9, 0x400), (10, 16), (11, 2), (12, 0x0200000000000000), (13, 0x200000008), (14, 0x600), (15, 2), (16, 0x10000)] })

/-- A command of a wave. -/
def tCmd (fn : Nat) (dst src : W64) (params : List W64) : SpindleCmd := {
  wave := 0, seq := 0, fn := fn, gchk := none, iw := false, esz := 0, dst := dst, src := src, params := params, env := tMem.w.env, addr := 0
  inst := 0, started := false, progress := 0, samples := [], asked := false, index := none, got := none, sent := false }

/-- The small state with 32 commands in its Spindle's queue. -/
def tFullQueue : State := tCopy.onCore 0 (fun c => { c with spindle := List.replicate 32 (tCmd 0 0 0 []) })

/-- The checks of a linear copy of the length in a register, from s8 to s9, and of a fill of s9. -/
def tLinear (fn n : Nat) (s : State) : RangeCheck :=
  let ranges : List Range := [⟨ptrHandle (s.sreg 8), .load, 0, 0⟩, ⟨ptrHandle (s.sreg 9), .store, 0, 0⟩] ++
    (linearPieces fn (s.sreg 9) (s.sreg 8) [s.sreg n]).flatMap (fun q =>
      (match q.src with | some (h, o) => [⟨h, .load, o, q.len⟩] | none => []) ++ [⟨q.dst.1, .store, q.dst.2, q.len⟩])
  checkRanges s.w (.core s.w.core) (permitCause s.w) [windowCause s.w (some 2)] [none, none] true ranges s

theorem wit_SpindleWords_linear :
    AllIssue [({ words := 2, async := true, path := some 2, srcS := [(9, true), (8, true), (10, true), (11, true)] }, tCopy),
      ({ words := 2, async := true, path := some 2, srcS := [(9, true), (8, true), (10, true), (11, true)] }, tFullQueue),
      ({ words := 2, async := true, path := some 2, srcS := [(9, true), (8, true), (13, true)] }, tCopy),
      ({ words := 2, async := true, path := some 2, srcS := [(9, true), (20, true)] }, tCopy),
      ({ words := 2, async := true, path := some 2, srcS := [(9, true), (8, true), (20, true)] }, tCopy)] ∧
    (∃ s', tLinear 0 20 tCopy = .ok s' ∧ (!guardHoldsCopy s' 0 [0]) = true) ∧
    (∀ n ∈ [10, 13, 20], (linearPieces (if n = 13 then 1 else 0) (tCopy.sreg 9) (tCopy.sreg 8) [tCopy.sreg n]).all (fun q => q.len == 0) = decide (n = 20)) ∧
    (∃ s', tLinear 0 10 tCopy = .ok s' ∧ (!guardHoldsCopy s' 0 [0] && decide ((s'.core s'.w.core).spindle.length < 32)) = true) ∧
    (∃ s', tLinear 0 10 tFullQueue = .ok s' ∧ (!guardHoldsCopy s' 0 [0] && decide (32 ≤ (s'.core s'.w.core).spindle.length)) = true) ∧
    (∃ s', tLinear 1 13 tCopy = .ok s' ∧ (!guardHoldsCopy s' 0 [0] && decide ((s'.core s'.w.core).spindle.length < 32)) = true) ∧
    ptrStride (tCopy.sreg 9) % 16 = 0 ∧ (tCopy.sreg 13).toNat / 2 ^ 32 ≤ 65535 ∧ (tCopy.sreg 10).toNat ≤ 2 ^ 32 - 1 ∧
    windowCause tCopy.w (some 2) = none ∧ windowCause tCopy.w (some 0) ≠ none :=
  ⟨all_issue (by decide +kernel), passes_ok (by decide +kernel), by decide +kernel, passes_ok (by decide +kernel), passes_ok (by decide +kernel),
    passes_ok (by decide +kernel), by decide +kernel⟩

/-- The checks of a gather and a scatter of 2 elements of 128 bytes, from s8 to s9 by the indices of s14, and of a move of the descriptor
at s8. -/
def tIndexedCopy (scatter : Bool) : RangeCheck :=
  checkRanges tCopy.w (.core tCopy.w.core) (permitCause tCopy.w) [windowCause tCopy.w none] [none] true
    [⟨ptrHandle (tCopy.sreg 14), .load, 0, 0⟩, ⟨ptrHandle (tCopy.sreg 8), .load, 0, 0⟩, ⟨ptrHandle (tCopy.sreg 9), .store, 0, 0⟩,
      ⟨ptrHandle (tCopy.sreg 14), .load, ptrOffset (tCopy.sreg 14), 2 * 8⟩,
      if scatter then ⟨ptrHandle (tCopy.sreg 8), .load, ptrOffset (tCopy.sreg 8), 2 * elementSize 3⟩
      else ⟨ptrHandle (tCopy.sreg 9), .store, ptrOffset (tCopy.sreg 9), 2 * elementSize 3⟩] tCopy
def tMove : RangeCheck :=
  checkRanges tCopy.w (.core tCopy.w.core) (permitCause tCopy.w) [none] [none] true
    [⟨ptrHandle (tCopy.sreg 8), .load, ptrOffset (tCopy.sreg 8), 64⟩, ⟨ptrHandle (tCopy.sreg 8), .store, ptrOffset (tCopy.sreg 8), 64⟩] tCopy

theorem wit_SpindleWords_indexed :
    AllIssue [({ words := 2, async := true, path := some 2, srcS := [(9, true), (8, true), (14, true), (15, true)] ++ [] }, tCopy),
      ({ words := 2, async := true, path := some 2, srcS := [(16, true), (8, true)] }, tCopy),
      ({ words := 2, async := true, path := some 2, srcS := [(16, true), (12, true)] }, tCopy)] ∧
    (∀ scatter ∈ [false, true], ∃ s', tIndexedCopy scatter = .ok s' ∧
      (!guardHoldsCopy s' 0 [0, 0] && decide ((s'.core s'.w.core).spindle.length < 32)) = true) ∧
    (∃ s', tMove = .ok s' ∧ (!guardHoldsCopy s' 0 [0] && decide ((s'.core s'.w.core).spindle.length < 32)) = true) ∧
    (tCopy.sreg 15).toNat % 2 ^ 32 = 2 ∧ (tCopy.sreg 21).toNat % 2 ^ 32 = 0 ∧ ptrStride (tCopy.sreg 9) % 16 = 0 ∧ ptrStride (tCopy.sreg 8) % 16 = 0 ∧
      ptrOffset (tCopy.sreg 9) % min (elementSize 3) 16 = 0 ∧ ptrOffset (tCopy.sreg 8) % min (elementSize 3) 16 = 0 ∧
      ptrOffset (tCopy.sreg 14) % 8 = 0 ∧ ptrOffset (tCopy.sreg 8) % 64 = 0 ∧ (tCopy.sreg 16).toNat % 65536 = 0 ∧
      (tCopy.w.env.handle (ptrHandle (tCopy.sreg 8))).any (fun x => x.space == 0) = true ∧
      (tCopy.w.env.handle (ptrHandle (tCopy.sreg 12))).any (fun x => x.space == 0) = false := by
  refine ⟨all_issue (by decide +kernel), fun b _ => ?_, passes_ok (by decide +kernel), by decide +kernel⟩
  cases b <;> exact passes_ok (by decide +kernel)

/-- The bytes of a range that translates. -/
def okLocs {β : Type} : State × (List Nat ⊕ β) → List Nat
  | (_, .inl ls) => ls
  | _ => []
def okRange {β : Type} : State × (List Nat ⊕ β) → Bool
  | (_, .inl _) => true
  | _ => false
theorem ok_range {β : Type} {r : State × (List Nat ⊕ β)} (h : okRange r = true) : r = (r.1, .inl (okLocs r)) := by
  obtain ⟨s, x | x⟩ := r
  · rfl
  · simp [okRange] at h

/-- The small state with a slab descriptor at handle 2's window: base 0x10800, 64 positions, one layer and head, T6; and its reserved
fields set. -/
def tSlab : State := tStore 0x10000 [0x10800, 6, 0, 0, 0, 0, 0, 0] tMem
def tReserved : State := tStore 0x10000 [0x10801, 6, 0, 0, 0, 0, 0, 0xffffffffffffffff] tMem
def tDesc (s : State) : State × (List Nat ⊕ (W64 × BitVec 8 × Nat × Bool)) := translateBytes s (.core 0) s.w.env.tag 0x10000 64 Access.read
def tWindow : Handle := Handle.ofEntry (tEntry 6 15)

/-- The descriptor as it is sampled, and the address of offset 0. -/
def tBits (s : State) : BitVec 512 := slabBits (tDesc s).1 (okLocs (tDesc s))
def tVa : W64 := slabVa tWindow (slabSample tWindow.base (tBits tSlab)) (slabBound (tBits tSlab)) (tSlab.sreg 0).toNat

/-- The small state waiting in FENCEH. -/
def tFenced : State := tWave (fun w => { w with producers := [⟨0, 6, [], [], []⟩] })

theorem wit_Fences :
    AllIssue [({}, tState), ({}, tInTxn 1), ({ irrevocable := true, path := some 6 }, tState), ({ irrevocable := true, path := some 6 }, tFenced),
      ({ words := 2, srcS := [(0, true)], dstS := [126, 127], path := some 0, late := true }, tSlab),
      ({ words := 2, dstS := [127], path := some 0, late := true }, tSlab), ({ words := 2, dstS := [127], path := some 0, late := true }, tReserved)] ∧
    (tState.w.speculative = false ∧ tState.w.count 1 = 0 ∧ tState.w.count 6 = 0 ∧ (tInTxn 1).w.count 1 ≠ 0) ∧
    (∀ p ∈ tState.w.producers, p.seq ≠ tState.w.seq) ∧ (∃ p ∈ tFenced.w.producers, p.seq = tFenced.w.seq) ∧
    (∀ s ∈ [tSlab, tReserved], tDesc s = ((tDesc s).1, .inl (okLocs (tDesc s)))) ∧
    (126#7).getLsbD 0 = false ∧ tSlab.w.env.handle 2 = some tWindow ∧ tReserved.w.env.handle 2 = some tWindow ∧ tWindow.space = 6 ∧
    tSlab.w.env.handle 0 = some tFull ∧ (tDesc tSlab).1.w.env.handle 0 = some tFull ∧ tFull.space = 0 ∧ slabReserved (tBits tSlab) = false ∧
    slabReserved (tBits tReserved) = true ∧ slabInRange tWindow (slabSample tWindow.base (tBits tSlab)) (tSlab.sreg 0).toNat = true ∧
    tFull.base.toNat ≤ tVa.toNat ∧ tVa.toNat ≤ tFull.base.toNat + tFull.limit ∧ (tDesc tSlab).1.w.speculative = false ∧
    anyPoison (tDesc tSlab).1 (okLocs (tDesc tSlab)) = false := by
  refine ⟨all_issue (by decide +kernel), by decide +kernel, by decide +kernel, by decide +kernel, fun s h => ok_range ?_, by decide +kernel⟩
  simp only [List.mem_cons, List.not_mem_nil, or_false] at h
  obtain rfl | rfl := h <;> decide +kernel

/-- The small state 64 threads wide. -/
def tWide : State := tMem.onWave (fun w => { w with width := 64, a := { w.a with exec := -1 } })

/-- An operation of a matrix queue. -/
def tMatrix (kind : MatrixKind) (started : Bool) : MatrixOp := { MatrixOp.plain tState kind with started := started }

/-- What MMA asks of a state, with its accumulator, outputs and scales. -/
def tAcc (s : State) (vacc : Nat) : List Nat := regRange vacc (1024 / s.w.width)
def tUseMma (s : State) (vacc : Nat) (outs scales : List Nat) : Use := {
  words := 2, async := true, path := some 3, srcS := [(0, true), (0, true)], oldV := tAcc s vacc ++ outs, groupV := scales }

theorem wit_MatrixWords :
    AllIssue [(tUseMma tMem 64 [] (scaleRegs tMem.w 0 0 0 0), tMem),
      (tUseMma tWide 112 (regRange 0 (2 * (1024 / tWide.w.width))) (scaleRegs tWide.w 1 1 32 64), tWide),
      ({ words := 2, async := true, path := some 3, srcS := [(0, true)], oldV := tAcc tMem 64 }, tMem), ({ async := true, path := some 3 }, tState),
      ({ async := true, path := some 3, oldV := regRange 125 3 }, tState),
      ({ async := true, path := some 3, srcV := (regRange 125 3).map (fun r => (r, true)) }, tState),
      ({ async := true, path := some 3, oldV := regRange 0 (2048 / tState.w.width) }, tState)] ∧
    (∀ s ∈ [tMem, tWide], ∃ s', operandCheck s [(s.sreg 0, 16, 96), (s.sreg 0, 64, 96)] = .ok s' ∧ s'.w.matrix.isEmpty = true) ∧
    (∃ s', operandCheck tMem [(tMem.sreg 0, 128, 100)] = .ok s' ∧ s'.w.matrix.isEmpty = true) ∧
    (8 ≤ (tWave (fun w => { w with matrix := List.replicate 8 (tMatrix .mstz false) })).w.matrix.length ∧ tState.w.matrix.length < 8) ∧
    (slotsOk tMem.w 0 0 false = true ∧ ∀ r ∈ tAcc tMem 64 ++ [] ++ scaleRegs tMem.w 0 0 0 0, tMem.w.isPort r = false) ∧
    (slotsOk tWide.w 1 1 true = true ∧ (∀ r ∈ tAcc tWide 112, r ∉ regRange 0 (2 * (1024 / tWide.w.width))) ∧
      ∀ r ∈ tAcc tWide 112 ++ regRange 0 (2 * (1024 / tWide.w.width)) ++ scaleRegs tWide.w 1 1 32 64, tWide.w.isPort r = false) ∧
    (slotReserved (tMem.w.slotDesc 1) = false ∧ tMem.w.slotElement 1 = .t6 ∧ slotScaled (tMem.w.slotDesc 1) = true) ∧
    (∀ r ∈ regRange 125 3 ++ regRange 0 (2048 / tState.w.width), tState.w.isPort r = false) := by
  refine ⟨all_issue (by decide +kernel), fun s h => ?_, passes_ok (by decide +kernel), by decide +kernel⟩
  simp only [List.mem_cons, List.not_mem_nil, or_false] at h
  obtain rfl | rfl := h <;> exact passes_ok (by decide +kernel)

/-- The small state with the sequence of slot 4095, generation 0, in a mode, with 128 tokens, its token array and dirty map in the
placed page and its entry's page mapped; s8 names it, s9 points at the page through handle 0, s12 at the slab window, s10 asks for 16
candidates. -/
def tSeq (mode : W64) : State :=
  let s := tStore (0x1000000 + 128 * 4095) [0x8000000000000080 ||| (mode <<< 60), 0, 0x10100, 0x10200, 0, 0, 0, 0, 0, 0, 3] (tMem.onArch (fun a => { a with
    s := [(8, 0xfff), (9, 0x200), (10, 16), (11, 0x3f800000), (12, 0x0200000000000000), (15, 1), (16, 128)] }))
  { s with tlb := s.tlb ++ [⟨.core 0, 0, false, 0x107, 0x107006d⟩] }

/-- What WATTD, and WATT, of eight queries in v0 to v31 with outputs from v63 asks. -/
def tUseWatt (seq : List (Nat × Bool)) (old : List Nat) : Use := {
  words := 2, async := true, path := some 4, srcV := (regRange 0 (4 * 8)).map (fun r => (r, true)), srcS := [(12, true), (13, true)] ++ seq
  oldV := attnOutputs 63 8, oldS := old }

theorem wit_AttentionWords_watt :
    AllIssue [(tUseWatt [(8, true)] [127], tSeq 2), (tUseWatt [] [], tSeq 2)] ∧
    (∀ r ∈ regRange 0 (4 * 8) ++ attnOutputs 63 8, (tSeq 2).w.isPort r = false) ∧
    owns (tSeq 2) (tSeq 2).w.env.tag (((tSeq 2).sreg 8).setWidth 32) = true ∧
    (tSeq 2).w.env.handle (ptrHandle ((tSeq 2).sreg 12)) = some tWindow ∧ tWindow.space = 6 ∧ tWindow.rd = true ∧ (tSeq 2).w.attending < 4 ∧
    4 ≤ (tWave (fun w => { w with producers := List.replicate 4 ⟨0, 4, [], [], []⟩ })).w.attending :=
  ⟨all_issue (by decide +kernel), by decide +kernel⟩

/-- The dirty words a DMRD or DMCLR of the state reaches, translated. -/
def tDirty (access : BitVec 2) (is : List Nat) : State × List Place × List (Nat × W64 × BitVec 8 × Nat × Bool) :=
  placeAll (.core 0) (tSeq 2).w.env.tag access 4 (fun o => seqDirty (tSeq 2) 4095 + BitVec.ofNat 64 o) (is.map (fun i => (i, 4 * (0 + i)))) (tSeq 2)

/-- DMRD's load and the elements of DMCLR's reduction over those words. -/
def tDmrd : Access := (makeAccess (tDirty Access.read (List.range 64)).1 0 plainHandle noHandle false (.dmrd 126 2)
  ((tDirty Access.read (List.range 64)).2.1.map (fun q => (⟨q.thread, q.va, q.locs, [], [], [], []⟩ : Elem)))).asLoad
    (tDirty Access.read (List.range 64)).1 plainHandle
def tDmclr : List Elem := (tDirty Access.atom [0]).2.1.map (fun q =>
  ⟨q.thread, q.va, q.locs, bytesOfNat (~~~(1#32 <<< (2#5).toNat)).toNat 4, [], [], []⟩)

theorem placed_all {r : State × List Place × List (Nat × W64 × BitVec 8 × Nat × Bool)} (h : r.2.2 = []) : r = (r.1, r.2.1, []) := by
  obtain ⟨a, b, c⟩ := r; subst h; rfl

theorem wit_AttentionWords_carder :
    AllIssue [
      ({ words := 2, irrevocable := true, path := some 5, srcS := [(8, true), (9, true), (10, true), (11, true)] }, tSeq 2),
      ({ words := 2, irrevocable := true, path := some 5, srcS := [(8, true), (9, true), (10, true), (11, true)] }, tSeq 0),
      ({ words := 2, async := true, path := some 5, srcS := [(9, true), (15, true)], oldV := regRange 125 3 }, tSeq 2),
      ({ words := 2, path := some 0, srcS := [(8, true), (0, true)], dstS := [126], late := true }, tSeq 2),
      ({ words := 2, path := some 0, srcS := [(8, true), (16, true)], dstS := [126], late := true }, tSeq 2),
      ({ words := 2, path := some 1, srcS := [(15, true), (8, true), (0, true)] }, tSeq 2),
      ({ words := 2, path := some 1, srcS := [(126, true), (8, true), (0, true)] }, tSeq 2)] ∧
    (∃ s', roundCheck (tSeq 2) 0xfff ((tSeq 2).sreg 9) ((tSeq 2).sreg 10) ((tSeq 2).sreg 11) = .ok s' ∧ (!guardHolds s' s'.w) = true) ∧
    (∃ s', checkRanges (tSeq 2).w (.core 0) (permitCause (tSeq 2).w) [] [] false
      [⟨ptrHandle ((tSeq 2).sreg 9), .load, ptrOffset ((tSeq 2).sreg 9) + 16 * (((tSeq 2).sreg 15).extractLsb' 0 32).toNat, 144⟩] (tSeq 2) = .ok s' ∧
      s'.carders.isEmpty = true) ∧
    (∀ p ∈ [(Access.read, List.range 64), (Access.atom, [0])], tDirty p.1 p.2 = ((tDirty p.1 p.2).1, (tDirty p.1 p.2).2.1, [])) ∧
    ((tSeq 2).sreg 8).setWidth 32 = 0xfff#32 ∧ seqMode (tSeq 0) 4095 ≠ 2 ∧ (∀ r ∈ regRange 125 3, (tSeq 2).w.isPort r = false) ∧
    owns (tSeq 2) (tSeq 2).w.env.tag 0xfff = true ∧ (((tSeq 2).sreg 0).extractLsb' 0 32).toNat % 64 = 0 ∧
      (((tSeq 2).sreg 0).extractLsb' 0 32).toNat < seqLength (tSeq 2) 4095 ∧ (((tSeq 2).sreg 16).extractLsb' 0 32).toNat % 64 = 0 ∧
      seqLength (tSeq 2) 4095 ≤ (((tSeq 2).sreg 16).extractLsb' 0 32).toNat ∧ refusedOf (tSeq 2) (tSeq 2).w.core < 64 ∧
    (tSeq 2).w.writePending = false ∧ (addAccess tDmrd (raiseCount 0 (tDirty Access.read (List.range 64)).1)).w.overCapacity = false ∧
    (List.range 64).filter (fun i => 0 + i < seqLength (tSeq 2) 4095 && ((tSeq 2).sreg 15).getLsbD i) = [0] ∧
      (List.range 64).filter (fun i => 0 + i < seqLength (tSeq 2) 4095 && ((tSeq 2).sreg 126).getLsbD i) = [] ∧
    (addAccess (makeAccess (tDirty Access.atom [0]).1 1 plainHandle noHandle false (.reduce 5) tDmclr)
      (raiseCount 1 (tDirty Access.atom [0]).1)).w.overCapacity = false := by
  refine ⟨all_issue (by decide +kernel), passes_ok (by decide +kernel), passes_ok (by decide +kernel), fun p h => placed_all ?_, by decide +kernel⟩
  simp only [List.mem_cons, List.not_mem_nil, or_false] at h
  obtain rfl | rfl := h <;> decide +kernel

/-- The small state in a launch with step entries. -/
def tSteps : State := (tSeq 0).onWave (fun w => { w with env := { w.env with stepptr := 0x10300 } })

/-- A Distaff request of the wave in focus, and the state with it. -/
def tRequest (stepq : Bool) : DistaffReq := ⟨0, 0, stepq, 5, 0, 0xfff, 0, 0, Arch.zero⟩
def tAsking (stepq : Bool) : State := { tSteps with distaff := [tRequest stepq] }
def tAsked (stepq : Bool) : State × Asked := distaffWords ((tAsking stepq).wave 0) (tRequest stepq) (tAsking stepq)
def okAsked : State × Asked → List W64 × List Elem
  | (_, .ok ws ls) => (ws, ls)
  | _ => ([], [])
theorem ok_asked {r : State × Asked} (h : (match r.2 with | .ok _ _ => true | _ => false) = true) : r = (r.1, .ok (okAsked r).1 (okAsked r).2) := by
  obtain ⟨s, c⟩ := r
  cases c <;> simp_all [okAsked]

/-- The token that TOKC writes, translated; and the state with its line taken by a write. -/
def tToken (s : State) : State × (List Nat ⊕ (W64 × BitVec 8 × Nat × Bool)) :=
  translateBytes s (.core 0) 0 (seqTokens s 4095 + 4 * (seqCommit s 4095).setWidth 64) 4 Access.write
def tHeld : State := (tSeq 0).onWhorl (homeWhorl (tSeq 0) (lineOf 0x1010c)) (fun h => { h with busy := [(lineOf 0x1010c, [3])] })

theorem wit_SequenceWords :
    AllIssue [({ async := true, path := some 7, srcS := [(0, true)], oldS := regRange 120 4 }, tState),
      ({ async := true, path := some 7, srcS := [(0, true)], oldS := regRange 124 4 }, tSteps),
      ({ async := true, path := some 7, srcS := [(8, true), (0, true)], oldS := [127] }, tSeq 0),
      ({ async := true, path := some 7, srcS := [(0, true), (0, true)], oldS := [127] }, tSeq 0),
      ({ irrevocable := true, path := some 7, srcS := [(8, true), (0, true)] }, tSeq 0),
      ({ irrevocable := true, path := some 7, srcS := [(0, true), (0, true)] }, tSeq 0),
      ({ irrevocable := true, path := some 7, srcS := [(8, true), (0, true)] }, tHeld)] ∧
    (∀ s ∈ [tSeq 0, tHeld], tToken s = ((tToken s).1, .inl (okLocs (tToken s)))) ∧
    (∀ b : Bool, tAsked b = ((tAsked b).1, .ok (okAsked (tAsked b)).1 (okAsked (tAsked b)).2)) ∧
    (124#7).toNat % 4 = 0 ∧ tState.w.env.stepptr = 0 ∧ tSteps.w.env.stepptr ≠ 0 ∧
    owns (tSeq 0) (tSeq 0).w.env.tag (((tSeq 0).sreg 8).setWidth 32) = true ∧ owns (tSeq 0) (tSeq 0).w.env.tag (((tSeq 0).sreg 0).setWidth 32) = false ∧
    (∀ s ∈ [tSeq 0, tHeld], owns s 0 0xfff = true ∧ seqMode s 4095 ≠ 2 ∧ (seqStepc s 4095).toNat < 64 ∧ guardHolds s s.w = false) ∧
    homeFree (tToken (tSeq 0)).1 (seqLoc (tSeq 0) 4095 10 :: okLocs (tToken (tSeq 0))) = true ∧ Memory.wf (tToken (tSeq 0)).1.mem = true ∧
      seqLoc (tToken (tSeq 0)).1 4095 10 + 8 ≤ 2 ^ 64 ∧ homeFree (tToken tHeld).1 (seqLoc tHeld 4095 10 :: okLocs (tToken tHeld)) = false ∧
    ∀ b : Bool, (tAsking b).distaff.find? (fun r => r.wave == 0) = some (tRequest b) ∧ guardOpen (tAsking b) 0 (tRequest b).seq = true ∧
      poisonVa (checkLocs ((okAsked (tAsked b)).2.flatMap (·.locs)) { (tAsked b).1 with distaff := (tAsked b).1.distaff.erase (tRequest b) })
        (fun _ _ => false) (okAsked (tAsked b)).2 = none := by
  refine ⟨all_issue (by decide +kernel), fun s h => ok_range ?_, fun b => ok_asked ?_, by decide +kernel⟩
  · simp only [List.mem_cons, List.not_mem_nil, or_false] at h
    obtain rfl | rfl := h <;> decide +kernel
  · cases b <;> decide +kernel

theorem wit_SupervisorWords :
    AllIssue [({ srcS := [(126, true)], supervisor := true, irrevocable := true, path := some 6 }, tState),
      ({ srcS := [(126, true)], dstS := [126], supervisor := true, irrevocable := true, path := some 6 }, tState),
      ({ srcS := [(126, true)], dstS := [], supervisor := true, irrevocable := true, path := some 6 }, tState),
      ({ irrevocable := true, both := true }, tState), ({ irrevocable := true, both := true }, tLoads)] ∧
    ((tNarrow 0 0).w.a.pos.residue.left = 0 ∧ (tNarrow 0 0).w.env.sup = false ∧ (sprValue (tNarrow 0 0) (tNarrow 0 0).w 0).isSome = true) ∧
    guardHolds tState tState.w = false ∧ (sprValue tState tState.w 0xa0).isSome = true ∧ 12 ≤ ((0x6000#64).extractLsb' 11 4).toNat ∧
    (tState.wave (waveKey ((tState.sreg 126).extractLsb' 0 9).toNat ((tState.sreg 126).extractLsb' 9 2).toNat
      ((tState.sreg 126).extractLsb' 11 4).toNat)).station ≠ .vacant ∧
    (([⟨0, 0, [(0, 5)]⟩] : List Invalidation).find? (fun i => i.wave == 0) = some ⟨0, 0, [(0, 5)]⟩ ∧ ∀ x ∈ [(0, 5)], outstanding tState x = false) ∧
    (∀ p < 8, tState.w.count p = 0) ∧ tLoads.w.count 0 ≠ 0 :=
  ⟨all_issue (by decide +kernel), by decide +kernel⟩

/-! ### Hypotheses met: the device's own steps -/

/-- The small state with its quarter's slots free, its wave in a clause of a class. -/
def tFree (class3 : BitVec 3) : State :=
  { tWave (fun w => { w with a := { w.a with pos := { w.a.pos with header := 15#4 ++ class3 ++ 0#25 } } }) with holders := [] }

/-- The stream state before its engine has fetched, and the places of the first step of port 0. -/
def tUnfetched : State := tStream.onWave (fun w => { w with aside := [] })
def tStep : State × List Place × Bool :=
  stepPlaces (tUnfetched.wave 0) ((tUnfetched.wave 0).stepAt 124 0) ((tUnfetched.wave 0).stepAt 124 0).offs tUnfetched

/-- The queue state with load queue 1 bound. -/
def tLoadQueue : State := tQueue.onArch (fun a => { a with queues := [(1, { QueuePort.unbound with bound := true, group := [0, 0, 16] })] })

theorem wit_QuarterSteps :
    (slotFree (tFree 4) 0 0 = true ∧ (chooseWave (tFree 4) 0 false).isSome = true) ∧
    (chooseWave (tFree 0) 0 false = none ∧ slotFree (tFree 0) 0 (scalarSlot 0) = true ∧ (chooseWave (tFree 0) 0 true).isSome = true) ∧
    (((tFree 4).wave 0).ready (tFree 4) ((tFree 4).wave 0).quarterId = true ∧ ((tFree 4).wave 0).promoted = false) ∧
    (transQueue (tUnit true) 0 = [tOp true] ∧ (tOp true).started = true ∧ (tOp true).wave = (tUnit true).focus ∧ (tUnit true).w.fte = 0 ∧
      (tOp true).d ∉ (tUnit true).w.undefRegs ∧ (tOp true).d < 128 ∧ (∀ x ∈ (tOp true).operand, x.1 < 64) ∧ ((tOp true).operand.map (·.1)).Nodup) ∧
    ((tWave (fun w => { w with station := .asleep })).wave 0).station = .asleep ∧
    ((tStream.wave 0).station = .live ∧ (tStream.wave 0).ports = 1 ∧ ((tStream.wave 0).a.stream 0).bound = true ∧
      ((tStream.wave 0).a.stream 0).dir = false) ∧
    ((tLoadQueue.wave 0).station = .live ∧ (tLoadQueue.wave 0).ports = 2 ∧ ((tLoadQueue.wave 0).a.queue 1).bound = true) ∧
    (tUnfetched.wave 0).nextStep 124 = 0 ∧ (tUnfetched.wave 0).fetchOf 124 0 = none ∧ (tUnfetched.wave 0).arrived 124 = none ∧
      0 < ((tUnfetched.wave 0).a.stream 0).count.toNat ∧
      (tUnfetched.wave 0).env.handle ((tUnfetched.wave 0).stepAt 124 0).handle = some tFull ∧
      mayFetch tUnfetched (tUnfetched.wave 0) tFull ((tUnfetched.wave 0).stepAt 124 0).handle = true ∧
      (tUnfetched.wave 0).count (if tFull.remote then 6 else 0) < 65535 ∧ refusedOf tUnfetched (tUnfetched.wave 0).core < 64 ∧
      tStep.2.2 = false ∧ tStep.2.1.length = 16 := by decide +kernel

/-- The small state with one access, and accesses to put there. -/
def tAccessing (x : Access) : State := tWave (fun w => { w with accesses := [x], seq := 1 })
def tStoring (q : Option Nat) : Access := tAccess .store 0 q .held true false
def tLoading : Access := tAccess (.loadS 127 8 false) 0 none .done false true
def tBack : Access := { tLoading with reqs := tLoading.reqs.map (fun r => { r with here := true }) }
def tDone (poisoned : Option W64) : Access := { tAccess .store 0 none .done true true with poisoned := poisoned }

/-- The small state with a fill of a sector of a tile its Whorl holds. -/
def tFilling : State := (tTile 8191 none false).onWhorl (homeWhorl tMem (tLine tMem)) (fun h => { h with
  fills := [{ sector := 2 * tLine tMem + 1, waiters := 0, due := 0 }] })

theorem wit_AccessSteps :
    (∀ q ∈ [none, some 3], ((tAccessing (tStoring q)).wave 0).leaving = some (tStoring q) ∧ routedBack (tStoring q) = false ∧
      (tStoring q).queue = q ∧ unsendable (tAccessing (tStoring q)) (tStoring q) = false ∧
      ((tAccessing (tStoring q)).wave 0).count (tStoring q).path < 65535 ∧ ((tAccessing (tStoring q)).wave 0).pair = none ∧
      (tStoring q).space ≠ 4 ∧ (tStoring q).space ≠ 5 ∧ (tStoring q).op.isAtomic = false ∧
      (beforeWrite ((tAccessing (tStoring q)).wave 0).launch 0 0 ((tStoring q).elems.flatMap (·.locs)) (tAccessing (tStoring q))).isSome = true ∧
      (leaveBuffer 0 (tStoring q) (tAccessing (tStoring q))).isSome = true) ∧
    (leaveBuffer 0 (tStoring (some 3)) ((tAccessing (tStoring (some 3))).setWave 0
      { (tAccessing (tStoring (some 3))).wave 0 with flight := [⟨0, 0, false⟩] })).isSome = true ∧
    (unblocked tSent (homeWhorl tState 0x202) = [] ∧ wantsAt tSent (homeWhorl tState 0x202) ≠ []) ∧
    ((tFilling.whorl (homeWhorl tMem (tLine tMem))).fills.any (fun f => f.sector == 2 * tLine tMem + 1)) = true ∧
    (tFenced.wave 0).producers.find? (fun p => p.seq == 5 && p.path != 6) = none ∧
    (((tWave (fun w => { w with producers := [⟨0, 4, [], [1], [2]⟩] })).wave 0).producers.find? (fun p => p.seq == 0 && p.path != 6)) =
      some ⟨0, 4, [], [1], [2]⟩ ∧
    ((tAccessing tLoading).w.producers.find? (fun p => p.seq == 0 && p.path != 6) = none ∧ (tAccessing tLoading).w.awaited 0 = some tLoading ∧
      tLoading.nextLine.isSome = true ∧ tLoading.byp = false ∧ tLoading.homed = true ∧ (∀ r ∈ tLoading.reqs, r.byp = false ∧ r.lost = false)) ∧
    ((tAccessing tBack).w.awaited 0 = some tBack ∧ tBack.nextLine = none ∧ tBack.arrived = true ∧ tBack.op = .loadS 127 8 false ∧
      tBack.elems.length = 1) ∧
    ((((tAccessing (tDone (some 0x10100))).setWave 0 { (tAccessing (tDone (some 0x10100))).wave 0 with txn := some (tTxn 1) }).wave 0).txn).isSome = true := by
  decide +kernel

theorem wit_AccessSteps_retire : ∀ poisoned : Option W64,
    ((tAccessing (tDone poisoned)).wave 0).accesses = [tDone poisoned] ∧ (tDone poisoned).retirable = true ∧ (tDone poisoned).poisoned = poisoned ∧
      ((tAccessing (tDone poisoned)).wave 0).txn = none :=
  fun _ => ⟨rfl, rfl, rfl, rfl⟩

/-- The small state with messages of a line on their way in and out of core 383. -/
def tMessages (inbox : List (Nat × Bool)) (out : List (Nat × Bool × Nat)) : State := tState.onCore 383 (fun c => { c with inbox := inbox, out := out })

/-- The small state with a space-3 line in use at its home. -/
def tHostBusy : State := tState.onWhorl (homeWhorl tState (lineOf (hostPhysLoc 0))) (fun h => { h with busy := [(lineOf (hostPhysLoc 0), [3])] })

theorem wit_CoherenceSteps :
    firstIn (tMessages [(5, false)] []) 383 5 false = true ∧ firstOut (tMessages [] [(5, false, 0)]) 383 5 false = some 0 ∧
    firstOut (tMessages [] [(5, true, 7)]) 383 5 true = some 7 ∧ wantsAt (tMessages [] [(5, true, 7)]) (homeWhorl tState 5) = [] ∧
    firstIn (tMessages [(5, true)] []) 383 5 true = true ∧
    (isHostLine (lineOf (hostPhysLoc 0)) = true ∧ snoopBlocked tState (lineOf (hostPhysLoc 0)) = false ∧
      snoopBlocked tHostBusy (lineOf (hostPhysLoc 0)) = true ∧ Memory.wf tState.mem = true ∧ (List.replicate 128 (7 : BitVec 8)).length = 128 ∧
      regionOf (lineOf (hostPhysLoc 0) * 128) = 2) ∧
    (hdmBytes - 128) + 128 ≤ hdmBytes ∧ tState.accepts 5 = true ∧
    (∀ l ∈ linesFrom (hbmLoc (hdmBytes - 128)) 128, (tState.whorl (homeWhorl tState l)).inUse l = false ∧ lineWaits tState l = false) := by
  decide +kernel

/-- A tile of a context's. -/
def tTileAt (n : Nat) (pin : Option (Nat × BitVec 8)) (owner : Option (BitVec 8)) : Tile :=
  { tile := n, dirty := -1, present := 0, pin := pin, scratch := pin.isSome, granted := 0, owner := owner, dir := [] }

/-- The Whorl 15 of a state with motions, tiles waiting for a pin, askings, a hold. -/
def tFront : State := { tState.onWhorl 15 (fun h => { h with
  motion := [⟨tTileAt 9 none none, 0, 0, 0⟩], waitPin := [(7, tTileAt 8 (some (1, 0)) none)], caps := [(0, 2), (1, 8)], asked := [(0, 1), (1, 1)]
  hold := some (0, 5) }) with cycle := 2006 }

/-- The same with the waiting tile in its last slot. -/
def tResident : State := tFront.onWhorl 15 (fun h => { h with slots := [(8191, tTileAt 8 (some (1, 0)) none)] })

/-- The small state with a dirty tile of an owner, a launch of whose context, in flight, holds a snapshot of the page or none; and with a
tile whose data are present, dirty or clean. -/
def tDirtyTile (owner : Option (BitVec 8)) : State := tState.onWhorl (homeWhorl tState (lineOf 0x10100)) (fun h => { h with
  slots := [(0, tTileAt (tileOf 0x10100) none owner)] })
def tHere (dirty : Bool) : Tile := { tTileAt (tileOf 0x10100) none none with dirty := if dirty then -1 else 0, present := -1 }
def tFull' (dirty : Bool) : State := tState.onWhorl (homeWhorl tState (lineOf 0x10100)) (fun h => { h with slots := [(0, tHere dirty)] })

theorem wit_WhorlSteps :
    ((landable (evictDue 15 tFront) 15).map (·.tile.tile) = some 9 ∧ (evictDue 15 tFront).damage = [] ∧
      find ((evictDue 15 tFront).whorl 15).slots 0 = none ∧ landable (evictDue 15 tState) 15 = none ∧ (tState.whorl 15).waitPin = []) ∧
    (∀ s ∈ [tFront, tResident], s.damage = [] ∧ (s.whorl 15).waitPin = [(7, tTileAt 8 (some (1, 0)) none)] ∧ (s.whorl 15).motion.length < 4) ∧
    (tFront.whorl 15).slotOf (tTileAt 8 (some (1, 0)) none).tile = none ∧ (tResident.whorl 15).slotOf 8 = some 8191 ∧
    (∀ c ∈ (tFront.whorl 15).asked.map (·.1), 2 ≤ (tFront.whorl 15).cap c ∧ (tFront.whorl 15).cap c ≤ 8) ∧
    ((tFront.whorl 15).hold = some (0, 5) ∧ 5 + 2000 ≤ tFront.cycle ∧ ({ tFront with cycle := 2004 } : State).cycle < 5 + 2000) ∧
    (omegaOf 91 < (tFront.whorl 15).omegaNow 7 ∧ (tFront.whorl 15).omegaNow 7 ≤ omegaOf 0) ∧
    ((∀ j < 30, look 0 (tFront.whorl 15).stamps 239 ≤ look 0 (tFront.whorl 15).stamps (30 * (239 / 30) + j)) ∧
      1 ≤ (tFront.whorl 15).omegaNow (239 / 30) ∧ look 0 (tFront.whorl 15).stamps 239 + 4000 * (tFront.whorl 15).omegaNow (239 / 30) < 2 ^ 64) ∧
    (∀ dirty : Bool, ((tFull' dirty).whorl (homeWhorl (tFull' dirty) (0x10100 / 32 / 4))).tileOf (0x10100 / 32 / 128) = some (tHere dirty) ∧
      (tHere dirty).present.getLsbD (0x10100 / 32 % 128 / 2) = true ∧ (tHere dirty).dirty.getLsbD (0x10100 / 32 % 128 / 2) = dirty) ∧
    ∀ o ∈ [none, some 0],
      ((tDirtyTile o).whorl (homeWhorl (tDirtyTile o) (lineOf 0x10100))).tileOf (tileOf 0x10100) = some (tTileAt (tileOf 0x10100) none o) ∧
      (tTileAt (tileOf 0x10100) none o).dirty.getLsbD (0x10100 / 64 % 64) = true ∧
      ((tDirtyTile o).whorl (homeWhorl (tDirtyTile o) (lineOf 0x10100))).quar.length < 16 := by decide +kernel

/-- The placed page in an engine's cache as well. -/
def tCached (c : Cache) (s : State) : State := { s with tlb := s.tlb ++ [⟨c, 0, false, 1, placedLeaf⟩] }

/-- A Spindle command at the head of core 0's queue: 16 bytes from offset 0x200 to 0x400 through handle 0. -/
def tSpindle (c : SpindleCmd) : State := tCached (.spindle 0) (tMem.onCore 0 (fun x => { x with spindle := [c] }))
def tCommand : SpindleCmd := tCmd 0 0x400 0x200 [16]
def tMapped : State × Mapped :=
  mapPieces (engineWave (tSpindle tCommand) 0 tMem.w.env []) (.spindle 0) (linearPieces 0 0x400 0x200 [16]) (tSpindle tCommand)
def okPairs : State × Mapped → List (Option Nat × Nat)
  | (_, .ok ps) => ps
  | _ => []
theorem ok_pairs {r : State × Mapped} (h : (match r.2 with | .ok _ => true | _ => false) = true) : r = (r.1, .ok (okPairs r)) := by
  obtain ⟨s, c⟩ := r
  cases c <;> simp_all [okPairs]

theorem wit_EngineSteps_spindle :
    tMapped = (tMapped.1, .ok (okPairs tMapped)) ∧
    (∀ c ∈ [tCommand, { tCommand with started := true }, { tCommand with fn := 4 }],
      ((tSpindle c).core 0).spindle = [c] ∧ guardOpen (tSpindle c) c.wave c.seq = true ∧ genMismatch c = false) ∧
    tCommand.fn ≠ 4 ∧ tCommand.fn ≠ 5 ∧ tCommand.fn ≠ 2 ∧ tCommand.fn ≠ 3 ∧ tCommand.started = false ∧
    (match (takeSamples (engineWave (tSpindle tCommand) 0 tMem.w.env []) (.spindle 0) ([ptrHandle 0x200] ++ [ptrHandle 0x400] ++ [] ++ []) (tSpindle tCommand)).2
      with | .ok _ => true | _ => false) = true ∧
    returnsHere tCommand.env (ptrHandle 0x200) ((okPairs tMapped).filterMap (·.1)) = false ∧
    returnsHere tCommand.env (ptrHandle 0x400) ((okPairs tMapped).map (·.2)) = false ∧
    (engineWrite ((tSpindle tCommand).wave 0).launch (ptrHandle 0x400) (match tCommand.env.handle (ptrHandle 0x400) with | some h => h.space | none => 0)
      (some tCommand.env.tag) ((okPairs tMapped).map (fun p => (p.2, match p.1 with
        | some l => readByte (engineMem tMapped.1 tCommand.env (ptrHandle 0x200)) l
        | none => 0))) tMapped.1).2 = true ∧
    (tCommand.sent = false ∧ tCommand.got = none ∧ tCommand.indexed = false ∧ remoteHandle tCommand.env (ptrHandle tCommand.src) = false ∧
      peerHandle tCommand.env (ptrHandle tCommand.dst) = false ∧ remoteHandle tCommand.env 3 = true) ∧
    (let c := tCmd 2 0x400 0x200 [0x600, 2]
     c.indexed = true ∧ c.index = none ∧ genMismatch c = false ∧ remoteHandle c.env (ptrHandle c.table) = false ∧
      (match (locsOf (engineWave (tSpindle c) c.wave c.env c.samples) (.spindle 0) (ptrHandle c.table) .load (ptrOffset c.table) c.tableBytes
        (tSpindle c)) with | (s', .ok locs) => !anyPoison (checkLocs locs s') locs | _ => false) = true) ∧
    genMismatch { tCommand with gchk := some 2, samples := [(2, slabSample 0x10000 (tBits tSlab))], params := [16, 7] } = true :=
  ⟨ok_pairs (by decide +kernel), by decide +kernel⟩

/-- The small state with matrix operations of its wave's queue; one whose gang has a member that its team lacks. -/
def tMatrixed (ops : List MatrixOp) : State := tWave (fun w => { w with matrix := ops })
def tGang : MatrixOp := { tMatrix (.mma false false) false with gang := 0x8180 }

theorem wit_EngineSteps_matrix :
    (unitBusy (tMatrixed [tMatrix .mstz false]) 0 = false ∧ (tMatrix .mstz false).kind = .mstz ∧
      (pickHead (tMatrixed [tMatrix .mstz false]) (startable (tMatrixed [tMatrix .mstz false]) 0)).map (·.2.2) = some (.run [0])) ∧
    (unitBusy (tMatrixed [tGang]) 0 = false ∧
      (match pickHead (tMatrixed [tGang]) (startable (tMatrixed [tGang]) 0) with | some (_, _, .fails _) => true | _ => false) = true) ∧
    ((tMatrixed [tMatrix .mstz true]).w.quarterId = 0 ∧ (tMatrixed [tMatrix .mstz true]).w.matrix = [tMatrix .mstz true] ∧
      (tMatrix .mstz true).started = true ∧ (tMatrix (.mma true false) true).isMma = true) := by decide +kernel

/-- An attention operation over one position, with a number of partials made at a number of Whorls. -/
def tTriple : Triple := ⟨0, 0, []⟩
def tAttn (partials whorls : Nat) : AttnOp := {
  seq := 0, dirty := false, nq := 1, vo := 0, ptr := 0x0200000000000000, range := 0x100000000, queries := [[]], seqId := none, sx := 0
  sample := some (slabSample 0x10000 (tBits tSlab)), excluded := 0, partials := List.replicate partials [tTriple]
  whorls := List.range whorls, homes := [], formed := [], addr := 0, inst := 0 }
def tAttending (partials whorls : Nat) : State := tCached (.shared 15) (tSlab.onWave (fun w => { w with attn := [tAttn partials whorls] }))
def tGot : State × Got := gotBytes (.shared 15) 0 0x10000 64 (tAttending 0 0)

/-- The positions gathered at Whorl 15. -/
def tGather : Gathering :=
  (gatherPositions (tAttn 0 0) 15 0 (slabSample 0x10000 (tBits tSlab)) (slabBound (tBits tSlab)) 0 0 none
    ((tAttn 0 0).positions (slabSample 0x10000 (tBits tSlab)))
    (onAttn 0 0 (fun op => { op with sample := some (slabSample 0x10000 (tBits tSlab)) }) tGot.1)).2

theorem wit_EngineSteps_attention :
    ((((tAttending 0 0).wave 0).attn.find? (fun op => op.seq == 0 && ((tAttending 0 0).wave 0).station != .saved)).isSome = true ∧
      guardOpen (tAttending 0 0) 0 0 = true ∧ 15 ∉ (tAttn 0 0).whorls ∧ (tAttending 0 0).w.env.handle 2 = some tWindow ∧
      (match tGot.2 with | .bytes _ _ => true | _ => false) = true ∧ slabReserved (tBits tSlab) = false ∧
      (tWindow.selector.extractLsb' 0 8).toNat = 0 ∧ (tWindow.selector.extractLsb' 8 8).toNat = 0 ∧
      (match tGather with | .ok _ _ _ _ => true | _ => false) = true) ∧
    (∀ p ∈ [(2, 15), (1, 16), (3, 16)],
      ((tAttending p.1 p.2).wave 0).attn.find? (fun op => op.seq == 0 && ((tAttending p.1 p.2).wave 0).station != .saved) = some (tAttn p.1 p.2)) ∧
    (let part : AttnPart := ⟨[0], 0, []⟩
     let op := { tAttn 0 0 with formed := [(15, part)] }
     (∃ k ∈ [0], find op.homes k = none) ∧ (∀ k ∈ [0], (find ({ op with homes := [(0, 15)] }).homes k).isSome = true) ∧
      (∀ k ∈ [0], find ({ op with homes := [(0, 15)] }).homes k = some 15 → k ∈ part.taken) ∧
      ∃ k ∈ [0], find ({ op with homes := [(0, 15)] }).homes k = some 15 ∧ k ∉ ({ part with taken := [] } : AttnPart).taken) ∧
    (tAttn 2 15).partials = [[tTriple], [tTriple]] ∧ (tAttn 2 15).whorls.length < 16 ∧ (tAttn 1 16).partials.length ≤ 1 ∧ (tAttn 1 16).whole = true ∧
      1 < (tAttn 3 16).partials.length := by decide +kernel

/-- A Carder's queue with a round, begun or not, or a record read. -/
def tCarderOp (round begun : Bool) : CarderOp := {
  wave := 0, seq := 0, round := round, seqId := 0xfff, ptr := 0x200, param0 := if round then 16 else 1, param1 := 0, d := 0
  env := tMem.w.env, addr := 0, entry := if begun then [0x8000000000000080, 0, 0x10100, 0x10200, 0, 0] else [], samples := [] }
def tCarder (round begun : Bool) : State := tCached (.carder 3) { tSeq 2 with carders := [(3, [tCarderOp round begun])] }
def tRound : State := { tCarder true false with mem := (tStore (0x1000000 + 128 * 4095) [0xe000000000000080] (tCarder true false)).mem }
def tBuffer (round begun : Bool) : State × Ranged :=
  locsOf (engineWave (tCarder round begun) 0 tMem.w.env []) (.carder 3) 0 .load (if round then 0x200 else 0x210) (if round then 256 else 144)
    (tCarder round begun)
def okBuffer : State × Ranged → List Nat
  | (_, .ok ls) => ls
  | _ => []
theorem ok_buffer {r : State × Ranged} (h : (match r.2 with | .ok _ => true | _ => false) = true) : r = (r.1, .ok (okBuffer r)) := by
  obtain ⟨s, c⟩ := r
  cases c <;> simp_all [okBuffer]

theorem wit_EngineSteps_carder :
    (∀ p ∈ [(true, true), (false, false)], tBuffer p.1 p.2 = ((tBuffer p.1 p.2).1, .ok (okBuffer (tBuffer p.1 p.2)))) ∧
    (∀ p ∈ [(true, true), (true, false), (false, false)], carderQueue (tCarder p.1 p.2) 3 = [tCarderOp p.1 p.2] ∧
      guardOpen (tCarder p.1 p.2) 0 0 = true ∧ anyPoison (tBuffer p.1 p.2).1 (okBuffer (tBuffer p.1 p.2)) = false) ∧
    (tCarderOp true false).entry = [] ∧ (tCarderOp true true).entry ≠ [] ∧ seqBusy (tCarder true false) 4095 = false ∧ seqBusy tRound 4095 = true ∧
    (∃ c ∈ candidatesOf (roundCount 16) (List.replicate 256 0xff#8), (tCarderOp true true).length ≤ c.position) := by
  refine ⟨fun p h => ok_buffer ?_, by decide +kernel⟩
  simp only [List.mem_cons, List.not_mem_nil, or_false] at h
  obtain rfl | rfl := h <;> decide +kernel

/-- The small state with an access in space 4 or 5 that has left, and a route and a port to peer node 1. -/
def tRemote (space : BitVec 4) (elems : List Elem) : State :=
  let s := tAccessing { tAccess (.loadS 5 8 false) space none .sent false true with elems := elems }
  { s with mgmt := { s.mgmt with routes := [(1, 0xffff)], skeinUp := 0x8000 } }
def tElem (loc : Nat) : Elem := { thread := 64, va := 0, locs := (List.range 8).map (loc + ·), data := [], cmp := [], fwd := [], got := [] }
def tPeerLoad : State := tRemote 5 [tElem (peerLoc 1 0 0)]

/-- The same with every port down, and with no route. -/
def tPortless : State := { tPeerLoad with mgmt := { tPeerLoad.mgmt with skeinUp := 0 } }
def tRouteless : State := { tPeerLoad with mgmt := { tPeerLoad.mgmt with routes := [] } }

/-- The small state with context 0 active: supervisor and Distaff bits, queues of 4 records at 0x10400, its page table at
0x20000 with the placed page and the next, a save area of 4 units at 0x10900, a snapshot pool of 4 pages in the next page, chain records
at 0x10a00, a step buffer at 0x10b00. -/
def tContext : Context := { Context.none with
  active := true, lqtail := [(15, 1)]
  words := [0xe000000000000002, 0x10400, 0, 0, 0x10900, 0x20000, 0x20000, 0x400000000, 0, 0, 0, 0, 0, 0, 0x10a00, 0x10b00, 0] }
def tTables (s : State) : State := tStore 0x30008 [placedLeaf, 0x9006d] (tStore 0x28000 [0x30001] (tStore 0x20000 [0x28001] s))
def tActive : State := { tStore 0x10900 [4] (tTables tMem) with contexts := [(0, tContext)] }
def tPeer : State := tCached (.shared 0) tActive
def tPeerBytes (access : BitVec 2) : State × (List Nat ⊕ (W64 × BitVec 8 × Nat × Bool)) := translateBytes tPeer (.shared 0) 0 0x10100 8 access

/-- What is known of a load in space 4: whether its line comes back to the device is a free value, so one of two clauses has it. -/
theorem wit_LinkSteps_host :
    (awaiting (drainEgress (tRemote 4 [tElem (hostLoc 0 0)])) 0 4).map routedBack = some (Config.hostRoutesBack (hostLoc 0 0)) ∧
      (awaiting (drainEgress (tRemote 4 [])) 0 4).map routedBack = some false := by
  constructor
  · show some (Config.hostRoutesBack (hostLoc 0 0) || false) = _; rw [Bool.or_false]
  · decide +kernel

/-- The small state with a posted write to the host whose line is in use; with a Spindle command that waits for the host; and with one that
waits for peer node 1, its route known or not. -/
def tPosted : State := { tHostBusy with egress := [⟨0, 0, hostPhysLoc 0, [7]⟩] }
def tHostCommand : State := tSpindle { tCmd 0 0x400 0x0300000000000000 [16] with started := true, asked := true }
def tPeerCommand (routes : List (Nat × BitVec 16)) : State :=
  let s := tSpindle { tCmd 0 0x400 0 [16] with
    started := true, asked := true, env := { tMem.w.env with handles := [tEntry 5 15 ||| BitVec.ofNat 256 (2 ^ 128)] } }
  { s with mgmt := { s.mgmt with routes := routes, skeinUp := 0x8000 } }

theorem wit_LinkSteps_command :
    (drainEgress tPosted).egress ≠ [] ∧ (drainEgress tHostCommand).egress = [] ∧
    (awaiting (drainEgress tHostCommand) 0 4 = none ∧ (awaitingCommand (drainEgress tHostCommand) 0 4).isSome = true) ∧
    (∀ routes ∈ [[], [(1, 0xffff)]], awaiting (tPeerCommand routes) 0 5 = none ∧
      (awaitingCommand (tPeerCommand routes) 0 5).any (fun e => e.2.node == 1) = true ∧
      ((find (tPeerCommand routes).mgmt.routes 1).isSome = true ↔ routes ≠ [])) ∧
    portsTo (tPeerCommand [(1, 0xffff)]) 1 ≠ 0 := by decide +kernel

theorem wit_LinkSteps :
    (awaiting (drainEgress tFenced) 0 4 = none ∧
      (((drainEgress tFenced).wave 0).producers.find? (fun p => p.path == 6 && p.seq == ((drainEgress tFenced).wave 0).seq)).isSome = true) ∧
    (awaiting (tRemote 5 [tElem 0x10100]) 0 5).any (·.here) = true ∧
    (awaiting tPeerLoad 0 5).any (fun x => !x.here && (find tPeerLoad.mgmt.routes x.node).isSome && portsTo tPeerLoad x.node != 0) = true ∧
    (awaiting tRouteless 0 5).any (fun x => !x.here && (find tRouteless.mgmt.routes x.node).isNone) = true ∧
    ((tPeer.context 0).active = true ∧ (tState.context 0).active = false) ∧
    (∀ access ∈ [Access.read, Access.write, Access.atom], homeFree (tPeerBytes access).1 (okLocs (tPeerBytes access)) = true ∧
      ∀ l ∈ okLocs (tPeerBytes access), ((tPeerBytes access).1.whorl (homeWhorl (tPeerBytes access).1 (lineOf l))).inUse (lineOf l) = false) ∧
    (portsTo tPortless 1 = 0 ∧ (find tPortless.mgmt.routes 1).isSome = true ∧ tPortless.allWaves.map (·.1) = [0] ∧
      (awaiting tPortless 0 5).any (fun x => x.node == 1 && !x.here) = true ∧ (awaiting { tState with mgmt := tPortless.mgmt } 0 5).isNone = true ∧
      ({ tState with mgmt := tPortless.mgmt } : State).allWaves.map (·.1) = [0]) ∧
    tPeerLoad.mgmt.skeinUp.getLsbD 15 = true ∧ ({ tState.mgmt with cxlUp := 8 } : Mgmt).cxlUp.getLsbD 3 = true := by decide +kernel

theorem wit_LinkSteps_peer : ∀ access ∈ [Access.read, Access.write, Access.atom], tPeerBytes access = ((tPeerBytes access).1, .inl (okLocs (tPeerBytes access))) := by
  intro access h
  simp only [List.mem_cons, List.not_mem_nil, or_false] at h
  obtain rfl | rfl | rfl := h <;> exact ok_range (by decide +kernel)

/-- A fault record, and the active context with it open. -/
def tRecord (host told : Bool) : FaultRec :=
  { words := [0, 0, 0, 0], va := 0x20000, access := 0, opened := true, posted := 0, host := host, told := told, denied := false, launches := []
    readers := [] }
def tFaulted (host told : Bool) : State := { tActive with contexts := [(0, { tContext with faults := [tRecord host told] })] }

/-- Walks of floor 3, and the active context with them. -/
def tWalk (page : Nat) (stage : WalkStage) : PageWalk := { cache := .shared 15, tag := 0, page := page, accesses := [0], stage := stage, restarted := false }
def tWalking : State := { tActive with walks := (List.range 64).map (fun i => tWalk (8 + i) (.reading 0 0x20000)) ++ [tWalk 1 .queued] }

/-- The active context with its placed page being moved, an access of it outstanding or none. -/
def tPageMove : PageMove := { tag := 0, va := 0x10000, leaf := placedLeaf, entry := hbmLoc 0x30008, tier := false, frame := 5 }
def tMoving (busy : Bool) : State :=
  let s := tActive.onWave (fun w => { w with accesses := if busy then [tAccess (.loadS 5 8 false) 0 none .sent false true] else [] })
  { s with moves := [tPageMove] }

theorem wit_FaultSteps :
    (∀ host : Bool, openFault (tFaulted host false) 0 0 = some (tRecord host false) ∧ (tRecord host false).told = false ∧
      (tRecord host false).launches = [] ∧ accessClass (tRecord host false).access ≠ 1 ∧ (tFaulted host false).mgmt.evbase = 0 ∧
      explained (tFaulted host false) 0 (tRecord host false).va = false) ∧
    (let w := { tState.w with hold := .fault 3, failing := [(3, 0x8001)] }
     w.hold = .fault 3 ∧ w.failing.find? (fun e => e.1 == 3) = some (3, 0x8001)) ∧
    (walkFor tWalking 15 0 0x10000 0 = some (tWalk 1 .queued) ∧ (tWalk 1 .queued).stage = .queued ∧
      64 ≤ (tWalking.walks.filter (fun x => x.reads && x.cache.floor == (tWalk 1 .queued).cache.floor)).length) ∧
    (moveOf tActive 0 0x10000 = none ∧ isRetired tActive true 5 = false ∧ (tActive.context 0).active = true ∧
      walk tActive (tActive.context 0) 0x10000 Access.read = .ok placedLeaf (hbmLoc 0x30008) false) ∧
    (∀ busy : Bool, moveOf (tMoving busy) 0 0x10000 = some tPageMove ∧
      (translatedBy 0 0 0x10000 (tMoving busy)).any (outstanding (tMoving busy)) = busy) ∧
    frameInUse tActive (frameLoc false 1) [] = false ∧ frameInUse (tMoving true) (frameLoc false 1) [] = true := by decide +kernel

theorem wit_Doorbells :
    (State.reset.accepts 4 = false ∧ tState.accepts 4 = true ∧ (tState.context 0).active = false) ∧
    (tActive.accepts 4 = true ∧ (tActive.context 0).active = true ∧
      ((5 : BitVec 32) - look 0 (tActive.context 0).lqtail 15).toNat ≤ 2 ^ (((tActive.context 0).word 0).extractLsb' 0 4).toNat ∧
      2 ^ (((tActive.context 0).word 0).extractLsb' 0 4).toNat < ((6 : BitVec 32) - look 0 (tActive.context 0).lqtail 15).toNat ∧
      (tActive.guard 0 255).state ≠ 1 ∧ launchesOf tActive 0 = []) ∧
    (let s := { tActive with contexts := [(0, { tContext with guards := [(255, ⟨1, 0⟩)] })] };
      (s.guard 0 255).state = 1 ∧ launchesOf (writeGuard 0 255 { s.guard 0 255 with state := 2#2 } s) 0 = [] ∧
      launchesOf (writeGuard 0 255 { s.guard 0 255 with state := 3#2 } s) 0 = []) ∧
    owns (tSeq 0) 0 0xfff = true := by decide +kernel

/-- A launch record of one team of one wave, and a launch of it, which its first word may shield. -/
def tLaunch (word1 : W64) (state : LState) (stop : Option Stop) : Launch := {
  record := [0, word1, 0, 1, 0, 0, 0, 0, 0, 0, 0, 0, 0, 0, 0, 0, 0, 0, 7], env := { tState.w.env with launchid := 7 }, hdr := 0x01000000
  state := state, status := 0, cause := 0, team1 := 1, level := 13, stamp := 0, placed := 0, waited := 0, since := 0, reserves := false, deps := [], next := 0
  retired := 0, replays := 0, snaps := if word1 = 1 then [] else [⟨1, 0, 0, 0x10000⟩], shielded := decide (word1 ≠ 1), irrepl := false, stopCause := stop }
def tStop (cause : BitVec 8) (va : W64) : Stop := ⟨cause, 1, 0, va, 0, 0, 0, false⟩
def tLaunched (word1 : W64) (state : LState) (stop : Option Stop) : State := { tActive with launches := [(0, tLaunch word1 state stop)] }

/-- A record with maxrep 1, and with anycause as well. -/
def tMaxrep : W64 := 0x0040000000000001
def tAnycause : W64 := 0x0060000000000001

/-- The queue record the command processor reads at level 15. -/
def tQueueRead : State × CpRead := cpRead 0 0 (queueAddress tContext 15 0) 3 (queueAddress tContext 15 0) 256 tActive

/-- Two copies of a paired launch at a comparison point, with signatures equal or not. -/
def tPair (differ : W64) : State :=
  let s := (tLaunched 1 .running none).onWave (fun w => { w with pair := some (1, true), hold := .pair })
  { s with waves := [(1, { s.w with pair := some (0, false), slot := 1, signature := s.w.signature + differ })] }

theorem wit_SchedulerSteps :
    ((tActive.context 0).active = true ∧ (tActive.context 0).closing = false ∧ queueWaits (tActive.context 0) 15 = true ∧
      look 0 (tActive.context 0).lqhead 15 = 0 ∧ (match tQueueRead.2 with
        | .ok bs => (checkLaunch 0 (doublesOf bs) (queueAddress tContext 15 0) false [] tQueueRead.1).2
        | _ => false) = true) ∧
    placeOrder tState = [] ∧
    (let l := { tLaunch 1 .eligible none with env := Env.none };
      let s := { tActive with launches := [(0, l)] };
      find s.launches 0 = some l ∧ l.unplaced = true ∧ l.env.handles = [] ∧ l.level < 14 ∧ l.reserves = false ∧ heldBack s 0 = false) ∧
    (∀ stop ∈ [tStop 0x06 0, tStop Cause.poison 0x50000, tStop Cause.poison 0x10100], ∀ l ∈ [tLaunch 1 .running (some stop), tLaunch tMaxrep .running (some stop), tLaunch tAnycause .running (some stop)],
      (find ({ tActive with launches := [(0, l)] } : State).launches 0).isSome = true ∧ l.state ≠ .ended) ∧
    (tStop 0x06 0).cause ≠ Cause.poison ∧ (tLaunch 1 .running (some (tStop 0x06 0))).anycause = false ∧
      (tLaunch tAnycause .running (some (tStop 0x06 0))).anycause = true ∧ (tLaunch tAnycause .running none).replayable = true ∧
      (tLaunch 1 .running none).replayable = false ∧ (tLaunch tMaxrep .running none).replayable = true ∧
      probe (tLaunched 1 .running (some (tStop Cause.poison 0x50000))) 0 0x50000 Access.read = none ∧
      probe (tLaunched tMaxrep .running (some (tStop Cause.poison 0x10100))) 0 0x10100 Access.read = some 0x10100 ∧
      heldBefore (tLaunched tMaxrep .running none) (tLaunch tMaxrep .running none) (0x10100 / 65536) = true ∧
    (∀ s ∈ [tPair 0, tPair 1], (s.wave 0).pair = some (1, true) ∧ (s.wave 1).pair = some (0, false) ∧ atPoint (s.wave 0) = true ∧
      atPoint (s.wave 1) = true ∧ logFree (s.wave 0) s = true ∧ (find s.launches (s.wave 0).launch).isSome = true) ∧
    ((tPair 0).wave 0).pairSignature = ((tPair 0).wave 1).pairSignature ∧ ((tPair 1).wave 0).pairSignature ≠ ((tPair 1).wave 1).pairSignature ∧
    (eccSector 0x10100, (0 : BitVec 8)) ∉ tActive.decided ∧
      (eccSector 0x10100, (0 : BitVec 8)) ∈ ({ tActive with decided := [(eccSector 0x10100, 0)] } : State).decided := by decide +kernel

/-- Two copies whose log holds a store, with no page left in the pool of a launch that runs ahead, or with the store's line in use. -/
def tPairLog (full busy : Bool) : State :=
  let l := { tLaunch 1 .running none with
    record := [0, 1, 0, 1, 0, 0, 0, 0, 0, 0, 0, 0, 0, 1, 0, 0, 0, 0, 7], deps := [⟨3, true, 0, 0, false⟩], snaps := [] }
  let s := (tPair 0).onWave (fun w => { w with pairLog := [tAccess .store 0 none .held true false] })
  let s := { s with
    waves := [(1, { s.wave 1 with pairLog := [] })], launches := if full then [(0, l)] else []
    contexts := [(0, { tContext with words := tContext.words.set 7 0 })] }
  if busy then s.onWhorl (homeWhorl s 0x202) (fun h => { h with busy := [(0x202, [3])] }) else s

theorem wit_SchedulerSteps_log : ∀ full busy : Bool,
    let s := tPairLog full busy
    ((s.wave 0).pair = some (1, true) ∧ (s.wave 1).pair = some (0, false) ∧ atPoint (s.wave 0) = true ∧ atPoint (s.wave 1) = true ∧
      (s.wave 0).pairSignature = (s.wave 1).pairSignature) ∧ logFree (s.wave 0) s = !busy ∧ (performLog 0 (s.wave 0).pairLog s).isSome = !full := by
  intro full busy; cases full <;> cases busy <;> decide +kernel

/-- A dirty tile whose page a launch in flight holds, or does not hold. -/
def tReported (word1 : W64) : State :=
  { tDirtyTile (some 0) with contexts := [(0, tContext)], launches := [(0, tLaunch word1 .running none)], mem := tActive.mem }

/-- A poison report finds the one or the other. -/
theorem wit_WhorlSteps_report :
    (∀ s ∈ [tReported tMaxrep, tReported 1], (s.context 0).active = true ∧ (inFlightOf s 0).length = 1 ∧
      ((inFlightOf s 0).filter (fun e => e.2.snaps.any (fun x => x.page == 1))).all (fun e => e.2.replayable && heldBefore s e.2 1) = true) ∧
    (inFlightOf (tReported tMaxrep) 0).filter (fun e => e.2.snaps.any (fun x => x.page == 1)) ≠ [] ∧
    (inFlightOf (tReported 1) 0).filter (fun e => e.2.snaps.any (fun x => x.page == 1)) = [] := by decide +kernel

/-- The active context with its Distaff as given. -/
def tDistaff (f : Distaff → Distaff) : State := { tActive with contexts := [(0, { tContext with distaff := f tContext.distaff })] }

/-- The sequence of slot 4095 of `tSeq` ended, as retirement asks. -/
def tRetiring : State := tStore (0x1000000 + 128 * 4095) [0x8000000000000080, 0, 0, 0, 0, 0, 0, 0, 0, 0, 0, 0, 0, 0, 1] tState

/-- The Distaff with a sequence in its batch, its pages outside the sequence table: before its first step, and while a step whose
chain has finished runs. -/
def tStepped (f : Distaff → Distaff) : State := tStore (0x1000000 + 128 * 4095) [0x8000000000000080, 0, 0x10100, 0x10200, 0x10c00]
  (tStore 0x30008 [0x20006d, 0, 0x21006d] (tDistaff (fun d => f { d with batch := [4095] })))
def tBatch : State := tStepped id
def tAhead : State := tStepped (fun d => { d with running := true, done := true })

theorem wit_DistaffSteps :
    ((tActive.context 0).active = true ∧ (tActive.context 0).closing = false ∧ ((tActive.context 0).word 0).getLsbD 61 = true ∧
      ((tDistaff (fun d => { d with chain := some (0, 7, true) })).context 0).distaff.chain = some (0, 7, true)) ∧
    ((tBatch.context 0).distaff.chain = none ∧ (tBatch.context 0).distaff.running = false ∧ ((admissionPoint 0 tBatch).distaffOf 0).running = false ∧
      ((admissionPoint 0 tBatch).distaffOf 0).pending = [] ∧
      ((admissionPoint 0 tBatch).distaffOf 0).batch ++ ((admissionPoint 0 tBatch).distaffOf 0).joined ≠ [] ∧
      (match beginStep 0 ((admissionPoint 0 tBatch).distaffOf 0).step
        (((admissionPoint 0 tBatch).distaffOf 0).batch ++ ((admissionPoint 0 tBatch).distaffOf 0).joined) false (admissionPoint 0 tBatch) with
        | .inl _ => true | .inr _ => false) = true) ∧
    ((tAhead.context 0).distaff.chain = none ∧ (tAhead.context 0).distaff.running = true ∧ (tAhead.context 0).distaff.admitDue = false ∧
      (tAhead.context 0).distaff.ahead = false ∧ chainFinished tAhead 0 (tAhead.context 0).distaff.step = true ∧
      (match beginStep 0 ((tAhead.context 0).distaff.step + 1) ((tAhead.context 0).distaff.batch ++ (tAhead.context 0).distaff.joined) true tAhead with
        | .inl _ => true | .inr _ => false) = true) ∧
    (let s := tDistaff (fun d => { d with running := true, done := true });
      (s.distaffOf 0).running = true ∧ (s.distaffOf 0).done = true ∧ (s.distaffOf 0).batch = [] ∧ (s.distaffOf 0).ahead = false) ∧
    (seqWord tRetiring 4095 0).getLsbD 63 = true ∧ (seqWord tRetiring 4095 14).extractLsb' 0 8 ≠ 0 := by decide +kernel

/-- A team of the launch, of the wave in focus. -/
def tTeam (halting saved sealed : Bool) : Team := {
  launch := 0, teamid := 0, core := 0, twin := false, left := 1, barriers := [], halting := halting, saved := saved, commands := [], block := (0, 1)
  sealed := sealed, age := 0, partner := none, stopped := none, backing := [] }
def tTeamed (halting saved sealed : Bool) : State :=
  { (tLaunched 1 .running none).onWave (fun w => { w with halted := true, station := if saved then .saved else .live }) with
    teams := [(0, tTeam halting saved sealed)] }

/-- The same with a matrix operation started; with a save area of one unit and the context closing; with a result on its way; and with
its save area where nothing is mapped. -/
def tRunning : State := (tTeamed true false false).onWave (fun w => { w with matrix := [tMatrix .mstz true] })
def tClosing : State := { tTeamed true false false with contexts := [(0, { tContext with closing := true, words := tContext.words.set 4 0x50900 })] }
def tUnsettled : State := (tTeamed false true false).onWave (fun w => { w with producers := [⟨0, 0, [], [], [5]⟩] })
def tUnmapped : State := { tTeamed false true true with contexts := [(0, { tContext with words := tContext.words.set 4 0x50900 })] }

theorem wit_PreemptionSteps :
    (find (tTeamed false false false).teams 0 = some (tTeam false false false) ∧ find (tTeamed false false false).launches 0 = some (tLaunch 1 .running none) ∧
      roomBeside (tTeamed false false false) 0 [] (blockUnits (tLaunch 1 .running none).demand) = true) ∧
    (∀ s ∈ [tTeamed true false false, tRunning, tClosing], find s.teams 0 = some (tTeam true false false) ∧
      ∀ e ∈ teamWaves s 0, e.2.atRest = true) ∧
    (teamQuiet (haltTeam 0 (tTeamed true false false)) 0 = true ∧
      (freeUnits (haltTeam 0 (tTeamed true false false)) 0 (blockUnits (tLaunch 1 .running none).demand)).isSome = true) ∧
    teamQuiet (haltTeam 0 tRunning) 0 = false ∧
    (teamQuiet (haltTeam 0 tClosing) 0 = true ∧ freeUnits (haltTeam 0 tClosing) 0 (blockUnits (tLaunch 1 .running none).demand) = none ∧
      ((haltTeam 0 tClosing).context 0).closing = true) ∧
    (find (tTeamed false true false).teams 0 = some (tTeam false true false) ∧ ∀ e ∈ teamWaves (tTeamed false true false) 0, e.2.settled = true) ∧
    (find tUnsettled.teams 0 = some (tTeam false true false) ∧ ∃ e ∈ teamWaves tUnsettled 0, e.2.settled = false) ∧
    (∀ s ∈ [tTeamed false true true, tUnmapped], find s.teams 0 = some (tTeam false true true) ∧
      383 ∈ spots s (tLaunch 1 .running none).env.part.toNat (tLaunch 1 .running none).demand ∧
      fitsWithout s [] (tLaunch 1 .running none).demand 383 = true) ∧
    (∀ a ∈ [Access.read, Access.write], unitFaults (tTeamed false true true) 0 (0, 1) a = [] ∧ unitFaults tUnmapped 0 (0, 1) a ≠ []) ∧
    (∀ s ∈ [tTeamed false true false, tUnsettled], unitFaults s 0 (0, 1) Access.write = [] ∧ unitsHeld s 0 (0, 1) = []) ∧
    (find { tUnmapped with teams := [(0, tTeam false true false)] }.teams 0 = some (tTeam false true false) ∧
      unitFaults { tUnmapped with teams := [(0, tTeam false true false)] } 0 (0, 1) Access.write ≠ []) ∧
    blockPoison (tTeamed false true true) 0 (tTeam false true true) = none ∧
    blockPoison { tTeamed false true true with poison := [0x10900 / 32] } 0 (tTeam false true true) ≠ none ∧
    (tLaunch 1 .running none).stopCause = none := by decide +kernel

/-- The small state with a mailbox command busy. -/
def tBusy (cmd : BitVec 8) (args : List W64) : State := { tState with mgmt := { tState.mgmt with mbstat := 1, mbcmd := cmd, args := args } }

/-- The same for CTXWRITE of entry 63 with bit 63 of the host's first word given, on a part with contexts. -/
def tCtxwrite (word0 : W64) (contexts : SMap Context) : State := { tStore (hostPhysLoc 0x1000) [word0] (tBusy 0x10 [63, 0x1000, 0, 0]) with contexts := contexts }

/-- Word 0 of the entry CTXWRITE reads at the host. -/
def ctxwriteWord (s : State) : W64 := (doublesOf (hostBytes s (s.mgmt.arg 1) 256)).getD 0 0

theorem wit_Mailbox :
    (∀ p ∈ [(Instr.identify, 0x01#8), (.fwload, 0x02), (.rollfwd, 0x03), (.evring, 0x08), (.ctxwrite, 0x10), (.partset, 0x11),
        (.wstat, 0x20), (.retlist, 0x21), (.islcap, 0x30), (.skroute, 0x31), (.reset, 0x40)],
      (tBusy p.2 []).mgmt.mbstat = 1 ∧ (tBusy p.2 []).mgmt.mbcmd = p.2) ∧
    tState.mgmt.mbstat ≠ 1 ∧
    (∀ p ∈ [(tCtxwrite 0x8000000000000000 [], true, false), (tCtxwrite 0x8000000000000000 [(0, tContext)], true, true), (tCtxwrite 0 [], false, false)],
      activeEntry p.1 ((p.1.mgmt.arg 0).toNat % 64) = none ∧ (ctxwriteWord p.1).msb = p.2.1 ∧
        (p.1.context ((ctxwriteWord p.1).extractLsb' 48 8)).active = p.2.2) ∧
    (∀ p ∈ [(tCtxwrite 0x8000000000000000 [(0, { tContext with entry := 63 })], true), (tCtxwrite 0 [(0, { tContext with entry := 63 })], false)],
      activeEntry p.1 ((p.1.mgmt.arg 0).toNat % 64) = some 0 ∧ (ctxwriteWord p.1).msb = p.2) ∧
    ((∃ e ∈ ({ tBusy 0x11 [0, 0, 0, 0] with contexts := [(0, tContext)] } : State).contexts, e.2.active = true) ∧
      ∀ e ∈ (tBusy 0x11 [0, 0, 0, 0]).contexts, e.2.active = false) ∧
    (((tBusy 0x30 [15, 1600, 0, 0]).mgmt.arg 0).toNat % 16 = 15 ∧ 1600 ≤ (((tBusy 0x30 [15, 1600, 0, 0]).mgmt.arg 1).extractLsb' 0 16).toNat ∧
      (((tBusy 0x30 [15, 3200, 0, 0]).mgmt.arg 1).extractLsb' 0 16).toNat ≤ 3200 ∧ ((tBusy 0x30 [4, 0, 0, 0]).mgmt.arg 0).toNat % 16 ≤ 4 ∧
      4 < ((tBusy 0x30 [5, 0, 0, 0]).mgmt.arg 0).toNat % 16 ∧ ((tBusy 0x30 [5, 0, 0, 0]).mgmt.arg 0).toNat % 16 ≠ 15) ∧
    (State.reset.mgmt.mbstat ≠ 1 ∧ (0x10#64).toNat % 256 = 0x10 ∧ State.reset.accepts 6 = false ∧ tState.accepts 6 = true ∧
      3 < State.reset.mgmt.args.length) := by decide +kernel

theorem wit_ManagementSteps :
    (State.reset.accepts 1 = false ∧ tState.accepts 1 = true ∧ tState.mgmt.error = 0 ∧
      ({ tState with mgmt := { tState.mgmt with stage := 2 } } : State).mgmt.stage ≠ 3 ∧
      ({ tState with mgmt := { tState.mgmt with stage := 2 } } : State).accepts 1 = true) ∧
    tState.mgmt.lmsUsed < 2 ^ 20 ∧ 2 ^ 20 ≤ ({ tState.mgmt with lmsUsed := 2 ^ 20 } : Mgmt).lmsUsed ∧ tState.mgmt.tripped = false ∧
    (tState.mgmt.powerCap < 3201 ∧ 3400 ≤ 3400 ∧ 3400 < 3401) ∧
    (∀ c ∈ [(0, 383), (1, 383), (2, 15), (3, 127), (4, 63)], c.2 < islandCount c.1 ∧ tState.freq c.1 c.2 ≠ 0) ∧ 0 < islandCount 5 := by decide +kernel


/-! ### Hypotheses met: frames, steps and the encoding -/

/-- What a step answers next, where it does. -/
def nextOf : Result → Option State
  | .next t => some t
  | _ => none

theorem next_of {r : Result} (h : (nextOf r).isSome = true) : ∃ t, r = .next t := by
  cases r <;> simp_all [nextOf]

/-- The placed state of an instruction's bits, and the words its wave is about to execute. -/
def tPlaced (bits : BitVec 64) : State := placeInstruction bits State.reset
noncomputable def wordsAt (s : State) : Option (W32 × W32) :=
  match prepare (s.focusOn 0) with
  | .words a b _ => some (a, b)
  | .done _ => none

theorem words_of {s : State} {a b : W32} (h : wordsAt s = some (a, b)) : ∃ s', prepare (s.focusOn 0) = .words a b s' := by
  unfold wordsAt at h
  split at h <;> simp_all

/-- SMOVI s1, 16, and a word of an unassigned major. -/
theorem wit_StepRunsDecoded :
    (tPlaced 0x10080010).agenda = [] ∧ issuers (tPlaced 0x10080010) = [0] ∧ (deviceChoices (tPlaced 0x10080010)).isEmpty = true ∧
      (∃ s', prepare ((tPlaced 0x10080010).focusOn 0) = .words 0x10080010 0 s') ∧
      decode 0x10080010 0 = .ok (.smovi 1 16) ∧
      (tPlaced 0xf8000000).agenda = [] ∧ issuers (tPlaced 0xf8000000) = [0] ∧ (deviceChoices (tPlaced 0xf8000000)).isEmpty = true ∧
      (∃ s', prepare ((tPlaced 0xf8000000).focusOn 0) = .words 0xf8000000 0 s') ∧
      ((match decode 0xf8000000 0 with | .error _ => true | .ok _ => false) = true) := by
  and_intros <;> first | exact words_of (by decide +kernel) | decide +kernel

/-- What a fetch reads. -/
def wordOf : State × Fetch → Option W32
  | (_, .word x) => some x
  | _ => none

theorem word_of {r : State × Fetch} {x : W32} (h : wordOf r = some x) : r = (r.1, .word x) := by
  obtain ⟨s, f⟩ := r
  cases f <;> simp_all [wordOf]

/-- The same in the middle of its clause. -/
def tMiddle (bits : BitVec 64) : State := (tPlaced bits).onArch (fun a => { a with pos := { a.pos with index := 1 } })

theorem wit_StepRunsDecoded_fetch :
    (let s := tMiddle 0x10080010;
      s.w.pend = none ∧ s.w.txn.any (·.faulted) = false ∧ awaitsFlags s = false ∧ s.w.a.pos.inClause = true ∧ s.w.a.pos.index ≠ 0 ∧ headerD s.w.a.pos.header s.w.a.pos.index = false ∧
        fetchWord s.w.a.pos.pc s = ((fetchWord s.w.a.pos.pc s).1, .word 0x10080010) ∧ wordBad s.w.a.pos 0x10080010 = false ∧
        isLong 0x10080010 = false) ∧
    (let s := tMiddle 0x000000009c50b180;
      let s1 := (fetchWord s.w.a.pos.pc s).1;
      s.w.pend = none ∧ s.w.txn.any (·.faulted) = false ∧ awaitsFlags s = false ∧ s.w.a.pos.inClause = true ∧ s.w.a.pos.index ≠ 0 ∧ headerD s.w.a.pos.header s.w.a.pos.index = false ∧
        fetchWord s.w.a.pos.pc s = (s1, .word 0x9c50b180) ∧ wordBad s.w.a.pos 0x9c50b180 = false ∧ isLong 0x9c50b180 = true ∧
        fetchWord (s.w.a.pos.pc + 4) s1 = ((fetchWord (s.w.a.pos.pc + 4) s1).1, .word 0)) := by
  and_intros <;> first | exact word_of (by decide +kernel) | decide +kernel

theorem wit_StepRunsDecoded_memory :
    let s := tPlaced 0x10080010
    let r := translateBytes s (.core s.w.core) s.w.env.tag 0x10044 4 Access.fetch
    inCode s.w 0x10044 = true ∧ find s.w.kept 0x10044 = none ∧ r = (r.1, .inl (okLocs r)) ∧ anyPoison r.1 (okLocs r) = false ∧
      find (r.1.core r.1.w.core).fetched (fetchKey r.1.w.env.tag 0x10044) = none :=
  ⟨by decide +kernel, by decide +kernel, ok_range (by decide +kernel), by decide +kernel, by decide +kernel⟩

theorem wit_StepRunsDecoded_kept :
    let s := (tPlaced 0x10080010).onWave (fun w => { w with kept := [(0x10044, 0x10080010)] })
    inCode s.w 0x10044 = true ∧ find s.w.kept (0x10044 : W64).toNat = some 0x10080010 := by decide +kernel

theorem wit_StepRunsDecoded_agenda :
    ({ tState with agenda := [.carderRound 3] } : State).agenda = .carderRound 3 :: [] := by decide +kernel

theorem wit_RoundTrip :
    (Instr.wellFormed (.pblk 127 7 0xff true) = true ∧ (encode (.pblk 127 7 0xff true)).isSome = true) ∧
      (Instr.wellFormed (.mma 127 126 125 true true true 7 7 127 127 3 true true 127) = true ∧
        (encode (.mma 127 126 125 true true true 7 7 127 127 3 true true 127)).isSome = true) ∧
      (Instr.wellFormed (.cpyg 127 126 125 true true true 63 true true 3) = true ∧
        (encode (.cpyg 127 126 125 true true true 63 true true 3)).isSome = true) := by decide +kernel

theorem wit_DecodeUnique :
    decode 0x00181042 0xffffffff = .ok (.sadd 3 1 2 true false) ∧ decode 0x00181042 0 = .ok (.sadd 3 1 2 true false) ∧
      decode 0x9c50b188 0x00070105 = .ok (.cpyg 10 11 12 false false false 7 true true 1) := by decide +kernel

theorem wit_CanonicalStep :
    Canonical State.reset ∧ (∃ t, step State.reset = .next t) ∧
      Canonical (tPlaced 0x442820d8) ∧ ∃ t, step (tPlaced 0x442820d8) = .next t :=
  ⟨by unfold Canonical; decide +kernel, next_of (by decide +kernel), by unfold Canonical; decide +kernel, next_of (by decide +kernel)⟩

theorem wit_OwnedScalars :
    (tNarrow 0 0).w.sregs = 16 ∧ 1 ≤ (tNarrow 0 0).w.sregs ∧
      (tNarrow 0 0).w.badS 14 = false ∧ (tNarrow 0 0).w.badS 15 = true ∧ (tNarrow 0 0).w.badS 126 = true ∧ (tNarrow 0 0).w.badS 127 = false := by
  decide +kernel

/-- The small state with a jump's target, inside the code, in s0 and s127. -/
def tJump : State := tWave (fun w => { w with a := { w.a with s := [(0, 0x10040), (127, 0x10040)] } })

theorem wit_ScalarFrame :
    (Issues (useS3 0 126 127 true true) tState tState ∧ ∃ t, exec (.sadd 0 126 127 true true) tState = .next t) ∧
      (Issues { useS3 126 0 127 true true with oldS := [126] } tState tState ∧ ∃ t, exec (.ssel 126 0 127 true true) tState = .next t) ∧
      (Issues (useS1 127 0 true) tState tState ∧ (∃ t, exec (.sshli 127 0 255 true) tState = .next t) ∧ ∃ t, exec (.sclz 127 0 true) tState = .next t) ∧
      (Issues { dstS := [127] } tState tState ∧ (∃ t, exec (.smovi 127 0x40000) tState = .next t) ∧ ∃ t, exec (.sgetx 127) tState = .next t) ∧
      (Issues { oldS := [0], dstS := [0] } tState tState ∧ ∃ t, exec (.sinsh 0 3 0xffff) tState = .next t) ∧
      (Issues { srcS := [(0, true)] } tJump tJump ∧ badTarget tJump.w (tJump.sreg 0) = false ∧ (∃ t, exec (.ssetx 0 true) tJump = .next t) ∧
        (∃ t, exec (.brz 0 true 0x2000) tJump = .next t) ∧ (∃ t, exec (.sandx 127 0 true) tState = .next t) ∧ ∃ t, exec (.jmpr 0 true) tJump = .next t) ∧
      (Issues {} tState tState ∧ (∃ t, exec (.brxall 0x1fffff) tState = .next t) ∧ ∃ t, exec .nop tState = .next t) ∧
      (Issues { dstS := [127] } tState tState ∧ ∃ t, exec (.call 40) tState = .next t) ∧
      (Issues { srcS := [(0, true)], dstS := [127] } tJump tJump ∧ ∃ t, exec (.callr 0 true) tJump = .next t) ∧
      Issues { oldS := [127] } tJump tJump ∧ badTarget tJump.w (tJump.sreg 127) = false ∧ ∃ t, exec .ret tJump = .next t := by
  and_intros <;> first | exact issues_here (by decide +kernel) | exact next_of (by decide +kernel) | decide +kernel

theorem wit_VectorFrame :
    (Issues (useV3 0 126 127 true true) tState tState ∧ (∃ t, exec (.vadd 0 126 127 true true) tState = .next t) ∧ tState.w.undefRegs = [] ∧
      tState.w.acting.getLsbD 63 = false ∧ tState.w.fte = 0 ∧ ∃ t, exec (.vfadd 0 126 127 true true) tState = .next t) ∧
      (Issues (useVS 0 126 127 true true) tState tState ∧ (∃ t, exec (.vadds 0 126 127 true true) tState = .next t) ∧
        ∃ t, exec (.vfadds 0 126 127 true true) tState = .next t) ∧
      (Issues (useV1 127 0 true) tState tState ∧ ∃ t, exec (.vshli 127 0 31 true) tState = .next t) ∧
      (Issues { useV3 127 0 1 true true with oldV := [127] } tState tState ∧ ∃ t, exec (.vfmac 127 0 1 true true) tState = .next t) ∧
      (Issues { useVS 127 0 1 true true with oldV := [127] } tState tState ∧ ∃ t, exec (.vfmacs 127 0 1 true true) tState = .next t) ∧
      (Issues (useVC 0 126 127 true true) tState tState ∧ (∃ t, exec (.vclt 0 126 127 true true) tState = .next t) ∧
        ∃ t, exec (.vfclt 0 126 127 true true) tState = .next t) ∧
      ((∃ t, exec (.vmov 127 0 true) tState = .next t) ∧ (∃ t, exec (.vshuf 0 126 127 true true) tState = .next t) ∧
        Issues { useV1 127 0 true with srcV := (regsFrom 0 3).map (fun r => (r, true)), illegal := tState.w.rangeHitsPort 0 3 } tState tState ∧
        ∃ t, exec (.vunpk6 127 0 1 true) tState = .next t) ∧
      (indexed tState 0 = some 0 ∧ Issues (useVwrx tState 126 0 true true) tState tState ∧ ∃ t, exec (.vwrx 126 0 true true) tState = .next t) ∧
      (Issues { covered := true, srcV := [(0, true)], oldV := regsFrom 125 3, dstV := regsFrom 125 3, illegal := tState.w.rangeHitsPort 125 3 }
          tState tState ∧ (∃ t, exec (.vpk6 125 0 3 true) tState = .next t) ∧ (∃ t, exec (.vcmpk 127 0 true) tState = .next t) ∧
        Issues { covered := true, srcV := [(0, true)], dstS := [126] } tState tState ∧ (∃ t, exec (.vreda 126 0 true) tState = .next t) ∧
        Issues { useV1 127 0 true with late := true } tState tState ∧ ∃ t, exec (.vsqrt 127 0 true) tState = .next t) ∧
      (Issues { useV1 127 0 true with oldV := [127] } tState tState ∧ ∃ t, exec (.vcf16 127 0 0 1 true) tState = .next t) ∧
      Issues { useV1 127 0 true with oldV := [127], illegal := slotIllegal tMem.w 0 Element.isByte } tMem tMem ∧ tMem.w.fte = 0 ∧
        ∃ t, exec (.vcnar 127 0 0 0 3 true) tMem = .next t := by
  and_intros <;> first | exact issues_here (by decide +kernel) | exact next_of (by decide +kernel) | decide +kernel

theorem wit_MemoryFrame :
    (Issues { srcS := [(2, true)], dstS := [126], late := true } tMem tMem ∧
      (∃ t' hd places, Accesses {
        handle := 0, byp := false, kind := .load, n := 8, align := 8, op := .loadS 126 8 false,
        offs := [(64, (tMem.sreg 2).toNat)], dstS := [126] } tMem tMem t' hd places) ∧ ∃ t, exec (.sldd 126 2 0 false true) tMem = .next t) ∧
    (Issues { srcS := [(2, true), (126, true)] } tMem tMem ∧
      (∃ t' hd places, Accesses {
        handle := 0, byp := true, kind := .store, n := 8, align := 8, op := .store,
        offs := [(64, (tMem.sreg 2).toNat)], data := fun _ => bytesOfNat (tMem.sreg 126).toNat 8 } tMem tMem t' hd places) ∧
      ∃ t, exec (.sstd 126 2 0 true true true) tMem = .next t) ∧
    (badGroup tMem 124 4 = false ∧ Issues { covered := true, srcV := [(0, true)], dstV := regsFrom 124 4, late := true } tMem tMem ∧
      (∃ t' hd places, Accesses {
        handle := 0, byp := false, kind := .load, n := 16, align := 16, op := .loadV 124 16 false,
        offs := tMem.w.actingThreads.map (fun th => (th, (tMem.vreg 0 th).toNat)), dstV := regsFrom 124 4 } tMem tMem t' hd places) ∧
      ∃ t, exec (.vldq 124 0 0 false true) tMem = .next t) ∧
    (badGroup tMem 127 1 = false ∧ Issues { covered := true, srcV := (1, true) :: (regsFrom 127 1).map (fun r => (r, true)) } tMem tMem ∧
      (∃ t' hd places, Accesses {
        handle := 0, byp := false, kind := .store, n := 4, align := 4, op := .store,
        offs := tMem.w.actingThreads.map (fun th => (th, (tMem.vreg 1 th).toNat)), data := vectorData tMem 127 1 4 } tMem tMem t' hd places) ∧
      ∃ t, exec (.vstw 127 1 0 false true true) tMem = .next t) ∧
    badGroup tMem 126 (lineRegs tMem) = false ∧
    (Issues { covered := true, srcV := [(0, true)], dstV := regsFrom 126 (lineRegs tMem), late := true } tMem tMem ∧
      (∃ t' hd places, Accesses mVldl tMem tMem t' hd places) ∧ ∃ t, exec (.vldl 126 0 0 false true) tMem = .next t) ∧
    Issues { covered := true, srcV := (0, true) :: (regsFrom 126 (lineRegs tMem)).map (fun r => (r, true)) } tMem tMem ∧
      (∃ t' hd places, Accesses mVstl tMem tMem t' hd places) ∧ ∃ t, exec (.vstl 126 0 0 false true true) tMem = .next t := by
  and_intros <;> first | exact issues_here (by decide +kernel) | exact accesses_of_check (by decide +kernel) | exact next_of (by decide +kernel) | decide +kernel

/-! ### Words of the spec's encodings, written out field by field, and what they stand for -/

theorem test_decode_sadd : decodeTableWord 32 0x00181042 = some (.sadd 3 1 2 true false) := by decide +kernel
theorem test_decode_scltu : decodeTableWord 32 0x08103090 = some (.scltu 2 3 4 false false) := by decide +kernel
theorem test_decode_smovi : decodeTableWord 32 0x10080010 = some (.smovi 1 16) := by decide +kernel
theorem test_decode_sinsh : decodeTableWord 32 0x140e8000 = some (.sinsh 1 3 0x8000) := by decide +kernel
theorem test_decode_sandx : decodeTableWord 32 0x18205008 = some (.sandx 4 5 false) := by decide +kernel
theorem test_decode_ssetx : decodeTableWord 32 0x18004004 = some (.ssetx 4 false) := by decide +kernel
theorem test_decode_br_back : decodeTableWord 32 0x203ffff4 = some (.br (-12)) := by decide +kernel
theorem test_decode_brxz : decodeTableWord 32 0x20400005 = some (.brxz 5) := by decide +kernel
theorem test_decode_call : decodeTableWord 32 0x21000028 = some (.call 40) := by decide +kernel
theorem test_decode_brz : decodeTableWord 32 0x24018006 = some (.brz 3 false 6) := by decide +kernel
theorem test_decode_jmpr : decodeTableWord 32 0x28009000 = some (.jmpr 9 false) := by decide +kernel
theorem test_decode_ret : decodeTableWord 32 0x28000008 = some (.ret) := by decide +kernel
theorem test_decode_smfr : decodeTableWord 32 0x2c480200 = some (.smfr 9 0x004) := by decide +kernel
theorem test_decode_smtr : decodeTableWord 32 0x2c200010 = some (.smtr 4 0x000 false) := by decide +kernel
theorem test_decode_nop : decodeTableWord 32 0x30000000 = some (.nop) := by decide +kernel
theorem test_decode_trap : decodeTableWord 32 0x3000054c = some (.trap 42) := by decide +kernel
theorem test_decode_sleep : decodeTableWord 32 0x30002018 = some (.sleep 2 false) := by decide +kernel
theorem test_decode_bkpt : decodeTableWord 32 0x3000001c = some (.bkpt) := by decide +kernel
theorem test_decode_waitc : decodeTableWord 32 0x35007000 = some (.waitc 2 7 false) := by decide +kernel
theorem test_decode_waitr : decodeTableWord 32 0x3400c004 = some (.waitr 12) := by decide +kernel
theorem test_decode_bara : decodeTableWord 32 0x3810c400 = some (.bara 2 3 8 false false) := by decide +kernel
theorem test_decode_pblk : decodeTableWord 32 0x3c330400 = some (.pblk 6 3 4 false) := by decide +kernel
theorem test_decode_sldw : decodeTableWord 32 0x402820d0 = some (.sldw 5 2 3 false false) := by decide +kernel
theorem test_decode_sstd : decodeTableWord 32 0x442820d8 = some (.sstd 5 2 3 false false false) := by decide +kernel
theorem test_decode_vcnar : decodeTableWord 32 0x7850474c = some (.vcnar 10 4 3 1 2 false) := by decide +kernel
theorem test_decode_vldl : decodeTableWord 32 0x804000b8 = some (.vldl 8 0 2 false false) := by decide +kernel
theorem test_decode_vstw : decodeTableWord 32 0x84181114 = some (.vstw 3 1 4 true false false) := by decide +kernel
theorem test_decode_stbind : decodeTableWord 32 0x88a00180 = some (.stbind 20 6 false false) := by decide +kernel
theorem test_decode_wpin : decodeTableWord 32 0x8c382048 = some (.wpin 7 2 1 false false) := by decide +kernel
theorem test_decode_acas : decodeTableWord 64 0x0c22800090202164 = some (.acas 4 2 5 false false 6 8 2 true false false) := by decide +kernel
theorem test_decode_radd : decodeTableWord 32 0x94280100 = some (.radd 5 0 4 false false false) := by decide +kernel
theorem test_decode_tbegin : decodeTableWord 32 0x98283000 = some (.tbegin 5 3 false) := by decide +kernel
theorem test_decode_cpyg : decodeTableWord 64 0x000701059c50b188 = some (.cpyg 10 11 12 false false false 7 true true 1) := by decide +kernel
theorem test_decode_fence : decodeTableWord 32 0xa0000000 = some (.fence) := by decide +kernel
theorem test_decode_slbxl : decodeTableWord 64 0x01000000a45031c0 = some (.slbxl 10 3 7 false 1) := by decide +kernel
theorem test_decode_mnorm : decodeTableWord 32 0xc600000c = some (.mnorm 64) := by decide +kernel
theorem test_decode_watt : decodeTableWord 64 0x20000000cc028280 = some (.watt 0 40 20 false false 1) := by decide +kernel
theorem test_decode_crds : decodeTableWord 64 0x00000000d0104100 = some (.crds 2 4 8 false false false) := by decide +kernel
theorem test_decode_dmrd : decodeTableWord 64 0x00000002d0282068 = some (.dmrd 5 2 3 false false 2) := by decide +kernel
theorem test_decode_stepq : decodeTableWord 32 0xd4403000 = some (.stepq 8 3 false) := by decide +kernel

/-! ### Words the spec gives to no instruction -/

theorem test_refuse_major_1c : decodeTableWord 32 0x70000000 = none := by decide +kernel
theorem test_refuse_major_3e : decodeTableWord 32 0xf8000000 = none := by decide +kernel
theorem test_refuse_ret_operand : decodeTableWord 32 0x2800000c = none := by decide +kernel
theorem test_refuse_smfr_low_bits : decodeTableWord 32 0x2c480202 = none := by decide +kernel
theorem test_refuse_branch_cond_5 : decodeTableWord 32 0x21400000 = none := by decide +kernel

/-! ### Ill-formed terms, each beside the well-formed term next to it -/

/-- The first is refused, the second is not. -/
abbrev refused (p : Instr × Instr) : Prop := Instr.wellFormed p.1 = false ∧ Instr.wellFormed p.2 = true

/-- The fields of words. -/
theorem test_wf_words : ∀ p ∈ [
    (Instr.sshli 1 2 64 false, .sshli 1 2 63 false), (.sshri 1 2 64 false, .sshri 1 2 63 false), (.ssrai 1 2 64 false, .ssrai 1 2 63 false),
    (.vshli 1 2 32 false, .vshli 1 2 31 false), (.vshri 1 2 32 false, .vshri 1 2 31 false), (.vsrai 1 2 32 false, .vsrai 1 2 31 false),
    (.pblk 6 3 0x10 false, .pblk 6 3 0x0f false), (.vcf16 1 2 0 2 false, .vcf16 1 2 0 1 false), (.vcbf 1 2 0 2 false, .vcbf 1 2 0 1 false),
    (.vcf32h 1 2 2 false, .vcf32h 1 2 1 false), (.vcf32b 1 2 2 false, .vcf32b 1 2 1 false),
    (.mma 0 0 0 false false false 0 0 0 0 0 false true 0, .mma 0 0 0 false false false 0 0 0 0 0 true true 0),
    (.mma 0 0 0 false false false 0 0 0 0 0 false false 1, .mma 0 0 0 false false false 0 0 0 0 0 true false 1),
    (.mmaz 0 0 0 false false false 0 0 0 0 0 false true 0, .mmaz 0 0 0 false false false 0 0 0 0 0 true true 0),
    (.mmaz 0 0 0 false false false 0 0 0 0 0 false false 1, .mmaz 0 0 0 false false false 0 0 0 0 0 true false 1),
    (.tlbinv 1 0 3 false, .tlbinv 1 0 2 false), (.snapct 1 3 false, .snapct 1 2 false), (.dbgrd 1 0x180 false, .dbgrd 1 0x17f false),
    (.acknowledgement 384 0, .acknowledgement 383 0)],
    refused p := by decide +kernel

/-- The arguments of the device’s own steps. -/
theorem test_wf_events : ∀ p ∈ [
    (Instr.slotArbitration 1536, .slotArbitration 1535), (.transcendentalStart 1536, .transcendentalStart 1535),
    (.transcendentalResult 1536, .transcendentalResult 1535), (.matrixOperationStart (1536, 0), .matrixOperationStart (1535, 0)),
    (.matrixOperationComplete 1536, .matrixOperationComplete 1535), (.invalidationArrival 384 0, .invalidationArrival 383 0),
    (.evictionNotice 384 0, .evictionNotice 383 0), (.noticeCompletion 384 0, .noticeCompletion 383 0),
    (.spindleCommandStart 384, .spindleCommandStart 383), (.pageWalk 20 0 0 0, .pageWalk 19 0 0 0), (.teamRestore 0 384, .teamRestore 0 383),
    (.frontRequestAccept (16, []), .frontRequestAccept (15, [])), (.holdTimeout 16, .holdTimeout 15), (.tileLanding 16, .tileLanding 15),
    (.fillComplete 16 (0, []), .fillComplete 15 (0, [])), (.scratchMotionStart 16, .scratchMotionStart 15), (.portCapLoop 16, .portCapLoop 15),
    (.whorlPartial 0 0 16, .whorlPartial 0 0 15)],
    refused p := by decide +kernel

/-- More of them. -/
theorem test_wf_events_more : ∀ p ∈ [
    (Instr.rowGroupRefresh 16 0 [], .rowGroupRefresh 15 0 []), (.streamPrefetch 0 4, .streamPrefetch 0 3), (.queueFetch 0 2, .queueFetch 0 1),
    (.storeQueueDrain 0 4, .storeQueueDrain 0 3), (.carderRound 4, .carderRound 3), (.carderRecordRead 4, .carderRecordRead 3),
    (.lqtail 0 16 0, .lqtail 0 15 0), (.launchFetch 0 16, .launchFetch 0 15), (.skeinPortDown 16, .skeinPortDown 15),
    (.skeinPortUp 16, .skeinPortUp 15), (.cxlPortDown 4, .cxlPortDown 3), (.cxlPortUp 4, .cxlPortUp 3), (.storeQueueDrain 0 1, .storeQueueDrain 0 2),
    (.peerRequest 0 0 0 0 129 ([], false) [], .peerRequest 0 0 0 0 128 ([], false) []),
    (.peerRequest 0 0 1 0 0 (List.replicate 129 0, false) [], .peerRequest 0 0 1 0 0 (List.replicate 128 0, false) []),
    (.pairComparison 18432 0, .pairComparison 18431 0), (.pairComparison 0 18432, .pairComparison 0 18431),
    (.retentionWindowLoop 16 0 0, .retentionWindowLoop 15 0 0), (.retentionWindowLoop 0 8 0, .retentionWindowLoop 0 7 0)],
    refused p := by decide +kernel

/-! ### Single steps, their results from the spec's tables and examples -/

/-- What the meaning of an instruction leaves of a state. -/
noncomputable def after {α : Type} (i : Instr) (s : State) (f : State → α) : Option α := (nextOf (exec i s)).map f

/-- Scalar registers of the small state set; the vector registers of threads set, by register and thread. -/
def tScalars (l : List (Nat × W64)) : State := tWave (fun w => { w with a := { w.a with s := l } })
def tVectors (l : List (Nat × Nat × W32)) : State := tWave (fun w => { w with a := { w.a with v := l.map (fun e => (64 * e.1 + e.2.1, e.2.2)) } })

/-- R163: after SMOVI s1, 16 this SINSH leaves 0x8000000000000010. -/
theorem test_sinsh_top : after (.sinsh 1 3 0x8000) (tScalars [(1, 16)]) (·.sreg 1) = some 0x8000000000000010 := by decide +kernel

/-- R163: SMOVI's least value. -/
theorem test_smovi_negative : after (.smovi 1 0x40000) tState (·.sreg 1) = some (-262144) := by decide +kernel

/-- R161: addition wraps. -/
theorem test_sadd_wraps : after (.sadd 1 1 2 false false) (tScalars [(1, -1), (2, 2)]) (·.sreg 1) = some 1 := by decide +kernel

/-- Table 8.2: the high halves of −1 times −1 and of its unsigned reading. -/
theorem test_smulh : after (.smulh 3 1 1 false false) (tScalars [(1, -1)]) (·.sreg 3) = some 0 := by decide +kernel
theorem test_smulhu : after (.smulhu 3 1 1 false false) (tScalars [(1, -1)]) (·.sreg 3) = some 0xfffffffffffffffe := by decide +kernel

/-- R163: SSRAI shifts the sign in. -/
theorem test_ssrai_sign : after (.ssrai 3 1 63 false) (tScalars [(1, 0x8000000000000000)]) (·.sreg 3) = some (-1) := by decide +kernel

/-- Table 8.2: only sb[5:0] counts a shift. -/
theorem test_sshl_low_bits : after (.sshl 3 1 2 false false) (tScalars [(1, 1), (2, 65)]) (·.sreg 3) = some 2 := by decide +kernel

/-- Table 8.2: SSEL reads sd's old value. -/
theorem test_ssel_zero : after (.ssel 3 1 2 false false) (tScalars [(1, 5), (2, 7)]) (·.sreg 3) = some 7 := by decide +kernel

/-- Table 8.3: the lowest set bit of zero is 64. -/
theorem test_sffs_zero : after (.sffs 3 1 false) tState (·.sreg 3) = some 64 := by decide +kernel

/-- Table 8.3: SANDX copies exec, then narrows it. -/
theorem test_sandx : after (.sandx 4 5 false) (tScalars [(5, 0xff0000ff)]) (fun t => (t.sreg 4, t.w.a.exec)) = some (0xffff, 0xff) := by decide +kernel

/-- R166: a branch counts words from its own clause header, here 0x10040. -/
theorem test_brz_forward : after (.brz 3 false 6) tState (·.w.a.pos.pc) = some 0x10058 := by decide +kernel

/-- R166: CALL leaves the next clause header in s127. -/
theorem test_call : (nextOf (step ((State.reset).withFetchWord 32 0x21000028))).map (fun t => (t.w.a.pos.pc, t.sreg 127)) = some (0x100e0, 0x10048) := by
  decide +kernel

/-- R158, R169: TRAP 42 enters the user handler with its detail and the address of the word itself. -/
theorem test_trap_handler : after (.trap 42) tUser (fun t => (t.w.trcause, t.w.trpc, t.w.trexec, t.w.a.pos.pc)) = some (0x12a11, 0x10044, 0xffff, 0x10080) := by
  decide +kernel

/-- R193: the spec's example of VPK6. -/
theorem test_vpk6_low : after (.vpk6 20 4 1 false) (tVectors [(4, 0, 0x1f3e1809)]) (fun t => (t.vreg 20 0, t.vreg 21 0, t.vreg 22 0)) =
    some (0x09000000, 0x7fe6, 0) := by decide +kernel

/-- R61, Table 4.8: the T6 codes 0x0d and 0x1b are 0.625 and 12. -/
theorem test_vcf32t6_fraction : after (.vcf32t6 5 4 0 false) (tVectors [(4, 0, 0xcd)]) (·.vreg 5 0) = some 0x3f200000 := by decide +kernel
theorem test_vcf32t6_whole : after (.vcf32t6 5 4 3 false) (tVectors [(4, 0, 0x1b000000)]) (·.vreg 5 0) = some 0x41400000 := by decide +kernel

/-- R184: a thread outside exec keeps its value. -/
theorem test_vadd_inactive : after (.vadd 5 4 4 false false) ((tVectors [(4, 0, 3), (4, 1, 3), (5, 1, 9)]).onArch (fun a => { a with exec := 1 }))
    (fun t => (t.vreg 5 0, t.vreg 5 1)) = some (6, 9) := by decide +kernel

/-- R188: the F32 values 1 and 1 add to 2. -/
theorem test_vfadd_one : after (.vfadd 5 4 4 false false) (tVectors [(4, 0, 0x3f800000)]) (·.vreg 5 0) = some 0x40000000 := by decide +kernel

/-- R187, R156: a register number beyond the file traps 0x03; it is not reduced to v5. -/
theorem test_vwrx_beyond : after (.vwrx 0 2 false false) (tScalars [(2, 0x85)]) (fun t => (t.w.trcause, t.w.trpc, t.w.station == .live)) =
    some (0x03, 0x10044, false) := by decide +kernel

end Sys2Proof.Tests
end

section
/-! SUPPORT. The management domain: what a change of an island's frequency does, said once, the fold of such changes over a class and over
every class, and the steps of staged start, reset, attestation, power and temperature (R13, R331, R336, R337, R339). -/

namespace Sys2Proof.Machine

open Sys2Proof.Safety

/-! ### A frequency set -/

@[simp] theorem setFreq_mem (cls index f : Nat) (s : State) : (setFreq cls index f s).mem = s.mem := by
  unfold setFreq; split <;> rfl

@[simp] theorem setFreq_mgmt (cls index f : Nat) (s : State) :
    (setFreq cls index f s).mgmt = { s.mgmt with freqs := put 2600 s.mgmt.freqs (islandKey cls index) f } := by
  unfold setFreq; split <;> rfl

/-- Islands of two classes have different keys, and so have two islands of a class (Table 22.6). -/
theorem islandKey_inj {c i c' i' : Nat} (hi : i < 1024) (hi' : i' < 1024) : islandKey c i = islandKey c' i' ↔ c = c' ∧ i = i' := by
  unfold islandKey; omega

/-- A frequency set is read back at its island alone, unless the part has tripped. -/
theorem setFreq_freq {s : State} (live : s.mgmt.tripped = false) (cls f c : Nat) {index i : Nat} (h : index < 1024) (hi : i < 1024) :
    (setFreq cls index f s).freq c i = if cls = c ∧ index = i then f else s.freq c i := by
  simp [State.freq, live, islandKey_inj h hi]

theorem islandCount_le (cls : Nat) : islandCount cls ≤ 1024 := by
  unfold islandCount; split_ifs <;> omega

/-! ### The limits of a class -/

theorem islandFloor_le_islandTop (cls : Nat) : islandFloor cls ≤ islandTop cls := by
  unfold islandFloor islandTop; split_ifs <;> omega

theorem islandFloor_le_bestFreq (cls bound : Nat) : islandFloor cls ≤ bestFreq cls bound := le_max_left _ _

/-- The best frequency within a bound: at most the bound and the class's highest, or the class's lowest. -/
theorem bestFreq_le (cls bound : Nat) : bestFreq cls bound ≤ max (islandFloor cls) (min bound (islandTop cls)) := by
  unfold bestFreq
  refine max_le_max_left _ ?_
  split
  · exact Nat.div_mul_le_self _ 25
  · exact le_rfl

theorem bestFreq_le_islandTop (cls bound : Nat) : bestFreq cls bound ≤ islandTop cls :=
  (bestFreq_le cls bound).trans (max_le (islandFloor_le_islandTop cls) (min_le_right _ _))

/-- A best frequency is within every limit that is no lower than its bound, or the class's lowest. -/
theorem bestFreq_le_of_le (cls : Nat) {bound limit : Nat} (h : bound ≤ limit) : bestFreq cls bound ≤ max (islandFloor cls) limit :=
  (bestFreq_le cls bound).trans (max_le_max_left _ ((min_le_left _ _).trans h))

/-! ### Running islands retuned -/

/-- A new frequency as a function of the old one, for an island that runs; a gated one stays gated. -/
def tuned (g : Nat → Nat) (f : Nat) : Nat := if f = 0 then 0 else g f

/-- An island retuned: what one step of MODULE_POWER_LOOP and of FAST_CLAMP does to it. -/
def retune (g : Nat → Nat) (cls index : Nat) (s : State) : State :=
  if s.freq cls index = 0 then s else setFreq cls index (g (s.freq cls index)) s

/-- A step down of 12.5 MHz, within the limits of a class. -/
def lowered (cls f : Nat) : Nat := max (islandFloor cls) (f - 25)

theorem stepDown_eq_retune {cls : Nat} (h : cls ≠ 5) (index : Nat) (s : State) : stepDown cls index s = retune (lowered cls) cls index s := by
  simp [stepDown, retune, lowered, h]

@[simp] theorem retune_mem (g : Nat → Nat) (cls index : Nat) (s : State) : (retune g cls index s).mem = s.mem := by
  unfold retune; split <;> simp

@[simp] theorem retune_power (g : Nat → Nat) (cls index : Nat) (s : State) : (retune g cls index s).mgmt.power = s.mgmt.power := by
  unfold retune; split <;> simp

/-- A retuned island has its new frequency, and every other island its old one. After a trip every frequency is 0 and stays 0. -/
theorem retune_freq (g : Nat → Nat) (cls c : Nat) {index i : Nat} (s : State) (h : index < 1024) (hi : i < 1024) :
    (retune g cls index s).freq c i = if cls = c ∧ index = i then tuned g (s.freq c i) else s.freq c i := by
  unfold retune
  split
  case isTrue gated =>
    split
    · next same => obtain ⟨rfl, rfl⟩ := same; rw [gated]; rfl
    · rfl
  case isFalse running =>
    have live : s.mgmt.tripped = false := by
      by_contra trip
      exact running (by simp [State.freq, trip])
    rw [setFreq_freq live _ _ _ h hi]
    split
    · next same => obtain ⟨rfl, rfl⟩ := same; rw [tuned, if_neg running]
    · rfl

/-! ### A class retuned, and every class -/

/-- The first `n` islands of a class retuned in turn. -/
def retuneClass (g : Nat → Nat) (cls n : Nat) (s : State) : State := (List.range n).foldl (fun s i => retune g cls i s) s

/-- Every island of the first `k` classes retuned in turn. -/
def retuneAll (g : Nat → Nat → Nat) (k : Nat) (s : State) : State :=
  (List.range k).foldl (fun s c => retuneClass (g c) c (islandCount c) s) s

theorem retuneClass_succ (g : Nat → Nat) (cls n : Nat) (s : State) : retuneClass g cls (n + 1) s = retune g cls n (retuneClass g cls n s) := by
  simp [retuneClass, List.range_succ]

theorem retuneAll_succ (g : Nat → Nat → Nat) (k : Nat) (s : State) :
    retuneAll g (k + 1) s = retuneClass (g k) k (islandCount k) (retuneAll g k s) := by
  simp [retuneAll, List.range_succ]

/-- What every retuned island leaves alone, retuning a class leaves alone, and so does retuning every class. -/
theorem retuneClass_keeps {β : Type} {field : State → β} (h : ∀ g c i s, field (retune g c i s) = field s) (g : Nat → Nat)
    (cls n : Nat) (s : State) : field (retuneClass g cls n s) = field s := by
  induction n with
  | zero => rfl
  | succ n ih => rw [retuneClass_succ, h, ih]

theorem retuneAll_keeps {β : Type} {field : State → β} (h : ∀ g c i s, field (retune g c i s) = field s) (g : Nat → Nat → Nat)
    (k : Nat) (s : State) : field (retuneAll g k s) = field s := by
  induction k with
  | zero => rfl
  | succ k ih => rw [retuneAll_succ, retuneClass_keeps h, ih]

/-- Each of the first `n` islands of the class is retuned once, and no other island. -/
theorem retuneClass_freq (g : Nat → Nat) (cls : Nat) {n c i : Nat} (s : State) (hn : n ≤ 1024) (hi : i < 1024) :
    (retuneClass g cls n s).freq c i = if cls = c ∧ i < n then tuned g (s.freq c i) else s.freq c i := by
  induction n with
  | zero => simp [retuneClass]
  | succ n ih =>
    rw [retuneClass_succ, retune_freq _ _ _ _ (by omega) hi, ih (by omega)]
    by_cases hc : cls = c
    · obtain lt | eq | gt := Nat.lt_trichotomy i n
      · rw [if_neg (by omega), if_pos ⟨hc, lt⟩, if_pos ⟨hc, by omega⟩]
      · rw [if_pos ⟨hc, eq.symm⟩, if_neg (by omega), if_pos ⟨hc, by omega⟩]
      · rw [if_neg (by omega), if_neg (by omega), if_neg (by omega)]
    · simp [hc]

/-- One more class retuned, at an island of the table. -/
theorem retuneAll_succ_freq (g : Nat → Nat → Nat) (k c : Nat) {i : Nat} (s : State) (hi : i < 1024) :
    (retuneAll g (k + 1) s).freq c i =
      if k = c ∧ i < islandCount k then tuned (g k) ((retuneAll g k s).freq c i) else (retuneAll g k s).freq c i := by
  rw [retuneAll_succ, retuneClass_freq _ _ _ (islandCount_le k) hi]

theorem retuneAll_freq_later (g : Nat → Nat → Nat) {k c i : Nat} (s : State) (hc : k ≤ c) (hi : i < 1024) :
    (retuneAll g k s).freq c i = s.freq c i := by
  induction k with
  | zero => rfl
  | succ k ih => rw [retuneAll_succ_freq _ _ _ _ hi, if_neg (by omega), ih (by omega)]

/-- Each island of the first `k` classes is retuned once, by its own class's function. -/
theorem retuneAll_freq (g : Nat → Nat → Nat) {k c i : Nat} (s : State) (hc : c < k) (hi : i < islandCount c) :
    (retuneAll g k s).freq c i = tuned (g c) (s.freq c i) := by
  have small : i < 1024 := hi.trans_le (islandCount_le c)
  induction k with
  | zero => omega
  | succ k ih =>
    rw [retuneAll_succ_freq _ _ _ _ small]
    obtain lt | rfl := Nat.lt_succ_iff_lt_or_eq.1 hc
    · rw [if_neg (by omega), ih lt]
    · rw [if_pos ⟨rfl, hi⟩, retuneAll_freq_later g s le_rfl small]

/-! ### Power and temperature (R13, R336) -/

/-- Above the power limit MODULE_POWER_LOOP lowers every island that has a control loop. -/
theorem execModulePowerLoop_above {w : Nat} {s : State} (h : s.mgmt.powerCap < w) :
    execModulePowerLoop w s = .next (retuneAll lowered 5 { s with mgmt := { s.mgmt with power := w } }) := by
  unfold execModulePowerLoop
  rw [if_neg (by simpa using h)]
  refine congrArg Host.Outcome.next (List.foldl_ext _ _ _ fun t c hc => List.foldl_ext _ _ _ fun t i _ => stepDown_eq_retune ?_ i t)
  have := List.mem_range.1 hc
  omega

/-- MODULE_POWER_LOOP keeps the average, and above the power limit lowers every running island. -/
theorem exec_modulePowerLoop (s : State) (w : Nat) : ∃ t, exec (.modulePowerLoop w) s = .next t ∧ t.mgmt.power = w ∧ SameMemory s t ∧
    (w ≤ s.mgmt.powerCap → t = { s with mgmt := { s.mgmt with power := w } }) ∧
    (s.mgmt.powerCap < w → s.mgmt.tripped = false → ∀ cls < 5, ∀ i < islandCount cls, t.freq cls i =
      (if s.freq cls i = 0 then 0 else max (islandFloor cls) (s.freq cls i - 25))) := by
  change ∃ t, execModulePowerLoop w s = .next t ∧ _
  obtain below | above := le_or_gt w s.mgmt.powerCap
  · refine ⟨{ s with mgmt := { s.mgmt with power := w } }, if_pos below, rfl, fun _ => rfl, fun _ => rfl, fun h => ?_⟩
    omega
  · refine ⟨_, execModulePowerLoop_above above, ?_, fun loc => ?_, fun h => ?_, fun _ _ cls hcls i hi => ?_⟩
    · rw [retuneAll_keeps (field := fun s => s.mgmt.power) retune_power]
    · rw [retuneAll_keeps (field := State.mem) retune_mem]
    · omega
    · exact retuneAll_freq lowered _ hcls hi

/-- FAST_CLAMP above 3,400 W halves the frequency of every running matrix unit group island. -/
theorem exec_fastClamp_above {s : State} {w : Nat} (h : 3400 < w) (live : s.mgmt.tripped = false) : ∃ t, exec (.fastClamp w) s = .next t ∧
    ∀ i < 384, t.freq 1 i = (if s.freq 1 i = 0 then 0 else bestFreq 1 (s.freq 1 i / 2)) := by
  refine ⟨retuneClass (fun f => bestFreq 1 (f / 2)) 1 384 s, ?_, fun i hi => ?_⟩
  · change execFastClamp w s = _
    have clamps : ¬ (decide (w ≤ 3400) || s.mgmt.tripped) = true := by simp [h, live]
    unfold execFastClamp
    rw [if_neg clamps]
    rfl
  · rw [retuneClass_freq _ _ _ (by omega) (by omega), if_pos ⟨rfl, hi⟩]
    rfl

/-- FAST_CLAMP at or below 3,400 W does nothing. -/
theorem exec_fastClamp_below (s : State) {w : Nat} (h : w ≤ 3400) : exec (.fastClamp w) s = .next s := by
  change execFastClamp w s = _
  simp [execFastClamp, h]

/-- THERMAL_LIMIT lowers an island that runs and has a control loop, and posts event 4. -/
theorem exec_thermalLimit {s : State} (cls : BitVec 4) {index : Nat} (hi : index < islandCount cls.toNat) (live : s.mgmt.tripped = false) :
    exec (.thermalLimit cls index) s = .next (postEvent 4 0 [0#28 ++ cls ++ BitVec.ofNat 32 index]
      (if cls = 5 ∨ s.freq cls.toNat index = 0 then s
       else setFreq cls.toNat index (max (islandFloor cls.toNat) (s.freq cls.toNat index - 25)) s)) := by
  have five : cls.toNat = 5 ↔ cls = 5 := ⟨fun h => BitVec.eq_of_toNat_eq h, fun h => h ▸ rfl⟩
  change execThermalLimit cls index s = _
  simp [execThermalLimit, stepDown, hi, live, five]

/-- The droop margin, the share of the power limit and the class cap of ISLCAP together, in half megahertz. -/
def cappedBound (cls droop share : Nat) (s : State) : Nat :=
  match find s.mgmt.caps cls with
  | some m => min (min (2 * droop) (2 * share)) (2 * m)
  | none => min (2 * droop) (2 * share)

/-- The bound of ISLAND_CONTROL_LOOP: that, and while the module draws more than its limit the frequency before. -/
def controlBound (cls index droop share : Nat) (s : State) : Nat :=
  if s.mgmt.powerCap < s.mgmt.power then min (cappedBound cls droop share s) (s.freq cls index) else cappedBound cls droop share s

theorem cappedBound_le (cls droop share : Nat) (s : State) : cappedBound cls droop share s ≤ 2 * min droop share := by
  have double : min (2 * droop) (2 * share) ≤ 2 * min droop share := by omega
  unfold cappedBound
  split
  · exact (min_le_left _ _).trans double
  · exact double

theorem controlBound_le_cappedBound (cls index droop share : Nat) (s : State) :
    controlBound cls index droop share s ≤ cappedBound cls droop share s := by
  unfold controlBound
  split
  · exact min_le_left _ _
  · exact le_rfl

theorem controlBound_le_freq {s : State} (cls index droop share : Nat) (above : s.mgmt.powerCap < s.mgmt.power) :
    controlBound cls index droop share s ≤ s.freq cls index := by
  unfold controlBound
  rw [if_pos above]
  exact min_le_right _ _

/-- ISLAND_CONTROL_LOOP gates an island, or sets the best frequency within its bound. -/
theorem exec_islandControlLoop {s : State} {cls : BitVec 4} {index : Nat} (droop share : Nat) (hi : index < islandCount cls.toNat)
    (hc : cls ≠ 5) (live : s.mgmt.tripped = false) : ∃ f,
      exec (.islandControlLoop cls index droop share) s = .next { setFreq cls.toNat index f s with free := s.free + 1 } ∧
      (f = 0 ∨ f = bestFreq cls.toNat (controlBound cls.toNat index droop share s)) := by
  have five : cls.toNat ≠ 5 := fun h => hc (BitVec.eq_of_toNat_eq h)
  have acts : ¬ (decide (islandCount cls.toNat ≤ index) || decide (cls.toNat = 5) || s.mgmt.tripped) = true := by simp [hi, five, live]
  exact ⟨_, if_neg acts, ite_eq_or_eq _ _ _⟩

/-- The frequency the loop leaves: 0, or within the limits of the class and the droop and share bounds, and no higher than before while
the module draws more than its limit. -/
theorem exec_islandControlLoop_freq {s : State} {cls : BitVec 4} {index : Nat} (droop share : Nat) (hi : index < islandCount cls.toNat)
    (hc : cls ≠ 5) (live : s.mgmt.tripped = false) :
    ∃ t, exec (.islandControlLoop cls index droop share) s = .next t ∧ (t.freq cls.toNat index = 0 ∨
      (islandFloor cls.toNat ≤ t.freq cls.toNat index ∧ t.freq cls.toNat index ≤ islandTop cls.toNat ∧
        t.freq cls.toNat index ≤ max (islandFloor cls.toNat) (2 * min droop share) ∧
        (s.mgmt.powerCap < s.mgmt.power → t.freq cls.toNat index ≤ max (islandFloor cls.toNat) (s.freq cls.toNat index)))) ∧
      SameMemory s t := by
  obtain ⟨f, run, hf⟩ := exec_islandControlLoop droop share hi hc live
  have small : index < 1024 := hi.trans_le (islandCount_le _)
  have read : State.freq { setFreq cls.toNat index f s with free := s.free + 1 } cls.toNat index = f :=
    (setFreq_freq live _ _ _ small small).trans (if_pos ⟨rfl, rfl⟩)
  refine ⟨_, run, ?_, fun loc => congrArg (readByte · loc) (setFreq_mem cls.toNat index f s)⟩
  rw [read]
  refine hf.imp_right fun best => ?_
  subst best
  have shared := (controlBound_le_cappedBound cls.toNat index droop share s).trans (cappedBound_le _ _ _ _)
  exact ⟨islandFloor_le_bestFreq _ _, bestFreq_le_islandTop _ _, bestFreq_le_of_le _ shared,
    fun above => bestFreq_le_of_le _ (controlBound_le_freq _ _ _ _ above)⟩

/-- THERMAL_TRIP leaves S0 with error 7. -/
theorem exec_thermalTrip {s : State} (live : s.mgmt.tripped = false) : ∃ t, exec .thermalTrip s = .next t ∧ t.mgmt.tripped = true ∧
    t.mgmt.stage = 0 ∧ t.mgmt.error = 7 ∧ t.mgmt.accept = 3 := by
  have acts : ¬ s.mgmt.tripped = true := by simp [live]
  exact ⟨_, if_neg acts, rfl, rfl, rfl, rfl⟩

/-! ### Staged start, reset and attestation (R331, R337, R339) -/

/-- PERST_DEASSERTION starts the part at S0 with nothing placed, counts the start and keeps the rollback index. -/
theorem exec_perstDeassertion (s : State) : ∃ t, exec .perstDeassertion s = .next t ∧ t.mgmt.stage = 0 ∧ t.mgmt.accept = 3 ∧
    t.mgmt.error = 0 ∧ t.contexts = [] ∧ t.launches = [] ∧ t.teams = [] ∧ t.waves = [] ∧ t.mgmt.bootCount = s.mgmt.bootCount + 1 ∧
    t.mgmt.rollback = s.mgmt.rollback :=
  ⟨_, rfl, rfl, rfl, rfl, rfl, rfl, rfl, rfl, rfl, rfl⟩

/-- A warm reset leaves S1 with nothing placed. -/
theorem warmReset_clears (ask : Bool) (s : State) : (warmReset ask s).mgmt.stage = 1 ∧ (warmReset ask s).contexts = [] ∧
    (warmReset ask s).launches = [] ∧ (warmReset ask s).teams = [] ∧ (warmReset ask s).waves = [] :=
  ⟨rfl, rfl, rfl, rfl, rfl⟩

/-- A warm reset that does not ask for retention has none. -/
theorem warmReset_retained (s : State) : (warmReset false s).mgmt.retained = false := rfl

theorem exec_functionLevelReset (s : State) : exec .functionLevelReset s = .next (warmReset false s) := rfl

/-- STAGE_ADVANCE where the part accepts it: the next stage, or an error of Table 22.2. -/
theorem exec_stageAdvance {s : State} {e : BitVec 8} (accepts : s.accepts 1 = true) (clear : s.mgmt.error = 0) (hs : s.mgmt.stage ≠ 3)
    (he : e.toNat ≤ 6) : exec (.stageAdvance e) s =
      .next (if e = 0 then enterStage (s.mgmt.stage + 1) s else onMgmt (fun m => { m with error := e, accept := 3 }) s) := by
  change execStageAdvance e s = _
  have acts : ¬ (!s.accepts 1 || s.mgmt.error != 0 || s.mgmt.stage == 3#4 || decide (6 < e.toNat)) = true := by
    simpa [accepts, clear, he] using hs
  unfold execStageAdvance
  rw [if_neg acts]
  by_cases h : e = 0
  · subst h; rfl
  · rw [if_pos (by simpa using h), if_neg h]

/-- SPDM_REQUEST of a measurement block: its words and their two signatures, or an error once the LMS signatures are spent. -/
theorem exec_spdmRequest {s : State} {block : Nat} (accepts : s.accepts 1 = true) (hb : block < 5) : exec (.spdmRequest block) s =
    .next (if 2 ^ 20 ≤ s.mgmt.lmsUsed then { s with mgmt := { s.mgmt with spdm := s.mgmt.spdm ++ [none] } }
      else { s with mgmt := { s.mgmt with
        spdm := s.mgmt.spdm ++ [some (s.mgmt.measured.getD block [] ++ [Config.ecdsaSign (s.mgmt.measured.getD block []),
          Config.lmsSign (s.mgmt.measured.getD block [])])]
        lmsUsed := s.mgmt.lmsUsed + 1 } }) := by
  have acts : ¬ (!s.accepts 1 || decide (5 ≤ block)) = true := by simp [accepts, hb]
  change execSpdmRequest block s = _
  unfold execSpdmRequest
  rw [if_neg acts]
  split <;> rfl

/-- Settles O48: each step by its own law; the frequencies by what one island retuned leaves in every other. -/
theorem managementSteps : Obligations.ManagementSteps := by
  unfold Obligations.ManagementSteps
  refine ⟨exec_perstDeassertion, fun s e accepts clear hs => ⟨fun he => ?advance, fun he small => ?error⟩, fun _ => rfl, fun s => ?reset,
    fun s block accepts hb => ⟨fun unspent => ?signed, fun spent => ?spent⟩,
    fun s w => ⟨exec_modulePowerLoop s w, exec_fastClamp_below s, exec_fastClamp_above⟩,
    fun s cls index hi live => exec_thermalLimit cls hi live, fun s live => exec_thermalTrip live,
    fun s cls index droop share hi hc live => exec_islandControlLoop_freq droop share hi hc live⟩
  case advance =>
    subst he
    exact ⟨_, exec_stageAdvance accepts clear hs (Nat.zero_le 6), rfl, rfl, fun _ => rfl⟩
  case error =>
    rw [exec_stageAdvance accepts clear hs small, if_neg he]
    exact ⟨_, rfl, rfl, rfl, rfl, fun _ => rfl⟩
  case reset =>
    obtain ⟨stage, contexts, launches, teams, waves⟩ := warmReset_clears false s
    exact ⟨_, exec_functionLevelReset s, stage, warmReset_retained s, contexts, launches, teams, waves⟩
  case signed =>
    rw [exec_spdmRequest accepts hb, if_neg (by omega)]
    exact ⟨_, rfl, rfl, rfl, fun _ => rfl⟩
  case spent => rw [exec_spdmRequest accepts hb, if_pos spent]

end Sys2Proof.Machine
end

section
/-! SUPPORT. What a wave owns of the scalar registers, the words on exec, and the words of wave control (R18, R30, R35, R149, R164, R168,
R170, R171). -/

namespace Sys2Proof.Machine

open Sys2Proof.Safety

/-! ### Scalar registers a wave owns -/

/-- A scalar register below 128 is owned if it is one of s0 to s(S − 2) or s127 (R30). -/
theorem badS_eq_false_iff (w : Wave) {r : Nat} (hr : r < 128) : w.badS r = false ↔ r + 2 ≤ w.sregs ∨ r = 127 := by
  simp only [Wave.badS, Bool.or_eq_false_iff, Bool.and_eq_false_iff, decide_eq_false_iff_not, bne_eq_false_iff_eq]
  omega

/-- Settles O60: below 128 by what is owned; a number from 128 on is never owned. -/
theorem ownedScalars : Obligations.OwnedScalars := by
  unfold Obligations.OwnedScalars
  refine ⟨fun w r _ hr => badS_eq_false_iff w hr, fun w => (badS_eq_false_iff w (by omega)).2 (.inr rfl), fun w r sixteen => ?_⟩
  obtain below | beyond := Nat.lt_or_ge r 128
  · rw [badS_eq_false_iff w below, sixteen]
    omega
  · have bad : w.badS r = true := by simp [Wave.badS, beyond]
    rw [bad]
    simp
    omega

/-! ### exec -/

/-- Bit `i` of the full mask of a width of at most 64 is set below the width. -/
theorem getLsbD_fullMask {width : Nat} (h : width ≤ 64) (i : Nat) : (fullMask width).getLsbD i = decide (i < width) := by
  rw [fullMask, BitVec.getLsbD_ofNat, Nat.testBit_two_pow_sub_one]
  by_cases hi : i < width
  · simp [hi, show i < 64 by omega]
  · simp [hi]

/-- Settles O3: each word is `run` of its effect; a write of exec keeps the bits below the width. -/
theorem execMaskWords : Obligations.ExecMaskWords := by
  unfold Obligations.ExecMaskWords
  refine ⟨fun s d issues => ⟨run_go issues _, run_go issues _⟩, fun s a ea issues => run_go issues _, ?combine, fun s x i narrow => ?bits⟩
  case combine =>
    simp only [List.forall_mem_cons, List.not_mem_nil, false_imp_iff, implies_true, and_true]
    exact ⟨fun s d a ea issues => run_go issues _, fun s d a ea issues => run_go issues _, fun s d a ea issues => run_go issues _⟩
  case bits =>
    rw [State.setExec_w]
    dsimp only
    rw [BitVec.getLsbD_and, getLsbD_fullMask narrow, Bool.and_comm]

/-! ### Wave control -/

/-- The time SLEEP waits, at most 16,777,215 nanoseconds (R170). -/
theorem sleepTime_eq (d : W64) : (if d.toNat < 16777215 then d else 16777215#64) = BitVec.ofNat 64 (min d.toNat 16777215) := by
  split
  · next short => rw [Nat.min_eq_left (by omega), BitVec.ofNat_toNat, BitVec.setWidth_eq]
  · next long => rw [Nat.min_eq_right (by omega)]

/-- SPECBAR goes on with no unretired access, and else keeps the slot. -/
theorem exec_specbar {s : State} (issues : Issues {} s s) :
    exec .specbar s = (if s.w.speculative then .next (s.holdFor .nonspec) else .next (finish {} s)) :=
  issue_go issues _

/-- SLEEP of zero acts as YIELD. -/
theorem exec_sleep_zero {s : State} {a : BitVec 7} {ea : Bool}
    (issues : Issues { srcS := [(a.toNat, ea)], irrevocable := true, both := true } s s) (zero : s.sreg a.toNat = 0) :
    exec (.sleep a ea) s =
      .next (finish { srcS := [(a.toNat, ea)], irrevocable := true, both := true } (s.onWave (fun w => { w with ran := 1000 }))) :=
  (issue_go issues _).trans (if_pos zero)

/-- SLEEP of another value ends the run, asleep until its deadline. -/
theorem exec_sleep_nonzero {s : State} {a : BitVec 7} {ea : Bool}
    (issues : Issues { srcS := [(a.toNat, ea)], irrevocable := true, both := true } s s) (other : s.sreg a.toNat ≠ 0) :
    ∃ t, exec (.sleep a ea) s = .next t ∧ t.w.station = .asleep ∧ t.w.ran = 0 ∧
      s.nanotime + (Config.nanoseconds s.free).setWidth 64 = t.nanotime ∧
      t.w.deadline = t.nanotime + BitVec.ofNat 64 (min (s.sreg a.toNat).toNat 16777215) ∧ t.w.a.pos = s.w.a.pos.advance 1 := by
  refine ⟨_, (issue_go issues _).trans (if_neg other), rfl, rfl, ?time, ?deadline, ?past⟩
  case time => simp [advanceNanotime]
  case deadline => simpa using sleepTime_eq _
  case past => simp [advanceNanotime]

/-- WAITC goes on once the path counter is at most its threshold, a wait on mx taking the completed matrix operations with it. -/
theorem exec_waitc_on {s : State} {path : BitVec 3} {r : BitVec 7} {ea : Bool} (issues : Issues { srcS := [(r.toNat, ea)] } s s)
    (reached : s.w.count path.toNat ≤ (s.sreg r.toNat).toNat) :
    exec (.waitc path r ea) s = .next (finish { srcS := [(r.toNat, ea)] } (if path = 3#3 then settleMatrix s else s)) :=
  (issue_go issues _).trans (if_pos reached)

/-- WAITC above its threshold blocks the wave. -/
theorem exec_waitc_block {s : State} {path : BitVec 3} {r : BitVec 7} {ea : Bool} (issues : Issues { srcS := [(r.toNat, ea)] } s s)
    (above : (s.sreg r.toNat).toNat < s.w.count path.toNat) :
    exec (.waitc path r ea) s = .next (s.blockFor (.counters (1#8 <<< path.toNat) (s.sreg r.toNat).toNat)) :=
  (issue_go issues _).trans (if_neg (by omega))

/-- A wait for a register goes on where it is full, and else blocks the wave: the end of WAITR and WAITS. -/
theorem wait_full (e bad : Bool) (trap block on : State) (declared : bad = false) :
    (if bad then (.next trap : Result) else if e then .next block else .next on) = .next (if e then block else on) := by
  subst declared
  cases e <;> rfl

theorem exec_waitr {s : State} {r : BitVec 7} (issues : Issues {} s s) (plain : s.w.isPort r.toNat = false)
    (declared : s.w.badV r.toNat = false) :
    exec (.waitr r) s = .next (if s.w.a.emptyV.getLsbD r.toNat then s.blockFor (.operand (RegSet.with 0 r.toNat) 0) else finish {} s) := by
  change execWaitr r s = _
  unfold execWaitr
  rw [plain, issue_go issues]
  exact wait_full _ _ _ _ _ declared

theorem exec_waits {s : State} {r : BitVec 7} (issues : Issues {} s s) (declared : s.w.badS r.toNat = false) :
    exec (.waits r) s = .next (if s.w.a.emptyS.getLsbD r.toNat then s.blockFor (.operand 0 (RegSet.with 0 r.toNat)) else finish {} s) :=
  (issue_go issues _).trans (wait_full _ _ _ _ _ declared)

/-- PBLK goes on with the exec it found split by its operand, and its pattern for the words to come (R178). -/
theorem exec_pblk {s : State} {sp : BitVec 7} (n : BitVec 3) (pattern : BitVec 8) {ea : Bool} (issues : Issues { srcS := [(sp.toNat, ea)] } s s) :
    ∃ t, exec (.pblk sp n pattern ea) s = .next t ∧ t.w.a.exec = s.w.a.exec ∧ t.w.a.pos.pc = (s.w.a.pos.advance 1).pc ∧
      t.w.a.pos.residue = ⟨s.w.a.exec &&& s.sreg sp.toNat, s.w.a.exec &&& ~~~(s.sreg sp.toNat), pattern, n.toNat + 1⟩ := by
  refine ⟨_, issue_go issues _, ?_, ?_, rfl⟩
  · simp
  · simp

/-- Settles O7: each word by its own law. -/
theorem waveControl : Obligations.WaveControl := by
  unfold Obligations.WaveControl
  exact ⟨fun s issues => ⟨run_go issues _, run_go issues _, exec_specbar issues⟩,
    fun s a ea issues => ⟨exec_sleep_zero issues, exec_sleep_nonzero issues⟩,
    fun s path r ea issues => ⟨exec_waitc_on issues, exec_waitc_block issues⟩,
    fun s r issues plain declared => exec_waitr issues plain declared,
    fun s r issues declared => exec_waits issues declared,
    fun s sp n pattern ea issues => exec_pblk n pattern issues⟩

end Sys2Proof.Machine
end

section
/-! SUPPORT. The conditions before a word's own, in the words of R154, and which of them is taken. -/

namespace Sys2Proof.Machine

open Sys2Proof.Safety

/-- A word that is illegal in the state it is met in: covered by a residue that may not cover it, undefined, or a port against its direction. -/
def Use.Illegal (u : Use) (w : Wave) : Prop :=
  (w.a.pos.residue.left ≠ 0 ∧ u.covered = false) ∨ u.illegal = true ∨ w.queueIllegal u = true

/-- A supervisor word outside a supervisor launch. -/
def Use.Unprivileged (u : Use) (w : Wave) : Prop := u.supervisor = true ∧ w.env.sup = false

/-- A register number beyond the declaration. -/
def Use.Undeclared (u : Use) (w : Wave) : Prop := (∃ r ∈ vectorRegs u, w.badV r = true) ∨ ∃ r ∈ scalarRegs u, w.badS r = true

/-- An unbound port. -/
def Use.Unbound (u : Use) (w : Wave) : Prop := u.unbound = true ∨ w.portUnbound u = true

/-- An empty vector source under an e-bit, and an empty scalar source. -/
def Use.EmptyVector (u : Use) (w : Wave) : Prop := ∃ x ∈ u.srcV, x.2 = true ∧ w.emptySource x.1 = true
def Use.EmptyScalar (u : Use) (w : Wave) : Prop := ∃ x ∈ u.srcS, x.2 = true ∧ w.emptyScalar x.1 = true

open Classical in
/-- `earlyTrap` in the words of the rule: its six conditions in their order. -/
theorem earlyTrap_eq (u : Use) (w : Wave) : earlyTrap u w =
    if u.Illegal w then some (Cause.illegal, 0)
    else if u.Unprivileged w then some (Cause.privileged, 0)
    else if u.Undeclared w then some (Cause.register, 0)
    else if u.Unbound w then some (Cause.unbound, 0)
    else if u.EmptyVector w then some (Cause.empty, w.acting)
    else if u.EmptyScalar w then some (Cause.empty, 0)
    else none := by
  have illegal : ((w.a.pos.residue.left != 0 && !u.covered) || u.illegal || w.queueIllegal u) = true ↔ u.Illegal w := by
    simp [Use.Illegal, or_assoc]
  have unprivileged : (u.supervisor && !w.env.sup) = true ↔ u.Unprivileged w := by simp [Use.Unprivileged]
  have undeclared : ((u.srcV.map (·.1) ++ u.oldV ++ u.dstV ++ u.groupV).any w.badV ||
      (u.srcS.map (·.1) ++ u.oldS ++ u.dstS ++ u.groupS).any w.badS) = true ↔ u.Undeclared w := by
    rw [Bool.or_eq_true, List.any_eq_true, List.any_eq_true]
    rfl
  have unbound : (u.unbound || w.portUnbound u) = true ↔ u.Unbound w := Bool.or_eq_true _ _ ▸ Iff.rfl
  have vector : u.srcV.any (fun x => x.2 && w.emptySource x.1) = true ↔ u.EmptyVector w := by simp [Use.EmptyVector]
  have scalar : u.srcS.any (fun x => x.2 && w.emptyScalar x.1) = true ↔ u.EmptyScalar w := by simp [Use.EmptyScalar]
  unfold earlyTrap
  simp only [illegal, unprivileged, undeclared, unbound, vector, scalar]

/-- A trap that a non-speculative wave outside a transaction meets is delivered at the word (R130, R154). -/
theorem raise_delivers {s : State} (outside : s.w.txn = none) (nonspec : s.w.speculative = false) (cause detail : BitVec 8) (mask : W64) :
    raise cause detail mask s = .next (deliverTrap ⟨cause, detail, false, mask, s.w.inst, s.w.a.pos.pc, 0, 0, 0, 0, false⟩ s) := by
  simp [raise, takeTrap, trapBy, trapHere, outside, nonspec]

/-- THE ORDER OF R154: a word of a non-speculative wave outside a transaction takes the first of the six conditions that it meets. -/
theorem issue_takes_first (u : Use) (k : State → Result) {s : State} (outside : s.w.txn = none) (nonspec : s.w.speculative = false) :
    let traps := fun (c : BitVec 8) (m : W64) => issue u k s = .next (deliverTrap ⟨c, 0, false, m, s.w.inst, s.w.a.pos.pc, 0, 0, 0, 0, false⟩ s)
    (u.Illegal s.w → traps 0x01 0) ∧ (¬ u.Illegal s.w → u.Unprivileged s.w → traps 0x12 0) ∧
    (¬ u.Illegal s.w → ¬ u.Unprivileged s.w → u.Undeclared s.w → traps 0x03 0) ∧
    (¬ u.Illegal s.w → ¬ u.Unprivileged s.w → ¬ u.Undeclared s.w → u.Unbound s.w → traps 0x15 0) ∧
    (¬ u.Illegal s.w → ¬ u.Unprivileged s.w → ¬ u.Undeclared s.w → ¬ u.Unbound s.w → u.EmptyVector s.w → traps 0x04 s.w.acting) ∧
    (¬ u.Illegal s.w → ¬ u.Unprivileged s.w → ¬ u.Undeclared s.w → ¬ u.Unbound s.w → ¬ u.EmptyVector s.w → u.EmptyScalar s.w →
      traps 0x04 0) := by
  have taken {c m} (found : earlyTrap u s.w = some (c, m)) := (issue_trap found k).trans (raise_delivers outside nonspec c 0 m)
  refine ⟨fun h1 => taken ?_, fun h1 h2 => taken ?_, fun h1 h2 h3 => taken ?_, fun h1 h2 h3 h4 => taken ?_,
    fun h1 h2 h3 h4 h5 => taken ?_, fun h1 h2 h3 h4 h5 h6 => taken ?_⟩
  · rw [earlyTrap_eq, if_pos h1]; rfl
  · rw [earlyTrap_eq, if_neg h1, if_pos h2]; rfl
  · rw [earlyTrap_eq, if_neg h1, if_neg h2, if_pos h3]; rfl
  · rw [earlyTrap_eq, if_neg h1, if_neg h2, if_neg h3, if_pos h4]; rfl
  · rw [earlyTrap_eq, if_neg h1, if_neg h2, if_neg h3, if_neg h4, if_pos h5]; rfl
  · rw [earlyTrap_eq, if_neg h1, if_neg h2, if_neg h3, if_neg h4, if_neg h5, if_pos h6]; rfl

/-- Settles O10: `earlyTrap` asks the six conditions in the order of R154, and `issue` delivers the first. -/
theorem earlyTrapOrder : Obligations.EarlyTrapOrder := by
  unfold Obligations.EarlyTrapOrder
  exact fun u k s outside nonspec => issue_takes_first u k outside nonspec

end Sys2Proof.Machine
end

section
/-! SUPPORT. A step and what it runs: a fetch, the words a wave comes to, a turn, and the device after reset (R33, R45, R140, R141, R215,
R331). -/

namespace Sys2Proof.Machine

open Sys2Proof.Safety

/-! ### A fetch (R140, R215) -/

/-- A fetch of a word that the wave has kept of its clause is that word. -/
theorem fetchWord_kept {s : State} {pc : W64} {x : W32} (inside : inCode s.w pc = true) (kept : find s.w.kept pc.toNat = some x) :
    fetchWord pc s = (s, .word x) := by
  unfold fetchWord
  simp [inside, kept]

/-- A fetch of a word that its core has not fetched before is the word of memory. -/
theorem fetchWord_fresh {s s1 : State} {pc : W64} {locs : List Nat} (inside : inCode s.w pc = true) (unkept : find s.w.kept pc.toNat = none)
    (mapped : translateBytes s (.core s.w.core) s.w.env.tag pc 4 Access.fetch = (s1, .inl locs)) (clean : anyPoison s1 locs = false)
    (unfetched : find (s1.core s1.w.core).fetched (fetchKey s1.w.env.tag pc) = none) :
    ∃ s2, fetchWord pc s = (s2, .word (BitVec.ofNat 32 (natOfBytes (readLocs s1.mem locs)))) ∧ s2.w = s1.w ∧ s2.mem = s1.mem := by
  let now := BitVec.ofNat 32 (natOfBytes (readLocs s1.mem locs))
  refine ⟨s1.onCore s1.w.core (fun c => { c with fetched := ins c.fetched (fetchKey s1.w.env.tag pc) now }), ?_, rfl, rfl⟩
  unfold fetchWord seenWord
  simp [inside, unkept, mapped, clean, unfetched, now]

/-! ### What a wave in a clause comes to (R35, R141) -/

/-- Nothing stands before the next word of the wave in focus: no trap waits, no transaction is to end, no flags are awaited, and the clause's
own waits are over. -/
structure Unhindered (s : State) : Prop where
  pend : s.w.pend = none
  txn : s.w.txn.any (·.faulted) = false
  flags : awaitsFlags s = false
  inClause : s.w.a.pos.inClause = true
  begun : s.w.a.pos.index ≠ 0
  released : headerD s.w.a.pos.header s.w.a.pos.index = false

/-- A wave that nothing hinders goes to its next words, past the waits at the head of a clause. -/
theorem prepare_unhindered {s : State} (h : Unhindered s) : prepare s = nextWords s := by
  unfold prepare
  simp [h.pend, h.txn, h.flags, h.inClause]

/-- A short word that is well placed is the word fetched at the program counter. -/
theorem prepare_short {s s1 : State} {x : W32} (h : Unhindered s) (fetched : fetchWord s.w.a.pos.pc s = (s1, .word x))
    (placed : wordBad s.w.a.pos x = false) (short : isLong x = false) :
    prepare s = .words x 0 (s1.onWave (fun w => { w with inst := x.setWidth 64 })) := by
  rw [prepare_unhindered h]
  unfold nextWords
  simp [h.begun, h.released, fetched, placed, short]

/-- A long form takes the word at the next address as its second. -/
theorem prepare_long {s s1 s2 : State} {x y : W32} (h : Unhindered s) (fetched : fetchWord s.w.a.pos.pc s = (s1, .word x))
    (placed : wordBad s.w.a.pos x = false) (long : isLong x = true) (second : fetchWord (s.w.a.pos.pc + 4#64) s1 = (s2, .word y)) :
    prepare s = .words x y (s2.onWave (fun w => { w with inst := y ++ x })) := by
  rw [prepare_unhindered h]
  unfold nextWords
  simp [h.begun, h.released, fetched, placed, long, second]

/-! ### A turn -/

/-- With an empty agenda, one wave that may issue and no device step, the step is that wave's turn. -/
theorem step_only_wave {s : State} {k : Nat} (empty : s.agenda = []) (wave : issuers s = [k]) (quiet : deviceChoices s = []) :
    step s = waveTurn k s := by
  simp [step, turn, pickTurn, empty, wave, quiet]

/-- A wave's turn whose words are fetched runs the instruction they stand for. -/
theorem waveTurn_words {s s' : State} {k : Nat} {w0 w1 : W32} (words : prepare (s.focusOn k) = .words w0 w1 s') :
    waveTurn k s = onNext (endTurn (some k)) (onNext (afterIssue s') (exec (instructionOf w0 w1) s')) := by
  unfold waveTurn issueTurn
  rw [words]

theorem instructionOf_ok {w0 w1 : W32} {i : Instr} (h : decode w0 w1 = .ok i) : instructionOf w0 w1 = i := by
  unfold instructionOf
  rw [h]

theorem instructionOf_error {w0 w1 : W32} {e} (h : decode w0 w1 = .error e) : instructionOf w0 w1 = .illegalInstruction w0 := by
  unfold instructionOf
  rw [h]

/-- The step at the head of the agenda comes next. -/
theorem step_agenda {s : State} {i : Instr} {rest : List Instr} (head : s.agenda = i :: rest) :
    step s = onNext (endTurn none) (exec i (foreseen i { s with agenda := rest })) := by
  simp [step, turn, deviceTurn, head]

/-- Only an arbitration looks ahead. -/
theorem foreseen_other {i : Instr} (other : ∀ q, i ≠ .slotArbitration q) (s : State) : foreseen i s = s := by
  unfold foreseen
  split
  · next q => exact absurd rfl (other q)
  · rfl

/-- Settles O52: the only wave's turn, the head of the agenda, and what a fetch in a clause comes to. -/
theorem stepRunsDecoded : Obligations.StepRunsDecoded := by
  unfold Obligations.StepRunsDecoded
  refine ⟨fun s s' k w0 w1 empty wave quiet words => ?turn, fun s i rest head => ⟨step_agenda head, fun other => ?device⟩,
    fun s s1 s2 x y pend txn flags inClause begun released fetched placed => ?words,
    fun s pc x inside kept => fetchWord_kept inside kept,
    fun s s1 pc locs inside unkept mapped clean unfetched => fetchWord_fresh inside unkept mapped clean unfetched⟩
  case turn =>
    rw [step_only_wave empty wave quiet, waveTurn_words words]
    exact ⟨fun i ok => by rw [instructionOf_ok ok], fun e error => by rw [instructionOf_error error]⟩
  case device => rw [step_agenda head, foreseen_other other]
  case words =>
    have free : Unhindered s := ⟨pend, txn, flags, inClause, begun, released⟩
    exact ⟨prepare_short free fetched placed, prepare_long free fetched placed⟩

/-! ### After reset -/

theorem issuers_reset : issuers State.reset = [] := by decide

theorem deviceChoices_reset : deviceChoices State.reset = [] := by decide +kernel

theorem step_reset : step State.reset = .next (endTurn none State.reset) := by
  simp only [step, turn, pickTurn, issuers_reset, deviceChoices_reset]
  rfl

/-- Settles O59: the fields by `rfl`; with nobody to issue and no device step to take, the first step lets time pass. -/
theorem resetValues : Obligations.ResetValues := by
  unfold Obligations.ResetValues
  refine ⟨rfl, rfl, rfl, rfl, rfl, rfl, fun k => ?wave, rfl, rfl, fun tag => rfl, rfl, rfl, rfl, fun c => rfl, fun i t => rfl,
    _, step_reset, rfl, rfl, rfl⟩
  case wave =>
    unfold State.wave
    split <;> rfl

end Sys2Proof.Machine
end

section
/-! SUPPORT. A quarter's transcendental unit: a word that joins it, and the start of its oldest word (R17, R148, R191). -/

namespace Sys2Proof.Machine

open Sys2Proof.Safety

/-! ### Cores and sets of registers -/

/-- A core changed, and every other core as before. -/
@[simp] theorem State.core_onCore (c c' : Nat) (f : Core → Core) (s : State) :
    (State.onCore c f s).core c' = if c = c' then f (s.core c) else s.core c' := by
  simp [State.core]

@[simp] theorem finish_core (u : Use) (s : State) (c : Nat) : (finish u s).core c = s.core c := by simp [State.core]

@[simp] theorem State.core_onArch (s : State) (f : Arch → Arch) (c : Nat) : (s.onArch f).core c = s.core c := rfl

/-- The set of one register. -/
theorem getLsbD_regSet_one (r i : Nat) : (1#128 <<< r).getLsbD i = decide (i = r ∧ i < 128) := by
  obtain below | rfl | above := Nat.lt_trichotomy i r
  · simp [below, Nat.ne_of_lt below]
  · simp
  · simp [Nat.ne_of_gt above, show i - r ≠ 0 by omega]

/-- A register put into a set is in it, one taken out is not, and every other is as before. -/
@[simp] theorem getLsbD_regSet_with (m : RegSet) (r i : Nat) :
    (RegSet.with m r).getLsbD i = (m.getLsbD i || decide (i = r ∧ i < 128)) := by
  rw [RegSet.with, BitVec.getLsbD_or, getLsbD_regSet_one]

@[simp] theorem getLsbD_regSet_without (m : RegSet) (r i : Nat) :
    (RegSet.without m r).getLsbD i = (m.getLsbD i && !decide (i = r)) := by
  rw [RegSet.without, BitVec.getLsbD_and, BitVec.getLsbD_not, getLsbD_regSet_one]
  by_cases small : i < 128
  · simp [small]
  · simp [BitVec.getLsbD_of_ge m i (Nat.le_of_not_lt small)]

/-! ### The unit -/

/-- A word as it joins its quarter's unit. -/
def joinedOp (fn : Nat) (d a : BitVec 7) (t : State) : TransOp :=
  { wave := t.focus, seq := t.w.seq, fn := fn, d := d.toNat, mode := t.w.rmode,
    operand := t.w.actingThreads.map (fun th => (th, t.vreg a.toNat th)), word := t.w.a.pos.pc, inst := t.w.inst, started := false }

/-- A transcendental word of no acting thread has no effect. -/
theorem transWord_idle {fn : Nat} {s t : State} {d a : BitVec 7} {ea : Bool} (issues : Issues { useV1 d a ea with late := true } s t)
    (idle : t.w.acting = 0) : transWord fn d a ea s = .next (finish (useV1 d a ea) t) := by
  unfold transWord
  rw [issue_go issues, if_pos idle]
  rfl

/-- Another joins its quarter's unit as its youngest word, and its destination falls empty. -/
theorem transWord_joins {fn : Nat} {s t : State} {d a : BitVec 7} {ea : Bool} (issues : Issues { useV1 d a ea with late := true } s t)
    (acts : t.w.acting ≠ 0) : ∃ t', transWord fn d a ea s = .next t' ∧ t'.w.a.pos = t.w.a.pos.advance 1 ∧
      look [] (t'.core t.w.core).trans t.w.quarter = look [] (t.core t.w.core).trans t.w.quarter ++ [joinedOp fn d a t] ∧
      t'.w.a.emptyV.getLsbD d.toNat = true := by
  refine ⟨_, (issue_go issues _).trans (if_neg acts), ?past, ?joined, ?empty⟩
  case past => simp [useV1, Arch.emptyVs]
  case joined => simp [joinedOp]
  case empty => simpa [Arch.emptyVs] using .inr d.isLt

/-- TRANSCENDENTAL_START starts the oldest word of a unit, and changes nothing else of it. -/
theorem exec_transcendentalStart {s : State} {quarter : Nat} {op : TransOp} {rest : List TransOp} (head : transQueue s quarter = op :: rest)
    (idle : op.started = false) :
    exec (.transcendentalStart quarter) s = .next (setTrans quarter ({ op with started := true } :: rest) s) := by
  change execTranscendentalStart quarter s = _
  simp [execTranscendentalStart, head, idle]

/-- A unit's words set are read back. -/
@[simp] theorem transQueue_setTrans (s : State) (quarter : Nat) (q : List TransOp) : transQueue (setTrans quarter q s) quarter = q := by
  simp [transQueue, setTrans]

/-- Settles O20: each of the eight words is `transWord` with its fn. -/
theorem transcendentals : Obligations.Transcendentals := by
  unfold Obligations.Transcendentals
  refine ⟨?words, fun s quarter op rest head idle => ⟨_, exec_transcendentalStart head idle, transQueue_setTrans s quarter _, rfl, rfl⟩⟩
  case words =>
    have word (fn : Nat) (s t : State) (d a : BitVec 7) (ea : Bool) (issues : Issues { useV1 d a ea with late := true } s t) :=
      And.intro (transWord_idle (fn := fn) issues) (transWord_joins (fn := fn) issues)
    simp only [List.forall_mem_cons, List.not_mem_nil, false_imp_iff, implies_true, and_true]
    exact ⟨word 0, word 1, word 2, word 3, word 4, word 5, word 6, word 7⟩

end Sys2Proof.Machine
end

section
/-! SUPPORT. A quarter between words: waves under their keys, the granting of its slots, results of its transcendental unit, sleepers, and
its engines fetching ahead (R36, R76, R102, R105, R170, R191). -/

namespace Sys2Proof.Machine

open Sys2Proof.Safety

/-! ### Waves under their keys -/

@[simp] theorem State.wave_focus (s : State) : s.wave s.focus = s.w := if_pos rfl

/-- A wave replaced is read back, and every other is as before. -/
@[simp] theorem State.wave_setWave (s : State) (k j : Nat) (w : Wave) : (s.setWave k w).wave j = if k = j then w else s.wave j := by
  by_cases focused : k = s.focus
  · subst focused
    by_cases same : j = s.focus <;> simp [State.setWave, State.wave, same, eq_comm]
  · by_cases same : j = s.focus
    · subst same; simp [State.setWave, State.wave, focused]
    · simp [State.setWave, State.wave, focused, same]

@[simp] theorem State.setWave_mem (s : State) (k : Nat) (w : Wave) : (s.setWave k w).mem = s.mem := by unfold State.setWave; split <;> rfl
@[simp] theorem State.setWave_focus (s : State) (k : Nat) (w : Wave) : (s.setWave k w).focus = s.focus := by
  unfold State.setWave; split <;> rfl
@[simp] theorem State.setWave_nanotime (s : State) (k : Nat) (w : Wave) : (s.setWave k w).nanotime = s.nanotime := by
  unfold State.setWave; split <;> rfl

@[simp] theorem State.focusOn_self (s : State) : s.focusOn s.focus = s := if_pos rfl
@[simp] theorem State.focusOn_focus (s : State) (k : Nat) : (s.focusOn k).focus = k := by unfold State.focusOn; split <;> simp_all
@[simp] theorem State.focusOn_mem (s : State) (k : Nat) : (s.focusOn k).mem = s.mem := by unfold State.focusOn; split <;> rfl

/-- The focus moved leaves every wave as it is. -/
@[simp] theorem State.wave_focusOn (s : State) (k j : Nat) : (s.focusOn k).wave j = s.wave j := by
  by_cases focused : k = s.focus
  · rw [focused, State.focusOn_self]
  · by_cases there : j = k
    · subst there; simp [State.focusOn, State.wave, focused]
    · by_cases here : j = s.focus
      · subst here; simp [State.focusOn, State.wave, focused, there]
      · simp [State.focusOn, State.wave, focused, there, here, Ne.symm there, Ne.symm here]

@[simp] theorem State.focusOn_w (s : State) (k : Nat) : (s.focusOn k).w = s.wave k := by
  have := State.wave_focusOn s k k
  simpa [State.wave] using this

/-! ### Slots (R33, R36) -/

/-- A slot granted: its quarter names the wave, and the wave's run begins. -/
theorem grantSlot_wave (scalar : Bool) (k : Nat) (s : State) : ∃ w : Wave, (grantSlot scalar k s).wave k = { w with ran := 0, rest := false } :=
  ⟨_, (State.wave_setWave _ k k _).trans (if_pos rfl)⟩

theorem grantSlot_holders (scalar : Bool) (k : Nat) (s : State) :
    look 0 (grantSlot scalar k s).holders (if scalar then scalarSlot (s.wave k).quarterId else (s.wave k).quarterId) = (s.wave k).slot + 1 := by
  simp [grantSlot]

theorem grantSlot_mem (scalar : Bool) (k : Nat) (s : State) : (grantSlot scalar k s).mem = s.mem :=
  State.setWave_mem _ k _

/-- SLOT_ARBITRATION grants a free vector slot to the wave chosen for it. -/
theorem exec_slotArbitration_vector {s : State} {q k : Nat} {w : Wave} (free : slotFree s q q = true)
    (chosen : chooseWave s q false = some (k, w)) : exec (.slotArbitration q) s = .next (grantSlot false k s) := by
  change execSlotArbitration q s = _
  simp [execSlotArbitration, free, chosen]

/-- With no vector slot to grant, it grants a free scalar slot. -/
theorem exec_slotArbitration_scalar {s : State} {q k : Nat} {w : Wave} (none : slotFree s q q = false ∨ chooseWave s q false = none)
    (free : slotFree s q (scalarSlot q) = true) (chosen : chooseWave s q true = some (k, w)) :
    exec (.slotArbitration q) s = .next (grantSlot true k s) := by
  have no : (if slotFree s q q then chooseWave s q false else Option.none) = Option.none := by
    rcases none with h | h <;> simp [h]
  change execSlotArbitration q s = _
  unfold execSlotArbitration
  rw [no]
  simp [free, chosen]

/-- STARVATION_PROMOTION promotes a ready wave. -/
theorem exec_starvationPromotion {s : State} {k : Nat} (ready : (s.wave k).ready s (s.wave k).quarterId = true)
    (waits : (s.wave k).promoted = false) : exec (.starvationPromotion k) s =
      .next ((s.reachClock (s.wave k).core ((s.wave k).lastIssue + 2048)).setWave k { s.wave k with promoted := true }) := by
  change execStarvationPromotion k s = _
  simp [execStarvationPromotion, ready, waits]

@[simp] theorem State.reachClock_mem (c : Nat) (due : W64) (s : State) : (State.reachClock c due s).mem = s.mem := by
  unfold State.reachClock; dsimp only; split <;> rfl

/-! ### Results of the transcendental unit (R76, R191) -/

/-- What a word at the unit gives its threads, with the flags it raises there. -/
def TransOp.results (op : TransOp) : List (Nat × W32 × Flags) :=
  op.operand.map (fun x => (x.1, transcendental op.fn (Rounding.ofBits op.mode) x.2))

def TransOp.flags (op : TransOp) : List (Nat × Flags) := op.results.map (fun r => (r.1, r.2.2))

/-- The registers once the results are in. -/
def TransOp.deliver (op : TransOp) (a : Arch) : Arch :=
  ((op.results.foldl (fun (a : Arch) r => a.setV op.d r.1 r.2.1) a).fillVs [op.d]).addFlags op.flags

/-- A word's results put into its wave, the word gone from its unit and the wave in focus. -/
def resultsIn (q : Nat) (op : TransOp) (rest : List TransOp) (s : State) : State :=
  let s1 := (setTrans q rest s).focusOn op.wave
  { s1 with w := (s1.w.late op.seq [op.d] s1.free op.deliver).fillPortStores op.seq, free := s1.free + lateSpan }

/-- TRANSCENDENTAL_RESULT of a started word puts its results in, and posts the trap of an enabled flag. -/
theorem exec_transcendentalResult {s : State} {q : Nat} {op : TransOp} {rest : List TransOp} (head : transQueue s q = op :: rest)
    (started : op.started = true) :
    let s2 := resultsIn q op rest s
    let enabled := allRaised op.flags &&& s2.w.fte
    exec (.transcendentalResult q) s = .next ((if enabled = 0 then s2
      else postTrap op.seq enabled (raisedBy s2.w.fte op.flags) op.inst s2).focusOn s.focus) := by
  change execTranscendentalResult q s = _
  unfold execTranscendentalResult
  rw [head]
  simp only [started, Bool.not_true, Bool.false_eq_true, if_false]
  rfl

/-- Values set thread by thread leave every other thread of the register as it is. -/
theorem getV_foldl_setV_other (d th : Nat) (l : List (Nat × W32 × Flags)) (a : Arch) (other : th ∉ l.map (·.1)) :
    (l.foldl (fun (a : Arch) r => a.setV d r.1 r.2.1) a).getV d th = a.getV d th := by
  induction l generalizing a with
  | nil => rfl
  | cons r l ih =>
    simp only [List.map_cons, List.mem_cons, not_or] at other
    rw [List.foldl_cons, ih _ other.2, Arch.getV_setV, if_neg (by omega)]

/-- Values set once each are read back. -/
theorem getV_foldl_setV (d : Nat) (l : List (Nat × W32 × Flags)) (a : Arch) (once : (l.map (·.1)).Nodup) {r : Nat × W32 × Flags}
    (hr : r ∈ l) : (l.foldl (fun (a : Arch) r => a.setV d r.1 r.2.1) a).getV d r.1 = r.2.1 := by
  induction l generalizing a with
  | nil => simp at hr
  | cons r' l ih =>
    simp only [List.map_cons, List.nodup_cons] at once
    rw [List.foldl_cons]
    rcases List.mem_cons.1 hr with same | later
    · subst same
      rw [getV_foldl_setV_other d r.1 l _ once.1, Arch.getV_setV, if_pos rfl]
    · exact ih _ once.2 later

/-- A register that no matrix operation leaves undefined takes a late result as it is. -/
theorem late_arch {w : Wave} {r : Nat} (defined : r ∉ w.undefRegs) (seq free : Nat) (f : Arch → Arch) : (w.late seq [r] free f).a = f w.a := by
  change w.blur [r] free (f w.a) = f w.a
  simp [Wave.blur, defined]

/-- The results of a word of the wave in focus, with no exception enabled. -/
theorem exec_transcendentalResult_focus {s : State} {q : Nat} {op : TransOp} {rest : List TransOp} (head : transQueue s q = op :: rest)
    (started : op.started = true) (mine : op.wave = s.focus) (quiet : s.w.fte = 0) :
    exec (.transcendentalResult q) s = .next { setTrans q rest s with
      w := (s.w.late op.seq [op.d] s.free op.deliver).fillPortStores op.seq, free := s.free + lateSpan } := by
  have here : (setTrans q rest s).focusOn op.wave = setTrans q rest s := by
    rw [mine]
    exact State.focusOn_self (setTrans q rest s)
  have landed : resultsIn q op rest s = { setTrans q rest s with
      w := (s.w.late op.seq [op.d] s.free op.deliver).fillPortStores op.seq, free := s.free + lateSpan } := by
    unfold resultsIn
    rw [here]
    rfl
  have none : allRaised op.flags &&& (resultsIn q op rest s).w.fte = 0 := by
    have : (resultsIn q op rest s).w.fte = s.w.fte := by rw [landed]; rfl
    rw [this, quiet]
    exact BitVec.and_zero
  rw [exec_transcendentalResult head started]
  dsimp only
  rw [if_pos none, landed]
  exact congrArg _ (if_pos rfl)

/-- The register of the results is full, and holds each thread's. -/
theorem deliver_full (op : TransOp) (a : Arch) : (op.deliver a).emptyV.getLsbD op.d = false := by
  simp [TransOp.deliver, Arch.addFlags, Arch.fillVs]

theorem deliver_getV (op : TransOp) (a : Arch) (once : (op.operand.map (·.1)).Nodup) {x : Nat × W32} (hx : x ∈ op.operand) :
    (op.deliver a).getV op.d x.1 = (transcendental op.fn (Rounding.ofBits op.mode) x.2).1 := by
  have nodup : (op.results.map (·.1)).Nodup := by simpa [TransOp.results, Function.comp_def] using once
  exact getV_foldl_setV op.d op.results a nodup (List.mem_map.2 ⟨x, hx, rfl⟩)

/-! ### Sleepers (R170) -/

/-- SLEEP_DEADLINE wakes a sleeper, device reference time having reached its deadline. -/
theorem exec_sleepDeadline {s : State} {k : Nat} (asleep : (s.wave k).station = .asleep) : ∃ t, exec (.sleepDeadline k) s = .next t ∧
    t.wave k = { s.wave k with station := .live, hold := .none, deadline := 0 } ∧ (s.wave k).deadline.toNat ≤ t.nanotime.toNat ∧
    SameMemory s t := by
  refine ⟨_, if_neg (not_not_intro asleep), ?woken, ?time, fun loc => ?memory⟩
  case woken => simp
  case time =>
    rw [State.setWave_nanotime]
    split
    · exact le_rfl
    · omega
  case memory =>
    rw [State.setWave_mem]
    split <;> rfl

/-! ### The port engines (R102, R105) -/

/-- What of a wave a replacement leaves, it leaves of the wave in focus. -/
theorem State.setWave_keeps {γ : Type} {field : Wave → γ} {s : State} {k : Nat} {w : Wave} (h : field w = field (s.wave k)) :
    field (s.setWave k w).w = field s.w := by
  unfold State.setWave
  split
  · next focused => rw [h, focused, State.wave_focus]
  · rfl

/-- A grant of a Whorl's hold changes no memory, and of a wave its holds alone. -/
@[simp] theorem grantHold_mem (home : Nat) (s : State) : (grantHold home s).mem = s.mem := by
  unfold grantHold
  split
  · rfl
  · split
    · rfl
    · exact State.setWave_mem _ _ _

@[simp] theorem grantHold_focus (home : Nat) (s : State) : (grantHold home s).focus = s.focus := by
  unfold grantHold
  split
  · rfl
  · split
    · rfl
    · exact State.setWave_focus _ _ _

@[simp] theorem grantHold_aside (home : Nat) (s : State) : (grantHold home s).w.aside = s.w.aside := by
  unfold grantHold
  split
  · rfl
  · split
    · rfl
    · exact State.setWave_keeps (field := Wave.aside) rfl

/-- What each step of a fold leaves alone, the fold leaves alone. -/
theorem foldl_keeps {α β γ : Type} {field : α → γ} {f : α → β → α} (h : ∀ a b, field (f a b) = field a) (l : List β) (a : α) :
    field (l.foldl f a) = field a := by
  induction l generalizing a with
  | nil => rfl
  | cons b l ih => rw [List.foldl_cons, ih, h]

/-- WHAT LINES MADE MOST RECENT LEAVE: whatever a core's near cache and a grant leave. -/
theorem nearTouched_keeps {γ : Type} {field : State → γ} (hc : ∀ c f s, field (State.onCore c f s) = field s)
    (hg : ∀ home s, field (grantHold home s) = field s) (x : Access) (s : State) : field (nearTouched x s) = field s := by
  unfold nearTouched
  dsimp only
  split
  · rw [foldl_keeps (fun s l => hg _ s), foldl_keeps (fun s l => hc _ _ s)]
  · rw [foldl_keeps (fun s l => hc _ _ s)]

@[simp] theorem nearTouched_mem (x : Access) (s : State) : (nearTouched x s).mem = s.mem :=
  nearTouched_keeps (field := State.mem) (fun _ _ _ => rfl) grantHold_mem x s

@[simp] theorem nearTouched_focus (x : Access) (s : State) : (nearTouched x s).focus = s.focus :=
  nearTouched_keeps (field := State.focus) (fun _ _ _ => rfl) grantHold_focus x s

@[simp] theorem nearTouched_aside (x : Access) (s : State) : (nearTouched x s).w.aside = s.w.aside :=
  nearTouched_keeps (field := fun s => s.w.aside) (fun _ _ _ => rfl) grantHold_aside x s

/-- The wave under the focused key is the one in focus. -/
theorem State.wave_of_focus {s : State} {k : Nat} (h : s.focus = k) : s.wave k = s.w := by
  subst h
  exact State.wave_focus s

/-- The first step of a port that is due: the next one, where it is not held. -/
theorem find_nextStep {ahead n total : Nat} (p : Nat → Bool) (room : 0 < ahead) (due : n < total) (want : p n = true) :
    (((List.range ahead).map (n + ·)).filter (· < total)).find? p = some n := by
  obtain ⟨m, rfl⟩ := Nat.exists_eq_succ_of_ne_zero (Nat.ne_of_gt room)
  simp [List.range_succ_eq_map, due, want]

/-- A step that is due, with room ahead, its handle open to the engine, its counter below its limit and its places translated, is set aside
as an access of its own. -/
theorem fetchNext_due {s s' : State} {k r ahead total : Nat} {h : Handle} {places : List Place}
    (unheld : (s.wave k).fetchOf r ((s.wave k).nextStep r) = none) (unarrived : (s.wave k).arrived r = none) (room : 0 < ahead)
    (due : (s.wave k).nextStep r < total)
    (handle : (s.wave k).env.handle ((s.wave k).stepAt r ((s.wave k).nextStep r)).handle = some h)
    (may : mayFetch s (s.wave k) h ((s.wave k).stepAt r ((s.wave k).nextStep r)).handle = true)
    (counter : (s.wave k).count (if h.remote then 6 else 0) < 65535) (unit : refusedOf s (s.wave k).core < 64)
    (translated : stepPlaces (s.wave k) ((s.wave k).stepAt r ((s.wave k).nextStep r))
      ((s.wave k).stepAt r ((s.wave k).nextStep r)).offs s = (s', places, false)) :
    ((fetchNext k r ahead total s).wave k).aside.getLast?.map (fun x => (x.op, x.elems.map (·.locs))) =
      some (.fetch r ((s.wave k).nextStep r), places.map (·.locs)) ∧ SameMemory s' (fetchNext k r ahead total s) := by
  unfold fetchNext
  dsimp only
  rw [find_nextStep _ room due (by rw [unheld]; rfl)]
  dsimp only
  rw [handle]
  dsimp only
  have goes : ¬ (!mayFetch s (s.wave k) h ((s.wave k).stepAt r ((s.wave k).nextStep r)).handle ||
      decide (65535 ≤ (s.wave k).count (if h.remote then 6 else 0)) || decide (64 ≤ refusedOf s (s.wave k).core)) = true := by
    simp only [may, Bool.not_true, Bool.false_or, Bool.or_eq_true, decide_eq_true_eq]
    omega
  rw [if_neg goes, translated, unarrived]
  dsimp only
  rw [if_neg (by simp)]
  constructor
  · rw [State.wave_focusOn, State.wave_of_focus]
    · simp [makeAccess, Function.comp_def]
    · simp
  · intro loc
    simp

theorem exec_streamPrefetch {s : State} {k i : Nat} (live : (s.wave k).station = .live) (mode : (s.wave k).ports = 1) (port : i < 4)
    (bound : ((s.wave k).a.stream i).bound = true) (reads : ((s.wave k).a.stream i).dir = false) :
    exec (.streamPrefetch k i) s = .next (fetchNext k (124 + i) 8 ((s.wave k).a.stream i).count.toNat s) := by
  change execStreamPrefetch k i s = _
  have goes : ¬ 4 ≤ i := by omega
  simp [execStreamPrefetch, live, mode, goes, bound, reads]

theorem exec_queueFetch {s : State} {k i : Nat} (live : (s.wave k).station = .live) (mode : (s.wave k).ports = 2) (port : i < 2)
    (bound : ((s.wave k).a.queue i).bound = true) :
    exec (.queueFetch k i) s = .next (fetchNext k (124 + i) 16 ((s.wave k).a.queue i).total s) := by
  change execQueueFetch k i s = _
  have goes : ¬ 2 ≤ i := by omega
  simp [execQueueFetch, live, mode, goes, bound]

/-- Settles O36: each step by its own law. -/
theorem quarterSteps : Obligations.QuarterSteps := by
  unfold Obligations.QuarterSteps
  refine ⟨fun s q k w => ⟨exec_slotArbitration_vector, exec_slotArbitration_scalar, fun scalar => ?granted⟩,
    fun s k ready waits => ⟨_, exec_starvationPromotion ready waits, ?promoted, fun loc => ?promotedMemory, rfl⟩,
    fun s q op rest head started => ?result,
    fun s q op rest head started mine quiet defined _ _ once =>
      ⟨_, exec_transcendentalResult_focus head started mine quiet, transQueue_setTrans s q rest, ?full, fun x hx => ?values, fun _ => rfl⟩,
    fun s k asleep => exec_sleepDeadline asleep,
    fun s k i live => ⟨exec_streamPrefetch live, exec_queueFetch live⟩,
    fun s s' k r ahead total h places unheld unarrived room due handle may counter unit translated =>
      fetchNext_due unheld unarrived room due handle may counter unit translated⟩
  case granted =>
    obtain ⟨w, begun⟩ := grantSlot_wave scalar k s
    rw [begun]
    exact ⟨grantSlot_holders scalar k s, rfl, rfl, fun loc => congrArg (readByte · loc) (grantSlot_mem scalar k s)⟩
  case promoted => simp
  case promotedMemory => simp
  case result =>
    have run := exec_transcendentalResult head started
    exact ⟨fun none => run.trans (congrArg (fun t : State => Host.Outcome.next (t.focusOn s.focus)) (if_pos none)),
      fun some => run.trans (congrArg (fun t : State => Host.Outcome.next (t.focusOn s.focus)) (if_neg some))⟩
  case full =>
    change (s.w.late op.seq [op.d] s.free op.deliver).a.emptyV.getLsbD op.d = false
    rw [late_arch defined]
    exact deliver_full op _
  case values =>
    change (s.w.late op.seq [op.d] s.free op.deliver).a.getV op.d x.1 = _
    rw [late_arch defined]
    exact deliver_getV op _ once hx

end Sys2Proof.Machine
end

section
/-! SUPPORT. Spindle words at issue: the checks of their ranges, and the core's vertical queue that a command joins (R211, R212, R214). -/

namespace Sys2Proof.Machine

open Sys2Proof.Safety

/-! ### The vertical queue (R212) -/

/-- A command as it joins its core's queue: the wave's word, what the command is, its pointers and parameters. -/
def SpindleCmd.queued (fn : Nat) (window : Option Nat) (iw : Bool) (esz : BitVec 2) (dst src : W64) (params : List W64) (s : State) : SpindleCmd :=
  { wave := s.focus, seq := s.w.seq, fn := fn, gchk := window, iw := iw, esz := esz, dst := dst, src := src, params := params,
    env := s.w.env, addr := s.w.a.pos.pc, inst := s.w.inst, started := false, progress := 0, samples := [], asked := false, index := none,
    got := none, sent := false }

/-- A full queue stalls the word. -/
theorem enqueue_full {u : Use} {c : SpindleCmd} {s : State} (full : 32 ≤ (s.core s.w.core).spindle.length) :
    enqueue u c s = .next (s.holdFor .engine) := if_pos full

/-- A command joins a queue with room as its youngest, and cnt.cp is raised. -/
theorem enqueue_room {u : Use} {c : SpindleCmd} {s : State} (room : (s.core s.w.core).spindle.length < 32) :
    enqueue u c s = .next (finish u ((raiseCount 2 s).onCore s.w.core (fun x => { x with spindle := x.spindle ++ [c] }))) :=
  if_neg (by omega)

/-! ### The checks of the ranges (R211, R212) -/

/-- A cause among the first checks comes before every other. -/
theorem checkRanges_first {w : Wave} {cache : Cache} {permit : Nat → Kind → Option (BitVec 8)} {first mid : List (Option (BitVec 8))}
    {translated : Bool} {rs : List Range} {s : State} (c : BitVec 8) :
    checkRanges w cache permit (some c :: first) mid translated rs s = .trap c 0 0 := rfl

/-- The cause of a bad window handle is 0x05. -/
theorem windowCause_ne_none {w : Wave} {gh : Option Nat} (bad : windowCause w gh ≠ none) : windowCause w gh = some Cause.handle := by
  cases gh with
  | none => exact absurd rfl bad
  | some g => exact (ite_eq_or_eq _ _ _).resolve_left bad

/-- A COPY PAST ITS CHECKS AND ITS GUARD: complete at issue where it copies nothing, else in the queue, or stalled by a full one. -/
theorem withRanges_copy {u : Use} {r : RangeCheck} {s s' : State} {dst : Nat} {srcs : List Nat} {c : State → SpindleCmd} (empty : Prop)
    [Decidable empty] (passes : r = .ok s') (unguarded : guardHoldsCopy s' dst srcs = false) :
    let run := withRanges r (fun t => if guardHoldsCopy t dst srcs then .next (t.holdFor .guard)
      else if empty then .next (finish u t) else enqueue u (c t) t) s
    (empty → run = .next (finish u s')) ∧
    (¬ empty → 32 ≤ (s'.core s'.w.core).spindle.length → run = .next (s'.holdFor .engine)) ∧
    (¬ empty → (s'.core s'.w.core).spindle.length < 32 → run =
      .next (finish u ((raiseCount 2 s').onCore s'.w.core (fun x => { x with spindle := x.spindle ++ [c s'] })))) := by
  subst passes
  simp only [withRanges, unguarded, Bool.false_eq_true, if_false]
  exact ⟨fun none => if_pos none, fun some full => (if_neg some).trans (enqueue_full full),
    fun some room => (if_neg some).trans (enqueue_room room)⟩

/-! ### CPY, CPY2D and CPYZ -/

section Linear

variable (fn : Nat) (reads : Bool) (gh : BitVec 6) (gchk : Bool) (dst src n : W64)

/-- What a linear copy asks; CPYZ alone reads no source. -/
def linearUse (sd ss sn : BitVec 7) (ed es en : Bool) : Use :=
  { words := 2, async := true, path := some 2,
    srcS := (sd.toNat, ed) :: ((if reads then [(ss.toNat, es)] else []) ++ (sn.toNat, en) :: (if gchk then [(sn.toNat + 1, en)] else [])) }

/-- The window handle of a command's generation check. -/
def windowOf : Option Nat := if gchk then some gh.toNat else none

/-- The source handles of a linear copy. -/
def linearSources : List Nat := if reads then [ptrHandle src] else []

/-- The checks of a linear copy's handles, permissions, alignment, counts and ranges. -/
def linearCheck (s : State) : RangeCheck :=
  checkRanges s.w (.core s.w.core) (permitCause s.w) [windowCause s.w (windowOf gh gchk)]
    [if fn = 1 ∧ (ptrStride dst % 16 ≠ 0 ∨ ptrStride src % 16 ≠ 0) then some Cause.misaligned else none,
     if (fn = 1 ∧ 65535 < n.toNat / 2 ^ 32) ∨ (fn ≠ 1 ∧ 2 ^ 32 - 1 < n.toNat) then some Cause.bounds else none] true
    ((linearSources reads src).map (fun h => ⟨h, .load, 0, 0⟩) ++ [⟨ptrHandle dst, .store, 0, 0⟩] ++
      (linearPieces fn dst src [n]).flatMap (fun q =>
        (match q.src with | some (h, o) => [⟨h, .load, o, q.len⟩] | none => []) ++ [⟨q.dst.1, .store, q.dst.2, q.len⟩])) s

/-- No byte to copy. -/
def linearEmpty : Bool := (linearPieces fn dst src [n]).all (fun q => q.len == 0)

end Linear

/-- A linear copy that issues makes its checks, and past them and the guard joins the queue if it has a byte to copy. -/
theorem linearCopy_issues {fn : Nat} {reads : Bool} (kind : (fn == 5) = !reads) {s : State} {sd ss sn : BitVec 7} {ed es en : Bool}
    (gh : BitVec 6) {gchk : Bool} (issues : Issues (linearUse reads gchk sd ss sn ed es en) s s) :
    let u := linearUse reads gchk sd ss sn ed es en
    let dst := s.sreg sd.toNat
    let src := if reads then s.sreg ss.toNat else 0
    let n := s.sreg sn.toNat
    linearCopy fn sd ss sn ed es en gh gchk s =
      withRanges (linearCheck fn reads gh gchk dst src n s) (fun s' =>
        if guardHoldsCopy s' (ptrHandle dst) (linearSources reads src) then .next (s'.holdFor .guard)
        else if linearEmpty fn dst src n then .next (finish u s')
        else enqueue u (.queued fn (windowOf gh gchk) false 0 dst src (n :: (if gchk then [s.sreg (sn.toNat + 1)] else [])) s') s') s := by
  unfold linearCopy
  simp only [kind]
  cases reads
  · exact issue_go issues _
  · exact issue_go issues _

/-- THE LAW OF A LINEAR COPY: 0x05 at a bad window handle; past its checks, complete at issue with nothing to copy, else in the queue, or
stalled by a full one. -/
theorem linearCopy_law {fn : Nat} {reads : Bool} (kind : (fn == 5) = !reads) (s s' : State) (sd ss sn : BitVec 7) (ed es en : Bool)
    (gh : BitVec 6) (gchk : Bool) :
    let u := linearUse reads gchk sd ss sn ed es en
    let dst := s.sreg sd.toNat
    let src := if reads then s.sreg ss.toNat else 0
    let n := s.sreg sn.toNat
    let window := windowOf gh gchk
    Issues u s s →
    (windowCause s.w window ≠ none → linearCopy fn sd ss sn ed es en gh gchk s = raiseAccess Cause.handle 0 0 0 s) ∧
    (linearCheck fn reads gh gchk dst src n s = .ok s' → guardHoldsCopy s' (ptrHandle dst) (linearSources reads src) = false →
      (linearEmpty fn dst src n = true → linearCopy fn sd ss sn ed es en gh gchk s = .next (finish u s')) ∧
      (linearEmpty fn dst src n = false → (s'.core s'.w.core).spindle.length < 32 → linearCopy fn sd ss sn ed es en gh gchk s =
        .next (finish u ((raiseCount 2 s').onCore s'.w.core (fun x => { x with spindle := x.spindle ++ [
          SpindleCmd.queued fn window false 0 dst src (n :: (if gchk then [s.sreg (sn.toNat + 1)] else [])) s'] })))) ∧
      (linearEmpty fn dst src n = false → 32 ≤ (s'.core s'.w.core).spindle.length →
        linearCopy fn sd ss sn ed es en gh gchk s = .next (s'.holdFor .engine))) := by
  intro u dst src n window issues
  have run := linearCopy_issues kind gh issues
  refine ⟨fun bad => ?_, fun passes unguarded => ?_⟩
  · dsimp only at run
    rw [run, linearCheck, windowCause_ne_none bad, checkRanges_first]
    rfl
  · obtain ⟨done, full, room⟩ := withRanges_copy (s := s) (u := u) (c := SpindleCmd.queued fn window false 0 dst src
      (n :: (if gchk then [s.sreg (sn.toNat + 1)] else []))) (linearEmpty fn dst src n = true) passes unguarded
    exact ⟨fun none => run.trans (done none), fun some h => run.trans (room (ne_true_of_eq_false some) h),
      fun some h => run.trans (full (ne_true_of_eq_false some) h)⟩

/-! ### CPYG and CPYS -/

section Indexed

variable (scatter : Bool) (gh : BitVec 6) (gchk iw : Bool) (esz : BitVec 2) (dst src ix : W64) (count : Nat)

/-- What an indexed copy asks. -/
def indexedUse (sd ss sn : BitVec 7) (ed es en : Bool) : Use :=
  { words := 2, async := true, path := some 2,
    srcS := [(sd.toNat, ed), (ss.toNat, es), (sn.toNat, en), (sn.toNat + 1, en)] ++ (if gchk then [(sn.toNat + 2, en)] else []) }

/-- The checks of an indexed copy's handles, permissions, alignment and ranges. -/
def indexedCheck (s : State) : RangeCheck :=
  let e := elementSize esz
  let width := if iw then 8 else 4
  checkRanges s.w (.core s.w.core) (permitCause s.w) [windowCause s.w (windowOf gh gchk)]
    [if ptrStride dst % 16 != 0 || ptrStride src % 16 != 0 || ptrOffset dst % min e 16 != 0 || ptrOffset src % min e 16 != 0 ||
      ptrOffset ix % width != 0 then some Cause.misaligned else none] true
    [⟨ptrHandle ix, .load, 0, 0⟩, ⟨ptrHandle src, .load, 0, 0⟩, ⟨ptrHandle dst, .store, 0, 0⟩,
      ⟨ptrHandle ix, .load, ptrOffset ix, count * width⟩,
      if scatter then ⟨ptrHandle src, .load, ptrOffset src, count * e⟩ else ⟨ptrHandle dst, .store, ptrOffset dst, count * e⟩] s

end Indexed

/-- THE LAW OF AN INDEXED COPY: past its checks, complete at issue with no element to copy, else in the queue, or stalled by a full one. -/
theorem indexedCopy_law (scatter : Bool) (s s' : State) (sd ss sn : BitVec 7) (ed es en : Bool) (gh : BitVec 6) (gchk iw : Bool)
    (esz : BitVec 2) :
    let u := indexedUse gchk sd ss sn ed es en
    let dst := s.sreg sd.toNat
    let src := s.sreg ss.toNat
    let ix := s.sreg sn.toNat
    let count := (s.sreg (sn.toNat + 1)).toNat % 2 ^ 32
    let run := indexedCopy scatter sd ss sn ed es en gh gchk iw esz s
    Issues u s s → indexedCheck scatter gh gchk iw esz dst src ix count s = .ok s' →
    guardHoldsCopy s' (ptrHandle dst) [ptrHandle src, ptrHandle ix] = false →
    (count = 0 → run = .next (finish u s')) ∧
    (count ≠ 0 → 32 ≤ (s'.core s'.w.core).spindle.length → run = .next (s'.holdFor .engine)) ∧
    (count ≠ 0 → (s'.core s'.w.core).spindle.length < 32 → run =
      .next (finish u ((raiseCount 2 s').onCore s'.w.core (fun x => { x with spindle := x.spindle ++ [
        SpindleCmd.queued (if scatter then 3 else 2) (windowOf gh gchk) iw esz dst src
          ([ix, BitVec.ofNat 64 count] ++ (if gchk then [s.sreg (sn.toNat + 2)] else [])) s'] })))) := by
  intro u dst src ix count run issues passes unguarded
  have checked : run = withRanges (indexedCheck scatter gh gchk iw esz dst src ix count s) _ s := issue_go issues _
  obtain ⟨done, full, room⟩ := withRanges_copy (s := s) (u := u) (c := SpindleCmd.queued (if scatter then 3 else 2) (windowOf gh gchk) iw esz
    dst src ([ix, BitVec.ofNat 64 count] ++ (if gchk then [s.sreg (sn.toNat + 2)] else []))) (count = 0) passes unguarded
  exact ⟨fun none => checked.trans (done none), fun some h => checked.trans (full some h), fun some h => checked.trans (room some h)⟩

/-! ### SLBMV (R214) -/

/-- THE LAW OF SLBMV: 0x05 where its slab is not in space 0; past its checks, in the queue, or stalled by a full one. -/
theorem exec_slbmv (s s' : State) (sd ss : BitVec 7) (ed es : Bool) :
    let u : Use := { words := 2, async := true, path := some 2, srcS := [(sd.toNat, ed), (ss.toNat, es)] }
    let dst := s.sreg sd.toNat
    let src := s.sreg ss.toNat
    let h := ptrHandle src
    Issues u s s →
    ((s.w.env.handle h).any (fun x => x.space == 0) = false → exec (.slbmv sd ss ed es) s = raiseAccess Cause.handle 0 0 0 s) ∧
    ((s.w.env.handle h).any (fun x => x.space == 0) = true →
      checkRanges s.w (.core s.w.core) (permitCause s.w) [none]
        [if ptrOffset src % 64 != 0 || dst.toNat % 65536 != 0 then some Cause.misaligned else none] true
        [⟨h, .load, ptrOffset src, 64⟩, ⟨h, .store, ptrOffset src, 64⟩] s = .ok s' →
      guardHoldsCopy s' h [h] = false →
      (32 ≤ (s'.core s'.w.core).spindle.length → exec (.slbmv sd ss ed es) s = .next (s'.holdFor .engine)) ∧
      ((s'.core s'.w.core).spindle.length < 32 → exec (.slbmv sd ss ed es) s =
        .next (finish u ((raiseCount 2 s').onCore s'.w.core (fun x => { x with spindle := x.spindle ++ [
          SpindleCmd.queued 4 none false 0 dst src [] s'] }))))) := by
  intro u dst src h issues
  have checked : exec (.slbmv sd ss ed es) s = withRanges (checkRanges s.w (.core s.w.core) (permitCause s.w)
      [if (s.w.env.handle h).any (fun x => x.space == 0) then none else some Cause.handle]
      [if ptrOffset src % 64 != 0 || dst.toNat % 65536 != 0 then some Cause.misaligned else none] true
      [⟨h, .load, ptrOffset src, 64⟩, ⟨h, .store, ptrOffset src, 64⟩] s) (fun s' =>
        if guardHoldsCopy s' h [h] then .next (s'.holdFor .guard)
        else enqueue u (.queued 4 none false 0 dst src [] s') s') s := issue_go issues _
  refine ⟨fun elsewhere => ?_, fun slab passes unguarded => ?_⟩
  · rw [checked, elsewhere]
    rfl
  · rw [checked, if_pos slab, passes]
    simp only [withRanges, unguarded, Bool.false_eq_true, if_false]
    exact ⟨enqueue_full, enqueue_room⟩

/-- Settles O30: the three linear copies, the two indexed ones and SLBMV, each by its law. -/
theorem spindleWords : Obligations.SpindleWords := by
  unfold Obligations.SpindleWords
  refine ⟨List.forall_mem_cons.2 ⟨?cpy, List.forall_mem_cons.2 ⟨?cpy2d, List.forall_mem_cons.2 ⟨?cpyz, List.forall_mem_nil _⟩⟩⟩, ?indexed, exec_slbmv⟩
  case cpy => exact fun s s' sd ss sn ed es en gh gchk => linearCopy_law (fn := 0) (reads := true) rfl s s' sd ss sn ed es en gh gchk
  case cpy2d => exact fun s s' sd ss sn ed es en gh gchk => linearCopy_law (fn := 1) (reads := true) rfl s s' sd ss sn ed es en gh gchk
  case cpyz => exact fun s s' sd ss sn ed es en gh gchk => linearCopy_law (fn := 5) (reads := false) rfl s s' sd 0 sn ed false en gh gchk
  case indexed =>
    intro scatter
    cases scatter
    · exact indexedCopy_law false
    · exact indexedCopy_law true

end Sys2Proof.Machine
end

section
/-! SUPPORT. Matrix words at issue: the wave's queue that an operation enters, and the checks of its registers and operands (R218, R221, R222,
R224, R230). -/

namespace Sys2Proof.Machine

open Sys2Proof.Safety

/-! ### The wave's queue (R218) -/

/-- WHAT SAVING TRUE VALUES CAN DO: it changes pending matrix values. -/
theorem saveTrue_form (w : Wave) (rs : List Nat) : ∃ acc, w.saveTrue rs = { w with acc := acc } := by
  have thread (w : Wave) (r : Nat) (ts : List Nat) :
      ∃ acc, ts.foldl (fun (w : Wave) t => w.setTrue r t (w.trueV r t)) w = { w with acc := acc } := by
    induction ts generalizing w with
    | nil => exact ⟨w.acc, rfl⟩
    | cons t ts ih => exact ih (w.setTrue r t (w.trueV r t))
  induction rs generalizing w with
  | nil => exact ⟨w.acc, rfl⟩
  | cons r rs ih =>
    obtain ⟨acc, saved⟩ := thread w r (List.range w.width)
    obtain ⟨acc', rest⟩ := ih { w with acc := acc }
    refine ⟨acc', ?_⟩
    rw [Wave.saveTrue, List.foldl_cons, saved]
    exact rest

/-- A full queue stalls the word. -/
theorem enterMatrix_full {u : Use} {op : MatrixOp} {s : State} (full : 8 ≤ s.w.matrix.length) :
    enterMatrix u op s = .next (s.holdFor .engine) := if_pos full

/-- An operation enters a queue with room as its youngest, and cnt.mx is raised; the registers it leaves undefined alone change. -/
theorem enterMatrix_room {u : Use} (op : MatrixOp) {s : State} (plain : u.dstV = []) (room : s.w.matrix.length < 8) :
    ∃ t, enterMatrix u op s = .next t ∧ t.w.matrix = s.w.matrix ++ [op] ∧ t.w.flight = s.w.flight ++ [⟨3, s.w.seq, false⟩] ∧
      t.w.a.pos = s.w.a.pos.advance u.words ∧ SameMemory s t ∧ t.w.a.s = s.w.a.s ∧
      ∀ r, r ∉ op.undef → ∀ th < 64, t.vreg r th = s.vreg r th := by
  let queued := (raiseCount 3 s).onWave (fun w => { w.saveTrue op.undef with matrix := w.matrix ++ [op] })
  obtain ⟨acc, saved⟩ := saveTrue_form (raiseCount 3 s).w op.undef
  have wave : queued.w = { s.w with flight := s.w.flight ++ [⟨3, s.w.seq, false⟩], acc := acc, matrix := s.w.matrix ++ [op] } := by
    change { (raiseCount 3 s).w.saveTrue op.undef with matrix := s.w.matrix ++ [op] } = _
    rw [saved]
    rfl
  obtain ⟨v, n, scrambled⟩ := scramble_form op.undef queued
  refine ⟨finish u (scramble op.undef queued), if_neg (by omega), ?matrix, ?flight, ?pos, fun loc => ?mem, ?scalars, fun r hr th small => ?vectors⟩
  case matrix => rw [finish_w_matrix, scrambled, wave]
  case flight => rw [finish_w_flight, scrambled, wave]
  case pos => rw [finish_a_pos, scrambled, wave]
  case mem => rw [finish_mem, scrambled]; rfl
  case scalars => rw [finish_a_s, scrambled, wave]
  case vectors =>
    rw [finish_vreg _ _ _ _ small (.inl (by simp [plain]))]
    refine (scramble_getV op.undef queued r th small hr).trans ?_
    rw [wave]
    rfl

/-! ### The words -/

/-- No register of a list is a port's. -/
theorem any_isPort_false {w : Wave} {rs : List Nat} (h : ∀ r ∈ rs, w.isPort r = false) : rs.any w.isPort = false := by
  rw [List.any_eq_false]
  exact fun r hr => by simp [h r hr]

/-- MMA and MMAZ whose operands pass enter the queue with their fields. -/
theorem multiply_enters (zero : Bool) {s s' : State} (vacc : BitVec 7) {sA sB : BitVec 7} (keep : Bool) {ea eb : Bool} {aslot bslot : BitVec 3}
    {asb bsb : BitVec 7} (sel : BitVec 2) {soft : Bool} (half : Bool) (obase : BitVec 7) :
    let acc := regRange vacc.toNat (1024 / s.w.width)
    let outs := if soft then regRange obase.toNat (2 * (1024 / s.w.width)) else []
    let scales := scaleRegs s.w aslot.toNat bslot.toNat asb.toNat bsb.toNat
    let u : Use := { words := 2, async := true, path := some 3, srcS := [(sA.toNat, ea), (sB.toNat, eb)], oldV := acc ++ outs, groupV := scales }
    slotsOk s.w aslot.toNat bslot.toNat soft = true → (∀ r ∈ acc ++ outs ++ scales, s.w.isPort r = false) → (∀ r ∈ acc, r ∉ outs) →
    Issues u s s → operandCheck s [(s.sreg sA.toNat, 16, 96), (s.sreg sB.toNat, 64, 96)] = .ok s' →
    multiply zero vacc sA sB keep ea eb aslot bslot asb bsb sel soft half obase s = enterMatrix u { MatrixOp.plain s' (.mma zero false) with
      vacc := vacc.toNat, aPtr := s.sreg sA.toNat, bPtr := s.sreg sB.toNat, keep := keep, aslot := aslot.toNat, bslot := bslot.toNat,
      asb := asb.toNat, bsb := bsb.toNat, sel := sel.toNat, soft := soft, half := if half then 1 else 0, obase := obase.toNat,
      undef := (acc ++ outs ++ scales).eraseDups, scales := scales.filter (fun r => !(acc ++ outs).contains r) } s' := by
  intro acc outs scales u slots noPort apart issues passes
  have legal : (!slotsOk s.w aslot.toNat bslot.toNat soft || (acc ++ outs ++ scales).any s.w.isPort || acc.any (fun r => outs.contains r)) = false := by
    have disjoint : acc.any (fun r => outs.contains r) = false := by
      rw [List.any_eq_false]
      exact fun r hr => by simp [apart r hr]
    rw [slots, any_isPort_false noPort, disjoint]
    rfl
  unfold multiply
  dsimp only
  rw [legal, issue_go issues, passes]
  rfl

/-- MMAC and MMACZ of a scaled T6 slot whose operand passes enter the queue with their fields. -/
theorem chain_enters (zero : Bool) {s s' : State} (vacc : BitVec 7) {sB : BitVec 7} (keep : Bool) {eb : Bool} {bslot : BitVec 3} (half : Bool) :
    let acc := regRange vacc.toNat (1024 / s.w.width)
    let desc := s.w.slotDesc bslot.toNat
    let u : Use := { words := 2, async := true, path := some 3, srcS := [(sB.toNat, eb)], oldV := acc }
    slotReserved desc = false → s.w.slotElement bslot.toNat = .t6 → slotScaled desc = true → (∀ r ∈ acc, s.w.isPort r = false) →
    Issues u s s → operandCheck s [(s.sreg sB.toNat, 128, 100)] = .ok s' →
    chain zero vacc sB keep eb bslot half s = enterMatrix u { MatrixOp.plain s' (.mma zero true) with
      vacc := vacc.toNat, bPtr := s.sreg sB.toNat, keep := keep, bslot := bslot.toNat, half := if half then 1 else 0, undef := acc } s' := by
  intro acc desc u assigned element scaled noPort issues passes
  unfold chain
  dsimp only
  rw [assigned, element, scaled, any_isPort_false noPort]
  exact (issue_go issues _).trans (by rw [passes]; rfl)

theorem exec_mstrd {s : State} {d : BitVec 7} (noPort : ∀ r ∈ regRange d.toNat 3, s.w.isPort r = false)
    (issues : Issues { async := true, path := some 3, oldV := regRange d.toNat 3 } s s) :
    exec (.mstrd d) s = enterMatrix { async := true, path := some 3, oldV := regRange d.toNat 3 }
      { MatrixOp.plain s .mstrd with vacc := d.toNat, undef := regRange d.toNat 3 } s := by
  change execMstrd d s = _
  unfold execMstrd
  dsimp only
  rw [any_isPort_false noPort]
  exact issue_go issues _

theorem exec_mstwr {s : State} {a : BitVec 7} {ea : Bool} (noPort : ∀ r ∈ regRange a.toNat 3, s.w.isPort r = false)
    (issues : Issues { async := true, path := some 3, srcV := (regRange a.toNat 3).map (fun r => (r, ea)) } s s) :
    exec (.mstwr a ea) s = enterMatrix { async := true, path := some 3, srcV := (regRange a.toNat 3).map (fun r => (r, ea)) }
      { MatrixOp.plain s .mstwr with
        srcs := (List.range 3).flatMap (fun i => (List.range 16).map (fun t => (64 * i + t, s.vreg (a.toNat + i) t))) } s := by
  change execMstwr a ea s = _
  unfold execMstwr
  dsimp only
  rw [any_isPort_false noPort]
  exact issue_go issues _

theorem exec_mnorm {s : State} {d : BitVec 7} (noPort : ∀ r ∈ regRange d.toNat (2048 / s.w.width), s.w.isPort r = false)
    (issues : Issues { async := true, path := some 3, oldV := regRange d.toNat (2048 / s.w.width) } s s) :
    exec (.mnorm d) s = enterMatrix { async := true, path := some 3, oldV := regRange d.toNat (2048 / s.w.width) }
      { MatrixOp.plain s .mnorm with vacc := d.toNat, undef := regRange d.toNat (2048 / s.w.width) } s := by
  change execMnorm d s = _
  unfold execMnorm
  dsimp only
  rw [any_isPort_false noPort]
  exact issue_go issues _

/-- Settles O32: what entering the queue does, then each word as an entry. -/
theorem matrixWords : Obligations.MatrixWords := by
  unfold Obligations.MatrixWords
  refine ⟨fun u op s plain => ⟨enterMatrix_full, enterMatrix_room op plain⟩, fun zero s s' vacc sA sB keep ea eb aslot bslot asb bsb sel soft half obase => ?mma,
    fun zero s s' vacc sB keep eb bslot half => ?mmac, fun s issues => issue_go issues _, fun s d noPort issues => exec_mstrd noPort issues,
    fun s a ea noPort issues => exec_mstwr noPort issues, fun s d noPort issues => exec_mnorm noPort issues⟩
  case mma =>
    cases zero
    · exact multiply_enters false vacc keep sel half obase
    · exact multiply_enters true vacc keep sel half obase
  case mmac =>
    cases zero
    · exact chain_enters false vacc keep half
    · exact chain_enters true vacc keep half

end Sys2Proof.Machine
end

section
/-! SUPPORT. The supervisor words: their privilege, their guard and their effects; and HALT (R39, R180, R264, R273, R286). -/

namespace Sys2Proof.Machine

open Sys2Proof.Safety

/-! ### A supervisor word -/

/-- What a supervisor word asks, besides what its own fields do. -/
def Use.supervised (u : Use) : Use := { u with supervisor := true, irrevocable := true, path := some 6 }

/-- Outside a supervisor launch it traps 0x12, where it is legal. -/
theorem supervise_unprivileged {u : Use} {s : State} (legal : ¬ u.supervised.Illegal s.w) (user : s.w.env.sup = false) (f : State → State) :
    supervise u f s = raise Cause.privileged 0 0 s := by
  have unprivileged : u.supervised.Unprivileged s.w := ⟨rfl, user⟩
  have found : earlyTrap u.supervised s.w = some (Cause.privileged, 0) := by rw [earlyTrap_eq, if_neg legal, if_pos unprivileged]
  exact issue_trap found _

/-- A word of scalar registers, under no residue and with an assigned encoding, is legal. -/
theorem legal_of_scalar {u : Use} {w : Wave} (free : w.a.pos.residue.left = 0) (assigned : u.illegal = false) (noV : u.srcV = [])
    (noOld : u.oldV = []) (noDst : u.dstV = []) : ¬ u.supervised.Illegal w := by
  simp [Use.Illegal, Use.supervised, Wave.queueIllegal, free, assigned, noV, noOld, noDst]

/-- Where it issues and no guard holds it, its launch is irreplaceable and the wave stands past it. -/
theorem supervise_go {u : Use} {s : State} (issues : Issues u.supervised s s) (unguarded : guardHolds s s.w = false) (f : State → State) :
    supervise u f s = .next (finish u.supervised (noteIrreplaceable s.w.launch (f s))) := by
  refine (issue_go issues _).trans (if_neg ?_)
  simp [unguarded]

/-! ### The words -/

/-- TLBINV removes the entries it matches at once, and waits for the accesses they may have translated. -/
theorem exec_tlbinv {s : State} {rs : BitVec 7} (tag : BitVec 8) (kind : BitVec 2) {ea : Bool}
    (issues : Issues { srcS := [(rs.toNat, ea)], supervisor := true, irrevocable := true, path := some 6 } s s)
    (unguarded : guardHolds s s.w = false) :
    ∃ t, exec (.tlbinv rs tag kind ea) s = .next t ∧
      t.tlb = s.tlb.filter (fun e => !invalidates kind tag (s.sreg rs.toNat) e) ∧
      t.walkCache = s.walkCache.filter (fun e => !e.removed kind tag (s.sreg rs.toNat)) ∧ t.w.flight = s.w.flight ++ [⟨6, s.w.seq, false⟩] ∧
      t.tlbinvs = s.tlbinvs ++ [⟨s.focus, s.w.seq, translatedBy kind tag (s.sreg rs.toNat) s⟩] ∧ t.w.a.pos = s.w.a.pos.advance 1 ∧
      SameMemory s t := by
  refine ⟨_, supervise_go (u := { srcS := [(rs.toNat, ea)] }) issues unguarded _, ?_⟩
  simp [noteIrreplaceable, dropTranslations, Use.supervised, SameMemory]

/-- GRDSET resolves the guard it names. -/
theorem exec_grdset {s : State} {rs : BitVec 7} (slot : BitVec 8) {ea : Bool}
    (issues : Issues { srcS := [(rs.toNat, ea)], supervisor := true, irrevocable := true, path := some 6 } s s)
    (unguarded : guardHolds s s.w = false) :
    exec (.grdset rs slot ea) s = .next (finish { srcS := [(rs.toNat, ea)], supervisor := true, irrevocable := true, path := some 6 }
      (noteIrreplaceable s.w.launch
        (resolveGuard ((s.sreg rs.toNat).extractLsb' 56 8) slot ((s.sreg rs.toNat).getLsbD 0) (countDone 6 s)))) :=
  supervise_go (u := { srcS := [(rs.toNat, ea)] }) issues unguarded _

/-- SNAPCT releases, puts back or counts the snapshots of the launch it names. -/
theorem exec_snapct {s : State} {rs : BitVec 7} {kind : BitVec 2} {ea : Bool} :
    let u : Use := {
      srcS := [(rs.toNat, ea)], dstS := if kind = 2#2 then [rs.toNat] else [], supervisor := true, irrevocable := true, path := some 6 }
    let k := launchNamed s ((s.sreg rs.toNat).extractLsb' 56 8) ((s.sreg rs.toNat).setWidth 32)
    let s1 := countDone 6 s
    Issues u s s → guardHolds s s.w = false →
    (kind = 0 → exec (.snapct rs kind ea) s = .next (finish u (noteIrreplaceable s.w.launch (match k with
      | some k => { s1 with launches := change (fun l => { l with snaps := [] }) s1.launches k }
      | none => s1)))) ∧
    (kind = 1 → exec (.snapct rs kind ea) s = .next (finish u (noteIrreplaceable s.w.launch (match k with
      | some k => restoreSnapshots [k] s1
      | none => s1)))) ∧
    (kind = 2 → exec (.snapct rs kind ea) s = .next (finish u (noteIrreplaceable s.w.launch (s1.setS rs.toNat (BitVec.ofNat 64
      (match k.bind (find s1.launches) with | some l => l.snaps.length | none => 0)))))) := by
  intro u k s1 issues unguarded
  have run := supervise_go (u := { srcS := [(rs.toNat, ea)], dstS := if kind = 2#2 then [rs.toNat] else [] }) issues unguarded
  refine ⟨fun released => ?_, fun restored => ?_, fun counted => ?_⟩
  · subst released; exact run _
  · subst restored; exact run _
  · subst counted; exact run _

/-- What DBGRD asks. -/
def debugUse (rs : BitVec 7) (ea : Bool) : Use := { srcS := [(rs.toNat, ea)], dstS := [rs.toNat] }

/-- What DBGRD does where nothing hinders it. -/
def debugEffect (rs : BitVec 7) (sel : BitVec 12) (s : State) : State :=
  let x := s.sreg rs.toNat
  let slot := (x.extractLsb' 11 4).toNat
  let s1 := countDone 6 s
  let w := s1.wave (waveKey (x.extractLsb' 0 9).toNat (x.extractLsb' 9 2).toNat slot)
  if 12 ≤ slot ∨ w.station = .vacant then s1.setS rs.toNat 0
  else
    let s' := if sel.toNat = 0x030 ∨ sel.toNat = 0x031 then advanceNanotime s1 else s1
    { s'.setS rs.toNat (debugValue s' w sel.toNat) with free := s'.free + 2 }

/-- DBGRD of an assigned sel is a supervisor word of two register fields. -/
theorem exec_dbgrd {s : State} (rs : BitVec 7) {sel : BitVec 12} (ea : Bool)
    (assigned : (sprValue s s.w sel.toNat).isSome = true ∨ 0x100 ≤ sel.toNat) :
    exec (.dbgrd rs sel ea) s = supervise (debugUse rs ea) (debugEffect rs sel) s := by
  have legal : (decide (sel.toNat < 0x100) && (sprValue s s.w sel.toNat).isNone) = false := by
    rcases assigned with named | scalar
    · simp [named]
    · simp [Nat.not_lt.2 scalar]
  change execDbgrd rs sel ea s = _
  unfold execDbgrd
  rw [legal]
  rfl

/-- TLBINV_COMPLETE lowers cnt.hx once every access the oldest TLBINV waits for is performed. -/
theorem exec_tlbinvComplete {s : State} {k : Nat} {i : Invalidation} (oldest : s.tlbinvs.find? (fun i => i.wave == k) = some i)
    (performed : ∀ x ∈ i.waits, outstanding s x = false) :
    exec (.tlbinvComplete k) s = .next (State.landFor k 6 i.seq { s with tlbinvs := s.tlbinvs.erase i }) := by
  have complete : ¬ i.waits.any (outstanding s) = true := by
    rw [List.any_eq_true]
    rintro ⟨x, hx, waits⟩
    simp [performed x hx] at waits
  change execTlbinvComplete k s = _
  unfold execTlbinvComplete
  rw [oldest]
  exact if_neg complete

/-- HALT with every path counter zero retires the wave. -/
theorem exec_halt_retires {s : State} (issues : Issues { irrevocable := true, both := true } s s) (zero : ∀ p < 8, s.w.count p = 0) :
    exec .halt s = .next (retireWave s) := by
  refine (issue_go issues _).trans (if_neg ?_)
  simpa using zero

/-- With one that is not zero it waits for all of them. -/
theorem exec_halt_waits {s : State} (issues : Issues { irrevocable := true, both := true } s s) {p : Nat} (path : p < 8)
    (busy : s.w.count p ≠ 0) : exec .halt s = .next (s.blockFor (.counters 0xff 0)) := by
  refine (issue_go issues _).trans (if_pos ?_)
  simpa using ⟨p, path, busy⟩

/-- Settles O35: the privilege of the four words said once, then each by its own law. -/
theorem supervisorWords : Obligations.SupervisorWords := by
  unfold Obligations.SupervisorWords
  refine ⟨fun s rs tag slot kind sel ea free user assigned => ?privilege, fun s rs tag kind ea issues unguarded => exec_tlbinv tag kind issues unguarded,
    fun s rs slot ea issues unguarded => exec_grdset slot issues unguarded, fun s rs kind ea => exec_snapct,
    fun s rs sel ea assigned issues unguarded => ?debug,
    fun s k i oldest performed => exec_tlbinvComplete oldest performed,
    fun s issues => ⟨exec_halt_retires issues, fun p path busy => exec_halt_waits issues path busy⟩⟩
  case privilege =>
    have privileged (u : Use) (legal : u.illegal = false) (noV : u.srcV = []) (noOld : u.oldV = []) (noDst : u.dstV = []) (f : State → State) :
        supervise u f s = raise Cause.privileged 0 0 s := supervise_unprivileged (legal_of_scalar free legal noV noOld noDst) user f
    refine List.forall_mem_cons.2 ⟨?_, List.forall_mem_cons.2 ⟨?_, List.forall_mem_cons.2 ⟨?_, List.forall_mem_cons.2 ⟨?_, List.forall_mem_nil _⟩⟩⟩⟩
    · exact privileged { srcS := [(rs.toNat, ea)] } rfl rfl rfl rfl _
    · exact privileged { srcS := [(rs.toNat, ea)] } rfl rfl rfl rfl _
    · exact privileged { srcS := [(rs.toNat, ea)], dstS := if kind = 2#2 then [rs.toNat] else [] } rfl rfl rfl rfl _
    · exact (exec_dbgrd rs ea assigned).trans (privileged (debugUse rs ea) rfl rfl rfl rfl _)
  case debug =>
    have run := (exec_dbgrd rs ea ((Nat.lt_or_ge sel.toNat 0x100).imp_left assigned)).trans
      (supervise_go (u := debugUse rs ea) issues unguarded (debugEffect rs sel))
    refine ⟨fun empty => run.trans ?_, fun slot placed => run.trans ?_⟩
    · rw [debugEffect, if_pos empty]
      rfl
    · rw [debugEffect, if_neg (not_or.2 ⟨Nat.not_le.2 slot, placed⟩)]
      rfl

end Sys2Proof.Machine
end

section
/-! SUPPORT. Every well-formed instruction's bytes decode to it (R44, R45, R152): its words do by the law of its constructor, and the
bytes put together are the words. -/

namespace Sys2Proof.Laws

/-! ### Fields in their place -/

/-- The field `x` stands in the word `w` from bit `lo` on. -/
def FieldAt {n : Nat} (w : W32) (lo : Nat) (x : BitVec n) : Prop := x = w.extractLsb' lo n

/-- Two fields side by side stand in the word where each stands in its place. -/
theorem fieldAt_append {m n lo : Nat} {x : BitVec m} {y : BitVec n} {w : W32} :
    FieldAt w lo (x ++ y) ↔ FieldAt w (lo + n) x ∧ FieldAt w lo y := by
  unfold FieldAt
  rw [← BitVec.extractLsb'_append_extractLsb'_eq_extractLsb' rfl]
  refine ⟨fun same => ⟨?_, ?_⟩, fun ⟨hx, hy⟩ => hx ▸ hy ▸ rfl⟩
  · simpa only [BitVec.extractLsb'_append_eq_left] using congrArg (BitVec.extractLsb' n m) same
  · simpa only [BitVec.extractLsb'_append_eq_right] using congrArg (BitVec.extractLsb' 0 n) same

theorem fieldAt_fld {w : W32} {lo place n : Nat} (here : lo = place) : FieldAt w lo (fld w place n) := here ▸ rfl

theorem fieldAt_bit {w : W32} {lo place : Nat} (here : lo = place) : FieldAt w lo (BitVec.ofBool (bit w place)) := by
  subst here
  apply BitVec.eq_of_getLsbD_eq
  intro j hj
  obtain rfl : j = 0 := Nat.lt_one_iff.1 hj
  simp [bit]

/-- How a word is checked field by field against what was read from it: one name for the three rules, for `simp`. -/
theorem fieldAt_parts (w : W32) :
    (∀ (lo m n : Nat) (x : BitVec m) (y : BitVec n), FieldAt w lo (x ++ y) ↔ FieldAt w (lo + n) x ∧ FieldAt w lo y) ∧
    (∀ lo place n : Nat, lo = place → FieldAt w lo (fld w place n)) ∧
    ∀ lo place : Nat, lo = place → FieldAt w lo (BitVec.ofBool (bit w place)) :=
  ⟨fun _ _ _ _ _ => fieldAt_append, fun _ _ _ => fieldAt_fld, fun _ _ => fieldAt_bit⟩

/-- A field whose number is known, as the opcode's are, is that number. -/
theorem fieldAt_toNat {w : W32} {lo place n k : Nat} (read : (fld w place n).toNat = k) (here : lo = place) :
    FieldAt w lo (BitVec.ofNat n k) := by
  rw [← read, BitVec.ofNat_toNat, BitVec.setWidth_eq]
  exact fieldAt_fld here

/-- A field every bit of which the mask of reserved bits covers is zero. -/
theorem fieldAt_zero {w mask : W32} (zero : w &&& mask = 0#32) {lo n : Nat} (covered : mask.extractLsb' lo n = BitVec.allOnes n) :
    FieldAt w lo 0#n := by
  have field := congrArg (BitVec.extractLsb' lo n) zero
  rw [BitVec.extractLsb'_and, covered, BitVec.and_allOnes, BitVec.extractLsb'_zero] at field
  exact field.symm

/-- Fields that stand in a word from bit 0 on and fill it are the word. -/
theorem eq_of_fieldAt {w x : W32} (stands : FieldAt w 0 x) : x = w := stands.trans (ext_all w)

/-! ### Words and their bytes -/

/-- The bytes of a word, put together again, are the word. -/
theorem wordOfBytes_fields (w : W32) : wordOfBytes (fld w 0 8) (fld w 8 8) (fld w 16 8) (fld w 24 8) = w :=
  eq_of_fieldAt (by simp (disch := decide) only [wordOfBytes, fieldAt_parts, and_self])

/-- The decoder takes the four bytes of a word that begins no long form, and leaves the rest. -/
theorem decodeBytes_short {w0 : W32} (short : isLong w0 = false) (rest : List Byte) :
    decodeBytes (bytesOfWord w0 ++ rest) = (decode w0 0).map (·, rest) := by
  simp [bytesOfWord, decodeBytes, wordOfBytes_fields, short]

/-- The decoder takes the eight bytes of a long form, and leaves the rest. -/
theorem decodeBytes_long {w0 : W32} (long : isLong w0 = true) (w1 : W32) (rest : List Byte) :
    decodeBytes (bytesOfWord w0 ++ bytesOfWord w1 ++ rest) = (decode w0 w1).map (·, rest) := by
  simp [bytesOfWord, decodeBytes, wordOfBytes_fields, long]

/-! ### Round trip -/

/-- The words of every well-formed instruction decode to it, and their first tells how many they are. -/
theorem decode_encode (i : Instr) : RoundTrip.Statement i :=
  Instr.casesOn (motive := RoundTrip.Statement) i
    RoundTrip.slotArbitration RoundTrip.starvationPromotion RoundTrip.loadDataReturn RoundTrip.accessRetire RoundTrip.storeBufferLeave
    RoundTrip.invalidationArrival RoundTrip.evictionNotice RoundTrip.noticeCompletion RoundTrip.acknowledgement RoundTrip.frontRequestAccept
    RoundTrip.retryTimerExpiry RoundTrip.holdTimeout RoundTrip.tileLanding RoundTrip.fillComplete RoundTrip.scratchMotionStart RoundTrip.portCapLoop
    RoundTrip.transcendentalStart RoundTrip.transcendentalResult RoundTrip.sleepDeadline RoundTrip.barrierWaitComplete RoundTrip.streamPrefetch
    RoundTrip.queueFetch RoundTrip.storeQueueDrain RoundTrip.spindleCommandStart RoundTrip.matrixOperationStart RoundTrip.matrixOperationComplete
    RoundTrip.whorlPartial RoundTrip.partialMerge RoundTrip.carderRound RoundTrip.carderRecordRead RoundTrip.distaffRead RoundTrip.hostSnoop
    RoundTrip.cxlMemRead RoundTrip.cxlMemWrite RoundTrip.hostCompletion RoundTrip.peerAcknowledgement RoundTrip.peerRequest RoundTrip.priResponse
    RoundTrip.priTimeout RoundTrip.pageWalk RoundTrip.tlbinvComplete RoundTrip.fresRetry RoundTrip.fresDeny RoundTrip.pageMove
    RoundTrip.eventRingDenyTimeout RoundTrip.lqtail RoundTrip.launchFetch RoundTrip.teamPlacement RoundTrip.levelRaise RoundTrip.reserve
    RoundTrip.grdarm RoundTrip.grdsetDoorbell RoundTrip.admtail RoundTrip.cplhead RoundTrip.cancel RoundTrip.distaffStep RoundTrip.stepCommit
    RoundTrip.sequenceRetirement RoundTrip.poisonReport RoundTrip.terminatingCause RoundTrip.frameRetire RoundTrip.preemptionRequest
    RoundTrip.teamSave RoundTrip.saveSeal RoundTrip.teamRestore RoundTrip.pairComparison RoundTrip.islandControlLoop RoundTrip.modulePowerLoop
    RoundTrip.fastClamp RoundTrip.thermalLimit RoundTrip.thermalTrip RoundTrip.retentionWindowLoop RoundTrip.rowGroupRefresh
    RoundTrip.perstDeassertion RoundTrip.stageAdvance RoundTrip.functionLevelReset RoundTrip.stageDroppedClear RoundTrip.identify RoundTrip.fwload
    RoundTrip.rollfwd RoundTrip.evring RoundTrip.ctxwrite RoundTrip.partset RoundTrip.wstat RoundTrip.retlist RoundTrip.islcap RoundTrip.skroute
    RoundTrip.reset RoundTrip.skeinPortDown RoundTrip.skeinPortUp RoundTrip.skeinPeerTimeout RoundTrip.cxlPortDown RoundTrip.cxlPortUp
    RoundTrip.spdmRequest RoundTrip.registerWrite RoundTrip.illegalInstruction RoundTrip.cxlCacheOwnershipGrant RoundTrip.backInvalidateResponse
    RoundTrip.atsTranslationCompletion RoundTrip.sadd RoundTrip.ssub RoundTrip.smul RoundTrip.smulh RoundTrip.smulhu RoundTrip.sand RoundTrip.sor
    RoundTrip.sxor RoundTrip.sshl RoundTrip.sshr RoundTrip.ssra RoundTrip.smin RoundTrip.smax RoundTrip.sminu RoundTrip.smaxu RoundTrip.sandn
    RoundTrip.sceq RoundTrip.scne RoundTrip.sclt RoundTrip.scle RoundTrip.scltu RoundTrip.scleu RoundTrip.ssel RoundTrip.scbit RoundTrip.saddi
    RoundTrip.sandi RoundTrip.sori RoundTrip.sxori RoundTrip.sshli RoundTrip.sshri RoundTrip.ssrai RoundTrip.sclti RoundTrip.smovi RoundTrip.sinsh
    RoundTrip.sgetx RoundTrip.ssetx RoundTrip.sandx RoundTrip.sandnx RoundTrip.sorx RoundTrip.spopc RoundTrip.sffs RoundTrip.sfullx RoundTrip.sclz
    RoundTrip.sctz RoundTrip.sbrev RoundTrip.sbswap RoundTrip.sextb RoundTrip.sexth RoundTrip.sextw RoundTrip.szextw RoundTrip.br RoundTrip.brxz
    RoundTrip.brxnz RoundTrip.brxall RoundTrip.call RoundTrip.brz RoundTrip.brnz RoundTrip.brneg RoundTrip.brpos RoundTrip.jmpr RoundTrip.callr
    RoundTrip.ret RoundTrip.smfr RoundTrip.smtr RoundTrip.nop RoundTrip.yield RoundTrip.halt RoundTrip.trap RoundTrip.tret RoundTrip.specbar
    RoundTrip.sleep RoundTrip.bkpt RoundTrip.waitc RoundTrip.waitr RoundTrip.waits RoundTrip.bara RoundTrip.barw RoundTrip.baraw RoundTrip.bari
    RoundTrip.pblk RoundTrip.sldb RoundTrip.sldh RoundTrip.sldw RoundTrip.sldd RoundTrip.sldbs RoundTrip.sldhs RoundTrip.sldws RoundTrip.sstb
    RoundTrip.ssth RoundTrip.sstw RoundTrip.sstd RoundTrip.vadd RoundTrip.vsub RoundTrip.vmullo RoundTrip.vmulhi RoundTrip.vmulhu RoundTrip.vmin
    RoundTrip.vmax RoundTrip.vminu RoundTrip.vand RoundTrip.vor RoundTrip.vxor RoundTrip.vandn RoundTrip.vshl RoundTrip.vshr RoundTrip.vsra
    RoundTrip.vmaxu RoundTrip.vadds RoundTrip.vsubs RoundTrip.vmuls RoundTrip.vands RoundTrip.vors RoundTrip.vxors RoundTrip.vshls RoundTrip.vshrs
    RoundTrip.vaddi RoundTrip.vandi RoundTrip.vori RoundTrip.vxori RoundTrip.vshli RoundTrip.vshri RoundTrip.vsrai RoundTrip.vmuli RoundTrip.vceq
    RoundTrip.vcne RoundTrip.vclt RoundTrip.vcle RoundTrip.vcgt RoundTrip.vcge RoundTrip.vcltu RoundTrip.vcleu RoundTrip.vmov RoundTrip.vmovs
    RoundTrip.vtid RoundTrip.vclz RoundTrip.vpopc RoundTrip.vbrev RoundTrip.vwrx RoundTrip.vrdx RoundTrip.vfadd RoundTrip.vfsub RoundTrip.vfmul
    RoundTrip.vfmin RoundTrip.vfmax RoundTrip.vfmac RoundTrip.vfmsc RoundTrip.vfnmac RoundTrip.vfadds RoundTrip.vfsubs RoundTrip.vfmuls
    RoundTrip.vfmacs RoundTrip.vfmins RoundTrip.vfmaxs RoundTrip.vfceq RoundTrip.vfcne RoundTrip.vfclt RoundTrip.vfcle RoundTrip.vfcun
    RoundTrip.vfslt RoundTrip.vfsle RoundTrip.vhadd RoundTrip.vhmul RoundTrip.vhmac RoundTrip.vbadd RoundTrip.vbmul RoundTrip.vbmac RoundTrip.vhdot
    RoundTrip.vbdot RoundTrip.vrcp RoundTrip.vrsq RoundTrip.vsqrt RoundTrip.vexp2 RoundTrip.vlog2 RoundTrip.vsin RoundTrip.vcos RoundTrip.vtanh
    RoundTrip.vcf16 RoundTrip.vcf32h RoundTrip.vcbf RoundTrip.vcf32b RoundTrip.vci32 RoundTrip.vcf32i RoundTrip.vcn32 RoundTrip.vcf32n
    RoundTrip.vcnar RoundTrip.vcwid RoundTrip.vct6 RoundTrip.vcf32t6 RoundTrip.vpk6 RoundTrip.vunpk6 RoundTrip.vshuf RoundTrip.vshfx RoundTrip.vrots
    RoundTrip.vbcst RoundTrip.vreda RoundTrip.vredf RoundTrip.vscan RoundTrip.vcmpk RoundTrip.vldb RoundTrip.vldh RoundTrip.vldw RoundTrip.vldd
    RoundTrip.vldq RoundTrip.vldbs RoundTrip.vldhs RoundTrip.vldl RoundTrip.vstb RoundTrip.vsth RoundTrip.vstw RoundTrip.vstd RoundTrip.vstq
    RoundTrip.vstl RoundTrip.stbind RoundTrip.stpos RoundTrip.stset RoundTrip.qbind RoundTrip.qdrain RoundTrip.stend RoundTrip.wdist RoundTrip.wpin
    RoundTrip.wunpin RoundTrip.wpull RoundTrip.whome RoundTrip.aadd RoundTrip.amin RoundTrip.amax RoundTrip.aminu RoundTrip.amaxu RoundTrip.aand
    RoundTrip.aor RoundTrip.axor RoundTrip.axchg RoundTrip.acas RoundTrip.afadd RoundTrip.radd RoundTrip.rfadd RoundTrip.rbfadd RoundTrip.rmin
    RoundTrip.rmax RoundTrip.rand RoundTrip.ror RoundTrip.rxor RoundTrip.tbegin RoundTrip.tend RoundTrip.tabort RoundTrip.ttest RoundTrip.cpy
    RoundTrip.cpy2d RoundTrip.cpyg RoundTrip.cpys RoundTrip.slbmv RoundTrip.cpyz RoundTrip.fence RoundTrip.fencei RoundTrip.fenceh RoundTrip.slbxl
    RoundTrip.slbrd RoundTrip.mma RoundTrip.mmaz RoundTrip.mmac RoundTrip.mmacz RoundTrip.mstz RoundTrip.mstrd RoundTrip.mstwr RoundTrip.mnorm
    RoundTrip.watt RoundTrip.wattd RoundTrip.crds RoundTrip.crdr RoundTrip.dmrd RoundTrip.dmclr RoundTrip.stepq RoundTrip.tokc RoundTrip.seqrd
    RoundTrip.tlbinv RoundTrip.grdset RoundTrip.snapct RoundTrip.dbgrd

theorem decode_of_encode {i : Instr} {w0 : W32} {w1 : Option W32} (wellFormed : i.wellFormed = true) (words : encode i = some (w0, w1)) :
    decode w0 (w1.getD 0) = .ok i ∧ isLong w0 = w1.isSome := by
  have trip := decode_encode i wellFormed
  rwa [words] at trip

/-- Settles O54: the words decode to the instruction whatever its constructor; their bytes, put together, are the words. -/
theorem roundTrip : Obligations.RoundTrip := by
  unfold Obligations.RoundTrip
  intro i rest wellFormed encoded
  obtain ⟨⟨w0, w1⟩, words⟩ := Option.isSome_iff_exists.1 encoded
  obtain ⟨decoded, length⟩ := decode_of_encode wellFormed words
  cases w1 with
  | none =>
    have bytes : encodeBytes i = bytesOfWord w0 := by simp [encodeBytes, words]
    rw [Option.getD_none] at decoded
    rw [bytes, decodeBytes_short length, decoded]
    refine ⟨rfl, ?_⟩
    simp [bytesOfWord, wordOfBytes_fields, length]
  | some w1 =>
    have bytes : encodeBytes i = bytesOfWord w0 ++ bytesOfWord w1 := by simp [encodeBytes, words]
    rw [Option.getD_some] at decoded
    rw [bytes, decodeBytes_long length, decoded]
    refine ⟨rfl, ?_⟩
    simp [bytesOfWord, wordOfBytes_fields, length]

end Sys2Proof.Laws
end

section
/-! SUPPORT. The decoder accepts encodings alone (R45, R46, R152): row by row of Table 7.7, an accepted word holds every field of the
encoding of what it stands for in that field's place. -/

namespace Sys2Proof.Laws

/-! ### What a row of the decoder answers -/

/-- An instruction that a row answers is encoded by `w0` and, for a long form, `w1`; the first word tells which. -/
def Answers (w0 : W32) (w1 : Option W32) (r : Except Reject Instr) : Prop :=
  ∀ i, r = .ok i → encode i = some (w0, w1) ∧ isLong w0 = w1.isSome

theorem Answers.error {w0 : W32} {w1 : Option W32} {e : Reject} : Answers w0 w1 (.error e) := nofun

/-- A one-word instruction whose encoding stands in `w0`. -/
theorem Answers.short {w0 x : W32} {i : Instr} (words : encode i = some (x, none)) (short : isLong w0 = false)
    (first : FieldAt w0 0 x) : Answers w0 none (.ok i) := by
  rintro _ ⟨⟩
  exact ⟨eq_of_fieldAt first ▸ words, short⟩

/-- A long form whose two words stand in `w0` and `w1`. -/
theorem Answers.long {w0 w1 x y : W32} {i : Instr} (words : encode i = some (x, some y)) (long : isLong w0 = true)
    (first : FieldAt w0 0 x) (second : FieldAt w1 0 y) : Answers w0 (some w1) (.ok i) := by
  rintro _ ⟨⟩
  exact ⟨eq_of_fieldAt first ▸ eq_of_fieldAt second ▸ words, long⟩

/-- A word whose reserved bits are checked is answered only where they are zero. -/
theorem Answers.checked {w0 : W32} {w1 : Option W32} {zero : Prop} [Decidable zero] {i : Instr}
    (ok : zero → Answers w0 w1 (.ok i)) : Answers w0 w1 (checked zero i) := by
  unfold Sys2Proof.checked
  split
  · exact ok ‹_›
  · exact .error

/-- A word refused outside a range is answered as within it. -/
theorem Answers.ite {w0 : W32} {w1 : Option W32} {inRange : Prop} [Decidable inRange] {r : Except Reject Instr} {e : Reject}
    (ok : Answers w0 w1 r) : Answers w0 w1 (if inRange then r else .error e) := by
  split
  · exact ok
  · exact .error

/-! ### The rows of Table 7.7

In each row the major, the fn and the reserved bits are known, and every other field of the encoding is read from the word: so each
field of the encoding stands in its place. -/

/-- Majors of one-word instructions whose encodings have no reserved bits. -/
def unreservedMajors : List Nat :=
  [0x00, 0x01, 0x02, 0x08, 0x09, 0x11, 0x12, 0x13, 0x14, 0x16, 0x18, 0x19, 0x1a, 0x1b, 0x21, 0x25]

/-- Majors of one-word instructions whose encodings all have their reserved bits checked. -/
def reservedMajors : List Nat :=
  [0x06, 0x07, 0x0a, 0x0b, 0x0c, 0x0d, 0x0e, 0x10, 0x17, 0x1d, 0x20, 0x22, 0x23, 0x26, 0x28, 0x31]

/-- Majors of one-word instructions some of which have reserved bits or a range; and those of one instruction, without fn. -/
def mixedMajors : List Nat := [0x03, 0x04, 0x05, 0x0f, 0x15, 0x1e, 0x1f, 0x35, 0x3c]

/-- Majors of the long forms (Table 7.6), but for the matrix words of 0x30. -/
def longMajors : List Nat := [0x24, 0x27, 0x29, 0x33, 0x34]

/-- The majors of Table 7.7. -/
def assignedMajors : List Nat := unreservedMajors ++ reservedMajors ++ mixedMajors ++ longMajors ++ [0x30]

section
variable {w0 w1 : W32} {j : Nat}

theorem decode_answers_of_unreserved (major : (fld w0 26 6).toNat = j) (row : j ∈ unreservedMajors) :
    Answers w0 none (decode w0 w1) := by
  fin_cases row
  all_goals
    have short : isLong w0 = false := by simp only [isLong, major]
    simp only [decode, major, dec00, dec01, dec02, dec08, dec09, dec11, dec12, dec13, dec14, dec16, dec18, dec19, dec1a, dec1b,
      dec21, dec25]
    split
    any_goals exact .error
    all_goals
      next fn =>
      exact .short rfl short (by simp (disch := decide) only [fieldAt_parts, fieldAt_toNat major, fieldAt_toNat fn, and_self])

theorem decode_answers_of_reserved (major : (fld w0 26 6).toNat = j) (row : j ∈ reservedMajors) :
    Answers w0 none (decode w0 w1) := by
  fin_cases row
  all_goals
    have short : isLong w0 = false := by simp only [isLong, major]
    simp only [decode, major, dec06, dec07, dec0a, dec0b, dec0c, dec0d, dec0e, dec10, dec17, dec1d, dec20, dec22, dec23, dec26,
      dec28, dec31]
    split
    any_goals exact .error
    all_goals
      next fn =>
      exact .checked fun zero => .short rfl short
        (by simp (disch := decide) only [fieldAt_parts, fieldAt_toNat major, fieldAt_toNat fn, fieldAt_zero zero, and_self])

/-- Immediate words: those that shift take an immediate below the width. -/
theorem decode_answers_of_immediate (major : (fld w0 26 6).toNat = j) (row : j ∈ [0x03, 0x15]) : Answers w0 none (decode w0 w1) := by
  fin_cases row
  all_goals
    have short : isLong w0 = false := by simp only [isLong, major]
    simp only [decode, major, dec03, dec15]
    split
    case h_9 => exact .error
    case h_5 fn | h_6 fn | h_7 fn =>
      exact .ite <| .short rfl short
        (by simp (disch := decide) only [fieldAt_parts, fieldAt_toNat major, fieldAt_toNat fn, and_self])
    all_goals
      next fn =>
      exact .short rfl short (by simp (disch := decide) only [fieldAt_parts, fieldAt_toNat major, fieldAt_toNat fn, and_self])

/-- SMOVI. -/
theorem decode_answers_04 (major : (fld w0 26 6).toNat = 0x04) : Answers w0 none (decode w0 w1) := by
  simp only [decode, major, dec04]
  exact .short rfl (by simp only [isLong, major]) (by simp (disch := decide) only [fieldAt_parts, fieldAt_toNat major, and_self])

/-- SINSH. -/
theorem decode_answers_05 (major : (fld w0 26 6).toNat = 0x05) : Answers w0 none (decode w0 w1) := by
  simp only [decode, major, dec05]
  exact .checked fun zero => .short rfl (by simp only [isLong, major])
    (by simp (disch := decide) only [fieldAt_parts, fieldAt_toNat major, fieldAt_zero zero, and_self])

/-- PBLK. -/
theorem decode_answers_0f (major : (fld w0 26 6).toNat = 0x0f) : Answers w0 none (decode w0 w1) := by
  simp only [decode, major, dec0f]
  exact .ite <| .checked fun zero => .short rfl (by simp only [isLong, major])
    (by simp (disch := decide) only [fieldAt_parts, fieldAt_toNat major, fieldAt_zero zero, and_self])

/-- Conversions. -/
theorem decode_answers_1e (major : (fld w0 26 6).toNat = 0x1e) : Answers w0 none (decode w0 w1) := by
  have short : isLong w0 = false := by simp only [isLong, major]
  simp only [decode, major, dec1e]
  split
  case h_15 => exact .error
  case h_9 fn | h_11 fn =>
    exact .short rfl short (by simp (disch := decide) only [fieldAt_parts, fieldAt_toNat major, fieldAt_toNat fn, and_self])
  case h_1 fn | h_2 fn | h_3 fn | h_4 fn =>
    exact .ite <| .checked fun zero => .short rfl short
      (by simp (disch := decide) only [fieldAt_parts, fieldAt_toNat major, fieldAt_toNat fn, fieldAt_zero zero, and_self])
  all_goals
    next fn =>
    exact .checked fun zero => .short rfl short
      (by simp (disch := decide) only [fieldAt_parts, fieldAt_toNat major, fieldAt_toNat fn, fieldAt_zero zero, and_self])

/-- Exchanges across lanes: VSHUF and VROTS have no reserved bits. -/
theorem decode_answers_1f (major : (fld w0 26 6).toNat = 0x1f) : Answers w0 none (decode w0 w1) := by
  have short : isLong w0 = false := by simp only [isLong, major]
  simp only [decode, major, dec1f]
  split
  case h_9 => exact .error
  case h_1 fn | h_3 fn =>
    exact .short rfl short (by simp (disch := decide) only [fieldAt_parts, fieldAt_toNat major, fieldAt_toNat fn, and_self])
  all_goals
    next fn =>
    exact .checked fun zero => .short rfl short
      (by simp (disch := decide) only [fieldAt_parts, fieldAt_toNat major, fieldAt_toNat fn, fieldAt_zero zero, and_self])

/-- Sequence words: SEQRD has no reserved bits. -/
theorem decode_answers_35 (major : (fld w0 26 6).toNat = 0x35) : Answers w0 none (decode w0 w1) := by
  have short : isLong w0 = false := by simp only [isLong, major]
  simp only [decode, major, dec35]
  split
  case h_4 => exact .error
  case h_3 fn =>
    exact .short rfl short (by simp (disch := decide) only [fieldAt_parts, fieldAt_toNat major, fieldAt_toNat fn, and_self])
  all_goals
    next fn =>
    exact .checked fun zero => .short rfl short
      (by simp (disch := decide) only [fieldAt_parts, fieldAt_toNat major, fieldAt_toNat fn, fieldAt_zero zero, and_self])

/-- Supervisor words: all but GRDSET have a selector with a range. -/
theorem decode_answers_3c (major : (fld w0 26 6).toNat = 0x3c) : Answers w0 none (decode w0 w1) := by
  have short : isLong w0 = false := by simp only [isLong, major]
  simp only [decode, major, dec3c]
  split
  case h_5 => exact .error
  case h_2 fn =>
    exact .checked fun zero => .short rfl short
      (by simp (disch := decide) only [fieldAt_parts, fieldAt_toNat major, fieldAt_toNat fn, fieldAt_zero zero, and_self])
  all_goals
    next fn =>
    exact .ite <| .checked fun zero => .short rfl short
      (by simp (disch := decide) only [fieldAt_parts, fieldAt_toNat major, fieldAt_toNat fn, fieldAt_zero zero, and_self])

theorem decode_answers_of_mixed (major : (fld w0 26 6).toNat = j) (row : j ∈ mixedMajors) : Answers w0 none (decode w0 w1) := by
  fin_cases row
  · exact decode_answers_of_immediate major (by decide)
  · exact decode_answers_04 major
  · exact decode_answers_05 major
  · exact decode_answers_0f major
  · exact decode_answers_of_immediate major (by decide)
  · exact decode_answers_1e major
  · exact decode_answers_1f major
  · exact decode_answers_35 major
  · exact decode_answers_3c major

/-- MMA, MMAZ, MMAC and MMACZ: every fn is a long form. -/
theorem decode_answers_30 (major : (fld w0 26 6).toNat = 0x30) : Answers w0 (some w1) (decode w0 w1) := by
  have long : isLong w0 = true := by simp only [isLong, major]
  simp only [decode, major, dec30]
  split
  case h_5 => exact .error
  case h_1 fn | h_2 fn =>
    exact .ite <| .checked fun ⟨_, zero⟩ => .long rfl long
      (by simp (disch := decide) only [fieldAt_parts, fieldAt_toNat major, fieldAt_toNat fn, and_self])
      (by simp (disch := decide) only [fieldAt_parts, fieldAt_zero zero, and_self])
  all_goals
    next fn =>
    exact .checked fun ⟨zero, zero'⟩ => .long rfl long
      (by simp (disch := decide) only [fieldAt_parts, fieldAt_toNat major, fieldAt_toNat fn, fieldAt_zero zero, and_self])
      (by simp (disch := decide) only [fieldAt_parts, fieldAt_zero zero', and_self])

theorem decode_answers_of_long (major : (fld w0 26 6).toNat = j) (row : j ∈ longMajors) : Answers w0 (some w1) (decode w0 w1) := by
  fin_cases row
  all_goals
    simp only [decode, major, dec24, dec27, dec29, dec33, dec34]
    split
    any_goals exact .error
    all_goals
      next fn =>
      exact .checked fun ⟨zero, zero'⟩ => .long rfl (by simp [isLong, major, fn])
        (by simp (disch := decide) only [fieldAt_parts, fieldAt_toNat major, fieldAt_toNat fn, fieldAt_zero zero, and_self])
        (by simp (disch := decide) only [fieldAt_parts, fieldAt_zero zero', and_self])

/-- Every other major is unassigned. -/
theorem decode_unassigned (major : (fld w0 26 6).toNat = j) (noRow : j ∉ assignedMajors) :
    decode w0 w1 = .error .unassignedMajor := by
  unfold decode
  split
  case h_48 => rfl
  all_goals
    next row => exact absurd (by rw [← major, row]; decide) noRow

end

/-- Every accepted word is a short form's encoding, or with the second word a long form's. -/
theorem decode_answers (w0 w1 : W32) : Answers w0 none (decode w0 w1) ∨ Answers w0 (some w1) (decode w0 w1) := by
  obtain ⟨j, major⟩ : ∃ j, (fld w0 26 6).toNat = j := ⟨_, rfl⟩
  by_cases row : j ∈ assignedMajors
  · simp only [assignedMajors, List.mem_append, List.mem_singleton] at row
    obtain (((unreserved | reserved) | mixed) | long) | matrix := row
    · exact .inl (decode_answers_of_unreserved major unreserved)
    · exact .inl (decode_answers_of_reserved major reserved)
    · exact .inl (decode_answers_of_mixed major mixed)
    · exact .inr (decode_answers_of_long major long)
    · exact .inr (decode_answers_30 (major.trans matrix))
  · rw [decode_unassigned major row]
    exact .inl .error

/-- What the decoder accepts is the encoding of what it answers. -/
theorem encode_of_decode {w0 w1 : W32} {i : Instr} (decoded : decode w0 w1 = .ok i) :
    encode i = some (w0, if isLong w0 then some w1 else none) := by
  rcases decode_answers w0 w1 with answers | answers
  all_goals
    obtain ⟨words, length⟩ := answers i decoded
    simp [words, length]

/-- Settles O55: an accepted word is its answer's encoding, row by row; and an instruction has one encoding. -/
theorem decodeUnique : Obligations.DecodeUnique := by
  unfold Obligations.DecodeUnique
  refine ⟨fun w0 w1 i decoded => encode_of_decode decoded, fun w0 w1 v0 v1 i decoded decoded' => ?_⟩
  have same := (encode_of_decode decoded).symm.trans (encode_of_decode decoded')
  obtain ⟨rfl, second⟩ : w0 = v0 ∧ (if isLong w0 then some w1 else none) = if isLong v0 then some v1 else none := by
    simpa using same
  refine ⟨rfl, fun long => ?_⟩
  simpa [long] using second

end Sys2Proof.Laws
end

section
/-! SUPPORT. The floating-point words: their values and flags thread by thread, and the exact number rounded once (R56, R58, R188, R190). -/

namespace Sys2Proof.Machine

open Sys2Proof.Safety

/-! ### The shared forms of the words -/

section Forms

variable {s t : State} {d a b : BitVec 7} {ea eb : Bool}

theorem fp3_go (op : Rounding → W32 → W32 → W32 × Flags) (issues : Issues (useV3 d a b ea eb) s t) :
    let value := fun th => op t.w.rounding (t.vreg a.toNat th) (t.vreg b.toNat th)
    fp3 op d a b ea eb s = .next (finishFlags (useV3 d a b ea eb) (t.w.actingThreads.map (fun th => (th, (value th).2)))
      (t.setVs d.toNat (fun th => (value th).1) t.w.actingThreads)) :=
  vectorFp_go issues d _

theorem fpS_go (op : Rounding → W32 → W32 → W32 × Flags) (issues : Issues (useVS d a b ea eb) s t) :
    let value := fun th => op t.w.rounding (t.vreg a.toNat th) (t.sregW b.toNat)
    fpS op d a b ea eb s = .next (finishFlags (useVS d a b ea eb) (t.w.actingThreads.map (fun th => (th, (value th).2)))
      (t.setVs d.toNat (fun th => (value th).1) t.w.actingThreads)) :=
  vectorFp_go issues d _

theorem fpAcc3_go (op : Rounding → W32 → W32 → W32 → W32 × Flags) (issues : Issues { useV3 d a b ea eb with oldV := [d.toNat] } s t) :
    let value := fun th => op t.w.rounding (t.vreg a.toNat th) (t.vreg b.toNat th) (t.vreg d.toNat th)
    fpAcc3 op d a b ea eb s = .next (finishFlags { useV3 d a b ea eb with oldV := [d.toNat] }
      (t.w.actingThreads.map (fun th => (th, (value th).2))) (t.setVs d.toNat (fun th => (value th).1) t.w.actingThreads)) :=
  vectorFp_go issues d _

theorem fpAccS_go (op : Rounding → W32 → W32 → W32 → W32 × Flags) (issues : Issues { useVS d a b ea eb with oldV := [d.toNat] } s t) :
    let value := fun th => op t.w.rounding (t.vreg a.toNat th) (t.sregW b.toNat) (t.vreg d.toNat th)
    fpAccS op d a b ea eb s = .next (finishFlags { useVS d a b ea eb with oldV := [d.toNat] }
      (t.w.actingThreads.map (fun th => (th, (value th).2))) (t.setVs d.toNat (fun th => (value th).1) t.w.actingThreads)) :=
  vectorFp_go issues d _

end Forms

/-! ### Results fit their registers -/

/-- A signed magnitude up to infinity's has no bit beyond the sign. -/
theorem Fmt.signed_lt {f : Fmt} (neg : Bool) {m : Nat} (h : m ≤ f.infBits) : f.signed neg m < 2 ^ (f.p - 1 + f.eb + 1) := by
  have inf : f.infBits < 2 ^ (f.p - 1 + f.eb) := by
    rw [Fmt.infBits, pow_add, mul_comm]
    exact Nat.mul_lt_mul_of_pos_left (Nat.sub_lt (by positivity) one_pos) (by positivity)
  rw [pow_succ, Fmt.signed]
  split <;> omega

theorem Fmt.round_lt (f : Fmt) (mode : Rounding) (neg : Bool) (m : Nat) (e : Int) :
    (f.round mode neg m e).1 < 2 ^ (f.p - 1 + f.eb + 1) := by
  unfold Fmt.round
  exact iteInduction (motive := fun r : Nat × Flags => r.1 < _) (fun _ => f.signed_lt neg (Nat.zero_le _)) fun _ =>
    iteInduction (motive := fun r : Nat × Flags => r.1 < _) (fun _ => f.signed_lt neg (by split <;> omega))
      fun below => f.signed_lt neg (Nat.le_of_lt (Nat.not_le.1 below))

/-- The canonical NaN fits, where the fraction holds its bit. -/
theorem Fmt.nanBits_lt {f : Fmt} (hf : f.Sound) : f.nanBits < 2 ^ (f.p - 1 + f.eb + 1) := by
  have quiet : 2 ^ (f.p - 2) ≤ 2 ^ (f.p - 1) := Nat.pow_le_pow_right (by norm_num) (by omega)
  have two : 2 ≤ 2 ^ f.eb := Nat.le_self_pow (by have := hf.exponent; omega) 2
  have product : f.infBits + 2 ^ (f.p - 1) = 2 ^ (f.p - 1 + f.eb) := by
    rw [Fmt.infBits, pow_add, ← Nat.succ_mul, mul_comm, Nat.succ_eq_add_one, Nat.sub_add_cancel (by omega)]
  have positive : 0 < 2 ^ (f.p - 1 + f.eb) := by positivity
  rw [Fmt.nanBits, pow_succ]
  omega

theorem Fmt.sum_lt {f : Fmt} (hf : f.Sound) (mode : Rounding) (ts : List Num) : (f.sum mode ts).1 < 2 ^ (f.p - 1 + f.eb + 1) := by
  unfold Fmt.sum
  dsimp only
  split_ifs
  · exact f.nanBits_lt hf
  · exact f.nanBits_lt hf
  · exact f.nanBits_lt hf
  · exact f.signed_lt false le_rfl
  · exact f.signed_lt true le_rfl
  · exact f.signed_lt (zeroSign mode ts) (Nat.zero_le _)
  · exact f.round_lt ..

theorem Fmt.mul_lt {f : Fmt} (hf : f.Sound) (mode : Rounding) (a b : Nat) : (f.mul mode a b).1 < 2 ^ (f.p - 1 + f.eb + 1) := by
  unfold Fmt.mul
  split
  · exact f.nanBits_lt hf
  · exact f.signed_lt _ le_rfl
  · exact f.round_lt ..

/-- A result of F32 loses nothing in a register. -/
theorem word32_fits {r : Nat × Flags} (h : r.1 < 2 ^ (f32.p - 1 + f32.eb + 1)) : ((word32 r).1.toNat, (word32 r).2) = r := by
  have : r.1 % 2 ^ 32 = r.1 := Nat.mod_eq_of_lt h
  simp only [word32, BitVec.toNat_ofNat, this]

theorem roundedOnce_word32 {mode : Rounding} {v : ℚ} {r : Nat × Flags} (once : RoundedOnce f32 mode v r)
    (h : r.1 < 2 ^ (f32.p - 1 + f32.eb + 1)) : RoundedOnce f32 mode v ((word32 r).1.toNat, (word32 r).2) := by
  rwa [word32_fits h]

/-! ### The exact number rounded once (R56) -/

section Once

variable {f : Fmt} {a b d : Nat} {na nb nd : Bool} {ma mb md : Nat} {ea eb ed : Int}

theorem Fmt.add_once (hf : f.Sound) (mode : Rounding) (ha : f.decode a = .fin na ma ea) (hb : f.decode b = .fin nb mb eb) :
    RoundedOnce f mode (valueOf na ma ea + valueOf nb mb eb) (f.add mode a b) := by
  have once := Fmt.sum_once hf mode [.fin na ma ea, .fin nb mb eb] (by simp)
  simpa [Fmt.add, ha, hb, sumValue] using once

theorem Fmt.sub_once (hf : f.Sound) (mode : Rounding) (ha : f.decode a = .fin na ma ea) (hb : f.decode b = .fin nb mb eb) :
    RoundedOnce f mode (valueOf na ma ea - valueOf nb mb eb) (f.sub mode a b) := by
  have once := Fmt.sum_once hf mode [.fin na ma ea, .fin (!nb) mb eb] (by simp)
  simpa [Fmt.sub, ha, hb, sumValue, Num.negate, negate_value, sub_eq_add_neg] using once

theorem Fmt.mul_once (hf : f.Sound) (mode : Rounding) (ha : f.decode a = .fin na ma ea) (hb : f.decode b = .fin nb mb eb) :
    RoundedOnce f mode (valueOf na ma ea * valueOf nb mb eb) (f.mul mode a b) := by
  rw [← mul_value]
  simpa only [Fmt.mul, ha, hb, Num.mul] using Fmt.round_once hf mode (na != nb) (ma * mb) (ea + eb)

/-- A term of a fused sum, its sign turned or not. -/
theorem negated_value (turn n : Bool) (m : Nat) (e : Int) :
    ∃ n', (if turn then (Num.fin n m e).negate else .fin n m e) = .fin n' m e ∧
      valueOf n' m e = if turn then -valueOf n m e else valueOf n m e := by
  cases turn
  · exact ⟨n, rfl, rfl⟩
  · exact ⟨!n, rfl, negate_value n m e⟩

theorem Fmt.fma_once (hf : f.Sound) (mode : Rounding) (ha : f.decode a = .fin na ma ea) (hb : f.decode b = .fin nb mb eb)
    (hd : f.decode d = .fin nd md ed) (np nc : Bool) :
    RoundedOnce f mode ((if np then -(valueOf na ma ea * valueOf nb mb eb) else valueOf na ma ea * valueOf nb mb eb) +
      (if nc then -valueOf nd md ed else valueOf nd md ed)) (f.fma mode np nc a b d) := by
  obtain ⟨p, hp, vp⟩ := negated_value np (na != nb) (ma * mb) (ea + eb)
  obtain ⟨c, hc, vc⟩ := negated_value nc nd md ed
  have once := Fmt.sum_once hf mode [.fin p (ma * mb) (ea + eb), .fin c md ed] (by simp)
  rw [← mul_value, ← vp, ← vc]
  simpa [Fmt.fma, ha, hb, hd, Num.mul, hp, hc, sumValue] using once

end Once

/-- The two-term dot product of finite halves onto a finite value. -/
theorem dotPair_once (f : Fmt) (mode : Rounding) {a b d : W32} {na nb : Nat → Bool} {ma mb : Nat → Nat} {ea eb : Nat → Int} {nd : Bool}
    {md : Nat} {ed : Int}
    (halves : ∀ i < 2, f.decode (half a i) = .fin (na i) (ma i) (ea i) ∧ f.decode (half b i) = .fin (nb i) (mb i) (eb i))
    (hd : f32.decode d.toNat = .fin nd md ed) :
    RoundedOnce f32 mode (valueOf (na 0) (ma 0) (ea 0) * valueOf (nb 0) (mb 0) (eb 0) +
        valueOf (na 1) (ma 1) (ea 1) * valueOf (nb 1) (mb 1) (eb 1) + valueOf nd md ed)
      ((dotPair f mode a b d).1.toNat, (dotPair f mode a b d).2) := by
  obtain ⟨ha0, hb0⟩ := halves 0 (by norm_num)
  obtain ⟨ha1, hb1⟩ := halves 1 (by norm_num)
  have once := Fmt.sum_once f32_sound mode [.fin (na 0 != nb 0) (ma 0 * mb 0) (ea 0 + eb 0),
    .fin (na 1 != nb 1) (ma 1 * mb 1) (ea 1 + eb 1), .fin nd md ed]
    (by simp only [List.forall_mem_cons]; exact ⟨⟨_, _, _, rfl⟩, ⟨_, _, _, rfl⟩, ⟨_, _, _, rfl⟩, nofun⟩)
  refine roundedOnce_word32 ?_ (Fmt.sum_lt f32_sound ..)
  rw [ha0, hb0, ha1, hb1, hd]
  simpa only [Num.mul, sumValue, mul_value, add_zero, add_assoc] using once

/-! ### Packed halves (R190) -/

/-- The two halves of a word made of two halves. -/
theorem half_pair {x y : Nat} (hx : x < 2 ^ 16) (hy : y < 2 ^ 16) :
    half (BitVec.ofNat 32 (x + 2 ^ 16 * y)) 0 = x ∧ half (BitVec.ofNat 32 (x + 2 ^ 16 * y)) 1 = y := by
  simp only [half, BitVec.toNat_ushiftRight, BitVec.toNat_ofNat, Nat.shiftRight_eq_div_pow]
  omega

theorem half_sound : ∀ f ∈ [f16, bf16], f.Sound := by simp [f16_sound, bf16_sound]

/-- Settles O14: each word by its form; each sum and product by its exact value. -/
theorem floatingPoint : Obligations.FloatingPoint := by
  unfold Obligations.FloatingPoint
  refine ⟨?vectors, ?scalars, ?fused, fun s t d a b ea eb issues => fpAccS_go (fun r => fmaF32 r false false) issues, ?single, ?narrow, ?packedHalves,
    fun f _ mode a b d na nb ma mb ea eb nd md ed halves hd => dotPair_once f mode halves hd⟩
  case vectors =>
    have word (op) (s t : State) (d a b : BitVec 7) (ea eb : Bool) (issues : Issues (useV3 d a b ea eb) s t) := fp3_go op issues
    simp only [List.forall_mem_cons, List.not_mem_nil, false_imp_iff, implies_true, and_true]
    exact ⟨word addF32, word subF32, word mulF32, word (fun _ => minMaxF32 true), word (fun _ => minMaxF32 false),
      word (fun r x y => packed (fun u v _ => f16.add r u v) x y 0), word (fun r x y => packed (fun u v _ => f16.mul r u v) x y 0),
      word (fun r x y => packed (fun u v _ => bf16.add r u v) x y 0), word (fun r x y => packed (fun u v _ => bf16.mul r u v) x y 0)⟩
  case scalars =>
    have word (op) (s t : State) (d a b : BitVec 7) (ea eb : Bool) (issues : Issues (useVS d a b ea eb) s t) := fpS_go op issues
    simp only [List.forall_mem_cons, List.not_mem_nil, false_imp_iff, implies_true, and_true]
    exact ⟨word addF32, word subF32, word mulF32, word (fun _ => minMaxF32 true), word (fun _ => minMaxF32 false)⟩
  case fused =>
    have word (op) (s t : State) (d a b : BitVec 7) (ea eb : Bool) (issues : Issues { useV3 d a b ea eb with oldV := [d.toNat] } s t) :=
      fpAcc3_go op issues
    simp only [List.forall_mem_cons, List.not_mem_nil, false_imp_iff, implies_true, and_true]
    exact ⟨word (fun r => fmaF32 r false false), word (fun r => fmaF32 r false true), word (fun r => fmaF32 r true false),
      word (fun r => packed (f16.fma r false false)), word (fun r => packed (bf16.fma r false false)), word (dotPair f16), word (dotPair bf16)⟩
  case single =>
    intro mode a b d na nb nd ma mb md ea eb ed ha hb
    exact ⟨roundedOnce_word32 (Fmt.add_once f32_sound mode ha hb) (Fmt.sum_lt f32_sound ..),
      roundedOnce_word32 (Fmt.sub_once f32_sound mode ha hb) (Fmt.sum_lt f32_sound ..),
      roundedOnce_word32 (Fmt.mul_once f32_sound mode ha hb) (Fmt.mul_lt f32_sound ..),
      fun hd np nc => roundedOnce_word32 (Fmt.fma_once f32_sound mode ha hb hd np nc) (Fmt.sum_lt f32_sound ..)⟩
  case narrow =>
    intro f hf mode a b d na nb nd ma mb md ea eb ed ha hb
    exact ⟨Fmt.add_once (half_sound f hf) mode ha hb, Fmt.mul_once (half_sound f hf) mode ha hb,
      fun hd => Fmt.fma_once (half_sound f hf) mode ha hb hd false false⟩
  case packedHalves =>
    intro op a b d fits
    obtain ⟨low, high⟩ := half_pair (fits (half a 0) (half b 0) (half d 0)) (fits (half a 1) (half b 1) (half d 1))
    refine ⟨fun i hi => ?_, rfl⟩
    obtain rfl | rfl : i = 0 ∨ i = 1 := by omega
    · exact low
    · exact high

end Sys2Proof.Machine
end

section
/-! SUPPORT. Fields of a register replaced and six-bit codes packed (R63, R192, R193), and the cross-lane words (R79, R194). -/

namespace Sys2Proof.Machine

open Sys2Proof.Safety

/-! ### Fields replaced -/

/-- A field of `n` bits replaced from bit `k` on: its bits are the new value's, every other bit is as before. -/
theorem getLsbD_replaced {m n : Nat} (x : BitVec m) (v : BitVec n) (k : Nat) {i : Nat} (h : i < m) :
    ((x &&& ~~~((BitVec.allOnes n).setWidth m <<< k)) ||| (v.setWidth m <<< k)).getLsbD i =
      if k ≤ i ∧ i < k + n then v.getLsbD (i - k) else x.getLsbD i := by
  simp only [BitVec.getLsbD_or, BitVec.getLsbD_and, BitVec.getLsbD_not, BitVec.getLsbD_shiftLeft, BitVec.getLsbD_setWidth,
    BitVec.getLsbD_allOnes, h, decide_true, Bool.true_and]
  by_cases below : i < k
  · simp [below, show ¬ k ≤ i by omega]
  · have field : i - k < n ↔ i < k + n := by omega
    by_cases inside : i < k + n
    · simp [below, inside, field, show k ≤ i by omega, show i - k < m by omega]
    · simp [below, inside, field, BitVec.getLsbD_of_ge v (i - k) (by omega)]

/-! ### Codes in a group of a triple (R63, R193) -/

theorem toNat_append_eq {m n : Nat} (x : BitVec m) (y : BitVec n) : (x ++ y).toNat = 2 ^ n * x.toNat + y.toNat := by
  rw [BitVec.toNat_append, ← Nat.shiftLeft_add_eq_or_of_lt y.isLt, Nat.shiftLeft_eq, mul_comm]

/-- A thread's triple: three registers side by side. -/
def tripleOf (s : State) (n th : Nat) : BitVec 96 := s.vreg (n + 2) th ++ s.vreg (n + 1) th ++ s.vreg n th

theorem toNat_tripleOf (s : State) (n th : Nat) : (tripleOf s n th).toNat = tripleBits s n th := by
  rw [tripleOf, toNat_append_eq, toNat_append_eq, tripleBits]
  omega

/-- The codes of a register's four bytes side by side. -/
def codesOf (x : W32) : BitVec 24 := x.extractLsb' (8 * 3) 6 ++ x.extractLsb' (8 * 2) 6 ++ x.extractLsb' (8 * 1) 6 ++ x.extractLsb' (8 * 0) 6

/-- The code in a byte. -/
theorem getByte_code (x : W32) (k : Nat) : getByte x k % 64 = (x.extractLsb' (8 * k) 6).toNat := by
  rw [getByte, BitVec.extractLsb'_toNat, BitVec.toNat_ushiftRight]
  omega

theorem toNat_codesOf (x : W32) : (codesOf x).toNat =
    getByte x 0 % 64 + 2 ^ 6 * (getByte x 1 % 64) + 2 ^ 12 * (getByte x 2 % 64) + 2 ^ 18 * (getByte x 3 % 64) := by
  simp only [codesOf, toNat_append_eq, getByte_code]
  omega

theorem getLsbD_codesOf (x : W32) {j : Nat} (h : j < 24) : (codesOf x).getLsbD j = x.getLsbD (8 * (j / 6) + j % 6) := by
  simp only [codesOf, BitVec.getLsbD_append, BitVec.getLsbD_extractLsb']
  interval_cases j <;> simp

/-- A packed triple: the group has the codes of the register's bytes, every other bit is as before. -/
theorem getLsbD_packed6 (s : State) (n a sel th : Nat) {i : Nat} (h : i < 96) : (packed6 s n a sel th).getLsbD i =
    if 24 * sel ≤ i ∧ i < 24 * sel + 24 then (s.vreg a th).getLsbD (8 * ((i - 24 * sel) / 6) + (i - 24 * sel) % 6)
    else (tripleOf s n th).getLsbD i := by
  have triple : BitVec.ofNat 96 (tripleBits s n th) = tripleOf s n th := by rw [← toNat_tripleOf, BitVec.ofNat_toNat, BitVec.setWidth_eq]
  have packs := getLsbD_replaced (tripleOf s n th) (codesOf (s.vreg a th)) (24 * sel) h
  rw [← BitVec.ofNat_toNat 96 (codesOf _), toNat_codesOf] at packs
  rw [packed6, triple]
  refine packs.trans (ite_congr rfl (fun inside => getLsbD_codesOf _ (by omega)) fun _ => rfl)

/-- Four codes, each spread over a byte. -/
theorem spread_codes (g : BitVec 24) :
    BitVec.ofNat 32 (g.toNat % 64 + 2 ^ 8 * (g.toNat / 2 ^ 6 % 64) + 2 ^ 16 * (g.toNat / 2 ^ 12 % 64) + 2 ^ 24 * (g.toNat / 2 ^ 18 % 64)) =
      0#2 ++ g.extractLsb' 18 6 ++ 0#2 ++ g.extractLsb' 12 6 ++ 0#2 ++ g.extractLsb' 6 6 ++ 0#2 ++ g.extractLsb' 0 6 := by
  apply BitVec.eq_of_toNat_eq
  simp only [toNat_append_eq, BitVec.extractLsb'_toNat, Nat.shiftRight_eq_div_pow, BitVec.toNat_ofNat]
  omega

theorem toNat_group (s : State) (n th k : Nat) :
    ((tripleOf s n th).extractLsb' k 24).toNat = tripleBits s n th / 2 ^ k % 2 ^ 24 := by
  rw [BitVec.extractLsb'_toNat, toNat_tripleOf, Nat.shiftRight_eq_div_pow]

/-- VPK6 writes its packed triple, where no register of it is a port. -/
theorem exec_vpk6 {s t : State} {d a : BitVec 7} (sel : BitVec 2) {ea : Bool} (issues : Issues {
      covered := true, srcV := [(a.toNat, ea)], oldV := [d.toNat, d.toNat + 1, d.toNat + 2],
      dstV := [d.toNat, d.toNat + 1, d.toNat + 2] } s t) (plain : s.w.rangeHitsPort d.toNat 3 = false) :
    let x := packed6 t d.toNat a.toNat sel.toNat
    exec (.vpk6 d a sel ea) s = .next (finish {
        covered := true, srcV := [(a.toNat, ea)], oldV := [d.toNat, d.toNat + 1, d.toNat + 2],
        dstV := [d.toNat, d.toNat + 1, d.toNat + 2] }
      (((t.setVs d.toNat (fun th => (x th).extractLsb' 0 32) t.w.actingThreads).setVs (d.toNat + 1)
        (fun th => (x th).extractLsb' 32 32) t.w.actingThreads).setVs (d.toNat + 2) (fun th => (x th).extractLsb' 64 32) t.w.actingThreads)) := by
  change execVpk6 d a sel ea s = _
  unfold execVpk6
  simp only [plain]
  exact run_go issues _

/-- VUNPK6 spreads a group's codes over the bytes of vd. -/
theorem exec_vunpk6 {s t : State} {d a : BitVec 7} (sel : BitVec 2) {ea : Bool}
    (issues : Issues { covered := true, srcV := [(a.toNat, ea), (a.toNat + 1, ea), (a.toNat + 2, ea)], dstV := [d.toNat] } s t)
    (plain : s.w.rangeHitsPort a.toNat 3 = false) :
    exec (.vunpk6 d a sel ea) s =
      .next (finish { covered := true, srcV := [(a.toNat, ea), (a.toNat + 1, ea), (a.toNat + 2, ea)], dstV := [d.toNat] }
        (t.setVs d.toNat (fun th =>
          let g := (tripleOf t a.toNat th).extractLsb' (24 * sel.toNat) 24
          0#2 ++ g.extractLsb' 18 6 ++ 0#2 ++ g.extractLsb' 12 6 ++ 0#2 ++ g.extractLsb' 6 6 ++ 0#2 ++ g.extractLsb' 0 6) t.w.actingThreads)) := by
  change execVunpk6 d a sel ea s = _
  unfold execVunpk6
  simp only [plain, ← toNat_group, spread_codes]
  exact vectorWord_go issues d _

/-- VREDF leaves the sum of the tree, and its flags at thread 0. -/
theorem exec_vredf {s t : State} {d a : BitVec 7} {ea : Bool}
    (issues : Issues { covered := true, srcV := [(a.toNat, ea)], dstS := [d.toNat] } s t) :
    let sum := treeSum (Rounding.ofBits t.w.rmode) (Nat.log2 t.w.width) ((List.range t.w.width).map (fun th =>
      if t.w.acting.getLsbD th then t.vreg a.toNat th else 0x80000000#32))
    exec (.vredf d a ea) s = .next (finishFlags { covered := true, srcV := [(a.toNat, ea)], dstS := [d.toNat] } [(0, sum.2)]
      (t.setS d.toNat (sum.1.setWidth 64))) :=
  issue_go issues _

/-- Settles O19: each word is its shared form; the packed and the spread codes bit by bit. -/
theorem crossLane : Obligations.CrossLane := by
  unfold Obligations.CrossLane
  exact ⟨fun s t d a b ea eb issues => ⟨run_go issues _, run_go issues _⟩,
    fun s t d a imm ea issues => ⟨run_go issues _, run_go issues _, run_go issues _, run_go issues _⟩,
    fun s t d a ea issues => ⟨run_go issues _, exec_vredf issues⟩,
    fun s t d a sel ea => ⟨fun issues plain => ⟨_, exec_vpk6 sel issues plain, fun th i => getLsbD_packed6 t d.toNat a.toNat sel.toNat th⟩,
      exec_vunpk6 sel⟩⟩

end Sys2Proof.Machine
end

section
/-! SUPPORT. Whole numbers of F32 values, and the integer elements (R66, R192). -/

namespace Sys2Proof.Machine

open Sys2Proof.Safety

/-- `toWhole` rounds, and says whether exactly. -/
theorem toWhole_rounds {mode : Rounding} {neg : Bool} {m : Nat} {e r : Int} (h : RoundsTo mode (valueOf neg m e) r) :
    (toWhole mode neg m e).1 = r ∧ ((toWhole mode neg m e).2 = true ↔ (r : ℚ) = valueOf neg m e) := by
  obtain ⟨rounds, exactly⟩ := roundTo_rounds mode neg m e 0
  have whole : signedInt neg (roundTo mode neg m e 0).1 = r := roundsTo_unique (by simpa using rounds) h
  refine ⟨whole, exactly.trans ?_⟩
  rw [valueOf_signedInt, whole, zpow_zero, mul_one]

/-- A finite number goes to the whole number it rounds to, or saturates with nv; nx where it was not whole (R66, R192). -/
theorem f32ToInt_fin {mode : Rounding} {lo hi : Int} {x : W32} {neg : Bool} {m : Nat} {e r : Int} (h : f32.decode x.toNat = .fin neg m e)
    (rounds : RoundsTo mode (valueOf neg m e) r) (range : lo ≤ hi) : f32ToInt mode lo hi x =
      (max lo (min hi r), if r < lo ∨ hi < r then Flags.nv else if (r : ℚ) = valueOf neg m e then 0 else Flags.nx) := by
  obtain ⟨whole, exactly⟩ := toWhole_rounds rounds
  unfold f32ToInt
  rw [h]
  simp only [whole]
  by_cases below : r < lo
  · simp only [below, if_true, true_or]
    rw [show max lo (min hi r) = lo by omega]
  · by_cases above : hi < r
    · simp only [below, above, if_true, if_false, or_true]
      rw [show max lo (min hi r) = hi by omega]
    · simp only [below, above, if_false, or_self, exactly]
      rw [show max lo (min hi r) = r by omega]

theorem f32ToInt_inf {x : W32} {neg : Bool} (h : f32.decode x.toNat = .inf neg) (mode : Rounding) (lo hi : Int) :
    f32ToInt mode lo hi x = (if neg then lo else hi, Flags.nv) := by
  simp only [f32ToInt, h]

theorem f32ToInt_nan {x : W32} {s : Bool} (h : f32.decode x.toNat = .nan s) (mode : Rounding) (lo hi : Int) :
    f32ToInt mode lo hi x = (0, Flags.nv) := by
  simp only [f32ToInt, h]

/-- What a conversion to whole numbers gives is within its range. -/
theorem f32ToInt_range (mode : Rounding) {lo hi : Int} (x : W32) (low : lo ≤ 0) (high : 0 ≤ hi) :
    lo ≤ (f32ToInt mode lo hi x).1 ∧ (f32ToInt mode lo hi x).1 ≤ hi := by
  unfold f32ToInt
  split
  · exact ⟨low, high⟩
  · dsimp only
    split <;> omega
  · dsimp only
    split_ifs <;> dsimp only <;> omega

/-- A NaN by its fields: all ones in the exponent, a fraction that is not zero (R56). -/
theorem decode_nan_of_fields {x : W32} (exponent : x.extractLsb' 23 8 = 0xff#8) (fraction : x.extractLsb' 0 23 ≠ 0) :
    ∃ s, f32.decode x.toNat = .nan s := by
  have ones : x.toNat / 2 ^ 23 % 2 ^ 8 = 255 := by
    simpa [BitVec.extractLsb'_toNat, Nat.shiftRight_eq_div_pow] using congrArg BitVec.toNat exponent
  have nonzero : x.toNat % 2 ^ 23 ≠ 0 := fun zero => fraction (BitVec.eq_of_toNat_eq (by simpa [BitVec.extractLsb'_toNat] using zero))
  exact ⟨_, (if_pos ones).trans (if_neg nonzero)⟩

/-- I8 and N8 take the whole number within their range, as a byte, whatever the slot's ovf field. -/
theorem toElement_integer {p : Element × Int × Int} (hp : p ∈ [(Element.i8, -128, 127), (Element.n8, 0, 255)]) (mode : Rounding) (ovf : Bool)
    (x : W32) : p.2.1 ≤ p.2.2 ∧
      toElement p.1 mode ovf x = (((f32ToInt mode p.2.1 p.2.2 x).1 % 256).toNat, (f32ToInt mode p.2.1 p.2.2 x).2) := by
  simp only [List.mem_cons, List.not_mem_nil, or_false] at hp
  obtain rfl | rfl := hp
  · exact ⟨by norm_num, rfl⟩
  · obtain ⟨low, high⟩ := f32ToInt_range mode x (le_refl 0) (by norm_num : (0 : Int) ≤ 255)
    refine ⟨by norm_num, ?_⟩
    simp only [toElement]
    rw [Int.emod_eq_of_lt low (by omega)]

/-- Settles O18: both elements are a whole number within their range, as a byte. -/
theorem integerElements : Obligations.IntegerElements := by
  unfold Obligations.IntegerElements
  intro rnd ovf x p hp
  obtain ⟨range, byte⟩ := toElement_integer hp rnd ovf x
  rw [byte]
  refine ⟨fun ⟨exponent, fraction⟩ => ?nan, fun neg inf => ?inf, fun neg m e r fin rounds => ?fin⟩
  case nan =>
    obtain ⟨s, nan⟩ := decode_nan_of_fields exponent fraction
    rw [f32ToInt_nan nan]
    rfl
  case inf => rw [f32ToInt_inf inf]
  case fin =>
    have rounds : RoundsTo rnd (valueOf neg m e) r := by cases rnd <;> exact rounds
    rw [f32ToInt_fin fin rounds range]
    rfl

end Sys2Proof.Machine
end

section
/-! SUPPORT. Conversions between F32 and the narrow formats: exact widening, narrowing rounded once (R60, R64, R67, R192). -/

namespace Sys2Proof.Machine

open Sys2Proof.Safety

/-! ### Parts of a register (R192) -/

theorem getLsbD_setByte (x : W32) {i j : Nat} (v : Nat) (hj : j < 32) :
    (setByte x i v).getLsbD j = if 8 * i ≤ j ∧ j < 8 * i + 8 then v.testBit (j - 8 * i) else x.getLsbD j := by
  have part : BitVec.ofNat 32 (v % 256) = (BitVec.ofNat 8 v).setWidth 32 := by
    rw [← BitVec.ofNat_toNat, BitVec.toNat_ofNat]
  rw [setByte, part]
  refine (getLsbD_replaced x (BitVec.ofNat 8 v) (8 * i) hj).trans (ite_congr rfl (fun inside => ?_) fun _ => rfl)
  rw [BitVec.getLsbD_ofNat, decide_eq_true (by omega), Bool.true_and]

theorem getLsbD_setHalf (x : W32) {i j : Nat} (v : Nat) (hj : j < 32) :
    (setHalf x i v).getLsbD j = if 16 * i ≤ j ∧ j < 16 * i + 16 then v.testBit (j - 16 * i) else x.getLsbD j := by
  have part : BitVec.ofNat 32 (v % 65536) = (BitVec.ofNat 16 v).setWidth 32 := by
    rw [← BitVec.ofNat_toNat, BitVec.toNat_ofNat]
  rw [setHalf, part]
  refine (getLsbD_replaced x (BitVec.ofNat 16 v) (16 * i) hj).trans (ite_congr rfl (fun inside => ?_) fun _ => rfl)
  rw [BitVec.getLsbD_ofNat, decide_eq_true (by omega), Bool.true_and]

/-! ### Narrowing to F16 and BF16, and integers to F32 (R66, R67) -/

theorem f32ToHalf_once {f : Fmt} (hf : f.Sound) (mode : Rounding) {x : W32} {n : Bool} {m : Nat} {e : Int}
    (h : f32.decode x.toNat = .fin n m e) : RoundedOnce f mode (valueOf n m e) (f32ToHalf f mode x) := by
  simp only [f32ToHalf, h]
  exact Fmt.round_once hf mode n m e

theorem f32ToHalf_inf {x : W32} {n : Bool} (h : f32.decode x.toNat = .inf n) (f : Fmt) (mode : Rounding) :
    f32ToHalf f mode x = (f.signed n f.infBits, 0) := by
  simp only [f32ToHalf, h]

theorem f32ToHalf_nan {x : W32} {s : Bool} (h : f32.decode x.toNat = .nan s) (f : Fmt) (mode : Rounding) :
    f32ToHalf f mode x = (f.nanBits, if s then Flags.nv else 0) := by
  simp only [f32ToHalf, h]

/-- A whole number is its sign and its magnitude. -/
theorem valueOf_natAbs (w : Int) : valueOf (decide (w < 0)) w.natAbs 0 = w := by
  rw [valueOf_signedInt, zpow_zero, mul_one, signedInt]
  congr 1
  by_cases neg : w < 0
  · simp only [neg, decide_true, if_true]; omega
  · simp only [neg, decide_false, Bool.false_eq_true, if_false]; omega

theorem intToF32_once (mode : Rounding) (w : Int) : RoundedOnce f32 mode w ((intToF32 mode w).1.toNat, (intToF32 mode w).2) := by
  have once := Fmt.round_once f32_sound mode (decide (w < 0)) w.natAbs 0
  rw [valueOf_natAbs] at once
  exact roundedOnce_word32 once (Fmt.round_lt ..)

/-! ### Widening (R67) -/

/-- A number that a format holds is rounded to itself. -/
theorem Fmt.round_exact {f : Fmt} (hf : f.Sound) (mode : Rounding) (n : Bool) {m : Nat} {e : Int} (precise : m < 2 ^ f.p)
    (low : f.qmin ≤ e) (high : (m : ℚ) * 2 ^ e < 2 ^ ((f.emax : Int) + 1)) :
    ∃ m' e', f.decode (f.round mode n m e).1 = .fin n m' e' ∧ valueOf n m' e' = valueOf n m e := by
  by_cases zero : m = 0
  · subst zero
    have bits : f.decode (f.signed n (0 * 2 ^ (f.p - 1) + 0)) = .fin n 0 f.qmin :=
      (Fmt.decode_signed hf n 0 0 (by positivity) (by have := Nat.pow_le_pow_right (n := 2) (by norm_num) hf.exponent; omega)).trans (if_pos rfl)
    refine ⟨0, f.qmin, ?_, by simp [valueOf]⟩
    simpa [Fmt.round] using bits
  · obtain ⟨q, r, -, full, -, rounds, -, finite⟩ := Fmt.round_once hf mode n m e
    have size := abs_valueOf n m e
    have unit : q ≤ e := by
      obtain lowest | full := full
      · omega
      · have below : (m : ℚ) * 2 ^ e < 2 ^ ((f.p : Int) + e) := by
          rw [two_zpow_add, zpow_natCast]
          exact mul_lt_mul_of_pos_right (by exact_mod_cast precise) (by positivity)
        have := two_zpow_lt.1 (full.trans_lt (size.trans_lt below))
        omega
    have whole : valueOf n m e / 2 ^ q = (scaled n m e q : Int) := by
      rw [← scaled_value unit, mul_div_cancel_right₀ _ (by positivity)]
    rw [whole] at rounds
    have exactly : (r : ℚ) * 2 ^ q = valueOf n m e := by
      rw [roundsTo_unique rounds (roundsTo_int mode _), scaled_value unit]
    have small : |(r : ℚ)| * 2 ^ q < 2 ^ ((f.emax : Int) + 1) := by
      rw [← abs_of_pos (show (0 : ℚ) < 2 ^ q by positivity), ← abs_mul, exactly, size]
      exact high
    obtain ⟨⟨n', m', e', bits, value, sign⟩, -⟩ := finite small
    have nonzero : valueOf n m e ≠ 0 := by
      rw [← abs_pos, size]
      positivity
    have same : n' = n := by
      rw [sign nonzero]
      exact (Bool.eq_iff_iff.2 (by simpa using valueOf_lt_zero zero n e))
    subst same
    exact ⟨m', e', bits, value.trans exactly⟩

/-- A number within a width of bits lies below a power of two. -/
theorem lt_two_zpow {m a : Nat} (h : m < 2 ^ a) {e top : Int} (fits : a + e ≤ top) : (m : ℚ) * 2 ^ e < 2 ^ top := by
  calc (m : ℚ) * 2 ^ e < 2 ^ (a : Int) * 2 ^ e := mul_lt_mul_of_pos_right (by rw [zpow_natCast]; exact_mod_cast h) (by positivity)
    _ = 2 ^ ((a : Int) + e) := (two_zpow_add _ _).symm
    _ ≤ 2 ^ top := two_zpow_le.2 fits

/-- A finite number whose significand and exponent F32 holds with room. -/
def Num.Narrow : Num → Prop
  | .fin _ m e => ∃ a : Nat, a ≤ 24 ∧ m < 2 ^ a ∧ -149 ≤ e ∧ a + e ≤ 128
  | _ => True

theorem widen_fin {n : Bool} {m : Nat} {e : Int} (h : (Num.fin n m e).Narrow) :
    ∃ m' e', f32.decode (widen (.fin n m e)).toNat = .fin n m' e' ∧ valueOf n m' e' = valueOf n m e := by
  obtain ⟨a, precise, below, low, high⟩ := h
  obtain ⟨m', e', bits, value⟩ := Fmt.round_exact f32_sound .rne n (below.trans_le (Nat.pow_le_pow_right (by norm_num) precise)) low
    (lt_two_zpow below high)
  refine ⟨m', e', ?_, value⟩
  rw [← bits]
  exact congrArg f32.decode (Nat.mod_eq_of_lt (Fmt.round_lt f32 .rne n m e))

theorem widen_inf (n : Bool) : f32.decode (widen (.inf n)).toNat = .inf n := by cases n <;> rfl

/-- A format's finite numbers. -/
theorem Fmt.decode_fin {f : Fmt} {x : Nat} {n : Bool} {m : Nat} {e : Int} (h : f.decode x = .fin n m e) :
    m < 2 ^ (f.p - 1 + 1) ∧ f.qmin ≤ e ∧ e ≤ f.qmin + (2 ^ f.eb - 3 : Nat) := by
  have fraction : x % 2 ^ (f.p - 1) < 2 ^ (f.p - 1) := Nat.mod_lt _ (by positivity)
  have exponent : x / 2 ^ (f.p - 1) % 2 ^ f.eb < 2 ^ f.eb := Nat.mod_lt _ (by positivity)
  simp only [Fmt.decode] at h
  rw [pow_succ]
  split_ifs at h
  · injection h with _ hm he
    omega
  · injection h with _ hm he
    omega

theorem ocpDecode_narrow (isE4 : Bool) (c : Nat) : (ocpDecode isE4 c).Narrow := by
  unfold ocpDecode
  dsimp only
  split_ifs <;> simp only [Num.Narrow]
  · exact ⟨4, by omega⟩
  · exact ⟨4, by omega⟩
  · exact ⟨4, by omega⟩
  · exact ⟨4, by omega⟩

theorem runLength_le (m b i : Nat) : runLength m b i ≤ i + 1 := by
  induction i with
  | zero => rw [runLength]; split <;> omega
  | succ i ih => rw [runLength]; split <;> omega

theorem taperedDecode_narrow {n : Nat} (small : n ≤ 24) (c : Nat) : (taperedDecode n c).Narrow := by
  unfold taperedDecode
  dsimp only
  have run := runLength_le (c % 2 ^ (n - 1)) (c % 2 ^ (n - 1) / 2 ^ (n - 2) % 2) (n - 2)
  generalize runLength _ _ _ = k at run ⊢
  split
  · split
    · trivial
    · exact ⟨0, by norm_num⟩
  · set nf := n - 2 - k - 1
    have fraction : c % 2 ^ (n - 1) % 2 ^ nf < 2 ^ nf := Nat.mod_lt _ (by positivity)
    refine ⟨nf + 1, by omega, by rw [pow_succ]; omega, ?_⟩
    constructor <;> split_ifs <;> omega

theorem Fmt.decode_narrow {f : Fmt} (precise : f.p - 1 + 1 ≤ 24) (low : -149 ≤ f.qmin)
    (high : (f.p - 1 + 1 : Nat) + (f.qmin + (2 ^ f.eb - 3 : Nat)) ≤ 128) (x : Nat) : (f.decode x).Narrow := by
  cases h : f.decode x with
  | fin n m e =>
    obtain ⟨below, least, most⟩ := Fmt.decode_fin h
    exact ⟨f.p - 1 + 1, precise, below, by omega, by omega⟩
  | nan s => trivial
  | inf n => trivial

/-- F32 holds every finite element with room. -/
theorem Element.decode_narrow (el : Element) (c : Nat) : (el.decode c).Narrow := by
  cases el with
  | t6 => exact taperedDecode_narrow (by norm_num) _
  | t8 => exact taperedDecode_narrow (by norm_num) _
  | e4m3 => exact ocpDecode_narrow true c
  | e5m2 => exact ocpDecode_narrow false c
  | i8 =>
    refine ⟨8, by norm_num, ?_, by norm_num⟩
    simp only [intValue, decide_true, Bool.true_and, decide_eq_true_eq]
    split <;> omega
  | n8 => exact ⟨8, by norm_num, by omega, by norm_num⟩
  | bf16 => exact Fmt.decode_narrow (by decide) (by decide) (by decide) _
  | f16 => exact Fmt.decode_narrow (by decide) (by decide) (by decide) _

end Sys2Proof.Machine
end

section
/-! SUPPORT. F32 to a tapered code: the codes in their order, and the code a number is rounded to (R60, R64). -/

namespace Sys2Proof.Machine

open Sys2Proof.Safety

/-! ### Finite numbers compared -/

theorem Num.lt_fin {a b : Bool} {m n : Nat} {e g : Int} :
    (Num.fin a m e).lt (.fin b n g) = true ↔ valueOf a m e < valueOf b n g := by
  have unit : (0 : ℚ) < 2 ^ min e g := by positivity
  rw [← scaled_value (min_le_left e g), ← scaled_value (min_le_right e g), mul_lt_mul_iff_left₀ unit, Int.cast_lt]
  simp [Num.lt]

theorem Num.eqv_fin {a b : Bool} {m n : Nat} {e g : Int} :
    (Num.fin a m e).eqv (.fin b n g) = true ↔ valueOf a m e = valueOf b n g := by
  simp only [Num.eqv, Num.isNan, Bool.not_false, Bool.true_and, Bool.and_eq_true, Bool.not_eq_true', ← Bool.not_eq_true, Num.lt_fin, not_lt]
  exact ⟨fun ⟨above, below⟩ => le_antisymm below above, fun same => ⟨same.ge, same.le⟩⟩

/-- The distance of two finite numbers, in units that both are whole numbers of. -/
theorem distance_value {q : Int} {a b : Bool} {m n : Nat} {e g : Int} (he : q ≤ e) (hg : q ≤ g) :
    (distance q (.fin a m e) (.fin b n g) : ℚ) * 2 ^ q = |valueOf a m e - valueOf b n g| := by
  have unit : (0 : ℚ) < 2 ^ q := by positivity
  rw [distance, ← scaled_value he, ← scaled_value hg, ← sub_mul, abs_mul, abs_of_pos unit, Nat.cast_natAbs]
  push_cast
  rfl

/-! ### The order of the codes (R60) -/

/-- The value of a code in units 2⁻¹⁶. -/
def taperedUnits (n c : Nat) : Int :=
  match taperedDecode n c with
  | .fin neg m e => scaled neg m e (-16)
  | _ => 0

/-- Each code's value is below the next one's; the first and the last are the least and the greatest power of two. -/
theorem taperedUnits_lt_succ : ∀ n ∈ [6, 8], ∀ c < 2 ^ (n - 1) - 1, 1 ≤ c → taperedUnits n c < taperedUnits n (c + 1) := by decide
theorem taperedUnits_one : ∀ n ∈ [6, 8], taperedUnits n 1 = 2 ^ (20 - 2 * n) := by decide
theorem taperedUnits_top : ∀ n ∈ [6, 8], taperedUnits n (2 ^ (n - 1) - 1) = 2 ^ (12 + 2 * n) := by decide

section Codes

variable {n : Nat} (hn : n ∈ [6, 8])

include hn

theorem tapered_width : n = 6 ∨ n = 8 := by simpa using hn

/-- A positive code stands for a positive number of whole units 2⁻¹⁶. -/
theorem taperedDecode_pos {c : Nat} (one : 1 ≤ c) (top : c < 2 ^ (n - 1)) :
    ∃ m e, taperedDecode n c = .fin false m e ∧ taperedValue n c = valueOf false m e ∧ -16 ≤ e := by
  have width := tapered_width hn
  have run := runLength_le c (c / 2 ^ (n - 2) % 2) (n - 2)
  have decoded : ∃ m e, taperedDecode n c = .fin false m e ∧ -16 ≤ e := by
    unfold taperedDecode
    dsimp only
    rw [Nat.mod_eq_of_lt top, Nat.div_eq_of_lt top, if_neg (by omega)]
    refine ⟨_, _, rfl, ?_⟩
    generalize runLength _ _ _ = k at run ⊢
    split_ifs <;> omega
  obtain ⟨m, e, h, low⟩ := decoded
  exact ⟨m, e, h, by rw [taperedValue, h], low⟩

theorem taperedValue_units {c : Nat} (one : 1 ≤ c) (top : c < 2 ^ (n - 1)) : taperedValue n c = taperedUnits n c * 2 ^ (-16 : Int) := by
  obtain ⟨m, e, h, value, low⟩ := taperedDecode_pos hn one top
  rw [value, ← scaled_value low, taperedUnits, h]

theorem taperedValue_lt_succ {c : Nat} (one : 1 ≤ c) (top : c + 1 < 2 ^ (n - 1)) : taperedValue n c < taperedValue n (c + 1) := by
  rw [taperedValue_units hn one (by omega), taperedValue_units hn (by omega) top]
  exact mul_lt_mul_of_pos_right (by exact_mod_cast taperedUnits_lt_succ n hn c (by omega) one) (by positivity)

theorem taperedValue_lt {c d : Nat} (one : 1 ≤ c) (less : c < d) (top : d < 2 ^ (n - 1)) : taperedValue n c < taperedValue n d := by
  induction d, less using Nat.le_induction with
  | base => exact taperedValue_lt_succ hn one top
  | succ d less ih => exact (ih (by omega)).trans (taperedValue_lt_succ hn (by omega) top)

theorem taperedValue_le {c d : Nat} (one : 1 ≤ c) (le : c ≤ d) (top : d < 2 ^ (n - 1)) : taperedValue n c ≤ taperedValue n d := by
  obtain rfl | less := Nat.eq_or_lt_of_le le
  · exact le_rfl
  · exact (taperedValue_lt hn one less top).le

theorem taperedValue_one : taperedValue n 1 = 1 / 2 ^ (2 * n - 4) := by
  rw [taperedValue_units hn le_rfl (by obtain rfl | rfl := tapered_width hn <;> norm_num), taperedUnits_one n hn]
  obtain rfl | rfl := tapered_width hn <;> norm_num

theorem taperedValue_pos {c : Nat} (one : 1 ≤ c) (top : c < 2 ^ (n - 1)) : 0 < taperedValue n c := by
  refine lt_of_lt_of_le ?_ (taperedValue_le hn le_rfl one top)
  rw [taperedValue_one hn]
  positivity

theorem taperedValue_top : taperedValue n (2 ^ (n - 1) - 1) = 2 ^ (2 * n - 4) := by
  rw [taperedValue_units hn (by obtain rfl | rfl := tapered_width hn <;> norm_num) (Nat.sub_lt (by positivity) one_pos), taperedUnits_top n hn]
  obtain rfl | rfl := tapered_width hn <;> norm_num

/-- A positive number compared with a code. -/
theorem lt_taperedDecode {c : Nat} (one : 1 ≤ c) (top : c < 2 ^ (n - 1)) (m : Nat) (e : Int) :
    (Num.fin false m e).lt (taperedDecode n c) = true ↔ valueOf false m e < taperedValue n c := by
  obtain ⟨m', e', h, value, -⟩ := taperedDecode_pos hn one top
  rw [h, value, Num.lt_fin]

theorem taperedDecode_lt {c : Nat} (one : 1 ≤ c) (top : c < 2 ^ (n - 1)) (m : Nat) (e : Int) :
    (taperedDecode n c).lt (.fin false m e) = true ↔ taperedValue n c < valueOf false m e := by
  obtain ⟨m', e', h, value, -⟩ := taperedDecode_pos hn one top
  rw [h, value, Num.lt_fin]

theorem taperedDecode_eqv {c : Nat} (one : 1 ≤ c) (top : c < 2 ^ (n - 1)) (m : Nat) (e : Int) :
    (taperedDecode n c).eqv (.fin false m e) = true ↔ taperedValue n c = valueOf false m e := by
  obtain ⟨m', e', h, value, -⟩ := taperedDecode_pos hn one top
  rw [h, value, Num.eqv_fin]

/-! ### The code a number is rounded to (R64) -/

/-- The search downward ends at the greatest code whose value is at most the number. -/
theorem taperedFloor_eq {m : Nat} {e : Int} {lo : Nat} (one : 1 ≤ lo) (below : taperedValue n lo ≤ valueOf false m e) {c : Nat}
    (from' : lo ≤ c) (top : c < 2 ^ (n - 1)) (above : ∀ d, lo < d → d ≤ c → valueOf false m e < taperedValue n d) :
    taperedFloor n m e c = lo := by
  induction c, from' using Nat.le_induction with
  | base =>
    obtain ⟨k, rfl⟩ := Nat.exists_eq_add_of_le' one
    exact if_neg (by rw [lt_taperedDecode hn one top]; exact not_lt.2 below)
  | succ c from' ih =>
    have beyond := above (c + 1) (by omega) le_rfl
    exact (if_pos ((lt_taperedDecode hn (by omega) top m e).2 beyond)).trans
      (ih (by omega) fun d hd hc => above d hd (by omega))

variable (mode : Rounding) (nonFinite neg : Bool) {m : Nat} {e : Int}

/-- Beyond the greatest code. -/
theorem taperedRound_beyond (beyond : 2 ^ (2 * n - 4) < valueOf false m e) : taperedRound n mode nonFinite neg m e =
    (if nonFinite then 2 ^ (n - 1) else taperedSigned n neg (2 ^ (n - 1) - 1), Flags.of ||| Flags.nx) := by
  have width := tapered_width hn
  rw [← taperedValue_top hn] at beyond
  exact if_pos ((taperedDecode_lt hn (by obtain rfl | rfl := width <;> norm_num) (Nat.sub_lt (by positivity) one_pos) m e).2 beyond)

/-- A number within the codes' range passes both tests of it. -/
theorem taperedRound_within {lo : Nat} (one : 1 ≤ lo) (top : lo < 2 ^ (n - 1)) (below : taperedValue n lo ≤ valueOf false m e)
    (within : valueOf false m e ≤ 2 ^ (2 * n - 4)) :
    ¬ (taperedDecode n (2 ^ (n - 1) - 1)).lt (.fin false m e) = true ∧ ¬ (Num.fin false m e).lt (taperedDecode n 1) = true := by
  rw [taperedDecode_lt hn (by omega) (by omega), lt_taperedDecode hn le_rfl (by omega), taperedValue_top hn]
  exact ⟨not_lt.2 within, not_lt.2 ((taperedValue_le hn le_rfl one top).trans below)⟩

/-- Below the least code. -/
theorem taperedRound_least (least : valueOf false m e < 1 / 2 ^ (2 * n - 4)) :
    taperedRound n mode nonFinite neg m e = (taperedSigned n neg 1, Flags.uf ||| Flags.nx) := by
  have width := tapered_width hn
  rw [← taperedValue_one hn] at least
  have one : 1 < 2 ^ (n - 1) := by obtain rfl | rfl := width <;> norm_num
  have within : ¬ (taperedDecode n (2 ^ (n - 1) - 1)).lt (.fin false m e) = true := by
    rw [taperedDecode_lt hn (by omega) (by omega)]
    exact not_lt.2 (least.le.trans (taperedValue_le hn le_rfl (by omega) (by omega)))
  exact (if_neg within).trans (if_pos ((lt_taperedDecode hn le_rfl one m e).2 least))

/-- A code's own number. -/
theorem taperedRound_exact {c : Nat} (one : 1 ≤ c) (top : c < 2 ^ (n - 1)) (same : taperedValue n c = valueOf false m e) :
    taperedRound n mode nonFinite neg m e = (taperedSigned n neg c, 0) := by
  have within : valueOf false m e ≤ 2 ^ (2 * n - 4) := by
    rw [← same, ← taperedValue_top hn]
    exact taperedValue_le hn one (by omega) (by omega)
  have found : taperedFloor n m e (2 ^ (n - 1) - 1) = c :=
    taperedFloor_eq hn one same.le (by omega) (by omega) fun d above hd => same ▸ taperedValue_lt hn one above (by omega)
  obtain ⟨fits, reaches⟩ := taperedRound_within hn one top same.le within
  unfold taperedRound
  dsimp only
  rw [if_neg fits, if_neg reaches, found, if_pos ((taperedDecode_eqv hn one top m e).2 same)]

/-- Between two codes, the distances decide. -/
theorem taperedRound_between {lo : Nat} (one : 1 ≤ lo) (top : lo + 1 < 2 ^ (n - 1)) (below : taperedValue n lo < valueOf false m e)
    (above : valueOf false m e < taperedValue n (lo + 1)) : taperedRound n mode nonFinite neg m e =
      (taperedSigned n neg (taperedChoice mode neg (valueOf false m e - taperedValue n lo) (taperedValue n (lo + 1) - valueOf false m e) lo),
        Flags.nx) := by
  have within : valueOf false m e ≤ 2 ^ (2 * n - 4) := by
    rw [← taperedValue_top hn]
    exact above.le.trans (taperedValue_le hn (by omega) (by omega) (by omega))
  have found : taperedFloor n m e (2 ^ (n - 1) - 1) = lo :=
    taperedFloor_eq hn one below.le (by omega) (by omega) fun d beyond hd =>
      above.trans_le (taperedValue_le hn (by omega) beyond (by omega))
  obtain ⟨fits, reaches⟩ := taperedRound_within hn one (by omega) below.le within
  have other : ¬ (taperedDecode n lo).eqv (.fin false m e) = true := by
    rw [taperedDecode_eqv hn one (by omega)]
    exact below.ne
  unfold taperedRound
  dsimp only
  rw [if_neg fits, if_neg reaches, found, if_neg other]
  obtain ⟨ml, el, hl, vl, lowl⟩ := taperedDecode_pos hn one (show lo < 2 ^ (n - 1) by omega)
  obtain ⟨mh, eh, hh, vh, lowh⟩ := taperedDecode_pos hn (show 1 ≤ lo + 1 by omega) top
  have dl := distance_value (a := false) (m := m) (b := false) (n := ml) (min_le_left e (-16)) ((min_le_right e (-16)).trans lowl)
  have dh := distance_value (a := false) (m := mh) (b := false) (n := m) ((min_le_right e (-16)).trans lowh) (min_le_left e (-16))
  rw [← hl, ← vl, abs_of_pos (sub_pos.2 below)] at dl
  rw [← hh, ← vh, abs_of_pos (sub_pos.2 above)] at dh
  have unit : (0 : ℚ) < 2 ^ min e (-16) := by positivity
  rw [← dl, ← dh]
  cases mode <;> simp only [taperedChoice, mul_lt_mul_iff_left₀ unit, Nat.cast_lt]

end Codes

end Sys2Proof.Machine
end

section
/-! SUPPORT. The conversions of major 0x1e, word by word (R192). -/

namespace Sys2Proof.Machine

open Sys2Proof.Safety

theorem toTapered_nan {x : W32} {s : Bool} (h : f32.decode x.toNat = .nan s) (n : Nat) (mode : Rounding) (nonFinite : Bool) :
    toTapered n mode nonFinite x = (2 ^ (n - 1), Flags.nv) := by
  simp only [toTapered, h]

theorem toTapered_inf {x : W32} {neg : Bool} (h : f32.decode x.toNat = .inf neg) (n : Nat) (mode : Rounding) (nonFinite : Bool) :
    toTapered n mode nonFinite x = (2 ^ (n - 1), Flags.nv) := by
  simp only [toTapered, h]

theorem valueOf_eq_zero {m : Nat} {e : Int} : valueOf false m e = 0 ↔ m = 0 := by
  rw [valueOf_pos, mul_eq_zero, Nat.cast_eq_zero]
  exact or_iff_left (zpow_ne_zero _ (by norm_num))

theorem toTapered_zero {x : W32} {neg : Bool} {m : Nat} {e : Int} (h : f32.decode x.toNat = .fin neg m e) (zero : valueOf false m e = 0)
    (n : Nat) (mode : Rounding) (nonFinite : Bool) : toTapered n mode nonFinite x = (0, 0) := by
  simp only [toTapered, h, valueOf_eq_zero.1 zero, if_true]

theorem toTapered_fin {x : W32} {neg : Bool} {m : Nat} {e : Int} (h : f32.decode x.toNat = .fin neg m e) (positive : 0 < valueOf false m e)
    (n : Nat) (mode : Rounding) (nonFinite : Bool) : toTapered n mode nonFinite x = taperedRound n mode nonFinite neg m e := by
  simp only [toTapered, h, mt valueOf_eq_zero.2 positive.ne', if_false]

/-! ### The words -/

section Words

variable {s t : State} {d a : BitVec 7} {ea : Bool}

theorem convert_go (f : W32 → W32 × Flags) (issues : Issues (useV1 d a ea) s t) : convert d a ea f s =
    .next (finishFlags (useV1 d a ea) (t.w.actingThreads.map (fun th => (th, (f (t.vreg a.toNat th)).2)))
      (t.setVs d.toNat (fun th => (f (t.vreg a.toNat th)).1) t.w.actingThreads)) :=
  vectorFp_go issues d _

theorem convertInto_go (f : W32 → W32 → W32 × Flags) (issues : Issues { useV1 d a ea with oldV := [d.toNat] } s t) :
    let value := fun th => f (t.vreg a.toNat th) (t.vreg d.toNat th)
    convertInto (useV1 d a ea) d a f s =
      .next (finishFlags { useV1 d a ea with oldV := [d.toNat] } (t.w.actingThreads.map (fun th => (th, (value th).2)))
        (t.setVs d.toNat (fun th => (value th).1) t.w.actingThreads)) :=
  vectorFp_go issues d _

/-- A slot whose element a word accepts is legal for it (R71). -/
theorem slotIllegal_accepted {w : Wave} {slot : Nat} {el : Element} (assigned : slotReserved (w.slotDesc slot) = false)
    (element : Element.ofSlot (w.slotDesc slot) = some el) {accept : Element → Bool} (accepts : accept el = true) :
    slotIllegal w slot accept = false := by
  simp [slotIllegal, assigned, element, accepts]

variable {slot : BitVec 3} {el : Element} (assigned : slotReserved (s.w.slotDesc slot.toNat) = false)
  (element : Element.ofSlot (s.w.slotDesc slot.toNat) = some el)

include assigned element

theorem exec_vcwid (sel : BitVec 2) (byte : el.bits = 8) (issues : Issues (useV1 d a ea) s t) : exec (.vcwid d a slot sel ea) s =
    .next (finishFlags (useV1 d a ea) (t.w.actingThreads.map (fun th => (th, 0)))
      (t.setVs d.toNat (fun th => widen (el.decode (getByte (t.vreg a.toNat th) sel.toNat))) t.w.actingThreads)) := by
  change execVcwid d a slot sel ea s = _
  unfold execVcwid
  simp only [slotIllegal_accepted assigned element (accept := Element.isByte) (beq_iff_eq.2 byte), element, Option.getD_some]
  exact vectorFp_go issues d _

theorem exec_vcnar (rnd sel : BitVec 2) (byte : el.bits = 8) (issues : Issues { useV1 d a ea with oldV := [d.toNat] } s t) :
    let code := fun th => toElement el (Rounding.ofBits rnd) (slotOvf (s.w.slotDesc slot.toNat) == 1#2) (t.vreg a.toNat th)
    exec (.vcnar d a slot rnd sel ea) s = .next (finishFlags { useV1 d a ea with oldV := [d.toNat] }
      (t.w.actingThreads.map (fun th => (th, (code th).2)))
      (t.setVs d.toNat (fun th => setByte (t.vreg d.toNat th) sel.toNat (code th).1) t.w.actingThreads)) := by
  change execVcnar d a slot rnd sel ea s = _
  unfold execVcnar
  simp only [slotIllegal_accepted assigned element (accept := Element.isByte) (beq_iff_eq.2 byte), element, Option.getD_some]
  exact convertInto_go _ issues

theorem exec_vct6 (rnd sel : BitVec 2) (six : el = .t6) (issues : Issues { useV1 d a ea with oldV := [d.toNat] } s t) :
    let code := fun th => toTapered 6 (Rounding.ofBits rnd) (slotOvf (s.w.slotDesc slot.toNat) == 1#2) (t.vreg a.toNat th)
    exec (.vct6 d a slot rnd sel ea) s = .next (finishFlags { useV1 d a ea with oldV := [d.toNat] }
      (t.w.actingThreads.map (fun th => (th, (code th).2)))
      (t.setVs d.toNat (fun th => setByte (t.vreg d.toNat th) sel.toNat (code th).1) t.w.actingThreads)) := by
  change execVct6 d a slot rnd sel ea s = _
  unfold execVct6
  simp only [slotIllegal_accepted assigned element (accept := fun el => el == .t6) (beq_iff_eq.2 six)]
  exact convertInto_go _ issues

end Words

/-- Settles O17: each word by its form; each number by what its format holds or rounds it to. -/
theorem conversions : Obligations.Conversions := by
  unfold Obligations.Conversions
  refine ⟨fun s t d a rnd sel ea issues => ?whole, fun s t d a rnd sel ea issues => ?halves,
    fun s t d a slot sel ea el assigned element byte => exec_vcwid assigned element sel byte,
    fun s t d a slot rnd sel ea el assigned element issues =>
      ⟨fun byte => exec_vcnar assigned element rnd sel byte issues, fun six => exec_vct6 assigned element rnd sel six issues⟩,
    fun x i v j _ hj => ⟨getLsbD_setByte x v hj, fun _ => getLsbD_setHalf x v hj⟩,
    fun f hf mode x => ⟨fun n m e => f32ToHalf_once (half_sound f hf) mode, fun n h => f32ToHalf_inf h f mode, fun s h => f32ToHalf_nan h f mode⟩,
    intToF32_once,
    fun el c => ?widened,
    fun n hn mode nonFinite x => ⟨fun s h => toTapered_nan h n mode nonFinite, fun neg h => toTapered_inf h n mode nonFinite,
      fun neg m e h => ?tapered⟩⟩
  case whole =>
    have word (f) := convert_go f issues
    simp only [List.forall_mem_cons, List.not_mem_nil, false_imp_iff, implies_true, and_true]
    exact ⟨word (fun x => (widen (f16.decode (half x sel.toNat)), 0)), word (fun x => (widen (bf16.decode (half x sel.toNat)), 0)),
      word (fun x => (widen (Element.t6.decode (getByte x sel.toNat)), 0)),
      word (fun x => (BitVec.ofInt 32 (f32ToInt (Rounding.ofBits rnd) (-(2 ^ 31)) (2 ^ 31 - 1) x).1,
        (f32ToInt (Rounding.ofBits rnd) (-(2 ^ 31)) (2 ^ 31 - 1) x).2)),
      word (fun x => (BitVec.ofInt 32 (f32ToInt (Rounding.ofBits rnd) 0 (2 ^ 32 - 1) x).1,
        (f32ToInt (Rounding.ofBits rnd) 0 (2 ^ 32 - 1) x).2)),
      word (fun x => intToF32 (Rounding.ofBits rnd) x.toInt), word (fun x => intToF32 (Rounding.ofBits rnd) x.toNat)⟩
  case halves =>
    have word (f : Fmt) := convertInto_go
      (fun x old => (setHalf old sel.toNat (f32ToHalf f (Rounding.ofBits rnd) x).1, (f32ToHalf f (Rounding.ofBits rnd) x).2)) issues
    simp only [List.forall_mem_cons, List.not_mem_nil, false_imp_iff, implies_true, and_true]
    exact ⟨word f16, word bf16⟩
  case widened =>
    refine ⟨fun n m e h => ?_, fun n h => ?_, fun s h => ?_⟩
    · rw [h]
      exact widen_fin (h ▸ el.decode_narrow c)
    · rw [h]
      exact widen_inf n
    · rw [h]
      rfl
  case tapered =>
    refine ⟨fun zero => toTapered_zero h zero n mode nonFinite, fun beyond => ?_, fun positive least => ?_, fun c one top same => ?_,
      fun lo one top below above => ?_⟩
    · rw [toTapered_fin h ((by positivity : (0 : ℚ) < _).trans beyond)]
      exact taperedRound_beyond hn mode nonFinite neg beyond
    · rw [toTapered_fin h positive]
      exact taperedRound_least hn mode nonFinite neg least
    · rw [toTapered_fin h (same ▸ taperedValue_pos hn one top)]
      exact taperedRound_exact hn mode nonFinite neg one top same
    · rw [toTapered_fin h ((taperedValue_pos hn one (by omega)).trans below)]
      exact taperedRound_between hn mode nonFinite neg one top below above

end Sys2Proof.Machine
end

section
/-! SUPPORT. What the steps of a word's ports leave: no scalar register changes with them (R103, R182, R285). -/

namespace Sys2Proof.Machine

/-! ### Translation leaves waves (R284, R285, R328) -/

@[simp] theorem tlbFill_w (s : State) (e : TlbEntry) : (tlbFill s e).w = s.w := rfl

@[simp] theorem askWalk_w (cache : Cache) (tag : BitVec 8) (page : Nat) (access : BitVec 2) (s : State) :
    (askWalk cache tag page access s).w = s.w := by
  unfold askWalk
  dsimp only
  split <;> rfl

@[simp] theorem translate_w (s : State) (cache : Cache) (tag : BitVec 8) (va : W64) (access : BitVec 2) :
    (translate s cache tag va access).1.w = s.w := by
  unfold translate
  split
  · rfl
  · split
    · rfl
    · dsimp only
      split
      · rfl
      · split
        · rfl
        · exact askWalk_w ..

@[simp] theorem translateBytes_w (s : State) (cache : Cache) (tag : BitVec 8) (va : W64) (n : Nat) (access : BitVec 2) :
    (translateBytes s cache tag va n access).1.w = s.w := by
  have first := translate_w s cache tag va access
  unfold translateBytes
  split
  · next s1 loc h =>
    rw [h] at first
    have last := translate_w s1 cache tag (va + BitVec.ofNat 64 (n - 1)) access
    dsimp only
    split
    · exact first
    · split <;> (next h' => rw [h'] at last; exact last.trans first)
  · next h => rw [h] at first; exact first
  · next h => rw [h] at first; exact first

@[simp] theorem placeAll_w (cache : Cache) (tag : BitVec 8) (access : BitVec 2) (n : Nat) (f : Nat → W64) (offs : List (Nat × Nat)) (s : State) :
    (placeAll cache tag access n f offs s).1.w = s.w := by
  induction offs generalizing s with
  | nil => rfl
  | cons x offs ih =>
    have first := translateBytes_w s cache tag (f x.2) n access
    unfold placeAll
    split <;> (next h => rw [h] at first; exact (ih _).trans first)

@[simp] theorem translateHost_w (s : State) (cache : Cache) (tag : BitVec 8) (pasid : Nat) (va : W64) :
    (translateHost s cache tag pasid va).1.w = s.w := by
  unfold translateHost
  dsimp only
  split
  · rfl
  · split
    · rfl
    · split
      · split
        · rfl
        · split <;> rfl
      · rfl

@[simp] theorem hostPlaces_w (cache : Cache) (tag : BitVec 8) (pasid n : Nat) (va : Nat → W64) (offs : List (Nat × Nat)) (s : State) :
    (hostPlaces cache tag pasid n va offs s).1.w = s.w := by
  induction offs generalizing s with
  | nil => rfl
  | cons x offs ih =>
    unfold hostPlaces
    dsimp only
    split <;> simp [ih]

@[simp] theorem takeAnswers_w (pasid : Nat) (vas : List W64) (s : State) : (takeAnswers pasid vas s).w = s.w := rfl

@[simp] theorem checkPlaces_w (w : Wave) (cache : Cache) (h : Handle) (kind : Kind) (n : Nat) (offs : List (Nat × Nat))
    (slab : Option (SlabSample × Nat)) (s : State) : (checkPlaces w cache h kind n offs slab s).1.w = s.w := by
  unfold checkPlaces
  dsimp only
  split
  · split <;> rfl
  · split
    · split
      · rfl
      · split
        · rfl
        · split <;> exact placeAll_w ..
    · split
      · rfl
      · split
        · split <;> exact placeAll_w ..
        · split
          · split
            · exact hostPlaces_w ..
            · split <;> exact hostPlaces_w ..
          · split
            · rfl
            · split
              · split <;> exact placeAll_w ..
              · rfl

theorem checkAccess_w (w : Wave) (cache : Cache) (h : Nat) (kind : Kind) (n align : Nat) (offs : List (Nat × Nat)) (s : State) :
    (checkAccess w cache h kind n align offs s).1.w = s.w := by
  unfold checkAccess
  dsimp only
  split
  · rfl
  · next hd _ =>
    split
    · rfl
    · generalize sampled : (if hd.space = 6 then _ else _ : State × (Option (SlabSample × Nat) ⊕ Checked)) = slab
      have kept : slab.1.w = s.w := by
        have bytes := translateBytes_w s cache w.env.tag hd.base 64 Access.read
        rw [← sampled]
        split
        · split
          · next read =>
            rw [read] at bytes
            split
            · exact bytes
            · split
              · exact bytes
              · split <;> exact bytes
          · next read => rw [read] at bytes; exact bytes
        · rfl
      split
      · exact kept
      · split
        · exact kept
        · split
          · exact kept
          · split
            · exact kept
            · exact (checkPlaces_w ..).trans kept

/-! ### Scalar registers through the ports' steps (R103) -/

@[simp] theorem stepPort_s (a : Arch) (mode : BitVec 2) (p : PortStep) : (a.stepPort mode p).s = a.s := by
  unfold Arch.stepPort
  dsimp only
  split <;> rfl

@[simp] theorem addAccess_arch (x : Access) (s : State) : (addAccess x s).w.a = s.w.a := by
  unfold addAccess
  split
  · rfl
  · split <;> rfl

theorem takePort_s (p : PortStep) (h : Handle) (places : List Place) (s : State) : (takePort p h places s).w.a.s = s.w.a.s := by
  unfold takePort
  dsimp only
  split
  · simp
  · split
    · split
      · simp
      · rw [addAccess_arch]
        exact (foldl_keeps (field := Arch.s) (fun a q => by split <;> rfl) places _).trans (stepPort_s ..)
    · simp

theorem followPort_s (p : PortStep) (s : State) : (followPort p s).w.a.s = s.w.a.s := by
  unfold followPort
  split
  · rfl
  · dsimp only
    rw [State.onArch_w]
    dsimp only
    rw [stepPort_s]
    split <;> simp

/-- The steps of a word's ports leave every scalar register. -/
theorem takePorts_sreg {ps : List PortStep} {s t : State} (h : takePorts ps s = .go t) (r : Nat) : t.sreg r = s.sreg r := by
  induction ps generalizing s with
  | nil =>
    injection h with h
    rw [h]
  | cons p ps ih =>
    have checked := checkAccess_w s.w (.core s.w.core) p.handle (if p.source then .load else .store) p.bytes p.bytes p.offs s
    unfold takePorts at h
    split at h
    · cases h
    · split at h
      · next s1 hd places found =>
        rw [found] at checked
        have same : s1.sreg r = s.sreg r := congrArg (fun w : Wave => w.a.getS r) checked
        have followed := (congrArg (look 0 · r) (followPort_s p s1)).trans same
        have taken := (congrArg (look 0 · r) (takePort_s p hd places s1)).trans same
        split_ifs at h
        · exact (ih h).trans followed
        · exact (ih h).trans taken
        · exact (ih h).trans taken
      · cases h
      · cases h
      · cases h

end Sys2Proof.Machine
end

section
/-! SUPPORT. The frame of a word, update by update: what a state keeps of another, it keeps past each update of what the word writes (R58,
R148, R181). -/

namespace Sys2Proof.Safety

open Sys2Proof.Machine

/-! ### The frame, update by update -/

section Updates

variable {vs ss : List Nat} {flags : Bool} {s t : State}

theorem Frame.refl (vs ss : List Nat) (flags : Bool) (s : State) : Frame vs ss flags s s where
  registers := ⟨fun _ _ => ⟨fun _ _ => rfl, rfl⟩, fun _ _ => ⟨rfl, rfl⟩⟩
  noFlags := fun _ => ⟨rfl, rfl, rfl, rfl, rfl⟩
  specials := by simp [SameSpecials]
  matrix := ⟨fun _ _ => rfl, rfl, rfl, rfl, rfl⟩
  memory := fun _ => rfl
  device := by simp [SameDevice, SameUnits]

variable (h : Frame vs ss flags s t)

include h

/-- A vector register of the frame set in some threads. -/
theorem Frame.setVs {r : Nat} (hr : r ∈ vs) (f : Nat → W32) {ts : List Nat} (below : ∀ th ∈ ts, th < 64) :
    Frame vs ss flags s (t.setVs r f ts) where
  registers := by
    refine ⟨fun q hq => ⟨fun th hth => ?_, ?_⟩, fun q hq => ⟨?_, ?_⟩⟩
    · exact (Arch.getV_setVs_other t.w.a r f ts q th below hth (fun same => hq (same ▸ hr))).trans ((h.registers.1 q hq).1 th hth)
    · simpa using (h.registers.1 q hq).2
    · simpa [State.sreg, Arch.getS] using (h.registers.2 q hq).1
    · simpa using (h.registers.2 q hq).2
  noFlags := by simpa [SameFlags] using h.noFlags
  specials := by simpa [SameSpecials] using h.specials
  matrix := h.matrix
  memory := h.memory
  device := h.device

/-- A scalar register of the frame set. -/
theorem Frame.setS {r : Nat} (hr : r ∈ ss) (x : W64) : Frame vs ss flags s (t.setS r x) where
  registers := by
    refine ⟨h.registers.1, fun q hq => ⟨?_, (h.registers.2 q hq).2⟩⟩
    rw [← (h.registers.2 q hq).1]
    exact (Arch.getS_setS t.w.a r q x).trans (if_neg fun (same : r = q) => hq (same ▸ hr))
  noFlags := h.noFlags
  specials := h.specials
  matrix := h.matrix
  memory := h.memory
  device := h.device

/-- The word done, its destinations among the frame's. -/
theorem Frame.finish {u : Use} (hu : ∀ r ∈ u.dstV, r ∈ vs) : Frame vs ss flags s (finish u t) where
  registers := by
    refine ⟨fun q hq => ⟨fun th hth => ?_, ?_⟩, fun q hq => ?_⟩
    · rw [finish_vreg u t q th hth (.inl fun hm => hq (hu q hm))]
      exact (h.registers.1 q hq).1 th hth
    · simpa using (h.registers.1 q hq).2
    · simpa using h.registers.2 q hq
  noFlags := by simpa [SameFlags] using h.noFlags
  specials := by simpa [SameSpecials] using h.specials
  matrix := by
    refine ⟨fun k hk => (finish_acc u t k fun hm => hk (hu _ hm)).trans (h.matrix.1 k hk), ?_⟩
    simpa using h.matrix.2
  memory := by simpa [SameMemory] using h.memory
  device := by simpa [SameDevice, SameUnits] using h.device

end Updates

/-- Flags recorded. -/
theorem Frame.addFlags {vs ss : List Nat} {s t : State} (h : Frame vs ss true s t) (fs : List (Nat × Flags)) :
    Frame vs ss true s (t.onArch (fun a => a.addFlags fs)) where
  registers := h.registers
  noFlags := nofun
  specials := h.specials
  matrix := h.matrix
  memory := h.memory
  device := h.device

/-! ### Threads that do not act -/

theorem KeepsInactive.refl (r : Nat) (s : State) : KeepsInactive r s s := fun _ _ _ _ => rfl

section Inactive

variable {r : Nat} {s t : State} (h : KeepsInactive r s t)

include h

theorem KeepsInactive.setVs (r' : Nat) (f : Nat → W32) : KeepsInactive r s (t.setVs r' f s.w.actingThreads) := by
  intro defined th hth idle
  refine (Arch.getV_setVs t.w.a r' f _ r th (fun _ => lt_of_mem_threadsOf) hth).trans ((if_neg ?_).trans (h defined th hth idle))
  rintro ⟨-, acts⟩
  rw [(mem_threadsOf.1 acts).2] at idle
  cases idle

theorem KeepsInactive.finish (same : t.w.undefRegs = s.w.undefRegs) (u : Use) : KeepsInactive r s (finish u t) := by
  intro defined th hth idle
  rw [finish_vreg u t r th hth (.inr (by rw [same, defined]; exact List.not_mem_nil))]
  exact h defined th hth idle

theorem KeepsInactive.addFlags (fs : List (Nat × Flags)) : KeepsInactive r s (t.onArch (fun a => a.addFlags fs)) := h

end Inactive

end Sys2Proof.Safety

namespace Sys2Proof.Machine

open Sys2Proof.Safety

/-! ### The shared forms of the words -/

section Words

variable {u : Use} {s s' t : State}

/-- A register of the frame set in the acting threads, and the word done. -/
theorem frame_setVs_finish {r : Nat} (dst : u.dstV = [r]) (s : State) (f : Nat → W32) :
    Frame [r] [] false s (finish u (s.setVs r f s.w.actingThreads)) ∧ KeepsInactive r s (finish u (s.setVs r f s.w.actingThreads)) :=
  ⟨((Frame.refl [r] [] false s).setVs List.mem_cons_self f fun _ => lt_of_mem_threadsOf).finish (by simp [dst]),
    ((KeepsInactive.refl r s).setVs r f).finish rfl u⟩

theorem vectorWord_frame {d : BitVec 7} {f : State → Nat → W32} (issues : Issues u s s') (dst : u.dstV = [d.toNat])
    (run : vectorWord u d f s = .next t) : Frame [d.toNat] [] false s' t ∧ KeepsInactive d.toNat s' t := by
  rw [vectorWord_go issues] at run
  injection run with run
  subst run
  exact frame_setVs_finish dst s' (f s')

theorem vectorFp_frame {d : BitVec 7} {f : State → Nat → W32 × Flags} (issues : Issues u s s') (dst : u.dstV = [d.toNat])
    (quiet : s'.w.fte = 0) (run : vectorFp u d f s = .next t) : Frame [d.toNat] [] true s' t ∧ KeepsInactive d.toNat s' t := by
  rw [vectorFp_go issues, finishFlags_quiet (by simp [quiet])] at run
  injection run with run
  subst run
  exact ⟨((((Frame.refl _ [] true s').setVs List.mem_cons_self _ fun _ => lt_of_mem_threadsOf).addFlags _).finish (by simp [dst])),
    (((KeepsInactive.refl d.toNat s').setVs d.toNat _).addFlags _).finish rfl u⟩

/-- A scalar register set, and the word done, its flags recorded or none. -/
theorem run_setS_frame {d : BitVec 7} {x : State → W64} (issues : Issues u s s') (dst : u.dstV = [])
    (run : run u (fun s => s.setS d.toNat (x s)) s = .next t) : Frame [] [d.toNat] false s' t := by
  rw [run_go issues] at run
  injection run with run
  subst run
  exact ((Frame.refl [] [d.toNat] false s').setS List.mem_cons_self _).finish (by simp [dst])

theorem finishFlags_setS_frame {d : BitVec 7} (dst : u.dstV = []) (quiet : s'.w.fte = 0) (fs : List (Nat × Flags)) (x : W64) :
    Frame [] [d.toNat] true s' (finishFlags u fs (s'.setS d.toNat x)) := by
  rw [finishFlags_quiet (by simp [quiet])]
  exact (((Frame.refl [] [d.toNat] true s').setS List.mem_cons_self x).addFlags fs).finish (by simp [dst])

theorem fpCompare_frame {fn : Nat} {d a b : BitVec 7} {ea eb : Bool} (issues : Issues (useVC d a b ea eb) s s') (quiet : s'.w.fte = 0)
    (run : fpCompare fn d a b ea eb s = .next t) : Frame [] [d.toNat] true s' t := by
  unfold fpCompare at run
  dsimp only at run
  rw [issue_go issues] at run
  injection run with run
  subst run
  exact finishFlags_setS_frame rfl quiet _ _

end Words

end Sys2Proof.Machine
end

section
/-! SUPPORT. The frames of the vector words of their own forms: indexed, packed, reduced and transcendental (R187, R191, R193, R194). -/

namespace Sys2Proof.Machine

open Sys2Proof.Safety

/-! ### Indexed, packed and compacted -/

/-- VWRX writes the register that its index named as it was read. -/
theorem exec_vwrx_frame {s s' t : State} {a b : BitVec 7} {ea eb : Bool} {x : Nat} (index : indexed s b.toNat = some x)
    (issues : Issues (useVwrx s a.toNat b.toNat ea eb) s s') (run : exec (.vwrx a b ea eb) s = .next t) :
    Frame [x] [] false s' t ∧ KeepsInactive x s' t := by
  have named : (s'.sreg b.toNat).toNat = x := by
    rw [takePorts_sreg issues.ports]
    unfold indexed at index
    split at index
    · cases index
    · exact Option.some.inj index
  have result := (run_go issues _).symm.trans run
  injection result with result
  subst result
  rw [named]
  exact frame_setVs_finish (by simp [useVwrx, index]) s' _

/-- VPK6 writes its three registers. -/
theorem exec_vpk6_frame {s s' t : State} {d a : BitVec 7} {sel : BitVec 2} {ea : Bool}
    (issues : Issues {
      covered := true, srcV := [(a.toNat, ea)], oldV := regsFrom d 3, dstV := regsFrom d 3, illegal := s.w.rangeHitsPort d.toNat 3 } s s')
    (run : exec (.vpk6 d a sel ea) s = .next t) :
    Frame (regsFrom d 3) [] false s' t ∧ ∀ r ∈ regsFrom d 3, KeepsInactive r s' t := by
  have result := (run_go issues _).symm.trans run
  injection result with result
  subst result
  have acts : ∀ th ∈ s'.w.actingThreads, th < 64 := fun _ => lt_of_mem_threadsOf
  refine ⟨((((Frame.refl (regsFrom d 3) [] false s').setVs ?_ _ acts).setVs ?_ _ acts).setVs ?_ _ acts).finish fun _ => id, fun r _ =>
    ((((KeepsInactive.refl r s').setVs _ _).setVs _ _).setVs _ _).finish rfl _⟩
  all_goals simp [regsFrom, List.range_succ_eq_map]

/-- At most 64 threads act. -/
theorem length_threadsOf_le (mask : W64) (width : Nat) : (threadsOf mask width).length ≤ 64 := by
  have distinct : (threadsOf mask width).Nodup := List.nodup_range.filter _
  have inside : threadsOf mask width ⊆ List.range 64 := fun t ht => List.mem_range.2 (lt_of_mem_threadsOf ht)
  simpa using (distinct.subperm inside).length_le

/-- VCMPK writes the threads below the number acting. -/
theorem exec_vcmpk_frame {s s' t : State} {d a : BitVec 7} {ea : Bool} (issues : Issues (useV1 d a ea) s s')
    (run : exec (.vcmpk d a ea) s = .next t) : Frame [d.toNat] [] false s' t ∧
      (s'.w.undefRegs = [] → ∀ th < 64, s'.w.actingThreads.length ≤ th → t.vreg d.toNat th = s'.vreg d.toNat th) := by
  have result := (run_go issues _).symm.trans run
  injection result with result
  subst result
  have below : ∀ th ∈ List.range s'.w.actingThreads.length, th < 64 := fun th hth =>
    (List.mem_range.1 hth).trans_le (length_threadsOf_le ..)
  refine ⟨((Frame.refl _ [] false s').setVs List.mem_cons_self _ below).finish (by simp [useV1]), fun defined th hth beyond => ?_⟩
  rw [finish_vreg _ _ _ _ hth (.inr (by change _ ∉ s'.w.undefRegs; rw [defined]; exact List.not_mem_nil))]
  refine (Arch.getV_setVs s'.w.a d.toNat _ _ d.toNat th below hth).trans (if_neg fun written => ?_)
  have := List.mem_range.1 written.2
  omega

/-! ### Transcendental words (R191) -/

/-- A state's frame is a unit's. -/
theorem unitFrame_of_frame {vs : List Nat} {s t : State} (h : Frame vs [] false s t) : UnitFrame vs s t where
  registers := h.registers
  flags := h.noFlags rfl
  specials := h.specials
  matrix := h.matrix
  memory := h.memory
  units := h.device.1
  waves := h.device.2.1
  whorls := h.device.2.2.1
  cores := fun k => by simp [State.core, h.device.2.2.2]

/-- A core's units changed, a register empty, and the word done. -/
theorem unitFrame_joined {u : Use} {r : Nat} (dst : u.dstV = [r]) (s : State) (c : Nat) {f : Core → Core}
    (units : ∀ x, { f x with trans := [] } = { x with trans := [] }) :
    UnitFrame [r] s (finish u ((s.onCore c f).onArch (fun a => a.emptyVs [r]))) where
  registers := by
    refine ⟨fun q hq => ⟨fun th hth => ?_, ?_⟩, fun q _ => ⟨?_, ?_⟩⟩
    · exact finish_vreg u _ q th hth (.inl (by rwa [dst]))
    · have other : q ≠ r := by simpa using hq
      simp [Arch.emptyVs, other]
    · exact finish_sreg ..
    · simp [Arch.emptyVs]
  flags := by simp [SameFlags, Arch.emptyVs]
  specials := by simp [SameSpecials, Arch.emptyVs]
  matrix := by
    refine ⟨fun k hk => finish_acc u _ k (by rwa [dst]), ?_⟩
    simp
  memory := by simp [SameMemory]
  units := by simp [SameUnits]
  waves := by simp
  whorls := by simp
  cores := fun k => by
    rw [finish_core, State.core_onArch, State.core_onCore]
    split
    · next same => rw [units, same]
    · rfl

theorem transWord_frame {fn : Nat} {s s' t : State} {d a : BitVec 7} {ea : Bool} (issues : Issues { useV1 d a ea with late := true } s s')
    (run : transWord fn d a ea s = .next t) : UnitFrame [d.toNat] s' t := by
  by_cases idle : s'.w.acting = 0
  · rw [transWord_idle issues idle] at run
    injection run with run
    subst run
    exact unitFrame_of_frame ((Frame.refl [d.toNat] [] false s').finish (by simp [useV1]))
  · have result := ((issue_go issues _).trans (if_neg idle)).symm.trans run
    injection result with result
    subst result
    exact unitFrame_joined rfl s' _ fun x => rfl

end Sys2Proof.Machine
end

section
/-! SUPPORT. The frame of every vector word (R181). -/

namespace Sys2Proof.Machine

open Sys2Proof.Safety

/-- Settles O50: each word by the frame of its form. -/
theorem vectorFrame : Obligations.VectorFrame := by
  unfold Obligations.VectorFrame
  refine ⟨?vv, ?vs, ?vi, ?fp, ?fps, ?fpAcc, fun s s' t d a b ea eb issues quiet run => vectorFp_frame issues rfl quiet run, ?vc, ?fpc, ?moves,
    fun s s' t a b ea eb x index issues run => exec_vwrx_frame index issues run,
    fun s s' t d a sel ea => ⟨exec_vpk6_frame, exec_vcmpk_frame, fun issues => ⟨run_setS_frame issues rfl, fun quiet run => ?vredf⟩, ?trans⟩,
    fun s s' t d a slot rnd sel ea quiet => ?conversions⟩
  case vredf =>
    have result := (issue_go issues _).symm.trans run
    injection result with result
    subst result
    exact finishFlags_setS_frame rfl quiet _ _
  all_goals simp only [List.forall_mem_cons, List.not_mem_nil, false_imp_iff, implies_true, and_true]
  case vv => and_intros <;> exact fun s s' t d a b ea eb issues run => vectorWord_frame issues rfl run
  case vs => and_intros <;> exact fun s s' t d a b ea eb issues run => vectorWord_frame issues rfl run
  case vi => and_intros <;> exact fun s s' t d a imm ea issues run => vectorWord_frame issues rfl run
  case fp => and_intros <;> exact fun s s' t d a b ea eb issues quiet run => vectorFp_frame issues rfl quiet run
  case fps => and_intros <;> exact fun s s' t d a b ea eb issues quiet run => vectorFp_frame issues rfl quiet run
  case fpAcc => and_intros <;> exact fun s s' t d a b ea eb issues quiet run => vectorFp_frame issues rfl quiet run
  case vc => and_intros <;> exact fun s s' t d a b ea eb issues run => run_setS_frame issues rfl run
  case fpc => and_intros <;> exact fun s s' t d a b ea eb issues quiet run => fpCompare_frame issues quiet run
  case moves =>
    intro s s' t d a b sel imm ea eb
    and_intros <;> exact fun issues run => vectorWord_frame issues rfl run
  case trans =>
    intro issues
    and_intros <;> exact fun run => transWord_frame issues run
  case conversions => and_intros <;> exact fun issues run => vectorFp_frame issues rfl quiet run

end Sys2Proof.Machine
end

section
/-! SUPPORT. What each function of the state does to memory: `f_mem` says that it leaves memory as it was, `wf_f` that what it writes keeps the
canonical form (R101). Each stands after those of the functions it calls. -/

namespace Sys2Proof.Machine

@[simp] theorem State.mem_ite (c : Prop) [Decidable c] (s t : State) : (if c then s else t).mem = if c then s.mem else t.mem :=
  apply_ite State.mem c s t

@[simp] theorem mem_foldl {α : Type} {f : State → α → State} (same : ∀ s x, (f s x).mem = s.mem) (l : List α) (s : State) :
    (l.foldl f s).mem = s.mem := foldl_keeps same l s

@[simp] theorem wf_ite (c : Prop) [Decidable c] {m n : Memory} (hm : Memory.wf m = true) (hn : Memory.wf n = true) :
    Memory.wf (if c then m else n) = true := by split <;> assumption

@[simp] theorem wf_foldl {α : Type} {f : State → α → State} (step : ∀ s x, Memory.wf s.mem = true → Memory.wf (f s x).mem = true)
    (l : List α) (s : State) (kept : Memory.wf s.mem = true) : Memory.wf (l.foldl f s).mem = true :=
  List.foldlRecOn l f kept fun s kept x _ => step s x kept

theorem wf_of_eq {α : Type} {r : State × α} {s : State} {x : α} (h : r = (s, x)) (kept : Memory.wf r.1.mem = true) :
    Memory.wf s.mem = true := by
  subst h
  exact kept

@[simp] theorem scramble_mem (rs : List Nat) (s : State) : (scramble rs s).mem = s.mem := by simp [scramble]

@[simp] theorem discardFrom_mem (k n : Nat) (s : State) : (discardFrom k n s).mem = s.mem := by simp [discardFrom]

@[simp] theorem discardAfter_mem (k n : Nat) (s : State) : (discardAfter k n s).mem = s.mem := by simp [discardAfter]

@[simp] theorem releaseHolds_mem (k : Nat) (s : State) : (releaseHolds k s).mem = s.mem := by simp [releaseHolds]

@[simp] theorem unlockLines_mem (k : Nat) (s : State) : (unlockLines k s).mem = s.mem := by rfl

@[simp] theorem abortTxn_mem (k : Nat) (code : BitVec 3) (s : State) : (abortTxn k code s).mem = s.mem := by
  unfold abortTxn
  (repeat' split) <;> simp

@[simp] theorem followPair_mem (u : Use) (s : State) : (followPair u s).mem = s.mem := by unfold followPair; (repeat' split) <;> simp

@[simp] theorem tlbFill_mem (s : State) (e : TlbEntry) : (tlbFill s e).mem = s.mem := by rfl

@[simp] theorem translateHost_mem (s : State) (cache : Cache) (tag : BitVec 8) (pasid : Nat) (va : W64) :
    (translateHost s cache tag pasid va).1.mem = s.mem := by
  unfold translateHost
  (repeat' split) <;> simp

@[simp] theorem hostPlaces_mem (cache : Cache) (tag : BitVec 8) (pasid n : Nat) (va : Nat → W64) (offs : List (Nat × Nat)) (s : State) :
    (hostPlaces cache tag pasid n va offs s).1.mem = s.mem := by
  fun_induction hostPlaces cache tag pasid n va offs s <;> grind [translateHost_mem]

@[simp] theorem askWalk_mem (cache : Cache) (tag : BitVec 8) (page : Nat) (access : BitVec 2) (s : State) :
    (askWalk cache tag page access s).mem = s.mem := by
  simp [askWalk]

@[simp] theorem translate_mem (s : State) (cache : Cache) (tag : BitVec 8) (va : W64) (access : BitVec 2) :
    (translate s cache tag va access).1.mem = s.mem := by
  grind [translate, askWalk_mem, tlbFill_mem]

@[simp] theorem translateBytes_mem (s : State) (cache : Cache) (tag : BitVec 8) (va : W64) (n : Nat) (access : BitVec 2) :
    (translateBytes s cache tag va n access).1.mem = s.mem := by
  grind [translateBytes, translate_mem]

@[simp] theorem placeAll_mem (cache : Cache) (tag : BitVec 8) (access : BitVec 2) (n : Nat) (f : Nat → W64) (offs : List (Nat × Nat))
    (s : State) :
    (placeAll cache tag access n f offs s).1.mem = s.mem := by
  fun_induction placeAll cache tag access n f offs s <;> grind [translateBytes_mem]

@[simp] theorem takeAnswers_mem (pasid : Nat) (vas : List W64) (s : State) : (takeAnswers pasid vas s).mem = s.mem := by rfl

@[simp] theorem checkPlaces_mem (w : Wave) (cache : Cache) (h : Handle) (kind : Kind) (n : Nat) (offs : List (Nat × Nat))
    (slab : Option (SlabSample × Nat)) (s : State) :
    (checkPlaces w cache h kind n offs slab s).1.mem = s.mem := by
  simp only [checkPlaces]
  (repeat' split) <;> simp_all

@[simp] theorem checkAccess_mem (w : Wave) (cache : Cache) (h : Nat) (kind : Kind) (n align : Nat) (offs : List (Nat × Nat)) (s : State) :
    (checkAccess w cache h kind n align offs s).1.mem = s.mem := by
  simp only [checkAccess]
  (repeat' split) <;> simp_all <;> grind [checkPlaces_mem, translateBytes_mem]

@[simp] theorem followPort_mem (p : PortStep) (s : State) : (followPort p s).mem = s.mem := by unfold followPort; (repeat' split) <;> simp

@[simp] theorem keepSample_mem (cache : Cache) (handle : Nat) (s : State) : (keepSample cache handle s).mem = s.mem := by
  grind [keepSample, translateBytes_mem]

@[simp] theorem addAccess_mem (x : Access) (s : State) : (addAccess x s).mem = s.mem := by unfold addAccess; (repeat' split) <;> simp

@[simp] theorem takePort_mem (p : PortStep) (h : Handle) (places : List Place) (s : State) : (takePort p h places s).mem = s.mem := by
  grind [takePort, State.onArch_mem, State.onWave_mem, addAccess_mem]

@[simp] theorem recordTrap_mem (t : PendTrap) (inh : Bool) (s : State) : (recordTrap t inh s).mem = s.mem := by rfl

@[simp] theorem enterHandler_mem (t : PendTrap) (s : State) : (enterHandler t s).mem = s.mem := by rfl

@[simp] theorem stopLaunch_mem (launch : Nat) (why : Stop) (s : State) : (stopLaunch launch why s).mem = s.mem := by
  unfold stopLaunch
  (repeat' split) <;> simp

@[simp] theorem terminate_mem (t : PendTrap) (s : State) : (terminate t s).mem = s.mem := by simp [terminate]

@[simp] theorem deliverTrap_mem (t : PendTrap) (s : State) : (deliverTrap t s).mem = s.mem := by simp [deliverTrap]

@[simp] theorem trapBy_mem (t : PendTrap) {k : State → State} (s : State) (same : (k s).mem = s.mem) : (trapBy t k s).mem = s.mem := by
  unfold trapBy
  split
  · simp
  · split
    · rfl
    · exact same

@[simp] theorem takeTrap_mem (t : PendTrap) (s : State) : (takeTrap t s).mem = s.mem := by simp [takeTrap]

@[simp] theorem rollback_mem (k : Nat) (counted : Bool) (s : State) : (rollback k counted s).mem = s.mem := by
  grind [rollback, State.setWave_mem, abortTxn_mem, discardAfter_mem, releaseHolds_mem]

@[simp] theorem loseLine_mem (core line : Nat) (drops : Bool) (s : State) : (loseLine core line drops s).mem = s.mem := by simp [loseLine]

@[simp] theorem invalidateNow_mem (line : Nat) (s : State) : (invalidateNow line s).mem = s.mem := by simp [invalidateNow]

@[simp] theorem wf_homeWrite (owner : Option (BitVec 8)) (cells : List (Nat × Byte)) (s : State) (kept : Memory.wf s.mem = true) :
    Memory.wf (homeWrite owner cells s).mem = true := by
  simp +contextual [homeWrite, wf_writeLocs, kept]

@[simp] theorem wf_homeWords (owner : Option (BitVec 8)) (loc : Nat) (ws : List W64) (s : State) (kept : Memory.wf s.mem = true) :
    Memory.wf (homeWords owner loc ws s).mem = true := by
  simp [homeWords, kept]

@[simp] theorem wf_postEvent (kind tag : BitVec 8) (payload : List W64) (s : State) (kept : Memory.wf s.mem = true) :
    Memory.wf (postEvent kind tag payload s).mem = true := by
  grind [postEvent, wf_homeWords]

@[simp] theorem wf_appendRecord (tag : BitVec 8) (words : List W64) (va : W64) (access : BitVec 2) (resolvable : Bool) (launches : List Nat)
    (readers : List W64) (s : State) (kept : Memory.wf s.mem = true) :
    Memory.wf (appendRecord tag words va access resolvable launches readers s).1.mem = true := by
  unfold appendRecord
  (repeat' split) <;> simp_all

@[simp] theorem askOwning_mem (lines : List Nat) (s : State) : (askOwning lines s).mem = s.mem := by simp [askOwning]

@[simp] theorem passEntry_mem (tag : BitVec 8) (s : State) : (passEntry tag s).mem = s.mem := by rfl

@[simp] theorem loseStore_mem (tag : BitVec 8) (x : CpStore) (s : State) : (loseStore tag x s).1.mem = s.mem := by
  unfold loseStore
  (repeat' split) <;> simp

theorem wf_orEntry (tag : BitVec 8) (entry : Nat) (bits : W64) (s : State) {t : State} (kept : Memory.wf s.mem = true)
    (h : orEntry tag entry bits s = some t) :
    Memory.wf t.mem = true := by
  grind [orEntry, wf_homeWords]

@[simp] theorem wf_missRecord (tag : BitVec 8) (va : W64) (level : Nat) (large : Bool) (s : State) (kept : Memory.wf s.mem = true) :
    Memory.wf (missRecord tag va level large s).1.mem = true := by
  grind [missRecord, wf_appendRecord]

theorem wf_storeNow {tag : BitVec 8} {va : W64} {ws : List W64} {s t : State} (kept : Memory.wf s.mem = true)
    (h : storeNow tag va ws s = .done t) : Memory.wf t.mem = true := by
  grind [storeNow, wf_orEntry, wf_homeWords]

theorem wf_makeStore {tag : BitVec 8} {x : CpStore} {s t : State} (kept : Memory.wf s.mem = true)
    (h : makeStore tag x s = .done t) : Memory.wf t.mem = true := by
  cases x <;> grind [makeStore, passEntry_mem, → wf_storeNow]

@[simp] theorem wf_makeStores (tag : BitVec 8) (n : Nat) (xs ys : List CpStore) (s : State) (kept : Memory.wf s.mem = true) :
    Memory.wf (makeStores tag n xs ys s).1.mem = true :=
  by
  fun_induction makeStores tag n xs ys s <;> grind [wf_makeStore, loseStore_mem, wf_missRecord, askOwning_mem]

@[simp] theorem setStores_mem (tag : BitVec 8) (xs : List CpStore) (s : State) : (setStores tag xs s).mem = s.mem := by rfl

@[simp] theorem wf_flushStores (tag : BitVec 8) (more : List CpStore) (s : State) (kept : Memory.wf s.mem = true) :
    Memory.wf (flushStores tag more s).mem = true := by
  simp [flushStores, kept]

@[simp] theorem wf_storeFor (tag : BitVec 8) (va : W64) (words : List W64) (s : State) (kept : Memory.wf s.mem = true) :
    Memory.wf (storeFor tag va words s).mem = true := by
  simp [storeFor, kept]

@[simp] theorem wf_consumeRecords (tag : BitVec 8) (s : State) (kept : Memory.wf s.mem = true) : Memory.wf (consumeRecords tag s).mem = true := by
  unfold consumeRecords
  (repeat' split) <;> simp_all

@[simp] theorem wf_postRecord (tag : BitVec 8) (words : List W64) (va : W64) (access : BitVec 2) (resolvable : Bool) (launches : List Nat)
    (readers : List W64) (s : State) (kept : Memory.wf s.mem = true) :
    Memory.wf (postRecord tag words va access resolvable launches readers s).1.mem = true := by
  grind [postRecord, loseStore_mem, wf_appendRecord, wf_consumeRecords, wf_flushStores]

@[simp] theorem wf_faultRecord (agent : BitVec 4) (tag : BitVec 8) (w : Wave) (word va : W64) (access : BitVec 2) (cause : BitVec 8)
    (level : Nat) (large : Bool) (waiters : Nat) (s : State) (kept : Memory.wf s.mem = true) :
    Memory.wf (faultRecord agent tag w word va access cause level large waiters s).1.mem = true := by
  unfold faultRecord
  (repeat' split) <;> simp_all

@[simp] theorem wf_postFaults (agent : BitVec 4) (w : Wave) (word : W64) (access : BitVec 2) (fs : List (Nat × W64 × BitVec 8 × Nat × Bool))
    (s : State) (kept : Memory.wf s.mem = true) :
    Memory.wf (postFaults agent w word access fs s).1.mem = true := by
  fun_induction postFaults agent w word access fs s <;> grind [wf_faultRecord]

@[simp] theorem stallOnFault_mem (records : List (Nat × Option Nat)) (s : State) : (stallOnFault records s).mem = s.mem := by
  grind [stallOnFault, State.blockFor_mem, State.onWave_mem, rollback_mem]

@[simp] theorem wf_stallOrTrap (agent : BitVec 4) (access : BitVec 2) (fs : List (Nat × W64 × BitVec 8 × Nat × Bool)) (s : State)
    (kept : Memory.wf s.mem = true) :
    Memory.wf (stallOrTrap agent access fs s).mem = true := by
  unfold stallOrTrap
  (repeat' split) <;> simp_all

@[simp] theorem poisonSector_mem (sector : Nat) (s : State) : (poisonSector sector s).mem = s.mem := by rfl

@[simp] theorem wf_quarantineSlot (whorl slot : Nat) (reason : BitVec 2) (s : State) (kept : Memory.wf s.mem = true) :
    Memory.wf (quarantineSlot whorl slot reason s).mem = true := by
  grind [quarantineSlot, State.onWhorl_mem, wf_postEvent]

@[simp] theorem wf_errorFound (sector : Nat) (s : State) (kept : Memory.wf s.mem = true) : Memory.wf (errorFound sector s).mem = true := by
  grind [errorFound, State.onWhorl_mem, poisonSector_mem, wf_quarantineSlot]

@[simp] theorem wf_checkSectors (p : Nat → Bool) (s : State) (kept : Memory.wf s.mem = true) : Memory.wf (checkSectors p s).mem = true := by
  simp +contextual [checkSectors, kept]

@[simp] theorem wf_checkTile (tile : Nat) (s : State) (kept : Memory.wf s.mem = true) : Memory.wf (checkTile tile s).mem = true := by
  simp [checkTile, kept]

@[simp] theorem wf_touchTile (whorl tile core : Nat) (s : State) (kept : Memory.wf s.mem = true) :
    Memory.wf (touchTile whorl tile core s).mem = true := by
  simp [touchTile, kept]

@[simp] theorem wf_moveTile (loc core : Nat) (s : State) (kept : Memory.wf s.mem = true) : Memory.wf (moveTile loc core s).mem = true := by
  simp [moveTile, kept]

@[simp] theorem State.countClock_mem (c : Nat) (s : State) : (State.countClock c s).mem = s.mem := by rfl

@[simp] theorem forget_mem (k : Nat) (s : State) : (forget k s).mem = s.mem := by rfl

@[simp] theorem wf_postTerminating (tag : BitVec 8) (words : List W64) (va : W64) (access : BitVec 2) (s : State)
    (kept : Memory.wf s.mem = true) :
    Memory.wf (postTerminating tag words va access s).mem = true := by
  grind [postTerminating, wf_postEvent, wf_postRecord]

@[simp] theorem wf_dropCompletion (k : Nat) (s : State) (kept : Memory.wf s.mem = true) : Memory.wf (dropCompletion k s).mem = true := by
  unfold dropCompletion
  (repeat' split) <;> simp_all

@[simp] theorem dropPins_mem (tag : BitVec 8) (s : State) : (dropPins tag s).mem = s.mem := by rfl

@[simp] theorem dropTranslations_mem (kind : BitVec 2) (tag : BitVec 8) (va : W64) (s : State) :
    (dropTranslations kind tag va s).mem = s.mem := by
  rfl

@[simp] theorem wf_writeUnits (tag : BitVec 8) (touched : List Nat) (s : State) (kept : Memory.wf s.mem = true) :
    Memory.wf (writeUnits tag touched s).mem = true := by
  simp +contextual [writeUnits, kept]

@[simp] theorem wf_freeBlock (team : Nat) (s : State) (kept : Memory.wf s.mem = true) : Memory.wf (freeBlock team s).mem = true := by
  grind [freeBlock, wf_writeUnits]

@[simp] theorem wf_releaseScratch (team : Nat) (s : State) (kept : Memory.wf s.mem = true) : Memory.wf (releaseScratch team s).mem = true :=
  wf_setCells _ _ kept (by simp) (by simp)

@[simp] theorem wf_dropTeam (team : Nat) (s : State) (kept : Memory.wf s.mem = true) : Memory.wf (dropTeam team s).mem = true := by
  simp [dropTeam, kept]

@[simp] theorem wf_setSeqWord (slot i : Nat) (x : W64) (s : State) (kept : Memory.wf s.mem = true) :
    Memory.wf (setSeqWord slot i x s).mem = true := by
  simp [setSeqWord, kept]

@[simp] theorem wf_endRound (op : CarderOp) (s : State) (kept : Memory.wf s.mem = true) : Memory.wf (endRound op s).mem = true := by
  simp [endRound, kept]

@[simp] theorem wf_discardCommands (k : Nat) (s : State) (kept : Memory.wf s.mem = true) : Memory.wf (discardCommands k s).mem = true := by
  simp +contextual [discardCommands, kept]

@[simp] theorem vacate_mem (k : Nat) (s : State) : (vacate k s).mem = s.mem := by simp [vacate]

@[simp] theorem wf_dropWave (k : Nat) (s : State) (kept : Memory.wf s.mem = true) : Memory.wf (dropWave k s).mem = true := by
  simp [dropWave, kept]

@[simp] theorem wf_killLaunch (k : Nat) (s : State) (kept : Memory.wf s.mem = true) : Memory.wf (killLaunch k s).mem = true :=
  wf_foldl (fun s t => wf_dropTeam t s) _ _ (wf_foldl (fun s w => wf_dropWave w s) _ _ kept)

@[simp] theorem onDistaff_mem (tag : BitVec 8) (f : Distaff → Distaff) (s : State) : (onDistaff tag f s).mem = s.mem := by rfl

@[simp] theorem wf_flushCompletions (tag : BitVec 8) (n : Nat) (s : State) (kept : Memory.wf s.mem = true) :
    Memory.wf (flushCompletions tag n s).mem = true := by
  fun_induction flushCompletions tag n s <;> simp_all

@[simp] theorem wf_postCompletion (tag : BitVec 8) (cookie : W64) (id : W32) (reason length : Nat) (tokens : W64) (s : State)
    (kept : Memory.wf s.mem = true) :
    Memory.wf (postCompletion tag cookie id reason length tokens s).mem = true := by
  simp [postCompletion, kept]

@[simp] theorem wf_retireSequence (tag : BitVec 8) (slot : Nat) (s : State) (kept : Memory.wf s.mem = true) :
    Memory.wf (retireSequence tag slot s).mem = true := by
  simp [retireSequence, kept]

@[simp] theorem wf_retireAll (tag : BitVec 8) (reason : W64) (s : State) (kept : Memory.wf s.mem = true) :
    Memory.wf (retireAll tag reason s).mem = true :=
  by
  unfold retireAll
  refine wf_foldl (fun s slot kept => ?_) _ _ kept
  dsimp only
  split
  · simp [kept]
  · exact kept

@[simp] theorem wf_writeCompletion (k : Nat) (s : State) (kept : Memory.wf s.mem = true) : Memory.wf (writeCompletion k s).mem = true := by
  grind [writeCompletion, forget_mem, wf_dropCompletion, wf_postRecord, wf_storeFor]

@[simp] theorem wf_terminateContext (tag : BitVec 8) (cause : BitVec 8) (record : Launch → Option (List W64 × W64)) (s : State)
    (kept : Memory.wf s.mem = true) :
    Memory.wf (terminateContext tag cause record s).mem = true :=
  by
  unfold terminateContext
  dsimp only
  rw [dropTranslations_mem]
  refine wf_foldl (fun s k kept => wf_dropCompletion k s kept) _ _ (wf_foldl (fun s e kept => ?_) _ _ (wf_retireAll _ _ _ ?_))
  · apply wf_writeCompletion
    split <;> simp [kept]
  · rw [dropPins_mem]
    exact wf_foldl (fun s e kept => wf_killLaunch e.1 s kept) _ _ kept

@[simp] theorem wf_terminateAll (s : State) (kept : Memory.wf s.mem = true) : Memory.wf (terminateAll s).mem = true := by
  simp +contextual [terminateAll, kept]

@[simp] theorem postTrap_mem (seq : Nat) (detail : Flags) (mask inst : W64) (s : State) : (postTrap seq detail mask inst s).mem = s.mem := by
  simp [postTrap]

@[simp] theorem finishFlags_mem (u : Use) (fs : List (Nat × Flags)) (s : State) : (finishFlags u fs s).mem = s.mem := by simp [finishFlags]

@[simp] theorem seenWord_mem (core key : Nat) (now : W32) (s : State) : (seenWord core key now s).1.mem = s.mem := by
  unfold seenWord
  (repeat' split) <;> simp

@[simp] theorem fetchWord_mem (pc : W64) (s : State) : (fetchWord pc s).1.mem = s.mem := by
  grind [fetchWord, seenWord_mem, translateBytes_mem]

@[simp] theorem settleMatrix_mem (s : State) : (settleMatrix s).mem = s.mem := by unfold settleMatrix; (repeat' split) <;> simp

@[simp] theorem onAttn_mem (k seq : Nat) (f : AttnOp → AttnOp) (s : State) : (onAttn k seq f s).mem = s.mem := by simp [onAttn]

@[simp] theorem unlockCommit_mem (lines : List Nat) (s : State) : (unlockCommit lines s).mem = s.mem := by
  unfold unlockCommit
  exact mem_foldl (by simp) _ _

@[simp] theorem onMatrixHead_mem (k : Nat) (f : MatrixOp → MatrixOp) (s : State) : (onMatrixHead k f s).mem = s.mem := by
  simp [onMatrixHead]

@[simp] theorem windowsOf_mem (w : Wave) (cache : Cache) (hs : List Nat) (s : State) : (windowsOf w cache hs s).1.mem = s.mem := by
  fun_induction windowsOf w cache hs s <;> grind [translateBytes_mem]

@[simp] theorem takeSamples_mem (w : Wave) (cache : Cache) (handles : List Nat) (s : State) : (takeSamples w cache handles s).1.mem = s.mem := by
  grind [takeSamples, windowsOf_mem]

@[simp] theorem beginProduct_mem (hs : List Nat) (s : State) : (beginProduct hs s).1.mem = s.mem := by
  fun_induction beginProduct hs s <;> grind [onMatrixHead_mem, takeSamples_mem]

@[simp] theorem engineStop_mem (wave launch : Nat) (agent : BitVec 4) (access : BitVec 2) (cause : BitVec 8) (va addr : W64) (s : State)
    (level : Nat := 0) (large : Bool := false) :
    (engineStop wave launch agent access cause va addr s level large).mem = s.mem := by
  simp [engineStop]

@[simp] theorem rangeLocs_mem (w : Wave) (cache : Cache) (handle : Nat) (kind : Kind) (fuel off len : Nat) (s : State) :
    (rangeLocs w cache handle kind fuel off len s).1.mem = s.mem := by
  fun_induction rangeLocs w cache handle kind fuel off len s <;> grind [checkAccess_mem]

@[simp] theorem locsOf_mem (w : Wave) (cache : Cache) (handle : Nat) (kind : Kind) (off len : Nat) (s : State) :
    (locsOf w cache handle kind off len s).1.mem = s.mem := by
  simp [locsOf]

@[simp] theorem fetchRows_mem (w : Wave) (cache : Cache) (handle : Nat) (rows : List (List (Nat × Nat))) (s : State) :
    (fetchRows w cache handle rows s).1.mem = s.mem :=
  by
  induction rows generalizing s with
  | nil => rfl
  | cons pieces rest ih =>
    unfold fetchRows
    dsimp only
    split
    · next s' got h =>
      have same := congrArg (fun r => r.1.mem) h
      rw [foldl_keeps (field := fun r : State × Fetched => r.1.mem)] at same
      · split
        · next h' => exact (congrArg (fun r => r.1.mem) h').symm.trans ((ih s').trans same.symm)
        · exact (ih s').trans same.symm
      · intro r p
        grind [locsOf_mem]
    · rw [foldl_keeps (field := fun r : State × Fetched => r.1.mem)]
      intro r p
      grind [locsOf_mem]

@[simp] theorem wf_engineFault (agent : BitVec 4) (w : Wave) (addr : W64) (access : BitVec 2)
    (fs : List (Nat × W64 × BitVec 8 × Nat × Bool)) (s : State) (kept : Memory.wf s.mem = true) :
    Memory.wf (engineFault agent w addr access fs s).mem = true := by
  fun_induction engineFault agent w addr access fs s <;> grind [engineStop_mem, wf_faultRecord]

@[simp] theorem productStopped_mem (members : List Nat) (done : Nat) (s : State) : (productStopped members done s).mem = s.mem := by
  simp [productStopped]

@[simp] theorem wf_matrixFault (members : List Nat) (rows k : Nat) (op : MatrixOp) (fs : List (Nat × W64 × BitVec 8 × Nat × Bool))
    (s : State) (kept : Memory.wf s.mem = true) :
    Memory.wf (matrixFault members rows k op fs s).mem = true := by
  unfold matrixFault
  (repeat' split) <;> simp_all

@[simp] theorem productDone_mem (members : List Nat) (s : State) : (productDone members s).mem = s.mem := by simp [productDone]

@[simp] theorem wf_runRows (members : List Nat) (columns : List (List (Nat × Nat))) (fuel r : Nat) (s : State)
    (kept : Memory.wf s.mem = true) :
    Memory.wf (runRows members columns fuel r s).1.mem = true := by
  fun_induction runRows members columns fuel r s <;> grind [State.setWave_mem, engineStop_mem, fetchRows_mem, productStopped_mem,
    wf_matrixFault]

@[simp] theorem wf_startProduct (members : List Nat) (op : MatrixOp) (rows : Nat) (s : State) (kept : Memory.wf s.mem = true) :
    Memory.wf (startProduct members op rows s).mem = true := by
  grind [startProduct, State.onCore_mem, beginProduct_mem, engineStop_mem, fetchRows_mem, onMatrixHead_mem, productDone_mem,
    productStopped_mem, wf_matrixFault, wf_runRows]

@[simp] theorem wf_startHead (k : Nat) (op : MatrixOp) (members : List Nat) (rows : Nat) (s : State) (kept : Memory.wf s.mem = true) :
    Memory.wf (startHead k op members rows s).mem = true := by
  simp [startHead, kept]

@[simp] theorem stepDown_mem (cls index : Nat) (s : State) : (stepDown cls index s).mem = s.mem := by simp [stepDown]

@[simp] theorem issueAccess_mem (u : Use) (m : MemWord) (x : Access) (s : State) : (issueAccess u m x s).mem = s.mem := by
  simp [issueAccess]

@[simp] theorem wf_placeInstruction (bits : BitVec 64) (s : State) (kept : Memory.wf s.mem = true) :
    Memory.wf (placeInstruction bits s).mem = true := by
  simp [placeInstruction, wf_writeBytes, kept]

@[simp] theorem gotBytes_mem (cache : Cache) (tag : BitVec 8) (va : W64) (n : Nat) (s : State) : (gotBytes cache tag va n s).1.mem = s.mem := by
  grind [gotBytes, translateBytes_mem]

@[simp] theorem attendedAt_mem (op : AttnOp) (whorl : Nat) (tag : BitVec 8) (x : SlabSample) (bound layer head : Nat) (dirty : Option W64)
    (k : Nat) (s : State) :
    (attendedAt op whorl tag x bound layer head dirty k s).1.mem = s.mem := by
  simp only [attendedAt]
  (repeat' split) <;> simp_all <;> grind [gotBytes_mem, translateBytes_mem]

@[simp] theorem gatherPositions_mem (op : AttnOp) (whorl : Nat) (tag : BitVec 8) (x : SlabSample) (bound layer head : Nat)
    (dirty : Option W64) (ps : List Nat) (s : State) :
    (gatherPositions op whorl tag x bound layer head dirty ps s).1.mem = s.mem := by
  fun_induction gatherPositions op whorl tag x bound layer head dirty ps s <;> grind [attendedAt_mem]

@[simp] theorem wf_admitRecord (tag : BitVec 8) (slot unit log : Nat) (ws : List W64) (masked : Nat) (s : State)
    (kept : Memory.wf s.mem = true) :
    Memory.wf (admitRecord tag slot unit log ws masked s).mem = true := by
  simp [admitRecord, kept]

@[simp] theorem changeFault_mem (tag : BitVec 8) (index : Nat) (f : FaultRec → FaultRec) (s : State) :
    (changeFault tag index f s).mem = s.mem := by
  rfl

@[simp] theorem wf_cpPage (tag : BitVec 8) (launchid : W32) (word va : W64) (s : State) (kept : Memory.wf s.mem = true) :
    Memory.wf (cpPage tag launchid word va s).1.mem = true := by
  grind [cpPage, askOwning_mem, changeFault_mem, wf_orEntry, wf_postRecord]

@[simp] theorem wf_cpRead (tag : BitVec 8) (launchid : W32) (word : W64) (fuel : Nat) (va : W64) (n : Nat) (s : State)
    (kept : Memory.wf s.mem = true) :
    Memory.wf (cpRead tag launchid word fuel va n s).1.mem = true := by
  fun_induction cpRead tag launchid word fuel va n s <;> grind [wf_cpPage]

@[simp] theorem wf_headRecord (tag : BitVec 8) (s : State) (kept : Memory.wf s.mem = true) : Memory.wf (headRecord tag s).1.mem = true := by
  simp [headRecord, kept]

@[simp] theorem popAdmission_mem (tag : BitVec 8) (s : State) : (popAdmission tag s).mem = s.mem := by rfl

@[simp] theorem reapRegions_mem (tag : BitVec 8) (s : State) : (reapRegions tag s).mem = s.mem := by rfl

@[simp] theorem wf_admitAll (tag : BitVec 8) (n : Nat) (s : State) (kept : Memory.wf s.mem = true) : Memory.wf (admitAll tag n s).mem = true :=
  by
  induction n generalizing s with
  | zero =>
    delta admitAll
    exact kept
  | succ n ih =>
    delta admitAll
    dsimp only
    generalize below : @Nat.rec _ _ _ n = rest
    have same : rest.1 = admitAll tag n := by
      rw [← below]
      delta admitAll
      rfl
    rw [← same] at ih
    delta admitAll._f
    dsimp only
    split
    · exact kept
    · split
      · next h =>
        have read := wf_of_eq h (wf_headRecord _ _ kept)
        split
        · refine ih _ (wf_postCompletion _ _ _ _ _ _ _ ?_)
          exact read
        · split
          · split
            · exact read
            · split
              · next h =>
                refine ih _ (wf_admitRecord _ _ _ _ _ _ _ ?_)
                rw [popAdmission_mem]
                exact wf_of_eq h (wf_cpRead _ _ _ _ _ _ _ read)
              · next h => exact wf_of_eq h (wf_cpRead _ _ _ _ _ _ _ read)
          · exact read
      · next h => exact wf_of_eq h (wf_headRecord _ _ kept)

@[simp] theorem stopWave_mem (k : Nat) (t : PendTrap) (s : State) : (stopWave k t s).mem = s.mem := by simp [stopWave]

@[simp] theorem wf_correctedError (whorl slot : Nat) (s : State) (kept : Memory.wf s.mem = true) :
    Memory.wf (correctedError whorl slot s).mem = true := by
  simp [correctedError, kept]

@[simp] theorem wf_uncorrectableError (whorl slot sector : Nat) (s : State) (kept : Memory.wf s.mem = true) :
    Memory.wf (uncorrectableError whorl slot sector s).mem = true := by
  unfold uncorrectableError
  (repeat' split) <;> simp_all

@[simp] theorem misuseBy_mem (launch wave : Nat) (pc : W64) (team inst : Nat) (s : State) :
    (misuseBy launch wave pc team inst s).mem = s.mem := by
  simp [misuseBy]

@[simp] theorem endMisuse_mem (team inst : Nat) (s : State) : (endMisuse team inst s).mem = s.mem := by simp [endMisuse]

@[simp] theorem misuse_mem (team inst : Nat) (s : State) : (misuse team inst s).mem = s.mem := by simp [misuse]

@[simp] theorem forgetReader_mem (tag : BitVec 8) (lrec : W64) (s : State) : (forgetReader tag lrec s).mem = s.mem := by rfl

@[simp] theorem makeEligible_mem (k : Nat) (s : State) : (makeEligible k s).mem = s.mem := by unfold makeEligible; (repeat' split) <;> simp

@[simp] theorem meetDeps_mem (test : Dep → Bool) (k : Nat) (s : State) : (meetDeps test k s).mem = s.mem := by simp [meetDeps]

@[simp] theorem wf_endAll (n : Nat) (xs : List (Nat × Nat × BitVec 8)) (s : State) (kept : Memory.wf s.mem = true) :
    Memory.wf (endAll n xs s).mem = true :=
  by
  induction n generalizing xs s with
  | zero => simpa [endAll]
  | succ n ih =>
    match xs with
    | [] => simpa [endAll]
    | (k, status, cause) :: rest =>
      unfold endAll
      split
      · exact ih _ _ kept
      · split
        · exact ih _ _ kept
        · dsimp only
          split
          · exact ih _ _ (wf_foldl (by simp) _ _ (wf_writeCompletion _ _ (by simp [kept])))
          · exact ih _ _ (wf_writeCompletion _ _ (by simp [kept]))

@[simp] theorem wf_endLaunches (ends : List (Nat × Nat × BitVec 8)) (s : State) (kept : Memory.wf s.mem = true) :
    Memory.wf (endLaunches ends s).mem = true := by
  simp [endLaunches, kept]

@[simp] theorem wf_copyHome (owner : Option (BitVec 8)) (src dst n : Nat) (s : State) (kept : Memory.wf s.mem = true) :
    Memory.wf (copyHome owner src dst n s).mem = true :=
  by
  unfold copyHome
  split
  · exact kept
  · dsimp only
    rw [mem_foldl (by simp)]
    exact wf_copyCells _ _ _ (wf_checkSectors _ _ (by simp [kept]))

@[simp] theorem wf_restoreSnapshots (launches : List Nat) (s : State) (kept : Memory.wf s.mem = true) :
    Memory.wf (restoreSnapshots launches s).mem = true := by
  simp +contextual [restoreSnapshots, kept]

@[simp] theorem wf_endLaunch (k status : Nat) (cause : BitVec 8) (s : State) (kept : Memory.wf s.mem = true) :
    Memory.wf (endLaunch k status cause s).mem = true := by
  simp [endLaunch, kept]

@[simp] theorem wf_commitLaunch (k : Nat) (s : State) (kept : Memory.wf s.mem = true) : Memory.wf (commitLaunch k s).mem = true := by
  unfold commitLaunch
  (repeat' split) <;> simp_all

@[simp] theorem wf_sensedGuard (slot : BitVec 8) (gen : W32) (k : Nat) (s : State) (kept : Memory.wf s.mem = true) :
    Memory.wf (sensedGuard slot gen k s).mem = true := by
  grind [sensedGuard, meetDeps_mem, wf_commitLaunch]

@[simp] theorem wf_settleGuard (slot : BitVec 8) (gen : W32) (value : Bool) (ks : List Nat) (s : State) (kept : Memory.wf s.mem = true) :
    Memory.wf (settleGuard slot gen value ks s).mem = true :=
  by
  unfold settleGuard
  have killed := fun l : List Nat => wf_restoreSnapshots l _ (wf_foldl (fun s k kept => wf_killLaunch k s kept) l s kept)
  refine wf_foldl (fun s k kept => wf_sensedGuard slot gen k s kept) _ _ ?_
  split
  · exact killed _
  · exact wf_endLaunches _ _ (killed _)

@[simp] theorem wf_writeGuard (tag slot : BitVec 8) (g : Guard) (s : State) (kept : Memory.wf s.mem = true) :
    Memory.wf (writeGuard tag slot g s).mem = true := by
  simp [writeGuard, kept]

@[simp] theorem wf_resolveGuard (tag slot : BitVec 8) (value : Bool) (s : State) (kept : Memory.wf s.mem = true) :
    Memory.wf (resolveGuard tag slot value s).mem = true := by
  grind [resolveGuard, wf_settleGuard, wf_writeGuard]

@[simp] theorem freshFrame_mem (s : State) : (freshFrame s).2.mem = s.mem := by rfl

@[simp] theorem wf_splitLarge (tag : BitVec 8) (va leaf : W64) (entry : Nat) (s : State) (kept : Memory.wf s.mem = true) :
    Memory.wf (splitLarge tag va leaf entry s).mem = true := by
  simp [splitLarge, kept]

@[simp] theorem wf_postStop (c : Stop) (l : Launch) (s : State) (kept : Memory.wf s.mem = true) : Memory.wf (postStop c l s).mem = true := by
  simp [postStop, kept]

@[simp] theorem onMgmt_mem (f : Mgmt → Mgmt) (s : State) : (onMgmt f s).mem = s.mem := by rfl

@[simp] theorem commandRefused_mem (code : BitVec 8) (s : State) : (commandRefused code s).mem = s.mem := by rfl

@[simp] theorem commandDone_mem (s : State) : (commandDone s).mem = s.mem := by rfl

@[simp] theorem wf_closeRecord (tag : BitVec 8) (index : Nat) (f : FaultRec) (denied : Bool) (s : State) (kept : Memory.wf s.mem = true) :
    Memory.wf (closeRecord tag index f denied s).mem = true := by
  simp [closeRecord, kept]

@[simp] theorem wf_dropStores (tag : BitVec 8) (page : Nat) (s : State) (kept : Memory.wf s.mem = true) :
    Memory.wf (dropStores tag page s).mem = true :=
  by
  unfold dropStores
  apply wf_flushStores
  rw [foldl_keeps (field := fun r : State × List CpStore => r.1.mem) (by simp)]
  simpa

@[simp] theorem answerOut_mem (addr : Nat) (bytes : List Byte) (s : State) : (answerOut addr bytes s).mem = s.mem := by rfl

@[simp] theorem refusePeers_mem (tag : BitVec 8) (f : FaultRec) (s : State) : (refusePeers tag f s).mem = s.mem := by simp [refusePeers]

@[simp] theorem wf_settleWrites (tag : BitVec 8) (s : State) (kept : Memory.wf s.mem = true) : Memory.wf (settleWrites tag s).mem = true := by
  simp +contextual [settleWrites, kept]

@[simp] theorem wf_resolveDeny (tag : BitVec 8) (index : Nat) (s : State) (kept : Memory.wf s.mem = true) :
    Memory.wf (resolveDeny tag index s).mem = true :=
  by
  unfold resolveDeny
  split
  · exact kept
  · dsimp only
    have closed : ∀ f, Memory.wf (closeRecord tag index f true s).mem = true := fun f => wf_closeRecord _ _ _ _ _ kept
    split
    · simp [closed]
    · apply wf_settleWrites
      refine wf_foldl (fun s k kept => wf_dropCompletion k s kept) _ _ (wf_dropStores _ _ _ ?_)
      simp [closed]

@[simp] theorem placeWords_mem (cache : Cache) (tag : BitVec 8) (access : BitVec 2) (vas : List W64) (s : State) :
    (placeWords cache tag access vas s).1.mem = s.mem := by
  fun_induction placeWords cache tag access vas s <;> grind [translateBytes_mem]

@[simp] theorem countDone_mem (path : Nat) (s : State) : (countDone path s).mem = s.mem := by rfl

@[simp] theorem noteIrreplaceable_mem (launch : Nat) (s : State) : (noteIrreplaceable launch s).mem = s.mem := by rfl

@[simp] theorem afterIssue_mem (before after : State) : (afterIssue before after).mem = after.mem := by simp [afterIssue]

@[simp] theorem noteAccess_mem (launch handle space : Nat) (writes : Bool) (s : State) :
    (noteAccess launch handle space writes s).mem = s.mem := by
  unfold noteAccess
  (repeat' split) <;> simp

@[simp] theorem releaseCheckpoint_mem (k : Nat) (s : State) : (releaseCheckpoint k s).mem = s.mem := by simp [releaseCheckpoint]

@[simp] theorem retireOldest_mem (k : Nat) (s : State) : (retireOldest k s).mem = s.mem := by
  grind [retireOldest, State.setWave_mem, releaseCheckpoint_mem]

@[simp] theorem stopAfter_mem (k seq : Nat) (snap : Arch) (t : PendTrap) (s : State) : (stopAfter k seq snap t s).mem = s.mem := by
  simp [stopAfter]

@[simp] theorem wf_copySector (src dst : Nat) (s : State) (kept : Memory.wf s.mem = true) : Memory.wf (copySector src dst s).mem = true := by
  simp [copySector, wf_copyCells, kept]

@[simp] theorem wf_writeBack (t : Tile) (s : State) (kept : Memory.wf s.mem = true) : Memory.wf (writeBack t s).mem = true := by
  unfold writeBack
  split
  · exact kept
  · refine wf_foldl (fun s i kept => ?_) _ _ kept
    dsimp only
    split
    · exact kept
    · simp [kept]

@[simp] theorem wf_dropEvicted (whorl : Nat) (s : State) (kept : Memory.wf s.mem = true) : Memory.wf (dropEvicted whorl s).mem = true := by
  simp +contextual [dropEvicted, kept]

@[simp] theorem State.onAccess_mem (k seq : Nat) (f : Access → Access) (s : State) : (State.onAccess k seq f s).mem = s.mem := by
  simp [State.onAccess]

theorem wf_performElem (op : AccessOp) (m : Memory) (e : Elem) (kept : Memory.wf m = true) :
    Memory.wf (performElem op m e).1 = true := by
  unfold performElem
  dsimp only
  split <;> simp [wf_writeLocs, kept]

theorem wf_performElems (op : AccessOp) (m : Memory) (es : List Elem) (kept : Memory.wf m = true) :
    Memory.wf (performElems op m es).1 = true := by
  induction es generalizing m with
  | nil => exact kept
  | cons e es ih => simp [performElems, ih, wf_performElem, kept]

@[simp] theorem wf_applyWrite (w : Wave) (x : Access) (parts : List Elem) (s : State) (kept : Memory.wf s.mem = true) :
    Memory.wf (applyWrite w x parts s).1.mem = true :=
  by
  have performed := wf_performElems x.op s.mem parts kept
  simp only [applyWrite, State.mem_ite, noteAccess_mem, ite_self]
  rw [mem_foldl (by simp)]
  split <;> assumption

theorem wf_snapshotPage (launch page : Nat) (s : State) {t : State} (kept : Memory.wf s.mem = true)
    (h : snapshotPage launch page s = some t) :
    Memory.wf t.mem = true := by
  grind [snapshotPage, wf_copyHome]

theorem wf_beforeWrite (launch handle space : Nat) (locs : List Nat) (s : State) {t : State} (kept : Memory.wf s.mem = true)
    (h : beforeWrite launch handle space locs s = some t) :
    Memory.wf t.mem = true :=
  by
  unfold beforeWrite at h
  split at h
  · grind
  · split at h
    · grind
    · refine List.foldlRecOn (motive := fun r => ∀ t : State, r = some t → Memory.wf t.mem = true) _ _ ?_ ?_ t h
      · rintro _ ⟨⟩
        exact kept
      · intro r ih page _ t h
        grind [wf_snapshotPage]

@[simp] theorem wf_checkLocs (locs : List Nat) (s : State) (kept : Memory.wf s.mem = true) : Memory.wf (checkLocs locs s).mem = true := by
  simp [checkLocs, kept]

@[simp] theorem wf_performLine (k seq line : Nat) (s : State) (kept : Memory.wf s.mem = true) :
    Memory.wf (performLine k seq line s).mem = true := by
  grind [performLine, State.onAccess_mem, State.onWhorl_mem, State.setWave_mem, wf_applyWrite, wf_beforeWrite, wf_checkLocs]

@[simp] theorem wf_acksIn (line : Nat) (s : State) (kept : Memory.wf s.mem = true) : Memory.wf (acksIn line s).mem = true := by
  unfold acksIn
  (repeat' split) <;> simp_all

@[simp] theorem wf_countAck (core line : Nat) (s : State) (kept : Memory.wf s.mem = true) : Memory.wf (countAck core line s).mem = true := by
  grind [countAck, State.onWhorl_mem, wf_acksIn]

@[simp] theorem onContext_mem (tag : BitVec 8) (f : Context → Context) (s : State) : (onContext tag f s).mem = s.mem := by rfl

@[simp] theorem wakeDistaff_mem (tag : BitVec 8) (s : State) : (wakeDistaff tag s).mem = s.mem := by rfl

@[simp] theorem sendInvalidations_mem (home line : Nat) (cores : List Nat) (s : State) : (sendInvalidations home line cores s).mem = s.mem := by
  simp [sendInvalidations]

@[simp] theorem wf_beginWrite (k seq line : Nat) (s : State) (kept : Memory.wf s.mem = true) :
    Memory.wf (beginWrite k seq line s).mem = true := by
  simp [beginWrite, kept]

@[simp] theorem wf_serveLine (k seq line : Nat) (s : State) (kept : Memory.wf s.mem = true) : Memory.wf (serveLine k seq line s).mem = true := by
  unfold serveLine
  (repeat' split) <;> simp_all

@[simp] theorem wf_serveOwning (line : Nat) (s : State) (kept : Memory.wf s.mem = true) : Memory.wf (serveOwning line s).mem = true := by
  simp +contextual [serveOwning, kept]

@[simp] theorem releaseOpen_mem (team inst : Nat) (s : State) : (releaseOpen team inst s).mem = s.mem := by rfl

@[simp] theorem setBarrier_mem (team inst : Nat) (b : Barrier) (s : State) : (setBarrier team inst b s).mem = s.mem := by rfl

@[simp] theorem beginWait_mem (team inst : Nat) (phase : BitVec 32) {written : State → State} (same : ∀ s, (written s).mem = s.mem)
    (s : State) :
    (beginWait team inst phase written s).mem = s.mem :=
  by
  unfold beginWait
  dsimp only
  split <;> simp [same]

@[simp] theorem wf_carderFault (op : CarderOp) (access : BitVec 2) (fs : List (Nat × W64 × BitVec 8 × Nat × Bool)) (s : State)
    (kept : Memory.wf s.mem = true) :
    Memory.wf (carderFault op access fs s).mem = true := by
  simp [carderFault, kept]

@[simp] theorem popCarder_mem (floor : Nat) (s : State) : (popCarder floor s).mem = s.mem := by rfl

@[simp] theorem wf_carderStop (floor : Nat) (op : CarderOp) (cause : BitVec 8) (access : BitVec 2) (va : W64) (s : State)
    (kept : Memory.wf s.mem = true) :
    Memory.wf (carderStop floor op cause access va s).mem = true := by
  simp [carderStop, kept]

@[simp] theorem State.landFor_mem (k path seq : Nat) (s : State) : (State.landFor k path seq s).mem = s.mem := by simp [State.landFor]

@[simp] theorem wf_engineWrite (launch handle space : Nat) (owner : Option (BitVec 8)) (cells : List (Nat × Byte)) (s : State)
    (kept : Memory.wf s.mem = true) :
    Memory.wf (engineWrite launch handle space owner cells s).1.mem = true := by
  grind [engineWrite, askOwning_mem, noteAccess_mem, wf_beforeWrite, wf_homeWrite]

@[simp] theorem noteRound_mem (op : CarderOp) (ps : List Nat) (s : State) : (noteRound op ps s).mem = s.mem := by rfl

@[simp] theorem wf_commitRound (floor : Nat) (op : CarderOp) (chosen : List Candidate) (dirty : SMap W32)
    (dirtyLocs tokenLocs : List (List Nat)) (recordLocs : List Nat) (s : State) (kept : Memory.wf s.mem = true) :
    Memory.wf (commitRound floor op chosen dirty dirtyLocs tokenLocs recordLocs s).mem = true := by
  grind [commitRound, State.landFor_mem, askOwning_mem, noteIrreplaceable_mem, noteRound_mem, popCarder_mem, wf_beforeWrite, wf_endRound,
    wf_engineWrite, wf_homeWrite, wf_setSeqWord]

@[simp] theorem wf_runRound (floor : Nat) (op : CarderOp) (buffer : List Nat) (s : State) (kept : Memory.wf s.mem = true) :
    Memory.wf (runRound floor op buffer s).mem = true := by
  simp only [runRound]
  (repeat' split) <;> simp_all <;> grind [locsOf_mem, placeWords_mem, wf_carderFault, wf_carderStop, wf_commitRound]

@[simp] theorem wf_startRound (floor : Nat) (op : CarderOp) (s : State) (kept : Memory.wf s.mem = true) :
    Memory.wf (startRound floor op s).mem = true := by
  grind [startRound, takeSamples_mem, wf_carderFault, wf_carderStop, wf_setSeqWord]

@[simp] theorem askCarder_mem (round : Bool) (seqId : W32) (ptr p0 p1 : W64) (d : Nat) (s : State) :
    (askCarder round seqId ptr p0 p1 d s).mem = s.mem := by
  rfl

@[simp] theorem park_mem (i : Instr) (s : State) : (park i s).mem = s.mem := by rfl

@[simp] theorem wf_closeContext (tag : BitVec 8) {write : State → State}
    (step : ∀ s, Memory.wf s.mem = true → Memory.wf (write s).mem = true) (s : State) (kept : Memory.wf s.mem = true) :
    Memory.wf (closeContext tag write s).mem = true :=
  by
  unfold closeContext
  dsimp only
  split <;> simp [step, kept]

@[simp] theorem advanceNanotime_mem (s : State) : (advanceNanotime s).mem = s.mem := by rfl

@[simp] theorem askWords_mem (w : Wave) (va : W64) (n : Nat) (s : State) : (askWords w va n s).1.mem = s.mem := by
  grind [askWords, translateBytes_mem]

@[simp] theorem distaffWords_mem (w : Wave) (r : DistaffReq) (s : State) : (distaffWords w r s).1.mem = s.mem := by
  grind [distaffWords, askWords_mem]

@[simp] theorem wf_admissionPoint (tag : BitVec 8) (s : State) (kept : Memory.wf s.mem = true) : Memory.wf (admissionPoint tag s).mem = true := by
  simp [admissionPoint, kept]

@[simp] theorem wf_armGuard (tag slot : BitVec 8) (s : State) (kept : Memory.wf s.mem = true) : Memory.wf (armGuard tag slot s).mem = true := by
  grind [armGuard, wf_settleGuard, wf_writeGuard]

@[simp] theorem wf_distaffBlocked (tag : BitVec 8) (va : W64) (s : State) (kept : Memory.wf s.mem = true) :
    Memory.wf (distaffBlocked tag va s).mem = true := by
  unfold distaffBlocked
  (repeat' split) <;> simp_all

theorem wf_beginStep (tag : BitVec 8) (n : Nat) (batch : List Nat) (guarded : Bool) (s : State) (kept : Memory.wf s.mem = true) (t : State)
    (h : beginStep tag n batch guarded s = .inl t ∨ beginStep tag n batch guarded s = .inr t) :
    Memory.wf t.mem = true :=
  by
  unfold beginStep at h
  dsimp only at h
  split at h
  · rcases h with h | h <;> cases h
    exact wf_distaffBlocked _ _ _ kept
  · rcases h with h | h <;> cases h
    have stored := wf_foldl (fun (s : State) (w : W64 × W64) => wf_storeFor tag w.1 [w.2] s)
    split <;> simp [stored, kept]

@[simp] theorem meetEarly_mem (l : Launch) (s : State) : (meetEarly l s).mem = s.mem := by
  unfold meetEarly
  refine mem_foldl (fun s w => ?_) _ _
  split
  · rfl
  · split <;> simp

@[simp] theorem wf_enterLaunch (tag : BitVec 8) (ws : List W64) (lrec : W64) (hs : List W32) (extra : List Dep) (s : State)
    (kept : Memory.wf s.mem = true) :
    Memory.wf (enterLaunch tag ws lrec hs extra s).mem = true :=
  by
  unfold enterLaunch
  dsimp only
  split
  · simp [kept]
  · rw [makeEligible_mem, mem_foldl]
    · exact kept
    · intro s d
      split
      · split <;> simp
      · rfl

@[simp] theorem wf_launchError (tag : BitVec 8) (ws : List W64) (lrec : W64) (code : BitVec 8) (va : W64) (s : State)
    (kept : Memory.wf s.mem = true) :
    Memory.wf (launchError tag ws lrec code va s).mem = true := by
  simp [launchError, kept]

@[simp] theorem wf_checkLaunch (tag : BitVec 8) (ws : List W64) (lrec : W64) (distaff : Bool) (extra : List Dep) (s : State)
    (kept : Memory.wf s.mem = true) :
    Memory.wf (checkLaunch tag ws lrec distaff extra s).1.mem = true :=
  by
  unfold checkLaunch
  dsimp only
  split_ifs
  iterate 4 exact wf_launchError _ _ _ _ _ _ kept
  split
  · next h => exact wf_of_eq h (wf_cpRead _ _ _ _ _ _ _ kept)
  · next h => exact wf_launchError _ _ _ _ _ _ (wf_of_eq h (wf_cpRead _ _ _ _ _ _ _ kept))
  · next h =>
    have header := wf_of_eq h (wf_cpRead _ _ _ _ _ _ _ kept)
    split
    · next h => exact wf_of_eq h (wf_cpRead _ _ _ _ _ _ _ header)
    · next h => exact wf_launchError _ _ _ _ _ _ (wf_of_eq h (wf_cpRead _ _ _ _ _ _ _ header))
    · next h =>
      have handles := wf_of_eq h (wf_cpRead _ _ _ _ _ _ _ header)
      split_ifs
      iterate 4 exact wf_launchError _ _ _ _ _ _ handles
      exact wf_enterLaunch _ _ _ _ _ _ handles

@[simp] theorem wf_submitChain (tag : BitVec 8) (n : Nat) (guarded : Bool) (fuel k : Nat) (s : State) (kept : Memory.wf s.mem = true) :
    Memory.wf (submitChain tag n guarded fuel k s).mem = true :=
  by
  induction fuel generalizing k s with
  | zero =>
    delta submitChain
    exact kept
  | succ fuel ih =>
    delta submitChain
    dsimp only
    generalize below : @Nat.rec _ _ _ fuel = rest
    have same : rest.1 = submitChain tag n guarded fuel := by
      rw [← below]
      delta submitChain
      rfl
    rw [← same] at ih
    delta submitChain._f
    dsimp only
    split
    · next h =>
      rw [onDistaff_mem]
      exact wf_of_eq h (wf_cpRead _ _ _ _ _ _ _ kept)
    · next h =>
      apply wf_launchError
      rw [onDistaff_mem]
      exact wf_of_eq h (wf_cpRead _ _ _ _ _ _ _ kept)
    · next h =>
      have record := wf_of_eq h (wf_cpRead _ _ _ _ _ _ _ kept)
      split
      · next h =>
        rw [onDistaff_mem]
        exact wf_of_eq h (wf_checkLaunch _ _ _ _ _ _ record)
      · next h => exact ih _ _ (wf_of_eq h (wf_checkLaunch _ _ _ _ _ _ record))

@[simp] theorem secondAfter_mem (f : FaultRec) (s : State) : (secondAfter f s).mem = s.mem := by
  have later : ∀ due : W64, (if s.nanotime.toNat < due.toNat then { s with nanotime := due } else s).mem = s.mem := by
    intro due
    split <;> rfl
  delta secondAfter
  exact later _

@[simp] theorem discardFetched_mem (s : State) : (discardFetched s).mem = s.mem := by rfl

@[simp] theorem wf_refill (sector : Nat) (s : State) (kept : Memory.wf s.mem = true) : Memory.wf (refill sector s).mem = true := by
  unfold refill
  (repeat' split) <;> simp_all

@[simp] theorem wf_copyFrame (src dst : Nat) (owner : Option (BitVec 8)) (s : State) (kept : Memory.wf s.mem = true) :
    Memory.wf (copyFrame src dst owner s).mem = true := by
  simp [copyFrame, kept]

@[simp] theorem removeTiles_mem (loc : Nat) (s : State) : (removeTiles loc s).mem = s.mem := by
  have same : ∀ (lines tiles : List Nat),
      State.mem (let s := lines.foldl (fun s i => invalidateNow (loc / 128 + i) s) s
        { s with whorls := mapEntries (fun _ h =>
          { h.dropTiles (fun t => tiles.contains t.tile) with
            fills := h.fills.filter (fun f => !tiles.contains (f.sector / 64)) }) s.whorls }) = s.mem :=
    fun lines _ => mem_foldl (by simp) lines s
  exact same (List.range 512) ((List.range 16).map (loc / 4096 + ·))

@[simp] theorem wf_resolveRetry (tag : BitVec 8) (index : Nat) (s : State) (kept : Memory.wf s.mem = true) :
    Memory.wf (resolveRetry tag index s).mem = true := by
  unfold resolveRetry
  (repeat' split) <;> simp_all

@[simp] theorem wf_retryPage (tag : BitVec 8) (va : W64) (s : State) (kept : Memory.wf s.mem = true) :
    Memory.wf (retryPage tag va s).mem = true :=
  by
  refine wf_foldl (fun s i kept => ?_) _ _ kept
  split
  · split <;> simp [kept]
  · exact kept

@[simp] theorem wf_finishMove (m : PageMove) (s : State) (kept : Memory.wf s.mem = true) : Memory.wf (finishMove m s).mem = true := by
  unfold finishMove
  dsimp only
  apply wf_retryPage
  rw [State.mem_ite, removeTiles_mem, ite_self]
  apply wf_homeWords
  apply wf_copyFrame
  split <;> simp [kept]

@[simp] theorem wf_pagesOn (loc : Nat) (s : State) (kept : Memory.wf s.mem = true) : Memory.wf (pagesOn loc s).1.mem = true := by
  simp +contextual [pagesOn, kept]

@[simp] theorem wf_startMove (m : PageMove) (s : State) (kept : Memory.wf s.mem = true) : Memory.wf (startMove m s).mem = true := by
  simp [startMove, kept]

@[simp] theorem wf_retireFrame (tier : Bool) (frame : Nat) (reason : BitVec 8) (owner : Option (BitVec 8)) (s : State)
    (kept : Memory.wf s.mem = true) :
    Memory.wf (retireFrame tier frame reason owner s).mem = true :=
  by
  unfold retireFrame
  split
  · exact kept
  · dsimp only
    rw [removeTiles_mem]
    refine wf_foldl (fun s x kept => ?_) _ _ (wf_pagesOn _ _ kept)
    split
    · exact wf_finishMove _ _ (wf_startMove _ _ (by simp [kept]))
    · simp [kept]

@[simp] theorem answerWord_mem (k seq r : Nat) (status : W64) (s : State) : (answerWord k seq r status s).mem = s.mem := by
  simp [answerWord]

theorem wf_placeAt (cls loc core : Nat) (tag : BitVec 8) (s : State) {c : Nat} {t : State} (kept : Memory.wf s.mem = true)
    (h : placeAt cls loc core tag s = some (c, t)) :
    Memory.wf t.mem = true := by
  grind [placeAt, State.onWhorl_mem, wf_moveTile]

@[simp] theorem refuse_mem (k seq line : Nat) (reason : BitVec 2) (hint : BitVec 6) (s : State) :
    (refuse k seq line reason hint s).mem = s.mem := by
  simp [refuse]

@[simp] theorem wf_acceptWord (k : Nat) (x : Access) (line r cls : Nat) (urgent : Bool) (s : State) (kept : Memory.wf s.mem = true) :
    Memory.wf (acceptWord k x line r cls urgent s).1.mem = true := by
  grind [acceptWord, answerWord_mem, refuse_mem, wf_placeAt]

@[simp] theorem pinAccess_mem (k seq line : Nat) (x : Access) (s : State) : (pinAccess k seq line x s).mem = s.mem := by simp [pinAccess]

@[simp] theorem wf_acceptOne (k seq line : Nat) (urgent : Bool) (s : State) (kept : Memory.wf s.mem = true) :
    Memory.wf (acceptOne k seq line urgent s).1.mem = true :=
  by
  unfold acceptOne
  split
  · exact kept
  · extract_lets home tile core s1 pinned s2 s3 h urgent moves inPlace missing sectors need full s4 moved s5 s6 s7
    have kept2 : Memory.wf s2.mem = true := by
      dsimp only [s2]
      split <;> simp [pinned, s1, kept]
    have kept3 : Memory.wf s3.mem = true := by
      dsimp only [s3]
      split <;> simp [kept2]
    have kept4 : Memory.wf moved.mem = true := by
      dsimp only [moved]
      split <;> simp [s4, kept3]
    have kept5 : Memory.wf s5.mem = true := by
      dsimp only [s5]
      split
      · exact kept4
      · simp [s4, kept3]
    have kept6 : Memory.wf s6.mem = true := by
      dsimp only [s6]
      split <;> simp [kept5]
    split
    · exact wf_acceptWord _ _ _ _ _ _ _ kept
    · clear_value s1 s2 s3 s4 s5 s6
      split
      · simp [kept]
      · split
        · simp [kept3]
        · split
          · simp [kept3]
          · split
            · simp [kept6]
            · simp [s7, kept6]

@[simp] theorem wf_acceptAll (whorl : Nat) (capped : Bool) (ws : List Want) (taken : List Nat) (skipped : List Want) (s : State)
    (kept : Memory.wf s.mem = true) :
    Memory.wf (acceptAll whorl capped ws taken skipped s).1.mem = true :=
  by
  fun_induction acceptAll whorl capped ws taken skipped s with
  | case1 => exact kept
  | case2 _ _ _ _ _ _ ih => exact ih kept
  | case3 w _ _ _ s _ s' h ih => exact ih (by have := wf_acceptOne w.wave w.seq w.line w.urgent s kept; rwa [h] at this)
  | case4 w _ _ _ s _ s' h ih => exact ih (by have := wf_acceptOne w.wave w.seq w.line w.urgent s kept; rwa [h] at this)

@[simp] theorem wf_correctedAt (sector : Nat) (s : State) (kept : Memory.wf s.mem = true) : Memory.wf (correctedAt sector s).mem = true := by
  grind [correctedAt, State.onWhorl_mem, wf_correctedError]

@[simp] theorem dropLine_mem (core line : Nat) (s : State) : (dropLine core line s).mem = s.mem := by simp [dropLine]

@[simp] theorem wf_errorArises (e : Nat × SectorError) (s : State) (kept : Memory.wf s.mem = true) : Memory.wf (errorArises e s).mem = true := by
  unfold errorArises
  (repeat' split) <;> simp_all

@[simp] theorem wf_evictTile (whorl tile : Nat) (s : State) (kept : Memory.wf s.mem = true) : Memory.wf (evictTile whorl tile s).mem = true := by
  simp only [evictTile]
  (repeat' split) <;> simp_all

@[simp] theorem wf_evictDue (whorl : Nat) (s : State) (kept : Memory.wf s.mem = true) : Memory.wf (evictDue whorl s).mem = true := by
  simp +contextual [evictDue, kept]

@[simp] theorem wf_startHeldAt (whorl : Nat) (s : State) (kept : Memory.wf s.mem = true) : Memory.wf (startHeldAt whorl s).mem = true := by
  simp +contextual [startHeldAt, kept]

@[simp] theorem wf_drainEgress (s : State) (kept : Memory.wf s.mem = true) : Memory.wf (drainEgress s).mem = true := by
  unfold drainEgress
  rw [mem_foldl (by simp)]
  exact List.foldlRecOn (motive := fun m => Memory.wf m = true) _ _ kept fun m kept e _ => wf_writeBytes e.data e.loc kept

@[simp] theorem enterStage_mem (stage : BitVec 4) (s : State) : (enterStage stage s).mem = s.mem := by rfl

@[simp] theorem takeMeasurements_mem (s : State) : (takeMeasurements s).mem = s.mem := by rfl

@[simp] theorem wf_warmReset (ask : Bool) (s : State) (kept : Memory.wf s.mem = true) : Memory.wf (warmReset ask s).mem = true := by
  unfold warmReset
  dsimp only
  rw [takeMeasurements_mem, enterStage_mem]
  exact wf_filter _ (wf_drainEgress _ (wf_terminateAll _ kept))

@[simp] theorem gangFails_mem (op : MatrixOp) (k : Nat) (members : List Nat) (s : State) : (gangFails op k members s).mem = s.mem := by
  simp [gangFails]

@[simp] theorem leaveGangs_mem (team wid : Nat) (s : State) : (leaveGangs team wid s).mem = s.mem := by grind [leaveGangs, gangFails_mem]

@[simp] theorem wf_finishLaunch (k : Nat) (s : State) (kept : Memory.wf s.mem = true) : Memory.wf (finishLaunch k s).mem = true := by
  unfold finishLaunch
  (repeat' split) <;> simp_all

@[simp] theorem wf_retireTeam (team : Nat) (s : State) (kept : Memory.wf s.mem = true) : Memory.wf (retireTeam team s).mem = true := by
  grind [retireTeam, wf_dropTeam, wf_finishLaunch]

@[simp] theorem wf_leaveTeam (team : Nat) (s : State) (kept : Memory.wf s.mem = true) : Memory.wf (leaveTeam team s).mem = true := by
  unfold leaveTeam
  (repeat' split) <;> simp_all

@[simp] theorem wf_retireWave (s : State) (kept : Memory.wf s.mem = true) : Memory.wf (retireWave s).mem = true := by
  grind [retireWave, leaveGangs_mem, misuseBy_mem, wf_dropWave, wf_leaveTeam]

@[simp] theorem spindleDone_mem (core : Nat) (c : SpindleCmd) (s : State) : (spindleDone core c s).mem = s.mem := by simp [spindleDone]

@[simp] theorem wf_landCopy (core : Nat) (c : SpindleCmd) (pairs : List (Option Nat × Nat)) (bs : List (Byte × Bool)) (s : State)
    (kept : Memory.wf s.mem = true) :
    Memory.wf (landCopy core c pairs bs s).mem = true := by
  grind [landCopy, spindleDone_mem, wf_engineWrite]

@[simp] theorem mapPieces_mem (w : Wave) (cache : Cache) (ps : List Piece) (s : State) : (mapPieces w cache ps s).1.mem = s.mem := by
  fun_induction mapPieces w cache ps s <;> grind [locsOf_mem]

@[simp] theorem noteSource_mem (launch : Nat) (env : Env) (handle : Nat) (s : State) : (noteSource launch env handle s).mem = s.mem := by
  unfold noteSource
  (repeat' split) <;> simp

@[simp] theorem onHead_mem (core : Nat) (f : SpindleCmd → SpindleCmd) (s : State) : (onHead core f s).mem = s.mem := by rfl

@[simp] theorem spindleStop_mem (core : Nat) (c : SpindleCmd) (cause : BitVec 8) (access : BitVec 2) (va : W64) (s : State) :
    (spindleStop core c cause access va s).mem = s.mem := by
  simp [spindleStop]

@[simp] theorem wf_readIndex (core : Nat) (c : SpindleCmd) (s : State) (kept : Memory.wf s.mem = true) :
    Memory.wf (readIndex core c s).1.mem = true := by
  grind [readIndex, locsOf_mem, noteSource_mem, onHead_mem, spindleStop_mem, wf_checkLocs, wf_engineFault]

@[simp] theorem wf_answerCommand (core : Nat) (c : SpindleCmd) (poisoned : Bool) (s : State) (kept : Memory.wf s.mem = true) :
    Memory.wf (answerCommand core c poisoned s).mem = true := by
  grind [answerCommand, mapPieces_mem, noteSource_mem, onHead_mem, spindleStop_mem, wf_landCopy, wf_readIndex]

@[simp] theorem wf_completeRemote (k : Nat) (x : Access) (poisoned : Bool) (s : State) (kept : Memory.wf s.mem = true) :
    Memory.wf (completeRemote k x poisoned s).mem = true :=
  by
  have performed : ∀ (c : Prop) [Decidable c] (t : State) (es : List Elem), t.mem = s.mem →
      Memory.wf (if c then performElems x.op t.mem x.elems else (t.mem, es)).1 = true := by
    intro c _ t es same
    rw [same]
    split
    · exact wf_performElems _ _ _ kept
    · exact kept
  unfold completeRemote
  dsimp only
  split <;> simp only [State.setWave_mem, State.onAccess_mem, noteAccess_mem] <;> exact performed _ _ _ (mem_foldl (by simp) _ _)

@[simp] theorem finishFenceh_mem (k : Nat) (refused : Bool) (s : State) : (finishFenceh k refused s).mem = s.mem := by
  grind [finishFenceh, State.focusOn_mem, State.landFor_mem, State.setWave_mem, advance_mem, terminate_mem]

@[simp] theorem refuseCommand_mem (core : Nat) (c : SpindleCmd) (s : State) : (refuseCommand core c s).mem = s.mem := by
  simp [refuseCommand]

@[simp] theorem refuseRemote_mem (k : Nat) (x : Access) (s : State) : (refuseRemote k x s).mem = s.mem := by simp [refuseRemote]

@[simp] theorem popQueue_mem (tag : BitVec 8) (level : Nat) (lrec : W64) (s : State) : (popQueue tag level lrec s).mem = s.mem := by rfl

@[simp] theorem passSince_mem (l : Launch) (ns : Nat) (s : State) : (passSince l ns s).mem = s.mem := by simp [passSince]

@[simp] theorem deliverAccess_mem (k : Nat) (x : Access) (s : State) : (deliverAccess k x s).mem = s.mem := by simp [deliverAccess]

@[simp] theorem allocateNear_mem (core line : Nat) (s : State) : (allocateNear core line s).mem = s.mem := by
  grind [allocateNear, State.onCore_mem, dropLine_mem]

@[simp] theorem lineArrives_mem (k : Nat) (x : Access) (r : Req) (s : State) : (lineArrives k x r s).mem = s.mem := by simp [lineArrives]

@[simp] theorem cacheEntry_mem (x : WalkEntry) (s : State) : (cacheEntry x s).mem = s.mem := by rfl

@[simp] theorem wf_endWalk (k : PageWalk) (part level table : Nat) (s : State) (kept : Memory.wf s.mem = true) :
    Memory.wf (endWalk k part level table s).mem = true := by
  grind [endWalk, tlbFill_mem, wf_orEntry]

@[simp] theorem wf_stepWalk (k : PageWalk) (s : State) (kept : Memory.wf s.mem = true) : Memory.wf (stepWalk k s).mem = true := by
  grind [stepWalk, cacheEntry_mem, wf_endWalk]

theorem wf_performLogged (k : Nat) (x : Access) (s : State) {t : State} (kept : Memory.wf s.mem = true) (h : performLogged k x s = some t) :
    Memory.wf t.mem = true :=
  by
  unfold performLogged at h
  obtain ⟨s', h', rfl⟩ := Option.map_eq_some_iff.1 h
  have written := wf_beforeWrite _ _ _ _ _ kept h'
  grind [wf_applyWrite, mem_foldl, invalidateNow_mem, stopLaunch_mem]

theorem wf_performLog (k : Nat) (xs : List Access) (s : State) {t : State} (kept : Memory.wf s.mem = true)
    (h : performLog k xs s = some t) :
    Memory.wf t.mem = true :=
  by
  induction xs generalizing s with
  | nil => grind [performLog]
  | cons x xs ih =>
    obtain ⟨s', h', h⟩ := Option.bind_eq_some_iff.1 h
    exact ih _ (wf_performLogged _ _ _ kept h') h

@[simp] theorem wf_replayLaunch (k : Nat) (damaged : Option Nat) (s : State) (kept : Memory.wf s.mem = true) :
    Memory.wf (replayLaunch k damaged s).mem = true := by
  simp only [replayLaunch]
  (repeat' split) <;> simp_all
  grind [wf_killLaunch, wf_restoreSnapshots, wf_retireFrame]

@[simp] theorem completeAttn_mem (wave : Nat) (op : AttnOp) (s : State) : (completeAttn wave op s).mem = s.mem := by simp [completeAttn]

@[simp] theorem wf_completeHere (k : Nat) (x : Access) (s : State) (kept : Memory.wf s.mem = true) :
    Memory.wf (completeHere k x s).mem = true := by
  simp only [completeHere]
  (repeat' split) <;> simp_all

@[simp] theorem decide'_mem (sector : Nat) (tag : BitVec 8) (s : State) : (decide' sector tag s).mem = s.mem := by rfl

@[simp] theorem dropPort_mem (r : Nat) (s : State) : (dropPort r s).mem = s.mem := by rfl

@[simp] theorem stepPlaces_mem (w : Wave) (p : PortStep) (offs : List (Nat × Nat)) (s : State) : (stepPlaces w p offs s).1.mem = s.mem := by
  fun_induction stepPlaces w p offs s <;> grind [checkAccess_mem]

@[simp] theorem fetchNext_mem (wave r ahead total : Nat) (s : State) : (fetchNext wave r ahead total s).mem = s.mem := by
  grind [fetchNext, State.focusOn_mem, State.onWave_mem, nearTouched_mem, stepPlaces_mem]

@[simp] theorem startCommand_mem (code : Nat) (s : State) : (startCommand code s).mem = s.mem := by
  unfold startCommand
  (repeat' split) <;> simp

@[simp] theorem wf_toHost (a : W64) (ws : List W64) (s : State) (kept : Memory.wf s.mem = true) : Memory.wf (toHost a ws s).mem = true := by
  simp [toHost, kept]

@[simp] theorem wf_withUnits (team : Nat) (l : Launch) (block : Nat × Nat) {k : State → State}
    (step : ∀ s, Memory.wf s.mem = true → Memory.wf (k s).mem = true) (s : State) (kept : Memory.wf s.mem = true) :
    Memory.wf (withUnits team l block k s).mem = true :=
  by
  unfold withUnits
  dsimp only
  split
  · split <;> simp [step, kept]
  · simp [kept]

@[simp] theorem wf_storeUnits (tag : BitVec 8) (fuel : Nat) (va : W64) (bs : List Byte) (s : State) (kept : Memory.wf s.mem = true) :
    Memory.wf (storeUnits tag fuel va bs s).mem = true :=
  by
  fun_induction storeUnits tag fuel va bs s with
  | case1 => exact kept
  | case2 => exact kept
  | case3 fuel va bs s _ next ih =>
    apply ih
    dsimp only [next]
    split
    · apply wf_homeWrite
      cases h : orEntry tag _ (usedBits true) s with
      | none => exact kept
      | some t => exact wf_orEntry _ _ _ _ kept h
    · exact kept

@[simp] theorem wf_writeBlock (team : Nat) (s : State) (kept : Memory.wf s.mem = true) : Memory.wf (writeBlock team s).mem = true := by
  unfold writeBlock
  (repeat' split) <;> simp_all

@[simp] theorem askDistaff_mem (u : Use) (stepq : Bool) (d : Nat) (rs : List Nat) (arg : W64) (seqId : W32) (s : State) :
    (askDistaff u stepq d rs arg seqId s).mem = s.mem := by
  simp [askDistaff]

@[simp] theorem endAccesses_mem (node k : Nat) (s : State) : (endAccesses node k s).mem = s.mem := by
  unfold endAccesses
  (repeat' split) <;> simp

@[simp] theorem answerLater_mem (u : Use) (path : Nat) (writes : List RegWrite) (vregs sregs : List Nat) (s : State) :
    (answerLater u path writes vregs sregs s).mem = s.mem := by
  simp [answerLater]

@[simp] theorem markYield_mem (s : State) : (markYield s).mem = s.mem := by rfl

@[simp] theorem writeSpr_mem (n : Nat) (x : W64) (s : State) : (writeSpr n x s).mem = s.mem := by simp [writeSpr]

@[simp] theorem wf_runCopy (core : Nat) (c : SpindleCmd) (pieces : List Piece) (s : State) (kept : Memory.wf s.mem = true) :
    Memory.wf (runCopy core c pieces s).mem = true := by
  grind [runCopy, mapPieces_mem, noteSource_mem, onHead_mem, spindleStop_mem, wf_checkLocs, wf_engineFault, wf_landCopy]

@[simp] theorem wf_runCommand (core : Nat) (c : SpindleCmd) (s : State) (kept : Memory.wf s.mem = true) :
    Memory.wf (runCommand core c s).mem = true := by
  grind [runCommand, onHead_mem, spindleStop_mem, wf_readIndex, wf_runCopy]

@[simp] theorem releaseRegion_mem (tag : BitVec 8) (desc base : W64) (s : State) : (releaseRegion tag desc base s).mem = s.mem := by rfl

@[simp] theorem slabLines_mem (core : Nat) (tag : BitVec 8) (xs : List (W64 × W64)) (s : State) : (slabLines core tag xs s).1.mem = s.mem := by
  fun_induction slabLines core tag xs s <;> grind [translate_mem]

@[simp] theorem wf_runMove (core : Nat) (c : SpindleCmd) (s : State) (kept : Memory.wf s.mem = true) :
    Memory.wf (runMove core c s).mem = true :=
  by
  unfold runMove
  dsimp only
  split
  · next h => exact wf_of_eq h (by simp [kept])
  · next h => 
    rw [spindleStop_mem]; exact wf_of_eq h (by simp [kept])
  · next h => exact wf_engineFault _ _ _ _ _ _ (wf_of_eq h (by simp [kept]))
  · next h =>
    have read := wf_of_eq h (by simp [kept])
    split
    · split_ifs
      · simp [read]
      · simp [read]
      · exact read
      · simp [read]
      · split
        · next h => exact wf_of_eq h (wf_engineWrite _ _ _ _ _ _ read)
        · next h =>
          rw [onHead_mem]
          exact wf_of_eq h (wf_engineWrite _ _ _ _ _ _ read)
    · split_ifs
      · exact read
      · split
        · next h => exact wf_engineFault _ _ _ _ _ _ (wf_of_eq h (by simp [read]))
        · next h =>
          have lines := wf_of_eq h (by simp [read])
          split
          · next h => exact wf_of_eq h (wf_engineWrite _ _ _ _ _ _ lines)
          · next h =>
            have copied := wf_of_eq h (wf_engineWrite _ _ _ _ _ _ lines)
            split
            · next h => exact wf_of_eq h (wf_engineWrite _ _ _ _ _ _ copied)
            · next h =>
              rw [onHead_mem]
              exact wf_of_eq h (wf_engineWrite _ _ _ _ _ _ copied)
      · split
        · next h => exact wf_of_eq h (wf_engineWrite _ _ _ _ _ _ read)
        · next h =>
          simp only [spindleDone_mem, releaseRegion_mem]
          exact wf_of_eq h (wf_engineWrite _ _ _ _ _ _ read)

@[simp] theorem wf_applyStep (tag : BitVec 8) (slot : Nat) (s : State) (kept : Memory.wf s.mem = true) :
    Memory.wf (applyStep tag slot s).mem = true := by
  grind [applyStep, onDistaff_mem, wf_setSeqWord]

@[simp] theorem State.onOldest_mem (k : Nat) (f : Access → Access) (s : State) : (State.onOldest k f s).mem = s.mem := by
  simp [State.onOldest]

theorem wf_leaveBuffer (k : Nat) (x : Access) (s : State) {t : State} (kept : Memory.wf s.mem = true) (h : leaveBuffer k x s = some t) :
    Memory.wf t.mem = true := by
  grind [leaveBuffer, State.onOldest_mem, State.setWave_mem, noteAccess_mem, wf_beforeWrite]

@[simp] theorem countTeam_mem (k : Nat) (s : State) : (countTeam k s).mem = s.mem := by rfl

@[simp] theorem fixLaunch_mem (k : Nat) (bs : List Byte) (s : State) : (fixLaunch k bs s).mem = s.mem := by rfl

@[simp] theorem pinTeam_mem (team core : Nat) (d : Demand) (tag : BitVec 8) (s : State) : (pinTeam team core d tag s).mem = s.mem := by
  simp [pinTeam]

@[simp] theorem startWaves_mem (k : Nat) (l : Launch) (team core : Nat) (s : State) : (startWaves k l team core s).mem = s.mem := by
  simp [startWaves]

@[simp] theorem wakeCore_mem (core : Nat) (s : State) : (wakeCore core s).mem = s.mem := by simp [wakeCore]

@[simp] theorem wakeCores_mem (core : Nat) (twin : Bool) (s : State) : (wakeCores core twin s).mem = s.mem := by simp [wakeCores]

@[simp] theorem placeCopy_mem (k core : Nat) (l : Launch) (partner : Option Nat) (s : State) : (placeCopy k core l partner s).1.mem = s.mem := by
  simp [placeCopy]

@[simp] theorem tiePair_mem (a b : Nat) (s : State) : (tiePair a b s).mem = s.mem := by rfl

def Placed.Canonical : Placed → Prop
  | .placed t => Memory.wf t.mem = true
  | .waits t => Memory.wf t.mem = true
  | .full => True

theorem placeTeam_canonical (k : Nat) (l : Launch) (s : State) (kept : Memory.wf s.mem = true) : (placeTeam k l s).Canonical := by
  unfold placeTeam
  dsimp only
  (repeat' split) <;> grind [Placed.Canonical, placeCopy_mem, countTeam_mem, tiePair_mem, wf_cpRead, wf_postTerminating, fixLaunch_mem, wf_endLaunch]

@[simp] theorem wf_placePass (ls : List (Nat × Launch)) (held : List Nat) (s : State) (kept : Memory.wf s.mem = true) :
    Memory.wf (placePass ls held s).1.mem = true :=
  by
  fun_induction placePass ls held s <;> grind [placeTeam_canonical, Placed.Canonical]

@[simp] theorem wf_placeAll' (n : Nat) (s : State) (kept : Memory.wf s.mem = true) : Memory.wf (placeAll' n s).mem = true := by
  fun_induction placeAll' n s <;> grind [wf_placePass]

@[simp] theorem wf_dropScratchTiles (team whorl : Nat) (s : State) (kept : Memory.wf s.mem = true) :
    Memory.wf (dropScratchTiles team whorl s).mem = true := by
  simp +contextual [dropScratchTiles, kept]

@[simp] theorem moveWave_mem (old new : Nat) (w : Wave) (s : State) : (moveWave old new w s).mem = s.mem := by simp [moveWave]

@[simp] theorem rekey_mem (moves : List (Nat × Nat)) (s : State) : (rekey moves s).mem = s.mem := by rfl

@[simp] theorem undoAhead_mem (k : Nat) (s : State) : (undoAhead k s).mem = s.mem := by simp [undoAhead]

@[simp] theorem haltTeam_mem (team : Nat) (s : State) : (haltTeam team s).mem = s.mem := by simp [haltTeam]

@[simp] theorem wf_leaveUnsaved (team : Nat) (s : State) (kept : Memory.wf s.mem = true) : Memory.wf (leaveUnsaved team s).mem = true := by
  unfold leaveUnsaved
  apply wf_dropTeam
  exact wf_foldl (fun s e kept => wf_dropWave e.1 s kept) _ _ kept

@[simp] theorem wf_writeBackTeam (team : Nat) (s : State) (kept : Memory.wf s.mem = true) : Memory.wf (writeBackTeam team s).mem = true := by
  simp +contextual [writeBackTeam, kept]

@[simp] theorem wf_saveTeam (team unit : Nat) (l : Launch) (s : State) (kept : Memory.wf s.mem = true) :
    Memory.wf (saveTeam team unit l s).mem = true :=
  by
  unfold saveTeam
  dsimp only
  apply wf_writeBlock
  apply wf_writeUnits
  rw [rekey_mem]
  refine wf_foldl (fun s e kept => by simp [kept]) _ _ ?_
  simp [kept]

theorem wf_commitAccess (x : Access) (s : State) {t : State} {bad : Option W64} (kept : Memory.wf s.mem = true)
    (h : commitAccess x s = some (t, bad)) :
    Memory.wf t.mem = true :=
  by
  grind [commitAccess, wf_beforeWrite, wf_checkLocs, wf_applyWrite, State.onWave_mem]

theorem wf_commitAll (xs : List Access) (s : State) {t : State} {bad : Option W64} (kept : Memory.wf s.mem = true)
    (h : commitAll xs s = some (t, bad)) :
    Memory.wf t.mem = true :=
  by
  induction xs generalizing s t bad with
  | nil => grind [commitAll]
  | cons x xs ih =>
    unfold commitAll at h
    split at h
    · cases h
    · next s' _ h' =>
      obtain ⟨r, hr, e⟩ := Option.map_eq_some_iff.1 h
      cases e
      exact ih s' (wf_commitAccess _ _ kept h') hr

@[simp] theorem committed_mem (t : Txn) (losers : W64) (s : State) : (committed t losers s).mem = s.mem := by simp [committed]

@[simp] theorem followCommit_mem (t : Txn) (losers : W64) (xs : List Access) (s : State) : (followCommit t losers xs s).mem = s.mem := by
  unfold followCommit
  (repeat' split) <;> simp

@[simp] theorem othersLose_mem (line : Nat) (s : State) : (othersLose line s).mem = s.mem := by simp [othersLose]

@[simp] theorem lockLine_mem (line : Nat) (s : State) : (lockLine line s).mem = s.mem := by simp [lockLine]

@[simp] theorem lockLines_mem (ls : List Nat) (s : State) : (lockLines ls s).1.mem = s.mem := by fun_induction lockLines ls s <;> simp_all

@[simp] theorem setTrans_mem (quarter : Nat) (q : List TransOp) (s : State) : (setTrans quarter q s).mem = s.mem := by rfl

@[simp] theorem returnFromHandler_mem (s : State) : (returnFromHandler s).mem = s.mem := by rfl

@[simp] theorem refuseWord_mem (u : Use) (d : BitVec 7) (h : BitVec 6) (x : Handle) (cls loc : Nat) (va : W64) (s : State) :
    (refuseWord u d h x cls loc va s).mem = s.mem := by
  simp [refuseWord]

@[simp] theorem deliverMisuse_mem (t : PendTrap) (s : State) : (deliverMisuse t s).mem = s.mem := by simp [deliverMisuse]

@[simp] theorem deliverPending_mem (t : PendTrap) (s : State) : (deliverPending t s).mem = s.mem := by simp [deliverPending]

@[simp] theorem wf_foresee (s : State) (k : Nat) (kept : Memory.wf s.mem = true) : Memory.wf (foresee s k).mem = true := by
  unfold foresee
  (repeat' split) <;> simp_all

@[simp] theorem unissue_mem (x : Access) (p : Pending) (s : State) : (unissue x p s).mem = s.mem := by simp [unissue]

@[simp] theorem wf_pendingFails (x : Access) (p : Pending) (fs : List (Nat × W64 × BitVec 8 × Nat × Bool)) (s : State)
    (kept : Memory.wf s.mem = true) :
    Memory.wf (pendingFails x p fs s).mem = true := by
  unfold pendingFails
  (repeat' split) <;> simp_all

@[simp] theorem wf_resolvePending (k : Nat) (x : Access) (s : State) (kept : Memory.wf s.mem = true) :
    Memory.wf (resolvePending k x s).mem = true := by
  grind [resolvePending, State.focusOn_mem, State.onWave_mem, checkPlaces_mem, nearTouched_mem, wf_pendingFails]

@[simp] theorem wf_retryPending (s : State) (kept : Memory.wf s.mem = true) : Memory.wf (retryPending s).mem = true := by
  refine wf_foldl (fun s e kept => wf_foldl (fun s x kept => ?_) _ _ kept) _ _ kept
  split <;> simp [kept]

@[simp] theorem wf_retryStores (s : State) (kept : Memory.wf s.mem = true) : Memory.wf (retryStores s).mem = true := by
  refine wf_foldl (fun s e kept => ?_) _ _ kept
  split <;> simp [kept]

@[simp] theorem wakeOthers_mem (k : Option Nat) (s : State) : (wakeOthers k s).mem = s.mem := by rfl

@[simp] theorem wf_endTurn (k : Option Nat) (s : State) (kept : Memory.wf s.mem = true) : Memory.wf (endTurn k s).mem = true := by
  simp [endTurn, kept]

@[simp] theorem wf_foreseen (i : Instr) (s : State) (kept : Memory.wf s.mem = true) : Memory.wf (foreseen i s).mem = true := by
  unfold foreseen
  (repeat' split) <;> simp_all

@[simp] theorem retuneClass_mem (g : Nat → Nat) (cls n : Nat) (s : State) : (retuneClass g cls n s).mem = s.mem := by simp [retuneClass]

@[simp] theorem retuneAll_mem (g : Nat → Nat → Nat) (k : Nat) (s : State) : (retuneAll g k s).mem = s.mem := by simp [retuneAll]

@[simp] theorem resultsIn_mem (q : Nat) (op : TransOp) (rest : List TransOp) (s : State) : (resultsIn q op rest s).mem = s.mem := by
  simp [resultsIn]

@[simp] theorem debugEffect_mem (rs : BitVec 7) (sel : BitVec 12) (s : State) : (debugEffect rs sel s).mem = s.mem := by simp [debugEffect]

end Sys2Proof.Machine
end

section
/-! SUPPORT. The next state of a word or device step keeps the canonical form: the forms that words share, and the steps of the device. -/

namespace Sys2Proof.Machine

def NextWf (r : Result) : Prop := ∀ t, r = .next t → Memory.wf t.mem = true

@[simp] theorem nextWf_next (t : State) : NextWf (.next t) ↔ Memory.wf t.mem = true := by simp [NextWf]

@[simp] theorem nextWf_ite (c : Prop) [Decidable c] {r q : Result} (hr : NextWf r) (hq : NextWf q) : NextWf (if c then r else q) := by
  split <;> assumption

@[simp] theorem nextWf_raise (cause detail : BitVec 8) (mask : W64) (s : State) (kept : Memory.wf s.mem = true) :
    NextWf (raise cause detail mask s) := by
  simp [raise, kept]

theorem canonical_takePorts {ps : List PortStep} {s t : State} (kept : Memory.wf s.mem = true)
    (h : takePorts ps s = .go t ∨ ∃ a fs, takePorts ps s = .fault t a fs) : Memory.wf t.mem = true := by
  induction ps generalizing s with
  | nil => grind [takePorts]
  | cons p ps ih =>
    unfold takePorts at h
    grind [checkAccess_mem, followPort_mem, takePort_mem, keepSample_mem]

theorem canonical_gate {u : Use} {s t : State} (kept : Memory.wf s.mem = true)
    (h : gate u s = .go t ∨ ∃ a fs, gate u s = .fault t a fs) : Memory.wf t.mem = true := by
  unfold gate at h
  grind [canonical_takePorts]

@[simp] theorem nextWf_issue (u : Use) (k : State → Result) (s : State) (step : ∀ s, Memory.wf s.mem = true → NextWf (k s))
    (kept : Memory.wf s.mem = true) :
    NextWf (issue u k s) :=
  by
  unfold issue
  split
  · next h =>
    have ports := canonical_gate kept (.inl h)
    split_ifs
    · simpa
    · simpa
    · simpa
    · simpa
    · exact step _ ports
  · simpa [raise]
  · simpa
  · simpa
  · simpa
  · next h => simp [canonical_gate kept (.inr ⟨_, _, h⟩)]

@[simp] theorem nextWf_run (u : Use) (effect : State → State) (s : State)
    (step : ∀ s, Memory.wf s.mem = true → Memory.wf (effect s).mem = true) (kept : Memory.wf s.mem = true) :
    NextWf (run u effect s) := by
  simp_all [run]

@[simp] theorem nextWf_scalar3 (op : W64 → W64 → W64) (d a b : BitVec 7) (ea eb : Bool) (s : State) (kept : Memory.wf s.mem = true) :
    NextWf (scalar3 op d a b ea eb s) := by
  simp +contextual [scalar3, kept]

@[simp] theorem nextWf_execThermalTrip (s : State) (kept : Memory.wf s.mem = true) : NextWf (execThermalTrip s) := by
  simp [execThermalTrip, kept]

@[simp] theorem nextWf_vectorFp (u : Use) (d : BitVec 7) (f : State → Nat → W32 × Flags) (s : State) (kept : Memory.wf s.mem = true) :
    NextWf (vectorFp u d f s) := by
  simp [vectorFp, kept]

@[simp] theorem nextWf_fpAcc3 (op : Rounding → W32 → W32 → W32 → W32 × Flags) (d a b : BitVec 7) (ea eb : Bool) (s : State)
    (kept : Memory.wf s.mem = true) :
    NextWf (fpAcc3 op d a b ea eb s) := by
  simp [fpAcc3, kept]

@[simp] theorem nextWf_fpCompare (fn : Nat) (d a b : BitVec 7) (ea eb : Bool) (s : State) (kept : Memory.wf s.mem = true) :
    NextWf (fpCompare fn d a b ea eb s) := by
  simp [fpCompare, kept]

@[simp] theorem nextWf_scalar1 (op : W64 → W64) (d a : BitVec 7) (ea : Bool) (s : State) (kept : Memory.wf s.mem = true) :
    NextWf (scalar1 op d a ea s) := by
  simp +contextual [scalar1, kept]

@[simp] theorem nextWf_transWord (fn : Nat) (d a : BitVec 7) (ea : Bool) (s : State) (kept : Memory.wf s.mem = true) :
    NextWf (transWord fn d a ea s) := by
  simp +contextual [transWord, kept]

@[simp] theorem nextWf_branch (u : Use) (taken : State → Bool) (off : W64) (s : State) (kept : Memory.wf s.mem = true) :
    NextWf (branch u taken off s) := by
  simp [branch, kept]

@[simp] theorem nextWf_pendAccess (u : Use) (m : MemWord) (s0 s : State) (kept0 : Memory.wf s0.mem = true) (kept : Memory.wf s.mem = true) :
    NextWf (pendAccess u m s0 s) :=
  by
  unfold pendAccess
  split
  · simpa
  · split <;> simpa

@[simp] theorem nextWf_raiseAccess (cause : BitVec 8) (mask : W64) (access : BitVec 2) (va : W64) (s : State)
    (kept : Memory.wf s.mem = true) :
    NextWf (raiseAccess cause mask access va s) := by
  simp [raiseAccess, kept]

theorem nextWf_memAccess (u : Use) (m : MemWord) (s0 s : State) (kept0 : Memory.wf s0.mem = true) (kept : Memory.wf s.mem = true) :
    NextWf (memAccess u m s0 s) :=
  by
  have waits : ∀ w, NextWf (.next (s0.holdFor w)) := fun w => (nextWf_next _).2 kept0
  have aborts : ∀ k c, NextWf (.next (abortTxn k c s0)) := fun k c => (nextWf_next _).2 (by rwa [abortTxn_mem])
  have ends : ∀ (s : State), Memory.wf s.mem = true → NextWf (.next (finish { u with late := false } s)) :=
    fun s kept => (nextWf_next _).2 (by rwa [finish_mem])
  unfold memAccess
  split
  · exact ends _ kept
  · split
    · exact waits _
    · split
      · exact nextWf_raiseAccess _ _ _ _ _ kept0
      · next h =>
        have checked := wf_of_eq h (by rwa [checkAccess_mem])
        split
        · exact nextWf_pendAccess _ _ _ _ kept0 checked
        · exact (nextWf_next _).2 (wf_stallOrTrap _ _ _ _ (by rwa [keepSample_mem]))
      · next h => exact nextWf_pendAccess _ _ _ _ kept0 (wf_of_eq h (by rwa [checkAccess_mem]))
      · next h =>
        have checked := wf_of_eq h (by rwa [checkAccess_mem])
        split
        · exact aborts _ _
        · split
          · exact waits _
          · split
            · exact waits _
            · split
              · exact waits _
              · split
                · split
                  · exact ends _ (by rwa [followPair_mem])
                  · exact waits _
                · split
                  · exact ends _ checked
                  · split
                    · exact waits _
                    · dsimp only
                      split
                      · exact aborts _ _
                      · exact (nextWf_next _).2 (by rwa [issueAccess_mem])

@[simp] theorem nextWf_memWord (u : Use) (m : State → MemWord) (s : State) (kept : Memory.wf s.mem = true) : NextWf (memWord u m s) :=
  nextWf_issue _ _ _ (fun t taken => nextWf_memAccess u (m t) s t kept taken) kept

@[simp] theorem nextWf_reduceWord (fn n : Nat) (d o : BitVec 7) (h : BitVec 6) (byp ed ea : Bool) (s : State)
    (kept : Memory.wf s.mem = true) :
    NextWf (reduceWord fn n d o h byp ed ea s) := by
  simp [reduceWord, kept]

@[simp] theorem nextWf_doorbell (tag : BitVec 8) (effect : State → State) (s : State)
    (step : ∀ s, Memory.wf s.mem = true → Memory.wf (effect s).mem = true) (kept : Memory.wf s.mem = true) :
    NextWf (doorbell tag effect s) := by
  unfold doorbell
  (repeat' split) <;> simp_all

@[simp] theorem nextWf_execNoticeCompletion (core line : Nat) (s : State) (kept : Memory.wf s.mem = true) :
    NextWf (execNoticeCompletion core line s) := by
  simp [execNoticeCompletion, kept]

@[simp] theorem nextWf_vectorWord (u : Use) (d : BitVec 7) (f : State → Nat → W32) (s : State) (kept : Memory.wf s.mem = true) :
    NextWf (vectorWord u d f s) := by
  simp +contextual [vectorWord, kept]

@[simp] theorem nextWf_execWhorlPartial (wave id whorl : Nat) (s : State) (kept : Memory.wf s.mem = true) :
    NextWf (execWhorlPartial wave id whorl s) :=
  by
  unfold execWhorlPartial
  dsimp only
  split
  · simpa
  · split
    · simpa
    · split
      · simpa
      · split
        · next h => exact (nextWf_next _).2 (wf_engineFault _ _ _ _ _ _ (wf_of_eq h (by simpa)))
        · next h => exact (nextWf_next _).2 (by rw [engineStop_mem]; exact wf_of_eq h (by simpa))
        · next h =>
          have got := wf_of_eq h (by simpa)
          split
          · simpa
          · split
            · simpa
            · split
              · next h => exact (nextWf_next _).2 (wf_engineFault _ _ _ _ _ _ (wf_of_eq h (by simpa)))
              · next h => exact (nextWf_next _).2 (by rw [engineStop_mem]; exact wf_of_eq h (by simpa))
              · next h => exact (nextWf_next _).2 (wf_engineFault _ _ _ _ _ _ (by rw [onAttn_mem]; exact wf_of_eq h (by simpa)))

@[simp] theorem nextWf_fp3 (op : Rounding → W32 → W32 → W32 × Flags) (d a b : BitVec 7) (ea eb : Bool) (s : State)
    (kept : Memory.wf s.mem = true) :
    NextWf (fp3 op d a b ea eb s) := by
  simp [fp3, kept]

@[simp] theorem nextWf_execPreemptionRequest (team : Nat) (s : State) (kept : Memory.wf s.mem = true) :
    NextWf (execPreemptionRequest team s) := by
  unfold execPreemptionRequest
  (repeat' split) <;> simp [kept]

@[simp] theorem nextWf_execRowGroupRefresh (whorl group : Nat) (found : List (Nat × Bool)) (s : State) (kept : Memory.wf s.mem = true) :
    NextWf (execRowGroupRefresh whorl group found s) :=
  by
  unfold execRowGroupRefresh
  dsimp only
  split
  · simpa
  · refine (nextWf_next _).2 (wf_foldl (fun s e kept => ?_) _ _ (wf_foldl (fun s t kept => wf_checkTile t s kept) _ _ ?_))
    · split
      · exact wf_uncorrectableError _ _ _ _ kept
      · exact wf_correctedError _ _ _ kept
    · rw [State.onWhorl_mem, State.mem_ite, ite_self]
      exact kept

@[simp] theorem nextWf_execSkeinPortUp (port : Nat) (s : State) (kept : Memory.wf s.mem = true) : NextWf (execSkeinPortUp port s) := by
  simp [execSkeinPortUp, kept]

@[simp] theorem nextWf_atomicWord (fn : Nat) (d o : BitVec 7) (h : BitVec 6) (byp ea : Bool) (opnd : BitVec 7)
    (cmp : Option (BitVec 7 × Bool)) (width : BitVec 2) (scalar eo : Bool) (s : State) (kept : Memory.wf s.mem = true) :
    NextWf (atomicWord fn d o h byp ea opnd cmp width scalar eo s) := by
  simp [atomicWord, kept]

@[simp] theorem nextWf_command (code : BitVec 8) (effect : State → State) (s : State)
    (step : ∀ s, Memory.wf s.mem = true → Memory.wf (effect s).mem = true) (kept : Memory.wf s.mem = true) :
    NextWf (command code effect s) := by
  unfold command
  (repeat' split) <;> simp_all

@[simp] theorem nextWf_vector1 (op : W32 → W32) (d a : BitVec 7) (ea : Bool) (s : State) (kept : Memory.wf s.mem = true) :
    NextWf (vector1 op d a ea s) := by
  simp [vector1, kept]

@[simp] theorem nextWf_vectorStore (n : Nat) (d o : BitVec 7) (h : BitVec 6) (byp ed ea : Bool) (s : State)
    (kept : Memory.wf s.mem = true) :
    NextWf (vectorStore n d o h byp ed ea s) := by
  simp [vectorStore, kept]

@[simp] theorem nextWf_execFresDeny (tag : BitVec 8) (index : Nat) (s : State) (kept : Memory.wf s.mem = true) :
    NextWf (execFresDeny tag index s) := by
  simp [execFresDeny, kept]

@[simp] theorem nextWf_vector3 (op : W32 → W32 → W32) (d a b : BitVec 7) (ea eb : Bool) (s : State) (kept : Memory.wf s.mem = true) :
    NextWf (vector3 op d a b ea eb s) := by
  simp [vector3, kept]

@[simp] theorem nextWf_convert (d a : BitVec 7) (ea : Bool) (f : W32 → W32 × Flags) (s : State) (kept : Memory.wf s.mem = true) :
    NextWf (convert d a ea f s) := by
  simp [convert, kept]

@[simp] theorem nextWf_supervise (u : Use) (effect : State → State) (s : State)
    (step : ∀ s, Memory.wf s.mem = true → Memory.wf (effect s).mem = true) (kept : Memory.wf s.mem = true) :
    NextWf (supervise u effect s) := by
  grind [supervise, nextWf_next, State.holdFor_mem, finish_mem, nextWf_issue, noteIrreplaceable_mem]

@[simp] theorem nextWf_execAccessRetire (wave : Nat) (s : State) (kept : Memory.wf s.mem = true) : NextWf (execAccessRetire wave s) := by
  unfold execAccessRetire
  (repeat' split) <;> simp [kept]

@[simp] theorem nextWf_execAcknowledgement (core line : Nat) (s : State) (kept : Memory.wf s.mem = true) :
    NextWf (execAcknowledgement core line s) := by
  unfold execAcknowledgement
  (repeat' split) <;> simp [kept]

@[simp] theorem nextWf_execAtsTranslationCompletion (pasid : BitVec 20) (va : BitVec 64) (granted : Bool) (frame : Nat) (s : State)
    (kept : Memory.wf s.mem = true) :
    NextWf (execAtsTranslationCompletion pasid va granted frame s) := by
  simp [execAtsTranslationCompletion, kept]

@[simp] theorem nextWf_execBackInvalidateResponse (line : Nat) (s : State) (kept : Memory.wf s.mem = true) :
    NextWf (execBackInvalidateResponse line s) := by
  simp [execBackInvalidateResponse, kept]

theorem arrive_mem {id : BitVec 5} {core : Bool} {c : W64} {s t : State} {phase : Nat} (h : arrive id core c s = .ok t phase) :
    t.mem = s.mem :=
  by
  unfold arrive at h
  dsimp only at h
  split_ifs at h <;> cases h
  · simp
  · simp

@[simp] theorem nextWf_arriveWord (u : Use) (id : BitVec 5) (cnt : BitVec 7) (core : Bool) (k : State → Nat → Result) (s : State)
    (step : ∀ s n, Memory.wf s.mem = true → NextWf (k s n)) (kept : Memory.wf s.mem = true) :
    NextWf (arriveWord u id cnt core k s) :=
  by
  refine nextWf_issue _ _ _ (fun s kept => ?_) kept
  dsimp only
  split
  · simp [kept]
  · split
    · simp [kept]
    · split <;> simp [kept]
    · next h =>
      have same := arrive_mem h
      split
      · simpa [same]
      · exact step _ _ (by rwa [same])

@[simp] theorem nextWf_execBarrierWaitComplete (wave : Nat) (s : State) (kept : Memory.wf s.mem = true) :
    NextWf (execBarrierWaitComplete wave s) := by
  grind [execBarrierWaitComplete, nextWf_next, State.focusOn_mem, advance_mem]

@[simp] theorem nextWf_execCarderRecordRead (floor : Nat) (s : State) (kept : Memory.wf s.mem = true) :
    NextWf (execCarderRecordRead floor s) := by
  grind [execCarderRecordRead, nextWf_next, State.setWave_mem, wf_carderFault, wf_carderStop, locsOf_mem, popCarder_mem]

@[simp] theorem nextWf_execCarderRound (floor : Nat) (s : State) (kept : Memory.wf s.mem = true) : NextWf (execCarderRound floor s) := by
  grind [execCarderRound, nextWf_next, wf_carderFault, wf_carderStop, locsOf_mem, wf_runRound, wf_startRound]

@[simp] theorem nextWf_enqueue (u : Use) (c : SpindleCmd) (s : State) (kept : Memory.wf s.mem = true) : NextWf (enqueue u c s) := by
  simp [enqueue, kept]

def RangeCheck.Canonical : RangeCheck → Prop
  | .ok s => Memory.wf s.mem = true
  | .trap .. => True
  | .fault s .. => Memory.wf s.mem = true
  | .waiting s => Memory.wf s.mem = true

theorem canonical_translateRanges (w : Wave) (cache : Cache) (rs : List Range) (s : State) (kept : Memory.wf s.mem = true) :
    (translateRanges w cache rs s).Canonical := by
  induction rs generalizing s with
  | nil => exact kept
  | cons r rs ih =>
    unfold translateRanges
    split
    · next h => exact ih _ (wf_of_eq h (by simpa))
    · trivial
    · next h => exact wf_of_eq h (by simpa)
    · next h => exact wf_of_eq h (by simpa)

@[simp] theorem canonical_checkRanges (w : Wave) (cache : Cache) (permit : Nat → Kind → Option (BitVec 8)) (first mid : List (Option (BitVec 8)))
    (translated : Bool) (rs : List Range) (s : State) (kept : Memory.wf s.mem = true) :
    (checkRanges w cache permit first mid translated rs s).Canonical := by
  unfold checkRanges
  dsimp only
  split
  · trivial
  · split
    · trivial
    · split
      · trivial
      · split
        · simpa [RangeCheck.Canonical]
        · split
          · trivial
          · split
            · exact canonical_translateRanges _ _ _ _ (by simpa)
            · simpa [RangeCheck.Canonical]

@[simp] theorem canonical_operandCheck (s : State) (ps : List (W64 × Nat × Nat)) (kept : Memory.wf s.mem = true) :
    (operandCheck s ps).Canonical :=
  canonical_checkRanges _ _ _ _ _ _ _ _ kept

@[simp] theorem nextWf_withRanges (r : RangeCheck) (k : State → Result) (s : State) (step : ∀ s, Memory.wf s.mem = true → NextWf (k s))
    (checked : r.Canonical) (kept : Memory.wf s.mem = true) :
    NextWf (withRanges r k s) :=
  by
  unfold withRanges
  split
  · exact step _ checked
  · simp [kept]
  · exact (nextWf_next _).2 (wf_stallOrTrap _ _ _ _ checked)
  · exact (nextWf_next _).2 checked

@[simp] theorem nextWf_linearCopy (fn : Nat) (sd ss sn : BitVec 7) (ed es en : Bool) (gh : BitVec 6) (gchk : Bool) (s : State)
    (kept : Memory.wf s.mem = true) :
    NextWf (linearCopy fn sd ss sn ed es en gh gchk s) :=
  by
  unfold linearCopy
  refine nextWf_issue _ _ _ (fun s kept => ?_) kept
  refine nextWf_withRanges _ _ _ (fun s kept => ?_) (canonical_checkRanges _ _ _ _ _ _ _ _ kept) kept
  exact nextWf_ite _ ((nextWf_next _).2 kept)
    (nextWf_ite _ ((nextWf_next _).2 (by rwa [finish_mem])) (nextWf_enqueue _ _ _ kept))

@[simp] theorem nextWf_indexedCopy (scatter : Bool) (sd ss sn : BitVec 7) (ed es en : Bool) (gh : BitVec 6) (gchk iw : Bool)
    (esz : BitVec 2) (s : State) (kept : Memory.wf s.mem = true) :
    NextWf (indexedCopy scatter sd ss sn ed es en gh gchk iw esz s) :=
  by
  unfold indexedCopy
  refine nextWf_issue _ _ _ (fun s kept => ?_) kept
  refine nextWf_withRanges _ _ _ (fun s kept => ?_) (canonical_checkRanges _ _ _ _ _ _ _ _ kept) kept
  split
  · simpa
  · split
    · simpa
    · exact nextWf_enqueue _ _ _ kept

@[simp] theorem nextWf_execCxlCacheOwnershipGrant (line : Nat) (s : State) (kept : Memory.wf s.mem = true) :
    NextWf (execCxlCacheOwnershipGrant line s) := by
  simp [execCxlCacheOwnershipGrant, kept]

@[simp] theorem nextWf_execCxlMemRead (addr n : Nat) (s : State) (kept : Memory.wf s.mem = true) : NextWf (execCxlMemRead addr n s) := by
  unfold execCxlMemRead
  (repeat' split) <;> simp [kept]

@[simp] theorem nextWf_execCxlMemWrite (addr : Nat) (payload : List (BitVec 8) × Bool) (s : State) (kept : Memory.wf s.mem = true) :
    NextWf (execCxlMemWrite addr payload s) := by
  grind [execCxlMemWrite, nextWf_next, wf_homeWrite, park_mem]

@[simp] theorem nextWf_execCxlPortDown (port : Nat) (s : State) (kept : Memory.wf s.mem = true) : NextWf (execCxlPortDown port s) := by
  simp [execCxlPortDown, kept]

@[simp] theorem nextWf_execCxlPortUp (port : Nat) (s : State) (kept : Memory.wf s.mem = true) : NextWf (execCxlPortUp port s) := by
  simp [execCxlPortUp, kept]

@[simp] theorem nextWf_execDistaffRead (wave : Nat) (s : State) (kept : Memory.wf s.mem = true) : NextWf (execDistaffRead wave s) := by
  grind [execDistaffRead, nextWf_next, State.setWave_mem, wf_checkLocs, distaffWords_mem, wf_engineFault, stopAfter_mem]

@[simp] theorem nextWf_execDistaffStep (tag : BitVec 8) (s : State) (kept : Memory.wf s.mem = true) : NextWf (execDistaffStep tag s) := by
  grind [execDistaffStep, nextWf_next, wf_admissionPoint, wf_beginStep, onDistaff_mem, wf_submitChain]

theorem wf_of_placeAll {cache : Cache} {tag : BitVec 8} {access : BitVec 2} {n : Nat} {f : Nat → W64} {offs : List (Nat × Nat)} {s : State}
    {r : State × List Place × List (Nat × W64 × BitVec 8 × Nat × Bool)} (h : placeAll cache tag access n f offs s = r)
    (kept : Memory.wf s.mem = true) :
    Memory.wf r.1.mem = true :=
  by
  rw [← h]
  rwa [placeAll_mem]

theorem nextWf_finishRead (u : Use) (x : Access) (path : Nat) (s : State) (kept : Memory.wf s.mem = true) :
    NextWf (.next (finish u ((nearTouched x (addAccess x (raiseCount path s))).onArch (fun a => a.emptySs u.dstS)))) := by
  refine (nextWf_next _).2 ?_
  rwa [finish_mem, State.onArch_mem, nearTouched_mem, addAccess_mem, raiseCount_mem]

@[simp] theorem nextWf_dirtyWord (u : Use) (op : AccessOp) (a b : BitVec 7) (chosen : State → Nat → Bool) (data : List Byte)
    (nothing : State → State) (s : State) (step : ∀ s, Memory.wf s.mem = true → Memory.wf (nothing s).mem = true)
    (kept : Memory.wf s.mem = true) :
    NextWf (dirtyWord u op a b chosen data nothing s) :=
  by
  refine nextWf_issue _ _ _ (fun s kept => ?_) kept
  have aborts : ∀ k c, NextWf (.next (abortTxn k c s)) := fun k c => (nextWf_next _).2 (by rwa [abortTxn_mem])
  have reads := nextWf_finishRead u
  dsimp only
  split
  · simp [kept]
  · split
    · simp [kept]
    · split
      · simp [kept, step]
      · split
        · simp [kept]
        · split
          · next h =>
            have placed := wf_of_placeAll h kept
            split
            · exact nextWf_ite _ (aborts _ _) (reads _ _ _ placed)
            · exact nextWf_ite _ (aborts _ _) (reads _ _ _ placed)
          · next h =>
            have placed := wf_of_placeAll h kept
            exact (nextWf_next _).2 (wf_stallOrTrap _ _ _ _ placed)

@[simp] theorem nextWf_execEventRingDenyTimeout (tag : BitVec 8) (index : Nat) (s : State) (kept : Memory.wf s.mem = true) :
    NextWf (execEventRingDenyTimeout tag index s) := by
  unfold execEventRingDenyTimeout
  (repeat' split) <;> simp [kept]

@[simp] theorem nextWf_execEvictionNotice (core line : Nat) (s : State) (kept : Memory.wf s.mem = true) :
    NextWf (execEvictionNotice core line s) := by
  grind [execEvictionNotice, nextWf_next, State.onCore_mem, State.onWhorl_mem, wf_countAck]

@[simp] theorem nextWf_execFastClamp (watts : Nat) (s : State) (kept : Memory.wf s.mem = true) : NextWf (execFastClamp watts s) := by
  simp [execFastClamp, kept]

@[simp] theorem nextWf_execFillComplete (whorl : Nat) (fetched : Nat × List Nat) (s : State) (kept : Memory.wf s.mem = true) :
    NextWf (execFillComplete whorl fetched s) :=
  by
  unfold execFillComplete
  dsimp only
  split
  · simpa
  · refine (nextWf_next _).2 (wf_foldl (fun s w kept => wf_serveLine _ _ _ s kept) _ _ (wf_foldl (fun s e kept => ?_) _ _ ?_))
    · simpa
    · exact wf_refill _ _ kept

@[simp] theorem nextWf_execFrameRetire (tier : Bool) (frame : Nat) (reason : BitVec 8 × Option (BitVec 8)) (s : State)
    (kept : Memory.wf s.mem = true) :
    NextWf (execFrameRetire tier frame reason s) := by
  simp [execFrameRetire, kept]

@[simp] theorem nextWf_execFresRetry (tag : BitVec 8) (index : Nat) (s : State) (kept : Memory.wf s.mem = true) :
    NextWf (execFresRetry tag index s) := by
  simp [execFresRetry, kept]

@[simp] theorem nextWf_execFrontRequestAccept (front : Nat × List (Nat × SectorError)) (s : State) (kept : Memory.wf s.mem = true) :
    NextWf (execFrontRequestAccept front s) :=
  by
  unfold execFrontRequestAccept
  dsimp only
  have arisen := wf_foldl (fun s e kept => wf_errorArises e s kept) (front.2.filter (fun e => homeWhorl s (e.1 / 4) == front.1)) s kept
  have met := fun wants => wf_foldl (fun s (w : Want) kept => wf_serveLine w.wave w.seq w.line s kept) wants _ (wf_evictDue front.1 _ arisen)
  split
  · exact (nextWf_next _).2 (met _)
  · refine (nextWf_next _).2 ?_
    rw [mem_foldl (by simp)]
    refine wf_acceptAll _ _ _ _ _ _ (wf_acceptAll _ _ _ _ _ _ (wf_startHeldAt _ _ (wf_acceptAll _ _ _ _ _ _ ?_)))
    rw [mem_foldl (by simp), grantHold_mem]
    exact met _

@[simp] theorem nextWf_execFunctionLevelReset (s : State) (kept : Memory.wf s.mem = true) : NextWf (execFunctionLevelReset s) := by
  simp [execFunctionLevelReset, kept]

@[simp] theorem nextWf_execHoldTimeout (whorl : Nat) (s : State) (kept : Memory.wf s.mem = true) : NextWf (execHoldTimeout whorl s) := by
  unfold execHoldTimeout
  (repeat' split) <;> simp_all

@[simp] theorem nextWf_execHostCompletion (wave : Nat) (status : BitVec 2) (s : State) (kept : Memory.wf s.mem = true) :
    NextWf (execHostCompletion wave status s) := by
  grind [execHostCompletion, nextWf_next, wf_answerCommand, wf_completeRemote, wf_drainEgress, finishFenceh_mem, refuseCommand_mem,
    refuseRemote_mem]

@[simp] theorem nextWf_execHostSnoop (line : Nat) (payload : List (BitVec 8) × Bool) (s : State) (kept : Memory.wf s.mem = true) :
    NextWf (execHostSnoop line payload s) := by
  unfold execHostSnoop
  (repeat' split)
  · simp [kept]
  · simp [kept]
  all_goals
    dsimp only
    refine nextWf_ite _ (by simp [kept]) ((nextWf_next _).2 (wf_writeLocs _ ?_))
    rwa [invalidateNow_mem, State.onWhorl_mem]

@[simp] theorem nextWf_execInvalidationArrival (core line : Nat) (s : State) (kept : Memory.wf s.mem = true) :
    NextWf (execInvalidationArrival core line s) := by
  simp [execInvalidationArrival, kept]

@[simp] theorem nextWf_execIslandControlLoop (cls : BitVec 4) (index droopMHz shareMHz : Nat) (s : State) (kept : Memory.wf s.mem = true) :
    NextWf (execIslandControlLoop cls index droopMHz shareMHz s) := by
  simp [execIslandControlLoop, kept]

@[simp] theorem nextWf_execLaunchFetch (tag : BitVec 8) (level : Nat) (s : State) (kept : Memory.wf s.mem = true) :
    NextWf (execLaunchFetch tag level s) := by
  grind [execLaunchFetch, nextWf_next, wf_checkLaunch, wf_cpRead, wf_launchError, popQueue_mem]

@[simp] theorem nextWf_execLevelRaise (launch : Nat) (s : State) (kept : Memory.wf s.mem = true) : NextWf (execLevelRaise launch s) := by
  unfold execLevelRaise
  (repeat' split) <;> simp [kept]

@[simp] theorem nextWf_execLoadDataReturn (wave id : Nat) (s : State) (kept : Memory.wf s.mem = true) :
    NextWf (execLoadDataReturn wave id s) := by
  grind [execLoadDataReturn, nextWf_next, State.setWave_mem, deliverAccess_mem, lineArrives_mem]

@[simp] theorem nextWf_execMatrixOperationComplete (quarter : Nat) (s : State) (kept : Memory.wf s.mem = true) :
    NextWf (execMatrixOperationComplete quarter s) := by
  simp [execMatrixOperationComplete, kept]

@[simp] theorem nextWf_execMatrixOperationStart (unit : Nat × Nat) (s : State) (kept : Memory.wf s.mem = true) :
    NextWf (execMatrixOperationStart unit s) := by
  grind [execMatrixOperationStart, nextWf_next, gangFails_mem, wf_startHead]

@[simp] theorem nextWf_enterMatrix (u : Use) (op : MatrixOp) (s : State) (kept : Memory.wf s.mem = true) : NextWf (enterMatrix u op s) := by
  simp [enterMatrix, kept]

@[simp] theorem nextWf_multiply (zero : Bool) (vacc sA sB : BitVec 7) (keep ea eb : Bool) (aslot bslot : BitVec 3) (asb bsb : BitVec 7)
    (sel : BitVec 2) (soft half : Bool) (obase : BitVec 7) (s : State) (kept : Memory.wf s.mem = true) :
    NextWf (multiply zero vacc sA sB keep ea eb aslot bslot asb bsb sel soft half obase s) :=
  by
  refine nextWf_issue _ _ _ (fun s kept => ?_) kept
  exact nextWf_withRanges _ _ _ (fun s kept => nextWf_enterMatrix _ _ _ kept) (canonical_operandCheck _ _ kept) kept

@[simp] theorem nextWf_chain (zero : Bool) (vacc sB : BitVec 7) (keep eb : Bool) (bslot : BitVec 3) (half : Bool) (s : State)
    (kept : Memory.wf s.mem = true) :
    NextWf (chain zero vacc sB keep eb bslot half s) :=
  by
  refine nextWf_issue _ _ _ (fun s kept => ?_) kept
  exact nextWf_withRanges _ _ _ (fun s kept => nextWf_enterMatrix _ _ _ kept) (canonical_operandCheck _ _ kept) kept

@[simp] theorem nextWf_execModulePowerLoop (avgWatts : Nat) (s : State) (kept : Memory.wf s.mem = true) :
    NextWf (execModulePowerLoop avgWatts s) :=
  by
  unfold execModulePowerLoop
  dsimp only
  split
  · simpa
  · exact (nextWf_next _).2 (wf_foldl (fun s c kept => wf_foldl (fun s i kept => by rwa [stepDown_mem]) _ _ kept) _ _ kept)

@[simp] theorem nextWf_execPageMove (tag : BitVec 8) (va : BitVec 64) (tier : Bool) (frame : Nat) (s : State)
    (kept : Memory.wf s.mem = true) :
    NextWf (execPageMove tag va tier frame s) := by
  unfold execPageMove
  (repeat' split) <;> simp [kept]

@[simp] theorem nextWf_execPageWalk (cache : Nat) (tag : BitVec 8) (va : BitVec 64) (access : BitVec 2) (s : State)
    (kept : Memory.wf s.mem = true) :
    NextWf (execPageWalk cache tag va access s) := by
  unfold execPageWalk
  (repeat' split) <;> simp [kept]

@[simp] theorem nextWf_execPairComparison (waveA waveB : Nat) (s : State) (kept : Memory.wf s.mem = true) :
    NextWf (execPairComparison waveA waveB s) := by
  grind [execPairComparison, nextWf_next, State.setWave_mem, askOwning_mem, wf_endLaunch, wf_performLog, wf_postTerminating,
    wf_replayLaunch]

@[simp] theorem nextWf_execPartialMerge (wave id : Nat) (s : State) (kept : Memory.wf s.mem = true) : NextWf (execPartialMerge wave id s) := by
  unfold execPartialMerge
  (repeat' split) <;> simp [kept]

@[simp] theorem nextWf_execPeerAcknowledgement (wave : Nat) (status : BitVec 2) (s : State) (kept : Memory.wf s.mem = true) :
    NextWf (execPeerAcknowledgement wave status s) := by
  unfold execPeerAcknowledgement
  (repeat' split) <;> simp [kept]

@[simp] theorem nextWf_execPeerRequest (tag : BitVec 8) (va : BitVec 64) (kind : BitVec 2) (fn n : Nat) (payload : List (BitVec 8) × Bool)
    (cmp : List (BitVec 8)) (s : State) (kept : Memory.wf s.mem = true) :
    NextWf (execPeerRequest tag va kind fn n payload cmp s) := by
  grind [execPeerRequest, nextWf_next, answerOut_mem, askOwning_mem, wf_homeWrite, park_mem, wf_postRecord, translateBytes_mem]

@[simp] theorem nextWf_execPerstDeassertion (s : State) (kept : Memory.wf s.mem = true) : NextWf (execPerstDeassertion s) := by
  simp [execPerstDeassertion, kept]

@[simp] theorem nextWf_execPoisonReport (addr : Nat) (tag : Option (BitVec 8)) (s : State) (kept : Memory.wf s.mem = true) :
    NextWf (execPoisonReport addr tag s) :=
  by
  unfold execPoisonReport
  dsimp only
  split
  · simpa
  · split
    · simpa
    · split
      · simpa
      · split
        · split
          · simpa
          · refine (nextWf_next _).2 ?_
            rw [decide'_mem]
            exact wf_foldl (fun s e kept => wf_replayLaunch _ _ _ (wf_postTerminating _ _ _ _ _ kept)) _ _ kept
        · refine (nextWf_next _).2 ?_
          dsimp only
          exact wf_terminateContext _ _ _ _ kept

@[simp] theorem nextWf_execPortCapLoop (whorl : Nat) (s : State) (kept : Memory.wf s.mem = true) : NextWf (execPortCapLoop whorl s) := by
  simp [execPortCapLoop, kept]

@[simp] theorem nextWf_execPriResponse (tag : BitVec 8) (index : Nat) (ok : Bool) (s : State) (kept : Memory.wf s.mem = true) :
    NextWf (execPriResponse tag index ok s) := by
  unfold execPriResponse
  (repeat' split) <;> simp [kept]

@[simp] theorem nextWf_execPriTimeout (tag : BitVec 8) (index : Nat) (s : State) (kept : Memory.wf s.mem = true) :
    NextWf (execPriTimeout tag index s) := by
  unfold execPriTimeout
  (repeat' split) <;> simp [kept]

@[simp] theorem nextWf_execQueueFetch (wave queue : Nat) (s : State) (kept : Memory.wf s.mem = true) : NextWf (execQueueFetch wave queue s) := by
  simp [execQueueFetch, kept]

@[simp] theorem nextWf_execRegisterWrite (offset : Nat) (value : BitVec 64) (s : State) (kept : Memory.wf s.mem = true) :
    NextWf (execRegisterWrite offset value s) := by
  unfold execRegisterWrite
  (repeat' split) <;> simp [kept]

theorem nextWf_reserving (t : State) (l : Launch) (launch : Nat) (kept : Memory.wf t.mem = true) : NextWf (
    have s := t
    have s := { s with launches := change (fun l => { l with reserves := true }) s.launches launch }
    have part := l.env.part.toNat
    have out := if l.level = 15 then
        victims s part l.demand (recPaired l.record) s.teams.length ((s.teams.filter (fun e => e.2.halting)).map (·.1))
      else []
    .next { s with agenda := s.agenda ++ out.map Instr.preemptionRequest }) :=
  (nextWf_next _).2 kept

@[simp] theorem nextWf_execReserve (launch : Nat) (s : State) (kept : Memory.wf s.mem = true) : NextWf (execReserve launch s) := by
  unfold execReserve
  split
  · exact (nextWf_next _).2 kept
  · next l _ =>
    split
    · exact (nextWf_next _).2 kept
    · exact nextWf_reserving _ l launch (by rwa [passSince_mem])

@[simp] theorem nextWf_execRetentionWindowLoop (whorl group temp : Nat) (s : State) (kept : Memory.wf s.mem = true) :
    NextWf (execRetentionWindowLoop whorl group temp s) := by
  simp [execRetentionWindowLoop, kept]

@[simp] theorem nextWf_execRetryTimerExpiry (wave id line : Nat) (s : State) (kept : Memory.wf s.mem = true) :
    NextWf (execRetryTimerExpiry wave id line s) := by
  simp [execRetryTimerExpiry, kept]

@[simp] theorem nextWf_scalarExec (op : W64 → W64 → W64) (d a : BitVec 7) (ea : Bool) (s : State) (kept : Memory.wf s.mem = true) :
    NextWf (scalarExec op d a ea s) := by
  simp +contextual [scalarExec, kept]

@[simp] theorem nextWf_execSaveSeal (team : Nat) (s : State) (kept : Memory.wf s.mem = true) : NextWf (execSaveSeal team s) := by
  unfold execSaveSeal
  (repeat' split) <;> simp_all

@[simp] theorem nextWf_execScratchMotionStart (whorl : Nat) (s : State) (kept : Memory.wf s.mem = true) :
    NextWf (execScratchMotionStart whorl s) := by
  unfold execScratchMotionStart
  (repeat' split) <;> simp [kept]

@[simp] theorem nextWf_execSequenceRetirement (slot : Nat) (s : State) (kept : Memory.wf s.mem = true) :
    NextWf (execSequenceRetirement slot s) := by
  simp [execSequenceRetirement, kept]

@[simp] theorem nextWf_execSkeinPeerTimeout (node : BitVec 16) (s : State) (kept : Memory.wf s.mem = true) :
    NextWf (execSkeinPeerTimeout node s) := by
  simp [execSkeinPeerTimeout, kept]

@[simp] theorem nextWf_execSkeinPortDown (port : Nat) (s : State) (kept : Memory.wf s.mem = true) : NextWf (execSkeinPortDown port s) := by
  simp [execSkeinPortDown, kept]

@[simp] theorem nextWf_windowWord (u : Use) (h : BitVec 6) (rh : Option (BitVec 6)) (k : Handle → List Nat → State → Result) (s : State)
    (step : ∀ x y s, Memory.wf s.mem = true → NextWf (k x y s)) (kept : Memory.wf s.mem = true) :
    NextWf (windowWord u h rh k s) := by
  grind [windowWord, nextWf_next, nextWf_issue, nextWf_raise, wf_stallOrTrap, translateBytes_mem]

@[simp] theorem nextWf_scalarLoad (n : Nat) (signed : Bool) (d o : BitVec 7) (h : BitVec 6) (byp ea : Bool) (s : State)
    (kept : Memory.wf s.mem = true) :
    NextWf (scalarLoad n signed d o h byp ea s) := by
  simp [scalarLoad, kept]

@[simp] theorem nextWf_execSleepDeadline (wave : Nat) (s : State) (kept : Memory.wf s.mem = true) : NextWf (execSleepDeadline wave s) := by
  simp [execSleepDeadline, kept]

@[simp] theorem nextWf_execSlotArbitration (quarter : Nat) (s : State) (kept : Memory.wf s.mem = true) :
    NextWf (execSlotArbitration quarter s) := by
  unfold execSlotArbitration
  (repeat' split) <;> simp [grantSlot_mem, kept]

@[simp] theorem nextWf_execSpdmRequest (block : Nat) (s : State) (kept : Memory.wf s.mem = true) : NextWf (execSpdmRequest block s) := by
  simp [execSpdmRequest, kept]

@[simp] theorem nextWf_execSpindleCommandStart (core : Nat) (s : State) (kept : Memory.wf s.mem = true) :
    NextWf (execSpindleCommandStart core s) := by
  grind [execSpindleCommandStart, nextWf_next, wf_engineFault, onHead_mem, wf_runCommand, wf_runMove, spindleStop_mem, takeSamples_mem]

@[simp] theorem nextWf_scalarStore (n : Nat) (d o : BitVec 7) (h : BitVec 6) (byp ed ea : Bool) (s : State)
    (kept : Memory.wf s.mem = true) :
    NextWf (scalarStore n d o h byp ed ea s) := by
  simp [scalarStore, kept]

@[simp] theorem nextWf_execStageAdvance (error : BitVec 8) (s : State) (kept : Memory.wf s.mem = true) : NextWf (execStageAdvance error s) := by
  simp [execStageAdvance, kept]

@[simp] theorem nextWf_execStageDroppedClear (s : State) (kept : Memory.wf s.mem = true) : NextWf (execStageDroppedClear s) := by
  simp [execStageDroppedClear, kept]

@[simp] theorem nextWf_execStarvationPromotion (wave : Nat) (s : State) (kept : Memory.wf s.mem = true) :
    NextWf (execStarvationPromotion wave s) := by
  simp [execStarvationPromotion, kept]

@[simp] theorem nextWf_execStepCommit (tag : BitVec 8) (s : State) (kept : Memory.wf s.mem = true) : NextWf (execStepCommit tag s) := by
  unfold execStepCommit
  dsimp only
  split
  · simpa
  · refine (nextWf_next _).2 ?_
    rw [wakeDistaff_mem]
    dsimp only
    rw [onDistaff_mem]
    have applied : ∀ l : List Nat, Memory.wf (l.foldl (fun s slot => applyStep tag slot s) (onDistaff tag (fun d => { d with done := false }) s)).mem = true :=
      fun l => wf_foldl (fun s slot kept => wf_applyStep _ _ _ kept) _ _ (by simpa)
    split
    · exact wf_resolveGuard _ _ _ _ (applied _)
    · exact applied _

@[simp] theorem nextWf_execStoreBufferLeave (wave : Nat) (s : State) (kept : Memory.wf s.mem = true) : NextWf (execStoreBufferLeave wave s) := by
  grind [execStoreBufferLeave, nextWf_next, wf_leaveBuffer, refuseRemote_mem]

@[simp] theorem nextWf_execStoreQueueDrain (wave queue : Nat) (s : State) (kept : Memory.wf s.mem = true) :
    NextWf (execStoreQueueDrain wave queue s) := by
  grind [execStoreQueueDrain, nextWf_next, State.setWave_mem, wf_leaveBuffer, refuseRemote_mem]

@[simp] theorem nextWf_onStream (d : BitVec 7) (ed : Bool) (bad : StreamPort → W64 → Bool) (f : StreamPort → W64 → StreamPort) (s : State)
    (kept : Memory.wf s.mem = true) :
    NextWf (onStream d ed bad f s) := by
  grind [onStream, nextWf_next, State.onArch_mem, dropPort_mem, finish_mem, nextWf_issue, nextWf_raise]

@[simp] theorem nextWf_execStreamPrefetch (wave port : Nat) (s : State) (kept : Memory.wf s.mem = true) :
    NextWf (execStreamPrefetch wave port s) := by
  simp [execStreamPrefetch, kept]

@[simp] theorem nextWf_execTeamPlacement (s : State) (kept : Memory.wf s.mem = true) : NextWf (execTeamPlacement s) := by
  simp [execTeamPlacement, kept]

@[simp] theorem nextWf_readBlock (team : Nat) (t : Team) (l : Launch) (k : State → Result) (s : State)
    (step : ∀ s, Memory.wf s.mem = true → NextWf (k s)) (kept : Memory.wf s.mem = true) :
    NextWf (readBlock team t l k s) := by
  grind [readBlock, nextWf_next, wf_engineFault, engineStop_mem]

@[simp] theorem nextWf_execTeamSave (team : Nat) (s : State) (kept : Memory.wf s.mem = true) : NextWf (execTeamSave team s) := by
  unfold execTeamSave
  (repeat' split) <;> grind [nextWf_next, haltTeam_mem, wf_leaveUnsaved, wf_saveTeam, wf_withUnits]

@[simp] theorem nextWf_execTerminatingCause (launch : Nat) (s : State) (kept : Memory.wf s.mem = true) :
    NextWf (execTerminatingCause launch s) := by
  grind [execTerminatingCause, nextWf_next, decide'_mem, wf_endLaunch, park_mem, wf_postStop, wf_replayLaunch, wf_terminateContext]

@[simp] theorem nextWf_execThermalLimit (cls : BitVec 4) (index : Nat) (s : State) (kept : Memory.wf s.mem = true) :
    NextWf (execThermalLimit cls index s) := by
  simp [execThermalLimit, kept]

@[simp] theorem nextWf_execTileLanding (whorl : Nat) (s : State) (kept : Memory.wf s.mem = true) : NextWf (execTileLanding whorl s) := by
  unfold execTileLanding
  dsimp only
  have due := wf_evictDue whorl s kept
  split
  · simpa
  · refine (nextWf_next _).2 ?_
    rw [State.onWhorl_mem]
    split
    · exact due
    · exact wf_foldl (fun s t kept => wf_checkTile t s kept) _ _ due

@[simp] theorem nextWf_execTlbinvComplete (wave : Nat) (s : State) (kept : Memory.wf s.mem = true) : NextWf (execTlbinvComplete wave s) := by
  unfold execTlbinvComplete
  (repeat' split) <;> simp [kept]

@[simp] theorem nextWf_execTranscendentalResult (quarter : Nat) (s : State) (kept : Memory.wf s.mem = true) :
    NextWf (execTranscendentalResult quarter s) := by
  unfold execTranscendentalResult
  (repeat' split) <;> simp [kept]

@[simp] theorem nextWf_execTranscendentalStart (quarter : Nat) (s : State) (kept : Memory.wf s.mem = true) :
    NextWf (execTranscendentalStart quarter s) := by
  unfold execTranscendentalStart
  (repeat' split) <;> simp [kept]

@[simp] theorem nextWf_vectorS (op : W32 → W32 → W32) (d a b : BitVec 7) (ea eb : Bool) (s : State) (kept : Memory.wf s.mem = true) :
    NextWf (vectorS op d a b ea eb s) := by
  simp [vectorS, kept]

@[simp] theorem nextWf_convertInto (u : Use) (d a : BitVec 7) (f : W32 → W32 → W32 × Flags) (s : State) (kept : Memory.wf s.mem = true) :
    NextWf (convertInto u d a f s) := by
  simp [convertInto, kept]

@[simp] theorem nextWf_vectorC (rel : W32 → W32 → Bool) (d a b : BitVec 7) (ea eb : Bool) (s : State) (kept : Memory.wf s.mem = true) :
    NextWf (vectorC rel d a b ea eb s) := by
  simp +contextual [vectorC, kept]

@[simp] theorem nextWf_fpS (op : Rounding → W32 → W32 → W32 × Flags) (d a b : BitVec 7) (ea eb : Bool) (s : State)
    (kept : Memory.wf s.mem = true) :
    NextWf (fpS op d a b ea eb s) := by
  simp [fpS, kept]

@[simp] theorem nextWf_fpAccS (op : Rounding → W32 → W32 → W32 → W32 × Flags) (d a b : BitVec 7) (ea eb : Bool) (s : State)
    (kept : Memory.wf s.mem = true) :
    NextWf (fpAccS op d a b ea eb s) := by
  simp [fpAccS, kept]

@[simp] theorem nextWf_vectorLoad (n : Nat) (signed : Bool) (d o : BitVec 7) (h : BitVec 6) (byp ea : Bool) (s : State)
    (kept : Memory.wf s.mem = true) :
    NextWf (vectorLoad n signed d o h byp ea s) := by
  simp [vectorLoad, kept]

@[simp] theorem nextWf_attend (dirty : Bool) (vq vo sp : BitVec 7) (ea eb : Bool) (nq : BitVec 3) (sx sq : BitVec 7) (eq : Bool) (s : State)
    (kept : Memory.wf s.mem = true) :
    NextWf (attend dirty vq vo sp ea eb nq sx sq eq s) := by
  grind [attend, nextWf_next, State.holdFor_mem, State.onArch_mem, State.onWave_mem, finish_mem, nextWf_issue, nextWf_raise, raiseCount_mem]

@[simp] theorem nextWf_answerScalar (u : Use) (d : BitVec 7) (x : W64) (s : State) (kept : Memory.wf s.mem = true) :
    NextWf (answerScalar u d x s) := by
  simp [answerScalar, kept]

@[simp] theorem nextWf_placeWord (u : Use) (o : BitVec 7) (h : BitVec 6) (k : Found → State → Result) (s0 : State)
    (step : ∀ x s, Memory.wf s.mem = true → NextWf (k x s)) (kept : Memory.wf s0.mem = true) :
    NextWf (placeWord u o h k s0) :=
  by
  refine nextWf_issue _ _ _ (fun s taken => ?_) kept
  split
  · simp [taken]
  · split
    · split
      · simp [taken]
      · exact step _ _ taken
    · split
      · simp [kept]
      · split
        · simp [taken]
        · next h => exact step _ _ (wf_of_eq h (by simpa))
        · next h =>
          have checked := wf_of_eq h (by simpa)
          split
          · simpa
          · exact step _ _ checked
        · next h =>
          have checked := wf_of_eq h (by simpa)
          exact (nextWf_next _).2 checked

@[simp] theorem nextWf_placeNow (u : Use) (d o : BitVec 7) (h : BitVec 6) (x : Handle) (cls loc : Nat) (s0 s : State)
    (kept0 : Memory.wf s0.mem = true) (kept : Memory.wf s.mem = true) :
    NextWf (placeNow u d o h x cls loc s0 s) :=
  by
  unfold placeNow
  dsimp only
  split
  · simpa
  · have held : ∀ c : Prop, ∀ _ : Decidable c, ∀ n, Memory.wf (if c then s else startHeldAt n s).mem = true := by
      intro c _ n
      split
      · exact kept
      · exact wf_startHeldAt _ _ kept
    split
    · next h => exact nextWf_answerScalar _ _ _ _ (wf_placeAt _ _ _ _ _ (held ..) h)
    · exact (nextWf_next _).2 (by rw [refuseWord_mem]; exact held ..)

end Sys2Proof.Machine
end

section
/-! SUPPORT. Every instruction keeps the canonical form, by its form. -/

namespace Sys2Proof.Machine

theorem nextWf_execIllegalInstruction (_word : BitVec 32) (s : State) (kept : Memory.wf s.mem = true) :
    NextWf (execIllegalInstruction _word s) := by
  simp [execIllegalInstruction, kept]

theorem nextWf_execSmfr (d : BitVec 7) (spr : BitVec 12) (s : State) (kept : Memory.wf s.mem = true) : NextWf (execSmfr d spr s) := by
  simp [execSmfr, kept]

theorem nextWf_execSmtr (a : BitVec 7) (spr : BitVec 12) (ea : Bool) (s : State) (kept : Memory.wf s.mem = true) :
    NextWf (execSmtr a spr ea s) := by
  unfold execSmtr
  dsimp only
  refine nextWf_issue _ _ _ (fun s kept => ?_) kept
  (repeat' split) <;> simp [kept]

theorem nextWf_execSleep (a : BitVec 7) (ea : Bool) (s : State) (kept : Memory.wf s.mem = true) : NextWf (execSleep a ea s) := by
  simp +contextual [execSleep, kept]

theorem nextWf_execWaitc (path : BitVec 3) (r : BitVec 7) (ea : Bool) (s : State) (kept : Memory.wf s.mem = true) :
    NextWf (execWaitc path r ea s) := by
  simp +contextual [execWaitc, kept]

theorem nextWf_execBara (r : BitVec 7) (id : BitVec 5) (cnt : BitVec 7) (core : Bool) (ea : Bool) (s : State)
    (kept : Memory.wf s.mem = true) :
    NextWf (execBara r id cnt core ea s) := by
  simp [execBara, kept]

theorem nextWf_execBarw (id : BitVec 5) (tok : BitVec 7) (core : Bool) (ea : Bool) (s : State) (kept : Memory.wf s.mem = true) :
    NextWf (execBarw id tok core ea s) := by
  unfold execBarw
  dsimp only
  refine nextWf_issue _ _ _ (fun s kept => ?_) kept
  (repeat' split) <;> simp [kept]

theorem nextWf_execBari (id : BitVec 5) (cnt : BitVec 7) (core : Bool) (ea : Bool) (s : State) (kept : Memory.wf s.mem = true) :
    NextWf (execBari id cnt core ea s) := by
  simp [execBari, kept]

theorem nextWf_execPblk (sp : BitVec 7) (n : BitVec 3) (pattern : BitVec 8) (ea : Bool) (s : State) (kept : Memory.wf s.mem = true) :
    NextWf (execPblk sp n pattern ea s) := by
  simp [execPblk, kept]

theorem nextWf_execVcnar (d a : BitVec 7) (slot : BitVec 3) (rnd sel : BitVec 2) (ea : Bool) (s : State) (kept : Memory.wf s.mem = true) :
    NextWf (execVcnar d a slot rnd sel ea s) := by
  simp [execVcnar, kept]

theorem nextWf_execVcwid (d a : BitVec 7) (slot : BitVec 3) (sel : BitVec 2) (ea : Bool) (s : State) (kept : Memory.wf s.mem = true) :
    NextWf (execVcwid d a slot sel ea s) := by
  simp [execVcwid, kept]

theorem nextWf_execVct6 (d a : BitVec 7) (slot : BitVec 3) (rnd sel : BitVec 2) (ea : Bool) (s : State) (kept : Memory.wf s.mem = true) :
    NextWf (execVct6 d a slot rnd sel ea s) := by
  simp [execVct6, kept]

theorem nextWf_execVpk6 (d a : BitVec 7) (sel : BitVec 2) (ea : Bool) (s : State) (kept : Memory.wf s.mem = true) :
    NextWf (execVpk6 d a sel ea s) := by
  simp +contextual [execVpk6, kept]

theorem nextWf_execVunpk6 (d a : BitVec 7) (sel : BitVec 2) (ea : Bool) (s : State) (kept : Memory.wf s.mem = true) :
    NextWf (execVunpk6 d a sel ea s) := by
  simp [execVunpk6, kept]

theorem nextWf_execVredf (d a : BitVec 7) (ea : Bool) (s : State) (kept : Memory.wf s.mem = true) : NextWf (execVredf d a ea s) := by
  simp [execVredf, kept]

theorem nextWf_execVldl (d : BitVec 7) (o : BitVec 7) (h : BitVec 6) (byp : Bool) (ea : Bool) (s : State) (kept : Memory.wf s.mem = true) :
    NextWf (execVldl d o h byp ea s) := by
  simp [execVldl, kept]

theorem nextWf_execVstl (d : BitVec 7) (o : BitVec 7) (h : BitVec 6) (byp : Bool) (ed : Bool) (ea : Bool) (s : State)
    (kept : Memory.wf s.mem = true) :
    NextWf (execVstl d o h byp ed ea s) := by
  simp [execVstl, kept]

theorem nextWf_execStbind (d : BitVec 7) (h : BitVec 6) (byp : Bool) (ed : Bool) (s : State) (kept : Memory.wf s.mem = true) :
    NextWf (execStbind d h byp ed s) := by
  unfold execStbind
  dsimp only
  refine nextWf_issue _ _ _ (fun s kept => ?_) kept
  (repeat' split) <;> simp [kept]

theorem nextWf_execQbind (d : BitVec 7) (h : BitVec 6) (byp : Bool) (ed : Bool) (s : State) (kept : Memory.wf s.mem = true) :
    NextWf (execQbind d h byp ed s) := by
  unfold execQbind
  dsimp only
  refine nextWf_issue _ _ _ (fun s kept => ?_) kept
  (repeat' split) <;> simp [kept]

theorem nextWf_execQdrain (d : BitVec 7) (ed : Bool) (s : State) (kept : Memory.wf s.mem = true) : NextWf (execQdrain d ed s) := by
  unfold execQdrain
  dsimp only
  refine nextWf_issue _ _ _ (fun s kept => ?_) kept
  (repeat' split) <;> simp [kept]

theorem nextWf_execStend (d : BitVec 7) (ed : Bool) (s : State) (kept : Memory.wf s.mem = true) : NextWf (execStend d ed s) := by
  simp [execStend, kept]

theorem nextWf_execTbegin (d : BitVec 7) (a : BitVec 7) (ea : Bool) (s : State) (kept : Memory.wf s.mem = true) :
    NextWf (execTbegin d a ea s) := by
  unfold execTbegin
  dsimp only
  refine nextWf_issue _ _ _ (fun s kept => ?_) kept
  (repeat' split) <;> simp [kept]

theorem nextWf_execSlbrd (sd : BitVec 7) (h : BitVec 6) (sel : BitVec 3) (s : State) (kept : Memory.wf s.mem = true) :
    NextWf (execSlbrd sd h sel s) := by
  simp +contextual [execSlbrd, kept]

theorem nextWf_execMstz (s : State) (kept : Memory.wf s.mem = true) : NextWf (execMstz s) := by simp +contextual [execMstz, kept]

theorem nextWf_execMstrd (d : BitVec 7) (s : State) (kept : Memory.wf s.mem = true) : NextWf (execMstrd d s) := by
  simp +contextual [execMstrd, kept]

theorem nextWf_execMstwr (a : BitVec 7) (ea : Bool) (s : State) (kept : Memory.wf s.mem = true) : NextWf (execMstwr a ea s) := by
  simp +contextual [execMstwr, kept]

theorem nextWf_execMnorm (d : BitVec 7) (s : State) (kept : Memory.wf s.mem = true) : NextWf (execMnorm d s) := by
  simp +contextual [execMnorm, kept]

theorem nextWf_execCrdr (d : BitVec 7) (a : BitVec 7) (b : BitVec 7) (ea : Bool) (eb : Bool) (s : State) (kept : Memory.wf s.mem = true) :
    NextWf (execCrdr d a b ea eb s) := by
  unfold execCrdr
  refine nextWf_issue _ _ _ (fun s kept => ?_) kept
  simp [kept]

theorem nextWf_execStepq (d : BitVec 7) (a : BitVec 7) (ea : Bool) (s : State) (kept : Memory.wf s.mem = true) : NextWf (execStepq d a ea s) := by
  unfold execStepq
  dsimp only
  refine nextWf_issue _ _ _ (fun s kept => ?_) kept
  (repeat' split) <;> simp [kept]

theorem nextWf_execSeqrd (d : BitVec 7) (a : BitVec 7) (b : BitVec 7) (ea : Bool) (eb : Bool) (s : State) (kept : Memory.wf s.mem = true) :
    NextWf (execSeqrd d a b ea eb s) := by
  unfold execSeqrd
  dsimp only
  refine nextWf_issue _ _ _ (fun s kept => ?_) kept
  (repeat' split) <;> simp [kept]

theorem nextWf_execSsel (d a b : BitVec 7) (ea eb : Bool) (s : State) (kept : Memory.wf s.mem = true) : NextWf (execSsel d a b ea eb s) := by
  simp +contextual [execSsel, kept]

theorem nextWf_execSmovi (d : BitVec 7) (imm : BitVec 19) (s : State) (kept : Memory.wf s.mem = true) : NextWf (execSmovi d imm s) := by
  simp +contextual [execSmovi, kept]

theorem nextWf_execSinsh (d : BitVec 7) (k : BitVec 2) (imm : BitVec 16) (s : State) (kept : Memory.wf s.mem = true) :
    NextWf (execSinsh d k imm s) := by
  simp +contextual [execSinsh, kept]

theorem nextWf_execSgetx (d : BitVec 7) (s : State) (kept : Memory.wf s.mem = true) : NextWf (execSgetx d s) := by
  simp +contextual [execSgetx, kept]

theorem nextWf_execSsetx (a : BitVec 7) (ea : Bool) (s : State) (kept : Memory.wf s.mem = true) : NextWf (execSsetx a ea s) := by
  simp +contextual [execSsetx, kept]

theorem nextWf_execSfullx (d : BitVec 7) (s : State) (kept : Memory.wf s.mem = true) : NextWf (execSfullx d s) := by
  simp +contextual [execSfullx, kept]

theorem nextWf_execNop (s : State) (kept : Memory.wf s.mem = true) : NextWf (execNop s) := by simp [execNop, kept]

theorem nextWf_execYield (s : State) (kept : Memory.wf s.mem = true) : NextWf (execYield s) := by simp [execYield, kept]

theorem nextWf_execVwrx (a b : BitVec 7) (ea eb : Bool) (s : State) (kept : Memory.wf s.mem = true) : NextWf (execVwrx a b ea eb s) := by
  simp +contextual [execVwrx, kept]

theorem nextWf_execVrdx (d b : BitVec 7) (ea eb : Bool) (s : State) (kept : Memory.wf s.mem = true) : NextWf (execVrdx d b ea eb s) := by
  simp +contextual [execVrdx, kept]

theorem nextWf_execVreda (d a : BitVec 7) (ea : Bool) (s : State) (kept : Memory.wf s.mem = true) : NextWf (execVreda d a ea s) := by
  simp +contextual [execVreda, kept]

theorem nextWf_execVcmpk (d a : BitVec 7) (ea : Bool) (s : State) (kept : Memory.wf s.mem = true) : NextWf (execVcmpk d a ea s) := by
  simp +contextual [execVcmpk, kept]

theorem nextWf_execTtest (d : BitVec 7) (s : State) (kept : Memory.wf s.mem = true) : NextWf (execTtest d s) := by
  simp +contextual [execTtest, kept]

theorem nextWf_execCall (off : BitVec 22) (s : State) (kept : Memory.wf s.mem = true) : NextWf (execCall off s) := by simp [execCall, kept]

theorem nextWf_execTrap (imm : BitVec 8) (s : State) (kept : Memory.wf s.mem = true) : NextWf (execTrap imm s) := by
  simp +contextual [execTrap, kept]

theorem nextWf_execTret (s : State) (kept : Memory.wf s.mem = true) : NextWf (execTret s) := by simp [execTret, kept]

theorem nextWf_execSpecbar (s : State) (kept : Memory.wf s.mem = true) : NextWf (execSpecbar s) := by simp +contextual [execSpecbar, kept]

theorem nextWf_execBkpt (s : State) (kept : Memory.wf s.mem = true) : NextWf (execBkpt s) := by simp +contextual [execBkpt, kept]

theorem nextWf_execTabort (a : BitVec 7) (ea : Bool) (s : State) (kept : Memory.wf s.mem = true) : NextWf (execTabort a ea s) := by
  unfold execTabort
  dsimp only
  refine nextWf_issue _ _ _ (fun s kept => ?_) kept
  (repeat' split) <;> simp [kept]

theorem nextWf_execFence (s : State) (kept : Memory.wf s.mem = true) : NextWf (execFence s) := by simp +contextual [execFence, kept]

theorem nextWf_execFencei (s : State) (kept : Memory.wf s.mem = true) : NextWf (execFencei s) := by simp +contextual [execFencei, kept]

theorem nextWf_execFenceh (s : State) (kept : Memory.wf s.mem = true) : NextWf (execFenceh s) := by simp +contextual [execFenceh, kept]

theorem nextWf_execTlbinv (rs : BitVec 7) (tag : BitVec 8) (kind : BitVec 2) (ea : Bool) (s : State) (kept : Memory.wf s.mem = true) :
    NextWf (execTlbinv rs tag kind ea s) := by
  simp +contextual [execTlbinv, kept]

theorem nextWf_execGrdset (rs : BitVec 7) (slot : BitVec 8) (ea : Bool) (s : State) (kept : Memory.wf s.mem = true) :
    NextWf (execGrdset rs slot ea s) := by
  simp +contextual [execGrdset, kept]

theorem nextWf_execDbgrd (rs : BitVec 7) (sel : BitVec 12) (ea : Bool) (s : State) (kept : Memory.wf s.mem = true) :
    NextWf (execDbgrd rs sel ea s) := by
  simp [execDbgrd, kept]

theorem nextWf_execStpos (d : BitVec 7) (ed : Bool) (s : State) (kept : Memory.wf s.mem = true) : NextWf (execStpos d ed s) := by
  simp [execStpos, kept]

theorem nextWf_execStset (d : BitVec 7) (ed : Bool) (s : State) (kept : Memory.wf s.mem = true) : NextWf (execStset d ed s) := by
  simp [execStset, kept]

theorem nextWf_execDmrd (d : BitVec 7) (a : BitVec 7) (b : BitVec 7) (ea : Bool) (eb : Bool) (g : BitVec 5) (s : State)
    (kept : Memory.wf s.mem = true) :
    NextWf (execDmrd d a b ea eb g s) := by
  simp +contextual [execDmrd, kept]

theorem nextWf_execDmclr (d : BitVec 7) (a : BitVec 7) (b : BitVec 7) (ea : Bool) (eb : Bool) (ed : Bool) (g : BitVec 5) (s : State)
    (kept : Memory.wf s.mem = true) :
    NextWf (execDmclr d a b ea eb ed g s) := by
  simp [execDmclr, kept]

theorem nextWf_execGrdarm (tag : BitVec 8) (slot : BitVec 8) (s : State) (kept : Memory.wf s.mem = true) : NextWf (execGrdarm tag slot s) := by
  simp +contextual [execGrdarm, kept]

theorem nextWf_execGrdsetDoorbell (tag : BitVec 8) (slot : BitVec 8) (value : Bool) (s : State) (kept : Memory.wf s.mem = true) :
    NextWf (execGrdsetDoorbell tag slot value s) := by
  simp +contextual [execGrdsetDoorbell, kept]

theorem nextWf_execAdmtail (tag : BitVec 8) (value : BitVec 32) (s : State) (kept : Memory.wf s.mem = true) :
    NextWf (execAdmtail tag value s) := by
  simp [execAdmtail, kept]

theorem nextWf_execCplhead (tag : BitVec 8) (value : BitVec 32) (s : State) (kept : Memory.wf s.mem = true) :
    NextWf (execCplhead tag value s) := by
  simp +contextual [execCplhead, kept]

theorem nextWf_execCancel (tag : BitVec 8) (seq : BitVec 32) (s : State) (kept : Memory.wf s.mem = true) : NextWf (execCancel tag seq s) := by
  simp [execCancel, kept]

theorem nextWf_execIdentify (s : State) (kept : Memory.wf s.mem = true) : NextWf (execIdentify s) := by simp [execIdentify, kept]

theorem nextWf_execFwload (s : State) (kept : Memory.wf s.mem = true) : NextWf (execFwload s) := by simp [execFwload, kept]

theorem nextWf_execRollfwd (s : State) (kept : Memory.wf s.mem = true) : NextWf (execRollfwd s) := by simp [execRollfwd, kept]

theorem nextWf_execEvring (s : State) (kept : Memory.wf s.mem = true) : NextWf (execEvring s) := by simp [execEvring, kept]

theorem nextWf_execPartset (s : State) (kept : Memory.wf s.mem = true) : NextWf (execPartset s) := by simp [execPartset, kept]

theorem nextWf_execWstat (s : State) (kept : Memory.wf s.mem = true) : NextWf (execWstat s) := by simp +contextual [execWstat, kept]

theorem nextWf_execRetlist (s : State) (kept : Memory.wf s.mem = true) : NextWf (execRetlist s) := by simp +contextual [execRetlist, kept]

theorem nextWf_execIslcap (s : State) (kept : Memory.wf s.mem = true) : NextWf (execIslcap s) := by simp [execIslcap, kept]

theorem nextWf_execSkroute (s : State) (kept : Memory.wf s.mem = true) : NextWf (execSkroute s) := by simp [execSkroute, kept]

theorem nextWf_execReset (s : State) (kept : Memory.wf s.mem = true) : NextWf (execReset s) := by simp +contextual [execReset, kept]

theorem nextWf_execBaraw (r : BitVec 7) (id : BitVec 5) (cnt : BitVec 7) (core ea : Bool) (s : State) (kept : Memory.wf s.mem = true) :
    NextWf (execBaraw r id cnt core ea s) :=
  by
  refine nextWf_arriveWord _ _ _ _ _ _ (fun s phase kept => ?_) kept
  dsimp only
  split
  · exact (nextWf_next _).2 (by rwa [beginWait_mem _ _ _ (fun s => State.setS_mem _ _ _)])
  · simp [kept]

theorem nextWf_execWdist (d o : BitVec 7) (h : BitVec 6) (ea : Bool) (s : State) (kept : Memory.wf s.mem = true) :
    NextWf (execWdist d o h ea s) :=
  by
  unfold execWdist
  refine nextWf_placeWord _ _ _ _ _ (fun f s kept => ?_) kept
  split <;> simp [kept]

theorem nextWf_execWhome (d o : BitVec 7) (h : BitVec 6) (ea : Bool) (s : State) (kept : Memory.wf s.mem = true) :
    NextWf (execWhome d o h ea s) :=
  by
  unfold execWhome
  refine nextWf_placeWord _ _ _ _ _ (fun f s kept => ?_) kept
  split <;> simp [kept]

theorem nextWf_execWunpin (d o : BitVec 7) (h : BitVec 6) (ea : Bool) (s : State) (kept : Memory.wf s.mem = true) :
    NextWf (execWunpin d o h ea s) :=
  by
  unfold execWunpin
  refine nextWf_placeWord _ _ _ _ _ (fun f s kept => ?_) kept
  split
  · simp [kept]
  · refine nextWf_ite _ (by simp [kept]) ?_
    split
    · exact nextWf_ite _ (by simp [kept]) (nextWf_ite _ (by simp [kept]) (by simp [kept]))
    · simp [kept]
  · simp [kept]

theorem nextWf_execWpull (d o : BitVec 7) (h : BitVec 6) (ea : Bool) (s : State) (kept : Memory.wf s.mem = true) :
    NextWf (execWpull d o h ea s) :=
  by
  unfold execWpull
  refine nextWf_placeWord _ _ _ _ _ (fun f s' kept' => ?_) kept
  split <;> simp [kept, kept']

theorem nextWf_execWpin (d o : BitVec 7) (h : BitVec 6) (ed ea : Bool) (s : State) (kept : Memory.wf s.mem = true) :
    NextWf (execWpin d o h ed ea s) :=
  by
  unfold execWpin
  refine nextWf_placeWord _ _ _ _ _ (fun f s' kept' => ?_) kept
  (repeat' split) <;> simp [kept, kept']

theorem restoreWaves_mem (core : Nat) (es : List (Nat × Wave)) (r : State × List (Nat × Nat)) :
    (es.foldl (fun (r : State × List (Nat × Nat)) e =>
      let w := restoredForm r.1 core e.2
      (moveWave e.1 w.key w r.1, r.2 ++ [(e.1, w.key)])) r).1.mem = r.1.mem := by
  induction es generalizing r with
  | nil => rfl
  | cons e es ih => rw [List.foldl_cons, ih, moveWave_mem]

theorem nextWf_execTeamRestore (team core : Nat) (s : State) (kept : Memory.wf s.mem = true) : NextWf (execTeamRestore team core s) := by
  unfold execTeamRestore
  split
  · simpa
  · split
    · simpa
    · split
      · simpa
      · refine nextWf_readBlock _ _ _ _ _ (fun s kept => (nextWf_next _).2 ?_) kept
        dsimp only
        refine wf_foldl (fun s c kept => by simp [kept]) _ _ ?_
        rw [rekey_mem, restoreWaves_mem]
        dsimp only
        split <;> simp [kept]

theorem nextWf_execSlbmv (sd ss : BitVec 7) (ed es : Bool) (s : State) (kept : Memory.wf s.mem = true) : NextWf (execSlbmv sd ss ed es s) :=
  by
  unfold execSlbmv
  refine nextWf_issue _ _ _ (fun s kept => ?_) kept
  refine nextWf_withRanges _ _ _ (fun s kept => ?_) (canonical_checkRanges _ _ _ _ _ _ _ _ kept) kept
  split <;> simp [kept]

theorem canonical_roundCheck (s : State) (id : W32) (ptr p0 p1 : W64) (kept : Memory.wf s.mem = true) :
    (roundCheck s id ptr p0 p1).Canonical :=
  by
  unfold roundCheck
  exact canonical_checkRanges _ _ _ _ _ _ _ _ kept

theorem nextWf_execCrds (d a b : BitVec 7) (ea eb ed : Bool) (s : State) (kept : Memory.wf s.mem = true) :
    NextWf (execCrds d a b ea eb ed s) :=
  by
  unfold execCrds
  refine nextWf_issue _ _ _ (fun s kept => ?_) kept
  refine nextWf_withRanges _ _ _ (fun s kept => ?_) (canonical_roundCheck _ _ _ _ _ kept) kept
  split <;> simp [kept]

theorem nextWf_execSlbxl (sd so : BitVec 7) (h : BitVec 6) (ea : Bool) (rh : BitVec 6) (s : State) (kept : Memory.wf s.mem = true) :
    NextWf (execSlbxl sd so h ea rh s) :=
  by
  unfold execSlbxl
  refine nextWf_windowWord _ _ _ _ _ (fun hd locs s kept => ?_) kept
  split
  · simp [kept]
  · dsimp only
    refine nextWf_ite _ (by simp [kept]) (nextWf_ite _ (by simp [kept]) (nextWf_ite _ (by simp [kept]) ?_))
    split <;> simp [kept]

theorem nextWf_execTokc (a b : BitVec 7) (ea eb : Bool) (s : State) (kept : Memory.wf s.mem = true) : NextWf (execTokc a b ea eb s) := by
  unfold execTokc
  refine nextWf_issue _ _ _ (fun s kept => ?_) kept
  dsimp only
  refine nextWf_ite _ (by simp [kept]) (nextWf_ite _ (by simp [kept]) (nextWf_ite _ (by simp [kept]) ?_))
  split
  · next h =>
    have placed := wf_of_eq h (by rwa [translateBytes_mem])
    simp [placed]
  · next h =>
    have placed := wf_of_eq h (by rwa [translateBytes_mem])
    split <;> simp [placed]

theorem nextWf_execJmpr (a : BitVec 7) (ea : Bool) (s : State) (kept : Memory.wf s.mem = true) : NextWf (execJmpr a ea s) := by
  refine nextWf_issue _ _ _ (fun s kept => ?_) kept
  split <;> simp [kept]

theorem nextWf_execCallr (a : BitVec 7) (ea : Bool) (s : State) (kept : Memory.wf s.mem = true) : NextWf (execCallr a ea s) := by
  refine nextWf_issue _ _ _ (fun s kept => ?_) kept
  split <;> simp [kept]

theorem nextWf_execRet (s : State) (kept : Memory.wf s.mem = true) : NextWf (execRet s) := by
  refine nextWf_issue _ _ _ (fun s kept => ?_) kept
  split <;> simp [kept]

theorem nextWf_execHalt (s : State) (kept : Memory.wf s.mem = true) : NextWf (execHalt s) := by
  refine nextWf_issue _ _ _ (fun s kept => ?_) kept
  split <;> simp [kept]

theorem nextWf_execWaitr (r : BitVec 7) (s : State) (kept : Memory.wf s.mem = true) : NextWf (execWaitr r s) := by
  refine nextWf_issue _ _ _ (fun s kept => ?_) kept
  (repeat' split) <;> simp [kept]

theorem nextWf_execWaits (r : BitVec 7) (s : State) (kept : Memory.wf s.mem = true) : NextWf (execWaits r s) := by
  refine nextWf_issue _ _ _ (fun s kept => ?_) kept
  (repeat' split) <;> simp [kept]

theorem nextWf_execSnapct (rs : BitVec 7) (kind : BitVec 2) (ea : Bool) (s : State) (kept : Memory.wf s.mem = true) :
    NextWf (execSnapct rs kind ea s) :=
  by
  refine nextWf_supervise _ _ _ (fun s kept => ?_) kept
  dsimp only
  (repeat' split) <;> simp [kept]

theorem nextWf_execLqtail (tag : BitVec 8) (level : Nat) (value : BitVec 32) (s : State) (kept : Memory.wf s.mem = true) :
    NextWf (execLqtail tag level value s) :=
  by
  refine nextWf_doorbell _ _ _ (fun s kept => ?_) kept
  dsimp only
  (repeat' split) <;> simp [kept]

theorem nextWf_execCtxwrite (s : State) (kept : Memory.wf s.mem = true) : NextWf (execCtxwrite s) := by
  refine nextWf_command _ _ _ (fun s kept => ?_) kept
  dsimp only
  split
  · split
    · simp [kept]
    · exact wf_closeContext _ (fun s kept => wf_homeWords _ _ _ _ kept) _ kept
  · (repeat' split) <;> simp [kept]

theorem nextWf_execTend (s : State) (kept : Memory.wf s.mem = true) : NextWf (execTend s) := by
  refine nextWf_issue _ _ _ (fun s kept => ?_) kept
  split
  · simp [kept]
  · next t _ =>
    have logs : ∀ xs : List Access, Memory.wf (xs.foldl (fun (s : State) x => s.onWave (fun w =>
        Wave.land { w with pairLog := w.pairLog ++ [x], signature := signWrite w.signature x } x.path x.seq)) s).mem = true :=
      fun xs => by rwa [mem_foldl (fun s x => State.onWave_mem _ _)]
    dsimp only
    refine nextWf_ite _ (by simp [kept]) (nextWf_ite _ (by simp [kept]) (nextWf_ite _ (by simp [kept]) (nextWf_ite _ (by simp [kept]) (nextWf_ite _ ?_ ?_))))
    · refine (nextWf_next _).2 ?_
      rw [committed_mem]
      exact logs _
    · generalize hr : lockLines _ _ = r
      have locked : Memory.wf r.1.mem = true := by
        rw [← hr, lockLines_mem]
        split
        · rwa [mem_foldl (fun s l => grantHold_mem _ _)]
        · exact kept
      split
      · exact (nextWf_next _).2 locked
      · refine nextWf_ite _ (by simpa using locked) ?_
        split
        · simpa using locked
        · simpa using locked
        · next h => simpa using wf_commitAll _ _ locked h

theorem nextWf_exec (i : Instr) (s : State) (kept : Memory.wf s.mem = true) : NextWf (exec i s) := by
  cases i
  case slotArbitration => unfold exec; exact nextWf_execSlotArbitration _ _ kept
  case starvationPromotion => unfold exec; exact nextWf_execStarvationPromotion _ _ kept
  case loadDataReturn => unfold exec; exact nextWf_execLoadDataReturn _ _ _ kept
  case accessRetire => unfold exec; exact nextWf_execAccessRetire _ _ kept
  case storeBufferLeave => unfold exec; exact nextWf_execStoreBufferLeave _ _ kept
  case invalidationArrival => unfold exec; exact nextWf_execInvalidationArrival _ _ _ kept
  case evictionNotice => unfold exec; exact nextWf_execEvictionNotice _ _ _ kept
  case noticeCompletion => unfold exec; exact nextWf_execNoticeCompletion _ _ _ kept
  case acknowledgement => unfold exec; exact nextWf_execAcknowledgement _ _ _ kept
  case frontRequestAccept => unfold exec; exact nextWf_execFrontRequestAccept _ _ kept
  case retryTimerExpiry => unfold exec; exact nextWf_execRetryTimerExpiry _ _ _ _ kept
  case holdTimeout => unfold exec; exact nextWf_execHoldTimeout _ _ kept
  case tileLanding => unfold exec; exact nextWf_execTileLanding _ _ kept
  case fillComplete => unfold exec; exact nextWf_execFillComplete _ _ _ kept
  case scratchMotionStart => unfold exec; exact nextWf_execScratchMotionStart _ _ kept
  case portCapLoop => unfold exec; exact nextWf_execPortCapLoop _ _ kept
  case transcendentalStart => unfold exec; exact nextWf_execTranscendentalStart _ _ kept
  case transcendentalResult => unfold exec; exact nextWf_execTranscendentalResult _ _ kept
  case sleepDeadline => unfold exec; exact nextWf_execSleepDeadline _ _ kept
  case barrierWaitComplete => unfold exec; exact nextWf_execBarrierWaitComplete _ _ kept
  case streamPrefetch => unfold exec; exact nextWf_execStreamPrefetch _ _ _ kept
  case queueFetch => unfold exec; exact nextWf_execQueueFetch _ _ _ kept
  case storeQueueDrain => unfold exec; exact nextWf_execStoreQueueDrain _ _ _ kept
  case spindleCommandStart => unfold exec; exact nextWf_execSpindleCommandStart _ _ kept
  case matrixOperationStart => unfold exec; exact nextWf_execMatrixOperationStart _ _ kept
  case matrixOperationComplete => unfold exec; exact nextWf_execMatrixOperationComplete _ _ kept
  case whorlPartial => unfold exec; exact nextWf_execWhorlPartial _ _ _ _ kept
  case partialMerge => unfold exec; exact nextWf_execPartialMerge _ _ _ kept
  case carderRound => unfold exec; exact nextWf_execCarderRound _ _ kept
  case carderRecordRead => unfold exec; exact nextWf_execCarderRecordRead _ _ kept
  case distaffRead => unfold exec; exact nextWf_execDistaffRead _ _ kept
  case hostSnoop => unfold exec; exact nextWf_execHostSnoop _ _ _ kept
  case cxlMemRead => unfold exec; exact nextWf_execCxlMemRead _ _ _ kept
  case cxlMemWrite => unfold exec; exact nextWf_execCxlMemWrite _ _ _ kept
  case hostCompletion => unfold exec; exact nextWf_execHostCompletion _ _ _ kept
  case peerAcknowledgement => unfold exec; exact nextWf_execPeerAcknowledgement _ _ _ kept
  case peerRequest => unfold exec; exact nextWf_execPeerRequest _ _ _ _ _ _ _ _ kept
  case priResponse => unfold exec; exact nextWf_execPriResponse _ _ _ _ kept
  case priTimeout => unfold exec; exact nextWf_execPriTimeout _ _ _ kept
  case pageWalk => unfold exec; exact nextWf_execPageWalk _ _ _ _ _ kept
  case tlbinvComplete => unfold exec; exact nextWf_execTlbinvComplete _ _ kept
  case fresRetry => unfold exec; exact nextWf_execFresRetry _ _ _ kept
  case fresDeny => unfold exec; exact nextWf_execFresDeny _ _ _ kept
  case pageMove => unfold exec; exact nextWf_execPageMove _ _ _ _ _ kept
  case eventRingDenyTimeout => unfold exec; exact nextWf_execEventRingDenyTimeout _ _ _ kept
  case lqtail => unfold exec; exact nextWf_execLqtail _ _ _ _ kept
  case launchFetch => unfold exec; exact nextWf_execLaunchFetch _ _ _ kept
  case teamPlacement => unfold exec; exact nextWf_execTeamPlacement _ kept
  case levelRaise => unfold exec; exact nextWf_execLevelRaise _ _ kept
  case reserve => unfold exec; exact nextWf_execReserve _ _ kept
  case grdarm => unfold exec; exact nextWf_execGrdarm _ _ _ kept
  case grdsetDoorbell => unfold exec; exact nextWf_execGrdsetDoorbell _ _ _ _ kept
  case admtail => unfold exec; exact nextWf_execAdmtail _ _ _ kept
  case cplhead => unfold exec; exact nextWf_execCplhead _ _ _ kept
  case cancel => unfold exec; exact nextWf_execCancel _ _ _ kept
  case distaffStep => unfold exec; exact nextWf_execDistaffStep _ _ kept
  case stepCommit => unfold exec; exact nextWf_execStepCommit _ _ kept
  case sequenceRetirement => unfold exec; exact nextWf_execSequenceRetirement _ _ kept
  case poisonReport => unfold exec; exact nextWf_execPoisonReport _ _ _ kept
  case terminatingCause => unfold exec; exact nextWf_execTerminatingCause _ _ kept
  case frameRetire => unfold exec; exact nextWf_execFrameRetire _ _ _ _ kept
  case preemptionRequest => unfold exec; exact nextWf_execPreemptionRequest _ _ kept
  case teamSave => unfold exec; exact nextWf_execTeamSave _ _ kept
  case saveSeal => unfold exec; exact nextWf_execSaveSeal _ _ kept
  case teamRestore => unfold exec; exact nextWf_execTeamRestore _ _ _ kept
  case pairComparison => unfold exec; exact nextWf_execPairComparison _ _ _ kept
  case islandControlLoop => unfold exec; exact nextWf_execIslandControlLoop _ _ _ _ _ kept
  case modulePowerLoop => unfold exec; exact nextWf_execModulePowerLoop _ _ kept
  case fastClamp => unfold exec; exact nextWf_execFastClamp _ _ kept
  case thermalLimit => unfold exec; exact nextWf_execThermalLimit _ _ _ kept
  case thermalTrip => unfold exec; exact nextWf_execThermalTrip _ kept
  case retentionWindowLoop => unfold exec; exact nextWf_execRetentionWindowLoop _ _ _ _ kept
  case rowGroupRefresh => unfold exec; exact nextWf_execRowGroupRefresh _ _ _ _ kept
  case perstDeassertion => unfold exec; exact nextWf_execPerstDeassertion _ kept
  case stageAdvance => unfold exec; exact nextWf_execStageAdvance _ _ kept
  case functionLevelReset => unfold exec; exact nextWf_execFunctionLevelReset _ kept
  case stageDroppedClear => unfold exec; exact nextWf_execStageDroppedClear _ kept
  case identify => unfold exec; exact nextWf_execIdentify _ kept
  case fwload => unfold exec; exact nextWf_execFwload _ kept
  case rollfwd => unfold exec; exact nextWf_execRollfwd _ kept
  case evring => unfold exec; exact nextWf_execEvring _ kept
  case ctxwrite => unfold exec; exact nextWf_execCtxwrite _ kept
  case partset => unfold exec; exact nextWf_execPartset _ kept
  case wstat => unfold exec; exact nextWf_execWstat _ kept
  case retlist => unfold exec; exact nextWf_execRetlist _ kept
  case islcap => unfold exec; exact nextWf_execIslcap _ kept
  case skroute => unfold exec; exact nextWf_execSkroute _ kept
  case reset => unfold exec; exact nextWf_execReset _ kept
  case skeinPortDown => unfold exec; exact nextWf_execSkeinPortDown _ _ kept
  case skeinPortUp => unfold exec; exact nextWf_execSkeinPortUp _ _ kept
  case skeinPeerTimeout => unfold exec; exact nextWf_execSkeinPeerTimeout _ _ kept
  case cxlPortDown => unfold exec; exact nextWf_execCxlPortDown _ _ kept
  case cxlPortUp => unfold exec; exact nextWf_execCxlPortUp _ _ kept
  case spdmRequest => unfold exec; exact nextWf_execSpdmRequest _ _ kept
  case registerWrite => unfold exec; exact nextWf_execRegisterWrite _ _ _ kept
  case illegalInstruction => unfold exec; exact nextWf_execIllegalInstruction _ _ kept
  case cxlCacheOwnershipGrant => unfold exec; exact nextWf_execCxlCacheOwnershipGrant _ _ kept
  case backInvalidateResponse => unfold exec; exact nextWf_execBackInvalidateResponse _ _ kept
  case atsTranslationCompletion => unfold exec; exact nextWf_execAtsTranslationCompletion _ _ _ _ _ kept
  case sadd | ssub | smul | smulh | smulhu | sand | sor | sxor | sshl | sshr | ssra | smin | smax | sminu | smaxu | sandn | sceq | scne
    | sclt | scle | scltu | scleu | scbit =>
    unfold exec; exact nextWf_scalar3 _ _ _ _ _ _ _ kept
  case ssel => unfold exec; exact nextWf_execSsel _ _ _ _ _ _ kept
  case saddi | sandi | sori | sxori | sshli | sshri | ssrai | sclti | spopc | sffs | sclz | sctz | sbrev | sbswap | sextb | sexth | sextw
    | szextw =>
    unfold exec; exact nextWf_scalar1 _ _ _ _ _ kept
  case smovi => unfold exec; exact nextWf_execSmovi _ _ _ kept
  case sinsh => unfold exec; exact nextWf_execSinsh _ _ _ _ kept
  case sgetx => unfold exec; exact nextWf_execSgetx _ _ kept
  case ssetx => unfold exec; exact nextWf_execSsetx _ _ _ kept
  case sandx | sandnx | sorx => unfold exec; exact nextWf_scalarExec _ _ _ _ _ kept
  case sfullx => unfold exec; exact nextWf_execSfullx _ _ kept
  case br | brxz | brxnz | brxall | brz | brnz | brneg | brpos => unfold exec; exact nextWf_branch _ _ _ _ kept
  case call => unfold exec; exact nextWf_execCall _ _ kept
  case jmpr => unfold exec; exact nextWf_execJmpr _ _ _ kept
  case callr => unfold exec; exact nextWf_execCallr _ _ _ kept
  case ret => unfold exec; exact nextWf_execRet _ kept
  case smfr => unfold exec; exact nextWf_execSmfr _ _ _ kept
  case smtr => unfold exec; exact nextWf_execSmtr _ _ _ _ kept
  case nop => unfold exec; exact nextWf_execNop _ kept
  case yield => unfold exec; exact nextWf_execYield _ kept
  case halt => unfold exec; exact nextWf_execHalt _ kept
  case trap => unfold exec; exact nextWf_execTrap _ _ kept
  case tret => unfold exec; exact nextWf_execTret _ kept
  case specbar => unfold exec; exact nextWf_execSpecbar _ kept
  case sleep => unfold exec; exact nextWf_execSleep _ _ _ kept
  case bkpt => unfold exec; exact nextWf_execBkpt _ kept
  case waitc => unfold exec; exact nextWf_execWaitc _ _ _ _ kept
  case waitr => unfold exec; exact nextWf_execWaitr _ _ kept
  case waits => unfold exec; exact nextWf_execWaits _ _ kept
  case bara => unfold exec; exact nextWf_execBara _ _ _ _ _ _ kept
  case barw => unfold exec; exact nextWf_execBarw _ _ _ _ _ kept
  case baraw => unfold exec; exact nextWf_execBaraw _ _ _ _ _ _ kept
  case bari => unfold exec; exact nextWf_execBari _ _ _ _ _ kept
  case pblk => unfold exec; exact nextWf_execPblk _ _ _ _ _ kept
  case sldb | sldh | sldw | sldd | sldbs | sldhs | sldws => unfold exec; exact nextWf_scalarLoad _ _ _ _ _ _ _ _ kept
  case sstb | ssth | sstw | sstd => unfold exec; exact nextWf_scalarStore _ _ _ _ _ _ _ _ kept
  case vadd | vsub | vmullo | vmulhi | vmulhu | vmin | vmax | vminu | vand | vor | vxor | vandn | vshl | vshr | vsra | vmaxu =>
    unfold exec; exact nextWf_vector3 _ _ _ _ _ _ _ kept
  case vadds | vsubs | vmuls | vands | vors | vxors | vshls | vshrs => unfold exec; exact nextWf_vectorS _ _ _ _ _ _ _ kept
  case vaddi | vandi | vori | vxori | vshli | vshri | vsrai | vmuli | vmov | vclz | vpopc | vbrev =>
    unfold exec; exact nextWf_vector1 _ _ _ _ _ kept
  case vceq | vcne | vclt | vcle | vcgt | vcge | vcltu | vcleu => unfold exec; exact nextWf_vectorC _ _ _ _ _ _ _ kept
  case vmovs | vtid | vshuf | vshfx | vrots | vbcst | vscan => unfold exec; exact nextWf_vectorWord _ _ _ _ kept
  case vwrx => unfold exec; exact nextWf_execVwrx _ _ _ _ _ kept
  case vrdx => unfold exec; exact nextWf_execVrdx _ _ _ _ _ kept
  case vfadd | vfsub | vfmul | vfmin | vfmax | vhadd | vhmul | vbadd | vbmul => unfold exec; exact nextWf_fp3 _ _ _ _ _ _ _ kept
  case vfmac | vfmsc | vfnmac | vhmac | vbmac | vhdot | vbdot => unfold exec; exact nextWf_fpAcc3 _ _ _ _ _ _ _ kept
  case vfadds | vfsubs | vfmuls | vfmins | vfmaxs => unfold exec; exact nextWf_fpS _ _ _ _ _ _ _ kept
  case vfmacs => unfold exec; exact nextWf_fpAccS _ _ _ _ _ _ _ kept
  case vfceq | vfcne | vfclt | vfcle | vfcun | vfslt | vfsle => unfold exec; exact nextWf_fpCompare _ _ _ _ _ _ _ kept
  case vrcp | vrsq | vsqrt | vexp2 | vlog2 | vsin | vcos | vtanh => unfold exec; exact nextWf_transWord _ _ _ _ _ kept
  case vcf16 | vcbf => unfold exec; exact nextWf_convertInto _ _ _ _ _ kept
  case vcf32h | vcf32b | vci32 | vcf32i | vcn32 | vcf32n | vcf32t6 => unfold exec; exact nextWf_convert _ _ _ _ _ kept
  case vcnar => unfold exec; exact nextWf_execVcnar _ _ _ _ _ _ _ kept
  case vcwid => unfold exec; exact nextWf_execVcwid _ _ _ _ _ _ kept
  case vct6 => unfold exec; exact nextWf_execVct6 _ _ _ _ _ _ _ kept
  case vpk6 => unfold exec; exact nextWf_execVpk6 _ _ _ _ _ kept
  case vunpk6 => unfold exec; exact nextWf_execVunpk6 _ _ _ _ _ kept
  case vreda => unfold exec; exact nextWf_execVreda _ _ _ _ kept
  case vredf => unfold exec; exact nextWf_execVredf _ _ _ _ kept
  case vcmpk => unfold exec; exact nextWf_execVcmpk _ _ _ _ kept
  case vldb | vldh | vldw | vldd | vldq | vldbs | vldhs => unfold exec; exact nextWf_vectorLoad _ _ _ _ _ _ _ _ kept
  case vldl => unfold exec; exact nextWf_execVldl _ _ _ _ _ _ kept
  case vstb | vsth | vstw | vstd | vstq => unfold exec; exact nextWf_vectorStore _ _ _ _ _ _ _ _ kept
  case vstl => unfold exec; exact nextWf_execVstl _ _ _ _ _ _ _ kept
  case stbind => unfold exec; exact nextWf_execStbind _ _ _ _ _ kept
  case stpos => unfold exec; exact nextWf_execStpos _ _ _ kept
  case stset => unfold exec; exact nextWf_execStset _ _ _ kept
  case qbind => unfold exec; exact nextWf_execQbind _ _ _ _ _ kept
  case qdrain => unfold exec; exact nextWf_execQdrain _ _ _ kept
  case stend => unfold exec; exact nextWf_execStend _ _ _ kept
  case wdist => unfold exec; exact nextWf_execWdist _ _ _ _ _ kept
  case wpin => unfold exec; exact nextWf_execWpin _ _ _ _ _ _ kept
  case wunpin => unfold exec; exact nextWf_execWunpin _ _ _ _ _ kept
  case wpull => unfold exec; exact nextWf_execWpull _ _ _ _ _ kept
  case whome => unfold exec; exact nextWf_execWhome _ _ _ _ _ kept
  case aadd | amin | amax | aminu | amaxu | aand | aor | axor | axchg | acas | afadd =>
    unfold exec; exact nextWf_atomicWord _ _ _ _ _ _ _ _ _ _ _ _ kept
  case radd | rfadd | rbfadd | rmin | rmax | rand | ror | rxor => unfold exec; exact nextWf_reduceWord _ _ _ _ _ _ _ _ _ kept
  case tbegin => unfold exec; exact nextWf_execTbegin _ _ _ _ kept
  case tend => unfold exec; exact nextWf_execTend _ kept
  case tabort => unfold exec; exact nextWf_execTabort _ _ _ kept
  case ttest => unfold exec; exact nextWf_execTtest _ _ kept
  case cpy | cpy2d | cpyz => unfold exec; exact nextWf_linearCopy _ _ _ _ _ _ _ _ _ _ kept
  case cpyg | cpys => unfold exec; exact nextWf_indexedCopy _ _ _ _ _ _ _ _ _ _ _ _ kept
  case slbmv => unfold exec; exact nextWf_execSlbmv _ _ _ _ _ kept
  case fence => unfold exec; exact nextWf_execFence _ kept
  case fencei => unfold exec; exact nextWf_execFencei _ kept
  case fenceh => unfold exec; exact nextWf_execFenceh _ kept
  case slbxl => unfold exec; exact nextWf_execSlbxl _ _ _ _ _ _ kept
  case slbrd => unfold exec; exact nextWf_execSlbrd _ _ _ _ kept
  case mma | mmaz => unfold exec; exact nextWf_multiply _ _ _ _ _ _ _ _ _ _ _ _ _ _ _ _ kept
  case mmac | mmacz => unfold exec; exact nextWf_chain _ _ _ _ _ _ _ _ kept
  case mstz => unfold exec; exact nextWf_execMstz _ kept
  case mstrd => unfold exec; exact nextWf_execMstrd _ _ kept
  case mstwr => unfold exec; exact nextWf_execMstwr _ _ _ kept
  case mnorm => unfold exec; exact nextWf_execMnorm _ _ kept
  case watt | wattd => unfold exec; exact nextWf_attend _ _ _ _ _ _ _ _ _ _ _ kept
  case crds => unfold exec; exact nextWf_execCrds _ _ _ _ _ _ _ kept
  case crdr => unfold exec; exact nextWf_execCrdr _ _ _ _ _ _ kept
  case dmrd => unfold exec; exact nextWf_execDmrd _ _ _ _ _ _ _ kept
  case dmclr => unfold exec; exact nextWf_execDmclr _ _ _ _ _ _ _ _ kept
  case stepq => unfold exec; exact nextWf_execStepq _ _ _ _ kept
  case tokc => unfold exec; exact nextWf_execTokc _ _ _ _ _ kept
  case seqrd => unfold exec; exact nextWf_execSeqrd _ _ _ _ _ _ kept
  case tlbinv => unfold exec; exact nextWf_execTlbinv _ _ _ _ _ kept
  case grdset => unfold exec; exact nextWf_execGrdset _ _ _ _ kept
  case snapct => unfold exec; exact nextWf_execSnapct _ _ _ _ kept
  case dbgrd => unfold exec; exact nextWf_execDbgrd _ _ _ _ kept

end Sys2Proof.Machine
end

section
/-! SUPPORT. A turn keeps the canonical form: fetch, issue and the end of the turn around an instruction (R137). -/

namespace Sys2Proof.Machine

open Sys2Proof.Safety

/-- The state that a fetched turn goes on from keeps canonical memory. -/
def Ready.Canonical : Ready → Prop
  | .done s => Memory.wf s.mem = true
  | .words _ _ s => Memory.wf s.mem = true

theorem canonical_trapAt (cause : BitVec 8) (inst va : W64) (s : State) (kept : Memory.wf s.mem = true) :
    (trapAt cause inst va s).Canonical := by
  simp [trapAt, Ready.Canonical, kept]

theorem canonical_fetchFault (va : W64) (cause : BitVec 8) (level : Nat) (large : Bool) (s : State) (kept : Memory.wf s.mem = true) :
    (fetchFault va cause level large s).Canonical := by
  simp [fetchFault, Ready.Canonical, kept]

theorem wf_of_fetchWord {pc : W64} {s t : State} {f : Fetch} (h : fetchWord pc s = (t, f)) (kept : Memory.wf s.mem = true) :
    Memory.wf t.mem = true := wf_of_eq h (by rwa [fetchWord_mem])

theorem canonical_nextWords (s : State) (kept : Memory.wf s.mem = true) : (nextWords s).Canonical := by
  have settled : Memory.wf (if s.w.a.pos.index = 0 && (headerW s.w.a.pos.header).getLsbD 3 then settleMatrix s else s).mem = true := by
    split <;> simp [kept]
  unfold nextWords
  dsimp only
  split
  · simp [Ready.Canonical, kept]
  · split
    · simp [Ready.Canonical, kept]
    · split
      · simp [Ready.Canonical, kept]
      · split
        · next h => exact canonical_trapAt _ _ _ _ (wf_of_fetchWord h settled)
        · next h => exact canonical_trapAt _ _ _ _ (wf_of_fetchWord h settled)
        · next h => exact canonical_fetchFault _ _ _ _ _ (wf_of_fetchWord h settled)
        · next h =>
          have first := wf_of_fetchWord h settled
          split
          · exact canonical_trapAt _ _ _ _ first
          · split
            · simp [Ready.Canonical, first]
            · split
              · next h => exact canonical_trapAt _ _ _ _ (wf_of_fetchWord h first)
              · next h => exact canonical_trapAt _ _ _ _ (wf_of_fetchWord h first)
              · next h => exact canonical_fetchFault _ _ _ _ _ (wf_of_fetchWord h first)
              · next h => simp [Ready.Canonical, wf_of_fetchWord h first]

theorem canonical_nextClause (s : State) (kept : Memory.wf s.mem = true) : (nextClause s).Canonical := by
  unfold nextClause
  dsimp only
  split
  · simp [Ready.Canonical, kept]
  · have dropped : Memory.wf (s.onWave (fun w => { w with kept := [] })).mem = true := by simp [kept]
    split
    · next h => exact canonical_trapAt _ _ _ _ (wf_of_fetchWord h dropped)
    · next h => exact canonical_trapAt _ _ _ _ (wf_of_fetchWord h dropped)
    · next h => exact canonical_fetchFault _ _ _ _ _ (wf_of_fetchWord h dropped)
    · next h =>
      have header := wf_of_fetchWord h dropped
      split
      · exact canonical_trapAt _ _ _ _ header
      · split
        · simp [Ready.Canonical, header]
        · exact canonical_nextWords _ (by simp [header])

theorem canonical_prepare (s : State) (kept : Memory.wf s.mem = true) : (prepare s).Canonical := by
  unfold prepare
  split
  · simp [Ready.Canonical, kept]
  · split
    · simp [Ready.Canonical, kept]
    · split
      · simp [Ready.Canonical, kept]
      · split
        · exact canonical_nextWords s kept
        · exact canonical_nextClause s kept

theorem nextWf_onNext {f : State → State} (step : ∀ s, Memory.wf s.mem = true → Memory.wf (f s).mem = true) {r : Result} (kept : NextWf r) :
    NextWf (onNext f r) := by
  cases r with
  | next s => exact (nextWf_next _).2 (step s ((nextWf_next s).1 kept))
  | _ => exact kept

theorem nextWf_issueTurn (s : State) (kept : Memory.wf s.mem = true) : NextWf (issueTurn s) := by
  have prepared := canonical_prepare s kept
  unfold issueTurn
  cases h : prepare s with
  | done t => simpa [h, Ready.Canonical] using prepared
  | words w0 w1 t =>
    rw [h] at prepared
    exact nextWf_onNext (fun s kept => by rwa [afterIssue_mem]) (nextWf_exec _ _ prepared)

theorem nextWf_waveTurn (k : Nat) (s : State) (kept : Memory.wf s.mem = true) : NextWf (waveTurn k s) :=
  nextWf_onNext (wf_endTurn (some k)) (nextWf_issueTurn _ (by simp [kept]))

theorem nextWf_deviceTurn (i : Instr) (s : State) (kept : Memory.wf s.mem = true) : NextWf (deviceTurn i s) :=
  nextWf_onNext (wf_endTurn none) (nextWf_exec _ _ (wf_foreseen i s kept))

theorem nextWf_pickTurn (n : Nat) (s : State) (kept : Memory.wf s.mem = true) : NextWf (pickTurn n s) := by
  unfold pickTurn
  dsimp only
  split
  · exact nextWf_waveTurn _ s kept
  · split
    · exact nextWf_deviceTurn _ _ kept
    · exact (nextWf_next _).2 (wf_endTurn none s kept)

theorem nextWf_turn (s : State) (kept : Memory.wf s.mem = true) : NextWf (turn s) := by
  unfold turn
  split
  · exact nextWf_deviceTurn _ _ kept
  · dsimp only
    split
    · exact nextWf_pickTurn _ _ kept
    · exact nextWf_pickTurn _ _ kept

/-- Settles O57: every instruction and device step answers canonical memory (`nextWf_exec`), and a turn
runs one of them between writes of its own that keep it. -/
theorem canonicalStep : Obligations.CanonicalStep := by
  intro s t kept h
  exact nextWf_turn s kept t h

/-- Settles O56: reset lists no byte. -/
theorem canonicalReset : Obligations.CanonicalReset := ⟨wf_reset_mem, fun _ => rfl⟩

end Sys2Proof.Machine
end

section
/-! SUPPORT. The first check of R84 that a memory word's place fails raises its trap; a scalar word has one place (R179). -/

namespace Sys2Proof.Machine

open Sys2Proof.Safety

/-- A memory word whose place fails a check raises the check's cause before any effect (R84, R154). -/
theorem memWord_trap {u : Use} {m : State → MemWord} {s t t' : State} {cause : BitVec 8} {mask : W64} (issues : Issues u s t)
    (threads : (m t).offs ≠ []) (unit : refusedOf t t.w.core < 64) (known : (m t).op.writes = true ∨ t.w.writePending = false)
    (fails : checkAccess t.w (.core t.w.core) (m t).handle (m t).kind (m t).n (m t).align (m t).offs t = (t', .trap cause mask)) :
    memWord u m s = raiseAccess cause mask (m t).kind.access (failingVa t.w (m t).handle (m t).offs mask) s := by
  have ready : ¬ (64 ≤ refusedOf t t.w.core || (!(m t).op.writes && t.w.writePending)) = true := by
    rcases known with known | known <;> simp [Nat.not_le.2 unit, known]
  unfold memWord
  rw [issue_go issues]
  unfold memAccess
  rw [if_neg (by simpa using threads), if_neg ready, fails]

variable {w : Wave} {cache : Cache} {h n align : Nat} {kind : Kind} {offs : List (Nat × Nat)} {hd : Handle}

theorem checkAccess_noHandle (absent : w.env.handle h = none) (s : State) :
    checkAccess w cache h kind n align offs s = (s, .trap Cause.handle (maskOf (offs.map (·.1)))) := by
  simp only [checkAccess, absent]

theorem checkAccess_notPermitted (handle : w.env.handle h = some hd) (space : hd.space = 0) (refused : hd.permits kind = false) (s : State) :
    checkAccess w cache h kind n align offs s = (s, .trap Cause.permission (maskOf (offs.map (·.1)))) := by
  simp [checkAccess, handle, space, refused]

/-- Through a handle of space 0 that permits the access, outside a transaction, alignment and the limit are the checks left before
translation (R84, R117). -/
theorem checkAccess_ofPermitted (handle : w.env.handle h = some hd) (space : hd.space = 0) (permitted : hd.permits kind = true)
    (outside : w.txn = none) (s : State) :
    checkAccess w cache h kind n align offs s =
      if (failing offs (fun o => o % align != 0)).isEmpty then checkPlaces w cache hd kind n offs none s
      else (s, .trap Cause.misaligned (maskOf (failing offs (fun o => o % align != 0)))) := by
  simp [checkAccess, handle, space, permitted, outside]

theorem checkPlaces_outOfBounds (space : hd.space = 0) (beyond : failing offs (fun o => decide (hd.limit < o + n - 1)) ≠ [])
    (slab : Option (SlabSample × Nat)) (s : State) :
    checkPlaces w cache hd kind n offs slab s =
      (s, .trap Cause.bounds (maskOf (failing offs (fun o => decide (hd.limit < o + n - 1))))) := by
  simp [checkPlaces, space, beyond]

/-- What a scalar memory word raises where its one place, at offset `o`, fails a check: no thread is in its mask. -/
theorem memWord_scalarTraps {u : Use} {m : State → MemWord} {s : State} {o : Nat} (issues : Issues u s s)
    (unit : refusedOf s s.w.core < 64) (known : (m s).op.writes = true ∨ s.w.writePending = false) (offs : (m s).offs = [(64, o)]) :
    (s.w.env.handle (m s).handle = none →
      memWord u m s = .next (takeTrap { trapHere s Cause.handle 0 0 with access := (m s).kind.access } s)) ∧
    ∀ hd, s.w.env.handle (m s).handle = some hd → hd.space = 0 →
      let t := fun cause => Host.Outcome.next (takeTrap
        { trapHere s cause 0 0 with access := (m s).kind.access, va := hd.base + BitVec.ofNat 64 o } s)
      (hd.permits (m s).kind = false → memWord u m s = t Cause.permission) ∧
      (hd.permits (m s).kind = true → s.w.txn = none → o % (m s).align ≠ 0 → memWord u m s = t Cause.misaligned) ∧
      (hd.permits (m s).kind = true → s.w.txn = none → o % (m s).align = 0 → hd.limit < o + (m s).n - 1 →
        memWord u m s = t Cause.bounds) := by
  have threads : (m s).offs ≠ [] := by simp [offs]
  have noMask : maskOf [64] = 0 := by decide
  refine ⟨fun absent => ?_, fun hd handle space => ?_⟩
  · rw [memWord_trap issues threads unit known (checkAccess_noHandle absent s)]
    simp [offs, noMask, raiseAccess, failingVa, absent]
    rfl
  · have raises : ∀ {cause : BitVec 8},
        checkAccess s.w (.core s.w.core) (m s).handle (m s).kind (m s).n (m s).align (m s).offs s = (s, .trap cause (maskOf [64])) →
        memWord u m s = .next (takeTrap
          { trapHere s cause 0 0 with access := (m s).kind.access, va := hd.base + BitVec.ofNat 64 o } s) := by
      intro cause fails
      rw [memWord_trap issues threads unit known fails]
      simp [offs, noMask, raiseAccess, failingVa, handle, space]
    refine ⟨fun refused => raises ?_, fun permitted outside odd => raises ?_, fun permitted outside even beyond => raises ?_⟩
    · rw [checkAccess_notPermitted handle space refused s]
      simp [offs]
    · rw [checkAccess_ofPermitted handle space permitted outside s]
      simp [offs, failing, odd]
    · rw [checkAccess_ofPermitted handle space permitted outside s]
      simp [offs, failing, even, checkPlaces_outOfBounds space, beyond]

end Sys2Proof.Machine
end

section
/-! SUPPORT. The scalar loads and stores (R197). -/

namespace Sys2Proof.Machine

open Sys2Proof.Safety

/-- Settles O21: each word is `scalarLoad` or `scalarStore` of its width, an access that joins the wave's (`memWord_go`) or the trap of the
first check that fails (`memWord_scalarTraps`). -/
theorem scalarMemory : Obligations.ScalarMemory := by
  unfold Obligations.ScalarMemory
  refine ⟨?loads, ?stores, fun p mem s d o h byp ea unit known issues => ?_, fun p mem s d o h byp ed ea unit issues => ?_⟩
  case loads =>
    simp only [List.forall_mem_cons, List.not_mem_nil, false_imp_iff, implies_true, and_true]
    and_intros <;> exact fun s t' d o h byp ea hd places issues accesses => memWord_go issues accesses
  case stores =>
    simp only [List.forall_mem_cons, List.not_mem_nil, false_imp_iff, implies_true, and_true]
    and_intros <;> exact fun s t' d o h byp ed ea hd places issues accesses => memWord_go issues accesses
  · have word : ∃ signed, exec (p.1 d o h byp ea) s = scalarLoad p.2 signed d o h byp ea s := by
      revert p
      simp only [List.forall_mem_cons, List.not_mem_nil, false_imp_iff, implies_true, and_true]
      exact ⟨⟨false, rfl⟩, ⟨false, rfl⟩, ⟨false, rfl⟩, ⟨false, rfl⟩, ⟨true, rfl⟩, ⟨true, rfl⟩, ⟨true, rfl⟩⟩
    obtain ⟨signed, word⟩ := word
    rw [word]
    exact memWord_scalarTraps (m := fun s => {
      handle := h.toNat, byp := byp, kind := .load, n := p.2, align := p.2, op := .loadS d.toNat p.2 signed, offs := scalarOffs s o,
      dstS := [d.toNat] }) issues unit (.inr known) rfl
  · have word : exec (p.1 d o h byp ed ea) s = scalarStore p.2 d o h byp ed ea s := by
      revert p
      simp only [List.forall_mem_cons, List.not_mem_nil, false_imp_iff, implies_true, and_true]
      exact ⟨rfl, rfl, rfl, rfl⟩
    rw [word]
    exact memWord_scalarTraps (m := fun s => {
      handle := h.toNat, byp := byp, kind := .store, n := p.2, align := p.2, op := .store, offs := scalarOffs s o,
      data := fun _ => bytesOfNat (s.sreg d.toNat).toNat p.2 }) issues unit (.inl rfl) rfl

end Sys2Proof.Machine
end

section
/-! SUPPORT. The vector loads and stores: a part of the access for each acting thread (R198, R199, R200). -/

namespace Sys2Proof.Machine

open Sys2Proof.Safety

/-- With no thread to access, a memory word moves past itself and makes no access (R198). -/
theorem memWord_idle {u : Use} {m : State → MemWord} {s t : State} (issues : Issues u s t) (idle : (m t).offs = []) :
    memWord u m s = .next (finish { u with late := false } t) := by
  unfold memWord
  rw [issue_go issues]
  unfold memAccess
  rw [if_pos (by simp [idle])]

section
variable {n : Nat} {signed : Bool} {d o : BitVec 7} {h : BitVec 6} {byp ed ea : Bool} {s t t' : State} {hd : Handle} {places : List Place}

theorem vectorLoad_go (legal : badGroup s d (groupSize n) = false)
    (issues : Issues { covered := true, srcV := [(o.toNat, ea)], dstV := regsFrom d (groupSize n), late := true } s t) :
    let u : Use := { covered := true, srcV := [(o.toNat, ea)], dstV := regsFrom d (groupSize n), late := true }
    let m : MemWord := {
      handle := h.toNat, byp := byp, kind := .load, n := n, align := min n 16, op := .loadV d.toNat n signed,
      offs := vectorOffs t o, dstV := regsFrom d (groupSize n) }
    (t.w.actingThreads = [] → vectorLoad n signed d o h byp ea s = .next (finish { u with late := false } t)) ∧
    (Accesses m s t t' hd places → vectorLoad n signed d o h byp ea s = .next (finish u (accessed m t' hd places))) := by
  unfold vectorLoad
  dsimp only
  rw [legal]
  exact ⟨fun idle => memWord_idle issues (by simp [vectorOffs, idle]), fun accesses => memWord_go issues accesses⟩

theorem vectorStore_go (legal : badGroup s d (groupSize n) = false)
    (issues : Issues { covered := true, srcV := (o.toNat, ea) :: (regsFrom d (groupSize n)).map (fun r => (r, ed)) } s t) :
    let u : Use := { covered := true, srcV := (o.toNat, ea) :: (regsFrom d (groupSize n)).map (fun r => (r, ed)) }
    let m : MemWord := {
      handle := h.toNat, byp := byp, kind := .store, n := n, align := min n 16, op := .store,
      offs := vectorOffs t o, data := vectorData t d (groupSize n) n }
    (t.w.actingThreads = [] → vectorStore n d o h byp ed ea s = .next (finish u t)) ∧
    (Accesses m s t t' hd places → vectorStore n d o h byp ed ea s = .next (finish u (accessed m t' hd places))) := by
  unfold vectorStore
  dsimp only
  rw [legal]
  exact ⟨fun idle => memWord_idle issues (by simp [vectorOffs, idle]), fun accesses => memWord_go issues accesses⟩

end

/-- Settles O22: each word is `vectorLoad` or `vectorStore` of its width; VLDL and VSTL are memory words of one place. -/
theorem vectorMemory : Obligations.VectorMemory := by
  unfold Obligations.VectorMemory
  refine ⟨?loads, ?stores, fun s t t' d o h byp ed ea hd places legal => ⟨fun issues accesses => ?_, fun issues accesses => ?_⟩⟩
  case loads =>
    simp only [List.forall_mem_cons, List.not_mem_nil, false_imp_iff, implies_true, and_true]
    and_intros <;> exact fun s t t' d o h byp ea hd places legal issues => vectorLoad_go legal issues
  case stores =>
    simp only [List.forall_mem_cons, List.not_mem_nil, false_imp_iff, implies_true, and_true]
    and_intros <;> exact fun s t t' d o h byp ed ea hd places legal issues => vectorStore_go legal issues
  · change execVldl d o h byp ea s = _
    unfold execVldl
    dsimp only
    rw [legal]
    exact memWord_go issues accesses
  · change execVstl d o h byp ed ea s = _
    unfold execVstl
    dsimp only
    rw [legal]
    exact memWord_go issues accesses

end Sys2Proof.Machine
end

section
/-! SUPPORT. The new values of atomics and reductions (Table 10.7, R208). -/

namespace Sys2Proof.Machine

open Sys2Proof.Safety

theorem slt_ofNat (w m x : Nat) :
    (BitVec.ofNat w m).slt (BitVec.ofNat w x) = decide ((BitVec.ofNat w m).toInt < (BitVec.ofNat w x).toInt) := rfl

/-- The integer atomics on operands of `n` bytes: sums modulo the width, signed and unsigned comparison, bits, exchange (Table 10.7). -/
theorem atomicValue_integer {n m x : Nat} (cmp : Nat) (hm : m < 2 ^ (8 * n)) (hx : x < 2 ^ (8 * n)) :
    atomicValue 0 n m x cmp = (m + x) % 2 ^ (8 * n) ∧
    atomicValue 1 n m x cmp = (if (BitVec.ofNat (8 * n) x).toInt < (BitVec.ofNat (8 * n) m).toInt then x else m) ∧
    atomicValue 2 n m x cmp = (if (BitVec.ofNat (8 * n) m).toInt < (BitVec.ofNat (8 * n) x).toInt then x else m) ∧
    atomicValue 3 n m x cmp = min m x ∧ atomicValue 4 n m x cmp = max m x ∧ atomicValue 5 n m x cmp = m &&& x ∧
    atomicValue 6 n m x cmp = m ||| x ∧ atomicValue 7 n m x cmp = m ^^^ x ∧ atomicValue 8 n m x cmp = x ∧
    atomicValue 9 n m x cmp = (if m = cmp then x else m) := by
  have m_fits : m % 2 ^ (8 * n) = m := Nat.mod_eq_of_lt hm
  have x_fits : x % 2 ^ (8 * n) = x := Nat.mod_eq_of_lt hx
  refine ⟨?_, ?_, ?_, rfl, rfl, ?_, ?_, ?_, rfl, rfl⟩
  · simp [atomicValue]
  · simp [atomicValue, slt_ofNat]
  · simp [atomicValue, slt_ofNat]
  · simp [atomicValue, m_fits, x_fits]
  · simp [atomicValue, m_fits, x_fits]
  · simp [atomicValue, m_fits, x_fits]

section
variable {f : Fmt} {mode : Rounding} {a b : Nat}

theorem Fmt.add_nan {sg : Bool} (nan : f.decode a = .nan sg ∨ f.decode b = .nan sg) : (f.add mode a b).1 = f.nanBits := by
  rcases nan with nan | nan <;> simp [Fmt.add, Fmt.sum, nan, Num.isNan]

theorem Fmt.add_inf_inf {n n' : Bool} (ha : f.decode a = .inf n) (hb : f.decode b = .inf n') :
    (f.add mode a b).1 = if n = n' then f.signed n f.infBits else f.nanBits := by
  cases n <;> cases n' <;> simp [Fmt.add, Fmt.sum, ha, hb, Num.isNan]

theorem Fmt.add_inf_fin {n n' : Bool} {k : Nat} {e : Int}
    (alone : (f.decode a = .inf n ∧ f.decode b = .fin n' k e) ∨ (f.decode a = .fin n' k e ∧ f.decode b = .inf n)) :
    (f.add mode a b).1 = f.signed n f.infBits := by
  rcases alone with ⟨ha, hb⟩ | ⟨ha, hb⟩ <;> cases n <;> simp [Fmt.add, Fmt.sum, ha, hb, Num.isNan]

/-- A sum of a format with its flags left out: rounded once to nearest even, and what the special operands give (R57, R208). -/
theorem Fmt.add_atomic (sound : f.Sound) (m x : Nat) :
    (∀ (n n' : Bool) (a a' : Nat) (e e' : Int), f.decode m = .fin n a e → f.decode x = .fin n' a' e' →
      ∃ fl, RoundedOnce f .rne (valueOf n a e + valueOf n' a' e') ((f.add .rne m x).1, fl)) ∧
    (∀ sg, f.decode m = .nan sg ∨ f.decode x = .nan sg → (f.add .rne m x).1 = f.nanBits) ∧
    (∀ n n' : Bool, f.decode m = .inf n → f.decode x = .inf n' →
      (f.add .rne m x).1 = if n = n' then f.signed n f.infBits else f.nanBits) ∧
    ∀ (n n' : Bool) (a : Nat) (e : Int), (f.decode m = .inf n ∧ f.decode x = .fin n' a e) ∨ (f.decode m = .fin n' a e ∧ f.decode x = .inf n) →
      (f.add .rne m x).1 = f.signed n f.infBits :=
  ⟨fun _ _ _ _ _ _ hm hx => ⟨(f.add .rne m x).2, Fmt.add_once sound .rne hm hx⟩, fun _ nan => Fmt.add_nan nan,
    fun _ _ hm hx => Fmt.add_inf_inf hm hx, fun _ _ _ _ alone => Fmt.add_inf_fin alone⟩

end

end Sys2Proof.Machine
end

section
/-! SUPPORT. The returning atomics and the reductions (R205, R206). -/

namespace Sys2Proof.Machine

open Sys2Proof.Safety

/-- A returning atomic of legal width and registers is a memory word of vector or scalar registers. -/
theorem atomicWord_legal {fn : Nat} {d o : BitVec 7} {h : BitVec 6} {byp ea : Bool} {opnd : BitVec 7} {cmp : Option (BitVec 7 × Bool)}
    {width : BitVec 2} {scalar eo : Bool} {s : State} (widthLegal : widthOk fn width = true) (dst : badAtomicReg s width scalar d = false)
    (operand : badAtomicReg s width scalar opnd = false) (compare : ∀ c, cmp = some c → badAtomicReg s width scalar c.1 = false) :
    atomicWord fn d o h byp ea opnd cmp width scalar eo s =
      let k := atomicRegs width scalar
      let n := 4 * 2 ^ width.toNat
      let ops := (regsFrom opnd k).map (fun r => (r, eo)) ++ (cmp.elim [] fun c => (regsFrom c.1 k).map (fun r => (r, c.2)))
      let c := cmp.elim opnd (·.1)
      memWord {
        words := 2, late := true, compare := true,
        srcS := if scalar then (o.toNat, ea) :: ops else [], srcV := if scalar then [] else (o.toNat, ea) :: ops,
        dstS := if scalar then regsFrom d k else [], dstV := if scalar then [] else regsFrom d k } (fun s => {
        handle := h.toNat, byp := byp, kind := .atomic fn width.toNat, n := n, align := n,
        op := .atomic fn d.toNat width.toNat scalar, offs := if scalar then scalarOffs s o else vectorOffs s o,
        data := fun th => if scalar then scalarData s opnd k n else vectorData s opnd k n th,
        cmp := fun th => if scalar then scalarData s c k n else vectorData s c k n th,
        dstV := if scalar then [] else regsFrom d k, dstS := if scalar then regsFrom d k else [] }) s := by
  cases cmp with
  | none => cases scalar <;> simp [atomicWord, widthLegal, dst, operand]
  | some c =>
    have compared := compare c rfl
    cases scalar <;> simp [atomicWord, widthLegal, dst, operand, compared]

/-- Settles O23: the words are memory words (`memWord_go`) once their width and registers are legal (`atomicWord_legal`); the new values are
`atomicValue_integer` and `Fmt.add_atomic`. -/
theorem atomics : Obligations.Atomics := by
  unfold Obligations.Atomics
  refine ⟨?atomics, ?acas, ?reductions, fun n m x cmp hm hx => atomicValue_integer cmp hm hx, fun m x hm hx => ?_, ?sums⟩
  case atomics =>
    simp only [List.forall_mem_cons, List.not_mem_nil, false_imp_iff, implies_true, and_true]
    and_intros <;> exact fun s t t' d o h byp ea opnd width scalar eo hd places width dst operand issues accesses =>
      (atomicWord_legal (cmp := none) width dst operand (by simp)).trans (memWord_go (by simpa using issues) accesses)
  case acas =>
    intro s t t' d o h byp ea opnd cmp width scalar eo ec hd places k n ops u m width dst operand compared issues accesses
    exact (atomicWord_legal (cmp := some (cmp, ec)) width dst operand (by simpa using compared)).trans (memWord_go issues accesses)
  case reductions =>
    simp only [List.forall_mem_cons, List.not_mem_nil, false_imp_iff, implies_true, and_true]
    and_intros <;> exact fun s t t' d o h byp ed ea hd places issues accesses => memWord_go issues accesses
  case sums =>
    simp only [List.forall_mem_cons, List.not_mem_nil, false_imp_iff, implies_true, and_true]
    exact ⟨Fmt.add_atomic f32_sound, Fmt.add_atomic f32_sound, Fmt.add_atomic bf16_sound⟩
  · obtain ⟨add, min, max, _, _, and, or, xor, _⟩ := atomicValue_integer (n := 4) 0 hm hx
    exact ⟨add, min, max, and, or, xor⟩

end Sys2Proof.Machine
end

section
/-! SUPPORT. An answer on path ld, where a Whorl's word finds its place, and what a place makes of its tile (R204). -/

namespace Sys2Proof.Machine

open Sys2Proof.Safety

/-- An answer waits among the wave's producers, its register empty, and the wave stands past the word. -/
theorem answerScalar_waits (u : Use) (d : BitVec 7) (x : W64) (s : State) : ∃ t, answerScalar u d x s = .next t ∧
    t.w.producers = s.w.producers ++ [⟨s.w.seq, 0, [.scalar d.toNat x], [], [d.toNat]⟩] ∧
    t.w.flight = s.w.flight ++ [⟨0, s.w.seq, false⟩] ∧ t.w.a.emptyS.getLsbD d.toNat = true ∧ t.w.a.pos = s.w.a.pos.advance u.words ∧
    SameMemory s t := by
  refine ⟨_, rfl, ?_, ?_, ?_, ?_, fun loc => ?_⟩
  · simp [answerLater]
  · simp [answerLater]
  · simp [answerLater, Arch.emptySs, Arch.emptyVs, d.isLt]
  · simp [answerLater, Arch.emptySs, Arch.emptyVs]
  · rw [answerLater_mem]

section
variable {u : Use} {o : BitVec 7} {h : BitVec 6} {s s' : State} {hd : Handle} {places : List Place}

/-- A word of a Whorl whose place passes the checks of R84 acts at the place's first byte. -/
theorem placeWord_at (k : Found → State → Result) (issues : Issues u s s) (handle : s.w.env.handle h.toNat = some hd)
    (near : hd.remote = false) (unit : refusedOf s s.w.core < 64)
    (checks : checkAccess s.w (.core s.w.core) h.toNat .place 1 1 [(64, (s.sreg o.toNat).toNat)] s = (s', .ok hd places)) :
    placeWord u o h k s = k (.at' hd ((places.flatMap (·.locs)).headD 0)) s' := by
  unfold placeWord
  rw [issue_go issues]
  simp only [handle, near, Bool.false_eq_true, if_false, if_neg (Nat.not_le.2 unit), scalarOffs, checks]

end

section
variable {u : Use} {d o : BitVec 7} {h : BitVec 6} {hd : Handle} {cls loc : Nat} {s0 s : State}

/-- With nothing of its core on its way to the home, WPIN or WPULL starts what waits for an entry there, and its place decides. -/
theorem placeNow_decides (quiet : sentBefore s s.w.core (homeWhorl s (lineOf loc)) = false) :
    let home := homeWhorl s (lineOf loc)
    let s1 := if (s.whorl home).waitPin.isEmpty then s else startHeldAt home s
    (∀ status t, placeAt cls loc s1.w.core s1.w.env.tag s1 = some (status, t) →
      placeNow u d o h hd cls loc s0 s = answerScalar u d (BitVec.ofNat 64 status) t) ∧
    (placeAt cls loc s1.w.core s1.w.env.tag s1 = none →
      placeNow u d o h hd cls loc s0 s = .next (refuseWord u d h hd cls loc (hd.base + s1.sreg o.toNat) s1)) := by
  refine ⟨fun status t place => ?_, fun place => ?_⟩ <;>
  · unfold placeNow
    dsimp only
    rw [if_neg (ne_true_of_eq_false quiet), place]

end

section
variable {loc core : Nat} {tag : BitVec 8} {s : State}

/-- WPULL's place: a tile that stays where it is answers 1, and one that moves needs a motion entry (R92, R204). -/
theorem placeAt_pull :
    let home := homeWhorl s (lineOf loc)
    let x := s.whorl home
    let tile := tileOf loc
    let stamped := fun (s : State) => { s with stamp := s.stamp + 1 }
    ((x.tileOf tile).isSome = true → x.wouldMove tile = false → placeAt 0 loc core tag s = some (1, s)) ∧
    ((x.tileOf tile).isSome = true → x.wouldMove tile = true → x.room = true →
      placeAt 0 loc core tag s = some (0, stamped (touchTile home tile core s))) ∧
    ((x.tileOf tile).isSome = false → x.room = true →
      placeAt 0 loc core tag s = some (2, stamped (s.onWhorl home (fun w => w.allocate (sectorOf loc) core s.cycle s.stamp)))) ∧
    ((x.tileOf tile).isSome = false ∨ x.wouldMove tile = true → x.room = false → placeAt 0 loc core tag s = none) := by
  refine ⟨fun resident stays => ?_, fun resident moves room => ?_, fun absent room => ?_, fun moves full => ?_⟩
  · simp [placeAt, resident, stays]
  · simp [placeAt, moveTile, resident, moves, room, Option.isNone_eq_false_iff.2 resident]
  · simp [placeAt, moveTile, room, Option.isNone_iff_eq_none.1 (Option.isSome_eq_false_iff.1 absent)]
  · rcases moves with moves | moves <;> simp [placeAt, moves, full]

/-- WPIN's place: the status that refuses the pin, or the tile pinned, moved where its turn asks (R93, R204). -/
theorem placeAt_pin {c : Nat} (pins : c ≠ 0) :
    let home := homeWhorl s (lineOf loc)
    let x := s.whorl home
    let tile := tileOf loc
    let stamped := fun (s : State) => { s with stamp := s.stamp + 1 }
    let t := if x.pinMoves tile c then moveTile loc core s else s
    (x.pinStatus tile c ≠ 0 → placeAt c loc core tag s = some (x.pinStatus tile c, s)) ∧
    (x.pinStatus tile c = 0 → (x.pinMoves tile c = true → x.room = true) →
      placeAt c loc core tag s = some (0, stamped (t.onWhorl home (fun w => w.setPin tile c tag t.stamp)))) ∧
    (x.pinStatus tile c = 0 → x.pinMoves tile c = true → x.room = false → placeAt c loc core tag s = none) := by
  refine ⟨fun refused => ?_, fun granted room => ?_, fun granted moves full => ?_⟩
  · simp [placeAt, pins, refused]
  · cases moves : (s.whorl (homeWhorl s (lineOf loc))).pinMoves (tileOf loc) c with
    | false => simp [placeAt, pins, granted, moves]
    | true => simp [placeAt, pins, granted, moves, room moves]
  · simp [placeAt, pins, granted, moves, full]

end

end Sys2Proof.Machine
end

section
/-! SUPPORT. The Whorl words at the place they find (R204). -/

namespace Sys2Proof.Machine

open Sys2Proof.Safety

section
variable {d o : BitVec 7} {h : BitVec 6} {ea ed : Bool} {s s' : State} {hd : Handle} {places : List Place}
variable (handle : s.w.env.handle h.toNat = some hd) (near : hd.remote = false) (unit : refusedOf s s.w.core < 64)
  (checks : checkAccess s.w (.core s.w.core) h.toNat .place 1 1 [(64, (s.sreg o.toNat).toNat)] s = (s', .ok hd places))
include handle near unit checks

theorem execWhome_at (issues : Issues { srcS := [(o.toNat, ea)], dstS := [d.toNat], path := some 0 } s s) :
    let home := homeWhorl s' (lineOf ((places.flatMap (·.locs)).headD 0))
    execWhome d o h ea s = answerScalar { srcS := [(o.toNat, ea)], dstS := [d.toNat], path := some 0 } d
      (BitVec.ofNat 64 (hops s'.w.core home * 256 + home)) s' := by
  unfold execWhome
  rw [placeWord_at _ issues handle near unit checks]

theorem execWdist_at (issues : Issues { srcS := [(o.toNat, ea)], dstS := [d.toNat], path := some 0 } s s) :
    let loc := (places.flatMap (·.locs)).headD 0
    execWdist d o h ea s = if sentBefore s' s'.w.core (homeWhorl s' (lineOf loc)) then .next (s'.holdFor .engine)
      else answerScalar { srcS := [(o.toNat, ea)], dstS := [d.toNat], path := some 0 } d (wdistWord s' s'.w.core (lineOf loc)) s' := by
  unfold execWdist
  rw [placeWord_at _ issues handle near unit checks]

/-- WUNPIN of a tile that is nowhere, in scratch, pinned, or resident with no pin. -/
theorem execWunpin_at (issues : Issues { srcS := [(o.toNat, ea)], dstS := [d.toNat], path := some 0 } s s)
    (quiet : sentBefore s' s'.w.core (homeWhorl s' (lineOf ((places.flatMap (·.locs)).headD 0))) = false) :
    let u : Use := { srcS := [(o.toNat, ea)], dstS := [d.toNat], path := some 0 }
    let tile := tileOf ((places.flatMap (·.locs)).headD 0)
    let home := homeWhorl s' (lineOf ((places.flatMap (·.locs)).headD 0))
    (∀ t, (s'.whorl home).tileOf tile = some t →
      execWunpin d o h ea s = if t.scratch then answerScalar u d 2 s'
        else if t.pin.isSome then answerScalar u d 0 (s'.onWhorl home (fun w => w.onTile tile (fun t => { t with pin := none })))
        else answerScalar u d 1 s') ∧
    ((s'.whorl home).tileOf tile = none → execWunpin d o h ea s = answerScalar u d 1 s') := by
  unfold execWunpin
  rw [placeWord_at _ issues handle near unit checks]
  dsimp only
  rw [if_neg (ne_true_of_eq_false quiet)]
  refine ⟨fun t resident => ?_, fun absent => ?_⟩
  · rw [resident]
  · rw [absent]

theorem execWpull_at (issues : Issues { srcS := [(o.toNat, ea)], dstS := [d.toNat], path := some 0 } s s) :
    execWpull d o h ea s = placeNow { srcS := [(o.toNat, ea)], dstS := [d.toNat], path := some 0 } d o h hd 0
      ((places.flatMap (·.locs)).headD 0) s s' := by
  unfold execWpull
  rw [placeWord_at _ issues handle near unit checks]

theorem execWpin_at (issues : Issues { srcS := [(o.toNat, ea), (d.toNat, ed)], dstS := [d.toNat], path := some 0 } s s)
    (handle' : s'.w.env.handle h.toNat = some hd) :
    let v : Use := { srcS := [(o.toNat, ea), (d.toNat, ed)], dstS := [d.toNat], path := some 0 }
    let c := (s.sreg d.toNat).toNat % 64
    let loc := (places.flatMap (·.locs)).headD 0
    execWpin d o h ed ea s =
      if (c = 0 ∧ hd.policy ≠ 2#2) ∨ 46 ≤ c then raise Cause.bounds 0 0 s'
      else if hd.space = 1 ∨ hd.space = 2 then
        (if sentBefore s' s'.w.core (homeWhorl s' (lineOf loc)) then .next (s.holdFor .engine) else answerScalar v d 0 s')
      else placeNow v d o h hd (if c = 0 then hd.pinclass.toNat else c) loc s s' := by
  unfold execWpin
  rw [placeWord_at _ issues handle near unit checks]
  simp [handle']

end

end Sys2Proof.Machine
end

section
/-! SUPPORT. The Whorl words (R204). -/

namespace Sys2Proof.Machine

open Sys2Proof.Safety

/-- Settles O26: each word acts at the place it finds (`placeWord_at`); WPIN and WPULL by what that place decides (`placeNow_decides`,
`placeAt_pull`, `placeAt_pin`). -/
theorem whorlWords : Obligations.WhorlWords := by
  unfold Obligations.WhorlWords
  refine ⟨answerScalar_waits, fun s s' d o h ea hd places => ?_, fun loc core tag s => ?_⟩
  · intro u loc tile home s1 handle near unit checks
    refine ⟨fun issues => ⟨execWhome_at handle near unit checks issues, fun busy => ?waits, fun quiet => ?acts⟩,
      fun ed => ?pin⟩
    case waits => exact (execWdist_at handle near unit checks issues).trans (if_pos busy)
    case acts =>
      obtain ⟨resident, absent⟩ := execWunpin_at handle near unit checks issues quiet
      obtain ⟨answers, refused⟩ := placeNow_decides (u := u) (d := d) (o := o) (h := h) (hd := hd) (cls := 0) (s0 := s) quiet
      have pull := execWpull_at handle near unit checks issues
      exact ⟨(execWdist_at handle near unit checks issues).trans (if_neg (ne_true_of_eq_false quiet)), resident, absent,
        fun status t place => pull.trans (answers status t place), fun place => pull.trans (refused place)⟩
    case pin =>
      intro v c cls issues handle'
      have pin := execWpin_at handle near unit checks issues handle'
      refine ⟨fun bad => pin.trans (if_pos bad), fun policy below quiet => ?_⟩
      have good : ¬ ((c = 0 ∧ hd.policy ≠ 2#2) ∨ 46 ≤ c) := by
        rintro (⟨zero, other⟩ | above)
        · exact other (policy zero)
        · omega
      have acts := pin.trans (if_neg good)
      refine ⟨fun scratch => ?_, fun notOne notTwo => ?_⟩
      · exact acts.trans ((if_pos scratch).trans (if_neg (ne_true_of_eq_false quiet)))
      · obtain ⟨answers, refused⟩ := placeNow_decides (u := v) (d := d) (o := o) (h := h) (hd := hd) (cls := cls) (s0 := s) quiet
        have place := acts.trans (if_neg (by simp [notOne, notTwo]))
        exact ⟨fun status t decided => place.trans (answers status t decided), fun full => place.trans (refused full)⟩
  · obtain ⟨stays, touches, allocates, full⟩ := placeAt_pull (loc := loc) (core := core) (tag := tag) (s := s)
    exact ⟨stays, touches, allocates, full, fun c pins => placeAt_pin pins⟩

end Sys2Proof.Machine
end

section
/-! SUPPORT. What a load at its issue adds to its wave's accesses (R119, R148). -/

namespace Sys2Proof.Machine

open Sys2Proof.Safety

theorem grantHold_accesses (home : Nat) (s : State) : (grantHold home s).w.accesses = s.w.accesses := by
  unfold grantHold
  split
  · rfl
  · split
    · rfl
    · exact State.setWave_keeps (field := Wave.accesses) rfl

theorem grantHold_arch (home : Nat) (s : State) : (grantHold home s).w.a = s.w.a := by
  unfold grantHold
  split
  · rfl
  · split
    · rfl
    · exact State.setWave_keeps (field := Wave.a) rfl

theorem grantHold_seq (home : Nat) (s : State) : (grantHold home s).w.seq = s.w.seq := by
  unfold grantHold
  split
  · rfl
  · split
    · rfl
    · exact State.setWave_keeps (field := Wave.seq) rfl

@[simp] theorem nearTouched_seq (x : Access) (s : State) : (nearTouched x s).w.seq = s.w.seq :=
  nearTouched_keeps (field := fun s => s.w.seq) (fun _ _ _ => rfl) grantHold_seq x s

@[simp] theorem nearTouched_accesses (x : Access) (s : State) : (nearTouched x s).w.accesses = s.w.accesses :=
  nearTouched_keeps (field := fun s => s.w.accesses) (fun _ _ _ => rfl) grantHold_accesses x s

@[simp] theorem nearTouched_arch (x : Access) (s : State) : (nearTouched x s).w.a = s.w.a :=
  nearTouched_keeps (field := fun s => s.w.a) (fun _ _ _ => rfl) grantHold_arch x s

theorem addAccess_accesses {x : Access} (reads : x.op.writes = false) (s : State) :
    (addAccess x s).w.accesses = s.w.accesses ++ [x] := by
  unfold addAccess
  split
  · rfl
  · rw [if_neg (ne_true_of_eq_false reads)]
    rfl

@[simp] theorem addAccess_seq (x : Access) (s : State) : (addAccess x s).w.seq = s.w.seq := by
  unfold addAccess
  split
  · rfl
  · split <;> rfl

/-- The youngest access of a wave, made by the word that it moves past: what the undo log and the snapshot note of it leaves it last. -/
theorem sealed_lastAccess {w : Wave} {xs : List Access} {x : Access} (made : w.accesses = xs ++ [x]) (own : x.seq = w.seq) (logged n : Nat) :
    ((w.logWrites logged).seal n).accesses.getLast? = some { x with snap := w.a } := by
  simp [Wave.seal, Wave.logWrites, made, own]

theorem advance_lastAccess {s : State} {xs : List Access} {x : Access} (made : s.w.accesses = xs ++ [x]) (own : x.seq = s.w.seq)
    (n logged : Nat) : ∃ snap, (advance n logged s).w.accesses.getLast? = some { x with snap := snap } := by
  unfold advance
  dsimp only
  split
  · exact ⟨_, by apply sealed_lastAccess <;> assumption⟩
  · rw [State.boundary_w_accesses]
    exact ⟨_, by apply sealed_lastAccess <;> assumption⟩

theorem finish_lastAccess {u : Use} (late : u.late = true) {s : State} {xs : List Access} {x : Access} (made : s.w.accesses = xs ++ [x])
    (own : x.seq = s.w.seq) : ∃ snap, (finish u s).w.accesses.getLast? = some { x with snap := snap } := by
  unfold finish
  rw [if_pos (by simp [late])]
  exact advance_lastAccess ((blurWrites_w_accesses u s).trans made) (own.trans (blurWrites_w_seq u s).symm) _ _

@[simp] theorem asLoad_elems_locs (x : Access) (s : State) (h : Handle) :
    (x.asLoad s h).elems.map (·.locs) = x.elems.map (·.locs) := by
  rw [Access.asLoad, List.map_map]
  rfl

end Sys2Proof.Machine
end

section
/-! SUPPORT. Fences, and the words that read a slab's descriptor (R215, R216, R217). -/

namespace Sys2Proof.Machine

open Sys2Proof.Safety

theorem fence_waits {a b : Nat} {speculative : Bool} (open' : speculative = true ∨ a ≠ 0 ∨ b ≠ 0) :
    (speculative || a != 0 || b != 0) = true := by
  rcases open' with h | h | h <;> simp [h]

/-- FENCEI changes of a wave the clause words kept for it alone. -/
theorem discardFetched_w (s : State) : ∃ words, (discardFetched s).w = { s.w with kept := words } := by
  unfold discardFetched
  rw [State.onCore_w, State.mapWaves_w]
  split
  · exact ⟨_, rfl⟩
  · exact ⟨s.w.kept, rfl⟩

/-- FENCEI drops what its core has fetched of the launch's code (R216). -/
theorem discardFetched_fetched (s : State) :
    ((discardFetched s).core s.w.core).fetched = (s.core s.w.core).fetched.filter (fun e =>
      !decide (fetchKey s.w.env.tag s.w.env.code ≤ e.1 ∧ e.1 < fetchKey s.w.env.tag s.w.env.code + s.w.env.length.toNat)) := by
  unfold discardFetched
  dsimp only
  generalize passed : s.mapWaves _ = m
  have cores : m.cores = s.cores := by rw [← passed, State.mapWaves_cores]
  have kept : m.w.core = s.w.core ∧ m.w.env = s.w.env := by
    rw [← passed, State.mapWaves_w]
    split <;> exact ⟨rfl, rfl⟩
  obtain ⟨core, env⟩ := kept
  simp [core, env, cores, State.core]

theorem execFence_go {s : State} (issues : Issues {} s s) :
    execFence s = if s.w.speculative || s.w.count 1 != 0 || s.w.count 6 != 0 then .next (s.holdFor .fence) else .next (finish {} s) :=
  issue_go issues _

theorem execFencei_go {s : State} (issues : Issues {} s s) :
    execFencei s = if s.w.count 1 != 0 then .next (s.holdFor .fence) else .next (finish {} (discardFetched s)) :=
  issue_go issues _

theorem execFenceh_go {s : State} (issues : Issues { irrevocable := true, path := some 6 } s s) :
    execFenceh s = if s.w.producers.any (fun p => p.seq == s.w.seq) then .next (s.holdFor .fence)
      else .next (((raiseCount 6 s).onWave (fun w => { w with producers := w.producers ++ [⟨s.w.seq, 6, [], [], []⟩] })).holdFor .fence) :=
  issue_go issues _

section
variable {u : Use} {h : BitVec 6} {hd : Handle} {s s' : State} {locs : List Nat}

/-- A word that reads a window's descriptor, its bytes translated: a reserved descriptor raises 0x05 (R216, R217). -/
theorem windowWord_read {rh : Option (BitVec 6)} (k : Handle → List Nat → State → Result) (issues : Issues u s s)
    (window : s.w.env.handle h.toNat = some hd) (space : hd.space = 6)
    (reach : ∀ r, rh = some r → ∃ x, s.w.env.handle r.toNat = some x ∧ x.space = 0)
    (read : translateBytes s (.core s.w.core) s.w.env.tag hd.base 64 Access.read = (s', .inl locs)) :
    windowWord u h rh k s = if slabReserved (slabBits s' locs) then raise Cause.handle 0 0 s' else k hd locs s' := by
  have reaches : rh.any (fun r => !(s.w.env.handle r.toNat).any (fun x => x.space == 0)) = false := by
    cases rh with
    | none => rfl
    | some r =>
      obtain ⟨x, handle, zero⟩ := reach r rfl
      simp [handle, zero]
  unfold windowWord
  rw [issue_go issues]
  simp [window, space, reaches, read]

end

theorem execSlbxl_go {s s' : State} {sd so : BitVec 7} {h rh : BitVec 6} {ea : Bool} {hd r : Handle} {locs : List Nat}
    (even : sd.getLsbD 0 = false)
    (issues : Issues { words := 2, srcS := [(so.toNat, ea)], dstS := [sd.toNat, sd.toNat + 1], path := some 0, late := true } s s)
    (window : s.w.env.handle h.toNat = some hd) (space : hd.space = 6)
    (reach : s.w.env.handle rh.toNat = some r) (zero : r.space = 0)
    (read : translateBytes s (.core s.w.core) s.w.env.tag hd.base 64 Access.read = (s', .inl locs))
    (reach' : s'.w.env.handle rh.toNat = some r) (legal : slabReserved (slabBits s' locs) = false)
    (inRange : slabInRange hd (slabSample hd.base (slabBits s' locs)) (s'.sreg so.toNat).toNat = true)
    (inside : let va := slabVa hd (slabSample hd.base (slabBits s' locs)) (slabBound (slabBits s' locs)) (s'.sreg so.toNat).toNat
      ¬ (va.toNat < r.base.toNat ∨ r.base.toNat + r.limit < va.toNat))
    (sure : s'.w.speculative = false) (clean : poisonVa s' (fun _ _ => false) [⟨64, hd.base, locs, [], [], [], []⟩] = none) :
    execSlbxl sd so h ea rh s = .next (answerLater
      { words := 2, srcS := [(so.toNat, ea)], dstS := [sd.toNat, sd.toNat + 1], path := some 0, late := true } 0
      [.scalar sd.toNat (rh.setWidth 8 ++ 0#16 ++ (slabVa hd (slabSample hd.base (slabBits s' locs)) (slabBound (slabBits s' locs))
        (s'.sreg so.toNat).toNat - r.base).setWidth 40),
      .scalar (sd.toNat + 1) ((slabSample hd.base (slabBits s' locs)).gen.setWidth 64)] [] [sd.toNat, sd.toNat + 1] s') := by
  unfold execSlbxl
  dsimp only
  rw [even, windowWord_read _ issues window space (by simp [reach, zero]) read, if_neg (ne_true_of_eq_false legal)]
  simp only [reach', inRange]
  rw [if_neg (by simp), if_neg inside, if_neg (ne_true_of_eq_false sure), clean]

theorem execSlbrd_go {s s' : State} {sd : BitVec 7} {h : BitVec 6} {sel : BitVec 3} {hd : Handle} {locs : List Nat}
    (issues : Issues { words := 2, dstS := [sd.toNat], path := some 0, late := true } s s)
    (window : s.w.env.handle h.toNat = some hd) (space : hd.space = 6)
    (read : translateBytes s (.core s.w.core) s.w.env.tag hd.base 64 Access.read = (s', .inl locs)) :
    let u : Use := { words := 2, dstS := [sd.toNat], path := some 0, late := true }
    let e : Elem := ⟨64, hd.base + BitVec.ofNat 64 (8 * sel.toNat), (locs.drop (8 * sel.toNat)).take 8, [], [], [], []⟩
    let x := (makeAccess s' 0 hd h.toNat false (.loadS sd.toNat 8 false) [e]).asLoad s' hd
    execSlbrd sd h sel s = if slabReserved (slabBits s' locs) then raise Cause.handle 0 0 s'
      else if s'.w.writePending then .next (s'.holdFor .engine)
      else .next (finish u ((nearTouched x (addAccess x (raiseCount 0 s'))).onArch (fun a => a.emptySs [sd.toNat]))) := by
  unfold execSlbrd
  dsimp only
  rw [windowWord_read _ issues window space (by simp) read]

theorem slbrd_lastAccess (hd : Handle) (h : BitVec 6) (sd : BitVec 7) (e : Elem) (s : State) :
    let u : Use := { words := 2, dstS := [sd.toNat], path := some 0, late := true }
    let x := (makeAccess s 0 hd h.toNat false (.loadS sd.toNat 8 false) [e]).asLoad s hd
    ∃ snap, (finish u ((nearTouched x (addAccess x (raiseCount 0 s))).onArch (fun a => a.emptySs [sd.toNat]))).w.accesses.getLast? =
      some { x with snap := snap } := by
  intro u x
  have made : (nearTouched x (addAccess x (raiseCount 0 s))).w.accesses = s.w.accesses ++ [x] := by
    rw [nearTouched_accesses, addAccess_accesses rfl, raiseCount_w]
  have own : x.seq = (nearTouched x (addAccess x (raiseCount 0 s))).w.seq := by
    rw [nearTouched_seq, addAccess_seq, raiseCount_w]
    rfl
  exact finish_lastAccess (u := u) rfl (s := (nearTouched x (addAccess x (raiseCount 0 s))).onArch _) made own

/-- Settles O31: each word by what it does once it issues. -/
theorem fences : Obligations.Fences := by
  unfold Obligations.Fences
  refine ⟨fun s issues => ⟨fun sure st hx => ?_, fun held => ?_, fun st => ?_, fun st => ?_⟩, fun s issues => ⟨fun fresh => ?_, fun sent => ?_⟩,
    ?slbxl, ?slbrd⟩
  case slbxl =>
    intro s s' sd so h rh ea hd r locs u desc x o va even issues window space reach zero read reach' legal inRange low high sure clean
    exact execSlbxl_go even issues window space reach zero read reach' legal inRange (not_or.2 ⟨Nat.not_lt.2 low, Nat.not_lt.2 high⟩) sure clean
  case slbrd =>
    intro s s' sd h sel hd locs u issues window space read
    have acts := execSlbrd_go (sel := sel) issues window space read
    refine ⟨fun reserved => acts.trans (if_pos reserved),
      fun legal waits => acts.trans ((if_neg (ne_true_of_eq_false legal)).trans (if_pos waits)), fun legal known => ?_⟩
    obtain ⟨snap, last⟩ := slbrd_lastAccess hd h sd _ s'
    refine ⟨_, _, acts.trans ((if_neg (ne_true_of_eq_false legal)).trans (if_neg (ne_true_of_eq_false known))), ?_, last, rfl, ?_,
      fun loc => ?_⟩
    · simp [Arch.emptySs]
    · exact asLoad_elems_locs ..
    · rw [finish_mem, State.onArch_mem, nearTouched_mem, addAccess_mem, raiseCount_mem]
  · exact (execFence_go issues).trans (if_neg (by simp [sure, st, hx]))
  · exact (execFence_go issues).trans (if_pos (fence_waits held))
  · refine ⟨_, (execFencei_go issues).trans (if_neg (by simp [st])), ?_, fun loc => ?_, fun e fetched => ?_⟩
    · obtain ⟨words, same⟩ := discardFetched_w s
      rw [finish_a_pos, same]
    · rw [finish_mem, discardFetched_mem]
    · rw [finish_core, discardFetched_fetched] at fetched
      simpa only [Bool.not_eq_true', decide_eq_false_iff_not] using (List.mem_filter.1 fetched).2
  · exact (execFencei_go issues).trans (if_pos (by simpa using st))
  · exact (execFenceh_go issues).trans (if_neg (by simpa using fresh))
  · exact (execFenceh_go issues).trans (if_pos (by simpa using sent))

end Sys2Proof.Machine
end

section
/-! SUPPORT. The words that bind, move and unbind ports (R201, R202, R203). -/

namespace Sys2Proof.Machine

open Sys2Proof.Safety

/-- A word illegal in its state raises 0x01, whatever else stands in its way (R154). -/
theorem issue_illegal {u : Use} {s : State} (illegal : u.illegal = true) (k : State → Result) :
    issue u k s = raise Cause.illegal 0 0 s :=
  issue_trap (by simp [earlyTrap, illegal]) k

theorem reservedSize_full {s : State} {d : BitVec 7} {lo : Nat} (declared : s.w.badS d.toNat = false)
    (full : s.w.emptyScalar d.toNat = false) (size : (s.sreg d.toNat).extractLsb' lo 2 = 3#2) : reservedSize s d lo = true := by
  simp [reservedSize, declared, full, size]

/-- STPOS and STSET move a bound port (R202). -/
theorem onStream_go {d : BitVec 7} {ed : Bool} {bad : StreamPort → W64 → Bool} {f : StreamPort → W64 → StreamPort} {s : State}
    (issues : Issues (useStream s d ed 1) s s) :
    let x := s.sreg d.toNat
    let p := s.w.a.stream (portOf x)
    onStream d ed bad f s =
      if p.bound = false then raise Cause.unbound 0 0 s
      else if bad p x then raise Cause.bounds 0 0 s
      else .next (finish (useStream s d ed 1) (dropPort (124 + portOf x) (s.onArch (fun a => a.setStream (portOf x) (f p x))))) := by
  unfold onStream
  dsimp only
  rw [issue_go issues]
  simp only [Bool.not_eq_true']

theorem execQdrain_go {d : BitVec 7} {ed : Bool} {s : State} (issues : Issues (useQueue s d ed 1) s s) :
    let q := (s.sreg d.toNat).toNat % 4
    execQdrain d ed s =
      if (s.w.a.queue q).bound = false then raise Cause.unbound 0 0 s
      else if 2 ≤ q && 0 < s.w.storeOcc q then .next (s.holdFor .drain)
      else .next (finish (useQueue s d ed 1) (dropPort (124 + q) (s.onArch (fun a => a.setQueue q QueuePort.unbound)))) := by
  unfold execQdrain
  dsimp only
  rw [issue_go issues]
  simp only [Bool.not_eq_true']

theorem execStpos_go {d : BitVec 7} {ed : Bool} {s : State} (issues : Issues (useStream s d ed 1) s s) :
    let x := s.sreg d.toNat
    let p := s.w.a.stream (portOf x)
    execStpos d ed s =
      if p.bound = false then raise Cause.unbound 0 0 s
      else if p.count.toNat < (x.extractLsb' 0 32).toNat then raise Cause.bounds 0 0 s
      else .next (finish (useStream s d ed 1) (dropPort (124 + portOf x) (s.onArch (fun a =>
        a.setStream (portOf x) { p with step := x.extractLsb' 0 32 })))) := by
  unfold execStpos
  simp only [onStream_go issues, decide_eq_true_eq]

theorem execStset_go {d : BitVec 7} {ed : Bool} {s : State} (issues : Issues (useStream s d ed 1) s s) :
    let x := s.sreg d.toNat
    let p := s.w.a.stream (portOf x)
    execStset d ed s =
      if p.bound = false then raise Cause.unbound 0 0 s
      else .next (finish (useStream s d ed 1) (dropPort (124 + portOf x) (s.onArch (fun a =>
        a.setStream (portOf x) { p with base := x.extractLsb' 0 40 })))) := by
  unfold execStset
  simp only [onStream_go issues, Bool.false_eq_true, if_false]

/-- A store queue must be empty before it is bound anew; a load queue holds no stores (R203). -/
theorem queue_drained {q occupied : Nat} (empty : 2 ≤ q → occupied = 0) : (2 ≤ q && 0 < occupied) = false := by
  by_cases store : 2 ≤ q
  · simp [empty store]
  · simp [store]

/-- Settles O25: each word by its handle, its port and its operand once it issues; the reserved size by `issue_illegal`. -/
theorem portWords : Obligations.PortWords := by
  unfold Obligations.PortWords
  refine ⟨?stbind, ?stream, ?qbind, fun s d h byp ed declared full => ⟨fun size => ?_, fun size => ?_⟩, ?qdrain⟩
  case stbind =>
    intro s d h byp ed hd x u handle permitted issues
    refine (issue_go issues _).trans ?_
    simp only [handle]
    rw [if_neg (by simpa using permitted)]
  case stream =>
    intro s d ed x i p
    refine ⟨rfl, fun issues => ⟨fun unbound => ⟨?_, ?_⟩, fun bound beyond => ?_, fun bound within => ?_, fun bound => ?_, ?_⟩⟩
    · exact (execStpos_go issues).trans (if_pos unbound)
    · exact (execStset_go issues).trans (if_pos unbound)
    · exact (execStpos_go issues).trans ((if_neg (ne_false_of_eq_true bound)).trans (if_pos beyond))
    · exact (execStpos_go issues).trans ((if_neg (ne_false_of_eq_true bound)).trans (if_neg (Nat.not_lt.2 within)))
    · exact (execStset_go issues).trans (if_neg (ne_false_of_eq_true bound))
    · exact run_go issues _
  case qbind =>
    intro s d h byp ed hd x loops q u handle permitted full empty issues
    refine (issue_go issues _).trans ?_
    dsimp only
    rw [if_neg (by simpa [x, loops] using full)]
    simp only [handle]
    rw [if_neg (by simpa [x, q] using permitted), if_neg (ne_true_of_eq_false (queue_drained empty))]
  case qdrain =>
    intro s d ed q issues
    refine ⟨fun unbound => (execQdrain_go issues).trans (if_pos unbound), fun bound empty => ?_⟩
    exact (execQdrain_go issues).trans ((if_neg (ne_false_of_eq_true bound)).trans (if_neg (ne_true_of_eq_false (queue_drained empty))))
  · exact issue_illegal (reservedSize_full declared full size) _
  · exact issue_illegal (reservedSize_full declared full size) _

end Sys2Proof.Machine
end

section
/-! SUPPORT. A write that leaves its wave's store buffer (R119, R125). -/

namespace Sys2Proof.Machine

open Sys2Proof.Safety

theorem flight_onOldest (k : Nat) (f : Access → Access) (s : State) : ((s.onOldest k f).wave k).flight = (s.wave k).flight := by
  simp [State.onOldest]

theorem accesses_onOldest (k : Nat) (f : Access → Access) (s : State) :
    ((s.onOldest k f).wave k).accesses = (s.wave k).accesses.modifyHead f := by
  cases accesses : (s.wave k).accesses <;> simp [State.onOldest, accesses]

/-- A write to the Whorls leaves by its requests to their homes, its snapshots made (R125). -/
theorem leaveBuffer_send {s s' : State} {k : Nat} {x : Access} (single : (s.wave k).pair = none) (notHost : x.space ≠ 4) (notPeer : x.space ≠ 5)
    (plain : x.op.isAtomic = false)
    (snapped : beforeWrite (s.wave k).launch x.handle x.space.toNat (x.elems.flatMap (·.locs)) s = some s') :
    leaveBuffer k x s = some (s'.onOldest k (fun y =>
      { y with left := true, reqs := y.reqs.map (fun r => { r with phase := .sent, arrived := s'.cycle }) })) := by
  unfold leaveBuffer
  dsimp only
  rw [if_neg (by simp [single]), if_neg (by simpa using notHost), if_neg (by simpa using notPeer)]
  cases op : x.op with
  | atomic => simp [AccessOp.isAtomic, op] at plain
  | _ => simp only [snapped]

/-- What it leaves: its wave's flight, its own access the oldest, and memory. -/
theorem leaveBuffer_leaves {s s' : State} {k : Nat} {x : Access} (single : (s.wave k).pair = none) (notHost : x.space ≠ 4) (notPeer : x.space ≠ 5)
    (plain : x.op.isAtomic = false)
    (snapped : beforeWrite (s.wave k).launch x.handle x.space.toNat (x.elems.flatMap (·.locs)) s = some s') :
    ∃ t, leaveBuffer k x s = some t ∧ (t.wave k).flight = (s'.wave k).flight ∧ (t.wave k).accesses = (s'.wave k).accesses.modifyHead (fun y =>
      { y with left := true, reqs := y.reqs.map (fun r => { r with phase := .sent, arrived := s'.cycle }) }) ∧ SameMemory s' t :=
  ⟨_, leaveBuffer_send single notHost notPeer plain snapped, flight_onOldest .., accesses_onOldest .., fun loc => by rw [State.onOldest_mem]⟩

theorem execStoreBufferLeave_leaves {s s' : State} {k : Nat} {x : Access} (oldest : (s.wave k).leaving = some x) (kept : routedBack x = false)
    (buffered : x.queue = none) (sendable : unsendable s x = false) (leaves : leaveBuffer k x s = some s') :
    execStoreBufferLeave k s = .next s' := by
  unfold execStoreBufferLeave
  rw [oldest]
  dsimp only
  rw [if_neg (by simp [buffered]), if_neg (by simp [sendable, kept]), leaves]

theorem execStoreQueueDrain_leaves {s s' : State} {k q : Nat} {x : Access} (oldest : (s.wave k).leaving = some x) (kept : routedBack x = false)
    (queued : x.queue = some q) (counts : (s.wave k).count x.path < 65535)
    (leaves : leaveBuffer k x (s.setWave k { s.wave k with flight := (s.wave k).flight ++ [⟨x.path, x.seq, false⟩] }) = some s') :
    execStoreQueueDrain k q s = .next s' := by
  unfold execStoreQueueDrain
  rw [oldest]
  dsimp only
  rw [if_neg (by simp [queued, Nat.not_le.2 counts]), if_neg (ne_true_of_eq_false kept), leaves]

end Sys2Proof.Machine
end

section
/-! SUPPORT. A home accepts what its front has, at most 16 requests in a cycle (R95). -/

namespace Sys2Proof.Machine

theorem length_acceptAll (i : Nat) (capped : Bool) (ws : List Want) (taken : List Nat) (skipped : List Want) (s : State)
    (room : taken.length ≤ 16) : (acceptAll i capped ws taken skipped s).2.1.length ≤ 16 := by
  induction ws generalizing taken skipped s with
  | nil => exact room
  | cons w ws ih =>
    unfold acceptAll
    split
    · exact ih _ _ _ room
    · next open' =>
      have below : taken.length < 16 := by
        by_contra full
        exact open' (by simp [Nat.not_lt.1 full])
      split
      · exact ih _ _ _ (by simpa using below)
      · exact ih _ _ _ room

/-- With errors met and none of its lines unblocked, a front's turn takes the urgent requests, then those within their cores' caps, then the
rest, and refuses what is left. -/
theorem execFrontRequestAccept_takes {s s1 s2 s3 : State} {i : Nat} {errors : List (Nat × SectorError)} {taken taken' taken'' : List Nat}
    {late skipped rest : List Want} :
    let met := evictDue i ((errors.filter (fun e => homeWhorl s (e.1 / 4) == i)).foldl (fun s e => errorArises e s) s)
    unblocked met i = [] → wantsAt met i ≠ [] →
    let wants := (wantsAt met i).mergeSort Want.before
    let s0 := wants.foldl (fun (s : State) w =>
      s.onWhorl i (fun h => { h with asked := put 0 h.asked w.core (look 0 h.asked w.core + 1) })) (grantHold i met)
    acceptAll i false (wants.filter (·.urgent)) [] [] s0 = (s1, taken, late) →
    acceptAll i true (wants.filter (fun w => !w.urgent)) taken [] (startHeldAt i s1) = (s2, taken', skipped) →
    acceptAll i false skipped taken' [] s2 = (s3, taken'', rest) →
    execFrontRequestAccept (i, errors) s = .next ((late ++ rest).foldl (fun s w => refuse w.wave w.seq w.line 0 0 s) s3) := by
  intro met settled asks wants s0 urgent within beyond
  have asked : wants ≠ [] := by
    rw [Ne, ← List.length_eq_zero_iff, List.length_mergeSort, List.length_eq_zero_iff]
    exact asks
  unfold execFrontRequestAccept
  dsimp only
  rw [settled, List.foldl_nil, if_neg (by simpa using asked), urgent]
  dsimp only
  rw [within]
  dsimp only
  rw [beyond]

end Sys2Proof.Machine
end

section
/-! SUPPORT. A filled sector is present in its tile (R98). -/

namespace Sys2Proof.Machine

@[simp] theorem State.whorl_onWhorl_same (i : Nat) (f : Whorl → Whorl) (s : State) : (s.onWhorl i f).whorl i = f (s.whorl i) := by
  simp [State.onWhorl, State.whorl]

section
variable {g : Tile → Tile} (same : ∀ t, (g t).tile = t.tile) (h : Whorl) (tile : Nat)
include same

theorem moving_mapTiles : (h.mapTiles g).moving tile = (h.moving tile).map (fun m => { m with tile := g m.tile }) := by
  simp [Whorl.moving, Whorl.mapTiles, List.find?_map, same]

theorem leavingOf_mapTiles : (h.mapTiles g).leavingOf tile = (h.leavingOf tile).map (fun l => { l with tile := g l.tile }) := by
  simp [Whorl.leavingOf, Whorl.mapTiles, List.find?_map, same]

/-- A change of a Whorl's tiles that keeps which tile each is changes the one it finds. -/
theorem tileOf_mapTiles : (h.mapTiles g).tileOf tile = (h.tileOf tile).map g := by
  have slots : (h.mapTiles g).slots.find? (fun e => e.2.tile == tile) = (h.slots.find? (fun e => e.2.tile == tile)).map (fun e => (e.1, g e.2)) := by
    simp [Whorl.mapTiles, mapEntries, List.find?_map, same]
  have waiting : (h.mapTiles g).waitPin.find? (fun t => t.2.tile == tile) = (h.waitPin.find? (fun t => t.2.tile == tile)).map (fun t => (t.1, g t.2)) := by
    simp [Whorl.mapTiles, List.find?_map, same]
  unfold Whorl.tileOf
  rw [moving_mapTiles same, leavingOf_mapTiles same, slots, waiting]
  cases h.moving tile with
  | some m => rfl
  | none =>
    cases h.slots.find? (fun e => e.2.tile == tile) with
    | some e => rfl
    | none => cases h.leavingOf tile <;> simp [Function.comp_def]

end

theorem tileOf_tile {h : Whorl} {tile : Nat} {t : Tile} (found : h.tileOf tile = some t) : t.tile = tile := by
  unfold Whorl.tileOf at found
  split at found
  · next m moving =>
    cases found
    simpa using List.find?_some moving
  · split at found
    · next e slot =>
      cases found
      simpa using List.find?_some slot
    · rcases Option.or_eq_some_iff.1 found with leaving | ⟨_, waiting⟩
      · obtain ⟨l, leaves, rfl⟩ := Option.map_eq_some_iff.1 leaving
        simpa using List.find?_some leaves
      · obtain ⟨e, waits, rfl⟩ := Option.map_eq_some_iff.1 waiting
        simpa using List.find?_some waits

/-- The errors met in a sector leave the Whorls as they are. -/
theorem poisoned_whorl (es : List Nat) (s : State) (i : Nat) :
    (es.foldl (fun s e => { poisonSector e s with damage := s.damage.filter (· != e) }) s).whorl i = s.whorl i :=
  foldl_keeps (field := fun s => s.whorl i) (f := fun s e => { poisonSector e s with damage := s.damage.filter (· != e) }) (fun _ _ => rfl) es s

theorem tileOf_fills (h : Whorl) (fs : List Fill) (tile : Nat) : ({ h with fills := fs } : Whorl).tileOf tile = h.tileOf tile := rfl

/-- A fill that ends leaves no fill of its sector, and the sector present in its tile. -/
theorem whorl_filled (i sector : Nat) (s : State) :
    let s1 := (refill sector s).onWhorl i (fun h =>
      { h.onTile (sector / 64) (fun t => { t with present := t.present ||| (1#64 <<< (sector % 64)) }) with
        fills := h.fills.filter (fun f => f.sector != sector) })
    (s1.whorl i).fills.any (fun f => f.sector == sector) = false ∧
    ∀ x, (s1.whorl i).tileOf (sector / 64) = some x → x.present.getLsbD (sector % 64) = true := by
  intro s1
  refine ⟨by simp [s1], fun x found => ?_⟩
  rw [State.whorl_onWhorl_same] at found
  rw [tileOf_fills, Whorl.onTile] at found
  rw [tileOf_mapTiles (fun t => by split <;> rfl)] at found
  obtain ⟨t, resident, rfl⟩ := Option.map_eq_some_iff.1 found
  simp [tileOf_tile resident, Nat.mod_lt]

theorem execFillComplete_fills {s : State} {i sector : Nat} {bad : List Nat} (asked : (s.whorl i).fills.any (fun f => f.sector == sector) = true) :
    let s1 := (refill sector s).onWhorl i (fun h =>
      { h.onTile (sector / 64) (fun t => { t with present := t.present ||| (1#64 <<< (sector % 64)) }) with
        fills := h.fills.filter (fun f => f.sector != sector) })
    let s2 := ((bad ++ s1.damage).filter (fun e => e / 2 == sector)).foldl (fun s e =>
      { poisonSector e s with damage := s.damage.filter (· != e) }) s1
    execFillComplete i (sector, bad) s =
      .next (((waitingIn s2 .filling (· == sector / 2)).filter (filled s2 i)).foldl (fun s w => serveLine w.wave w.seq w.line s) s2) := by
  unfold execFillComplete
  dsimp only
  rw [if_neg (by simp [asked])]

end Sys2Proof.Machine
end

section
/-! SUPPORT. Data that return to their wave's registers (R98, R148, R319). -/

namespace Sys2Proof.Machine

open Sys2Proof.Safety

theorem execLoadDataReturn_producer {s : State} {k id : Nat} {p : Producer}
    (found : (s.wave k).producers.find? (fun p => p.seq == id && p.path != 6) = some p) :
    let w := (s.wave k).late id p.vregs s.free (fun a => ((p.writes.foldl Arch.write a).fillVs p.vregs).fillSs p.sregs)
    execLoadDataReturn k id s = .next
      { s.setWave k ({ w with producers := w.producers.filter (fun q => q.seq != id) }.land p.path id) with free := s.free + lateSpan } := by
  unfold execLoadDataReturn
  dsimp only
  rw [found]

/-- The state once the next line of an awaited access is in. -/
def withNextLine (k : Nat) (x : Access) (s : State) : State :=
  match x.nextLine with
  | some r => lineArrives k x r s
  | none => s

theorem execLoadDataReturn_awaited {s : State} {k id : Nat} {x : Access}
    (idle : (s.wave k).producers.find? (fun p => p.seq == id && p.path != 6) = none) (awaits : (s.wave k).awaited id = some x) :
    execLoadDataReturn k id s = .next
      (((((withNextLine k x s).wave k).awaited id).filter (·.arrived)).elim (withNextLine k x s) (deliverAccess k · (withNextLine k x s))) := by
  unfold execLoadDataReturn
  dsimp only
  rw [idle]
  dsimp only
  rw [awaits]
  unfold withNextLine
  dsimp only
  cases x.nextLine with
  | none => cases ((s.wave k).awaited id).filter (·.arrived) <;> rfl
  | some r => cases (((lineArrives k x r s).wave k).awaited id).filter (·.arrived) <;> rfl

theorem execLoadDataReturn_last {s : State} {k id : Nat} {x y : Access}
    (idle : (s.wave k).producers.find? (fun p => p.seq == id && p.path != 6) = none) (awaits : (s.wave k).awaited id = some x)
    (awaits' : ((withNextLine k x s).wave k).awaited id = some y) (arrived : y.arrived = true) :
    execLoadDataReturn k id s = .next (deliverAccess k y (withNextLine k x s)) := by
  rw [execLoadDataReturn_awaited idle awaits, awaits']
  simp [Option.filter, arrived]

theorem execLoadDataReturn_more {s : State} {k id : Nat} {x : Access}
    (idle : (s.wave k).producers.find? (fun p => p.seq == id && p.path != 6) = none) (awaits : (s.wave k).awaited id = some x)
    (waits : ∀ y, ((withNextLine k x s).wave k).awaited id = some y → y.arrived = false) :
    execLoadDataReturn k id s = .next (withNextLine k x s) := by
  rw [execLoadDataReturn_awaited idle awaits]
  cases next : ((withNextLine k x s).wave k).awaited id with
  | none => rfl
  | some y => simp [Option.filter, waits y next]

/-- A line allocated near is its core's most recent. -/
theorem allocateNear_head (core line : Nat) (s : State) : ((allocateNear core line s).core core).near.head? = some line := by
  unfold allocateNear
  dsimp only
  split
  · simp
  · simp

/-- An access all of whose lines are in waits for none. -/
theorem nextLine_of_arrived {x : Access} (arrived : x.arrived = true) : x.nextLine = none := by
  obtain ⟨-, here⟩ : _ ∧ x.reqs.all (·.here) = true := by simpa [Access.arrived] using arrived
  have nothing : x.reqs.filter (fun r => r.phase == .done && !r.here) = [] := by
    rw [List.filter_eq_nil_iff]
    intro r mem
    simp [List.all_eq_true.1 here r mem]
  simp [Access.nextLine, nothing]

/-- A scalar load's bytes, extended, are in its register, full (R148, R197). -/
theorem deliver_loadS {x : Access} {r n : Nat} {signed : Bool} {e : Elem} (width : Nat) (a : Arch) (op : x.op = .loadS r n signed) (one : x.elems = [e])
    (pos : 0 < n) : x.deliver width a = (a.setS r (extendBytes e.bytes signed)).fillSs [r] := by
  simp [Access.deliver, op, one, Nat.ne_of_gt pos]

/-- The architectural state of an access's wave once its data are delivered. -/
theorem a_deliverAccess (k : Nat) (x : Access) (s : State) : ((deliverAccess k x s).wave k).a =
    (s.wave k).blur (x.op.fills (s.wave k).width) s.free (x.deliver (s.wave k).width (s.wave k).a) := by
  unfold deliverAccess
  dsimp only
  change ((State.setWave s k _).wave k).a = _
  rw [State.wave_setWave, if_pos rfl]
  rfl

theorem focus_deliverAccess (k : Nat) (x : Access) (s : State) : (deliverAccess k x s).focus = s.focus :=
  State.setWave_focus ..

theorem blur_nil (w : Wave) (free : Nat) (a : Arch) : w.blur [] free a = a := rfl

theorem execLoadDataReturn_loadS {s : State} {k seq r n : Nat} {signed : Bool} {x : Access} {e : Elem}
    (idle : (s.wave k).producers.find? (fun p => p.seq == seq && p.path != 6) = none) (awaits : (s.wave k).awaited seq = some x)
    (arrived : x.arrived = true) (op : x.op = .loadS r n signed) (one : x.elems = [e]) (pos : 0 < n) :
    ∃ t, execLoadDataReturn k seq s = .next t ∧ t.focus = s.focus ∧
      (t.wave k).a = ((s.wave k).a.setS r (extendBytes e.bytes signed)).fillSs [r] ∧ SameMemory s t := by
  have still : withNextLine k x s = s := by rw [withNextLine, nextLine_of_arrived arrived]
  refine ⟨deliverAccess k x s, ?_, focus_deliverAccess .., ?_, fun loc => by rw [deliverAccess_mem]⟩
  · have last := execLoadDataReturn_last idle awaits (by rwa [still]) arrived
    rwa [still] at last
  · have unfilled : x.op.fills (s.wave k).width = [] := by rw [op]; rfl
    rw [a_deliverAccess, unfilled, blur_nil, deliver_loadS _ _ op one pos]

theorem lineArrives_passes {k : Nat} {x : Access} {r : Req} {s : State} (passes : x.byp = true ∨ x.homed = false ∨ r.byp = true ∨ r.lost = true) :
    lineArrives k x r s = s.onAccess k x.seq (fun y =>
      if y == x then { y with reqs := y.reqs.map (fun q => if q == r then { q with here := true } else q) } else y) := by
  unfold lineArrives
  dsimp only
  exact if_pos (by simpa [or_assoc] using passes)

theorem lineArrives_near {k : Nat} {x : Access} {r : Req} {s : State} (kept : x.byp = false) (homed : x.homed = true) (kept' : r.byp = false)
    (held : r.lost = false) :
    let s1 := s.onAccess k x.seq (fun y => if y == x then { y with reqs := y.reqs.map (fun q => if q == r then { q with here := true } else q) } else y)
    lineArrives k x r s = allocateNear (s1.wave k).core r.line s1 := by
  unfold lineArrives
  dsimp only
  exact if_neg (by simp [kept, homed, kept', held])

end Sys2Proof.Machine
end

section
/-! SUPPORT. The oldest access retires, its poison taken (R123, R309). -/

namespace Sys2Proof.Machine

/-- The state that the retirement of a wave's oldest access starts from: a read is noted. -/
def retiring (k : Nat) (x : Access) (s : State) : State :=
  if x.op.writes then s else noteAccess (s.wave k).launch x.handle x.space.toNat false s

section
variable {s : State} {k : Nat} {x : Access} {rest : List Access} (oldest : (s.wave k).accesses = x :: rest) (retires : x.retirable = true)
include oldest retires

theorem execAccessRetire_clean (clean : x.poisoned = none) : execAccessRetire k s = .next (retireOldest k (retiring k x s)) := by
  unfold execAccessRetire
  rw [oldest]
  dsimp only
  rw [if_neg (by simp [retires]), clean]
  rfl

theorem execAccessRetire_poisoned {va : W64} (poisoned : x.poisoned = some va) : execAccessRetire k s =
    if (s.wave k).txn.isSome then .next (abortTxn k 6 (retiring k x s))
    else .next (stopAfter k x.seq x.snap (x.trap Cause.poison va) (retiring k x s)) := by
  unfold execAccessRetire
  rw [oldest]
  dsimp only
  rw [if_neg (by simp [retires]), poisoned]
  rfl

end

end Sys2Proof.Machine
end

section

namespace Sys2Proof.Machine

open Sys2Proof.Safety

/-- Settles O37, by one equation or rule for each step of an access. -/
theorem accessSteps : Obligations.AccessSteps := by
  unfold Obligations.AccessSteps
  refine ⟨?leave, ?send, ?accept, fun i capped ws taken skipped s => length_acceptAll i capped ws taken skipped s, ?retry, ?fill,
    ?producer, ?back, ?near, ?scalar, ?retire⟩
  case leave =>
    intro s s' k x oldest kept
    exact ⟨execStoreBufferLeave_leaves oldest kept, fun q => execStoreQueueDrain_leaves oldest kept⟩
  case send =>
    intro s s' k x single notHost notPeer plain snapped
    obtain ⟨t, leaves, flight, accesses, same⟩ := leaveBuffer_leaves single notHost notPeer plain snapped
    refine ⟨t, leaves, flight, ?_, same⟩
    rw [accesses]
    cases (s'.wave k).accesses <;> rfl
  case accept =>
    intro s s1 s2 s3 i errors taken taken' taken'' late skipped rest
    exact execFrontRequestAccept_takes
  case retry =>
    intro s k seq line
    rfl
  case fill =>
    intro s i sector bad asked s1 s2
    have kept : s2.whorl i = s1.whorl i := poisoned_whorl _ _ _
    rw [kept]
    exact ⟨execFillComplete_fills asked, whorl_filled i sector s⟩
  case producer =>
    intro s k id p found
    exact execLoadDataReturn_producer found
  case back =>
    intro s k id x idle awaits s1
    exact ⟨fun y => execLoadDataReturn_last idle awaits, execLoadDataReturn_more idle awaits⟩
  case near =>
    intro s k x r s1
    refine ⟨lineArrives_passes, fun kept homed kept' held => ?_⟩
    have near : lineArrives k x r s = allocateNear (s1.wave k).core r.line s1 := lineArrives_near kept homed kept' held
    exact ⟨near, near ▸ allocateNear_head _ _ _⟩
  case scalar =>
    intro s seq r n signed x e idle awaits arrived op one pos below
    rw [← State.wave_focus] at idle awaits
    obtain ⟨t, runs, focus, a, same⟩ := execLoadDataReturn_loadS idle awaits arrived op one pos
    rw [← focus, State.wave_focus] at a
    refine ⟨t, runs, ?_, ?_, same⟩
    · rw [State.sreg, a]
      exact (Arch.getS_setS ..).trans (if_pos rfl)
    · simp [a, Arch.fillSs]
  case retire =>
    intro s k x rest oldest retires s'
    refine ⟨execAccessRetire_clean oldest retires, fun va poisoned within => ?_, fun va poisoned outside => ⟨?_, rfl⟩⟩
    · exact (execAccessRetire_poisoned oldest retires poisoned).trans (if_pos within)
    · exact (execAccessRetire_poisoned oldest retires poisoned).trans (if_neg (by simp [outside]))

end Sys2Proof.Machine
end

section
/-! SUPPORT. The start of a scratch motion may write memory: it checks the tile, an error found in it asks for its slot to be quarantined,
and a list of slots that is full posts an event to the host's ring (R99, R311). -/

namespace Sys2Proof.Machine

open Sys2Proof.Safety

/-- A resident tile whose first sector is present and clean. -/
def errantTile : Tile := ⟨0, 0, 1, none, true, 0, none, []⟩

/-- A Whorl whose list of quarantined slots is full and whose pin waits for a tile that it holds in slot 5. -/
def crowdedWhorl : Whorl :=
  { Whorl.vacant with
    slots := [(5, errantTile)], waitPin := [(0, errantTile)], quar := (List.range 16).map (fun i => ⟨100 + i, 1, false⟩) }

/-- After reset, with an error in the tile's first sector and an event ring of two records at host address 64. -/
def crowdedState : State :=
  { State.reset with damage := [0], whorls := [(0, crowdedWhorl)], mgmt := { State.reset.mgmt with evbase := 64, events := 1 } }

/-- The first scratch motion of Whorl 0 posts an event of kind 3: its first byte stands in the ring. -/
theorem scratchMotionStart_crowded_posts {t : State} (runs : exec (.scratchMotionStart 0) crowdedState = .next t) :
    readByte t.mem (hostPhysLoc 64) = 3 := by
  obtain rfl : _ = t := Host.Outcome.next.inj runs
  rfl

/-- Refutes O39: SCRATCH_MOTION_START need not leave memory. The waiting pin's tile is checked first; the error found in it asks for its slot to
be quarantined, the list of quarantined slots is full, and the event that tells so is written to the host's event ring. -/
theorem not_whorlSteps : ¬ Obligations.WhorlSteps := by
  unfold Obligations.WhorlSteps
  intro ⟨_, _, start, _⟩
  obtain ⟨t, runs, same, _⟩ := start crowdedState 0 0 errantTile [] rfl (by decide)
  have posted : readByte t.mem (hostPhysLoc 64) = 3 := scratchMotionStart_crowded_posts runs
  have kept : readByte t.mem (hostPhysLoc 64) = 0 := same (hostPhysLoc 64)
  exact absurd (posted.symm.trans kept) (by decide)

end Sys2Proof.Machine
end

section
/-! SUPPORT. What a part of an access does to memory as it is performed: nothing, or bytes written at its own locations (R119, R137, R206, R208). -/

namespace Sys2Proof.Machine

open Sys2Proof.Safety

theorem getElem_bytesOfNat (x : Nat) {n i : Nat} (h : i < (bytesOfNat x n).length) : (bytesOfNat x n)[i] = BitVec.ofNat 8 (x / 256 ^ i) := by
  induction n generalizing x i with
  | zero => exact absurd h (Nat.not_lt_zero i)
  | succ n ih =>
    cases i with
    | zero => simp [bytesOfNat]
    | succ i => simp [bytesOfNat, ih, Nat.div_div_eq_div_mul, Nat.pow_succ']

theorem readByte_writeLocs_zip_outside {locs : List Nat} {loc : Nat} (outside : loc ∉ locs) (bs : List Byte) (m : Memory) :
    readByte (writeLocs m (locs.zip bs)) loc = readByte m loc := by
  refine readByte_writeLocs_outside _ m loc fun written => ?_
  obtain ⟨⟨l, b⟩, cell, rfl⟩ := List.mem_map.1 written
  exact outside (List.of_mem_zip cell).1

/-- A datum for each of some separate locations stands at its location. -/
theorem readByte_writeLocs_zip {locs : List Nat} {bs : List Byte} (apart : locs.Nodup) (each : bs.length = locs.length) (m : Memory)
    {i : Nat} (hi : i < locs.length) : readByte (writeLocs m (locs.zip bs)) locs[i] = bs[i] := by
  refine readByte_writeLocs_mem _ m _ _ ?_ (List.mem_iff_getElem.2 ⟨i, ?_, List.getElem_zip⟩)
  · rwa [List.map_fst_zip each.ge]
  · simp [each, hi]

/-- WHAT PERFORMING A PART CAN DO: a part that reads leaves memory, one that writes sets bytes at its locations; both answer the bytes that
were there. -/
theorem performElem_form (op : AccessOp) (m : Memory) (e : Elem) :
    (op.writes = false ∧ performElem op m e = (m, readLocs m e.locs)) ∨
      (op.writes = true ∧ ∃ bs, performElem op m e = (writeLocs m (e.locs.zip bs), readLocs m e.locs)) := by
  cases op with
  | store => exact .inr ⟨rfl, _, rfl⟩
  | portStore r => exact .inr ⟨rfl, _, rfl⟩
  | atomic fn r width scalar => exact .inr ⟨rfl, _, rfl⟩
  | reduce fn => exact .inr ⟨rfl, _, rfl⟩
  | _ => exact .inl ⟨rfl, rfl⟩

theorem performElem_old (op : AccessOp) (m : Memory) (e : Elem) : (performElem op m e).2 = e.locs.map (readByte m) := by
  obtain ⟨_, performed⟩ | ⟨_, bs, performed⟩ := performElem_form op m e <;> rw [performed, readLocs]

theorem performElem_reads {op : AccessOp} (reads : op.writes = false) (m : Memory) (e : Elem) : (performElem op m e).1 = m := by
  obtain ⟨_, performed⟩ | ⟨writes, _⟩ := performElem_form op m e
  · rw [performed]
  · simp [reads] at writes

theorem readByte_performElem_outside (op : AccessOp) (m : Memory) {e : Elem} {loc : Nat} (outside : loc ∉ e.locs) :
    readByte (performElem op m e).1 loc = readByte m loc := by
  obtain ⟨_, performed⟩ | ⟨_, bs, performed⟩ := performElem_form op m e
  · rw [performed]
  · rw [performed]
    exact readByte_writeLocs_zip_outside outside bs m

/-- Settles O24: a part sets bytes at its own locations alone (`performElem_form`), a datum each or the bytes of the new value. -/
theorem storePerformed : Obligations.StorePerformed := by
  intro m e apart each
  refine ⟨fun loc outside op => readByte_performElem_outside op m outside, fun i hi => ?_, fun fn r w sc i hi => ?_, fun fn i hi => ?_,
    fun op => performElem_old op m e, fun op reads => performElem_reads reads m e, fun op kept => wf_performElem op m e kept, fun op es => rfl⟩
  · rw [List.getD_eq_getElem _ _ (each ▸ hi)]
    exact readByte_writeLocs_zip apart each m hi
  · exact (readByte_writeLocs_zip apart (length_bytesOfNat ..) m hi).trans (getElem_bytesOfNat _ _)
  · exact (readByte_writeLocs_zip apart (length_bytesOfNat ..) m hi).trans (getElem_bytesOfNat _ _)

end Sys2Proof.Machine
end

section
/-! SUPPORT. The transaction words (R134, R135, R209, R210). -/

namespace Sys2Proof.Machine

open Sys2Proof.Safety

/-- The transaction that TBEGIN opens at `s`, its checkpoint the registers at `t`. -/
def openedTxn (s t : State) (d a : BitVec 7) : Txn := {
  threads := s.w.a.exec, sole := (s.sreg a.toNat).getLsbD 0, sd := d.toNat, snap := t.w.a, seq := s.w.seq, reads := [], accs := [],
  log := 0, faulted := false, mode := t.w.mode }

section
variable {s : State} {d a : BitVec 7} {ea : Bool} (issues : Issues { srcS := [(a.toNat, ea)], dstS := [d.toNat] } s s)
  (settled : s.w.speculative = false)

include issues settled

theorem exec_tbegin_opens (closed : s.w.txn = none) :
    let t := finish { srcS := [(a.toNat, ea)], dstS := [d.toNat] } (s.setS d.toNat 0)
    exec (.tbegin d a ea) s = .next (t.onWave (fun w => { w with
      txn := some (openedTxn s t d a), mode := if (s.sreg a.toNat).getLsbD 0 then 2#2 else w.mode })) := by
  refine (issue_go issues _).trans ?_
  simp only [settled, closed, Option.isSome_none, Bool.false_eq_true, if_false]
  rfl

theorem exec_tbegin_inside (inside : s.w.txn.isSome = true) :
    exec (.tbegin d a ea) s = .next (deliverTrap (trapHere s Cause.txn 0 0) s) := by
  refine (issue_go issues _).trans ?_
  simp [settled, inside]

end

section
variable {s : State} (issues : Issues {} s s)

include issues

theorem exec_tend_outside (closed : s.w.txn = none) : exec .tend s = raise Cause.txn 0 0 s := by
  refine (issue_go issues _).trans ?_
  simp [closed]

/-- The lines of a commit locked, free of writes under way, and its accesses performed with no poison met, the transaction commits. -/
theorem exec_tend_commits {s1 s2 : State} {x : Txn} (inside : s.w.txn = some x) (settled : s.w.speculative = false)
    (single : s.w.pair = none) (leads : s.w.pairOk ≠ 2#2) (unguarded : guardHolds s s.w = false) :
    let xs := x.winning (x.losers s.w.width)
    let lines := commitLines xs
    lockLines lines (if x.sole then lines.foldl (fun s l => grantHold (homeWhorl s l) s) s else s) = (s1, true) →
    (∀ l ∈ lines, (s1.whorl (homeWhorl s1 l)).busy.any (fun b => b.1 == l) = false) → commitAll xs s1 = some (s2, none) →
    exec .tend s = .next (committed x (x.losers s.w.width) (unlockCommit lines s2)) := by
  intro xs lines locks quiet commits
  have free : lines.any (fun l => (s1.whorl (homeWhorl s1 l)).busy.any (fun b => b.1 == l)) = false :=
    List.any_eq_false.2 fun l hl => ne_true_of_eq_false (quiet l hl)
  refine (issue_go issues _).trans ?_
  simp only [inside, settled, single, unguarded, Bool.false_eq_true, Bool.false_and, Option.isSome_none, if_false, beq_eq_false_iff_ne.2 leads]
  rw [locks]
  dsimp only
  rw [if_neg (ne_true_of_eq_false free), commits]

end

theorem exec_tabort {s : State} {a : BitVec 7} {ea : Bool} (issues : Issues { srcS := [(a.toNat, ea)] } s s) :
    exec (.tabort a ea) s = if s.w.txn.isSome then
        .next ((abortTxn s.focus 4#3 s).onWave (fun w => { w with txUser := (s.sreg a.toNat).extractLsb' 0 8 }))
      else raise Cause.txn 0 0 s := by
  refine (issue_go issues _).trans ?_
  cases s.w.txn with
  | none => rfl
  | some x => rfl

/-- After a commit that some threads lost, the scalar registers stand as at TBEGIN, its destination naming the losers. -/
theorem getS_restoreLosers (x : Txn) (losers : W64) (w : Wave) (r : Nat) :
    (restoreLosers x losers w).getS r = if x.sd = r then losers else x.snap.getS r :=
  Arch.getS_setS ..

/-- Settles O27, by one equation for each word. -/
theorem transactions : Obligations.Transactions := by
  unfold Obligations.Transactions
  refine ⟨?begins, fun s issues closed => exec_tend_outside issues closed, ?ends, ?restored, ?aborts, ?test⟩
  case begins =>
    intro s d a ea issues settled
    refine ⟨fun closed => ⟨_, _, exec_tbegin_opens issues settled closed, rfl, rfl, rfl, rfl, rfl, rfl, rfl, ?_, ?_, ?_, ?_, ?_⟩,
      exec_tbegin_inside issues settled⟩
    · simp [openedTxn]
    · exact (finish_sreg ..).trans ((Arch.getS_setS ..).trans (if_pos rfl))
    · simp
    · exact finish_a_pos ..
    · simp [SameMemory]
  case ends =>
    intro s s1 s2 x issues inside settled single leads unguarded xs lines locks quiet commits done
    have runs := exec_tend_commits issues inside settled single leads unguarded locks quiet commits
    exact ⟨fun whole => runs.trans (congrArg _ (if_pos whole)), fun lost => runs.trans (congrArg _ (if_neg lost))⟩
  case restored =>
    intro w x losers
    refine ⟨rfl, rfl, ?_, fun r other => ?_⟩
    · exact (getS_restoreLosers ..).trans (if_pos rfl)
    · exact (getS_restoreLosers ..).trans (if_neg other.symm)
  case aborts => exact fun s a ea issues => exec_tabort issues
  case test => exact fun s d issues => run_go issues _

end Sys2Proof.Machine
end

section
/-! SUPPORT. The frame of a load or store at its issue: its access joins the wave's, the lines it hits near become most recent, with the holds
that a sole transaction is granted, its destinations are empty, and the wave moves past it (R123, R136, R148, R319). -/

namespace Sys2Proof.Safety

open Sys2Proof.Machine

/-! ### Frames in a row -/

section
variable {vs ss : List Nat} {s t u : State}

/-- What a word of registers alone leaves, a load or store may leave. -/
theorem AccessFrame.of_frame (h : Frame vs ss false s t) : AccessFrame vs ss s t := by
  obtain ⟨units, waves, whorls, cores⟩ := h.device
  exact {
    registers := h.registers, flags := h.noFlags rfl, specials := h.specials, matrix := h.matrix, memory := h.memory, units := units
    waves := fun k other => by rw [State.wave, State.wave, units.1, waves, if_neg other, if_neg other]
    cores := fun k => by rw [State.core, State.core, cores]
    whorls := fun k => by rw [State.whorl, State.whorl, whorls] }

theorem AccessFrame.refl (vs ss : List Nat) (s : State) : AccessFrame vs ss s s := .of_frame (.refl vs ss false s)

theorem AccessFrame.trans (h : AccessFrame vs ss s t) (g : AccessFrame vs ss t u) : AccessFrame vs ss s u where
  registers := ⟨fun r hr => ⟨fun th below => ((g.registers.1 r hr).1 th below).trans ((h.registers.1 r hr).1 th below),
      (g.registers.1 r hr).2.trans (h.registers.1 r hr).2⟩,
    fun r hr => ⟨(g.registers.2 r hr).1.trans (h.registers.2 r hr).1, (g.registers.2 r hr).2.trans (h.registers.2 r hr).2⟩⟩
  flags := by
    have later := g.flags
    simp only [SameFlags] at later
    simpa [SameFlags, later] using h.flags
  specials := by
    have later := g.specials
    simp only [SameSpecials] at later
    simpa [SameSpecials, later] using h.specials
  matrix := by
    refine ⟨fun k hk => (g.matrix.1 k hk).trans (h.matrix.1 k hk), ?_⟩
    simpa [g.matrix.2] using h.matrix.2
  memory := fun loc => (g.memory loc).trans (h.memory loc)
  units := by
    have later := g.units
    simp only [SameUnits] at later
    simpa [SameUnits, later] using h.units
  waves := fun k other => (g.waves k (by rwa [h.units.1])).trans (h.waves k other)
  cores := fun k => (g.cores k).trans (h.cores k)
  whorls := fun k => (g.whorls k).trans (h.whorls k)

theorem AccessFrame.foldl {α : Type} {f : State → α → State} (step : ∀ s x, AccessFrame vs ss s (f s x)) (l : List α) (s : State) :
    AccessFrame vs ss s (l.foldl f s) := by
  induction l generalizing s with
  | nil => exact .refl vs ss s
  | cons x l ih => exact (step s x).trans (ih (f s x))

end

end Sys2Proof.Safety

namespace Sys2Proof.Machine

open Sys2Proof.Safety

/-! ### Update by update -/

section
variable (vs ss : List Nat)

/-- A core's near cache in another order. -/
theorem accessFrame_near (c : Nat) (near : Core → List Nat) (s : State) :
    AccessFrame vs ss s (s.onCore c (fun x => { x with near := near x })) :=
  { AccessFrame.refl vs ss s with
    cores := fun k => by
      rw [State.core_onCore]
      split
      · next same => rw [same]
      · rfl }

/-- A Whorl's hold set. -/
theorem accessFrame_hold (home : Nat) (hold : Option (Nat × Nat)) (s : State) :
    AccessFrame vs ss s (s.onWhorl home (fun h => { h with hold := hold })) :=
  { AccessFrame.refl vs ss s with
    whorls := fun k => by
      simp only [State.whorl, State.onWhorl, look_put]
      split
      · next same => rw [same]
      · rfl }

/-- The holds of a wave noted. -/
theorem accessFrame_holds (k : Nat) (holds : List Nat) (s : State) :
    AccessFrame vs ss s (s.setWave k { s.wave k with holds := holds }) := by
  by_cases focused : k = s.focus
  · rw [State.setWave, if_pos focused, State.wave, if_pos focused]
    exact .of_frame { Frame.refl vs ss false s with }
  · have others : ∀ j, { (s.setWave k { s.wave k with holds := holds }).wave j with holds := [] } = { s.wave j with holds := [] } := fun j => by
      rw [State.wave_setWave]
      split
      · next same => rw [same]
      · rfl
    rw [State.setWave, if_neg focused] at others ⊢
    exact { AccessFrame.refl vs ss s with waves := fun j _ => others j }

/-- WHAT A GRANT CAN DO (R132, R136): nothing, or a Whorl's hold is set and noted in the wave that has it. -/
theorem accessFrame_grantHold (home : Nat) (s : State) : AccessFrame vs ss s (grantHold home s) := by
  unfold grantHold
  split
  · exact .refl vs ss s
  · split
    · exact .refl vs ss s
    · exact (accessFrame_hold vs ss home _ s).trans (accessFrame_holds vs ss _ _ _)

theorem accessFrame_nearTouched (x : Access) (s : State) : AccessFrame vs ss s (nearTouched x s) := by
  have recent := AccessFrame.foldl (fun s l => accessFrame_near vs ss s.w.core (fun c => l :: c.near.filter (· != l)) s)
    ((x.reqs.filter (·.here)).map (·.line)) s
  unfold nearTouched
  dsimp only
  split
  · exact recent.trans (AccessFrame.foldl (fun s l => accessFrame_grantHold vs ss (homeWhorl s l) s) _ _)
  · exact recent

/-- An access made changes the wave's operations in flight, its accesses and its transaction. -/
theorem addAccess_form (x : Access) (path : Nat) (s : State) : ∃ flight accesses txn,
    (addAccess x (raiseCount path s)).onWave Wave.portsLast =
      s.onWave (fun w => { w with flight := flight, accesses := accesses, txn := txn }) := by
  unfold addAccess
  split
  · exact ⟨_, _, _, rfl⟩
  · split
    · exact ⟨_, _, _, rfl⟩
    · exact ⟨_, _, _, rfl⟩

theorem frame_addAccess (x : Access) (path : Nat) (s : State) :
    Frame vs ss false s ((addAccess x (raiseCount path s)).onWave Wave.portsLast) := by
  obtain ⟨flight, accesses, txn, made⟩ := addAccess_form x path s
  rw [made]
  exact { Frame.refl vs ss false s with }

/-- A register of none of those put into a set is as before. -/
theorem getLsbD_foldl_with {r : Nat} {rs : List Nat} (other : r ∉ rs) (m : RegSet) : (rs.foldl RegSet.with m).getLsbD r = m.getLsbD r := by
  induction rs generalizing m with
  | nil => rfl
  | cons q rs ih =>
    rw [List.mem_cons, not_or] at other
    rw [List.foldl_cons, ih other.2, getLsbD_regSet_with]
    simp [other.1]

theorem frame_empty (s : State) : Frame vs ss false s (s.onArch (fun a => (a.emptyVs vs).emptySs ss)) :=
  { Frame.refl vs ss false s with
    registers := ⟨fun _ other => ⟨fun _ _ => rfl, getLsbD_foldl_with other _⟩, fun _ other => ⟨rfl, getLsbD_foldl_with other _⟩⟩ }

end

/-- THE FRAME OF A LOAD OR STORE: the access made, its destinations empty, the word done. -/
theorem accessFrame_accessed {u : Use} {m : MemWord} (dst : u.dstV ⊆ m.dstV) (t' : State) (hd : Handle) (places : List Place) :
    AccessFrame m.dstV m.dstS t' (finish u (accessed m t' hd places)) := by
  have made := AccessFrame.of_frame (frame_addAccess m.dstV m.dstS (m.access t' hd places) (memPath hd m.op) t')
  have recent := made.trans (accessFrame_nearTouched m.dstV m.dstS (m.access t' hd places) _)
  have emptied := recent.trans (.of_frame (frame_empty m.dstV m.dstS _))
  exact emptied.trans (.of_frame ((Frame.refl _ _ _ _).finish fun _ hr => dst hr))

/-- A word that leaves such an access has its frame. -/
theorem accessFrame_of_next {u : Use} {m : MemWord} (dst : u.dstV ⊆ m.dstV) {t t' : State} {hd : Handle} {places : List Place}
    {result : Result} (makes : result = .next (finish u (accessed m t' hd places))) (answers : result = .next t) :
    AccessFrame m.dstV m.dstS t' t := by
  obtain rfl := Host.Outcome.next.inj (makes.symm.trans answers)
  exact accessFrame_accessed dst t' hd places

/-- Settles O51: every such word makes its access and moves past itself (`scalarMemory`, `vectorMemory`), which has the frame
(`accessFrame_accessed`). -/
theorem memoryFrame : Obligations.MemoryFrame := by
  obtain ⟨scalarLoads, scalarStores, _⟩ := scalarMemory
  obtain ⟨vectorLoads, vectorStores, lines⟩ := vectorMemory
  unfold Obligations.MemoryFrame
  refine ⟨?scalarLoads, ?scalarStores, ?vectorLoads, ?lines, ?vectorStores⟩
  case scalarLoads =>
    intro p word s t' t d o h byp ea hd places u m issues accesses
    exact accessFrame_of_next (List.nil_subset _) (scalarLoads p word s t' d o h byp ea hd places issues accesses)
  case scalarStores =>
    intro p word s t' t d o h byp ed ea hd places u m issues accesses
    exact accessFrame_of_next (List.nil_subset _) (scalarStores p word s t' d o h byp ed ea hd places issues accesses)
  case vectorLoads =>
    intro p word s s' t' t d o h byp ea hd places k u m legal issues accesses
    exact accessFrame_of_next (List.Subset.refl _) ((vectorLoads p word s s' t' d o h byp ea hd places legal issues).2 accesses)
  case lines =>
    intro s s' t' t d o h byp ed ea hd places k offs legal
    obtain ⟨load, store⟩ := lines s s' t' d o h byp ed ea hd places legal
    exact ⟨fun issues accesses => accessFrame_of_next (List.Subset.refl _) (load issues accesses),
      fun issues accesses => accessFrame_of_next (List.nil_subset _) (store issues accesses)⟩
  case vectorStores =>
    intro p word s s' t' t d o h byp ed ea hd places k u m legal issues accesses
    exact accessFrame_of_next (List.nil_subset _) ((vectorStores p word s s' t' d o h byp ed ea hd places legal issues).2 accesses)

end Sys2Proof.Machine
end

section
/-! SUPPORT. Bytes written from one location on, as the host writes them, and the sectors they leave poisoned (R308, R309). -/

namespace Sys2Proof.Machine

theorem cellsAt_cons (loc : Nat) (b : Byte) (bs : List Byte) : cellsAt loc (b :: bs) = (loc, b) :: cellsAt (loc + 1) bs := by
  simp only [cellsAt, List.zipIdx_cons, List.map_cons, Nat.add_zero, Nat.zero_add, List.zipIdx_succ, List.map_map]
  congr 2
  funext x
  simp [Nat.add_assoc, Nat.add_comm 1]

theorem map_fst_cellsAt (loc : Nat) (bs : List Byte) : (cellsAt loc bs).map (·.1) = (List.range bs.length).map (loc + ·) := by
  rw [cellsAt, List.map_map, List.range_eq_range', ← List.zipIdx_map_snd, List.map_map]
  rfl

theorem writeLocs_cellsAt (m : Memory) (loc : Nat) (bs : List Byte) : writeLocs m (cellsAt loc bs) = writeBytes m loc bs := by
  induction bs generalizing m loc with
  | nil => rfl
  | cons b bs ih => rw [cellsAt_cons, writeLocs, ih, writeBytes]

/-- Data that came marked poison the sectors of their locations. -/
theorem anyPoison_setPoison {s : State} {poison locs : List Nat} (marked : s.poison = setPoison poison locs) {loc : Nat} (written : loc ∈ locs) :
    anyPoison s [loc] = true := by
  have sector : eccSector loc ∈ setPoison poison locs := by
    rw [setPoison, List.mem_append]
    by_cases old : eccSector loc ∈ poison
    · exact .inl old
    · exact .inr (by simpa [old] using ⟨loc, written, rfl⟩)
  simp [anyPoison, marked, sector]

theorem homeWrite_mem (owner : Option (BitVec 8)) (cells : List (Nat × Byte)) (s : State) :
    (homeWrite owner cells s).mem = writeLocs s.mem (cells.filter (fun c => !tierDown s c.1)) := by
  unfold homeWrite
  dsimp only
  refine (mem_foldl ?marks _ _).trans (congrArg (writeLocs · _) (mem_foldl (fun s l => invalidateNow_mem l s) _ s))
  exact fun _ _ => rfl

/-- The device's own memory is behind no port. -/
theorem tierDown_hbmLoc (s : State) {addr i : Nat} (inside : addr + i < hdmBytes) : tierDown s (hbmLoc addr + i) = false := by
  have region : regionOf (hbmLoc addr + i) = 0 := by
    simp only [regionOf, hbmLoc, hdmBytes, hbmBytes] at *
    omega
  simp [tierDown, region]

end Sys2Proof.Machine
end

section
/-! SUPPORT. Messages between a core and its homes (R119, R300, R303). -/

namespace Sys2Proof.Machine

variable {s : State} {c line : Nat}

theorem exec_invalidationArrival (next : firstIn s c line false = true) :
    exec (.invalidationArrival c line) s = .next (loseLine c line false (s.onCore c (fun x => { x with
      inbox := x.inbox.erase (line, false), near := x.near.filter (· != line)
      out := if x.notices.contains line then x.out else x.out ++ [(line, false, s.cycle)] }))) :=
  if_neg (by simp [next])

theorem exec_noticeCompletion (next : firstIn s c line true = true) :
    exec (.noticeCompletion c line) s =
      .next (s.onCore c (fun x => { x with inbox := x.inbox.erase (line, true), notices := x.notices.erase line })) :=
  if_neg (by simp [next])

theorem exec_acknowledgement {sent : Nat} (oldest : firstOut s c line false = some sent) :
    exec (.acknowledgement c line) s = .next (countAck c line (s.onCore c (fun x => { x with out := x.out.erase (line, false, sent) }))) := by
  change execAcknowledgement c line s = _
  rw [execAcknowledgement, oldest]

/-- What a notice leaves at its home: an acknowledgement counted where one is owed, else no pointer to its core (R303). -/
def noticed (c line : Nat) (s : State) : State :=
  if (find (s.whorl (homeWhorl s line)).busy line).any (fun owed => owed.contains c) then countAck c line s
  else s.onWhorl (homeWhorl s line) (fun h =>
    if (dirEntry h line).coarse then h else setDir line { dirEntry h line with sharers := (dirEntry h line).sharers.erase c } h)

theorem exec_evictionNotice {sent : Nat} (oldest : firstOut s c line true = some sent)
    (first : ∀ w ∈ wantsAt s (homeWhorl s line), w.core ≠ c ∨ sent < w.arrived) :
    exec (.evictionNotice c line) s = .next (noticed c line (s.onCore c (fun x => { x with
      out := x.out.erase (line, true, sent), inbox := x.inbox ++ [(line, true)] }))) := by
  have free : (wantsAt s (homeWhorl s line)).any (fun w => w.core == c && decide (w.arrived ≤ sent)) = false := by
    refine List.any_eq_false.2 fun w hw => ?_
    have later := first w hw
    simp only [Bool.and_eq_true, beq_iff_eq, decide_eq_true_eq]
    omega
  change execEvictionNotice c line s = _
  rw [execEvictionNotice, oldest]
  simp only [free, noticed, apply_ite Host.Outcome.next]
  rfl

end Sys2Proof.Machine
end

section
/-! SUPPORT. The host's own snoops, reads and writes (R126, R254, R308, R329). -/

namespace Sys2Proof.Machine

open Sys2Proof.Safety

theorem exec_hostSnoop_waits {s : State} {line : Nat} (host : isHostLine line = true) (blocked : snoopBlocked s line = true)
    (payload : List (BitVec 8) × Bool) : exec (.hostSnoop line payload) s = .next (park (.hostSnoop line payload) s) := by
  change execHostSnoop line payload s = _
  simp [execHostSnoop, host, blocked]

theorem exec_hostSnoop_takes {s : State} {line : Nat} (host : isHostLine line = true) (free : snoopBlocked s line = false)
    (data : List (BitVec 8)) (poisoned : Bool) :
    let s1 := s.onWhorl (homeWhorl s line) (fun h => { h with
      owned := h.owned.erase line, snooped := if h.snooped.contains line then h.snooped else h.snooped ++ [line] })
    let cells := cellsAt (128 * line) (data.take 128)
    let s2 := invalidateNow line s1
    exec (.hostSnoop line (data, poisoned)) s = .next (if data = [] then s1 else
      { s2 with mem := writeLocs s2.mem cells
                poison := if poisoned then setPoison s2.poison (cells.map (·.1)) else clearPoison s2.poison (cells.map (·.1))
                damage := clearPoison s2.damage (cells.map (·.1)) }) := by
  intro s1 cells s2
  change execHostSnoop line (data, poisoned) s = _
  cases data with
  | nil => simp [execHostSnoop, host, free, s1]
  | cons b bs => simp [execHostSnoop, host, free, s1, s2, cells]

theorem exec_cxlMemRead {s : State} {addr n : Nat} (inside : addr + n ≤ hdmBytes) (accepts : s.accepts 5 = true)
    (free : ∀ l ∈ linesFrom (hbmLoc addr) n, (s.whorl (homeWhorl s l)).inUse l = false) :
    exec (.cxlMemRead addr n) s = .next (answerOut addr
      (if anyPoison s ((List.range n).map (hbmLoc addr + ·)) then [] else readBytes s.mem (hbmLoc addr) n)
      { s with hostCopy := s.hostCopy ++ (linesFrom (hbmLoc addr) n).filter (fun l => !s.hostCopy.contains l) }) := by
  have idle : (linesFrom (hbmLoc addr) n).any (fun l => (s.whorl (homeWhorl s l)).inUse l) = false :=
    List.any_eq_false.2 fun l hl => by simp [free l hl]
  exact (if_neg (Nat.not_lt.2 inside)).trans ((if_neg (by simp [accepts])).trans ((if_neg (by simp [idle])).trans rfl))

/-- Bytes that the host writes within the device's memory all reach it. -/
theorem homeWrite_hbm_mem (owner : Option (BitVec 8)) {addr : Nat} {data : List Byte} (inside : addr + data.length ≤ hdmBytes) (s : State) :
    (homeWrite owner (cellsAt (hbmLoc addr) data) s).mem = writeBytes s.mem (hbmLoc addr) data := by
  have reach : ∀ cell ∈ cellsAt (hbmLoc addr) data, (!tierDown s cell.1) = true := by
    intro cell hc
    have place : cell.1 ∈ (List.range data.length).map (hbmLoc addr + ·) := map_fst_cellsAt .. ▸ List.mem_map_of_mem hc
    obtain ⟨i, hi, same⟩ := List.mem_map.1 place
    rw [← same, tierDown_hbmLoc s (by have := List.mem_range.1 hi; omega)]
    rfl
  rw [homeWrite_mem, List.filter_eq_self.2 reach, writeLocs_cellsAt]

theorem exec_cxlMemWrite {s : State} {addr : Nat} {data : List (BitVec 8)} (inside : addr + data.length ≤ hdmBytes)
    (accepts : s.accepts 5 = true) (free : ∀ l ∈ linesFrom (hbmLoc addr) data.length, lineWaits s l = false) (poisoned : Bool) :
    ∃ t, exec (.cxlMemWrite addr (data, poisoned)) s = .next t ∧ t.mem = writeBytes s.mem (hbmLoc addr) data ∧
      (poisoned = true → ∃ old, t.poison = setPoison old ((cellsAt (hbmLoc addr) data).map (·.1))) := by
  have idle : (linesFrom (hbmLoc addr) data.length).any (lineWaits s) = false :=
    List.any_eq_false.2 fun l hl => by simp [free l hl]
  refine ⟨_, (if_neg (Nat.not_lt.2 inside)).trans ((if_neg (by simp [accepts])).trans ((if_neg (by simp [idle])).trans rfl)), ?_, ?_⟩
  · cases poisoned with
    | false => exact homeWrite_hbm_mem none inside s
    | true => exact homeWrite_hbm_mem none inside s
  · rintro rfl
    exact ⟨_, rfl⟩

/-- Settles O38, by one equation for each message and each request of the host. -/
theorem coherenceSteps : Obligations.CoherenceSteps := by
  unfold Obligations.CoherenceSteps
  refine ⟨fun s c line => ⟨exec_invalidationArrival, fun sent => exec_acknowledgement, fun sent => exec_evictionNotice,
    exec_noticeCompletion⟩, ?snoop, ?owned, ?read, ?write⟩
  case snoop =>
    intro s line data poisoned host home s1 cells s2
    refine ⟨fun blocked => exec_hostSnoop_waits host blocked _, fun free => exec_hostSnoop_takes host free data poisoned, fun _ whole => ?_⟩
    have all : cells = cellsAt (128 * line) data := congrArg (cellsAt (128 * line)) (List.take_of_length_le whole.le)
    have read := readBytes_writeBytes data s2.mem (128 * line)
    rwa [whole, ← writeLocs_cellsAt, ← all] at read
  case owned => exact fun s line => ⟨fun space => if_neg (by simp [space]), rfl⟩
  case read =>
    intro s addr n inside accepts free
    refine ⟨_, exec_cxlMemRead inside accepts free, rfl, fun l hl => ?_, rfl⟩
    by_cases old : l ∈ s.hostCopy
    · exact List.mem_append_left _ old
    · exact List.mem_append_right _ (by simp [hl, old])
  case write =>
    intro s addr data poisoned inside accepts free
    obtain ⟨t, runs, mem, marks⟩ := exec_cxlMemWrite inside accepts free poisoned
    refine ⟨t, runs, fun _ => ⟨?_, fun loc outside => ?_⟩, fun marked i hi => ?_⟩
    · rw [mem]
      exact readBytes_writeBytes data s.mem (hbmLoc addr)
    · rw [mem]
      refine readByte_writeBytes_outside data s.mem (hbmLoc addr) loc ?_
      by_contra within
      exact outside (List.mem_map.2 ⟨loc - hbmLoc addr, List.mem_range.2 (by omega), by omega⟩)
    · obtain ⟨old, poison⟩ := marks marked
      exact anyPoison_setPoison poison (by rw [map_fst_cellsAt]; exact List.mem_map.2 ⟨i, List.mem_range.2 hi, rfl⟩)

end Sys2Proof.Machine
end

section
/-! SUPPORT. What the host link, the peers and the ports bring (R119, R120, R207, R216, R328, R334, R335), an equation for each case. -/

namespace Sys2Proof.Machine

/-! ### HOST_COMPLETION -/

section
variable {s : State} {k : Nat} {status : BitVec 2}

theorem exec_hostCompletion_behind (queued : (drainEgress s).egress ≠ []) : exec (.hostCompletion k status) s = .next (drainEgress s) := by
  change execHostCompletion k status s = _
  simp [execHostCompletion, queued]

variable (drained : (drainEgress s).egress = [])
include drained

theorem exec_hostCompletion_access {x : Access} (oldest : awaiting (drainEgress s) k 4 = some x) :
    exec (.hostCompletion k status) s = .next (if routedBack x || status == 1#2 then refuseRemote k x (drainEgress s)
      else if x.op.writes && (x.elems.flatMap (·.locs)).any (fun l => lineWaits (drainEgress s) (lineOf l)) then drainEgress s
      else completeRemote k x (status == 2#2) (drainEgress s)) := by
  change execHostCompletion k status s = _
  simp only [execHostCompletion, drained, oldest, List.isEmpty_nil, Bool.not_true, Bool.false_eq_true, if_false, apply_ite Host.Outcome.next]

theorem exec_hostCompletion_command (idle : awaiting (drainEgress s) k 4 = none) {core : Nat} {c : SpindleCmd}
    (oldest : awaitingCommand (drainEgress s) k 4 = some (core, c)) :
    exec (.hostCompletion k status) s = .next (if status = 1 then refuseCommand core c (drainEgress s)
      else answerCommand core c (status == 2) (drainEgress s)) := by
  change execHostCompletion k status s = _
  simp only [execHostCompletion, drained, idle, oldest, List.isEmpty_nil, Bool.not_true, Bool.false_eq_true, if_false, beq_iff_eq]
  rfl

theorem exec_hostCompletion_fence (idle : awaiting (drainEgress s) k 4 = none) (noCommand : awaitingCommand (drainEgress s) k 4 = none) :
    exec (.hostCompletion k status) s = .next (finishFenceh k (status == 1) (drainEgress s)) := by
  change execHostCompletion k status s = _
  simp only [execHostCompletion, drained, idle, noCommand, List.isEmpty_nil, Bool.not_true, Bool.false_eq_true, if_false]
  rfl

end

/-- A FENCEH that the host answers: the wave in focus goes on past its word. -/
theorem finishFenceh_pos {s : State} {p : Producer}
    (waits : (s.wave s.focus).producers.find? (fun p => p.path == 6 && p.seq == (s.wave s.focus).seq) = some p) :
    (finishFenceh s.focus false s).w.a.pos = s.w.a.pos.advance 1 := by
  simp only [finishFenceh, waits]
  simp [State.landFor, State.setWave, State.focusOn, State.wave, Wave.land]

/-- An access that is sent on is not refused, where the status does not refuse it. -/
theorem not_refused {back : Bool} {status : BitVec 2} (sent : back = false) (granted : status ≠ 1) : (back || status == 1#2) = false := by
  rw [sent, Bool.false_or]
  exact beq_eq_false_iff_ne.2 granted

/-! ### PEER_ACKNOWLEDGEMENT -/

section
variable {s : State} {k : Nat} {status : BitVec 2}

theorem exec_peerAcknowledgement_command (idle : awaiting s k 5 = none) {core : Nat} {c : SpindleCmd}
    (oldest : awaitingCommand s k 5 = some (core, c)) :
    exec (.peerAcknowledgement k status) s = .next (
      if (find s.mgmt.routes c.node).isNone || status == 1#2 then refuseCommand core c s
      else if portsTo s c.node = 0 then s else answerCommand core c (status == 2#2) s) := by
  change execPeerAcknowledgement k status s = _
  simp only [execPeerAcknowledgement, idle, oldest, apply_ite Host.Outcome.next]

theorem exec_peerAcknowledgement_access {x : Access} (oldest : awaiting s k 5 = some x) :
    exec (.peerAcknowledgement k status) s = .next (
      if x.here then completeHere k x s
      else if (find s.mgmt.routes x.node).isNone || status == 1#2 then refuseRemote k x s
      else if portsTo s x.node = 0 then s else completeRemote k x (status == 2#2) s) := by
  change execPeerAcknowledgement k status s = _
  simp only [execPeerAcknowledgement, oldest, apply_ite Host.Outcome.next]

end

/-! ### PEER_REQUEST -/

section
variable {s s' : State} {tag : BitVec 8} {va : BitVec 64} {n : Nat} {locs : List Nat} (fn : Nat) (data cmp : List (BitVec 8)) (poisoned : Bool)

theorem exec_peerRequest_inactive (inactive : (s.context tag).active = false) (kind : BitVec 2) :
    exec (.peerRequest tag va kind fn n (data, poisoned) cmp) s = .next (answerOut va.toNat [] s) := by
  change execPeerRequest tag va kind fn n (data, poisoned) cmp s = _
  simp [execPeerRequest, inactive]

variable (active : (s.context tag).active = true)
include active

theorem exec_peerRequest_read (placed : translateBytes s (.shared 0) tag va n Access.read = (s', .inl locs))
    (free : ∀ l ∈ locs, (s'.whorl (homeWhorl s' (lineOf l))).inUse (lineOf l) = false) :
    exec (.peerRequest tag va 0 fn n (data, poisoned) cmp) s =
      .next (answerOut va.toNat (if anyPoison s' locs then [] else readLocs s'.mem locs) s') := by
  have idle : locs.any (fun l => (s'.whorl (homeWhorl s' (lineOf l))).inUse (lineOf l)) = false :=
    List.any_eq_false.2 fun l hl => by simp [free l hl]
  change execPeerRequest tag va 0 fn n (data, poisoned) cmp s = _
  simp [execPeerRequest, active, placed, idle]

theorem exec_peerRequest_write (placed : translateBytes s (.shared 0) tag va n Access.write = (s', .inl locs)) (free : homeFree s' locs = true) :
    exec (.peerRequest tag va 1 fn n (data, poisoned) cmp) s = .next (if poisoned then
      { homeWrite (some tag) (locs.zip data) s' with poison := setPoison (homeWrite (some tag) (locs.zip data) s').poison locs }
      else homeWrite (some tag) (locs.zip data) s') := by
  change execPeerRequest tag va 1 fn n (data, poisoned) cmp s = _
  simp [execPeerRequest, active, placed, free]

variable (placed : translateBytes s (.shared 0) tag va n Access.atom = (s', .inl locs)) (free : homeFree s' locs = true)
include placed free

theorem exec_peerRequest_atomic :
    exec (.peerRequest tag va 2 fn n (data, poisoned) cmp) s =
      .next (answerOut va.toNat (if anyPoison s' locs then [] else readLocs s'.mem locs) (homeWrite (some tag) (locs.zip (bytesOfNat
        (atomicValue fn locs.length (natOfBytes (readLocs s'.mem locs)) (natOfBytes data) (natOfBytes cmp)) locs.length)) s')) := by
  change execPeerRequest tag va 2 fn n (data, poisoned) cmp s = _
  simp [execPeerRequest, active, placed, free]

theorem exec_peerRequest_reduce :
    exec (.peerRequest tag va 3 fn n (data, poisoned) cmp) s = .next (homeWrite (some tag) (locs.zip (bytesOfNat
      (reduceValue fn (natOfBytes (readLocs s'.mem locs)) (natOfBytes data)) locs.length)) s') := by
  change execPeerRequest tag va 3 fn n (data, poisoned) cmp s = _
  simp [execPeerRequest, active, placed, free]

end

/-! ### SKEIN_PEER_TIMEOUT -/

theorem exec_skeinPeerTimeout {s : State} {node : BitVec 16} (down : portsTo s node.toNat = 0)
    (routed : (find s.mgmt.routes node.toNat).isSome = true) :
    exec (.skeinPeerTimeout node) s = .next (s.allWaves.foldl (fun (s : State) e => endAccesses node.toNat e.1 s) s) := by
  obtain ⟨port, route⟩ := Option.isSome_iff_exists.1 routed
  exact if_neg (by simp [down, route])

/-! ### Ports -/

section
variable {s : State} {port : Nat}

theorem exec_skeinPortDown (up : s.mgmt.skeinUp.getLsbD port = true) :
    exec (.skeinPortDown port) s = .next (postEvent 5 0 [BitVec.ofNat 64 port]
      { s with mgmt := { s.mgmt with skeinUp := s.mgmt.skeinUp &&& ~~~(1#16 <<< port) } }) :=
  if_neg (by simp [up])

theorem exec_cxlPortDown (up : s.mgmt.cxlUp.getLsbD port = true) :
    exec (.cxlPortDown port) s = .next (postEvent 6 0 [BitVec.ofNat 64 port]
      { s with mgmt := { s.mgmt with cxlUp := s.mgmt.cxlUp &&& ~~~(1#4 <<< port) } }) :=
  if_neg (by simp [up])

theorem exec_skeinPortUp (known : port < 16) :
    exec (.skeinPortUp port) s = .next { s with mgmt := { s.mgmt with skeinUp := s.mgmt.skeinUp ||| (1#16 <<< port) } } :=
  if_neg (Nat.not_le.2 known)

theorem exec_cxlPortUp (known : port < 4) :
    exec (.cxlPortUp port) s = .next { s with mgmt := { s.mgmt with cxlUp := s.mgmt.cxlUp ||| (1#4 <<< port) } } :=
  if_neg (Nat.not_le.2 known)

/-- A port put into the set of those up is in it, and every other is as before. -/
theorem getLsbD_or_one {w : Nat} (up : BitVec w) (known : port < w) :
    (up ||| (1#w <<< port)).getLsbD port = true ∧ ∀ p, p ≠ port → (up ||| (1#w <<< port)).getLsbD p = up.getLsbD p := by
  refine ⟨by simp [known], fun p other => ?_⟩
  have apart : (1#w <<< port).getLsbD p = false := by
    rw [BitVec.getLsbD_shiftLeft, BitVec.getLsbD_one]
    simp
    omega
  rw [BitVec.getLsbD_or, apart, Bool.or_false]

end

/-- Settles O41, by the equations of each step's cases. -/
theorem linkSteps : Obligations.LinkSteps := by
  unfold Obligations.LinkSteps
  refine ⟨?completions, ?requests,
    fun s tag va kind fn n data cmp poisoned inactive => exec_peerRequest_inactive fn data cmp poisoned inactive kind, ?timeout, fun _ _ _ _ _ => rfl, ?ports⟩
  case completions =>
    intro s k x status d
    refine ⟨exec_hostCompletion_behind, fun drained oldest sent granted quiet => ?_, fun drained oldest refused => ?_,
      fun drained idle core c oldest => exec_hostCompletion_command drained idle oldest,
      fun drained idle noCommand => exec_hostCompletion_fence drained idle noCommand,
      fun drained idle noCommand p waits => ⟨_, exec_hostCompletion_fence drained idle noCommand, ?_⟩,
      fun idle core c oldest => ⟨fun refused => ?_, fun routed up granted => ?_⟩,
      fun oldest here => ?_, fun oldest away routed up granted => ?_, fun oldest away refused => ?_⟩
    · have kept : (x.op.writes && (x.elems.flatMap (·.locs)).any (fun l => lineWaits d (lineOf l))) = false := by
        cases writes : x.op.writes with
        | false => rfl
        | true => exact List.any_eq_false.2 fun l hl => ne_true_of_eq_false (quiet writes l hl)
      exact (exec_hostCompletion_access drained oldest).trans (congrArg _
        ((if_neg (ne_true_of_eq_false (not_refused sent granted))).trans (if_neg (ne_true_of_eq_false kept))))
    · have routed : (routedBack x || status == 1#2) = true := by simpa using refused
      exact (exec_hostCompletion_access drained oldest).trans (congrArg _ (if_pos routed))
    · rintro rfl
      exact finishFenceh_pos waits
    · have out : ((find s.mgmt.routes c.node).isNone || status == 1#2) = true := by simpa using refused
      exact (exec_peerAcknowledgement_command idle oldest).trans (congrArg _ (if_pos out))
    · have on : (find s.mgmt.routes c.node).isNone = false := by simpa using routed
      exact (exec_peerAcknowledgement_command idle oldest).trans (congrArg _
        ((if_neg (ne_true_of_eq_false (not_refused on granted))).trans (if_neg up)))
    · exact (exec_peerAcknowledgement_access oldest).trans (congrArg _ (if_pos here))
    · have on : (find s.mgmt.routes x.node).isNone = false := by simpa using routed
      exact (exec_peerAcknowledgement_access oldest).trans (congrArg _
        ((if_neg (ne_true_of_eq_false away)).trans ((if_neg (ne_true_of_eq_false (not_refused on granted))).trans (if_neg up))))
    · have out : ((find s.mgmt.routes x.node).isNone || status == 1#2) = true := by simpa using refused
      exact (exec_peerAcknowledgement_access oldest).trans (congrArg _ ((if_neg (ne_true_of_eq_false away)).trans (if_pos out)))
  case requests =>
    intro s s' tag va fn n data cmp poisoned locs active
    exact ⟨exec_peerRequest_read fn data cmp poisoned active, exec_peerRequest_write fn data cmp poisoned active,
      fun placed free => ⟨exec_peerRequest_atomic fn data cmp poisoned active placed free,
        exec_peerRequest_reduce fn data cmp poisoned active placed free⟩⟩
  case timeout =>
    intro s node down routed of
    refine ⟨exec_skeinPeerTimeout down routed, fun k => ⟨fun x oldest => ?_, fun idle core c oldest => ?_⟩⟩
    · rw [endAccesses, oldest]
    · rw [endAccesses, idle, oldest]
  case ports =>
    intro s port
    exact ⟨exec_skeinPortDown, fun known => ⟨_, exec_skeinPortUp known, getLsbD_or_one _ known⟩, exec_cxlPortDown,
      fun known => ⟨_, exec_cxlPortUp known, getLsbD_or_one _ known⟩⟩

end Sys2Proof.Machine
end

section
/-! SUPPORT. Jumps to an address in a register, the traps that software raises, the entry to the user handler and the return from it (R140,
R152, R156, R158, R167, R169). -/

namespace Sys2Proof.Machine

open Sys2Proof.Safety Sys2Proof.Laws

/-! ### Jumps to a register's address (R140, R167) -/

/-- A good target is a word's address, and that word lies in the code range. -/
theorem badTarget_eq_false_iff (w : Wave) (pc : W64) :
    badTarget w pc = false ↔ pc.toNat % 4 = 0 ∧
      (w.env.code + w.env.entry.setWidth 64).toNat ≤ pc.toNat ∧ pc.toNat + 4 ≤ w.env.code.toNat + w.env.length.toNat := by
  have aligned : pc.extractLsb' 0 2 = 0#2 ↔ pc.toNat % 4 = 0 := by
    rw [← BitVec.toNat_inj, BitVec.extractLsb'_toNat]
    simp
  simp only [badTarget, inCode, Bool.or_eq_false_iff, bne_eq_false_iff_eq, Bool.not_eq_false', Bool.and_eq_true, decide_eq_true_eq]
  rw [← aligned]
  rfl

/-- Settles O5: each jump issues and then tests its target, whose bounds are those of `badTarget_eq_false_iff`. -/
theorem registerJumps : Obligations.RegisterJumps := by
  unfold Obligations.RegisterJumps
  exact fun s a ea => ⟨fun issues => issue_go issues _, fun issues => issue_go issues _, fun issues => issue_go issues _,
    badTarget_eq_false_iff s.w⟩

/-! ### The fields of trcause (Table 7.12) -/

theorem trcauseWord_eq (post inh : Bool) (detail cause : BitVec 8) :
    trcauseWord post inh detail cause = 0#46 ++ BitVec.ofBool post ++ BitVec.ofBool inh ++ detail ++ cause := BitVec.setWidth_eq _

theorem trcauseWord_cause (post inh : Bool) (detail cause : BitVec 8) : (trcauseWord post inh detail cause).extractLsb' 0 8 = cause := by
  rw [trcauseWord_eq, ext_low _ _ _ _ (by norm_num), ext_all]

theorem trcauseWord_detail (post inh : Bool) (detail cause : BitVec 8) : (trcauseWord post inh detail cause).extractLsb' 8 8 = detail := by
  rw [trcauseWord_eq, ext_high _ _ _ _ (by norm_num), ext_low _ _ _ _ (by norm_num), ext_all]

theorem trcauseWord_post (post inh : Bool) (detail cause : BitVec 8) : (trcauseWord post inh detail cause).getLsbD 17 = post := by
  rw [trcauseWord_eq, bit_high _ _ _ (by norm_num), bit_high _ _ _ (by norm_num), bit_high _ _ _ (by norm_num), bit_low _ _ _ (by norm_num),
    bit_ofBool]

theorem trcauseWord_inHandler (post inh : Bool) (detail cause : BitVec 8) : (trcauseWord post inh detail cause).getLsbD 16 = inh := by
  rw [trcauseWord_eq, bit_high _ _ _ (by norm_num), bit_high _ _ _ (by norm_num), bit_low _ _ _ (by norm_num), bit_ofBool]

/-! ### A trap taken (R156, R158) -/

theorem handlerCause_iff (c : BitVec 8) : handlerCause c = true ↔ c ∈ [0x04#8, 0x0c#8, 0x10#8, 0x11#8] := by
  simp [handlerCause, Cause.empty, Cause.fp, Cause.breakpoint, Cause.software, or_assoc]

/-- A trap goes to the user handler: its cause does, one is declared, and the wave is not in it (Table 7.11, R156). -/
def PendTrap.ToHandler (x : PendTrap) (w : Wave) : Prop :=
  x.cause ∈ [0x04#8, 0x0c#8, 0x10#8, 0x11#8] ∧ w.env.trap ≠ 0 ∧ w.inHandler = false

theorem toHandler_iff (x : PendTrap) (w : Wave) : (handlerCause x.cause && w.env.trap != 0 && !w.inHandler) = true ↔ x.ToHandler w := by
  simp [PendTrap.ToHandler, handlerCause_iff, and_assoc]

theorem deliverTrap_handler {x : PendTrap} {s : State} (handled : x.ToHandler s.w) : deliverTrap x s = enterHandler x s :=
  if_pos ((toHandler_iff x s.w).2 handled)

theorem deliverTrap_terminates {x : PendTrap} {s : State} (unhandled : ¬ x.ToHandler s.w) : deliverTrap x s = terminate x s :=
  if_neg (fun handled => unhandled ((toHandler_iff x s.w).1 handled))

/-- A launch that stops leaves its waves as they are: the command processor decides about it. -/
theorem stopLaunch_w (launch : Nat) (why : Stop) (s : State) : (stopLaunch launch why s).w = s.w := by
  unfold stopLaunch
  split
  · rfl
  · split <;> rfl

/-- The wave that enters the handler: its trap recorded, exec full, at the handler's header, its run over. -/
theorem enterHandler_w (x : PendTrap) (s : State) : (enterHandler x s).w =
    let w := (recordTrap x true s).w
    { w with a := { s.w.a with exec := fullMask s.w.width, pos := CodePos.atHeader s.w.trvec }, hold := .none, sampled := [], ran := 0 } := rfl

/-- The wave whose trap ends its launch: its trap recorded, stopped at the word. -/
theorem terminate_w (x : PendTrap) (s : State) :
    (terminate x s).w = { (recordTrap x s.w.inHandler s).w with station := .stopped, hold := .none, ran := 0 } :=
  stopLaunch_w _ _ _

/-- The trap registers of a wave hold a trap met in a place and with an exec (Tables 7.12 to 7.15). -/
structure Wave.Records (w : Wave) (x : PendTrap) (a : Arch) : Prop where
  cause : w.trcause.extractLsb' 0 8 = x.cause
  detail : w.trcause.extractLsb' 8 8 = x.detail
  post : w.trcause.getLsbD 17 = x.post
  pc : w.trpc = x.pc
  mask : w.trmask = x.mask
  inst : w.trinst = x.inst
  exec : w.trexec = a.exec
  pos : w.trpos = { a.pos with pc := x.pc }

theorem recordTrap_records (x : PendTrap) (inh : Bool) (s : State) : (recordTrap x inh s).w.Records x s.w.a :=
  ⟨trcauseWord_cause .., trcauseWord_detail .., trcauseWord_post .., rfl, rfl, rfl, rfl, rfl⟩

/-- Both ways a trap is taken record it alike (R156). -/
theorem deliverTrap_records (x : PendTrap) (s : State) : (deliverTrap x s).w.Records x s.w.a := by
  by_cases handled : x.ToHandler s.w
  · rw [deliverTrap_handler handled, enterHandler_w]
    exact { recordTrap_records x true s with }
  · rw [deliverTrap_terminates handled, terminate_w]
    exact { recordTrap_records x s.w.inHandler s with }

/-- A trap taken changes of the architectural state exec and the place alone. -/
theorem deliverTrap_arch (x : PendTrap) (s : State) : ∃ e p, (deliverTrap x s).w.a = { s.w.a with exec := e, pos := p } := by
  by_cases handled : x.ToHandler s.w
  · rw [deliverTrap_handler handled, enterHandler_w]
    exact ⟨_, _, rfl⟩
  · rw [deliverTrap_terminates handled, terminate_w]
    exact ⟨s.w.a.exec, s.w.a.pos, rfl⟩

/-- States whose architectural states differ in exec and the place alone have the same registers and flags. -/
theorem sameRegisters_of_arch {s t : State} {e : W64} {p : CodePos} (same : t.w.a = { s.w.a with exec := e, pos := p }) :
    SameRegisters [] [] s t ∧ SameFlags s t := by
  simp [SameRegisters, SameFlags, State.vreg, State.sreg, Arch.getV, Arch.getS, same]

theorem enterHandler_inHandler (x : PendTrap) (s : State) : (enterHandler x s).w.inHandler = true := trcauseWord_inHandler ..

/-- Settles O9: a trap is taken by one of two ways, which record it alike. -/
theorem handlerEntry : Obligations.HandlerEntry := by
  unfold Obligations.HandlerEntry
  intro x s
  obtain ⟨cause, detail, post, pc, mask, inst, exec, pos⟩ := deliverTrap_records x s
  obtain ⟨e, p, arch⟩ := deliverTrap_arch x s
  obtain ⟨registers, flags⟩ := sameRegisters_of_arch arch
  refine ⟨fun handled => ?handled, fun unhandled => ?ends, cause, detail, post, pc, mask, inst, exec, pos,
    fun loc => by rw [deliverTrap_mem], registers, flags⟩
  case handled =>
    have declared : s.w.trvec = s.w.env.code + s.w.env.trap.setWidth 64 := if_neg handled.2.1
    rw [deliverTrap_handler handled, ← declared]
    exact ⟨rfl, enterHandler_inHandler x s, rfl, rfl, rfl, rfl⟩
  case ends =>
    rw [deliverTrap_terminates unhandled, terminate_w]
    exact ⟨rfl, rfl⟩

/-! ### Software traps, and the return (R152, R158, R169) -/

/-- A return leaves the wave outside its handler. -/
theorem returnFromHandler_inHandler (s : State) : (returnFromHandler s).w.inHandler = false := by
  simp [returnFromHandler, Wave.inHandler]

/-- TRET in a handler returns. -/
theorem exec_tret {s : State} (inside : s.w.inHandler = true) (issues : Issues { irrevocable := true, both := true } s s) :
    exec .tret s = .next (returnFromHandler s) := by
  change issue { irrevocable := true, both := true, illegal := !s.w.inHandler } _ s = _
  rw [inside]
  exact issue_go issues _

/-- Settles O8: a word that issues irrevocable is on a non-speculative wave outside a transaction, where a trap is delivered. -/
theorem softwareTraps : Obligations.SoftwareTraps := by
  unfold Obligations.SoftwareTraps
  refine ⟨fun s imm issues => ?_, fun s w outside nonspec => raise_delivers outside nonspec _ _ _, fun s inside issues => ?_⟩
  · obtain ⟨nonspec, outside⟩ := issues.revocable rfl
    exact ⟨(issue_go issues _).trans (raise_delivers outside nonspec _ _ _), (issue_go issues _).trans (raise_delivers outside nonspec _ _ _)⟩
  · obtain ⟨registers, flags⟩ := sameRegisters_of_arch (s := s) (t := returnFromHandler s) rfl
    exact ⟨_, exec_tret inside issues, returnFromHandler_inHandler s, rfl, rfl, fun loc => by rw [returnFromHandler_mem], registers, flags⟩

end Sys2Proof.Machine
end

section
/-! SUPPORT. The words indexed by a register, and the trap after a floating-point word (R154, R157, R187, R195, R196). -/

namespace Sys2Proof.Machine

open Sys2Proof.Safety

/-! ### VWRX and VRDX (R187) -/

/-- An index that can be read is the whole value of its register. -/
theorem indexed_readable {s : State} {b : Nat} (declared : s.w.badS b = false) (full : s.w.a.emptyS.getLsbD b = false) :
    indexed s b = some (s.sreg b).toNat := by
  simp [indexed, Wave.emptyScalar, declared, full]

/-- A covered word of no privilege that is legal traps 0x03 where it names a vector register beyond the declaration (R154). -/
theorem issue_undeclared {u : Use} {s : State} {r : Nat} (covered : u.covered = true) (free : u.supervisor = false) (legal : u.illegal = false)
    (directed : s.w.queueIllegal u = false) (named : r ∈ vectorRegs u) (beyond : s.w.badV r = true) (k : State → Result) :
    issue u k s = raise Cause.register 0 0 s := by
  refine issue_trap ?_ k
  rw [earlyTrap_eq, if_neg (by simp [Use.Illegal, covered, legal, directed]), if_neg (by simp [Use.Unprivileged, free]),
    if_pos (.inl ⟨r, named, beyond⟩)]

/-- Settles O13: the index decides what the words ask, and `issue` takes the traps in their order. -/
theorem indexedRegisters : Obligations.IndexedRegisters := by
  unfold Obligations.IndexedRegisters
  intro s t d a b ea eb x
  refine ⟨fun declared full => ?_, fun issues => run_go issues _, fun issues => run_go issues _⟩
  have index : indexed s b.toNat = some x := indexed_readable declared full
  have write : useVwrx s a.toNat b.toNat ea eb = {
      covered := true, srcV := [(a.toNat, ea)], srcS := [(b.toNat, eb)], dstV := [x], illegal := s.w.isPort x } := by
    simp [useVwrx, index]
  have read : useVrdx s d.toNat b.toNat ea eb = {
      covered := true, srcV := [(x, ea)], srcS := [(b.toNat, eb)], dstV := [d.toNat], illegal := s.w.isPort x } := by
    simp [useVrdx, index]
  refine ⟨write, read, fun port => ⟨issue_illegal (by rw [write, port]) _, issue_illegal (by rw [read, port]) _⟩, fun plain beyond => ?_⟩
  · have bad : s.w.badV x = true := by simpa [Wave.badV, plain] using beyond
    refine ⟨fun directed => issue_undeclared ?_ ?_ ?_ directed ?_ bad _, fun directed => issue_undeclared ?_ ?_ ?_ directed ?_ bad _⟩
    all_goals simp [write, read, plain, vectorRegs]

/-! ### The trap after a floating-point word (R157, R195, R196) -/

/-- A thread is marked in the mask of a flag where it raised it. -/
theorem raisedBy_bit (flag : Flags) (fs : List (Nat × Flags)) {i : Nat} (thread : i < 64) :
    (raisedBy flag fs).getLsbD i = fs.any (fun x => x.1 == i && (x.2 &&& flag) != 0) := by
  rw [raisedBy, maskOf_bit, Bool.eq_iff_iff]
  simp [thread]

/-- A wave outside a transaction that moves past a word stays outside one. -/
theorem advance_outside {s : State} (outside : s.w.txn = none) (n logged : Nat) : (advance n logged s).w.txn = none := by
  unfold advance
  dsimp only
  split <;> simp [Wave.logWrites, Wave.seal, outside]

theorem finish_outside {s : State} (outside : s.w.txn = none) (u : Use) : (finish u s).w.txn = none := by
  refine advance_outside ?_ _ _
  rw [blurWrites_w_txn]
  split <;> simp [Wave.fillPortStores, outside]

/-- A wave with no unretired access that moves past a word has none still. -/
theorem advance_nonspeculative {s : State} (quiet : s.w.accesses = []) (n logged : Nat) : (advance n logged s).w.accesses = [] := by
  unfold advance
  dsimp only
  split <;> simp [Wave.logWrites, Wave.seal, changeLast, quiet]

theorem finish_nonspeculative {s : State} (quiet : s.w.accesses = []) (u : Use) : (finish u s).w.accesses = [] := by
  refine advance_nonspeculative ?_ _ _
  rw [blurWrites_w_accesses]
  split <;> simp [Wave.fillPortStores, quiet]

/-- A word that raised an enabled flag is done all the same, and then traps (R157, R196). -/
theorem finishFlags_traps {fs : List (Nat × Flags)} {s : State} (outside : s.w.txn = none) (nonspec : s.w.accesses = [])
    (enabled : allRaised fs &&& s.w.fte ≠ 0) (u : Use) :
    finishFlags u fs s =
      deliverTrap ⟨Cause.fp, (allRaised fs &&& s.w.fte).setWidth 8, true, raisedBy s.w.fte fs, s.w.inst, (s.w.a.pos.advance u.words).pc,
        0, 0, 0, 0, false⟩ (finish u (s.onArch (fun a => a.addFlags fs))) := by
  have past : (finish u (s.onArch (fun a => a.addFlags fs))).w.a.pos = s.w.a.pos.advance u.words := finish_a_pos u _
  have outside' : (finish u (s.onArch (fun a => a.addFlags fs))).w.txn = none := finish_outside (s := s.onArch _) outside u
  have nonspec' : (finish u (s.onArch (fun a => a.addFlags fs))).w.accesses = [] := finish_nonspeculative (s := s.onArch _) nonspec u
  unfold finishFlags postTrap
  dsimp only
  rw [if_neg enabled, if_neg (by simp [outside']), if_neg (by simp [Wave.speculative, nonspec']), past, finish_w_fte]
  rfl

/-- Settles O16: `finishFlags_quiet` where no enabled flag was raised, `finishFlags_traps` where one was. -/
theorem flagTrap : Obligations.FlagTrap := by
  unfold Obligations.FlagTrap
  intro u fs s outside nonspec
  refine ⟨finishFlags_quiet, fun enabled => finishFlags_traps outside nonspec enabled u, fun i thread => raisedBy_bit _ fs thread, ?_⟩
  simp [Arch.addFlags]

end Sys2Proof.Machine
end

section
/-! SUPPORT. Every instruction and device step answers a next state: the shapes that meanings are built of, and what is left of each (R151,
R152, R153). -/

namespace Sys2Proof.Machine

open Sys2Proof.Safety

/-- A meaning answers a next state. -/
def Answers (r : Result) : Prop := ∃ t, r = .next t

theorem answers_next (t : State) : Answers (.next t) := ⟨t, rfl⟩

theorem answers_ite (c : Prop) [Decidable c] {r q : Result} (yes : Answers r) (no : Answers q) : Answers (if c then r else q) := by
  split
  · exact yes
  · exact no

theorem answers_issue {u : Use} {k : State → Result} (own : ∀ t, Answers (k t)) (s : State) : Answers (issue u k s) := issue_next own s

/-! ### Memory words -/

theorem answers_pendAccess (u : Use) (m : MemWord) (s0 s : State) : Answers (pendAccess u m s0 s) := by
  fun_cases pendAccess <;> exact answers_next _

theorem answers_memAccess (u : Use) (m : MemWord) (s0 s : State) : Answers (memAccess u m s0 s) := by
  fun_cases memAccess
  case case4 | case6 => exact answers_pendAccess _ _ _ _
  all_goals exact answers_next _

theorem answers_memWord (u : Use) (m : State → MemWord) (s : State) : Answers (memWord u m s) :=
  answers_issue (fun t => answers_memAccess u (m t) s t) s

/-! ### Words that check ranges, and go on where the checks pass -/

theorem answers_withRanges {r : RangeCheck} {k : State → Result} (own : ∀ t, Answers (k t)) (s : State) : Answers (withRanges r k s) := by
  fun_cases withRanges
  case case1 => exact own _
  all_goals exact answers_next _

theorem answers_enqueue (u : Use) (c : SpindleCmd) (s : State) : Answers (enqueue u c s) := answers_ite _ (answers_next _) (answers_next _)

theorem answers_enterMatrix (u : Use) (op : MatrixOp) (s : State) : Answers (enterMatrix u op s) :=
  answers_ite _ (answers_next _) (answers_next _)

/-- The copies and the word that moves a slab: held by a guard, nothing to do, or a command for the Spindle. -/
theorem answers_linearCopy (fn : Nat) (sd ss sn : BitVec 7) (ed es en : Bool) (gh : BitVec 6) (gchk : Bool) (s : State) :
    Answers (linearCopy fn sd ss sn ed es en gh gchk s) :=
  answers_issue (fun _ => answers_withRanges
    (fun _ => answers_ite _ (answers_next _) (answers_ite _ (answers_next _) (answers_enqueue _ _ _))) _) s

theorem answers_indexedCopy (scatter : Bool) (sd ss sn : BitVec 7) (ed es en : Bool) (gh : BitVec 6) (gchk iw : Bool) (esz : BitVec 2)
    (s : State) : Answers (indexedCopy scatter sd ss sn ed es en gh gchk iw esz s) :=
  answers_issue (fun _ => answers_withRanges
    (fun _ => answers_ite _ (answers_next _) (answers_ite _ (answers_next _) (answers_enqueue _ _ _))) _) s

theorem answers_execSlbmv (sd ss : BitVec 7) (ed es : Bool) (s : State) : Answers (execSlbmv sd ss ed es s) :=
  answers_issue (fun _ => answers_withRanges (fun _ => answers_ite _ (answers_next _) (answers_enqueue _ _ _)) _) s

theorem answers_multiply (zero : Bool) (vacc sA sB : BitVec 7) (keep ea eb : Bool) (aslot bslot : BitVec 3) (asb bsb : BitVec 7)
    (sel : BitVec 2) (soft half : Bool) (obase : BitVec 7) (s : State) :
    Answers (multiply zero vacc sA sB keep ea eb aslot bslot asb bsb sel soft half obase s) :=
  answers_issue (fun _ => answers_withRanges (fun _ => answers_enterMatrix _ _ _) _) s

theorem answers_chain (zero : Bool) (vacc sB : BitVec 7) (keep eb : Bool) (bslot : BitVec 3) (half : Bool) (s : State) :
    Answers (chain zero vacc sB keep eb bslot half s) :=
  answers_issue (fun _ => answers_withRanges (fun _ => answers_enterMatrix _ _ _) _) s

theorem answers_execCrds (d a b : BitVec 7) (ea eb ed : Bool) (s : State) : Answers (execCrds d a b ea eb ed s) :=
  answers_issue (fun _ => answers_withRanges (fun _ => answers_ite _ (answers_next _) (answers_next _)) _) s

theorem answers_execCrdr (d a b : BitVec 7) (ea eb : Bool) (s : State) : Answers (execCrdr d a b ea eb s) :=
  answers_issue (fun _ => answers_withRanges (fun _ => answers_next _) _) s

/-! ### Barriers (R175) -/

/-- An arrive is misused, waits for a phase, or goes on. -/
theorem answers_arriveWord {u : Use} {id : BitVec 5} {cnt : BitVec 7} {core : Bool} {k : State → Nat → Result}
    (own : ∀ t phase, Answers (k t phase)) (s : State) : Answers (arriveWord u id cnt core k s) := by
  refine answers_issue (fun t => answers_ite _ (answers_next _) ?_) s
  split
  · exact answers_next _
  · exact answers_next _
  · exact answers_ite _ (answers_next _) (own _ _)

theorem answers_execBarw (id : BitVec 5) (tok : BitVec 7) (core ea : Bool) (s : State) : Answers (execBarw id tok core ea s) :=
  answers_issue (fun _ => answers_ite _ (answers_next _) (answers_ite _ (answers_next _) (answers_ite _ (answers_next _)
    (answers_ite _ (answers_next _) (answers_ite _ (answers_next _) (answers_next _)))))) s

/-! ### Ports (R202, R203) -/

theorem answers_execStbind (d : BitVec 7) (h : BitVec 6) (byp ed : Bool) (s : State) : Answers (execStbind d h byp ed s) := by
  refine answers_issue (fun t => ?_) s
  dsimp only
  split
  · exact answers_next _
  · exact answers_ite _ (answers_next _) (answers_next _)

theorem answers_execQbind (d : BitVec 7) (h : BitVec 6) (byp ed : Bool) (s : State) : Answers (execQbind d h byp ed s) := by
  refine answers_issue (fun t => answers_ite _ (answers_ite _ (answers_next _) (answers_next _)) ?_) s
  split
  · exact answers_next _
  · exact answers_ite _ (answers_next _) (answers_ite _ (answers_next _) (answers_next _))

/-! ### Words at a tile's home (R204) -/

theorem answers_placeWord {u : Use} {o : BitVec 7} {h : BitVec 6} {k : Found → State → Result} (own : ∀ f t, Answers (k f t)) (s : State) :
    Answers (placeWord u o h k s) := by
  refine answers_issue (fun t => ?_) s
  split
  · exact answers_next _
  · refine answers_ite _ (answers_ite _ (answers_next _) (own _ _)) (answers_ite _ (answers_next _) ?_)
    split
    · exact answers_next _
    · exact own _ _
    · exact answers_ite _ (answers_next _) (own _ _)
    · exact answers_next _

theorem answers_placeNow (u : Use) (d o : BitVec 7) (h : BitVec 6) (x : Handle) (cls loc : Nat) (s0 s : State) :
    Answers (placeNow u d o h x cls loc s0 s) := by
  fun_cases placeNow <;> exact answers_next _

theorem answers_execWdist (d o : BitVec 7) (h : BitVec 6) (ea : Bool) (s : State) : Answers (execWdist d o h ea s) := by
  unfold execWdist
  refine answers_placeWord (fun f t => ?_) s
  cases f with
  | at' x loc => exact answers_ite _ (answers_next _) (answers_next _)
  | _ => exact answers_next _

theorem answers_execWpin (d o : BitVec 7) (h : BitVec 6) (ed ea : Bool) (s : State) : Answers (execWpin d o h ed ea s) := by
  unfold execWpin
  refine answers_placeWord (fun f t => ?_) s
  cases f with
  | remote => exact answers_next _
  | at' x loc =>
    exact answers_ite _ (answers_next _) (answers_ite _ (answers_ite _ (answers_next _) (answers_next _)) (answers_placeNow ..))
  | nowhere fs => exact answers_ite _ (answers_next _) (answers_next _)

theorem answers_execWunpin (d o : BitVec 7) (h : BitVec 6) (ea : Bool) (s : State) : Answers (execWunpin d o h ea s) := by
  unfold execWunpin
  refine answers_placeWord (fun f t => ?_) s
  cases f with
  | remote => exact answers_next _
  | at' x loc =>
    refine answers_ite _ (answers_next _) ?_
    split
    · exact answers_ite _ (answers_next _) (answers_ite _ (answers_next _) (answers_next _))
    · exact answers_next _
  | nowhere fs => exact answers_next _

theorem answers_execWpull (d o : BitVec 7) (h : BitVec 6) (ea : Bool) (s : State) : Answers (execWpull d o h ea s) := by
  unfold execWpull
  refine answers_placeWord (fun f t => ?_) s
  cases f with
  | at' x loc => exact answers_placeNow ..
  | _ => exact answers_next _

theorem answers_execWhome (d o : BitVec 7) (h : BitVec 6) (ea : Bool) (s : State) : Answers (execWhome d o h ea s) := by
  unfold execWhome
  refine answers_placeWord (fun f t => ?_) s
  cases f <;> exact answers_next _

/-! ### TEND (R135, R209, R210) -/

theorem answers_execTend (s : State) : Answers (execTend s) := by
  refine answers_issue (fun t => ?_) s
  dsimp only
  split
  · exact answers_next _
  · refine answers_ite _ (answers_next _) (answers_ite _ (answers_next _) (answers_ite _ (answers_next _) (answers_ite _ (answers_next _)
      (answers_ite _ (answers_next _) ?_))))
    split
    · exact answers_next _
    · refine answers_ite _ (answers_next _) ?_
      split
      · exact answers_next _
      · exact answers_next _
      · exact answers_next _

/-! ### Slab windows (R217) -/

theorem answers_windowWord {u : Use} {h : BitVec 6} {rh : Option (BitVec 6)} {k : Handle → List Nat → State → Result}
    (own : ∀ hd locs t, Answers (k hd locs t)) (s : State) : Answers (windowWord u h rh k s) := by
  refine answers_issue (fun t => ?_) s
  split
  · exact answers_next _
  · refine answers_ite _ (answers_next _) ?_
    split
    · exact answers_ite _ (answers_next _) (own _ _ _)
    · exact answers_next _

theorem answers_execSlbxl (sd so : BitVec 7) (h : BitVec 6) (ea : Bool) (rh : BitVec 6) (s : State) : Answers (execSlbxl sd so h ea rh s) := by
  refine answers_windowWord (fun hd locs t => ?_) s
  dsimp only
  split
  · exact answers_next _
  · refine answers_ite _ (answers_next _) (answers_ite _ (answers_next _) (answers_ite _ (answers_next _) ?_))
    split
    · exact answers_next _
    · exact answers_next _

theorem answers_execSlbrd (sd : BitVec 7) (h : BitVec 6) (sel : BitVec 3) (s : State) : Answers (execSlbrd sd h sel s) :=
  answers_windowWord (fun _ _ _ => answers_ite _ (answers_next _) (answers_next _)) s

/-! ### Attention, the dirty map, tokens (R231, R240, R243) -/

theorem answers_attend (dirty : Bool) (vq vo sp : BitVec 7) (ea eb : Bool) (nq : BitVec 3) (sx sq : BitVec 7) (eq : Bool) (s : State) :
    Answers (attend dirty vq vo sp ea eb nq sx sq eq s) := by
  refine answers_issue (fun t => answers_ite _ (answers_next _) ?_) s
  split
  · exact answers_next _
  · exact answers_ite _ (answers_next _) (answers_ite _ (answers_next _) (answers_ite _ (answers_next _) (answers_next _)))

theorem answers_dirtyWord (u : Use) (op : AccessOp) (a b : BitVec 7) (chosen : State → Nat → Bool) (data : List Byte) (nothing : State → State)
    (s : State) : Answers (dirtyWord u op a b chosen data nothing s) := by
  refine answers_issue (fun t => answers_ite _ (answers_next _) (answers_ite _ (answers_next _) (answers_ite _ (answers_next _)
    (answers_ite _ (answers_next _) ?_)))) s
  dsimp only
  generalize placeAll _ _ _ _ _ _ _ = placed
  obtain ⟨t', places, _ | ⟨f, fs⟩⟩ := placed
  · exact answers_ite _ (answers_next _) (answers_next _)
  · exact answers_next _

theorem answers_execDmrd (d a b : BitVec 7) (ea eb : Bool) (g : BitVec 5) (s : State) : Answers (execDmrd d a b ea eb g s) := by
  unfold execDmrd
  exact answers_dirtyWord _ _ _ _ _ _ _ _

theorem answers_execDmclr (d a b : BitVec 7) (ea eb ed : Bool) (g : BitVec 5) (s : State) : Answers (execDmclr d a b ea eb ed g s) := by
  unfold execDmclr
  exact answers_dirtyWord _ _ _ _ _ _ _ _

theorem answers_execTokc (a b : BitVec 7) (ea eb : Bool) (s : State) : Answers (execTokc a b ea eb s) := by
  refine answers_issue (fun t => answers_ite _ (answers_next _) (answers_ite _ (answers_next _) (answers_ite _ (answers_next _) ?_))) s
  dsimp only
  split
  · exact answers_next _
  · exact answers_ite _ (answers_next _) (answers_next _)

/-! ### Steps of the device that split into cases, a next state in each -/

theorem answers_execSlotArbitration (quarter : Nat) (s : State) : Answers (execSlotArbitration quarter s) := by
  fun_cases execSlotArbitration <;> exact answers_next _

theorem answers_execLoadDataReturn (wave : Nat) (id : Nat) (s : State) : Answers (execLoadDataReturn wave id s) := by
  fun_cases execLoadDataReturn <;> exact answers_next _

theorem answers_execAccessRetire (wave : Nat) (s : State) : Answers (execAccessRetire wave s) := by
  fun_cases execAccessRetire <;> exact answers_next _

theorem answers_execStoreBufferLeave (wave : Nat) (s : State) : Answers (execStoreBufferLeave wave s) := by
  fun_cases execStoreBufferLeave <;> exact answers_next _

theorem answers_execEvictionNotice (core : Nat) (line : Nat) (s : State) : Answers (execEvictionNotice core line s) := by
  fun_cases execEvictionNotice <;> exact answers_next _

theorem answers_execAcknowledgement (core : Nat) (line : Nat) (s : State) : Answers (execAcknowledgement core line s) := by
  fun_cases execAcknowledgement <;> exact answers_next _

theorem answers_execHoldTimeout (whorl : Nat) (s : State) : Answers (execHoldTimeout whorl s) := by
  fun_cases execHoldTimeout <;> exact answers_next _

theorem answers_execTileLanding (whorl : Nat) (s : State) : Answers (execTileLanding whorl s) := by
  fun_cases execTileLanding <;> exact answers_next _

theorem answers_execTranscendentalStart (quarter : Nat) (s : State) : Answers (execTranscendentalStart quarter s) := by
  fun_cases execTranscendentalStart <;> exact answers_next _

theorem answers_execTranscendentalResult (quarter : Nat) (s : State) : Answers (execTranscendentalResult quarter s) := by
  fun_cases execTranscendentalResult <;> exact answers_next _

theorem answers_execBarrierWaitComplete (wave : Nat) (s : State) : Answers (execBarrierWaitComplete wave s) := by
  fun_cases execBarrierWaitComplete <;> exact answers_next _

theorem answers_execStoreQueueDrain (wave : Nat) (queue : Nat) (s : State) : Answers (execStoreQueueDrain wave queue s) := by
  fun_cases execStoreQueueDrain <;> exact answers_next _

theorem answers_execSpindleCommandStart (core : Nat) (s : State) : Answers (execSpindleCommandStart core s) := by
  fun_cases execSpindleCommandStart <;> exact answers_next _

theorem answers_execMatrixOperationStart (unit : Nat × Nat) (s : State) : Answers (execMatrixOperationStart unit s) := by
  fun_cases execMatrixOperationStart <;> exact answers_next _

theorem answers_execWhorlPartial (wave : Nat) (id : Nat) (whorl : Nat) (s : State) : Answers (execWhorlPartial wave id whorl s) := by
  fun_cases execWhorlPartial <;> exact answers_next _

theorem answers_execPartialMerge (wave : Nat) (id : Nat) (s : State) : Answers (execPartialMerge wave id s) := by
  fun_cases execPartialMerge <;> exact answers_next _

theorem answers_execCarderRound (floor : Nat) (s : State) : Answers (execCarderRound floor s) := by
  fun_cases execCarderRound <;> exact answers_next _

theorem answers_execCarderRecordRead (floor : Nat) (s : State) : Answers (execCarderRecordRead floor s) := by
  fun_cases execCarderRecordRead <;> exact answers_next _

theorem answers_execDistaffRead (wave : Nat) (s : State) : Answers (execDistaffRead wave s) := by
  fun_cases execDistaffRead <;> exact answers_next _

theorem answers_execHostCompletion (wave : Nat) (status : BitVec 2) (s : State) : Answers (execHostCompletion wave status s) := by
  fun_cases execHostCompletion <;> exact answers_next _

theorem answers_execPeerAcknowledgement (wave : Nat) (status : BitVec 2) (s : State) : Answers (execPeerAcknowledgement wave status s) := by
  fun_cases execPeerAcknowledgement <;> exact answers_next _

theorem answers_execPeerRequest (tag : BitVec 8) (va : BitVec 64) (kind : BitVec 2) (fn : Nat) (n : Nat)
    (payload : List (BitVec 8) × Bool) (cmp : List (BitVec 8)) (s : State) :
    Answers (execPeerRequest tag va kind fn n payload cmp s) := by
  fun_cases execPeerRequest <;> exact answers_next _

theorem answers_execPriResponse (tag : BitVec 8) (index : Nat) (ok : Bool) (s : State) : Answers (execPriResponse tag index ok s) := by
  fun_cases execPriResponse <;> exact answers_next _

theorem answers_execPriTimeout (tag : BitVec 8) (index : Nat) (s : State) : Answers (execPriTimeout tag index s) := by
  fun_cases execPriTimeout <;> exact answers_next _

theorem answers_execPageWalk (cache : Nat) (tag : BitVec 8) (va : BitVec 64) (access : BitVec 2) (s : State) :
    Answers (execPageWalk cache tag va access s) := by
  fun_cases execPageWalk <;> exact answers_next _

theorem answers_execTlbinvComplete (wave : Nat) (s : State) : Answers (execTlbinvComplete wave s) := by
  fun_cases execTlbinvComplete <;> exact answers_next _

theorem answers_execPageMove (tag : BitVec 8) (va : BitVec 64) (tier : Bool) (frame : Nat) (s : State) :
    Answers (execPageMove tag va tier frame s) := by
  fun_cases execPageMove <;> exact answers_next _

theorem answers_execEventRingDenyTimeout (tag : BitVec 8) (index : Nat) (s : State) : Answers (execEventRingDenyTimeout tag index s) := by
  fun_cases execEventRingDenyTimeout <;> exact answers_next _

theorem answers_execLaunchFetch (tag : BitVec 8) (level : Nat) (s : State) : Answers (execLaunchFetch tag level s) := by
  fun_cases execLaunchFetch <;> exact answers_next _

theorem answers_execDistaffStep (tag : BitVec 8) (s : State) : Answers (execDistaffStep tag s) := by
  fun_cases execDistaffStep <;> exact answers_next _

theorem answers_execPoisonReport (addr : Nat) (tag : Option (BitVec 8)) (s : State) : Answers (execPoisonReport addr tag s) := by
  fun_cases execPoisonReport <;> exact answers_next _

theorem answers_execTerminatingCause (launch : Nat) (s : State) : Answers (execTerminatingCause launch s) := by
  fun_cases execTerminatingCause <;> exact answers_next _

theorem answers_execPreemptionRequest (team : Nat) (s : State) : Answers (execPreemptionRequest team s) := by
  fun_cases execPreemptionRequest <;> exact answers_next _

theorem answers_execTeamSave (team : Nat) (s : State) : Answers (execTeamSave team s) := by
  fun_cases execTeamSave <;> exact answers_next _

theorem answers_execSaveSeal (team : Nat) (s : State) : Answers (execSaveSeal team s) := by
  fun_cases execSaveSeal <;> exact answers_next _

theorem answers_execPairComparison (waveA : Nat) (waveB : Nat) (s : State) : Answers (execPairComparison waveA waveB s) := by
  fun_cases execPairComparison <;> exact answers_next _

theorem answers_execRegisterWrite (offset : Nat) (value : BitVec 64) (s : State) : Answers (execRegisterWrite offset value s) := by
  fun_cases execRegisterWrite <;> exact answers_next _

theorem answers_execLevelRaise (launch : Nat) (s : State) : Answers (execLevelRaise launch s) := by
  unfold execLevelRaise
  split
  · exact answers_next _
  · exact answers_ite _ (answers_next _) (answers_next _)

theorem answers_execReserve (launch : Nat) (s : State) : Answers (execReserve launch s) := by
  unfold execReserve
  split
  · exact answers_next _
  · exact answers_ite _ (answers_next _) (answers_next _)

theorem answers_readBlock {team : Nat} {t : Team} {l : Launch} {k : State → Result} (own : ∀ s, Answers (k s)) (s : State) :
    Answers (readBlock team t l k s) := by
  unfold readBlock
  dsimp only
  split
  · split
    · exact answers_next _
    · exact own s
  · exact answers_next _

theorem answers_execTeamRestore (team core : Nat) (s : State) : Answers (execTeamRestore team core s) := by
  unfold execTeamRestore
  split
  · exact answers_next _
  · split
    · exact answers_next _
    · exact answers_ite _ (answers_next _) (answers_readBlock (fun _ => answers_next _) _)

/-! ### Every instruction, and the turn -/

/-- Each instruction's meaning is one of the shapes above. -/
theorem answers_exec (i : Instr) (s : State) : Answers (exec i s) := by
  cases i
  -- Steps of the device: one change, or one that depends on up to three conditions.
  case retryTimerExpiry | scratchMotionStart | portCapLoop | matrixOperationComplete | fresRetry | fresDeny | teamPlacement
    | perstDeassertion | functionLevelReset | stageDroppedClear | illegalInstruction | backInvalidateResponse | atsTranslationCompletion =>
    exact answers_next _
  case starvationPromotion | invalidationArrival | noticeCompletion | frontRequestAccept | fillComplete | sleepDeadline | streamPrefetch
    | queueFetch | stepCommit | sequenceRetirement | frameRetire | islandControlLoop | modulePowerLoop | fastClamp | thermalLimit
    | thermalTrip | retentionWindowLoop | rowGroupRefresh | identify | fwload | rollfwd | evring | ctxwrite | partset | wstat | retlist
    | islcap | skroute | reset | skeinPortDown | skeinPortUp | skeinPeerTimeout | cxlPortDown | cxlPortUp | cxlCacheOwnershipGrant =>
    exact answers_ite _ (answers_next _) (answers_next _)
  case lqtail | admtail | cplhead | cancel | stageAdvance | spdmRequest | grdarm | grdsetDoorbell =>
    exact answers_ite _ (answers_next _) (answers_ite _ (answers_next _) (answers_next _))
  case hostSnoop | cxlMemRead | cxlMemWrite =>
    exact answers_ite _ (answers_next _) (answers_ite _ (answers_next _) (answers_ite _ (answers_next _) (answers_next _)))
  -- Words that issue: one change, or one that depends on up to three conditions.
  case sadd | ssub | smul | smulh | smulhu | sand | sor | sxor | sshl | sshr | ssra | smin | smax | sminu | smaxu | sandn | sceq | scne
    | sclt | scle | scltu | scleu | ssel | scbit | saddi | sandi | sori | sxori | sshli | sshri | ssrai | sclti | smovi | sinsh | sgetx
    | ssetx | sandx | sandnx | sorx | spopc | sffs | sfullx | sclz | sctz | sbrev | sbswap | sextb | sexth | sextw | szextw | br | brxz
    | brxnz | brxall | call | brz | brnz | brneg | brpos | smfr | nop | yield | trap | tret | bkpt | pblk | vadd | vsub | vmullo | vmulhi
    | vmulhu | vmin | vmax | vminu | vand | vor | vxor | vandn | vshl | vshr | vsra | vmaxu | vadds | vsubs | vmuls | vands | vors
    | vxors | vshls | vshrs | vaddi | vandi | vori | vxori | vshli | vshri | vsrai | vmuli | vceq | vcne | vclt | vcle | vcgt | vcge
    | vcltu | vcleu | vmov | vmovs | vtid | vclz | vpopc | vbrev | vwrx | vrdx | vfadd | vfsub | vfmul | vfmin | vfmax | vfmac | vfmsc
    | vfnmac | vfadds | vfsubs | vfmuls | vfmacs | vfmins | vfmaxs | vfceq | vfcne | vfclt | vfcle | vfcun | vfslt | vfsle | vhadd | vhmul
      | vhmac | vbadd | vbmul | vbmac | vhdot | vbdot | vcf16 | vcf32h | vcbf | vcf32b | vci32 | vcf32i | vcn32 | vcf32n | vcnar | vcwid
    | vct6 | vcf32t6 | vpk6 | vunpk6 | vshuf | vshfx | vrots | vbcst | vreda | vredf | vscan | vcmpk | stend | ttest =>
    exact answers_issue (fun _ => answers_next _) _
  case jmpr | callr | ret | halt | specbar | sleep | waitc | vrcp | vrsq | vsqrt | vexp2 | vlog2 | vsin | vcos | vtanh | stset | tabort
    | fence | fencei | fenceh | mstz | mstrd | mstwr | mnorm | stepq | seqrd | tlbinv | grdset | snapct | dbgrd =>
    exact answers_issue (fun _ => answers_ite _ (answers_next _) (answers_next _)) _
  case waitr | waits | stpos | qdrain | tbegin =>
    exact answers_issue (fun _ => answers_ite _ (answers_next _) (answers_ite _ (answers_next _) (answers_next _))) _
  case smtr =>
    exact answers_issue (fun _ => answers_ite _ (answers_next _) (answers_ite _ (answers_next _) (answers_ite _ (answers_next _) (answers_next _)))) _
  -- Words that access memory.
  case sldb | sldh | sldw | sldd | sldbs | sldhs | sldws | sstb | ssth | sstw | sstd | vldb | vldh | vldw | vldd | vldq | vldbs | vldhs
    | vldl | vstb | vsth | vstw | vstd | vstq | vstl | aadd | amin | amax | aminu | amaxu | aand | aor | axor | axchg | acas | afadd
    | radd | rfadd | rbfadd | rmin | rmax | rand | ror | rxor =>
    exact answers_memWord ..
  -- Words and steps with a lemma of their own.
  case slotArbitration => exact answers_execSlotArbitration ..
  case loadDataReturn => exact answers_execLoadDataReturn ..
  case accessRetire => exact answers_execAccessRetire ..
  case storeBufferLeave => exact answers_execStoreBufferLeave ..
  case evictionNotice => exact answers_execEvictionNotice ..
  case acknowledgement => exact answers_execAcknowledgement ..
  case holdTimeout => exact answers_execHoldTimeout ..
  case tileLanding => exact answers_execTileLanding ..
  case transcendentalStart => exact answers_execTranscendentalStart ..
  case transcendentalResult => exact answers_execTranscendentalResult ..
  case barrierWaitComplete => exact answers_execBarrierWaitComplete ..
  case storeQueueDrain => exact answers_execStoreQueueDrain ..
  case spindleCommandStart => exact answers_execSpindleCommandStart ..
  case matrixOperationStart => exact answers_execMatrixOperationStart ..
  case whorlPartial => exact answers_execWhorlPartial ..
  case partialMerge => exact answers_execPartialMerge ..
  case carderRound => exact answers_execCarderRound ..
  case carderRecordRead => exact answers_execCarderRecordRead ..
  case distaffRead => exact answers_execDistaffRead ..
  case hostCompletion => exact answers_execHostCompletion ..
  case peerAcknowledgement => exact answers_execPeerAcknowledgement ..
  case peerRequest => exact answers_execPeerRequest ..
  case priResponse => exact answers_execPriResponse ..
  case priTimeout => exact answers_execPriTimeout ..
  case pageWalk => exact answers_execPageWalk ..
  case tlbinvComplete => exact answers_execTlbinvComplete ..
  case pageMove => exact answers_execPageMove ..
  case eventRingDenyTimeout => exact answers_execEventRingDenyTimeout ..
  case launchFetch => exact answers_execLaunchFetch ..
  case levelRaise => exact answers_execLevelRaise ..
  case reserve => exact answers_execReserve ..
  case distaffStep => exact answers_execDistaffStep ..
  case poisonReport => exact answers_execPoisonReport ..
  case terminatingCause => exact answers_execTerminatingCause ..
  case preemptionRequest => exact answers_execPreemptionRequest ..
  case teamSave => exact answers_execTeamSave ..
  case saveSeal => exact answers_execSaveSeal ..
  case teamRestore => exact answers_execTeamRestore ..
  case pairComparison => exact answers_execPairComparison ..
  case registerWrite => exact answers_execRegisterWrite ..
  case bara | bari => exact answers_arriveWord (fun _ _ => answers_next _) _
  case barw => exact answers_execBarw ..
  case baraw => exact answers_arriveWord (fun _ _ => answers_ite _ (answers_next _) (answers_next _)) _
  case stbind => exact answers_execStbind ..
  case qbind => exact answers_execQbind ..
  case wdist => exact answers_execWdist ..
  case wpin => exact answers_execWpin ..
  case wunpin => exact answers_execWunpin ..
  case wpull => exact answers_execWpull ..
  case whome => exact answers_execWhome ..
  case tend => exact answers_execTend ..
  case cpy | cpy2d | cpyz => exact answers_linearCopy ..
  case cpyg | cpys => exact answers_indexedCopy ..
  case slbmv => exact answers_execSlbmv ..
  case slbxl => exact answers_execSlbxl ..
  case slbrd => exact answers_execSlbrd ..
  case mma | mmaz => exact answers_multiply ..
  case mmac | mmacz => exact answers_chain ..
  case watt | wattd => exact answers_attend ..
  case crds => exact answers_execCrds ..
  case crdr => exact answers_execCrdr ..
  case dmrd => exact answers_execDmrd ..
  case dmclr => exact answers_execDmclr ..
  case tokc => exact answers_execTokc ..

theorem answers_onNext {r : Result} (f : State → State) (answers : Answers r) : Answers (onNext f r) := by
  obtain ⟨t, rfl⟩ := answers
  exact answers_next _

theorem answers_issueTurn (s : State) : Answers (issueTurn s) := by
  unfold issueTurn
  cases prepare s with
  | done t => exact answers_next _
  | words w0 w1 t => exact answers_onNext _ (answers_exec _ _)

theorem answers_waveTurn (k : Nat) (s : State) : Answers (waveTurn k s) := answers_onNext _ (answers_issueTurn _)

theorem answers_deviceTurn (i : Instr) (s : State) : Answers (deviceTurn i s) := answers_onNext _ (answers_exec _ _)

theorem answers_pickTurn (n : Nat) (s : State) : Answers (pickTurn n s) := by
  unfold pickTurn
  dsimp only
  split
  · exact answers_waveTurn _ _
  · split
    · exact answers_deviceTurn _ _
    · exact answers_next _

theorem answers_turn (s : State) : Answers (turn s) := by
  unfold turn
  split
  · exact answers_deviceTurn _ _
  · exact answers_ite _ (answers_pickTurn _ _) (answers_pickTurn _ _)

/-- Settles O58: every instruction's meaning ends in a next state (`answers_exec`), and a turn runs one of them, or none, between changes of
its own. -/
theorem neverStops : Obligations.NeverStops := by
  unfold Obligations.NeverStops
  exact ⟨answers_exec, answers_turn⟩

end Sys2Proof.Machine
end

section
/-! SUPPORT. The scalar words of two sources, of one source and an immediate, and of one source (R161 to R165). -/

namespace Sys2Proof.Machine

open Sys2Proof.Safety

/-! ### The forms of the words -/

/-- A word that means `scalar3` of an operation writes the operation's value to sd. -/
theorem scalar3_writes {word : BitVec 7 → BitVec 7 → BitVec 7 → Bool → Bool → Instr} {op : W64 → W64 → W64}
    (means : ∀ d a b ea eb s, exec (word d a b ea eb) s = scalar3 op d a b ea eb s)
    (s : State) (d a b : BitVec 7) (ea eb : Bool) (issues : Issues (useS3 d a b ea eb) s s) :
    exec (word d a b ea eb) s = .next (finish (useS3 d a b ea eb) (s.setS d.toNat (op (s.sreg a.toNat) (s.sreg b.toNat)))) :=
  (means d a b ea eb s).trans (run_go issues _)

/-- A word that means `scalar1` of an operation on its immediate writes the operation's value to sd. -/
theorem scalarImm_writes {word : BitVec 7 → BitVec 7 → BitVec 8 → Bool → Instr} {op : W64 → BitVec 8 → W64}
    (means : ∀ d a imm ea s, exec (word d a imm ea) s = scalar1 (fun x => op x imm) d a ea s)
    (s : State) (d a : BitVec 7) (imm : BitVec 8) (ea : Bool) (issues : Issues (useS1 d a ea) s s) :
    exec (word d a imm ea) s = .next (finish (useS1 d a ea) (s.setS d.toNat (op (s.sreg a.toNat) imm))) :=
  (means d a imm ea s).trans (run_go issues _)

/-- A word that means `scalar1` of an operation writes the operation's value to sd. -/
theorem scalar1_writes {word : BitVec 7 → BitVec 7 → Bool → Instr} {op : W64 → W64}
    (means : ∀ d a ea s, exec (word d a ea) s = scalar1 op d a ea s)
    (s : State) (d a : BitVec 7) (ea : Bool) (issues : Issues (useS1 d a ea) s s) :
    exec (word d a ea) s = .next (finish (useS1 d a ea) (s.setS d.toNat (op (s.sreg a.toNat)))) :=
  (means d a ea s).trans (run_go issues _)

/-! ### Two sources (R162) -/

theorem flag_beq (x y : W64) : flag (x == y) = if x = y then 1 else 0 := if_congr beq_iff_eq rfl rfl

theorem flag_bne (x y : W64) : flag (x != y) = if x = y then 0 else 1 := (if_congr bne_iff_ne rfl rfl).trans (ite_not ..)

/-- Settles O1: each word is `scalar3` of its operation, whose comparisons are those of the integers that the registers hold. -/
theorem scalarThreeOperand : Obligations.ScalarThreeOperand := by
  unfold Obligations.ScalarThreeOperand
  refine ⟨fun p => ?table, fun s d a b ea eb issues => ?ssel⟩
  case table =>
    refine fun row => scalar3_writes (word := p.1) (op := p.2) ?_
    revert p
    simp only [List.forall_mem_cons, List.not_mem_nil, false_imp_iff, implies_true, and_true, ← flag_beq, ← flag_bne, ← BitVec.lt_def,
      ← BitVec.le_def, ← BitVec.slt_iff_toInt_lt, ← BitVec.sle_iff_toInt_le, ← BitVec.ult_iff_lt, ← BitVec.ule_iff_le]
    and_intros <;> exact fun _ _ _ _ _ _ => rfl
  case ssel =>
    refine (run_go issues _).trans ?_
    simp only [bne_iff_ne, ite_not]

/-! ### Immediates and one source (R163, R164, R165) -/

/-- The bits before the first one that is set are as many as its number. -/
theorem length_takeWhile_range (p : Nat → Bool) (n : Nat) :
    ((List.range n).takeWhile (fun i => !p i)).length = ((List.range n).find? p).getD n := by
  rw [List.takeWhile_eq_take_findIdx_not, List.length_take, Nat.min_eq_left List.findIdx_le_length]
  simp only [Bool.not_not]
  cases found : (List.range n).find? p with
  | none =>
    rw [List.findIdx_eq_length.2 (by simpa using found)]
    simp
  | some i =>
    obtain ⟨set, below, clear⟩ := List.find?_range_eq_some.1 found
    exact (List.findIdx_eq (by simpa using below)).2 ⟨by simpa using set, by simpa using clear⟩

/-- A halfword of a register replaced, bit by bit. -/
theorem insertHalf_bit (x : W64) (k : BitVec 2) (half : BitVec 16) {i : Nat} (inside : i < 64) :
    ((x &&& ~~~(0xffff#64 <<< (16 * k.toNat))) ||| (half.setWidth 64 <<< (16 * k.toNat))).getLsbD i =
      if 16 * k.toNat ≤ i ∧ i < 16 * k.toNat + 16 then half.getLsbD (i - 16 * k.toNat) else x.getLsbD i := by
  have ones : ∀ j, (0xffff#64).getLsbD j = decide (j < 16) := getLsbD_fullMask (width := 16) (by omega)
  have beyond : 16 * k.toNat + 16 ≤ i → half.getLsbD (i - 16 * k.toNat) = false := fun h => BitVec.getLsbD_of_ge _ _ (by omega)
  simp only [BitVec.getLsbD_or, BitVec.getLsbD_and, BitVec.getLsbD_not, BitVec.getLsbD_shiftLeft, BitVec.getLsbD_setWidth, ones, inside]
  by_cases low : i < 16 * k.toNat
  · simp [low, show ¬ 16 * k.toNat ≤ i by omega]
  · by_cases high : i < 16 * k.toNat + 16
    · simp [low, high, show 16 * k.toNat ≤ i by omega, show i - 16 * k.toNat < 16 by omega, show i - 16 * k.toNat < 64 by omega]
    · simp [low, high, beyond (by omega), show ¬ i - 16 * k.toNat < 16 by omega]

/-- SCLTI compares with its immediate as a signed integer. -/
theorem slt_signExtend_iff (x : W64) (imm : BitVec 8) : x.slt (imm.signExtend 64) = true ↔ x.toInt < imm.toInt := by
  rw [BitVec.slt_iff_toInt_lt, BitVec.toInt_signExtend_of_le (by omega)]

/-- Settles O2: each word is a form of its operation; the counts of zero bits are places of the first bit set. -/
theorem scalarOneOperand : Obligations.ScalarOneOperand := by
  unfold Obligations.ScalarOneOperand
  refine ⟨fun p => ?immediate, fun p => ?one, fun s d imm issues => run_go issues _,
    fun s d k imm issues => ⟨_, run_go issues _, fun i => insertHalf_bit _ k imm⟩⟩
  case immediate =>
    refine fun row => scalarImm_writes (word := p.1) (op := p.2) ?_
    revert p
    simp only [List.forall_mem_cons, List.not_mem_nil, false_imp_iff, implies_true, and_true, ← slt_signExtend_iff]
    and_intros <;> exact fun _ _ _ _ _ => rfl
  case one =>
    refine fun row => scalar1_writes (word := p.1) (op := p.2) ?_
    revert p
    simp (disch := decide) only [List.forall_mem_cons, List.not_mem_nil, false_imp_iff, implies_true, and_true, ← length_takeWhile_range,
      ← BitVec.setWidth_eq_extractLsb']
    and_intros <;> exact fun _ _ _ _ => rfl

end Sys2Proof.Machine
end

section
/-! SUPPORT. Branches, CALL and the special registers (R159, R160, R166, R219). -/

namespace Sys2Proof.Safety

open Sys2Proof.Machine

/-- A word that copies of a pair both execute issues wherever it issues at all. -/
theorem Issues.withBoth {u : Use} {s t : State} (issues : Issues u s t) : Issues { u with both := true } s t :=
  { issues with
    legal := issues.legal
    copies := ⟨issues.copies.1, issues.copies.2.1, fun _ => .inl rfl⟩ }

end Sys2Proof.Safety

namespace Sys2Proof.Machine

open Sys2Proof.Safety

/-! ### Branches (R166) -/

theorem bne_eq_decide_ne {α : Type} [BEq α] [LawfulBEq α] [DecidableEq α] (x y : α) : (x != y) = decide (x ≠ y) := by
  rw [decide_not, ← beq_eq_decide, bne]

/-- A branch that issues goes on at its target, or at the next clause header. -/
theorem branch_go {u : Use} {s : State} (issues : Issues u s s) (taken : State → Bool) (off : W64) :
    branch u taken off s = .next (jump (if taken s then s.w.a.pos.clause + 4 * off else s.w.a.pos.next) u.logged s) :=
  issue_go issues _

theorem exec_call {s : State} (issues : Issues { dstS := [127] } s s) (off : BitVec 22) :
    exec (.call off) s = .next (jump (s.w.a.pos.clause + 4 * off.signExtend 64) 1 (s.setS 127 s.w.a.pos.next)) :=
  issue_go issues _

/-- A word that means `branch` on a test of the state goes where the test says. -/
theorem stateBranch_goes {word : BitVec 22 → Instr} {test : State → Bool}
    (means : ∀ off s, exec (word off) s = branch {} test (off.signExtend 64) s) (s : State) (off : BitVec 22) (issues : Issues {} s s) :
    exec (word off) s = .next (jump (if test s then s.w.a.pos.clause + 4 * off.signExtend 64 else s.w.a.pos.next) 0 s) :=
  (means off s).trans (branch_go issues test _)

/-- A word that means `branch` on a test of a register goes where the test says. -/
theorem registerBranch_goes {word : BitVec 7 → Bool → BitVec 14 → Instr} {test : W64 → Bool}
    (means : ∀ a ea off s, exec (word a ea off) s =
      branch { srcS := [(a.toNat, ea)] } (fun s => test (s.sreg a.toNat)) (off.signExtend 64) s)
    (s : State) (a : BitVec 7) (ea : Bool) (off : BitVec 14) (issues : Issues { srcS := [(a.toNat, ea)] } s s) :
    exec (word a ea off) s =
      .next (jump (if test (s.sreg a.toNat) then s.w.a.pos.clause + 4 * off.signExtend 64 else s.w.a.pos.next) 0 s) :=
  (means a ea off s).trans (branch_go issues _ _)

/-- Settles O4: each branch is `branch` on its test. -/
theorem branches : Obligations.Branches := by
  unfold Obligations.Branches
  refine ⟨fun p => ?onState, fun p => ?onRegister, fun s off issues => exec_call issues off⟩
  case onState =>
    refine fun row => stateBranch_goes (word := p.1) (test := p.2) ?_
    revert p
    simp only [List.forall_mem_cons, List.not_mem_nil, false_imp_iff, implies_true, and_true, ← beq_eq_decide, ← bne_eq_decide_ne]
    and_intros <;> exact fun _ _ => rfl
  case onRegister =>
    refine fun row => registerBranch_goes (word := p.1) (test := p.2) ?_
    revert p
    simp only [List.forall_mem_cons, List.not_mem_nil, false_imp_iff, implies_true, and_true, ← beq_eq_decide, ← bne_eq_decide_ne]
    and_intros <;> exact fun _ _ _ _ => rfl

/-! ### SMFR (R159) -/

/-- SMFR of an assigned register leaves in sd its value at the time it reads. -/
theorem exec_smfr {s : State} {d : BitVec 7} {n : BitVec 12} (assigned : (sprValue s s.w n.toNat).isSome = true)
    (issues : Issues { dstS := [d.toNat], supervisor := sprSupervisor n.toNat } s s) :
    exec (.smfr d n) s = .next (finish { dstS := [d.toNat], supervisor := sprSupervisor n.toNat }
      (let s := if n.toNat = 0x030 ∨ n.toNat = 0x031 then advanceNanotime s else s
       s.setS d.toNat ((sprValue s s.w n.toNat).getD 0))) := by
  change run { dstS := [d.toNat], illegal := (sprValue s s.w n.toNat).isNone && _, supervisor := sprSupervisor n.toNat } _ s = _
  rw [Option.isNone_eq_false_iff.2 assigned, Bool.false_and]
  exact run_go issues _

/-- A register other than the two clocks is read with no time passing. -/
theorem exec_smfr_plain {s : State} {d : BitVec 7} {n : BitVec 12} {x : W64} (value : sprValue s s.w n.toNat = some x)
    (notClock : n ≠ 0x030#12) (notNanotime : n ≠ 0x031#12)
    (issues : Issues { dstS := [d.toNat], supervisor := sprSupervisor n.toNat } s s) :
    exec (.smfr d n) s = .next (finish { dstS := [d.toNat], supervisor := sprSupervisor n.toNat } (s.setS d.toNat x)) := by
  have untimed : ¬ (n.toNat = 0x030 ∨ n.toNat = 0x031) :=
    not_or.2 ⟨fun same => notClock (BitVec.eq_of_toNat_eq same), fun same => notNanotime (BitVec.eq_of_toNat_eq same)⟩
  rw [exec_smfr (by simp [value]) issues, if_neg untimed]
  simp only [value, Option.getD_some]

/-! ### SMTR (R159, R160, R219) -/

/-- Whether a write of a special register is refused with 0x07 (Table 8.1). -/
def sprRefused (n : Nat) (w : Wave) : Bool := sprWrite n == .readOnly || (sprWrite n == .handlerOnly && !w.inHandler)

/-- What SMTR asks of an assigned register. -/
def useSmtr (a : BitVec 7) (ea : Bool) (n : Nat) (w : Wave) : Use :=
  { srcS := [(a.toNat, ea)], supervisor := sprSupervisor n, irrevocable := sprWrite n != .revocable && !sprRefused n w, both := true }

/-- SMTR of an assigned register is refused, waits or traps for the gang, or writes the register. -/
theorem exec_smtr {s : State} {a : BitVec 7} {ea : Bool} {n : BitVec 12} (assigned : (sprValue s s.w n.toNat).isSome = true)
    (issues : Issues (useSmtr a ea n.toNat s.w) s s) :
    exec (.smtr a n ea) s =
      if sprRefused n.toNat s.w then raise Cause.permission 0 0 s
      else if n.toNat = 0x006 && s.w.count 3 != 0 then .next (s.holdFor (.counters 8 0))
      else if n.toNat = 0x006 && !gangOk s.w (s.sreg a.toNat &&& 0x0000ffffffffffff#64) then raise Cause.gang 0 0 s
      else .next (finish (useSmtr a ea n.toNat s.w) (writeSpr n.toNat (s.sreg a.toNat) s)) := by
  change issue { useSmtr a ea n.toNat s.w with illegal := (sprValue s s.w n.toNat).isNone && _ } _ s = _
  unfold sprRefused
  rw [Option.isNone_eq_false_iff.2 assigned, Bool.false_and]
  exact issue_go issues _

/-- No register of the supervisor range may be written. -/
theorem sprSupervisor_of_writable {n : Nat} (writable : sprWrite n ≠ .readOnly) : sprSupervisor n = false := by
  by_contra supervisor
  obtain ⟨from100, -⟩ : 0x100 ≤ n ∧ n ≤ 0x1ff := by simpa [sprSupervisor] using supervisor
  refine writable ?_
  unfold sprWrite
  rw [if_neg (by omega), if_neg (by omega), if_neg (by omega)]

/-- A write that Table 8.1 allows asks what the register's kind says, and is not refused. -/
theorem useSmtr_allowed {n : Nat} {w : Wave} (a : BitVec 7) (ea : Bool)
    (allows : sprWrite n = .revocable ∨ sprWrite n = .irrevocable ∨ (sprWrite n = .handlerOnly ∧ w.inHandler = true)) :
    sprRefused n w = false ∧
      useSmtr a ea n w = { srcS := [(a.toNat, ea)], irrevocable := decide (sprWrite n ≠ .revocable), both := true } := by
  have kept : sprRefused n w = false := by
    obtain kind | kind | ⟨kind, inside⟩ := allows
    · simp [sprRefused, kind]
    · simp [sprRefused, kind]
    · simp [sprRefused, kind, inside]
  have writable : sprWrite n ≠ .readOnly := fun readOnly => by simp [sprRefused, readOnly] at kept
  refine ⟨kept, ?_⟩
  rw [useSmtr, kept, sprSupervisor_of_writable writable, Bool.not_false, Bool.and_true, bne_eq_decide_ne]

/-- SMTR writes where Table 8.1 and, for gang, R219 allow it. -/
theorem exec_smtr_writes {s : State} {a : BitVec 7} {ea : Bool} {n : BitVec 12} (assigned : (sprValue s s.w n.toNat).isSome = true)
    (allows : sprWrite n.toNat = .revocable ∨ sprWrite n.toNat = .irrevocable ∨ (sprWrite n.toNat = .handlerOnly ∧ s.w.inHandler = true))
    (gang : n = 0x006#12 → s.w.count 3 = 0 ∧ gangOk s.w (s.sreg a.toNat &&& 0x0000ffffffffffff#64) = true)
    (issues : Issues { srcS := [(a.toNat, ea)], irrevocable := decide (sprWrite n.toNat ≠ .revocable), both := true } s s) :
    exec (.smtr a n ea) s = .next (finish { srcS := [(a.toNat, ea)], irrevocable := decide (sprWrite n.toNat ≠ .revocable), both := true }
      (writeSpr n.toNat (s.sreg a.toNat) s)) := by
  obtain ⟨kept, use⟩ := useSmtr_allowed a ea allows
  have gang' : n.toNat = 0x006 → s.w.count 3 = 0 ∧ gangOk s.w (s.sreg a.toNat &&& 0x0000ffffffffffff#64) = true :=
    fun same => gang (BitVec.eq_of_toNat_eq same)
  have drained : (decide (n.toNat = 0x006) && s.w.count 3 != 0) = false := by
    by_cases same : n.toNat = 0x006
    · simp [(gang' same).1]
    · simp [same]
  have allowed : (decide (n.toNat = 0x006) && !gangOk s.w (s.sreg a.toNat &&& 0x0000ffffffffffff#64)) = false := by
    by_cases same : n.toNat = 0x006
    · simp [(gang' same).2]
    · simp [same]
  rw [exec_smtr assigned (use ▸ issues), kept, drained, allowed, use]
  rfl

/-- SMTR of a register that may not be written raises 0x07. -/
theorem exec_smtr_refused {s : State} {a : BitVec 7} {ea : Bool} {n : BitVec 12} (assigned : (sprValue s s.w n.toNat).isSome = true)
    (readOnly : sprWrite n.toNat = .readOnly ∨ (sprWrite n.toNat = .handlerOnly ∧ s.w.inHandler = false))
    (issues : Issues { srcS := [(a.toNat, ea)], supervisor := sprSupervisor n.toNat } s s) :
    exec (.smtr a n ea) s = raise Cause.permission 0 0 s := by
  have refused : sprRefused n.toNat s.w = true := by simpa [sprRefused] using readOnly
  have use : useSmtr a ea n.toNat s.w = { srcS := [(a.toNat, ea)], supervisor := sprSupervisor n.toNat, both := true } := by
    rw [useSmtr, refused, Bool.not_true, Bool.and_false]
  rw [exec_smtr assigned (use ▸ issues.withBoth), refused]
  rfl

/-- Settles O6, by the cases of a read and of a write. -/
theorem specialRegisters : Obligations.SpecialRegisters := by
  unfold Obligations.SpecialRegisters
  exact ⟨fun s d n x value notClock notNanotime issues => exec_smfr_plain value notClock notNanotime issues,
    fun s d issues => ⟨exec_smfr rfl issues, exec_smfr rfl issues⟩,
    fun s a ea n assigned allows gang issues => exec_smtr_writes assigned allows gang issues,
    fun s a ea n assigned readOnly issues => exec_smtr_refused assigned readOnly issues⟩

end Sys2Proof.Machine
end

section
/-! SUPPORT. Barriers: the token's fields, an arrive that goes on, and waits (R173 to R177). -/

namespace Sys2Proof.Machine

open Sys2Proof.Safety Sys2Proof.Laws

/-! ### Tokens (R174) -/

theorem tokenOf_zero (level : Bool) (id : BitVec 5) (phase : Nat) : (tokenOf level id phase).extractLsb' 38 26 = 0 := by
  rw [tokenOf, ext_high _ _ _ _ (by norm_num), ext_high _ _ _ _ (by norm_num), ext_high _ _ _ _ (by norm_num), ext_all]
  rfl

theorem tokenOf_level (level : Bool) (id : BitVec 5) (phase : Nat) : (tokenOf level id phase).getLsbD 37 = level := by
  rw [tokenOf, bit_high _ _ _ (by norm_num), bit_high _ _ _ (by norm_num), bit_low _ _ _ (by norm_num), bit_ofBool]

theorem tokenOf_id (level : Bool) (id : BitVec 5) (phase : Nat) : (tokenOf level id phase).extractLsb' 32 5 = id := by
  rw [tokenOf, ext_high _ _ _ _ (by norm_num), ext_low _ _ _ _ (by norm_num), ext_all]

theorem tokenOf_phase (level : Bool) (id : BitVec 5) (phase : Nat) : (tokenOf level id phase).extractLsb' 0 32 = BitVec.ofNat 32 phase := by
  rw [tokenOf, ext_low _ _ _ _ (by norm_num), ext_all]

/-- Settles O29, field by field. -/
theorem barrierToken : Obligations.BarrierToken := by
  unfold Obligations.BarrierToken
  refine ⟨fun level id phase => ⟨tokenOf_zero level id phase, tokenOf_level level id phase, tokenOf_id level id phase, ?_⟩, rfl⟩
  rw [tokenOf_phase, BitVec.toNat_ofNat]

/-! ### Arrives (R175, R177) -/

section Arrives

variable {u : Use} {id : BitVec 5} {cnt : BitVec 7} {core : Bool} {s s' : State} {phase : Nat}

/-- An arrive at an id beyond the declaration raises 0x0d. -/
theorem arriveWord_undeclared (k : State → Nat → Result) (issues : Issues { u with irrevocable := true } s s)
    (beyond : s.w.barriers ≤ id.toNat) : arriveWord u id cnt core k s = raise Cause.barrier 0 0 s :=
  (issue_go issues _).trans (if_pos beyond)

/-- An arrive that finds its phase open and leaves the barrier able to complete goes on with its phase. -/
theorem arriveWord_goes (k : State → Nat → Result) (issues : Issues { u with irrevocable := true } s s)
    (declared : id.toNat < s.w.barriers) (arrives : arrive id core (s.sreg cnt.toNat) s = .ok s' phase)
    (completes : barrierStuck s' (barrierTeam s s.w) (instanceOf s.w id core) = false) : arriveWord u id cnt core k s = k s' phase := by
  refine ((issue_go issues _).trans (if_neg (Nat.not_le.2 declared))).trans ?_
  rw [arrives]
  exact if_neg (ne_true_of_eq_false completes)

end Arrives

/-! ### Waits (R175, R177) -/

/-- A wait that leaves the barrier able to complete stands at its word, with what the word has written by then. -/
theorem beginWait_waits {s : State} {team inst : Nat} {phase : BitVec 32}
    (completes : barrierStuck (s.blockFor (.barrier inst phase)) team inst = false) (written : State → State) :
    beginWait team inst phase written s = written (s.blockFor (.barrier inst phase)) :=
  if_neg (ne_true_of_eq_false completes)

section Barw

variable {s : State} {id : BitVec 5} {tok : BitVec 7} {core ea : Bool} (issues : Issues { srcS := [(tok.toNat, ea)] } s s)

include issues

theorem exec_barw_undeclared (beyond : s.w.barriers ≤ id.toNat) : exec (.barw id tok core ea) s = raise Cause.barrier 0 0 s :=
  (issue_go issues _).trans (if_pos beyond)

/-- BARW with a token of its own id and level asks by how much the token's phase is ahead of the last that ended. -/
theorem exec_barw_own (declared : id.toNat < s.w.barriers) (own : ∃ phase, s.sreg tok.toNat = tokenOf (levelOf s.w core) id phase)
    (level : otherLevel s s.w (barrierTeam s s.w) id (levelOf s.w core) = false) :
    let team := barrierTeam s s.w
    let inst := instanceOf s.w id core
    let phase := (s.sreg tok.toNat).extractLsb' 0 32
    let ahead := phase - BitVec.ofNat 32 (barrierAt s team inst).ended
    exec (.barw id tok core ea) s =
      if ahead.msb then .next (finish { srcS := [(tok.toNat, ea)] } s)
      else if 4 ≤ ahead.toNat then .next (misuse team inst s)
      else .next (beginWait team inst phase (fun s => s) s) := by
  have fields : ¬ ((s.sreg tok.toNat).extractLsb' 32 5 ≠ id ∨ (s.sreg tok.toNat).getLsbD 37 ≠ levelOf s.w core ∨
      (s.sreg tok.toNat).extractLsb' 38 26 ≠ 0) := by
    obtain ⟨phase, token⟩ := own
    rw [token, tokenOf_id, tokenOf_level, tokenOf_zero]
    simp
  exact (((issue_go issues _).trans (if_neg (Nat.not_le.2 declared))).trans (if_neg fields)).trans (if_neg (ne_true_of_eq_false level))

end Barw

/-- A waiting wave of an ended phase goes on past its word. -/
theorem exec_barrierWaitComplete {s : State} {k inst : Nat} {phase : BitVec 32} (waits : (s.wave k).hold = .barrier inst phase)
    (ended : (barrierAt s (barrierTeam s (s.wave k)) inst).unended phase = false) (runs : (s.wave k).halted = false)
    (here : (s.wave k).station ≠ .saved) : exec (.barrierWaitComplete k) s = .next ((advance 1 0 (s.focusOn k)).focusOn s.focus) := by
  change execBarrierWaitComplete k s = _
  unfold execBarrierWaitComplete
  dsimp only
  rw [waits]
  exact if_neg (by simp [ended, runs, here])

/-- Settles O28: arrives by `arriveWord_goes`, waits by `beginWait_waits`. -/
theorem barriers : Obligations.Barriers := by
  unfold Obligations.Barriers
  refine ⟨?arrive, ?barw, ?undeclared, fun s k inst phase waits ended runs here => exec_barrierWaitComplete waits ended runs here⟩
  case arrive =>
    intro s s' r cnt id core ea phase team inst u ui declared arrives completes
    refine ⟨fun issues => ⟨arriveWord_goes _ issues declared arrives completes, fun ended => ?ended, fun unended able => ?waits⟩,
      fun issues => arriveWord_goes _ issues declared arrives completes⟩
    case ended => exact (arriveWord_goes _ issues declared arrives completes).trans (if_neg (ne_true_of_eq_false ended))
    case waits =>
      exact ((arriveWord_goes _ issues declared arrives completes).trans (if_pos unended)).trans (congrArg _ (beginWait_waits able _))
  case barw =>
    intro s id tok core ea issues
    refine ⟨exec_barw_undeclared issues, fun declared own level => ?_⟩
    have word := exec_barw_own issues declared own level
    refine ⟨fun ended => word.trans (if_pos ended), fun unended near able => ?_⟩
    exact ((word.trans (if_neg (ne_true_of_eq_false unended))).trans (if_neg (Nat.not_le.2 near))).trans (congrArg _ (beginWait_waits able _))
  case undeclared =>
    intro s r id cnt core ea beyond
    exact ⟨fun issues => arriveWord_undeclared _ issues beyond,
      fun issues => ⟨arriveWord_undeclared _ issues beyond, arriveWord_undeclared _ issues beyond⟩⟩

end Sys2Proof.Machine
end

section
/-! SUPPORT. Words of the spec's encodings: a word's number decodes to the instruction whose encoding it is (R44, R45, R152). -/

namespace Sys2Proof.Laws

/-- The number of a short word decodes to the instruction that the word encodes. -/
theorem decodeTableWord_short {i : Instr} {w0 : W32} (wellFormed : i.wellFormed = true) (words : encode i = some (w0, none)) :
    decodeTableWord 32 w0.toNat = some i := by
  obtain ⟨decoded, length⟩ := decode_of_encode wellFormed words
  have low : (BitVec.ofNat 64 (w0.toNat % 2 ^ 32)).extractLsb' 0 32 = w0 := by
    rw [Nat.mod_eq_of_lt w0.isLt, ← BitVec.setWidth_eq_extractLsb' (by norm_num)]
    simp
  rw [Option.getD_none] at decoded
  simp only [decodeTableWord, low, decodeBytes_short length, decoded, Except.map]

/-- The number of a long form decodes to the instruction that its words encode. -/
theorem decodeTableWord_long {i : Instr} {w0 w1 : W32} (wellFormed : i.wellFormed = true) (words : encode i = some (w0, some w1)) :
    decodeTableWord 64 (w1 ++ w0).toNat = some i := by
  obtain ⟨decoded, length⟩ := decode_of_encode wellFormed words
  have number : BitVec.ofNat 64 ((w1 ++ w0).toNat % 2 ^ 64) = w1 ++ w0 := by
    rw [Nat.mod_eq_of_lt (w1 ++ w0).isLt, BitVec.ofNat_toNat, BitVec.setWidth_eq]
  have low : (w1 ++ w0).extractLsb' 0 32 = w0 := by rw [ext_low _ _ _ _ (by norm_num), ext_all]
  have high : (w1 ++ w0).extractLsb' 32 32 = w1 := by rw [ext_high _ _ _ _ (by norm_num), ext_all]
  rw [Option.getD_some] at decoded
  have bytes := decodeBytes_long length w1 []
  rw [List.append_nil, decoded] at bytes
  simp only [decodeTableWord, number, low, high, bytes, Except.map]

/-- A word of a major that Table 7.7 leaves unassigned decodes to nothing. -/
theorem decodeTableWord_major_3e : decodeTableWord 32 0xf8000000 = none := by decide +kernel

/-- Settles O53: each number is that of the words that its instruction encodes. -/
theorem decodedWords : Obligations.DecodedWords := by
  unfold Obligations.DecodedWords
  exact ⟨decodeTableWord_short (w0 := 0x08103090) rfl rfl, decodeTableWord_short (w0 := 0x28000008) rfl rfl,
    decodeTableWord_short (w0 := 0x21000028) rfl rfl, decodeTableWord_short (w0 := 0x30000000) rfl rfl,
    decodeTableWord_long (w0 := 0x9c50b180) (w1 := 0) rfl rfl, decodeTableWord_short (w0 := 0xa0000000) rfl rfl,
    decodeTableWord_short (w0 := 0xa0000004) rfl rfl, decodeTableWord_short (w0 := 0xa0000008) rfl rfl,
    decodeTableWord_long (w0 := 0xa45031c0) (w1 := 0x01000000) rfl rfl, decodeTableWord_major_3e⟩

end Sys2Proof.Laws
end

section
/-! SUPPORT. The frame of the scalar words, the branches and the jumps (R161 to R167). -/

namespace Sys2Proof.Safety

open Sys2Proof.Machine

section Updates

variable {vs ss : List Nat} {flags : Bool} {s t : State} (h : Frame vs ss flags s t)

include h

/-- The wave gone on at a clause header. -/
theorem Frame.jump (target : W64) (logged : Nat) : Frame vs ss flags s (jump target logged t) where
  registers := by simpa [SameRegisters, State.vreg, State.sreg, Arch.getV, Arch.getS] using h.registers
  noFlags := by simpa [SameFlags] using h.noFlags
  specials := by simpa [SameSpecials] using h.specials
  matrix := by simpa [SameMatrix] using h.matrix
  memory := by simpa [SameMemory] using h.memory
  device := by simpa [SameDevice, SameUnits] using h.device

/-- A frame holds whatever exec both states are given. -/
theorem Frame.withExec (o : State) : Frame vs ss flags (withExecOf o s) (withExecOf o t) where
  registers := h.registers
  noFlags := h.noFlags
  specials := ⟨rfl, h.specials.2⟩
  matrix := h.matrix
  memory := h.memory
  device := h.device

end Updates

end Sys2Proof.Safety

namespace Sys2Proof.Machine

open Sys2Proof.Safety

section Words

variable {s t : State}

/-- An effect on exec alone, and the word done. -/
theorem run_setExec_frame {u : Use} {x : State → W64} (issues : Issues u s s) (dst : u.dstV = [])
    (run : run u (fun s => s.setExec (x s)) s = .next t) : Frame [] [] false s (withExecOf s t) := by
  rw [run_go issues] at run
  injection run with run
  subst run
  exact (((Frame.refl [] [] false (s.setExec (x s))).finish (u := u) (by simp [dst])).withExec s :)

/-- A scalar register and exec set, and the word done. -/
theorem run_setS_setExec_frame {u : Use} {d : BitVec 7} {x y : State → W64} (issues : Issues u s s) (dst : u.dstV = [])
    (run : run u (fun s => (s.setS d.toNat (y s)).setExec (x s)) s = .next t) : Frame [] [d.toNat] false s (withExecOf s t) := by
  rw [run_go issues] at run
  injection run with run
  subst run
  exact ((((Frame.refl [] [d.toNat] false (s.setExec (x s))).setS List.mem_cons_self (y s)).finish (u := u) (by simp [dst])).withExec s :)

theorem branch_frame {u : Use} {taken : State → Bool} {off : W64} (issues : Issues u s s) (run : branch u taken off s = .next t) :
    Frame [] [] false s t := by
  rw [branch_go issues] at run
  injection run with run
  subst run
  exact (Frame.refl [] [] false s).jump _ _

/-- A jump to a good target goes on there. -/
theorem jump_of_goodTarget {target : W64} {trap : Result} {on : State} (good : badTarget s.w target = false)
    (run : (if badTarget s.w target then trap else .next on) = .next t) : t = on := by
  rw [good] at run
  injection run with run
  exact run.symm

theorem exec_nop_frame (issues : Issues {} s s) (run : exec .nop s = .next t) : Frame [] [] false s t := by
  have result := (run_go issues _).symm.trans run
  injection result with result
  subst result
  exact (Frame.refl [] [] false s).finish (by simp)

end Words

/-- Settles O49: each word by the frame of its form. -/
theorem scalarFrame : Obligations.ScalarFrame := by
  unfold Obligations.ScalarFrame
  refine ⟨?three, fun s t d a b ea eb issues run => run_setS_frame issues rfl run, ?immediate, ?one,
    fun s t d imm k half => ⟨fun issues run => ?moves, fun issues run => run_setS_frame issues rfl run⟩,
    fun s t a ea off issues => ⟨fun run => run_setExec_frame issues rfl run, ?onRegister, fun good run => ?jmpr⟩, ?onMask, ?onExec,
    fun s t a ea off => ⟨fun issues run => ?call, fun issues good run => ?callr, fun issues good run => ?ret⟩⟩
  case moves =>
    obtain run | run | run := run
    · exact run_setS_frame issues rfl run
    · exact run_setS_frame issues rfl run
    · exact run_setS_frame issues rfl run
  case jmpr =>
    rw [jump_of_goodTarget good (((registerJumps s a ea).1 issues).symm.trans run)]
    exact (Frame.refl [] [] false s).jump _ _
  case call =>
    have result := (exec_call issues off).symm.trans run
    injection result with result
    subst result
    exact ((Frame.refl [] [127] false s).setS List.mem_cons_self _).jump _ _
  case callr =>
    rw [jump_of_goodTarget good (((registerJumps s a ea).2.1 issues).symm.trans run)]
    exact ((Frame.refl [] [127] false s).setS List.mem_cons_self _).jump _ _
  case ret =>
    rw [jump_of_goodTarget good (((registerJumps s a ea).2.2.1 issues).symm.trans run)]
    exact (Frame.refl [] [] false s).jump _ _
  case onExec =>
    intro s t off issues
    simp only [List.forall_mem_cons, List.not_mem_nil, false_imp_iff, implies_true, and_true]
    exact ⟨branch_frame issues, branch_frame issues, branch_frame issues, branch_frame issues, exec_nop_frame issues⟩
  all_goals simp only [List.forall_mem_cons, List.not_mem_nil, false_imp_iff, implies_true, and_true]
  case three => and_intros <;> exact fun s t d a b ea eb issues run => run_setS_frame issues rfl run
  case immediate => and_intros <;> exact fun s t d a imm ea issues run => run_setS_frame issues rfl run
  case one => and_intros <;> exact fun s t d a ea issues run => run_setS_frame issues rfl run
  case onRegister => exact ⟨branch_frame issues, branch_frame issues, branch_frame issues, branch_frame issues⟩
  case onMask => and_intros <;> exact fun s t d a ea issues run => run_setS_setExec_frame issues rfl run

end Sys2Proof.Machine
end

section
/-! SUPPORT. The integer vector words, values thread by thread, and the integer compares, masks of the acting threads (R181, R184, R185, R186). -/

namespace Sys2Proof.Machine

open Sys2Proof.Safety

/-! ### Integer compares (R185) -/

/-- A word that means `vectorC` of a relation writes the mask of the acting threads where it holds. -/
theorem vectorC_masks {word : BitVec 7 → BitVec 7 → BitVec 7 → Bool → Bool → Instr} {rel : W32 → W32 → Bool}
    (means : ∀ d a b ea eb s, exec (word d a b ea eb) s = vectorC rel d a b ea eb s)
    (s t : State) (d a b : BitVec 7) (ea eb : Bool) (issues : Issues (useVC d a b ea eb) s t) :
    ∃ x : W64, exec (word d a b ea eb) s = .next (finish (useVC d a b ea eb) (t.setS d.toNat x)) ∧
      ∀ i : Nat, x.getLsbD i = (decide (i ∈ t.w.actingThreads) && rel (t.vreg a.toNat i) (t.vreg b.toNat i)) :=
  ⟨_, (means d a b ea eb s).trans (run_go issues _), vectorC_bit t.w _⟩

/-- Settles O12: each word is `vectorC` of its relation, which is that of the integers the registers hold. -/
theorem vectorCompares : Obligations.VectorCompares := by
  unfold Obligations.VectorCompares
  refine fun p row => vectorC_masks (word := p.1) (rel := p.2) ?_
  revert p
  simp only [List.forall_mem_cons, List.not_mem_nil, false_imp_iff, implies_true, and_true, ne_eq, decide_not]
  and_intros <;> exact fun _ _ _ _ _ _ => rfl

/-! ### Integer words (R184, R186) -/

/-- A scalar operand is the low word of its register. -/
theorem sregW_eq (s : State) (r : Nat) : s.sregW r = (s.sreg r).extractLsb' 0 32 :=
  BitVec.setWidth_eq_extractLsb' (by norm_num)

/-- A word that means `vector3` of an operation writes the operation's value in every acting thread. -/
theorem vector3_writes {word : BitVec 7 → BitVec 7 → BitVec 7 → Bool → Bool → Instr} {op : W32 → W32 → W32}
    (means : ∀ d a b ea eb s, exec (word d a b ea eb) s = vector3 op d a b ea eb s)
    (s t : State) (d a b : BitVec 7) (ea eb : Bool) (issues : Issues (useV3 d a b ea eb) s t) :
    exec (word d a b ea eb) s = .next (finish (useV3 d a b ea eb)
      (t.setVs d.toNat (fun th => op (t.vreg a.toNat th) (t.vreg b.toNat th)) t.w.actingThreads)) :=
  (means d a b ea eb s).trans (vectorWord_go issues d _)

/-- A word that means `vectorS` of an operation writes the operation's value with its scalar in every acting thread. -/
theorem vectorS_writes {word : BitVec 7 → BitVec 7 → BitVec 7 → Bool → Bool → Instr} {op : W32 → W32 → W32}
    (means : ∀ d a b ea eb s, exec (word d a b ea eb) s = vectorS op d a b ea eb s)
    (s t : State) (d a b : BitVec 7) (ea eb : Bool) (issues : Issues (useVS d a b ea eb) s t) :
    exec (word d a b ea eb) s = .next (finish (useVS d a b ea eb)
      (t.setVs d.toNat (fun th => op (t.vreg a.toNat th) ((t.sreg b.toNat).extractLsb' 0 32)) t.w.actingThreads)) := by
  rw [← sregW_eq]
  exact (means d a b ea eb s).trans (vectorWord_go issues d _)

/-- A word that means `vector1` of an operation on its immediate writes the operation's value in every acting thread. -/
theorem vectorImm_writes {word : BitVec 7 → BitVec 7 → BitVec 8 → Bool → Instr} {op : W32 → BitVec 8 → W32}
    (means : ∀ d a imm ea s, exec (word d a imm ea) s = vector1 (fun x => op x imm) d a ea s)
    (s t : State) (d a : BitVec 7) (imm : BitVec 8) (ea : Bool) (issues : Issues (useV1 d a ea) s t) :
    exec (word d a imm ea) s = .next (finish (useV1 d a ea)
      (t.setVs d.toNat (fun th => op (t.vreg a.toNat th) imm) t.w.actingThreads)) :=
  (means d a imm ea s).trans (vectorWord_go issues d _)

/-- A word that means `vector1` of an operation writes the operation's value in every acting thread. -/
theorem vector1_writes {word : BitVec 7 → BitVec 7 → Bool → Instr} {op : W32 → W32}
    (means : ∀ d a ea s, exec (word d a ea) s = vector1 op d a ea s)
    (s t : State) (d a : BitVec 7) (ea : Bool) (issues : Issues (useV1 d a ea) s t) :
    exec (word d a ea) s = .next (finish (useV1 d a ea) (t.setVs d.toNat (fun th => op (t.vreg a.toNat th)) t.w.actingThreads)) :=
  (means d a ea s).trans (vectorWord_go issues d _)

/-- Settles O11: each word is a form of its operation; minima and maxima compare the integers the registers hold, and VCLZ counts the bits
before the first one set. -/
theorem vectorInteger : Obligations.VectorInteger := by
  unfold Obligations.VectorInteger
  refine ⟨fun p row => vector3_writes (word := p.1) (op := p.2) ?vectors, fun p row => vectorS_writes (word := p.1) (op := p.2) ?scalars,
    fun p row => vectorImm_writes (word := p.1) (op := p.2) ?immediates, fun p row => vector1_writes (word := p.1) (op := p.2) ?single,
    fun s t d b eb issues => ?vmovs, fun s t d issues => vectorWord_go issues d _⟩
  case vmovs =>
    rw [← sregW_eq]
    exact vectorWord_go issues d _
  all_goals
    revert p
    simp only [List.forall_mem_cons, List.not_mem_nil, false_imp_iff, implies_true, and_true, ← BitVec.lt_def, ← BitVec.slt_iff_toInt_lt,
      ← BitVec.ult_iff_lt, ← length_takeWhile_range]
  case vectors => and_intros <;> exact fun _ _ _ _ _ _ => rfl
  case scalars => and_intros <;> exact fun _ _ _ _ _ _ => rfl
  case immediates => and_intros <;> exact fun _ _ _ _ _ => rfl
  case single => and_intros <;> exact fun _ _ _ _ => rfl

end Sys2Proof.Machine
end

section
/-! SUPPORT. The F32 compares: masks of the acting threads where a relation holds, and the relations of the numbers, with their flags (R185, R189). -/

namespace Sys2Proof.Machine

open Sys2Proof.Safety

/-! ### F32 compares, thread by thread (R189) -/

/-- The threads whose result holds, of a list of results. -/
theorem filter_results (ts : List Nat) (f : Nat → Bool × Flags) :
    ((ts.map (fun t => (t, f t))).filter (fun x => x.2.1)).map (·.1) = ts.filter (fun t => (f t).1) := by
  rw [List.filter_map, List.map_map]
  exact List.map_id _

/-- A word that means `fpCompare` of a relation writes the mask of the acting threads where it holds, and records their flags. -/
theorem fpCompare_masks {word : BitVec 7 → BitVec 7 → BitVec 7 → Bool → Bool → Instr} {fn : Nat}
    (means : ∀ d a b ea eb s, exec (word d a b ea eb) s = fpCompare fn d a b ea eb s)
    (s t : State) (d a b : BitVec 7) (ea eb : Bool) (issues : Issues (useVC d a b ea eb) s t) :
    let result := fun th => compareF32 fn (t.vreg a.toNat th) (t.vreg b.toNat th)
    ∃ x : W64, exec (word d a b ea eb) s = .next (finishFlags (useVC d a b ea eb)
        (t.w.actingThreads.map (fun th => (th, (result th).2))) (t.setS d.toNat x)) ∧
      ∀ i : Nat, x.getLsbD i = (decide (i ∈ t.w.actingThreads) && (result i).1) := by
  refine ⟨_, ?_, vectorC_bit t.w _⟩
  rw [means, fpCompare, issue_go issues]
  simp only [filter_results, List.map_map]
  rfl

/-! ### NaNs (R55, R57) -/

/-- A NaN has its exponent all ones, and a fraction. -/
theorem Fmt.isNan_decode (f : Fmt) (x : Nat) :
    (f.decode x).isNan = true ↔ x / 2 ^ (f.p - 1) % 2 ^ f.eb = 2 ^ f.eb - 1 ∧ x % 2 ^ (f.p - 1) ≠ 0 := by
  unfold Fmt.decode
  dsimp only
  split_ifs with ones whole zero
  · simp [Num.isNan, whole]
  · simp [Num.isNan, ones, whole]
  · simp [Num.isNan, ones]
  · simp [Num.isNan, ones]

/-- A NaN is signalling where the highest bit of its fraction is clear. -/
theorem Fmt.isSignalling_decode (f : Fmt) (x : Nat) :
    (f.decode x).isSignalling = true ↔ (f.decode x).isNan = true ∧ x % 2 ^ (f.p - 1) < 2 ^ (f.p - 2) := by
  unfold Fmt.decode
  dsimp only
  split_ifs <;> simp [Num.isNan, Num.isSignalling]

theorem isNan_f32 (x : W32) :
    (f32.decode x.toNat).isNan = true ↔ x.extractLsb' 23 8 = 0xff#8 ∧ x.extractLsb' 0 23 ≠ 0 := by
  rw [Fmt.isNan_decode, ← BitVec.toNat_inj, ne_eq (x.extractLsb' 0 23), ← BitVec.toNat_inj, BitVec.extractLsb'_toNat, BitVec.extractLsb'_toNat,
    Nat.shiftRight_eq_div_pow]
  rfl

theorem isSignalling_f32 (x : W32) :
    (f32.decode x.toNat).isSignalling = true ↔ (f32.decode x.toNat).isNan = true ∧ x.getLsbD 22 = false := by
  have quiet : x.getLsbD 22 = false ↔ x.toNat % 2 ^ 23 < 2 ^ 22 := by
    rw [← BitVec.testBit_toNat, Nat.testBit_eq_decide_div_mod_eq, decide_eq_false_iff_not]
    omega
  rw [quiet]
  exact f32.isSignalling_decode x.toNat

/-! ### Relations of numbers (R189) -/

theorem Num.isNan_iff {x : Num} : x.isNan = true ↔ ∃ s, x = .nan s := by
  cases x <;> simp [Num.isNan]

theorem Num.isNan_of_isSignalling {x : Num} (h : x.isSignalling = true) : x.isNan = true := by
  cases x with
  | nan s => rfl
  | inf n => exact h
  | fin n m e => exact h

/-- A NaN is less than no number, and no number less than it. -/
theorem Num.lt_nan {x y : Num} (h : x.isNan = true ∨ y.isNan = true) : x.lt y = false := by
  simp only [Num.isNan_iff] at h
  obtain ⟨s, rfl⟩ | ⟨s, rfl⟩ := h
  · rfl
  · cases x <;> rfl

theorem Num.eqv_nan {x y : Num} (h : x.isNan = true ∨ y.isNan = true) : x.eqv y = false := by
  obtain h | h := h <;> simp [Num.eqv, h]

theorem Num.lt_asymm {x y : Num} (h : x.lt y = true) : y.lt x = false := by
  cases x with
  | nan s => exact Num.lt_nan (.inr rfl)
  | inf n =>
    cases y with
    | nan s => rfl
    | inf n' => simp_all [Num.lt]
    | fin n' m e => simp_all [Num.lt]
  | fin n m e =>
    cases y with
    | nan s => rfl
    | inf n' => simp_all [Num.lt]
    | fin n' m' e' =>
      rw [← Bool.not_eq_true, Num.lt_fin, not_lt]
      exact (Num.lt_fin.1 h).le

/-- Of two numbers that are no NaN, one is less than the other exactly where the other is neither less nor equal. -/
theorem Num.lt_eq_not_le {x y : Num} (hx : x.isNan = false) (hy : y.isNan = false) : x.lt y = !(y.lt x || y.eqv x) := by
  simp only [Num.eqv, hx, hy]
  cases h : x.lt y
  · simp
  · simp [Num.lt_asymm h]

/-! ### The F32 relations (R189) -/

/-- The flags of a compare: nv for a signalling NaN, for any NaN by the signalling relations, and no other. -/
theorem compareF32_flags (fn : Nat) (a b : W32) :
    (compareF32 fn a b).2 = if (f32.decode a.toNat).isSignalling = true ∨ (f32.decode b.toNat).isSignalling = true ∨
      (5 ≤ fn ∧ ((f32.decode a.toNat).isNan = true ∨ (f32.decode b.toNat).isNan = true)) then Flags.nv else 0 := by
  simp only [compareF32]
  refine if_congr ?_ rfl rfl
  by_cases quiet : fn < 5
  · simp [quiet, Nat.not_le.2 quiet]
  · have nans := Or.imp (@Num.isNan_of_isSignalling (f32.decode a.toNat)) (@Num.isNan_of_isSignalling (f32.decode b.toNat))
    simp only [quiet, if_false, Bool.or_eq_true, ← or_assoc, Nat.le_of_not_lt quiet, true_and]
    rw [or_assoc, or_iff_right_of_imp nans]

/-- Beside a NaN, numbers are unequal and unordered, and no other relation holds. -/
theorem compareF32_nan (fn : Nat) {a b : W32} (nan : (f32.decode a.toNat).isNan = true ∨ (f32.decode b.toNat).isNan = true) :
    (compareF32 fn a b).1 = decide (fn = 1 ∨ fn = 4) := by
  have unordered := Bool.or_eq_true_iff.2 nan
  simp only [compareF32, Num.lt_nan nan, Num.eqv_nan nan, unordered]
  split <;> simp_all

/-- Where no number is a NaN, each relation follows from equality and less than. -/
theorem compareF32_ordered {a b : W32} (ha : (f32.decode a.toNat).isNan = false) (hb : (f32.decode b.toNat).isNan = false) :
    (compareF32 4 a b).1 = false ∧ (compareF32 1 a b).1 = !(compareF32 0 a b).1 ∧
      (compareF32 3 a b).1 = ((compareF32 2 a b).1 || (compareF32 0 a b).1) ∧
      (compareF32 5 a b).1 = (compareF32 2 a b).1 ∧ (compareF32 6 a b).1 = (compareF32 3 a b).1 ∧
      (compareF32 2 a b).1 = !(compareF32 3 b a).1 :=
  ⟨Bool.or_eq_false_iff.2 ⟨ha, hb⟩, rfl, rfl, rfl, rfl, Num.lt_eq_not_le ha hb⟩

theorem compareF32_equal (a b : W32) : (compareF32 0 a b).1 = (f32.decode a.toNat).eqv (f32.decode b.toNat) := rfl

theorem compareF32_less (a b : W32) : (compareF32 2 a b).1 = (f32.decode a.toNat).lt (f32.decode b.toNat) := rfl

theorem Num.eqv_inf (n n' : Bool) : (Num.inf n).eqv (.inf n') = decide (n = n') := by
  cases n <;> cases n' <;> rfl

theorem Num.eqv_inf_fin (n n' : Bool) (m : Nat) (e : Int) : (Num.inf n).eqv (.fin n' m e) = false := by
  cases n <;> rfl

theorem Num.eqv_fin_inf (n n' : Bool) (m : Nat) (e : Int) : (Num.fin n' m e).eqv (.inf n) = false := by
  cases n <;> rfl

/-- Settles O15: each word is `fpCompare` of its relation; NaNs, finite numbers and infinities are those of the format. -/
theorem floatingCompares : Obligations.FloatingCompares := by
  unfold Obligations.FloatingCompares
  refine ⟨fun p row => fpCompare_masks (word := p.1) (fn := p.2) ?means, fun fn a b _ => ?nans, fun a b n n' m m' e e' ha hb => ?finite,
    fun a b n n' m e => ⟨fun ha hb => ?infinite, fun ha hb => ?left, fun ha hb => ?right⟩⟩
  case means =>
    revert p
    simp only [List.forall_mem_cons, List.not_mem_nil, false_imp_iff, implies_true, and_true]
    and_intros <;> exact fun _ _ _ _ _ _ => rfl
  case nans =>
    simp only [← isNan_f32, ← isSignalling_f32, Bool.not_eq_true]
    exact ⟨compareF32_flags fn a b, compareF32_nan fn, compareF32_ordered⟩
  all_goals rw [compareF32_equal, compareF32_less, ha, hb]
  case finite => exact ⟨Num.eqv_fin, Num.lt_fin⟩
  case infinite => exact ⟨Num.eqv_inf n n', rfl⟩
  case left => exact ⟨Num.eqv_inf_fin n n' m e, rfl⟩
  case right => exact ⟨Num.eqv_fin_inf n n' m e, rfl⟩

end Sys2Proof.Machine
end

section
/-! SUPPORT. The Spindle's commands: what starts at the head of a core's queue, and a copy from its pieces to its destination (R110, R119, R211
to R213). -/

namespace Sys2Proof.Machine

/-! ### The start of a command (R212) -/

section
variable {s s' : State} {core : Nat} {c : SpindleCmd} {rest : List SpindleCmd} {xs : List (Nat × SlabSample)}
  (head : (s.core core).spindle = c :: rest) (clear : guardOpen s c.wave c.seq = true)
include head clear

theorem exec_spindleCommandStart_move (move : c.fn = 4) : exec (.spindleCommandStart core) s = .next (runMove core c s) := by
  change execSpindleCommandStart core s = _
  simp [execSpindleCommandStart, head, clear, move]

theorem exec_spindleCommandStart_started (copy : c.fn ≠ 4) (started : c.started = true) :
    exec (.spindleCommandStart core) s = .next (runCommand core c s) := by
  change execSpindleCommandStart core s = _
  simp [execSpindleCommandStart, head, clear, copy, started]

theorem exec_spindleCommandStart_samples (copy : c.fn ≠ 4) (fresh : c.started = false)
    (sampled : takeSamples (engineWave s c.wave c.env []) (.spindle core) ((if c.fn = 5 then [] else [ptrHandle c.src]) ++ [ptrHandle c.dst] ++
      (if c.fn = 2 ∨ c.fn = 3 then [ptrHandle (c.params.headD 0)] else []) ++ c.gchk.toList) s = (s', .ok xs)) :
    exec (.spindleCommandStart core) s =
      .next (runCommand core { c with started := true, samples := xs } (onHead core (fun _ => { c with started := true, samples := xs }) s')) := by
  change execSpindleCommandStart core s = _
  simp only [execSpindleCommandStart, head, clear, copy, fresh, sampled, Bool.not_true, Bool.false_eq_true, if_false]

end

/-! ### A command that runs: its generation, its index array (R211, R213) -/

theorem runCommand_stale {c : SpindleCmd} (stale : genMismatch c = true) (core : Nat) (s : State) :
    runCommand core c s = spindleStop core c Cause.stale 0 0 s := if_pos stale

section
variable {c : SpindleCmd} (fresh : genMismatch c = false)
include fresh

theorem runCommand_copies (known : c.indexed = true → c.index.isSome = true) (core : Nat) (s : State) :
    runCommand core c s = runCopy core c c.pieces s := by
  have ready : (c.indexed && c.index.isNone) = false := by
    cases indexed : c.indexed with
    | false => rfl
    | true => simpa using known indexed
  simp [runCommand, fresh, ready]

theorem runCommand_reads (indexed : c.indexed = true) (unread : c.index = none) (here : remoteHandle c.env (ptrHandle c.table) = false)
    {core : Nat} {s s' : State} {xs : List Nat} (reads : readIndex core c s = (s', some xs)) :
    runCommand core c s =
      runCopy core { c with index := some xs } (indexedPieces (c.fn == 3) (elementSize c.esz) c.dst c.src xs) s' := by
  have pieces : { c with index := some xs }.pieces = indexedPieces (c.fn == 3) (elementSize c.esz) c.dst c.src xs := if_pos indexed
  simp [runCommand, fresh, indexed, unread, here, reads, pieces]

end

theorem readIndex_clean {core : Nat} {c : SpindleCmd} {s s' : State} {locs : List Nat}
    (placed : locsOf (engineWave s c.wave c.env c.samples) (.spindle core) (ptrHandle c.table) .load (ptrOffset c.table) c.tableBytes s =
      (s', .ok locs))
    (clean : anyPoison (checkLocs locs s') locs = false) :
    let xs := (List.range (c.params.getD 1 0).toNat).map (fun i => natOfBytes
      (((engineRead (checkLocs locs s') c.env (ptrHandle c.table) locs).drop ((if c.iw then 8 else 4) * i)).take (if c.iw then 8 else 4)))
    readIndex core c s = (noteSource (s.wave c.wave).launch c.env (ptrHandle c.table)
      (onHead core (fun h => { h with index := some xs }) (checkLocs locs s')), some xs) := by
  simp only [readIndex, placed, clean, Bool.false_eq_true, if_false]
  rfl

/-! ### A copy, its pieces mapped (R119, R212) -/

@[simp] theorem engineWave_launch (s : State) (k : Nat) (env : Env) (samples : List (Nat × SlabSample)) :
    (engineWave s k env samples).launch = (s.wave k).launch := rfl

section
variable {s s' : State} {core : Nat} {c : SpindleCmd} {pieces : List Piece} {pairs : List (Option Nat × Nat)}
  (mapped : mapPieces (engineWave s c.wave c.env c.samples) (.spindle core) pieces s = (s', .ok pairs))
  (source : returnsHere c.env (ptrHandle c.src) (pairs.filterMap (·.1)) = false)
  (destination : returnsHere c.env (ptrHandle c.dst) (pairs.map (·.2)) = false)
  (unsent : c.sent = false) (unread : c.got = none)
include mapped source destination unsent unread

theorem runCopy_asks (copies : c.fn ≠ 5) (remote : remoteHandle c.env (ptrHandle c.src) = true) :
    runCopy core c pieces s = onHead core (fun h => { h with asked := true }) s' := by
  simp [runCopy, mapped, source, destination, unsent, unread, copies, remote]

theorem runCopy_lands (sourceHere : c.fn = 5 ∨ remoteHandle c.env (ptrHandle c.src) = false)
    (destinationHere : peerHandle c.env (ptrHandle c.dst) = false) :
    let s1 := checkLocs (pairs.filterMap (·.1)) s'
    runCopy core c pieces s = landCopy core c pairs (sourceBytes s1 c pairs)
      (if c.fn = 5 then s1 else noteSource (s.wave c.wave).launch c.env (ptrHandle c.src) s1) := by
  have goesOn : (c.fn != 5 && remoteHandle c.env (ptrHandle c.src)) = false := by
    obtain zeros | here := sourceHere
    · simp [zeros]
    · simp [here]
  simp [runCopy, mapped, source, destination, unsent, unread, goesOn, destinationHere]

end

theorem landCopy_writes {core : Nat} {c : SpindleCmd} {pairs : List (Option Nat × Nat)} {bs : List (Byte × Bool)} {s s' : State} {made : Bool}
    (written : engineWrite (s.wave c.wave).launch (ptrHandle c.dst) (match c.env.handle (ptrHandle c.dst) with | some h => h.space | none => 0)
      (some c.env.tag) ((pairs.map (·.2)).zip (bs.map (·.1))) s = (s', made)) :
    landCopy core c pairs bs s =
      if made then spindleDone core c { s' with poison := setPoison s'.poison (((pairs.zip bs).filter (fun x => x.2.2)).map (fun x => x.1.2)) }
      else s' := by
  unfold landCopy
  dsimp only
  split <;> rename_i attempt <;> obtain ⟨rfl, rfl⟩ := Prod.mk.inj (attempt.symm.trans written) <;> rfl

end Sys2Proof.Machine
end

section
/-! SUPPORT. The matrix unit's heads: the one it starts, the row state cleared, and a started operation that completes (R218, R226, R230). -/

namespace Sys2Proof.Machine

open Sys2Proof.Safety

section
variable {s : State} {q k : Nat} {op : MatrixOp} {members : List Nat} (idle : unitBusy s q = false)
include idle

theorem exec_matrixOperationStart_runs (picked : pickHead s (startable s q) = some (k, op, .run members)) (rows : Nat) :
    exec (.matrixOperationStart (q, rows)) s = .next (startHead k op members rows s) := by
  change execMatrixOperationStart (q, rows) s = _
  simp [execMatrixOperationStart, idle, picked]

theorem exec_matrixOperationStart_fails (picked : pickHead s (startable s q) = some (k, op, .fails members)) (rows : Nat) :
    exec (.matrixOperationStart (q, rows)) s = .next (gangFails op k members s) := by
  change execMatrixOperationStart (q, rows) s = _
  simp [execMatrixOperationStart, idle, picked]

end

theorem startHead_mstz {op : MatrixOp} (clears : op.kind = .mstz) (k : Nat) (members : List Nat) (rows : Nat) (s : State) :
    ((startHead k op members rows s).wave k).rows = [] ∧ SameMemory s (startHead k op members rows s) := by
  have row : op.isMma = false := by simp [MatrixOp.isMma, clears]
  simp [startHead, row, rowWord, clears, SameMemory]

/-- What the completion of the operations of a quarter makes of a wave. -/
def Wave.completeMatrix (q : Nat) (w : Wave) : Wave :=
  if w.quarterId != q then w
  else
    match w.matrix with
    | [] => w
    | op :: rest =>
      if !op.started then w
      else { w with matrix := rest, matDone := w.matDone ++ [op], mprog := if op.isMma then 0 else w.mprog }.land 3 op.seq

theorem exec_matrixOperationComplete (q : Nat) (s : State) :
    exec (.matrixOperationComplete q) s = .next (s.mapWaves (fun _ w => w.completeMatrix q)) := rfl

theorem Wave.completeMatrix_started {w : Wave} {op : MatrixOp} {rest : List MatrixOp} (head : w.matrix = op :: rest)
    (started : op.started = true) : w.completeMatrix w.quarterId =
      { w with matrix := rest, matDone := w.matDone ++ [op], mprog := if op.isMma then 0 else w.mprog }.land 3 op.seq := by
  simp [Wave.completeMatrix, head, started]

end Sys2Proof.Machine
end

section
/-! SUPPORT. Whorl attention: a partial formed, those formed released, and two merged (R231 to R233). -/

namespace Sys2Proof.Machine

open Sys2Proof.Safety

/-! ### The partial of a Whorl (R232) -/

theorem exec_whorlPartial_forms {s s1 s2 : State} {k id i : Nat} {op : AttnOp} {h : Handle} {bs : List Byte} {n : Nat}
    {entries : List (Option (List Num) × Option (List Num))} {excluded : Nat} {homes : List (Nat × Nat)}
    {absent : List (Nat × W64 × BitVec 8 × Nat × Bool)}
    (found : (s.wave k).attn.find? (fun op => op.seq == id && (s.wave k).station != .saved) = some op)
    (clear : guardOpen s k id = true) (missing : i ∉ op.whorls) (known : i < 16)
    (window : (s.wave k).env.handle (ptrHandle op.ptr) = some h)
    (read : gotBytes (.shared i) (s.wave k).env.tag h.base 64 s = (s1, .bytes bs n)) :
    let d : BitVec 512 := BitVec.ofNat 512 (natOfBytes bs)
    let x := op.sample.getD (slabSample h.base d)
    let layer := (h.selector.extractLsb' 0 8).toNat
    let head := (h.selector.extractLsb' 8 8).toNat + (op.ptr.extractLsb' 32 8).toNat
    let s' := onAttn k id (fun op => { op with sample := some x }) s1
    (op.sample = none → slabReserved d = false) → layer ≤ x.layers → head ≤ x.heads →
    gatherPositions op i (s.wave k).env.tag x (slabBound d) layer head (op.seqId.map (fun q => seqDirty s' (seqSlot q))) (op.positions x) s' =
      (s2, .ok entries excluded homes absent) →
    exec (.whorlPartial k id i) s = .next (engineFault 2 (s.wave k) op.addr Access.read absent
      (onAttn k id (fun op => (op.form i entries excluded homes).release (op.positions x)) s2)) := by
  intro d x layer head s' valid layerIn headIn gathered
  have usable : (op.sample.isNone && slabReserved d) = false := by
    cases sampled : op.sample with
    | none => exact valid sampled
    | some _ => rfl
  have within : (decide (x.layers < layer) || decide (x.heads < head)) = false :=
    Bool.or_eq_false_iff.2 ⟨decide_eq_false (Nat.not_lt.2 layerIn), decide_eq_false (Nat.not_lt.2 headIn)⟩
  change execWhorlPartial k id i s = _
  simp only [execWhorlPartial, found, window, read]
  rw [if_neg (by simp [clear, missing, known]), if_neg (ne_true_of_eq_false usable), if_neg (ne_true_of_eq_false within), gathered]

theorem AttnOp.find_form (op : AttnOp) (i : Nat) (entries : List (Option (List Num) × Option (List Num))) (excluded : Nat)
    (homes : List (Nat × Nat)) : find (op.form i entries excluded homes).formed i =
      some ⟨(homes.filter (fun h => h.2 == i)).map (·.1), excluded,
        if entries.isEmpty then [] else [op.queries.map (fun q => partialOf q entries)]⟩ := by
  simp [AttnOp.form]

/-! ### The partials formed, released (R233) -/

theorem AttnOp.release_waits {op : AttnOp} {positions : List Nat} (unknown : ∃ k ∈ positions, find op.homes k = none) :
    op.release positions = op := by
  obtain ⟨k, hk, away⟩ := unknown
  have some_unknown : positions.all (fun k => (find op.homes k).isSome) = false := List.all_eq_false.2 ⟨k, hk, by simp [away]⟩
  simp [AttnOp.release, some_unknown]

section
variable {op : AttnOp} {positions : List Nat} {i : Nat} {part : AttnPart} (formed : op.formed = [(i, part)])
  (known : ∀ k ∈ positions, (find op.homes k).isSome = true)
include formed known

/-- The one partial formed leaves, and is whole where it took each position that its Whorl homes. -/
theorem AttnOp.release_single : op.release positions =
    if positions.all (fun k => find op.homes k != some i || part.taken.contains k) then
      { op with formed := [], whorls := op.whorls ++ [i], excluded := op.excluded + part.excluded, partials := op.partials ++ part.triples }
    else { op with formed := [] } := by
  have all_known : ¬(!positions.all (fun k => (find op.homes k).isSome)) = true := by rw [List.all_eq_true.2 known]; decide
  rw [AttnOp.release, if_neg all_known, formed, List.filter_singleton]
  dsimp only
  cases positions.all (fun k => find op.homes k != some i || part.taken.contains k) <;> simp

theorem AttnOp.release_whole (whole : ∀ k ∈ positions, find op.homes k = some i → k ∈ part.taken) : op.release positions =
    { op with formed := [], whorls := op.whorls ++ [i], excluded := op.excluded + part.excluded, partials := op.partials ++ part.triples } := by
  refine (AttnOp.release_single formed known).trans (if_pos (List.all_eq_true.2 fun k hk => ?_))
  by_cases home : find op.homes k = some i
  · simp [whole k hk home]
  · simp [home]

theorem AttnOp.release_partial (untaken : ∃ k ∈ positions, find op.homes k = some i ∧ k ∉ part.taken) :
    op.release positions = { op with formed := [] } := by
  obtain ⟨k, hk, home, left⟩ := untaken
  refine (AttnOp.release_single formed known).trans (if_neg (ne_true_of_eq_false (List.all_eq_false.2 ⟨k, hk, ?_⟩)))
  simp [home, left]

end

/-! ### Two partials merged (R232, R233) -/

theorem wave_onAttn (k id : Nat) (f : AttnOp → AttnOp) (s : State) :
    (onAttn k id f s).wave k = { s.wave k with attn := (s.wave k).attn.map (fun op => if op.seq == id then f op else op) } :=
  (State.wave_setWave ..).trans (if_pos rfl)

/-- An operation replaced is the only one of its sequence number. -/
theorem eq_of_mem_onAttn {k id : Nat} {op o : AttnOp} {s : State}
    (mem : o ∈ ((onAttn k id (fun _ => op) s).wave k).attn) (same : o.seq = id) : o = op := by
  rw [wave_onAttn] at mem
  obtain ⟨o', -, rfl⟩ := List.mem_map.1 mem
  by_cases h : o'.seq = id
  · simp [h]
  · simp [h] at same

/-- Of two partials one is left: the network takes them in one order or the other. -/
theorem mergePair_two (free : Nat) (a b : List Triple) :
    mergePair free [a, b] = [(a.zip b).map (fun x => mergeTriples x.1 x.2)] ∨
      mergePair free [a, b] = [(b.zip a).map (fun x => mergeTriples x.1 x.2)] := by
  obtain first | second := Nat.mod_two_eq_zero_or_one (Config.freePick free)
  · left; simp [mergePair, first, Nat.mod_one]
  · right; simp [mergePair, second, Nat.mod_one]

section
variable {s : State} {k id : Nat} {op : AttnOp}
  (found : (s.wave k).attn.find? (fun op => op.seq == id && (s.wave k).station != .saved) = some op)
include found

theorem exec_partialMerge_last (last : op.partials.length ≤ 1) (whole : op.whole = true) :
    exec (.partialMerge k id) s = .next (completeAttn k op s) := by
  change execPartialMerge k id s = _
  simp [execPartialMerge, found, last, whole]

theorem exec_partialMerge_pair (two : 1 < op.partials.length) :
    let op' := { op with partials := mergePair s.free op.partials }
    let s' := onAttn k id (fun _ => op') { s with free := s.free + 2 }
    exec (.partialMerge k id) s = .next (if op'.whole then completeAttn k op' s' else s') := by
  change execPartialMerge k id s = _
  simp [execPartialMerge, found, Nat.not_le.2 two, apply_ite Host.Outcome.next]

/-- While some Whorl's partial is not in, a merge of the last two leaves one partial with the operation. -/
theorem exec_partialMerge_open {a b c : List Triple} (pair : op.partials = [a, b]) (few : op.whorls.length < 16)
    (merged : mergePair s.free [a, b] = [c]) :
    ∃ t, exec (.partialMerge k id) s = .next t ∧ (∀ o ∈ (t.wave k).attn, o.seq = id → o.partials = [c]) ∧ SameMemory s t := by
  have undone : ({ op with partials := [c] } : AttnOp).whole = false := by simp [AttnOp.whole, Nat.not_le.2 few]
  have runs := exec_partialMerge_pair found (by simp [pair])
  rw [pair, merged] at runs
  exact ⟨_, runs.trans (congrArg _ (if_neg (ne_true_of_eq_false undone))),
    fun o mem same => congrArg AttnOp.partials (eq_of_mem_onAttn mem same), fun _ => by rw [onAttn_mem]⟩

end

end Sys2Proof.Machine
end

section
/-! SUPPORT. The Carder: a round begins, runs on its buffer or stops, and a record goes to its registers (R238, R239). -/

namespace Sys2Proof.Machine

section
variable {s s' : State} {f : Nat} {op : CarderOp} {rest : List CarderOp} (head : carderQueue s f = op :: rest)
include head

theorem exec_carderRound_begins (round : op.round = true) (fresh : op.entry = []) :
    exec (.carderRound f) s = .next (if seqBusy s (seqSlot op.seqId) then s else startRound f op s) := by
  change execCarderRound f s = _
  simp [execCarderRound, head, round, fresh]

theorem exec_carderRound_runs (round : op.round = true) (begun : op.entry ≠ []) {buffer : List Nat}
    (placed : locsOf (engineWave s op.wave op.env op.samples) (.carder f) (ptrHandle op.ptr) .load (ptrOffset op.ptr)
      (16 * roundCount op.param0) s = (s', .ok buffer)) (clean : anyPoison s' buffer = false) :
    exec (.carderRound f) s = .next (runRound f op buffer s') := by
  change execCarderRound f s = _
  simp [execCarderRound, head, round, begun, placed, clean]

theorem exec_carderRecordRead_reads (record : op.round = false) (clear : guardOpen s op.wave op.seq = true) {locs : List Nat}
    (placed : locsOf (engineWave s op.wave op.env op.samples) (.carder f) (ptrHandle op.ptr) .load
      (ptrOffset op.ptr + 16 * (op.param0.extractLsb' 0 32).toNat) 144 s = (s', .ok locs)) (clean : anyPoison s' locs = false) :
    exec (.carderRecordRead f) s = .next ((popCarder f s').setWave op.wave { (popCarder f s').wave op.wave with
      producers := ((popCarder f s').wave op.wave).producers ++
        [⟨op.seq, 5, recordWrites op.d (wordsOf (engineRead s' op.env (ptrHandle op.ptr) locs)), regRange op.d 3, []⟩] }) := by
  change execCarderRecordRead f s = _
  simp [execCarderRecordRead, head, record, clear, placed, clean, -BitVec.extractLsb'_toNat]

end

theorem runRound_beyond {f : Nat} {op : CarderOp} {buffer : List Nat} {s : State}
    (beyond : ∃ c ∈ candidatesOf (roundCount op.param0) (engineRead s op.env (ptrHandle op.ptr) buffer), op.length ≤ c.position) :
    runRound f op buffer s = carderStop f op Cause.bounds 0 0 s := by
  obtain ⟨c, mem, past⟩ := beyond
  refine if_pos (Bool.or_eq_true_iff.2 (.inl (List.any_eq_true.2 ⟨c.position, List.mem_map.2 ⟨c, mem, rfl⟩, ?_⟩)))
  exact decide_eq_true past

end Sys2Proof.Machine
end

section

namespace Sys2Proof.Machine

open Sys2Proof.Safety

/-- Settles O40, by the equations of each engine's steps. -/
theorem engineSteps : Obligations.EngineSteps := by
  unfold Obligations.EngineSteps
  refine ⟨?start, ?copy, ?land, ?index, fun s core c stale => runCommand_stale stale core s, ?matrix, ?complete, ?form,
    AttnOp.find_form, ?release, fun s k id op found => ⟨exec_partialMerge_last found, exec_partialMerge_pair found⟩, ?merge, ?round, ?record⟩
  case start =>
    intro s s' core c rest xs head clear
    exact ⟨exec_spindleCommandStart_move head clear, exec_spindleCommandStart_started head clear, exec_spindleCommandStart_samples head clear⟩
  case copy =>
    intro s s' core c pairs fresh known mapped source destination unsent unread
    rw [runCommand_copies fresh known]
    exact ⟨runCopy_asks mapped source destination unsent unread, runCopy_lands mapped source destination unsent unread⟩
  case land =>
    intro s s' core c pairs bs made written
    exact landCopy_writes written
  case index =>
    intro s s' core c locs fresh indexed unread here placed s1 width xs clean
    exact runCommand_reads fresh indexed unread here (readIndex_clean placed clean)
  case matrix =>
    intro s q rows k op members idle
    exact ⟨fun picked => ⟨exec_matrixOperationStart_runs idle picked rows, fun clears => startHead_mstz clears k members rows s⟩,
      fun picked => exec_matrixOperationStart_fails idle picked rows⟩
  case complete =>
    intro s q
    refine ⟨_, exec_matrixOperationComplete q s, ?_, fun _ => rfl⟩
    rintro rfl op rest head started
    rw [State.mapWaves_w, Wave.completeMatrix_started head started]
    exact ⟨rfl, rfl, fun product => if_pos product⟩
  case form =>
    intro s s1 s2 k id i op h bs n entries excluded homes absent found clear missing known window read d x layer head s' valid layerIn headIn gathered
    exact exec_whorlPartial_forms found clear missing known window read valid layerIn headIn gathered
  case release =>
    intro op positions i part formed
    refine ⟨AttnOp.release_waits, fun known => ⟨?_, fun whole => ?_, fun untaken => ?_⟩⟩
    · rw [AttnOp.release_single formed known]
      split <;> rfl
    · simp [AttnOp.release_whole formed known whole]
    · simp [AttnOp.release_partial formed known untaken]
  case merge =>
    intro s k id op a b found pair few
    obtain first | second := mergePair_two s.free a b
    · obtain ⟨t, runs, left, same⟩ := exec_partialMerge_open found pair few first
      exact ⟨t, _, runs, left, .inl rfl, same⟩
    · obtain ⟨t, runs, left, same⟩ := exec_partialMerge_open found pair few second
      exact ⟨t, _, runs, left, .inr rfl, same⟩
  case round =>
    intro s s' f op rest buffer head round
    refine ⟨fun fresh idle => ?_, fun fresh busy => ?_, fun begun placed clean => ?_⟩
    · exact (exec_carderRound_begins head round fresh).trans (congrArg _ (if_neg (ne_true_of_eq_false idle)))
    · exact (exec_carderRound_begins head round fresh).trans (congrArg _ (if_pos busy))
    · have runs := exec_carderRound_runs head round begun placed clean
      exact ⟨runs, fun beyond => runs.trans (congrArg _ (runRound_beyond beyond))⟩
  case record =>
    intro s s' f op rest locs head record clear placed clean
    refine ⟨_, exec_carderRecordRead_reads head record clear placed clean, ?_, ?_⟩
    · rw [State.wave_setWave, if_pos rfl]
    · rw [State.setWave_mem, popCarder_mem]

end Sys2Proof.Machine
end

section
/-! SUPPORT. DMCLR inside a transaction: its reduction joins the write set, and none of the wave's accesses (R134, R240). -/

namespace Sys2Proof.Machine

open Sys2Proof.Safety

/-! ### Writes inside a transaction -/

/-- A write inside a transaction is none of the wave's accesses. -/
theorem addAccess_accesses_of_txn {x : Access} {s : State} {tx : Txn} (writes : x.op.writes = true) (inside : s.w.txn = some tx) :
    (addAccess x s).w.accesses = s.w.accesses := by
  unfold addAccess
  simp [inside, writes]

/-- A word done makes no access. -/
theorem finish_accesses_nil (u : Use) {s : State} (empty : s.w.accesses = []) : (finish u s).w.accesses = [] := by
  have sealed (w : Wave) (logged : Nat) (h : w.accesses = []) : ((w.logWrites logged).seal logged).accesses = [] := by
    simp [Wave.seal, Wave.logWrites, h, changeLast]
  have advanced (s : State) (h : s.w.accesses = []) : (advance u.words u.logged s).w.accesses = [] := by
    unfold advance
    dsimp only
    split
    · exact sealed _ _ h
    · rw [State.boundary_w_accesses]
      exact sealed _ _ h
  refine advanced _ ((blurWrites_w_accesses u _).trans ?_)
  split
  · exact empty
  · simp [Wave.fillPortStores, empty]

/-! ### DMCLR (R240) -/

/-- What DMCLR asks. -/
def dmclrUse (d a b : BitVec 7) (ea eb ed : Bool) : Use :=
  { words := 2, path := some 1, srcS := [(d.toNat, ed), (a.toNat, ea), (b.toNat, eb)] }

/-- The reduction that DMCLR makes of some words' places. -/
def dmclrAccess (g : BitVec 5) (places : List Place) (s : State) : Access :=
  makeAccess s 1 plainHandle noHandle false (.reduce 5) (places.map (fun q => (⟨q.thread, q.va, q.locs,
    bytesOfNat (~~~(1#32 <<< g.toNat)).toNat 4, [], [], []⟩ : Elem)))

/-- DMCLR of some positions whose words' places are translated makes its reduction. -/
theorem exec_dmclr_reduces {s s' : State} {d a b : BitVec 7} {ea eb ed : Bool} (g : BitVec 5) {places : List Place}
    (issues : Issues (dmclrUse d a b ea eb ed) s s) :
    let id := (s.sreg a.toNat).setWidth 32
    let p := ((s.sreg b.toNat).extractLsb' 0 32).toNat
    let is := (List.range 64).filter (fun i => p + i < seqLength s (seqSlot id) && (s.sreg d.toNat).getLsbD i)
    owns s s.w.env.tag id = true → p % 64 = 0 → is ≠ [] → refusedOf s s.w.core < 64 →
    placeAll (.core s.w.core) s.w.env.tag Access.atom 4 (fun o => seqDirty s (seqSlot id) + BitVec.ofNat 64 o)
      (is.map (fun i => (i, 4 * (p + i)))) s = (s', places, []) →
    (addAccess (dmclrAccess g places s') (raiseCount 1 s')).w.overCapacity = false →
    exec (.dmclr d a b ea eb ed g) s = .next (finish (dmclrUse d a b ea eb ed)
      ((nearTouched (dmclrAccess g places s') (addAccess (dmclrAccess g places s') (raiseCount 1 s'))).onArch (fun r => r.emptySs []))) := by
  intro id p is owned aligned chosen room placed fits
  have reached : ¬ is.isEmpty = true := by simpa using chosen
  have unit : ¬ (decide (64 ≤ refusedOf s s.w.core) || (!(AccessOp.reduce 5).writes && s.w.writePending)) = true := by simp [AccessOp.writes, room]
  change execDmclr d a b ea eb ed g s = _
  unfold execDmclr dirtyWord
  refine (issue_go issues _).trans ?_
  dsimp only
  rw [owned, if_neg (by simp), if_neg (not_not.2 aligned), if_neg reached, if_neg unit]
  simp only [AccessOp.writes, if_true]
  rw [placed]
  exact if_neg (ne_true_of_eq_false fits)

/-- Inside a transaction it leaves a wave without accesses as it was. -/
theorem dmclr_accesses_of_txn (u : Use) {g : BitVec 5} {places : List Place} {s : State} {tx : Txn} (inside : s.w.txn = some tx)
    (empty : s.w.accesses = []) :
    (finish u ((nearTouched (dmclrAccess g places s) (addAccess (dmclrAccess g places s) (raiseCount 1 s))).onArch
      (fun r => r.emptySs []))).w.accesses = [] := by
  apply finish_accesses_nil
  rw [State.onArch_w]
  change (nearTouched _ _).w.accesses = []
  rw [nearTouched_accesses, addAccess_accesses_of_txn (s := raiseCount 1 s) rfl inside, raiseCount_w]
  exact empty

/-! ### A wave in a transaction -/

/-- The placed wave in a transaction of its threads, s1 with bit 0 set, and, at the table's slot 0, a sequence of context 0 with 64 tokens
and its dirty map in the mapped page. -/
def clearingState : State :=
  let s := placeInstruction 0 State.reset
  let entry : List W64 := [0x8000000000000040, 0, 0, 0x12000]
  { s with
    seqTable := 0x1000000
    mem := writeBytes s.mem 0x1000000 (entry.flatMap (fun x => bytesOfNat x.toNat 8))
    w := { s.w with
      a := { s.w.a with s := [(1, 1)] }
      txn := some { threads := fullMask 16, sole := false, sd := 2, snap := s.w.a, seq := 0, reads := [], accs := [], log := 0,
                    faulted := false, mode := 0 } } }

/-- The word of the dirty map at position 0. -/
def clearingPlace : Place := ⟨0, 0x12000, (List.range 4).map (0x12000 + ·)⟩

/-- DMCLR of the bits s1 chooses, of the sequence and the position that s0 gives, issues there. -/
theorem clearingState_issues : Issues (dmclrUse 1 0 0 true true true) clearingState clearingState where
  legal := by decide +kernel
  privileged := by decide +kernel
  declared := by decide +kernel
  bound := by decide +kernel
  sources := by decide +kernel
  destinations := by decide +kernel
  revocable := by decide +kernel
  command := by decide +kernel
  cautious := by decide +kernel
  counter := by rintro p ⟨⟩; decide +kernel
  log := ⟨by decide +kernel, by rintro x ⟨⟩; decide +kernel⟩
  queue := by decide +kernel
  ports := rfl
  capacity := by decide +kernel
  copies := by decide +kernel

/-- The positions that it reaches. -/
def clearingPositions : List Nat :=
  (List.range 64).filter (fun i => ((clearingState.sreg 0).extractLsb' 0 32).toNat + i <
    seqLength clearingState (seqSlot ((clearingState.sreg 0).setWidth 32)) && (clearingState.sreg 1).getLsbD i)

/-- Position 0 alone is chosen. -/
theorem clearingPositions_eq : clearingPositions = [0] := by decide +kernel

/-- Its word's place is translated by the wave's translation cache. -/
theorem clearingState_placed : placeAll (.core 0) 0 Access.atom 4 (fun o => seqDirty clearingState 0 + BitVec.ofNat 64 o)
    (clearingPositions.map (fun i => (i, 4 * (((clearingState.sreg 0).extractLsb' 0 32).toNat + i)))) clearingState =
      (clearingState, [clearingPlace], []) := by
  rw [clearingPositions_eq]
  rfl

/-- Refutes O33: DMCLR inside a transaction. Its hypotheses do not keep the wave out of one, and there the reduction joins the transaction's
write set (R134): the wave, which had no access, has none after it, so no youngest access is the reduction. -/
theorem not_attentionWords : ¬ Obligations.AttentionWords := by
  unfold Obligations.AttentionWords
  intro ⟨_, _, _, _, _, clears⟩
  have owned : owns clearingState 0 ((clearingState.sreg 0).setWidth 32) = true := by decide +kernel
  have aligned : ((clearingState.sreg 0).extractLsb' 0 32).toNat % 64 = 0 := by decide +kernel
  have chosen : clearingPositions ≠ [] := clearingPositions_eq ▸ List.cons_ne_nil 0 []
  have room : refusedOf clearingState 0 < 64 := by decide +kernel
  have fits : (addAccess (dmclrAccess 0 [clearingPlace] clearingState) (raiseCount 1 clearingState)).w.overCapacity = false := by
    decide +kernel
  obtain ⟨_, reduces⟩ := clears clearingState 1 0 0 true true true 0 clearingState_issues owned aligned
  obtain ⟨t, x, runs, last, _⟩ := reduces chosen room clearingState [clearingPlace] clearingState_placed fits
  have acts := exec_dmclr_reduces 0 clearingState_issues owned aligned chosen room clearingState_placed fits
  obtain rfl := Host.Outcome.next.inj (acts.symm.trans runs)
  rw [dmclr_accesses_of_txn _ rfl rfl] at last
  cases last

end Sys2Proof.Machine
end

section
/-! SUPPORT. The Distaff's read may write memory: it checks the sectors it reads, and a clean one in error asks for its slot to be quarantined,
of which a full list of slots tells the host by an event (R308, R311, R333). -/

namespace Sys2Proof.Machine

open Sys2Proof.Safety

/-- SEQRD's request for word 0 of the entry of slot 0. -/
def entryRequest : DistaffReq := ⟨0, 0, false, 5, 0, 0, 0, 0, Arch.zero⟩

/-- The crowded Whorl's device with a live wave, the request it has made, and the sequence table at address 0 in its mapped page: the table's
first sector is the clean one in error. -/
def crowdedAsking : State :=
  { crowdedState with w := placedWave 0, tlb := [⟨.core 0, 0, false, 0, 0x6d⟩], distaff := [entryRequest] }

/-- What the request reads. -/
def entryPart : Elem := ⟨64, 0, List.range 8, [], [], [], []⟩

theorem crowdedAsking_words : distaffWords (crowdedAsking.wave 0) entryRequest crowdedAsking = (crowdedAsking, .ok [0] [entryPart]) := rfl

/-- The sector in error is fetched again, so the read meets no poison. -/
theorem crowdedAsking_clean : poisonVa (checkLocs ([entryPart].flatMap (·.locs))
    { crowdedAsking with distaff := crowdedAsking.distaff.erase entryRequest }) (fun _ _ => false) [entryPart] = none := by
  decide +kernel

/-- The read posts an event of kind 3: its first byte stands in the ring. -/
theorem distaffRead_crowded_posts {t : State} (runs : exec (.distaffRead 0) crowdedAsking = .next t) :
    readByte t.mem (hostPhysLoc 64) = 3 := by
  obtain rfl : _ = t := Host.Outcome.next.inj runs
  rfl

/-- Refutes O34: DISTAFF_READ need not leave memory. The sector it reads is checked; the error found in a clean copy there asks for the copy's
slot to be quarantined, the list of quarantined slots is full, and the event that tells so is written to the host's event ring. -/
theorem not_sequenceWords : ¬ Obligations.SequenceWords := by
  unfold Obligations.SequenceWords
  intro ⟨_, _, _, read⟩
  obtain ⟨t, runs, _, same, _⟩ := read crowdedAsking crowdedAsking 0 entryRequest [0] [entryPart] rfl rfl crowdedAsking_words crowdedAsking_clean
  have posted : readByte t.mem (hostPhysLoc 64) = 3 := distaffRead_crowded_posts runs
  have kept : readByte t.mem (hostPhysLoc 64) = 0 := same (hostPhysLoc 64)
  exact absurd (posted.symm.trans kept) (by decide)

end Sys2Proof.Machine
end

section
/-! SUPPORT. The mailbox and the writes of its registers: a command that is busy, and each command's own work (R261, R262, R289, R299, R307,
R329 to R338). -/

namespace Sys2Proof.Machine

open Sys2Proof.Safety

/-! ### Commands (R332) -/

/-- A command that is not the one under way changes nothing. -/
theorem command_idle {code : BitVec 8} (effect : State → State) {s : State} (idle : s.mgmt.mbstat ≠ 1 ∨ s.mgmt.mbcmd ≠ code) :
    command code effect s = .next s := by
  have other : ¬ (decide (s.mgmt.mbstat = 1#2) && s.mgmt.mbcmd == code) = true := by simpa [Classical.or_iff_not_imp_left] using idle
  exact if_neg other

/-- The command under way does its work. -/
theorem command_busy {code : BitVec 8} (effect : State → State) {s : State} (busy : s.mgmt.mbstat = 1) (asked : s.mgmt.mbcmd = code) :
    command code effect s = .next (effect s) := by
  have same : (decide (s.mgmt.mbstat = 1#2) && s.mgmt.mbcmd == code) = true := by simpa [asked] using busy
  exact if_pos same

/-- Each command of the mailbox is `command` of its code. -/
theorem exec_command_idle {s : State} : ∀ p ∈ [(Instr.identify, 0x01#8), (.fwload, 0x02), (.rollfwd, 0x03), (.evring, 0x08), (.ctxwrite, 0x10),
      (.partset, 0x11), (.wstat, 0x20), (.retlist, 0x21), (.islcap, 0x30), (.skroute, 0x31), (.reset, 0x40)],
    s.mgmt.mbstat ≠ 1 ∨ s.mgmt.mbcmd ≠ p.2 → exec p.1 s = .next s := by
  intro p member idle
  simp only [List.mem_cons, List.not_mem_nil, or_false] at member
  rcases member with rfl | rfl | rfl | rfl | rfl | rfl | rfl | rfl | rfl | rfl | rfl
  exacts [(command_idle _ idle : execIdentify s = _), (command_idle _ idle : execFwload s = _), (command_idle _ idle : execRollfwd s = _),
    (command_idle _ idle : execEvring s = _), (command_idle _ idle : execCtxwrite s = _), (command_idle _ idle : execPartset s = _),
    (command_idle _ idle : execWstat s = _), (command_idle _ idle : execRetlist s = _), (command_idle _ idle : execIslcap s = _),
    (command_idle _ idle : execSkroute s = _), (command_idle _ idle : execReset s = _)]

/-! ### Firmware (R338) -/

/-- FWLOAD of an image whose signature or digest fails, and of one below the rollback counter, sets an error; one accepted runs. -/
theorem exec_fwload {s : State} (busy : s.mgmt.mbstat = 1) (asked : s.mgmt.mbcmd = 0x02) :
    let image := hostBytes s (s.mgmt.arg 0) (s.mgmt.arg 1).toNat
    (Config.firmwareVerifies image = false →
      ∃ t, exec .fwload s = .next t ∧ t.mgmt.mbstat = 2 ∧ t.mgmt.error = 1 ∧ SameMemory s t) ∧
    (Config.firmwareVerifies image = true → (Config.firmwareIndex image).toNat < s.mgmt.rollback.toNat →
      ∃ t, exec .fwload s = .next t ∧ t.mgmt.mbstat = 2 ∧ t.mgmt.error = 2 ∧ SameMemory s t) ∧
    (Config.firmwareVerifies image = true → s.mgmt.rollback.toNat ≤ (Config.firmwareIndex image).toNat →
      ∃ t, exec .fwload s = .next t ∧ t.mgmt.mbstat = 2 ∧ t.mgmt.imgIndex = Config.firmwareIndex image ∧ SameMemory s t) := by
  intro image
  have runs : execFwload s = _ := command_busy _ busy asked
  refine ⟨fun fails => ?unverified, fun verifies below => ?old, fun verifies above => ?accepted⟩
  case unverified =>
    exact ⟨_, runs.trans (congrArg _ (if_pos (by simpa using fails))), rfl, rfl, fun _ => rfl⟩
  case old =>
    exact ⟨_, runs.trans (congrArg _ ((if_neg (by simpa using verifies)).trans (if_pos below))), rfl, rfl, fun _ => rfl⟩
  case accepted =>
    exact ⟨_, runs.trans (congrArg _ ((if_neg (by simpa using verifies)).trans (if_neg (Nat.not_lt.2 above)))), rfl, rfl, fun _ => rfl⟩

/-- ROLLFWD raises the rollback counter to the running image's index. -/
theorem exec_rollfwd {s : State} (busy : s.mgmt.mbstat = 1) (asked : s.mgmt.mbcmd = 0x03) : ∃ t, exec .rollfwd s = .next t ∧
    t.mgmt.mbstat = 2 ∧ t.mgmt.rollback.toNat = max s.mgmt.rollback.toNat s.mgmt.imgIndex.toNat ∧ SameMemory s t := by
  refine ⟨_, (command_busy _ busy asked : execRollfwd s = _), rfl, ?_, fun _ => rfl⟩
  change (if s.mgmt.rollback.toNat < s.mgmt.imgIndex.toNat then s.mgmt.imgIndex else s.mgmt.rollback).toNat = _
  split <;> omega

/-! ### Contexts and partitions (R261, R262, R299) -/

/-- CTXWRITE writes the entry and, by its valid bit and what the entry had active, makes a context active, is refused, or begins a
deactivation. -/
theorem exec_ctxwrite {s : State} (busy : s.mgmt.mbstat = 1) (asked : s.mgmt.mbcmd = 0x10) :
    let entry := (s.mgmt.arg 0).toNat % 64
    let words := doublesOf (hostBytes s (s.mgmt.arg 1) 256)
    let tag := (words.getD 0 0).extractLsb' 48 8
    let written := homeWords none (hbmLoc (Config.contextTable.toNat + 256 * entry)) words s
    (activeEntry s entry = none → (words.getD 0 0).msb = true → (s.context tag).active = false →
      ∃ t, exec .ctxwrite s = .next t ∧ t.mgmt.mbstat = 2 ∧
        t.context tag = { Context.none with entry := entry, words := words, active := true }) ∧
    (activeEntry s entry = none → (words.getD 0 0).msb = true → (s.context tag).active = true →
      exec .ctxwrite s = .next (commandRefused 0x04 s)) ∧
    (activeEntry s entry = none → (words.getD 0 0).msb = false → exec .ctxwrite s = .next (commandDone written)) ∧
    (∀ old, activeEntry s entry = some old → (words.getD 0 0).msb = true → exec .ctxwrite s = .next (commandDone written)) ∧
    (∀ old, activeEntry s entry = some old → (words.getD 0 0).msb = false → exec .ctxwrite s = .next
      (closeContext old (homeWords none (hbmLoc (Config.contextTable.toNat + 256 * entry)) words) s)) := by
  intro entry words tag written
  refine ⟨fun free valid inactive => ?activates, fun free valid active => ?refused, fun free invalid => ?written, fun old held valid => ?ignored,
    fun old held invalid => ?closes⟩
  all_goals simp only [entry, words, tag, written] at *
  case activates =>
    refine ⟨_, (command_busy _ busy asked : execCtxwrite s = _), ?_⟩
    simp only [free, valid, inactive]
    exact ⟨rfl, (look_ins _ _ _ _ _).trans (if_pos rfl)⟩
  case refused =>
    refine (command_busy _ busy asked : execCtxwrite s = _).trans ?_
    simp only [free, valid, active]
    rfl
  case written =>
    refine (command_busy _ busy asked : execCtxwrite s = _).trans ?_
    simp only [free, invalid]
    rfl
  case ignored =>
    refine (command_busy _ busy asked : execCtxwrite s = _).trans ?_
    simp only [held, valid]
    rfl
  case closes =>
    refine (command_busy _ busy asked : execCtxwrite s = _).trans ?_
    simp only [held, invalid]
    rfl

/-- PARTSET is refused while a context is active, and else sets the partitions of its bytes. -/
theorem exec_partset {s : State} (busy : s.mgmt.mbstat = 1) (asked : s.mgmt.mbcmd = 0x11) :
    ((∃ e ∈ s.contexts, e.2.active = true) → ∃ t, exec .partset s = .next t ∧ t.mgmt.mbstat = 3 ∧
      t.mgmt.mbcode = s.mgmt.mbcode ||| 0x03 ∧ t.mgmt.parts = s.mgmt.parts) ∧
    ((∀ e ∈ s.contexts, e.2.active = false) → ∃ t, exec .partset s = .next t ∧ t.mgmt.mbstat = 2 ∧
      t.mgmt.parts = (List.range 8).filterMap (fun i =>
        (partOf ((s.mgmt.arg 0).extractLsb' (8 * i) 8).toNat).map (fun p => (i, p)))) := by
  have runs : execPartset s = _ := command_busy _ busy asked
  refine ⟨fun active => ?_, fun inactive => ?_⟩
  · exact ⟨_, runs.trans (congrArg _ (if_pos (List.any_eq_true.2 active))), rfl, rfl, rfl⟩
  · exact ⟨_, runs.trans (congrArg _ (if_neg (by simpa using inactive))), rfl, rfl⟩

/-! ### Power and routes (R332, R335, R336) -/

/-- ISLCAP sets a class's cap and the power limit, and is refused where the class is reserved or the limit out of range. -/
theorem exec_islcap {s : State} (busy : s.mgmt.mbstat = 1) (asked : s.mgmt.mbcmd = 0x30) :
    let cls := (s.mgmt.arg 0).toNat % 16
    let cap := ((s.mgmt.arg 0).extractLsb' 16 16).toNat
    let watts := ((s.mgmt.arg 1).extractLsb' 0 16).toNat
    ((cls ≤ 4 ∨ cls = 15) → (watts = 0 ∨ (1600 ≤ watts ∧ watts ≤ 3200)) → ∃ t, exec .islcap s = .next t ∧ t.mgmt.mbstat = 2 ∧
      t.mgmt.powerCap = (if watts = 0 then s.mgmt.powerCap else watts) ∧
      t.mgmt.caps = (if cls = 15 then s.mgmt.caps else if cap = 0 then erase s.mgmt.caps cls
        else ins s.mgmt.caps cls (max cap (islandFloor cls / 2)))) ∧
    ((4 < cls ∧ cls ≠ 15) ∨ (watts ≠ 0 ∧ (watts < 1600 ∨ 3200 < watts)) → exec .islcap s = .next (commandRefused 0x04 s)) := by
  intro cls cap watts
  have runs : execIslcap s = _ := command_busy _ busy asked
  have test : ((decide (4 < cls) && cls != 15) || (watts != 0 && (decide (watts < 1600) || decide (3200 < watts)))) = true ↔
      (4 < cls ∧ cls ≠ 15) ∨ (watts ≠ 0 ∧ (watts < 1600 ∨ 3200 < watts)) := by simp
  refine ⟨fun class_ok limit_ok => ?_, fun bad => ?_⟩
  · exact ⟨_, runs.trans (congrArg _ (if_neg (fun h => by have := test.1 h; omega))), rfl, rfl, rfl⟩
  · exact runs.trans (congrArg _ (if_pos (test.2 bad)))

/-- SKROUTE sets the ports of a node. -/
theorem exec_skroute {s : State} (busy : s.mgmt.mbstat = 1) (asked : s.mgmt.mbcmd = 0x31) : ∃ t, exec .skroute s = .next t ∧
    t.mgmt.mbstat = 2 ∧ look 0 t.mgmt.routes ((s.mgmt.arg 0).extractLsb' 0 16).toNat = (s.mgmt.arg 0).extractLsb' 16 16 :=
  ⟨_, (command_busy _ busy asked : execSkroute s = _), rfl, look_put_same _ _ _ _⟩

/-! ### Writes of registers (R329, R332) -/

/-- A write of mbcmd with the code of CTXWRITE: refused before the stage that accepts it, else CTXWRITE is busy and comes next. -/
theorem startCommand_ctxwrite {code : Nat} {s : State} (free : s.mgmt.mbstat ≠ 1) (hc : code = 0x10) :
    (s.accepts 6 = false → (startCommand code s).mgmt.mbstat = 3 ∧ (startCommand code s).mgmt.mbcode = 0x02 ∧
      (startCommand code s).agenda = s.agenda) ∧
    (s.accepts 6 = true → (startCommand code s).mgmt.mbstat = 1 ∧ (startCommand code s).mgmt.mbcmd = 0x10 ∧
      (startCommand code s).agenda = s.agenda ++ [Instr.ctxwrite]) := by
  subst hc
  refine ⟨fun early => ?_, fun accepted => ?_⟩
  · have refused : startCommand 0x10 s = commandRefused 0x02 (onMgmt (fun m => { m with mbcode := 0, results := [0, 0, 0, 0] }) s) :=
      (if_neg free).trans (if_pos (congrArg not early))
    rw [refused]
    exact ⟨rfl, (BitVec.zero_or : 0#8 ||| 0x02#8 = _), rfl⟩
  · have started : startCommand 0x10 s = { s with
        mgmt := { s.mgmt with mbcode := 0, results := [0, 0, 0, 0], mbstat := 1, mbcmd := 0x10 }, agenda := s.agenda ++ [Instr.ctxwrite] } :=
      (if_neg free).trans (if_neg (ne_true_of_eq_false (congrArg not accepted)))
    rw [started]
    exact ⟨rfl, rfl, rfl⟩

/-- A write of an argument register sets that argument. -/
theorem exec_registerWrite_arg {s : State} {i : Nat} (value : BitVec 64) (hi : i < 4) (held : i < s.mgmt.args.length) :
    ∃ t, exec (.registerWrite (0x108 + 8 * i) value) s = .next t ∧ t.mgmt.arg i = value ∧ SameMemory s t := by
  have sets : exec (.registerWrite (0x108 + 8 * i) value) s = .next (onMgmt (fun m => { m with args := m.args.set i value }) s) := by
    interval_cases i <;> rfl
  refine ⟨_, sets, ?_, fun _ => rfl⟩
  change (s.mgmt.args.set i value).getD i 0 = value
  simp [held]

/-- Settles O47: each command by its own law, each register's write by its offset. -/
theorem mailbox : Obligations.Mailbox := by
  unfold Obligations.Mailbox
  refine ⟨fun s => exec_command_idle, fun s busy => ⟨fun asked => ?identify, exec_fwload busy, exec_rollfwd busy, fun asked => ?evring,
      exec_ctxwrite busy, exec_partset busy, fun asked => (command_busy _ busy asked : execWstat s = _),
      fun asked => (command_busy _ busy asked : execRetlist s = _), exec_islcap busy, exec_skroute busy,
      fun asked => (command_busy _ busy asked : execReset s = _)⟩,
    fun s value => ⟨fun free code early => ?refused, fun free code accepted => ?started,
      fun i hi held => exec_registerWrite_arg value hi held, rfl, rfl, rfl, rfl, rfl⟩⟩
  case identify => exact ⟨_, (command_busy _ busy asked : execIdentify s = _), rfl, rfl, rfl, fun _ => rfl⟩
  case evring => exact ⟨_, (command_busy _ busy asked : execEvring s = _), rfl, rfl, rfl, fun _ => rfl⟩
  case refused => exact ⟨_, rfl, (startCommand_ctxwrite free code).1 early⟩
  case started => exact ⟨_, rfl, (startCommand_ctxwrite free code).2 accepted⟩

end Sys2Proof.Machine
end

section
/-! SUPPORT. Doorbell writes of a context, and the guards they arm and resolve (R265, R273, R276, R278, R279, R330). -/

namespace Sys2Proof.Machine

open Sys2Proof.Safety

/-! ### Tables with an entry changed -/

theorem find_change {α : Type} (f : α → α) (m : SMap α) (i : Nat) : find (change f m i) i = (find m i).map f := by
  induction m with
  | nil => rfl
  | cons e m ih =>
    obtain ⟨k, x⟩ := e
    by_cases here : k = i <;> simp [change, find, here, ih]

theorem look_eq_getD_find {α : Type} (d : α) (m : SMap α) (i : Nat) : look d m i = (find m i).getD d := by
  induction m with
  | nil => rfl
  | cons e m ih =>
    obtain ⟨k, x⟩ := e
    by_cases here : k = i <;> simp [look, find, here, ih]

/-- An entry that does not read as the default is listed, and reads as it has been changed to. -/
theorem look_change {α : Type} {d : α} (f : α → α) {m : SMap α} {i : Nat} (listed : look d m i ≠ d) :
    look d (change f m i) i = f (look d m i) := by
  rw [look_eq_getD_find] at listed
  rw [look_eq_getD_find, look_eq_getD_find, find_change]
  cases held : find m i with
  | none => simp [held] at listed
  | some x => rfl

/-! ### A context changed -/

/-- A context in which some field is not that of no context stands in the table. -/
theorem State.context_ne_none {γ : Type} (field : Context → γ) {s : State} {tag : BitVec 8}
    (other : field (s.context tag) ≠ field Context.none) : s.context tag ≠ Context.none :=
  fun same => other (congrArg field same)

/-- A context that stands in the table reads as it has been changed to. -/
theorem onContext_context {s : State} {tag : BitVec 8} (f : Context → Context) (listed : s.context tag ≠ Context.none) :
    (onContext tag f s).context tag = f (s.context tag) := look_change f listed

theorem onDistaff_distaffOf {s : State} {tag : BitVec 8} (f : Distaff → Distaff) (listed : s.context tag ≠ Context.none) :
    (onDistaff tag f s).distaffOf tag = f (s.distaffOf tag) :=
  congrArg Context.distaff (onContext_context (fun c => { c with distaff := f c.distaff }) listed)

theorem State.active_ne_none {s : State} {tag : BitVec 8} (active : (s.context tag).active = true) : s.context tag ≠ Context.none :=
  State.context_ne_none Context.active (by rw [active]; decide)

/-! ### Doorbells (R330) -/

/-- Before S3 a doorbell write only leaves its mark. -/
theorem doorbell_dropped {tag : BitVec 8} {effect : State → State} {s : State} (early : s.accepts 4 = false) :
    doorbell tag effect s = .next { s with mgmt := { s.mgmt with dropped := true } } := if_pos (by simpa using early)

/-- For a context that is not active a doorbell write has no effect. -/
theorem doorbell_inactive {tag : BitVec 8} {effect : State → State} {s : State} (accepted : s.accepts 4 = true)
    (inactive : (s.context tag).active = false) : doorbell tag effect s = .next s :=
  (if_neg (by simpa using accepted)).trans (if_pos (by simpa using inactive))

/-- From S3 on a doorbell write of an active context has its effect. -/
theorem doorbell_active {tag : BitVec 8} {effect : State → State} {s : State} (accepted : s.accepts 4 = true)
    (active : (s.context tag).active = true) : doorbell tag effect s = .next (effect s) :=
  (if_neg (by simpa using accepted)).trans (if_neg (by simpa using active))

/-- Each doorbell is `doorbell` of its effect. -/
theorem exec_doorbell (tag slot : BitVec 8) (level : Nat) (value : BitVec 32) (b : Bool) :
    ∀ i ∈ [Instr.lqtail tag level value, .grdarm tag slot, .grdsetDoorbell tag slot b, .admtail tag value, .cplhead tag value, .cancel tag value],
      ∃ effect, ∀ s, exec i s = doorbell tag effect s := by
  intro i member
  simp only [List.mem_cons, List.not_mem_nil, or_false] at member
  rcases member with rfl | rfl | rfl | rfl | rfl | rfl <;> exact ⟨_, fun s => rfl⟩

/-! ### Launch queues (R265) -/

/-- LQTAIL of a tail moved on by no more than the ring sets it. -/
theorem exec_lqtail_within {s : State} {tag : BitVec 8} {level : Nat} {value : BitVec 32} (accepted : s.accepts 4 = true)
    (active : (s.context tag).active = true) (queue : level < 16)
    (within : (value - look 0 (s.context tag).lqtail level).toNat ≤ 2 ^ (((s.context tag).word 0).extractLsb' 0 4).toNat) :
    exec (.lqtail tag level value) s = .next (onContext tag (fun c => { c with lqtail := put 0 c.lqtail level value }) s) :=
  (doorbell_active accepted active : execLqtail tag level value s = _).trans
    (congrArg _ ((if_neg (Nat.not_le.2 queue)).trans (if_neg (Nat.not_lt.2 within))))

/-- LQTAIL of a tail moved on by more than the ring posts a record and ends the context. -/
theorem exec_lqtail_beyond {s : State} {tag : BitVec 8} {level : Nat} {value : BitVec 32} (accepted : s.accepts 4 = true)
    (active : (s.context tag).active = true) (queue : level < 16)
    (beyond : 2 ^ (((s.context tag).word 0).extractLsb' 0 4).toNat < (value - look 0 (s.context tag).lqtail level).toNat) :
    exec (.lqtail tag level value) s = .next (terminateContext tag Cause.illegal (fun _ => none)
      (postTerminating tag [faultWord0 Cause.illegal 7 0 false false tag 0, 0, 0, 0] 0 0 s)) :=
  (doorbell_active accepted active : execLqtail tag level value s = _).trans
    (congrArg _ ((if_neg (Nat.not_le.2 queue)).trans (if_pos beyond)))

/-! ### Guards (R273, R274) -/

/-- With no launch stopped no page is put back. -/
theorem restoreSnapshots_nil (s : State) : restoreSnapshots [] s = s := by
  have same : mapEntries (fun _ (l : Launch) => l) s.launches = s.launches := List.map_id _
  simpa [restoreSnapshots] using congrArg (fun m => { s with launches := m }) same

/-- With no launch of the context under way a guard settles nothing. -/
theorem settleGuard_nil (slot : BitVec 8) (gen : W32) (value : Bool) (s : State) : settleGuard slot gen value [] s = s :=
  restoreSnapshots_nil s

/-- A slot that is not pending is armed with the next generation. -/
theorem armGuard_idle {s : State} {tag slot : BitVec 8} (idle : (s.guard tag slot).state ≠ 1) (none : launchesOf s tag = []) :
    armGuard tag slot s = writeGuard tag slot ⟨1, (s.guard tag slot).gen + 1⟩ s := by
  refine (if_neg (by simpa using idle)).trans ?_
  rw [none, settleGuard_nil]

/-- A pending slot takes its value. -/
theorem resolveGuard_pending {s : State} {tag slot : BitVec 8} {value : Bool} (pending : (s.guard tag slot).state = 1)
    (none : launchesOf (writeGuard tag slot { s.guard tag slot with state := if value then 2#2 else 3#2 } s) tag = []) :
    resolveGuard tag slot value s = writeGuard tag slot { s.guard tag slot with state := if value then 2#2 else 3#2 } s := by
  refine (if_neg (by simpa using pending)).trans ?_
  rw [none, settleGuard_nil]

/-! ### Sequences (R278) -/

/-- CANCEL of a sequence that the context owns marks it, once. -/
theorem exec_cancel {s : State} {tag : BitVec 8} {value : BitVec 32} (accepted : s.accepts 4 = true)
    (active : (s.context tag).active = true) (owned : owns s tag value = true) :
    ∃ t, exec (.cancel tag value) s = .next t ∧ value ∈ (t.context tag).distaff.cancels ∧ SameMemory s t := by
  refine ⟨_, (doorbell_active accepted active : execCancel tag value s = _), ?_⟩
  by_cases marked : value ∈ (s.distaffOf tag).cancels
  · rw [if_neg (by simp [marked])]
    exact ⟨marked, fun _ => rfl⟩
  · rw [if_pos (by simp [owned, marked])]
    refine ⟨?_, fun _ => rfl⟩
    change value ∈ ((onDistaff tag _ s).distaffOf tag).cancels
    rw [onDistaff_distaffOf _ (State.active_ne_none active)]
    simp

/-- Settles O43: a doorbell is dropped, has no effect, or has its own. -/
theorem doorbells : Obligations.Doorbells := by
  unfold Obligations.Doorbells
  refine ⟨fun s tag slot level value b i member => ?dropped, fun s tag slot level value b accepted active =>
    ⟨fun queue within => ?tail, exec_lqtail_beyond accepted active, (doorbell_active accepted active : execGrdarm tag slot s = _),
      armGuard_idle, (doorbell_active accepted active : execGrdsetDoorbell tag slot b s = _), resolveGuard_pending, ?admission,
      ⟨(doorbell_active accepted active : execCplhead tag value s = _), ?completion⟩, exec_cancel accepted active⟩⟩
  case dropped =>
    obtain ⟨effect, runs⟩ := exec_doorbell tag slot level value b i member
    rw [runs]
    exact ⟨doorbell_dropped, doorbell_inactive⟩
  case tail =>
    refine ⟨_, exec_lqtail_within accepted active queue within, ?_, fun _ => rfl⟩
    rw [onContext_context _ (State.active_ne_none active)]
    exact look_put_same _ _ _ _
  case admission =>
    refine ⟨_, (doorbell_active accepted active : execAdmtail tag value s = _), ?_, rfl, fun _ => rfl⟩
    exact congrArg Context.admtail (onContext_context (fun c => { c with admtail := value }) (State.active_ne_none active))
  case completion => exact congrArg Context.cplhead (onContext_context _ (State.active_ne_none active))

end Sys2Proof.Machine
end

section
/-! SUPPORT. The Distaff's steps of a context's batch, and a committed step applied (R276 to R279). -/

namespace Sys2Proof.Machine

open Sys2Proof.Safety

/-! ### Steps (R278) -/

/-- The Distaff steps a context: active, not being deactivated, and with a Distaff. -/
structure Context.Stepped (c : Context) : Prop where
  active  : c.active = true
  stays   : c.closing = false
  distaff : (c.word 0).getLsbD 61 = true

theorem Context.Stepped.goes {c : Context} (stepped : c.Stepped) : ¬ (!c.active || c.closing || !(c.word 0).getLsbD 61) = true := by
  obtain ⟨active, stays, distaff⟩ := stepped
  simp [active, stays, distaff]

/-- A chain under submission is gone on with. -/
theorem exec_distaffStep_chain {s : State} {tag : BitVec 8} (stepped : (s.context tag).Stepped) {n index : Nat} {guarded : Bool}
    (chain : (s.context tag).distaff.chain = some (n, index, guarded)) :
    exec (.distaffStep tag) s = .next (submitChain tag n guarded ((s.context tag).chainm1 + 1 - index) index s) := by
  refine (if_neg stepped.goes : execDistaffStep tag s = _).trans ?_
  rw [chain]

/-- With no step running, after the admission point, the batch's step begins unguarded. -/
theorem exec_distaffStep_begins {s s' : State} {tag : BitVec 8} (stepped : (s.context tag).Stepped)
    (chain : (s.context tag).distaff.chain = none) (idle : (s.context tag).distaff.running = false)
    (still : ((admissionPoint tag s).distaffOf tag).running = false) (written : ((admissionPoint tag s).distaffOf tag).pending = [])
    (batch : ((admissionPoint tag s).distaffOf tag).batch ++ ((admissionPoint tag s).distaffOf tag).joined ≠ [])
    (begun : beginStep tag ((admissionPoint tag s).distaffOf tag).step
      (((admissionPoint tag s).distaffOf tag).batch ++ ((admissionPoint tag s).distaffOf tag).joined) false (admissionPoint tag s) = .inl s') :
    exec (.distaffStep tag) s = .next (submitChain tag ((admissionPoint tag s).distaffOf tag).step false ((s.context tag).chainm1 + 1) 0
      (onDistaff tag (fun d => { d with
        running := true, done := false, joined := [],
        batch := ((admissionPoint tag s).distaffOf tag).batch ++ ((admissionPoint tag s).distaffOf tag).joined }) s')) := by
  have starts : ¬ ((((admissionPoint tag s).distaffOf tag).batch ++ ((admissionPoint tag s).distaffOf tag).joined).isEmpty ||
      !((admissionPoint tag s).distaffOf tag).pending.isEmpty) = true := by simpa [written] using batch
  refine (if_neg stepped.goes : execDistaffStep tag s = _).trans ?_
  simp only [chain, idle, Bool.not_false, Bool.or_true, if_true, still]
  rw [if_neg starts, begun]

/-- With a step running whose chain has finished, no admission due and none ahead, the next begins ahead, guarded. -/
theorem exec_distaffStep_runsAhead {s s' : State} {tag : BitVec 8} (stepped : (s.context tag).Stepped)
    (chain : (s.context tag).distaff.chain = none) (running : (s.context tag).distaff.running = true)
    (settled : (s.context tag).distaff.admitDue = false) (alone : (s.context tag).distaff.ahead = false)
    (finished : chainFinished s tag (s.context tag).distaff.step = true)
    (begun : beginStep tag ((s.context tag).distaff.step + 1) ((s.context tag).distaff.batch ++ (s.context tag).distaff.joined) true s = .inl s') :
    exec (.distaffStep tag) s = .next (submitChain tag ((s.context tag).distaff.step + 1) true ((s.context tag).chainm1 + 1) 0
      (onDistaff tag (fun d => { d with
        ahead := true, joined := [], next := (s.context tag).distaff.batch ++ (s.context tag).distaff.joined }) s')) := by
  refine (if_neg stepped.goes : execDistaffStep tag s = _).trans ?_
  simp only [chain, running, settled, Bool.not_true, Bool.or_false, Bool.false_eq_true, if_false, State.distaffOf, alone, finished,
    Bool.not_false, Bool.and_true, if_true, begun]

/-! ### A step committed (R278) -/

/-- What a committed step leaves of the Distaff's stepping: the step ahead goes on, where there is one and no sequence has finished; else
nothing runs. -/
def Distaff.afterCommit (noneFinished : Bool) (d : Distaff) : Distaff :=
  if d.ahead && noneFinished then { d with step := d.step + 1, batch := d.next, next := [], ahead := false, admitDue := true }
  else { d with
    step := d.step + 1, running := false, done := false, ahead := false, next := [], admitDue := true
    chain := if d.ahead then .none else d.chain, joined := d.joined ++ d.next.filter (fun x => !d.batch.contains x) }

/-- STEP_COMMIT of a step whose chain has committed. -/
theorem exec_stepCommit {s : State} {tag : BitVec 8} (running : (s.distaffOf tag).running = true) (committed : (s.distaffOf tag).done = true) :
    let d := s.distaffOf tag
    let s1 := (inOrder s d.batch).foldl (fun s slot => applyStep tag slot s) (onDistaff tag (fun d => { d with done := false }) s)
    let finished := (inOrder s d.batch).filter (fun slot => (seqWord s1 slot 14).extractLsb' 0 8 != 0)
    let s2 := if d.ahead then resolveGuard tag (stepGuard (d.step + 1)) finished.isEmpty s1 else s1
    exec (.stepCommit tag) s = .next (wakeDistaff tag
      { onDistaff tag (Distaff.afterCommit finished.isEmpty) s2 with agenda := s2.agenda ++ finished.map Instr.sequenceRetirement }) := by
  have goes : ¬ (!(s.distaffOf tag).running || !(s.distaffOf tag).done) = true := by simp [running, committed]
  exact (if_neg goes : execStepCommit tag s = _)

theorem inOrder_nil (s : State) : inOrder s [] = [] := by simp [inOrder]

/-- A context whose Distaff has a step running stands in the table. -/
theorem State.running_ne_none {s : State} {tag : BitVec 8} (running : (s.distaffOf tag).running = true) : s.context tag ≠ Context.none :=
  State.context_ne_none (fun c => c.distaff.running) (by change (s.distaffOf tag).running ≠ _; rw [running]; decide)

/-- STEP_COMMIT of a batch with none left and no step ahead: the step number goes on by one, nothing runs and an admission is due. -/
theorem exec_stepCommit_empty {s : State} {tag : BitVec 8} (running : (s.distaffOf tag).running = true)
    (committed : (s.distaffOf tag).done = true) (empty : (s.distaffOf tag).batch = []) (alone : (s.distaffOf tag).ahead = false) :
    ∃ t, exec (.stepCommit tag) s = .next t ∧ t.agenda = s.agenda ++ [Instr.distaffStep tag] ∧
      (t.distaffOf tag).step = (s.distaffOf tag).step + 1 ∧ (t.distaffOf tag).running = false ∧ (t.distaffOf tag).admitDue = true := by
  have taken : (onDistaff tag (fun d => { d with done := false }) s).distaffOf tag = { s.distaffOf tag with done := false } :=
    onDistaff_distaffOf _ (State.running_ne_none running)
  have left : (onDistaff tag (Distaff.afterCommit true) (onDistaff tag (fun d => { d with done := false }) s)).distaffOf tag =
      Distaff.afterCommit true { s.distaffOf tag with done := false } := by
    rw [onDistaff_distaffOf _ (State.running_ne_none (by rw [taken]; exact running)), taken]
  have runs := exec_stepCommit running committed
  simp only [empty, alone, inOrder_nil] at runs
  obtain ⟨t, runs, agenda, stepping⟩ : ∃ t, exec (.stepCommit tag) s = .next t ∧ t.agenda = s.agenda ++ [Instr.distaffStep tag] ∧
      t.distaffOf tag = Distaff.afterCommit true { s.distaffOf tag with done := false } :=
    ⟨_, runs, congrArg (· ++ [Instr.distaffStep tag]) (List.append_nil s.agenda), left⟩
  refine ⟨t, runs, agenda, ?_⟩
  rw [stepping, Distaff.afterCommit, if_neg (by simp [alone])]
  exact ⟨rfl, rfl, rfl⟩

/-! ### Retirement (R279) -/

/-- SEQUENCE_RETIREMENT of an active entry with an end reason retires it. -/
theorem exec_sequenceRetirement {s : State} {slot : Nat} (inside : slot < 4096) (valid : (seqWord s slot 0).getLsbD 63 = true)
    (ended : (seqWord s slot 14).extractLsb' 0 8 ≠ 0) :
    exec (.sequenceRetirement slot) s = .next (retireSequence ((seqWord s slot 0).extractLsb' 52 8) slot s) := by
  have goes : ¬ (decide (4096 ≤ slot) || !(seqWord s slot 0).getLsbD 63 || (seqWord s slot 14).extractLsb' 0 8 == 0) = true := by
    simpa [inside, valid] using ended
  exact (if_neg goes : execSequenceRetirement slot s = _)

/-- Settles O45: each step by its own law. -/
theorem distaffSteps : Obligations.DistaffSteps := by
  unfold Obligations.DistaffSteps
  refine ⟨fun s tag active stays distaff => ⟨fun n index guarded => exec_distaffStep_chain ⟨active, stays, distaff⟩,
      fun s' => exec_distaffStep_begins ⟨active, stays, distaff⟩, fun s' => exec_distaffStep_runsAhead ⟨active, stays, distaff⟩⟩,
    fun s tag running committed => ⟨_, exec_stepCommit running committed, rfl, rfl⟩,
    fun s tag => exec_stepCommit_empty, fun s slot => exec_sequenceRetirement⟩

end Sys2Proof.Machine
end

section
/-! SUPPORT. Launches fetched, placed, raised and reserving, launches that stop, and pairs compared (R265 to R272, R314 to R318). -/

namespace Sys2Proof.Machine

open Sys2Proof.Safety

/-! ### Fetching and placing (R265, R267, R272) -/

/-- LAUNCH_FETCH of a record that is read and checked moves the queue's head past it. -/
theorem exec_launchFetch_checked {s s' s'' : State} {tag : BitVec 8} {level : Nat} {bs : List Byte} (active : (s.context tag).active = true)
    (stays : (s.context tag).closing = false) (queue : level < 16) (waits : queueWaits (s.context tag) level = true)
    (read : cpRead tag 0 (queueAddress (s.context tag) level (look 0 (s.context tag).lqhead level)) 3
      (queueAddress (s.context tag) level (look 0 (s.context tag).lqhead level)) 256 s = (s', .ok bs))
    (checked : checkLaunch tag (doublesOf bs) (queueAddress (s.context tag) level (look 0 (s.context tag).lqhead level)) false [] s' =
      (s'', true)) :
    exec (.launchFetch tag level) s =
      .next (popQueue tag level (queueAddress (s.context tag) level (look 0 (s.context tag).lqhead level)) s'') := by
  have goes : ¬ (!(s.context tag).active || (s.context tag).closing || decide (16 ≤ level) || !queueWaits (s.context tag) level) = true := by
    simp [active, stays, waits, queue]
  refine (if_neg goes : execLaunchFetch tag level s = _).trans ?_
  rw [read]
  dsimp only
  rw [checked]

/-- With no launch that has a team to place, nothing is placed. -/
theorem placeAll'_nothing (n : Nat) {s : State} (nothing : placeOrder s = []) : placeAll' n s = s := by
  cases n with
  | zero => rfl
  | succ n => rw [placeAll', nothing]; rfl

/-! ### Waiting launches (R269, R272) -/

/-- Device reference time has reached the amount. -/
theorem le_passSince_nanotime (l : Launch) (ns : Nat) (s : State) :
    (l.since + BitVec.ofNat 64 ns).toNat ≤ (passSince l ns s).nanotime.toNat := by
  unfold passSince
  dsimp only
  split
  · exact le_rfl
  · exact Nat.not_lt.1 ‹_›

/-- The amount having passed changes nothing else. -/
theorem exists_passSince (l : Launch) (ns : Nat) (s : State) : ∃ u, passSince l ns s = u ∧
    (l.since + BitVec.ofNat 64 ns).toNat ≤ u.nanotime.toNat ∧ u.launches = s.launches ∧ u.agenda = s.agenda ∧ u.mem = s.mem := by
  refine ⟨_, rfl, le_passSince_nanotime l ns s, ?_, ?_, passSince_mem l ns s⟩ <;>
  · unfold passSince
    dsimp only
    split <;> rfl

/-- LEVEL_RAISE of an eligible launch never placed, below level 14. -/
theorem exec_levelRaise_raises {s : State} {k : Nat} {l : Launch} (held : find s.launches k = some l) (unplaced : l.unplaced = true)
    (fresh : l.env.handles = []) (low : l.level < 14) :
    ∃ t, exec (.levelRaise k) s = .next t ∧ find t.launches k = some { l with waited := l.waited + 1, level := l.level + 1 } ∧
      (l.since + BitVec.ofNat 64 (2000000 * (l.waited + 1))).toNat ≤ t.nanotime.toNat ∧ SameMemory s t := by
  have goes : ¬ (!l.unplaced || !l.env.handles.isEmpty || decide (14 ≤ l.level)) = true := by simp [unplaced, fresh, low]
  obtain ⟨u, passed, reached, launches, _, mem⟩ := exists_passSince l (2000000 * (l.waited + 1)) s
  have runs : execLevelRaise k s = .next { u with
      launches := change (fun l => { l with waited := l.waited + 1, level := l.level + 1 }) u.launches k
      agenda := u.agenda ++ [Instr.teamPlacement] } := by
    unfold execLevelRaise
    rw [held]
    dsimp only
    rw [if_neg goes, passed]
  refine ⟨_, runs, ?_, reached, fun loc => congrArg (readByte · loc) mem⟩
  rw [find_change, launches, held]
  rfl

/-- What RESERVE does once its time has come: the launch reserves, and teams are pre-empted for one of level 15. -/
def reserveNow (k : Nat) (l : Launch) (s : State) : State :=
  let s := { s with launches := change (fun l => { l with reserves := true }) s.launches k }
  let out := if l.level = 15 then
      victims s l.env.part.toNat l.demand (recPaired l.record) s.teams.length ((s.teams.filter (fun e => e.2.halting)).map (·.1))
    else []
  { s with agenda := s.agenda ++ out.map Instr.preemptionRequest }

theorem reserveNow_agenda (k : Nat) {l : Launch} (s : State) (low : l.level < 15) : (reserveNow k l s).agenda = s.agenda := by
  simp [reserveNow, low.ne]

/-- RESERVE of an eligible launch never placed and not held back. -/
theorem exec_reserve_reserves {s : State} {k : Nat} {l : Launch} (held : find s.launches k = some l) (unplaced : l.unplaced = true)
    (first : heldBack s k = false) :
    ∃ t, exec (.reserve k) s = .next t ∧ find t.launches k = some { l with reserves := true } ∧
      (l.since + 8000000).toNat ≤ t.nanotime.toNat ∧ (l.level < 15 → t.agenda = s.agenda) ∧ SameMemory s t := by
  have goes : ¬ (!l.unplaced || heldBack s k) = true := by simp [unplaced, first]
  obtain ⟨u, passed, reached, launches, agenda, mem⟩ := exists_passSince l 8000000 s
  have runs : execReserve k s = .next (reserveNow k l (passSince l 8000000 s)) := by
    unfold execReserve
    rw [held]
    exact if_neg goes
  rw [passed] at runs
  refine ⟨_, runs, ?_, reached, fun low => (reserveNow_agenda k u low).trans agenda, fun loc => congrArg (readByte · loc) mem⟩
  change find (change _ u.launches k) k = _
  rw [find_change, launches, held]
  rfl

/-! ### Launches that stop (R314, R315, R322, R323) -/

/-- TERMINATING_CAUSE of a stopped launch decides by its cause, the damage found and what the launch allows. -/
theorem exec_terminatingCause_decides {s : State} {k : Nat} {l : Launch} {c : Stop} (held : find s.launches k = some l)
    (stopped : l.stopCause = some c) (live : l.state ≠ .ended) :
    let s1 := if l.team1 = 0 && (s.wave c.wave).launch = k then
      { s with launches := change (fun l => { l with team1 := (s.wave c.wave).teamid }) s.launches k } else s
    let damaged := probe s1 l.env.tag c.va Access.read
    let ended := terminateContext l.env.tag Cause.poison (fun x => some (stopRecord s1 c x)) s1
    (c.cause ≠ Cause.poison → (l.anycause = false ∨ l.replayable = false) →
      exec (.terminatingCause k) s = .next (endLaunch k 3 c.cause (postStop c l s1))) ∧
    (c.cause ≠ Cause.poison → l.anycause = true → l.replayable = true →
      exec (.terminatingCause k) s = .next (replayLaunch k none (postStop c l s1))) ∧
    (c.cause = Cause.poison → damaged = none → exec (.terminatingCause k) s = .next ended) ∧
    (∀ a, c.cause = Cause.poison → damaged = some a → (eccSector a, l.env.tag) ∈ s1.decided →
      exec (.terminatingCause k) s = .next (endLaunch k 3 Cause.poison s1)) ∧
    (∀ a, c.cause = Cause.poison → damaged = some a → (eccSector a, l.env.tag) ∉ s1.decided →
      (l.replayable = false ∨ heldBefore s1 l (a / 65536) = false) → exec (.terminatingCause k) s =
        .next { ended with agenda := ended.agenda ++ [Instr.frameRetire (regionOf a == 1) (addrOf a / 65536) (1, none)] }) ∧
    (∀ a, c.cause = Cause.poison → damaged = some a → (eccSector a, l.env.tag) ∉ s1.decided →
      l.replayable = true → heldBefore s1 l (a / 65536) = true →
      exec (.terminatingCause k) s = .next (if frameInUse s1 a [k] then park (.terminatingCause k) s1
        else replayLaunch k (some a) (postStop c l (if reported s1 (eccSector a) then decide' (eccSector a) l.env.tag s1 else s1)))) := by
  have goes : ¬ (l.state == .ended) = true := by simpa using live
  dsimp only
  generalize atTeam : (if l.team1 = 0 && (s.wave c.wave).launch = k then
      { s with launches := change (fun l => { l with team1 := (s.wave c.wave).teamid }) s.launches k } else s) = s1
  refine ⟨fun other ends => ?ends, fun other anycause replays => ?replays, fun poison nowhere => ?nowhere,
    fun a poison found decided => ?decided, fun a poison found fresh ends => ?terminates, fun a poison found fresh replays before => ?restores⟩
  all_goals
    change execTerminatingCause k s = _
    unfold execTerminatingCause
    rw [held]
    dsimp only
    rw [stopped]
    dsimp only
    rw [if_neg goes, atTeam]
  case ends =>
    have last : ¬ (l.anycause && l.replayable) = true := by simpa [Classical.or_iff_not_imp_left] using ends
    rw [if_neg other, if_neg last]
  case replays =>
    rw [if_neg other, anycause, replays]
    rfl
  case nowhere => rw [if_pos poison, nowhere]
  case decided =>
    rw [if_pos poison, found]
    exact if_pos (List.elem_iff.2 decided)
  case terminates =>
    have last : ¬ (l.replayable && heldBefore s1 l (a / 65536)) = true := by simpa [Classical.or_iff_not_imp_left] using ends
    rw [if_pos poison, found]
    exact (if_neg (mt List.elem_iff.1 fresh)).trans (if_neg last)
  case restores =>
    have again : (l.replayable && heldBefore s1 l (a / 65536)) = true := by simp [replays, before]
    rw [if_pos poison, found]
    refine ((if_neg (mt List.elem_iff.1 fresh)).trans (if_pos again)).trans ?_
    split <;> rfl

/-! ### Pairs (R317, R318) -/

/-- Two copies of a paired launch stand at one comparison point. -/
structure PairAtPoint (s : State) (a b : Nat) : Prop where
  leads   : (s.wave a).pair = some (b, true)
  follows : (s.wave b).pair = some (a, false)
  first   : atPoint (s.wave a) = true
  second  : atPoint (s.wave b) = true

theorem PairAtPoint.goes {s : State} {a b : Nat} (compared : PairAtPoint s a b) :
    ¬ ((s.wave a).pair != some (b, true) || (s.wave b).pair != some (a, false) || !atPoint (s.wave a) || !atPoint (s.wave b)) = true := by
  obtain ⟨leads, follows, first, second⟩ := compared
  simp [leads, follows, first, second]

@[simp] theorem askOwning_wave (lines : List Nat) (s : State) (k : Nat) : (askOwning lines s).wave k = s.wave k :=
  foldl_keeps (field := fun s => s.wave k) (fun s l => by split <;> rfl) lines s

/-- Equal signatures with a line of the log in use: its homes are asked for ownership, and both copies wait. -/
theorem exec_pairComparison_waits {s : State} {a b : Nat} (compared : PairAtPoint s a b)
    (equal : (s.wave a).pairSignature = (s.wave b).pairSignature) (used : logFree (s.wave a) s = false) :
    ∃ lines, exec (.pairComparison a b) s = .next (askOwning lines s) := by
  have waits : (decide ((s.wave a).pairSignature = (s.wave b).pairSignature) && !logFree (s.wave a) s) = true := by simp [equal, used]
  exact ⟨_, ((if_neg compared.goes : execPairComparison a b s = _).trans (if_pos waits))⟩

/-- Equal signatures with the log's lines free: a snapshot that its writes need finds no room, or the log is performed and both go on. -/
theorem exec_pairComparison_equal {s : State} {a b : Nat} (compared : PairAtPoint s a b)
    (equal : (s.wave a).pairSignature = (s.wave b).pairSignature) (free : logFree (s.wave a) s = true) :
    (performLog a (s.wave a).pairLog s = none → exec (.pairComparison a b) s = .next s) ∧
    ∀ u, performLog a (s.wave a).pairLog s = some u → exec (.pairComparison a b) s =
      .next ((u.setWave a { u.wave a with pairLog := [], signature := 0, pairOk := 1, hold := .none }).setWave b
        { (u.setWave a { u.wave a with pairLog := [], signature := 0, pairOk := 1, hold := .none }).wave b with
          pairLog := [], signature := 0, pairOk := 2, hold := .none }) := by
  have ready : ¬ (decide ((s.wave a).pairSignature = (s.wave b).pairSignature) && !logFree (s.wave a) s) = true := by simp [free]
  have runs := ((if_neg compared.goes : execPairComparison a b s = _).trans (if_neg ready)).trans (if_pos equal)
  refine ⟨fun full => runs.trans ?_, fun u performed => runs.trans ?_⟩
  · rw [full]
  · rw [performed]

/-- Different signatures post a record and replay the launch, or end it with status 3. -/
theorem exec_pairComparison_differs {s : State} {a b : Nat} {l : Launch} (compared : PairAtPoint s a b)
    (differs : (s.wave a).pairSignature ≠ (s.wave b).pairSignature) (held : find s.launches (s.wave a).launch = some l) :
    let record := stopRecord s ⟨Cause.poison, 0, 0, 0, (s.wave a).a.pos.pc, a, 0, false⟩ l
    let s' := postTerminating l.env.tag record.1 record.2 0 s
    exec (.pairComparison a b) s = .next (if l.replays < l.maxrep then replayLaunch (s.wave a).launch none s'
      else endLaunch (s.wave a).launch 3 Cause.poison s') := by
  intro record s'
  have unequal : ¬ (decide ((s.wave a).pairSignature = (s.wave b).pairSignature) && !logFree (s.wave a) s) = true := by simp [differs]
  refine (((if_neg compared.goes : execPairComparison a b s = _).trans (if_neg unequal)).trans (if_neg differs)).trans ?_
  rw [held]
  exact (apply_ite Host.Outcome.next _ _ _).symm

/-- Settles O44: each step by its own law. -/
theorem schedulerSteps : Obligations.SchedulerSteps := by
  unfold Obligations.SchedulerSteps
  refine ⟨fun s s' s'' tag level bs active stays queue waits ⟨read, checked⟩ => exec_launchFetch_checked active stays queue waits read checked,
    fun s => ⟨fun nothing => congrArg Host.Outcome.next (placeAll'_nothing _ nothing), rfl⟩, fun s k l => exec_levelRaise_raises,
    fun s k l => exec_reserve_reserves, fun s k l c => exec_terminatingCause_decides,
    fun s a b leads follows first second equal => ⟨fun used => ?waits, fun free => ?full, fun u free performed => ?performs⟩,
    fun s a b l leads follows first second => exec_pairComparison_differs ⟨leads, follows, first, second⟩⟩
  case waits =>
    obtain ⟨lines, runs⟩ := exec_pairComparison_waits ⟨leads, follows, first, second⟩ equal used
    have point := first
    simp only [atPoint, Bool.and_eq_true, beq_iff_eq] at point
    obtain ⟨⟨_, unmarked⟩, _⟩ := point
    refine ⟨_, runs, fun _ => by rw [askOwning_mem], ?_, ?_⟩ <;> rw [askOwning_wave]
    exact unmarked
  case full => exact (exec_pairComparison_equal ⟨leads, follows, first, second⟩ equal free).1
  case performs =>
    refine ⟨_, (exec_pairComparison_equal ⟨leads, follows, first, second⟩ equal free).2 u performed, ?_⟩
    simp +contextual [eq_comm]

end Sys2Proof.Machine
end

section
/-! SUPPORT. What a write performed at its homes, an error met by a read, an eviction and a store of the command processor leave of the tables
of teams and contexts (R119, R289, R303, R308, R341). -/

namespace Sys2Proof.Machine

/-- The tables of teams and contexts. -/
def State.tables (s : State) : SMap Team × SMap Context := (s.teams, s.contexts)

/-! ### Waves rolled back and lines lost -/

@[simp] theorem State.setWave_tables (s : State) (k : Nat) (w : Wave) : (s.setWave k w).tables = s.tables := by
  unfold State.setWave; split <;> rfl
@[simp] theorem State.onWhorl_tables (h : Nat) (f : Whorl → Whorl) (s : State) : (s.onWhorl h f).tables = s.tables := rfl
@[simp] theorem State.onCore_tables (c : Nat) (f : Core → Core) (s : State) : (s.onCore c f).tables = s.tables := rfl
@[simp] theorem State.mapWaves_tables (s : State) (f : Nat → Wave → Wave) : (s.mapWaves f).tables = s.tables := rfl
@[simp] theorem unlockLines_tables (k : Nat) (s : State) : (unlockLines k s).tables = s.tables := rfl

@[simp] theorem releaseHolds_tables (k : Nat) (s : State) : (releaseHolds k s).tables = s.tables := State.setWave_tables _ _ _
@[simp] theorem discardAfter_tables (k n : Nat) (s : State) : (discardAfter k n s).tables = s.tables := State.setWave_tables _ _ _

@[simp] theorem abortTxn_tables (k : Nat) (code : BitVec 3) (s : State) : (abortTxn k code s).tables = s.tables := by
  unfold abortTxn
  split <;> simp

@[simp] theorem rollback_tables (k : Nat) (counted : Bool) (s : State) : (rollback k counted s).tables = s.tables := by
  unfold rollback
  dsimp only
  split
  · split <;> simp
  · split <;> simp

@[simp] theorem loseLine_tables (core line : Nat) (drops : Bool) (s : State) : (loseLine core line drops s).tables = s.tables :=
  foldl_keeps (fun s e => by split <;> simp) _ _

@[simp] theorem invalidateNow_tables (line : Nat) (s : State) : (invalidateNow line s).tables = s.tables :=
  (State.onWhorl_tables _ _ _).trans (foldl_keeps (fun s c => by simp) _ _)

/-! ### Writes at their homes, and events -/

@[simp] theorem homeWrite_tables (owner : Option (BitVec 8)) (cells : List (Nat × Byte)) (s : State) :
    (homeWrite owner cells s).tables = s.tables :=
  (foldl_keeps (field := State.tables) (fun s l => by simp) _ _).trans (foldl_keeps (field := State.tables) (fun s l => by simp) _ _)

@[simp] theorem homeWords_tables (owner : Option (BitVec 8)) (loc : Nat) (ws : List W64) (s : State) :
    (homeWords owner loc ws s).tables = s.tables := homeWrite_tables _ _ _

@[simp] theorem postEvent_tables (kind tag : BitVec 8) (payload : List W64) (s : State) : (postEvent kind tag payload s).tables = s.tables := by
  unfold postEvent
  dsimp only
  split
  · rfl
  · split
    · rfl
    · exact homeWords_tables _ _ _ _

@[simp] theorem askOwning_tables (lines : List Nat) (s : State) : (askOwning lines s).tables = s.tables :=
  foldl_keeps (fun s l => by split <;> simp) _ _

theorem orEntry_tables {tag : BitVec 8} {entry : Nat} {bits : W64} {s t : State} (set : orEntry tag entry bits s = some t) :
    t.tables = s.tables := by
  unfold orEntry at set
  dsimp only at set
  split at set
  · rw [Option.some.inj set]
  · split at set
    · contradiction
    · rw [← Option.some.inj set, homeWords_tables]

/-! ### Errors met, and tiles evicted -/

@[simp] theorem quarantineSlot_tables (whorl slot : Nat) (reason : BitVec 2) (s : State) :
    (quarantineSlot whorl slot reason s).tables = s.tables := by
  unfold quarantineSlot
  dsimp only
  (repeat' split) <;> simp

@[simp] theorem errorFound_tables (sector : Nat) (s : State) : (errorFound sector s).tables = s.tables := by
  unfold errorFound
  dsimp only
  split
  · rfl
  · generalize Whorl.slotOf _ _ = place
    cases place with
    | none => split <;> rfl
    | some p => split <;> exact quarantineSlot_tables (homeWhorl s (sector / 4)) p 1 { s with damage := s.damage.filter (· != sector) }

@[simp] theorem checkSectors_tables (p : Nat → Bool) (s : State) : (checkSectors p s).tables = s.tables :=
  foldl_keeps (fun s q => errorFound_tables q s) _ _

@[simp] theorem copySector_tables (src dst : Nat) (s : State) : (copySector src dst s).tables = s.tables := checkSectors_tables _ _

@[simp] theorem writeBack_tables (t : Tile) (s : State) : (writeBack t s).tables = s.tables := by
  unfold writeBack
  split
  · rfl
  · exact foldl_keeps (fun s i => by dsimp only; split <;> simp) _ _

@[simp] theorem dropEvicted_tables (whorl : Nat) (s : State) : (dropEvicted whorl s).tables = s.tables :=
  (State.onWhorl_tables _ _ _).trans (foldl_keeps (fun s t => writeBack_tables t s) _ _)

@[simp] theorem sendInvalidations_tables (home line : Nat) (cores : List Nat) (s : State) :
    (sendInvalidations home line cores s).tables = s.tables :=
  foldl_keeps (fun s c => by split <;> simp) _ _

theorem checkTile_tables (tile : Nat) (s : State) : (checkTile tile s).tables = s.tables := checkSectors_tables _ _

/-- The sharers of an evicted tile's lines are sent for. -/
theorem invalidateShared_tables (whorl : Nat) (shared : List (Nat × List Nat)) (s : State) :
    (shared.foldl (fun (s : State) e =>
      sendInvalidations whorl e.1 e.2 (s.onWhorl whorl (fun h => { h with busy := ins h.busy e.1 e.2 }))) s).tables = s.tables :=
  foldl_keeps (fun _ _ => (sendInvalidations_tables _ _ _ _).trans (State.onWhorl_tables _ _ _)) _ _

@[simp] theorem evictTile_tables (whorl tile : Nat) (s : State) : (evictTile whorl tile s).tables = s.tables := by
  unfold evictTile
  extract_lets clean checked
  have same : checked.tables = s.tables := by
    unfold checked
    split
    · exact checkTile_tables _ _
    · rfl
  generalize checked = u at same
  split
  · exact same
  · exact ((dropEvicted_tables _ _).trans (State.onWhorl_tables _ _ _)).trans ((invalidateShared_tables _ _ _).trans same)

/-! ### Stores of the command processor (R341) -/

/-- What the stores of the command processor leave: the teams, and a context's records, which others may follow. -/
structure StoresKeep (tag : BitVec 8) (s t : State) : Prop where
  teams  : t.teams = s.teams
  faults : (s.context tag).faults <+: (t.context tag).faults

theorem StoresKeep.of_tables {s t : State} (tag : BitVec 8) (same : t.tables = s.tables) : StoresKeep tag s t := by
  obtain ⟨teams, contexts⟩ := Prod.mk.inj same
  exact ⟨teams, by rw [State.context, State.context, contexts]⟩

theorem StoresKeep.refl (tag : BitVec 8) (s : State) : StoresKeep tag s s := .of_tables tag rfl

theorem StoresKeep.trans {tag : BitVec 8} {s t u : State} (first : StoresKeep tag s t) (second : StoresKeep tag t u) : StoresKeep tag s u :=
  ⟨second.teams.trans first.teams, first.faults.trans second.faults⟩

/-- A field that a change of entries leaves reads as before. -/
theorem field_look_change {α γ : Type} {d : α} {f : α → α} (field : α → γ) (same : ∀ x, field (f x) = field x) (m : SMap α) (i : Nat) :
    field (look d (change f m i) i) = field (look d m i) := by
  rw [look_eq_getD_find, look_eq_getD_find, find_change]
  cases find m i with
  | none => rfl
  | some x => exact same x

/-- A change of a context that leaves its records. -/
theorem StoresKeep.of_change {tag : BitVec 8} {f : Context → Context} (same : ∀ c, (f c).faults = c.faults) (s : State) :
    StoresKeep tag s (onContext tag f s) :=
  ⟨rfl, by rw [State.context, State.context, onContext, field_look_change Context.faults same]⟩

theorem storesKeep_passEntry (tag : BitVec 8) (s : State) : StoresKeep tag s (passEntry tag s) :=
  .of_change (f := fun c => { c with cpltail := c.cpltail + 1 }) (fun _ => rfl) s

theorem storesKeep_setStores (tag : BitVec 8) (xs : List CpStore) (s : State) : StoresKeep tag s (setStores tag xs s) :=
  .of_change (f := fun c => { c with stores := xs }) (fun _ => rfl) s

theorem storesKeep_loseStore (tag : BitVec 8) (x : CpStore) (s : State) : StoresKeep tag s (loseStore tag x s).1 := by
  unfold loseStore
  split
  · exact storesKeep_passEntry tag s
  · split
    · exact .refl tag s
    · exact .of_change (f := fun c => { c with lost := true }) (fun _ => rfl) s

/-- A record is added to those of a context. -/
theorem storesKeep_addRecord (tag : BitVec 8) (f : FaultRec) (s : State) : StoresKeep tag s
    { s with contexts := ins s.contexts tag.toNat { s.context tag with faults := (s.context tag).faults ++ [f] } } :=
  ⟨rfl, by rw [State.context, State.context, look_ins, if_pos rfl]; exact List.prefix_append _ _⟩

theorem storesKeep_appendRecord (tag : BitVec 8) (words : List W64) (va : W64) (access : BitVec 2) (resolvable : Bool) (launches : List Nat)
    (readers : List W64) (s : State) : StoresKeep tag s (appendRecord tag words va access resolvable launches readers s).1 := by
  unfold appendRecord
  split
  · exact .refl tag s
  · dsimp only
    generalize hr : FaultRec.mk _ _ _ _ _ _ _ _ _ _ = record
    have added := storesKeep_addRecord tag record s
    split
    · exact added.trans (.of_tables tag (postEvent_tables _ _ _ _))
    · exact added

theorem storesKeep_missRecord (tag : BitVec 8) (va : W64) (level : Nat) (large : Bool) (s : State) :
    StoresKeep tag s (missRecord tag va level large s).1 := by
  unfold missRecord
  split
  · exact .refl tag s
  · dsimp only
    split <;> next h => exact congrArg Prod.fst h ▸ storesKeep_appendRecord ..

/-- Words stored leave the tables. -/
theorem storeNow_tables {tag : BitVec 8} {va : W64} {ws : List W64} {s t : State} (done : storeNow tag va ws s = .done t) :
    t.tables = s.tables := by
  unfold storeNow at done
  split at done
  · dsimp only at done
    split at done
    · next u set =>
      split at done
      · rw [← Stored.done.inj done, homeWords_tables, orEntry_tables set]
      · contradiction
    · contradiction
  · split at done <;> contradiction

theorem storesKeep_storeNow {tag : BitVec 8} {va : W64} {ws : List W64} {s t : State} (done : storeNow tag va ws s = .done t) :
    StoresKeep tag s t := .of_tables tag (storeNow_tables done)

theorem storesKeep_makeStore {tag : BitVec 8} {x : CpStore} {s t : State} (done : makeStore tag x s = .done t) : StoresKeep tag s t := by
  cases x with
  | words va ws => exact storesKeep_storeNow done
  | record index ws =>
    simp only [makeStore] at done
    split at done
    · split at done
      · next u record =>
        split at done
        · next v tail => exact Stored.done.inj done ▸ (storesKeep_storeNow record).trans (storesKeep_storeNow tail)
        · contradiction
        · exact Stored.done.inj done ▸ storesKeep_storeNow record
      · exact storesKeep_storeNow done
    · split at done <;> contradiction
    · contradiction
  | mark =>
    simp only [makeStore] at done
    split at done
    · exact storesKeep_storeNow done
    · contradiction
  | entry ws =>
    simp only [makeStore] at done
    split at done
    · next u entry => exact Stored.done.inj done ▸ (storesKeep_storeNow entry).trans (storesKeep_passEntry tag u)
    · exact storesKeep_storeNow done

theorem storesKeep_makeStores (tag : BitVec 8) (fuel : Nat) (kept xs : List CpStore) (s : State) :
    StoresKeep tag s (makeStores tag fuel kept xs s).1 := by
  induction fuel generalizing kept xs s with
  | zero => exact .refl tag s
  | succ fuel ih =>
    cases xs with
    | nil => exact .refl tag s
    | cons x xs =>
      unfold makeStores
      split
      · exact ih _ _ _
      · split
        · next made => exact (storesKeep_makeStore made).trans (ih _ _ _)
        · exact .of_tables tag (askOwning_tables _ _)
        · exact (storesKeep_loseStore tag x s).trans (ih _ _ _)
        · exact (storesKeep_missRecord tag _ _ _ s).trans (ih _ _ _)

theorem storesKeep_flushStores (tag : BitVec 8) (more : List CpStore) (s : State) : StoresKeep tag s (flushStores tag more s) := by
  unfold flushStores
  split
  · exact storesKeep_setStores tag [] s
  · exact (storesKeep_makeStores tag _ [] _ s).trans (storesKeep_setStores tag _ _)

theorem storesKeep_consumeRecords (tag : BitVec 8) (s : State) : StoresKeep tag s (consumeRecords tag s) := by
  unfold consumeRecords
  dsimp only
  split
  · exact .refl tag s
  · split
    · exact .refl tag s
    · exact storesKeep_flushStores tag _ s

end Sys2Proof.Machine
end

section
/-! Records resolved, pages walked and moved, frames retired (R282, R285, R287, R289 to R291, R325, R328, R333). -/

namespace Sys2Proof.Machine

/-! ### An unresolved record -/

/-- A context with an unresolved record stands in the table. -/
theorem openFault_context_ne_none {s : State} {tag : BitVec 8} {index : Nat} {f : FaultRec} (held : openFault s tag index = some f) :
    s.context tag ≠ Context.none := by
  intro absent
  rw [openFault, absent] at held
  contradiction

/-- An unresolved record stands at its ring index. -/
theorem faults_of_openFault {s : State} {tag : BitVec 8} {index : Nat} {f : FaultRec} (held : openFault s tag index = some f) :
    (s.context tag).faults[index]? = some f := (Option.filter_eq_some_iff.1 held).1

/-- A record that stands in a context reads as it has been changed to. -/
theorem changeFault_faults {s : State} {tag : BitVec 8} {index : Nat} {f : FaultRec} (held : openFault s tag index = some f)
    (g : FaultRec → FaultRec) : ((changeFault tag index g s).context tag).faults[index]? = some (g f) := by
  have changed : (changeFault tag index g s).context tag = { s.context tag with faults := (s.context tag).faults.modify index g } :=
    onContext_context (fun c => { c with faults := c.faults.modify index g }) (openFault_context_ne_none held)
  rw [changed, List.getElem?_modify_eq, faults_of_openFault held]
  rfl

/-- A record of a context that the stores of the command processor meet stands at its index after them. -/
theorem StoresKeep.record {tag : BitVec 8} {s t : State} (kept : StoresKeep tag s t) {index : Nat} {f : FaultRec}
    (held : (s.context tag).faults[index]? = some f) : (t.context tag).faults[index]? = some f := by
  obtain ⟨inside, here⟩ := List.getElem?_eq_some_iff.1 held
  exact (List.prefix_iff_getElem?.1 kept.faults index inside).trans (congrArg some here)

/-- A record closed is no longer unresolved. -/
theorem openFault_closeRecord {s : State} {tag : BitVec 8} {index : Nat} {f : FaultRec} (held : openFault s tag index = some f)
    (denied : Bool) : openFault (closeRecord tag index f denied s) tag index = none := by
  have closed := changeFault_faults held (fun f => { f with opened := false, denied := denied })
  have stands := (storesKeep_consumeRecords tag { changeFault tag index (fun f => { f with opened := false, denied := denied }) s with
    ats := s.ats.filter (fun e => !(e.2 == refusedFrame && e.1 % 2 ^ 52 / 16 == f.va.toNat / 2 ^ 16)) }).record closed
  exact congrArg (Option.filter FaultRec.opened) stands

theorem resolveRetry_of_open {s : State} {tag : BitVec 8} {index : Nat} {f : FaultRec} (held : openFault s tag index = some f) :
    resolveRetry tag index s = settleWrites tag ((closeRecord tag index f false s).mapWaves
      (fun _ w => if w.env.tag == tag && w.hold == .fault index then { w with hold := .none } else w)) := by
  rw [resolveRetry, held]

/-- DENY of a record of another access than a write drops no store. -/
theorem resolveDeny_of_open {s : State} {tag : BitVec 8} {index : Nat} {f : FaultRec} (held : openFault s tag index = some f)
    (other : accessClass f.access ≠ 1) : resolveDeny tag index s = settleWrites tag (f.launches.foldl (fun s k => stopLaunch k f.stop s)
      ((refusePeers tag f (closeRecord tag index f true s)).mapWaves (fun _ w => if w.env.tag == tag then w.denied index else w))) := by
  rw [resolveDeny, held]
  exact if_pos (bne_iff_ne.2 other)

/-- trmask of a wave whose word a denied record ends holds the threads that failed. -/
theorem Wave.denied_trmask {w : Wave} {i index : Nat} {mask : W64} (waits : w.hold = .fault i)
    (failed : w.failing.find? (fun e => e.1 == index) = some (index, mask)) : (w.denied index).trmask = mask := by
  rw [Wave.denied, waits, failed]

/-! ### What resolves a record -/

/-- PRI_RESPONSE answers a record of the host's. -/
theorem exec_priResponse {s : State} {tag : BitVec 8} {index : Nat} {f : FaultRec} (held : openFault s tag index = some f) (ok : Bool) :
    exec (.priResponse tag index ok) s =
      .next (if f.host then (if ok then resolveRetry tag index s else resolveDeny tag index s) else s) := by
  change execPriResponse tag index ok s = _
  rw [execPriResponse, held]
  dsimp only
  cases f.host <;> rfl

/-- With no event ring, a device record that nothing explains is denied. -/
theorem exec_eventRingDenyTimeout {s : State} {tag : BitVec 8} {index : Nat} {f : FaultRec} (held : openFault s tag index = some f)
    (device : f.host = false) (bare : explained s tag f.va = false) (noRing : s.mgmt.evbase = 0) :
    exec (.eventRingDenyTimeout tag index) s = .next (resolveDeny tag index (secondAfter f s)) := by
  change execEventRingDenyTimeout tag index s = _
  rw [execEventRingDenyTimeout, held]
  exact if_neg (by simp [device, bare, noRing])

/-- A page request unanswered posts its event, once. -/
theorem exec_priTimeout {s : State} {tag : BitVec 8} {index : Nat} {f : FaultRec} (held : openFault s tag index = some f)
    (host : f.host = true) (untold : f.told = false) : exec (.priTimeout tag index) s =
      .next (postEvent 2 tag f.words (changeFault tag index (fun f => { f with told := true }) (secondAfter f s))) := by
  change execPriTimeout tag index s = _
  rw [execPriTimeout, held]
  exact if_neg (by simp [host, untold])

/-! ### Walks, moves and frames -/

theorem exec_pageWalk {s : State} {cache : Nat} {tag : BitVec 8} {va : BitVec 64} {access : BitVec 2} {k : PageWalk}
    (live : walkFor s cache tag va access = some k) : exec (.pageWalk cache tag va access) s = .next (stepWalk k s) := by
  change execPageWalk cache tag va access s = _
  rw [execPageWalk, live]

/-- A walk in the queue waits while its floor has 64 being read. -/
theorem stepWalk_queued_full {s : State} {k : PageWalk} (queued : k.stage = .queued)
    (full : 64 ≤ (s.walks.filter (fun x => x.reads && x.cache.floor == k.cache.floor)).length) : stepWalk k s = s := by
  rw [stepWalk, queued]
  exact if_pos full

/-- PAGE_MOVE of a small page of an active context to a frame not retired begins the move. -/
theorem exec_pageMove_begins {s : State} {tag : BitVec 8} {va : BitVec 64} {tier : Bool} {frame : Nat} {leaf : W64} {entry : Nat}
    (unmoved : moveOf s tag va = none) (good : isRetired s tier frame = false) (active : (s.context tag).active = true)
    (mapped : walk s (s.context tag) va Access.read = .ok leaf entry false) :
    exec (.pageMove tag va tier frame) s = .next (startMove ⟨tag, va, leaf, entry, tier, frame⟩ s) := by
  change execPageMove tag va tier frame s = _
  rw [execPageMove, unmoved]
  refine (if_neg (by simp [good, active])).trans ?_
  rw [mapped]
  rfl

/-- PAGE_MOVE of a page under way, with no access to the old frame outstanding, ends the move. -/
theorem exec_pageMove_ends {s : State} {tag : BitVec 8} {va : BitVec 64} (tier : Bool) (frame : Nat) {m : PageMove}
    (moving : moveOf s tag va = some m) (done : ∀ x ∈ translatedBy 0 tag va s, outstanding s x = false) :
    exec (.pageMove tag va tier frame) s = .next (finishMove m s) := by
  change execPageMove tag va tier frame s = _
  rw [execPageMove, moving]
  exact congrArg Host.Outcome.next (if_neg (by simpa using done))

/-- With one outstanding it waits. -/
theorem exec_pageMove_waits {s : State} {tag : BitVec 8} {va : BitVec 64} (tier : Bool) (frame : Nat) {m : PageMove}
    (moving : moveOf s tag va = some m) (waits : ∃ x ∈ translatedBy 0 tag va s, outstanding s x = true) :
    exec (.pageMove tag va tier frame) s = .next s := by
  change execPageMove tag va tier frame s = _
  rw [execPageMove, moving]
  exact congrArg Host.Outcome.next (if_pos (by simpa using waits))

/-- FRAME_RETIRE of a frame free of accesses retires it. -/
theorem exec_frameRetire_free {s : State} {tier : Bool} {frame : Nat} (reason : BitVec 8) (owner : Option (BitVec 8))
    (free : frameInUse s (frameLoc tier frame) [] = false) : exec (.frameRetire tier frame (reason, owner)) s =
      .next (retireFrame tier frame reason owner s) :=
  (if_neg (by simp [free]) : execFrameRetire tier frame (reason, owner) s = _)

/-- FRAME_RETIRE of a frame with an access outstanding waits. -/
theorem exec_frameRetire_used {s : State} {tier : Bool} {frame : Nat} (reason : BitVec 8) (owner : Option (BitVec 8))
    (used : frameInUse s (frameLoc tier frame) [] = true) : exec (.frameRetire tier frame (reason, owner)) s =
      .next (park (.frameRetire tier frame (reason, owner)) s) :=
  (if_pos used : execFrameRetire tier frame (reason, owner) s = _)

/-- Settles O42: each step is its function at the case the clause names; a record closed stays closed because the stores its closing lets
through only add records (`storesKeep_consumeRecords`). -/
theorem faultSteps : Obligations.FaultSteps := by
  unfold Obligations.FaultSteps
  refine ⟨fun s tag index f held => ⟨rfl, rfl, ?_, ?_, ?_⟩, fun s tag index f held => ⟨?_, ?_, ?_, ?_⟩, ?_, ?_, ?_, ?_⟩
  · exact exec_priResponse held
  · exact exec_eventRingDenyTimeout held
  · exact exec_priTimeout held
  · exact openFault_closeRecord held
  · exact resolveRetry_of_open held
  · exact resolveDeny_of_open held
  · exact fun w i mask => Wave.denied_trmask
  · exact fun s cache tag va access k => exec_pageWalk
  · exact fun s k => stepWalk_queued_full
  · exact fun s tag va tier frame => ⟨fun leaf entry => exec_pageMove_begins, fun m => exec_pageMove_ends tier frame,
      fun m => exec_pageMove_waits tier frame⟩
  · exact fun s tier frame reason owner => ⟨exec_frameRetire_free reason owner, exec_frameRetire_used reason owner⟩

end Sys2Proof.Machine
end

section
/-! Teams stopped, saved, sealed and restored (R292 to R295, R298). -/

namespace Sys2Proof.Machine

open Sys2Proof.Safety

/-! ### The table of teams -/

/-- What leaves the tables leaves the teams. -/
theorem teams_of_tables {s t : State} (same : t.tables = s.tables) : t.teams = s.teams := congrArg Prod.fst same

theorem find_mapEntries {α : Type} (f : Nat → α → α) (m : SMap α) (i : Nat) : find (mapEntries f m) i = (find m i).map (f i) := by
  induction m with
  | nil => rfl
  | cons e m ih =>
    obtain ⟨k, x⟩ := e
    by_cases here : k = i
    · simp [mapEntries, find, here]
    · simpa [mapEntries, find, here] using ih

@[simp] theorem State.setWave_teams (s : State) (k : Nat) (w : Wave) : (s.setWave k w).teams = s.teams :=
  teams_of_tables (State.setWave_tables s k w)

@[simp] theorem moveWave_teams (old new : Nat) (w : Wave) (s : State) : (moveWave old new w s).teams = s.teams := by simp [moveWave]

/-! ### Stopping (R292, R293) -/

/-- A blocked wave of a team that is stopped loses its slot where it stands. -/
def stopBlocked (s : State) (e : Nat × Wave) : State :=
  if e.2.hold != .none && e.2.pend.isNone then
    { s.setWave e.1 { e.2 with halted := true } with holders := freeSlots e.2 s.holders }
  else s

theorem stopBlocked_teams (s : State) (e : Nat × Wave) : (stopBlocked s e).teams = s.teams := by
  unfold stopBlocked
  split
  · exact State.setWave_teams _ _ _
  · rfl

theorem stopBlocked_mem (s : State) (e : Nat × Wave) : (stopBlocked s e).mem = s.mem := by
  unfold stopBlocked
  split
  · exact State.setWave_mem _ _ _
  · rfl

/-- PREEMPTION_REQUEST of a team for whose block there is room, or whose context is being deactivated, makes it halting. -/
theorem exec_preemptionRequest_halts {s : State} {team : Nat} {t : Team} {l : Launch} (held : find s.teams team = some t)
    (launch : find s.launches t.launch = some l) (running : t.halting = false) (unsaved : t.saved = false)
    (room : roomBeside s l.env.tag [] (blockUnits l.demand) = true ∨ (s.context l.env.tag).closing = true) :
    ∃ s', exec (.preemptionRequest team) s = .next s' ∧ find s'.teams team = some { t with halting := true } ∧ SameMemory s s' := by
  let marked : State := { s with teams := change (fun t => { t with halting := true }) s.teams team }
  have stopped : exec (.preemptionRequest team) s = .next ((teamWaves marked team).foldl stopBlocked marked) := by
    change execPreemptionRequest team s = _
    simp only [execPreemptionRequest, held, launch]
    exact if_neg (by rcases room with room | closing <;> simp [*])
  refine ⟨_, stopped, ?_, fun loc => ?_⟩
  · rw [foldl_keeps (field := State.teams) stopBlocked_teams]
    exact (find_change _ _ _).trans (congrArg (Option.map _) held)
  · rw [foldl_keeps (field := State.mem) stopBlocked_mem]

/-! ### Units of a save area (R294, R295, R341) -/

/-- A block whose units can be written, their lines free, is written. -/
theorem withUnits_ready {s : State} {l : Launch} {block : Nat × Nat} (team : Nat) (k : State → State)
    (mapped : unitFaults s l.env.tag block Access.write = []) (free : unitsHeld s l.env.tag block = []) :
    withUnits team l block k s = k s := by
  simp [withUnits, mapped, free]

/-- A block some unit of which cannot be written waits for the records of what its Spindle meets. -/
theorem withUnits_faults {s : State} {l : Launch} {block : Nat × Nat} (team : Nat) (k : State → State)
    (unmapped : unitFaults s l.env.tag block Access.write ≠ []) : withUnits team l block k s =
      engineFault 3 (s.wave (((teamWaves s team).map (·.1)).headD 0)) 0 Access.write (unitFaults s l.env.tag block Access.write) s := by
  unfold withUnits
  dsimp only
  split
  · contradiction
  · rfl

/-- A block whose units can be read and hold no poison is read. -/
theorem readBlock_ready {s : State} {t : Team} {l : Launch} (team : Nat) (k : State → Result)
    (mapped : unitFaults s l.env.tag t.block Access.read = []) (clean : blockPoison s l.env.tag t = none) :
    readBlock team t l k s = k s := by
  simp [readBlock, mapped, clean]

/-- Poison of a block is consumed. -/
theorem readBlock_poisoned {s : State} {t : Team} {l : Launch} {va : W64} (team : Nat) (k : State → Result)
    (mapped : unitFaults s l.env.tag t.block Access.read = []) (poisoned : blockPoison s l.env.tag t = some va) :
    readBlock team t l k s =
      .next (engineStop (((teamWaves s team).map (·.1)).headD 0) t.launch 3 Access.read Cause.poison va 0 s) := by
  simp [readBlock, mapped, poisoned]

/-- A block some unit of which cannot be read waits for the records of what its Spindle meets. -/
theorem readBlock_faults {s : State} {t : Team} {l : Launch} (team : Nat) (k : State → Result)
    (unmapped : unitFaults s l.env.tag t.block Access.read ≠ []) : readBlock team t l k s =
      .next (engineFault 3 (s.wave (((teamWaves s team).map (·.1)).headD 0)) 0 Access.read (unitFaults s l.env.tag t.block Access.read) s) := by
  unfold readBlock
  dsimp only
  split
  · contradiction
  · rfl

/-! ### Saving and sealing (R294) -/

/-- TEAM_SAVE of a halting team whose waves are at rest or trapped halts it, and saves it once it is quiet. -/
theorem exec_teamSave_halting {s : State} {team : Nat} {t : Team} {l : Launch} (held : find s.teams team = some t)
    (launch : find s.launches t.launch = some l) (halting : t.halting = true) (unsaved : t.saved = false) (going : l.stopCause = none)
    (rest : ∀ e ∈ teamWaves s team, e.2.atRest = true ∨ e.2.pend.isSome = true) :
    exec (.teamSave team) s =
      if !teamQuiet (haltTeam team s) team then .next (haltTeam team s)
      else match freeUnits (haltTeam team s) l.env.tag (blockUnits l.demand) with
        | none => .next (if ((haltTeam team s).context l.env.tag).closing then leaveUnsaved team (haltTeam team s) else haltTeam team s)
        | some unit => .next (withUnits team l (unit, blockUnits l.demand) (saveTeam team unit l) (haltTeam team s)) := by
  have resting : (teamWaves s team).all (fun e => e.2.atRest || e.2.pend.isSome) = true :=
    List.all_eq_true.2 (fun e member => (Bool.or_eq_true _ _).symm ▸ rest e member)
  change execTeamSave team s = _
  simp only [execTeamSave, held, launch]
  exact (if_neg (by simp [halting, unsaved, going, resting])).trans rfl

/-- What is in the image with the last result: the team's block sealed. -/
def sealIfSettled (team : Nat) (s : State) : State :=
  if (teamWaves s team).all (fun e => e.2.settled) then
    { s with teams := change (fun t => { t with sealed := true }) s.teams team, agenda := s.agenda ++ [Instr.teamPlacement] }
  else s

/-- SAVE_SEAL of a saved team writes its block once its units can be written. -/
theorem exec_saveSeal_saved {s : State} {team : Nat} {t : Team} {l : Launch} (held : find s.teams team = some t)
    (launch : find s.launches t.launch = some l) (saved : t.saved = true) (unsealed : t.sealed = false) :
    exec (.saveSeal team) s = .next (withUnits team l t.block (fun s => writeBlock team (sealIfSettled team s)) s) := by
  change execSaveSeal team s = _
  simp only [execSaveSeal, held, launch]
  exact if_neg (by simp [saved, unsealed])

theorem sealIfSettled_settled {s : State} {team : Nat} {t : Team} (held : find s.teams team = some t)
    (done : ∀ e ∈ teamWaves s team, e.2.settled = true) :
    find (sealIfSettled team s).teams team = some { t with sealed := true } ∧
      (sealIfSettled team s).agenda = s.agenda ++ [Instr.teamPlacement] := by
  rw [sealIfSettled, if_pos (List.all_eq_true.2 done)]
  exact ⟨(find_change _ _ _).trans (congrArg (Option.map _) held), rfl⟩

theorem sealIfSettled_unsettled {s : State} {team : Nat} (waits : ∃ e ∈ teamWaves s team, e.2.settled = false) :
    sealIfSettled team s = s := if_neg (by simpa using waits)

/-! ### A team stays in the table while it is restored (R298) -/

theorem writeUnits_teams (tag : BitVec 8) (touched : List Nat) (s : State) : (writeUnits tag touched s).teams = s.teams :=
  (foldl_keeps (field := State.teams) (fun _ _ => (storesKeep_flushStores tag _ _).teams) _ _).trans (storesKeep_flushStores tag _ _).teams

theorem freeBlock_listed {s : State} {team : Nat} (listed : (find s.teams team).isSome) :
    (find (freeBlock team s).teams team).isSome := by
  unfold freeBlock
  split
  · exact listed
  · next t held =>
    split
    · exact listed
    · dsimp only
      split
      · rw [writeUnits_teams, find_change, held]; rfl
      · rw [find_change, held]; rfl

theorem wakeCore_teams (core : Nat) (s : State) : (wakeCore core s).teams = s.teams := by
  unfold wakeCore
  split <;> rfl

theorem wakeCores_teams (core : Nat) (twin : Bool) (s : State) : (wakeCores core twin s).teams = s.teams := by
  unfold wakeCores
  split
  · exact (wakeCore_teams _ _).trans (wakeCore_teams _ _)
  · exact wakeCore_teams _ _

theorem dropScratchTiles_teams (team whorl : Nat) (s : State) : (dropScratchTiles team whorl s).teams = s.teams :=
  teams_of_tables ((foldl_keeps (fun _ _ => evictTile_tables _ _ _) _ _).trans (State.onWhorl_tables _ _ _))

theorem rekey_listed {s : State} {team : Nat} (moves : List (Nat × Nat)) (listed : (find s.teams team).isSome) :
    (find (rekey moves s).teams team).isSome := by
  obtain ⟨t, held⟩ := Option.isSome_iff_exists.1 listed
  unfold rekey
  dsimp only
  rw [find_mapEntries]
  exact Option.isSome_map.trans listed

/-- A saved wave goes to its place on a core, the move noted. -/
def placeSaved (core : Nat) (r : State × List (Nat × Nat)) (e : Nat × Wave) : State × List (Nat × Nat) :=
  (moveWave e.1 (restoredForm r.1 core e.2).key (restoredForm r.1 core e.2) r.1, r.2 ++ [(e.1, (restoredForm r.1 core e.2).key)])

/-- A saved command re-enters the Spindle of its wave's core. -/
def reenter (s : State) (c : SpindleCmd) : State := s.onCore (s.wave c.wave).core (fun x => { x with spindle := x.spindle ++ [c] })

/-- A team's waves, as its block holds them, and its commands on another core, its block freed: all of a restore but the team's own entry. -/
def rehouse (team core : Nat) (t : Team) (l : Launch) (s : State) : State :=
  let waves := (teamWaves s team).map (fun e => (e.1, fromBlock s l.env.tag t.block.1 l.demand e.2))
  let left := if t.core / 24 = core / 24 then s else dropScratchTiles team (t.core / 24) s
  let r := waves.foldl (placeSaved core) (wakeCores core t.twin (freeBlock team left), [])
  let moved := rekey r.2 r.1
  (match find moved.teams team with | some t => t.commands | none => []).foldl reenter moved

theorem rehouse_listed {s : State} {team : Nat} (core : Nat) (t : Team) (l : Launch) (listed : (find s.teams team).isSome) :
    (find (rehouse team core t l s).teams team).isSome := by
  unfold rehouse
  extract_lets waves left r moved
  have departed : (find left.teams team).isSome := by
    unfold left
    split
    · exact listed
    · rwa [dropScratchTiles_teams]
  have placed : (find r.1.teams team).isSome := by
    have same : r.1.teams = (wakeCores core t.twin (freeBlock team left)).teams :=
      foldl_keeps (field := fun r : State × List (Nat × Nat) => r.1.teams) (fun _ _ => moveWave_teams _ _ _ _) _ _
    rw [same, wakeCores_teams]
    exact freeBlock_listed departed
  have entered : ∀ cs : List SpindleCmd, (cs.foldl reenter moved).teams = moved.teams :=
    fun cs => foldl_keeps (field := State.teams) (f := reenter) (fun _ _ => rfl) cs moved
  rw [entered]
  exact rekey_listed r.2 placed

/-- A team's entry once it is restored. -/
def Team.restored (core age : Nat) (barriers : SMap Barrier) (t : Team) : Team :=
  { t with core := core, halting := false, saved := false, sealed := false, commands := [], age := age, stopped := none, barriers := barriers }

/-- What a restore leaves, once its block can be read. -/
def restoreTeam (team core : Nat) (t : Team) (l : Launch) (s : State) : State :=
  let moved := rehouse team core t l s
  { moved with teams := change (Team.restored core moved.cycle (barriersFrom s l.env.tag t.block.1 t)) moved.teams team }

/-- TEAM_RESTORE of a sealed team on a core of its partition where it fits reads its block and restores it. -/
theorem exec_teamRestore_fits {s : State} {team core : Nat} {t : Team} {l : Launch} (held : find s.teams team = some t)
    (launch : find s.launches t.launch = some l) (saved : t.saved = true) (isSealed : t.sealed = true)
    (spot : core ∈ spots s l.env.part.toNat l.demand) (fits : fitsWithout s [] l.demand core = true) :
    exec (.teamRestore team core) s = readBlock team t l (fun s => .next (restoreTeam team core t l s)) s := by
  change execTeamRestore team core s = _
  simp only [execTeamRestore, held, launch]
  exact (if_neg (by simp [saved, isSealed, spot, fits])).trans rfl

/-- A restored team is neither saved nor halting on its core, with the barriers its block holds. -/
theorem restoreTeam_team {s : State} {team : Nat} (core : Nat) {t : Team} (l : Launch) (held : find s.teams team = some t) :
    ∃ t', find (restoreTeam team core t l s).teams team = some t' ∧ t'.core = core ∧ t'.saved = false ∧ t'.halting = false ∧
      t'.commands = [] ∧ t'.barriers = barriersFrom s l.env.tag t.block.1 t := by
  obtain ⟨u, stands⟩ := Option.isSome_iff_exists.1 (rehouse_listed core t l (Option.isSome_iff_exists.2 ⟨t, held⟩))
  exact ⟨_, (find_change _ _ _).trans (congrArg (Option.map _) stands), rfl, rfl, rfl, rfl, rfl⟩

/-- Settles O46: each step at the case the clause names; a team keeps its entry through its restore (`rehouse_listed`). -/
theorem preemptionSteps : Obligations.PreemptionSteps := by
  unfold Obligations.PreemptionSteps
  intro s team t l held launch
  refine ⟨exec_preemptionRequest_halts held launch, fun halting unsaved going rest => ?_, fun saved unsealed mapped free => ?_,
    fun saved unsealed unmapped => ?_, fun core saved isSealed spot fits => ?_⟩
  · rw [exec_teamSave_halting held launch halting unsaved going rest]
    exact ⟨fun busy => if_pos (by simp [busy]), fun quiet unit free => by simp [quiet, free],
      fun quiet full closing => by simp [quiet, full, closing]⟩
  · rw [exec_saveSeal_saved held launch saved unsealed, withUnits_ready team _ mapped free]
    exact ⟨fun done => ⟨sealIfSettled team s, rfl, sealIfSettled_settled held done⟩, fun waits => by rw [sealIfSettled_unsettled waits]⟩
  · rw [exec_saveSeal_saved held launch saved unsealed, withUnits_faults team _ unmapped]
  · rw [exec_teamRestore_fits held launch saved isSealed spot fits]
    refine ⟨fun mapped clean => ?_, fun mapped va => readBlock_poisoned team _ mapped, readBlock_faults team _⟩
    obtain ⟨t', stands⟩ := restoreTeam_team core l held
    exact ⟨_, t', readBlock_ready team _ mapped clean, stands⟩

end Sys2Proof.Machine
end
